-- ==== Sys2Proof/Word.lean ====
section
/-! DEFINITION. The word types of the BX-6400 (spec/00 R8: little-endian bytes, 32-bit registers) and the
sparse table, the one shape in which the model holds everything that is indexed. -/

namespace Sys2Proof

/-- One byte of memory (spec/00 R8). -/
abbrev Byte := BitVec 8

/-- One 32-bit register word (spec/13 R324: BAR0 takes 32-bit accesses). -/
abbrev Word := BitVec 32

/-- One 64-bit address, descriptor field or record word (spec/01 R17). -/
abbrev DWord := BitVec 64

/-- A sparse table: pairs of a key and a value, keys strictly rising, no pair holding what an unlisted key
reads as (the default is given where the table is read). Equal contents are then equal lists. -/
abbrev Tab (α : Type) := List (Nat × α)

end Sys2Proof
end

