-- ==== Sys2Proof/Syntax.lean ====
section
/-! DEFINITION. The commands the BX-6400 takes, one constructor per row of the table of operations and events
(spec/95, spec/13 Table 13.3 for the ops), with what each carries. -/

namespace Sys2Proof

/-- The 8-byte descriptor header without its opcode (spec/13 Table 13.1). -/
structure Hdr where
  (txn depTag flags stream : Nat)
  deriving DecidableEq, Repr

/-- The body of COPY (spec/13 Table 13.4). -/
structure CopyBody where
  (src dst cmp bytes pitch mask flags : Nat)
  deriving DecidableEq, Repr

/-- The body of FILL (spec/13 R340). -/
structure FillBody where
  (dst bytes pattern mask : Nat)
  deriving DecidableEq, Repr

/-- The body of GEMM, GEMM_SP and GEMM_TALL (spec/03 Table 3.7). -/
structure GemmBody where
  (a b d aux m aFmt n bFmt k dFmt mask numCtl flags outTensor layer slices margin : Nat)
  deriving DecidableEq, Repr

/-- The body of SPSP_INTERSECT (spec/05 Table 5.6). -/
structure SpspBody where
  (xRec yRec pair out pairs numCtl flags mask count matchCap : Nat)
  deriving DecidableEq, Repr

/-- The body of ELEM and ROWRED (spec/04 Table 4.11). -/
structure ElemBody where
  (prog stream rowRes rows rowLen mask numCtl flags outTensor layer progLen prog2Len tapCfg tapCfg2 : Nat)
  deriving DecidableEq, Repr

/-- The body of SAMPLE (spec/06 Table 6.10a). -/
structure SampleBody where
  (graph seed pr seeds sampleId fanout hops flags mask prCap span : Nat)
  deriving DecidableEq, Repr

/-- The body of GATHER (spec/06 Table 6.10b). -/
structure GatherBody where
  (src feat dst arg count rowBytes mask flags sel roundRows windowReq argFmt : Nat)
  deriving DecidableEq, Repr

/-- The body of SCATTER (spec/06 Table 6.10c). -/
structure ScatterBody where
  (src idx dst arg count rowBytes mask flags hop numCtl fmts roundRows outTensor exch : Nat)
  deriving DecidableEq, Repr

/-- The body of EMB_BAG (spec/07 Table 7.4). -/
structure EmbBagBody where
  (bagRec out outTensor table outFmt numCtl flags mask layer roundRows : Nat)
  deriving DecidableEq, Repr

/-- The body of EMB_GRAD (spec/07 Table 7.5). -/
structure EmbGradBody where
  (bagRec dy gradA gradB red outTensor table dyFmt numCtl flags mask exch roundRows : Nat)
  deriving DecidableEq, Repr

/-- The body of REDUCE_GRAD (spec/09 Table 9.6). -/
structure ReduceGradBody where
  (group src step srcElems srcOffset limit flags : Nat)
  deriving DecidableEq, Repr

/-- The body of PARAM_PUBLISH (spec/09 Table 9.7). -/
structure PublishBody where
  (recv step sliceFirst sliceCount limit : Nat)
  deriving DecidableEq, Repr

/-- The body of UPDATE (spec/08 Table 8.8). -/
structure UpdateBody where
  (master m v hp red elems sliceFirst sliceCount step momFmt flags layer : Nat)
  deriving DecidableEq, Repr

/-- The body of TXN_BEGIN (spec/08 R223). -/
structure TxnBeginBody where
  (journalLimit : Nat)
  deriving DecidableEq, Repr

/-- The body of STEP_COMMIT (spec/08 Table 8.10). -/
structure StepCommitBody where
  (step voter gateLimit commitLimit : Nat)
  deriving DecidableEq, Repr

/-- The body of WAIT (spec/13 Table 13.5). -/
structure WaitBody where
  (addr value mask limit cond : Nat)
  deriving DecidableEq, Repr

/-- The body of SIGNAL (spec/13 R342). -/
structure SignalBody where
  (addr value sop : Nat)
  deriving DecidableEq, Repr

/-- The body of TIMER (spec/13 R343). -/
structure TimerBody where
  (time tmode : Nat)
  deriving DecidableEq, Repr

/-- The body of CKPT_PUSH (spec/15 Table 15.7). -/
structure CkptPushBody where
  (rangeAddr region localRegion regionBytes ranges flags limit mask : Nat)
  deriving DecidableEq, Repr

/-- The body of CKPT_PULL (spec/15 Table 15.7). -/
structure CkptPullBody where
  (region step count flags regionBytes limit mask : Nat)
  deriving DecidableEq, Repr

/-- The body of ASSUME_ID (spec/15 Table 15.7). -/
structure AssumeIdBody where
  (chip job : Nat)
  deriving DecidableEq, Repr

/-- The body of a descriptor, by opcode (spec/13 Table 13.3); an opcode outside the table is refused (R331). -/
inductive OpBody where
  | copy (b : CopyBody)
  | fill (b : FillBody)
  | gemm (b : GemmBody)
  | gemmSp (b : GemmBody)
  | gemmTall (b : GemmBody)
  | spspIntersect (b : SpspBody)
  | elem (b : ElemBody)
  | rowred (b : ElemBody)
  | sample (b : SampleBody)
  | gather (b : GatherBody)
  | scatter (b : ScatterBody)
  | embBag (b : EmbBagBody)
  | embGrad (b : EmbGradBody)
  | reduceGrad (b : ReduceGradBody)
  | paramPublish (b : PublishBody)
  | update (b : UpdateBody)
  | txnBegin (b : TxnBeginBody)
  | txnCommit
  | txnAbort
  | stepCommit (b : StepCommitBody)
  | wait (b : WaitBody)
  | signal (b : SignalBody)
  | timer (b : TimerBody)
  | ckptPush (b : CkptPushBody)
  | ckptPull (b : CkptPullBody)
  | assumeId (b : AssumeIdBody)
  | nop
  | unknown (code : Nat)
  deriving DecidableEq, Repr

/-- Who asked for a grain of memory (spec/11 R287). -/
inductive Accessor where
  /-- The op holding this stream reads. -/
  | opRead (stream : Nat)
  /-- The op holding this stream writes. -/
  | opWrite (stream : Nat)
  /-- A remote row is read for a READ batch. -/
  | remote
  /-- A journal grain is read during a copy; the address is the journal grain's. -/
  | journalRead
  /-- A journal copy writes its target. -/
  | journalWrite
  /-- The host reads through BAR2. -/
  | bar2Read
  /-- The host writes through BAR2. -/
  | bar2Write
  /-- A WRITE, an ATOMIC or a publication from another chip is written. -/
  | remoteWrite
  /-- A retained copy of a contribution is read for a sum. -/
  | retained
  deriving DecidableEq, Repr

/-- The packet header of spec/12 Table 12.3; LEN is the payload's. -/
structure PktHdr where
  (dst src job kind rflags len hops fseq offset stamp tag pack : Nat)
  deriving DecidableEq, Repr

/-- One row of a READ batch (spec/06 R151, spec/07 R171, R173): its offset on the owner, its bytes, the versions the
request carries and the positions that name it. -/
structure RowReq where
  (off bytes : Nat)
  /-- Parameter version, when the request carries one. -/
  pver : Option Nat := none
  /-- Table ID and table version, when the request carries them, and the stored row. -/
  table : Option (Nat × Nat × Nat) := none
  count : Nat := 1
  deriving DecidableEq, Repr

/-- One row of a READ_REPLY (spec/06 R151): the wire code (0 OK, 1 REFUSED, 2 RANGE, 3 FAILED) and the bytes. -/
structure RowReply where
  code : Nat
  bytes : List Byte
  deriving DecidableEq, Repr

/-- A REDUCE packet (spec/06 R156): contributions of one exchange, or the end marker. -/
structure ReduceBatch where
  (exch combine init : Nat)
  marker : Bool
  /-- Destination offset on the owner and the bytes of its lanes in the destination format. -/
  rows : List (Nat × List Byte)
  deriving DecidableEq, Repr

/-- The collective packet header (spec/09 Table 9.3). -/
structure CollHdr where
  (group tile pass half pflags : Nat)
  (e f : Int)
  step : Nat
  deriving DecidableEq, Repr

/-- A vote on the road (spec/08 R218, R220): a voter's bit, or the result with the flip tick. -/
structure VoteMsg where
  step : Nat
  /-- The commit round, or the gate. -/
  commit : Bool
  /-- A round's result, or one voter's bit on its way to the root. -/
  result : Bool
  good : Bool
  causes : Nat
  flipTick : Nat
  deriving DecidableEq, Repr

/-- A HELLO packet (spec/12 R314): the first one carries a nonce, the answer every field. -/
structure HelloMsg where
  answer : Bool
  (nonce echo : List Byte)
  (domain chip mode link lc : Nat)
  (cert sig : List Byte)
  deriving DecidableEq, Repr

/-- A TIME_SYNC packet (spec/12 R319): a request, its stamped answer, or the leader's broadcast. Times in 1/16 kt. -/
inductive SyncMsg where
  | request (t1 : Int)
  /-- The answer: when the request was sent, when it came, and when the answer was sent. -/
  | answer (t1 t2 t3 : Int)
  | apply (offset : Int) (rateNum rateDen : Nat)
  deriving DecidableEq, Repr

/-- A MGMT packet (spec/12 R311): a read or a write of the mirror at a BAR0 offset. -/
structure MgmtMsg where
  write : Bool
  off : Nat
  value : Word
  deriving DecidableEq, Repr

/-- What a packet carries (spec/12 Table 12.4). The spec gives the bytes of COLL and E2E_ACK payloads and the fields
of the others (log entry 15). -/
inductive Payload where
  | read (rows : List RowReq)
  | readReply (rows : List RowReply)
  | write (data : List Byte)
  | publish (slice step size off : Nat) (data : List Byte)
  | pubReply (slice step : Nat) (refused : Bool)
  | atomic (sop value : Nat)
  | reduce (b : ReduceBatch)
  | coll (kind : Nat) (c : CollHdr) (width : Nat) (sums : List Int)
  | vote (v : VoteMsg)
  | e2eAck (bitmap : List Byte)
  | hello (m : HelloMsg)
  | timeSync (m : SyncMsg)
  | mgmt (m : MgmtMsg)
  | mgmtReply (value : Word)
  | phase (rec : List Byte)
  | raw (data : List Byte)
  deriving DecidableEq, Repr

/-- A reading of a channel's package temperature, in °C (spec/11 R278). -/
structure PkgTemp where
  ch : Fin 128
  temp : Int
  deriving DecidableEq, Repr

/-- How a replayed grain came back (spec/11 R284, R285): good or not, and whether the link's ECC corrected it. -/
structure ReplayedGrain where
  good : Bool
  ecc : Bool
  deriving DecidableEq, Repr

/-- An IDLE or NAK flit: its 256 bytes as received, and whether the FEC decoder passed it (spec/12 R297, R298). -/
structure ControlFlit where
  bytes : List Byte
  fecOk : Bool
  deriving DecidableEq, Repr

/-- The commands, one constructor per row of the table of operations and events, in its order. An op carries the
ring it was handed on from. -/
inductive Instr where
  /-- POWER_ON_RESET (R389): AON_PWROK rises with these levels on STRAP_MODE[2:0]. -/
  | powerOnReset (straps : Fin 8)
  /-- POWER_DOWN_SEQUENCE (R423). -/
  | powerDownSequence
  /-- CHIP_RESET (R389). -/
  | chipReset
  /-- HOST_RESET (R389). -/
  | hostReset
  /-- PERST_DEASSERT (R392). -/
  | perstDeassert
  /-- PCIE_CONFIG_REQUEST (R392). -/
  | pcieConfigRequest
  /-- RAIL_ENABLE (R422). -/
  | railEnable
  /-- RAIL_POWER_GOOD_TIMEOUT (R422). -/
  | railPowerGoodTimeout
  /-- RAIL_POWER_GOOD_LOST (R423): RAIL_PG[rail] falls; `mv` is the voltage recorded. -/
  | railPowerGoodLost (rail : Fin 6) (mv : Nat)
  /-- KREF_LOST (R419). -/
  | krefLost
  /-- KREF_BOOT_TIMEOUT (R392). -/
  | krefBootTimeout
  /-- BOOT_IMAGE_VERIFY (R394): the image loaded from the current slot; [] when the flash does not answer. -/
  | bootImageVerify (belfry : Bool) (image : List Byte)
  /-- STAGE_MEMORY (R391). -/
  | stageMemory
  /-- STAGE_DOME (R391): `volt` mV is the point calibrated at idle. -/
  | stageDome (volt : Nat)
  /-- STAGE_READY (R391). -/
  | stageReady
  /-- DOORBELL_POLL (R327): the doorbell vector as read from host memory. -/
  | doorbellPoll (vector : List Byte)
  /-- DESCRIPTOR_FETCH (R328): the 64-byte descriptors that arrive. -/
  | descriptorFetch (ring : Fin 256) (descs : List (List Byte))
  /-- COPY (R339). -/
  | copy (r : Fin 256) (h : Hdr) (b : CopyBody)
  /-- FILL (R340). -/
  | fill (r : Fin 256) (h : Hdr) (b : FillBody)
  /-- GEMM (R78). -/
  | gemm (r : Fin 256) (h : Hdr) (b : GemmBody)
  /-- GEMM_SP (R73). -/
  | gemmSp (r : Fin 256) (h : Hdr) (b : GemmBody)
  /-- GEMM_TALL (R76). -/
  | gemmTall (r : Fin 256) (h : Hdr) (b : GemmBody)
  /-- SPSP_INTERSECT (R123). -/
  | spspIntersect (r : Fin 256) (h : Hdr) (b : SpspBody)
  /-- ELEM (R93). -/
  | elem (r : Fin 256) (h : Hdr) (b : ElemBody)
  /-- ROWRED (R102). -/
  | rowred (r : Fin 256) (h : Hdr) (b : ElemBody)
  /-- SAMPLE (R137). -/
  | sample (r : Fin 256) (h : Hdr) (b : SampleBody)
  /-- GATHER (R152). -/
  | gather (r : Fin 256) (h : Hdr) (b : GatherBody)
  /-- SCATTER (R155). -/
  | scatter (r : Fin 256) (h : Hdr) (b : ScatterBody)
  /-- EMB_BAG (R168). -/
  | embBag (r : Fin 256) (h : Hdr) (b : EmbBagBody)
  /-- EMB_GRAD (R182). -/
  | embGrad (r : Fin 256) (h : Hdr) (b : EmbGradBody)
  /-- REDUCE_GRAD (R248). -/
  | reduceGrad (r : Fin 256) (h : Hdr) (b : ReduceGradBody)
  /-- PARAM_PUBLISH (R245). -/
  | paramPublish (r : Fin 256) (h : Hdr) (b : PublishBody)
  /-- UPDATE (R222). -/
  | update (r : Fin 256) (h : Hdr) (b : UpdateBody)
  /-- TXN_BEGIN (R207). -/
  | txnBegin (r : Fin 256) (h : Hdr) (b : TxnBeginBody)
  /-- TXN_COMMIT (R211). -/
  | txnCommit (r : Fin 256) (h : Hdr)
  /-- TXN_ABORT (R438). -/
  | txnAbort (r : Fin 256) (h : Hdr)
  /-- STEP_COMMIT (R224). -/
  | stepCommit (r : Fin 256) (h : Hdr) (b : StepCommitBody)
  /-- WAIT (R341). -/
  | wait (r : Fin 256) (h : Hdr) (b : WaitBody)
  /-- SIGNAL (R342). -/
  | signal (r : Fin 256) (h : Hdr) (b : SignalBody)
  /-- TIMER (R343). -/
  | timer (r : Fin 256) (h : Hdr) (b : TimerBody)
  /-- CKPT_PUSH (R383). -/
  | ckptPush (r : Fin 256) (h : Hdr) (b : CkptPushBody)
  /-- CKPT_PULL (R384). -/
  | ckptPull (r : Fin 256) (h : Hdr) (b : CkptPullBody)
  /-- ASSUME_ID (R385). -/
  | assumeId (r : Fin 256) (h : Hdr) (b : AssumeIdBody)
  /-- NOP (R203). -/
  | nop (r : Fin 256) (h : Hdr)
  /-- TIMER_EXPIRY (R343). -/
  | timerExpiry (stream : Nat)
  /-- LIMIT_EXPIRY (R345): the limit of the op's awaited arrival; `latched`: an arrival was latched in the expiry clk. -/
  | limitExpiry (stream : Nat) (latched : Bool)
  /-- COMPLETION (R349). -/
  | completion (stream : Nat)
  /-- HELD_COMPLETION_WRITE (R351). -/
  | heldCompletionWrite (q : Fin 64)
  /-- INTERRUPT_TIME_TRIGGER (R350). -/
  | interruptTimeTrigger (q : Fin 64)
  /-- MSIX_UNMASK (R350). -/
  | msixUnmask (v : Fin 64)
  /-- BAR0_BAD_ACCESS (R324). -/
  | bar0BadAccess (write : Bool)
  /-- BAR2_READ (R290): `len` bytes at aperture offset `a`. -/
  | bar2Read (a len : Nat)
  /-- BAR2_WRITE (R290). -/
  | bar2Write (a : Nat) (data : List Byte)
  /-- HOST_WINDOW_COMPLETION (R291): `ok` false: UR, CA or poisoned. -/
  | hostWindowCompletion (tag : Nat) (ok : Bool) (data : List Byte)
  /-- PCIE_COMPLETION_TIMEOUT (R344). -/
  | pcieCompletionTimeout (tag : Nat)
  /-- RING_CFG_WRITE (R329). -/
  | ringCfgWrite (r : Fin 256) (v : Word)
  /-- EQ_CFG_WRITE (R352). -/
  | eqCfgWrite (q : Fin 64) (v : Word)
  /-- BAR2_APERTURE_WRITE (R290). -/
  | bar2ApertureWrite (v : Word)
  /-- DOM_NUM_MODE_WRITE (R47). -/
  | domNumModeWrite (v : Word)
  /-- DOM_OWN_CFG_WRITE (R135). -/
  | domOwnCfgWrite (v : Word)
  /-- OWN_TABLE_WRITE (R135). -/
  | ownTableWrite (bank : Fin 2) (entry : Fin 4096) (word : Fin 4) (v : Word)
  /-- DOM_PLAN_CFG_WRITE (R121). -/
  | domPlanCfgWrite (v : Word)
  /-- DOM_EMB_SKETCH_WRITE (R172). -/
  | domEmbSketchWrite (n : Fin 4) (v : Word)
  /-- DOM_EMB_DIR_BASE_WRITE (R187). -/
  | domEmbDirBaseWrite (v : Word)
  /-- DOM_VER_CFG_WRITE (R225): DOM_VER_CFG, or DOM_VER_BASE. -/
  | domVerCfgWrite (cfg : Bool) (v : Word)
  /-- DOM_RED_RETAIN_WRITE (R251): DOM_RED_RETAIN_SIZE, or DOM_RED_RETAIN_BASE. -/
  | domRedRetainWrite (size : Bool) (v : Word)
  /-- LAN_PART_WRITE (R281). -/
  | lanPartWrite (k : Fin 6) (v : Word)
  /-- PARTITION_CUT_COMPLETE (R282). -/
  | partitionCutComplete (k : Fin 6)
  /-- DRM_ILV_CFG_WRITE (R276). -/
  | drmIlvCfgWrite (v : Word)
  /-- PPR_SOFT (R288). -/
  | pprSoft (d : Fin 2) (v : Word)
  /-- PPR_HARD (R288). -/
  | pprHard (d : Fin 2) (v : Word)
  /-- PPR_DONE (R288): 0 done, 1 no resource left, 2 failed. -/
  | pprDone (d : Fin 2) (result : Fin 3)
  /-- GAL_SELF_WRITE (R321). -/
  | galSelfWrite (v : Word)
  /-- GAL_REMAP_WRITE (R309). -/
  | galRemapWrite (chip : Fin 32768) (v : Word)
  /-- SPIRE_SPLIT_WRITE (R308). -/
  | spireSplitWrite (v : Word)
  /-- LINK_EN_WRITE (R313). -/
  | linkEnWrite (l : Fin 96) (en : Bool)
  /-- CLEAR_Q (R312). -/
  | clearQ (l : Fin 96)
  /-- RETRAIN (R313). -/
  | retrain (l : Fin 96)
  /-- CLEAR_LOG (R387). -/
  | clearLog
  /-- RESUME (R377). -/
  | resume
  /-- FIN_RESET_CHIP (R389). -/
  | finResetChip (key : BitVec 16)
  /-- FIN_RESET_COMPUTE (R389). -/
  | finResetCompute (key : BitVec 16)
  /-- ARB_COMMIT (R395). -/
  | arbCommit
  /-- ARB_BURN_DONE (R395). -/
  | arbBurnDone
  /-- ATTESTATION_GO (R398). -/
  | attestationGo
  /-- ATTESTATION_REPORT_DONE (R398). -/
  | attestationReportDone
  /-- M2_EXTEND (R397). -/
  | m2Extend
  /-- FIN_UART_WRITE (R406). -/
  | finUartWrite (v : Word)
  /-- FIN_GPIO_WRITE (R407). -/
  | finGpioWrite (p : Fin 8) (v : Word)
  /-- COMPARATOR_CLAIM (R408). -/
  | comparatorClaim (c : Fin 16) (v : Word)
  /-- COMPARATOR_TICK (R408). -/
  | comparatorTick (c : Fin 16)
  /-- REGISTER_WRITE (R402): a 32-bit write at this BAR0 offset. -/
  | registerWrite (off : Nat) (v : Word)
  /-- CHIME_PERIOD (R355): the 26 sensors in 1/8 °C (none: self-check failed) and the Dome's mean power. -/
  | chimePeriod (sensors : List (Option Int)) (watts : Nat)
  /-- MAINTENANCE_GAP (R364). -/
  | maintenanceGap
  /-- RECALIBRATION_DONE (R364): the lowest VDD_CORE at which every path monitor passes, mV. -/
  | recalibrationDone (volt : Nat)
  /-- PATH_MONITOR_TRIP (R365). -/
  | pathMonitorTrip (b : Fin 16)
  /-- TURRET_POWER_GATE (R361). -/
  | turretPowerGate (slot : Fin 272)
  /-- BELFRY_PLL_STOP (R361). -/
  | belfryPllStop (b : Fin 16)
  /-- BELFRY_WAKE (R361). -/
  | belfryWake (b : Fin 16)
  /-- PER_BANK_REFRESH (R277). -/
  | perBankRefresh (ch : Fin 128)
  /-- SELF_REFRESH_ENTRY (R277). -/
  | selfRefreshEntry (ch : Fin 128)
  /-- SELF_REFRESH_EXIT (R277). -/
  | selfRefreshExit (ch : Fin 128)
  /-- RETRAIN_DUE (R278). -/
  | retrainDue (t : PkgTemp)
  /-- CHANNEL_RETRAIN (R278). -/
  | channelRetrain (ch : Fin 128)
  /-- FORCED_RETRAIN (R278). -/
  | forcedRetrain (ch : Fin 128)
  /-- RETRAIN_COMPLETE (R278). -/
  | retrainComplete (ch : Fin 128)
  /-- GRAIN_REPLAY (R284): the grain at device offset `a`, in this bank and row (bank × 2^18 + row). -/
  | grainReplay (who : Accessor) (a : Nat) (row : Nat) (back : ReplayedGrain)
  /-- BANK_COPY_DONE (R289): the device offsets of the words that failed. -/
  | bankCopyDone (die : Fin 4) (lost : List Nat)
  /-- FAULT_RECORD (R371): the die offers its next record. -/
  | faultRecord (die : Fin 6)
  /-- BUCKET_LEAK (R373). -/
  | bucketLeak (src kind : Nat)
  /-- SIGNAL_DETECT (R313). -/
  | signalDetect (l : Fin 96)
  /-- TRAINING_LOCK (R313). -/
  | trainingLock (l : Fin 96)
  /-- TRAINING_TIMEOUT (R313). -/
  | trainingTimeout (l : Fin 96)
  /-- LOSS_OF_SIGNAL (R436). -/
  | lossOfSignal (l : Fin 96)
  /-- HELLO_TIMEOUT (R314). -/
  | helloTimeout (l : Fin 96)
  /-- FAILED_LINK_RETRY (R313). -/
  | failedLinkRetry (l : Fin 96)
  /-- DATA_FLIT (R298): 256 bytes as received. -/
  | dataFlit (l : Fin 96) (flit : List Byte) (fecOk : Bool)
  /-- IDLE_FLIT (R297). -/
  | idleFlit (l : Fin 96) (flit : ControlFlit)
  /-- NAK_FLIT (R298). -/
  | nakFlit (l : Fin 96) (flit : ControlFlit)
  /-- NAK_REPEAT (R298). -/
  | nakRepeat (l : Fin 96)
  /-- RETRY_TIMEOUT (R298). -/
  | retryTimeout (l : Fin 96)
  /-- LINK_ACK_TIMER (R298). -/
  | linkAckTimer (l : Fin 96)
  /-- CREDIT_SILENCE (R315). -/
  | creditSilence (l : Fin 96) (vl : Fin 8)
  /-- LINK_RETRAIN_TIMEOUT (R298). -/
  | linkRetrainTimeout (l : Fin 96)
  /-- PACKET_FORWARD (R305): none: from this device. -/
  | packetForward (l : Option (Fin 96)) (h : PktHdr) (p : Payload)
  /-- PACKET_KIND_RESERVED (R299). -/
  | packetKindReserved (l : Fin 96) (h : PktHdr)
  /-- READ (R151). -/
  | read (l : Fin 96) (h : PktHdr) (rows : List RowReq)
  /-- READ_REPLY (R150). -/
  | readReply (l : Fin 96) (h : PktHdr) (rows : List RowReply)
  /-- WRITE (R310). -/
  | write (l : Fin 96) (h : PktHdr) (data : List Byte)
  /-- PUBLICATION_RECEIVE (R246): `off` bytes into a slice of `size` bytes. -/
  | publicationReceive (l : Fin 96) (h : PktHdr) (slice step size off : Nat) (data : List Byte)
  /-- ATOMIC (R342). -/
  | atomic (l : Fin 96) (h : PktHdr) (sop value : Nat)
  /-- REDUCE (R156). -/
  | reduce (l : Fin 96) (h : PktHdr) (batch : ReduceBatch)
  /-- COLL_DATA (R237). -/
  | collData (l : Fin 96) (h : PktHdr) (c : CollHdr) (sums : List Int)
  /-- COLL_MISS (R238). -/
  | collMiss (l : Fin 96) (h : PktHdr) (c : CollHdr)
  /-- COLL_MARKER (R238). -/
  | collMarker (l : Fin 96) (h : PktHdr) (c : CollHdr)
  /-- COLL_RESTART (R238). -/
  | collRestart (l : Fin 96) (h : PktHdr) (c : CollHdr)
  /-- COLL_PREPASS (R239). -/
  | collPrepass (l : Fin 96) (h : PktHdr) (c : CollHdr)
  /-- COLL_EXP (R240). -/
  | collExp (l : Fin 96) (h : PktHdr) (c : CollHdr)
  /-- COLL_ACK (R243). -/
  | collAck (l : Fin 96) (h : PktHdr) (c : CollHdr)
  /-- VOTE (R218). -/
  | vote (l : Fin 96) (h : PktHdr) (v : VoteMsg)
  /-- E2E_ACK (R301). -/
  | e2eAck (l : Fin 96) (h : PktHdr) (bitmap : List Byte)
  /-- HELLO (R314). -/
  | hello (l : Fin 96) (h : PktHdr) (m : HelloMsg)
  /-- TIME_SYNC (R319). -/
  | timeSync (l : Fin 96) (h : PktHdr) (m : SyncMsg)
  /-- MGMT (R311). -/
  | mgmt (l : Fin 96) (h : PktHdr) (m : MgmtMsg)
  /-- MGMT_REPLY (R311). -/
  | mgmtReply (l : Fin 96) (h : PktHdr) (value : Word)
  /-- PHASE (R266). -/
  | phase (l : Fin 96) (h : PktHdr) (rec : List Byte)
  /-- FLOW_RETRANSMIT (R301). -/
  | flowRetransmit (chip : Nat) (cls : Fin 3) (fseq : Nat)
  /-- FLOW_ACK_TIMER (R301). -/
  | flowAckTimer (chip : Nat) (cls : Fin 3)
  /-- FLOW_CONTEXT_FILL (R302). -/
  | flowContextFill (chip : Nat) (cls : Fin 3)
  /-- TIME_SYNC_INTERVAL (R319). -/
  | timeSyncInterval
  /-- TIME_STALE (R320). -/
  | timeStale
  /-- TILE_START (R190). -/
  | tileStart (t : Fin 256)
  /-- TILE_COMPLETE (R67). -/
  | tileComplete (t : Fin 256) (buf : Fin 2)
  /-- LATE_FETCH_ARRIVAL (R117). -/
  | lateFetchArrival (t : Fin 256) (buf : Fin 2)
  /-- TILE_LOCALLY_COMPLETE (R237); the group is named by the device offset of its record. -/
  | tileLocallyComplete (group tile step : Nat)
  /-- UPDATE_RUN (R214). -/
  | updateRun (stream : Nat)
  /-- GATE_CAST (R218). -/
  | gateCast (stream : Nat)
  /-- COMMIT_ROUND_CAST (R218). -/
  | commitRoundCast (stream : Nat)
  /-- GATE_LIMIT_EXPIRY (R219). -/
  | gateLimitExpiry (stream : Nat)
  /-- COMMIT_LIMIT_EXPIRY (R219). -/
  | commitLimitExpiry (stream : Nat)
  /-- FLIP_TICK (R220). -/
  | flipTick (stream : Nat)
  /-- JOURNAL_GRANULE_COPY (R211). -/
  | journalGranuleCopy
  /-- STEP_CLOSE (R255). -/
  | stepClose (step : Nat)
  /-- WAMOS_HELP (R401). -/
  | wamosHelp
  /-- WAMOS_ID (R401). -/
  | wamosId
  /-- WAMOS_RD (R401). -/
  | wamosRd (off n : Nat)
  /-- WAMOS_LOG (R401). -/
  | wamosLog (n : Nat)
  /-- WAMOS_CTR (R401). -/
  | wamosCtr
  /-- WAMOS_CHAL (R404). -/
  | wamosChal
  /-- WAMOS_UNLOCK (R403). -/
  | wamosUnlock (token : List Byte)
  /-- WAMOS_LOCK (R404). -/
  | wamosLock
  /-- WAMOS_WR (R401). -/
  | wamosWr (off : Nat) (v : Word)
  /-- WAMOS_BAUD (R401). -/
  | wamosBaud (rate : Nat)
  /-- WAMOS_REPAIR (R379). -/
  | wamosRepair
  /-- WAMOS_REPAIR_DEL (R379). -/
  | wamosRepairDel (i : Nat)
  /-- WAMOS_RESET_CHIP (R389). -/
  | wamosResetChip
  /-- WAMOS_RESET_COMPUTE (R389). -/
  | wamosResetCompute
  /-- WAMOS_LC (R400). -/
  | wamosLc (state : Nat) (token : Option (List Byte))
  /-- UNLOCK_LOCKOUT_END (R404). -/
  | unlockLockoutEnd
  /-- SESSION_EXPIRY (R404). -/
  | sessionExpiry
  /-- SMB_READ_PART (R427). -/
  | smbReadPart
  /-- SMB_READ_STATUS (R427). -/
  | smbReadStatus
  /-- SMB_READ_TEMP (R427). -/
  | smbReadTemp
  /-- SMB_READ_POWER (R427). -/
  | smbReadPower
  /-- SMB_READ_STAGE (R427). -/
  | smbReadStage
  /-- SMB_READ_FAULT (R427). -/
  | smbReadFault
  /-- SMB_ALERT_RESPONSE (R427). -/
  | smbAlertResponse
  /-- SMB_WRITE (R427). -/
  | smbWrite
  /-- EXTEST (R430). -/
  | extest
  /-- IDCODE (R428). -/
  | idcode
  /-- SAMPLE_PRELOAD (R430). -/
  | samplePreload
  /-- CLAMP (R430). -/
  | clamp
  /-- HIGHZ (R430). -/
  | highz
  /-- EXTEST_PULSE (R430). -/
  | extestPulse
  /-- EXTEST_TRAIN (R430). -/
  | extestTrain
  /-- JTAG_SCAN_SELF_TEST (R428): the instruction code, 0x80 to 0xFE. -/
  | jtagScanSelfTest (code : Nat)
  /-- BYPASS (R428). -/
  | bypass
  /-- TEST_LOGIC_RESET (R430). -/
  | testLogicReset
  /-- WAMOS_UNKNOWN_COMMAND (R401). -/
  | wamosUnknownCommand
  /-- MON_RXD_CHARACTER (R401). -/
  | monRxdCharacter (c : Byte)
  /-- LC_BURN_DONE (R400). -/
  | lcBurnDone
  /-- KREF_DETECT (R392). -/
  | krefDetect
  /-- RAIL_POWER_GOOD_RISE (R422). -/
  | railPowerGoodRise (rail : Fin 6)
  /-- PERST_INTERNAL_RELEASE (R422). -/
  | perstInternalRelease
  /-- AVSBUS_ACK_TIMEOUT (R421). -/
  | avsbusAckTimeout
  /-- AVSBUS_VOUT_CHECK (R421): the regulator's reported Vout. -/
  | avsbusVoutCheck (mv : Nat)
  /-- PLL_LOCK_LOST (R372). -/
  | pllLockLost (die unit : Nat)
  /-- UNIT_SELFCHECK_FAIL (R372). -/
  | unitSelfcheckFail (die unit : Nat)
  /-- PCIE_LINK_ERROR (R372). -/
  | pcieLinkError (fatal : Bool)
  deriving DecidableEq, Repr

end Sys2Proof
end

