-- ==== Sys2Proof/WellFormed.lean ====
section
/-! DEFINITION. A command is well-formed when every operand fits what the spec gives it: the bytes of its descriptor
field, the field of its packet header, the length of its record. A smoke test of each check is in Tests/Slice0. -/

namespace Sys2Proof

/-- A number fits `n` bytes. -/
def fits (v n : Nat) : Bool := decide (v < 256 ^ n)

/-- Every field fits its bits of the descriptor header (spec/13 Table 13.1). -/
def Hdr.wf (h : Hdr) : Bool :=
  decide (h.txn < 2 ^ 16) && decide (h.depTag < 2 ^ 16) && decide (h.flags < 2 ^ 10) && decide (h.stream < 2 ^ 14)

/-- Every field fits the bytes of COPY (spec/13 Table 13.4). -/
def CopyBody.wf (b : CopyBody) : Bool :=
  fits b.src 8 && fits b.dst 8 && fits b.cmp 8 && fits b.bytes 8 && fits b.pitch 4 && fits b.mask 2 && fits b.flags 1

/-- Every field fits the bytes of FILL (spec/13 R340). -/
def FillBody.wf (b : FillBody) : Bool :=
  fits b.dst 8 && fits b.bytes 8 && fits b.pattern 8 && fits b.mask 2

/-- Every field fits the bytes of GEMM, GEMM_SP and GEMM_TALL (spec/03 Table 3.7). -/
def GemmBody.wf (b : GemmBody) : Bool :=
  fits b.a 8 && fits b.b 8 && fits b.d 8 && fits b.aux 8 && fits b.m 3 && fits b.aFmt 1 && fits b.n 3 && fits b.bFmt 1 && fits b.k 3 && fits b.dFmt 1 && fits b.mask 2 && fits b.numCtl 1 && fits b.flags 1 && fits b.outTensor 4 && fits b.layer 2 && fits b.slices 1 && fits b.margin 1

/-- Every field fits the bytes of SPSP_INTERSECT (spec/05 Table 5.6). -/
def SpspBody.wf (b : SpspBody) : Bool :=
  fits b.xRec 8 && fits b.yRec 8 && fits b.pair 8 && fits b.out 8 && fits b.pairs 4 && fits b.numCtl 1 && fits b.flags 1 && fits b.mask 2 && fits b.count 8 && fits b.matchCap 4

/-- Every field fits the bytes of ELEM and ROWRED (spec/04 Table 4.11). -/
def ElemBody.wf (b : ElemBody) : Bool :=
  fits b.prog 8 && fits b.stream 8 && fits b.rowRes 8 && fits b.rows 4 && fits b.rowLen 4 && fits b.mask 2 && fits b.numCtl 1 && fits b.flags 1 && fits b.outTensor 4 && fits b.layer 2 && fits b.progLen 1 && fits b.prog2Len 1 && fits b.tapCfg 4 && fits b.tapCfg2 4

/-- Every field fits the bytes of SAMPLE (spec/06 Table 6.10a). -/
def SampleBody.wf (b : SampleBody) : Bool :=
  fits b.graph 8 && fits b.seed 8 && fits b.pr 8 && fits b.seeds 4 && fits b.sampleId 4 && fits b.fanout 8 && fits b.hops 1 && fits b.flags 1 && fits b.mask 2 && fits b.prCap 4 && fits b.span 8

/-- Every field fits the bytes of GATHER (spec/06 Table 6.10b). -/
def GatherBody.wf (b : GatherBody) : Bool :=
  fits b.src 8 && fits b.feat 8 && fits b.dst 8 && fits b.arg 8 && fits b.count 4 && fits b.rowBytes 4 && fits b.mask 2 && fits b.flags 1 && fits b.sel 1 && fits b.roundRows 2 && fits b.windowReq 2 && fits b.argFmt 1

/-- Every field fits the bytes of SCATTER (spec/06 Table 6.10c). -/
def ScatterBody.wf (b : ScatterBody) : Bool :=
  fits b.src 8 && fits b.idx 8 && fits b.dst 8 && fits b.arg 8 && fits b.count 4 && fits b.rowBytes 4 && fits b.mask 2 && fits b.flags 1 && fits b.hop 1 && fits b.numCtl 1 && fits b.fmts 1 && fits b.roundRows 2 && fits b.outTensor 4 && fits b.exch 2

/-- Every field fits the bytes of EMB_BAG (spec/07 Table 7.4). -/
def EmbBagBody.wf (b : EmbBagBody) : Bool :=
  fits b.bagRec 8 && fits b.out 8 && fits b.outTensor 4 && fits b.table 1 && fits b.outFmt 1 && fits b.numCtl 1 && fits b.flags 1 && fits b.mask 2 && fits b.layer 2 && fits b.roundRows 2

/-- Every field fits the bytes of EMB_GRAD (spec/07 Table 7.5). -/
def EmbGradBody.wf (b : EmbGradBody) : Bool :=
  fits b.bagRec 8 && fits b.dy 8 && fits b.gradA 8 && fits b.gradB 8 && fits b.red 8 && fits b.outTensor 4 && fits b.table 1 && fits b.dyFmt 1 && fits b.numCtl 1 && fits b.flags 1 && fits b.mask 2 && fits b.exch 2 && fits b.roundRows 2

/-- Every field fits the bytes of REDUCE_GRAD (spec/09 Table 9.6). -/
def ReduceGradBody.wf (b : ReduceGradBody) : Bool :=
  fits b.group 8 && fits b.src 8 && fits b.step 8 && fits b.srcElems 4 && fits b.srcOffset 4 && fits b.limit 4 && fits b.flags 1

/-- Every field fits the bytes of PARAM_PUBLISH (spec/09 Table 9.7). -/
def PublishBody.wf (b : PublishBody) : Bool :=
  fits b.recv 8 && fits b.step 8 && fits b.sliceFirst 2 && fits b.sliceCount 2 && fits b.limit 4

/-- Every field fits the bytes of UPDATE (spec/08 Table 8.8). -/
def UpdateBody.wf (b : UpdateBody) : Bool :=
  fits b.master 8 && fits b.m 8 && fits b.v 8 && fits b.hp 8 && fits b.red 8 && fits b.elems 4 && fits b.sliceFirst 2 && fits b.sliceCount 2 && fits b.step 4 && fits b.momFmt 1 && fits b.flags 1 && fits b.layer 2

/-- Every field fits the bytes of TXN_BEGIN (spec/08 R223). -/
def TxnBeginBody.wf (b : TxnBeginBody) : Bool :=
  fits b.journalLimit 4

/-- Every field fits the bytes of STEP_COMMIT (spec/08 Table 8.10). -/
def StepCommitBody.wf (b : StepCommitBody) : Bool :=
  fits b.step 8 && fits b.voter 8 && fits b.gateLimit 4 && fits b.commitLimit 4

/-- Every field fits the bytes of WAIT (spec/13 Table 13.5). -/
def WaitBody.wf (b : WaitBody) : Bool :=
  fits b.addr 8 && fits b.value 8 && fits b.mask 8 && fits b.limit 4 && fits b.cond 1

/-- Every field fits the bytes of SIGNAL (spec/13 R342). -/
def SignalBody.wf (b : SignalBody) : Bool :=
  fits b.addr 8 && fits b.value 8 && fits b.sop 1

/-- Every field fits the bytes of TIMER (spec/13 R343). -/
def TimerBody.wf (b : TimerBody) : Bool :=
  fits b.time 8 && fits b.tmode 1

/-- Every field fits the bytes of CKPT_PUSH (spec/15 Table 15.7). -/
def CkptPushBody.wf (b : CkptPushBody) : Bool :=
  fits b.rangeAddr 8 && fits b.region 8 && fits b.localRegion 8 && fits b.regionBytes 8 && fits b.ranges 2 && fits b.flags 1 && fits b.limit 4 && fits b.mask 2

/-- Every field fits the bytes of CKPT_PULL (spec/15 Table 15.7). -/
def CkptPullBody.wf (b : CkptPullBody) : Bool :=
  fits b.region 8 && fits b.step 8 && fits b.count 4 && fits b.flags 1 && fits b.regionBytes 8 && fits b.limit 4 && fits b.mask 2

/-- Every field fits the bytes of ASSUME_ID (spec/15 Table 15.7). -/
def AssumeIdBody.wf (b : AssumeIdBody) : Bool :=
  fits b.chip 2 && fits b.job 2

/-- Every field fits its bytes of the packet header; LEN is at most 4,096 (spec/12 Table 12.3, R299). -/
def PktHdr.wf (h : PktHdr) : Bool :=
  fits h.dst 2 && fits h.src 2 && fits h.job 2 && fits h.kind 1 && fits h.rflags 1 && decide (h.len ≤ 4096) &&
    fits h.hops 1 && fits h.fseq 4 && fits h.offset 6 && fits h.stamp 2 && fits h.tag 4 && fits h.pack 4

/-- A row of a READ batch fits a device offset and a length of at most 4,096 (spec/06 R151). -/
def RowReq.wf (r : RowReq) : Bool :=
  fits r.off 6 && decide (r.bytes ≤ 4096) &&
    (match r.pver with
     | some v => fits v 4
     | none => true) &&
    (match r.table with
     | some (t, v, row) => fits t 1 && fits v 4 && fits row 8
     | none => true)

/-- A row of a READ_REPLY holds one of the four codes (spec/06 R151). -/
def RowReply.wf (r : RowReply) : Bool := decide (r.code ≤ 3) && decide (r.bytes.length ≤ 4096)

/-- An exchange number and destination offsets fit (spec/06 R156). -/
def ReduceBatch.wf (b : ReduceBatch) : Bool :=
  fits b.exch 2 && b.rows.all fun r => fits r.1 6

/-- The collective header's fields fit Table 9.3. -/
def CollHdr.wf (c : CollHdr) : Bool :=
  fits c.group 4 && fits c.tile 4 && fits c.pass 1 && fits c.half 1 && fits c.pflags 1 &&
    decide (-32768 ≤ c.e) && decide (c.e < 32768) && decide (-128 ≤ c.f) && decide (c.f < 128) && fits c.step 8

/-- The step and tick of a vote fit 64 bits. -/
def VoteMsg.wf (v : VoteMsg) : Bool := fits v.step 8 && fits v.causes 2 && fits v.flipTick 8

/-- Nonces are 32 bytes and identities fit (spec/12 R314). -/
def HelloMsg.wf (m : HelloMsg) : Bool :=
  m.nonce.length == 32 && decide (m.echo.length ≤ 32) && fits m.domain 2 && fits m.chip 2 && fits m.mode 1 &&
    fits m.link 1 && fits m.lc 1

/-- A BAR0 offset (spec/12 R311). -/
def MgmtMsg.wf (m : MgmtMsg) : Bool := decide (m.off < 0x4000000)

/-- A descriptor's header and body fit. -/
def opFits (h : Hdr) (body : Bool) : Bool := body && h.wf

/-- The operands of a command fit what the spec gives them; the types of a command in the last group leave nothing to check. -/
def Instr.wf : Instr → Bool
  | .railPowerGoodLost _ mv => fits mv 4
  | .stageDome v | .recalibrationDone v => fits v 2
  | .doorbellPoll v => decide (v.length ≤ 4096)
  | .descriptorFetch _ ds => ds.all fun d => d.length == 64
  | .copy _ h b => opFits h b.wf
  | .fill _ h b => opFits h b.wf
  | .gemm _ h b => opFits h b.wf
  | .gemmSp _ h b => opFits h b.wf
  | .gemmTall _ h b => opFits h b.wf
  | .spspIntersect _ h b => opFits h b.wf
  | .elem _ h b => opFits h b.wf
  | .rowred _ h b => opFits h b.wf
  | .sample _ h b => opFits h b.wf
  | .gather _ h b => opFits h b.wf
  | .scatter _ h b => opFits h b.wf
  | .embBag _ h b => opFits h b.wf
  | .embGrad _ h b => opFits h b.wf
  | .reduceGrad _ h b => opFits h b.wf
  | .paramPublish _ h b => opFits h b.wf
  | .update _ h b => opFits h b.wf
  | .txnBegin _ h b => opFits h b.wf
  | .stepCommit _ h b => opFits h b.wf
  | .wait _ h b => opFits h b.wf
  | .signal _ h b => opFits h b.wf
  | .timer _ h b => opFits h b.wf
  | .ckptPush _ h b => opFits h b.wf
  | .ckptPull _ h b => opFits h b.wf
  | .assumeId _ h b => opFits h b.wf
  | .reduce _ h b => h.wf && b.wf
  | .txnCommit _ h | .txnAbort _ h | .nop _ h => opFits h true
  | .packetForward _ h _ | .packetKindReserved _ h | .timeSync _ h _ | .mgmtReply _ h _ => h.wf
  | .timerExpiry st | .limitExpiry st _ | .completion st | .updateRun st | .gateCast st | .commitRoundCast st |
    .gateLimitExpiry st | .commitLimitExpiry st | .flipTick st => decide (st < 2 ^ 14)
  | .bar2Read a n => decide (a < 2 ^ 36) && decide (n ≤ 4096)
  | .bar2Write a d => decide (a < 2 ^ 36) && decide (d.length ≤ 4096)
  | .hostWindowCompletion _ _ d => decide (d.length ≤ 64)
  | .registerWrite off _ => decide (off < 0x4000000) && off % 4 == 0
  | .chimePeriod sens w => sens.length == 26 && fits w 4
  | .grainReplay _ a row _ => fits a 6 && decide (row < 2 ^ 23)
  | .bankCopyDone _ l => l.all fun a => fits a 6
  | .bucketLeak src k => fits src 2 && fits k 1
  | .dataFlit _ f _ => f.length == 256
  | .idleFlit _ f | .nakFlit _ f => f.bytes.length == 256
  | .read _ h rows => h.wf && rows.all RowReq.wf
  | .readReply _ h rows => h.wf && rows.all RowReply.wf
  | .write _ h d => h.wf && decide (d.length ≤ 4096)
  | .publicationReceive _ h i st sz off d =>
    h.wf && fits i 4 && fits st 8 && fits sz 4 && fits off 4 && decide (d.length ≤ 4096)
  | .atomic _ h sop v => h.wf && fits sop 1 && fits v 8
  | .collData _ h c sums => h.wf && c.wf && decide (sums.length ≤ 512)
  | .collMiss _ h c | .collMarker _ h c | .collRestart _ h c | .collPrepass _ h c | .collExp _ h c |
    .collAck _ h c => h.wf && c.wf
  | .vote _ h v => h.wf && v.wf
  | .e2eAck _ h b => h.wf && decide (b.length ≤ 4096)
  | .hello _ h m | .mgmt _ h m => h.wf && m.wf
  | .phase _ h r => h.wf && r.length == 64
  | .flowRetransmit ch _ f => fits ch 2 && fits f 4
  | .flowAckTimer ch _ | .flowContextFill ch _ => fits ch 2
  | .tileLocallyComplete g t st => fits g 6 && fits t 4 && fits st 8
  | .stepClose st => fits st 8
  | .wamosRd off _ | .wamosWr off _ => decide (off < 0x4000000)
  | .jtagScanSelfTest c => decide (0x80 ≤ c) && decide (c ≤ 0xFE)
  | .avsbusVoutCheck mv => fits mv 2
  | .pllLockLost d u | .unitSelfcheckFail d u => decide (d < 16) && fits u 2
  | .powerOnReset _ | .powerDownSequence | .chipReset | .hostReset | .perstDeassert | .pcieConfigRequest |
    .railEnable | .railPowerGoodTimeout | .krefLost | .krefBootTimeout | .bootImageVerify _ _ | .stageMemory |
    .stageReady | .heldCompletionWrite _ | .interruptTimeTrigger _ | .msixUnmask _ | .bar0BadAccess _ |
    .pcieCompletionTimeout _ | .ringCfgWrite _ _ | .eqCfgWrite _ _ | .bar2ApertureWrite _ | .domNumModeWrite _ |
    .domOwnCfgWrite _ | .ownTableWrite _ _ _ _ | .domPlanCfgWrite _ | .domEmbSketchWrite _ _ | .domEmbDirBaseWrite _ |
    .domVerCfgWrite _ _ | .domRedRetainWrite _ _ | .lanPartWrite _ _ | .partitionCutComplete _ | .drmIlvCfgWrite _ |
    .pprSoft _ _ | .pprHard _ _ | .pprDone _ _ | .galSelfWrite _ | .galRemapWrite _ _ | .spireSplitWrite _ |
    .linkEnWrite _ _ | .clearQ _ | .retrain _ | .clearLog | .resume | .finResetChip _ | .finResetCompute _ |
    .arbCommit | .arbBurnDone | .attestationGo | .attestationReportDone | .m2Extend | .finUartWrite _ |
    .finGpioWrite _ _ | .comparatorClaim _ _ | .comparatorTick _ | .maintenanceGap | .pathMonitorTrip _ |
    .turretPowerGate _ | .belfryPllStop _ | .belfryWake _ | .perBankRefresh _ | .selfRefreshEntry _ |
    .selfRefreshExit _ | .retrainDue _ | .channelRetrain _ | .forcedRetrain _ | .retrainComplete _ |
    .faultRecord _ | .signalDetect _ | .trainingLock _ | .trainingTimeout _ | .lossOfSignal _ | .helloTimeout _ |
    .failedLinkRetry _ | .nakRepeat _ | .retryTimeout _ | .linkAckTimer _ | .creditSilence _ _ |
    .linkRetrainTimeout _ | .timeSyncInterval | .timeStale | .tileStart _ | .tileComplete _ _ |
    .lateFetchArrival _ _ | .journalGranuleCopy | .wamosHelp | .wamosId | .wamosLog _ | .wamosCtr | .wamosChal |
    .wamosUnlock _ | .wamosLock | .wamosBaud _ | .wamosRepair | .wamosRepairDel _ | .wamosResetChip |
    .wamosResetCompute | .wamosLc _ _ | .unlockLockoutEnd | .sessionExpiry | .smbReadPart | .smbReadStatus |
    .smbReadTemp | .smbReadPower | .smbReadStage | .smbReadFault | .smbAlertResponse | .smbWrite | .extest | .idcode |
    .samplePreload | .clamp | .highz | .extestPulse | .extestTrain | .bypass | .testLogicReset |
    .wamosUnknownCommand | .monRxdCharacter _ | .lcBurnDone | .krefDetect | .railPowerGoodRise _ |
    .perstInternalRelease | .avsbusAckTimeout | .pcieLinkError _ => true

end Sys2Proof
end

