-- ==== Sys2Proof/Decode.lean ====
section
/-! DEFINITION. Commands have no binary words: the table gives its rows no bits, so no word spells a command. What is
decoded is a fetched descriptor, in Machine/Operands (`parseDesc`). -/

namespace Sys2Proof

/-- The command a word spells by the bits of the table of operations and events, which gives none to any row. -/
def decodeTableWord (_nbits _w : Nat) : Option Instr := none

end Sys2Proof
end

