-- ==== Sys2Proof/Config.lean ====
section
/-! DEFINITION. What the spec leaves to the implementation or leaves open: values with no body, so that no proof
can lean on any one of them. Each takes a draw number or the operands it depends on. -/

namespace Sys2Proof

/-- The byte at an address whose contents the spec leaves open, in the `k`-th such happening
(a reset of its die, a fenced turret's scratchpad, host memory nothing has written): log entries 3, 4. -/
opaque Config.freeByte : Nat → Nat → Byte

/-- A free number: the `n`-th value of the Finial's generator and every other value the spec does not state
(log entry 8). -/
opaque Config.freeNat : Nat → Nat

/-- The negation of an E8M0 code, a format without a sign (spec/04 R90 names none): log entry 116. -/
opaque Config.negE8M0 : (code : Nat) → Nat

/-- The level that the board drives on a GPIO pin at a keep time (spec/16 R407): an input no command carries
(log entry 38). -/
opaque Config.pinLevel : (pin keep : Nat) → Bool

/-- ECDSA brainpoolP384r1 verification of (message bytes, signature r ‖ s, key): uninterpreted (log entry 10).
Keys are named by number: 0 the Torvesk unlock key, 1 the key of the certificate given. -/
opaque Config.ecdsaVerify : (cert : List Byte) → (message : List Byte) → (signature : List Byte) → Bool

/-- The Torvesk unlock key's verification (spec/16 R403): uninterpreted (log entry 10). -/
opaque Config.unlockVerify : (message : List Byte) → (signature : List Byte) → Bool

/-- The identity key's signature of a message (spec/16 R396): uninterpreted (log entry 10). -/
opaque Config.identitySign : (serial : DWord) → (message : List Byte) → List Byte

/-- A certificate chains to the Torvesk root held in boot ROM (spec/16 R394, spec/12 R314). -/
opaque Config.certChains : List Byte → Bool

/-- A certificate carries the firmware-signing usage (spec/16 R394). -/
opaque Config.certFirmware : List Byte → Bool

end Sys2Proof
end

