-- ==== Sys2Proof/Machine/Bits.lean ====
section
/-! DEFINITION. Bit fields, byte order and the sparse table's two operations (spec/00 R8: bit 0 is the least
significant, every multi-byte value is little-endian). -/

/-- An element put into a sorted list, before its equals. -/
def List.insertBy {α : Type} (le : α → α → Bool) (x : α) : List α → List α
  | [] => [x]
  | y :: t => if le x y then x :: y :: t else y :: List.insertBy le x t

/-- A list in ascending order; equals keep theirs. -/
def List.sortBy {α : Type} (xs : List α) (le : α → α → Bool) : List α :=
  match xs with
  | [] => []
  | x :: t => List.insertBy le x (List.sortBy t le)

namespace Sys2Proof.Machine

/-- Bits [hi:lo] of a natural number. -/
def natBits (v hi lo : Nat) : Nat := (v >>> lo) % 2 ^ (hi + 1 - lo)

/-- Bits [hi:lo] of a word, as a number (spec/00 R8 notation). -/
def bits {w : Nat} (v : BitVec w) (hi lo : Nat) : Nat := natBits v.toNat hi lo

/-- Bit i of a word. -/
def bit {w : Nat} (v : BitVec w) (i : Nat) : Bool := v.getLsbD i

/-- A Bool as a one-bit number. -/
def b2n (b : Bool) : Nat := if b then 1 else 0

/-- A word with bits [hi:lo] replaced by the low bits of `x`. -/
def setBits (v : Word) (hi lo x : Nat) : Word :=
  let mask := BitVec.ofNat 32 ((2 ^ (hi + 1 - lo) - 1) <<< lo)
  (v &&& ~~~mask) ||| (BitVec.ofNat 32 (x <<< lo) &&& mask)

/-- The `n` little-endian bytes of a number (spec/00 R8). -/
def leBytes : Nat → Nat → List Byte
  | 0, _ => []
  | n + 1, v => BitVec.ofNat 8 v :: leBytes n (v / 256)

/-- The number that little-endian bytes spell (spec/00 R8). -/
def leNat : List Byte → Nat
  | [] => 0
  | b :: bs => b.toNat + 256 * leNat bs

/-- The number that big-endian bytes spell (spec/16 R393: signatures are big-endian). -/
def beNat (bs : List Byte) : Nat := bs.foldl (fun a b => 256 * a + b.toNat) 0

/-- A little-endian field of `n` bytes at byte `o` of a record. -/
def fieldAt (bs : List Byte) (o n : Nat) : Nat := leNat ((bs.drop o).take n)

/-- The two's-complement reading of the low `w` bits. -/
def asSigned (w v : Nat) : Int :=
  let u := v % 2 ^ w
  if u < 2 ^ (w - 1) then (u : Int) else (u : Int) - (2 ^ w : Nat)

/-- The low `w` bits of an integer in two's complement. -/
def wrapTo (w : Nat) (i : Int) : Nat := (i % ((2 ^ w : Nat) : Int)).toNat

/-- The quotient rounded up. -/
def ceilDiv (a b : Nat) : Nat := if b = 0 then 0 else (a + b - 1) / b

/-- The least multiple of `b` at or above `a`. -/
def roundUp (a b : Nat) : Nat := ceilDiv a b * b

/-- A 32-bit counter that stops at its largest value (spec/02 R46 and every W1C counter). -/
def satAdd32 (a b : Nat) : Nat := min (a + b) 0xFFFFFFFF

/-- A count of kt as clk: times 6.4, rounded up (spec/00 R8). -/
def ktToClk (kt : Nat) : Nat := ceilDiv (kt * 32) 5

/-- What a sparse table holds under a key; `d` is what an unlisted key reads as. -/
def tabGet {α : Type} (d : Nat → α) : Tab α → Nat → α
  | [], k => d k
  | (i, v) :: t, k => if k = i then v else if k < i then d k else tabGet d t k

/-- The table with one key rewritten, kept in canonical form: keys rise, and no pair equals the default. -/
def tabPut {α : Type} [DecidableEq α] (d : Nat → α) : Tab α → Nat → α → Tab α
  | [], k, v => if v = d k then [] else [(k, v)]
  | (i, w) :: t, k, v =>
    if k = i then (if v = d k then t else (k, v) :: t)
    else if k < i then (if v = d k then (i, w) :: t else (k, v) :: (i, w) :: t)
    else (i, w) :: tabPut d t k v

/-- The canonical form of a sparse table: keys strictly rising from `lo`, no pair equal to the default. -/
def tabWf {α : Type} [DecidableEq α] (d : Nat → α) : Nat → Tab α → Bool
  | _, [] => true
  | lo, (i, v) :: t => decide (lo ≤ i) && decide (v ≠ d i) && tabWf d (i + 1) t

/-- The first `n` naturals that satisfy a test, ascending. -/
def natsWhere (n : Nat) (p : Nat → Bool) : List Nat := (List.range n).filter p

/-- Every adjacent pair of a list satisfies a relation. -/
def adjacent {α : Type} (r : α → α → Bool) : List α → Bool
  | [] => true
  | [_] => true
  | a :: b :: t => r a b && adjacent r (b :: t)

/-- The lowest natural below `n` that satisfies a test. -/
def firstNat (n : Nat) (p : Nat → Bool) : Option Nat := (natsWhere n p).head?

/-- The position of the first element that satisfies a test. -/
def indexWhere {α : Type} (p : α → Bool) : List α → Option Nat
  | [] => none
  | a :: t => if p a then some 0 else (indexWhere p t).map (· + 1)

/-- The list with the element at a position replaced. -/
def replaceAt {α : Type} : List α → Nat → α → List α
  | [], _, _ => []
  | _ :: t, 0, v => v :: t
  | a :: t, n + 1, v => a :: replaceAt t n v

/-- Reading the bytes of a bit map: bit (c mod 8) of byte c ÷ 8 (spec/08 Table 8.10). -/
def mapBit (bs : List Byte) (c : Nat) : Bool := ((bs[c / 8]?).getD 0).getLsbD (c % 8)

/-- The bytes of a bit map of `n` bits (rounded up to whole bytes), least significant bit first (spec/05 R112). -/
def bitsToBytes (bs : List Bool) : List Byte :=
  (List.range (ceilDiv bs.length 8)).map fun i =>
    BitVec.ofNat 8 ((List.range 8).foldl (fun a j => a + b2n ((bs[8 * i + j]?).getD false) * 2 ^ j) 0)

end Sys2Proof.Machine
end

