-- ==== Sys2Proof/Machine/Flags.lean ====
section
/-! DEFINITION. The five IEEE flags and the two counts every arithmetic op keeps (spec/02 R45, R46), and the
histogram bin of a stored element (spec/10 R257). -/

namespace Sys2Proof.Machine

/-- The sticky flags of an op in strict mode (spec/02 R45) and its saturation and non-finite counts (R46). -/
structure Tally where
  invalid : Bool := false
  divZero : Bool := false
  overflow : Bool := false
  underflow : Bool := false
  inexact : Bool := false
  sat : Nat := 0
  nonfin : Nat := 0
  deriving DecidableEq, Repr

/-- Two tallies together: flags are sticky, counts stop at 0xFFFF_FFFF (spec/02 R45, R46). -/
def Tally.join (a b : Tally) : Tally :=
  { invalid := a.invalid || b.invalid, divZero := a.divZero || b.divZero,
    overflow := a.overflow || b.overflow, underflow := a.underflow || b.underflow,
    inexact := a.inexact || b.inexact, sat := satAdd32 a.sat b.sat, nonfin := satAdd32 a.nonfin b.nonfin }

/-- No flag, no count. -/
def Tally.none : Tally := {}

/-- The tally of a list of tallies. -/
def Tally.sum (ts : List Tally) : Tally := ts.foldl Tally.join Tally.none

/-- Fast mode keeps no flags (spec/02 R44); the counts are kept in both modes (R46). -/
def Tally.inMode (strict : Bool) (t : Tally) : Tally :=
  if strict then t else { sat := t.sat, nonfin := t.nonfin }

/-- The IEEE byte of the completion record (spec/13 Table 13.6). -/
def Tally.ieeeByte (t : Tally) : Nat :=
  b2n t.invalid + 2 * b2n t.divZero + 4 * b2n t.overflow + 8 * b2n t.underflow + 16 * b2n t.inexact

/-- A tally with only the invalid flag. -/
def Tally.inv : Tally := { invalid := true }

/-- How a stored element came about, where the value alone does not say it (spec/10 Table 10.1, bins 1 and 60). -/
inductive Note where
  /-- The value stored says it all. -/
  | plain
  /-- Flushed to zero in fast mode: bin 1. -/
  | flushed
  /-- Saturated on conversion or store: bin 60. -/
  | saturated
  deriving DecidableEq, Repr

end Sys2Proof.Machine
end

