-- ==== Sys2Proof/Machine/Rand.lean ====
section
/-! DEFINITION. The counter-based random words (spec/02 R50, spec/06 R138), the row hash (spec/07 R165) and the
CRC-64 of flits and images (spec/12 R295). -/

namespace Sys2Proof.Machine

/-- spec/02 R50, mix64: arithmetic modulo 2^64. -/
def mix64 (v : DWord) : DWord :=
  let v := v ^^^ (v >>> 31)
  let v := v * 0xA3B195D4C27E6F0B#64
  let v := v ^^^ (v >>> 29)
  let v := v * 0x8C5DF29A3E17B4C5#64
  v ^^^ (v >>> 32)

/-- spec/02 R50, sr_word: the random word of a stochastic rounding, from its key alone. -/
def srWord (seed : DWord) (tensor element term : Nat) : Nat :=
  let h := mix64 (seed + 0x9C417A2E55D30B61#64)
  let h := mix64 (h ^^^ BitVec.ofNat 64 (tensor % 2 ^ 32))
  let h := mix64 (h ^^^ BitVec.ofNat 64 element)
  let h := mix64 (h ^^^ BitVec.ofNat 64 (term % 2 ^ 32))
  h.toNat % 2 ^ 32

/-- spec/06 R138, draw_word. -/
def drawWord (seed : DWord) (sampleId hop p i : Nat) : DWord :=
  let h := mix64 (seed + 0x5E7A13C90D84B2F1#64)
  let h := mix64 (h ^^^ BitVec.ofNat 64 ((sampleId <<< 8) ||| hop))
  let h := mix64 (h ^^^ BitVec.ofNat 64 p)
  mix64 (h ^^^ BitVec.ofNat 64 i)

/-- spec/07 R165, MUL_A. -/
def hashMulA : DWord := 0x9E6D5B3C4F21A8E7#64
/-- spec/07 R165, MUL_B. -/
def hashMulB : DWord := 0xC2B874E1D05A3F19#64

/-- spec/07 R165, hash_row: 0 .. rows - 1. -/
def hashRow (i key mul : DWord) (rows : Nat) : Nat :=
  let x := (i ^^^ key) * mul
  ((x.toNat >>> 32) * rows) >>> 32

/-- One bit of the reflected CRC-64 of ECMA-182 (spec/12 R295): the polynomial 0x42F0_E1EB_A9EA_3693 reversed. -/
def crcBit (r : DWord) : DWord :=
  if r.getLsbD 0 then (r >>> 1) ^^^ 0xC96C5795D7870F42#64 else r >>> 1

/-- One byte of the CRC, from bit 0. -/
def crcByte (r : DWord) (b : Byte) : DWord :=
  let r := r ^^^ b.setWidth 64
  crcBit (crcBit (crcBit (crcBit (crcBit (crcBit (crcBit (crcBit r)))))))

/-- spec/12 R295: register from all ones, bytes ascending, result inverted. -/
def crc64 (bs : List Byte) : DWord := ~~~(bs.foldl crcByte (BitVec.allOnes 64))

end Sys2Proof.Machine
end

