-- ==== Sys2Proof/Machine/Float.lean ====
section
/-! DEFINITION. Number formats, rounding and conversion (spec/02 R25 to R56, R437): values are exact dyadic
numbers, every rounding is explicit. -/

namespace Sys2Proof.Machine

/-- The value a code denotes: (−1)^neg × m × 2^e, an infinity, or a NaN with its quiet bit and the payload below
it, aligned to the top of 51 bits (spec/02 R26, R27, R53). -/
inductive Val where
  | fin (neg : Bool) (m : Nat) (e : Int)
  | inf (neg : Bool)
  | nan (neg quiet : Bool) (pay : Nat)
  deriving DecidableEq, Repr

/-- How a format uses its all-ones exponent (spec/02 R26). -/
inductive TopUse where
  /-- Inf and NaN. -/
  | ieee
  /-- NaN only where the mantissa is all ones (E4M3). -/
  | nanOnly
  /-- Every code a finite number (E3M2, E2M3, E2M1). -/
  | finite
  deriving DecidableEq, Repr

/-- The classes of formats of Table 2.1. -/
inductive Fmt where
  | flt (ebits mbits bias : Nat) (top : TopUse)
  | int (width : Nat)
  | e8m0
  | red (contribution sum : Nat)
  deriving DecidableEq, Repr

/-- Table 2.1 and Table 2.2: the format a 4-bit code names. -/
def fmtOf (code : Nat) : Fmt :=
  match code with
  | 0x0 => .flt 8 23 127 .ieee
  | 0x1 => .flt 8 7 127 .ieee
  | 0x2 => .flt 5 10 15 .ieee
  | 0x3 => .flt 4 3 7 .nanOnly
  | 0x4 => .flt 5 2 15 .ieee
  | 0x5 => .flt 3 2 3 .finite
  | 0x6 => .flt 2 3 1 .finite
  | 0x7 => .flt 2 1 1 .finite
  | 0x8 => .int 8
  | 0x9 => .int 4
  | 0xA => .int 16
  | 0xB => .int 32
  | 0xC => .flt 11 52 1023 .ieee
  | 0xD => .e8m0
  | 0xE => .red 24 40
  | _ => .red 16 32

/-- Bits per element of a code (Table 2.1; the contribution width of G40 and G32). -/
def fmtBits (code : Nat) : Nat :=
  match fmtOf code with
  | .flt e m _ _ => 1 + e + m
  | .int w => w
  | .e8m0 => 8
  | .red c _ => c

/-- FP64, FP32, BF16, FP16: the formats fast mode flushes (spec/02 R44). -/
def isWide (code : Nat) : Bool := code == 0x0 || code == 0x1 || code == 0x2 || code == 0xC

/-- An integer code of Table 2.1. -/
def isIntCode (code : Nat) : Bool := 0x8 ≤ code && code ≤ 0xB

/-- A float code of Table 2.1. -/
def isFltCode (code : Nat) : Bool := code ≤ 0x7 || code == 0xC

/-- FP8, FP6 and FP4 codes. -/
def isNarrow (code : Nat) : Bool := 0x3 ≤ code && code ≤ 0x7

/-- The value of a code in a format (spec/02 R26, R27, R29, R31). -/
def decodeVal (fc : Nat) (uns : Bool) (code : Nat) : Val :=
  match fmtOf fc with
  | .int w =>
    let i : Int := if uns then ((code % 2 ^ w : Nat) : Int) else asSigned w code
    .fin (decide (i < 0)) i.natAbs 0
  | .red c _ => let i := asSigned c code; .fin (decide (i < 0)) i.natAbs 0
  | .e8m0 => if code % 256 = 255 then .nan false true 0 else .fin false 1 ((code % 256 : Nat) - 127 : Int)
  | .flt eb mb bias top =>
    let neg := (code >>> (eb + mb)) % 2 = 1
    let ex := (code >>> mb) % 2 ^ eb
    let man := code % 2 ^ mb
    let allOnes := ex = 2 ^ eb - 1
    if allOnes ∧ top = .ieee then
      if man = 0 then .inf neg
      else .nan neg (man >>> (mb - 1) = 1) ((man % 2 ^ (mb - 1)) <<< (52 - mb))
    else if allOnes ∧ top = .nanOnly ∧ man = 2 ^ mb - 1 then .nan neg true 0
    else if ex = 0 then .fin neg man (1 - bias - mb : Int)
    else .fin neg (2 ^ mb + man) ((ex : Int) - bias - mb)

/-- The position of the leading one of m × 2^e; 0 stands for m = 0, which no caller asks. -/
def floorLog2 (m : Nat) (e : Int) : Int := (Nat.log2 m : Int) + e

/-- The default quiet NaN of every format (spec/02 R27). -/
def Val.qnan : Val := .nan false true 0

/-- ±0. -/
def Val.zero (neg : Bool) : Val := .fin neg 0 0

/-- A number that is NaN. -/
def Val.isNaN : Val → Bool
  | .nan _ _ _ => true
  | _ => false

/-- A NaN with the quiet bit clear. -/
def Val.isSNaN : Val → Bool
  | .nan _ q _ => !q
  | _ => false

/-- A number that is ±Inf. -/
def Val.isInf : Val → Bool
  | .inf _ => true
  | _ => false

/-- A finite number. -/
def Val.isFin : Val → Bool
  | .fin _ _ _ => true
  | _ => false

/-- The sign of a value. -/
def Val.neg : Val → Bool
  | .fin n _ _ => n
  | .inf n => n
  | .nan n _ _ => n

/-- ±0. -/
def Val.isZero : Val → Bool
  | .fin _ m _ => m == 0
  | _ => false

/-- The value with its sign flipped (spec/04 R90: NaN included). -/
def Val.negate : Val → Val
  | .fin n m e => .fin (!n) m e
  | .inf n => .inf (!n)
  | .nan n q p => .nan (!n) q p

/-- The value with its sign cleared. -/
def Val.abs : Val → Val
  | .fin _ m e => .fin false m e
  | .inf _ => .inf false
  | .nan _ q p => .nan false q p

/-- m × 2^e compared with n × 2^f. -/
def magCmp (m : Nat) (e : Int) (n : Nat) (f : Int) : Ordering :=
  let b := min e f
  compare (m <<< (e - b).toNat) (n <<< (f - b).toNat)

/-- The exact sum of two dyadic numbers, as signed mantissa and exponent. -/
def dyAdd (a : Int) (e : Int) (b : Int) (f : Int) : Int × Int :=
  let g := min e f
  (a * ((2 ^ (e - g).toNat : Nat) : Int) + b * ((2 ^ (f - g).toNat : Nat) : Int), g)

/-- The signed mantissa of a finite value; 0 for the others. -/
def Val.sig : Val → Int
  | .fin n m _ => if n then -(m : Int) else m
  | _ => 0

/-- The exponent of a finite value; 0 for the others. -/
def Val.ex : Val → Int
  | .fin _ _ e => e
  | _ => 0

/-- A value from a signed mantissa; `zneg` is the sign a zero takes. -/
def Val.ofSig (zneg : Bool) (s : Int) (e : Int) : Val :=
  if s = 0 then .zero zneg else .fin (decide (s < 0)) s.natAbs e

/-- Table 2.8 on a magnitude m × 2^e (`sticky`: the true magnitude lies strictly between m and m + 1 units of 2^e):
the multiple of 2^lsb chosen, and whether it differs from the magnitude. `r` is the word of spec/02 R49. -/
def roundMag (mode : Nat) (neg : Bool) (r : Nat) (m : Nat) (e : Int) (sticky : Bool) (lsb : Int) : Nat × Bool :=
  if lsb ≤ e then (m <<< (e - lsb).toNat, sticky)
  else
    let k := (lsb - e).toNat
    let q := m >>> k
    let rem := m % 2 ^ k
    let inexact := rem ≠ 0 || sticky
    let half := 2 ^ (k - 1)
    let up : Bool :=
      match mode with
      | 0 => decide (rem > half) || (decide (rem = half) && (sticky || q % 2 == 1))
      | 1 => false
      | 2 => inexact && !neg
      | 3 => inexact && neg
      | _ => inexact && decide (((rem <<< 32) >>> k) + r ≥ 2 ^ 32)
    (if up then q + 1 else q, inexact)

/-- The outcome of one rounding: the value in the target, what it flags and counts, and its histogram note. -/
structure Rounded where
  val : Val
  tally : Tally := Tally.none
  note : Note := .plain
  deriving DecidableEq, Repr

/-- The mode an op's arithmetic runs under (spec/02 R42, R43). -/
structure NumMode where
  strict : Bool := false
  rmode : Nat := 0
  deriving DecidableEq, Repr

/-- Fast mode, RNE: the compressor's mode (spec/05 R109). -/
def NumMode.fastRne : NumMode := {}

/-- The largest finite magnitude of a float format, as mantissa and exponent (Table 2.2). -/
def maxFinite (eb mb bias : Nat) (top : TopUse) : Nat × Int :=
  match top with
  | .ieee => (2 ^ (mb + 1) - 1, (2 ^ eb - 2 : Nat) - (bias : Int) - mb)
  | .nanOnly => (2 ^ (mb + 1) - 2, (2 ^ eb - 1 : Nat) - (bias : Int) - mb)
  | .finite => (2 ^ (mb + 1) - 1, (2 ^ eb - 1 : Nat) - (bias : Int) - mb)

/-- Whether an overflow of this sign goes to infinity under a rounding mode (spec/02 R44, IEEE 754-2019). -/
def overflowsToInf (mode : Nat) (neg : Bool) : Bool :=
  match mode with
  | 0 => true
  | 1 => false
  | 2 => !neg
  | 3 => neg
  | _ => true

/-- Where a rounding happens: an arithmetic result within a format, or a narrowing conversion or store; the MX
element quantiser saturates in both modes (spec/02 R38). -/
inductive RoundUse where
  | arith
  | store
  | element
  deriving DecidableEq, Repr

/-- Rounding of a finite non-zero magnitude into a float format: Tables 2.9 and 2.10, rows 3 to 6, and the
overflow of an arithmetic result (spec/02 R44, R48, R52). -/
def roundFloat (use : RoundUse) (md : NumMode) (fc : Nat) (r : Nat) (neg : Bool) (m : Nat) (e : Int)
    (sticky : Bool) : Rounded :=
  match fmtOf fc with
  | .flt eb mb bias top =>
    let emin : Int := 1 - bias
    let ex := floorLog2 m e
    let (q, ix) := roundMag md.rmode neg r m e sticky (max ex emin - mb)
    let lsb := max ex emin - mb
    let (mm, me) := maxFinite eb mb bias top
    if magCmp q lsb mm me = .gt then
      let toInf := overflowsToInf md.rmode neg
      let fl : Tally := { overflow := true, inexact := true }
      if use = .arith ∧ top = .ieee then
        { val := if toInf then .inf neg else .fin neg mm me, tally := fl }
      else if md.strict ∧ toInf ∧ use = .store ∧ top ≠ .finite then
        { val := if top = .nanOnly then .nan neg true 0 else .inf neg, tally := fl }
      else
        { val := .fin neg mm me, tally := { fl with sat := 1 }, note := .saturated }
    else
      let (qu, _) := roundMag md.rmode neg r m e sticky (ex - mb)
      let tiny := decide (ex < emin) && magCmp qu (ex - mb) 1 emin == .lt
      if !md.strict && isWide fc && tiny && q ≠ 0 then { val := .zero neg, note := .flushed }
      else { val := if q = 0 then .zero neg else .fin neg q lsb,
             tally := { inexact := ix, underflow := ix && tiny } }
  | _ => { val := .zero neg }

/-- The bits of payload a float format keeps below the quiet bit (spec/02 R53). -/
def keepPay (mb pay : Nat) : Nat := (pay >>> (52 - mb)) <<< (52 - mb)

/-- A float rounded to an integer under a mode (spec/02 R54). -/
def roundInt (mode r : Nat) (neg : Bool) (m : Nat) (e : Int) (sticky : Bool) : Int × Bool :=
  let (q, ix) := roundMag mode neg r m e sticky 0
  (if neg then -(q : Int) else q, ix)

/-- The range of an integer format (spec/02 R31). -/
def intRange (w : Nat) (uns : Bool) : Int × Int :=
  if uns then (0, (2 ^ w : Nat) - 1) else (-((2 ^ (w - 1) : Nat) : Int), (2 ^ (w - 1) : Nat) - 1)

/-- CONVERT, and every store in a narrower format: Tables 2.9 and 2.10 (spec/02 R52 to R55). -/
def convertVal (use : RoundUse) (md : NumMode) (fc : Nat) (uns : Bool) (r : Nat) (v : Val)
    (sticky : Bool := false) : Rounded :=
  match fmtOf fc, v with
  | .flt _ mb _ top, .nan n q p =>
    let inv : Tally := { invalid := !q }
    if top = .finite then { val := .zero false, tally := { invalid := true, nonfin := 1 } }
    else if !md.strict then { val := .qnan }
    else if top = .nanOnly then { val := .nan n true 0, tally := inv }
    else { val := .nan n true (keepPay mb p), tally := inv }
  | .flt eb mb bias top, .inf n =>
    if top = .ieee then { val := .inf n }
    else if top = .nanOnly ∧ md.strict then { val := .nan n true 0, tally := { invalid := true, nonfin := 1 } }
    else
      let (mm, me) := maxFinite eb mb bias top
      { val := .fin n mm me, tally := { invalid := true, nonfin := 1 }, note := .saturated }
  | .flt _ _ _ _, .fin n m e => if m = 0 ∧ !sticky then { val := .zero n } else roundFloat use md fc r n m e sticky
  | .int _, .nan _ _ _ => { val := .zero false, tally := { invalid := true, nonfin := 1 } }
  | .int w, .inf n =>
    let (lo, hi) := intRange w uns
    { val := .ofSig false (if n then lo else hi) 0, tally := { invalid := true, nonfin := 1 }, note := .saturated }
  | .int w, .fin n m e =>
    let (lo, hi) := intRange w uns
    let (k, ix) := roundInt md.rmode r n m e sticky
    if k < lo ∨ hi < k then
      { val := .ofSig false (if k < lo then lo else hi) 0, tally := { invalid := true, sat := 1 }, note := .saturated }
    else { val := .ofSig false k 0, tally := { inexact := ix } }
  | .e8m0, .nan _ q _ => { val := .qnan, tally := { invalid := !q } }
  | .e8m0, .inf _ => { val := .qnan, tally := { invalid := true, nonfin := 1 } }
  | .e8m0, .fin _ m e =>
    if m = 0 then { val := .fin false 1 (-127) }
    else
      let x := floorLog2 m e
      if x > 127 then { val := .fin false 1 127, tally := { overflow := true, sat := 1 }, note := .saturated }
      else if x < -127 then { val := .fin false 1 (-127), tally := { underflow := true } }
      else { val := .fin false 1 x }
  | .red _ _, _ => { val := .zero false }

/-- The code of a value that the format holds exactly (spec/02 R26 to R31). -/
def encodeVal (fc : Nat) (v : Val) : Nat :=
  match fmtOf fc with
  | .int w => wrapTo w (v.sig * ((2 ^ v.ex.toNat : Nat) : Int))
  | .red c _ => wrapTo c (v.sig * ((2 ^ v.ex.toNat : Nat) : Int))
  | .e8m0 =>
    match v with
    | .fin _ m e => if m = 0 then 0 else (floorLog2 m e + 127).toNat
    | _ => 0xFF
  | .flt eb mb bias top =>
    let s := b2n v.neg <<< (eb + mb)
    let ones := (2 ^ eb - 1) <<< mb
    match v with
    | .inf _ => s + ones
    | .nan _ q p =>
      if top = .nanOnly then s + ones + (2 ^ mb - 1)
      else
        let man := (b2n q <<< (mb - 1)) + (p >>> (52 - mb))
        s + ones + (if man = 0 then 1 else man)
    | .fin _ m e =>
      if m = 0 then s
      else
        let ex := max (floorLog2 m e) (1 - bias)
        let q := if ex - mb ≤ e then m <<< (e - (ex - mb)).toNat else m >>> ((ex - mb) - e).toNat
        if q < 2 ^ mb then s + q else s + ((ex + bias).toNat <<< mb) + (q - 2 ^ mb)

/-- Conversion to a code: the code, what is counted and flagged, and the note. -/
def convertCode (use : RoundUse) (md : NumMode) (fc : Nat) (uns : Bool) (r : Nat) (v : Val) : Nat × Rounded :=
  let x := convertVal use md fc uns r v
  (encodeVal fc x.val, x)

/-- The input rule of the op's mode (spec/02 R44): fast mode reads a subnormal of a wide format as a zero. -/
def flushIn (md : NumMode) (fc : Nat) (v : Val) : Val :=
  match fmtOf fc, v with
  | .flt _ _ bias _, .fin n m e =>
    if !md.strict && isWide fc && m ≠ 0 && decide (floorLog2 m e < 1 - (bias : Int)) then .zero n else v
  | _, _ => v

/-- A stored code read under the input rules of the op's mode. -/
def readVal (md : NumMode) (fc : Nat) (uns : Bool) (code : Nat) : Val := flushIn md fc (decodeVal fc uns code)

/-- The first NaN among operands in the rule's order, quieted; the default NaN in fast mode or when none is
(spec/02 R44, R45). The flag is raised when any is signalling. -/
def pickNaN (md : NumMode) (vs : List Val) : Rounded :=
  let inv : Tally := { invalid := vs.any Val.isSNaN }
  match vs.find? Val.isNaN with
  | some (.nan n _ p) => if md.strict then { val := .nan n true p, tally := inv } else { val := .qnan, tally := inv }
  | _ => { val := .qnan, tally := inv }

/-- The default NaN of an invalid operation (spec/02 R45). -/
def invalidOp : Rounded := { val := .qnan, tally := Tally.inv }

/-- A result rounded within its format (spec/02 R44, R45): exact when `sticky` is false. -/
def roundArith (md : NumMode) (fc r : Nat) (v : Val) (sticky : Bool := false) : Rounded :=
  match v with
  | .fin n m e => if m = 0 && !sticky then { val := .zero n } else roundFloat .arith md fc r n m e sticky
  | v => { val := v }

/-- RNE into FP32 keeping subnormals, canonical NaN: the Vane's rounding (spec/08 R215). -/
def rneFp32Keep (v : Val) : Val :=
  match v with
  | .fin _ _ _ => (roundArith { strict := true, rmode := 0 } 0x0 0 v).val
  | .nan _ _ _ => .qnan
  | v => v

/-- An exact sum of two values with the sign rule of zero results (IEEE 754-2019 §6.3): +0, or −0 under RDN,
except that equal-signed zeros keep their sign. -/
def addVal (rmode : Nat) (a b : Val) : Val :=
  match a, b with
  | .fin na ma _, .fin nb mb _ =>
    let (s, e) := dyAdd a.sig a.ex b.sig b.ex
    if ma = 0 ∧ mb = 0 then .zero (if na = nb then na else rmode == 3)
    else Val.ofSig (rmode == 3) s e
  | .inf n, _ => .inf n
  | _, .inf n => .inf n
  | _, _ => .qnan

/-- An exact product. -/
def mulVal (a b : Val) : Val :=
  match a, b with
  | .fin na ma ea, .fin nb mb eb => .fin (na != nb) (ma * mb) (ea + eb)
  | .fin na _ _, .inf nb => .inf (na != nb)
  | .inf na, .fin nb _ _ => .inf (na != nb)
  | .inf na, .inf nb => .inf (na != nb)
  | _, _ => .qnan

/-- Inf × 0, either way round. -/
def infTimesZero (a b : Val) : Bool := (a.isInf && b.isZero) || (a.isZero && b.isInf)

/-- A + B in a float format (spec/04 R92). -/
def fpAdd (md : NumMode) (fc r : Nat) (a b : Val) : Rounded :=
  if a.isNaN || b.isNaN then pickNaN md [a, b]
  else if a.isInf && b.isInf && (a.neg != b.neg) then invalidOp
  else roundArith md fc r (addVal md.rmode a b)

/-- A − B: a NaN of B keeps its sign (spec/02 R45). -/
def fpSub (md : NumMode) (fc r : Nat) (a b : Val) : Rounded :=
  if a.isNaN || b.isNaN then pickNaN md [a, b] else fpAdd md fc r a b.negate

/-- A × B in a float format. -/
def fpMul (md : NumMode) (fc r : Nat) (a b : Val) : Rounded :=
  if a.isNaN || b.isNaN then pickNaN md [a, b]
  else if infTimesZero a b then invalidOp
  else roundArith md fc r (mulVal a b)

/-- A × B + C with one rounding. ∞ × 0 with a quiet NaN in C raises invalid: IEEE 754-2019 leaves it open and so does the
spec (DESIGN CHOICE, log entry 118). -/
def fpFma (md : NumMode) (fc r : Nat) (a b c : Val) : Rounded :=
  if a.isNaN || b.isNaN || c.isNaN then
    let x := pickNaN md [a, b, c]
    if infTimesZero a b then { x with tally := x.tally.join Tally.inv } else x
  else if infTimesZero a b then invalidOp
  else
    let p := mulVal a b
    if p.isInf && c.isInf && (p.neg != c.neg) then invalidOp
    else roundArith md fc r (addVal md.rmode p c)

/-- A ÷ B: the quotient to 2 × 96 bits below its leading one, the rest as sticky. -/
def fpDiv (md : NumMode) (fc r : Nat) (a b : Val) : Rounded :=
  if a.isNaN || b.isNaN then pickNaN md [a, b]
  else
    let n := a.neg != b.neg
    match a, b with
    | .inf _, .inf _ => invalidOp
    | .inf _, _ => { val := .inf n }
    | _, .inf _ => { val := .zero n }
    | .fin _ ma ea, .fin _ mb eb =>
      if mb = 0 then (if ma = 0 then invalidOp else { val := .inf n, tally := { divZero := true } })
      else if ma = 0 then { val := .zero n }
      else
        let k := 192 + Nat.log2 mb
        let num := ma <<< k
        roundArith md fc r (.fin n (num / mb) (ea - eb - k)) (num % mb ≠ 0)
    | _, _ => invalidOp

/-- The integer square root by digits: `n` steps fix `n` bits, the highest first. -/
def isqrtSteps (x : Nat) : Nat → Nat → Nat
  | 0, acc => acc
  | n + 1, acc =>
    let t := acc + 2 ^ n
    isqrtSteps x n (if t * t ≤ x then t else acc)

/-- The integer square root, rounded down. -/
def isqrt (x : Nat) : Nat := isqrtSteps x (Nat.log2 x / 2 + 1) 0

/-- √A, correctly rounded. -/
def fpSqrt (md : NumMode) (fc r : Nat) (a : Val) : Rounded :=
  match a with
  | .nan _ _ _ => pickNaN md [a]
  | .inf n => if n then invalidOp else { val := .inf false }
  | .fin n m e =>
    if m = 0 then { val := .zero n }
    else if n then invalidOp
    else
      let k : Nat := 256 + (e % 2).toNat
      let x := m <<< k
      let q := isqrt x
      roundArith md fc r (.fin false q ((e - k) / 2)) (q * q ≠ x)

/-- 1 ÷ √A, correctly rounded; −0 gives −Inf (spec/04 Table 4.5). -/
def fpRsqrt (md : NumMode) (fc r : Nat) (a : Val) : Rounded :=
  match a with
  | .nan _ _ _ => pickNaN md [a]
  | .inf n => if n then invalidOp else { val := .zero false }
  | .fin n m e =>
    if m = 0 then { val := .inf n, tally := { divZero := true } }
    else if n then invalidOp
    else
      -- with e made even by doubling m, 1/√(m 2^e) = √(2^(2k)/m) 2^(−k − e/2)
      let (m, e) := if e % 2 = 0 then (m, e) else (2 * m, e - 1)
      let k := 192 + Nat.log2 m
      let q := isqrt (2 ^ (2 * k) / m)
      roundArith md fc r (.fin false q (-(k : Int) - e / 2)) (q * q * m ≠ 2 ^ (2 * k))

/-- The order of two values that are not NaN; −0 and +0 compare equal. -/
def cmpVal (a b : Val) : Ordering :=
  match a, b with
  | .inf n, .inf k => if n = k then .eq else if n then .lt else .gt
  | .inf n, _ => if n then .lt else .gt
  | _, .inf n => if n then .gt else .lt
  | _, _ => compare (dyAdd a.sig a.ex (-b.sig) b.ex).1 0

/-- MAX and MIN: NaN wins, −0 < +0 (spec/04 Table 4.5, R99). `wantMax` picks which. -/
def fpMinMax (md : NumMode) (wantMax : Bool) (a b : Val) : Rounded :=
  if a.isNaN || b.isNaN then pickNaN md [a, b]
  else
    let aLess := match cmpVal a b with
      | .lt => true
      | .gt => false
      | .eq => a.neg && !b.neg
    { val := if aLess == wantMax then b else a }

/-! ### Microscaling blocks (spec/02 R34 to R38, R437) -/

/-- elem.emax of spec/02 R37. -/
def mxEmax (fc : Nat) : Int :=
  match fc with
  | 0x3 => 8
  | 0x4 => 15
  | 0x5 => 4
  | 0x6 => 2
  | 0x7 => 2
  | _ => 0

/-- An element's value P_i (spec/02 R36): an MXINT8 code c is c × 2^−6. -/
def mxElemVal (fc code : Nat) : Val :=
  if fc = 0x8 then
    let i := asSigned 8 code
    .fin (decide (i < 0)) i.natAbs (-6)
  else decodeVal fc false code

/-- spec/02 R36: element value times 2^(s − 127); a scale of 0xFF makes every element NaN. -/
def mxVal (fc scale code : Nat) : Val :=
  if scale = 0xFF then .qnan
  else match mxElemVal fc code with
    | .fin n m e => .fin n m (e + (scale : Int) - 127)
    | v => v

/-- One element of a block at a shared exponent, saturating in both modes (spec/02 R38); MXINT8 is limited to
−127 to 127 (R37). -/
def mxElement (md : NumMode) (fc : Nat) (r : Nat) (shared : Int) (v : Val) : Nat × Rounded :=
  match v with
  | .inf n => (encodeVal fc (.inf n), { val := .inf n })
  | .fin n m e =>
    if fc = 0x8 then
      if m = 0 then (0, { val := .zero n })
      else
        let (k, ix) := roundInt md.rmode r n m (e - shared + 6) false
        if k.natAbs > 127 then
          (wrapTo 8 (if n then -127 else 127),
            { val := .ofSig n (if n then -127 else 127) (-6), note := .saturated,
              tally := { overflow := true, inexact := true, sat := 1 } })
        else (wrapTo 8 k, { val := .ofSig n k (-6), tally := { inexact := ix } })
    else if m = 0 then (encodeVal fc (.zero n), { val := .zero n })
    else
      let x := roundFloat .element md fc r n m (e - shared) false
      (encodeVal fc x.val, x)
  | v => (0, { val := v })

/-- One encoded block (spec/02 R37, R437): the scale, the codes, and each element's outcome. The random word of
element i is `rs i`. -/
structure MxBlock where
  scale : Nat
  codes : List Nat
  outs : List Rounded
  deriving DecidableEq, Repr

/-- spec/02 R37, encode_mx_block, over values already flushed for the op's mode. -/
def encodeMxBlock (md : NumMode) (fc : Nat) (rs : Nat → Nat) (block : List Val) : MxBlock :=
  let hasInf := fc == 0x4
  let bad := block.any fun v => v.isNaN || (v.isInf && !hasInf)
  if bad then
    { scale := 0xFF, codes := block.map fun _ => 0,
      outs := block.map fun v =>
        let isBad := v.isNaN || (v.isInf && !hasInf)
        { val := .qnan, tally := { nonfin := b2n isBad, invalid := v.isSNaN || (v.isInf && !hasInf) } } }
  else
    let fins := block.filterMap fun v => match v with
      | .fin _ m e => if m = 0 then none else some (floorLog2 m e)
      | _ => none
    let shared : Int :=
      match fins with
      | [] => -127
      | x :: xs => max (-127) (min 127 (xs.foldl max x - mxEmax fc))
    let els := block.mapIdx fun i v => mxElement md fc (rs i) shared v
    { scale := (shared + 127).toNat, codes := els.map (·.1),
      outs := els.map fun p => { p.2 with val := match p.2.val with
        | .fin n m e => .fin n m (e + shared)
        | v => v } }

/-- spec/10 Table 10.1: the bin of a stored element. -/
def histBin (note : Note) (v : Val) : Nat :=
  match note, v with
  | .flushed, _ => 1
  | .saturated, _ => 60
  | .plain, .nan _ _ _ => 62
  | .plain, .inf _ => 61
  | .plain, .fin _ m e =>
    if m = 0 then 0
    else
      let x := floorLog2 m e
      if x < -40 then 2 else if x > 15 then 59 else (x + 43).toNat

end Sys2Proof.Machine
end

