-- ==== Sys2Proof/Machine/State.lean ====
section
/-! DEFINITION. Everything the spec gives the BX-6400, as plain data, with its value at reset as each field's default
(spec/16 R389 and the register tables; log entry 1 for what the spec leaves to the part). -/

namespace Sys2Proof.Machine

/-- The ways a step could stop. Raised by nothing: every path of every command has an effect (NOTES.md, Stops). -/
inductive Fault where
  /-- No command raises it: the spec gives every outcome a status or an event (safe). -/
  | none
  deriving DecidableEq, Repr

/-- The ways a command is turned away. -/
inductive Refusal where
  /-- A command with no meaning in the model yet, by its mnemonic (safe). -/
  | notModelled (mnemonic : String)
  deriving DecidableEq, Repr

/-! ### Memory (spec/11 R273) -/

/-- What an unlisted byte of a range reads as. -/
inductive FillSrc where
  | zero
  /-- Contents the spec leaves open: the free bytes of the `k`-th such happening (log entry 4). -/
  | free (k : Nat)
  deriving DecidableEq, Repr

/-- A range of bytes, `lo` included and `hi` not, that lost or was given its contents at once. -/
structure Fill where
  lo : Nat
  hi : Nat
  src : FillSrc
  deriving DecidableEq, Repr

/-- Bytes by address: the listed cells, rising, over the newest fill that holds the address, over zero. -/
structure Memory where
  cells : Tab Byte := []
  fills : List Fill := []
  deriving DecidableEq, Repr

/-! ### Ops in flight (spec/13) -/

/-- The status codes of spec/00 Table 0.7. -/
inductive Status where
  | ok | timeout | conflict | resourceHeld | scaleMiss | nonfinite | malformed | outOfRange | quarantined | aborted
  deriving DecidableEq, Repr

/-- A descriptor fetched and handed on (spec/13 R328, R330). -/
structure Desc where
  hdr : Hdr
  body : OpBody
  deriving DecidableEq, Repr

/-- Where an op stands. -/
inductive Phase where
  /-- Accepted; waits for the ops it depends on (spec/13 R335). -/
  | waiting
  /-- Runs, or awaits an arrival. -/
  | active
  /-- Complete; its record has not been written (spec/13 R337). -/
  | done (st : Status)
  deriving DecidableEq, Repr

/-- What an op awaits (spec/13 R344). -/
inductive Await where
  /-- The host-window grain at this device offset (spec/11 R291). -/
  | hostRead (a : Nat)
  /-- A batch of a turret's rows from a remote chip, each holding a strand until it has come (spec/06 R147, R150): the batch's
  number in its op, the turret, the chip, and the rows. -/
  | rows (batch turret chip : Nat) (reqs : List RowReq)
  /-- The acknowledgement of a packet sent (spec/12 R301). -/
  | ack (chip cls fseq : Nat)
  /-- A receiver's answer for a published slice (spec/09 R246). -/
  | publish (chip slice : Nat)
  /-- Room in the journal partition (spec/08 R209), or a pin's release: the op is tried again. -/
  | room
  /-- The condition of a WAIT, a target of a TIMER, a vote, a collective: no request is out. -/
  | event
  deriving DecidableEq, Repr

/-- Bursts of one size of a unit of an activity that have not started: they wait for its tokens (spec/14 R358). -/
structure Burst where
  (act unit size count : Nat)
  deriving DecidableEq, Repr

/-- One awaited arrival: its tag, and when its wait began. -/
structure Req where
  tag : Nat
  await : Await
  start : Nat
  deriving DecidableEq, Repr

/-- An accumulator entry (spec/03 R57, R66): an FP32 value, or an integer in integer mode, and the special state with
the first NaN met. -/
inductive Acc where
  | fin (v : Val)
  | inf (neg : Bool)
  | nan (v : Val)
  | int (i : Int)
  /-- A zero that the last fold flushed in fast mode: bin 1 at output. -/
  | flushed (neg : Bool)
  deriving DecidableEq, Repr

/-- What a completed tile of a fused ELEM leaves for its whole rows and columns (spec/04 R93, R99): the tile, the largest
exponents of its scaled outputs, and the tapped lanes by tile row, channel and column, each as format and code. -/
structure FusedTile where
  tile : Nat
  amax0 : Option Int := none
  amax1 : Option Int := none
  taps : List (List (List (Nat × Nat))) := []
  deriving DecidableEq, Repr

/-- The work of an op that spans commands. -/
inductive Work where
  | none
  /-- A GEMM: tiles not yet complete, the largest output exponent (spec/03 R69), the fused ELEM's op (R93), and the
  planner's counts of late fetches, presented and skipped k-slots and dropped prefetches (spec/05 R115). -/
  | gemm (tiles : Nat) (amax : Option Int) (fused : Option Nat) (late present skip waste : Nat)
  /-- An ELEM fused to this GEMM's op: what its completed tiles have left (spec/04 R93). -/
  | fused (gemm : Nat) (tiles : List FusedTile)
  /-- A list-form collective (spec/06 R156): the local contributions are sent; with `marked` the end markers too. -/
  | exchange (marked : Bool)
  /-- REDUCE_GRAD: elements quantised so far (spec/09 R234, R248). -/
  | reduce (done : Nat)
  /-- EMB_GRAD once its contributions are out (spec/07 R184): end markers sent, tiles given to its tile group, folded as owner;
  a row read failed, and a batch disagreed with the op. -/
  | embGrad (marked : Bool) (given : Nat) (folded failed wrong : Bool)
  /-- UPDATE or PARAM_PUBLISH: its work is done, slices sent so far. -/
  | slices (done : Nat)
  /-- STEP_COMMIT between its rounds (spec/08 R218): voters and FLIP_DELAY as at acceptance; when its rounds were cast; the
  gate's result; the flip tick; cause bits. -/
  | step (voters : List Nat) (delay : Nat) (gateCast commitCast : Option Nat) (gateGood : Option Bool) (flip : Option Nat)
      (causes : Nat)
  /-- CKPT_PUSH: the stage reached, the target's slot, STEP, and the image's range table and data (spec/15 R383). -/
  | ckpt (stage slot step : Nat) (data : List Byte)
  /-- ASSUME_ID awaits these links (spec/15 R385). -/
  | links (ls : List Nat)
  deriving DecidableEq, Repr

/-- One op in flight (spec/13 R337). -/
structure Op where
  id : Nat
  ring : Nat
  hdr : Hdr
  body : OpBody
  evq : Nat
  /-- Telemetry step (spec/10 R254); none for an op refused at acceptance (spec/13 R444). -/
  step : Option Nat := none
  mode : NumMode := {}
  seed : Nat := 0
  /-- Ownership bank in use, where the op resolves nodes (spec/06 R135). -/
  bank : Option Nat := none
  /-- Pin epoch of a view-reading op (spec/08 R203). -/
  epoch : Option Nat := none
  /-- Table pinned: ID, VERSION, DESC_ADDR (spec/07 R171). -/
  table : Option (Nat × Nat × Nat) := none
  /-- Parameter version pinned, low 32 bits of its step (spec/01 R22). -/
  pver : Nat := 0
  /-- Host window base in force at acceptance (spec/11 R291). -/
  hwin : Option Nat := none
  /-- The comparator that serves a TIMER (spec/16 R408). -/
  cmp : Option Nat := none
  /-- Plan entry, where the op plans (spec/05 R115, R121). -/
  plan : Option Nat := none
  /-- Belfries that its TURRET_MASK named at acceptance (spec/15 Table 15.5). -/
  crew : List Nat := []
  /-- SR_ROW_LOG2 in force at acceptance (spec/02 R47). -/
  srRowLog2 : Nat := 12
  phase : Phase := .waiting
  /-- Its completion has taken effect; its record may still be held (spec/13 R351). -/
  completed : Bool := false
  /-- Accepted for the other rules (spec/13 R444). -/
  accepted : Bool := true
  /-- The group elements it contributes to in its step: handle, step, first element, count (spec/09 R229, R232). -/
  gives : Option (Nat × Nat × Nat × Nat) := none
  deps : List Nat := []
  /-- The producer this op consumes (spec/13 R335). -/
  consumes : Option Nat := none
  /-- Machine times of its acceptance, its start and its completion, and the completion's number. -/
  taken : Nat := 0
  start : Nat := 0
  ended : Nat := 0
  doneNo : Nat := 0
  tally : Tally := {}
  c0 : Nat := 0
  c1 : Nat := 0
  c2 : Nat := 0
  c3 : Nat := 0
  aux : Nat := 0
  detail : Nat := 0
  reqs : List Req := []
  /-- What the bytes it has written in place were before, for a write that fails (spec/11 R287). -/
  before : List (Nat × Byte) := []
  /-- Host-window bytes that have arrived, by device offset. -/
  hostBuf : List (Nat × Byte) := []
  /-- Remote rows that have arrived: their batch's number, request, reply. -/
  rowBuf : List (Nat × RowReq × RowReply) := []
  /-- Replicas it reads: row number and bytes (spec/07 R175, R176). -/
  held : List (Nat × List Byte) := []
  work : Work := .none
  /-- Parts of its work whose bursts have been asked for, and those of them that wait (spec/14 R358). -/
  asked : Nat := 0
  owed : List Burst := []
  deriving DecidableEq, Repr

/-- A pin epoch of a ring (spec/08 R203): the slot of every slice it pins. -/
structure Epoch where
  id : Nat
  ring : Nat
  isOpen : Bool
  /-- The step committed when it opened, low 32 bits. -/
  ver : Nat := 0
  slots : List Nat
  deriving DecidableEq, Repr

/-- A submission ring (spec/13 R325 to R329). -/
structure Ring where
  fetched : Nat := 0
  /-- TAIL as last read. -/
  tail : Nat := 0
  stopped : Bool := false
  /-- Fetched and handed on, not yet given to the op commands. -/
  fetchedDescs : List Desc := []
  /-- Waiting before acceptance (spec/13 R333). -/
  held : List Desc := []
  /-- When its TXN_BEGIN began to wait for a free group (spec/13 R344). -/
  since : Option Nat := none
  /-- Host-window bytes of the records that the next of them name, by device offset, and whether a read of them has failed
  (spec/11 R291). -/
  recBuf : List (Nat × Byte) := []
  recFailed : Bool := false
  deriving DecidableEq, Repr

/-- An event queue (spec/13 R347 to R352). -/
structure EvQueue where
  written : Nat := 0
  /-- EQ_HEAD as last read. -/
  head : Nat := 0
  lost : Bool := false
  /-- Records pending for moderation, and the time of the oldest. -/
  pend : Nat := 0
  since : Nat := 0
  deriving DecidableEq, Repr

/-- An outstanding host-window read of the checkpoint, wait or engine kind: tag, op id and device offset. -/
structure HostRead where
  tag : Nat
  op : Nat
  a : Nat
  /-- The ring whose next descriptor names a record there; none for a read of an op. -/
  ring : Option Nat := none
  deriving DecidableEq, Repr

/-! ### Transactions and steps (spec/08) -/

/-- An open transaction group (R207, R438). -/
structure Txn where
  num : Nat
  order : Nat
  limit : Nat
  /-- The cause, once aborted. -/
  aborted : Option Status := none
  /-- The op that closes it: a TXN_COMMIT, or the STEP_COMMIT that made it a step group. -/
  closer : Option Nat := none
  isStep : Bool := false
  /-- Staged bytes by device offset, newest first. -/
  staged : List (Nat × Byte) := []
  /-- Words that its SIGNALs have staged: WAITs on them are tested when it commits (spec/13 R341). -/
  signals : List Nat := []
  deriving DecidableEq, Repr

/-- Bytes of one 64 B granule that a write of no op waits to be applied to (R211, spec/11 R289): their offset, and whether
WAITs on them are tested then (spec/13 R341). -/
structure HeldWrite where
  a : Nat
  data : List Byte
  wakes : Bool := false
  deriving DecidableEq, Repr

/-- Telemetry of one open step (spec/10 R255, R265): the eight counters in Table 10.6 order. -/
structure StepTel where
  step : Nat
  counters : List Nat := [0, 0, 0, 0, 0, 0, 0, 0]
  start : Nat := 0
  gate : Nat := 0
  wallOpen : Bool := true
  /-- How its STEP_COMMIT completed. -/
  outcome : Option Status := none
  deriving DecidableEq, Repr

/-! ### Engines -/

/-- A tile waiting for a turret: its op and its index. -/
structure TileJob where
  op : Nat
  tile : Nat
  /-- It was started once on a turret that was fenced since. -/
  again : Bool := false
  deriving DecidableEq, Repr

/-- Work in one accumulator buffer (spec/03 R71, spec/05 R117). -/
structure TileBuf where
  job : TileJob
  /-- Tokens of the blocks still to be paid, in order (spec/14 R358). -/
  owed : List Nat := []
  /-- Tokens of the fused program's chunks still to be paid, in order (spec/04 R93, R96). -/
  issue : List Nat := []
  /-- Blocks whose late-fetched rows have not arrived, in order (spec/05 R117). -/
  missing : List Nat := []
  acc : List Acc := []
  tally : Tally := {}
  /-- Malformed metadata groups met (spec/03 R74). -/
  malformed : Nat := 0
  deriving DecidableEq, Repr

/-- A turret (spec/01 R13): two accumulator buffers. -/
structure Turret where
  buf0 : Option TileBuf := none
  buf1 : Option TileBuf := none
  deriving DecidableEq, Repr

/-- A belfry: its deferred queue (spec/08 R190), its immediate tiles, fences and clock. -/
structure Belfry where
  deferred : List TileJob := []
  immediate : List TileJob := []
  /-- Slices of accepted ops not yet placed (spec/08 R191). -/
  unplaced : List TileJob := []
  draining : Bool := false
  peak : Nat := 0
  fullSeen : Bool := false
  fenced : Bool := false
  pllOn : Bool := false
  /-- Powered slots, bit i for slot 17b + i. -/
  powered : Nat := 0
  /-- Machine times at which its queues or engines, and the turret of each physical position, last had work (spec/14 R361). -/
  busyAt : Nat := 0
  slotBusy : Tab Nat := []
  /-- Fenced physical slots, positions 0 to 16. -/
  fencedSlots : List Nat := []
  /-- Position of the logical turret that the spare slot serves. -/
  spareFor : Option Nat := none
  /-- Vacated logical positions. -/
  vacated : List Nat := []
  deriving DecidableEq, Repr

/-- One contribution to a group element (spec/09 R232, R234): where its FP32 code lies in the retention area, and the op
that gave it with its seed. -/
structure Contrib where
  elem : Nat
  at_ : Nat
  op : Nat
  seed : Nat
  deriving DecidableEq, Repr

/-- A retained copy (spec/09 R234): the 4 KiB page of one op's contribution to a tile, or, with no op, one of the two pages
of the tile's local partial. -/
structure Retained where
  tile : Nat
  op : Option Nat
  page : Nat
  deriving DecidableEq, Repr

/-- A collective packet as its receiver holds it: sender's chip, KIND, header, and the sums of a DATA half. -/
structure CollMsg where
  src : Nat
  kind : Nat
  hdr : CollHdr
  sums : List Int := []
  deriving DecidableEq, Repr

/-- Reduction state of one tile of a group step on this device (spec/09 R234 to R243). -/
structure TileRed where
  tile : Nat
  /-- Its exponent or its form has been decided. -/
  ready : Bool := false
  pass : Nat := 1
  /-- Exponent of the pass; none while the pre-pass runs. -/
  e : Option Int := none
  /-- E of the last pass that had one. -/
  lastE : Option Int := none
  prepass : Bool := false
  cautious : Bool := false
  misses : Nat := 0
  /-- The pass from which the owner has announced. -/
  announced : Option Nat := none
  /-- EXP received by the owner: source chip and f. -/
  exps : List (Nat × Int) := []
  /-- Packets that wait for their RESTART, or for the previous step's FINAL. -/
  held : List CollMsg := []
  missSent : Bool := false
  expSent : Bool := false
  /-- What the predecessor sent in this pass: a marker, or its halves with their F. -/
  marker : Bool := false
  half0 : Option (List Int × Int) := none
  half1 : Option (List Int × Int) := none
  /-- This device's turn of the pass is over. -/
  sent : Bool := false
  /-- At the owner, once final. -/
  final : Bool := false
  sums : List Int := []
  chainF : Int := -128
  acked : Bool := false
  /-- A retained copy could not be read: the tile is abandoned (spec/09 Table 9.9). -/
  lost : Bool := false
  deriving DecidableEq, Repr

/-- Contributions of zero that wait for the group's earlier steps (spec/08 R196, spec/09 R236): op, handle, step, first
element and count. -/
structure ZerosDue where
  (op handle step first count : Nat)
  deriving DecidableEq, Repr

/-- State of one step of a tile group (spec/09 R236). -/
structure GroupStep where
  handle : Nat
  group : Nat
  step : Nat
  contribs : List Contrib := []
  /-- Pages of the retention area that it holds. -/
  copies : List Retained := []
  /-- Contributions of zero of frozen layers (spec/08 R196): op, first element and count. -/
  zeros : List (Nat × Nat × Nat) := []
  tiles : List TileRed := []
  /-- The op of the FINAL REDUCE_GRAD. -/
  final : Option Nat := none
  /-- Its FINAL has completed. -/
  finalDone : Bool := false
  /-- Its state was discarded at a failed gate. -/
  gone : Bool := false
  fMax : Int := -128
  excess : Nat := 0
  badPacket : Bool := false
  deriving DecidableEq, Repr

/-- A count-min sketch and its candidates (spec/07 R172, R173): counters keyed k × 4,096 + column. -/
structure Sketch where
  counters : Tab Nat := []
  total : Nat := 0
  cand : List Nat := []
  deriving DecidableEq, Repr

/-- A replicated row of a hot table (spec/07 R173, R174): table and its version, row, the step whose parameter version it
is. An owner's own entry holds no bytes: from which step the row is replicated, and the windows below half threshold. -/
structure Replica where
  table : Nat
  tver : Nat
  row : Nat
  version : Nat
  own : Bool := false
  bytes : List Byte := []
  low : Nat := 0
  /-- The last parameter version under which the owner's row is replicated, once it is demoted (spec/07 R176, R184). -/
  upto : Option Nat := none
  deriving DecidableEq, Repr

/-- A version of a table that its directory entry no longer names and that is not retired (spec/07 R178). -/
structure TableVer where
  table : Nat
  version : Nat
  desc : Nat
  deriving DecidableEq, Repr

/-- What an owner holds of a collective exchange (spec/06 R156): source chip and packet, in the order they came. -/
structure Exchange where
  exch : Nat
  batches : List (Nat × ReduceBatch) := []
  deriving DecidableEq, Repr

/-- The Dome's own state. -/
structure Dome where
  belfries : Tab Belfry := []
  turrets : Tab Turret := []
  groups : List GroupStep := []
  /-- Groups, by device offset, of whose no step held a packet has disagreed: the next step's FINAL ends MALFORMED (spec/09
  Table 9.9). -/
  badNext : List Nat := []
  zerosDue : List ZerosDue := []
  sketches : Tab Sketch := []
  replicas : List Replica := []
  tables : List TableVer := []
  exchanges : List Exchange := []
  /-- Rows recorded in a tile summary buffer, by its device offset (spec/05 R116). -/
  recorded : Tab Nat := []
  /-- Health word (spec/08 Table 8.4). -/
  health : Nat := 0
  txns : List Txn := []
  txnOrder : Nat := 0
  /-- Committed journals not yet copied, oldest first: bytes by device offset. -/
  journals : List (List (Nat × Byte)) := []
  heldWrites : List HeldWrite := []
  lastStep : Nat := 0
  lastCommitted : Nat := 0
  /-- Step that a one-slot slice is closed for (spec/08 R206). -/
  closedBy : Tab Nat := []
  /-- Steps of which a PARAM_PUBLISH ended with an acknowledgement missing (spec/09 Table 9.9). -/
  workFailed : List Nat := []
  /-- Steps that have failed (spec/08 R219, spec/09 R245). -/
  failedSteps : List Nat := []
  /-- Votes that this device holds as root of their round: voter and vote (spec/08 R218). -/
  votes : List (Nat × VoteMsg) := []
  /-- STEP of the latest accepted STEP_COMMIT, for telemetry attribution (spec/10 R254). -/
  telStep : Nat := 0
  steps : List StepTel := []
  epochs : List Epoch := []
  epochNext : Nat := 0
  /-- Producer entry per dependency tag: op id, and its status once complete (spec/13 R335). -/
  producers : Tab (Option (Nat × Option Status)) := []
  tripped : Bool := false
  stopped : Bool := false
  deriving DecidableEq, Repr

/-! ### Fabric (spec/12) -/

/-- Link states of Table 12.8. -/
inductive LinkState where
  | disabled | down | training | hello | up | failed | quarantined
  deriving DecidableEq, Repr

/-- A packet with its payload. -/
structure Packet where
  hdr : PktHdr
  pay : Payload
  deriving DecidableEq, Repr

/-- A packet that has not left for good: as it came to this router, the link it came by (none for this device's own), the port
it waits at, and whether it goes by that port alone, as the copies of a broadcast do (R305, R309). -/
structure HeldPkt where
  pkt : Packet
  ingress : Option Nat := none
  port : Option Nat := none
  fixed : Bool := false
  deriving DecidableEq, Repr

/-- A flit in the queue of a link (R296, R303): its packet, its virtual lane and its payload. -/
structure TxFlit where
  held : HeldPkt
  vl : Nat
  (sop eop : Bool)
  payload : List Byte
  deriving DecidableEq, Repr

/-- Flit slots of a port used in the Chime period, by management, transit and job traffic (R318). -/
structure PortUse where
  mgmt : Nat := 0
  transit : Nat := 0
  job : Nat := 0
  deriving DecidableEq, Repr

/-- One link (R297, R298, R313 to R317). -/
structure Link where
  st : LinkState := .down
  media : Bool := false
  sendSeq : Nat := 0
  expSeq : Nat := 0
  /-- DATA flits sent and not acknowledged, oldest first, each with its packet. -/
  retry : List (HeldPkt × List Byte) := []
  /-- Flits that wait for a credit or for room in the retry buffer, in order. -/
  txq : List TxFlit := []
  /-- Credits held per VL to send with. -/
  credits : List Nat := [128, 128, 128, 128, 128, 128, 128, 128]
  /-- Credits owed back per VL. -/
  owed : List Nat := [0, 0, 0, 0, 0, 0, 0, 0]
  /-- Payload of the packet being received, per VL. -/
  rx : List (List Byte) := [[], [], [], [], [], [], [], []]
  /-- Good flits since the last acknowledgement. -/
  unacked : Nat := 0
  /-- A NAK is out and its replay has not arrived. -/
  nak : Bool := false
  stuckReplays : Nat := 0
  replays : Nat := 0
  retrains : Nat := 0
  /-- In a retraining, and retrains failed in a row. -/
  retraining : Bool := false
  failedRetrains : Nat := 0
  /-- Own nonce of the hello exchange, the partner's, and whether our answer has gone. -/
  nonce : List Byte := []
  peerNonce : List Byte := []
  answered : Bool := false
  passed : Bool := false
  failedHellos : Nat := 0
  partnerChip : Nat := 0
  partnerLink : Nat := 0
  /-- Machine times of its violations inside the window. -/
  viols : List Nat := []
  /-- Calibration tag of KIND 3: LOAD, TEMP, TAKEN, and whether it was accepted when last tested. -/
  tag : Option (Nat × Int × Nat × Bool) := none
  /-- Flits and control flits sent, newest last. -/
  sent : List (List Byte) := []
  deriving DecidableEq, Repr

/-- An unacknowledged packet of a flow, and the Gallery whose packet store keeps it (R301). -/
structure Unacked where
  pkt : Packet
  tries : Nat := 0
  gallery : Nat := 0
  deriving DecidableEq, Repr

/-- A flow context (R301, R302): classes 0 control, 1 collective, 2 job bulk. -/
structure Flow where
  chip : Nat
  cls : Nat
  next : Nat := 0
  unacked : List Unacked := []
  /-- First sequence number not yet received, and the later ones received. -/
  base : Nat := 0
  got : List Nat := []
  ackOwed : Bool := false
  /-- The place of the spill range that holds it; none while it is resident. -/
  spill : Option Nat := none
  /-- Packets received and refused by an answer: their FSEQ, and that of the answer, with whose acknowledgement they count as
  received (spec/09 R246). -/
  answers : List (Nat × Nat) := []
  deriving DecidableEq, Repr

/-- A READ batch that this device serves and whose bursts wait for tokens (spec/06 R151). -/
structure Serve where
  link : Nat
  hdr : PktHdr
  rows : List RowReq
  owed : List Burst
  deriving DecidableEq, Repr

/-- The fabric's state. -/
structure Fabric where
  links : Tab Link := []
  flows : List Flow := []
  /-- Packets that left this device's sources or router: egress link where it took one. -/
  sent : List (Option Nat × Packet) := []
  /-- Packets reassembled from flits and not yet given to the packet commands: link and bytes. -/
  arrived : List (Nat × List Byte) := []
  /-- Packets that wait for a path, a credit, a share of their port, or their flow, at the source or at a port; FSEQ is 2^32
  until the packet has its number. -/
  heldPkts : List HeldPkt := []
  /-- Packets of this device to itself, not yet taken (spec/01 R19). -/
  loop : List Packet := []
  /-- Slots used of each port in this Chime period. -/
  slots : Tab PortUse := []
  /-- TRANSIT_MIN as it was when the period began (spec/14 Table 14.3). -/
  transitMin : Nat := 25
  /-- Flows, by chip and class, whose want of a context has been reported (R302). -/
  fullTold : List (Nat × Nat) := []
  serving : List Serve := []
  nextTag : Nat := 0
  mgmtTags : List Nat := []
  /-- Sources whose violation was reported in this Chime period. -/
  reported : List Nat := []
  stopped0 : Bool := false
  stopped1 : Bool := false
  deriving DecidableEq, Repr

/-- Keep time and machine time (R319, R320); offsets in 1/16 kt. -/
structure TimeState where
  keep : Nat := 0
  /-- The counter was started at stage 1 (spec/16 R391). -/
  runs : Bool := false
  offset : Int := 0
  target : Int := 0
  rateNum : Nat := 1
  rateDen : Nat := 1
  stale : Bool := false
  pathDelay : Nat := 0
  lastSync : Nat := 0
  leaders : List Nat := []
  deriving DecidableEq, Repr

/-! ### Faults (spec/15) -/

/-- A fault record (Table 15.1). -/
structure FaultRec where
  die : Nat
  unit : Nat
  kind : Nat
  count : Nat
  time : Nat
  addr : Nat
  deriving DecidableEq, Repr

/-- A bucket entry (R373, R374). -/
structure Bucket where
  die : Nat
  unit : Nat
  kind : Nat
  cls : Nat
  level : Nat
  promoted : Bool := false
  /-- Its level falls by 1 every so many kt, 0 for never, and did so last at this machine time (R373). -/
  every : Nat := 0
  leakAt : Nat := 0
  deriving DecidableEq, Repr

/-- The collector's state. -/
structure FaultState where
  /-- Records a unit holds undelivered. -/
  undelivered : List FaultRec := []
  buckets : List Bucket := []
  /-- Log number and record, with the class it was logged at: newest first, at most 4,096. -/
  log : List (FaultRec × Nat) := []
  written : Nat := 0
  halted : Bool := false
  /-- Sources of the C4s in force. -/
  fatal : List (Nat × Nat) := []
  sealed : Bool := false
  /-- Repair list: replaced source and spare source (persistent store). -/
  repairs : List (Nat × Nat) := []
  alert : Bool := false
  /-- Newest record of class C2 or above (spec/17 R427). -/
  newest : Option FaultRec := none
  thermTrip : Bool := false
  deriving DecidableEq, Repr

/-! ### Memory interfaces, power and the Finial -/

/-- An LPDDR5X channel (spec/11 R277, R278, R288). -/
structure Channel where
  selfRefresh : Bool := false
  due : Bool := false
  /-- When its retraining fell due. -/
  dueAt : Nat := 0
  /-- It left self-refresh with a retraining due, which comes before its first request. -/
  exiting : Bool := false
  training : Bool := false
  ppr : Bool := false
  refreshes : Nat := 0
  lastTrained : Nat := 0
  /-- Machine time of its last request. -/
  lastUse : Option Nat := none
  /-- Package temperature as last reported, and at its last training, °C. -/
  pkgTemp : Int := 0
  trainTemp : Int := 0
  tag : Option (Nat × Int × Nat × Bool) := none
  /-- Suspect rows: bank × 2^18 + row, and hits. -/
  suspect : List (Nat × Nat) := []
  deriving DecidableEq, Repr

/-- A repair in progress. -/
structure Ppr where
  ch : Nat
  bank : Nat
  row : Nat
  deriving DecidableEq, Repr

/-- A size cut of a Lantern partition (spec/11 R282): its old size in MiB, the first op id accepted after it, and whether
the use is still above the new size. -/
structure Cut where
  part : Nat
  old : Nat
  mark : Nat
  waits : Bool
  deriving DecidableEq, Repr

/-- The memory interfaces. -/
structure MemIf where
  channels : Tab Channel := []
  ppr : Tab (Option Ppr) := []
  /-- Spare banks taken: die, spare index, and the bank it replaces; none once the spare itself was replaced. -/
  spares : List (Nat × Nat × Option Nat) := []
  /-- Banks whose copy to the spare runs: die, bank, spare. -/
  copying : List (Nat × Nat × Nat) := []
  /-- Bytes that the device wrote in its own tables while their bank was in copy: offset and count. -/
  copyWrites : List (Nat × Nat) := []
  /-- BAR2 accesses that wait for a bank in copy, oldest first: offset, and the bytes of a write or the count of a read. -/
  bar2Waits : List (Nat × Option (List Byte) × Nat) := []
  /-- Partition cuts whose older ops may still use the old extent. -/
  cuts : List Cut := []
  /-- Replays of grains under way: accessor, offset, count. -/
  replays : List (Accessor × Nat × Nat) := []
  stoppedDies : List Nat := []
  /-- Answers to host reads through BAR2, newest last: none is Completer Abort. -/
  bar2Answers : List (Option (List Byte)) := []
  deriving DecidableEq, Repr

/-- A voltage and frequency record (spec/14 R362). -/
structure VfRec where
  volt : Nat
  load : Nat
  temp : Int
  taken : Nat
  accepted : Bool := true
  deriving DecidableEq, Repr

/-- The Chime (spec/14). -/
structure Chime where
  period : Nat := 0
  /-- Number of the period that has begun (spec/14 R355). -/
  began : Nat := 0
  /-- Balance of budgeted units, keyed activity × 512 + unit; an unlisted unit holds its PEAK. -/
  balance : Tab Nat := []
  debt : Tab Nat := []
  /-- Factors: Dome, Lanterns, Drums, Galleries. -/
  factors : List Nat := [16, 16, 16, 16, 16, 16, 16, 16, 16]
  temps : List Int := List.replicate 26 0
  load : Nat := 0
  watts : Nat := 0
  temp : Int := 0
  vf : Tab (Option VfRec) := []
  vdd : Nat := 800
  /-- The setpoint before the last command to the regulator. -/
  vddPrev : Nat := 800
  guard : Bool := true
  forced : Nat := 0
  stretchSeen : Bool := false
  lastBusyLoad : Nat := 0
  /-- The calibration pattern runs in a maintenance gap, and since when. -/
  recal : Bool := false
  recalAt : Nat := 0
  /-- Machine time at which an op was last in flight on the Dome. -/
  domeBusyAt : Nat := 0
  /-- The CHM registers as they were when the machine time of the latest period came, and those in force in the period that has
  begun (spec/14 R359, R368, R369). -/
  latch : Tab Word := []
  cfg : Tab Word := []
  /-- The phase baseline's tag was accepted when last tested (spec/10 R268, R269). -/
  baseOk : Bool := true
  /-- Grant of each activity this period (spec/14 R357); an unlisted one has PEAK. -/
  grants : Tab Nat := []
  deriving DecidableEq, Repr

/-- The Wamos session (spec/16 R401 to R404). -/
structure Session where
  scope : Nat
  targetLc : Nat
  ends : Nat
  deriving DecidableEq, Repr

/-- Wamos and the UART. -/
structure Wamos where
  line : List Byte := []
  challenge : Option (List Byte) := none
  fails : Nat := 0
  /-- `unlock` is locked out, and until which keep time (R404). -/
  lockout : Bool := false
  lockEnds : Nat := 0
  session : Option Session := none
  /-- Lines sent on MON_TXD, newest last. -/
  out : List String := []
  /-- Characters echoed. -/
  echo : List Byte := []
  /-- `lc` waits for its burn. -/
  lcWaits : Bool := false
  deriving DecidableEq, Repr

/-- Start-up, security and pins (spec/16, spec/17). -/
structure Finial where
  aonPwrok : Bool := true
  stage : Nat := 0
  ready : Bool := false
  slotB : Bool := false
  failA : Bool := false
  failB : Bool := false
  strap : Nat := 0
  lc : Nat := 0
  lcBurn : Option Nat := none
  serial : Nat := 0
  stepping : Nat := 1
  finCtr : Nat := 0
  blfCtr : Nat := 0
  finSvn : Nat := 0
  blfSvn : Nat := 0
  belfryImage : Bool := false
  arbBurn : Bool := false
  cert : List Byte := []
  keysBlown : Bool := false
  m0 : List Byte := List.replicate 48 0
  m1 : List Byte := List.replicate 48 0
  m2 : List Byte := List.replicate 48 0
  attBusy : Bool := false
  attDone : Bool := false
  attInputs : List Byte := []
  report : List Byte := List.replicate 352 0
  /-- KREF runs; until it does, the ROM uses its internal oscillator (spec/16 R392). -/
  kref : Bool := false
  /-- The ROM ran 100 ms without KREF: boot stops at stage 1. -/
  krefLostBoot : Bool := false
  /-- RAIL_EN and RAIL_PG, bit i for step i + 1 of spec/17 Table 17.8. -/
  railEn : Nat := 0
  railPg : Nat := 0
  /-- Keep times of the last enable and, by step, of the power goods (spec/17 R422). -/
  railEnAt : Nat := 0
  railPgAt : Tab Nat := []
  /-- A rail did not come up: the later enables stay low (spec/17 R422). -/
  railsStopped : Bool := false
  /-- Stage 2 is done; stage 3 is done. -/
  memoryDone : Bool := false
  domeDone : Bool := false
  /-- Boot flash: the image programmed at each flash offset where one starts (spec/16 R393). -/
  flash : Tab (List Byte) := []
  /-- PERST_N as the pin stands, and held inside until VDD_PCIE is good; the keep time of its release. -/
  perstLow : Bool := true
  perstHeld : Bool := false
  perstAt : Nat := 0
  /-- Configuration requests answered: normally, by the function of this class code, or with Request Retry Status. -/
  cfgAnswers : List (Option Nat) := []
  /-- BAR0 accesses answered with Unsupported Request. -/
  unsupported : Nat := 0
  cmpCount : Tab Nat := []
  cmpReported : List Nat := []
  /-- Comparators whose count waits for the tokens of its write. -/
  cmpDue : List Nat := []
  /-- Comparators being released by the HIF. -/
  cmpReleasing : List Nat := []
  gpioTicks : List Nat := []
  smbAnswer : Option (List Byte) := none
  smbAlertAnswers : Nat := 0
  jtagIr : Nat := 1
  /-- What the selected data register last captured: the IDCODE, or the result of a scan or self-test. -/
  jtagDr : Nat := 0x1640056F
  /-- The boundary register's 5,146 cells (spec/17 R429). -/
  boundary : Nat := 0
  pinsTaken : Bool := false
  avsPending : Bool := false
  deriving DecidableEq, Repr

/-- The host interface outside its registers (spec/13). -/
structure HostIf where
  rings : Tab Ring := []
  queues : Tab EvQueue := []
  /-- Completions so far. -/
  doneNext : Nat := 0
  /-- The ring from which the next turn of fetching goes on (spec/13 R328). -/
  nextRing : Nat := 0
  pollUs : Nat := 1
  /-- Requests to the host window outstanding. -/
  reads : List HostRead := []
  nextTag : Nat := 0
  pba : List Nat := []
  /-- MSI-X vectors sent, newest last. -/
  msix : List Nat := []
  deriving DecidableEq, Repr

/-- The whole device, and the commands that wait. -/
structure State where
  /-- The commands waiting, first in, first out: the block's queue. -/
  pending : List Instr := []
  /-- Free values taken so far: the model's own field (log entry 8). -/
  draws : Nat := 0
  time : TimeState := {}
  /-- Set-up registers that hold what was written, by BAR0 offset; an unlisted one reads its reset value. -/
  regs : Tab Word := []
  mem : Memory := {}
  /-- Host memory as the device has written it (log entry 3). -/
  host : Memory := { fills := [{ lo := 0, hi := 2 ^ 64, src := .free 0 }] }
  hif : HostIf := {}
  /-- Ops in flight, in acceptance order. -/
  ops : List Op := []
  opNext : Nat := 0
  dome : Dome := {}
  fab : Fabric := {}
  flt : FaultState := {}
  mif : MemIf := {}
  chime : Chime := {}
  fin : Finial := {}
  wamos : Wamos := {}
  deriving DecidableEq, Repr

/-- The machine at the instant AON_PWROK has risen (spec/16 R389, R391; log entry 1): every field's default. -/
def State.reset : State := {}

end Sys2Proof.Machine
end

