-- ==== Sys2Proof/Machine/Mem.lean ====
section
/-! DEFINITION. Memory: what a byte reads as, writing bytes, and losing a range (spec/11 R273 to R283), with the
canonical form every operation keeps. -/

namespace Sys2Proof.Machine

/-- What an address reads as where no cell lists it: the newest fill that holds it, else zero (log entries 2, 4). -/
def underByte (fs : List Fill) (a : Nat) : Byte :=
  match fs with
  | [] => 0
  | f :: t =>
    if f.lo ≤ a ∧ a < f.hi then
      match f.src with
      | .zero => 0
      | .free k => Config.freeByte k a
    else underByte t a

/-- The address reads as a known zero where no cell lists it. -/
def underZero (fs : List Fill) (a : Nat) : Bool :=
  match fs with
  | [] => true
  | f :: t => if f.lo ≤ a ∧ a < f.hi then f.src == .zero else underZero t a

/-- The cells with one byte rewritten: a zero over a known zero is not listed. -/
def putCell (fs : List Fill) : Tab Byte → Nat → Byte → Tab Byte
  | [], a, v => if v = 0 ∧ underZero fs a then [] else [(a, v)]
  | (i, w) :: t, a, v =>
    if a = i then (if v = 0 ∧ underZero fs a then t else (a, v) :: t)
    else if a < i then (if v = 0 ∧ underZero fs a then (i, w) :: t else (a, v) :: (i, w) :: t)
    else (i, w) :: putCell fs t a v

/-- One byte of a memory. -/
def Memory.get (m : Memory) (a : Nat) : Byte := tabGet (underByte m.fills) m.cells a

/-- A memory with one byte written. -/
def Memory.put (m : Memory) (a : Nat) (v : Byte) : Memory := { m with cells := putCell m.fills m.cells a v }

/-- The canonical form: addresses strictly rising, no listed zero where an unlisted address reads as zero. -/
def cellsWf (fs : List Fill) : Nat → Tab Byte → Bool
  | _, [] => true
  | lo, (i, v) :: t => decide (lo ≤ i) && !(v == 0 && underZero fs i) && cellsWf fs (i + 1) t

/-- The canonical form of a memory. -/
def Memory.wf (m : Memory) : Bool := cellsWf m.fills 0 m.cells

/-- `n` bytes from an address. -/
def Memory.getBytes (m : Memory) (a n : Nat) : List Byte := (List.range n).map fun i => m.get (a + i)

/-- Bytes written from an address, lowest first. -/
def Memory.putBytes : Memory → Nat → List Byte → Memory
  | m, _, [] => m
  | m, a, b :: bs => Memory.putBytes (m.put a b) (a + 1) bs

/-- A range whose contents are lost, or set to zero, at once. -/
def Memory.lose (m : Memory) (lo hi : Nat) (src : FillSrc) : Memory :=
  let f : Fill := { lo := lo, hi := hi, src := src }
  { fills := f :: m.fills, cells := m.cells.filter fun c => c.1 < lo || hi ≤ c.1 }

/-! ### The offset space (spec/11 Table 11.1) -/

/-- First Lantern offset. -/
def lanBase : Nat := 0x010000000000
/-- First scratchpad offset. -/
def padBase : Nat := 0x020000000000
/-- First host-window offset. -/
def hwinBase : Nat := 0x040000000000
/-- Bytes of LPDDR5X. -/
def lpBytes : Nat := 0xA000000000
/-- Bytes of Lantern. -/
def lanBytes : Nat := 0x80000000
/-- Bytes of a turret's scratchpad (spec/11 R283). -/
def padBytes : Nat := 0xC0000

/-- The region a device offset lies in (spec/11 Table 11.1). -/
inductive Region where
  | lpddr | lantern | scratch | mirror | hostWindow | gap
  deriving DecidableEq, Repr

/-- spec/01 R20, spec/11 Table 11.1 and R283. -/
def regionOf (o : Nat) : Region :=
  if o < lpBytes then .lpddr
  else if lanBase ≤ o ∧ o < lanBase + lanBytes then .lantern
  else if padBase ≤ o ∧ o < padBase + 0x10000000 then (if o % 0x100000 < padBytes then .scratch else .gap)
  else if 0x030000000000 ≤ o ∧ o < 0x030004000000 then .mirror
  else if hwinBase ≤ o ∧ o < hwinBase + 0x010000000000 then .hostWindow
  else .gap

/-- Bytes left in the region from an offset; for a scratchpad, in that turret's (spec/11 R283). -/
def regionLeft (o : Nat) : Nat :=
  match regionOf o with
  | .lpddr => lpBytes - o
  | .lantern => lanBase + lanBytes - o
  | .scratch => padBytes - o % 0x100000
  | .mirror => 0x030004000000 - o
  | .hostWindow => hwinBase + 0x010000000000 - o
  | .gap => 0

/-- spec/11 R275, lp_decode: channel and channel-local byte of an LPDDR5X offset under FOLD. -/
def lpDecode (fold offset : Nat) : Nat × Nat :=
  let g := offset >>> 12
  let f := (List.range 3).foldl
    (fun f i => if natBits fold i i = 1 then f ^^^ ((g >>> (7 * i + 7)) % 128) else f) 0
  ((g % 128) ^^^ f, (g >>> 7) * 4096 + offset % 4096)

/-- The offset that FOLD gives to a channel and a channel-local byte: the inverse of R275. -/
def lpEncode (fold ch loc : Nat) : Nat :=
  let hi := (loc / 4096) <<< 7
  let f := (List.range 3).foldl
    (fun f i => if natBits fold i i = 1 then f ^^^ ((hi >>> (7 * i + 7)) % 128) else f) 0
  (hi + (ch ^^^ f)) * 4096 + loc % 4096

/-- spec/11 R279: die, bank, granule and byte of a Lantern offset. -/
def lanDecode (o : Nat) : Nat × Nat × Nat × Nat :=
  (natBits o 13 12, natBits o 19 14, natBits o 30 20, o % 4096)

end Sys2Proof.Machine
end

