-- ==== Sys2Proof/Machine/Regs.lean ====
section
/-! DEFINITION. The set-up registers that hold what is written to them (spec/17 Table 17.14 and each chapter's register
table): where they lie, which bits take a write, which are cleared by ones, and what they hold at reset. Registers and
fields that report other state are in RegRead. -/

namespace Sys2Proof.Machine

/-- A run of registers of one shape. -/
structure RegDef where
  base : Nat
  count : Nat := 1
  stride : Nat := 4
  rw : Nat
  w1c : Nat := 0
  reset : Nat := 0
  deriving DecidableEq, Repr

/-- Whether an offset is one of the run. -/
def RegDef.has (d : RegDef) (off : Nat) : Bool :=
  decide (d.base ≤ off) && decide (off < d.base + d.count * d.stride) && (off - d.base) % d.stride == 0

/-- All ones. -/
def ones32 : Nat := 0xFFFFFFFF

/-- FIN registers (spec/16 Table 16.9). -/
def finRegs : List RegDef :=
  [ { base := 0x20, rw := 0xC03FFFFF, reset := 0x8001C200 },
    { base := 0x40, count := 8, rw := 0xF4F },
    { base := 0x80, count := 1, rw := 0x80000007, reset := 0x80000002 },
    { base := 0x90, count := 2, stride := 16, rw := 0x80000007, reset := 0x80000001 },
    { base := 0xB0, count := 13, stride := 16, rw := 0x80000007 },
    { base := 0x84, count := 16, stride := 16, rw := ones32 },
    { base := 0x88, count := 16, stride := 16, rw := ones32 },
    { base := 0x8C, count := 16, stride := 16, rw := ones32 },
    { base := 0x200, count := 8, rw := ones32 },
    { base := 0x240, count := 12, rw := ones32 } ]

/-- HIF registers (spec/13 Table 13.9, spec/11 Table 11.5). -/
def hifRegs : List RegDef :=
  [ { base := 0x100000, rw := 1 }, { base := 0x100004, rw := 0xFFFFF000 }, { base := 0x100008, rw := ones32 },
    { base := 0x10000C, rw := 0xFFFFF000 }, { base := 0x100010, rw := ones32 },
    { base := 0x100014, rw := ones32, reset := 0x320001 }, { base := 0x100018, rw := 0x3F },
    { base := 0x100020, rw := 0, w1c := ones32 }, { base := 0x100024, rw := 0, w1c := ones32 },
    { base := 0x100028, rw := 0, w1c := ones32 },
    { base := 0x100100, rw := 0xFFF }, { base := 0x100104, rw := 0, w1c := ones32 },
    { base := 0x100108, rw := 0xFFFFF001 }, { base := 0x10010C, rw := ones32 },
    { base := 0x101000, count := 256, stride := 32, rw := 0xFFFFFFC0 },
    { base := 0x101004, count := 256, stride := 32, rw := ones32 },
    { base := 0x101008, count := 256, stride := 32, rw := 0xBFF87FFF, reset := 0x300400 },
    { base := 0x10100C, count := 256, stride := 32, rw := 0xFFFF, reset := 1000 },
    { base := 0x103000, count := 64, stride := 32, rw := 0xFFFFF000 },
    { base := 0x103004, count := 64, stride := 32, rw := ones32 },
    { base := 0x103008, count := 64, stride := 32, rw := 0x801F003F, reset := 0x60000 },
    { base := 0x10300C, count := 64, stride := 32, rw := ones32, reset := 0x61B0010 },
    { base := 0x108000, count := 256, rw := ones32 } ]

/-- N, W in units of 16 ms, and base class of a fault kind (spec/15 Table 15.3, R372). -/
def faultKind (k : Nat) : Nat × Nat × Nat :=
  match k with
  | 0x01 => (64, 64, 1)
  | 0x02 => (2, 60000, 3)
  | 0x03 => (2, 60000, 3)
  | 0x04 => (1024, 64, 1)
  | 0x08 => (2, 60000, 2)
  | 0x09 => (0, 0, 0)
  | 0x0A => (2, 60000, 4)
  | 0x10 => (256, 64, 1)
  | 0x11 => (0, 0, 2)
  | 0x12 => (0, 0, 1)
  | 0x13 => (0, 0, 2)
  | 0x14 => (0, 0, 2)
  | 0x18 => (0, 0, 4)
  | 0x19 => (0, 0, 0)
  | 0x20 => (0, 0, 0)
  | 0x21 => (3, 60000, 4)
  | 0x22 => (0, 0, 2)
  | 0x28 => (0, 0, 3)
  | 0x29 => (0, 0, 3)
  | 0x2A => (0, 0, 4)
  | 0x30 => (0, 0, 1)
  | 0x31 => (0, 0, 3)
  | 0x38 => (2, 60000, 4)
  | 0x40 => (0, 0, 5)
  | 0x41 => (0, 0, 5)
  | 0x48 => (0, 0, 4)
  | _ => (0, 0, 0)

/-- The kinds of Table 15.3; every other kind is reserved. -/
def faultKinds : List Nat :=
  [0x01, 0x02, 0x03, 0x04, 0x08, 0x09, 0x0A, 0x10, 0x11, 0x12, 0x13, 0x14, 0x18, 0x19, 0x20, 0x21, 0x22, 0x28, 0x29,
   0x2A, 0x30, 0x31, 0x38, 0x40, 0x41, 0x48]

/-- FLT registers (spec/15 Table 15.9). FLT_CLASS_CFGk of a reserved kind takes no write (R387). -/
def fltRegs : List RegDef :=
  { base := 0x20000C, rw := 0, w1c := ones32 } :: { base := 0x200020, count := 6, rw := 0, w1c := ones32 } ::
    faultKinds.map fun k =>
      let (n, w, b) := faultKind k
      { base := 0x200100 + 4 * k, rw := 0xFFFF8FFF, reset := w * 65536 + b * 4096 + n }

/-- CHM registers (spec/14 Table 14.6). -/
def chmRegs : List RegDef :=
  [ { base := 0x300004, rw := ones32, reset := 0x140002 }, { base := 0x300008, rw := 0xF0FFF, reset := 0x20264 },
    { base := 0x30000C, rw := 0x3FF, reset := 760 }, { base := 0x300040, rw := 0xFF0000, reset := 0x190000 },
    { base := 0x300044, rw := 0x8000FFFF, reset := 0x80000064 }, { base := 0x300048, rw := 0, w1c := ones32 },
    { base := 0x300200, count := 104, rw := 0x1FF, reset := 256 } ]

/-- OCU registers (spec/10 Table 10.10). -/
def ocuRegs : List RegDef :=
  [ { base := 0x400000, rw := 0x7FFFF000 }, { base := 0x400004, rw := 0xFFFF3FFF, reset := 0x1000000 },
    { base := 0x400008, rw := 0x8000FFFF }, { base := 0x40000C, rw := 0x7FFFF000 },
    { base := 0x400010, rw := 0 }, { base := 0x400014, rw := 0, w1c := ones32 },
    { base := 0x400018, rw := 0, w1c := ones32 }, { base := 0x40001C, rw := 0xFFFF, reset := 0xA14 },
    { base := 0x400020, rw := 0xFFFFFFC0 }, { base := 0x400024, rw := 0, w1c := ones32 } ]

/-- GAL registers (spec/12 Table 12.11). VIOL and DROPS lie in each Gallery. -/
def galRegs : List RegDef :=
  [ { base := 0x800000, rw := ones32, reset := 0xFFFF0000 }, { base := 0x800004, rw := 0x7FFF },
    { base := 0x800008, count := 2, rw := ones32 }, { base := 0x800010, rw := 0xFF, reset := 25 },
    { base := 0x800014, rw := ones32, reset := 0x3E80040 }, { base := 0x800018, rw := 3 },
    { base := 0x80001C, rw := 0xFFFF, reset := 1221 }, { base := 0x800020, rw := 0xFFFFF },
    { base := 0x800024, rw := 0xFFF }, { base := 0x800030, count := 4, rw := 0x8000FFFF },
    { base := 0x800040, rw := 0xC000FFFF, reset := 1000 },
    { base := 0x800060, rw := 0, w1c := ones32 }, { base := 0x800064, rw := 0, w1c := ones32 },
    { base := 0xA00060, rw := 0, w1c := ones32 }, { base := 0xA00064, rw := 0, w1c := ones32 },
    { base := 0x801000, count := 48, stride := 16, rw := 0x90000000, reset := 0x80000000 },
    { base := 0xA01000, count := 48, stride := 16, rw := 0x90000000, reset := 0x80000000 },
    { base := 0x820000, count := 32768, rw := ones32 }, { base := 0x840000, count := 2048, rw := ones32 },
    { base := 0x850000, count := 32, rw := ones32, reset := 0xFFFFFFFF },
    { base := 0x850100, count := 64, rw := ones32, reset := 0xFFFFFFFF } ]

/-- DRM and LAN registers (spec/11 Tables 11.3, 11.4). -/
def memRegs : List RegDef :=
  [ { base := 0xC00000, rw := 7, reset := 7 },
    { base := 0xC00004, rw := 0xFFFF, reset := 100 }, { base := 0xD00004, rw := 0xFFFF, reset := 100 },
    { base := 0xC00008, rw := 0xFFFFFF, reset := 0x50064 }, { base := 0xD00008, rw := 0xFFFFFF, reset := 0x50064 },
    { base := 0xC00200, count := 64, rw := 0, w1c := ones32 }, { base := 0xD00200, count := 64, rw := 0, w1c := ones32 },
    { base := 0xC00304, rw := 0 }, { base := 0xD00304, rw := 0 },
    { base := 0xE00020, count := 4, stride := 0x40000, rw := 0, w1c := ones32 },
    { base := 0xE00100, rw := 0x7FF0FFF, reset := 0x200 }, { base := 0xE00104, rw := 0x7FF0FFF, reset := 0x2000200 },
    { base := 0xE00108, rw := 0x7FF0FFF, reset := 0x4000100 }, { base := 0xE0010C, rw := 0x7FF0FFF, reset := 0x5000002 },
    { base := 0xE00110, rw := 0x7FF0FFF, reset := 0x5020100 }, { base := 0xE00114, rw := 0x7FF0FFF, reset := 0x60201FE } ]

/-- DOM registers (spec/02 Table 2.7, spec/05 Table 5.5, spec/06 Table 6.4, spec/07 Table 7.6, spec/08 Table 8.9,
spec/09 Table 9.8). -/
def domRegs : List RegDef :=
  [ { base := 0x1000000, rw := 0x1F0F, reset := 0xC00 }, { base := 0x1000008, count := 2, rw := ones32 },
    { base := 0x1000040, rw := 0x7FFFFFC0 }, { base := 0x1000044, rw := 0xFF01, reset := 0x2000 },
    { base := 0x1000080, rw := 0x9FFF1FFF, reset := 0x10001 },
    { base := 0x10000C0, rw := 0x7FFFF000 }, { base := 0x10000C4, rw := 0xFFFF0FFF, reset := 0x4000440 },
    { base := 0x10000D0, count := 4, rw := 0x800000FF },
    { base := 0x1000100, rw := 0x7FFFFFC0 }, { base := 0x1000104, rw := 0xFFF1FFFF, reset := 0x27100000 },
    { base := 0x1000108, rw := 0xFFFFE000 },
    { base := 0x1000180, rw := 0x7FFFF000 }, { base := 0x1000184, rw := 0xFFFFF },
    { base := 0x1000188, rw := 0x1F, reset := 16 }, { base := 0x1000190, rw := 0, w1c := ones32 },
    { base := 0x1010000, count := 16384, rw := ones32 }, { base := 0x1020000, count := 16384, rw := ones32 } ]

/-- Every stored register. -/
def allRegs : List RegDef :=
  finRegs ++ (hifRegs ++ (fltRegs ++ (chmRegs ++ (ocuRegs ++ (galRegs ++ (memRegs ++ domRegs))))))

/-- The definition of an offset's register; only the block of the offset is searched. -/
def regDef (off : Nat) : Option RegDef :=
  let block :=
    if off < 0x100000 then finRegs else if off < 0x200000 then hifRegs else if off < 0x300000 then fltRegs
    else if off < 0x400000 then chmRegs else if off < 0x800000 then ocuRegs else if off < 0xC00000 then galRegs
    else if off < 0x1000000 then memRegs else domRegs
  block.find? fun d => d.has off

/-- What a stored register holds at reset. Ownership entry 0 of either bank names chip 0xFFFF (spec/06 Table 6.4):
its CHIP field is bits [23:8] of word 1. -/
def regReset (off : Nat) : Word :=
  if off = 0x1010004 ∨ off = 0x1020004 then 0x00FFFF00
  else match regDef off with
    | some d => BitVec.ofNat 32 d.reset
    | none => 0

/-- The stored word at an offset. -/
def regGet (s : State) (off : Nat) : Word := tabGet regReset s.regs off

/-- A field of a stored register. -/
def regBits (s : State) (off hi lo : Nat) : Nat := bits (regGet s off) hi lo

/-- A stored word set by the device or by an accepted write. -/
def regPut (s : State) (off : Nat) (v : Word) : State := { s with regs := tabPut regReset s.regs off v }

/-- A field of a stored register set. -/
def regSet (s : State) (off hi lo x : Nat) : State := regPut s off (setBits (regGet s off) hi lo x)

/-- A write by its access: RW bits take the value, W1C bits written 1 clear, the rest stay (spec/00 R9). -/
def regWriteWord (d : RegDef) (old v : Word) : Word :=
  let rw := BitVec.ofNat 32 d.rw
  let w1c := BitVec.ofNat 32 d.w1c
  (old &&& ~~~rw &&& ~~~(w1c &&& v)) ||| (v &&& rw)

/-- An accepted write of a stored register; an offset that holds none ignores it (spec/13 R324). -/
def regAccept (s : State) (off : Nat) (v : Word) : State :=
  match regDef off with
  | some d => regPut s off (regWriteWord d (regGet s off) v)
  | none => s

/-- A counter register that stops at 0xFFFF_FFFF, increased. -/
def regCount (s : State) (off n : Nat) : State :=
  regPut s off (BitVec.ofNat 32 (satAdd32 (regGet s off).toNat n))

end Sys2Proof.Machine
end

