-- ==== Sys2Proof/Machine/Ops.lean ====
section
/-! DEFINITION. The named operations every command is written from: machine time, events and interrupts (spec/13),
raising a fault (spec/15), addresses and regions, versions and pins, reads and writes of an op with its transaction
group (spec/08), and completing an op. -/

namespace Sys2Proof.Machine

/-! ### Time (spec/12 R319) -/

/-- Machine time: keep time plus the keep offset, in kt. -/
def mtime (s : State) : Nat := (((s.time.keep : Int) * 16 + s.time.offset) / 16).toNat

/-- `us` microseconds have passed since machine time `t`; 1 µs is 156.25 kt. -/
def elapsed (s : State) (t us : Nat) : Bool := decide (4 * mtime s ≥ 4 * t + 625 * us)

/-- Machine time has been set: the Chime period that runs now is the one whose span it lies in (spec/14 R355). -/
def periodRestart (s : State) : State := { s with chime := { s.chime with began := mtime s / 1280 } }

/-- A free value: the next draw, and the state with the draw taken (log entry 8). -/
def drawFree (s : State) : Nat × State := (Config.freeNat s.draws, { s with draws := s.draws + 1 })

/-- `n` free bytes of the Finial's generator. -/
def drawBytes (n : Nat) (s : State) : List Byte × State :=
  let (v, s) := drawFree s
  (leBytes n v, s)

/-! ### Configuration read from registers -/

/-- Own logical chip number (spec/12 Table 12.11, GAL_SELF). -/
def ownChip (s : State) : Nat := regBits s 0x800000 31 16
/-- Job ID; 0 is no job (spec/01 R16). -/
def jobId (s : State) : Nat := regBits s 0x800000 15 0
/-- Spire mode (spec/00 R3). -/
def spireMode (s : State) : Bool := s.fin.strap == 1
/-- Job seed (spec/02 Table 2.7). -/
def jobSeed (s : State) : Nat := regBits s 0x1000008 31 0 + regBits s 0x100000C 31 0 * 2 ^ 32
/-- Base and size of Lantern partition k, MiB (spec/11 Table 11.3). -/
def partBase (s : State) (k : Nat) : Nat := regBits s (0xE00100 + 4 * k) 26 16
/-- Size of Lantern partition k, MiB. -/
def partSize (s : State) (k : Nat) : Nat := regBits s (0xE00100 + 4 * k) 11 0
/-- Slices of the version table (spec/08 Table 8.9). -/
def verCount (s : State) : Nat := regBits s 0x1000104 16 0
/-- A group's Lantern offset in the general partition: whether [o, o + n) lies wholly in partition k. -/
def inPart (s : State) (k o n : Nat) : Bool :=
  decide (partBase s k * 2 ^ 20 ≤ o) && decide (o + n ≤ (partBase s k + partSize s k) * 2 ^ 20)
/-- Host window base, when enabled (spec/11 R291). -/
def hostWindow (s : State) : Option Nat :=
  if regBits s 0x100108 0 0 = 1 then some (regBits s 0x100108 31 12 * 4096 + regBits s 0x10010C 31 0 * 2 ^ 32) else none

/-! ### Events and interrupts (spec/13 R347 to R352) -/

/-- spec/13 Table 13.7. -/
def Status.code : Status → Nat
  | .ok => 0
  | .timeout => 1
  | .conflict => 2
  | .resourceHeld => 3
  | .scaleMiss => 4
  | .nonfinite => 5
  | .malformed => 6
  | .outOfRange => 7
  | .quarantined => 8
  | .aborted => 9

/-- Event queue q. -/
def eqGet (s : State) (q : Nat) : EvQueue := tabGet (fun _ => {}) s.hif.queues q
/-- Event queue q replaced. -/
def eqPut (s : State) (q : Nat) (e : EvQueue) : State :=
  { s with hif := { s.hif with queues := tabPut (fun _ => {}) s.hif.queues q e } }
/-- Records queue q holds. -/
def eqSize (s : State) (q : Nat) : Nat := 2 ^ regBits s (0x103008 + 32 * q) 20 16
/-- Host address of queue q. -/
def eqBase (s : State) (q : Nat) : Nat := regBits s (0x103000 + 32 * q) 31 12 * 4096 + regBits s (0x103004 + 32 * q) 31 0 * 2 ^ 32
/-- Queue q is enabled. -/
def eqEnabled (s : State) (q : Nat) : Bool := regBits s (0x103008 + 32 * q) 31 31 = 1

/-- Free slots of queue q; an EQ_HEAD ahead of the count is an empty queue (spec/13 R347, R354). -/
def eqFree (s : State) (q : Nat) : Nat :=
  let e := eqGet s q
  let used := (e.written + 2 ^ 32 - e.head % 2 ^ 32) % 2 ^ 32
  if used > eqSize s q then eqSize s q else eqSize s q - used

/-- An event record's bytes 0 to 15 (spec/13 Table 13.6), the flags without PHASE and LOST. -/
def recHead (code st eflags ring stream time : Nat) : List Byte :=
  leBytes 2 code ++ leBytes 1 st ++ leBytes 1 eflags ++ leBytes 2 ring ++ leBytes 2 stream ++ leBytes 8 time

/-- A record written at a free-running count with its PHASE bit, and `lost` in EFLAGS bit 2. -/
def putRecord (s : State) (q count : Nat) (lost : Bool) (bs : List Byte) : State :=
  let ph := b2n ((count / eqSize s q) % 2 == 0)
  let fl := BitVec.ofNat 8 (ph + 4 * b2n lost)
  let bs := bs.take 3 ++ [((bs[3]?).getD 0) ||| fl] ++ bs.drop 4
  { s with host := s.host.putBytes (eqBase s q + (count % eqSize s q) * 32) bs }

/-- The interrupt of queue q is sent on its vector, or pends behind a masked one (spec/13 R350). -/
def sendIrq (s : State) (q : Nat) : State :=
  let v := regBits s (0x103008 + 32 * q) 5 0
  let s := eqPut s q { eqGet s q with pend := 0 }
  if regBits s (0x108000 + 16 * v + 12) 0 0 = 1 then
    { s with hif := { s.hif with pba := if s.hif.pba.contains v then s.hif.pba else s.hif.pba ++ [v] } }
  else { s with hif := { s.hif with msix := s.hif.msix ++ [v] } }

/-- One record, or a completion with its extension, enters queue q and counts once for moderation (spec/13 R349,
R350); `now` sends the interrupt at once. -/
def postRecords (s : State) (q : Nat) (bs : List Byte) (ext : Option (List Byte)) (now : Bool) : State :=
  let e := eqGet s q
  let s := match ext with
    | some x => putRecord s q (e.written + 1) e.lost x
    | none => s
  let s := putRecord s q e.written e.lost bs
  let n := if ext.isSome then 2 else 1
  let e := { e with written := (e.written + n) % 2 ^ 32, lost := false, pend := e.pend + 1,
                    since := if e.pend = 0 then mtime s else e.since }
  let s := eqPut s q e
  if now || decide (e.pend ≥ max 1 (regBits s (0x10300C + 32 * q) 15 0)) then sendIrq s q else s

/-- A device event (spec/13 R348, R351, R352): 16 payload bytes. A sealed device's host interface writes none
(spec/15 Table 15.4). -/
def deviceEvent (s : State) (code : Nat) (st : Status) (payload : List Byte) : State :=
  let q := regBits s 0x100018 5 0
  if s.flt.sealed then s
  else if eqEnabled s q && decide (eqFree s q ≥ 1) then
    let pay := (payload ++ List.replicate 16 0).take 16
    postRecords s q (recHead code st.code 0 0xFFFF 0xFFFF (mtime s) ++ pay) none true
  else
    let s := regCount s 0x100028 1
    eqPut s q { eqGet s q with lost := true }

/-- A register write that was ignored (spec/13 Table 13.8). -/
def configIgnored (s : State) (off : Nat) (v : Word) (held : Bool := false) : State :=
  deviceEvent s 0x0011 (if held then .resourceHeld else .ok) (leBytes 4 off ++ leBytes 4 v.toNat)

/-- The Oculus's event of an ignored write (spec/10 Table 10.9; log entry 16 on the payload's layout). -/
def ocuConfig (s : State) (off : Nat) : State := deviceEvent s 0x0025 .ok (leBytes 4 off)

/-! ### Faults (spec/15 R371) -/

/-- A fault occurrence at a unit: a record held for delivery, or a count on the one held. -/
def raiseFault (s : State) (die unit kind addr : Nat) : State :=
  let u := s.flt.undelivered
  let same := fun (r : FaultRec) => r.die == die && r.unit == unit && r.kind == kind
  let u := if u.any same then u.map fun r => if same r then { r with count := min 255 (r.count + 1) } else r
    else u ++ [{ die := die, unit := unit, kind := kind, count := 1, time := mtime s % 2 ^ 32, addr := addr }]
  { s with flt := { s.flt with undelivered := u } }

/-! ### Belfries and turrets -/

/-- Belfry b. -/
def belfry (s : State) (b : Nat) : Belfry := tabGet (fun _ => {}) s.dome.belfries b
/-- The physical slot of a belfry that serves logical turret t: the spare slot where it stands in (spec/01 R15). -/
def slotServing (s : State) (t : Nat) : Nat :=
  17 * (t / 16) + (if (belfry s (t / 16)).spareFor = some (t % 16) then 16 else t % 16)
/-- The die and unit that serve a device offset: a channel, a Lantern bank or the spare in its place, or a turret slot
(spec/15 Table 15.2, spec/11 R289). -/
def unitOf (s : State) (o : Nat) : Nat × Nat :=
  match regionOf o with
  | .lpddr => (3, (lpDecode (regBits s 0xC00000 2 0) o).1)
  | .lantern =>
    let (d, b, _, _) := lanDecode (o - lanBase)
    match s.mif.spares.find? fun x => x.1 == d && x.2.2 == some b with
    | some x => (2, d * 0x100 + 0x40 + x.2.1)
    | none => (2, d * 0x100 + b)
  | .scratch => (1, slotServing s ((o - padBase) / 0x100000))
  | _ => (0, 1)
/-- The die that serves an offset is stopped (spec/14 R367, spec/15 Table 15.4): Lanterns 1 to 4, Drums 5 and 6, or the
Dome's scratchpads; in spire mode the Dome and the Lanterns have no power (spec/01 R12, Table 1.1). -/
def dieStopped (s : State) (o : Nat) : Bool :=
  match regionOf o with
  | .lpddr => s.mif.stoppedDies.contains (5 + (unitOf s o).2 / 64)
  | .lantern => spireMode s || s.mif.stoppedDies.contains (1 + (lanDecode (o - lanBase)).1)
  | .scratch => spireMode s || s.dome.stopped
  | _ => false

/-- Some byte of a range lies on a stopped die. -/
def rangeStopped (s : State) (o n : Nat) : Bool :=
  (List.range (n / 4096 + 1)).any (fun i => dieStopped s (o + 4096 * i)) || dieStopped s (o + (n - 1))

/-- Belfry b replaced. -/
def belfryPut (s : State) (b : Nat) (x : Belfry) : State :=
  { s with dome := { s.dome with belfries := tabPut (fun _ => {}) s.dome.belfries b x } }
/-- Logical turret t. -/
def turret (s : State) (t : Nat) : Turret := tabGet (fun _ => {}) s.dome.turrets t
/-- Logical turret t replaced. -/
def turretPut (s : State) (t : Nat) (x : Turret) : State :=
  { s with dome := { s.dome with turrets := tabPut (fun _ => {}) s.dome.turrets t x } }

/-- The belfries a TURRET_MASK names: fenced ones read as 0, and so does one with no active turret (spec/15 Table 15.5,
spec/03 R80). -/
def maskBelfries (s : State) (mask : Nat) : List Nat :=
  natsWhere 16 fun b => natBits mask b b = 1 && !(belfry s b).fenced && decide ((belfry s b).vacated.length < 16)

/-- The belfry that does belfry b's work: itself, or the lowest-numbered unfenced one above it modulo 16
(spec/15 R381). -/
def standIn (s : State) (b : Nat) : Nat :=
  (((List.range 16).map fun i => (b + i) % 16).find? fun i => !(belfry s i).fenced).getD b

/-! ### Addresses (spec/01 R17 to R20) -/

/-- The chip number of a global address. -/
def addrChip (a : Nat) : Nat := a / 2 ^ 48 % 2 ^ 16
/-- The device offset of a global address. -/
def addrOff (a : Nat) : Nat := a % 2 ^ 48
/-- The address names this device (spec/01 R19). -/
def isLocal (s : State) (a : Nat) : Bool := addrChip a == 0xFFFF || addrChip a == ownChip s
/-- The value that means an absent address (spec/03 R78). -/
def absent (a : Nat) : Bool := a == 2 ^ 64 - 1

/-- Every MiB of a Lantern range is covered by a partition of these sizes (spec/11 R280). -/
def lanCoveredBy (s : State) (size : Nat → Nat) (o n : Nat) : Bool :=
  let first := o / 2 ^ 20
  let last := (o + n - 1) / 2 ^ 20
  (List.range (last + 1 - first)).all fun i =>
    (List.range 6).any fun k => decide (partBase s k ≤ first + i) && decide (first + i < partBase s k + size k)

/-- A device offset range that an engine may touch: wholly in one region, in a partition, on a held turret, in the
enabled host window; never the mirror (spec/01 R20, spec/11 R280, R283, R291, spec/15 Table 15.5). -/
def rangeOkBy (s : State) (size : Nat → Nat) (window : Option Nat) (o n : Nat) : Bool :=
  n == 0 || decide (n ≤ regionLeft o) &&
    match regionOf o with
    | .lpddr => true
    | .lantern => lanCoveredBy s size (o - lanBase) n
    | .scratch => let t := (o - padBase) / 0x100000; !(belfry s (t / 16)).vacated.contains (t % 16)
    | .hostWindow =>
      match window with
      | some b => decide (b + (o - hwinBase) + n ≤ 2 ^ 64)
      | none => false
    | _ => false

/-- A range checked against the partitions and the host window as they are set now. -/
def rangeOk (s : State) (o n : Nat) : Bool := rangeOkBy s (partSize s) (hostWindow s) o n

/-- A partition's size as an op sees it: an op accepted before a cut keeps the old extent (spec/11 R282). -/
def partSizeFor (s : State) (id k : Nat) : Nat :=
  (s.mif.cuts.filter fun c => c.part == k && decide (id < c.mark)).foldl (fun n c => max n c.old) (partSize s k)

/-- A required local range of a descriptor: its alignment, chip and region (spec/13 R433). -/
def localRange (s : State) (a n align : Nat) : Bool :=
  !absent a && isLocal s a && a % align == 0 && rangeOk s (addrOff a) n

/-! ### Versions (spec/08 R201 to R206) -/

/-- Lantern device offset of slice i's version table entry. -/
def verEntry (s : State) (i : Nat) : Nat := lanBase + regBits s 0x1000100 30 6 * 64 + 64 * i

/-- The committed byte at an offset: from a journal not yet copied, else from memory (spec/08 R211). -/
def committedByte (s : State) (a : Nat) : Byte :=
  match s.dome.journals.reverse.findSome? (fun j => (j.find? fun c => c.1 == a).map (·.2)) with
  | some v => v
  | none => s.mem.get a

/-- `n` committed bytes. -/
def committedBytes (s : State) (a n : Nat) : List Byte := (List.range n).map fun i => committedByte s (a + i)

/-- A little-endian number in committed memory. -/
def memNat (s : State) (a n : Nat) : Nat := leNat (committedBytes s a n)

/-- A Lantern byte lies in a bank that is being copied to its spare: accesses to it wait (spec/11 R289). -/
def bankCopies (s : State) (a : Nat) : Bool :=
  !s.mif.copying.isEmpty && regionOf a == .lantern &&
    let (d, b, _, _) := lanDecode (a - lanBase)
    s.mif.copying.any fun c => c.1 == d && c.2.1 == b

/-- The device writes its own tables and records in place. In a bank in copy they are written once it has ended, so no word
of them is lost with it (spec/11 R289). -/
def devWrite (s : State) (a : Nat) (bs : List Byte) : State :=
  let s := { s with mem := s.mem.putBytes a bs }
  if bankCopies s a || bankCopies s (a + (bs.length - 1)) then
    { s with mif := { s.mif with copyWrites := s.mif.copyWrites ++ [(a, bs.length)] } }
  else s

/-- Slot address of slice i (spec/08 Table 8.2). -/
def slotAddr (s : State) (i k : Nat) : Nat := memNat s (verEntry s i + 8 * k) 8
/-- Bytes of slice i. -/
def sliceBytes (s : State) (i : Nat) : Nat := memNat s (verEntry s i + 32) 4
/-- Slots in use of slice i. -/
def sliceSlots (s : State) (i : Nat) : Nat := memNat s (verEntry s i + 36) 1
/-- STATE byte of slice i. -/
def sliceState (s : State) (i : Nat) : Nat := memNat s (verEntry s i + 37) 1
/-- Current slot of slice i. -/
def sliceCur (s : State) (i : Nat) : Nat := sliceState s i % 4
/-- OWNED of slice i. -/
def sliceOwned (s : State) (i : Nat) : Bool := natBits (sliceState s i) 2 2 = 1
/-- CLOSED of slice i. -/
def sliceClosed (s : State) (i : Nat) : Bool := natBits (sliceState s i) 3 3 = 1
/-- SHADOW bit of slot k of slice i. -/
def sliceShadow (s : State) (i k : Nat) : Bool := natBits (sliceState s i) (4 + k) (4 + k) = 1
/-- VER of slot k of slice i. -/
def sliceVer (s : State) (i k : Nat) : Nat := memNat s (verEntry s i + 40 + 4 * k) 4
/-- PIN of slot k of slice i. -/
def slicePin (s : State) (i k : Nat) : Nat := memNat s (verEntry s i + 56 + 2 * k) 2
/-- STATE byte of slice i written. -/
def setSliceState (s : State) (i v : Nat) : State := devWrite s (verEntry s i + 37) (leBytes 1 v)
/-- VER of slot k of slice i written. -/
def setSliceVer (s : State) (i k v : Nat) : State := devWrite s (verEntry s i + 40 + 4 * k) (leBytes 4 v)
/-- PIN of slot k of slice i written. -/
def setSlicePin (s : State) (i k v : Nat) : State := devWrite s (verEntry s i + 56 + 2 * k) (leBytes 2 v)
/-- VER of a free slot. -/
def verFree : Nat := 0xFFFFFFFF

/-- The slice whose view holds an offset, and the offset in it (spec/08 R202). -/
def viewOf (s : State) (a : Nat) : Option (Nat × Nat) :=
  (firstNat (verCount s) fun i =>
    let v := slotAddr s i 0
    decide (v ≤ a) && decide (a < v + sliceBytes s i)).map fun i => (i, a - slotAddr s i 0)

/-- The range meets some view. -/
def meetsView (s : State) (a n : Nat) : Bool :=
  decide (n ≠ 0) && (List.range (verCount s)).any fun i =>
    let v := slotAddr s i 0
    decide (v < a + n) && decide (a < v + sliceBytes s i)

/-- Where a read of an offset is served: in a view, from the slot pinned, else from the current slot
(spec/08 R202). `slots` are an epoch's pinned slots. -/
def servedAt (s : State) (slots : Option (List Nat)) (a : Nat) : Nat :=
  match viewOf s a with
  | some (i, o) =>
    let k := match slots with
      | some l => (l[i]?).getD (sliceCur s i)
      | none => sliceCur s i
    slotAddr s i k + o
  | none => a

/-! ### Ops -/

/-- The op in flight with an id. -/
def opById (s : State) (id : Nat) : Option Op := s.ops.find? fun o => o.id == id
/-- The op in flight that holds a stream (spec/13 R337). -/
def opByStream (s : State) (st : Nat) : Option Op := s.ops.find? fun o => o.hdr.stream == st
/-- An op in flight changed. -/
def opUpdate (s : State) (id : Nat) (f : Op → Op) : State :=
  { s with ops := s.ops.map fun o => if o.id == id then f o else o }
/-- The belfries that an op's TURRET_MASK names: those unfenced at its acceptance, whose numbers stay when one is fenced since
(spec/15 R381, Table 15.5); before acceptance, those unfenced now. -/
def opCrew (s : State) (o : Op) (mask : Nat) : List Nat := if o.crew.isEmpty then maskBelfries s mask else o.crew

/-- The op is complete. -/
def Op.isDone (o : Op) : Bool :=
  match o.phase with
  | .done _ => true
  | _ => false
/-- The op runs. -/
def Op.isActive (o : Op) : Bool := o.phase == .active
/-- Its pinned slots (spec/08 R203). -/
def opSlots (s : State) (o : Op) : Option (List Nat) :=
  match o.epoch with
  | some e => (s.dome.epochs.find? fun x => x.id == e).map (·.slots)
  | none => none
/-- The open group an op names. -/
def txnOf (s : State) (num : Nat) : Option Txn := s.dome.txns.find? fun t => t.num == num
/-- A group changed. -/
def txnUpdate (s : State) (num : Nat) (f : Txn → Txn) : State :=
  { s with dome := { s.dome with txns := s.dome.txns.map fun t => if t.num == num then f t else t } }

/-- A health cause sets its bit (spec/08 Table 8.4). -/
def setHealth (s : State) (bitNo : Nat) : State :=
  { s with dome := { s.dome with health := s.dome.health ||| 2 ^ bitNo } }

/-- The STEP_COMMIT that closes a step group has not cast its gate (spec/08 R213). -/
def gateUncast (s : State) (closer : Option Nat) : Bool :=
  match closer.bind (opById s) with
  | some o => match o.work with
    | .step _ _ gc _ _ _ _ => gc.isNone
    | _ => false
  | none => false

/-- A group aborts (spec/08 R212, R438): its journal is discarded, its running ops stop and complete ABORTED, and a
step group whose gate has not been cast marks the step. -/
def abortTxn (s : State) (num : Nat) (cause : Status) : State :=
  match txnOf s num with
  | some t =>
    if t.aborted.isSome then s
    else
      let s := txnUpdate s num fun t => { t with aborted := some cause, staged := [] }
      let s := { s with ops := s.ops.map fun o =>
        if o.hdr.txn == num && !o.isDone && some o.id != t.closer then { o with phase := .done .aborted, reqs := [], owed := [] }
        else o }
      if t.isStep && gateUncast s t.closer then setHealth s 3 else s
  | none => s

/-- The producer entry of a tag (spec/13 R335): the op, and its status once it has completed. -/
def producerOf (s : State) (tag : Nat) : Option (Nat × Option Status) := tabGet (fun _ => none) s.dome.producers tag

/-- The producer entry of a tag replaced. -/
def producerPut (s : State) (tag : Nat) (p : Option (Nat × Option Status)) : State :=
  { s with dome := { s.dome with producers := tabPut (fun _ => none) s.dome.producers tag p } }

/-- The entry of an op that completes keeps its status, if the op still holds the tag. -/
def producerDone (s : State) (id tag : Nat) (st : Status) : State :=
  match producerOf s tag with
  | some (p, none) => if p = id then producerPut s tag (some (id, some st)) else s
  | _ => s

/-- An op's work ends with a status; its other requests are cancelled (spec/13 R345). What its completion does to
others follows in `completeOp`. -/
def opDone (s : State) (id : Nat) (st : Status) : State :=
  opUpdate s id fun o => if o.isDone then o else { o with phase := .done st, reqs := [], owed := [] }

/-- An op fails a strict check: its status, and health bit STRICT (spec/08 Table 8.4). -/
def opStrictFail (s : State) (id : Nat) (st : Status) : State := setHealth (opDone s id st) 2

/-- A device offset range as an op sees it: the partitions and the host window that its acceptance fixed (spec/11 R282,
R291). -/
def rangeOkOp (s : State) (o : Op) (a n : Nat) : Bool := rangeOkBy s (partSizeFor s o.id) o.hwin a n

/-- A required local range of an op's descriptor: its alignment, chip and region (spec/13 R433). -/
def opRange (s : State) (o : Op) (a n align : Nat) : Bool :=
  !absent a && isLocal s a && a % align == 0 && rangeOkOp s o (addrOff a) n

/-- Counts and flags added to an op. -/
def opTally (s : State) (id : Nat) (t : Tally) : State := opUpdate s id fun o => { o with tally := o.tally.join t }

/-! ### Reading as an op (spec/08 R202, R208) -/

/-- Why a computation cannot go on. -/
inductive Need where
  /-- A host-window byte has not arrived. -/
  | host (a : Nat)
  /-- An offset outside every region arose at run time (spec/01 R20). -/
  | range
  /-- The op fails with this status. -/
  | stop (st : Status)
  deriving DecidableEq, Repr

/-- A byte as the ops of a group see it: staged in the group, else committed (spec/08 R208). -/
def seenByte (s : State) (num a : Nat) : Byte :=
  match (txnOf s num).bind (fun t => (t.staged.find? fun c => c.1 == a).map (·.2)) with
  | some v => v
  | none => committedByte s a

/-- Bytes as the ops of a group see them. -/
def seenBytes (s : State) (num a n : Nat) : List Byte := (List.range n).map fun i => seenByte s num (a + i)

/-- One byte as an op reads it: the host window through what has arrived, its own group's staged bytes, its pinned
version, else the committed byte. -/
def opReadByte (s : State) (o : Op) (a : Nat) : Except Need Byte :=
  if regionOf a = .hostWindow then
    match o.hostBuf.find? fun c => c.1 == a with
    | some c => .ok c.2
    | none => if rangeOkOp s o a 1 then .error (.host a) else .error .range
  else if rangeOkOp s o a 1 then
    .ok (seenByte s o.hdr.txn (servedAt s (opSlots s o) a))
  else .error .range

/-- Results of a list of computations, or the first that cannot go on. -/
def collect {α β : Type} (f : α → Except Need β) : List α → Except Need (List β)
  | [] => .ok []
  | a :: t => match f a with
    | .error e => .error e
    | .ok b => match collect f t with
      | .error e => .error e
      | .ok bs => .ok (b :: bs)

/-- `n` bytes as an op reads them. -/
def opRead (s : State) (o : Op) (a n : Nat) : Except Need (List Byte) :=
  collect (fun i => opReadByte s o (addrOff a + i)) (List.range n)

/-- The first check that an op fails (spec/13 R331: checks run before any work; log entry 9 on their order). -/
def refuse (l : List (Bool × Status)) : Option Status := (l.find? (·.1)).map (·.2)

/-- A record or block that a descriptor names, as it reads at acceptance and again at the start; a host-window byte is what
the read of it has brought (spec/11 R291; log entry 18). -/
def opRec (s : State) (o : Op) (a n : Nat) : List Byte :=
  (List.range n).map fun i =>
    let x := addrOff a + i
    if regionOf x = .hostWindow then ((o.hostBuf.find? fun c => c.1 == x).map (·.2)).getD 0
    else match opReadByte s o x with
      | .ok v => v
      | .error _ => 0

/-- A little-endian number as an op reads it. -/
def opNat (s : State) (o : Op) (a n : Nat) : Except Need Nat := (opRead s o a n).map leNat

/-- The op asks for a host-window grain: a PCIe read with a tag of its own (spec/11 R291). -/
def askHost (s : State) (id a : Nat) : State :=
  let g := a / 64 * 64
  if s.hif.reads.any fun r => r.op == id && r.a == g then s
  else
    let tag := s.hif.nextTag
    let s := { s with hif := { s.hif with nextTag := tag + 1, reads := s.hif.reads ++ [{ tag := tag, op := id, a := g }] } }
    opUpdate s id fun o => { o with reqs := o.reqs ++ [{ tag := tag, await := .hostRead g, start := mtime s }] }

/-! ### Writing (spec/08 R208 to R211) -/

/-- What became of a write. -/
inductive Wrote where
  | done (s : State)
  /-- The op waits: for room in the journal partition, where its limit counts (spec/08 R209), or else behind a granule that is
  still to be copied (R211), a bank in copy (spec/11 R289) or a swap of the directory (spec/07 R178). -/
  | wait (room : Bool)
  /-- The write would pass the group's limit. -/
  | limit (s : State)

/-- The 64 B granules a group has staged. -/
def stagedGrains (staged : List (Nat × Byte)) : List Nat := ((staged.map fun c => c.1 / 64).eraseDups)

/-- Journal granules held by open groups and by committed journals. -/
def journalUsed (s : State) : Nat :=
  (s.dome.txns.map fun t => (stagedGrains t.staged).length).sum +
    (s.dome.journals.map fun j => (stagedGrains j).length).sum

/-- The 4 KiB granules of a list of bytes by offset. -/
def pagesOf (l : List Nat) : List Nat := (l.map (· / 4096)).eraseDups

/-- A group's write set meets a 4 KiB granule (spec/08 R210). -/
def txnHolds (t : Txn) (page : Nat) : Bool := t.aborted.isNone && t.staged.any fun c => c.1 / 4096 == page

/-- A byte of a committed group that has not been copied lies in a 64 B granule. -/
def journalHolds (s : State) (a : Nat) : Bool := s.dome.journals.any fun j => j.any fun c => c.1 / 64 == a / 64

/-- Bytes applied in place. -/
def applyBytes (s : State) (a : Nat) (bs : List Byte) : State := { s with mem := s.mem.putBytes a bs }

/-! ### The table directory (spec/07 R163, R178, R179) -/

/-- Device offset of the directory. -/
def dirBase (s : State) : Nat := lanBase + regBits s 0x10000C0 30 12 * 4096
/-- The directory lies wholly in the general partition. -/
def dirOk (s : State) : Bool := inPart s 5 (dirBase s - lanBase) 4096
/-- VERSION and DESC_ADDR of a table's directory entry. -/
def dirEntry (s : State) (id : Nat) : Nat × Nat :=
  (memNat s (dirBase s + 16 * id + 8) 4, memNat s (dirBase s + 16 * id) 8)
/-- Tables whose entry holds one of these offsets. -/
def dirIds (s : State) (offs : List Nat) : List Nat :=
  if dirOk s then
    ((offs.filter fun a => decide (dirBase s ≤ a) && decide (a < dirBase s + 4096)).map fun a => (a - dirBase s) / 16).eraseDups
  else []

/-- The entries of these tables that another state holds differently. -/
def dirMoved (old new : State) (ids : List Nat) : List Nat := ids.filter fun i => dirEntry old i != dirEntry new i

/-- The versions of a table that ops pin, each with its descriptor (spec/07 R171). -/
def tablesPinned (s : State) (id : Nat) : List (Nat × Nat) :=
  (s.ops.filterMap fun o => match o.completed, o.table with
    | false, some (i, v, a) => if i = id then some (v, a) else none
    | _, _ => none).eraseDups

/-- A swap would make a fifth version of some table live: live are the current one and those that ops pin (spec/07 R178). -/
def dirFull (old new : State) (ids : List Nat) : Bool :=
  (dirMoved old new ids).any fun i => decide (((tablesPinned old i).filter (· != dirEntry new i)).length ≥ 4)

/-- A table's sketches and candidates emptied (spec/07 R173, R179). -/
def sketchClear (s : State) (id : Nat) : State :=
  (List.range 4).foldl (fun s n =>
    if regBits s (0x10000D0 + 4 * n) 7 0 = id then
      { s with dome := { s.dome with sketches := tabPut (fun _ => {}) s.dome.sketches n {} } }
    else s) s

/-- The versions that a commit superseded wait for their retirement; a new version starts with an empty sketch
(spec/07 R178, R179). -/
def dirSwap (old new : State) (ids : List Nat) : State :=
  (dirMoved old new ids).foldl (fun s i =>
    let (v, d) := dirEntry old i
    sketchClear { s with dome := { s.dome with
      tables := s.dome.tables ++ [{ table := i, version := v, desc := d }] } } i) new

/-- The offsets of `n` bytes. -/
def offsetsOf (a n : Nat) : List Nat := (List.range n).map (a + ·)

/-- A write cut at 64 B granules: the offset and the bytes of each part. -/
def grainParts (a : Nat) (bs : List Byte) : List (Nat × List Byte) :=
  if bs.isEmpty then []
  else (List.range ((a + bs.length - 1) / 64 + 1 - a / 64)).map fun i =>
    let lo := max a ((a / 64 + i) * 64)
    (lo, (bs.drop (lo - a)).take ((a / 64 + i + 1) * 64 - lo))

/-- Bytes of one granule that name no group have to wait: behind the granule's copy out of a journal (spec/08 R211), a bank in
copy (spec/11 R289), bytes that wait there already, or while a swap of the directory would make a fifth version live
(spec/07 R178). -/
def partWaits (s : State) (a : Nat) (bs : List Byte) : Bool :=
  journalHolds s a || bankCopies s a || s.dome.heldWrites.any (fun w => w.a / 64 == a / 64) ||
    dirFull s (applyBytes s a bs) (dirIds s (offsetsOf a bs.length))

/-- Bytes of one granule applied, or held until they can be. -/
def plainPart (wakes : Bool) (s : State) (p : Nat × List Byte) : State :=
  if partWaits s p.1 p.2 then
    { s with dome := { s.dome with heldWrites := s.dome.heldWrites ++ [{ a := p.1, data := p.2, wakes := wakes }] } }
  else dirSwap s (applyBytes s p.1 p.2) (dirIds s (offsetsOf p.1 p.2.length))

/-- Some part of a write that names no group has to wait. -/
def plainWaits (s : State) (a : Nat) (bs : List Byte) : Bool := (grainParts a bs).any fun p => partWaits s p.1 p.2

/-- A write that names no group reaches `n` bytes: the open groups whose write set holds their granules abort with CONFLICT
(spec/08 R210). -/
def plainConflicts (s : State) (a n : Nat) : State :=
  let pages := pagesOf (offsetsOf a n)
  (s.dome.txns.filter fun t => pages.any (txnHolds t)).foldl (fun s t => abortTxn s t.num .conflict) s

/-- A write that names no group to LPDDR5X or the Lantern: open groups that it meets abort, and the parts of it that have to
wait are held (spec/08 R210, R211). -/
def plainWrite (s : State) (a : Nat) (bs : List Byte) (wakes : Bool := false) : State :=
  (grainParts a bs).foldl (plainPart wakes) (plainConflicts s a bs.length)

/-- A write staged in an open group (spec/08 R208 to R210). -/
def stageWrite (s : State) (num a : Nat) (bs : List Byte) : Wrote :=
  match txnOf s num with
  | none => .done s
  | some t =>
    let cells := (List.range bs.length).map fun i => (a + i, (bs[i]?).getD 0)
    let staged := cells ++ (t.staged.filter fun c => !(decide (a ≤ c.1) && decide (c.1 < a + bs.length)))
    let grains := (stagedGrains staged).length
    if grains * 64 > t.limit then .limit s
    else if (journalUsed s + grains - (stagedGrains t.staged).length) * 64 > partSize s 2 * 2 ^ 20 then .wait true
    else
      let pages := pagesOf (cells.map (·.1))
      let rivals := s.dome.txns.filter fun u => u.num != num && pages.any (txnHolds u)
      let later := rivals.filter fun u => decide (u.order > t.order)
      let s := later.foldl (fun s u => abortTxn s u.num .conflict) s
      if rivals.any fun u => decide (u.order < t.order) then .done (abortTxn s num .conflict)
      else .done (txnUpdate s num fun t => { t with staged := staged })

/-- What the bytes of a write were is kept until its op completes (spec/11 R287). -/
def keepBefore (s : State) (o : Op) (a n : Nat) : State :=
  let cells := (List.range n).map fun i => (a + i, committedByte s (a + i))
  opUpdate s o.id fun o => { o with before := o.before ++ cells.filter fun c => !o.before.any fun x => x.1 == c.1 }

/-- A write of an op to a local offset (spec/08 R208): staged for its open group in LPDDR5X and the Lantern, applied
directly in scratchpads and to the host window. One that names no group and has to wait holds its op back. -/
def opWrite (s : State) (o : Op) (a : Nat) (bs : List Byte) : Wrote :=
  match regionOf a with
  | .hostWindow =>
    match o.hwin with
    | some b => .done { s with host := s.host.putBytes (b + (a - hwinBase)) bs }
    | none => .done s
  | .scratch => .done (applyBytes (keepBefore s o a bs.length) a bs)
  | _ =>
    match txnOf s o.hdr.txn with
    | some t => if t.aborted.isSome then .done s else stageWrite s t.num a bs
    | none => if plainWaits s a bs then .wait false else .done (plainWrite (keepBefore s o a bs.length) a bs)

/-- A list of writes, in order. -/
def opWrites : State → Op → List (Nat × List Byte) → Wrote
  | s, _, [] => .done s
  | s, o, (a, bs) :: t =>
    match opWrite s o (addrOff a) bs with
    | .done s => opWrites s o t
    | w => w

/-- A list of writes, and then what follows them, all or nothing. -/
def opWritesThen (s : State) (o : Op) (ws : List (Nat × List Byte)) (k : State → Wrote) : Wrote :=
  match opWrites s o ws with
  | .done s => k s
  | w => w

/-- The op waits for journal room (spec/08 R209), its limit counted from now. -/
def awaitRoom (s : State) (id : Nat) : State :=
  opUpdate s id fun o =>
    if o.reqs.any fun r => r.await == .room then o
    else { o with reqs := o.reqs ++ [{ tag := 0, await := .room, start := mtime s }] }

/-- The op waits for its write. -/
def awaitWrite (s : State) (id : Nat) (room : Bool) : State := if room then awaitRoom s id else s

/-- An op's write would pass its group's limit: OUT_OF_RANGE, and the group aborts (spec/08 R209). -/
def opLimit (s : State) (o : Op) : State := abortTxn (opDone s o.id .outOfRange) o.hdr.txn .aborted

/-- What an op's computation stopped for takes its course. -/
def opNeed (s : State) (id : Nat) (n : Need) : State :=
  match n with
  | .host a => askHost s id a
  | .range => opDone s id .outOfRange
  | .stop st => opDone s id st

end Sys2Proof.Machine
end

