-- ==== Sys2Proof/Machine/Tokens.lean ====
section
/-! DEFINITION. The Chime's token balances (spec/14 R356 to R358). -/

namespace Sys2Proof.Machine

/-- PEAK of an activity (spec/14 Table 14.1); in spire mode every port has the four links of a tree port. -/
def chimePeak (spire : Bool) (a : Nat) : Nat :=
  if a = 0 ∨ a = 1 ∨ a = 3 then 8192
  else if a = 2 then 32768
  else if a ≤ 11 then 34951
  else if a ≤ 15 then 512000
  else if a = 16 then 30720
  else if a < 32 then 0
  else if !spire && decide (a < 50) then 5614 else 1604

/-- Activities of a budget in use. -/
def chimeUsed (spire : Bool) (a : Nat) : Bool :=
  if spire then a == 16 || (decide (32 ≤ a) && decide (a ≤ 103)) else decide (a ≤ 16) || (decide (32 ≤ a) && decide (a ≤ 58))

/-- Balance of unit u of activity a (key a × 512 + u): a unit that has used nothing this period holds its grant, which is
PEAK until the first period starts. -/
def chimeBalance (s : State) (a u : Nat) : Nat :=
  tabGet (fun k => tabGet (fun k => chimePeak (spireMode s) k) s.chime.grants (k / 512)) s.chime.balance (a * 512 + u)

/-- spec/14 R358, try_burst: none when the unit has to wait. -/
def tryBurst (s : State) (a u size : Nat) : Option State :=
  let n := chimeBalance s a u
  if n = 0 then none
  else
    let dflt := fun k => tabGet (fun k => chimePeak (spireMode s) k) s.chime.grants (k / 512)
    some { s with chime := { s.chime with
      balance := tabPut dflt s.chime.balance (a * 512 + u) (n - size),
      debt := if size > n then tabPut (fun _ => 0) s.chime.debt (a * 512 + u) (size - n) else s.chime.debt } }

/-- Bursts started in order while the unit has tokens; those that must wait are left. -/
def payBursts (s : State) (a u : Nat) : List Nat → State × List Nat
  | [] => (s, [])
  | c :: cs => match tryBurst s a u c with
    | some s => payBursts s a u cs
    | none => (s, c :: cs)

/-- Bursts of one size started while the unit's balance is above zero (spec/14 R358); what must wait is left. -/
def payBurst (s : State) (b : Burst) : State × Option Burst :=
  let n := chimeBalance s b.act b.unit
  let k := min b.count (ceilDiv n b.size)
  if k = 0 then (s, some b)
  else
    let dflt := fun k => tabGet (fun k => chimePeak (spireMode s) k) s.chime.grants (k / 512)
    let key := b.act * 512 + b.unit
    let s := { s with chime := { s.chime with
      balance := tabPut dflt s.chime.balance key (n - k * b.size),
      debt := if k * b.size > n then tabPut (fun _ => 0) s.chime.debt key (k * b.size - n) else s.chime.debt } }
    (s, if k = b.count then none else some { b with count := b.count - k })

/-- A list of bursts, each unit's in order. -/
def payAll (s : State) (bs : List Burst) : State × List Burst :=
  bs.foldl (fun (acc : State × List Burst) b =>
    if b.size = 0 || b.count = 0 then acc
    else if acc.2.any fun x => x.act == b.act && x.unit == b.unit then (acc.1, acc.2 ++ [b])
    else
      let (s, left) := payBurst acc.1 b
      (s, acc.2 ++ left.toList)) (s, [])

/-- Part `part` of an op's work starts once its bursts have (spec/14 R358): they are asked for once, and what must wait is
owed. -/
def askTokens (s : State) (o : Op) (part : Nat) (bs : List Burst) (k : State → State) : State :=
  if o.asked > part then (if o.owed.isEmpty then k s else s)
  else
    let (s, left) := payAll s bs
    let s := opUpdate s o.id fun o => { o with asked := part + 1, owed := left }
    if left.isEmpty then k s else s

/-- What the ops in flight owe is paid, in the order of their acceptance. -/
def payOps (s : State) : State :=
  s.ops.foldl (fun s o =>
    if o.owed.isEmpty then s
    else
      let (s, left) := payAll s o.owed
      opUpdate s o.id fun o => { o with owed := left }) s

end Sys2Proof.Machine
end

