-- ==== Sys2Proof/Machine/Access.lean ====
section
/-! DEFINITION. Requests to the memories: the channels they wake or wait for (spec/11 R277, R278), Lantern banks in copy (R289),
and the bursts that move them (spec/14 R356). -/

namespace Sys2Proof.Machine

/-! ### Channels -/

/-- Channel ch. -/
def channel (s : State) (ch : Nat) : Channel := tabGet (fun _ => {}) s.mif.channels ch
/-- Channel ch replaced. -/
def channelPut (s : State) (ch : Nat) (x : Channel) : State :=
  { s with mif := { s.mif with channels := tabPut (fun _ => {}) s.mif.channels ch x } }
/-- A channel changed. -/
def channelUpdate (s : State) (ch : Nat) (f : Channel → Channel) : State := channelPut s ch (f (channel s ch))

/-- Some channel of the Drum of `ch` is in training (spec/11 R278). -/
def drumTrains (s : State) (ch : Nat) : Bool := (List.range 64).any fun i => (channel s (64 * (ch / 64) + i)).training

/-- A request reaches a channel: a sleeping one wakes, and a retraining that fell due while it slept comes first (spec/11
R277). -/
def wakeChannel (s : State) (ch : Nat) : State :=
  let x := channel s ch
  let x := { x with lastUse := some (mtime s) }
  channelPut s ch
    (if x.selfRefresh then { x with selfRefresh := false, exiting := x.due, training := x.due && !drumTrains s ch } else x)

/-- Requests to a channel wait: it trains, is being repaired, or has to train before it serves (spec/11 R277, R278, R288). -/
def channelWaits (s : State) (ch : Nat) : Bool := let x := channel s ch; x.training || x.ppr || x.exiting

/-! ### Belfries that wake (spec/14 R361) -/

/-- The logical position that a physical position of a belfry serves (spec/01 R15). -/
def servesAs (x : Belfry) (p : Nat) : Option Nat :=
  if p = 16 then x.spareFor else if x.vacated.contains p || x.spareFor == some p then none else some p

/-- A belfry wakes: its PLL locks and its turrets in service regain power; a fenced or stopped one does not, nor any of a Dome
that has no power in spire mode (spec/00 R3). -/
def belfryWake (s : State) (b : Nat) : State :=
  let x := belfry s b
  if x.fenced || s.dome.stopped || spireMode s then s
  else
    let slots := natsWhere 17 fun p => !x.fencedSlots.contains p && (servesAs x p).isSome
    belfryPut s b { x with
      pllOn := true, powered := (slots.map (2 ^ ·)).sum, busyAt := mtime s,
      slotBusy := slots.foldl (fun t p => tabPut (fun _ => 0) t p (mtime s)) [] }

/-! ### Ranges -/

/-- 4 KiB granules that a range touches: the offset and the bytes of each part. -/
def granules (o n : Nat) : List (Nat × Nat) :=
  if n = 0 then []
  else (List.range ((o + n - 1) / 4096 + 1 - o / 4096)).map fun i =>
    let lo := max o ((o / 4096 + i) * 4096)
    (lo, min (o + n) ((o / 4096 + i + 1) * 4096) - lo)

/-- 64 B grains that a range touches. -/
def grainCount (o n : Nat) : Nat := if n = 0 then 0 else (o + n - 1) / 64 + 1 - o / 64

/-- LPDDR5X channels that a range touches. Any 128 granules in a row that lie in one aligned group of 128 meet every channel
(spec/11 R275), so that the first 256 meet all that the range does. -/
def rangeChannels (s : State) (o n : Nat) : List Nat :=
  if regionOf o = .lpddr then
    (((granules o n).take 256).map fun g => (lpDecode (regBits s 0xC00000 2 0) g.1).1).eraseDups
  else []

/-- A Lantern bank that a range touches is being copied to its spare (spec/11 R289). -/
def rangeCopying (s : State) (o n : Nat) : Bool :=
  regionOf o == .lantern && !s.mif.copying.isEmpty && (granules o n).any fun g =>
    let (d, b, _, _) := lanDecode (g.1 - lanBase)
    s.mif.copying.any fun c => c.1 == d && c.2.1 == b

/-- Requests to a local range: its channels wake; whether they, or a bank in copy, make it wait. -/
def requestRange (s : State) (o n : Nat) : State × Bool :=
  let chs := rangeChannels s o n
  let t := chs.foldl wakeChannel s
  (t, chs.any (channelWaits t) || rangeCopying s o n)

/-- Requests to the local ranges of a list of global addresses. -/
def requestRanges (s : State) (rs : List (Nat × Nat)) : State × Bool :=
  (rs.filter fun r => !absent r.1 && isLocal s r.1).foldl (fun acc r =>
    let (s, w) := requestRange acc.1 (addrOff r.1) r.2
    (s, acc.2 || w)) (s, false)

/-- A request that is served whatever its channel does: only its time is not modelled (log entry 133). -/
def touchRange (s : State) (o n : Nat) : State := (requestRange s o n).1

/-! ### Bursts (spec/14 Table 14.1) -/

/-- The burst that part of a granule takes at its memory: an LPDDR5X site, a Lantern, or the host window (log entry 134). -/
def memBurst (s : State) (g : Nat × Nat) : List Burst :=
  let n := grainCount g.1 g.2
  match regionOf g.1 with
  | .lpddr => [{ act := 4 + (lpDecode (regBits s 0xC00000 2 0) g.1).1 / 16, unit := 0, size := n, count := 1 }]
  | .lantern => [{ act := 12 + (lanDecode (g.1 - lanBase)).1, unit := 0, size := n, count := 1 }]
  | .hostWindow => [{ act := 16, unit := 0, size := n, count := 1 }]
  | _ => []

/-- The bursts of a range at the memories. -/
def rangeBursts (s : State) (o n : Nat) : List Burst := (granules o n).flatMap (memBurst s)

/-- Bursts that start now, all or none: what has no one to wait for it asks again. -/
def payNow (s : State) (bs : List Burst) : Option State :=
  match payAll s bs with
  | (t, []) => some t
  | _ => none

/-- A granule lies in a scratchpad. -/
def inScratch (o : Nat) : Bool := regionOf o == .scratch

/-- The bursts of a range that belfry DMAs move: at the memories, and at the DMAs of these belfries in turn, granule by
granule (spec/04 R83; log entry 134). -/
def dmaBursts (s : State) (bs : List Nat) (o n : Nat) : List Burst :=
  rangeBursts s o n ++ ((granules o n).mapIdx fun i g =>
    { act := 3, unit := (bs[i % bs.length]?).getD 0, size := grainCount g.1 g.2, count := 1 })

end Sys2Proof.Machine
end

