-- ==== Sys2Proof/Machine/Operands.lean ====
section
/-! DEFINITION. Every operand form: the descriptor header and bodies (spec/13 Table 13.1, Table 13.3), the format and
numerics bytes (spec/02 Tables 2.3, 2.6), packed elements and block scales (spec/02 R28, R35), and rows of codes as
they are stored. -/

namespace Sys2Proof.Machine

/-! ### The descriptor -/

/-- spec/13 Table 13.1, without the opcode. -/
def parseHdr (d : List Byte) : Hdr :=
  let w := fieldAt d 0 8
  { txn := natBits w 63 48, depTag := natBits w 47 32, flags := natBits w 31 22, stream := natBits w 21 8 }

/-- The telemetry phase tag (spec/13 Table 13.2). -/
def hdrPhase (h : Hdr) : Nat := natBits h.flags 1 0
/-- PRODUCE. -/
def hdrProduce (h : Hdr) : Bool := natBits h.flags 2 2 = 1
/-- CONSUME. -/
def hdrConsume (h : Hdr) : Bool := natBits h.flags 3 3 = 1
/-- FENCE. -/
def hdrFence (h : Hdr) : Bool := natBits h.flags 4 4 = 1
/-- QUIET. -/
def hdrQuiet (h : Hdr) : Bool := natBits h.flags 5 5 = 1
/-- IRQ_NOW. -/
def hdrIrqNow (h : Hdr) : Bool := natBits h.flags 6 6 = 1
/-- Reserved flag bits. -/
def hdrReserved (h : Hdr) : Nat := natBits h.flags 9 7

/-- COPY (spec/13 Table 13.4): the fields at their bytes. -/
def parseCopy (d : List Byte) : CopyBody :=
  { src := fieldAt d 8 8, dst := fieldAt d 16 8, cmp := fieldAt d 24 8,
    bytes := fieldAt d 32 8, pitch := fieldAt d 40 4, mask := fieldAt d 44 2,
    flags := fieldAt d 46 1 }

/-- FILL (spec/13 R340): the fields at their bytes. -/
def parseFill (d : List Byte) : FillBody :=
  { dst := fieldAt d 8 8, bytes := fieldAt d 16 8, pattern := fieldAt d 24 8,
    mask := fieldAt d 32 2 }

/-- GEMM, GEMM_SP and GEMM_TALL (spec/03 Table 3.7): the fields at their bytes. -/
def parseGemm (d : List Byte) : GemmBody :=
  { a := fieldAt d 8 8, b := fieldAt d 16 8, d := fieldAt d 24 8,
    aux := fieldAt d 32 8, m := fieldAt d 40 3, aFmt := fieldAt d 43 1,
    n := fieldAt d 44 3, bFmt := fieldAt d 47 1, k := fieldAt d 48 3,
    dFmt := fieldAt d 51 1, mask := fieldAt d 52 2, numCtl := fieldAt d 54 1,
    flags := fieldAt d 55 1, outTensor := fieldAt d 56 4, layer := fieldAt d 60 2,
    slices := fieldAt d 62 1, margin := fieldAt d 63 1 }

/-- SPSP_INTERSECT (spec/05 Table 5.6): the fields at their bytes. -/
def parseSpsp (d : List Byte) : SpspBody :=
  { xRec := fieldAt d 8 8, yRec := fieldAt d 16 8, pair := fieldAt d 24 8,
    out := fieldAt d 32 8, pairs := fieldAt d 40 4, numCtl := fieldAt d 44 1,
    flags := fieldAt d 45 1, mask := fieldAt d 46 2, count := fieldAt d 48 8,
    matchCap := fieldAt d 56 4 }

/-- ELEM and ROWRED (spec/04 Table 4.11): the fields at their bytes. -/
def parseElem (d : List Byte) : ElemBody :=
  { prog := fieldAt d 8 8, stream := fieldAt d 16 8, rowRes := fieldAt d 24 8,
    rows := fieldAt d 32 4, rowLen := fieldAt d 36 4, mask := fieldAt d 40 2,
    numCtl := fieldAt d 42 1, flags := fieldAt d 43 1, outTensor := fieldAt d 44 4,
    layer := fieldAt d 48 2, progLen := fieldAt d 50 1, prog2Len := fieldAt d 51 1,
    tapCfg := fieldAt d 52 4, tapCfg2 := fieldAt d 56 4 }

/-- SAMPLE (spec/06 Table 6.10a): the fields at their bytes. -/
def parseSample (d : List Byte) : SampleBody :=
  { graph := fieldAt d 8 8, seed := fieldAt d 16 8, pr := fieldAt d 24 8,
    seeds := fieldAt d 32 4, sampleId := fieldAt d 36 4, fanout := fieldAt d 40 8,
    hops := fieldAt d 48 1, flags := fieldAt d 49 1, mask := fieldAt d 50 2,
    prCap := fieldAt d 52 4, span := fieldAt d 56 8 }

/-- GATHER (spec/06 Table 6.10b): the fields at their bytes. -/
def parseGather (d : List Byte) : GatherBody :=
  { src := fieldAt d 8 8, feat := fieldAt d 16 8, dst := fieldAt d 24 8,
    arg := fieldAt d 32 8, count := fieldAt d 40 4, rowBytes := fieldAt d 44 4,
    mask := fieldAt d 48 2, flags := fieldAt d 50 1, sel := fieldAt d 51 1,
    roundRows := fieldAt d 52 2, windowReq := fieldAt d 54 2, argFmt := fieldAt d 56 1 }

/-- SCATTER (spec/06 Table 6.10c): the fields at their bytes. -/
def parseScatter (d : List Byte) : ScatterBody :=
  { src := fieldAt d 8 8, idx := fieldAt d 16 8, dst := fieldAt d 24 8,
    arg := fieldAt d 32 8, count := fieldAt d 40 4, rowBytes := fieldAt d 44 4,
    mask := fieldAt d 48 2, flags := fieldAt d 50 1, hop := fieldAt d 51 1,
    numCtl := fieldAt d 52 1, fmts := fieldAt d 53 1, roundRows := fieldAt d 54 2,
    outTensor := fieldAt d 56 4, exch := fieldAt d 60 2 }

/-- EMB_BAG (spec/07 Table 7.4): the fields at their bytes. -/
def parseEmbBag (d : List Byte) : EmbBagBody :=
  { bagRec := fieldAt d 8 8, out := fieldAt d 16 8, outTensor := fieldAt d 24 4,
    table := fieldAt d 28 1, outFmt := fieldAt d 29 1, numCtl := fieldAt d 30 1,
    flags := fieldAt d 31 1, mask := fieldAt d 32 2, layer := fieldAt d 34 2,
    roundRows := fieldAt d 36 2 }

/-- EMB_GRAD (spec/07 Table 7.5): the fields at their bytes. -/
def parseEmbGrad (d : List Byte) : EmbGradBody :=
  { bagRec := fieldAt d 8 8, dy := fieldAt d 16 8, gradA := fieldAt d 24 8,
    gradB := fieldAt d 32 8, red := fieldAt d 40 8, outTensor := fieldAt d 48 4,
    table := fieldAt d 52 1, dyFmt := fieldAt d 53 1, numCtl := fieldAt d 54 1,
    flags := fieldAt d 55 1, mask := fieldAt d 56 2, exch := fieldAt d 58 2,
    roundRows := fieldAt d 60 2 }

/-- REDUCE_GRAD (spec/09 Table 9.6): the fields at their bytes. -/
def parseReduceGrad (d : List Byte) : ReduceGradBody :=
  { group := fieldAt d 8 8, src := fieldAt d 16 8, step := fieldAt d 24 8,
    srcElems := fieldAt d 32 4, srcOffset := fieldAt d 36 4, limit := fieldAt d 40 4,
    flags := fieldAt d 44 1 }

/-- PARAM_PUBLISH (spec/09 Table 9.7): the fields at their bytes. -/
def parsePublish (d : List Byte) : PublishBody :=
  { recv := fieldAt d 8 8, step := fieldAt d 16 8, sliceFirst := fieldAt d 24 2,
    sliceCount := fieldAt d 26 2, limit := fieldAt d 28 4 }

/-- UPDATE (spec/08 Table 8.8): the fields at their bytes. -/
def parseUpdate (d : List Byte) : UpdateBody :=
  { master := fieldAt d 8 8, m := fieldAt d 16 8, v := fieldAt d 24 8,
    hp := fieldAt d 32 8, red := fieldAt d 40 8, elems := fieldAt d 48 4,
    sliceFirst := fieldAt d 52 2, sliceCount := fieldAt d 54 2, step := fieldAt d 56 4,
    momFmt := fieldAt d 60 1, flags := fieldAt d 61 1, layer := fieldAt d 62 2 }

/-- TXN_BEGIN (spec/08 R223): the fields at their bytes. -/
def parseTxnBegin (d : List Byte) : TxnBeginBody :=
  { journalLimit := fieldAt d 8 4 }

/-- STEP_COMMIT (spec/08 Table 8.10): the fields at their bytes. -/
def parseStepCommit (d : List Byte) : StepCommitBody :=
  { step := fieldAt d 8 8, voter := fieldAt d 16 8, gateLimit := fieldAt d 24 4,
    commitLimit := fieldAt d 28 4 }

/-- WAIT (spec/13 Table 13.5): the fields at their bytes. -/
def parseWait (d : List Byte) : WaitBody :=
  { addr := fieldAt d 8 8, value := fieldAt d 16 8, mask := fieldAt d 24 8,
    limit := fieldAt d 32 4, cond := fieldAt d 36 1 }

/-- SIGNAL (spec/13 R342): the fields at their bytes. -/
def parseSignal (d : List Byte) : SignalBody :=
  { addr := fieldAt d 8 8, value := fieldAt d 16 8, sop := fieldAt d 24 1 }

/-- TIMER (spec/13 R343): the fields at their bytes. -/
def parseTimer (d : List Byte) : TimerBody :=
  { time := fieldAt d 8 8, tmode := fieldAt d 16 1 }

/-- CKPT_PUSH (spec/15 Table 15.7): the fields at their bytes. -/
def parseCkptPush (d : List Byte) : CkptPushBody :=
  { rangeAddr := fieldAt d 8 8, region := fieldAt d 16 8, localRegion := fieldAt d 24 8,
    regionBytes := fieldAt d 32 8, ranges := fieldAt d 40 2, flags := fieldAt d 42 1,
    limit := fieldAt d 44 4, mask := fieldAt d 48 2 }

/-- CKPT_PULL (spec/15 Table 15.7): the fields at their bytes. -/
def parseCkptPull (d : List Byte) : CkptPullBody :=
  { region := fieldAt d 8 8, step := fieldAt d 16 8, count := fieldAt d 24 4,
    flags := fieldAt d 28 1, regionBytes := fieldAt d 32 8, limit := fieldAt d 40 4,
    mask := fieldAt d 44 2 }

/-- ASSUME_ID (spec/15 Table 15.7): the fields at their bytes. -/
def parseAssumeId (d : List Byte) : AssumeIdBody :=
  { chip := fieldAt d 8 2, job := fieldAt d 10 2 }

/-- The body a 64-byte descriptor holds under its opcode (spec/13 R332). -/
def parseBody (opcode : Nat) (d : List Byte) : OpBody :=
  match opcode with
  | 0x01 => .copy (parseCopy d)
  | 0x02 => .fill (parseFill d)
  | 0x10 => .gemm (parseGemm d)
  | 0x11 => .gemmSp (parseGemm d)
  | 0x12 => .gemmTall (parseGemm d)
  | 0x13 => .spspIntersect (parseSpsp d)
  | 0x20 => .elem (parseElem d)
  | 0x21 => .rowred (parseElem d)
  | 0x30 => .sample (parseSample d)
  | 0x31 => .gather (parseGather d)
  | 0x32 => .scatter (parseScatter d)
  | 0x33 => .embBag (parseEmbBag d)
  | 0x34 => .embGrad (parseEmbGrad d)
  | 0x40 => .reduceGrad (parseReduceGrad d)
  | 0x41 => .paramPublish (parsePublish d)
  | 0x42 => .update (parseUpdate d)
  | 0x50 => .txnBegin (parseTxnBegin d)
  | 0x51 => .txnCommit
  | 0x52 => .txnAbort
  | 0x53 => .stepCommit (parseStepCommit d)
  | 0x60 => .wait (parseWait d)
  | 0x61 => .signal (parseSignal d)
  | 0x62 => .timer (parseTimer d)
  | 0x70 => .ckptPush (parseCkptPush d)
  | 0x71 => .ckptPull (parseCkptPull d)
  | 0x72 => .assumeId (parseAssumeId d)
  | 0x7F => .nop
  | c => .unknown c

/-- The opcode of a body (spec/13 Table 13.3). -/
def OpBody.opcode : OpBody → Nat
  | .copy _ => 0x01
  | .fill _ => 0x02
  | .gemm _ => 0x10
  | .gemmSp _ => 0x11
  | .gemmTall _ => 0x12
  | .spspIntersect _ => 0x13
  | .elem _ => 0x20
  | .rowred _ => 0x21
  | .sample _ => 0x30
  | .gather _ => 0x31
  | .scatter _ => 0x32
  | .embBag _ => 0x33
  | .embGrad _ => 0x34
  | .reduceGrad _ => 0x40
  | .paramPublish _ => 0x41
  | .update _ => 0x42
  | .txnBegin _ => 0x50
  | .txnCommit => 0x51
  | .txnAbort => 0x52
  | .stepCommit _ => 0x53
  | .wait _ => 0x60
  | .signal _ => 0x61
  | .timer _ => 0x62
  | .ckptPush _ => 0x70
  | .ckptPull _ => 0x71
  | .assumeId _ => 0x72
  | .nop => 0x7F
  | .unknown c => c

/-- A descriptor's 64 bytes, read (spec/13 R330). -/
def parseDesc (d : List Byte) : Desc := { hdr := parseHdr d, body := parseBody (fieldAt d 0 1) d }

/-! ### Format and numerics bytes -/

/-- An operand format byte (spec/02 Table 2.3). -/
structure OpFmt where
  code : Nat
  uns : Bool
  mx : Bool
  expand : Nat
  deriving DecidableEq, Repr

/-- spec/02 Table 2.3. -/
def opFmt (b : Nat) : OpFmt :=
  { code := natBits b 3 0, uns := natBits b 4 4 = 1, mx := natBits b 5 5 = 1, expand := natBits b 7 6 }

/-- spec/02 R33 but for the place: the byte's own combinations; EXPAND only where `expandOk`. -/
def fmtByteOk (f : OpFmt) (expandOk : Bool) : Bool :=
  !(f.uns && !isIntCode f.code) &&
  !(f.mx && !(decide (0x3 ≤ f.code) && decide (f.code ≤ 0x8) && !f.uns)) &&
  f.expand != 3 &&
  (f.expand == 0 || expandOk && !f.mx && (f.code == 0x9 || f.code == 0x8 && f.expand == 2))

/-- FP32, BF16 or FP16, plain. -/
def plainFloat3 (f : OpFmt) : Bool := decide (f.code ≤ 2) && !f.mx && !f.uns && f.expand == 0

/-- The mode of an op from its numerics control byte (spec/02 R42, R43); none where RMODE is 5 to 7. -/
def numMode (s : State) (ctl : Nat) : Option NumMode :=
  if natBits ctl 4 4 = 1 then
    some { strict := regBits s 0x1000000 3 3 = 1, rmode := regBits s 0x1000000 2 0 }
  else if natBits ctl 2 0 > 4 then none
  else some { strict := natBits ctl 3 3 = 1, rmode := natBits ctl 2 0 }

/-! ### Packed elements (spec/02 R28, R35) -/

/-- Elements in a packing unit: two to a byte, four FP6 to three bytes. -/
def packUnit (w : Nat) : Nat := if w = 4 then 2 else if w = 6 then 4 else 1

/-- Bytes of a row of `n` elements: padded to the packing unit, or to whole blocks for MX. -/
def rowBytesOf (code : Nat) (mx : Bool) (n : Nat) : Nat :=
  let w := fmtBits code
  (if mx then roundUp n 32 else roundUp n (packUnit w)) * w / 8

/-- Bytes of an element format of whole bytes. -/
def elemBytes (code : Nat) : Nat := fmtBits code / 8

/-- The code of element `j` of a row, from the row's bytes. -/
def codeIn (w : Nat) (bs : List Byte) (j : Nat) : Nat :=
  let b := j * w
  (fieldAt bs (b / 8) ((w + 14) / 8) >>> (b % 8)) % 2 ^ w

/-- Element `j` of a packed row at an address, as an op reads it. -/
def opCode (s : State) (o : Op) (row w j : Nat) : Except Need Nat :=
  let b := j * w
  let first := b / 8
  let last := (b + w - 1) / 8
  (opNat s o (row + first) (last + 1 - first)).map fun v => (v >>> (b % 8)) % 2 ^ w

/-- The number a row of codes spells, element 0 lowest. -/
def packNat (w : Nat) : List Nat → Nat
  | [] => 0
  | c :: cs => c % 2 ^ w + 2 ^ w * packNat w cs

/-- A row of codes as stored, padded with zero codes to the unit or the block (spec/02 R28, R35). -/
def packRow (code : Nat) (mx : Bool) (cs : List Nat) : List Byte :=
  leBytes (rowBytesOf code mx cs.length) (packNat (fmtBits code) cs)

/-- The list cut into runs of `k`. -/
def chunks {α : Type} (k : Nat) : Nat → List α → List (List α)
  | 0, _ => []
  | n + 1, l => if l.isEmpty then [] else l.take k :: chunks k n (l.drop k)

/-- The list cut into runs of `k`, all of it. -/
def chunksOf {α : Type} (k : Nat) (l : List α) : List (List α) := chunks k l.length l

/-- A row of values stored in a format (spec/02 R37, R52): its bytes, its scales, each element's outcome. The random
word of element `j` of the row is `rs j`. An FP64 source of an MX row is first narrowed to FP32 (R37). -/
def storeRow (md : NumMode) (f : OpFmt) (rs : Nat → Nat) (vs : List Val) : List Byte × List Byte × List Rounded :=
  if f.mx then
    let blocks := (chunksOf 32 vs).mapIdx fun b blk =>
      encodeMxBlock md f.code (fun i => rs (32 * b + i)) (blk.map (flushIn md 0x0))
    (packRow f.code true (blocks.flatMap (·.codes)), blocks.map fun b => BitVec.ofNat 8 b.scale,
      blocks.flatMap (·.outs))
  else
    let outs := vs.mapIdx fun j v => convertCode .store md f.code f.uns (rs j) v
    (packRow f.code false (outs.map (·.1)), [], outs.map (·.2))

/-- The tally of a list of outcomes. -/
def tallyOf (rs : List Rounded) : Tally := Tally.sum (rs.map (·.tally))

/-- The bins of a list of outcomes (spec/10 R257). -/
def binsOf (rs : List Rounded) : List Nat := rs.map fun r => histBin r.note r.val

/-- How the fast-mode flush of a stored result in FP32 narrows: an exact widening of a narrow format (spec/04 R84). -/
def laneOf (f : OpFmt) : Nat :=
  if f.mx then 0x0
  else if isNarrow f.code ∨ f.code = 0xD then 0x0
  else if isIntCode f.code then 0xB
  else f.code

end Sys2Proof.Machine
end

