-- ==== Sys2Proof/Machine/Net.lean ====
section
/-! DEFINITION. Sending on the fabric: flits (spec/12 R294 to R297), ports and routes (R303 to R309), flows (R301, R302)
and violations (R312). -/

namespace Sys2Proof.Machine

/-! ### Links and ports -/

/-- Link l. -/
def link (s : State) (l : Nat) : Link := tabGet (fun _ => {}) s.fab.links l
/-- Link l replaced. -/
def linkPut (s : State) (l : Nat) (x : Link) : State :=
  { s with fab := { s.fab with links := tabPut (fun _ => {}) s.fab.links l x } }
/-- Link l changed. -/
def linkUpdate (s : State) (l : Nat) (f : Link → Link) : State := linkPut s l (f (link s l))

/-- Table 12.8. -/
def LinkState.code : LinkState → Nat
  | .disabled => 0
  | .down => 1
  | .training => 2
  | .hello => 3
  | .up => 4
  | .failed => 5
  | .quarantined => 6

/-- The Gallery that carries a link (spec/01 Table 1.1). -/
def galleryOf (l : Nat) : Nat := l / 48
/-- Its register block. -/
def galBase (g : Nat) : Nat := if g = 0 then 0x800000 else 0xA00000

/-- The port of a link: torus ports 0 to 5 (X+, X−, Y+, Y−, Z+, Z−), tree ports 6 to 8 (spec/00 Table 0.6); in spire mode
24 ports of 4 links (spec/12 R308). -/
def portOf (s : State) (l : Nat) : Nat :=
  if spireMode s then l / 4 else if l < 84 then l / 14 else 6 + (l - 84) / 4

/-- The links of a port, ascending. -/
def portLinks (s : State) (p : Nat) : List Nat := natsWhere 96 fun l => portOf s l == p

/-- spec/12 R316: a torus port is up with 12 links UP, a tree port with 2. A die of stopped Galleries has no link up
(spec/14 R367, spec/15 R376). -/
def portUp (s : State) (p : Nat) : Bool :=
  let n := ((portLinks s p).filter fun l => (link s l).st == .up).length
  decide (n ≥ if !spireMode s && decide (p < 6) then 12 else 2)

/-! ### Packets as bytes -/

/-- Traffic class of a kind (spec/12 Table 12.2): 0 control, 1 collective, 2 job bulk, 3 management. -/
def classOf (kind : Nat) : Nat :=
  if kind = 7 ∨ kind = 8 then 0 else if kind = 6 then 1 else if 1 ≤ kind ∧ kind ≤ 5 then 2 else 3

/-- The kinds of Table 12.4. -/
def kindKnown (kind : Nat) : Bool := (decide (1 ≤ kind) && decide (kind ≤ 8)) || (decide (0x10 ≤ kind) && decide (kind ≤ 0x14))

/-- spec/12 Table 12.3. -/
def hdrBytes (h : PktHdr) : List Byte :=
  leBytes 2 h.dst ++ leBytes 2 h.src ++ leBytes 2 h.job ++ leBytes 1 h.kind ++ leBytes 1 h.rflags ++ leBytes 2 h.len ++
    leBytes 1 h.hops ++ leBytes 1 0 ++ leBytes 4 h.fseq ++ leBytes 6 h.offset ++ leBytes 2 h.stamp ++ leBytes 4 h.tag ++
    leBytes 4 h.pack

/-- Bytes the spec does not lay out: a free length up to 4,096 and free contents (log entry 15). -/
def freePayload (k : Nat) : List Byte := (List.range (Config.freeNat k % 4097)).map (Config.freeByte k)

/-- A collective packet's payload: the header of spec/09 Table 9.3, then the sums of a half tile, `width` bytes each. -/
def collBytes (kind : Nat) (c : CollHdr) (width : Nat) (sums : List Int) : List Byte :=
  leBytes 4 c.group ++ leBytes 4 c.tile ++ leBytes 1 kind ++ leBytes 1 c.pass ++ leBytes 1 c.half ++ leBytes 1 c.pflags ++
    leBytes 2 (wrapTo 16 c.e) ++ leBytes 1 (wrapTo 8 c.f) ++ leBytes 1 0 ++ leBytes 8 c.step ++ leBytes 8 0 ++
    sums.flatMap fun v => leBytes width (wrapTo (8 * width) v)

/-- A payload's bytes: those the spec lays out, else free ones. -/
def payBytes (k : Nat) : Payload → List Byte
  | .write d => d
  | .e2eAck b => b
  | .phase r => r
  | .raw d => d
  | .coll kind c width sums => collBytes kind c width sums
  | _ => freePayload k

/-! ### Flits -/

/-- spec/12 Table 12.1, R295: a flit from its fields and payload. -/
def flitBytes (ftype vl : Nat) (sop eop : Bool) (seq ack cvl credits valid : Nat) (payload : List Byte) : List Byte :=
  let w := ftype * 2 ^ 60 + vl * 2 ^ 57 + b2n sop * 2 ^ 56 + b2n eop * 2 ^ 55 + seq * 2 ^ 43 + ack * 2 ^ 31 + cvl * 2 ^ 28 +
    credits * 2 ^ 20 + valid
  let body := leBytes 8 w ++ (payload ++ List.replicate 240 0).take 240
  body ++ leBytes 8 (crc64 body).toNat

/-- The credits a link returns next: the lowest virtual lane that is owed any (spec/12 R297). -/
def owedCredits (x : Link) : Nat × Nat :=
  match indexWhere (fun n => decide (n > 0)) x.owed with
  | some v => (v, min 255 ((x.owed[v]?).getD 0))
  | none => (0, 0)

/-- The last good SEQ. -/
def lastGood (x : Link) : Nat := (x.expSeq + 4095) % 4096

/-- One DATA flit sent: SEQ, ACK and returned credits in its header, a credit spent, a copy kept (spec/12 R297, R298). -/
def sendFlit (x : Link) (f : TxFlit) : Link :=
  let (cvl, n) := owedCredits x
  let b := flitBytes 1 f.vl f.sop f.eop x.sendSeq (lastGood x) cvl n (if f.eop then f.payload.length else 240) f.payload
  { x with sendSeq := (x.sendSeq + 1) % 4096, retry := x.retry ++ [(f.held, b)], sent := x.sent ++ [b], unacked := 0,
           credits := replaceAt x.credits f.vl ((x.credits[f.vl]?).getD 0 - 1),
           owed := replaceAt x.owed cvl ((x.owed[cvl]?).getD 0 - n) }

/-- The link can send the next flit of a virtual lane: a credit held, room among the 256 unacknowledged flits, and no earlier
flit of the lane waiting (spec/12 R296 to R298). -/
def flitGoes (x : Link) (vl : Nat) : Bool :=
  decide ((x.credits[vl]?).getD 0 > 0) && decide (x.retry.length < 256) && x.txq.all fun f => f.vl != vl

/-- The flits that a link has queued go out in order, those of the management class first (spec/12 R318), those of a lane that
cannot go staying behind. -/
def pumpLink (x : Link) : Link :=
  (x.txq.filter (fun f => decide (f.vl ≥ 6)) ++ x.txq.filter fun f => decide (f.vl < 6)).foldl (fun x f =>
    if flitGoes x f.vl then sendFlit x f else { x with txq := x.txq ++ [f] }) { x with txq := [] }

/-- The virtual lane of a packet: its class and its dateline bit; DL is 0 on tree links (spec/12 R296). -/
def vlOf (h : PktHdr) : Nat := 2 * classOf h.kind + natBits h.rflags 4 4

/-- Flits of a packet (spec/12 R299). -/
def pktFlits (bytes : List Byte) : List (List Byte) := chunksOf 240 bytes

/-- Flits of a packet by its header. -/
def flitCount (h : PktHdr) : Nat := ceilDiv (32 + h.len) 240

/-- A packet `p` given whole to a link, `w` as it came to this router. -/
def txPacket (s : State) (l : Nat) (w : HeldPkt) (p : Packet) : State :=
  let fl := pktFlits (hdrBytes p.hdr ++ payBytes s.draws p.pay)
  let fs := fl.mapIdx fun i c => ({ held := w, vl := vlOf p.hdr, sop := i == 0, eop := i + 1 == fl.length, payload := c } : TxFlit)
  let s := linkUpdate s l fun x => pumpLink { x with txq := x.txq ++ fs }
  { s with draws := s.draws + 1, fab := { s.fab with sent := s.fab.sent ++ [(some l, p)] } }

/-! ### Routes (spec/12 R304 to R309) -/

/-- Where a packet goes next. -/
inductive Hop where
  /-- Its route ends here. -/
  | here
  /-- Dropped and counted. -/
  | drop
  /-- No port can take it now. -/
  | hold
  /-- Out of a port, with its RFLAGS. -/
  | out (port : Nat) (rflags : Nat)
  deriving DecidableEq, Repr

/-- A slot's torus coordinate in dimension d (spec/12 R304). -/
def coord (slot d : Nat) : Nat := if d = 0 then slot % 4 else if d = 1 then slot / 4 % 4 else slot / 16
/-- Size of dimension d. -/
def dimSize (d : Nat) : Nat := if d = 2 then 8 else 4

/-- Remap entry of a chip: keep and slot, when valid (spec/12 Table 12.5). -/
def remap (s : State) (chip : Nat) : Option (Nat × Nat) :=
  if chip < 32768 ∧ regBits s (0x820000 + 4 * chip) 31 31 = 1 then
    some (regBits s (0x820000 + 4 * chip) 14 8, regBits s (0x820000 + 4 * chip) 7 0)
  else none

/-- Own keep and slot. -/
def ownKeep (s : State) : Nat := regBits s 0x800004 14 8
/-- Own slot. -/
def ownSlot (s : State) : Nat := regBits s 0x800004 7 0

/-- Up a tree: the first plane from (SRC XOR DST) mod 3 whose tree port is up (spec/12 R307). -/
def treeHop (s : State) (h : PktHdr) : Hop :=
  let p := (h.src ^^^ h.dst) % 3
  match [p, (p + 1) % 3, (p + 2) % 3].find? fun q => portUp s (6 + q) with
  | some q => .out (6 + q) (natBits h.rflags 0 0 + 2 + 4 * q)
  | none => .hold

/-- RFLAGS for a torus hop: DL is set where the hop crosses the wrap link of its dimension, and cleared on turning to
the next dimension (spec/12 R305). -/
def torusFlags (s : State) (h : PktHdr) (ingress : Option Nat) (d : Nat) (plus detour : Bool) : Nat :=
  let here := coord (ownSlot s) d
  let wrap := if plus then here + 1 == dimSize d else here == 0
  let same := match ingress with
    | some p => p / 2 == d
    | none => false
  let dl := wrap || (same && natBits h.rflags 4 4 == 1)
  b2n detour + 16 * b2n dl

/-- In the torus: dimension order, the shorter way, + on a tie; round the other way once when the port is down, then
by tree (spec/12 R305, R306). A detoured packet keeps its direction in the dimension it travels. -/
def torusHop (s : State) (h : PktHdr) (ingress : Option Nat) (slot : Nat) : Hop :=
  match [0, 1, 2].find? fun d => coord slot d ≠ coord (ownSlot s) d with
  | none => .here
  | some d =>
    let n := dimSize d
    let delta := (coord slot d + n - coord (ownSlot s) d) % n
    let detour := natBits h.rflags 0 0 = 1
    let plus := match ingress with
      | some p => if detour ∧ p / 2 = d then p % 2 == 1 else decide (delta ≤ n / 2)
      | none => decide (delta ≤ n / 2)
    let port := 2 * d + (if plus then 0 else 1)
    let other := 2 * d + (if plus then 1 else 0)
    if portUp s port then .out port (torusFlags s h ingress d plus detour)
    else if !detour && portUp s other then .out other (torusFlags s h ingress d (!plus) true)
    else treeHop s h

/-- In a spire: down where the keep table or, in a leaf spire, the slot table names a down port, and dropped while that port is
down; else up by the hash (spec/12 R307). -/
def spireHop (s : State) (h : PktHdr) : Hop :=
  match remap s h.dst with
  | none => .drop
  | some (keep, slot) =>
    let down := [16, 18, 20, 16][regBits s 0x800018 1 0]?.getD 16
    let viaKeep := regBits s (0x850000 + 4 * (keep / 4)) (8 * (keep % 4) + 7) (8 * (keep % 4))
    let viaSlot := regBits s (0x850100 + 4 * (slot / 4)) (8 * (slot % 4) + 7) (8 * (slot % 4))
    let pick := if viaKeep < down then some viaKeep else if keep = ownKeep s ∧ viaSlot < down then some viaSlot else none
    match pick with
    | some p => if portUp s p then .out p h.rflags else .drop
    | none =>
      let ups := natsWhere 24 fun p => decide (down ≤ p) && portUp s p
      if ups.isEmpty then .drop
      else
        let i := (mix64 (BitVec.ofNat 64 (h.src * 65536 ||| h.dst))).toNat % ups.length
        match ups[i]? with
        | some p => .out p h.rflags
        | none => .drop

/-- The next hop of a packet to one chip, from an ingress port or from this device. -/
def nextHop (s : State) (h : PktHdr) (ingress : Option Nat) : Hop :=
  if h.dst = 0xFFFF then .here
  else if spireMode s then (if h.dst = ownChip s then .here else spireHop s h)
  else if natBits h.rflags 1 1 = 1 ∧ ingress.isSome then .here
  else match remap s h.dst with
    | none => .drop
    | some (keep, slot) =>
      if keep = ownKeep s ∧ slot = ownSlot s then .here
      else if keep ≠ ownKeep s ∨ slot ≥ 128 ∨ ownSlot s ≥ 128 then treeHop s h
      else torusHop s h ingress slot

/-- Steps in dimension d, the + way or the − way, from a broadcast's source to this device. -/
def stepsFrom (s : State) (src d : Nat) (plus : Bool) : Nat :=
  let n := dimSize d
  let here := coord (ownSlot s) d
  let origin := match remap s src with
    | some (_, slot) => coord slot d
    | none => here
  if plus then (here + n - origin) % n else (origin + n - here) % n

/-- Steps that a broadcast's copies take each way of dimension d: the shorter way to every position, + on a tie
(spec/12 R305). -/
def wayReach (d : Nat) (plus : Bool) : Nat := if plus then dimSize d / 2 else dimSize d - dimSize d / 2 - 1

/-- A broadcast's copy that came by a port is the first here: one that detours is, past the positions that its direction's own
copies reach (spec/12 R306; log entry 150). -/
def copyFirst (s : State) (h : PktHdr) (p : Nat) : Bool :=
  natBits h.rflags 0 0 == 0 || decide (stepsFrom s h.src (p / 2) (p % 2 == 1) > wayReach (p / 2) (p % 2 == 1))

/-- The ports a keep broadcast leaves by, each with the RFLAGS of its copy: along X from the source, then Y, then Z
(spec/12 R305, R309). A copy that detours goes on to the other side of the gap, and what turns off from it has not detoured
(log entry 150). Only torus positions take part. -/
def broadcastPorts (s : State) (h : PktHdr) (ingress : Option Nat) : List (Nat × Nat) :=
  if spireMode s || decide (ownSlot s ≥ 128) then []
  else [0, 1, 2].flatMap fun d => [true, false].filterMap fun plus =>
    let port := 2 * d + (if plus then 0 else 1)
    let (goes, detour) := match ingress with
      | some p =>
        let far := natBits h.rflags 0 0 == 1
        if d = p / 2 then
          ((p % 2 == 1) == plus && (if far then portUp s port else decide (stepsFrom s h.src d plus < wayReach d plus)), far)
        else (decide (d > p / 2) && copyFirst s h p, false)
      | none => (true, false)
    if goes && decide (wayReach d plus > 0) then some (port, torusFlags s h ingress d plus detour) else none

/-! ### Shares of an egress port (spec/12 R318) -/

/-- The three parts of a port's traffic. -/
inductive Side where
  | mgmt | transit | job
  deriving DecidableEq, Repr

/-- Management; this device's job; everything else. -/
def sideOf (s : State) (h : PktHdr) : Side :=
  if classOf h.kind = 3 then .mgmt else if jobId s ≠ 0 ∧ h.job = jobId s then .job else .transit

/-- Flit slots of a port in a Chime period: 401 for each of its UP links (spec/12 R293, R316). -/
def portSlots (s : State) (p : Nat) : Nat := ((portLinks s p).filter fun l => (link s l).st == .up).length * 401

/-- Slots of port p used in this period. -/
def portUse (s : State) (p : Nat) : PortUse := tabGet (fun _ => {}) s.fab.slots p

/-- A packet of a side waits at port p. -/
def sideWaits (s : State) (p : Nat) (x : Side) : Bool :=
  s.fab.heldPkts.any fun w => w.port == some p && sideOf s w.pkt.hdr == x

/-- A packet of a side may start at port p in this period: management in its 1/64; transit in the share that TRANSIT_MIN
guaranteed it of the rest when the period began (spec/14 Table 14.3) and job traffic in what remains, and either in what the
other leaves (log entry 128). -/
def sideMay (s : State) (p : Nat) (x : Side) : Bool :=
  let u := portUse s p
  let rest := portSlots s p - u.mgmt
  let least := rest * s.fab.transitMin / 100
  match x with
  | .mgmt => decide (u.mgmt < portSlots s p / 64)
  | .transit => decide (u.transit + u.job < rest) && (decide (u.transit < least) || !sideWaits s p .job)
  | .job => decide (u.transit + u.job < rest) && (decide (u.job < rest - least) || !sideWaits s p .transit)

/-- The slots a packet of a side takes. -/
def PortUse.add (u : PortUse) (x : Side) (n : Nat) : PortUse :=
  match x with
  | .mgmt => { u with mgmt := u.mgmt + n }
  | .transit => { u with transit := u.transit + n }
  | .job => { u with job := u.job + n }

/-- A packet's slots taken, and its flits charged to the link class of the port where it is job traffic (spec/14 R356); none
when its side or its budget has to wait. -/
def takeSlots (s : State) (p : Nat) (h : PktHdr) : Option State :=
  let x := sideOf s h
  let n := flitCount h
  if !sideMay s p x then none
  else
    let t := { s with fab := { s.fab with slots := tabPut (fun _ => {}) s.fab.slots p ((portUse s p).add x n) } }
    if x = .job then tryBurst t (32 + 3 * p + classOf h.kind) 0 n else some t

/-! ### Leaving through a port -/

/-- A packet held until a path, a credit, a share or window room is there. -/
def holdPkt (s : State) (w : HeldPkt) : State := { s with fab := { s.fab with heldPkts := s.fab.heldPkts ++ [w] } }

/-- A packet dropped by the router of link l, or by the source's (spec/12 GAL_DROPS). -/
def countDrop (s : State) (l : Option Nat) : State := regCount s (galBase (galleryOf (l.getD 0)) + 0x64) 1

/-- Machine time of sending, in units of 64 kt (spec/12 Table 12.3). -/
def stampNow (s : State) : Nat := mtime s / 64 % 65536

/-- A packet has outlived GAL_LIFE (spec/12 R300). -/
def expired (s : State) (h : PktHdr) : Bool :=
  let u := regBits s 0x80001C 15 0
  decide ((stampNow s + 65536 - h.stamp % 65536) % 65536 > if u = 0 then 1221 else u)

/-- The link a packet takes at a port: of its UP links that hold a credit for the packet's virtual lane the one with the
shortest queue, the lowest-numbered on a tie (spec/12 R303). -/
def portPick (s : State) (port vl : Nat) : Option Nat :=
  let ls := (portLinks s port).filter fun l => (link s l).st == .up && decide (((link s l).credits[vl]?).getD 0 > 0)
  let queue := fun l => (link s l).txq.length
  match ls with
  | [] => none
  | l :: rest => some (rest.foldl (fun m k => if queue k < queue m then k else m) l)

/-- The flow of a class with a chip. -/
def flow (s : State) (chip cls : Nat) : Option Flow := s.fab.flows.find? fun f => f.chip == chip && f.cls == cls

/-- A flow changed. -/
def flowUpdate (s : State) (chip cls : Nat) (f : Flow → Flow) : State :=
  { s with fab := { s.fab with flows := s.fab.flows.map fun x => if x.chip == chip && x.cls == cls then f x else x } }

/-- The bitmap of a flow's window: bit i for the number i above its base. -/
def windowBitmap (f : Flow) : List Byte :=
  bitsToBytes ((List.range 1024).map fun i => f.got.contains ((f.base + i) % 2 ^ 32))

/-- A packet acknowledges all that its flow has received: PACK where nothing is beyond a gap, or an E2E_ACK of the window as it
stands. -/
def tellsAll (f : Flow) (p : Packet) : Bool :=
  p.hdr.pack == f.base % 2 ^ 32 && match p.pay with
    | .e2eAck b => b == windowBitmap f
    | _ => f.got.isEmpty

/-- What a packet of this device says by leaving: an acknowledgement is owed no longer once one that tells all has gone, and its
Gallery keeps it (spec/12 R301). An E2E_ACK speaks for the class in its TAG (log entry 17). -/
def leaveSource (s : State) (l : Nat) (p : Packet) : State :=
  let h := p.hdr
  let cls := classOf h.kind
  if cls = 3 then s
  else
    let s := flowUpdate s h.dst (if h.kind = 8 then h.tag else cls) fun f => { f with ackOwed := f.ackOwed && !tellsAll f p }
    flowUpdate s h.dst cls fun f => { f with unacked := f.unacked.map fun u =>
      if u.pkt.hdr.fseq == h.fseq then { u with gallery := galleryOf l } else u }

/-- A packet dropped where it waits; a phase record of this device is then one that could not be delivered (spec/10 R266). -/
def dropHeld (s : State) (w : HeldPkt) : State :=
  let s := if w.ingress.isNone && w.pkt.hdr.kind == 0x14 then regCount s 0x400018 1 else s
  countDrop s w.ingress

/-- A packet leaves by a port, or waits there; one too old is dropped (spec/12 R300, R303, R318). -/
def viaPort (s : State) (port : Nat) (w : HeldPkt) (p : Packet) : State :=
  let wait := holdPkt s { w with port := some port }
  if expired s p.hdr then dropHeld s w
  else match portPick s port (vlOf p.hdr) with
    | none => wait
    | some l => match takeSlots s port p.hdr with
      | none => wait
      | some t => txPacket (if w.ingress.isNone then leaveSource t l p else t) l w p

/-- A packet with other RFLAGS. -/
def Packet.flagged (p : Packet) (rf : Nat) : Packet := { p with hdr := { p.hdr with rflags := rf } }

/-- The first sync plane whose tree port is up: plane 0, or the next (spec/12 R319). -/
def planeUp (s : State) : Option Nat := [0, 1, 2].find? fun q => portUp s (6 + q)

/-- A packet too old is dropped; another waits at a port, or at its source. -/
def waitAt (s : State) (w : HeldPkt) (port : Option Nat) : State :=
  if expired s w.pkt.hdr then dropHeld s w else holdPkt s { w with port := port }

/-- A packet that goes by a port of its own. While that is down, a broadcast's copy goes the other way round its dimension, once;
one that has detoured has come to the gap's other side, and ends (spec/12 R306; log entry 150). A leader's request takes the
next plane (R319). -/
def viaOwn (s : State) (q : Nat) (w : HeldPkt) : State :=
  let h := w.pkt.hdr
  let other := if q % 2 = 0 then q + 1 else q - 1
  if portUp s q then viaPort s q w w.pkt
  else if h.dst = 0xFFFE then
    (if natBits h.rflags 0 0 = 1 then s
    else if portUp s other then
      viaPort s other w (w.pkt.flagged (torusFlags s h (w.ingress.map (portOf s)) (q / 2) (q % 2 == 1) true))
    else waitAt s w (some q))
  else match planeUp s with
    | some k => viaPort s (6 + k) w (w.pkt.flagged (2 + 4 * k))
    | none => waitAt s w (some q)

/-- A packet goes on from where it waits: by its own port, or by the route that its ingress gives it now. -/
def routeHeld (s : State) (w : HeldPkt) : State :=
  match w.fixed, w.port with
  | true, some q => viaOwn s q w
  | _, _ =>
    match nextHop s w.pkt.hdr (w.ingress.map (portOf s)) with
    | .out port rf => viaPort s port w (w.pkt.flagged rf)
    | .hold => waitAt s w none
    | _ => dropHeld s w

/-- A packet routed onward from an ingress link, or from this device; a broadcast takes every port of its way. -/
def routeOut (s : State) (ingress : Option Nat) (p : Packet) : State :=
  if p.hdr.dst = 0xFFFE then
    (broadcastPorts s p.hdr (ingress.map (portOf s))).foldl (fun s q =>
      routeHeld s { pkt := p.flagged q.2, ingress := ingress, port := some q.1, fixed := true }) s
  else routeHeld s { pkt := p, ingress := ingress }

/-! ### Flows (spec/12 R301, R302) -/

/-- Contexts that the spill range holds (64 B each), and those it has now. -/
def spillRoom (s : State) : Nat := regBits s 0x800024 11 0 * 2 ^ 20 / 64
/-- Spilled contexts. -/
def spilled (s : State) : Nat := (s.fab.flows.filter fun f => f.spill.isSome).length
/-- Resident contexts. -/
def residents (s : State) : Nat := (s.fab.flows.filter fun f => f.spill.isNone).length

/-- A context written to place k of the spill range, where the layout of its 64 bytes is the device's own (free bytes). -/
def spillTo (s : State) (k : Nat) : State :=
  let lo := regBits s 0x800020 19 0 * 2 ^ 20 + 64 * k
  { s with draws := s.draws + 1, mem := s.mem.lose lo (lo + 64) (.free s.draws) }

/-- The want of a context is over. -/
def fullOver (s : State) (chip cls : Nat) : State :=
  { s with fab := { s.fab with fullTold := s.fab.fullTold.filter (· != (chip, cls)) } }

/-- A new flow's context: resident while one of the 12,288 is free, else spilled, else none (spec/12 R302). -/
def openFlow (s : State) (chip cls : Nat) : Option State :=
  match flow s chip cls with
  | some _ => some s
  | none =>
    let put := fun (s : State) (k : Option Nat) =>
      fullOver { s with fab := { s.fab with flows := s.fab.flows ++ [{ chip := chip, cls := cls, spill := k }] } } chip cls
    if residents s < 12288 then some (put s none)
    else if spilled s < spillRoom s then
      (firstNat (spillRoom s) fun k => s.fab.flows.all fun f => f.spill != some k).map fun k => put (spillTo s k) (some k)
    else none

/-- FLOW_FULL, once for each want (spec/12 R302, spec/13 Table 13.8). -/
def flowFull (s : State) (chip cls : Nat) : State :=
  if s.fab.fullTold.contains (chip, cls) then s
  else deviceEvent { s with fab := { s.fab with fullTold := s.fab.fullTold ++ [(chip, cls)] } } 0x0042 .timeout
    (leBytes 2 chip ++ leBytes 1 cls)

/-- PACK of a packet to a chip: every FSEQ of the reverse flow below it has been received (log entry 17). -/
def packFor (s : State) (chip cls : Nat) : Nat :=
  match flow s chip cls with
  | some f => f.base % 2 ^ 32
  | none => 0

/-- The header of a packet of this device. -/
def mkHdr (s : State) (chip kind offset tag len fseq : Nat) : PktHdr :=
  { dst := chip, src := ownChip s, job := jobId s, kind := kind, rflags := 0, len := len, hops := 0, fseq := fseq,
    offset := offset, stamp := stampNow s, tag := tag, pack := packFor s chip (classOf kind) }

/-- The chip number is this device's: a packet to it never leaves (spec/01 R19). -/
def isSelf (s : State) (chip : Nat) : Bool := chip == ownChip s || chip == 0xFFFF

/-- A packet of this device to itself. -/
def loopBack (s : State) (p : Packet) : State := { s with fab := { s.fab with loop := s.fab.loop ++ [p] } }

/-- A chip number that takes no packet of this kind: a reserved one, or the keep broadcast for any class but management
(spec/01 Table 1.5). -/
def strayDst (h : PktHdr) : Bool :=
  (decide (0x8000 ≤ h.dst) && decide (h.dst ≤ 0xFFFD)) || (h.dst == 0xFFFE && classOf h.kind != 3)

/-- The link number of a packet that came by none (log entry 130). -/
def noLink : Nat := 255

/-- A violation is counted, and its source's first of a Chime period reported (spec/12 R312). -/
def violationNote (s : State) (l : Nat) (h : PktHdr) (st : Status) : State :=
  let s := regCount s (galBase (if l = noLink then 0 else galleryOf l) + 0x60) 1
  if s.fab.reported.contains h.src then s
  else deviceEvent { s with fab := { s.fab with reported := s.fab.reported ++ [h.src] } } 0x0041 st
    (leBytes 2 h.src ++ leBytes 2 h.job ++ leBytes 1 h.kind ++ leBytes 6 h.offset ++ leBytes 1 l)

/-- A packet of this device leaves through a router, or comes back to it; one to a stray chip number is dropped, counted and
reported as MALFORMED; of a keep broadcast it takes its own copy here (spec/01 R18, R19, spec/12 R309; log entry 150). -/
def launch (s : State) (p : Packet) : State :=
  if isSelf s p.hdr.dst then loopBack s p
  else if strayDst p.hdr then violationNote (countDrop s none) noLink p.hdr .malformed
  else if p.hdr.dst = 0xFFFE then routeOut (loopBack s p) none p
  else routeOut s none p

/-- The Gallery that would send a packet of this device now; Gallery 0 while it has no way (log entry 129). -/
def sourceGallery (s : State) (h : PktHdr) : Nat :=
  match nextHop s h none with
  | .out port rf => ((portPick s port (vlOf { h with rflags := rf })).map galleryOf).getD
      (((portLinks s port).head?.map galleryOf).getD 0)
  | _ => 0

/-- Bytes in a Gallery's packet store: what it has sent and no acknowledgement covers. -/
def storeUsed (s : State) (g : Nat) : Nat :=
  (s.fab.flows.map fun f => ((f.unacked.filter fun u => u.gallery == g).map fun u => 32 + u.pkt.hdr.len).sum).sum

/-- The flow's window of 1,024 or its Gallery's 16 MiB packet store has no room for a packet (spec/12 R301). -/
def noRoom (s : State) (f : Flow) (h : PktHdr) : Bool :=
  decide (f.unacked.length ≥ 1024) || decide (storeUsed s (sourceGallery s h) + 32 + h.len > 16 * 2 ^ 20)

/-- A packet of a numbered class is given its FSEQ and sent, or waits for a context, for its context to come back, or for
room (spec/12 R301, R302). -/
def sendNumbered (s : State) (h : PktHdr) (pay : Payload) : State :=
  let cls := classOf h.kind
  let wait : HeldPkt := { pkt := { hdr := { h with fseq := 2 ^ 32 }, pay := pay } }
  match openFlow s h.dst cls with
  | none => holdPkt (flowFull s h.dst cls) wait
  | some s =>
    match flow s h.dst cls with
    | some f =>
      if f.spill.isSome || noRoom s f h then holdPkt s wait
      else
        let p : Packet := { hdr := { h with fseq := f.next }, pay := pay }
        launch (flowUpdate s h.dst cls fun f =>
          { f with next := (f.next + 1) % 2 ^ 32,
                   unacked := f.unacked ++ [{ pkt := p, gallery := sourceGallery s h }] }) p
    | none => s

/-- A packet of this device sent. -/
def sendPkt (s : State) (chip kind offset tag : Nat) (pay : Payload) : State :=
  let h := mkHdr s chip kind offset tag (payBytes s.draws pay).length 0
  if classOf kind = 3 || isSelf s chip || strayDst h then launch s { hdr := h, pay := pay } else sendNumbered s h pay

/-- An E2E_ACK speaks for the flow it acknowledges by PACK as it stands (log entry 17). -/
def ackHdr (s : State) (h : PktHdr) : PktHdr := { h with pack := packFor s h.dst h.tag, stamp := stampNow s }

/-- An E2E_ACK's payload is the window of its flow as it stands; every other packet keeps its own (spec/12 R301). -/
def ackPay (s : State) (h : PktHdr) (pay : Payload) : Payload :=
  match h.kind == 8, flow s h.dst h.tag with
  | true, some f => .e2eAck (windowBitmap f)
  | _, _ => pay

/-- A held packet tried again. -/
def retryOne (s : State) (w : HeldPkt) : State :=
  let s := { s with fab := { s.fab with heldPkts := s.fab.heldPkts.erase w } }
  let h := w.pkt.hdr
  if h.fseq = 2 ^ 32 then
    sendNumbered s (if h.kind = 8 then ackHdr s h else mkHdr s h.dst h.kind h.offset h.tag h.len 0) (ackPay s h w.pkt.pay)
  else routeHeld s w

/-- Held packets, those of the management class first (spec/12 R318), the older first of each. -/
def heldInOrder (s : State) : List HeldPkt :=
  s.fab.heldPkts.filter (fun w => classOf w.pkt.hdr.kind == 3) ++ s.fab.heldPkts.filter fun w => classOf w.pkt.hdr.kind != 3

/-- Every held packet is tried again, and a second time with what the others left: after a link comes up, credits return, an
acknowledgement frees window room or a period starts. -/
def retryHeld (s : State) : State :=
  let pass := fun (s : State) => (heldInOrder s).foldl retryOne s
  pass (pass s)

/-! ### Flows that start again (spec/12 R302, R309) -/

/-- The number that a packet of a flow takes once its context is cleared: its place among the unacknowledged, or behind them. -/
def restartSeq (f : Flow) (n : Nat) : Nat :=
  match indexWhere (fun (u : Unacked) => u.pkt.hdr.fseq == n) f.unacked with
  | some i => i
  | none => f.unacked.length + (n + 2 ^ 32 - f.next % 2 ^ 32) % 2 ^ 32

/-- A flow's context cleared: both directions number from 0, and what is unacknowledged keeps its order, to be sent again under
the new numbers, to where its chip is now (spec/12 R302, R309, Table 12.12; log entry 149). -/
def flowRestarted (f : Flow) : Flow :=
  { chip := f.chip, cls := f.cls, spill := f.spill, next := f.unacked.length,
    unacked := f.unacked.mapIdx fun i u => { u with pkt := { u.pkt with hdr := { u.pkt.hdr with fseq := i } } } }

/-- An awaited acknowledgement under its packet's new number. -/
def awaitRestarted (fs : List Flow) (r : Req) : Req :=
  match r.await with
  | .ack c k n => match fs.find? fun f => f.chip == c && f.cls == k with
    | some f => { r with await := .ack c k (restartSeq f n) }
    | none => r
  | _ => r

/-- The flows with a chip whose remap entry has changed start again; copies that still wait here under an old number go, and
contexts with nothing to send again are free. -/
def flowsRestart (s : State) (chip : Nat) : State :=
  let fs := s.fab.flows.filter fun f => f.chip == chip
  let stale := fun (w : HeldPkt) =>
    w.ingress.isNone && w.pkt.hdr.dst == chip && classOf w.pkt.hdr.kind != 3 && w.pkt.hdr.fseq != 2 ^ 32
  { s with
    ops := s.ops.map fun o => { o with reqs := o.reqs.map (awaitRestarted fs) },
    fab := { s.fab with
      heldPkts := s.fab.heldPkts.filter fun w => !stale w,
      flows := s.fab.flows.filterMap fun f =>
        if f.chip != chip then some f else if f.unacked.isEmpty then none else some (flowRestarted f) } }

/-- What becomes of an op that sends to this chip: a reserved chip or the broadcast is MALFORMED (spec/01 Table 1.5), a
chip with no valid remap entry OUT_OF_RANGE (spec/12 R304). -/
def destStatus (s : State) (chip : Nat) : Option Status :=
  if chip ≥ 0x8000 then some .malformed
  else if (remap s chip).isNone then some .outOfRange
  else none

/-- An op whose packet has no chip to go to: the packet is dropped and counted at its source, and the op ends (spec/01
Table 1.5, spec/12 R304). -/
def unroutable (s : State) (id : Nat) (st : Status) : State := opDone (countDrop s none) id st

/-- A fresh request tag. -/
def takeTag (s : State) : Nat × State :=
  (s.fab.nextTag % 2 ^ 32, { s with fab := { s.fab with nextTag := s.fab.nextTag + 1 } })

/-- An awaited arrival added to an op; its limit counts from now (spec/13 R344). -/
def addReq (s : State) (id tag : Nat) (a : Await) : State :=
  opUpdate s id fun o => { o with reqs := o.reqs ++ [{ tag := tag, await := a, start := mtime s }] }

/-- The FSEQ the next packet of a class to a chip will carry. -/
def nextFseq (s : State) (chip cls : Nat) : Nat :=
  let waiting := (s.fab.heldPkts.filter fun w =>
    w.pkt.hdr.dst == chip && classOf w.pkt.hdr.kind == cls && w.pkt.hdr.fseq == 2 ^ 32).length
  match flow s chip cls with
  | some f => (f.next + waiting) % 2 ^ 32
  | none => waiting

/-- A packet an op waits to have acknowledged: WRITE, ATOMIC, a batch (spec/12 R301). -/
def sendAwaited (s : State) (id chip kind offset : Nat) (pay : Payload) : State :=
  let (tag, s) := takeTag s
  let n := nextFseq s chip (classOf kind)
  let s := if isSelf s chip then s else addReq s id tag (.ack chip (classOf kind) n)
  sendPkt s chip kind offset tag pay

/-- A READ batch of an op: one request tag for its rows (spec/06 R150). -/
def sendRead (s : State) (id batch turret chip : Nat) (rows : List RowReq) : State :=
  let (tag, s) := takeTag s
  let s := addReq s id tag (.rows batch turret chip rows)
  sendPkt s chip 1 ((rows.head?.map (·.off)).getD 0) tag (.read rows)

/-! ### Link states (spec/12 R313, R317) -/

/-- LINK event (spec/13 Table 13.8); the spec numbers no reasons, so that byte is free. -/
def linkEvent (s : State) (l : Nat) (old new : LinkState) (st : Status) : State :=
  let (r, s) := drawBytes 1 s
  deviceEvent s 0x0040 st (leBytes 1 l ++ leBytes 1 old.code ++ leBytes 1 new.code ++ r)

/-- Packets with an unacknowledged or unsent flit on a link, oldest first; a hello goes with its link. -/
def retryPackets (x : Link) : List HeldPkt :=
  ((x.retry.map (·.1) ++ x.txq.map (·.held)).eraseDups).filter fun w => w.pkt.hdr.kind != 0x10

/-- Packets in a link's queue of which no flit has left; a hello goes with its link. -/
def unsentPackets (x : Link) : List HeldPkt :=
  (((x.txq.filter (·.sop)).map (·.held)).eraseDups).filter fun w =>
    w.pkt.hdr.kind != 0x10 && x.retry.all fun f => f.1 != w

/-- A port has gone down: the packets in the queues of its UP links detour (spec/12 R306, R317, Table 12.12). -/
def portDetour (s : State) (port : Nat) : State :=
  ((portLinks s port).filter fun l => (link s l).st == .up).foldl (fun s l =>
    let ws := unsentPackets (link s l)
    ws.foldl routeHeld (linkUpdate s l fun x => { x with txq := x.txq.filter fun f => !ws.contains f.held })) s

/-- A link takes a state other than UP: its retry buffer empties, incomplete packets go, and packets with unacknowledged
flits are sent again whole (spec/12 R317); once its port is down, what its other links have queued detours. -/
def linkLeave (s : State) (l : Nat) (new : LinkState) : State :=
  let x := link s l
  let port := portOf s l
  let was := portUp s port
  let ps := retryPackets x
  let fresh : Link :=
    { st := new, media := x.media, sendSeq := x.sendSeq, expSeq := x.expSeq, replays := x.replays, retrains := x.retrains,
      failedRetrains := x.failedRetrains, failedHellos := x.failedHellos, partnerChip := x.partnerChip,
      partnerLink := x.partnerLink, viols := x.viols, tag := x.tag, sent := x.sent }
  let s := linkPut s l fresh
  let s := if was && !portUp s port then portDetour s port else s
  if x.st == .up then ps.foldl routeHeld s else s

/-- A violation on a link (spec/12 R312): counted, the source's first of a Chime period reported, and the link
quarantined at the threshold. A packet of this device to itself has no link to quarantine. -/
def violation (s : State) (l : Nat) (h : PktHdr) (st : Status := .outOfRange) : State :=
  let s := violationNote s l h st
  let n := regBits s 0x800014 15 0
  let us := regBits s 0x800014 31 16
  -- 1 µs is 156.25 kt
  let window := (if us = 0 then 1000 else us) * 15625 / 100
  let s := if l = noLink then s else
    linkUpdate s l fun x => { x with viols := x.viols.filter (fun t => decide (t + window ≥ mtime s)) ++ [mtime s] }
  if n ≠ 0 ∧ (link s l).viols.length ≥ n ∧ (link s l).st = .up then
    let s := raiseFault (linkLeave s l .quarantined) 4 l 0x13 l
    linkEvent (linkUpdate s l fun x => { x with viols := [] }) l .up .quarantined .quarantined
  else s

end Sys2Proof.Machine
end

