-- ==== Sys2Proof/Machine/Telemetry.lean ====
section
/-! DEFINITION. The Oculus's layer records: where they lie, and one contribution to one (spec/10 R254 to R260). -/

namespace Sys2Proof.Machine

/-- Layer records kept. -/
def telLayers (s : State) : Nat := regBits s 0x400004 13 0
/-- Lantern offset of the telemetry area. -/
def telBase (s : State) : Nat := regBits s 0x400000 30 12 * 4096
/-- Bytes of the telemetry area (spec/10 R266). -/
def telSpan (s : State) : Nat := 2080 * telLayers s + 128
/-- Records are kept: LAYERS is not 0 and the area lies in the general partition (spec/10 Table 10.11). -/
def telKept (s : State) : Bool := decide (telLayers s ≠ 0) && inPart s 5 (telBase s) (telSpan s)

/-- Device offset of layer L's record in the bank of step T (spec/10 R255, R259). -/
def layerRec (s : State) (step layer : Nat) : Nat :=
  lanBase + telBase s + (step % 2 * telLayers s + layer) * 1024

/-- A counter field of `n` bytes increased; it stops at its largest value. -/
def bumpField (s : State) (a n x : Nat) : State :=
  devWrite s a (leBytes n (min (memNat s a n + x) (256 ^ n - 1)))

/-- The record made ready for a contribution of step T: zeroed first when it holds another step (spec/10 R256). -/
def layerOpen (s : State) (step layer : Nat) : State :=
  let a := layerRec s step layer
  if memNat s a 8 = step then s
  else devWrite s a (leBytes 8 step ++ List.replicate 1016 0)

/-- `n` contributions to a layer record, or as many drops when the layer is not kept (spec/10 R258). -/
def layerDo (s : State) (step layer n : Nat) (f : State → Nat → State) : State :=
  if telKept s && decide (layer < telLayers s) then
    let s := layerOpen s step layer
    f s (layerRec s step layer)
  else regCount s 0x400014 n

/-- `n` contributions of bins: each listed bin counts one, `disc` discarded saturations go to bin 60 and DISC_SAT, `ops`
to OPS (spec/10 R257, R258). -/
def addBins (s : State) (step layer : Nat) (bins : List Nat) (disc ops n : Nat) : State :=
  layerDo s step layer n fun s a =>
    let s := bins.eraseDups.foldl (fun s b => bumpField s (a + 64 + 8 * b) 8 (bins.count b)) s
    let s := if disc = 0 then s else bumpField (bumpField s (a + 64 + 8 * 60) 8 disc) (a + 52) 4 disc
    bumpField s (a + 8) 4 ops

/-- The step's telemetry, opened by its first op (spec/10 R265). -/
def telOpen (s : State) (step : Nat) : State :=
  if s.dome.steps.any fun t => t.step == step then s
  else { s with dome := { s.dome with steps := s.dome.steps ++ [{ step := step, start := mtime s }] } }

/-- A step's telemetry changed. -/
def telUpdate (s : State) (step : Nat) (f : StepTel → StepTel) : State :=
  { s with dome := { s.dome with steps := s.dome.steps.map fun t => if t.step == step then f t else t } }

end Sys2Proof.Machine
end

