-- ==== Sys2Proof/Machine/Copy.lean ====
section
/-! DEFINITION. COPY with the belfry DMA compressor (spec/13 R339, spec/05 R109 to R113, spec/08 R197 to R200) and FILL
(spec/13 R340). -/

namespace Sys2Proof.Machine

/-! ### What remote reads and writes share -/

/-- What a list of remote rows has come to. -/
inductive Fetched where
  /-- Requests are out. -/
  | wait (s : State)
  | ready (rows : List RowReply)

/-- The turret of a read that no turret makes: a belfry DMA's, which takes no strand. -/
def noTurret : Nat := 256

/-- The reply to a remote row that a DMA reads, once it has come; its batches are numbered by their chip. -/
def replyTo (o : Op) (chip : Nat) (r : RowReq) : Option RowReply :=
  (o.rowBuf.find? fun x => x.1 == chip && x.2.1 == r).map (·.2.2)

/-- A remote row has been asked for and has not come. -/
def rowAsked (o : Op) (chip : Nat) (r : RowReq) : Bool :=
  o.reqs.any fun q => match q.await with
    | .rows _ _ c rs => c == chip && rs.contains r
    | _ => false

/-- Remote rows of a DMA: those not yet asked for go out in batches of at most `per` rows to each owner, in order. -/
def fetchRows (s : State) (id per : Nat) (want : List (Nat × RowReq)) : Fetched :=
  match opById s id with
  | none => .wait s
  | some o =>
    let want := want.eraseDups
    let todo := want.filter fun w => (replyTo o w.1 w.2).isNone && !rowAsked o w.1 w.2
    let chips := (todo.map (·.1)).eraseDups
    let s := chips.foldl (fun s c =>
      (chunksOf (max 1 per) ((todo.filter fun w => w.1 == c).map (·.2))).foldl (fun s b => sendRead s id c noTurret c b) s) s
    match want.mapM fun w => replyTo o w.1 w.2 with
    | some rows => .ready rows
    | none => .wait s

/-- The op has sent its remote writes. -/
def markSent (s : State) (id : Nat) : State := opUpdate s id fun o => { o with work := .slices 1 }

/-- The op has already sent its remote writes. -/
def hasSent (o : Op) : Bool := o.work == .slices 1

/-- 4 KiB pieces of a range: offset and bytes (spec/13 R339). -/
def pieces (n : Nat) : List (Nat × Nat) :=
  (List.range (ceilDiv n 4096)).map fun i => (4096 * i, min 4096 (n - 4096 * i))

/-- A remote range touches the set-up register mirror (spec/01 R20). -/
def meetsMirror (a n : Nat) : Bool :=
  decide (addrOff a < 0x030004000000) && decide (0x030000000000 < addrOff a + n)

/-- The status of a remote reply other than OK: REFUSED and RANGE are OUT_OF_RANGE, FAILED is ABORTED
(spec/13 R339). -/
def replyStatus (code : Nat) : Option Status :=
  match code with
  | 0 => none
  | 3 => some .aborted
  | _ => some .outOfRange

/-- Writes of an op applied, or what they wait for; `k` goes on with the state after them. -/
def applyWrites (s : State) (o : Op) (ws : List (Nat × List Byte)) (k : State → State) : State :=
  match opWrites s o ws with
  | .done s => k s
  | .wait room => awaitWrite s o.id room
  | .limit s => opLimit s o

/-- A TURRET_MASK that names no belfry with an active turret (spec/03 R80). -/
def maskBad (s : State) (mask : Nat) : Bool := (maskBelfries s mask).isEmpty

/-! ### The compression block (spec/05 Table 5.1) -/

/-- The compression block, with what its geometry follows from. -/
structure CmpBlock where
  (kind : Nat)
  (bitmap summary guard strict : Bool)
  (rowLen rows : Nat)
  (src dst : OpFmt)
  (metaA bitmapA summaryA guardA scaleA : Nat)
  deriving DecidableEq, Repr

/-- spec/05 Table 5.1. -/
def parseCmp (d : List Byte) : CmpBlock :=
  let c := fieldAt d 0 4
  { kind := natBits c 1 0, bitmap := natBits c 2 2 = 1, summary := natBits c 3 3 = 1, guard := natBits c 4 4 = 1,
    strict := natBits c 5 5 = 1, rowLen := fieldAt d 4 4, rows := fieldAt d 8 4, src := opFmt (fieldAt d 12 1),
    dst := opFmt (fieldAt d 13 1), metaA := fieldAt d 16 8, bitmapA := fieldAt d 24 8, summaryA := fieldAt d 32 8,
    guardA := fieldAt d 40 8, scaleA := fieldAt d 48 8 }

/-- Bytes of one bit-map row: 64 B for each 512 columns (spec/05 R107, R112). -/
def mapPitch (n : Nat) : Nat := ceilDiv n 512 * 64

/-- Bytes of a stored row at the destination: a compressed column padded to 64 B (R106), the worst case of a lossless
record (R198), else the row packed (R199, R28). -/
def cmpPitch (c : CmpBlock) : Nat :=
  if c.kind = 1 then roundUp (rowBytesOf c.dst.code false (ceilDiv c.rowLen 4 * 2)) 64
  else if c.kind = 2 then mapPitch c.rowLen + roundUp (c.rowLen * elemBytes c.src.code) 64
  else rowBytesOf c.dst.code c.dst.mx c.rowLen

/-- Bytes of a dense source row. -/
def denseRow (c : CmpBlock) : Nat := rowBytesOf c.src.code false c.rowLen
/-- Pitch of the dense rows (spec/13 Table 13.4). -/
def densePitch (c : CmpBlock) (b : CopyBody) : Nat := if b.pitch = 0 then denseRow c else b.pitch
/-- Bytes the dense rows span. -/
def denseSpan (c : CmpBlock) (b : CopyBody) : Nat := (c.rows - 1) * densePitch c b + denseRow c

/-- A format that the compressor converts from or to (spec/02 Table 2.4, CONVERT). -/
def convertible (f : OpFmt) : Bool := decide (f.code ≤ 0xD)

/-- The block itself may be used: its formats, its kind, its shape (spec/05 R109, Table 5.7; spec/08 R197, R199). -/
def cmpOk (c : CmpBlock) (restore : Bool) : Bool :=
  fmtByteOk c.src false && fmtByteOk c.dst false && convertible c.src && convertible c.dst &&
  !c.src.mx && decide (c.rowLen ≠ 0) && decide (c.rows ≠ 0) && (!restore || c.kind == 2) &&
  (if c.kind = 1 then
    (c.dst.code == 1 || c.dst.code == 2 || (decide (3 ≤ c.dst.code) && decide (c.dst.code ≤ 9))) &&
      decide (c.rowLen < 2 ^ 24) && decide (c.rows < 2 ^ 24)
  else if c.kind = 2 then
    c.dst == c.src && (decide (c.src.code ≤ 4) || c.src.code == 8 || c.src.code == 0xA || c.src.code == 0xB)
  else if c.kind = 3 then c.dst.mx && (c.dst.code == 3 || c.dst.code == 4) && decide (c.src.code ≤ 2)
  else true) &&
  (!c.dst.mx || decide (c.src.code ≤ 2))

/-- Ranges that a store writes beside its values: address and bytes. -/
def cmpOutputs (c : CmpBlock) : List (Nat × Nat) :=
  (if c.kind = 1 then [(c.metaA, c.rows * mapPitch c.rowLen)] else if c.kind = 2 then [(c.metaA, 8 * (c.rows + 1))] else []) ++
  (if c.bitmap then [(c.bitmapA, c.rows * mapPitch c.rowLen)] else []) ++
  (if c.summary then [(c.summaryA, ceilDiv c.rows 64 * mapPitch c.rowLen)] else []) ++
  (if c.guard then [(c.guardA, ceilDiv c.rows 64 * c.rowLen * 16)] else []) ++
  (if c.dst.mx then [(c.scaleA, c.rows * ceilDiv c.rowLen 32)] else [])

/-- Ranges a COPY reads (spec/08 R203): the source, the block, and the offsets of a restore. -/
def readsCopy (s : State) (o : Op) (b : CopyBody) : List (Nat × Nat) :=
  if absent b.cmp then (if isLocal s b.src then [(b.src, b.bytes)] else [])
  else
    let c := parseCmp (opRec s o b.cmp 64)
    (b.cmp, 64) :: if natBits b.flags 0 0 = 1 then [(c.metaA, 8 * (c.rows + 1)), (b.src, 1)] else [(b.src, denseSpan c b)]

/-- COPY's acceptance checks (spec/13 R339, spec/05 R109 to R111, spec/08 R198). -/
def checkCopy (s : State) (o : Op) (b : CopyBody) : Option Status :=
  let restore := natBits b.flags 0 0 = 1
  let viewHit := fun (a n : Nat) => isLocal s a && meetsView s (addrOff a) n
  if absent b.cmp then
    let far := fun a => !isLocal s a
    refuse
      [ (maskBad s b.mask, .malformed), (decide restore, .malformed),
        (decide (b.bytes < 4) || decide (b.bytes > 2 ^ 40) || b.bytes % 4 != 0, .malformed),
        (viewHit b.dst b.bytes, .malformed),
        (absent b.src || absent b.dst || b.src % 4 != 0 || b.dst % 4 != 0, .outOfRange),
        (far b.src && meetsMirror b.src b.bytes || far b.dst && meetsMirror b.dst b.bytes, .outOfRange),
        (!far b.src && !rangeOkOp s o (addrOff b.src) b.bytes || !far b.dst && !rangeOkOp s o (addrOff b.dst) b.bytes,
          .outOfRange) ]
  else if !opRange s o b.cmp 64 64 then
    if maskBad s b.mask then some .malformed else some .outOfRange
  else
    let c := parseCmp (opRec s o b.cmp 64)
    let ok := opRange s o
    let dstBytes := if restore then denseSpan c b else c.rows * cmpPitch c
    refuse
      [ (maskBad s b.mask, .malformed), (!cmpOk c restore, .malformed),
        (c.strict && (txnOf s o.hdr.txn).isNone, .malformed),
        (viewHit b.dst dstBytes || (!restore && (cmpOutputs c).any fun x => viewHit x.1 x.2), .malformed),
        (!ok b.dst dstBytes 4, .outOfRange),
        (if restore then !ok c.metaA (8 * (c.rows + 1)) 1 || !ok b.src 4 4
         else !ok b.src (denseSpan c b) 4 || (cmpOutputs c).any fun x => !ok x.1 x.2 1, .outOfRange) ]

/-! ### Storing one row -/

/-- What a store of one row comes to: its stored bytes, metadata, scales, stored codes by column (none: structural
zero), bits of the occupancy map, prunes, dropped magnitudes and the tally. -/
structure StoredRow where
  bytes : List Byte
  md : List Byte := []
  scales : List Byte := []
  codes : List (Option Nat)
  nz : List Bool
  prunes : Nat := 0
  loss : List (Nat × Int) := []
  tally : Tally := {}

/-- The first of two source values ranks at or above the second: NaN, then Inf, then by magnitude (spec/05 R110). -/
def rankGe (a b : Val) : Bool :=
  match a, b with
  | .nan _ _ _, _ => true
  | _, .nan _ _ _ => false
  | .inf _, _ => true
  | _, .inf _ => false
  | .fin _ m e, .fin _ n f => magCmp m e n f != .lt

/-- The two positions kept of a group of four, ascending (spec/05 R110). -/
def keepTwo (g : List Val) : List Nat :=
  let nz := natsWhere 4 fun p => !((g[p]?).getD (.zero false)).isZero
  if nz.length ≤ 2 then
    let pick := (nz ++ natsWhere 4 fun p => !nz.contains p).take 2
    natsWhere 4 fun p => pick.contains p
  else
    let v := fun p => (g[p]?).getD (.zero false)
    -- the rank of p counts the values that beat it
    let beats := fun q p => q != p && (if rankGe (v q) (v p) && rankGe (v p) (v q) then decide (q < p) else rankGe (v q) (v p))
    natsWhere 4 fun p => nz.contains p && decide ((nz.filter fun q => beats q p).length < 2)

/-- The metadata code of kept positions (spec/05 R107). -/
def metaCode (keep : List Nat) : Nat := (keep[0]?).getD 0 + 4 * (keep[1]?).getD 0

/-- Fast mode with RNE: the compressor's (spec/05 R109). -/
def cmpMode : NumMode := NumMode.fastRne

/-- One row of codes through the compressor as a 2:4 column (spec/05 R106, R107, R110, R111). -/
def storeSparse (c : CmpBlock) (vs : List Val) : StoredRow :=
  let groups := (chunksOf 4 vs).map fun g => (g ++ List.replicate 4 (.zero false)).take 4
  let keeps := groups.map keepTwo
  let kept := (groups.zip keeps).flatMap fun (g, k) => k.map fun p => (g[p]?).getD (.zero false)
  let dropped := (groups.zip keeps).flatMap fun (g, k) =>
    (natsWhere 4 fun p => !k.contains p).map (fun p => (g[p]?).getD (.zero false)) |>.filter fun v => !v.isZero
  -- scales of an MX column count original k: 8 groups, 16 stored values, one scale (spec/03 R73)
  let blocks := if c.dst.mx then chunksOf 16 kept else [kept]
  let enc := blocks.map fun blk =>
    if c.dst.mx then
      let m := encodeMxBlock cmpMode c.dst.code (fun _ => 0) (blk.map (flushIn cmpMode c.src.code))
      (m.codes.take blk.length, [BitVec.ofNat 8 m.scale], m.outs.take blk.length)
    else
      let os := blk.map fun v => convertCode .store cmpMode c.dst.code c.dst.uns 0 (flushIn cmpMode c.src.code v)
      (os.map (·.1), [], os.map (·.2))
  let codes := enc.flatMap (·.1)
  let outs := enc.flatMap (·.2.2)
  let at4 := fun (k : Nat) =>
    match (keeps[k / 4]?).bind (fun ks => indexWhere (fun p => p == k % 4) ks) with
    | some i => codes[2 * (k / 4) + i]?
    | none => none
  { bytes := packRow c.dst.code false codes,
    md := (leBytes (mapPitch c.rowLen) (packNat 4 (keeps.map metaCode))),
    scales := enc.flatMap (·.2.1), codes := (List.range c.rowLen).map at4,
    nz := vs.map fun v => !v.isZero,
    prunes := ((groups.filter fun g => decide ((g.filter fun v => !v.isZero).length > 2)).length),
    loss := dropped.filterMap fun v => match v with
      | .fin _ m e => some (m, e)
      | _ => none,
    tally := (tallyOf outs).join { nonfin := (dropped.filter fun v => !v.isFin).length } }

/-- One row stored losslessly (spec/08 R197). -/
def storeLossless (c : CmpBlock) (row : List Byte) (vs : List Val) : StoredRow :=
  let eb := elemBytes c.src.code
  let els := (List.range c.rowLen).map fun i => (row.drop (i * eb)).take eb
  let present := els.map fun e => e.any fun b => b != 0
  let map := bitsToBytes present
  let packed := (els.filter fun e => e.any fun b => b != 0).flatten
  let pad := fun (l : List Byte) (n : Nat) => l ++ List.replicate (n - l.length) 0
  { bytes := pad map (mapPitch c.rowLen) ++ pad packed (roundUp packed.length 64),
    codes := els.map fun e => some (leNat e), nz := vs.map fun v => !v.isZero }

/-- One row converted and stored as a dense or MX row (spec/08 R199, spec/05 R109). -/
def storeDense (c : CmpBlock) (vs : List Val) : StoredRow :=
  let (bs, sc, outs) := storeRow cmpMode c.dst (fun _ => 0) (vs.map (flushIn cmpMode c.src.code))
  { bytes := bs, scales := sc, codes := (List.range c.rowLen).map fun i => some (codeIn (fmtBits c.dst.code) bs i),
    nz := vs.map fun v => !v.isZero, tally := tallyOf outs }

/-- One source row through the compressor. -/
def storeOne (c : CmpBlock) (row : List Byte) : StoredRow :=
  let w := fmtBits c.src.code
  let vs := (List.range c.rowLen).map fun j => decodeVal c.src.code c.src.uns (codeIn w row j)
  if c.kind = 1 then storeSparse c vs else if c.kind = 2 then storeLossless c row vs else storeDense c vs

/-- The weight a stored code reads back as, for the guard (spec/05 R113). -/
def guardVal (c : CmpBlock) (r : StoredRow) (k : Nat) : Val :=
  match (r.codes[k]?).getD none with
  | none => .zero false
  | some code => if c.dst.mx then mxVal c.dst.code (((r.scales[k / 32]?).getD 0).toNat) code else decodeVal c.dst.code c.dst.uns code

/-- The weight guard entry of position k and column group j (spec/05 R113). -/
def guardEntry (c : CmpBlock) (rows : List StoredRow) (j k : Nat) : List Byte :=
  let vs := ((rows.drop (64 * j)).take 64).map fun r => guardVal c r k
  let signs := vs.map Val.neg
  let w := bitsToBytes signs
  (w ++ List.replicate (8 - w.length) 0) ++ leBytes 1 (b2n (vs.any fun v => !v.isFin)) ++ List.replicate 7 0

/-- The bit maps, summaries and guards that a store's flags ask for (spec/05 R112, R113). -/
def cmpExtras (c : CmpBlock) (rows : List StoredRow) : List (Nat × List Byte) :=
  let pitch := mapPitch c.rowLen
  let pad := fun (l : List Byte) => l ++ List.replicate (pitch - l.length) 0
  (if c.bitmap then rows.mapIdx fun r x => (c.bitmapA + r * pitch, pad (bitsToBytes x.nz)) else []) ++
  (if c.summary then
    (chunksOf 64 rows).mapIdx fun q grp =>
      (c.summaryA + q * pitch, pad (bitsToBytes ((List.range c.rowLen).map fun i => grp.any fun x => (x.nz[i]?).getD false)))
   else []) ++
  (if c.guard then
    (List.range (ceilDiv c.rows 64)).flatMap fun j => (List.range c.rowLen).map fun k =>
      (c.guardA + (j * c.rowLen + k) * 16, guardEntry c rows j k)
   else [])

/-- The rows' own writes: values, metadata or ROW_OFF, and scales. -/
def cmpRows (c : CmpBlock) (dst : Nat) (rows : List StoredRow) : List (Nat × List Byte) :=
  let offs := rows.foldl (fun (l : List Nat) r => l ++ [l.getLastD 0 + r.bytes.length]) [0]
  let place := fun (i : Nat) => if c.kind = 2 then (offs[i]?).getD 0 else i * cmpPitch c
  (rows.mapIdx fun i r => (dst + place i, r.bytes)) ++
  (if c.kind = 1 then rows.mapIdx fun i r => (c.metaA + i * mapPitch c.rowLen, r.md)
   else if c.kind = 2 then [(c.metaA, offs.flatMap (leBytes 8))] else []) ++
  (if c.dst.mx then rows.mapIdx fun i r => (c.scaleA + i * ceilDiv c.rowLen 32, r.scales) else [])

/-- A magnitude with an odd mantissa. -/
def oddMag (x : Nat × Int) : Nat × Int :=
  let k := Nat.log2 ((x.1 ^^^ (x.1 - 1)) + 1) - 1
  if x.1 = 0 then x else (x.1 >>> k, x.2 + k)

/-- Magnitudes added exactly: a mantissa and its exponent. -/
def magTotal : List (Nat × Int) → Nat × Int
  | [] => (0, 0)
  | (m, e) :: t =>
    let x := t.foldl (fun (acc : Int × Int) (x : Nat × Int) => dyAdd acc.1 acc.2 x.1 x.2) ((m : Int), e)
    (x.1.toNat, x.2)

/-- Arithmetic of the prune-loss sum: FP64 with RNE. -/
def lossMode : NumMode := { strict := true, rmode := 0 }

/-- A magnitude as FP64. -/
def magVal (x : Nat × Int) : Val := (roundArith lossMode 0xC 0 (.fin false x.1 x.2)).val

/-- Magnitudes with odd mantissas, added in any order, never round: their total is below 2^53 of the lowest bit set. -/
def addsExactly (ms : List (Nat × Int)) : Bool := decide ((magTotal ms).1 < 2 ^ 53)

/-- The binary exponent of a magnitude. -/
def magExp (x : Nat × Int) : Int := (Nat.log2 x.1 : Int) + x.2

/-- In any order the magnitudes below leave the sum of those above as it is: together they are under a quarter of the last place
of the least of those above. -/
def leavesSum (above below : List (Nat × Int)) : Bool :=
  let (m, e) := magTotal below
  above.all fun x => decide ((Nat.log2 m : Int) + 1 + e + 2 ≤ magExp x - 52)

/-- An element put at each place of a list. -/
def placings {α : Type} (x : α) : List α → List (List α)
  | [] => [[x]]
  | y :: t => (x :: y :: t) :: (placings x t).map (y :: ·)

/-- The orders of a list. -/
def ordersOf {α : Type} : List α → List (List α)
  | [] => [[]]
  | x :: t => (ordersOf t).flatMap (placings x)

/-- Magnitudes added in order. -/
def addedInOrder (ms : List (Nat × Int)) : Val :=
  ms.foldl (fun v x => (fpAdd lossMode 0xC 0 v (.fin false x.1 x.2)).val) (.zero false)

/-- The prune-loss sum as FP64 with RNE (spec/05 R111), where every order of adding gives the same: the sum never rounds, or what
rounds leaves the rest as it is, or each order of at most six magnitudes has been tried. The spec fixes no order, so otherwise
it is a free value (log entry 19). -/
def pruneLoss (k : Nat) (ms : List (Nat × Int)) : Nat :=
  let l := (ms.map oddMag).sortBy fun x y => decide (magExp y ≤ magExp x)
  match (List.range l.length).find? fun i => addsExactly (l.take (i + 1)) && leavesSum (l.take (i + 1)) (l.drop (i + 1)) with
  | some i => encodeVal 0xC (magVal (magTotal (l.take (i + 1))))
  | none =>
    let sums := if l.length ≤ 6 then ((ordersOf l).map fun x => encodeVal 0xC (addedInOrder x)).eraseDups else []
    match sums with
    | [v] => v
    | _ => if l.isEmpty then 0 else Config.freeNat k % 2 ^ 64

/-- Rows recorded in a summary buffer changed. -/
def recordRows (s : State) (buffer : Nat) (f : Nat → Nat) : State :=
  { s with dome := { s.dome with
    recorded := tabPut (fun _ => 0) s.dome.recorded (addrOff buffer)
      (f (tabGet (fun _ => 0) s.dome.recorded (addrOff buffer))) } }

/-- A compressed store. DESIGN CHOICE: one that STRICT_SPARSE stops counts no saturation and no non-finite result, though the
values it has converted or dropped before may hold one; R111 says only that it stops at the first prune (log entry 19). -/
def runStore (s : State) (o : Op) (b : CopyBody) (c : CmpBlock) : State :=
  match collect (fun r => opRead s o (b.src + r * densePitch c b) (denseRow c)) (List.range c.rows) with
  | .error n => opNeed s o.id n
  | .ok raws =>
    let rows := raws.map (storeOne c)
    let prunes := (rows.map (·.prunes)).sum
    if c.strict && decide (prunes ≠ 0) then
      opStrictFail (opUpdate { s with draws := s.draws + 1 } o.id fun o =>
        { o with c0 := 1, aux := Config.freeNat s.draws % 2 ^ 64 }) o.id .malformed
    else
      applyWrites s o (cmpRows c b.dst rows ++ cmpExtras c rows) fun s =>
        let loss := rows.flatMap (·.loss)
        let s := opTally s o.id ((Tally.sum (rows.map (·.tally))).inMode false)
        let s := opUpdate { s with draws := s.draws + 1 } o.id fun o =>
          { o with c0 := min prunes 0xFFFFFFFF, aux := pruneLoss s.draws loss }
        let s := if c.summary then recordRows s c.summaryA fun _ => 2 ^ ceilDiv c.rows 64 - 1 else s
        opDone s o.id .ok

/-- One row of a restore: its dense bytes; none where ROW_OFF or the record is bad (spec/08 R200). -/
def restoreRow (s : State) (o : Op) (b : CopyBody) (c : CmpBlock) (lo hi : Nat) : Except Need (Option (List Byte)) := do
  let eb := elemBytes c.src.code
  let pitch := mapPitch c.rowLen
  if hi < lo + pitch then return none
  let map ← opRead s o (b.src + lo) pitch
  let present := (List.range c.rowLen).map (mapBit map)
  let n := (present.filter id).length
  if hi < lo + pitch + roundUp (n * eb) 64 then return none
  let els ← opRead s o (b.src + lo + pitch) (n * eb)
  let place := present.foldl
    (fun (acc : List Byte × List Byte) p => if p then (acc.1 ++ acc.2.take eb, acc.2.drop eb)
      else (acc.1 ++ List.replicate eb 0, acc.2)) (([] : List Byte), els)
  return some place.1

/-- A restore: every good row is written; a bad one leaves its row and makes the op MALFORMED. -/
def runRestore (s : State) (o : Op) (b : CopyBody) (c : CmpBlock) : State :=
  let work : Except Need (List (Option (List Byte))) := do
    let offs ← collect (fun i => opNat s o (c.metaA + 8 * i) 8) (List.range (c.rows + 1))
    collect (fun r => restoreRow s o b c ((offs[r]?).getD 0) ((offs[r + 1]?).getD 0)) (List.range c.rows)
  match work with
  | .error n => opNeed s o.id n
  | .ok rows =>
    let ws := (rows.mapIdx fun r x => x.map fun bs => (b.dst + r * densePitch c b, bs)).filterMap id
    applyWrites s o ws fun s => opDone s o.id (if rows.any Option.isNone then .malformed else .ok)

/-- Bytes moved over an overlapping source read as the spec leaves them: free (log entry 20). -/
def overlapBytes (k src dst n : Nat) (bs : List Byte) : List Byte :=
  if src = dst then bs
  else bs.mapIdx fun i b => if dst ≤ src + i ∧ src + i < dst + n then Config.freeByte k (dst + i) else b

/-- WRITE packets of 4 KiB to a remote chip, each awaited (spec/13 R339). -/
def sendWrites (s : State) (id dst : Nat) (bs : List Byte) : State :=
  match destStatus s (addrChip dst) with
  | some st => unroutable s id st
  | none =>
    let s := (pieces bs.length).foldl (fun s p =>
      sendAwaited s id (addrChip dst) 3 (addrOff dst + p.1) (.write ((bs.drop p.1).take p.2))) s
    markSent s id

/-- The bytes of a plain copy's source. -/
def plainSource (s : State) (o : Op) (b : CopyBody) : State ⊕ List Byte :=
  if isLocal s b.src then
    match opRead s o b.src b.bytes with
    | .error n => .inl (opNeed s o.id n)
    | .ok bs => .inr bs
  else match destStatus s (addrChip b.src) with
    | some st => .inl (unroutable s o.id st)
    | none =>
      match fetchRows s o.id 1
          ((pieces b.bytes).map fun p => (addrChip b.src, { off := addrOff b.src + p.1, bytes := p.2 : RowReq })) with
      | .wait s => .inl s
      | .ready rows =>
        match rows.findSome? fun r => replyStatus r.code with
        | some st => .inl (opDone s o.id st)
        | none => .inr (rows.flatMap (·.bytes))

/-- A plain copy (spec/13 R339). -/
def runPlain (s : State) (o : Op) (b : CopyBody) : State :=
  if hasSent o then (if o.reqs.isEmpty then opDone s o.id .ok else s)
  else match plainSource s o b with
    | .inl s => s
    | .inr bs =>
      if isLocal s b.dst then
        let bs := if isLocal s b.src then overlapBytes s.draws (addrOff b.src) (addrOff b.dst) b.bytes bs else bs
        applyWrites { s with draws := s.draws + 1 } o [(b.dst, bs)] fun s => opDone s o.id .ok
      else sendWrites s o.id b.dst bs

/-- COPY's work. -/
def runCopy (s : State) (o : Op) (b : CopyBody) : State :=
  if absent b.cmp then runPlain s o b
  else
    let c := parseCmp (opRec s o b.cmp 64)
    if natBits b.flags 0 0 = 1 then runRestore s o b c else runStore s o b c

/-! ### FILL (spec/13 R340) -/

/-- FILL's acceptance checks. -/
def checkFill (s : State) (o : Op) (b : FillBody) : Option Status :=
  let near := isLocal s b.dst
  refuse
    [ (maskBad s b.mask, .malformed),
      (decide (b.bytes < 4) || decide (b.bytes > 2 ^ 40) || b.bytes % 4 != 0, .malformed),
      (near && meetsView s (addrOff b.dst) b.bytes, .malformed),
      (absent b.dst || b.dst % 4 != 0, .outOfRange), (!near && meetsMirror b.dst b.bytes, .outOfRange),
      (near && !rangeOkOp s o (addrOff b.dst) b.bytes, .outOfRange) ]

/-- Byte o of the destination is byte o mod 8 of PATTERN. -/
def fillBytes (b : FillBody) : List Byte :=
  (List.range b.bytes).map fun i => BitVec.ofNat 8 (b.pattern / 256 ^ (i % 8))

/-- FILL's work. -/
def runFill (s : State) (o : Op) (b : FillBody) : State :=
  if hasSent o then (if o.reqs.isEmpty then opDone s o.id .ok else s)
  else if isLocal s b.dst then applyWrites s o [(b.dst, fillBytes b)] fun s => opDone s o.id .ok
  else sendWrites s o.id b.dst (fillBytes b)

end Sys2Proof.Machine
end

