-- ==== Sys2Proof/Machine/Rows.lean ====
section
/-! DEFINITION. The rows that gather-scatter engines ask for: how positions are dealt to turrets (spec/06 R143), strands (R147),
requests and their charge (R148), the coalescer's windows (R149) and the batches to owners (R150). -/

namespace Sys2Proof.Machine

/-! ### Turrets and strands -/

/-- Active turrets of a belfry (spec/01 R15). -/
def activeTurrets (s : State) (b : Nat) : List Nat :=
  ((List.range 16).filter fun i => !(belfry s b).vacated.contains i).map (16 * b + ·)

/-- The turret that position i of a list falls to: blocks of 64 go round the belfries of TURRET_MASK, lowest first, and round
the active turrets of the one that works for it (spec/06 R143, spec/15 R381; log entry 132). -/
def dealTurret (s : State) (bs : List Nat) (i : Nat) : Nat :=
  let block := i / 64
  let ts := activeTurrets s (standIn s ((bs[block % bs.length]?).getD 0))
  (ts[block / bs.length % ts.length]?).getD 0

/-- Strands of a turret that an op's outstanding rows hold. -/
def opStrands (o : Op) (t : Nat) : Nat :=
  (o.reqs.map fun r => match r.await with
    | .rows _ u _ reqs => if u = t then reqs.length else 0
    | _ => 0).sum

/-- Free strands of turret t: of its 8,192 those that no op holds (spec/06 R147). -/
def freeStrands (s : State) (t : Nat) : Nat :=
  8192 - ((s.ops.filter fun o => !o.isDone).map fun o => opStrands o t).sum

/-! ### Windows of the coalescer (spec/06 R149) -/

/-- A row asked for at a position: its turret, its owner (none: a row of this device) and what is asked. -/
structure RowItem where
  turret : Nat
  chip : Option Nat
  req : RowReq
  deriving DecidableEq, Repr

/-- The open window of a turret: its number, the requests so far and the distinct rows among them. -/
structure RowWindow where
  turret : Nat
  num : Nat := 0
  count : Nat := 0
  rows : List (Option Nat × RowReq) := []

/-- A turret's open window. -/
def openWindow (ws : List RowWindow) (t : Nat) : RowWindow := (ws.find? fun w => w.turret == t).getD { turret := t }

/-- A request joins its window; the window closes on 4,096 distinct rows or on `per` requests. -/
def windowTake (per : Nat) (w : RowWindow) (x : RowItem) : RowWindow :=
  let rows := if w.rows.contains (x.chip, x.req) then w.rows else w.rows ++ [(x.chip, x.req)]
  if rows.length ≥ 4096 ∨ w.count + 1 ≥ per then { turret := w.turret, num := w.num + 1 }
  else { w with count := w.count + 1, rows := rows }

/-- The requests of an op in index order, each with the number of its window on its turret; WINDOW_REQ 0 means 16,384. -/
def windowed (req : Nat) (xs : List RowItem) : List (RowItem × Nat) :=
  (xs.foldl (fun (acc : List (RowItem × Nat) × List RowWindow) x =>
    let w := openWindow acc.2 x.turret
    ((x, w.num) :: acc.1,
      windowTake (if req = 0 then 16384 else req) w x :: acc.2.filter fun y => y.turret != x.turret)) ([], [])).1.reverse

/-! ### Batches (spec/06 R150) -/

/-- A batch of rows that a turret asks an owner for. -/
structure RowBatch where
  (turret window chip : Nat)
  reqs : List RowReq
  deriving DecidableEq, Repr

/-- The batches of an op: each window's distinct remote rows, by owner, ROUND_ROWS to a batch; 0 means 1,024. -/
def batchesOf (rounds : Nat) (xs : List (RowItem × Nat)) : List RowBatch :=
  let keys := (xs.filterMap fun x => x.1.chip.map fun c => (x.1.turret, x.2, c)).eraseDups
  keys.flatMap fun k =>
    let reqs := ((xs.filter fun x => x.1.turret == k.1 && x.2 == k.2.1 && x.1.chip == some k.2.2).map fun x => x.1.req).eraseDups
    (chunksOf (if rounds = 0 then 1024 else rounds) reqs).map fun l =>
      { turret := k.1, window := k.2.1, chip := k.2.2, reqs := l }

/-- Batch i has come. -/
def batchHere (o : Op) (i : Nat) : Bool := o.rowBuf.any fun x => x.1 == i

/-- Batch i is out. -/
def batchOut (o : Op) (i : Nat) : Bool :=
  o.reqs.any fun q => match q.await with
    | .rows b _ _ _ => b == i
    | _ => false

/-- Batches of turret t out to a chip, of every op. -/
def batchesOut (s : State) (t chip : Nat) : Nat :=
  ((s.ops.filter fun o => !o.isDone).map fun o => (o.reqs.filter fun q => match q.await with
    | .rows _ u c _ => u == t && c == chip
    | _ => false).length).sum

/-- Batch i may go: its turret's earlier windows are over, fewer than 4 batches of the turret are out to the owner, and the
turret has strands for its rows. -/
def batchMay (s : State) (o : Op) (bs : List RowBatch) (b : RowBatch) (i : Nat) : Bool :=
  !batchHere o i && !batchOut o i &&
    (bs.zipIdx.all fun x => x.1.turret != b.turret || decide (x.1.window ≥ b.window) || batchHere o x.2) &&
    decide (batchesOut s b.turret b.chip < 4) && decide (freeStrands s b.turret ≥ b.reqs.length)

/-- The batches that may go are sent, in order. -/
def sendBatches (s : State) (id : Nat) (bs : List RowBatch) : State :=
  bs.zipIdx.foldl (fun s x => match opById s id with
    | some o => if batchMay s o bs x.1 x.2 then sendRead s id x.2 x.1.turret x.1.chip x.1.reqs else s
    | none => s) s

/-- The reply to a remote row of a window. -/
def rowReply (o : Op) (bs : List RowBatch) (x : RowItem × Nat) : Option RowReply :=
  (bs.zipIdx.find? fun b => b.1.turret == x.1.turret && b.1.window == x.2 && some b.1.chip == x.1.chip &&
    b.1.reqs.contains x.1.req).bind fun b => (o.rowBuf.find? fun r => r.1 == b.2 && r.2.1 == x.1.req).map (·.2.2)

/-! ### The charge, and the rows -/

/-- The rows that are read: each window's distinct ones. -/
def rowReads (xs : List (RowItem × Nat)) : List (RowItem × Nat) := xs.eraseDups

/-- Gather requests, one for each 64 B grain of a row, and what rows of this device take at the memories (spec/06 R148; log
entry 134). -/
def rowBursts (s : State) (xs : List (RowItem × Nat)) : List Burst :=
  (rowReads xs).flatMap fun x =>
    { act := 2, unit := x.1.turret, size := ceilDiv x.1.req.bytes 64, count := 1 } ::
      (if x.1.chip.isNone then rangeBursts s x.1.req.off x.1.req.bytes else [])

/-- Rows of this device can be read now: their channels serve, and each turret that reads one has a free strand. -/
def nearReady (s : State) (xs : List (RowItem × Nat)) : State × Bool :=
  let near := (rowReads xs).filter fun x => x.1.chip.isNone
  let (s, w) := near.foldl (fun (acc : State × Bool) x =>
    let (s, w) := requestRange acc.1 x.1.req.off x.1.req.bytes
    (s, acc.2 || w)) (s, false)
  (s, !w && near.all fun x => decide (freeStrands s x.1.turret > 0))

/-- An op's rows: charged, asked for, and given to `k` once all are here, as a function from a request in its window to the
owner's reply. -/
def withRows (s : State) (o : Op) (rounds windowReq : Nat) (items : List RowItem)
    (k : State → List (RowItem × Nat) → (RowItem × Nat → Option RowReply) → State) : State :=
  let xs := windowed windowReq items
  let bs := batchesOf rounds xs
  askTokens s o 1 (rowBursts s xs) fun s =>
    let (s, ready) := nearReady s xs
    if !ready then s
    else
      let s := sendBatches s o.id bs
      match opById s o.id with
      | some o => if bs.zipIdx.all fun x => batchHere o x.2 then k s xs (rowReply o bs) else s
      | none => s

end Sys2Proof.Machine
end

