-- ==== Sys2Proof/Machine/Emit.lean ====
section
/-! DEFINITION. Scaled narrow outputs: the scale history (spec/03 R79), the predicted scale (R68) and the one re-emission
at a raised scale (R69, R70), shared by the matrix and vector engines. -/

namespace Sys2Proof.Machine

/-- Device offset of scale-history record `slot` (spec/03 Table 3.9, HIST_SLOT). -/
def histAddr (s : State) (slot : Nat) : Nat := lanBase + partBase s 3 * 2 ^ 20 + 32 * slot

/-- The record lies beyond the scale-history partition. -/
def histBad (s : State) (slot : Nat) : Bool := decide (32 * slot + 32 > partSize s 3 * 2 ^ 20)

/-- The largest exponent of a record's bytes; none when its count is 0 (spec/03 R79). -/
def recordMax (d : List Byte) : Option Int :=
  let es := (List.range (min 16 (fieldAt d 16 1))).map fun i => asSigned 8 (fieldAt d i 1)
  match es with
  | [] => none
  | e :: t => some (t.foldl max e)

/-- The largest exponent of a record as committed. -/
def histMax (s : State) (slot : Nat) : Option Int := recordMax (committedBytes s (histAddr s slot) 18)

/-- Cautious mode (spec/09 R241). -/
def cautiousNow (s : State) : Bool := decide (regBits s 0x1000188 4 0 ≠ 0)

/-- The exponent that an op's scaled output predicts from, its own group's entries seen: none selects the two-pass form
(spec/03 R68, R79, spec/08 R208, spec/09 R241). -/
def histFor (s : State) (o : Op) (slot : Nat) : Option Int :=
  if cautiousNow s then none else recordMax (opRec s o (histAddr s slot) 18)

/-- An exponent entered in the record with bytes `d` at `a`: over the next entry, the count up to 16 (spec/03 R79). An
exponent below −128 is entered as −128 (log entry 21). -/
def recordEnter (a : Nat) (d : List Byte) (e : Int) : List (Nat × List Byte) :=
  let next := fieldAt d 17 1 % 16
  [(a + next, leBytes 1 (wrapTo 8 (max (-128) (min 127 e)))),
   (a + 16, leBytes 1 (min 16 (fieldAt d 16 1 + 1)) ++ leBytes 1 ((next + 1) % 16))]

/-- An op's exponent entered in a record: a write of the op, staged where it names a group (spec/08 R208). -/
def histEnter (s : State) (o : Op) (slot : Nat) (e : Int) : Wrote :=
  let a := histAddr s slot
  opWrites s o (recordEnter a (opRec s o a 18) e)

/-- clamp(x, 0, 254). -/
def clampScale (x : Int) : Nat := (max 0 (min 254 x)).toNat

/-- A value times 2^k. -/
def Val.scale (v : Val) (k : Int) : Val :=
  match v with
  | .fin n m e => .fin n m (e + k)
  | v => v

/-- floor_log2 of the largest finite non-zero magnitude. -/
def amaxLog (vs : List Val) : Option Int :=
  vs.foldl (fun (acc : Option Int) v => match v with
    | .fin _ m e => if m = 0 then acc else match acc with
      | some x => some (max x (floorLog2 m e))
      | none => some (floorLog2 m e)
    | _ => acc) none

/-- The scale that no finite entry overflows (spec/03 R68, R69). -/
def raisedScale (code : Nat) (amax : Option Int) : Nat := clampScale (amax.getD (-128) + 128 - mxEmax code)

/-- One emission pass at scale s: each element's code, and its outcome as it reads back. -/
def emitAt (md : NumMode) (code s : Nat) (els : List (Val × Nat)) : List (Nat × Rounded) :=
  els.map fun (v, r) =>
    let (c, x) := convertCode .store md code false r (v.scale (127 - (s : Int)))
    (c, { x with val := x.val.scale ((s : Int) - 127) })

/-- A pass overflows when the store of a finite entry does (spec/03 R69). -/
def passOverflows (els : List (Val × Nat)) (outs : List (Nat × Rounded)) : Bool :=
  (els.zip outs).any fun p => p.1.1.isFin && p.2.2.tally.overflow

/-- What became of a region: its scale, its elements, the tally and saturations of a discarded pass, whether there was
one, and the exponent of its largest finite entry. -/
structure Emitted where
  scale : Nat
  outs : List (Nat × Rounded)
  discard : Tally := {}
  again : Bool := false
  amax : Option Int := none

/-- A region emitted: at the predicted scale and once more when that overflows; measured first when the history is empty
(spec/03 R68, R69). -/
def emitScaled (md : NumMode) (code : Nat) (hist : Option Int) (margin : Nat) (els : List (Val × Nat)) : Emitted :=
  let amax := amaxLog (els.map (·.1))
  let raised := raisedScale code amax
  match hist with
  | none => { scale := raised, outs := emitAt md code raised els, amax := amax }
  | some h =>
    let pred := clampScale (h - mxEmax code + 127 + margin)
    let outs := emitAt md code pred els
    if passOverflows els outs then
      let lost := tallyOf (outs.map (·.2))
      { scale := raised, outs := emitAt md code raised els, discard := { lost with nonfin := 0 }, again := true, amax := amax }
    else { scale := pred, outs := outs, amax := amax }

end Sys2Proof.Machine
end

