-- ==== Sys2Proof/Machine/Chain.lean ====
section
/-! DEFINITION. The exact reduction (spec/09): tile-group records (R227, R228, R252), contributions and their quantisation
(R229, R232, R234), the chain with its misses and restarts (R230, R237 to R241), sums at the owner (R242, R243), and what a
step's end does to groups (R236, R249). -/

namespace Sys2Proof.Machine

/-! ### The record -/

/-- Tile-group record (spec/09 Table 9.1). -/
structure GroupRec where
  (group fmt rctl ndev elems contrib hist ring own sum cap : Nat)
  deriving DecidableEq, Repr

/-- spec/09 Table 9.1. -/
def parseGroup (d : List Byte) : GroupRec :=
  { group := fieldAt d 0 4, fmt := fieldAt d 4 1, rctl := fieldAt d 5 1, ndev := fieldAt d 6 2, elems := fieldAt d 8 4,
    contrib := fieldAt d 12 2, hist := fieldAt d 14 2, ring := fieldAt d 16 8, own := fieldAt d 24 8,
    sum := fieldAt d 32 8, cap := fieldAt d 40 8 }

/-- The record at a device offset. -/
def groupRec (s : State) (off : Nat) : GroupRec := parseGroup (committedBytes s off 64)

/-- POLICY LOCAL. -/
def GroupRec.localPolicy (g : GroupRec) : Bool := natBits g.rctl 0 0 = 1
/-- Q_SR. -/
def GroupRec.stochastic (g : GroupRec) : Bool := natBits g.rctl 1 1 = 1
/-- OUT_MODE 1: sums go back to the contributing op. -/
def GroupRec.outMode (g : GroupRec) : Bool := natBits g.rctl 2 2 = 1
/-- Contribution width W (spec/09 Table 9.2). -/
def GroupRec.width (g : GroupRec) : Nat := if g.fmt = 0xE then 24 else 16
/-- Bytes of a sum on the wire. -/
def GroupRec.wire (g : GroupRec) : Nat := if g.fmt = 0xE then 5 else 4
/-- The sum width's non-finite code (spec/09 Table 9.2). -/
def GroupRec.nonfinite (g : GroupRec) : Int := -((2 ^ (8 * g.wire - 1) : Nat) : Int)
/-- Tiles of the group. -/
def GroupRec.tiles (g : GroupRec) : Nat := ceilDiv g.elems 1024
/-- Bytes of a sum-store tile (spec/09 R243). -/
def GroupRec.stride (g : GroupRec) : Nat := if g.fmt = 0xE then 8256 else 4160

/-- The host window that the oldest op at work sees (spec/11 R291). -/
def heldWindow (s : State) : Option Nat :=
  match s.ops.find? fun o => o.accepted && !o.completed with
  | some o => o.hwin
  | none => hostWindow s

/-- A number of a group's list: in the host window, as the reads at its ops' acceptance have shown host memory (spec/11 R291;
log entry 18). -/
def listNat (s : State) (a n : Nat) : Nat :=
  if regionOf a = .hostWindow then
    match heldWindow s with
    | some b => leNat (s.host.getBytes (b + (a - hwinBase)) n)
    | none => 0
  else memNat s a n

/-- The chip at ring position r. -/
def ringChip (s : State) (g : GroupRec) (r : Nat) : Nat := listNat s (addrOff g.ring + 2 * r) 2
/-- Owner map entry r. -/
def ownAt (s : State) (g : GroupRec) (r : Nat) : Nat := listNat s (addrOff g.own + 4 * r) 4
/-- This device's ring position. -/
def ringPos (s : State) (g : GroupRec) : Nat := (firstNat g.ndev fun r => ringChip s g r == ownChip s).getD 0
/-- The position that owns a tile (spec/09 R228). -/
def ownerPos (s : State) (g : GroupRec) (t : Nat) : Nat :=
  (firstNat g.ndev fun r => decide (ownAt s g r ≤ t) && decide (t < ownAt s g (r + 1))).getD 0
/-- First and one past the last tile this device owns. -/
def ownedTiles (s : State) (g : GroupRec) : Nat × Nat := (ownAt s g (ringPos s g), ownAt s g (ringPos s g + 1))

/-- The chip at place i of a tile's chain; place NDEV − 1 is the owner (spec/09 R230). -/
def chainChip (s : State) (g : GroupRec) (t i : Nat) : Nat :=
  let o := ownerPos s g t
  ringChip s g ((if t % 2 = 0 then o + i + 1 else o + 2 * g.ndev - i - 1) % g.ndev)
/-- The tile's owner. -/
def ownerChip (s : State) (g : GroupRec) (t : Nat) : Nat := ringChip s g (ownerPos s g t)
/-- This device's place in a tile's chain. -/
def chainPlace (s : State) (g : GroupRec) (t : Nat) : Nat := (firstNat g.ndev fun i => chainChip s g t i == ownChip s).getD 0

/-- The record itself is right (spec/09 R252, Table 9.1, R231, R233). -/
def groupOk (g : GroupRec) : Bool :=
  (g.fmt == 0xE || g.fmt == 0xF) && natBits g.rctl 7 6 == 0 && decide (1 ≤ g.ndev) && decide (g.ndev ≤ 16384) &&
    decide (1 ≤ g.contrib) && decide (1 ≤ g.elems) && decide (g.ndev * g.contrib ≤ 65536)

/-- Its lists are right: the owner map is non-decreasing from 0 to T, and the ring names this device and no chip twice
(spec/09 R228, R252). -/
def groupListsOk (s : State) (g : GroupRec) : Bool :=
  let ring := (List.range g.ndev).map (ringChip s g)
  let own := (List.range (g.ndev + 1)).map (ownAt s g)
  own.head? == some 0 && own.getLast? == some g.tiles && adjacent (fun a b => decide (a ≤ b)) own &&
    ring.contains (ownChip s) && decide (ring.eraseDups.length = ring.length)

/-- What is wrong with a tile-group handle under these partition sizes and this host window, if anything (spec/09 R227,
R252). -/
def groupStatusBy (s : State) (size : Nat → Nat) (window : Option Nat) (handle : Nat) : Option Status :=
  let off := addrOff handle
  let fits := fun (a n align : Nat) =>
    !absent a && isLocal s a && a % align == 0 && rangeOkBy s size window (addrOff a) n
  let general := decide (partBase s 5 * 2 ^ 20 ≤ off - lanBase) &&
    decide (off - lanBase + 64 ≤ (partBase s 5 + size 5) * 2 ^ 20)
  if !fits handle 64 64 || regionOf off != .lantern || !general then some .outOfRange
  else
    let g := groupRec s off
    if !groupOk g then some .malformed
    else if !fits g.ring (2 * g.ndev) 1 || !fits g.own (4 * (g.ndev + 1)) 1 then some .outOfRange
    else if !groupListsOk s g then some .malformed
    else
      let (a, b) := ownedTiles s g
      let n := (b - a) * g.stride
      refuse
        [ (!g.outMode && isLocal s g.sum && meetsView s (addrOff g.sum) n, .malformed),
          (decide (32 * g.hist + 32 > size 3 * 2 ^ 20), .outOfRange),
          (!g.outMode && (decide (g.cap < n) || !fits g.sum n 1 || !fits g.sum (min 1 g.cap) 1), .outOfRange),
          (g.outMode && !absent g.sum && !fits g.sum (min 1 g.cap) 1, .outOfRange) ]

/-- What is wrong with a tile-group handle at an op's acceptance, if anything (spec/09 R227, R252). -/
def groupStatus (s : State) (handle : Nat) : Option Status := groupStatusBy s (partSize s) (hostWindow s) handle

/-- The partition sizes that the oldest op at work sees (spec/11 R282). -/
def heldSize (s : State) (k : Nat) : Nat :=
  partSizeFor s (((s.ops.filter fun o => o.accepted && !o.completed).map (·.id)).foldl min s.opNext) k

/-! ### Group steps -/

/-- The state of a group step, if held. -/
def groupStep (s : State) (off step : Nat) : Option GroupStep :=
  s.dome.groups.find? fun g => g.handle == off && g.step == step

/-- A group step changed. -/
def groupUpdate (s : State) (off step : Nat) (f : GroupStep → GroupStep) : State :=
  { s with dome := { s.dome with groups := s.dome.groups.map fun g => if g.handle == off && g.step == step then f g else g } }

/-- The group step is over here: its FINAL completed, or it was discarded. -/
def GroupStep.over (g : GroupStep) : Bool := g.finalDone || g.gone

/-- Steps of a group whose state is held (spec/09 R236). -/
def heldSteps (s : State) (off : Nat) : List Nat :=
  (s.dome.groups.filter fun g => g.handle == off && !g.over).map (·.step)

/-- A group step is held, or can be: a group holds the state of at most two steps at once (spec/09 R236). -/
def groupRoom (s : State) (off step : Nat) : Bool :=
  (groupStep s off step).isSome || decide ((heldSteps s off).length < 2)

/-- A group step opened, if there is none and room for it. -/
def groupOpen (s : State) (off step : Nat) : State :=
  if (groupStep s off step).isSome || !groupRoom s off step then s
  else
    let g : GroupStep := { handle := off, group := (groupRec s off).group, step := step, badPacket := s.dome.badNext.contains off }
    { s with dome := { s.dome with groups := s.dome.groups ++ [g], badNext := s.dome.badNext.filter (· != off) } }

/-- Steps of a group that packets alone have opened and that no device at `step` can be in: their STEP disagrees with this one
(spec/09 R236, Table 9.9; log entry 150). -/
def strays (s : State) (off step : Nat) : List Nat :=
  (s.dome.groups.filter fun g => g.handle == off && !g.over && g.contribs.isEmpty && g.zeros.isEmpty && g.final.isNone &&
    (decide (g.step + 1 < step) || decide (step + 1 < g.step))).map (·.step)

/-- The group without its strays. -/
def groupClean (s : State) (off step : Nat) : State :=
  let xs := strays s off step
  { s with dome := { s.dome with groups := s.dome.groups.filter fun g => !(g.handle == off && xs.contains g.step) } }

/-- A group step opened by an op of this device: packets of strays make its FINAL MALFORMED. -/
def groupOpenHere (s : State) (off step : Nat) : State :=
  let t := groupOpen (groupClean s off step) off step
  if (strays s off step).isEmpty then t
  else { t with dome := { t.dome with groups := t.dome.groups.map fun g =>
    if g.handle == off && g.step == step then { g with badPacket := true } else g } }

/-- No earlier step of the group is still held (spec/09 R236). -/
def groupActive (s : State) (off step : Nat) : Bool :=
  !(s.dome.groups.any fun g => g.handle == off && decide (g.step < step) && !g.over)

/-- A tile of a group step. -/
def GroupStep.tileAt (g : GroupStep) (t : Nat) : TileRed := (g.tiles.find? fun x => x.tile == t).getD { tile := t }

/-- A tile of a group step. -/
def tileRed (s : State) (off step t : Nat) : TileRed :=
  match groupStep s off step with
  | some g => g.tileAt t
  | none => { tile := t }

/-- A tile replaced. -/
def tilePut (s : State) (off step : Nat) (x : TileRed) : State :=
  groupUpdate s off step fun g =>
    { g with tiles := if g.tiles.any fun y => y.tile == x.tile then g.tiles.map fun y => if y.tile == x.tile then x else y
                      else g.tiles ++ [x] }

/-- A tile changed. -/
def tileUpdate (s : State) (off step t : Nat) (f : TileRed → TileRed) : State := tilePut s off step (f (tileRed s off step t))

/-- A tile's exponent is predicted, or it takes the pre-pass form, once its step is the group's oldest
(spec/09 R235, R236, R241). -/
def tileInit (s : State) (off step t : Nat) : State :=
  let x := tileRed s off step t
  if x.ready || !groupActive s off step then s
  else
    let g := groupRec s off
    match histMax s g.hist, cautiousNow s with
    | some h, false =>
      let e := h + natBits g.rctl 5 3 + 2 - g.width
      tilePut s off step { x with ready := true, e := some e, lastE := some e }
    | _, _ => tilePut s off step { x with ready := true, prepass := true, cautious := true }

/-! ### Contributions (spec/09 R229, R232, R234) -/

/-- Contributions an element has received. -/
def GroupStep.received (g : GroupStep) (e : Nat) : Nat :=
  (g.contribs.filter fun c => c.elem == e).length +
    (g.zeros.filter fun z => decide (z.2.1 ≤ e) && decide (e < z.2.1 + z.2.2)).length

/-- Pages of the retention area in use (spec/09 R234). -/
def retainPages (s : State) : List Nat := s.dome.groups.flatMap fun g => g.copies.map (·.page)

/-- Bytes of retention area in use: 4 KiB a retained contribution, 8 KiB a local partial (spec/09 R234). -/
def retainUsed (s : State) : Nat := 4096 * (retainPages s).length

/-- Device offset of a page of the retention area. -/
def retainAt (s : State) (page : Nat) : Nat := lanBase + (regBits s 0x1000180 30 12 + page) * 4096

/-- The pages that an op's contribution to these tiles adds: one for it, two for the local partial of a tile that has none;
the lowest free ones (log entry 126). -/
def retainNew (s : State) (g : GroupStep) (op : Nat) (tiles : List Nat) : Option (List Retained) :=
  let want := tiles.flatMap fun t =>
    (if g.copies.any fun c => c.tile == t && c.op == some op then [] else [(t, some op)]) ++
    (if g.copies.any fun c => c.tile == t && c.op == none then [] else [(t, none), (t, none)])
  let used := retainPages s
  let free := (List.range (used.length + want.length)).filter fun p =>
    decide (p < regBits s 0x1000184 19 0) && !used.contains p
  if free.length < want.length then none
  else some ((want.zip free).map fun x => { tile := x.1.1, op := x.1.2, page := x.2 })

/-- What became of contributions. -/
inductive Given where
  /-- The previous step of the group is not over, or no retention room is left. -/
  | wait
  /-- The step of the group is over here. -/
  | over
  | done (s : State)

/-- One contribution joins its group step, its FP32 value kept in the op's page of its tile; beyond LOCAL_CONTRIB, or once
the tile is acknowledged, it is dropped and counted (spec/09 R234, Table 9.9). -/
def giveOne (off step limit : Nat) (o : Op) (s : State) (item : Nat × Nat) : State :=
  match groupStep s off step with
  | none => s
  | some g =>
    let (e, code) := item
    match g.copies.find? fun c => c.tile == e / 1024 && c.op == some o.id with
    | some p =>
      if (g.tileAt (e / 1024)).acked || decide (g.received e ≥ limit) then
        groupUpdate s off step fun g => { g with excess := g.excess + 1 }
      else
        let a := retainAt s p.page + 4 * (e % 1024)
        groupUpdate (devWrite s a (leBytes 4 code)) off step fun g =>
          { g with contribs := g.contribs ++ [{ elem := e, at_ := a, op := o.id, seed := o.seed }] }
    | none => groupUpdate s off step fun g => { g with excess := g.excess + 1 }

/-- Contributions of an op joining a group step: element and FP32 code. -/
def contribJoin (s : State) (o : Op) (off step : Nat) (items : List (Nat × Nat)) : Given :=
  let clean := groupClean s off step
  if !groupActive clean off step || !groupRoom clean off step then .wait
  else
    let s := groupOpenHere s off step
    match groupStep s off step with
    | none => .over
    | some g =>
      let tiles := (items.map fun x => x.1 / 1024).eraseDups
      if g.over then .over
      else match retainNew s g o.id (tiles.filter fun t => !(g.tileAt t).acked) with
        | none => .wait
        | some ps =>
          let s := groupUpdate s off step fun g => { g with copies := g.copies ++ ps }
          let s := items.foldl (giveOne off step (groupRec s off).contrib o) s
          .done (tiles.foldl (fun s t => tileInit s off step t) s)

/-- Runs of elements of a range that pass a test. -/
def runsOf (ok : Nat → Bool) (first n : Nat) : List (Nat × Nat) :=
  ((List.range n).foldl (fun (acc : List (Nat × Nat)) i =>
    if !ok (first + i) then acc
    else match acc with
      | (a, k) :: t => if a + k = first + i then (a, k + 1) :: t else (first + i, 1) :: acc
      | [] => [(first + i, 1)]) []).reverse

/-- Contributions of zero join their group step: no retained copy and no part in f, but they count, and are dropped and
counted, like any other (spec/08 R196, spec/09 Table 9.9). -/
def zerosJoin (s : State) (z : ZerosDue) : State :=
  let s := groupOpenHere s z.handle z.step
  match groupStep s z.handle z.step with
  | none => s
  | some g =>
    if g.over then s
    else
      let limit := (groupRec s z.handle).contrib
      let ok := fun (e : Nat) => !(g.tileAt (e / 1024)).acked && decide (g.received e < limit)
      let runs := runsOf ok z.first z.count
      let s := groupUpdate s z.handle z.step fun g =>
        { g with zeros := g.zeros ++ runs.map fun r => (z.op, r.1, r.2),
                 excess := g.excess + (z.count - (runs.map (·.2)).sum) }
      (List.range (ceilDiv (z.first + z.count) 1024 - z.first / 1024)).foldl
        (fun s i => tileInit s z.handle z.step (z.first / 1024 + i)) s

/-- Contributions of zero may join now (spec/09 R236). -/
def zerosReady (s : State) (z : ZerosDue) : Bool :=
  let s := groupClean s z.handle z.step
  groupActive s z.handle z.step && groupRoom s z.handle z.step

/-- The contributions of zero of a frozen layer, given at acceptance; while an earlier step of the group is held they
wait for it (spec/08 R196, spec/09 R236). -/
def contributeZeros (s : State) (o : Op) (off step first n : Nat) : State :=
  let z : ZerosDue := { op := o.id, handle := off, step := step, first := first, count := n }
  if zerosReady s z then zerosJoin s z
  else { s with dome := { s.dome with zerosDue := s.dome.zerosDue ++ [z] } }

/-- Waiting contributions of zero that may join now do. -/
def zerosRelease (s : State) : State :=
  s.dome.zerosDue.foldl (fun s z =>
    if zerosReady s z then zerosJoin { s with dome := { s.dome with zerosDue := s.dome.zerosDue.erase z } } z else s) s

/-- Every element of a tile has its contributions; lanes beyond ELEMS count as received (spec/09 R229). -/
def locallyComplete (r : GroupRec) (g : GroupStep) (t : Nat) : Bool :=
  (List.range (min 1024 (r.elems - 1024 * t))).all fun l => decide (g.received (1024 * t + l) ≥ r.contrib)

/-- The retained FP32 value of a contribution (spec/09 R234). -/
def contribVal (s : State) (c : Contrib) : Val := decodeVal 0x0 false (memNat s c.at_ 4)

/-- f of a local contribution: the largest exponent of its finite non-zero elements; the wire's byte ends at −128
(spec/09 R232; log entry 21). -/
def fLocal (s : State) (g : GroupStep) (t : Nat) : Int :=
  max (-128) ((amaxLog ((g.contribs.filter fun c => c.elem / 1024 == t).map (contribVal s))).getD (-128))

/-- spec/09 R232, need_exp. -/
def needExp (w : Nat) (f : Int) : Int := f + 3 - w

/-- An op accepted earlier has still to give this element in this step. -/
def stillGives (g : GroupStep) (e before : Nat) (o : Op) : Bool :=
  decide (o.id < before) && o.accepted && !o.isDone && (match o.gives with
    | some (h, st, first, n) => h == g.handle && st == g.step && decide (first ≤ e) && decide (e < first + n)
    | none => false) && !(g.contribs.any fun d => d.elem == e && d.op == o.id)

/-- The index k of a contribution among all that this device makes to its element in the step, in the order their ops were
accepted: those given, and those of earlier ops still to come (spec/09 R232). -/
def contribIndex (s : State) (g : GroupStep) (c : Contrib) : Nat :=
  (g.contribs.filter fun d => d.elem == c.elem && decide (d.op < c.op)).length +
    (g.zeros.filter fun z => decide (z.2.1 ≤ c.elem) && decide (c.elem < z.2.1 + z.2.2) && decide (z.1 < c.op)).length +
    (s.ops.filter (stillGives g c.elem c.op)).length

/-- spec/09 R232, quantise: the integer, the non-finite code, or none for a scale miss. -/
def quantise (s : State) (r : GroupRec) (g : GroupStep) (e : Int) (c : Contrib) : Option Int :=
  match contribVal s c with
  | .fin n m x =>
    let word := if r.stochastic then
        srWord (BitVec.ofNat 64 c.seed) r.group c.elem (ownChip s * 65536 + contribIndex s g c) else 0
    let (q, _) := roundInt (if r.stochastic then 4 else 0) word n m (x - e) false
    if q.natAbs > 2 ^ (r.width - 1) - 1 then none else some q
  | _ => some r.nonfinite

/-- spec/09 R233: two's complement at the sum width; the non-finite code holds. -/
def sumAdd (r : GroupRec) (a b : Int) : Int := if a = r.nonfinite ∨ b = r.nonfinite then r.nonfinite else a + b

/-- The local partial of a tile under E: its 1,024 lanes; none when some element misses (spec/09 R237, R238). -/
def localPart (s : State) (r : GroupRec) (g : GroupStep) (t : Nat) (e : Int) : Option (List Int) :=
  (List.range 1024).mapM fun l =>
    ((g.contribs.filter fun c => c.elem == 1024 * t + l).mapM (quantise s r g e)).map fun qs =>
      qs.foldl (sumAdd r) 0

/-! ### Messages -/

/-- A collective packet leaves for a chip, or comes back to this device. -/
def sendColl (s : State) (off : Nat) (r : GroupRec) (chip kind : Nat) (h : CollHdr) (sums : List Int) :
    State × List CollMsg :=
  if chip = ownChip s then (s, [{ src := chip, kind := kind, hdr := h, sums := sums }])
  else (sendPkt s chip 6 off 0 (.coll kind h r.wire sums), [])

/-- A header of this tile and pass. -/
def collHdr (r : GroupRec) (step t pass : Nat) (e f : Int) : CollHdr :=
  { group := r.group, tile := t, pass := pass, half := 0, pflags := 0, e := e, f := f, step := step }

/-- One packet to every ring position, this device included (spec/09 R238, R243). -/
def sendAll (s : State) (off : Nat) (r : GroupRec) (kind : Nat) (h : CollHdr) : State × List CollMsg :=
  (List.range r.ndev).foldl (fun (acc : State × List CollMsg) i =>
    let (s, ms) := sendColl acc.1 off r (ringChip s r i) kind h []
    (s, acc.2 ++ ms)) (s, [])

/-- The two halves of a DATA packet (spec/09 Table 9.3). -/
def sendData (s : State) (off : Nat) (r : GroupRec) (chip : Nat) (h : CollHdr) (sums : List Int) : State × List CollMsg :=
  let half := fun (i : Nat) => (sums.drop (512 * i)).take 512
  let hd := fun (i : Nat) => { h with half := i, pflags := b2n ((half i).contains r.nonfinite) }
  let (s, a) := sendColl s off r chip 1 (hd 0) (half 0)
  let (s, b) := sendColl s off r chip 1 (hd 1) (half 1)
  (s, a ++ b)

/-- The bytes of a sum-store tile (spec/09 Table 9.4). -/
def sumTile (r : GroupRec) (step : Nat) (x : TileRed) (e f : Int) (sums : List Int) : List Byte :=
  let w := if r.fmt = 0xE then 8 else 4
  leBytes 2 (wrapTo 16 e) ++ leBytes 1 (wrapTo 8 f) ++
    leBytes 1 (b2n (sums.contains r.nonfinite) + 2 * b2n x.prepass + 4 * b2n x.cautious) ++ leBytes 1 x.pass ++
    leBytes 1 x.misses ++ leBytes 2 0 ++ leBytes 8 step ++ leBytes 4 x.tile ++ List.replicate 44 0 ++
    sums.flatMap fun v => leBytes w (wrapTo (8 * w) v)

/-- Bytes of a tile's sum written to the sum store: in the host window to host memory, else as the write of no group that they
are; what they were is kept for the FINAL (spec/11 R287, R291). -/
def sumWrite (s : State) (off step a : Nat) (bs : List Byte) : State :=
  if regionOf a = .hostWindow then
    match heldWindow s with
    | some b => { s with host := s.host.putBytes (b + (a - hwinBase)) bs }
    | none => s
  else
    match ((groupStep s off step).bind (·.final)).bind (opById s) with
    | some o => plainWrite (keepBefore s o a bs.length) a bs
    | none => plainWrite s a bs

/-- A tile's sum becomes final at its owner (spec/09 R242, R243). -/
def tileFinal (s : State) (off : Nat) (r : GroupRec) (step t : Nat) (e f : Int) (sums : List Int) : State × List CollMsg :=
  let x := tileRed s off step t
  let s := tilePut s off step { x with final := true, sent := true, sums := sums, chainF := f }
  let s := if r.outMode then s
    else sumWrite s off step (addrOff r.sum + (t - (ownedTiles s r).1) * r.stride) (sumTile r step x e f sums)
  let s := if sums.contains r.nonfinite && !r.localPolicy then setHealth s 1 else s
  sendAll s off r 7 (collHdr r step t x.pass e f)

/-- The local partial of a tile kept in its two pages, 8 bytes a lane (spec/09 R234; log entry 126). -/
def keepPartial (s : State) (g : GroupStep) (t : Nat) (q : List Int) : State :=
  match (g.copies.filter fun c => c.tile == t && c.op == none).map (·.page) with
  | [a, b] =>
    let half := fun (l : List Int) => l.flatMap fun v => leBytes 8 (wrapTo 64 v)
    devWrite (devWrite s (retainAt s a) (half (q.take 512))) (retainAt s b) (half (q.drop 512))
  | _ => s

/-- The predecessor's partial and its F: nothing for the first of the chain (spec/09 R237). -/
def predPart (x : TileRed) (place : Nat) : Option (Option (List Int) × Int) :=
  if place = 0 then some (none, -128)
  else match x.half0, x.half1 with
    | some (a, f), some (b, g) => some (some (a ++ b), max f g)
    | _, _ => none

/-- This device's turn in the chain: DATA, a marker after a miss, nothing after a marker; at the owner the sum
(spec/09 R237, R238). -/
def chainTurn (s : State) (off : Nat) (r : GroupRec) (g : GroupStep) (x : TileRed) (e f : Int) (part : Option (List Int)) :
    State × List CollMsg :=
  let place := chainPlace s r x.tile
  let last := place + 1 == r.ndev
  let s := match part with
    | some q => keepPartial s g x.tile q
    | none => s
  let done := tilePut s off g.step { x with sent := true }
  if x.marker then (done, [])
  else match predPart x place, part with
    | none, _ => (s, [])
    | some _, none =>
      if last then (done, [])
      else sendColl done off r (chainChip s r x.tile (place + 1)) 3 (collHdr r g.step x.tile x.pass e (-128)) []
    | some (pred, pf), some q =>
      let sums := match pred with
        | some p => List.zipWith (sumAdd r) p q
        | none => q
      if last then tileFinal s off r g.step x.tile e (max pf f) sums
      else sendData done off r (chainChip s r x.tile (place + 1)) (collHdr r g.step x.tile x.pass e (max pf f)) sums

/-- Some contribution of the tile misses under E (spec/09 R232, R238). -/
def tileMisses (s : State) (r : GroupRec) (g : GroupStep) (t : Nat) (e : Int) : Bool :=
  (g.contribs.filter fun c => c.elem / 1024 == t).any fun c => (quantise s r g e c).isNone

/-- MISS to the owner at once, with the largest f received so far; once a pass (spec/09 R238). -/
def missNow (s : State) (off step t : Nat) : State × List CollMsg :=
  match groupStep s off step with
  | none => (s, [])
  | some g =>
    let r := groupRec s off
    let x := g.tileAt t
    match x.e with
    | none => (s, [])
    | some e =>
      if g.over || !x.ready || x.final || x.acked || x.lost || x.missSent || !tileMisses s r g t e then (s, [])
      else
        let f := fLocal s g t
        sendColl (tilePut s off step { x with missSent := true }) off r (ownerChip s r t) 2
          (collHdr r step t x.pass (needExp r.width f) f) []

/-- All that a tile can do now: a miss is told at once; once it is locally complete, EXP in the pre-pass form or its chain
turn (spec/09 R237, R238, R240). -/
def tileAdvance (s : State) (off step t : Nat) : State × List CollMsg :=
  let (s, ms) := missNow s off step t
  match groupStep s off step with
  | none => (s, ms)
  | some g =>
    let r := groupRec s off
    let x := g.tileAt t
    if g.over || !x.ready || x.final || x.acked || x.lost || !locallyComplete r g t then (s, ms)
    else
      let f := fLocal s g t
      match x.e with
      | none =>
        if x.expSent then (s, ms)
        else sendColl (tilePut s off step { x with expSent := true }) off r (ownerChip s r t) 6 (collHdr r step t x.pass 0 f) []
      | some e =>
        if x.sent then (s, ms)
        else
          let (s, ns) := chainTurn s off r g x e f (localPart s r g t e)
          (s, ms ++ ns)

/-! ### What arrives (spec/09 R237 to R243) -/

/-- A pass begins: what the last one formed goes, held packets come back to be looked at again. -/
def passBegin (s : State) (off step t pass : Nat) (e : Option Int) (pre : Bool) : State × List CollMsg :=
  let x := tileRed s off step t
  let y : TileRed :=
    { x with ready := true, pass := pass, e := e, lastE := if e.isSome then e else x.lastE, prepass := x.prepass || pre,
             exps := [], held := [], missSent := false, expSent := false, marker := false, half0 := none, half1 := none,
             sent := false }
  (tilePut s off step y, x.held)

/-- A packet kept for later. -/
def collHold (s : State) (off step : Nat) (m : CollMsg) : State :=
  tileUpdate s off step m.hdr.tile fun x => { x with held := x.held ++ [m] }

/-- A packet that disagrees with the receiver (spec/09 Table 9.9). -/
def collBad (s : State) (off step : Nat) : State := groupUpdate s off step fun g => { g with badPacket := true }

/-- The first MISS of a pass at the owner: RESTART at the largest need it holds, in the tile or among the packets `queue`
that came back with this one; a tile's second: PREPASS (spec/09 R238, R239). The first miss of a group step raises the
event. -/
def missAtOwner (s : State) (off : Nat) (r : GroupRec) (g : GroupStep) (x : TileRed) (e : Int) (queue : List CollMsg)
    (m : CollMsg) : State × List CollMsg :=
  let first := (g.tiles.map (·.misses)).sum == 0
  let s := regCount s 0x1000190 1
  let s := if first then deviceEvent s 0x0012 .scaleMiss (leBytes 4 r.group ++ leBytes 4 x.tile ++ leBytes 8 g.step) else s
  let y := { x with misses := x.misses + 1, announced := some x.pass }
  let s := tilePut s off g.step y
  if y.misses ≥ 2 then sendAll s off r 5 (collHdr r g.step x.tile (x.pass + 1) 0 (-128))
  else
    let needs := ((x.held ++ queue).filter fun h => h.kind == 2 && h.hdr.step == g.step && h.hdr.tile == x.tile &&
      h.hdr.pass == x.pass).map fun h => h.hdr.e
    sendAll s off r 4 (collHdr r g.step x.tile (x.pass + 1) ((m.hdr.e :: needs).foldl max e) (-128))

/-- EXP from every position: RESTART at an exponent that cannot miss, in the same pass (spec/09 R240). -/
def expAtOwner (s : State) (off : Nat) (r : GroupRec) (g : GroupStep) (x : TileRed) (m : CollMsg) : State × List CollMsg :=
  let y := { x with exps := (x.exps.filter fun p => p.1 != m.src) ++ [(m.src, m.hdr.f)] }
  if y.exps.length < r.ndev then (tilePut s off g.step y, [])
  else
    let needs := y.exps.map fun p => needExp r.width p.2
    let e := match y.lastE with
      | some l => needs.foldl max l
      | none => match needs with
        | n :: t => t.foldl max n
        | [] => 0
    sendAll (tilePut s off g.step { y with announced := some x.pass }) off r 4 (collHdr r g.step x.tile x.pass e (-128))

/-- The step of a group is over here: its retained copies are released (spec/09 R234, R236, R249). -/
def groupEnd (s : State) (off step : Nat) (f : GroupStep → GroupStep) : State :=
  groupUpdate s off step fun g => { f g with contribs := [], copies := [] }

/-- What the next step of a group held comes back once a step is over: its tiles start and its packets are looked at again
(spec/09 R236, R239). -/
def groupNext (s : State) (off step : Nat) : State × List CollMsg :=
  let s := zerosRelease s
  match groupStep s off (step + 1) with
  | some n =>
    let s := n.tiles.foldl (fun s x => tileInit s off (step + 1) x.tile) s
    let s := groupUpdate s off (step + 1) fun n => { n with tiles := n.tiles.map fun x => { x with held := [] } }
    (s, n.tiles.flatMap (·.held))
  | none => (s, [])

/-- The tiles of a group step that this device owns. -/
def finalOwned (s : State) (r : GroupRec) (g : GroupStep) : List TileRed :=
  let (a, b) := ownedTiles s r
  (List.range (b - a)).map fun i => g.tileAt (a + i)

/-- The FINAL has quantised its source, every tile owned here is final, and every tile is acknowledged (spec/09 R236). -/
def finalReady (s : State) (o : Op) (r : GroupRec) (g : GroupStep) : Bool :=
  !g.over && !o.isDone && ((List.range r.tiles).all fun t => (g.tileAt t).acked) && (finalOwned s r g).all (·.final) &&
    match o.work, o.body with
    | .reduce n, .reduceGrad d => decide (d.srcElems ≤ n)
    | _, _ => false

/-- The FINAL of a group step ends, its history entered: its counts, then its status (spec/09 R248). -/
def finalEnd (s : State) (o : Op) (r : GroupRec) (g : GroupStep) (off step : Nat) : State × List CollMsg :=
  let owned := finalOwned s r g
  let bad := g.badPacket || decide (g.excess ≠ 0)
  let s := opUpdate s o.id fun o =>
    { o with c0 := (owned.map (·.misses)).sum, c1 := (owned.filter (·.prepass)).length,
             c2 := (owned.filter fun x => x.sums.contains r.nonfinite).length, c3 := min g.excess 0xFFFFFFFF }
  let s := groupEnd s off step fun g => { g with finalDone := true }
  groupNext (if bad then opStrictFail s o.id .malformed else opDone s o.id .ok) off step

/-- The FINAL of a group step ends when it has quantised its source, every tile owned here is final and every tile is
acknowledged: counts, history, status (spec/09 R236, R248). What the next step held comes back. -/
def finalCheck (s : State) (off step : Nat) : State × List CollMsg :=
  match groupStep s off step with
  | none => (s, [])
  | some g =>
    match g.final.bind (opById s) with
    | none => (s, [])
    | some o =>
      let r := groupRec s off
      if !finalReady s o r g then (s, [])
      else match histEnter s o r.hist g.fMax with
        | .wait room => (awaitWrite s o.id room, [])
        | .limit s => groupNext (groupEnd (opLimit s o) off step fun g => { g with finalDone := true }) off step
        | .done s => finalEnd s o r g off step

/-- A FINAL that completes with another status ends its group step too: the history takes the largest f of the
acknowledgements that came, if any did (spec/09 R236; log entry 127). -/
def finalOver (s : State) (o : Op) (off step : Nat) : State × List CollMsg :=
  match groupStep s off step with
  | none => (s, [])
  | some g =>
    if g.over || g.final != some o.id then (s, [])
    else
      let w := if g.tiles.any (·.acked) then
          (recordEnter (histAddr s (groupRec s off).hist) (committedBytes s (histAddr s (groupRec s off).hist) 18) g.fMax)
        else []
      let s := w.foldl (fun s x => plainWrite s x.1 x.2) s
      groupNext (groupEnd s off step fun g => { g with finalDone := true }) off step

/-- One packet taken by its tile; `queue` holds what waits behind it. -/
def collTake (s : State) (off : Nat) (r : GroupRec) (queue : List CollMsg) (m : CollMsg) : State × List CollMsg :=
  let step := m.hdr.step
  let t := m.hdr.tile
  let s := tileInit s off step t
  let s' := s
  match groupStep s off step with
  | none => (s, [])
  | some g =>
    let x := g.tileAt t
    let go := fun (y : State × List CollMsg) =>
      let (s, ms) := tileAdvance y.1 off step t
      (s, y.2 ++ ms)
    if x.acked then (s, [])
    else match m.kind with
      | 4 =>
        if m.hdr.pass < x.pass then (s, [])
        else if m.hdr.pass = x.pass ∧ x.e.isSome then (if x.e = some m.hdr.e then s else collBad s off step, [])
        else go (passBegin s off step t m.hdr.pass (some m.hdr.e) false)
      | 5 => if m.hdr.pass ≤ x.pass then (s, []) else go (passBegin s off step t m.hdr.pass none true)
      | k =>
        if m.hdr.pass < x.pass then (s, [])
        else if !x.ready || decide (m.hdr.pass > x.pass) then (collHold s' off step m, [])
        else match x.e with
          | none =>
            if k = 6 then
              (if ownerChip s r t = ownChip s ∧ x.announced ≠ some x.pass then expAtOwner s off r g x m else (s, []))
            else (collHold s off step m, [])
          | some e =>
            if k = 2 then
              (if ownerChip s r t = ownChip s ∧ x.announced ≠ some x.pass then missAtOwner s off r g x e queue m else (s, []))
            else if k = 6 then (s, [])
            else if m.hdr.e ≠ e then (collBad s off step, [])
            else if k = 7 then
              let s := tilePut s off step { x with acked := true, held := [] }
              let s := groupUpdate s off step fun g =>
                { g with fMax := max g.fMax m.hdr.f, contribs := g.contribs.filter fun c => c.elem / 1024 != t,
                         copies := g.copies.filter fun c => c.tile != t }
              finalCheck s off step
            else if k = 3 then go (tilePut s off step { x with marker := true }, [])
            else if m.hdr.half = 0 then go (tilePut s off step { x with half0 := some (m.sums, m.hdr.f) }, [])
            else go (tilePut s off step { x with half1 := some (m.sums, m.hdr.f) }, [])

/-- How a packet's STEP stands to the group here (spec/09 R236, Table 9.9): it is held, or may open as the step after the
one held, or was held and is over, or disagrees. -/
inductive StepMatch where
  | held | next | past | wrong
  deriving DecidableEq, Repr

/-- spec/09 R236: with nothing held any later step may open; beside a held step only the next one. -/
def stepMatch (s : State) (off step : Nat) : StepMatch :=
  match groupStep s off step with
  | some g => if g.over then .past else .held
  | none =>
    let last := (s.dome.groups.filter fun g => g.handle == off).foldl (fun n g => max n (g.step + 1)) 0
    if step < last then .wrong
    else match heldSteps s off with
      | [] => .next
      | [h] => if step = h + 1 then .next else .wrong
      | _ => .wrong

/-- A packet's STEP disagrees: the FINAL of the oldest step held, else of the next, ends MALFORMED (spec/09 Table 9.9). -/
def collWrong (s : State) (off : Nat) : State :=
  match heldSteps s off with
  | h :: t => collBad s off (t.foldl min h)
  | [] => { s with dome := { s.dome with badNext := s.dome.badNext.filter (· != off) ++ [off] } }

/-- One packet checked against the receiver: one of a step that is over is a late one and dropped (spec/09 Tables 9.3,
9.9). -/
def collHandle (s : State) (off : Nat) (queue : List CollMsg) (m : CollMsg) : State × List CollMsg :=
  if (groupStatusBy s (heldSize s) (heldWindow s) (0xFFFF * 2 ^ 48 + off)).isSome then (s, [])
  else
    let r := groupRec s off
    match stepMatch s off m.hdr.step with
    | .past => (s, [])
    | .wrong => (collWrong s off, [])
    | _ =>
      let s := groupOpen s off m.hdr.step
      if m.kind = 0 ∨ m.kind > 7 ∨ m.hdr.group ≠ r.group ∨ m.hdr.tile ≥ r.tiles then (collBad s off m.hdr.step, [])
      else collTake s off r queue m

/-- Packets that this device sends itself, handled in order until none is left (`fuel` bounds the passes of spec/09
R239). -/
def collDrive : Nat → State → Nat → List CollMsg → State
  | 0, s, _, _ => s
  | _, s, _, [] => s
  | n + 1, s, off, m :: ms =>
    let (s, more) := collHandle s off ms m
    collDrive n s off (ms ++ more)

/-- Rounds enough for what a group's tiles hold and what three passes of one tile send. -/
def collFuel (s : State) (off : Nat) (ms : List CollMsg) : Nat :=
  64 + 8 * ((groupRec s off).ndev + ms.length +
    ((s.dome.groups.filter fun g => g.handle == off).map fun g => (g.tiles.map fun x => x.held.length + 4).sum).sum)

/-- Packets that came to this device, and all that follows here. -/
def collRun (s : State) (off : Nat) (ms : List CollMsg) : State := collDrive (collFuel s off ms) s off ms

/-- A tile goes on as far as it can (spec/09 R237). -/
def tileGo (s : State) (off step t : Nat) : State :=
  let (s, ms) := tileAdvance s off step t
  collRun s off ms

/-- A FINAL that ended otherwise than by `finalCheck`, and what follows. -/
def finalOverGo (s : State) (o : Op) (off step : Nat) : State :=
  let (s, ms) := finalOver s o off step
  collRun s off ms

/-- The FINAL of a group step looked at. -/
def finalGo (s : State) (off step : Nat) : State :=
  let (s, ms) := finalCheck s off step
  collRun s off ms

/-- Contributions of an op to a group step: they join it, and what misses is told at once (spec/09 R232, R238). -/
def contribute (s : State) (o : Op) (off step : Nat) (items : List (Nat × Nat)) : Given :=
  match contribJoin s o off step items with
  | .done s => .done (((items.map fun x => x.1 / 1024).eraseDups).foldl (fun s t =>
      let (s, ms) := missNow s off step t
      collRun s off ms) s)
  | w => w

/-! ### The step (spec/08 R219, spec/09 R242, R249) -/

/-- An op is the FINAL REDUCE_GRAD of a group step (spec/09 R248). -/
def isFinalOf (o : Op) (off step : Nat) : Bool :=
  o.accepted && (match o.body with
    | .reduceGrad b => natBits b.flags 0 0 == 1 && addrOff b.group == off && b.step == step
    | _ => false)

/-- A FINAL of a group step has been accepted: it is the step's, or waits for the step to open (spec/09 R249). -/
def finalAccepted (s : State) (off step : Nat) : Bool :=
  s.ops.any (fun o => isFinalOf o off step) || (match groupStep s off step with
    | some g => g.final.isSome
    | none => false)

/-- A group step of this step has a contribution and no FINAL accepted (spec/09 R249). -/
def finalMissing (s : State) (step : Nat) : Bool :=
  s.dome.groups.any fun g => g.step == step && !g.over && !finalAccepted s g.handle step &&
    (!g.contribs.isEmpty || !g.zeros.isEmpty || g.tiles.any (·.acked))

/-- A history record lowered by one bit: each valid entry less 1, stopping at −128 (spec/09 R242). -/
def histLower (s : State) (slot : Nat) : State :=
  let a := histAddr s slot
  let n := min 16 (memNat s (a + 16) 1)
  (List.range n).foldl (fun s i =>
    plainWrite s (a + i) (leBytes 1 (wrapTo 8 (max (-128) (asSigned 8 (memNat s (a + i) 1) - 1))))) s

/-- The state of a failed step's groups without a FINAL is discarded (spec/09 R249), what the next step held is released, and
after a non-finite sum every group of the step has its history lowered. -/
def groupsFail (s : State) (step : Nat) (lower : Bool) : State :=
  let mine := s.dome.groups.filter fun g => g.step == step && !g.gone
  let s := if lower then mine.foldl (fun s g => histLower s (groupRec s g.handle).hist) s else s
  mine.foldl (fun s g =>
    if g.finalDone || finalAccepted s g.handle step then s
    else
      let s := groupEnd s g.handle step fun g => { g with gone := true, zeros := [], tiles := [] }
      let (s, ms) := groupNext s g.handle step
      collRun s g.handle ms) s

/-- Every tile of a group step owned here is final (spec/09 R244): none while one is not, false once discarded. -/
def ownedFinal (s : State) (off step : Nat) : Option Bool :=
  let r := groupRec s off
  let (a, b) := ownedTiles s r
  match groupStep s off step with
  | none => if a = b then some true else none
  | some g =>
    if g.gone then some false
    else if (List.range (b - a)).all fun i => (g.tileAt (a + i)).final then some true
    else none

end Sys2Proof.Machine
end

