-- ==== Sys2Proof/Machine/Elementary.lean ====
section
/-! DEFINITION. The correctly rounded functions of spec/04 Table 4.5 (EXP to COS): the exact value is bracketed in
fixed point until its leading 128 bits are known, then rounded once (log entry 11). -/

namespace Sys2Proof.Machine

/-- 2 × atanh(1/n) × 2^w to within its terms, for a small odd-power series: Σ 2 / ((2k + 1) n^(2k + 1)). -/
def atanhInv (w n : Nat) : Nat → Nat → Nat → Nat
  | 0, _, _ => 0
  | f + 1, k, p => 2 * p / (2 * k + 1) + atanhInv w n f (k + 1) (p / (n * n))

/-- ln 2 × 2^w. -/
def ln2Fix (w : Nat) : Nat := atanhInv w 3 (w / 3 + 2) 0 (2 ^ w / 3)

/-- atan(1/n) × 2^w as a signed series. -/
def atanInv (n : Nat) : Nat → Nat → Int → Int
  | 0, _, _ => 0
  | f + 1, k, p => p / (2 * k + 1 : Nat) - atanInv n f (k + 1) (p / (n * n : Nat))

/-- π × 2^w by Machin's formula. -/
def piFix (w : Nat) : Nat :=
  let one : Int := (2 ^ (w + 16) : Nat)
  ((16 * atanInv 5 (w / 4 + 8) 0 (one / 5) - 4 * atanInv 239 (w / 15 + 8) 0 (one / 239)) / (2 ^ 16 : Nat)).toNat

/-- Σ over k of a running term: term k + 1 is term k × `num` ÷ 2^w ÷ `den k`. -/
def seriesFix (w : Nat) (num : Int) (den : Nat → Nat) : Nat → Nat → Int → Int
  | 0, _, t => t
  | f + 1, k, t => t + seriesFix w num den f (k + 1) (t * num / (2 ^ w : Nat) / (den k : Int))

/-- e^r × 2^w for r × 2^w given, r in [0, 1). -/
def expFix (w : Nat) (r : Int) : Int := seriesFix w r (fun k => k + 1) (w / 2) 0 (2 ^ w : Nat)

/-- m × 2^e in units of 2^−w, rounded down. -/
def toFix (w : Nat) (m : Nat) (e : Int) : Nat :=
  if 0 ≤ e + w then m <<< (e + w).toNat else m >>> (-(e + w)).toNat

/-- e^x for x in units of 2^−w: a positive mantissa in units of 2^−w and a power of two. -/
def expSplit (w : Nat) (x : Int) : Nat × Int :=
  let l : Int := ln2Fix w
  let n := x / l
  ((expFix w (x - n * l)).toNat, n)

/-- ln(m × 2^e) × 2^w. -/
def lnFix (w : Nat) (m : Nat) (e : Int) : Int :=
  let l := Nat.log2 m
  let num := (m - 2 ^ l) <<< w
  let z : Int := (num / (m + 2 ^ l) : Nat)
  let z2 := z * z / (2 ^ w : Nat)
  let rec go : Nat → Nat → Int → Int
    | 0, _, _ => 0
    | f + 1, k, t => 2 * t / (2 * k + 1 : Nat) + go f (k + 1) (t * z2 / (2 ^ w : Nat))
  go (w / 3 + 2) 0 z + ((l : Int) + e) * (ln2Fix w : Int)

/-- erf(x) × 2^w for x × 2^w given. -/
def erfFix (w : Nat) (x : Int) : Int :=
  let x2 := x * x / (2 ^ w : Nat)
  let rec go : Nat → Nat → Int → Int
    | 0, _, _ => 0
    | f + 1, k, t => t / (2 * k + 1 : Nat) + go f (k + 1) (-(t * x2) / (2 ^ w : Nat) / (k + 1 : Nat))
  let s := go w 0 x
  -- √π × 2^w is the root of π × 2^2w
  2 * s * (2 ^ w : Nat) / (isqrt (piFix (2 * w)) : Int)

/-- sin and cos of r × 2^w given, r in [0, 2). -/
def sinCosFix (w : Nat) (r : Int) : Int × Int :=
  let r2 := r * r / (2 ^ w : Nat)
  let rec go : Nat → Nat → Int → Int
    | 0, _, _ => 0
    | f + 1, k, t => t + go f (k + 2) (-(t * r2) / (2 ^ w : Nat) / ((k + 1) * (k + 2) : Nat))
  (go (w / 4) 1 r, go (w / 4) 0 (2 ^ w : Nat))

/-- The quadrant of |x| and the rest in units of 2^−w (spec/04: arguments to 2^128). -/
def reduceTrig (w : Nat) (m : Nat) (e : Int) : Nat × Int :=
  let p := w + 300
  let half := piFix (p + 1) / 4
  let x := toFix p m e
  (x / half % 4, ((x % half) >>> 300 : Nat))

/-- The functions of Table 4.5 from EXP to COS. -/
inductive ElemFn where
  | exp | exp2 | log | log2 | tanh | sigmoid | erf | sin | cos
  deriving DecidableEq, Repr

/-- The signed value of a function at (−1)^neg × m × 2^e, at w bits: mantissa in units of 2^(−w + shift). -/
def elemApprox (f : ElemFn) (w : Nat) (neg : Bool) (m : Nat) (e : Int) : Int × Int :=
  let x : Int := toFix w m e
  let sx := if neg then -x else x
  let one : Int := (2 ^ w : Nat)
  match f with
  | .exp => let (y, n) := expSplit w sx; (y, n)
  | .exp2 =>
    let n := sx / one
    ((expFix w ((sx - n * one) * (ln2Fix w : Int) / one)), n)
  | .log => (lnFix w m e, 0)
  | .log2 => (lnFix w m e * one / (ln2Fix w : Int), 0)
  | .tanh =>
    let (y, n) := expSplit w (-2 * x)
    let q : Int := toFix w y (n - w)
    let t := (one - q) * one / (one + q)
    (if neg then -t else t, 0)
  | .sigmoid =>
    let (y, n) := expSplit w (-x)
    let q : Int := toFix w y (n - w)
    (if neg then q * one / (one + q) else one * one / (one + q), 0)
  | .erf => (if neg then -(erfFix w x) else erfFix w x, 0)
  | .sin =>
    let (q, r) := reduceTrig w m e
    let (sn, cs) := sinCosFix w r
    let v := match q with
      | 0 => sn
      | 1 => cs
      | 2 => -sn
      | _ => -cs
    (if neg then -v else v, 0)
  | .cos =>
    let (q, r) := reduceTrig w m e
    let (sn, cs) := sinCosFix w r
    (match q with
      | 0 => cs
      | 1 => -sn
      | 2 => -cs
      | _ => sn, 0)

/-- The leading 128 bits of an irrational value, by widening the working precision until both ends of the bracket
agree: sign, mantissa and exponent, the rest strictly between mantissa and mantissa + 1. -/
def elemBracket (f : ElemFn) (neg : Bool) (m : Nat) (e : Int) : Nat → Nat → Bool × Nat × Int
  | 0, _ => (false, 1, -3000)
  | fuel + 1, w =>
    let (y, sh) := elemApprox f w neg m e
    let a := y.natAbs
    let lo := a - 2 ^ 64
    let hi := a + 2 ^ 64
    let k := Nat.log2 lo - 127
    if lo >>> k = hi >>> k ∧ 2 ^ 200 ≤ lo then (decide (y < 0), lo >>> k, (k : Int) - w + sh)
    else elemBracket f neg m e fuel (2 * w)

/-- A value just below 1. -/
def almostOne : Nat × Int := (2 ^ 200 - 1, -200)

/-- A function of a finite non-zero argument, rounded once. -/
def elemFinite (f : ElemFn) (md : NumMode) (fc r : Nat) (neg : Bool) (m : Nat) (e : Int) : Rounded :=
  let lg := floorLog2 m e
  let out := fun (n : Bool) (p : Nat × Int) => roundArith md fc r (.fin n p.1 p.2) true
  let big := decide (lg ≥ 8)
  let tiny := decide (lg < -60)
  let w := 640 + 4 * (-lg).toNat
  let full := let (n, q, x) := elemBracket f neg m e 3 w; out n (q, x)
  match f with
  | .exp =>
    if big then out false (if neg then (1, -3000) else (1, 3000))
    else if tiny then out false (if neg then almostOne else (2 ^ 200, -200)) else full
  | .exp2 =>
    if big then out false (if neg then (1, -3000) else (1, 3000))
    else if 0 ≤ e ∨ m % 2 ^ (-e).toNat = 0 then
      let n : Int := toFix 0 m e
      roundArith md fc r (.fin false 1 (if neg then -n else n))
    else if tiny then out false (if neg then almostOne else (2 ^ 200, -200)) else full
  | .log =>
    if neg then invalidOp
    else if magCmp m e 1 0 = .eq then { val := .zero false } else full
  | .log2 =>
    if neg then invalidOp
    else if m = 2 ^ Nat.log2 m then roundArith md fc r (Val.ofSig false lg 0) else full
  | .tanh => if big then out neg almostOne else if lg < -40 then out neg (m * 2 ^ 200 - 1, e - 200) else full
  | .sigmoid =>
    if big then out false (if neg then (1, -3000) else almostOne)
    else if tiny then out false (if neg then (2 ^ 200 - 1, -201) else (2 ^ 200, -201)) else full
  | .erf => if lg ≥ 3 then out neg almostOne else full
  | .sin => if lg < -40 then out neg (m * 2 ^ 200 - 1, e - 200) else full
  | .cos => if lg < -40 then out false almostOne else full

/-- A function marked CR (spec/04 R91, R92): special values, then one rounding. LOG and LOG2 of a zero, like RSQRT of
one, raise division by zero: R92 names no flag for them (DESIGN CHOICE, log entry 119). -/
def elemFn (f : ElemFn) (md : NumMode) (fc r : Nat) (a : Val) : Rounded :=
  match a with
  | .nan _ _ _ => pickNaN md [a]
  | .inf n =>
    match f with
    | .exp => { val := if n then .zero false else .inf false }
    | .exp2 => { val := if n then .zero false else .inf false }
    | .log => if n then invalidOp else { val := .inf false }
    | .log2 => if n then invalidOp else { val := .inf false }
    | .tanh => { val := .fin n 1 0 }
    | .sigmoid => { val := if n then .zero false else .fin false 1 0 }
    | .erf => { val := .fin n 1 0 }
    | .sin => invalidOp
    | .cos => invalidOp
  | .fin n m e =>
    if m = 0 then
      match f with
      | .exp => { val := .fin false 1 0 }
      | .exp2 => { val := .fin false 1 0 }
      | .log => { val := .inf true, tally := { divZero := true } }
      | .log2 => { val := .inf true, tally := { divZero := true } }
      | .tanh => { val := .zero n }
      | .sigmoid => { val := .fin false 1 (-1) }
      | .erf => { val := .zero n }
      | .sin => { val := .zero n }
      | .cos => { val := .fin false 1 0 }
    else elemFinite f md fc r n m e

end Sys2Proof.Machine
end

