-- ==== Sys2Proof/Machine/Program.lean ====
section
/-! DEFINITION. Element programs (spec/04): instructions and their types (R87 to R91), one element's evaluation
(R90 to R94, R97), and the reduction unit (R98 to R101). -/

namespace Sys2Proof.Machine

/-! ### Instructions -/

/-- spec/04 Table 4.3. -/
structure VInstr where
  (opc fmt a b c flags : Nat)
  deriving DecidableEq, Repr

/-- spec/04 Table 4.3. -/
def parseInstr (w : Nat) : VInstr :=
  { opc := natBits w 31 24, fmt := natBits w 23 20, a := natBits w 19 14, b := natBits w 13 8, c := natBits w 7 2,
    flags := natBits w 1 0 }

/-- FP32, BF16, FP16 and FP64. -/
def isFp (f : Nat) : Bool := f == 0 || f == 1 || f == 2 || f == 0xC
/-- A VE arithmetic format (spec/02 Table 2.4). -/
def isVe (f : Nat) : Bool := isFp f || f == 0xB

/-- What an opcode takes (spec/04 Table 4.5): the formats it allows and how many of the sources A, B, C it uses. -/
def opcInfo (opc : Nat) : Option ((Nat → Bool) × Nat) :=
  match opc with
  | 0x01 => some (isVe, 2)
  | 0x02 => some (isVe, 2)
  | 0x03 => some (isVe, 2)
  | 0x04 => some (isVe, 3)
  | 0x05 => some (isVe, 2)
  | 0x06 => some (isVe, 2)
  | 0x07 => some (isVe, 1)
  | 0x08 => some (isVe, 1)
  | 0x09 => some (isVe, 3)
  | 0x10 => some (isFp, 2)
  | 0x11 => some (isFp, 1)
  | 0x12 => some (isFp, 1)
  | 0x13 => some (isFp, 1)
  | 0x28 => some (fun f => decide (f ≤ 0xD), 1)
  | 0x30 => some (isVe, 2)
  | 0x31 => some (isVe, 2)
  | 0x32 => some (isVe, 2)
  | 0x33 => some (isVe, 2)
  | 0x40 => some (fun f => f == 0xB, 0)
  | 0x48 => some (fun _ => true, 1)
  | 0x49 => some (fun _ => true, 1)
  | o =>
    if 0x18 ≤ o ∧ o ≤ 0x20 then some (fun f => decide (f ≤ 2), 1)
    else if o = 0x34 ∨ (0x38 ≤ o ∧ o ≤ 0x3D) then some (fun f => f == 0xB, 2)
    else none

/-- OUT and TAP: no result. -/
def isMark (opc : Nat) : Bool := opc == 0x48 || opc == 0x49
/-- A compare: an INT32 result. -/
def isCmp (opc : Nat) : Bool := decide (0x30 ≤ opc) && decide (opc ≤ 0x34)

/-- The sources an instruction uses. -/
def usedSources (i : VInstr) : List Nat :=
  match opcInfo i.opc with
  | some (_, n) => [i.a, i.b, i.c].take n
  | none => []

/-! ### Types (spec/04 R88, R89) -/

/-- The types a pass can name: streams S0 to S3 (none unused), constants K0 to K7 (none of no VE format), the
accumulator (none unless fused). -/
structure VTypes where
  streams : List (Option Nat)
  consts : List (Option Nat)
  acc : Option Nat

/-- The type of a selector: none is refused; zero takes any type. -/
def selType (t : VTypes) (results : List (Option Nat)) (sel : Nat) : Option (Option Nat) :=
  if sel < 48 then ((results[sel]?).getD none).map some
  else if sel < 52 then ((t.streams[sel - 48]?).getD none).map some
  else if sel < 60 then ((t.consts[sel - 52]?).getD none).map some
  else if sel = 60 then t.acc.map some
  else if sel < 63 then some (some 0xB)
  else some none

/-- One instruction's types are right; `outs` are O0 and O1, `tapOn` the tap channels in use. FLAGS[1] of an OUT, which Table
4.3 gives as 0, is not checked and does nothing (DESIGN CHOICE, log entry 139). -/
def instrOk (t : VTypes) (outs : List (Option OpFmt)) (tapOn : Nat → Bool) (results : List (Option Nat)) (i : VInstr) :
    Bool :=
  match opcInfo i.opc with
  | none => false
  | some (fmts, _) =>
    let tys := (usedSources i).map (selType t results)
    let fits : Nat → Option Nat → Bool := fun k ty =>
      match ty with
      | none => true
      | some f =>
        if i.opc = 0x48 then
          (match (outs[i.flags % 2]?).getD none with
           | some o => if o.mx then isFp f else true
           | none => false)
        else if i.opc = 0x49 then decide (f ≤ 2)
        else if i.opc = 0x28 then isVe f
        else if (i.opc = 0x09 ∧ k = 0) ∨ (0x3B ≤ i.opc ∧ i.opc ≤ 0x3D ∧ k = 1) then f == 0xB
        else f == i.fmt
    (isMark i.opc || fmts i.fmt) && tys.all (·.isSome) &&
    (tys.zipIdx.all fun p => match p.1 with
      | some ty => fits p.2 ty
      | none => false) &&
    (i.opc != 0x48 || ((outs[i.flags % 2]?).getD none).isSome) && (i.opc != 0x49 || tapOn i.flags)

/-- A pass's types are right, instruction by instruction: later ones name earlier results (spec/04 R88, R105). -/
def passOk (t : VTypes) (outs : List (Option OpFmt)) (tapOn : Nat → Bool) (prog : List VInstr) : Bool :=
  (prog.foldl (fun (acc : Bool × List (Option Nat)) i =>
    let ok := instrOk t outs tapOn acc.2 i
    let res := if isMark i.opc then none else if isCmp i.opc then some 0xB else some i.fmt
    (acc.1 && ok, acc.2 ++ [res])) (true, [])).1

/-- No tap channel is used twice in a pass (spec/04 R98). -/
def tapsOnce (prog : List VInstr) : Bool :=
  let cs := (prog.filter fun i => i.opc == 0x49).map (·.flags)
  cs.eraseDups.length == cs.length

/-! ### One element -/

/-- A value in a lane: its format, its code, and how its rounding went where the value does not say it (spec/10 R257). -/
structure Lane where
  fc : Nat
  code : Nat
  note : Note := .plain
  deriving DecidableEq, Repr

/-- The value of a lane. -/
def Lane.val (x : Lane) : Val := decodeVal x.fc false x.code

/-- A rounded result as a lane. -/
def laneOfRounded (fc : Nat) (x : Rounded) : Lane := { fc := fc, code := encodeVal fc x.val, note := x.note }

/-- The negation of R90: the sign bit of a float, two's complement modulo the width of an integer. E8M0 has no sign and
the spec does not say what its negation is: free (log entry 116). -/
def laneNeg (x : Lane) : Lane :=
  match fmtOf x.fc with
  | .flt _ _ _ _ => { x with code := x.code ^^^ 2 ^ (fmtBits x.fc - 1) }
  | .int w => { x with code := (2 ^ w - x.code % 2 ^ w) % 2 ^ w }
  | _ => { x with code := Config.negE8M0 x.code % 256 }

/-- The function of a CR opcode (spec/04 Table 4.5). -/
def crFn (opc : Nat) : ElemFn :=
  match opc with
  | 0x18 => .exp
  | 0x19 => .exp2
  | 0x1A => .log
  | 0x1B => .log2
  | 0x1C => .tanh
  | 0x1D => .sigmoid
  | 0x1E => .erf
  | 0x1F => .sin
  | _ => .cos

/-- One. -/
def valOne : Val := .fin false 1 0

/-- An opcode on floats (spec/04 Table 4.5, R92). ABS and MOV of a NaN give a NaN result as any instruction does: its sign and
quieted payload in strict mode, where a signalling one raises invalid (spec/02 R44, R45). -/
def floatOp (md : NumMode) (opc fc r : Nat) (a b c : Val) : Rounded :=
  match opc with
  | 0x01 => fpAdd md fc r a b
  | 0x02 => fpSub md fc r a b
  | 0x03 => fpMul md fc r a b
  | 0x04 => fpFma md fc r a b c
  | 0x05 => fpMinMax md false a b
  | 0x06 => fpMinMax md true a b
  | 0x07 => if a.isNaN then pickNaN md [a] else { val := a.abs }
  | 0x08 => if a.isNaN then pickNaN md [a] else { val := a }
  | 0x10 => fpDiv md fc r a b
  | 0x11 => fpSqrt md fc r a
  | 0x12 => fpDiv md fc r valOne a
  | 0x13 => fpRsqrt md fc r a
  | o => elemFn (crFn o) md fc r a

/-- An opcode on INT32 (spec/04 R90: it wraps). -/
def intOp (opc row : Nat) (a b c : Nat) : Nat :=
  let x := asSigned 32 a
  let y := asSigned 32 b
  let w := wrapTo 32
  let sh := b % 32
  match opc with
  | 0x01 => w (x + y)
  | 0x02 => w (x - y)
  | 0x03 => w (x * y)
  | 0x04 => w (x * y + asSigned 32 c)
  | 0x05 => w (min x y)
  | 0x06 => w (max x y)
  | 0x07 => w (x.natAbs : Int)
  | 0x08 => a
  | 0x38 => a &&& b
  | 0x39 => a ||| b
  | 0x3A => a ^^^ b
  | 0x3B => w ((a <<< sh : Nat) : Int)
  | 0x3C => a >>> sh
  | 0x3D => w (x / (2 ^ sh : Nat))
  | _ => row % 2 ^ 32

/-- A comparison (spec/04 R92): a NaN compares false but for CMPNE; invalid as the mode's rules say. -/
def compareOp (opc : Nat) (isInt : Bool) (a b : Lane) : Bool × Tally :=
  if isInt then
    let x := asSigned 32 a.code
    let y := asSigned 32 b.code
    (match opc with
     | 0x30 => decide (x < y)
     | 0x31 => decide (x ≤ y)
     | 0x32 => x == y
     | 0x33 => x != y
     | _ => decide (a.code % 2 ^ 32 < b.code % 2 ^ 32), {})
  else
    let x := a.val
    let y := b.val
    if x.isNaN || y.isNaN then
      let quiet := opc == 0x32 || opc == 0x33
      (opc == 0x33, { invalid := if quiet then x.isSNaN || y.isSNaN else true })
    else
      let o := cmpVal x y
      (match opc with
       | 0x30 => o == .lt
       | 0x31 => o != .gt
       | 0x32 => o == .eq
       | _ => o != .eq, {})

/-- An instruction that hands one of its sources on, with the note of the value it hands on: MIN, MAX, ABS, MOV
(log entry 117). -/
def passNote (opc : Nat) (a b out : Lane) : Lane :=
  if opc = 0x07 ∨ opc = 0x08 then { out with note := a.note }
  else if opc = 0x05 ∨ opc = 0x06 then { out with note := if out.code = a.code then a.note else b.note }
  else out

/-- One instruction on its sources: the result and what it counts and flags. `r` is its random word, `row` the row. -/
def evalInstr (md : NumMode) (i : VInstr) (r row : Nat) (a b c : Lane) : Lane × Tally :=
  let a := if natBits i.flags 0 0 = 1 then laneNeg a else a
  let post := fun (x : Lane) => if natBits i.flags 1 1 = 1 then laneNeg x else x
  if i.opc = 0x09 then
    -- a NaN that SEL picks is a NaN result like any other; the source it leaves is no input of it (spec/02 R44, R45; log entry
    -- 117)
    let x := if a.code % 2 ^ 32 ≠ 0 then b else c
    let v := decodeVal i.fmt false x.code
    let n := pickNaN md [v]
    if v.isNaN then (post { x with fc := i.fmt, code := encodeVal i.fmt n.val }, n.tally)
    else (post { x with fc := i.fmt }, {})
  else if isCmp i.opc then
    let (p, t) := compareOp i.opc (i.fmt == 0xB) a b
    let p := if natBits i.flags 1 1 = 1 then !p else p
    ({ fc := 0xB, code := b2n p }, t)
  else if i.opc = 0x28 then
    let (code, x) := convertCode .store md i.fmt false r a.val
    (post { fc := i.fmt, code := code, note := x.note }, x.tally)
  else if i.fmt = 0xB then (post { fc := 0xB, code := intOp i.opc row a.code b.code c.code }, {})
  else
    let x := floatOp md i.opc i.fmt r a.val b.val c.val
    (post (passNote i.opc a b (laneOfRounded i.fmt x)), x.tally)

/-- What an element's evaluation can name beside earlier results. -/
structure ElemEnv where
  md : NumMode
  /-- Random words by term key (spec/04 R94). -/
  word : Nat → Nat
  /-- i counts from here (48 in pass 2). -/
  base : Nat
  row : Nat
  col : Nat
  streams : List Lane
  consts : List Lane
  acc : Lane

/-- The value of a selector; `fc` is the type that a zero takes. -/
def selLane (e : ElemEnv) (results : List Lane) (fc sel i : Nat) : Lane :=
  let z : Lane := { fc := fc, code := 0 }
  if sel < 48 then (results[sel]?).getD z
  else if sel < 52 then (e.streams[sel - 48]?).getD z
  else if sel < 60 then (e.consts[sel - 52]?).getD z
  else if sel = 60 then e.acc
  else if sel = 61 then { fc := 0xB, code := e.col % 2 ^ 32 }
  else if sel = 62 then { fc := 0xB, code := e.word (0xFFFFFE00 + e.base + i) }
  else z

/-- What one element gives: results by instruction, what it writes to O0 and O1, what it taps, and its tally. -/
structure ElemOut where
  results : List Lane := []
  outs : List (Nat × Lane) := []
  taps : List (Nat × Lane) := []
  tally : Tally := {}

/-- One instruction of an element; `given` holds row-invariant results already formed (spec/04 R97). DESIGN CHOICE: a CONVERT takes
selector 63 as an FP32 zero, since its use needs no one type (log entry 157). -/
def elemStep (e : ElemEnv) (given : List (Option Lane)) (acc : ElemOut) (x : VInstr × Nat) : ElemOut :=
  let (i, n) := x
  let fc := if isMark i.opc ∨ i.opc = 0x28 then 0 else i.fmt
  let src := selLane e acc.results fc
  -- SEL's predicate is INT32, zero too (R89)
  let srcA := selLane e acc.results (if i.opc = 0x09 then 0xB else fc)
  if i.opc = 0x48 then
    { acc with results := acc.results ++ [{ fc := 0, code := 0 }], outs := acc.outs ++ [(i.flags % 2, src i.a n)] }
  else if i.opc = 0x49 then
    { acc with results := acc.results ++ [{ fc := 0, code := 0 }], taps := acc.taps ++ [(i.flags, src i.a n)] }
  else match (given[n]?).getD none with
    | some v => { acc with results := acc.results ++ [v] }
    | none =>
      let r := if e.md.rmode = 4 then e.word (0xFFFFFF00 + e.base + n) else 0
      let (v, t) := evalInstr e.md i r e.row (srcA i.a n) (src i.b n) (src i.c n)
      { acc with results := acc.results ++ [v], tally := acc.tally.join t }

/-- A pass over one element. -/
def runElem (e : ElemEnv) (given : List (Option Lane)) (prog : List VInstr) : ElemOut :=
  prog.zipIdx.foldl (elemStep e given) {}

/-- Which instructions are row-invariant (spec/04 R97). -/
def invariants (prog : List VInstr) : List Bool :=
  prog.foldl (fun (acc : List Bool) i =>
    acc ++ [!isMark i.opc && (usedSources i).all fun s =>
      s == 63 || (decide (52 ≤ s) && decide (s < 60)) || (decide (s < 48) && (acc[s]?).getD false)]) []

/-- Row-invariant results of a row, evaluated once at its first element (spec/04 R97; log entry 22). ROWID has no
sources, so it is one of them. -/
def rowGiven (e : ElemEnv) (prog : List VInstr) : List (Option Lane) × Tally :=
  let inv := invariants prog
  let out := prog.zipIdx.foldl (fun (acc : ElemOut) x =>
    if (inv[x.2]?).getD false then elemStep e [] acc x
    else { acc with results := acc.results ++ [{ fc := 0, code := 0 }] }) {}
  ((out.results.zip inv).map fun p => if p.2 then some p.1 else none, out.tally)

/-! ### The reduction unit (spec/04 R98 to R101) -/

/-- A tap channel's configuration byte (spec/04 Table 4.6). -/
structure TapCfg where
  (dir op acc : Nat)
  deriving DecidableEq, Repr

/-- Channel n of a TAP_CFG word. -/
def tapCfg (w n : Nat) : TapCfg :=
  let b := natBits w (8 * n + 7) (8 * n)
  { dir := natBits b 7 6, op := natBits b 5 3, acc := natBits b 2 2 }

/-- The combination is not refused (spec/04 R98). DESIGN CHOICE: of a channel that is off the other fields are not checked, as the
spec does not say that they are (log entry 157). -/
def tapOk (t : TapCfg) : Bool :=
  t.dir == 0 || (t.dir != 3 && decide (t.op ≤ 5) && (t.dir != 2 || decide (t.op ≤ 2)) && (t.acc == 0 || t.op == 0))

/-- The format a channel accumulates in. -/
def tapFmt (t : TapCfg) : Nat := if t.acc = 1 then 0xC else 0x0

/-- The mode of the RU: RNE unless a fold is stochastic (spec/04 R99). -/
def ruMode (md : NumMode) (sr : Bool) : NumMode := { md with rmode := if sr then 4 else 0 }

/-- One level of the pairwise tree; an odd last lane passes through. -/
def treeLevel (md : NumMode) (fc : Nat) : List Val → List Val × Tally
  | a :: b :: t =>
    let x := fpAdd (ruMode md false) fc 0 a b
    let (rest, ty) := treeLevel md fc t
    (x.val :: rest, x.tally.join ty)
  | l => (l, {})

/-- The fixed pairwise tree over a chunk (spec/04 R99); six levels reach one value from 64 lanes. -/
def treeSum (md : NumMode) (fc : Nat) (xs : List Val) : Option Val × Tally :=
  let (l, t) := (List.range 6).foldl (fun (acc : List Val × Tally) _ =>
    let (l, t) := treeLevel md fc acc.1
    (l, acc.2.join t)) (xs, {})
  (l.head?, t)

/-- Chunk or group values folded in ascending order from the first; `sr` gives the random word of fold j when it is
stochastic (spec/04 R99). DESIGN CHOICE: the fold starts at the first value, not at +0, so that values of only −0 give −0; the spec
names no start (log entry 23). -/
def foldSums (md : NumMode) (fc : Nat) (sr : Option (Nat → Nat)) (vs : List Val) : Option Val × Tally :=
  vs.zipIdx.foldl (fun (acc : Option Val × Tally) p =>
    match acc.1 with
    | none => (some p.1, acc.2)
    | some v =>
      let x := fpAdd (ruMode md sr.isSome) fc (match sr with
        | some w => w p.2
        | none => 0) v p.1
      (some x.val, acc.2.join x.tally)) (none, {})

/-- The extreme of tapped values. -/
def extreme (md : NumMode) (wantMax : Bool) (vs : List Val) : Option Val × Tally :=
  vs.foldl (fun (acc : Option Val × Tally) v =>
    match acc.1 with
    | none => if v.isNaN then (some (pickNaN md [v]).val, acc.2.join (pickNaN md [v]).tally) else (some v, acc.2)
    | some w => let x := fpMinMax md wantMax w v; (some x.val, acc.2.join x.tally)) (none, {})

/-- The extreme and its column: ties to the lowest column, a NaN at its first (spec/04 R99). −0 is below +0 here as in
MAX and MIN (log entry 23). -/
def argExtreme (wantMax : Bool) (vs : List Val) : Option (Val × Nat) :=
  vs.zipIdx.foldl (fun (acc : Option (Val × Nat)) p =>
    let v := p.1
    match acc with
    | none => some (v, p.2)
    | some (w, c) =>
      if w.isNaN then acc
      else if v.isNaN then some (v, p.2)
      else
        let less := match cmpVal w v with
          | .lt => true
          | .gt => false
          | .eq => w.neg && !v.neg
        let greater := match cmpVal w v with
          | .gt => true
          | .lt => false
          | .eq => !w.neg && v.neg
        some (if (if wantMax then less else greater) then (v, p.2) else (w, c))) none

/-- The running maximum and rescaled sum of one chunk (spec/04 R100). DESIGN CHOICE: exp here and log in `rmaxRow` round RNE,
whatever RMODE says, as the rule's own roundings do; it says of them only that they are CR (log entry 23). -/
def rmaxChunk (md : NumMode) (acc : Val × Val × Tally) (x : List Val) : Val × Val × Tally :=
  let md := ruMode md false
  let (m, s, t) := acc
  let mn := x.foldl (fun a v => (fpMinMax md true a v).val) m
  if mn.isNaN then ((pickNaN md [mn]).val, .qnan, t)
  else if mn == .inf true then (mn, s, t)
  else
    let ex := fun v => let d := fpAdd md 0 0 v mn.negate; let e := elemFn .exp md 0 0 d.val; (e.val, d.tally.join e.tally)
    let es := x.map ex
    let (sum, tt) := treeSum md 0 (es.map (·.1))
    let r := ex m
    let p := fpMul md 0 0 s r.1
    let q := fpAdd md 0 0 p.val (sum.getD (.zero false))
    (mn, q.val, ((((t.join (Tally.sum (es.map (·.2)))).join tt).join r.2).join p.tally).join q.tally)

/-- m, s and lse of a row (spec/04 R100). A NaN makes all three NaN, with the flags that the chunks before it have raised; a +Inf
makes s and lse NaN by the arithmetic itself, Inf − Inf. -/
def rmaxRow (md : NumMode) (chunks : List (List Val)) : Val × Val × Val × Tally :=
  let md := ruMode md false
  let all := chunks.flatten
  let before := chunks.takeWhile fun c => !c.any Val.isNaN
  let (m, s, t) := before.foldl (rmaxChunk md) (.inf true, .zero false, {})
  if all.any Val.isNaN then
    let x := pickNaN md all
    (x.val, x.val, x.val, t.join x.tally)
  else
    if m == .inf true then (m, s, .inf true, t)
    else
      let lg := elemFn .log md 0 0 s
      let l := fpAdd md 0 0 m lg.val
      (m, s, l.val, (t.join lg.tally).join l.tally)

/-- Tapped values as the RU takes them: a NaN canonical in fast mode, quieted in strict mode, where a signalling one
raises invalid, so that a sum of one term is no exception (spec/02 R44, R45). -/
def tapIn (md : NumMode) (vs : List Val) : List Val × Tally :=
  (vs.map fun v => if v.isNaN then (pickNaN md [v]).val else v, { invalid := vs.any Val.isSNaN })

/-- A reduction's 8 bytes, the value it leaves in a K slot, and its tally (spec/04 R101, R102). A channel with no tapped
value has no stated result: `free` stands for it (log entry 23). -/
def reduceRow (md : NumMode) (cfg : TapCfg) (sr : Option (Nat → Nat)) (free : Nat) (taps : List Val) :
    List Byte × Lane × Tally :=
  let f := tapFmt cfg
  let (vs, t0) := tapIn md taps
  let one := fun (v : Val) (t : Tally) =>
    (leBytes 8 (encodeVal f v), ({ fc := f, code := encodeVal f v } : Lane), t0.join t)
  let none' := (leBytes 8 free, ({ fc := f, code := free % 2 ^ fmtBits f } : Lane), ({} : Tally))
  let chunks := chunksOf 64 vs
  match cfg.op with
  | 0 =>
    let cs := chunks.map (treeSum md f)
    let (v, t) := foldSums md f sr (cs.filterMap (·.1))
    match v with
    | some v => one v (t.join (Tally.sum (cs.map (·.2))))
    | none => none'
  | 1 => match extreme md true vs with
    | (some v, t) => one v t
    | _ => none'
  | 2 => match extreme md false vs with
    | (some v, t) => one v t
    | _ => none'
  | 5 =>
    if vs.isEmpty then none'
    else
      let (m, s, lse, t) := rmaxRow md chunks
      (leBytes 4 (encodeVal 0 m) ++ leBytes 4 (encodeVal 0 s), { fc := 0, code := encodeVal 0 lse }, t0.join t)
  | o => match argExtreme (o == 3) vs with
    | some (v, c) => (leBytes 4 (encodeVal 0 v) ++ leBytes 4 c, { fc := 0, code := encodeVal 0 v }, t0)
    | none => none'

/-- A column result: groups of 64 rows folded row by row, then the groups in order (spec/04 R99). -/
def reduceCol (md : NumMode) (cfg : TapCfg) (sr : Option (Nat → Nat)) (free : Nat) (taps : List Val) :
    List Byte × Tally :=
  let f := tapFmt cfg
  let (vs, t0) := tapIn md taps
  match cfg.op with
  | 0 =>
    let gs := (chunksOf 64 vs).map fun g => foldSums md f none g
    let (v, t) := foldSums md f sr (gs.filterMap (·.1))
    (leBytes 8 (match v with
      | some v => encodeVal f v
      | none => free), (t0.join t).join (Tally.sum (gs.map (·.2))))
  | o =>
    let (v, t) := extreme md (o == 1) vs
    (leBytes 8 (match v with
      | some v => encodeVal f v
      | none => free), t0.join t)

end Sys2Proof.Machine
end

