-- ==== Sys2Proof/Machine/Vector.lean ====
section
/-! DEFINITION. ELEM and ROWRED (spec/04): streams (R83 to R86, R435), acceptance checks (R105), running rows and storing
their outputs (R85, R94, R101 to R103), and a fused program over one tile (R93). -/

namespace Sys2Proof.Machine

/-! ### Streams -/

/-- A stream table entry (spec/04 Table 4.1). -/
structure VStream where
  (addr scale pitch : Nat)
  fmt : OpFmt
  (mode : Nat)
  (scaled : Bool)
  (hist tensor margin : Nat)
  deriving DecidableEq, Repr

/-- spec/04 Table 4.1. -/
def parseStream (d : List Byte) : VStream :=
  let m := fieldAt d 21 1
  { addr := fieldAt d 0 8, scale := fieldAt d 8 8, pitch := fieldAt d 16 4, fmt := opFmt (fieldAt d 20 1),
    mode := natBits m 1 0, scaled := natBits m 2 2 = 1, hist := fieldAt d 22 2, tensor := fieldAt d 24 4,
    margin := fieldAt d 28 1 % 4 }

/-- Elements in one stored row of a stream, and how many rows it has (spec/04 R435). -/
def streamShape (x : VStream) (rows len : Nat) : Nat × Nat :=
  if x.mode = 1 then (if x.fmt.mx ∨ x.pitch ≠ 0 then (1, rows) else (rows, 1))
  else if x.mode = 2 then (len, 1) else (len, rows)

/-- Row pitch of a stream. -/
def streamPitch (x : VStream) (n : Nat) : Nat :=
  if x.pitch = 0 ∨ x.mode = 2 then rowBytesOf x.fmt.code x.fmt.mx n else x.pitch

/-- Bytes a stream spans, and bytes of its scales. -/
def streamSpan (x : VStream) (rows len : Nat) : Nat × Nat :=
  let (n, r) := streamShape x rows len
  ((r - 1) * streamPitch x n + rowBytesOf x.fmt.code x.fmt.mx n,
    if x.fmt.mx then r * ceilDiv n 32 else if x.scaled then ceilDiv rows 64 * ceilDiv len 64 else 0)

/-- The lane type of an input stream (spec/04 Table 4.2). -/
def streamLane (f : OpFmt) : Nat :=
  if f.mx then 0x0 else if isIntCode f.code then 0xB else if isFp f.code then f.code else 0x0

/-- A stored code as a lane: widened exactly, a NaN with its quiet bit, then the input rules of the mode (spec/04 R84), so
that an instruction finds a signalling NaN still signalling. An unsigned INT32 keeps its 32 bits (DESIGN CHOICE, log entry
120); an MX value beyond FP32 becomes what an overflow gives (log entry 94). -/
def laneIn (md : NumMode) (f : OpFmt) (scale code : Nat) : Lane :=
  let lt := streamLane f
  let v := if f.mx then mxVal f.code scale code else decodeVal f.code f.uns code
  if lt = 0xB then { fc := 0xB, code := wrapTo 32 (v.sig * (2 ^ v.ex.toNat : Nat)) }
  else
    let w := if lt ≠ f.code ∧ v.isFin then (convertVal .arith { strict := true, rmode := md.rmode } 0 false 0 v).val else v
    { fc := lt, code := encodeVal lt (flushIn md lt w) }

/-- Element `j` of stored row `r` of a stream. -/
def streamAt (s : State) (o : Op) (x : VStream) (rows len r j : Nat) : Except Need Lane := do
  let (n, _) := streamShape x rows len
  let w := fmtBits x.fmt.code
  let code ← opCode s o (x.addr + r * streamPitch x n) w j
  let sc ← if x.fmt.mx then opNat s o (x.scale + r * ceilDiv n 32 + j / 32) 1 else pure 0
  return laneIn o.mode x.fmt sc code

/-- The lanes of columns c0 to c0 + n − 1 in row r of a stream. -/
def streamRow (s : State) (o : Op) (x : VStream) (rows len r c0 n : Nat) : Except Need (List Lane) :=
  if x.mode = 1 then
    (if x.fmt.mx ∨ x.pitch ≠ 0 then streamAt s o x rows len r 0 else streamAt s o x rows len 0 r).map (List.replicate n)
  else collect (fun j => streamAt s o x rows len (if x.mode = 2 then 0 else r) (c0 + j)) (List.range n)

/-! ### Acceptance -/

/-- The shape a fused ELEM runs over: M, N, whether integer mode, whether its GEMM is a GEMM_SP. -/
structure FusedShape where
  (m n : Nat)
  (int sp : Bool)
  deriving DecidableEq, Repr

/-- Everything an ELEM or ROWRED runs from. -/
structure ElemPlan where
  prog1 : List VInstr
  prog2 : List VInstr
  streams : List (Option VStream)
  kcodes : List Nat
  kfmts : List Nat
  deriving DecidableEq, Repr

/-- The plan in the blocks an op names (spec/04 Tables 4.1, 4.12). -/
def elemPlan (s : State) (o : Op) (b : ElemBody) : ElemPlan :=
  let p := opRec s o b.prog 512
  let t := opRec s o b.stream 192
  let ins := fun (from0 n : Nat) => (List.range n).map fun i => parseInstr (fieldAt p (from0 + 4 * i) 4)
  { prog1 := ins 0 b.progLen, prog2 := ins 192 b.prog2Len,
    streams := (List.range 6).map fun i =>
      let x := parseStream ((t.drop (32 * i)).take 32)
      if absent x.addr then none else some x,
    kcodes := (List.range 8).map fun i => fieldAt p (384 + 8 * i) 8,
    kfmts := (List.range 8).map fun i => fieldAt p (448 + i) 1 }

/-- Stream i of a plan. -/
def ElemPlan.st (p : ElemPlan) (i : Nat) : Option VStream := (p.streams[i]?).getD none

/-- The types a pass can name; in pass 2 the slots of ROW channels of pass 1 hold results (spec/04 R102). -/
def passTypes (p : ElemPlan) (fused : Option FusedShape) (tap1 : Option Nat) : VTypes :=
  { streams := (p.streams.take 4).map fun x => x.map fun y => streamLane y.fmt,
    consts := (List.range 8).map fun k =>
      let own := (p.kfmts[k]?).bind fun f => if isVe f then some f else none
      match tap1 with
      | some w => if k ≥ 4 ∧ (tapCfg w (k - 4)).dir = 1 then some (tapFmt (tapCfg w (k - 4))) else own
      | none => own,
    acc := fused.map fun f => if f.int then 0xB else 0x0 }

/-- The streams' entries are right (spec/04 R83, R85, R86). -/
def streamsOk (p : ElemPlan) (fused : Option FusedShape) : Bool :=
  let inOk := fun (x : Option VStream) => match x with
    | none => true
    | some x => fmtByteOk x.fmt false && decide (x.fmt.code ≤ 0xD) && !x.scaled && x.mode != 3
  let outOk := fun (x : Option VStream) => match x with
    | none => true
    | some x => fmtByteOk x.fmt false && decide (x.fmt.code ≤ 0xD) && x.mode == 0 &&
        (!x.scaled || isNarrow x.fmt.code && !x.fmt.mx)
  let used := (p.streams.filter Option.isSome).length
  (p.streams.take 4).all inOk && (p.streams.drop 4).all outOk &&
    decide (used ≤ match fused with
      | some f => if f.sp then 1 else 2
      | none => 4)

/-- Programs and tap configurations are right (spec/04 R88, R89, R98). -/
def programsOk (p : ElemPlan) (b : ElemBody) (fused : Option FusedShape) : Bool :=
  let outs := [p.st 4, p.st 5].map fun x => x.map (·.fmt)
  let on := fun w n => (tapCfg w n).dir != 0
  (List.range 4).all (fun n => tapOk (tapCfg b.tapCfg n)) &&
  passOk (passTypes p fused none) outs (on b.tapCfg) p.prog1 && tapsOnce p.prog1 &&
  (b.prog2Len == 0 ||
    (List.range 4).all (fun n => tapOk (tapCfg b.tapCfg2 n)) &&
    passOk (passTypes p fused (some b.tapCfg)) outs (on b.tapCfg2) p.prog2 && tapsOnce p.prog2)

/-- Some channel of either pass has a direction. -/
def tapsUse (b : ElemBody) (dir : Nat → Bool) : Bool :=
  (List.range 4).any fun n => dir (tapCfg b.tapCfg n).dir || (b.prog2Len != 0 && dir (tapCfg b.tapCfg2 n).dir)

/-- Bytes of the results at ROWRES_ADDR (spec/04 R101). -/
def rowResBytes (b : ElemBody) : Nat :=
  if tapsUse b (· == 2) then (b.rows + b.rowLen) * 64 else if tapsUse b (· == 1) then b.rows * 64 else 0

/-! ### Issue (spec/04 R96, R97) -/

/-- Slots of an instruction for one chunk (spec/04 Table 4.5). -/
def VInstr.slots (i : VInstr) : Nat :=
  let n := if isMark i.opc then 0 else if 0x10 ≤ i.opc ∧ i.opc ≤ 0x20 then 4 else 1
  if i.fmt = 0xC then 2 * n else n

/-- Which instructions of a pass are row-invariant (spec/04 R97). -/
def rowInvariants (prog : List VInstr) : List Bool :=
  prog.foldl (fun acc i =>
    acc ++ [(usedSources i).all fun x =>
      (decide (52 ≤ x) && decide (x ≤ 59)) || x == 63 || (decide (x < 48) && (acc[x]?).getD false)]) []

/-- What a pass takes of vector issue, in clk: its instructions for a chunk, the streams of a chunk, and once for a row; and
whether it is packed, so that two chunks issue in the time of one. OUT and TAP ignore their FMT. -/
structure PassIssue where
  (work moved once : Nat)
  packed : Bool
  deriving DecidableEq, Repr

/-- The issue of a pass. -/
def passIssue (strict : Bool) (p : ElemPlan) (prog : List VInstr) : PassIssue :=
  let f := if strict then 2 else 1
  let xs := prog.zip (rowInvariants prog)
  let sum := fun (b : Bool) => ((xs.filter fun x => x.2 == b).map fun x => x.1.slots).sum * f
  { work := sum false, once := sum true,
    moved := (p.streams.filterMap id).foldl (fun m x => max m (ceilDiv (64 * fmtBits x.fmt.code) 512)) 0,
    packed := prog.all fun i => (isMark i.opc || i.fmt == 1 || i.fmt == 2) &&
      (usedSources i).all fun x => x != 60 && x != 61 && x != 62 }

/-- The bursts of a row of `chunks` chunks: size and count of each kind. -/
def rowIssue (p : PassIssue) (chunks : Nat) : List (Nat × Nat) :=
  if p.packed then [(max p.work (2 * p.moved), chunks / 2), (max p.work p.moved, chunks % 2), (p.once, 1)]
  else [(max p.work p.moved, chunks), (p.once, 1)]

/-- Ranges an ELEM or ROWRED reads (spec/08 R203). -/
def readsElem (s : State) (o : Op) (b : ElemBody) : List (Nat × Nat) :=
  let p := elemPlan s o b
  (b.prog, 512) :: (b.stream, 192) :: ((p.streams.take 4).filterMap id).flatMap fun x =>
    [(x.addr, (streamSpan x b.rows b.rowLen).1), (x.scale, (streamSpan x b.rows b.rowLen).2)]

/-- An output's ranges. -/
def elemOutputs (p : ElemPlan) (b : ElemBody) : List (Nat × Nat) :=
  ((p.streams.drop 4).filterMap id).flatMap fun x =>
    [(x.addr, (streamSpan x b.rows b.rowLen).1), (x.scale, (streamSpan x b.rows b.rowLen).2)]

/-- ELEM's and ROWRED's acceptance checks (spec/04 R105). `pass2` allows a second pass. -/
def checkElem (s : State) (o : Op) (b : ElemBody) (pass2 : Bool) (fused : Option FusedShape) : Option Status :=
  let shapeBad := b.progLen == 0 || decide (b.progLen > 48) || decide (b.prog2Len > 48) || (!pass2 && b.prog2Len != 0) ||
    b.rows == 0 || b.rowLen == 0 || decide (b.rowLen ≥ 2 ^ 31) || (fused.isNone && maskBad s b.mask) ||
    (match fused with
     | some f => b.rows != f.m || b.rowLen != f.n
     | none => false)
  if shapeBad then some .malformed
  else if !opRange s o b.prog 512 64 || !opRange s o b.stream 192 64 then some .outOfRange
  else
    let p := elemPlan s o b
    let hit := fun (x : Nat × Nat) => isLocal s x.1 && meetsView s (addrOff x.1) x.2
    let plain := fun (x : Nat × Nat) => x.2 == 0 || opRange s o x.1 x.2 1 && regionOf (addrOff x.1) != .hostWindow
    refuse
      [ (!streamsOk p fused || !programsOk p b fused, .malformed),
        (rowResBytes b != 0 && absent b.rowRes, .malformed),
        ((elemOutputs p b).any hit || hit (b.rowRes, rowResBytes b), .malformed),
        (!(((readsElem s o b).drop 2).all plain) || !((elemOutputs p b).all plain), .outOfRange),
        (rowResBytes b != 0 && !plain (b.rowRes, rowResBytes b), .outOfRange),
        (((p.streams.drop 4).filterMap id).any fun x => x.scaled && histBad s x.hist, .outOfRange) ]

/-! ### Running -/

/-- A constant as a lane under the input rules of the mode. -/
def constLane (md : NumMode) (p : ElemPlan) (k : Nat) : Lane :=
  let f := (p.kfmts[k]?).getD 0
  let c := (p.kcodes[k]?).getD 0 % 2 ^ fmtBits f
  if f = 0xB then { fc := f, code := c } else { fc := f, code := encodeVal f (flushIn md f (decodeVal f false c)) }

/-- The term key's random word of an element (spec/04 R94). -/
def elemWord (o : Op) (tensor lin term : Nat) : Nat := srWord (BitVec.ofNat 64 o.seed) tensor lin term

/-- One pass over the columns col0 to col0 + n − 1 of a row: each element's outcome, and the tally of the row-invariant
results, which count at the row's first chunk (spec/04 R97). -/
def runPass (o : Op) (b : ElemBody) (prog : List VInstr) (base row : Nat) (ks : List Lane) (rows : List (List Lane))
    (accs : List Lane) (col0 n : Nat) : List ElemOut × Tally :=
  let env := fun (j : Nat) =>
    let lin := row * b.rowLen + (col0 + j)
    ({ md := o.mode, word := elemWord o b.outTensor lin, base := base, row := row, col := col0 + j,
       streams := rows.map fun r => (r[j]?).getD { fc := 0, code := 0 }, consts := ks,
       acc := (accs[j]?).getD { fc := 0, code := 0 } } : ElemEnv)
  let first := { env 0 with word := elemWord o b.outTensor (row * b.rowLen) }
  let (given, t) := rowGiven first prog
  ((List.range n).map fun j => runElem (env j) given prog, if col0 = 0 then t else {})

/-- Lanes tapped into a channel over a row, ascending column. -/
def tapped (es : List ElemOut) (n : Nat) : List Lane :=
  es.flatMap fun e => (e.taps.filter fun t => t.1 == n).map (·.2)

/-- What a row, or a tile's part of one, writes to O0 or O1: for each OUT in order, a lane for each column. -/
def rowWrites (es : List ElemOut) (x : Nat) : List (List Lane) :=
  let per := es.map fun e => (e.outs.filter fun w => w.1 == x).map (·.2)
  (List.range ((per.head?.map List.length).getD 0)).map fun i => per.filterMap fun l => l[i]?

/-- SR words of a row or column sum: stochastic when the sum has more than 2^SR_ROW_LOG2 terms (spec/04 R99). -/
def sumWords (o : Op) (b : ElemBody) (cfg : TapCfg) (terms x p n : Nat) : Option (Nat → Nat) :=
  if cfg.op = 0 ∧ cfg.acc = 0 ∧ terms > 2 ^ o.srRowLog2 then
    some fun j => srWord (BitVec.ofNat 64 o.seed) b.outTensor (x * 8 + 4 * p + n) j
  else none

/-- The result of one ROW channel: the channel, its byte in the record, its bytes, the value left for a K slot, its tally. -/
structure RowResult where
  (chan at_ : Nat)
  bytes : List Byte
  lane : Lane
  tally : Tally

/-- The ROW results of a pass from the lanes tapped into each channel. -/
def rowResults (o : Op) (b : ElemBody) (w p row : Nat) (free : Nat → Nat) (taps : Nat → List Lane) : List RowResult :=
  (List.range 4).filterMap fun n =>
    let cfg := tapCfg w n
    if cfg.dir = 1 then
      let (bs, k, t) := reduceRow (ruMode o.mode false) cfg (sumWords o b cfg b.rowLen row p n)
        (free (8 * row + 4 * p + n)) ((taps n).map Lane.val)
      some { chan := n, at_ := 32 * p + 8 * n, bytes := bs, lane := k, tally := t }
    else none

/-- What one row gives, or one row of a tile. -/
structure RowOut where
  /-- Writes to O0 and O1, OUT by OUT. -/
  outs0 : List (List Lane)
  outs1 : List (List Lane)
  /-- What each element counts and flags. -/
  counts : List Tally
  /-- Tapped lanes by channel, one list for each pass. -/
  taps1 : List (List Lane)
  taps2 : List (List Lane)
  results : List RowResult := []
  /-- Of the row-invariant results. -/
  tally : Tally
  /-- RMAX met a row of all −Inf, so that pass 2 starts from lse = −Inf (spec/04 Table 4.13). -/
  dead : Bool := false

/-- Pass 1 of a row, or the one pass of a tile's row. -/
def rowPass1 (o : Op) (b : ElemBody) (p : ElemPlan) (row : Nat) (lanes : List (List Lane)) (accs : List Lane)
    (col0 n : Nat) : RowOut :=
  let (es, t) := runPass o b p.prog1 0 row ((List.range 8).map (constLane o.mode p)) lanes accs col0 n
  { outs0 := rowWrites es 0, outs1 := rowWrites es 1, counts := es.map (·.tally),
    taps1 := (List.range 4).map (tapped es), taps2 := [], tally := t }

/-- An RMAX channel of a pass saw a whole row of −Inf. -/
def deadRow (w : Nat) (taps : Nat → List Lane) : Bool :=
  (List.range 4).any fun n =>
    (tapCfg w n).dir == 1 && (tapCfg w n).op == 5 && !(taps n).isEmpty && (taps n).all fun l => l.val == .inf true

/-- Pass 1 of a whole row with its ROW results (spec/04 R101). -/
def rowFirst (o : Op) (b : ElemBody) (p : ElemPlan) (row : Nat) (lanes : List (List Lane)) (free : Nat → Nat) : RowOut :=
  let r := rowPass1 o b p row lanes [] 0 b.rowLen
  let at_ := fun (n : Nat) => (r.taps1[n]?).getD []
  { r with results := rowResults o b b.tapCfg 0 row free at_, dead := deadRow b.tapCfg at_ }

/-- Pass 2 of a row after its pass 1: K4 to K7 hold the results of pass 1's ROW channels (spec/04 R102). -/
def rowSecond (o : Op) (b : ElemBody) (p : ElemPlan) (row : Nat) (r : RowOut) (lanes : List (List Lane))
    (free : Nat → Nat) : RowOut :=
  let ks := r.results.foldl (fun l x => replaceAt l (4 + x.chan) x.lane) ((List.range 8).map (constLane o.mode p))
  let (es, t) := runPass o b p.prog2 48 row ks lanes [] 0 b.rowLen
  { outs0 := r.outs0 ++ rowWrites es 0, outs1 := r.outs1 ++ rowWrites es 1,
    counts := (r.counts.zip es).map fun x => x.1.join x.2.tally, taps1 := r.taps1,
    taps2 := (List.range 4).map (tapped es),
    results := r.results ++ rowResults o b b.tapCfg2 1 row free (tapped es), tally := r.tally.join t, dead := r.dead }

/-- A value written to a stream: the store's own outcome, else the note of the rounding that made it
(spec/02 R44, R46, spec/10 R257). -/
def noteOut (x : Lane) (r : Rounded) : Rounded :=
  match r.note, x.note with
  | .plain, .flushed => if r.val.isZero then { r with note := .flushed } else r
  | .plain, .saturated => { r with note := .saturated }
  | _, _ => r

/-- What one stream stores from a block of rows: its writes, each store's outcome by OUT, row and column, and its regions
when it is scaled: row group and column group of 64 within the block, and what was emitted. -/
structure StreamOut where
  writes : List (Nat × List Byte) := []
  outs : List (List (List Rounded)) := []
  regions : List (Nat × Nat × Emitted) := []

/-- A lane's value as a store takes it: in fast mode the E8M0 code 0x00 is +0 in a format of 8 bits or narrower, whatever RMODE says
(spec/02 R55). -/
def storeVal (md : NumMode) (f : OpFmt) (l : Lane) : Val :=
  if !md.strict && !f.mx && l.fc == 0xD && l.code % 256 == 0 && isNarrow f.code then .zero false else l.val

/-- One row of an unscaled stream stored, columns col0 on (spec/04 R85, R94). An FP64 lane of an MX row narrows to FP32
first (spec/02 R37), both roundings by the word of the store (DESIGN CHOICE, log entry 121). -/
def storeLine (o : Op) (b : ElemBody) (x : VStream) (tensor row col0 : Nat) (ls : List Lane) :
    List (Nat × List Byte) × List Rounded :=
  let word := fun j => if o.mode.rmode = 4 then elemWord o tensor (row * b.rowLen + col0 + j) 0xFFFFFFFF else 0
  let vs := ls.mapIdx fun j (l : Lane) =>
    if x.fmt.mx ∧ l.fc = 0xC then noteOut l (convertVal .store o.mode 0 false (word j) l.val)
    else ({ val := storeVal o.mode x.fmt l, note := l.note } : Rounded)
  let (bs, sc, outs) := storeRow o.mode x.fmt word (vs.map (·.val))
  ((x.addr + row * streamPitch x b.rowLen + col0 * fmtBits x.fmt.code / 8, bs) ::
      (if x.fmt.mx then [(x.scale + row * ceilDiv b.rowLen 32 + col0 / 32, sc)] else []),
    (outs.zip vs).map fun p =>
      noteOut { fc := 0, code := 0, note := p.2.note } { p.1 with tally := p.2.tally.join p.1.tally })

/-- The part of a block in one region of 64 × 64. -/
def regionPart {α : Type} (rows : List (List α)) (q c : Nat) : List (List α) :=
  ((rows.drop (64 * q)).take 64).map fun r => (r.drop (64 * c)).take 64

/-- A stream's stores from a block: `layers` holds the lanes by OUT, row and column; row0 and col0, multiples of 64, place
the block. A scaled stream has one scale for each region, whose every write counts in its emission (spec/04 R85). -/
def storeStream (s : State) (o : Op) (b : ElemBody) (x : VStream) (tensor row0 col0 : Nat)
    (layers : List (List (List Lane))) : StreamOut :=
  if x.scaled then
    match layers.getLast? with
    | none => {}
    | some last =>
      let cols := ceilDiv ((last.head?.map List.length).getD 0) 64
      let hist := histFor s o x.hist
      let regions := (List.range (ceilDiv last.length 64)).flatMap fun q => (List.range cols).map fun c =>
        let els := layers.flatMap fun rows => ((regionPart rows q c).mapIdx fun i row => row.mapIdx fun j (l : Lane) =>
          (l.val, if o.mode.rmode = 4 then
            elemWord o tensor ((row0 + 64 * q + i) * b.rowLen + (col0 + 64 * c + j)) 0xFFFFFFFF else 0)).flatten
        (q, c, emitScaled o.mode x.fmt.code hist x.margin els)
      -- the codes and outcomes of write k of row i, from the regions of its group
      let line := fun (k i : Nat) => (regions.filter fun r => r.1 == i / 64).flatMap fun (_, c, e) =>
        let h := min 64 (last.length - i / 64 * 64)
        let w := min 64 (((last.head?.map List.length).getD 0) - 64 * c)
        (e.outs.drop ((k * h + i % 64) * w)).take w
      let outs := layers.mapIdx fun k rows => rows.mapIdx fun i row =>
        ((line k i).zip row).map fun p => noteOut p.2 p.1.2
      { writes := (last.mapIdx fun i _ => (x.addr + (row0 + i) * streamPitch x b.rowLen + col0 * fmtBits x.fmt.code / 8,
            packRow x.fmt.code false ((line (layers.length - 1) i).map (·.1)))) ++
          regions.map fun (q, c, e) =>
            (x.scale + (row0 / 64 + q) * ceilDiv b.rowLen 64 + (col0 / 64 + c), leBytes 1 e.scale),
        outs := outs, regions := regions }
  else
    let ls := layers.map fun rows => rows.mapIdx fun i row => storeLine o b x tensor (row0 + i) col0 row
    { writes := ls.flatMap fun rows => rows.flatMap (·.1), outs := ls.map fun rows => rows.map (·.2) }

/-- What storing a block comes to. -/
structure Stored where
  writes : List (Nat × List Byte) := []
  bins : List Nat := []
  tally : Tally := {}
  /-- Saturations of discarded runs. -/
  disc : Nat := 0
  /-- Regions run again. -/
  again : Nat := 0
  /-- Contributions to the layer record. -/
  parts : Nat := 0
  /-- Largest exponents that O0 and O1 stored scaled. -/
  amax0 : Option Int := none
  amax1 : Option Int := none

/-- The larger of two exponents. -/
def maxExp (a b : Option Int) : Option Int :=
  match a, b with
  | some x, some y => some (max x y)
  | some x, none => some x
  | none, y => y

/-- What a run of a region that is thrown away leaves: its saturations and flags, of the program and of every store to
either stream, those of a stream that fitted counted once more (spec/02 Table 2.14, spec/03 R69, R70, spec/04 R85;
log entry 122). -/
def lostRun (counts : List (List Tally)) (xs : List StreamOut) (q c : Nat) : Tally :=
  let stores := xs.map fun x =>
    match x.regions.find? fun r => r.1 == q && r.2.1 == c && r.2.2.again with
    | some r => r.2.2.discard
    | none => tallyOf ((x.outs.flatMap fun rows => regionPart rows q c).flatten)
  { Tally.sum ((regionPart counts q c).flatten ++ stores) with nonfin := 0 }

/-- Everything a block of rows stores: a region with an overflow in either scaled stream runs again once
(spec/04 R85, R93). -/
def storeBlock (s : State) (o : Op) (b : ElemBody) (p : ElemPlan) (tile : Bool) (row0 col0 : Nat) (rows : List RowOut) :
    Stored :=
  let layersOf := fun (get : RowOut → List (List Lane)) =>
    (List.range ((rows.head?.map fun r => (get r).length).getD 0)).map fun k => rows.map fun r => ((get r)[k]?).getD []
  let one := fun (x : Option VStream) (tensor : Nat) (get : RowOut → List (List Lane)) =>
    match x with
    | none => ({} : StreamOut)
    | some x => storeStream s o b x tensor row0 col0 (layersOf get)
  let x0 := one (p.st 4) b.outTensor (·.outs0)
  let x1 := one (p.st 5) (((p.st 5).map fun (x : VStream) => x.tensor).getD 0) (·.outs1)
  let counts := rows.map (·.counts)
  let lost := ((x0.regions ++ x1.regions).filterMap fun r => if r.2.2.again then some (r.1, r.2.1) else none).eraseDups.map
    fun r => lostRun counts [x0, x1] r.1 r.2
  let outs := (x0.outs ++ x1.outs).flatMap fun l => l.flatten
  let dead := ((x0.outs ++ x1.outs).flatMap fun l => (l.zip rows).flatMap fun y => if y.2.dead then y.1 else []).filter
    fun r => r.val.isNaN && r.tally.nonfin == 0
  let parts := fun (x : StreamOut) => if x.outs.isEmpty then 0 else if tile then 1
    else if x.regions.isEmpty then rows.length else x.regions.length
  let amax := fun (x : StreamOut) => x.regions.foldl (fun a r => maxExp a r.2.2.amax) none
  { writes := x0.writes ++ x1.writes, bins := binsOf outs,
    tally := Tally.sum ([tallyOf outs, { nonfin := dead.length }] ++ counts.flatten ++ lost ++ rows.map (·.tally)),
    disc := (lost.map (·.sat)).sum, again := lost.length, parts := parts x0 + parts x1, amax0 := amax x0, amax1 := amax x1 }

/-- Column results over all rows: address offset from ROWRES_ADDR and bytes, and the tally (spec/04 R99, R101). -/
def colResults (o : Op) (b : ElemBody) (free : Nat → Nat) (rows : List RowOut) : List (Nat × List Byte) × Tally :=
  let one := fun (w p n c : Nat) (get : RowOut → List (List Lane)) => (show Nat × List Byte × Tally from
    let cfg := tapCfg w n
    let vs := rows.filterMap fun r => (((get r)[n]?).bind fun l => l[c]?).map Lane.val
    let x := b.rows + c
    let (bs, t) := reduceCol (ruMode o.mode false) cfg (sumWords o b cfg b.rows x p n) (free (8 * x + 4 * p + n)) vs
    (x * 64 + 32 * p + 8 * n, bs, t))
  let rs := (List.range 4).flatMap fun n => (List.range b.rowLen).flatMap fun c =>
    (if (tapCfg b.tapCfg n).dir = 2 then [one b.tapCfg 0 n c fun r => r.taps1] else []) ++
    (if b.prog2Len ≠ 0 ∧ (tapCfg b.tapCfg2 n).dir = 2 then [one b.tapCfg2 1 n c fun r => r.taps2] else [])
  (rs.map fun x => (x.1, x.2.1), Tally.sum (rs.map fun x => x.2.2))

/-- What goes to ROWRES_ADDR for one row. -/
def recordWrites (b : ElemBody) (row : Nat) (rs : List RowResult) : List (Nat × List Byte) :=
  rs.map fun x => (b.rowRes + row * 64 + x.at_, x.bytes)

/-- Everything that goes to ROWRES_ADDR, and its tally. -/
def allResults (o : Op) (b : ElemBody) (free : Nat → Nat) (rows : List RowOut) : List (Nat × List Byte) × Tally :=
  let (cols, ct) := colResults o b free rows
  ((rows.mapIdx fun i r => recordWrites b i r.results).flatten ++ cols.map fun x => (b.rowRes + x.1, x.2),
    ct.join (Tally.sum (rows.flatMap fun r => r.results.map (·.tally))))

/-- The history of a scaled output takes the op's largest exponent (spec/03 R69). -/
def enterHistory (s : State) (o : Op) (p : ElemPlan) (i : Nat) (amax : Option Int) : Wrote :=
  match p.st i, amax with
  | some x, some e => if x.scaled then histEnter s o x.hist e else .done s
  | _, _ => .done s

/-- Counts of a stored block added to its op, and its bins to the layer record; `ops` is 1 with the op's last. -/
def blockCounts (s : State) (o : Op) (b : ElemBody) (st : Stored) (t : Tally) (ops : Nat) : State :=
  let s := opTally s o.id ((st.tally.join t).inMode o.mode.strict)
  let s := opUpdate s o.id fun x => { x with c1 := min 0xFFFFFFFF (x.c1 + st.again) }
  if natBits b.flags 7 7 = 1 then addBins s (o.step.getD 0) b.layer st.bins st.disc ops st.parts else s

/-- An ELEM's or ROWRED's last writes, with the histories of its scaled outputs after them. -/
def elemWrites (s : State) (o : Op) (p : ElemPlan) (ws : List (Nat × List Byte)) (amax0 amax1 : Option Int) : Wrote :=
  opWritesThen s o ws fun s =>
    match enterHistory s o p 4 amax0 with
    | .done s => enterHistory s o p 5 amax1
    | w => w

/-- Stores, counts, bins and history of a finished ELEM or ROWRED. -/
def finishElem (s : State) (o : Op) (b : ElemBody) (p : ElemPlan) (rows : List RowOut) (free : Nat → Nat) : State :=
  let st := storeBlock s o b p false 0 0 rows
  let (res, t) := allResults o b free rows
  match elemWrites s o p (st.writes ++ res) st.amax0 st.amax1 with
  | .done s => opDone (blockCounts s o b st t 1) o.id .ok
  | .wait room => awaitWrite s o.id room
  | .limit s => opLimit s o

/-- The lanes of columns c0 to c0 + n − 1 in row r of every input stream; an unused stream has none. -/
def inputLanes (s : State) (o : Op) (b : ElemBody) (p : ElemPlan) (r c0 n : Nat) : Except Need (List (List Lane)) :=
  collect (fun i => match p.st i with
    | none => .ok []
    | some x => streamRow s o x b.rows b.rowLen r c0 n) (List.range 4)

/-- What pass 2 of a row finds when it reads the streams again: pass 1's own stores to unscaled streams and its record are
written (spec/04 R102; log entry 123). -/
def afterPass1 (s : State) (o : Op) (b : ElemBody) (p : ElemPlan) (row : Nat) (r : RowOut) : State :=
  let of := fun (x : Option VStream) (tensor : Nat) (ls : List (List Lane)) =>
    match x with
    | some x => if x.scaled then [] else ls.flatMap fun l => (storeLine o b x tensor row 0 l).1
    | none => []
  let ws := of (p.st 4) b.outTensor r.outs0 ++ of (p.st 5) (((p.st 5).map fun (x : VStream) => x.tensor).getD 0) r.outs1 ++
    recordWrites b row r.results
  match opWrites s o ws with
  | .done s => s
  | _ => s

/-- One row of an ELEM or ROWRED that is not fused: pass 1 and, where there is one, pass 2, which reads the streams
again (spec/04 R102). -/
def elemRow (s : State) (o : Op) (b : ElemBody) (p : ElemPlan) (free : Nat → Nat) (r : Nat) : Except Need RowOut := do
  let lanes ← inputLanes s o b p r 0 b.rowLen
  let x := rowFirst o b p r lanes free
  if p.prog2.isEmpty then return x
  else
    let again ← inputLanes (afterPass1 s o b p r x) o b p r 0 b.rowLen
    return rowSecond o b p r x again free

/-- Free values for the channels of an op that nothing taps, from the state's draws on. -/
def tapFree (s : State) (k : Nat) : Nat := Config.freeNat (s.draws + k)

/-- ELEM's and ROWRED's work when not fused; a fused one runs with its GEMM's tiles (spec/04 R93). -/
def runElemOp (s : State) (o : Op) (b : ElemBody) : State :=
  match o.work with
  | .fused _ _ => s
  | _ =>
    let p := elemPlan s o b
    match collect (elemRow s o b p (tapFree s)) (List.range b.rows) with
    | .error n => opNeed s o.id n
    | .ok rows => finishElem { s with draws := s.draws + 8 * (b.rows + b.rowLen) + 8 } o b p rows (tapFree s)

/-! ### A fused program (spec/04 R93, spec/03 R70, R71) -/

/-- Source 60 is named. -/
def namesAcc (prog : List VInstr) : Bool := prog.any fun i => (usedSources i).contains 60

/-- An accumulator entry as source 60 reads it: FP32 under the input rules of the ELEM's mode, or limited to INT32,
which counts as a saturation and raises invalid (spec/04 R93, spec/02 R44). -/
def accLane (md : NumMode) (a : Acc) : Lane × Tally :=
  match a with
  | .int i =>
    let (c, x) := convertCode .store md 0xB false 0 (Val.ofSig false i 0)
    ({ fc := 0xB, code := c, note := x.note }, x.tally)
  | .flushed n => ({ fc := 0, code := encodeVal 0 (.zero n), note := .flushed }, {})
  | .fin v => ({ fc := 0, code := encodeVal 0 (flushIn md 0 v) }, {})
  | .inf n => ({ fc := 0, code := encodeVal 0 (.inf n) }, {})
  | .nan v => ({ fc := 0, code := encodeVal 0 v }, {})

/-- The rows of one tile through the program: rows r0 on, columns c0 on; `acc` holds the entries row by row. Only a
program that names source 60 meets, and counts, limited entries. -/
def tileRows (s : State) (o : Op) (b : ElemBody) (p : ElemPlan) (r0 nr c0 nc : Nat) (acc : List Acc) :
    Except Need (List RowOut) :=
  collect (fun i => do
    let lanes ← inputLanes s o b p (r0 + i) c0 nc
    let es := ((acc.drop (i * nc)).take nc).map (accLane o.mode)
    let r := rowPass1 o b p (r0 + i) lanes (es.map (·.1)) c0 nc
    return if namesAcc p.prog1 then { r with counts := (r.counts.zip es).map fun x => x.1.join x.2.2 } else r)
    (List.range nr)

/-- What a tile leaves for the reductions over whole rows and columns. -/
def fusedTile (tile : Nat) (st : Stored) (rows : List RowOut) : FusedTile :=
  { tile := tile, amax0 := st.amax0, amax1 := st.amax1,
    taps := rows.map fun r => r.taps1.map fun l => l.map fun x => (x.fc, x.code) }

/-- The rows of the whole op from what its tiles left, `cols` tiles to a row, with their ROW results (spec/04 R99). -/
def fusedRows (o : Op) (b : ElemBody) (cols : Nat) (tiles : List FusedTile) (free : Nat → Nat) : List RowOut :=
  (List.range b.rows).map fun r =>
    let taps := (List.range 4).map fun n => (List.range cols).flatMap fun c =>
      match tiles.find? fun t => t.tile == r / 64 * cols + c with
      | some t => ((((t.taps[r % 64]?).getD [])[n]?).getD []).map fun x => ({ fc := x.1, code := x.2 } : Lane)
      | none => []
    { outs0 := [], outs1 := [], counts := [], taps1 := taps, taps2 := [], tally := {},
      results := rowResults o b b.tapCfg 0 r free fun n => (taps[n]?).getD [] }

/-- What a fused program does with a tile. -/
inductive Fused where
  /-- The tile stays in its buffer: a read or a write waits, in this state. -/
  | wait (s : State)
  | done (s : State)

/-- The program of ELEM `o` over one tile of its GEMM, whose buffer it reads; with the last tile, the results of whole rows
and columns and the op's end. Taps count only now, so a tile that runs again counts once (spec/04 R93). -/
def runTile (s : State) (o : Op) (b : ElemBody) (gemm : Nat) (tiles : List FusedTile) (cols : Nat) (last : Bool)
    (tile r0 nr c0 nc : Nat) (acc : List Acc) : Fused :=
  let p := elemPlan s o b
  match tileRows s o b p r0 nr c0 nc acc with
  | .error n =>
    let s := opNeed s o.id n
    match n with
    | .host _ => .wait s
    | _ => .done s
  | .ok rows =>
    let st := storeBlock s o b p true r0 c0 rows
    let ts := tiles ++ [fusedTile tile st rows]
    let (res, t) := if last then allResults o b (tapFree s) (fusedRows o b cols ts (tapFree s)) else ([], {})
    let exp := fun (get : FusedTile → Option Int) => if last then ts.foldl (fun a t => maxExp a (get t)) none else none
    match elemWrites s o p (st.writes ++ res) (exp (·.amax0)) (exp (·.amax1)) with
    | .wait room => .wait (awaitWrite s o.id room)
    | .limit s => .done (opLimit s o)
    | .done s =>
      let s := blockCounts s o b st t (b2n last)
      if last then .done (opDone { s with draws := s.draws + 8 * (b.rows + b.rowLen) + 8 } o.id .ok)
      else .done (opUpdate s o.id fun x => { x with work := .fused gemm ts })

end Sys2Proof.Machine
end

