-- ==== Sys2Proof/Machine/Matrix.lean ====
section
/-! DEFINITION. GEMM, GEMM_SP and GEMM_TALL (spec/03) with expansion (spec/02 R39 to R41), 2:4 weights (spec/05 R106 to
R108) and activation skipping with its planner (spec/05 R114 to R120): acceptance checks, tiles and slices (spec/08 R189 to
R196), one tile's accumulators, and its output. -/

namespace Sys2Proof.Machine

/-! ### Operands and paths -/

/-- Which of the three ops. -/
inductive GemmKind where
  | dense | sparse | tall
  deriving DecidableEq, Repr

/-- Block accumulation (spec/03 Table 3.1). -/
inductive GemmPath where
  | narrow | int | wide | tall
  deriving DecidableEq, Repr

/-- A plain, signed, unexpanded format. -/
def plainFmt (f : OpFmt) : Bool := !f.mx && !f.uns && f.expand == 0

/-- The path and clk per K-block of a pair (spec/03 Tables 3.1, 3.2); `slices` is s of GEMM_TALL (R76). -/
def gemmPath (kind : GemmKind) (slices : Nat) (a b : OpFmt) : Option (GemmPath × Nat) :=
  let half := fun (f : OpFmt) => (f.code == 1 || f.code == 2) && plainFmt f
  let int := fun (f : OpFmt) => (f.code == 8 || f.code == 9) && !f.mx
  if kind = .tall then
    (if a.code = 0xC ∧ b.code = 0xC ∧ plainFmt a ∧ plainFmt b then some (.tall, 16 * slices * (slices + 1)) else none)
  else if b.expand ≠ 0 then (if half a then some (.wide, 64) else none)
  else if (a.code = 8 ∧ a.mx) ∨ (b.code = 8 ∧ b.mx) then
    (if a.code = 8 ∧ b.code = 8 ∧ a.mx ∧ b.mx then some (.narrow, 32) else none)
  else if isNarrow a.code && isNarrow b.code then some (.narrow, if a.code = 7 ∧ b.code = 7 then 16 else 32)
  else if int a && int b then some (.int, if a.code = 9 ∧ b.code = 9 then 16 else 32)
  else if half a && half b then some (.wide, 64)
  else if a.code = 0 ∧ b.code = 0 then some (.wide, 256)
  else none

/-- D's format suits the path (spec/03 R434); a quantiser code is plain (spec/09 Table 9.1). -/
def dstOk (p : GemmPath) (d : OpFmt) (scaled : Bool) : Bool :=
  let grad := (d.code == 0xE || d.code == 0xF) && plainFmt d
  match p with
  | .tall => d.code == 0xC && !d.mx && !scaled
  | .int => (d.code == 0xB || d.code == 8 || decide (d.code ≤ 7)) && !d.mx && !scaled
  | _ => grad || (decide (d.code ≤ 8))

/-- The auxiliary block (spec/03 Table 3.9). -/
structure GemmAux where
  (aScale bScale bExp c dScale md lda ldb ldc ldd cFmt hist : Nat)
  deriving DecidableEq, Repr

/-- spec/03 Table 3.9; without a block every address is absent and pitches are packed. -/
def gemmAux (s : State) (o : Op) (b : GemmBody) : GemmAux :=
  if absent b.aux then
    let x := 2 ^ 64 - 1
    { aScale := x, bScale := x, bExp := x, c := x, dScale := x, md := x, lda := 0, ldb := 0, ldc := 0, ldd := 0, cFmt := 0,
      hist := 0 }
  else
    let d := opRec s o b.aux 64
    { aScale := fieldAt d 0 8, bScale := fieldAt d 8 8, bExp := fieldAt d 16 8, c := fieldAt d 24 8,
      dScale := fieldAt d 32 8, md := fieldAt d 40 8, lda := fieldAt d 48 3, ldb := fieldAt d 51 3, ldc := fieldAt d 54 3,
      ldd := fieldAt d 57 3, cFmt := fieldAt d 60 1, hist := fieldAt d 62 2 }

/-- All that a GEMM's tiles need. -/
structure Gemm where
  kind : GemmKind
  b : GemmBody
  x : GemmAux
  (fa fb fd fc : OpFmt)
  (ta tb td scaled hist fuse skip strictMd : Bool)
  path : GemmPath
  /-- clk per K-block, fast mode. -/
  clk : Nat

/-- s of GEMM_TALL: 0 means 6 (spec/03 Table 3.7). -/
def tallSlices (b : GemmBody) : Nat := if b.slices = 0 then 6 else b.slices

/-- The op's geometry; a pair outside Table 3.1 reads as wide and is refused by `checkGemm`. -/
def gemmOf (s : State) (o : Op) (kind : GemmKind) (b : GemmBody) : Gemm :=
  let x := gemmAux s o b
  let p := (gemmPath kind (tallSlices b) (opFmt b.aFmt) (opFmt b.bFmt)).getD (.wide, 64)
  { kind := kind, b := b, x := x, fa := opFmt b.aFmt, fb := opFmt b.bFmt, fd := opFmt b.dFmt, fc := opFmt x.cFmt,
    ta := natBits b.flags 0 0 = 1, tb := natBits b.flags 1 1 = 1, td := natBits b.flags 2 2 = 1,
    scaled := natBits b.flags 3 3 = 1, skip := natBits b.flags 4 4 = 1, strictMd := natBits b.flags 5 5 = 1,
    hist := natBits b.flags 6 6 = 1, fuse := natBits b.flags 7 7 = 1, path := p.1,
    clk := (if o.mode.strict then 8 else 1) * p.2 / (if kind = .sparse then 2 else 1) }

/-- D goes to the reduction quantiser: a weight-gradient op (spec/08 R189). -/
def Gemm.grad (g : Gemm) : Bool := !g.fuse && (g.fd.code == 0xE || g.fd.code == 0xF)
/-- C is there. -/
def Gemm.hasC (g : Gemm) : Bool := !absent g.x.c
/-- Blocks of 32 along K. -/
def Gemm.blocks (g : Gemm) : Nat := ceilDiv g.b.k 32
/-- Tiles along N. -/
def Gemm.cols (g : Gemm) : Nat := ceilDiv g.b.n 64
/-- Tiles of the op. -/
def Gemm.tiles (g : Gemm) : Nat := ceilDiv g.b.m 64 * g.cols

/-- Pitch of lines of `n` elements (spec/03 Table 3.9). -/
def gemmPitch (ld n : Nat) (f : OpFmt) : Nat := if ld = 0 then roundUp (rowBytesOf f.code f.mx n) 64 else 64 * ld

/-- Lines and elements per line, and pitch, of A. -/
def Gemm.aShape (g : Gemm) : Nat × Nat × Nat :=
  let (r, n) := if g.ta then (g.b.k, g.b.m) else (g.b.m, g.b.k)
  (r, n, gemmPitch g.x.lda n g.fa)
/-- The format by which B's lines are packed: the stored values of a 2:4 column fill no blocks (spec/05 R106, spec/02 R28). -/
def Gemm.bLine (g : Gemm) : OpFmt := if g.kind = .sparse then { g.fb with mx := false } else g.fb
/-- Lines and elements per line, and pitch, of B; a 2:4 column stores two values for each group (spec/05 R106). -/
def Gemm.bShape (g : Gemm) : Nat × Nat × Nat :=
  let (r, n) := if g.kind = .sparse then (g.b.n, ceilDiv g.b.k 4 * 2) else if g.tb then (g.b.k, g.b.n) else (g.b.n, g.b.k)
  (r, n, gemmPitch g.x.ldb n g.bLine)
/-- Lines and elements per line, and pitch, of D. -/
def Gemm.dShape (g : Gemm) : Nat × Nat × Nat :=
  let (r, n) := if g.td then (g.b.n, g.b.m) else (g.b.m, g.b.n)
  (r, n, gemmPitch g.x.ldd n g.fd)
/-- Pitch of C, in D's orientation. -/
def Gemm.cPitch (g : Gemm) : Nat := gemmPitch g.x.ldc g.dShape.2.1 g.fc

/-- Bytes that lines span. -/
def spanOf (shape : Nat × Nat × Nat) (f : OpFmt) : Nat := (shape.1 - 1) * shape.2.2 + rowBytesOf f.code f.mx shape.2.1

/-- Ranges of A, B and their arrays. -/
def Gemm.inputs (g : Gemm) : List (Nat × Nat) :=
  [(g.b.a, spanOf g.aShape g.fa), (g.b.b, spanOf g.bShape g.bLine)] ++
  (if g.fa.mx then [(g.x.aScale, g.b.m * g.blocks)] else []) ++ (if g.fb.mx then [(g.x.bScale, g.b.n * g.blocks)] else []) ++
  (if g.fb.expand = 1 then [(g.x.bExp, 32 * ceilDiv g.b.n 128)] else if g.fb.expand = 2 then [(g.x.bExp, 4 * g.b.n * g.blocks)]
   else []) ++
  (if g.kind = .sparse then [(g.x.md, g.b.n * mapPitch g.b.k)] else [])

/-- Ranges of the scale arrays of A and B. -/
def Gemm.scaleInputs (g : Gemm) : List (Nat × Nat) :=
  (if g.fa.mx then [(g.x.aScale, g.b.m * g.blocks)] else []) ++ (if g.fb.mx then [(g.x.bScale, g.b.n * g.blocks)] else [])

/-- The range of C. -/
def Gemm.cRange (g : Gemm) : List (Nat × Nat) :=
  if g.hasC then [(g.x.c, (g.dShape.1 - 1) * g.cPitch + rowBytesOf g.fc.code false g.dShape.2.1)] else []

/-- Ranges of D and of its scales: none when the accumulators go elsewhere. -/
def Gemm.outputs (g : Gemm) : List (Nat × Nat) :=
  if g.fuse || g.grad then []
  else (g.b.d, spanOf g.dShape g.fd) ::
    ((if g.fd.mx then [(g.x.dScale, g.dShape.1 * ceilDiv g.dShape.2.1 32)] else []) ++
     (if g.scaled then [(g.x.dScale, g.tiles)] else []))

/-- Ranges a GEMM reads (spec/08 R203). -/
def readsGemm (s : State) (o : Op) (kind : GemmKind) (b : GemmBody) : List (Nat × Nat) :=
  let g := gemmOf s o kind b
  (if absent b.aux then [] else [(b.aux, 64)]) ++ g.inputs ++ g.cRange

/-- Lines of bytes in memory: where the first starts, how many, their pitch and the bytes of each. -/
structure Strips where
  (base lines pitch len : Nat)
  deriving DecidableEq, Repr

/-- A range as one line. -/
def stripOf (x : Nat × Nat) : Strips := { base := x.1, lines := 1, pitch := 0, len := x.2 }

/-- The lines of an operand. -/
def stripsOf (a : Nat) (shape : Nat × Nat × Nat) (f : OpFmt) : Strips :=
  { base := a, lines := shape.1, pitch := shape.2.2, len := rowBytesOf f.code f.mx shape.2.1 }

/-- Some byte lies in a line of both, on this device: bytes between the lines of a pitched operand are not its own, and a
remote operand meets nothing here (spec/03 Table 3.10). For each line of `x`, the first line of `y` that ends beyond its
start decides. -/
def meets (s : State) (x y : Strips) : Bool :=
  isLocal s x.base && isLocal s y.base && decide (x.len ≠ 0) && decide (y.len ≠ 0) &&
    (List.range x.lines).any fun i =>
      let lo := addrOff x.base + i * x.pitch
      let z := addrOff y.base
      let j := if lo < z + y.len then 0 else (lo - (z + y.len)) / y.pitch + 1
      decide (j < y.lines) && decide (z + j * y.pitch < lo + x.len) && decide (lo < z + j * y.pitch + y.len)

/-- The lines of A and B. -/
def Gemm.inStrips (g : Gemm) : List Strips := [stripsOf g.b.a g.aShape g.fa, stripsOf g.b.b g.bShape g.bLine]

/-- Group element of output (m, n) from ELEM_OFFSET (spec/09 R229). -/
def Gemm.elemOf (g : Gemm) (m n : Nat) : Nat :=
  (if absent g.x.dScale then 0 else g.x.dScale % 2 ^ 32) + (if g.td then n * g.b.m + m else m * g.b.n + n)

/-- A planning op's entry (spec/05 R115). -/
def planOf (s : State) (b : GemmBody) : Option Nat :=
  let a := lanBase + regBits s 0x1000040 30 6 * 64 + 64 * b.layer
  if natBits b.flags 4 4 = 1 ∧ regBits s 0x1000044 0 0 = 1 ∧ memNat s (a + 28) 1 % 2 = 1 then some a else none

/-- The summary buffer that a planning op's tiles are observed into: not CUR (spec/05 R116). -/
def otherBuffer (s : State) (plan : Nat) : Nat := memNat s (plan + 8 * (1 - natBits (memNat s (plan + 28) 1) 1 1)) 8

/-- Where a planning op's observed summary goes: none for another (spec/05 R116). -/
def summaryRange (s : State) (b : GemmBody) : List (Nat × Nat) :=
  match planOf s b with
  | some a => [(otherBuffer s a, min (memNat s (a + 24) 4) (ceilDiv b.m 64 * mapPitch b.k))]
  | none => []

/-- GEMM, GEMM_SP and GEMM_TALL's acceptance checks (spec/03 Table 3.10). -/
def checkGemm (s : State) (o : Op) (kind : GemmKind) (b : GemmBody) : Option Status :=
  let fa := opFmt b.aFmt
  let fb := opFmt b.bFmt
  let fd := opFmt b.dFmt
  let fuse := natBits b.flags 7 7 = 1
  match gemmPath kind (tallSlices b) fa fb with
  | none => some .malformed
  | some (path, _) =>
    let shapeBad := b.m == 0 || b.n == 0 || b.k == 0 ||
      (kind == .tall && (decide (tallSlices b < 4) || decide (tallSlices b > 8))) ||
      !fmtByteOk fa false || !fmtByteOk fb true || maskBad s b.mask || (fuse && (!absent b.d || kind == .tall))
    let g0 := gemmOf s o kind b
    let formBad := (fa.mx && g0.ta) || (fb.mx && g0.tb) ||
      (!fuse && (!fmtByteOk fd false || (g0.scaled && (fd.mx || !isNarrow fd.code)) || !dstOk path fd g0.scaled)) ||
      (kind == .sparse && (path == .int || fa.code == 0 || g0.tb))
    if shapeBad || formBad then some .malformed
    else if !absent b.aux && !opRange s o b.aux 64 64 then some .outOfRange
    else
      let g := g0
      let cOk := match path with
        | .int => g.fc.code == 0xB && !g.fc.mx && g.fc.expand == 0
        | .tall => g.fc.code == 0xC && plainFmt g.fc
        | _ => decide (g.fc.code ≤ 2) && plainFmt g.fc
      let d := if g.outputs.isEmpty then [] else [stripsOf g.b.d g.dShape g.fd]
      let cBad := g.hasC && d.any fun x =>
        meets s x { base := g.x.c, lines := g.dShape.1, pitch := g.cPitch, len := rowBytesOf g.fc.code false g.dShape.2.1 } &&
          !(addrOff g.x.c == addrOff g.b.d && g.cPitch == g.dShape.2.2)
      let near := fun (x : Nat × Nat) => opRange s o x.1 x.2 1
      refuse
        [ (g.hasC && !cOk, .malformed),
          (d.any fun x => (g.inStrips ++ (g.scaleInputs ++ g.outputs.drop 1).map stripOf).any (meets s x), .malformed),
          (cBad, .malformed),
          ((g.outputs ++ summaryRange s b).any fun x => isLocal s x.1 && meetsView s (addrOff x.1) x.2, .malformed),
          (!((g.inputs ++ g.cRange ++ g.outputs).all near), .outOfRange),
          (g.scaled && !g.fuse && !g.grad && histBad s g.x.hist, .outOfRange) ]
      |>.or (if g.grad then
          (groupStatus s b.d).or
            (if g.elemOf 0 0 + g.b.m * g.b.n > (groupRec s (addrOff b.d)).elems then some .outOfRange else none)
        else none)

/-- What a fused ELEM sees of its GEMM. -/
def fusedShape (s : State) (o : Op) (kind : GemmKind) (b : GemmBody) : FusedShape :=
  { m := b.m, n := b.n, int := (gemmOf s o kind b).path == .int, sp := kind == .sparse }

/-! ### Operand values -/

/-- Element (m, k) of A after the input rules of the mode (spec/03 R62). -/
def aValue (s : State) (o : Op) (g : Gemm) (m k : Nat) : Except Need Val := do
  let w := fmtBits g.fa.code
  let p := g.aShape.2.2
  let c ← if g.ta then opCode s o (g.b.a + k * p) w m else opCode s o (g.b.a + m * p) w k
  if g.fa.mx then
    let sc ← opNat s o (g.x.aScale + m * g.blocks + k / 32) 1
    return mxVal g.fa.code sc c
  else return readVal o.mode g.fa.code g.fa.uns c

/-- An expanded weight (spec/02 R40): (q − z) × s rounded to BF16, always RNE. -/
def expandWeight (md : NumMode) (d : Int) (sc : Val) : Val × Tally :=
  match sc with
  | .nan _ _ _ => let x := pickNaN md [sc]; (x.val, x.tally)
  | .inf n => if d = 0 then (.qnan, Tally.inv) else (.inf (n != decide (d < 0)), {})
  | .fin n m e =>
    let x := convertVal .store { md with rmode := 0 } 1 false 0 (.fin (n != decide (d < 0)) (m * d.natAbs) e)
    (x.val, x.tally)

/-- The weight of a stored code at (n, k) after expansion and the input rules (spec/02 R39, R40, spec/03 R62). -/
def bValue (s : State) (o : Op) (g : Gemm) (n k c : Nat) : Except Need (Val × Tally) := do
  if g.fb.mx then
    let sc ← opNat s o (g.x.bScale + n * g.blocks + k / 32) 1
    return (mxVal g.fb.code sc c, {})
  else if g.fb.expand = 1 then
    let t ← opNat s o (g.x.bExp + n / 128 * 32 + 2 * (c % 16)) 2
    return (readVal o.mode 1 false t, {})
  else if g.fb.expand = 2 then
    let r ← opNat s o (g.x.bExp + 4 * (n * g.blocks + k / 32)) 4
    let q := (decodeVal g.fb.code g.fb.uns c)
    let z := (decodeVal 8 g.fb.uns (natBits r 23 16))
    return expandWeight o.mode (q.sig - z.sig) (readVal o.mode 1 false (natBits r 15 0))
  else return (readVal o.mode g.fb.code g.fb.uns c, {})

/-- Column n of B: each weight or none for a structural zero, what expansion counts, and malformed groups
(spec/05 R106 to R108, spec/03 R74). -/
def bColumn (s : State) (o : Op) (g : Gemm) (n : Nat) : Except Need (List (Option Val) × Tally × Nat) := do
  let w := fmtBits g.fb.code
  let p := g.bShape.2.2
  if g.kind = .sparse then
    let codes ← collect (fun q => opCode s o (g.x.md + n * mapPitch g.b.k) 4 q) (List.range (ceilDiv g.b.k 4))
    let well := fun c => decide (c / 4 > c % 4)
    let vs ← collect (fun k =>
      let c := (codes[k / 4]?).getD 0
      let at1 := if c % 4 = k % 4 then some 0 else if c / 4 = k % 4 then some 1 else none
      match at1 with
      | some i =>
        if well c then do
          let code ← opCode s o (g.b.b + n * p) w (2 * (k / 4) + i)
          let v ← bValue s o g n k code
          return some v
        else .ok none
      | none => .ok none) (List.range g.b.k)
    return (vs.map fun (v : Option (Val × Tally)) => v.map fun x => x.1,
      Tally.sum (vs.filterMap fun (v : Option (Val × Tally)) => v.map fun x => x.2), (codes.filter fun c => !well c).length)
  else
    let vs ← collect (fun k => do
      let c ← if g.tb then opCode s o (g.b.b + k * p) w n else opCode s o (g.b.b + n * p) w k
      bValue s o g n k c) (List.range g.b.k)
    return (vs.map fun (v : Val × Tally) => some v.1, Tally.sum (vs.map fun (v : Val × Tally) => v.2), 0)

/-- C at (m, n), when there is one. -/
def cValue (s : State) (o : Op) (g : Gemm) (m n : Nat) : Except Need (Option Val) :=
  if g.hasC then
    let (line, j) := if g.td then (n, m) else (m, n)
    (opCode s o (g.x.c + line * g.cPitch) (fmtBits g.fc.code) j).map fun c => some (readVal o.mode g.fc.code g.fc.uns c)
  else .ok none

/-! ### The block accumulator (spec/03 R61 to R66) -/

/-- The finite value of a block, the sign of its zero, and the sticky bit (spec/03 R62). Products are finite. -/
def blockValue (wide : Bool) (ps : List Val) : Val × Bool :=
  let nz := ps.filter fun p => !p.isZero
  if !wide then
    let (t, e) := nz.foldl (fun (acc : Int × Int) p => dyAdd acc.1 acc.2 p.sig p.ex) (0, 0)
    (Val.ofSig false t e, false)
  else match nz with
    | [] => (.zero (ps.all Val.neg), false)
    | p :: _ =>
      let eMax := nz.foldl (fun m q => max m (floorLog2 q.sig.natAbs q.ex)) (floorLog2 p.sig.natAbs p.ex)
      let lsb := eMax - 95
      let cut := nz.map fun q =>
        if lsb ≤ q.ex then (q.sig * ((2 ^ (q.ex - lsb).toNat : Nat) : Int), false)
        else
          let k := (lsb - q.ex).toNat
          let t : Int := (q.sig.natAbs >>> k : Nat)
          (if q.sig < 0 then -t else t, decide (q.sig.natAbs % 2 ^ k ≠ 0))
      (Val.ofSig false ((cut.map (·.1)).sum) lsb, cut.any (·.2))

/-- acc + v rounded once to FP32 (spec/03 R63). -/
def foldOnce (md : NumMode) (acc v : Val) (sticky : Bool) : Acc × Tally :=
  let md := { md with rmode := 0 }
  let x := roundArith md 0 0 (addVal 0 acc v)
  let tiny := x.val.isFin && !x.val.isZero && decide (floorLog2 x.val.sig.natAbs x.val.ex < -126)
  let t := if sticky then { x.tally with inexact := true, underflow := x.tally.underflow || tiny } else x.tally
  (match x.val with
   | .inf n => .inf n
   | v => if x.note = .flushed then .flushed v.neg else .fin v, t)

/-- One block entering an accumulator entry: specials by the state alone, an empty block not at all
(spec/03 R61, R66, Table 3.3). No operand is NaN. -/
def blockStep (md : NumMode) (wide : Bool) (acc : Acc × Tally) (ps : List (Val × Val)) : Acc × Tally :=
  let infs := ps.filter fun p => p.1.isInf || p.2.isInf
  let zi := infs.any fun p => infTimesZero p.1 p.2
  let pos := infs.any fun p => p.1.neg == p.2.neg
  let neg := infs.any fun p => p.1.neg != p.2.neg
  let fins := (ps.filter fun p => !(p.1.isInf || p.2.isInf)).map fun p => mulVal p.1 p.2
  let bad := (.nan .qnan, acc.2.join Tally.inv)
  let go := fun (v : Val) =>
    if zi || (pos && neg) then bad
    else if pos || neg then (.inf neg, acc.2)
    else if fins.isEmpty then acc
    else
      let (x, st) := blockValue wide fins
      let (y, t) := foldOnce md v x st
      (y, acc.2.join t)
  match acc.1 with
  | .nan v => (.nan v, acc.2)
  | .inf n => if zi || (if n then pos else neg) then bad else acc
  | .fin v => go v
  | .flushed n => go (.zero n)
  | .int i => (.int i, acc.2)

/-- Operands of one entry in a block: the pairs along K, and whether the MX scale of A or of B is 0xFF. -/
structure BlockOps where
  pairs : List (Val × Option Val)
  (aBad bBad : Bool)

/-- The pairs that form a product. -/
def BlockOps.products (x : BlockOps) : List (Val × Val) := x.pairs.filterMap fun p => p.2.map fun w => (p.1, w)

/-- The NaNs of a block in the order of spec/03 Table 3.3: ascending k, A before B, where a scale of 0xFF counts as the
default quiet NaN at the block's first k even if that position is not stored. A block with no product has none. -/
def BlockOps.nans (x : BlockOps) : List Val :=
  if x.products.isEmpty then []
  else
    let first := match x.pairs with
      | (a, some _) :: _ => [a]
      | _ => []
    ((if x.aBad then [Val.qnan] else first) ++ (if x.bBad then [Val.qnan] else []) ++
      x.products.flatMap fun p => [p.1, p.2]).filter Val.isNaN

/-- The blocks of an entry: its A row, its B column, and by block whether their scales are 0xFF. -/
def blocksOf (a : List Val) (aBad : List Bool) (b : List (Option Val)) (bBad : List Bool) : List BlockOps :=
  (chunksOf 32 (a.zip b)).mapIdx fun i l => { pairs := l, aBad := (aBad[i]?).getD false, bBad := (bBad[i]?).getD false }

/-- Where an accumulator entry starts: at C, or at +0 (spec/03 R63, R66). A NaN of C is held by the caller. -/
def accStart (c : Option Val) : Acc :=
  match c with
  | some (.inf n) => .inf n
  | some v => .fin v
  | none => .fin (.zero false)

/-- One entry over the whole of K on a float path (spec/03 R61 to R66). With a NaN, the blocks before the first that holds
one are folded and keep their flags, invalid apart; the NaN then decides (Table 3.3; log entry 86). -/
def dotFloat (md : NumMode) (wide : Bool) (xs : List BlockOps) (c : Option Val) : Acc × Tally :=
  let fold := fun (l : List BlockOps) => (l.map BlockOps.products).foldl (blockStep md wide) (accStart c, {})
  match xs.flatMap BlockOps.nans ++ c.toList.filter Val.isNaN with
  | [] => fold xs
  | nans =>
    let x := pickNaN md nans
    let before := if (c.toList.any Val.isNaN) then {} else (fold (xs.takeWhile fun b => b.nans.isEmpty)).2
    (.nan x.val, { before with invalid := false }.join x.tally)

/-- One entry in integer mode: exact (spec/03 R64). -/
def dotInt (a : List Val) (b : List (Option Val)) (c : Option Val) : Acc :=
  let int := fun (v : Val) => v.sig * ((2 ^ v.ex.toNat : Nat) : Int)
  .int ((a.zip b).foldl (fun t p => t + int p.1 * ((p.2.map int).getD 0)) ((c.map int).getD 0))

/-! ### Tall mode (spec/03 R76) -/

/-- The exponent of a row or column: of its largest finite non-zero element. -/
def tallExp (vs : List Val) : Option Int := amaxLog vs

/-- The digits of an element, most significant first. -/
def tallDigits (sl : Nat) (e : Option Int) (v : Val) : List Int :=
  match e, v with
  | some e, .fin n m x =>
    -- q = x ÷ 2^(e + 1) × 2^(7s), truncated toward zero
    let k := x - (e + 1) + 7 * sl
    let q := if 0 ≤ k then m <<< k.toNat else m >>> (-k).toNat
    (List.range sl).map fun i =>
      let d : Int := ((q >>> (7 * (sl - 1 - i))) % 128 : Nat)
      if n then -d else d
  | _, _ => List.replicate sl 0

/-- The exact C + v of an output element; specials by Table 3.3. `e` and `f` are the exponents of its row and column. -/
def dotTall (md : NumMode) (sl : Nat) (e f : Option Int) (a b : List Val) (c : Option Val) : Acc × Tally :=
  let ps := a.zip b
  let nans := (ps.flatMap fun p => [p.1, p.2]).filter Val.isNaN ++ (c.toList.filter Val.isNaN)
  let infs := ps.filter fun p => p.1.isInf || p.2.isInf
  let signs := (infs.map fun p => p.1.neg != p.2.neg) ++ (match c with
    | some (.inf n) => [n]
    | _ => [])
  if !nans.isEmpty then
    let x := pickNaN md nans
    (.nan x.val, x.tally)
  else if (infs.any fun p => infTimesZero p.1 p.2) || (signs.contains true && signs.contains false) then (.nan .qnan, Tally.inv)
  else match signs with
    | n :: _ => (.inf n, {})
    | [] =>
      let da := a.map (tallDigits sl e)
      let db := b.map (tallDigits sl f)
      let slice := fun (i j : Nat) =>
        ((da.zip db).map fun p => ((p.1[i]?).getD 0) * ((p.2[j]?).getD 0)).sum
      let t := ((List.range sl).flatMap fun i => (List.range (sl - i)).map fun j =>
        slice i j * ((2 ^ (7 * (2 * sl - 2 - i - j)) : Nat) : Int)).sum
      let v := Val.ofSig false t (e.getD 0 + f.getD 0 + 2 - 14 * sl)
      (.fin (match c with
        | some x => addVal md.rmode x v
        | none => v), {})

/-! ### A tile -/

/-- Rows and columns of a tile: first row, rows, first column, columns. -/
def Gemm.rect (g : Gemm) (tile : Nat) : Nat × Nat × Nat × Nat :=
  let r := tile / g.cols * 64
  let c := tile % g.cols * 64
  (r, min 64 (g.b.m - r), c, min 64 (g.b.n - c))

/-- What the planner makes of one tile, position by position along K (spec/05 R114 to R118). -/
structure TilePlan where
  /-- Fetched ahead. -/
  fetched : List Bool
  /-- Some A element is not zero. -/
  needed : List Bool
  /-- Not presented to the array. -/
  skipped : List Bool
  late : Nat := 0
  waste : Nat := 0
  mismatch : Nat := 0
  /-- Signs of the guard's columns, position by position; used where a row is not fetched. -/
  guard : List Nat

/-- The guard entry of position k and column group j, when the layer has a guard (spec/05 R113). -/
def guardAt (s : State) (plan k j kk : Nat) : Option (Nat × Bool) :=
  let a := memNat s (plan + 16) 8
  if absent a then none
  else
    let e := addrOff a + (j * kk + k) * 16
    some (memNat s e 8, memNat s (e + 8) 1 % 2 == 1)

/-- The plan of a tile from its A rows and B columns; a summary row beyond SUM_BYTES or beyond those recorded in its
buffer is planned as dense (spec/05 R116). An A element counts as ±0 as the input rules of the mode read it (log entry
124). -/
def tilePlan (s : State) (o : Op) (g : Gemm) (tile : Nat) (a : List (List Val)) (b : List (List (Option Val))) : TilePlan :=
  let ks := List.range g.b.k
  let q := tile / g.cols
  let j := tile % g.cols
  let needed := ks.map fun k => a.any fun r => !((r[k]?).getD (.zero false)).isZero
  let col := fun k => b.map fun w => (w[k]?).getD none
  let finite := ks.map fun k => (col k).all fun v => match v with
    | some x => x.isFin
    | none => true
  match o.plan with
  | none =>
    { fetched := ks.map fun _ => true, needed := needed, guard := ks.map fun _ => 0,
      skipped := (needed.zip finite).map fun p => g.skip && !p.1 && p.2 }
  | some plan =>
    let ctl := memNat s (plan + 28) 1
    let sum := addrOff (memNat s (plan + 8 * natBits ctl 1 1) 8)
    let dense := decide ((q + 1) * mapPitch g.b.k > memNat s (plan + 24) 4) ||
      natBits (tabGet (fun _ => 0) s.dome.recorded sum) q q == 0
    let map := opRec s o (sum + q * mapPitch g.b.k) (mapPitch g.b.k)
    let gd := ks.map fun k => guardAt s plan k j g.b.k
    let fetched := ks.map fun k => natBits ctl 2 2 == 1 || dense || mapBit map k || (match (gd[k]?).getD none with
      | some (_, nf) => nf
      | none => true)
    let at_ := fun (l : List Bool) (k : Nat) => (l[k]?).getD false
    let skipped := ks.map fun k => !at_ needed k && (!at_ fetched k || at_ finite k)
    let wrong := ks.filter fun k => match (gd[k]?).getD none with
      | some (w, nf) =>
        let vs := (col k).map fun v => v.getD (.zero false)
        (at_ fetched k || at_ needed k) && (nf == at_ finite k || (vs.mapIdx fun i v => natBits w i i == b2n v.neg).any (!·))
      | none => false
    { fetched := fetched, needed := needed, skipped := skipped, guard := gd.map fun x => (x.map (·.1)).getD 0,
      late := (ks.filter fun k => at_ needed k && !at_ fetched k).length,
      waste := (ks.filter fun k => at_ fetched k && at_ skipped k).length, mismatch := wrong.length }

/-- The weights as the array sees them: a row that is not fetched supplies the guard's signed zeros (spec/05 R114). -/
def TilePlan.weights (p : TilePlan) (i : Nat) (c : List (Option Val)) : List (Option Val) :=
  c.mapIdx fun k v =>
    if (p.fetched[k]?).getD true || (p.needed[k]?).getD true then v
    else v.map fun _ => .zero (natBits ((p.guard[k]?).getD 0) i i == 1)

/-- Tokens of each K-block: with skipping, by presented k-slots, at least one (spec/05 R114, spec/14 Table 14.1). -/
def Gemm.costs (g : Gemm) (p : TilePlan) : List Nat :=
  (List.range g.blocks).map fun i =>
    if g.skip then
      let n := (((p.skipped.drop (32 * i)).take 32).filter (!·)).length
      ceilDiv (g.clk * max 1 n) 32
    else g.clk

/-- Blocks that hold a late fetch (spec/05 R117). -/
def TilePlan.lateBlocks (p : TilePlan) : List Nat :=
  (((List.range p.needed.length).filter fun k => (p.needed[k]?).getD false && !((p.fetched[k]?).getD true)).map (· / 32)).eraseDups

/-- A tile's operands: A rows and B columns, each with its blocks whose scale is 0xFF, C, what expansion counts, and
the malformed groups of its columns. -/
structure TileOps where
  a : List (List Val)
  aBad : List (List Bool)
  b : List (List (Option Val))
  bBad : List (List Bool)
  c : List (List (Option Val))
  tally : Tally
  bad : Nat

/-- Which blocks of line r of an MX operand have scale 0xFF. -/
def badScales (s : State) (o : Op) (g : Gemm) (f : OpFmt) (scales r : Nat) : Except Need (List Bool) :=
  if f.mx then collect (fun i => (opNat s o (scales + r * g.blocks + i) 1).map (· == 0xFF)) (List.range g.blocks)
  else .ok []

/-- A tile's operands read. Expansion counts once for each weight of the op, in the first tile row (log entry 25). -/
def tileOps (s : State) (o : Op) (g : Gemm) (tile : Nat) : Except Need TileOps := do
  let (r0, nr, c0, nc) := g.rect tile
  let a ← collect (fun i => collect (aValue s o g (r0 + i)) (List.range g.b.k)) (List.range nr)
  let b ← collect (fun j => bColumn s o g (c0 + j)) (List.range nc)
  let c ← collect (fun i => collect (fun j => cValue s o g (r0 + i) (c0 + j)) (List.range nc)) (List.range nr)
  let aBad ← collect (fun i => badScales s o g g.fa g.x.aScale (r0 + i)) (List.range nr)
  let bBad ← collect (fun j => badScales s o g g.fb g.x.bScale (c0 + j)) (List.range nc)
  return { a := a, aBad := aBad, b := b.map (·.1), bBad := bBad, c := c,
           tally := if r0 = 0 then Tally.sum (b.map fun x => x.2.1) else {}, bad := (b.map fun x => x.2.2).sum }

/-- The entries of a tile, row by row. Tall mode's exponents are over a whole row of A and a whole column of B as stored,
whatever the plan skips (spec/03 R75, R76): the tile's lines hold all of K. -/
def tileEntries (o : Op) (g : Gemm) (t : TileOps) (p : TilePlan) : List (Acc × Tally) :=
  let cols := t.b.mapIdx fun i c => (c, p.weights i c, (t.bBad[i]?).getD [])
  ((t.a.zip t.c).zipIdx).flatMap fun ((row, cs), r) => (cols.zip cs).map fun ((stored, col, bBad), c) =>
    let float := fun (wide : Bool) => dotFloat o.mode wide (blocksOf row ((t.aBad[r]?).getD []) col bBad) c
    match g.path with
    | .int => (dotInt row col c, {})
    | .tall =>
      let w := fun (l : List (Option Val)) => l.map fun v => v.getD (.zero false)
      dotTall o.mode (tallSlices g.b) (tallExp row) (tallExp (w stored)) row (w col) c
    | .wide => float true
    | .narrow => float false

/-- The observed summary of a tile's A rows goes to the other buffer, where it has room: a write of the op, and the row is
recorded (spec/05 R116, spec/08 R208). -/
def writeSummary (s : State) (o : Op) (g : Gemm) (plan tile : Nat) (p : TilePlan) : Wrote :=
  let q := tile / g.cols
  let pitch := mapPitch g.b.k
  let other := otherBuffer s plan
  let bs := bitsToBytes p.needed
  if decide ((q + 1) * pitch > memNat s (plan + 24) 4) || !opRange s o (other + q * pitch) pitch 1 ||
      regionOf (addrOff other) == .hostWindow then .done s
  else opWritesThen s o [(other + q * pitch, bs ++ List.replicate (pitch - bs.length) 0)] fun s =>
    .done (recordRows s other fun m => m ||| 2 ^ q)

/-! ### Queues (spec/08 R190, R191) -/

/-- Capacity of a deferred queue. -/
def wgqSize : Nat := 4096

/-- Slices of one belfry placed while its queue has room; when it is full the belfry drains. -/
def wgqPlace (x : Belfry) : Belfry :=
  if x.draining then x
  else
    let n := wgqSize - x.deferred.length
    let q := x.deferred ++ x.unplaced.take n
    let full := decide (q.length ≥ wgqSize)
    { x with deferred := q, unplaced := x.unplaced.drop n, draining := full, fullSeen := x.fullSeen || full,
             peak := max x.peak q.length }

/-- The tiles of an op dealt in tile order to the belfries of its mask, round robin (log entry 26); a belfry fenced since its
acceptance has its stand-in do them (spec/15 R381). -/
def dealTiles (s : State) (id tiles : Nat) (bs : List Nat) (deferred : Bool) : State :=
  bs.zipIdx.foldl (fun s p =>
    let mine := (natsWhere tiles fun t => t % bs.length == p.2).map fun t => ({ op := id, tile := t } : TileJob)
    let b := belfry s (standIn s p.1)
    belfryPut s (standIn s p.1) (if deferred then wgqPlace { b with unplaced := b.unplaced ++ mine }
      else { b with immediate := b.immediate ++ mine })) s

/-- Some belfry of a mask accepts no op now (spec/08 R191). -/
def maskDraining (s : State) (mask : Nat) : Bool := (maskBelfries s mask).any fun b => (belfry s b).draining

/-- The layer is frozen (spec/08 R194). -/
def frozenLayer (s : State) (layer : Nat) : Bool :=
  decide (regBits s 0x1000108 31 31 = 1) &&
    mapBit (committedBytes s (lanBase + regBits s 0x1000108 30 13 * 8192) 8192) layer

/-- What acceptance itself does for a GEMM: a weight-gradient op of a frozen layer completes, giving its zeros; another
places its slices (spec/08 R190, R195, R196). -/
def acceptGemm (s : State) (o : Op) (kind : GemmKind) (b : GemmBody) : State :=
  let g := gemmOf s o kind b
  let gives := if g.grad then some (addrOff b.d, o.step.getD 0, g.elemOf 0 0, b.m * b.n) else none
  let s := opUpdate s o.id fun o => { o with plan := planOf s b, gives := gives, work := .gemm g.tiles none none 0 0 0 0 }
  if g.grad then
    if frozenLayer s b.layer then
      let s := contributeZeros s o (addrOff b.d) (o.step.getD 0) (g.elemOf 0 0) (b.m * b.n)
      opDone (opUpdate s o.id fun o => { o with detail := 1 }) o.id .ok
    else dealTiles s o.id g.tiles (opCrew s o b.mask) true
  else s

/-- A GEMM starts: its tiles become immediate work; a weight-gradient op's slices are in their queues already. -/
def runGemm (s : State) (o : Op) (kind : GemmKind) (b : GemmBody) : State :=
  let g := gemmOf s o kind b
  if g.grad then s else dealTiles s o.id g.tiles (opCrew s o b.mask) false

/-- The kind and body of a GEMM op. -/
def gemmBody (o : Op) : Option (GemmKind × GemmBody) :=
  match o.body with
  | .gemm b => some (.dense, b)
  | .gemmSp b => some (.sparse, b)
  | .gemmTall b => some (.tall, b)
  | _ => none

/-- A queued tile whose op is over: it leaves its queue. -/
def jobDead (s : State) (j : TileJob) : Bool :=
  match opById s j.op with
  | some o => o.isDone
  | none => true

/-! ### Overlap of dependent ops (spec/01 R21) -/

/-- The part of a pitched operand in which a rectangle lies: lines from `line` on, elements from `pos` on. -/
def partStrips (a pitch bits line lines pos per : Nat) : Strips :=
  { base := a + line * pitch + pos * bits / 8, lines := lines, pitch := pitch, len := ceilDiv (pos * bits % 8 + per * bits) 8 }

/-- What a tile writes: its rectangle of D, and its scales. -/
def Gemm.tileOut (g : Gemm) (tile : Nat) : List Strips :=
  if g.fuse || g.grad then []
  else
    let (r0, nr, c0, nc) := g.rect tile
    let (line, lines, pos, per) := if g.td then (c0, nc, r0, nr) else (r0, nr, c0, nc)
    partStrips g.b.d g.dShape.2.2 (fmtBits g.fd.code) line lines pos per ::
      ((if g.fd.mx then [partStrips g.x.dScale (ceilDiv g.dShape.2.1 32) 8 line lines (pos / 32) (ceilDiv per 32)] else []) ++
       (if g.scaled then [stripOf (g.x.dScale + tile, 1)] else []))

/-- What a tile reads: its rows of A, its columns of B, its rectangle of C, and the arrays that go with them. -/
def Gemm.tileIn (g : Gemm) (tile : Nat) : List Strips :=
  let (r0, nr, c0, nc) := g.rect tile
  let side := fun (a : Nat) (across : Bool) (shape : Nat × Nat × Nat) (f : OpFmt) (i n : Nat) =>
    if across then partStrips a shape.2.2 (fmtBits f.code) 0 shape.1 i n
    else partStrips a shape.2.2 (fmtBits f.code) i n 0 shape.2.1
  let (line, lines, pos, per) := if g.td then (c0, nc, r0, nr) else (r0, nr, c0, nc)
  [side g.b.a g.ta g.aShape g.fa r0 nr, side g.b.b (g.tb && g.kind != .sparse) g.bShape g.fb c0 nc] ++
    (if g.hasC then [partStrips g.x.c g.cPitch (fmtBits g.fc.code) line lines pos per] else []) ++
    (g.inputs.drop 2).map stripOf

/-- Tiles of an op that are not complete: queued, or in a turret. -/
def tilesLeft (s : State) (id : Nat) : List Nat :=
  let queued := s.dome.belfries.flatMap fun x => x.2.immediate ++ x.2.deferred ++ x.2.unplaced
  let held := s.dome.turrets.flatMap fun t => ([t.2.buf0, t.2.buf1].filterMap fun b => b.map (·.job))
  ((queued ++ held).filter fun j => j.op == id).map (·.tile)

/-- Every tile that a tile of an op reads of its producer is complete (spec/01 R21, spec/13 R335). None is before the producer's
tiles are dealt. -/
def readsDone (s : State) (o : Op) (tile : Nat) : Bool :=
  match o.consumes.bind (opById s), gemmBody o with
  | some p, some (k, b) =>
    p.phase == .done .ok || (p.isActive && match gemmBody p with
      | some (pk, pb) =>
        let g := gemmOf s o k b
        let h := gemmOf s p pk pb
        (if p.asked < 2 then List.range h.tiles else tilesLeft s p.id).all fun u => !(h.tileOut u).any fun y => (g.tileIn tile).any fun x => meets s x y
      | none => false)
  | _, _ => true

/-- A queued tile may be started: its op runs, and what it reads is there. -/
def jobMay (s : State) (j : TileJob) : Bool :=
  match opById s j.op with
  | some o => o.isActive && readsDone s o j.tile
  | none => false

/-! ### The next work of a turret -/

/-- The oldest job that may start, by op, then as queued. -/
def oldestJob (s : State) (l : List TileJob) : Option TileJob :=
  (l.filter (jobMay s)).foldl (fun (acc : Option TileJob) j => match acc with
    | some k => if j.op < k.op then some j else some k
    | none => some j) none

/-- The next work of a belfry's turrets (spec/08 R190, R191). -/
def nextJob (s : State) (x : Belfry) : Option TileJob :=
  let now := oldestJob s x.immediate
  let later := x.deferred.find? (jobMay s)
  if x.draining then later.or now else now.or later

/-- A draining belfry with 256 entries free places slices again (spec/08 R191). -/
def wgqResume (x : Belfry) : Belfry :=
  if decide (wgqSize - x.deferred.length ≥ 256) || !x.draining then wgqPlace { x with draining := false } else x

/-- A job leaves its queue. -/
def takeJob (x : Belfry) (j : TileJob) : Belfry :=
  wgqResume { x with immediate := x.immediate.erase j, deferred := x.deferred.erase j }

/-- Queued tiles of ops that are over leave their belfries. -/
def purgeJobs (s : State) : State :=
  s.dome.belfries.foldl (fun s x =>
    let b := x.2
    if (b.immediate ++ b.deferred ++ b.unplaced).any (jobDead s) then
      let live := fun (l : List TileJob) => l.filter fun j => !jobDead s j
      belfryPut s x.1
        (wgqResume { b with immediate := live b.immediate, deferred := live b.deferred, unplaced := live b.unplaced })
    else s) s

/-! ### Output (spec/03 R67 to R69, R72) -/

/-- An entry's value as the output path takes it. -/
def Acc.val : Acc → Val
  | .fin v => v
  | .inf n => .inf n
  | .nan v => v
  | .int i => Val.ofSig false i 0
  | .flushed n => .zero n

/-- An entry that the last fold flushed stores a zero of bin 1 (spec/03 Table 3.3). -/
def accNote (a : Acc) (x : Rounded) : Rounded :=
  match a with
  | .flushed _ => if x.val.isZero ∧ x.note = .plain then { x with note := .flushed } else x
  | _ => x

/-- A FP64 result of tall mode: one rounding; beyond the range it is ±Inf (spec/03 R76). -/
def tallStore (md : NumMode) (r : Nat) (v : Val) : Nat × Rounded :=
  let x := match v with
    | .fin n _ _ =>
      let y := roundArith md 0xC r v
      if y.tally.overflow then { y with val := .inf n, note := .plain } else y
    | .nan _ _ _ => if md.strict then { val := v } else { val := .qnan }
    | v => { val := v }
  (encodeVal 0xC x.val, x)

/-- What a tile's emission comes to. -/
structure Emission where
  writes : List (Nat × List Byte)
  outs : List Rounded
  discard : Tally := {}
  again : Bool := false
  amax : Option Int := none

/-- A tile emitted: its lines along D's innermost dimension (spec/03 R67), scaled (R68, R69) or block-scaled. -/
def emitTile (s : State) (o : Op) (g : Gemm) (tile : Nat) (acc : List Acc) : Emission :=
  let (r0, nr, c0, nc) := g.rect tile
  let (lines, per, line0, pos0) := if g.td then (nc, nr, c0, r0) else (nr, nc, r0, c0)
  let entry := fun (i j : Nat) => (acc[if g.td then j * nc + i else i * nc + j]?).getD (.fin (.zero false))
  let word := fun (i j : Nat) =>
    if o.mode.rmode = 4 then
      let (m, n) := if g.td then (r0 + j, c0 + i) else (r0 + i, c0 + j)
      srWord (BitVec.ofNat 64 o.seed) g.b.outTensor (m * g.b.n + n) 0xFFFFFFFF
    else 0
  let code := g.fd.code
  let (_, inner, pitch) := g.dShape
  let place := fun (i : Nat) => g.b.d + (line0 + i) * pitch + pos0 * fmtBits code / 8
  if g.scaled then
    let els := (List.range lines).flatMap fun i => (List.range per).map fun j => ((entry i j).val, word i j)
    let e := emitScaled o.mode code (histFor s o g.x.hist) (g.b.margin % 4) els
    let rows := chunksOf per e.outs
    { writes := (rows.mapIdx fun i r => (place i, packRow code false (r.map fun x => x.1))) ++
        [(g.x.dScale + tile, leBytes 1 e.scale)],
      outs := (rows.mapIdx fun i r => r.mapIdx fun j (x : Nat × Rounded) => accNote (entry i j) x.2).flatten,
      discard := e.discard, again := e.again, amax := e.amax }
  else if g.fd.mx then
    let rows := (List.range lines).map fun i =>
      (i, storeRow o.mode g.fd (word i) ((List.range per).map fun j => (entry i j).val))
    { writes := rows.flatMap fun (i, bs, sc, _) =>
        [(place i, bs), (g.x.dScale + (line0 + i) * ceilDiv inner 32 + pos0 / 32, sc)],
      outs := rows.flatMap fun (i, _, _, os) => (os.take per).mapIdx fun j x => accNote (entry i j) x }
  else
    let rows := (List.range lines).map fun i => (i, (List.range per).map fun j =>
      if g.path = .tall then tallStore o.mode (word i j) (entry i j).val
      else convertCode .store o.mode code g.fd.uns (word i j) (entry i j).val)
    { writes := rows.map fun (i, cs) => (place i, packRow code false (cs.map (·.1))),
      outs := rows.flatMap fun (i, cs) => cs.mapIdx fun j x => accNote (entry i j) x.2 }

/-- The FP32 code of an entry as the quantiser takes it (spec/09 R232). -/
def accCode (a : Acc) : Nat := encodeVal 0 a.val

/-! ### TILE_START and TILE_COMPLETE -/

/-- A buffer of a turret. -/
def Turret.buf (t : Turret) (i : Nat) : Option TileBuf := if i = 0 then t.buf0 else t.buf1
/-- A buffer of a turret replaced. -/
def Turret.setBuf (t : Turret) (i : Nat) (b : Option TileBuf) : Turret := if i = 0 then { t with buf0 := b } else { t with buf1 := b }

/-- The planner's counts of one tile added to its op. -/
def planCount (s : State) (id : Nat) (p : TilePlan) (skip : Bool) : State :=
  if !skip then s
  else
    let sk := p.skipped.count true
    opUpdate s id fun o => match o.work with
      | .gemm t a f l n k w =>
        { o with work := .gemm t a f (l + p.late) (n + (p.skipped.length - sk)) (k + sk) (w + p.waste),
                 c3 := min 0xFFFFFFFF (o.c3 + p.mismatch) }
      | _ => o

/-- The physical slot of a belfry that serves a position (spec/01 R15). -/
def slotOf (x : Belfry) (i : Nat) : Nat := if x.spareFor = some i then 16 else i

/-- Tokens of the program of the ELEM fused to a GEMM on one of its tiles, a chunk to a tile row (spec/04 R93, R96). -/
def fusedIssue (s : State) (o : Op) (g : Gemm) (tile : Nat) : List Nat :=
  match o.work with
  | .gemm _ _ (some e) _ _ _ _ => match opById s e with
    | some x => match x.body with
      | .elem b =>
        if x.isDone then []
        else
          let (_, nr, _, _) := g.rect tile
          let p := elemPlan s x b
          (List.range nr).flatMap fun _ => ((rowIssue (passIssue x.mode.strict p p.prog1) 1).flatMap fun c =>
            List.replicate c.2 c.1).filter (· != 0)
      | _ => []
    | none => []
  | _ => []

/-- A tile's buffer filled: tokens paid as far as they go, entries computed unless a block waits for a late row. -/
def fillBuf (o : Op) (g : Gemm) (j : TileJob) (t : TileOps) (p : TilePlan) (owed issue : List Nat) : TileBuf :=
  let late := p.lateBlocks
  let es := if late.isEmpty then tileEntries o g t p else []
  { job := j, owed := owed, issue := issue, missing := late, acc := es.map (·.1), tally := t.tally.join (Tally.sum (es.map (·.2))),
    malformed := t.bad }

/-- Turret t takes its next tile into a free buffer (spec/08 R190, spec/03 R71). -/
def startTile (s : State) (t : Nat) : State :=
  let b := t / 16
  let x := belfry s b
  let tr := turret s t
  let free := if tr.buf0.isNone then some 0 else if tr.buf1.isNone then some 1 else none
  if x.fenced || x.vacated.contains (t % 16) || !x.pllOn || s.dome.stopped || s.dome.tripped then s
  else match free, nextJob s x with
    | some i, some j =>
      match (opById s j.op).bind fun o => (gemmBody o).map fun k => (o, gemmOf s o k.1 k.2) with
      | none => s
      | some (o, g) =>
        match tileOps s o g j.tile with
        | .error n => opNeed s o.id n
        | .ok ops =>
          let p := tilePlan s o g j.tile ops.a ops.b
          match (match o.plan with
            | some a => writeSummary s o g a j.tile p
            | none => .done s) with
          | .wait room => awaitWrite s o.id room
          | .limit s => opLimit s o
          | .done s =>
            let x := belfry s b
            let s := belfryPut s b { takeJob x j with powered := x.powered ||| 2 ^ slotOf x (t % 16) }
            let s := planCount s o.id p (g.skip && !j.again)
            let (s, owed) := payBursts s 0 t (g.costs p)
            let (s, issue) := payBursts s 1 t (fusedIssue s o g j.tile)
            turretPut s t ((turret s t).setBuf i (some (fillBuf o g j ops p owed issue)))
    | _, _ => s

/-- A late-fetched row arrives: the next waiting block, or with none left the entries (spec/05 R117). -/
def lateArrival (s : State) (t i : Nat) : State :=
  match (turret s t).buf i with
  | none => s
  | some b =>
    match b.missing with
    | [] => s
    | [_] =>
      match (opById s b.job.op).bind fun o => (gemmBody o).map fun k => (o, gemmOf s o k.1 k.2) with
      | none => s
      | some (o, g) =>
        match tileOps s o g b.job.tile with
        | .error n => opNeed s o.id n
        | .ok ops =>
          let p := tilePlan s o g b.job.tile ops.a ops.b
          let es := tileEntries o g ops p
          let full : TileBuf :=
            { b with missing := [], acc := es.map (·.1), tally := b.tally.join (Tally.sum (es.map (·.2))) }
          turretPut s t ((turret s t).setBuf i (some full))
    | _ :: rest => turretPut s t ((turret s t).setBuf i (some { b with missing := rest }))

/-- What becomes of a tile's output. -/
inductive TileOut where
  /-- It waits: for room, or for the group's previous step. -/
  | wait
  | done (s : State)

/-- A tile's entries to the reduction quantiser (spec/03 R67, spec/09 R229, R234). -/
def tileToGroup (s : State) (o : Op) (g : Gemm) (tile : Nat) (acc : List Acc) : TileOut :=
  let (r0, nr, c0, nc) := g.rect tile
  let items := ((List.range nr).flatMap fun i => (List.range nc).map fun j => g.elemOf (r0 + i) (c0 + j)).zip (acc.map accCode)
  match contribute s o (addrOff g.b.d) (o.step.getD 0) items with
  | .wait => .wait
  | .over => .done (opDone s o.id .aborted)
  | .done s => .done s

/-- The exponent a GEMM enters in its scale history with its last tile, whose own largest is `e` (spec/03 R69). -/
def lastExp (o : Op) (g : Gemm) (e : Option Int) : Option Int :=
  match o.work with
  | .gemm 1 a _ _ _ _ _ => if g.scaled then maxExp a e else none
  | _ => none

/-- A tile's entries stored (spec/03 R67 to R72). -/
def tileToMemory (s : State) (o : Op) (g : Gemm) (tile : Nat) (acc : List Acc) : TileOut :=
  let e := emitTile s o g tile acc
  match opWritesThen s o e.writes (fun s => match lastExp o g e.amax with
      | some x => histEnter s o g.x.hist x
      | none => .done s) with
  | .wait _ => .wait
  | .limit s => .done (opLimit s o)
  | .done s =>
    let s := opTally s o.id (((tallyOf e.outs).join e.discard).inMode o.mode.strict)
    let s := opUpdate s o.id fun o => { o with
      c0 := min 0xFFFFFFFF (o.c0 + b2n e.again),
      work := match o.work with
        | .gemm t a f l p k w => .gemm t (maxExp a e.amax) f l p k w
        | w => w }
    .done (if g.hist then addBins s (o.step.getD 0) g.b.layer (binsOf e.outs) e.discard.sat 0 1 else s)

/-- A tile through the program of the ELEM fused to its GEMM, out of its buffer (spec/04 R93, spec/03 R70, R71); an ELEM
that is over takes no more tiles. `left` tiles of the GEMM are still to complete, this one among them. A tile that ran
again counts for both ops (spec/13 Table 13.8a). -/
def tileToProgram (s : State) (o : Op) (g : Gemm) (tile left : Nat) (elem : Option Nat) (acc : List Acc) : Fused :=
  let (r0, nr, c0, nc) := g.rect tile
  match elem.bind (opById s) with
  | none => .done s
  | some e =>
    if e.isDone then .done s
    else match e.body, e.work with
      | .elem b, .fused q ts =>
        let again := fun (s : State) => ((opById s e.id).map (·.c1)).getD 0
        match runTile s e b q ts g.cols (left == 1) tile r0 nr c0 nc acc with
        | .wait s => .wait s
        | .done s' => .done (opUpdate s' o.id fun o => { o with c1 := min 0xFFFFFFFF (o.c1 + (again s' - again s)) })
      | _, _ => .done s

/-- A tile of a GEMM is out: with the last, the histogram's op count and the op's end (spec/03 R72, R74). Malformed groups
count once for each column and group, in the first tile row; a tile that ends the op under STRICT_META counts its own (log
entry 25). -/
def tileDone (s : State) (o : Op) (g : Gemm) (b : TileBuf) : State :=
  let s := opTally s o.id (b.tally.inMode o.mode.strict)
  let s := opUpdate s o.id fun o => { o with
    c2 := if b.job.tile < g.cols || g.strictMd then min 0xFFFFFFFF (o.c2 + b.malformed) else o.c2,
    work := match o.work with
      | .gemm t a f l p k w => .gemm (t - 1) a f l p k w
      | w => w }
  match opById s o.id with
  | none => s
  | some o =>
    if o.isDone then s
    else if g.strictMd && decide (b.malformed ≠ 0) then
      let s := opStrictFail s o.id .malformed
      if o.hdr.txn = 0 then s else abortTxn s o.hdr.txn .aborted
    else match o.work with
      | .gemm 0 _ _ _ _ _ _ =>
        let s := if g.hist && !g.fuse && !g.grad then addBins s (o.step.getD 0) g.b.layer [] 0 1 0 else s
        opDone s o.id .ok
      | _ => s

/-- Buffer i of turret t is emitted, or read by the fused program, and then released (spec/03 R67, R71); a buffer whose
tokens are not paid, whose late row has not arrived or whose output must wait stays as it is. -/
def completeTile (s : State) (t i : Nat) : State :=
  match (turret s t).buf i with
  | none => s
  | some b =>
    let release := fun (s : State) => turretPut s t ((turret s t).setBuf i none)
    match opById s b.job.op with
    | none => release s
    | some o =>
      if !o.isActive then release s
      else if !b.owed.isEmpty || !b.issue.isEmpty || !b.missing.isEmpty then s
      else match gemmBody o with
        | none => release s
        | some (kind, body) =>
          let g := gemmOf s o kind body
          if g.strictMd && decide (b.malformed ≠ 0) then release (tileDone s o g b)
          else if g.fuse then
            let (left, elem) := match o.work with
              | .gemm n _ e _ _ _ _ => (n, e)
              | _ => (0, none)
            match tileToProgram s o g b.job.tile left elem b.acc with
            | .wait s => s
            | .done s => release (tileDone s o g b)
          else match (if g.grad then tileToGroup s o g b.job.tile b.acc else tileToMemory s o g b.job.tile b.acc) with
            | .wait => s
            | .done s => release (tileDone s o g b)

end Sys2Proof.Machine
end

