-- ==== Sys2Proof/Machine/Sparse.lean ====
section
/-! DEFINITION. SPSP_INTERSECT (spec/05 R122 to R125) and the belfry merge tree's arithmetic (spec/05 R126 to R128), which
SCATTER and EMB_GRAD share. -/

namespace Sys2Proof.Machine

/-! ### SPSP_INTERSECT -/

/-- A sparse operand's record (spec/05 R122). -/
structure SparseRec where
  (ptr idx val rows fmt : Nat)
  deriving DecidableEq, Repr

/-- spec/05 R122. -/
def parseSparse (d : List Byte) : SparseRec :=
  { ptr := fieldAt d 0 8, idx := fieldAt d 8 8, val := fieldAt d 16 8, rows := fieldAt d 24 4, fmt := fieldAt d 28 1 }

/-- The records an op names. -/
def spspRecs (s : State) (o : Op) (b : SpspBody) : SparseRec × SparseRec :=
  (parseSparse (opRec s o b.xRec 32), parseSparse (opRec s o b.yRec 32))

/-- OUT_KIND 1: match records. -/
def spspRecords (b : SpspBody) : Bool := natBits b.flags 2 2 = 1
/-- STRICT. -/
def spspStrict (b : SpspBody) : Bool := natBits b.flags 3 3 = 1

/-- Entries of a sparse operand: its last row pointer, as far as it is here to read. -/
def sparseEntries (s : State) (o : Op) (x : SparseRec) : Nat :=
  match opNat s o (x.ptr + 8 * x.rows) 8 with
  | .ok n => max 1 n
  | .error _ => 1

/-- Ranges an SPSP_INTERSECT names, with these counts of entries for its operands. -/
def spspRanges (b : SpspBody) (x y : SparseRec) (nx ny : Nat) : List (Nat × Nat) :=
  [(b.xRec, 32), (b.yRec, 32), (b.pair, 8 * b.pairs), (x.ptr, 8 * (x.rows + 1)), (y.ptr, 8 * (y.rows + 1)), (x.idx, 4 * nx),
   (y.idx, 4 * ny)] ++ (if spspRecords b then [] else [(x.val, nx * elemBytes x.fmt), (y.val, ny * elemBytes y.fmt)])

/-- Ranges an SPSP_INTERSECT reads (spec/08 R203). -/
def readsSpsp (s : State) (o : Op) (b : SpspBody) : List (Nat × Nat) :=
  let (x, y) := spspRecs s o b
  spspRanges b x y (sparseEntries s o x) (sparseEntries s o y)

/-- Ranges it writes. -/
def spspOutputs (b : SpspBody) : List (Nat × Nat) :=
  if spspRecords b then [(b.out, b.pairs * b.matchCap * 8), (b.count, 4 * b.pairs)] else [(b.out, 4 * b.pairs)]

/-- SPSP_INTERSECT's acceptance checks (spec/05 Table 5.7). -/
def checkSpsp (s : State) (o : Op) (b : SpspBody) : Option Status :=
  if maskBad s b.mask || natBits b.flags 1 0 == 3 || b.pairs == 0 || (spspRecords b && b.matchCap == 0) then some .malformed
  else if !opRange s o b.xRec 32 1 || !opRange s o b.yRec 32 1 then some .outOfRange
  else
    let (x, y) := spspRecs s o b
    refuse
      [ (decide (x.fmt > 2) || decide (y.fmt > 2), .malformed),
        ((spspOutputs b).any fun r => isLocal s r.1 && meetsView s (addrOff r.1) r.2, .malformed),
        (!((spspRanges b x y 1 1 ++ spspOutputs b).all fun r => opRange s o r.1 r.2 1), .outOfRange) ]

/-- Row r of an operand: its first entry and its column indices; none beyond ROWS. DESIGN CHOICE: a row whose PTR[r + 1] is
below PTR[r], of which the spec says nothing, is empty (log entry 136). -/
def sparseRow (s : State) (o : Op) (x : SparseRec) (r : Nat) : Except Need (Option (Nat × List Nat)) :=
  if r ≥ x.rows then .ok none
  else do
    let lo ← opNat s o (x.ptr + 8 * r) 8
    let hi ← opNat s o (x.ptr + 8 * r + 8) 8
    let is ← collect (fun i => opNat s o (x.idx + 4 * (lo + i)) 4) (List.range (hi - lo))
    return some (lo, is)

/-- Positions of the common indices, ascending (spec/05 R123). -/
def matchRows (xs ys : List Nat) : List (Nat × Nat) :=
  xs.zipIdx.filterMap fun (v, i) => (indexWhere (fun w => w == v) ys).map fun j => (i, j)

/-- Matched values multiplied in blocks of 32 by the wide path, folded from +0 (spec/05 R124). -/
def spspDot (s : State) (o : Op) (x y : SparseRec) (lx ly : Nat) (ms : List (Nat × Nat)) : Except Need (Acc × Tally) := do
  let get := fun (r : SparseRec) (e : Nat) =>
    (opNat s o (r.val + e * elemBytes r.fmt) (elemBytes r.fmt)).map (readVal o.mode r.fmt false)
  let a ← collect (fun (m : Nat × Nat) => get x (lx + m.1)) ms
  let b ← collect (fun (m : Nat × Nat) => get y (ly + m.2)) ms
  return dotFloat o.mode true (blocksOf a [] (b.map some) []) none

/-- What a pair comes to. -/
structure PairOut where
  writes : List (Nat × List Byte) := []
  tally : Tally := {}
  malformed : Bool := false
  range : Bool := false
  cut : Bool := false

/-- Pair p (spec/05 R123, R124, Table 5.7). DESIGN CHOICE: one with a row number of ROWS or above counts as out of range alone,
whatever the indices of its other row (log entry 136). -/
def runPair (s : State) (o : Op) (b : SpspBody) (x y : SparseRec) (p : Nat) : Except Need PairOut := do
  let i ← opNat s o (b.pair + 8 * p) 4
  let j ← opNat s o (b.pair + 8 * p + 4) 4
  let rx ← sparseRow s o x i
  let ry ← sparseRow s o y j
  let none' := fun (code : Nat) => if spspRecords b then (b.count + 4 * p, leBytes 4 0) else (b.out + 4 * p, leBytes 4 code)
  match rx, ry with
  | some (lx, xs), some (ly, ys) =>
    let asc := adjacent (fun a b => decide (a < b))
    if !asc xs || !asc ys then return { writes := [none' 0x7FC00000], malformed := true }
    else
      let ms := matchRows xs ys
      if spspRecords b then
        let kept := ms.take b.matchCap
        return {
          writes := (kept.mapIdx fun q m => (b.out + (p * b.matchCap + q) * 8, leBytes 4 m.1 ++ leBytes 4 m.2)) ++
            [(b.count + 4 * p, leBytes 4 ms.length)],
          cut := decide (ms.length > b.matchCap) }
      else
        let (v, t) ← spspDot s o x y lx ly ms
        return { writes := [(b.out + 4 * p, leBytes 4 (encodeVal 0 v.val))], tally := t }
  | _, _ => return { writes := [none' 0], range := true }

/-- SPSP_INTERSECT's work. DESIGN CHOICE: with STRICT and pairs of both kinds it ends MALFORMED (log entry 136). -/
def runSpsp (s : State) (o : Op) (b : SpspBody) : State :=
  let (x, y) := spspRecs s o b
  match collect (runPair s o b x y) (List.range b.pairs) with
  | .error n => opNeed s o.id n
  | .ok ps =>
    let bad := (ps.filter (·.malformed)).length
    let far := (ps.filter (·.range)).length
    let s := opUpdate s o.id fun o => { o with
      c0 := min 0xFFFFFFFF bad, c1 := min 0xFFFFFFFF far, c2 := min 0xFFFFFFFF (ps.filter (·.cut)).length }
    if spspStrict b && decide (bad ≠ 0) then opStrictFail s o.id .malformed
    else if spspStrict b && decide (far ≠ 0) then opStrictFail s o.id .outOfRange
    else applyWrites s o (ps.flatMap (·.writes)) fun s =>
      opDone (opTally s o.id ((Tally.sum (ps.map (·.tally))).inMode o.mode.strict)) o.id .ok

/-! ### The merge tree (spec/05 R126 to R128) -/

/-- How equal keys combine. -/
inductive MtOp where
  | add | max | min
  deriving DecidableEq, Repr

/-- spec/06 Table 6.10c, COMBINE. -/
def mtOf (code : Nat) : MtOp := if code = 0 then .add else if code = 1 then .max else .min

/-- A lane on its way through the tree: its value and its winner's tag (none: the destination's own value). -/
structure MtLane where
  val : Val
  tag : Option Nat
  deriving DecidableEq, Repr

/-- What a merge runs under: mode, operation, destination format, and the key of its random words. -/
structure MtEnv where
  md : NumMode
  op : MtOp
  /-- FP32, or FP64. -/
  fmt : Nat
  seed : Nat
  tensor : Nat
  /-- Lanes of a 64 B segment of the items: 16 FP32 or 32 BF16 (spec/05 R126). -/
  per : Nat := 16

/-- Two lanes combined, the second later in tag order; `t` is the term of its random word (spec/05 R127, R128). -/
def mtStep (m : MtEnv) (elem t : Nat) (a b : MtLane) : MtLane × Tally :=
  match m.op with
  | .add =>
    let x := if m.fmt = 0 then fpAdd { m.md with rmode := 4 } 0 (srWord (BitVec.ofNat 64 m.seed) m.tensor elem t) a.val b.val
      else fpAdd { m.md with rmode := 0 } m.fmt 0 a.val b.val
    ({ val := x.val, tag := none }, x.tally)
  | op =>
    if a.val.isNaN || b.val.isNaN then
      let x := pickNaN m.md [a.val, b.val]
      ({ (if a.val.isNaN then a else b) with val := x.val }, x.tally)
    else
      let less := match cmpVal a.val b.val with
        | .lt => true
        | .gt => false
        | .eq => a.val.neg && !b.val.neg
      let more := match cmpVal a.val b.val with
        | .gt => true
        | .lt => false
        | .eq => !a.val.neg && b.val.neg
      (if (if op = .max then less else more) then b else a, {})

/-- Combined lanes from the first on. -/
def mtFold (m : MtEnv) (elem : Nat) (term : Nat → Nat) : MtLane → List (Nat × MtLane) → MtLane × Tally
  | a, [] => (a, {})
  | a, (k, b) :: rest =>
    let (c, t) := mtStep m elem (term k) a b
    let (d, u) := mtFold m elem term c rest
    (d, t.join u)

/-- One destination lane: each window's terms combined in tag order, the windows folded in order, the first replacing
the destination or added to it (spec/05 R127, R128). A NaN that enters is the mode's NaN of it, with its invalid flag, whether or
not anything is combined with it (spec/02 R44, R45). Terms ascend by tag; `old` is the destination's value where the
first fold adds. -/
def mtLane (m : MtEnv) (elem : Nat) (old : Option Val) (terms : List (Nat × Val)) : Option MtLane × Tally :=
  let windows := (terms.map fun p => p.1 / 4096).eraseDups
  let start := fun (v : Val) (tag : Option Nat) =>
    if v.isNaN then let x := pickNaN m.md [v]; (({ val := x.val, tag := tag } : MtLane), x.tally)
    else ({ val := v, tag := tag }, {})
  let each := windows.filterMap fun w =>
    match terms.filter fun p => p.1 / 4096 == w with
    | [] => none
    | p :: ps =>
      let (a, t) := start p.2 (some p.1)
      let (b, u) := mtFold m elem (fun k => k) a (ps.map fun q => (q.1, { val := q.2, tag := some q.1 }))
      some (w, b, t.join u)
  let tw := Tally.sum (each.map fun x => x.2.2)
  let rest := each.map fun x => (x.1, x.2.1)
  match old, rest with
  | some v, _ =>
    let (a, t) := start v none
    let (b, u) := mtFold m elem (fun w => 0x80000000 + w) a rest
    (some b, tw.join (t.join u))
  | none, [] => (none, tw)
  | none, (_, a) :: more =>
    let (b, t) := mtFold m elem (fun w => 0x80000000 + w) a more
    (some b, tw.join t)

/-! ### Items and keys (spec/05 R126) -/

/-- An item of the tree: the node ID and the segment number that make its key, its tag, and the lanes of one 64 B segment. -/
structure MtItem where
  (node seg tag : Nat)
  lanes : List Val

/-- The 48-bit key: the node in bits 47 to 8, the segment below (log entry 135 on rows of more than 256 segments). -/
def MtItem.key (x : MtItem) : Nat := x.node * 256 + x.seg

/-- A row of `lanes` values as items, `per` lanes to a segment. -/
def mtItems (node tag per : Nat) (row : List Val) : List MtItem :=
  (chunksOf (max 1 per) row).mapIdx fun i l => { node := node, seg := i, tag := tag, lanes := l }

/-- The belfry whose merge tree takes a node: its home belfry, node mod 16, or the one that stands in for it
(spec/15 R381). -/
def mtHome (s : State) (node : Nat) : Nat := standIn s (node % 16)

/-- Nodes in the order in which the merge trees write their segments: belfry by belfry, and by key within one. -/
def mtOrder (s : State) (nodes : List Nat) : List Nat :=
  (List.range 16).flatMap fun b => (nodes.filter fun v => mtHome s v == b).sortBy fun x y => decide (x ≤ y)

/-- Items sorted by key and tag, as a tree's runs come out merged (spec/05 R127). -/
def mtSort (xs : List MtItem) : List MtItem :=
  xs.sortBy fun x y => if x.key = y.key then decide (x.tag ≤ y.tag) else decide (x.key ≤ y.key)

/-- The lanes of one segment, element `e0` of the destination first: every item has its key. -/
def mtSegment (m : MtEnv) (e0 lanes : Nat) (old : Option (List Val)) (xs : List MtItem) : List (Option MtLane) × Tally :=
  let ls := (List.range lanes).map fun l =>
    mtLane m (e0 + l) (old.map fun vs => (vs[l]?).getD (.zero false)) (xs.map fun x => (x.tag, (x.lanes[l]?).getD (.zero false)))
  (ls.map (·.1), Tally.sum (ls.map (·.2)))

/-- A destination row of a node, element `e0` first: its items go through the tree segment by segment. -/
def mtRow (m : MtEnv) (node e0 lanes : Nat) (old : Option (List Val)) (items : List (Nat × List Val)) :
    List (Option MtLane) × Tally :=
  let xs := mtSort (items.flatMap fun it => mtItems node it.1 m.per it.2)
  let segs := (List.range (ceilDiv lanes (max 1 m.per))).map fun g =>
    let lo := g * max 1 m.per
    mtSegment m (e0 + lo) (min m.per (lanes - lo)) (old.map fun vs => vs.drop lo) (xs.filter fun x => x.seg == g)
  (segs.flatMap (·.1), Tally.sum (segs.map (·.2)))

/-- Bytes of a destination row. -/
def mtBytes (fmt : Nat) (ls : List (Option MtLane)) : List Byte :=
  ls.flatMap fun l => leBytes (elemBytes fmt) (encodeVal fmt ((l.map (·.val)).getD (.zero false)))

/-- Lanes of a row of bytes under the input rules of the mode. -/
def rowLanes (md : NumMode) (fmt : Nat) (bs : List Byte) : List Val :=
  (chunksOf (elemBytes fmt) bs).map fun c => readVal md fmt false (leNat c)

end Sys2Proof.Machine
end

