-- ==== Sys2Proof/Machine/Sample.lean ====
section
/-! DEFINITION. Graphs, ownership and SAMPLE (spec/06 R131 to R146, R159). -/

namespace Sys2Proof.Machine

/-! ### Ownership (spec/06 R134 to R136) -/

/-- The 128 bits of entry i of a bank. -/
def ownEntry (s : State) (bank i : Nat) : Nat :=
  let a := (if bank = 0 then 0x1010000 else 0x1020000) + 16 * i
  (regGet s a).toNat + (regGet s (a + 4)).toNat * 2 ^ 32 + (regGet s (a + 8)).toNat * 2 ^ 64 +
    (regGet s (a + 12)).toNat * 2 ^ 96

/-- COUNT of a bank. -/
def ownCount (s : State) (bank : Nat) : Nat := if bank = 0 then regBits s 0x1000080 12 0 else regBits s 0x1000080 28 16
/-- LO of an entry. -/
def ownLo (e : Nat) : Nat := natBits e 39 0
/-- CHIP of an entry. -/
def ownChipOf (e : Nat) : Nat := natBits e 55 40

/-- spec/06 R134, owner_of: chip and row. -/
def ownerOf (s : State) (bank v : Nat) : Nat × Nat :=
  let i := ((natsWhere (ownCount s bank) fun i => decide (ownLo (ownEntry s bank i) ≤ v)).getLast?).getD 0
  let e := ownEntry s bank i
  (ownChipOf e, natBits e 103 64 + (v - ownLo e))

/-- How a chip of the table is reached (spec/06 R136). -/
inductive Reach where
  | near | far | none
  deriving DecidableEq, Repr

/-- spec/06 R136. -/
def reachOf (s : State) (chip : Nat) : Reach :=
  if chip = ownChip s ∨ chip = 0xFFFF then .near else if chip < 0x4000 then .far else .none

/-- No node ID. -/
def nodeNone : Nat := 2 ^ 40 - 1

/-! ### Graphs -/

/-- A graph record (spec/06 Table 6.1). -/
structure GraphRec where
  (rptr nbr wgt aliases ts nodes rowBase rows : Nat)
  deriving DecidableEq, Repr

/-- spec/06 Table 6.1. -/
def parseGraph (d : List Byte) : GraphRec :=
  { rptr := fieldAt d 0 8, nbr := fieldAt d 8 8, wgt := fieldAt d 16 8, aliases := fieldAt d 24 8, ts := fieldAt d 32 8,
    nodes := fieldAt d 40 5, rowBase := fieldAt d 48 5, rows := fieldAt d 56 5 }

/-- The mode of a SAMPLE: 0 uniform, 1 weighted, 2 temporal. -/
def sampleMode (b : SampleBody) : Nat := natBits b.flags 1 0
/-- NTAB. -/
def sampleNtab (b : SampleBody) : Bool := natBits b.flags 2 2 = 1
/-- STRICT. -/
def sampleStrict (b : SampleBody) : Bool := natBits b.flags 3 3 = 1
/-- FANOUT of hop h (from 1). -/
def sampleFan (b : SampleBody) (h : Nat) : Nat := natBits b.fanout (16 * h - 1) (16 * h - 16)

/-- Edges of a graph's arrays: one more than the last that a held row reaches (spec/06 R131). -/
def graphEdges (s : State) (o : Op) (g : GraphRec) : Nat := leNat (opRec s o (g.rptr + 8 * g.rows) 8)

/-- Ranges a SAMPLE reads (spec/08 R203). -/
def readsSample (s : State) (o : Op) (b : SampleBody) : List (Nat × Nat) :=
  let g := parseGraph (opRec s o b.graph 64)
  let e := graphEdges s o g
  [(b.graph, 64), (b.seed, 16 * b.seeds), (g.rptr, 8 * (g.rows + 1)), (g.nbr, 5 * max 1 e)] ++
    (if sampleMode b = 1 then [(g.aliases, 8 * max 1 e)] else []) ++ (if sampleMode b = 2 then [(g.ts, 8 * max 1 e)] else [])

/-- An address of LPDDR5X or the Lantern. -/
def deepRange (s : State) (o : Op) (a n align : Nat) : Bool :=
  opRange s o a n align && (regionOf (addrOff a) == .lpddr || regionOf (addrOff a) == .lantern)

/-- SAMPLE's acceptance checks (spec/06 Table 6.11). DESIGN CHOICE: a graph record whose NODES or ROWS is outside its range in Table
6.1, for which Table 6.11 has no row, refuses the op with MALFORMED (log entry 153). -/
def checkSample (s : State) (o : Op) (b : SampleBody) : Option Status :=
  let fanBad := (List.range b.hops).any fun i => sampleFan b (i + 1) == 0 || decide (sampleFan b (i + 1) > 1024)
  if b.hops == 0 || decide (b.hops > 4) || fanBad || sampleMode b == 3 || decide (b.span ≥ 2 ^ 63) || b.seeds == 0 ||
      decide (b.seeds > 2 ^ 24) || decide (b.prCap < 2) || maskBad s b.mask then some .malformed
  else if !opRange s o b.graph 64 64 then some .outOfRange
  else
    let g := parseGraph (opRec s o b.graph 64)
    refuse
      [ (g.nodes == 0 || g.rows == 0 || decide (g.rowBase + g.rows > g.nodes), .malformed),
        (sampleMode b == 1 && absent g.aliases || sampleMode b == 2 && absent g.ts, .malformed),
        (isLocal s b.pr && meetsView s (addrOff b.pr) (64 * b.prCap), .malformed),
        (!opRange s o b.seed (16 * b.seeds) 1 || !deepRange s o b.pr (64 * b.prCap) 64, .outOfRange),
        (!deepRange s o g.rptr (8 * (g.rows + 1)) 1 || !deepRange s o g.nbr 5 1, .outOfRange),
        (sampleMode b == 1 && !deepRange s o g.aliases 8 1 || sampleMode b == 2 && !deepRange s o g.ts 8 1, .outOfRange) ]

/-! ### Draws -/

/-- spec/06 R139, draw_uniform: offsets from the first candidate. -/
def drawUniform (word : Nat → Nat) (n c : Nat) : List Nat :=
  if c = n then List.range n
  else
    let set := (List.range c).foldl (fun (set : List Nat) i =>
      let j := n - c + i
      let t := (word i % 2 ^ 32 * (j + 1)) >>> 32
      set ++ [if set.contains t then j else t]) []
    set.sortBy fun a b => decide (a ≤ b)

/-- spec/06 R140, draw_weighted: offsets, one at or above d where an alias-table entry is bad. -/
def drawWeighted (word : Nat → Nat) (entry : Nat → Except Need Nat) (d f : Nat) : Except Need (List Nat) :=
  collect (fun j => do
    let w := word j
    let i := (w % 2 ^ 32 * d) >>> 32
    let e ← entry i
    let prob := e >>> 32
    return if w >>> 32 < prob ∨ prob = 0xFFFFFFFF then i else e % 2 ^ 32) (List.range f)

/-- spec/06 R141, lower_bound: first offset with a timestamp at or above x, and the offsets whose timestamps were read;
`fuel` bounds the halvings. -/
def lowerBound (ts : Nat → Except Need Int) (x : Int) : Nat → Nat → Nat → Except Need (Nat × List Nat)
  | 0, first, _ => .ok (first, [])
  | _, first, 0 => .ok (first, [])
  | n + 1, first, count => do
    let step := count / 2
    let t ← ts (first + step)
    let (r, seen) ← if t < x then lowerBound ts x n (first + step + 1) (count - step - 1) else lowerBound ts x n first step
    return (r, (first + step) :: seen)

/-- An entry of a frontier: node (none is NONE), and the time of the edge that drew it. -/
structure FrontEntry where
  node : Option Nat
  time : Int
  edge : Nat := 0
  rank : Nat := 0
  deriving DecidableEq, Repr

/-- What the expansion of one parent comes to: entries, what BAD and NOT_HELD count, whether its row or its ID is bad, and the
ranges of CSR and timestamps, and of alias-table entries, that its strand read. -/
structure Expanded where
  entries : List FrontEntry := []
  bad : Nat := 0
  badRow : Bool := false
  notHeld : Nat := 0
  reads : List (Nat × Nat) := []
  aliasReads : List (Nat × Nat) := []

/-- The offsets, from the first candidate edge, that a parent draws, with the timestamps and alias entries read for them
(spec/06 R139 to R141). -/
def drawEdges (b : SampleBody) (g : GraphRec) (nat : Nat → Nat → Except Need Nat) (word : Nat → Nat) (lo d f : Nat)
    (time : Int) : Except Need (List Nat × List (Nat × Nat) × List (Nat × Nat)) := do
  let ts := fun (k : Nat) => (nat (g.ts + 8 * (lo + k)) 8).map (asSigned 64)
  let span := fun (k : Nat) => (g.ts + 8 * (lo + k), 8)
  match sampleMode b with
  | 1 =>
    if d = 0 then return ([], [], [])
    else
      let l ← drawWeighted word (fun i => nat (g.aliases + 8 * (lo + i)) 8) d f
      return (l, [], (List.range f).map fun j => (g.aliases + 8 * (lo + (word j % 2 ^ 32 * d) >>> 32), 8))
  | 2 =>
    let (a, sa) ← if b.span = 0 then .ok (0, []) else lowerBound ts (max (-(2 ^ 63 : Int)) (time - b.span)) 64 0 d
    let (e, se) ← lowerBound ts time 64 0 d
    let n := e - a
    return ((drawUniform word n (min f n)).map (a + ·), (sa ++ se).map span, [])
  | _ => return (drawUniform word d (min f d), [], [])

/-- One entry of a parent: the edge it drew, its neighbour, and whether BAD counts it (spec/06 Tables 6.7, 6.11). -/
def drawnEntry (b : SampleBody) (g : GraphRec) (nat : Nat → Nat → Except Need Nat) (lo d : Nat) (x : Nat × Nat) :
    Except Need (FrontEntry × Nat) := do
  let (off, r) := x
  if off ≥ d then return ({ node := none, time := 0, edge := (lo + off) % 2 ^ 48, rank := r }, 1)
  else
    let n ← nat (g.nbr + 5 * (lo + off)) 5
    let t ← if sampleMode b = 2 then (nat (g.ts + 8 * (lo + off)) 8).map (asSigned 64) else .ok 0
    return ({ node := if n ≥ g.nodes then none else some n, time := t, edge := lo + off, rank := r }, b2n (decide (n ≥ g.nodes)))

/-- One parent expanded on one strand (spec/06 R137 to R143, Tables 6.5, 6.7, 6.11). -/
def expandParent (s : State) (o : Op) (b : SampleBody) (g : GraphRec) (hop p : Nat) (par : FrontEntry) :
    Except Need Expanded := do
  match par.node with
  | none => return {}
  | some v =>
    if v ≥ g.nodes then return { bad := 1, badRow := true }
    else if v < g.rowBase ∨ v ≥ g.rowBase + g.rows then return { notHeld := 1 }
    else
      let row := g.rptr + 8 * (v - g.rowBase)
      let lo ← opNat s o row 8
      let hi ← opNat s o (row + 8) 8
      if hi < lo ∨ hi - lo ≥ 2 ^ 32 ∨ hi ≥ 2 ^ 48 then return { bad := 1, badRow := true, reads := [(row, 16)] }
      else
        let d := hi - lo
        let word := fun i => (drawWord (BitVec.ofNat 64 o.seed) b.sampleId hop p i).toNat
        let (offs, ts, al) ← drawEdges b g (opNat s o) word lo d (sampleFan b hop) par.time
        let es ← collect (drawnEntry b g (opNat s o) lo d) offs.zipIdx
        let edge := fun (off : Nat) => (g.nbr + 5 * (lo + off), 5) ::
          if sampleMode b = 2 then [(g.ts + 8 * (lo + off), 8)] else []
        return { entries := es.map fun (x : FrontEntry × Nat) => x.1, bad := (es.map fun (x : FrontEntry × Nat) => x.2).sum,
                 reads := (row, 16) :: ts ++ (offs.filter (decide <| · < d)).flatMap edge, aliasReads := al }

/-- One hop: each parent's entries, in order. -/
def expandHop (s : State) (o : Op) (b : SampleBody) (g : GraphRec) (hop : Nat) (front : List FrontEntry) :
    Except Need (List Expanded) :=
  collect (fun (x : FrontEntry × Nat) => expandParent s o b g hop x.2 x.1) front.zipIdx

/-- Hops from `hop` on, `n` of them. -/
def expandHops (s : State) (o : Op) (b : SampleBody) (g : GraphRec) :
    Nat → Nat → List FrontEntry → Except Need (List (List Expanded))
  | 0, _, _ => .ok []
  | n + 1, hop, front => do
    let es ← expandHop s o b g hop front
    let rest ← expandHops s o b g n (hop + 1) (es.flatMap (·.entries))
    return es :: rest

/-- The seed list. -/
def readSeeds (s : State) (o : Op) (b : SampleBody) : Except Need (List FrontEntry) :=
  collect (fun i => do
    let v ← opNat s o (b.seed + 16 * i) 5
    let t ← if sampleMode b = 2 then (opNat s o (b.seed + 16 * i + 8) 8).map (asSigned 64) else .ok 0
    return { node := if v = nodeNone then none else some v, time := t }) (List.range b.seeds)

/-! ### The path record (spec/06 R144 to R146) -/

/-- Bytes padded with zeros to 64. -/
def pad64 (bs : List Byte) : List Byte := bs ++ List.replicate (roundUp bs.length 64 - bs.length) 0

/-- A node as 40 bits. -/
def nodeCode (n : Option Nat) : Nat := n.getD nodeNone

/-- What has been laid out of a record. -/
structure Record where
  pos : Nat
  writes : List (Nat × List Byte) := []
  hopOff : List Nat := []
  edges : List Nat := []
  /-- Where each array of local indices goes, with its nodes. -/
  locals : List (Nat × List (Option Nat)) := []
  cut : Bool := false

/-- The seeds' part of a record. DESIGN CHOICE: a list that does not fit in PR_CAP, of which the spec says nothing, is treated as a
hop that does not: nothing of it is written, the record is TRUNCATED after its header, and no hop follows (log entry 153). -/
def layoutSeeds (b : SampleBody) (cap : Nat) (seeds : List FrontEntry) : Record :=
  let ids := pad64 (seeds.flatMap fun e => leBytes 8 (nodeCode e.node))
  let loc := 128 + ids.length
  let pos := loc + if sampleNtab b then roundUp (4 * seeds.length) 64 else 0
  if pos > cap then { pos := 128, cut := true }
  else { pos := pos, writes := [(128, ids)], locals := [(loc, seeds.map (·.node))] }

/-- Hop h laid out, or the record truncated before it (spec/06 R145). -/
def layoutHop (b : SampleBody) (cap : Nat) (r : Record) (es : List Expanded) : Record :=
  if r.cut then r
  else
    let entries := es.flatMap (·.entries)
    let offs := es.foldl (fun (l : List Nat) e => l ++ [l.getLastD 0 + e.entries.length]) [0]
    let o := pad64 (offs.flatMap (leBytes 4))
    let e := pad64 (entries.flatMap fun e => leBytes 8 (nodeCode e.node + e.rank * 2 ^ 40) ++ leBytes 8 e.edge)
    let loc := r.pos + o.length + e.length
    let next := loc + if sampleNtab b then roundUp (4 * entries.length) 64 else 0
    if next > cap ∨ entries.length ≥ 2 ^ 32 then { r with cut := true }
    else
      { pos := next, writes := r.writes ++ [(r.pos, o), (r.pos + o.length, e)], hopOff := r.hopOff ++ [r.pos],
        edges := r.edges ++ [entries.length], locals := r.locals ++ [(loc, entries.map (·.node))] }

/-- Distinct nodes in ascending (v mod 16, v) order (spec/06 R146). -/
def nodeTable (ns : List (Option Nat)) : List Nat :=
  ((ns.filterMap id).eraseDups).sortBy fun a b =>
    if a % 16 = b % 16 then decide (a ≤ b) else decide (a % 16 ≤ b % 16)

/-- The header (spec/06 Table 6.6). -/
def recordHeader (b : SampleBody) (r : Record) (bad notHeld ntabOff ntabCount : Nat) (ntabDone : Bool) : List Byte :=
  let st := (2 ^ r.edges.length - 1) + 16 + 32 * b2n r.cut + 128 * b2n ntabDone
  let four := fun (w : Nat) (l : List Nat) => (List.range 4).flatMap fun i => leBytes w ((l[i]?).getD 0)
  leBytes 8 b.graph ++ leBytes 4 b.sampleId ++ leBytes 4 b.seeds ++ leBytes 1 b.hops ++ leBytes 1 st ++ leBytes 6 0 ++
    leBytes 8 r.pos ++ four 8 r.hopOff ++ four 4 r.edges ++ leBytes 4 (min 0xFFFFFFFF notHeld) ++
    leBytes 4 (min 0xFFFFFFFF bad) ++ leBytes 8 ntabOff ++ leBytes 4 ntabCount ++ leBytes 28 0

/-- 64 B grains that a list of local ranges touches, each once. -/
def grainsTouched (rs : List (Nat × Nat)) : List Nat :=
  (rs.flatMap fun r => (List.range (grainCount (addrOff r.1) r.2)).map fun i => addrOff r.1 / 64 + i).eraseDups

/-- The bursts of a SAMPLE: for each parent, on the turret that its position is dealt to, one for the grains of CSR and
timestamps, and what all its grains take at the memories (spec/06 R143, R148; log entry 134). -/
def sampleBursts (s : State) (o : Op) (b : SampleBody) (hops : List (List Expanded)) : List Burst :=
  hops.flatMap fun es => es.zipIdx.flatMap fun x =>
    let csr := grainsTouched x.1.reads
    { act := 2, unit := dealTurret s (opCrew s o b.mask) x.2, size := csr.length, count := 1 } ::
      (csr ++ grainsTouched x.1.aliasReads).flatMap fun g => memBurst s (64 * g, 64)

/-- A turret that some parent is dealt to has no free strand: the walker waits (spec/06 R147). -/
def walkersWait (s : State) (o : Op) (b : SampleBody) (hops : List (List Expanded)) : Bool :=
  hops.any fun es => (List.range es.length).any fun p => freeStrands s (dealTurret s (opCrew s o b.mask) p) == 0

/-- The record of a SAMPLE: its writes, and whether it was truncated (spec/06 R142, R144 to R146). Local indices are those of
the whole record, written or not. -/
def sampleRecord (b : SampleBody) (seeds : List FrontEntry) (hops : List (List Expanded)) : List (Nat × List Byte) × Bool :=
  let cap := 64 * b.prCap
  let r := hops.foldl (layoutHop b cap) (layoutSeeds b cap seeds)
  let all := hops.flatten
  let nodes := nodeTable ((seeds ++ all.flatMap (·.entries)).map (·.node))
  let table := pad64 (nodes.flatMap (leBytes 8))
  let fits := decide (r.pos + table.length ≤ cap)
  let ntab := sampleNtab b && !r.cut && fits
  let idx := fun (n : Option Nat) => match n with
    | some v => (indexWhere (fun w => w == v) nodes).getD 0xFFFFFFFF
    | none => 0xFFFFFFFF
  let locals := if sampleNtab b then r.locals.map fun x => (x.1, pad64 (x.2.flatMap fun n => leBytes 4 (idx n))) else []
  let r' : Record := { r with cut := r.cut || (sampleNtab b && !fits), pos := if ntab then r.pos + table.length else r.pos }
  let head := recordHeader b r' (all.map (·.bad)).sum (all.map (·.notHeld)).sum (if ntab then r.pos else 0)
    (if ntab then nodes.length else 0) ntab
  (r.writes ++ locals ++ (if ntab then [(r.pos, table)] else []) ++ [(0, head)], r'.cut)

/-- The seeds and the expanded hops. -/
def sampleHops (s : State) (o : Op) (b : SampleBody) : Except Need (List FrontEntry × List (List Expanded)) := do
  let seeds ← readSeeds s o b
  let hops ← expandHops s o b (parseGraph (opRec s o b.graph 64)) b.hops 1 seeds
  return (seeds, hops)

/-- A SAMPLE ends: its counts and its status (spec/06 Table 6.11). -/
def sampleEnd (s : State) (o : Op) (b : SampleBody) (all : List Expanded) (cut : Bool) : State :=
  let s := opUpdate s o.id fun o => { o with
    c0 := min 0xFFFFFFFF (all.map (·.bad)).sum, c1 := min 0xFFFFFFFF (all.map (·.notHeld)).sum }
  if sampleStrict b && all.any (·.badRow) then opStrictFail s o.id .malformed
  else if sampleStrict b && all.any (fun x => decide (x.notHeld ≠ 0)) then opStrictFail s o.id .outOfRange
  else opDone s o.id (if cut then .outOfRange else .ok)

/-- SAMPLE's work. -/
def runSample (s : State) (o : Op) (b : SampleBody) : State :=
  match sampleHops s o b with
  | .error n => opNeed s o.id n
  | .ok (seeds, hops) =>
    if walkersWait s o b hops then s
    else askTokens s o 1 (sampleBursts s o b hops) fun s =>
      let (ws, cut) := sampleRecord b seeds hops
      applyWrites s o (ws.map fun w => (b.pr + w.1, w.2)) fun s => sampleEnd s o b hops.flatten cut

/-- A SAMPLE whose record lies at this offset has not ended (spec/06 R153). -/
def liveSample (s : State) (o : Op) (off : Nat) : Bool :=
  s.ops.any fun x => decide (x.id < o.id) && !x.isDone && match x.body with
    | .sample b => addrOff b.pr == off
    | _ => false

end Sys2Proof.Machine
end

