-- ==== Sys2Proof/Machine/Gather.lean ====
section
/-! DEFINITION. Path records as read (spec/06 R144, R153) and GATHER (spec/06 R147 to R154, R160). -/

namespace Sys2Proof.Machine

/-! ### Reading a path record -/

/-- STATE of a record. -/
def recState (s : State) (o : Op) (pr : Nat) : Nat := leNat (opRec s o (pr + 17) 1)
/-- A header field of a record. -/
def recField (s : State) (o : Op) (pr at_ n : Nat) : Nat := leNat (opRec s o (pr + at_) n)
/-- Offset of hop h's section. -/
def recHop (s : State) (o : Op) (pr h : Nat) : Nat := recField s o pr (32 + 8 * (h - 1)) 8
/-- Entries of frontier h; frontier 0 is the seeds. -/
def recCount (s : State) (o : Op) (pr h : Nat) : Nat :=
  if h = 0 then recField s o pr 12 4 else recField s o pr (64 + 4 * (h - 1)) 4
/-- Address of entry i of hop h. -/
def recEntry (s : State) (o : Op) (pr h i : Nat) : Nat :=
  pr + recHop s o pr h + roundUp (4 * (recCount s o pr (h - 1) + 1)) 64 + 16 * i

/-- Why a record cannot be used: FAILED, a selected hop not closed, or no node table where it is asked for
(spec/06 R153). -/
def recordBad (s : State) (o : Op) (pr : Nat) (hops : List Nat) (ntab : Bool) : Bool :=
  let st := recState s o pr
  natBits st 6 6 == 1 || (ntab && natBits st 7 7 == 0) ||
    hops.any fun h => h == 0 || decide (h > 4) || natBits st (h - 1) (h - 1) == 0

/-- Parent position of each entry of a hop, in record order. -/
def recParents (s : State) (o : Op) (pr h : Nat) : Except Need (List Nat) := do
  let n := recCount s o pr (h - 1)
  let offs ← collect (fun i => opNat s o (pr + recHop s o pr h + 4 * i) 4) (List.range (n + 1))
  return (List.range n).flatMap fun p => List.replicate ((offs[p + 1]?).getD 0 - (offs[p]?).getD 0) p

/-! ### Outcomes (spec/06 Table 6.11) -/

/-- What went wrong by position: out of range and refused, with the index, and whether a row failed. -/
structure RowMarks where
  range : List (Nat × Nat) := []
  refused : List (Nat × Nat) := []
  failed : Bool := false

/-- The first offending index. -/
def RowMarks.first (m : RowMarks) : Nat :=
  match (m.range ++ m.refused).foldl (fun (acc : Option (Nat × Nat)) x => match acc with
    | some y => if x.1 < y.1 then some x else some y
    | none => some x) none with
  | some x => x.2
  | none => 0

/-- An op of rows ends: counts, first offending index and status (spec/06 Table 6.11, spec/13 Table 13.8a). -/
def rowsEnd (s : State) (id : Nat) (strict : Bool) (m : RowMarks) : State :=
  let s := opUpdate s id fun o =>
    { o with c0 := min 0xFFFFFFFF m.range.length, c1 := min 0xFFFFFFFF m.refused.length, aux := m.first }
  if m.failed then opDone s id .aborted
  else if !m.refused.isEmpty then opDone s id .outOfRange
  else if strict && !m.range.isEmpty then opStrictFail s id .outOfRange
  else opDone s id .ok

/-- Where an index's row is. -/
inductive RowPlace where
  /-- NONE: the null row, and nothing said. -/
  | null
  /-- Outside the graph, its owner's reach or the region: counted. -/
  | bad (index : Nat)
  | near (a : Nat)
  | far (chip off index : Nat)
  deriving DecidableEq, Repr

/-- Where the row of a node lies (spec/06 R134, R136): `bound` is NODES. -/
def placeNode (s : State) (o : Op) (base rowBytes bound : Nat) (v : Nat) : RowPlace :=
  if v = nodeNone then .null
  else if v ≥ bound then .bad v
  else
    let (chip, row) := ownerOf s (o.bank.getD 0) v
    let off := addrOff base + row * rowBytes
    match reachOf s chip with
    | .near => if rangeOkOp s o off rowBytes then .near off else .bad v
    | .far => .far chip off v
    | .none => .bad v

/-- Where a local row lies. -/
def placeRow (s : State) (o : Op) (base rowBytes row : Nat) : RowPlace :=
  let off := addrOff base + row * rowBytes
  if rangeOkOp s o off rowBytes then .near off else .bad row

/-! ### GATHER -/

/-- KIND. -/
def gatherKind (b : GatherBody) : Nat := natBits b.flags 1 0
/-- NTAB. -/
def gatherNtab (b : GatherBody) : Bool := natBits b.flags 2 2 = 1
/-- ARG. -/
def gatherArg (b : GatherBody) : Bool := natBits b.flags 3 3 = 1
/-- STRICT. -/
def gatherStrict (b : GatherBody) : Bool := natBits b.flags 4 4 = 1
/-- Lanes of a row (ARG_FMT). -/
def gatherLanes (b : GatherBody) : Nat := b.rowBytes / if b.argFmt = 1 then 2 else 4

/-- Hops a GATHER selects. -/
def gatherHops (b : GatherBody) : List Nat :=
  if gatherKind b = 1 then (if gatherNtab b then [] else (List.range 5).filter fun h => h ≠ 0 && natBits b.sel h h == 1)
  else [natBits b.sel 2 0]

/-- Output rows of a GATHER whose record is complete. -/
def gatherRows (s : State) (o : Op) (b : GatherBody) : Nat :=
  if gatherKind b = 0 then b.count
  else if gatherKind b = 1 then
    (if gatherNtab b then recField s o b.src 96 4
     else (((List.range 5).filter fun h => natBits b.sel h h == 1).map (recCount s o b.src)).sum)
  else recCount s o b.src (natBits b.sel 2 0)

/-- GRAPH_ADDR of a record is a graph record's address here (spec/06 R131, spec/13 R433). -/
def recGraphOk (s : State) (o : Op) (pr : Nat) : Bool := opRange s o (recField s o pr 0 8) 64 64

/-- What a GATHER's record comes to when it can be read. -/
def gatherRecord (s : State) (o : Op) (b : GatherBody) : Option Status :=
  if recordBad s o b.src (gatherHops b) (gatherKind b == 1 && gatherNtab b) then some .malformed
  else
    let n := gatherRows s o b * b.rowBytes
    refuse
      [ (isLocal s b.dst && meetsView s (addrOff b.dst) n, .malformed), (!recGraphOk s o b.src, .outOfRange),
        (!opRange s o b.dst n 1, .outOfRange),
        (gatherArg b && !opRange s o b.arg (4 * recCount s o b.src (natBits b.sel 2 0 - 1) * gatherLanes b) 1, .outOfRange) ]

/-- GATHER's acceptance checks (spec/06 Table 6.11). -/
def checkGather (s : State) (o : Op) (b : GatherBody) : Option Status :=
  let k := gatherKind b
  if maskBad s b.mask || b.rowBytes == 0 || decide (b.rowBytes > 65536) || b.rowBytes % 64 != 0 ||
      (gatherArg b && (k != 3 || decide (b.argFmt > 1))) ||
      (decide (k ≥ 2) && (natBits b.sel 2 0 == 0 || decide (natBits b.sel 2 0 > 4))) then some .malformed
  else if k = 0 then
    refuse
      [ (isLocal s b.dst && meetsView s (addrOff b.dst) (b.count * b.rowBytes), .malformed),
        (!absent b.feat && meetsMirror b.feat 1, .outOfRange),
        (!opRange s o b.src (8 * b.count) 1 || !opRange s o b.dst (b.count * b.rowBytes) 1, .outOfRange) ]
  else if !opRange s o b.src 128 64 || (!absent b.feat && meetsMirror b.feat 1) then some .outOfRange
  else if liveSample s o (addrOff b.src) then
    refuse
      [ (isLocal s b.dst && meetsView s (addrOff b.dst) b.rowBytes, .malformed),
        (!opRange s o b.dst b.rowBytes 1 || (gatherArg b && !opRange s o b.arg (4 * gatherLanes b) 1), .outOfRange) ]
  else gatherRecord s o b

/-- NODES of the graph that a record was sampled from. -/
def recNodes (s : State) (o : Op) (pr : Nat) : Nat := (parseGraph (opRec s o (recField s o pr 0 8) 64)).nodes

/-- Where each output row comes from, with its parent's position for ARG (spec/06 Table 6.8). -/
def gatherPlaces (s : State) (o : Op) (b : GatherBody) : Except Need (List (RowPlace × Nat)) := do
  let node := fun (bound v : Nat) => (placeNode s o b.feat b.rowBytes bound v, 0)
  match gatherKind b with
  | 0 =>
    let vs ← collect (fun i => opNat s o (b.src + 8 * i) 8) (List.range b.count)
    return vs.map (node nodeNone)
  | 1 =>
    let bound := recNodes s o b.src
    if gatherNtab b then
      let t := recField s o b.src 88 8
      let vs ← collect (fun i => opNat s o (b.src + t + 8 * i) 5) (List.range (recField s o b.src 96 4))
      return vs.map (node bound)
    else
      let fs ← collect (fun h =>
        collect (fun i => opNat s o (if h = 0 then b.src + 128 + 8 * i else recEntry s o b.src h i) 5)
          (List.range (recCount s o b.src h))) ((List.range 5).filter fun h => natBits b.sel h h == 1)
      return fs.flatten.map (node bound)
  | 2 =>
    let h := natBits b.sel 2 0
    let es ← collect (fun i => opNat s o (recEntry s o b.src h i + 8) 6) (List.range (recCount s o b.src h))
    return es.map fun e => (placeRow s o b.feat b.rowBytes e, 0)
  | _ =>
    let ps ← recParents s o b.src (natBits b.sel 2 0)
    return ps.map fun p => (placeRow s o b.feat b.rowBytes p, p)

/-- Bytes of a path record: its USED. -/
def recSpan (s : State) (o : Op) (pr : Nat) : Nat := max 128 (recField s o pr 24 8)

/-- Ranges a GATHER reads (spec/08 R203): its indices, and its rows as far as they can be told. -/
def readsGather (s : State) (o : Op) (b : GatherBody) : List (Nat × Nat) :=
  let rows := match gatherPlaces s o b with
    | .ok ps => ps.filterMap fun p => match p.1 with
      | .near a => some (a + 2 ^ 48 * 0xFFFF, b.rowBytes)
      | _ => none
    | .error _ => [(b.feat, 1)]
  (b.src, if gatherKind b = 0 then 8 * b.count else recSpan s o b.src) ::
    (if gatherArg b then [(b.arg, 4 * recCount s o b.src (natBits b.sel 2 0 - 1) * gatherLanes b)] else []) ++ rows

/-- A row of lanes kept where the winner's tag is this row's, +0 elsewhere (spec/06 R152, ARG). -/
def keepWinners (s : State) (o : Op) (b : GatherBody) (i p : Nat) (row : List Byte) : Except Need (List Byte) := do
  let n := gatherLanes b
  let w := b.rowBytes / n
  let parts ← collect (fun l => do
    let t ← opNat s o (b.arg + (p * n + l) * 4) 4
    return if t = i then (row.drop (l * w)).take w else List.replicate w 0) (List.range n)
  return parts.flatten

/-- The rows that a list of places asks for, by position: those near or far, each on the turret it is dealt to. -/
def placeItem (s : State) (bs : List Nat) (rowBytes : Nat) (p : RowPlace) (i : Nat) : Option RowItem :=
  match p with
  | .near a => some { turret := dealTurret s bs i, chip := none, req := { off := a, bytes := rowBytes } }
  | .far c off _ => some { turret := dealTurret s bs i, chip := some c, req := { off := off, bytes := rowBytes } }
  | _ => none

/-- The index that a place stands for. -/
def RowPlace.index : RowPlace → Nat
  | .bad v => v
  | .far _ _ v => v
  | _ => 0

/-- Rows of a list of places, each with the reply of its remote row: local ones read, null rows for those that cannot be,
with what is to be said of each (spec/06 R154, Table 6.11). -/
def placedRows (s : State) (o : Op) (rowBytes : Nat) (ps : List (RowPlace × Option RowReply)) :
    Except Need (List (List Byte) × RowMarks) := do
  let null := List.replicate rowBytes (0 : Byte)
  let rows ← collect (fun (p : RowPlace × Option RowReply) => match p with
    | (.near a, _) => (opRead s o a rowBytes).map fun bs => (bs, (0 : Nat))
    | (.far _ _ _, some r) => .ok (if r.code = 0 then r.bytes else null, r.code)
    | (.null, _) => .ok (null, 0)
    | _ => .ok (null, 2)) ps
  let at_ := fun (code : Nat) => ((rows.zip ps).zipIdx.filter fun x => x.1.1.2 == code).map fun x => (x.2, x.1.2.1.index)
  return (rows.map (·.1), { range := at_ 2, refused := at_ 1, failed := rows.any fun r => r.2 == 3 })

/-- A place on another chip lies in its register mirror: the op that comes to it ends OUT_OF_RANGE (spec/01 R20). -/
def placesMirror (rowBytes : Nat) (ps : List RowPlace) : Bool :=
  ps.any fun p => match p with
    | .far _ off _ => meetsMirror off rowBytes
    | _ => false

/-- What a remote row's chip makes of the op, if it cannot be sent to (spec/12 R304). -/
def farStatus (s : State) (chips : List Nat) : Option Status := chips.findSome? (destStatus s)

/-- Places with the replies of their windows, in order: the requests of `xs` are those of the places that ask. -/
def replyPlaces (reply : RowItem × Nat → Option RowReply) :
    List RowPlace → List (RowItem × Nat) → List (RowPlace × Option RowReply)
  | [], _ => []
  | .null :: ps, xs => (.null, none) :: replyPlaces reply ps xs
  | .bad v :: ps, xs => (.bad v, none) :: replyPlaces reply ps xs
  | p :: ps, [] => (p, none) :: replyPlaces reply ps []
  | p :: ps, x :: xs => (p, reply x) :: replyPlaces reply ps xs

/-- A GATHER's rows once they are here. -/
def gatherWork (s : State) (o : Op) (b : GatherBody) (ps : List (RowPlace × Nat)) (replies : List (RowPlace × Option RowReply)) :
    Except Need (List (List Byte) × RowMarks) := do
  let (rows, m) ← placedRows s o b.rowBytes replies
  let rows ← if gatherArg b then
      collect (fun (x : (List Byte × (RowPlace × Nat)) × Nat) => keepWinners s o b x.2 x.1.2.2 x.1.1) (rows.zip ps).zipIdx
    else .ok rows
  return (rows, m)

/-- GATHER's work; it waits for a SAMPLE that still runs (spec/06 R153). -/
def runGather (s : State) (o : Op) (b : GatherBody) : State :=
  if gatherKind b ≠ 0 && liveSample s o (addrOff b.src) then s
  else match (if gatherKind b = 0 then none else gatherRecord s o b) with
    | some st => opDone s o.id st
    | none =>
      match gatherPlaces s o b with
      | .error n => opNeed s o.id n
      | .ok ps =>
        if placesMirror b.rowBytes (ps.map (·.1)) then opDone s o.id .outOfRange
        else
        let items := (ps.zipIdx.filterMap fun x => placeItem s (opCrew s o b.mask) b.rowBytes x.1.1 x.2)
        match farStatus s (items.filterMap (·.chip)) with
        | some st => unroutable s o.id st
        | none => withRows s o b.roundRows b.windowReq items fun s xs reply =>
          match gatherWork s o b ps (replyPlaces reply (ps.map (·.1)) xs) with
          | .error n => opNeed s o.id n
          | .ok (rows, m) => applyWrites s o [(b.dst, rows.flatten)] fun s => rowsEnd s o.id (gatherStrict b) m

end Sys2Proof.Machine
end

