-- ==== Sys2Proof/Machine/Scatter.lean ====
section
/-! DEFINITION. SCATTER (spec/06 R155 to R157, R161): the path form, the local list form, and the list form that is a job
collective, with what an owner does of it. -/

namespace Sys2Proof.Machine

/-- COMBINE. -/
def scatterComb (b : ScatterBody) : Nat := natBits b.flags 1 0
/-- KIND 1: the path form. -/
def scatterPath (b : ScatterBody) : Bool := natBits b.flags 2 2 = 1
/-- INIT. -/
def scatterInit (b : ScatterBody) : Bool := natBits b.flags 3 3 = 1
/-- ARG. -/
def scatterArg (b : ScatterBody) : Bool := natBits b.flags 4 4 = 1
/-- EW. -/
def scatterEw (b : ScatterBody) : Bool := natBits b.flags 5 5 = 1
/-- STRICT. -/
def scatterStrict (b : ScatterBody) : Bool := natBits b.flags 6 6 = 1
/-- Source and destination formats. -/
def scatterSrc (b : ScatterBody) : Nat := natBits b.fmts 3 0
/-- Destination format. -/
def scatterDst (b : ScatterBody) : Nat := natBits b.fmts 7 4
/-- Lanes of a row. -/
def scatterLanes (b : ScatterBody) : Nat := b.rowBytes / elemBytes (scatterSrc b)
/-- Bytes of a destination row. -/
def scatterRow (b : ScatterBody) : Nat := scatterLanes b * elemBytes (scatterDst b)

/-- What a SCATTER's merges run under. -/
def scatterEnv (o : Op) (b : ScatterBody) : MtEnv :=
  { md := o.mode, op := mtOf (scatterComb b), fmt := scatterDst b, seed := o.seed, tensor := b.outTensor,
    per := if scatterEw b then 16 else 64 / elemBytes (scatterSrc b) }

/-- Ranges a SCATTER reads (spec/08 R203). -/
def readsScatter (s : State) (o : Op) (b : ScatterBody) : List (Nat × Nat) :=
  if scatterPath b then
    let g := parseGraph (opRec s o (recField s o b.idx 0 8) 64)
    let n := recCount s o b.idx (b.hop - 1)
    [(b.idx, recSpan s o b.idx), (b.src, recCount s o b.idx b.hop * b.rowBytes)] ++
      (if scatterEw b then [(g.wgt, 4 * max 1 (graphEdges s o g))] else []) ++
      (if scatterInit b then [] else [(b.dst, n * scatterRow b)])
  else [(b.idx, 8 * b.count), (b.src, b.count * b.rowBytes)]

/-- The checks of a complete path record (spec/06 Table 6.11). -/
def scatterRecord (s : State) (o : Op) (b : ScatterBody) : Option Status :=
  if recordBad s o b.idx [b.hop] false then some .malformed
  else
    let g := parseGraph (opRec s o (recField s o b.idx 0 8) 64)
    let n := recCount s o b.idx (b.hop - 1)
    refuse
      [ (scatterEw b && absent g.wgt, .malformed),
        (scatterEw b && !deepRange s o g.wgt (4 * max 1 (graphEdges s o g)) 1, .outOfRange),
        (isLocal s b.dst && meetsView s (addrOff b.dst) (n * scatterRow b), .malformed),
        (scatterArg b && isLocal s b.arg && meetsView s (addrOff b.arg) (4 * n * scatterLanes b), .malformed),
        (!recGraphOk s o b.idx, .outOfRange),
        (!opRange s o b.src (recCount s o b.idx b.hop * b.rowBytes) 1 || !opRange s o b.dst (n * scatterRow b) 1, .outOfRange),
        (scatterArg b && !opRange s o b.arg (4 * n * scatterLanes b) 1, .outOfRange) ]

/-- SCATTER's acceptance checks (spec/06 Table 6.11). -/
def checkScatter (s : State) (o : Op) (b : ScatterBody) : Option Status :=
  let path := scatterPath b
  if maskBad s b.mask || b.rowBytes == 0 || decide (b.rowBytes > 65536) || b.rowBytes % 64 != 0 || scatterComb b == 3 ||
      decide (scatterSrc b > 1) || (scatterDst b != 0 && scatterDst b != 0xC) || (scatterEw b && !path) ||
      (scatterArg b && (!path || scatterComb b == 0)) || (path && (b.hop == 0 || decide (b.hop > 4))) then some .malformed
  else if path then
    (if !opRange s o b.idx 128 64 then some .outOfRange
     else if liveSample s o (addrOff b.idx) then
       refuse
         [ (isLocal s b.dst && meetsView s (addrOff b.dst) (scatterRow b), .malformed),
           (scatterArg b && isLocal s b.arg && meetsView s (addrOff b.arg) (4 * scatterLanes b), .malformed),
           (!opRange s o b.src b.rowBytes 1 || !opRange s o b.dst (scatterRow b) 1, .outOfRange),
           (scatterArg b && !opRange s o b.arg (4 * scatterLanes b) 1, .outOfRange) ]
     else scatterRecord s o b)
  else refuse
    [ (isLocal s b.dst && meetsView s (addrOff b.dst) (scatterRow b), .malformed),
      (!opRange s o b.idx (8 * b.count) 1 || !opRange s o b.src (b.count * b.rowBytes) 1, .outOfRange),
      (!opRange s o b.dst (scatterRow b) 1, .outOfRange) ]

/-- The message row of position i, its lanes (spec/06 R155). -/
def messageRow (s : State) (o : Op) (b : ScatterBody) (i : Nat) : Except Need (List Val) :=
  (opRead s o (b.src + i * b.rowBytes) b.rowBytes).map (rowLanes o.mode (scatterSrc b))

/-! ### The path form -/

/-- Each message times its edge's weight, rounded RNE to FP32 (spec/06 R155). -/
def weighRow (md : NumMode) (w : Val) (row : List Val) : List Val × Tally :=
  let xs := row.map fun v => fpMul { md with rmode := 0 } 0 0 v w
  (xs.map (·.val), Tally.sum (xs.map (·.tally)))

/-- Items of a path-form SCATTER: parent, tag and lanes. -/
def pathItems (s : State) (o : Op) (b : ScatterBody) : Except Need (List (Nat × Nat × List Val) × Tally) := do
  let g := parseGraph (opRec s o (recField s o b.idx 0 8) 64)
  let ps ← recParents s o b.idx b.hop
  let items ← collect (fun (x : Nat × Nat) => do
    let (p, i) := x
    let row ← messageRow s o b i
    if scatterEw b then
      let e ← opNat s o (recEntry s o b.idx b.hop i + 8) 6
      let w ← opNat s o (g.wgt + 4 * e) 4
      let (r, t) := weighRow o.mode (readVal o.mode 0 false w) row
      return ((p, i, r), t)
    else return ((p, i, row), ({} : Tally))) ps.zipIdx
  return (items.map fun (x : (Nat × Nat × List Val) × Tally) => x.1,
    Tally.sum (items.map fun (x : (Nat × Nat × List Val) × Tally) => x.2))

/-- A winner's tag; the destination's own value has none that the spec states (log entry 27). -/
def winnerTag (free : Nat) (l : Option MtLane) : Nat :=
  match l with
  | some x => x.tag.getD (free % 2 ^ 32)
  | none => 0xFFFFFFFF

/-- A path-form SCATTER's rows: destination bytes and winners' tags. -/
def pathRows (s : State) (o : Op) (b : ScatterBody) : Except Need (List (Nat × List Byte) × Tally) := do
  let (items, t0) ← pathItems s o b
  let n := scatterLanes b
  let rows ← collect (fun p => do
    let mine := (items.filter fun x => x.1 == p).map fun x => (x.2.1, x.2.2)
    let tags := fun (ls : List (Option MtLane)) =>
      if scatterArg b then
        [(b.arg + 4 * p * n, (ls.mapIdx fun l x => leBytes 4 (winnerTag (Config.freeNat (s.draws + p * n + l)) x)).flatten)]
      else []
    if mine.isEmpty then return (tags (List.replicate n none), ({} : Tally))
    else
      let a := b.dst + p * scatterRow b
      let old ← if scatterInit b then .ok none
        else (opRead s o a (scatterRow b)).map fun bs => some (rowLanes o.mode (scatterDst b) bs)
      let (ls, t) := mtRow (scatterEnv o b) p (p * n) n old mine
      return ((a, mtBytes (scatterDst b) ls) :: tags ls, t)) (mtOrder s (List.range (recCount s o b.idx (b.hop - 1))))
  return (rows.flatMap fun (x : List (Nat × List Byte) × Tally) => x.1,
    t0.join (Tally.sum (rows.map fun (x : List (Nat × List Byte) × Tally) => x.2)))

/-- The message rows of a SCATTER as requests, each on the turret its index is dealt to. -/
def messageItems (s : State) (o : Op) (b : ScatterBody) (n : Nat) : List RowItem :=
  (List.range n).map fun i =>
    { turret := dealTurret s (opCrew s o b.mask) i, chip := none, req := { off := addrOff b.src + i * b.rowBytes, bytes := b.rowBytes } }

/-- A path-form SCATTER's work; it waits for a SAMPLE that still runs. -/
def runPathScatter (s : State) (o : Op) (b : ScatterBody) : State :=
  if liveSample s o (addrOff b.idx) then s
  else match scatterRecord s o b with
    | some st => opDone s o.id st
    | none =>
      withRows s o b.roundRows 0 (messageItems s o b (recCount s o b.idx b.hop)) fun s _ _ =>
      match pathRows s o b with
      | .error n => opNeed s o.id n
      | .ok (ws, t) =>
        let s := { s with draws := s.draws + recCount s o b.idx (b.hop - 1) * scatterLanes b }
        applyWrites s o ws fun s => opDone (opTally s o.id (t.inMode o.mode.strict)) o.id .ok

/-! ### The list form -/

/-- The bank in use names a remote chip: the op is a job collective (spec/06 R156). -/
def ownersRemote (s : State) (bank : Nat) : Bool :=
  (List.range (ownCount s bank)).any fun i => reachOf s (ownChipOf (ownEntry s bank i)) == .far

/-- The devices of the job: this one and every chip with a valid remap entry (log entry 28). -/
def jobChips (s : State) : List Nat := natsWhere 0x4000 fun c => c == ownChip s || (remap s c).isSome

/-- Items of a list-form SCATTER by owner and row: chip, row, tag and lanes; and the indices dropped. -/
structure ListItems where
  items : List (Nat × Nat × Nat × List Val) := []
  dropped : List (Nat × Nat) := []

/-- spec/06 R156: message row i goes to node IDX[i], tagged i; NONE is dropped unsaid, an index that names no reachable
row is dropped and counted. -/
def listItems (s : State) (o : Op) (b : ScatterBody) : Except Need ListItems := do
  let xs ← collect (fun i => do
    let v ← opNat s o (b.idx + 8 * i) 8
    let row ← messageRow s o b i
    if v = nodeNone then return ({} : ListItems)
    else if v > nodeNone then return { dropped := [(i, v)] }
    else
      let (chip, r) := ownerOf s (o.bank.getD 0) v
      match reachOf s chip with
      | .near =>
        if rangeOkOp s o (addrOff b.dst + r * scatterRow b) (scatterRow b) then return { items := [(ownChip s, r, i, row)] }
        else return { dropped := [(i, v)] }
      | .far => return { items := [(chip, r, i, row)] }
      | .none => return { dropped := [(i, v)] }) (List.range b.count)
  return { items := xs.flatMap (·.items), dropped := xs.flatMap (·.dropped) }

/-- Rows folded into destinations here: each row offset with its items by ascending tag. -/
def foldRows (s : State) (o : Op) (b : ScatterBody) (rows : List (Nat × List (Nat × List Val))) :
    Except Need (List (Nat × List Byte) × Tally) := do
  let out ← collect (fun (x : Nat × List (Nat × List Val)) => do
    let (off, items) := x
    let old ← if scatterInit b then .ok none
      else (opRead s o off (scatterRow b)).map fun bs => some (rowLanes o.mode (scatterDst b) bs)
    let (ls, t) := mtRow (scatterEnv o b) ((off - addrOff b.dst) / scatterRow b) ((off - addrOff b.dst) / elemBytes (scatterDst b))
      (scatterLanes b) old items
    return ((off, mtBytes (scatterDst b) ls), t)) rows
  return (out.map fun (x : (Nat × List Byte) × Tally) => x.1, Tally.sum (out.map fun (x : (Nat × List Byte) × Tally) => x.2))

/-- Folded rows stored, and the op's end. -/
def storeRows (s : State) (o : Op) (strict : Bool) (m : RowMarks) (r : List (Nat × List Byte) × Tally)
    (k : State → State) : State :=
  if r.1.any fun w => meetsView s w.1 w.2.length then opDone s o.id .malformed
  else applyWrites s o r.1 fun s => k (rowsEnd (opTally s o.id (r.2.inMode o.mode.strict)) o.id strict m)

/-- The list form when no owner is remote: items fold straight into their rows. -/
def runLocalList (s : State) (o : Op) (b : ScatterBody) (it : ListItems) : State :=
  let rows := mtOrder s (it.items.map fun x => x.2.1).eraseDups
  let grouped := rows.map fun r =>
    (addrOff b.dst + r * scatterRow b, (it.items.filter fun x => x.2.1 == r).map fun x => (x.2.2.1, x.2.2.2))
  match foldRows s o b grouped with
  | .error n => opNeed s o.id n
  | .ok r => storeRows s o (scatterStrict b) { range := it.dropped } r id

/-- An exchange as held. -/
def exchangeOf (s : State) (x : Nat) : Exchange := (s.dome.exchanges.find? fun e => e.exch == x).getD { exch := x }

/-- A REDUCE packet joins its exchange. -/
def exchangeAdd (s : State) (src : Nat) (p : ReduceBatch) : State :=
  let e := exchangeOf s p.exch
  { s with dome := { s.dome with exchanges :=
      (s.dome.exchanges.filter fun x => x.exch != p.exch) ++ [{ e with batches := e.batches ++ [(src, p)] }] } }

/-- One round of an exchange: what each of these chips has sent up to its first marker, and what came after, which is the next
round's. -/
def exchangeRound (chips : List Nat) (bs : List (Nat × ReduceBatch)) : List (Nat × ReduceBatch) × List (Nat × ReduceBatch) :=
  bs.foldl (fun (acc : List (Nat × ReduceBatch) × List (Nat × ReduceBatch)) p =>
    if chips.contains p.1 && !(acc.1.any fun q => q.1 == p.1 && q.2.marker) then (acc.1 ++ [p], acc.2)
    else (acc.1, acc.2 ++ [p])) ([], [])

/-- The round of an exchange is over: what belongs to a later one stays held. -/
def exchangeEnd (s : State) (x : Nat) (chips : List Nat) : State :=
  let rest := (exchangeRound chips (exchangeOf s x).batches).2
  { s with dome := { s.dome with exchanges :=
      (s.dome.exchanges.filter fun e => e.exch != x) ++ if rest.isEmpty then [] else [{ exch := x, batches := rest }] } }

/-- The contributions of this device for one owner: each row's items combined here, no destination read (spec/06 R156). -/
def contributions (s : State) (o : Op) (b : ScatterBody) (it : ListItems) (chip : Nat) : List (Nat × List Byte) × Tally :=
  let mine := it.items.filter fun x => x.1 == chip
  let rows := mtOrder s (mine.map fun x => x.2.1).eraseDups
  let out := rows.map fun r =>
    let (ls, t) := mtRow (scatterEnv o b) r (r * scatterLanes b) (scatterLanes b) none
      ((mine.filter fun x => x.2.1 == r).map fun x => (x.2.2.1, x.2.2.2))
    ((addrOff b.dst + r * scatterRow b, mtBytes (scatterDst b) ls), t)
  (out.map (·.1), Tally.sum (out.map (·.2)))

/-- A packet of an exchange. -/
def reduceBatch (b : ScatterBody) (marker : Bool) (rows : List (Nat × List Byte)) : ReduceBatch :=
  { exch := b.exch, combine := scatterComb b, init := b2n (scatterInit b), marker := marker, rows := rows }

/-- All contributions of this device sent, its own kept here (spec/06 R156). -/
def sendExchange (s : State) (o : Op) (b : ScatterBody) (it : ListItems) : State :=
  let per := if b.roundRows = 0 then 1024 else b.roundRows
  let s := (jobChips s).foldl (fun s c =>
    let (rows, t) := contributions s o b it c
    let s := opTally s o.id (t.inMode o.mode.strict)
    if c = ownChip s then exchangeAdd s c (reduceBatch b false rows)
    else
      (chunksOf per rows).foldl (fun s l =>
        sendAwaited s o.id c 5 ((l.head?.map (·.1)).getD 0) (.reduce (reduceBatch b false l))) s) s
  let s := addReq s o.id 0 .event
  opUpdate s o.id fun o => { o with work := .exchange false, c0 := min 0xFFFFFFFF it.dropped.length,
                                    aux := ({ range := it.dropped } : RowMarks).first }

/-- End markers to every device of the job, once every batch is acknowledged (spec/12 R301). -/
def markExchange (s : State) (o : Op) (b : ScatterBody) : State :=
  let s := (jobChips s).foldl (fun s c =>
    if c = ownChip s then exchangeAdd s c (reduceBatch b true [])
    else sendAwaited s o.id c 5 (addrOff b.dst) (.reduce (reduceBatch b true []))) s
  opUpdate s o.id fun o => { o with work := .exchange true }

/-- An acknowledgement is still out. -/
def ackAwaited (o : Op) : Bool := o.reqs.any fun r => match r.await with
  | .ack _ _ _ => true
  | _ => false

/-- The owner's fold, once every device's marker is held and every packet of this device is acknowledged: contributions
tagged by their source, a COMBINE or INIT unequal to the op's dropped and counted (spec/06 R156). A folded op is marked as having
sent all, so that its completion leaves the exchange's next round alone. -/
def foldExchange (s : State) (o : Op) (b : ScatterBody) : State :=
  let held := (exchangeRound (jobChips s) (exchangeOf s b.exch).batches).1
  let marked := (held.filter fun p => p.2.marker).map (·.1)
  if ackAwaited o || o.work != .exchange true || !((jobChips s).all fun c => marked.contains c) then s
  else
    let good := fun (p : ReduceBatch) => p.combine == scatterComb b && p.init == b2n (scatterInit b)
    let rows := (held.filter fun p => good p.2).flatMap fun p => p.2.rows.map fun r => (p.1, r)
    let bad := ((held.filter fun p => !good p.2).map fun p => p.2.rows.length).sum
    let wrong := held.any fun p => !good p.2
    let offs := (rows.map fun r => r.2.1).eraseDups
    let grouped := offs.map fun off =>
      (off, ((rows.filter fun r => r.2.1 == off).map fun r => (r.1, rowLanes o.mode (scatterDst b) r.2.2)).sortBy
        fun a b => decide (a.1 ≤ b.1))
    match foldRows s o b grouped with
    | .error n => opNeed s o.id n
    | .ok r =>
      if r.1.any fun w => meetsView s w.1 w.2.length then opDone s o.id .malformed
      else applyWrites s o r.1 fun s =>
        let s := exchangeEnd (opTally s o.id (r.2.inMode o.mode.strict)) b.exch (jobChips s)
        let s := opUpdate (markSent s o.id) o.id fun o => { o with c2 := min 0xFFFFFFFF bad }
        if wrong then opDone s o.id .malformed
        else if scatterStrict b && decide (o.c0 ≠ 0) then opStrictFail s o.id .outOfRange
        else opDone s o.id .ok

/-- The rest of a collective SCATTER: markers once its batches are acknowledged, then its fold. -/
def goExchange (s : State) (o : Op) (b : ScatterBody) : State :=
  if ackAwaited o then s
  else
    let s := if o.work = .exchange false then markExchange s o b else s
    match opById s o.id with
    | some o => foldExchange s o b
    | none => s

/-- SCATTER's work. One that comes to a row in a register mirror of another chip ends OUT_OF_RANGE (spec/01 R20). -/
def runScatter (s : State) (o : Op) (b : ScatterBody) : State :=
  if scatterPath b then runPathScatter s o b
  else match o.work with
    | .exchange _ => goExchange s o b
    | _ => withRows s o b.roundRows 0 (messageItems s o b b.count) fun s _ _ =>
      match listItems s o b with
      | .error n => opNeed s o.id n
      | .ok it =>
        if it.items.any fun x => x.1 != ownChip s && meetsMirror (addrOff b.dst + x.2.1 * scatterRow b) (scatterRow b) then
          opDone s o.id .outOfRange
        else if ownersRemote s (o.bank.getD 0) then
          match (it.items.filter fun x => x.1 != ownChip s).findSome? fun x => destStatus s x.1 with
          | some st => unroutable s o.id st
          | none =>
          let s := sendExchange s o b it
          match opById s o.id with
          | some o => goExchange s o b
          | none => s
        else runLocalList s o b it

end Sys2Proof.Machine
end

