-- ==== Sys2Proof/Machine/Embed.lean ====
section
/-! DEFINITION. Embedding tables (spec/07): descriptors and hashing (R163 to R166), EMB_BAG (R167 to R171, R181), hot rows
and their windows (R172 to R177), table versions (R178 to R180) and EMB_GRAD (R182 to R184). -/

namespace Sys2Proof.Machine

/-! ### Tables -/

/-- A table descriptor (spec/07 Table 7.1). -/
structure TableDesc where
  (rowA rowB limit rowsA rowsB key chip shards widthA widthB fmt ctl sketch gen : Nat)
  deriving DecidableEq, Repr

/-- spec/07 Table 7.1. -/
def parseTable (d : List Byte) : TableDesc :=
  { rowA := fieldAt d 0 8, rowB := fieldAt d 8 8, limit := fieldAt d 16 8, rowsA := fieldAt d 24 4, rowsB := fieldAt d 28 4,
    key := fieldAt d 32 8, chip := fieldAt d 40 2, shards := fieldAt d 42 2, widthA := fieldAt d 44 2,
    widthB := fieldAt d 46 2, fmt := fieldAt d 48 1, ctl := fieldAt d 49 1, sketch := fieldAt d 50 1, gen := fieldAt d 52 4 }

/-- HASH_MODE. -/
def TableDesc.mode (d : TableDesc) : Nat := natBits d.ctl 1 0
/-- COMPOSE. -/
def TableDesc.compose (d : TableDesc) : Nat := natBits d.ctl 3 2
/-- HOT. -/
def TableDesc.hot (d : TableDesc) : Bool := natBits d.ctl 4 4 = 1
/-- Composed of two tables. -/
def TableDesc.composed (d : TableDesc) : Bool := d.mode == 2
/-- Composed by CONCAT. -/
def TableDesc.concat (d : TableDesc) : Bool := d.composed && d.compose == 2
/-- Composed by PROD. -/
def TableDesc.prod (d : TableDesc) : Bool := d.composed && d.compose == 1
/-- Output width W. -/
def TableDesc.width (d : TableDesc) : Nat := if d.concat then d.widthA + d.widthB else d.widthA
/-- Elements of a row of table A (false) or B. -/
def TableDesc.rowWidth (d : TableDesc) (b : Bool) : Nat := if b then d.widthB else d.widthA
/-- Bytes of a stored row. -/
def TableDesc.rowBytes (d : TableDesc) (b : Bool) : Nat := roundUp (d.rowWidth b * elemBytes (opFmt d.fmt).code) 64
/-- Device offset of the local share. -/
def TableDesc.base (d : TableDesc) (b : Bool) : Nat := addrOff (if b then d.rowB else d.rowA)
/-- Stored rows over all shards. -/
def TableDesc.rows (d : TableDesc) (b : Bool) : Nat := if b then d.rowsB else d.rowsA

/-- spec/07 R163, R164. -/
def tableOk (d : TableDesc) : Bool :=
  let width := fun (w : Nat) => decide (1 ≤ w) && decide (w ≤ 16384)
  decide (1 ≤ d.limit) && decide (d.limit ≤ 2 ^ 64 - 1) && decide (1 ≤ d.rowsA) && decide (1 ≤ d.shards) &&
    decide (d.shards ≤ 16384) && width d.widthA && plainFloat3 (opFmt d.fmt) && d.mode != 3 && d.compose != 3 && natBits d.ctl 7 5 == 0 &&
    (d.mode != 0 || decide (d.limit ≤ d.rowsA)) && (decide (d.shards ≤ 1) || decide (d.chip + d.shards ≤ 0x4000)) &&
    (!d.hot || decide (d.sketch ≤ 3)) &&
    (!d.composed || (decide (1 ≤ d.rowsB) && width d.widthB && (d.compose == 2 || d.widthB == d.widthA)))

/-- A stored row: of table A (false) or B, and its number. -/
abbrev StoredRowId := Bool × Nat

/-- spec/07 R165, rows_of. -/
def rowsOf (d : TableDesc) (i : Nat) : List StoredRowId :=
  let key := BitVec.ofNat 64 d.key
  let ka := mix64 key
  let kb := mix64 (key ^^^ 0x5A17C3E90B62D48F#64)
  let x := BitVec.ofNat 64 i
  if d.mode = 0 then [(false, i)]
  else if d.mode = 1 then [(false, hashRow x ka hashMulA d.rowsA)]
  else [(false, hashRow x ka hashMulA d.rowsA), (true, hashRow x kb hashMulB d.rowsB)]

/-- The chip that holds a stored row (spec/07 R166). -/
def shardChip (d : TableDesc) (r : Nat) : Nat := d.chip + r % d.shards
/-- A row's place in its shard's share. -/
def shardRow (d : TableDesc) (r : Nat) : Nat := r / d.shards
/-- A stored row's one number over both tables, A before B (log entry 29). -/
def rowNumber (d : TableDesc) (x : StoredRowId) : Nat := if x.1 then d.rowsA + x.2 else x.2
/-- Device offset of a stored row on its shard. -/
def rowOffset (d : TableDesc) (x : StoredRowId) : Nat := d.base x.1 + shardRow d x.2 * d.rowBytes x.1

/-- The descriptor an op pinned, as it reads it. -/
def opTable (s : State) (o : Op) : TableDesc :=
  match o.table with
  | some (_, _, a) => parseTable (opRec s o a 64)
  | none => parseTable []

/-- This device is a shard of the table. -/
def isShard (s : State) (d : TableDesc) : Bool :=
  (d.shards == 1 && reachOf s d.chip == .near) || (decide (d.chip ≤ ownChip s) && decide (ownChip s < d.chip + d.shards))

/-! ### Hot rows (spec/07 R172 to R176) -/

/-- Sketch n. -/
def sketchAt (s : State) (n : Nat) : Sketch := tabGet (fun _ => {}) s.dome.sketches n
/-- Sketch n counts for this table. -/
def sketchOn (s : State) (n table : Nat) : Bool :=
  regBits s (0x10000D0 + 4 * n) 31 31 == 1 && regBits s (0x10000D0 + 4 * n) 7 0 == table
/-- THRESH_DIV. -/
def threshDiv (s : State) : Nat := if regBits s 0x10000C4 31 16 = 0 then 1024 else regBits s 0x10000C4 31 16
/-- Column of a row in line k. -/
def sketchCol (r k : Nat) : Nat :=
  hashRow (BitVec.ofNat 64 r) (mix64 (0x3D7B1E95C4A20F68#64 + BitVec.ofNat 64 k)) 0xD1F386A52B7CE94D#64 4096
/-- est of a row: the least of its four counters. -/
def sketchEst (k : Sketch) (r : Nat) : Nat :=
  let c := fun i => tabGet (fun _ => 0) k.counters (4096 * i + sketchCol r i)
  min (min (c 0) (c 1)) (min (c 2) (c 3))

/-- This device's own rows of a table version that are replicated now. -/
def ownReplicas (s : State) (table tver : Nat) : List Replica :=
  s.dome.replicas.filter fun r => r.own && r.table == table && r.tver == tver && r.upto.isNone

/-- spec/07 R173, sketch_add. -/
def sketchAdd (s : State) (table tver r c : Nat) : State :=
  (List.range 4).foldl (fun s n =>
    if sketchOn s n table then
      let k := sketchAt s n
      let counters := (List.range 4).foldl (fun t i =>
        let j := 4096 * i + sketchCol r i
        tabPut (fun _ => 0) t j (satAdd32 (tabGet (fun _ => 0) t j) c)) k.counters
      let k := { k with counters := counters, total := k.total + c }
      let hot := decide (sketchEst k r * threshDiv s ≥ k.total) && !((ownReplicas s table tver).any fun x => x.row == r) &&
        decide (k.cand.length < 512) && !k.cand.contains r
      let k := if hot then { k with cand := k.cand ++ [r] } else k
      { s with dome := { s.dome with sketches := tabPut (fun _ => {}) s.dome.sketches n k } }
    else s) s

/-- Replicas that fit the cache partition as it is cut now, in the order they came: 64 B of directory entry each
(spec/07 R174, R176). -/
def fitting (cap : Nat) : List Replica → List Replica
  | [] => []
  | r :: rs =>
    let n := r.bytes.length + 64
    if n ≤ cap then r :: fitting (cap - n) rs else []

/-- Replicas that are visible: those of the last committed step, since a copy replaces its predecessor at the commit
(spec/07 R174). -/
def visible (s : State) : List Replica :=
  s.dome.replicas.filter fun r => !r.own && r.version == s.dome.lastCommitted % 2 ^ 32

/-- The replica that serves a look-up of a row at a parameter version (spec/07 R175). -/
def replicaFor (s : State) (table tver pver r : Nat) : Option Replica :=
  (fitting (partSize s 0 * 2 ^ 20) (visible s)).find? fun x =>
    x.table == table && x.tver == tver && x.version == pver && x.row == r

/-- The step whose low 32 bits a pinned parameter version is: the last one committed that has them (spec/01 R22). -/
def pinStep (s : State) (pver : Nat) : Nat :=
  s.dome.lastCommitted - (s.dome.lastCommitted + 2 ^ 32 - pver % 2 ^ 32) % 2 ^ 32

/-- Rows of a table version that are replicated at a parameter version, as this device knows them. -/
def replicatedRows (s : State) (table tver pver : Nat) : List Nat :=
  let step := pinStep s pver
  ((s.dome.replicas.filter fun x => x.table == table && x.tver == tver &&
    if x.own then decide (x.version ≤ step) && x.upto.all (fun v => decide (step ≤ v)) else x.version == pver).map
      (·.row)).eraseDups

/-- A replica copy arrives from a row's owner (spec/07 R174; log entry 30 on its layout): a 64-byte entry of table,
its version, row and parameter version, then the row. One for which the cache has no room is not served, but its row stays
replicated for gradients (R176). -/
def replicaTake (s : State) (bs : List Byte) : State :=
  let r : Replica := { table := fieldAt bs 0 1, tver := fieldAt bs 4 4, row := fieldAt bs 8 8, version := fieldAt bs 16 4,
                       bytes := bs.drop 64 }
  let same := fun (x : Replica) => !x.own && x.table == r.table && x.tver == r.tver && x.row == r.row && x.version == r.version
  { s with dome := { s.dome with replicas := s.dome.replicas.filter (fun x => !same x) ++ [r] } }

/-- The stored row of a number (log entry 29). -/
def rowOfNumber (d : TableDesc) (n : Nat) : StoredRowId := if n < d.rowsA then (false, n) else (true, n - d.rowsA)

/-- The bytes of a stored row here as step `step` and its group `num` will commit them: from the slot that holds the step's shadow, else the
current ones (spec/07 R174). -/
def nextRowBytes (s : State) (num : Nat) (d : TableDesc) (x : StoredRowId) (step : Nat) : List Byte :=
  let a := rowOffset d x
  match viewOf s a with
  | some (i, off) =>
    match firstNat (sliceSlots s i) fun k => sliceShadow s i k && sliceVer s i k == step % 2 ^ 32 with
    | some k => seenBytes s num (slotAddr s i k + off) (d.rowBytes x.1)
    | none => seenBytes s num (servedAt s none a) (d.rowBytes x.1)
  | none => seenBytes s num a (d.rowBytes x.1)

/-- Inside step `step`'s transaction, once its updates have been written, each owner copies its replicated rows to the replica
cache of every other shard; the op awaits their acknowledgement. A copy for a chip with no remap entry is dropped and counted
(spec/07 R174, spec/12 R304; log entry 30). -/
def sendReplicas (s : State) (id num step : Nat) : State :=
  (s.dome.replicas.filter fun r => r.own && r.upto.isNone).foldl (fun s r =>
    let d := parseTable (committedBytes s (addrOff (dirEntry s r.table).2) 64)
    if (dirEntry s r.table).1 ≠ r.tver then s
    else
      let x := rowOfNumber d r.row
      let bs := leBytes 4 r.table ++ leBytes 4 r.tver ++ leBytes 8 r.row ++ leBytes 4 (step % 2 ^ 32) ++
        List.replicate 44 0 ++ nextRowBytes s num d x step
      let chips := ((List.range d.shards).map (d.chip + ·)).filter fun c => c != ownChip s
      chips.foldl (fun s c =>
        if (remap s c).isNone then countDrop s none
        else sendAwaited s id c 3 (lanBase + partBase s 0 * 2 ^ 20) (.write bs)) s) s

/-- Candidates of a window, the highest estimates first, ties by the lower row. -/
def rankedCands (k : Sketch) (div : Nat) : List Nat :=
  (k.cand.filter fun r => decide (sketchEst k r * div ≥ k.total)).sortBy fun a b =>
    decide (sketchEst k a > sketchEst k b) || (sketchEst k a == sketchEst k b && decide (a ≤ b))

/-- Rows of this device lose their replicas at the commit of step `step`: that version is their last (spec/07 R173, R176). -/
def demote (s : State) (table tver step : Nat) (p : Replica → Bool) : State :=
  { s with dome := { s.dome with replicas := s.dome.replicas.map fun y =>
      if y.own && y.table == table && y.tver == tver && y.upto.isNone && p y then { y with upto := some step } else y } }

/-- One promotion (spec/07 R176): whether some shard lacks room is not this device's to see, so it is free
(log entry 31); this owner's own row of the table with the lowest estimate, where it is lower, gives way, and it gives way on
every shard: an owner knows the estimates and the replicas of its own rows alone (log entry 31). Counts: promoted, not
promoted, evicted. -/
def promote (table tver step : Nat) (k : Sketch) (shards : Nat) (acc : State × Nat × Nat × Nat) (r : Nat) :
    State × Nat × Nat × Nat :=
  let (s, p, np, ev) := acc
  let add := fun (s : State) => { s with dome := { s.dome with replicas := s.dome.replicas ++
    [{ table := table, tver := tver, row := r, version := step + 1, own := true }] } }
  let (x, s) := if shards ≤ 1 then (0, s) else drawFree s
  if x % 2 = 0 then (add s, p + 1, np, ev)
  else
    let mine := ownReplicas s table tver
    let low := mine.foldl (fun (a : Option Nat) (y : Replica) => match a with
      | some z => if sketchEst k y.row < sketchEst k z then some y.row else a
      | none => some y.row) none
    match low with
    | some z =>
      if sketchEst k z < sketchEst k r then
        (add (demote s table tver step fun y => y.row == z), p + 1, np, ev + 1)
      else (s, p, np + 1, ev)
    | none => (s, p, np + 1, ev)

/-- What a table's sketch has counted in the window: nothing while it does not count for the table (spec/07 R172). -/
def windowSketch (s : State) (table n : Nat) : Sketch := if sketchOn s n table then sketchAt s n else {}

/-- Rows of a list for which some other shard lacks room: not this device's to see, so each is free (log entry 31). -/
def lackRoom (s : State) (shards : Nat) (rows : List Nat) : State × List Nat :=
  if shards ≤ 1 then (s, [])
  else rows.foldl (fun acc r =>
    let (x, s) := drawFree acc.1
    (s, if x % 2 = 0 then acc.2 else acc.2 ++ [r])) (s, [])

/-- A hot table's window closes at the commit of step `step`: promotions, demotions of rows that stayed low or lack room on a
shard, and its event (spec/07 R173, R176, R177). -/
def tableClose (s : State) (step table tver : Nat) (d : TableDesc) : State :=
  let k := windowSketch s table d.sketch
  let div := threshDiv s
  let before := (ownReplicas s table tver).map (·.row)
  let (s, p, np, ev) := ((rankedCands k div).take (regBits s 0x10000C4 7 0)).foldl
    (promote table tver step k d.shards) (s, 0, 0, 0)
  let mine := fun (x : Replica) => x.own && x.table == table && x.tver == tver && x.upto.isNone && before.contains x.row
  let aged := s.dome.replicas.map fun x =>
    if mine x then { x with low := if sketchEst k x.row * 2 * div < k.total then x.low + 1 else 0 } else x
  let s := { s with dome := { s.dome with replicas := aged } }
  let (s, lack) := lackRoom s d.shards ((s.dome.replicas.filter mine).map (·.row))
  let out := fun (x : Replica) => mine x && (decide (x.low ≥ max 1 (regBits s 0x10000C4 11 8)) || lack.contains x.row)
  let n := (s.dome.replicas.filter out).length
  deviceEvent (demote s table tver step out) 0x0032 .ok
    (leBytes 4 d.gen ++ leBytes 2 p ++ leBytes 2 np ++ leBytes 2 n ++ leBytes 2 ev ++ leBytes 4 (min k.total 0xFFFFFFFF))

/-- A directory entry's HOT bit and the rest of its descriptor are those of a hot table held here (spec/07 R163, R172). -/
def hotHere (s : State) (a : Nat) : Option TableDesc :=
  if memNat s (a + 49) 1 / 16 % 2 = 0 then none
  else
    let d := parseTable (committedBytes s a 64)
    if tableOk d && isShard s d then some d else none

/-- All windows close: each hot table's, then every counting sketch is cleared (spec/07 R173, R177). -/
def windowClose (s : State) (step : Nat) : State :=
  let s := if !dirOk s then s else (List.range 256).foldl (fun s id =>
    let (tver, da) := dirEntry s id
    match hotHere s (addrOff da) with
    | some d => tableClose s step id tver d
    | none => s) s
  (List.range 4).foldl (fun s n =>
    if regBits s (0x10000D0 + 4 * n) 31 31 = 0 then s
    else { s with dome := { s.dome with sketches := tabPut (fun _ => {}) s.dome.sketches n {} } }) s

/-- DIR_BASE moves: the versions that its old directory made current, and its new one does not, wait for their retirement
(spec/07 R178, R187). -/
def dirMove (old new : State) : State :=
  if !dirOk old then new
  else dirSwap old new ((List.range 256).filter fun i =>
    tableOk (parseTable (committedBytes old (addrOff (dirEntry old i).2) 64)))

/-- The directory names a version again: it is current (spec/07 R178). -/
def tableCurrent (s : State) (t : TableVer) : Bool := dirOk s && dirEntry s t.table == (t.version, t.desc)

/-- Superseded versions that no op pins retire at a step commit; one that is current again does not (spec/07 R178). -/
def retireTables (s : State) : State :=
  let s := { s with dome := { s.dome with tables := s.dome.tables.filter fun t => !tableCurrent s t } }
  let out := s.dome.tables.filter fun t => !(tablesPinned s t.table).contains (t.version, t.desc)
  out.foldl (fun s t =>
    deviceEvent { s with dome := { s.dome with
      tables := s.dome.tables.filter (· != t),
      replicas := s.dome.replicas.filter fun r => !(r.table == t.table && r.tver == t.version) } } 0x0031 .ok
      (leBytes 4 t.table ++ leBytes 4 t.version ++ leBytes 8 t.desc)) s

/-- This device holds a table version (spec/07 R178, R180). -/
def holdsTable (s : State) (table version : Nat) : Bool :=
  (dirOk s && (dirEntry s table).1 == version) || s.dome.tables.any fun t => t.table == table && t.version == version

/-- Replicas that a step's outcome leaves behind: a failed step's copies go, a committed one's predecessors stay while an op
still pins their version (spec/07 R174, R175). -/
def settleReplicas (s : State) (step : Nat) (good : Bool) : State :=
  let v := step % 2 ^ 32
  let pinned := fun (p : Nat → Bool) => s.ops.any (fun o => !o.completed && o.table.isSome && p o.pver) ||
    s.dome.epochs.any fun e => p e.ver
  let keep := fun (r : Replica) => match r.own, r.upto with
    | true, none => true
    | true, some u => !good || decide (u ≥ step) || pinned fun w => decide (pinStep s w ≤ u)
    | false, _ => if good then r.version == v || pinned fun w => w == r.version else r.version != v
  { s with dome := { s.dome with replicas := s.dome.replicas.filter keep } }

/-! ### Bags -/

/-- A bag list record (spec/07 Table 7.2). -/
structure BagRec where
  (off idx wgt bags pool stage cap : Nat)
  deriving DecidableEq, Repr

/-- spec/07 Table 7.2. -/
def parseBags (d : List Byte) : BagRec :=
  { off := fieldAt d 0 8, idx := fieldAt d 8 8, wgt := fieldAt d 16 8, bags := fieldAt d 24 4, pool := fieldAt d 28 1,
    stage := fieldAt d 32 8, cap := fieldAt d 40 4 }

/-- The record of an op. -/
def bagsOf (s : State) (o : Op) (a : Nat) : BagRec := parseBags (opRec s o a 64)
/-- OFF[b] as it reads at acceptance. -/
def bagOff (s : State) (o : Op) (r : BagRec) (b : Nat) : Nat := leNat (opRec s o (r.off + 8 * b) 8)
/-- POOL. -/
def BagRec.poolOf (r : BagRec) : Nat := natBits r.pool 1 0

/-- Ranges that both embedding ops read (spec/08 R203). -/
def readsBags (s : State) (o : Op) (rec_ : Nat) (d : TableDesc) : List (Nat × Nat) :=
  let r := bagsOf s o rec_
  let n := bagOff s o r r.bags
  let share := fun (b : Bool) => (0xFFFF * 2 ^ 48 + d.base b, ceilDiv (d.rows b) d.shards * d.rowBytes b)
  [(rec_, 64), (r.off, 8 * (r.bags + 1)), (r.idx, 8 * n)] ++ (if r.poolOf = 1 then [(r.wgt, 4 * n)] else []) ++
    (share false :: if d.composed then [share true] else [])

/-- The table an op names now: VERSION, DESC_ADDR and descriptor (spec/07 R163). -/
def tableNow (s : State) (o : Op) (id : Nat) : Nat × Nat × TableDesc :=
  let (v, a) := dirEntry s id
  (v, a, parseTable (opRec s o a 64))

/-- What both embedding ops check at acceptance (spec/07 Table 7.7). -/
def checkBags (s : State) (o : Op) (id mask rec_ : Nat) : Option Status :=
  let (_, a, d) := tableNow s o id
  if maskBad s mask then some .malformed
  else if !dirOk s || !opRange s o a 64 64 || !opRange s o rec_ 64 64 then some .outOfRange
  else
    let r := bagsOf s o rec_
    if !tableOk d || r.bags == 0 || r.poolOf == 3 || natBits r.pool 7 2 != 0 || (r.poolOf == 1 && absent r.wgt) then some .malformed
    else if !opRange s o r.off (8 * (r.bags + 1)) 1 then some .outOfRange
    else
      let offs := (List.range (r.bags + 1)).map (bagOff s o r)
      let n := bagOff s o r r.bags
      refuse
        [ (!(adjacent (fun a b => decide (a ≤ b)) offs) || decide (n ≥ 2 ^ 31) || offs.head? != some 0, .malformed),
          (isLocal s r.stage && meetsView s (addrOff r.stage) (64 * r.cap), .malformed),
          (!opRange s o r.idx (8 * n) 1 || (r.poolOf == 1 && !opRange s o r.wgt (4 * n) 1), .outOfRange),
          (decide (r.cap ≠ 0) && (!opRange s o r.stage (64 * r.cap) 1 || regionOf (addrOff r.stage) != .lantern ||
            !inPart s 1 (addrOff r.stage - lanBase) (64 * r.cap)), .outOfRange) ]

/-- Pitch of a bag's row in a format. -/
def bagPitch (w fmt : Nat) : Nat := roundUp (w * elemBytes (opFmt fmt).code) 64

/-! ### Look-ups -/

/-- A position: its index, the stored rows it names, none out of the table's range, and its weight. -/
structure Position where
  j : Nat
  bag : Nat
  index : Nat
  rows : Option (List StoredRowId)
  weight : Val

/-- A row's place: here, held as a replica, or remote. -/
inductive RowHome where
  | here (off : Nat)
  | held (bytes : List Byte)
  | away (chip : Nat)
  /-- Its owner is unreachable, or it lies outside the region. -/
  | lost
  deriving DecidableEq, Repr

/-- Where a stored row is read from, at the op's pinned versions (spec/07 R166, R175): a replica serves if it did when the
op's reads began (R176). -/
def rowHome (s : State) (o : Op) (d : TableDesc) (x : StoredRowId) : RowHome :=
  let (id, tver, _) := o.table.getD (0, 0, 0)
  let chip := shardChip d x.2
  match reachOf s chip with
  | .near => if rangeOkOp s o (rowOffset d x) (d.rowBytes x.1) then .here (rowOffset d x) else .lost
  | .far =>
    let n := rowNumber d x
    if meetsMirror (rowOffset d x) (d.rowBytes x.1) then .lost
    else match if o.asked ≤ 1 then (replicaFor s id tver o.pver n).map (·.bytes)
          else (o.held.find? fun h => h.1 == n).map (·.2) with
    | some bs => .held bs
    | none => .away chip
  | .none => .lost

/-- The weight of a position (spec/07 R169). -/
def bagWeight (s : State) (o : Op) (r : BagRec) (j n : Nat) : Except Need (Val × Tally) :=
  if r.poolOf = 0 then .ok (valOne, {})
  else if r.poolOf = 1 then (opNat s o (r.wgt + 4 * j) 4).map fun c => (readVal o.mode 0 false c, {})
  else
    let x := fpDiv { o.mode with rmode := 0 } 0 0 valOne (Val.ofSig false n 0)
    .ok (x.val, x.tally)

/-- All positions of an op, in order, and the counts of the means. -/
def positions (s : State) (o : Op) (r : BagRec) (d : TableDesc) : Except Need (List Position × Tally) := do
  let bags ← collect (fun b => do
    let lo ← opNat s o (r.off + 8 * b) 8
    let hi ← opNat s o (r.off + 8 * b + 8) 8
    let mean ← if r.poolOf = 2 ∧ hi > lo then bagWeight s o r lo (hi - lo) else .ok (valOne, {})
    let ps ← collect (fun k => do
      let j := lo + k
      let i ← opNat s o (r.idx + 8 * j) 8
      let w ← if r.poolOf = 1 then bagWeight s o r j 1 else .ok (mean.1, ({} : Tally))
      return ({ j := j, bag := b, index := i, rows := if i ≥ d.limit then none else some (rowsOf d i), weight := w.1 } : Position))
      (List.range (hi - lo))
    return (ps, mean.2)) (List.range r.bags)
  return (bags.flatMap fun (x : List Position × Tally) => x.1,
    Tally.sum (bags.map fun (x : List Position × Tally) => x.2))

/-- Distinct stored rows that positions name, table A first, each ascending (spec/07 R168). -/
def distinctRows (ps : List Position) : List StoredRowId :=
  let all := (ps.flatMap fun p => p.rows.getD []).eraseDups
  all.sortBy fun x y => (!x.1 && y.1) || (x.1 == y.1 && decide (x.2 ≤ y.2))

/-- Positions that name a row. -/
def rowCount (ps : List Position) (x : StoredRowId) : Nat := (ps.filter fun p => (p.rows.getD []).contains x).length

/-- The request for a remote row: both versions and its count (spec/07 R171, R173). -/
def rowRequest (o : Op) (d : TableDesc) (ps : List Position) (x : StoredRowId) : RowReq :=
  let (id, tver, _) := o.table.getD (0, 0, 0)
  { off := rowOffset d x, bytes := d.rowBytes x.1, pver := some o.pver, table := some (id, tver, rowNumber d x),
    count := rowCount ps x }

/-- A distinct row as it came: its bytes, and the wire code (2 also where it cannot be reached). -/
abbrev RowRead := StoredRowId × List Byte × Nat

/-- The reads of distinct rows, one for each that can be read, in order (spec/07 R168; log entry 132). -/
def rowItems (s : State) (o : Op) (d : TableDesc) (mask : Nat) (ps : List Position) (rows : List StoredRowId) : List RowItem :=
  rows.zipIdx.filterMap fun x =>
    let q := rowRequest o d ps x.1
    let t := dealTurret s (opCrew s o mask) x.2
    match rowHome s o d x.1 with
    | .here off => some { turret := t, chip := none, req := { q with off := off } }
    | .held _ => some { turret := t, chip := none, req := { q with off := lanBase + partBase s 0 * 2 ^ 20 } }
    | .away c => some { turret := t, chip := some c, req := q }
    | .lost => none

/-- The replicas that serve rows as their reads begin. -/
def holdReplicas (s : State) (o : Op) (d : TableDesc) (rows : List StoredRowId) : State :=
  if o.asked > 1 then s
  else opUpdate s o.id fun p => { p with held := rows.filterMap fun x => match rowHome s o d x with
    | .held bs => some (rowNumber d x, bs)
    | _ => none }

/-- Every distinct row read once its remote ones have come. -/
def readRows (s : State) (o : Op) (d : TableDesc) (ps : List Position) (rows : List StoredRowId)
    (reply : Nat → RowReq → Option RowReply) : Except Need (List RowRead) :=
  collect (fun x =>
    let null := List.replicate (d.rowBytes x.1) (0 : Byte)
    match rowHome s o d x with
    | .here off => (opRead s o off (d.rowBytes x.1)).map fun bs => (x, bs, 0)
    | .held bs => .ok (x, bs, 0)
    | .away c => match reply c (rowRequest o d ps x) with
      | some r => .ok (x, if r.code = 0 then r.bytes else null, r.code)
      | none => .ok (x, null, 2)
    | .lost => .ok (x, null, 2)) rows

/-- What came of a row. -/
def rowRead (rs : List RowRead) (x : StoredRowId) : List Byte × Nat :=
  match rs.find? fun r => r.1 == x with
  | some r => r.2
  | none => ([], 2)

/-- The worst code of a position: 2 where its index or a row is out of range, then 3, 1 and 0. -/
def posCode (rs : List RowRead) (p : Position) : Nat :=
  match p.rows with
  | none => 2
  | some l =>
    let cs := l.map fun x => (rowRead rs x).2
    if cs.contains 2 then 2 else if cs.contains 3 then 3 else if cs.contains 1 then 1 else 0

/-- What is to be said of the positions (spec/07 R181, Table 7.7). -/
def posMarks (rs : List RowRead) (ps : List Position) : RowMarks :=
  { range := (ps.filter fun p => posCode rs p == 2).map fun p => (p.j, p.index),
    refused := (ps.filter fun p => posCode rs p == 1).map fun p => (p.j, p.index),
    failed := ps.any fun p => posCode rs p == 3 }

/-- The distinct rows of an embedding op's positions, read as `withRows` reads them, and given to `k` (spec/07 R168). -/
def withTable (s : State) (o : Op) (d : TableDesc) (mask rounds : Nat) (ps : List Position) (rows : List StoredRowId)
    (k : State → Op → List RowRead → State) : State :=
  let items := rowItems s o d mask ps rows
  match farStatus s (items.filterMap (·.chip)) with
  | some st => unroutable s o.id st
  | none => withRows (holdReplicas s o d rows) o rounds 0 items fun s xs reply =>
    match opById s o.id with
    | none => s
    | some o =>
      match readRows s o d ps rows fun c q =>
          (xs.find? fun x => x.1.chip == some c && x.1.req == q).bind reply with
      | .error n => opNeed s o.id n
      | .ok rs => k s o rs

/-- The lanes of a stored row under the input rules (spec/07 R169). -/
def rowVals (md : NumMode) (d : TableDesc) (rs : List RowRead) (x : StoredRowId) : List Val :=
  (rowLanes md (opFmt d.fmt).code (rowRead rs x).1).take (d.rowWidth x.1)

/-- The values of a position, lane by lane (spec/07 R169). -/
def posVals (md : NumMode) (d : TableDesc) (rs : List RowRead) (p : Position) : List Val × Tally :=
  let zero : List Val × Tally := (List.replicate d.width (.zero false), {})
  if posCode rs p = 2 then zero
  else
    let rne := { md with rmode := 0 }
    match p.rows with
    | some [a] => (rowVals md d rs a, {})
    | some [a, b] =>
      let x := rowVals md d rs a
      let y := rowVals md d rs b
      if d.concat then (x ++ y, {})
      else
        let zs := List.zipWith (fun u v => if d.prod then fpMul rne 0 0 u v else fpAdd rne 0 0 u v) x y
        (zs.map (·.val), Tally.sum (zs.map (·.tally)))
    | _ => zero

/-- Look-ups of rows held here counted directly (spec/07 R173): rows and the positions that name each. -/
def countLocal (s : State) (o : Op) (d : TableDesc) (looks : List (StoredRowId × Nat)) : State :=
  let (id, tver, _) := o.table.getD (0, 0, 0)
  looks.foldl (fun s x => match rowHome s o d x.1 with
    | .here _ => sketchAdd s id tver (rowNumber d x.1) x.2
    | _ => s) s

/-- Distinct rows staged in ascending order while they fit (spec/07 R168; log entry 32). -/
def stageRows (r : BagRec) (rs : List RowRead) : List (Nat × List Byte) :=
  (rs.foldl (fun (acc : Nat × List (Nat × List Byte)) x =>
    if acc.1 + x.2.1.length ≤ 64 * r.cap then (acc.1 + x.2.1.length, acc.2 ++ [(r.stage + acc.1, x.2.1)]) else acc) (0, [])).2

/-! ### EMB_BAG -/

/-- STRICT. -/
def bagStrict (b : EmbBagBody) : Bool := natBits b.flags 0 0 = 1
/-- HIST. -/
def bagHist (b : EmbBagBody) : Bool := natBits b.flags 1 1 = 1

/-- Ranges an EMB_BAG reads. -/
def readsEmbBag (s : State) (o : Op) (b : EmbBagBody) : List (Nat × Nat) := readsBags s o b.bagRec (tableNow s o b.table).2.2

/-- EMB_BAG's acceptance checks. -/
def checkEmbBag (s : State) (o : Op) (b : EmbBagBody) : Option Status :=
  if !plainFloat3 (opFmt b.outFmt) then some .malformed
  else match checkBags s o b.table b.mask b.bagRec with
    | some st => some st
    | none =>
      let n := (bagsOf s o b.bagRec).bags * bagPitch (tableNow s o b.table).2.2.width b.outFmt
      refuse [(isLocal s b.out && meetsView s (addrOff b.out) n, .malformed), (!opRange s o b.out n 1, .outOfRange)]

/-- One pooled row: its bytes, outcomes and counts (spec/07 R170). -/
def poolBag (o : Op) (b : EmbBagBody) (d : TableDesc) (bag : Nat) (vals : List (Val × List Val)) :
    List Byte × List Rounded × Tally :=
  let code := (opFmt b.outFmt).code
  let lanes := (List.range d.width).map fun l =>
    let (a, t) := dotFloat o.mode true (blocksOf (vals.map (·.1)) [] (vals.map fun x => x.2[l]?) []) none
    let word := if o.mode.rmode = 4 then srWord (BitVec.ofNat 64 o.seed) b.outTensor (bag * d.width + l) 0xFFFFFFFF else 0
    let (c, x) := convertCode .store o.mode code false word a.val
    (c, accNote a x, t)
  (packRow code false (lanes.map fun x => x.1), lanes.map fun x => x.2.1,
    Tally.sum (lanes.map fun x => x.2.1.tally.join x.2.2))

/-- EMB_BAG's work. -/
def runEmbBag (s : State) (o : Op) (b : EmbBagBody) : State :=
  let d := opTable s o
  let r := bagsOf s o b.bagRec
  match positions s o r d with
  | .error n => opNeed s o.id n
  | .ok (ps, t0) =>
    let rows := distinctRows ps
    withTable s o d b.mask b.roundRows ps rows fun s o rs =>
      let bags := (List.range r.bags).map fun k =>
        let mine := (ps.filter fun p => p.bag == k).map fun p =>
          (if posCode rs p = 2 then Val.zero false else p.weight, posVals o.mode d rs p)
        let (bs, outs, t) := poolBag o b d k (mine.map fun (x : Val × List Val × Tally) => (x.1, x.2.1))
        ((b.out + k * bagPitch d.width b.outFmt, bs), outs,
          t.join (Tally.sum (mine.map fun (x : Val × List Val × Tally) => x.2.2)))
      applyWrites s o (stageRows r rs ++ bags.map fun x => x.1) fun s =>
        let s := opTally s o.id ((t0.join (Tally.sum (bags.map fun x => x.2.2))).inMode o.mode.strict)
        let s := countLocal s o d (rows.map fun x => (x, rowCount ps x))
        let s := if bagHist b then
          addBins s (o.step.getD 0) b.layer (bags.flatMap fun x => binsOf x.2.1) 0 1 r.bags else s
        rowsEnd s o.id (bagStrict b) (posMarks rs ps)

/-! ### EMB_GRAD -/

/-- STRICT. -/
def gradStrict (b : EmbGradBody) : Bool := natBits b.flags 0 0 = 1
/-- INIT. -/
def gradInit (b : EmbGradBody) : Bool := natBits b.flags 1 1 = 1
/-- Base of the gradient rows of table A or B. -/
def gradBase (b : EmbGradBody) (second : Bool) : Nat := addrOff (if second then b.gradB else b.gradA)
/-- Pitch of gradient rows. -/
def gradPitch (d : TableDesc) (second : Bool) : Nat := roundUp (4 * d.rowWidth second) 64
/-- Device offset of a stored row's gradient row on its owner. -/
def gradOffset (d : TableDesc) (b : EmbGradBody) (x : StoredRowId) : Nat :=
  gradBase b x.1 + shardRow d x.2 * gradPitch d x.1

/-- Ranges an EMB_GRAD reads. -/
def readsEmbGrad (s : State) (o : Op) (b : EmbGradBody) : List (Nat × Nat) :=
  let d := (tableNow s o b.table).2.2
  readsBags s o b.bagRec d ++ [(b.dy, (bagsOf s o b.bagRec).bags * bagPitch d.width b.dyFmt)]

/-- Rows of a table version that a tile group carries at a parameter version, in packing order: ascending owner, then row
(spec/07 R184). -/
def packedAt (s : State) (id tver pver : Nat) (d : TableDesc) : List StoredRowId :=
  let rs := if d.hot then (replicatedRows s id tver pver).map (rowOfNumber d) else []
  rs.sortBy fun x y =>
    decide (x.2 % d.shards < y.2 % d.shards) ||
      (x.2 % d.shards == y.2 % d.shards && decide (rowNumber d x ≤ rowNumber d y))

/-- Packed elements: the row and lane of each. -/
def packedElems (d : TableDesc) (rows : List StoredRowId) : List (StoredRowId × Nat) :=
  rows.flatMap fun x => (List.range (d.rowWidth x.1)).map fun l => (x, l)

/-- EMB_GRAD's acceptance checks; its packed rows fit the group (spec/07 Table 7.7, spec/09 R229). -/
def checkEmbGrad (s : State) (o : Op) (b : EmbGradBody) : Option Status :=
  let d := (tableNow s o b.table).2.2
  if !plainFloat3 (opFmt b.dyFmt) then some .malformed
  else match checkBags s o b.table b.mask b.bagRec with
    | some st => some st
    | none =>
      let n := (bagsOf s o b.bagRec).bags * bagPitch d.width b.dyFmt
      if d.hot && absent b.red then some .malformed
      else if !opRange s o b.dy n 1 || absent b.gradA || meetsMirror b.gradA 1 ||
          (d.composed && (absent b.gradB || meetsMirror b.gradB 1)) then some .outOfRange
      else if !d.hot then none
      else match groupStatus s b.red with
        | some st => some st
        | none =>
          let (v, _, _) := tableNow s o b.table
          if (packedElems d (packedAt s b.table v o.pver d)).length > (groupRec s (addrOff b.red)).elems then some .outOfRange
          else none

/-- A position's contributions to its rows (spec/07 R182). -/
def posContribs (md : NumMode) (d : TableDesc) (rs : List RowRead) (dy : List Val) (p : Position) :
    List (StoredRowId × List Val) × Tally :=
  let rne := { md with rmode := 0 }
  let mul := fun (xs : List Rounded) => (xs.map (·.val), Tally.sum (xs.map (·.tally)))
  let (g, t) := mul (dy.map fun v => fpMul rne 0 0 p.weight v)
  match p.rows with
  | some [a] => ([(a, g)], t)
  | some [a, b] =>
    if d.concat then ([(a, g.take d.widthA), (b, g.drop d.widthA)], t)
    else if d.prod then
      let (ga, ta) := mul (List.zipWith (fpMul rne 0 0) g (rowVals md d rs b))
      let (gb, tb) := mul (List.zipWith (fpMul rne 0 0) g (rowVals md d rs a))
      ([(a, ga), (b, gb)], t.join (ta.join tb))
    else ([(a, g), (b, g)], t)
  | _ => ([], {})

/-- What merges of an EMB_GRAD run under (spec/07 R183). -/
def gradEnv (o : Op) (b : EmbGradBody) : MtEnv := { md := o.mode, op := .add, fmt := 0, seed := o.seed, tensor := b.outTensor }

/-- A stored row's merged lanes: segment s of row r has node field r × 16 + s mod 16 and segment field s ÷ 16, so that
segments fall to belfries by s mod 16 (spec/07 R183). -/
def gradMerge (o : Op) (b : EmbGradBody) (d : TableDesc) (e0 : Nat) (x : StoredRowId) (old : Option (List Val))
    (items : List (Nat × List Val)) : List (Option MtLane) × Tally :=
  let w := d.rowWidth x.1
  let all := mtSort (items.flatMap fun it => (chunksOf 16 it.2).mapIdx fun i l =>
    ({ node := x.2 * 16 + i % 16, seg := i / 16, tag := it.1, lanes := l } : MtItem))
  let segs := (List.range (ceilDiv w 16)).map fun i =>
    mtSegment (gradEnv o b) (e0 + 16 * i) (min 16 (w - 16 * i)) (old.map fun vs => vs.drop (16 * i))
      (all.filter fun y => y.node == x.2 * 16 + i % 16 && y.seg == i / 16)
  (segs.flatMap (·.1), Tally.sum (segs.map (·.2)))

/-- The linear index of a gradient row's first element (log entry 33). -/
def gradElem (d : TableDesc) (x : StoredRowId) : Nat := shardRow d x.2 * d.rowWidth x.1

/-- This device's combined rows, what is to be said of positions, and the counts. -/
structure GradRows where
  rows : List (StoredRowId × List (Option MtLane)) := []
  looks : List (StoredRowId × Nat) := []
  staged : List (Nat × List Byte) := []
  marks : RowMarks := {}
  tally : Tally := {}

/-- Contributions of all positions, one FP32 row for each stored row (spec/07 R182, R183). -/
def gradRows (s : State) (o : Op) (b : EmbGradBody) (d : TableDesc) (ps : List Position) (rs : List RowRead) :
    Except Need GradRows := do
  let lostRow := fun (x : StoredRowId) => match reachOf s (shardChip d x.2) with
    | .near => !rangeOkOp s o (gradOffset d b x) (4 * d.rowWidth x.1)
    | .far => false
    | .none => true
  let code := fun (p : Position) =>
    if d.prod then posCode rs p else if p.rows.isNone then 2 else 0
  let bad := fun (p : Position) => code p == 2 || (p.rows.getD []).any lostRow
  let good := ps.filter fun p => !bad p
  let each ← collect (fun (p : Position) => do
    let row ← opRead s o (b.dy + p.bag * bagPitch d.width b.dyFmt) (d.width * elemBytes (opFmt b.dyFmt).code)
    let (cs, t) := posContribs o.mode d rs (rowLanes o.mode (opFmt b.dyFmt).code row) p
    return (cs.map (fun (c : StoredRowId × List Val) => (c.1, p.j, c.2)), t)) good
  let items := each.flatMap fun (x : List (StoredRowId × Nat × List Val) × Tally) => x.1
  let rows := (distinctRows good).map fun x =>
    let (ls, t) := gradMerge o b d (gradElem d x) x none
      ((items.filter fun (c : StoredRowId × Nat × List Val) => c.1 == x).map fun (c : StoredRowId × Nat × List Val) => c.2)
    ((x, ls), t)
  return {
    rows := rows.map fun (x : (StoredRowId × List (Option MtLane)) × Tally) => x.1,
    marks := { range := (ps.filter bad).map fun p => (p.j, p.index),
               refused := (good.filter fun p => code p == 1).map fun p => (p.j, p.index),
               failed := good.any fun p => code p == 3 },
    tally := (Tally.sum (each.map fun (x : List (StoredRowId × Nat × List Val) × Tally) => x.2)).join
      (Tally.sum (rows.map fun (x : (StoredRowId × List (Option MtLane)) × Tally) => x.2)) }

/-- An EMB_GRAD's rows formed once the rows that a PROD table multiplies by are here, and given to `k` (spec/07 R182). -/
def withGrad (s : State) (o : Op) (b : EmbGradBody) (d : TableDesc) (k : State → Op → GradRows → State) : State :=
  match positions s o (bagsOf s o b.bagRec) d with
  | .error n => opNeed s o.id n
  | .ok (ps, t0) =>
    let rows := if d.prod then distinctRows ps else []
    let dests := ((distinctRows ps).map fun x => shardChip d x.2).eraseDups.filter fun c => reachOf s c == .far
    match dests.findSome? (destStatus s) with
    | some st => unroutable s o.id st
    | none => withTable s o d b.mask b.roundRows ps rows fun s o rs =>
      match gradRows s o b d ps rs with
      | .error n => opNeed s o.id n
      | .ok g => k s o { g with
          looks := rows.map fun x => (x, rowCount ps x), staged := stageRows (bagsOf s o b.bagRec) rs, tally := t0.join g.tally }

/-- Rows of an op's table that leave it through the tile group. -/
def packedRows (s : State) (o : Op) (d : TableDesc) : List StoredRowId :=
  let (id, tver, _) := o.table.getD (0, 0, 0)
  packedAt s id tver o.pver d

/-- The table lies on this device alone: no exchange is needed. -/
def tableLocal (s : State) (d : TableDesc) : Bool := d.shards == 1 && reachOf s d.chip == .near

/-- A batch of an EMB_GRAD. -/
def gradBatch (b : EmbGradBody) (marker : Bool) (rows : List (Nat × List Byte)) : ReduceBatch :=
  { exch := b.exch, combine := 0, init := b2n (gradInit b), marker := marker, rows := rows }

/-- The devices an EMB_GRAD exchanges with: those of the job, or this one alone. -/
def gradChips (s : State) (d : TableDesc) : List Nat := if tableLocal s d then [ownChip s] else jobChips s

/-- Rows that are not replicated leave for their owners (spec/07 R184, spec/06 R156). -/
def sendGrads (s : State) (o : Op) (b : EmbGradBody) (d : TableDesc) (g : GradRows) : State :=
  let packed := packedRows s o d
  let rows := g.rows.filter fun x => !packed.contains x.1
  let per := if b.roundRows = 0 then 1024 else b.roundRows
  (gradChips s d).foldl (fun s c =>
    let mine := (rows.filter fun x => let h := shardChip d x.1.2; h == c || (c == ownChip s && reachOf s h == .near)).map fun x =>
      (gradOffset d b x.1, mtBytes 0 x.2)
    if c = ownChip s then exchangeAdd s c (gradBatch b false mine)
    else
      (chunksOf per mine).foldl (fun s l =>
        sendAwaited s o.id c 5 ((l.head?.map (·.1)).getD 0) (.reduce (gradBatch b false l))) s) s

/-- The stored row whose gradient row lies at an offset here. -/
def gradRowAt (d : TableDesc) (b : EmbGradBody) (off : Nat) : StoredRowId :=
  let inB := d.composed && decide (gradBase b true ≤ off) &&
    (decide (off < gradBase b false) || decide (gradBase b false ≤ gradBase b true))
  (inB, (off - gradBase b inB) / gradPitch d inB * d.shards)

/-- What an owner folds for an EMB_GRAD's exchange (spec/07 R184): ascending chip order under the merge tree's rules. -/
def gradFolds (s : State) (o : Op) (b : EmbGradBody) (d : TableDesc) (rows : List (Nat × Nat × List Byte)) :
    Except Need (List (Nat × List Byte) × Tally) := do
  let offs := (rows.map fun r => r.2.1).eraseDups
  let out ← collect (fun off => do
    let x := gradRowAt d b off
    let items := ((rows.filter fun r => r.2.1 == off).map fun r => (r.1, rowLanes o.mode 0 r.2.2)).sortBy
      fun a b => decide (a.1 ≤ b.1)
    let old ← if gradInit b then .ok none else (opRead s o off (4 * d.rowWidth x.1)).map fun bs => some (rowLanes o.mode 0 bs)
    let (ls, t) := gradMerge o b d (gradElem d x) x old items
    return ((off, mtBytes 0 ls), t)) offs
  return (out.map fun (x : (Nat × List Byte) × Tally) => x.1, Tally.sum (out.map fun (x : (Nat × List Byte) × Tally) => x.2))

/-- A stage of an EMB_GRAD marked. -/
def gradStage (s : State) (id : Nat) (marked folded wrong : Bool) : State :=
  opUpdate s id fun o => { o with work := match o.work with
    | .embGrad m g f x w => .embGrad (m || marked) g (f || folded) x (w || wrong)
    | w => w }

/-- Tiles that an EMB_GRAD has given to its group. -/
def gradGiven (s : State) (id n : Nat) : State :=
  opUpdate s id fun o => { o with work := match o.work with
    | .embGrad m _ f x w => .embGrad m n f x w
    | w => w }

/-- End markers to every device of the job, once every batch is acknowledged (spec/12 R301). -/
def gradMark (s : State) (o : Op) (b : EmbGradBody) (d : TableDesc) : State :=
  let s := (gradChips s d).foldl (fun s c =>
    if c = ownChip s then exchangeAdd s c (gradBatch b true [])
    else sendAwaited s o.id c 5 (gradBase b false) (.reduce (gradBatch b true []))) s
  gradStage s o.id true false false

/-- The owner's fold of an EMB_GRAD, as in `foldExchange`; a COMBINE or INIT that differs is dropped and counted. -/
def gradFold (s : State) (o : Op) (b : EmbGradBody) (d : TableDesc) : State :=
  let held := (exchangeRound (gradChips s d) (exchangeOf s b.exch).batches).1
  let marked := (held.filter fun p => p.2.marker).map (·.1)
  if ackAwaited o || !((gradChips s d).all fun c => marked.contains c) then s
  else
    let good := fun (p : ReduceBatch) => p.combine == 0 && p.init == b2n (gradInit b)
    let rows := (held.filter fun p => good p.2).flatMap fun p => p.2.rows.map fun r => (p.1, r)
    let bad := ((held.filter fun p => !good p.2).map fun p => p.2.rows.length).sum
    match gradFolds s o b d rows with
    | .error n => opNeed s o.id n
    | .ok r =>
      if r.1.any fun w => meetsView s w.1 w.2.length then opDone s o.id .malformed
      else applyWrites s o r.1 fun s =>
        let s := exchangeEnd (opTally s o.id (r.2.inMode o.mode.strict)) b.exch (gradChips s d)
        let s := opUpdate s o.id fun o => { o with c2 := min 0xFFFFFFFF bad }
        gradStage s o.id false true (held.any fun p => !good p.2)

/-- The rows of a tile group this EMB_GRAD gets back as owner: GRAD offset and bytes (spec/09 R243, OUT_MODE 1). -/
def returnedRows (s : State) (o : Op) (b : EmbGradBody) (d : TableDesc) : List (Nat × List Byte) :=
  let off := addrOff b.red
  let r := groupRec s off
  let (lo, hi) := ownedTiles s r
  (packedElems d (packedRows s o d)).zipIdx.filterMap fun (x : (StoredRowId × Nat) × Nat) =>
    let t := x.2 / 1024
    if lo ≤ t ∧ t < hi ∧ reachOf s (shardChip d x.1.1.2) = .near then
      let tile := tileRed s off (o.step.getD 0) t
      let sum := (tile.sums[x.2 % 1024]?).getD 0
      let code := if sum = r.nonfinite then 0x7FC00000
        else encodeVal 0 (roundArith { o.mode with rmode := 0 } 0 0 (Val.ofSig false sum (tile.e.getD 0))).val
      some (gradOffset d b x.1.1 + 4 * x.1.2, leBytes 4 code)
    else none

/-- What a finished EMB_GRAD reports (spec/07 Table 7.7). -/
def gradEnd (s : State) (id : Nat) (b : EmbGradBody) : State :=
  match opById s id with
  | none => s
  | some o => match o.work with
    | .embGrad _ _ _ failed wrong =>
      if wrong then opDone s id .malformed
      else if failed then opDone s id .aborted
      else if o.c1 ≠ 0 then opDone s id .outOfRange
      else if gradStrict b && decide (o.c0 ≠ 0) then opStrictFail s id .outOfRange
      else opDone s id .ok
    | _ => s

/-- FP32 codes of an EMB_GRAD's packed elements, zeros where it has no contribution (spec/07 R184). -/
def gradCodes (s : State) (o : Op) (d : TableDesc) (g : GradRows) : List Nat :=
  (packedElems d (packedRows s o d)).map fun x =>
    match (g.rows.find? fun y => y.1 == x.1).bind fun y => (y.2[x.2]?).getD none with
    | some l => encodeVal 0 l.val
    | none => 0

/-- An EMB_GRAD's elements given to its tile group tile by tile from the n-th on, zeros past them; it stops where a tile has to
wait (spec/07 R184, spec/09 R229, R234). -/
def giveGrads (o : Op) (off elems : Nat) (codes : List Nat) : Nat → State → Nat → State
  | 0, s, _ => s
  | f + 1, s, n =>
    if 1024 * n ≥ elems then s
    else
      let items := (List.range (min 1024 (elems - 1024 * n))).map fun i => (1024 * n + i, (codes[1024 * n + i]?).getD 0)
      match contribute s o off (o.step.getD 0) items with
      | .wait => s
      | .over => opDone s o.id .aborted
      | .done s => giveGrads o off elems codes f (gradGiven s o.id (n + 1)) (n + 1)

/-- The end of an EMB_GRAD whose contributions are with its tile group: at once, or with the sums it gets back. -/
def gradReturn (s : State) (o : Op) (b : EmbGradBody) (d : TableDesc) : State :=
  let off := addrOff b.red
  if !(groupRec s off).outMode then gradEnd s o.id b
  else match ownedFinal s off (o.step.getD 0) with
    | none => s
    | some false => opDone s o.id .aborted
    | some true =>
    let rows := returnedRows s o b d
    if rows.any fun w => meetsView s w.1 w.2.length then opDone s o.id .malformed
    else applyWrites s o rows fun s => gradEnd s o.id b

/-- An EMB_GRAD's exchange goes on: markers once its batches are acknowledged, then its fold as owner. -/
def gradExchange (s : State) (o : Op) (b : EmbGradBody) (d : TableDesc) : State :=
  match o.work with
  | .embGrad marked _ false _ _ =>
    if ackAwaited o then s
    else
      let s := if marked then s else gradMark s o b d
      match opById s o.id with
      | some o => gradFold s o b d
      | none => s
  | _ => s

/-- The rest of an EMB_GRAD once its contributions are out: its exchange, its elements given to the tile group, and the
sums it gets back. -/
def gradGo (s : State) (o : Op) (b : EmbGradBody) (d : TableDesc) : State :=
  let s := gradExchange s o b d
  match opById s o.id with
  | some o =>
    match o.isDone, o.work with
    | false, .embGrad _ n true _ _ =>
      let r := groupRec s (addrOff b.red)
      if !d.hot then gradEnd s o.id b
      else if n ≥ r.tiles then gradReturn s o b d
      else withGrad s o b d fun s o g =>
        let s := giveGrads o (addrOff b.red) r.elems (gradCodes s o d g) r.tiles s n
        match opById s o.id with
        | some o => match o.isDone, o.work with
          | false, .embGrad _ m _ _ _ => if m ≥ r.tiles then gradReturn s o b d else s
          | _, _ => s
        | none => s
    | _, _ => s
  | none => s

/-- An accepted EMB_GRAD: the elements that it will give its tile group are known (spec/09 R232). -/
def acceptEmbGrad (s : State) (o : Op) (b : EmbGradBody) : State :=
  if !(opTable s o).hot then s
  else
    let off := addrOff b.red
    opUpdate s o.id fun p => { p with gives := some (off, o.step.getD 0, 0, (groupRec s off).elems) }

/-- EMB_GRAD's work. -/
def runEmbGrad (s : State) (o : Op) (b : EmbGradBody) : State :=
  let d := opTable s o
  match o.work with
  | .embGrad _ _ _ _ _ => gradGo s o b d
  | _ => withGrad s o b d fun s o g =>
    applyWrites s o g.staged fun s =>
      let s := sendGrads s o b d g
      let s := countLocal (opTally s o.id (g.tally.inMode o.mode.strict)) o d g.looks
      let s := opUpdate s o.id fun o => { o with
        work := .embGrad false 0 false g.marks.failed false, c0 := min 0xFFFFFFFF g.marks.range.length,
        c1 := min 0xFFFFFFFF g.marks.refused.length, aux := g.marks.first }
      let s := if tableLocal s d then s else addReq s o.id 0 .event
      match opById s o.id with
      | some o => gradGo s o b d
      | none => s

end Sys2Proof.Machine
end

