-- ==== Sys2Proof/Machine/Waits.lean ====
section
/-! DEFINITION. The tests of WAIT (spec/13 R341). -/

namespace Sys2Proof.Machine

/-- Ranges a WAIT reads. -/
def readsWait (s : State) (_o : Op) (b : WaitBody) : List (Nat × Nat) := if isLocal s b.addr then [(b.addr, 8)] else []

/-- WAIT's acceptance checks (spec/13 R341, R433). -/
def checkWait (s : State) (o : Op) (b : WaitBody) : Option Status :=
  if b.cond > 2 then some .malformed else if !opRange s o b.addr 8 8 then some .outOfRange else none

/-- The condition on the word (spec/13 Table 13.5). -/
def waitMet (b : WaitBody) (w : Nat) : Bool :=
  let x := w &&& b.mask
  if b.cond = 0 then decide (x ≥ b.value) else if b.cond = 1 then x == b.value else x != b.value

/-- The burst of a WAIT's test: its word's grain, but for a host-window word that has been read for it. -/
def waitBursts (s : State) (o : Op) (b : WaitBody) : List Burst :=
  if o.hostBuf.isEmpty then rangeBursts s (addrOff b.addr) 8 else []

/-- One test of a WAIT; a host-window word is read for it. A test whose burst finds no tokens is made at the end of the Chime
period, as every WAIT's is (spec/14 R358). -/
def waitTest (s : State) (o : Op) (b : WaitBody) : State :=
  match payNow (touchRange s (addrOff b.addr) 8) (waitBursts s o b) with
  | none => s
  | some s =>
    match opRead s o b.addr 8 with
    | .error n => opNeed s o.id n
    | .ok bs => if waitMet b (leNat bs) then opDone s o.id .ok else opUpdate s o.id fun o => { o with hostBuf := [] }

/-- Every running WAIT whose address a test selects is tested. -/
def testWaits (s : State) (p : Nat → Bool) : State :=
  s.ops.foldl (fun s x => match x.body with
    | .wait b => if x.isActive && p (addrOff b.addr) then waitTest s x b else s
    | _ => s) s

/-- A SIGNAL, WRITE or ATOMIC has landed on `n` bytes: WAITs on their grains are tested. -/
def testGrains (s : State) (a n : Nat) : State :=
  testWaits s fun x => decide (a / 64 ≤ x / 64) && decide (x / 64 ≤ (a + n - 1) / 64)

end Sys2Proof.Machine
end

