-- ==== Sys2Proof/Machine/Slots.lean ====
section
/-! DEFINITION. Version slots (spec/08 R203 to R206), the commit and failure of a step's shadows (R204, R219, R220), and
transaction groups (R207, R211 to R213, R438) with TXN_BEGIN, TXN_COMMIT and TXN_ABORT. -/

namespace Sys2Proof.Machine

/-! ### Slots -/

/-- Step that a one-slot slice is closed for; 0 is none. -/
def closedFor (s : State) (i : Nat) : Nat := tabGet (fun _ => 0) s.dome.closedBy i
/-- CLOSED of a one-slot slice set for a step, or cleared (0). -/
def setClosed (s : State) (i step : Nat) : State :=
  let st := sliceState s i
  let s := setSliceState s i (if step = 0 then st &&& 0xF7 else st ||| 8)
  { s with dome := { s.dome with closedBy := tabPut (fun _ => 0) s.dome.closedBy i step } }

/-- The slot that holds a slice's shadow of a step (spec/08 Table 8.2, R206). -/
def shadowSlot (s : State) (i step : Nat) : Option Nat :=
  if sliceSlots s i ≤ 1 then (if closedFor s i = step ∧ step ≠ 0 then some 0 else none)
  else firstNat (sliceSlots s i) fun k => sliceShadow s i k && sliceVer s i k == step % 2 ^ 32

/-- A slot claimed for a step's shadow: the lowest free one; none while the claim waits (spec/08 R205, R206). -/
def claimSlot (s : State) (i step : Nat) : Option State :=
  if (shadowSlot s i step).isSome then some s
  else if sliceSlots s i ≤ 1 then
    (if slicePin s i 0 = 0 ∧ closedFor s i = 0 then some (setClosed s i step) else none)
  else match firstNat (sliceSlots s i) fun k => sliceVer s i k == verFree with
    | some k => some (setSliceState (setSliceVer s i k (step % 2 ^ 32)) i (sliceState s i ||| 2 ^ (4 + k)))
    | none => none

/-- A slot that is neither current nor a shadow, and holds no pin, is free (spec/08 Table 8.3). -/
def settleSlot (s : State) (i k : Nat) : State :=
  if k ≠ sliceCur s i ∧ !sliceShadow s i k ∧ slicePin s i k = 0 then setSliceVer s i k verFree else s

/-- The flip of one slice: its shadow becomes current (spec/08 R204, R206). -/
def flipSlice (step : Nat) (s : State) (i : Nat) : State :=
  match shadowSlot s i step with
  | none => s
  | some k =>
    if sliceSlots s i ≤ 1 then setClosed (setSliceVer s i 0 (step % 2 ^ 32)) i 0
    else
      let old := sliceCur s i
      let st := sliceState s i
      let s := setSliceState s i ((st &&& (0xFC ^^^ 2 ^ (4 + k))) ||| k)
      settleSlot s i old

/-- The slice's shadow of a failed step is freed (spec/08 R204). -/
def dropShadow (step : Nat) (s : State) (i : Nat) : State :=
  match shadowSlot s i step with
  | none => s
  | some k =>
    if sliceSlots s i ≤ 1 then setClosed s i 0
    else setSliceVer (setSliceState s i (sliceState s i &&& (0xFF ^^^ 2 ^ (4 + k)))) i k verFree

/-- Every slice of the device flips together (spec/08 R220). -/
def flipAll (s : State) (step : Nat) : State := (List.range (verCount s)).foldl (flipSlice step) s
/-- Every shadow of a step is freed. -/
def dropShadows (s : State) (step : Nat) : State := (List.range (verCount s)).foldl (dropShadow step) s

/-! ### Pin epochs (spec/08 R203) -/

/-- The open epoch of a ring. -/
def openEpoch (s : State) (ring : Nat) : Option Epoch := s.dome.epochs.find? fun e => e.ring == ring && e.isOpen

/-- Some slice is CLOSED: an epoch that would pin it waits (spec/08 R206). -/
def someClosed (s : State) : Bool := (List.range (verCount s)).any (sliceClosed s)

/-- The ring's epoch opens: one pin on the current slot of every slice. -/
def epochOpen (s : State) (ring : Nat) : State :=
  let n := verCount s
  let slots := (List.range n).map (sliceCur s)
  let e : Epoch := { id := s.dome.epochNext, ring := ring, isOpen := true, ver := s.dome.lastCommitted % 2 ^ 32, slots := slots }
  let s := slots.zipIdx.foldl (fun s x => setSlicePin s x.2 x.1 (slicePin s x.2 x.1 + 1)) s
  { s with dome := { s.dome with epochs := s.dome.epochs ++ [e], epochNext := s.dome.epochNext + 1 } }

/-- The ring's open epoch closes. -/
def epochClose (s : State) (ring : Nat) : State :=
  { s with dome := { s.dome with epochs := s.dome.epochs.map fun e =>
      if e.ring == ring then { e with isOpen := false } else e } }

/-- Pins of closed epochs whose ops have all completed are released. -/
def epochsRelease (s : State) : State :=
  let past := fun (e : Epoch) => !e.isOpen && !(s.ops.any fun o => o.epoch == some e.id && !o.completed)
  let out := s.dome.epochs.filter past
  let s := { s with dome := { s.dome with epochs := s.dome.epochs.filter fun e => !past e } }
  out.foldl (fun s e => e.slots.zipIdx.foldl (fun s x =>
    settleSlot (setSlicePin s x.2 x.1 (slicePin s x.2 x.1 - 1)) x.2 x.1) s) s

/-! ### Groups -/

/-- A group forgotten. -/
def txnDrop (s : State) (num : Nat) : State :=
  { s with dome := { s.dome with txns := s.dome.txns.filter fun t => t.num != num } }

/-- A group's staged writes become visible at once as a journal to be copied, and WAITs on the words of its SIGNALs are tested;
none while a swap of the table directory would make a fifth version live (spec/08 R211, spec/07 R178, R179, spec/13 R341). -/
def txnApply (s : State) (num : Nat) : Option State :=
  match txnOf s num with
  | none => some s
  | some t =>
    let after := txnDrop { s with dome := { s.dome with
      journals := if t.staged.isEmpty then s.dome.journals else s.dome.journals ++ [t.staged] } } num
    let ids := dirIds s (t.staged.map (·.1))
    if dirFull s after ids then none else some (t.signals.foldl (fun s a => testGrains s a 8) (dirSwap s after ids))

/-- Bytes of one granule that waited are tried again; where they are applied, WAITs on them are tested (spec/13 R341). -/
def retryWrite (s : State) (w : HeldWrite) : State :=
  let t := plainPart w.wakes (plainConflicts s w.a w.data.length) (w.a, w.data)
  if w.wakes && t.dome.heldWrites.length == s.dome.heldWrites.length then testGrains t w.a w.data.length else t

/-- Writes that waited behind a journal, a bank in copy or a swap are tried again, in order (spec/08 R211). -/
def releaseHeld (s : State) : State :=
  s.dome.heldWrites.foldl retryWrite { s with dome := { s.dome with heldWrites := [] } }

/-- One 64-byte granule of the oldest journal is copied to its target (spec/08 R211); `lost` leaves the target as it
was. -/
def copyGranule (s : State) (lost : Bool) : State :=
  match s.dome.journals with
  | [] => s
  | j :: rest => match j with
    | [] => { s with dome := { s.dome with journals := rest } }
    | c :: _ =>
      let g := c.1 / 64
      let here := j.filter fun x => x.1 / 64 == g
      let left := j.filter fun x => x.1 / 64 != g
      let s := if lost then s else here.reverse.foldl (fun s x => applyBytes s x.1 [x.2]) s
      releaseHeld { s with dome := { s.dome with journals := if left.isEmpty then rest else left :: rest } }

/-- Every op that names a group has completed, but for the one that closes it. -/
def groupQuiet (s : State) (num closer : Nat) : Bool :=
  !(s.ops.any fun o => o.hdr.txn == num && o.id != closer && !o.completed)

/-! ### TXN_BEGIN, TXN_COMMIT, TXN_ABORT -/

/-- TXN_BEGIN's acceptance checks (spec/08 R207, R223). -/
def checkTxnBegin (s : State) (o : Op) (b : TxnBeginBody) : Option Status :=
  if o.hdr.txn = 0 ∨ (txnOf s o.hdr.txn).isSome ∨ b.journalLimit > 0x4000000 then some .malformed else none

/-- The group opens at acceptance (spec/08 R207). -/
def acceptTxnBegin (s : State) (o : Op) (b : TxnBeginBody) : State :=
  let t : Txn := { num := o.hdr.txn, order := s.dome.txnOrder,
                   limit := if b.journalLimit = 0 then 0x4000000 else b.journalLimit }
  { s with dome := { s.dome with txns := s.dome.txns ++ [t], txnOrder := s.dome.txnOrder + 1 } }

/-- TXN_COMMIT's and TXN_ABORT's check: an open group, not yet closing (spec/08 R211, R213). -/
def checkTxnClose (s : State) (o : Op) : Option Status :=
  match txnOf s o.hdr.txn with
  | some t => if t.closer.isSome then some .malformed else none
  | none => some .malformed

/-- The group has its closer. -/
def acceptTxnClose (s : State) (o : Op) : State := txnUpdate s o.hdr.txn fun t => { t with closer := some o.id }

/-- The event of a group that has aborted carries the cause: its status code in DETAIL (spec/08 R212; log entry 138). -/
def noteCause (s : State) (id : Nat) (cause : Option Status) : State :=
  match cause with
  | some c => opUpdate s id fun o => { o with detail := c.code }
  | none => s

/-- TXN_COMMIT's work: it waits for the group's ops (spec/08 R211, R438). -/
def runTxnCommit (s : State) (o : Op) : State :=
  if !groupQuiet s o.hdr.txn o.id then s
  else match txnOf s o.hdr.txn with
    | none => opDone s o.id .aborted
    | some t =>
      match t.aborted with
      | some c => opDone (noteCause (txnDrop s t.num) o.id (some c)) o.id .aborted
      | none =>
        match txnApply s t.num with
        | some s => opDone s o.id .ok
        | none => s

/-- TXN_ABORT's work: the group's ops stop and it is closed (spec/08 R212, R438). -/
def runTxnAbort (s : State) (o : Op) : State :=
  let cause := (txnOf s o.hdr.txn).bind (·.aborted)
  opDone (noteCause (txnDrop (abortTxn s o.hdr.txn .aborted) o.hdr.txn) o.id cause) o.id .ok

/-! ### Halting (spec/15 R376, R377) -/

/-- The op is a STEP_COMMIT. -/
def Op.isStepCommit (o : Op) : Bool :=
  match o.body with
  | .stepCommit _ => true
  | _ => false

/-- The job halts: every op in flight but STEP_COMMIT completes ABORTED. -/
def haltJob (s : State) : State :=
  { s with
    flt := { s.flt with halted := true },
    ops := s.ops.map fun o => if o.isDone || o.isStepCommit then o else { o with phase := .done .aborted, reqs := [], owed := [] } }

/-! ### Steps -/

/-- The gate of a step as this device knows it: passed, failed or not yet known (spec/08 R218, R219). -/
def gateOf (s : State) (step : Nat) : Option Bool :=
  match s.ops.findSome? (fun o => match o.body, o.work, o.phase with
    | .stepCommit b, .step _ _ _ _ g _ _, .active => if b.step = step then some g else none
    | _, _, _ => none) with
  | some g => g
  | none =>
    if s.dome.failedSteps.contains step then some false
    else match s.dome.steps.findSome? fun t => if t.step = step then t.outcome else none with
      | some st => some (st == .ok)
      | none => if step ≤ s.dome.lastCommitted then some true else none

/-- The step number that 32 bits name: the least at or above the last committed step (spec/08 Table 8.8). -/
def fullStep (s : State) (low : Nat) : Nat :=
  let base := s.dome.lastCommitted
  base + (low + 2 ^ 32 - base % 2 ^ 32) % 2 ^ 32

/-- The slices named exist and are owned here (spec/08 R222, spec/09 R250). -/
def slicesOwned (s : State) (first n : Nat) : Bool :=
  decide (n ≠ 0) && decide (first + n ≤ verCount s) && (List.range n).all fun i => sliceOwned s (first + i)

end Sys2Proof.Machine
end

