-- ==== Sys2Proof/Machine/Reduce.lean ====
section
/-! DEFINITION. REDUCE_GRAD (spec/09 R234, R248, R249) and PARAM_PUBLISH (spec/09 R245, R246, R250). -/

namespace Sys2Proof.Machine

/-! ### REDUCE_GRAD -/

/-- FINAL. -/
def reduceFinal (b : ReduceGradBody) : Bool := natBits b.flags 0 0 = 1

/-- Ranges a REDUCE_GRAD reads. -/
def readsReduce (_s : State) (_o : Op) (b : ReduceGradBody) : List (Nat × Nat) := [(b.src, 4 * b.srcElems)]

/-- REDUCE_GRAD's acceptance checks (spec/09 R229, R249, Table 9.9). -/
def checkReduce (s : State) (o : Op) (b : ReduceGradBody) : Option Status :=
  match groupStatus s b.group with
  | some st => some st
  | none =>
    if reduceFinal b && finalAccepted s (addrOff b.group) b.step then some .malformed
    else if b.srcElems ≠ 0 ∧ (!opRange s o b.src (4 * b.srcElems) 1 ||
        decide (b.srcOffset + b.srcElems > (groupRec s (addrOff b.group)).elems)) then some .outOfRange
    else none

/-- A FINAL takes its place in its group step, once the step can be held; so does that of a step that has been discarded, whose
second FINAL is refused too (spec/09 R236, R249). -/
def finalJoin (s : State) (o : Op) (b : ReduceGradBody) : State :=
  let off := addrOff b.group
  let s := groupOpenHere s off b.step
  match groupStep s off b.step with
  | some g => if g.final.isNone then groupUpdate s off b.step fun g => { g with final := some o.id } else s
  | none => s

/-- An accepted REDUCE_GRAD: what it gives is known, and a FINAL is the group step's (spec/09 R232, R249). -/
def acceptReduce (s : State) (o : Op) (b : ReduceGradBody) : State :=
  let s := opUpdate s o.id fun o =>
    { o with work := .reduce 0, gives := some (addrOff b.group, b.step, b.srcOffset, b.srcElems) }
  if reduceFinal b then finalJoin s o b else s

/-- Elements of the tile that holds group element e, from e on, up to `stop`. -/
def tileRest (e stop : Nat) : Nat := min stop ((e / 1024 + 1) * 1024) - e

/-- Source elements quantised tile by tile from the n-th on; it stops where a tile has to wait (spec/09 R234). -/
def reduceSteps (b : ReduceGradBody) : Nat → State → Op → Nat → State
  | 0, s, _, _ => s
  | f + 1, s, o, n =>
    if n ≥ b.srcElems then s
    else
      let e := b.srcOffset + n
      let k := tileRest e (b.srcOffset + b.srcElems)
      match collect (fun i => (opNat s o (b.src + 4 * (n + i)) 4).map fun c => (e + i, c)) (List.range k) with
      | .error x => opNeed s o.id x
      | .ok items => match contribute s o (addrOff b.group) b.step items with
        | .wait => s
        | .over => opDone s o.id .aborted
        | .done s => reduceSteps b f (opUpdate s o.id fun o => { o with work := .reduce (n + k) }) o (n + k)

/-- REDUCE_GRAD's work: its source is quantised; a FINAL also waits for its group's tiles (spec/09 R248). -/
def runReduce (s : State) (o : Op) (b : ReduceGradBody) : State :=
  let n := match o.work with
    | .reduce n => n
    | _ => 0
  let s := if reduceFinal b then finalJoin s o b else s
  let s := reduceSteps b (b.srcElems / 1024 + 2) s o n
  match opById s o.id with
  | some o => match o.isDone, o.work with
    | false, .reduce n =>
      if n < b.srcElems then s
      else if !reduceFinal b then opDone s o.id .ok
      else match groupStep s (addrOff b.group) b.step with
        | some g => if g.gone || g.final != some o.id then opDone s o.id .aborted else
          finalGo (if o.reqs.isEmpty then
            opUpdate s o.id fun x => { x with reqs := [{ tag := 0, await := .event, start := x.taken }] } else s)
            (addrOff b.group) b.step
        | none => if groupRoom s (addrOff b.group) b.step then opDone s o.id .aborted else s
    | _, _ => s
  | none => s

/-! ### PARAM_PUBLISH -/

/-- Chips of a 2 KiB map at an address. -/
def mapChips (s : State) (o : Op) (a : Nat) : List Nat :=
  let bs := opRec s o a 2048
  (bs.zipIdx).flatMap fun x => (natsWhere 8 fun i => x.1.getLsbD i).map fun i => 8 * x.2 + i

/-- Ranges a PARAM_PUBLISH reads. -/
def readsPublish (_s : State) (_o : Op) (b : PublishBody) : List (Nat × Nat) := [(b.recv, 2048)]

/-- PARAM_PUBLISH's acceptance checks (spec/09 R250, Table 9.9). -/
def checkPublish (s : State) (o : Op) (b : PublishBody) : Option Status :=
  if !opRange s o b.recv 2048 1 then some .outOfRange
  else if !slicesOwned s b.sliceFirst b.sliceCount then some .malformed
  else none

/-- An UPDATE of this step over a slice has not completed: its shadow is not written yet. -/
def updateRuns (s : State) (i step : Nat) : Bool :=
  s.ops.any fun o => !o.isDone && match o.body with
    | .update b => decide (b.sliceFirst ≤ i) && decide (i < b.sliceFirst + b.sliceCount) && fullStep s b.step == step
    | _ => false

/-- The bytes of a slice's shadow as an op of group `num` sees them, once its owner's Vane has written them (spec/09
R245). -/
def shadowBytes (s : State) (num i step : Nat) : Option (List Byte) :=
  if updateRuns s i step then none
  else (shadowSlot s i step).map fun k => seenBytes s num (slotAddr s i k) (sliceBytes s i)

/-- One slice sent to one receiver: PUBLISH packets of at most 4 KiB (log entry 15). -/
def sendSlice (s : State) (id chip i step : Nat) (bs : List Byte) : State :=
  (pieces bs.length).foldl (fun s p =>
    sendAwaited s id chip 3 (slotAddr s i 0 + p.1)
      (.publish i step bs.length p.1 ((bs.drop p.1).take p.2))) s

/-- The bursts of reading a slice's shadow for an op, the n-th of its slices: asked for once, and paid when none is owed
(spec/14 R356, R358). -/
def payShadow (s : State) (id i step n : Nat) : State :=
  match opById s id, shadowSlot s i step with
  | some o, some k =>
    if o.asked > n + 1 then s
    else askTokens (touchRange s (slotAddr s i k) (sliceBytes s i)) o (n + 1) (rangeBursts s (slotAddr s i k) (sliceBytes s i)) fun s => s
  | _, _ => s

/-- An op owes bursts. -/
def opOwes (s : State) (id : Nat) : Bool := (opById s id).any fun o => !o.owed.isEmpty

/-- Slices sent in order from the n-th on, while their shadows exist and their bursts start. -/
def publishSteps (b : PublishBody) (num : Nat) (chips : List Nat) : Nat → State → Nat → Nat → State × Nat
  | 0, s, _, n => (s, n)
  | f + 1, s, id, n =>
    if n ≥ b.sliceCount then (s, n)
    else match shadowBytes s num (b.sliceFirst + n) b.step with
      | none => (s, n)
      | some bs => match chips.findSome? (destStatus s) with
        | some st => (unroutable s id st, n)
        | none =>
          let s := payShadow s id (b.sliceFirst + n) b.step n
          if opOwes s id then (s, n)
          else publishSteps b num chips f (chips.foldl (fun s c => sendSlice s id c (b.sliceFirst + n) b.step bs) s) id (n + 1)

/-- PARAM_PUBLISH's work (spec/09 R245, R246): slices as their shadows come, then every acknowledgement. -/
def runPublish (s : State) (o : Op) (b : PublishBody) : State :=
  if gateOf s b.step = some false then opDone s o.id .aborted
  else
    let n := match o.work with
      | .slices n => n
      | _ => 0
    let chips := (mapChips s o b.recv).filter fun c => c != ownChip s
    let (s, n) := publishSteps b o.hdr.txn chips (b.sliceCount + 1) s o.id n
    let s := opUpdate s o.id fun o => { o with work := .slices n }
    match opById s o.id with
    | some o => if n ≥ b.sliceCount && !ackAwaited o then opDone s o.id .ok else s
    | none => s

end Sys2Proof.Machine
end

