-- ==== Sys2Proof/Machine/Vane.lean ====
section
/-! DEFINITION. UPDATE: the Vane (spec/08 R214 to R217, R222), its norms (spec/10 R260) and the owned sums it consumes
(spec/09 R244). -/

namespace Sys2Proof.Machine

/-- Format codes of m and v. -/
def momM (b : UpdateBody) : Nat := natBits b.momFmt 3 0
/-- Format code of v. -/
def momV (b : UpdateBody) : Nat := natBits b.momFmt 7 4
/-- PUB_SR. -/
def pubSr (b : UpdateBody) : Bool := natBits b.flags 0 0 = 1
/-- Offset of the scales from the elements (spec/08 R222). -/
def momScales (b : UpdateBody) : Nat := roundUp b.elems 64
/-- Bytes of a moment with its scales. -/
def momBytes (b : UpdateBody) : Nat := momScales b + b.elems / 32

/-- Ranges an UPDATE reads (spec/08 R203). -/
def readsUpdate (_s : State) (_o : Op) (b : UpdateBody) : List (Nat × Nat) :=
  [(b.master, 4 * b.elems), (b.m, momBytes b), (b.v, momBytes b), (b.hp, 64)]

/-- UPDATE's acceptance checks (spec/08 Table 8.11, spec/09 R244). -/
def checkUpdate (s : State) (o : Op) (b : UpdateBody) : Option Status :=
  let code := fun (c : Nat) => c == 3 || c == 4
  if !code (momM b) || !code (momV b) || !slicesOwned s b.sliceFirst b.sliceCount || b.elems % 1024 != 0 ||
      b.elems != ((List.range b.sliceCount).map fun i => sliceBytes s (b.sliceFirst + i) / 2).sum then some .malformed
  else match groupStatus s b.red with
    | some st => some st
    | none =>
      let (lo, hi) := ownedTiles s (groupRec s (addrOff b.red))
      let writes := [(b.master, 4 * b.elems), (b.m, momBytes b), (b.v, momBytes b)]
      refuse
        [ (b.elems != 1024 * (hi - lo), .malformed),
          (writes.any fun r => isLocal s r.1 && meetsView s (addrOff r.1) r.2, .malformed),
          (!(writes.all fun r => opRange s o r.1 r.2 1) || !opRange s o b.hp 64 64, .outOfRange) ]

/-- An UPDATE of a frozen layer completes at acceptance (spec/08 R195). -/
def acceptUpdate (s : State) (o : Op) (b : UpdateBody) : State :=
  if frozenLayer s b.layer then opDone s o.id .ok else s

/-- The hyperparameters (spec/08 Table 8.6). -/
structure Hyper where
  (b1 omb1 b2 omb2 lrm vc eps wdlr gscale : Val)

/-- spec/08 Table 8.6. -/
def parseHyper (d : List Byte) : Hyper :=
  let f := fun i => decodeVal 0 false (fieldAt d (4 * i) 4)
  { b1 := f 0, omb1 := f 1, b2 := f 2, omb2 := f 3, lrm := f 4, vc := f 5, eps := f 6, wdlr := f 7, gscale := f 8 }

/-- The Vane's arithmetic: RNE, subnormals kept (spec/08 R215). -/
def vaneMode : NumMode := { strict := true }

/-- A result with a canonical NaN. -/
def canonical (x : Rounded) : Val := if x.val.isNaN then .qnan else x.val

/-- One element updated: g, w2, m1 and v1 (spec/08 R215). -/
structure VaneOut where
  (g w2 m1 v1 : Val)

/-- spec/08 R215. -/
def vaneElement (h : Hyper) (sum w m v : Val) : VaneOut :=
  let mul := fun a b => canonical (fpMul vaneMode 0 0 a b)
  let add := fun a b => canonical (fpAdd vaneMode 0 0 a b)
  let fma := fun a b c => canonical (fpFma vaneMode 0 0 a b c)
  let g := mul sum h.gscale
  let m1 := fma h.b1 m (mul h.omb1 g)
  let v1 := fma h.b2 v (mul h.omb2 (mul g g))
  let den := add (canonical (fpSqrt vaneMode 0 0 (mul v1 h.vc))) h.eps
  let u := canonical (fpDiv vaneMode 0 0 m1 den)
  let w1 := fma h.wdlr.negate w w
  { g := g, w2 := fma h.lrm.negate u w1, m1 := m1, v1 := v1 }

/-- A sum of the store: none for the non-finite code. -/
def storedSum (r : GroupRec) (bs : List Byte) (l : Nat) : Option Int :=
  let w := if r.fmt = 0xE then 8 else 4
  let v := asSigned (8 * w) (fieldAt bs (64 + w * l) w)
  if v = r.nonfinite then none else some v

/-- An element as the Vane leaves it. -/
structure VaneElem where
  w : Val
  g : Val
  /-- New w, m1, v1; none where the old values stay. -/
  new : Option (Val × Val × Val)
  /-- Counted as non-finite (spec/08 R216). -/
  bad : Bool := false

/-- Element i of an UPDATE: `ms` and `vs` are its moments' old values and `frozen` that a scale of its block is 0xFF
(spec/08 R215, R216). -/
def vaneOne (h : Hyper) (sum : Option Int) (e : Int) (w m v : Val) (frozen : Bool) : VaneElem :=
  match sum with
  | none => { w := w, g := .qnan, new := none }
  | some q =>
    let x := vaneElement h (Val.ofSig false q e) w m v
    let finIn := [w, m, v, h.b1, h.omb1, h.b2, h.omb2, h.lrm, h.vc, h.eps, h.wdlr, h.gscale].all Val.isFin
    let finOut := x.w2.isFin && x.m1.isFin && x.v1.isFin
    if frozen then { w := w, g := x.g, new := none }
    else if finIn && !finOut then { w := w, g := x.g, new := none, bad := true }
    else { w := w, g := x.g, new := some (x.w2, x.m1, x.v1) }

/-- A moment block re-encoded: kept elements from their old values (spec/08 R215, R216). -/
def momBlock (fc : Nat) (old : List Val) (new : List (Option Val)) : List Nat × Nat × Tally :=
  let b := encodeMxBlock vaneMode fc (fun _ => 0) ((old.zip new).map fun p => p.2.getD p.1)
  (b.codes, b.scale, Tally.sum (b.outs.map fun x => ({ sat := x.tally.sat, nonfin := x.tally.nonfin } : Tally)))

/-- All an UPDATE reads of its elements. -/
structure VaneIn where
  h : Hyper
  (master m v : List Byte)
  /-- Bytes of each owned tile of the sum store. -/
  tiles : List (List Byte)

/-- spec/08 R214, spec/09 R244. -/
def vaneRead (s : State) (o : Op) (b : UpdateBody) : Except Need VaneIn := do
  let r := groupRec s (addrOff b.red)
  let hp ← opRead s o b.hp 64
  let w ← opRead s o b.master (4 * b.elems)
  let m ← opRead s o b.m (momBytes b)
  let v ← opRead s o b.v (momBytes b)
  let tiles ← collect (fun j =>
    let a := addrOff r.sum + j * r.stride
    if regionOf a = .hostWindow then opRead s o (r.sum + j * r.stride) r.stride else .ok (committedBytes s a r.stride))
    (List.range (b.elems / 1024))
  return { h := parseHyper hp, master := w, m := m, v := v, tiles := tiles }

/-- Every element of an UPDATE, and the moment blocks whose scale is 0xFF. -/
def vaneElems (r : GroupRec) (b : UpdateBody) (x : VaneIn) : List VaneElem × Nat :=
  let scale := fun (bs : List Byte) (i : Nat) => fieldAt bs (momScales b + i / 32) 1
  let elems := (List.range b.elems).map fun i =>
    let t := (x.tiles[i / 1024]?).getD []
    let sm := scale x.m i
    let sv := scale x.v i
    vaneOne x.h (storedSum r t (i % 1024)) (asSigned 16 (fieldAt t 0 2)) (decodeVal 0 false (fieldAt x.master (4 * i) 4))
      (mxVal (momM b) sm (fieldAt x.m i 1)) (mxVal (momV b) sv (fieldAt x.v i 1)) (sm == 0xFF || sv == 0xFF)
  let blocks := ((List.range (b.elems / 32)).map fun k =>
    b2n (scale x.m (32 * k) == 0xFF) + b2n (scale x.v (32 * k) == 0xFF)).sum
  (elems, blocks)

/-- The bytes of a moment after an UPDATE: elements and scales, and the counts. -/
def momNew (fc : Nat) (b : UpdateBody) (old : List Byte) (es : List VaneElem) (pick : Val × Val × Val → Val) :
    List Byte × Tally :=
  let blocks := (chunksOf 32 es).mapIdx fun k blk =>
    let sc := fieldAt old (momScales b + k) 1
    let codes := (List.range 32).map fun j => fieldAt old (32 * k + j) 1
    if blk.all fun e => e.new.isNone then (codes, sc, ({} : Tally))
    else momBlock fc (codes.map (mxVal fc sc)) (blk.map fun e => e.new.map pick)
  let body := (blocks.flatMap fun p => p.1).map (BitVec.ofNat 8)
  (body ++ (old.drop b.elems).take (momScales b - b.elems) ++ blocks.map (fun p => BitVec.ofNat 8 p.2.1),
    Tally.sum (blocks.map fun p => p.2.2))

/-- The BF16 bytes of a slice's new version: `old` where an element keeps its values (spec/08 R215, R216). -/
def sliceNew (o : Op) (b : UpdateBody) (slice : Nat) (old : List Byte) (es : List VaneElem) : List Byte :=
  (es.mapIdx fun j e => match e.new with
    | none => (old.drop (2 * j)).take 2
    | some (w2, _, _) =>
      let word := if pubSr b then srWord (BitVec.ofNat 64 o.seed) (0xFFFF0000 + slice) j 0xFFFFFFFF else 0
      let md := { vaneMode with rmode := if pubSr b then 4 else 0 }
      leBytes 2 (encodeVal 1 (canonical (convertVal .arith md 1 false word w2)))).flatten

/-! ### Norms (spec/10 R260) -/

/-- The fixed pairwise tree over a 128-lane group. -/
def normGroup (xs : List Val) : Val :=
  (((List.range 7).foldl (fun l _ => (treeLevel vaneMode 0xC l).1) xs).head?).getD (.zero false)

/-- FP64 values folded in order. -/
def normFold (xs : List Val) : Val :=
  match xs with
  | [] => .zero false
  | x :: t => t.foldl (fun a b => canonical (fpAdd vaneMode 0xC 0 a b)) x

/-- An UPDATE's sum of a term: tiles of eight groups. -/
def normSum (term : VaneElem → Val) (es : List VaneElem) : Val :=
  normFold ((chunksOf 1024 es).map fun tile => normFold ((chunksOf 128 (tile.map term)).map normGroup))

/-- w², exact in FP64. -/
def normW (e : VaneElem) : Val := canonical (fpMul vaneMode 0xC 0 e.w e.w)
/-- g², of a finite g. -/
def normG (e : VaneElem) : Val := if e.g.isFin then canonical (fpMul vaneMode 0xC 0 e.g e.g) else .zero false
/-- (w2 − w)², of a finite g; an element that keeps its values adds 0. -/
def normU (e : VaneElem) : Val :=
  match e.new with
  | some (w2, _, _) =>
    if e.g.isFin then
      let u := canonical (fpAdd vaneMode 0xC 0 w2 e.w.negate)
      canonical (fpMul vaneMode 0xC 0 u u)
    else .zero false
  | none => .zero false

/-- An FP64 field of a record increased. -/
def addField (s : State) (a : Nat) (v : Val) : State :=
  devWrite s a (leBytes 8 (encodeVal 0xC (canonical (fpAdd vaneMode 0xC 0 (decodeVal 0xC false (memNat s a 8)) v))))

/-- The norm sums of one UPDATE added to its layer's record. -/
def addNorms (s : State) (step layer : Nat) (es : List VaneElem) : State :=
  layerDo s step layer 1 fun s a =>
    let s := addField (addField (addField s (a + 16) (normSum normW es)) (a + 24) (normSum normG es)) (a + 32) (normSum normU es)
    let fin := (es.filter fun e => e.g.isFin).length
    let s := bumpField (bumpField (bumpField s (a + 40) 8 fin) (a + 48) 4 (es.length - fin)) (a + 8) 4 1
    devWrite s (a + 12) (leBytes 4 (memNat s (a + 12) 4 ||| 1))

/-! ### UPDATE_RUN -/

/-- An earlier UPDATE of the same step and layer has not completed: norms add in acceptance order (spec/10 R260). -/
def updateBehind (s : State) (o : Op) (b : UpdateBody) : Bool :=
  s.ops.any fun x => decide (x.id < o.id) && !x.isDone && match x.body with
    | .update c => c.step == b.step && c.layer == b.layer
    | _ => false

/-- Slots claimed for every slice that has one free (spec/08 R205). -/
def claimAll (s : State) (b : UpdateBody) (step : Nat) : State :=
  (List.range b.sliceCount).foldl (fun s i => (claimSlot s (b.sliceFirst + i) step).getD s) s

/-- The slices with their elements. -/
def sliceParts (s : State) (b : UpdateBody) (es : List VaneElem) : List (Nat × List VaneElem) :=
  ((List.range b.sliceCount).foldl (fun (acc : List VaneElem × List (Nat × List VaneElem)) i =>
    let n := sliceBytes s (b.sliceFirst + i) / 2
    (acc.1.drop n, acc.2 ++ [(b.sliceFirst + i, acc.1.take n)])) (es, [])).2

/-- The slice and element of the first counted element. -/
def firstBad (parts : List (Nat × List VaneElem)) (frozen : Option Nat) : Nat × Nat :=
  let flat := parts.flatMap fun p => p.2.mapIdx fun j e => (p.1, j, e.bad)
  let i := match indexWhere (fun x => x.2.2) flat, frozen with
    | some a, some b => min a b
    | some a, none => a
    | none, some b => b
    | none, none => 0
  match flat[i]? with
  | some x => (x.1, x.2.1)
  | none => (0, 0)

/-- The Vane's pass over an UPDATE whose slots are claimed. -/
def vaneRun (s : State) (o : Op) (b : UpdateBody) (step : Nat) : State :=
  match vaneRead s o b with
  | .error n => opNeed s o.id n
  | .ok x =>
    let r := groupRec s (addrOff b.red)
    let (es, blocks) := vaneElems r b x
    let (ms, tm) := momNew (momM b) b x.m es fun p => p.2.1
    let (vs, tv) := momNew (momV b) b x.v es fun p => p.2.2
    let ws := (es.mapIdx fun i e => match e.new with
      | some (w2, _, _) => leBytes 4 (encodeVal 0 w2)
      | none => (x.master.drop (4 * i)).take 4).flatten
    let parts := sliceParts s b es
    let shadows := parts.filterMap fun p => (shadowSlot s p.1 step).map fun k =>
      (slotAddr s p.1 k, sliceNew o b p.1 (committedBytes s (slotAddr s p.1 (sliceCur s p.1)) (2 * p.2.length)) p.2)
    applyWrites s o ([(b.master, ws), (b.m, ms), (b.v, vs)] ++ shadows) fun s =>
      let s := addNorms (opTally s o.id ((tm.join tv).inMode false)) step b.layer es
      let bad := (es.filter (·.bad)).length + blocks
      let s := opUpdate s o.id fun o => { o with c0 := min 0xFFFFFFFF bad }
      let s := if bad = 0 then s
        else
          let frozen := (firstNat (b.elems / 32) fun k => fieldAt x.m (momScales b + k) 1 == 0xFF ||
            fieldAt x.v (momScales b + k) 1 == 0xFF).map (32 * ·)
          let (i, j) := firstBad parts frozen
          deviceEvent s 0x0033 .nonfinite (leBytes 4 i ++ leBytes 4 j ++ leBytes 8 step)
      opDone s o.id .ok

/-- UPDATE_RUN: it runs once every owned tile of its step is final, the gate has passed and its slots are claimed
(spec/08 R214, spec/09 R244). -/
def updateRun (s : State) (o : Op) (b : UpdateBody) : State :=
  let step := fullStep s b.step
  if updateBehind s o b then s
  else match ownedFinal s (addrOff b.red) step, gateOf s step with
    | some false, _ => opDone s o.id .aborted
    | _, some false => opDone s o.id .aborted
    | some true, some true =>
      let s := claimAll s b step
      if (List.range b.sliceCount).all fun i => (shadowSlot s (b.sliceFirst + i) step).isSome then vaneRun s o b step else s
    | _, _ => s

end Sys2Proof.Machine
end

