-- ==== Sys2Proof/Machine/StepCommit.lean ====
section
/-! DEFINITION. STEP_COMMIT (spec/08 R213, R218 to R221, R224): its gate and commit round, the votes, the flip, and what a
failed step leaves. -/

namespace Sys2Proof.Machine

/-- Ranges a STEP_COMMIT reads. -/
def readsStep (_s : State) (_o : Op) (b : StepCommitBody) : List (Nat × Nat) := [(b.voter, 2048)]

/-- STEP_COMMIT's acceptance checks (spec/08 R213, R224, Table 8.11). -/
def checkStep (s : State) (o : Op) (b : StepCommitBody) : Option Status :=
  if o.hdr.txn ≠ 0 && (txnOf s o.hdr.txn).isNone then some .malformed
  else if !opRange s o b.voter 2048 1 then some .outOfRange
  else if b.step ≠ (s.dome.lastStep + 1) % 2 ^ 64 ∨ !(mapChips s o b.voter).contains (ownChip s) then some .malformed
  else none

/-- An accepted STEP_COMMIT is the job's last step; the group it names is the step group, with cause TXN if it has
aborted (spec/08 R213, R224, R438). -/
def acceptStep (s : State) (o : Op) (b : StepCommitBody) : State :=
  let voters := mapChips s o b.voter
  let s := opUpdate s o.id fun o => { o with
    aux := b.step, work := .step voters (regBits s 0x1000104 31 20) none none none none 0 }
  let s := { s with dome := { s.dome with lastStep := b.step, telStep := b.step } }
  let s := match txnOf s o.hdr.txn with
    | some t => if t.aborted.isSome then setHealth s 3 else s
    | none => s
  txnUpdate s o.hdr.txn fun t => { t with closer := some o.id, isStep := true }

/-- The STEP_COMMIT of a step in flight. -/
def stepOp (s : State) (step : Nat) : Option (Op × StepCommitBody) :=
  s.ops.findSome? fun o => match o.body with
    | .stepCommit b => if b.step = step && o.isActive then some (o, b) else none
    | _ => none

/-- The awaited vote of a STEP_COMMIT counts its limit from now. -/
def awaitVote (s : State) (id : Nat) : State :=
  opUpdate s id fun o => { o with
    reqs := (o.reqs.filter fun r => r.await != .event) ++ [{ tag := 0, await := .event, start := mtime s }] }

/-- When the awaited vote's limit began. -/
def voteStart (o : Op) : Nat :=
  match o.reqs.find? fun r => r.await == .event with
  | some r => r.start
  | none => o.start

/-! ### Outcomes (spec/08 Table 8.5) -/

/-- The step group of a STEP_COMMIT. -/
def stepGroup (s : State) (o : Op) : Option Txn := txnOf s o.hdr.txn

/-- How the STEP_COMMIT of a step ended, for the step's telemetry; WALL and IDLE count on to its completion (spec/10
Table 10.5). -/
def stepOutcome (s : State) (step : Nat) (st : Status) : State := telUpdate s step fun t => { t with outcome := some st }

/-- UPDATEs and PARAM_PUBLISHes of a failed step complete ABORTED (spec/08 R219, spec/09 R245). -/
def abortWork (s : State) (step : Nat) : State :=
  { s with ops := s.ops.map fun o =>
      let mine := match o.body with
        | .update b => fullStep s b.step == step
        | .paramPublish b => b.step == step
        | _ => false
      if mine && !o.isDone then { o with phase := .done .aborted, reqs := [], owed := [] } else o }

/-- The step fails: no version changes, and the votes held for it go (spec/08 R219, spec/09 R249; log entry 151); after a good
gate the job stops with a C3 record. -/
def stepFail (s : State) (o : Op) (step : Nat) (st : Status) (afterGate : Bool) : State :=
  let s := { s with dome := { s.dome with
    failedSteps := s.dome.failedSteps ++ [step], votes := s.dome.votes.filter fun v => v.2.step != step } }
  let s := abortWork (stepOutcome (opDone s o.id st) step st) step
  let s := dropShadows s step
  let s := match stepGroup s o with
    | some t => txnDrop (abortTxn s t.num st) t.num
    | none => s
  let s := settleReplicas (groupsFail s step (st == .nonfinite)) step false
  if afterGate then raiseFault s 1 0x602 0x28 step else s

/-- What follows a step commit: the step is the last committed one, its replicas are settled, writes held for it go on, and
STEP_COMMIT ends with C0 set by a late flip (spec/08 R219, spec/07 R174). -/
def stepFlipped (t : State) (o : Op) (step : Nat) (late : Bool) : State :=
  let t := settleReplicas { t with dome := { t.dome with lastCommitted := step } } step true
  let t := releaseHeld (opUpdate t o.id fun o => { o with c0 := b2n late })
  opDone (stepOutcome t step .ok) o.id .ok

/-- The step commits: every shadow current, the step group committed, and what follows a step commit; none while the group
waits for a table version to retire (spec/08 R219, R220, spec/07 R173, R178). -/
def stepFlip (s : State) (o : Op) (step : Nat) (late : Bool) : State :=
  ((txnApply (retireTables (windowClose (flipAll s step) step)) o.hdr.txn).map fun t => stepFlipped t o step late).getD s

/-! ### Votes -/

/-- The root of a vote: the lowest voter (log entry 34). -/
def voteRoot (voters : List Nat) : Nat := voters.foldl min 0xFFFF

/-- The status of a bad gate (spec/08 Table 8.5). -/
def gateStatus (s : State) (o : Op) (causes : Nat) : Status :=
  if natBits causes 0 0 = 1 then .aborted
  else if natBits causes 1 1 = 1 then .nonfinite
  else match stepGroup s o with
    | some t => if t.aborted = some .conflict then .conflict else .aborted
    | none => .aborted

/-- A limit of a STEP_COMMIT: 0 means 1,250,000 kt. -/
def voteLimit (n : Nat) : Nat := if n = 0 then 1250000 else n

/-- A result that comes in the clk its limit expires in wins, and the near miss is counted (spec/13 R345). -/
def voteNear (s : State) (o : Op) (limit : Nat) : State :=
  if mtime s ≥ voteStart o + voteLimit limit then regCount s 0x100024 1 else s

/-- A round's result reaches this device; one with FATAL halts it whatever its own STEP_COMMIT does (spec/08 R218 to R220,
spec/15 R377). -/
def voteResult (s : State) (v : VoteMsg) : State :=
  match stepOp s v.step with
  | none => if natBits v.causes 0 0 = 1 && !v.good then haltJob s else s
  | some (o, b) => match o.work with
    | .step voters delay gc cc g f causes =>
      let set := fun (s : State) (w : Work) (d : Nat) => opUpdate s o.id fun o => { o with work := w, detail := d }
      let causes := causes ||| v.causes
      let fatal := natBits v.causes 0 0 = 1
      if !v.commit then
        if g.isSome ∨ gc.isNone then s
        else
        let s := voteNear s o b.gateLimit
        if v.good then
          awaitVote (set s (.step voters delay gc cc (some true) f causes) causes) o.id
        else
          let s := set s (.step voters delay gc cc (some false) f causes) causes
          let s := if fatal then haltJob s else s
          stepFail s o v.step (gateStatus s o v.causes) false
      else if cc.isNone ∨ f.isSome then s
      else
      let s := voteNear s o b.commitLimit
      if v.good then
        let s := set s (.step voters delay gc cc g (some v.flipTick) causes) causes
        if mtime s > v.flipTick then stepFlip s o v.step true else s
      else
        let s := set s (.step voters delay gc cc g f causes) causes
        let s := if fatal then haltJob s else s
        stepFail s o v.step .aborted true
    | _ => s

/-- The root forms a round's AND once every voter's bit is there, and sends the result to every voter (spec/08 R218,
R220). -/
def voteTry (s : State) (step : Nat) (commit : Bool) : State :=
  match stepOp s step with
  | none => s
  | some (o, _) => match o.work with
    | .step voters delay _ _ _ _ _ =>
      let mine := s.dome.votes.filter fun v => v.2.step == step && v.2.commit == commit && voters.contains v.1
      if voteRoot voters ≠ ownChip s ∨ !(voters.all fun c => mine.any fun v => v.1 == c) then s
      else
        let good := mine.all fun v => v.2.good
        let causes := mine.foldl (fun a v => a ||| v.2.causes) 0
        let r : VoteMsg := { step := step, commit := commit, result := true, good := good, causes := causes,
                             flipTick := if commit && good then mtime s + delay else 0 }
        let s := { s with dome := { s.dome with
          votes := s.dome.votes.filter fun v => !(v.2.step == step && v.2.commit == commit) } }
        let s := (voters.filter fun c => c != ownChip s).foldl (fun s c => sendPkt s c 7 0 0 (.vote r)) s
        voteResult s r
    | _ => s

/-- A vote or a result arrives from a chip; a voter's later vote of a round takes the place of an earlier one (log entry 151). -/
def voteArrive (s : State) (src : Nat) (v : VoteMsg) : State :=
  if v.result then voteResult s v
  else
    let same := fun (x : Nat × VoteMsg) => x.1 == src && x.2.step == v.step && x.2.commit == v.commit
    voteTry { s with dome := { s.dome with votes := s.dome.votes.filter (!same ·) ++ [(src, v)] } } v.step v.commit

/-- This device's bit cast to the root. -/
def voteCast (s : State) (voters : List Nat) (step : Nat) (commit good : Bool) (causes : Nat) : State :=
  let v : VoteMsg := { step := step, commit := commit, result := false, good := good, causes := causes, flipTick := 0 }
  if voteRoot voters = ownChip s then voteArrive s (ownChip s) v
  else sendPkt s (voteRoot voters) 7 0 0 (.vote v)

/-! ### GATE_CAST, COMMIT_ROUND_CAST, limits and FLIP_TICK -/

/-- The STEP_COMMIT on a stream. -/
def stepOnStream (s : State) (stream : Nat) : Option (Op × StepCommitBody) :=
  match opByStream s stream with
  | some o => match o.body with
    | .stepCommit b => if o.isActive then some (o, b) else none
    | _ => none
  | none => none

/-- The device casts no further vote: a C4 is in force, or the Dome, a Lantern or a Drum has stopped (spec/14 R367, spec/15
Table 15.4). -/
def noVote (s : State) : Bool := !s.flt.fatal.isEmpty || s.dome.stopped || !s.mif.stoppedDies.isEmpty

/-- An earlier step has neither committed nor failed (spec/01 R23). -/
def stepBehind (s : State) (step : Nat) : Bool :=
  s.ops.any fun o => !o.isDone && match o.body with
    | .stepCommit b => decide (b.step < step)
    | _ => false

/-- The gate is cast: the health word sampled and cleared (spec/08 R218, spec/09 R249, spec/15 R377). -/
def gateCast (s : State) (stream : Nat) : State :=
  match stepOnStream s stream with
  | none => s
  | some (o, b) => match o.work with
    | .step voters delay none cc g f causes =>
      if stepBehind s b.step || noVote s then s
      else
        let s := if finalMissing s b.step then setHealth s 2 else s
        let cause := s.dome.health ||| b2n s.flt.halted
        let s := { s with dome := { s.dome with health := 0 } }
        let s := awaitVote (opUpdate s o.id fun o => { o with
          work := .step voters delay (some (mtime s)) cc g f causes, detail := cause }) o.id
        let s := telUpdate s b.step fun t => { t with gate := mtime s }
        voteCast s voters b.step false (cause == 0) cause
    | _ => s

/-- Every UPDATE and PARAM_PUBLISH of the step accepted before it has completed. -/
def updatesDone (s : State) (o : Op) (step : Nat) : Bool :=
  !(s.ops.any fun x => decide (x.id < o.id) && !x.completed && match x.body with
    | .update b => fullStep s b.step == step
    | .paramPublish b => b.step == step
    | _ => false)

/-- The other ops of a STEP_COMMIT's group have completed. -/
def groupOpsDone (s : State) (o : Op) : Bool := o.hdr.txn == 0 || groupQuiet s o.hdr.txn o.id

/-- STEP_COMMIT's own work: after a good gate, once the step's updates and its group's ops have written, its replicas are
sent, once (spec/07 R174, R175). -/
def runStep (s : State) (o : Op) (b : StepCommitBody) : State :=
  match o.work with
  | .step _ _ _ _ (some true) _ _ =>
    if decide (o.asked > 1) || !updatesDone s o b.step || !groupOpsDone s o then s
    else sendReplicas (opUpdate s o.id fun p => { p with asked := 2 }) o.id o.hdr.txn b.step
  | _ => s

/-- Every op that the commit round waits for has completed, and its replicas are acknowledged (spec/08 R218, R220, spec/07
R174). -/
def workDone (s : State) (o : Op) (step : Nat) : Bool :=
  updatesDone s o step && decide (o.asked > 1) && groupOpsDone s o && !ackAwaited o

/-- The commit round is cast (spec/08 R218); after a PARAM_PUBLISH that missed an acknowledgement no vote is cast and the round
times out (spec/09 Table 9.9). -/
def commitCast (s : State) (stream : Nat) : State :=
  match stepOnStream s stream with
  | none => s
  | some (o, b) => match o.work with
    | .step voters delay gc none (some true) f causes =>
      let txnBad := match stepGroup s o with
        | some t => t.aborted.isSome
        | none => false
      let fatal := natBits s.dome.health 0 0 = 1 || s.flt.halted
      if !workDone s o b.step || noVote s ||
          (!txnBad && !fatal && s.dome.workFailed.contains b.step) then s
      else
        let s := awaitVote (opUpdate s o.id fun o => { o with
          work := .step voters delay gc (some (mtime s)) (some true) f causes }) o.id
        voteCast s voters b.step true (!txnBad && !fatal) (b2n fatal + 8 * b2n txnBad)
    | _ => s

/-- GATE_LIMIT passes without a result: as a bad gate; a device that casts no further vote counts it from the op's start
(spec/08 R219, spec/15 Table 15.4). -/
def gateExpire (s : State) (stream : Nat) : State :=
  match stepOnStream s stream with
  | none => s
  | some (o, b) => match o.work with
    | .step _ _ gc _ none _ _ =>
      if (gc.isSome || noVote s) && decide (mtime s ≥ voteStart o + voteLimit b.gateLimit) then
        stepFail s o b.step .timeout false
      else s
    | _ => s

/-- COMMIT_LIMIT passes without a result (spec/08 R219, R221). -/
def commitExpire (s : State) (stream : Nat) : State :=
  match stepOnStream s stream with
  | none => s
  | some (o, b) => match o.work with
    | .step _ _ _ _ (some true) none _ =>
      if mtime s ≥ voteStart o + voteLimit b.commitLimit then stepFail s o b.step .timeout true else s
    | _ => s

/-- The flip tick comes (spec/08 R220). -/
def flipAt (s : State) (stream : Nat) : State :=
  match stepOnStream s stream with
  | none => s
  | some (o, b) => match o.work with
    | .step _ _ _ _ _ (some t) _ => if mtime s ≥ t then stepFlip s o b.step false else s
    | _ => s

end Sys2Proof.Machine
end

