-- ==== Sys2Proof/Machine/Links.lean ====
section
/-! DEFINITION. Link states and the hello exchange (spec/12 R313 to R317, R436). -/

namespace Sys2Proof.Machine

/-! ### Changes of state -/

/-- A link takes another state, and says so in a LINK event (log entry 36). -/
def linkTo (s : State) (l : Nat) (new : LinkState) (st : Status := .ok) : State :=
  let old := (link s l).st
  if old = new then s else linkEvent (linkLeave s l new) l old new st

/-- A link becomes UP: 128 credits a virtual lane; what waited for a path goes (spec/12 R297, R313). -/
def linkUp (s : State) (l : Nat) : State :=
  let old := (link s l).st
  let s := linkUpdate s l fun x => { x with
    st := .up, credits := List.replicate 8 128, owed := List.replicate 8 0, retraining := false, failedHellos := 0 }
  retryHeld (linkEvent s l old .up .ok)

/-- A link is quarantined (spec/12 R312, R315). -/
def linkQuarantine (s : State) (l : Nat) : State :=
  let s := linkTo (raiseFault s 4 l 0x13 l) l .quarantined .quarantined
  linkUpdate s l fun x => { x with viols := [], failedHellos := 0 }

/-- A link fails (spec/12 R298). -/
def linkFail (s : State) (l : Nat) : State :=
  let s := linkTo (raiseFault s 4 l 0x11 l) l .failed
  linkUpdate s l fun x => { x with failedRetrains := 0 }

/-- An UP link goes back to TRAINING; RETRAINS stops at 255 (spec/12 R298, R313, Table 12.11). -/
def linkTrain (s : State) (l : Nat) : State :=
  let s := linkTo s l .training
  linkUpdate s l fun x => { x with retraining := true, retrains := min 255 (x.retrains + 1) }

/-- A link that makes no progress is retrained, and fails once three retrains in a row have not helped
(spec/12 R298, R315). -/
def linkStuck (s : State) (l : Nat) : State :=
  if (link s l).failedRetrains ≥ 3 then linkFail s l
  else linkUpdate (linkTrain s l) l fun x => { x with failedRetrains := x.failedRetrains + 1 }

/-! ### Hello (spec/12 R314) -/

/-- The fields that a hello answer's signature covers, as bytes (log entry 15). -/
def helloFields (m : HelloMsg) : List Byte :=
  m.nonce ++ m.echo ++ leBytes 8 m.domain ++ leBytes 2 m.chip ++ leBytes 1 m.mode ++ leBytes 1 m.link ++ leBytes 1 m.lc

/-- A HELLO goes out on its own link, behind what the link has queued (spec/12 R297, R298). -/
def sendHello (s : State) (l : Nat) (m : HelloMsg) : State :=
  let pay : Payload := .hello m
  let len := (payBytes s.draws pay).length
  let p : Packet := { hdr := mkHdr s 0xFFFF 0x10 0 0 len 0, pay := pay }
  txPacket s l { pkt := p } p

/-- The exchange starts on a link: its nonce, drawn fresh, goes out. -/
def helloStart (s : State) (l : Nat) : State :=
  let (n, s) := drawBytes 32 s
  let s := linkUpdate s l fun x => { x with nonce := n, peerNonce := [], answered := false, passed := false }
  sendHello s l { answer := false, nonce := n, echo := [], domain := 0, chip := 0, mode := 0, link := 0, lc := 0, cert := [],
                  sig := [] }

/-- GAL_DOMAIN. -/
def domainOf (s : State) : Nat := regBits s 0x800008 31 0 + regBits s 0x80000C 31 0 * 2 ^ 32

/-- A signature by the identity key; once the key fuses are blown the key is gone, and what signs in its place the spec does not
say (free bytes; spec/16 R400). -/
def signIdentity (s : State) (msg : List Byte) : List Byte × State :=
  if s.fin.keysBlown then drawBytes 96 s else (Config.identitySign (BitVec.ofNat 64 s.fin.serial) msg, s)

/-- The partner's nonce is answered: both nonces, what this device is, its certificate and its signature. -/
def helloAnswer (s : State) (l : Nat) (echo : List Byte) : State :=
  let m : HelloMsg :=
    { answer := true, nonce := (link s l).nonce, echo := echo, domain := domainOf s, chip := ownChip s,
      mode := b2n (spireMode s), link := l, lc := s.fin.lc, cert := s.fin.cert, sig := [] }
  let (sig, s) := signIdentity s (helloFields m)
  sendHello (linkUpdate s l fun x => { x with peerNonce := echo, answered := true }) l { m with sig := sig }

/-- The Finial passes the partner's answer. RETURNED, state 3, never brings a link up. -/
def helloPasses (s : State) (l : Nat) (m : HelloMsg) : Bool :=
  Config.certChains m.cert && Config.ecdsaVerify m.cert (helloFields m) m.sig && m.echo == (link s l).nonce &&
    m.domain == domainOf s && m.lc == s.fin.lc && decide (m.lc < 3)

/-- A hello fails: the link goes DOWN, and the third failure in a row quarantines it (spec/12 R315); the spec numbers no
reasons, so that byte is free. -/
def helloFail (s : State) (l : Nat) : State :=
  let (r, s) := drawFree s
  let s := raiseFault s 4 l 0x12 (l + 256 * (r % 256))
  let n := (link s l).failedHellos + 1
  if n ≥ 3 then linkQuarantine s l else linkUpdate (linkTo s l .down) l fun x => { x with failedHellos := n }

/-- The partner's answer has passed: its chip and link are proven, and the link is UP once its own answer has gone. -/
def helloPassed (s : State) (l : Nat) (m : HelloMsg) : State :=
  let s := linkUpdate s l fun x => { x with passed := true, partnerChip := m.chip, partnerLink := m.link }
  if (link s l).st == .hello && (link s l).answered then linkUp s l else s

/-- A HELLO arrives on a link in HELLO, or in UP where a new number is proven (spec/15 R385). -/
def helloArrive (s : State) (l : Nat) (m : HelloMsg) : State :=
  if m.answer then
    if (link s l).nonce.isEmpty || (link s l).passed then s
    else if helloPasses s l m then helloPassed s l m else helloFail s l
  else
    let x := link s l
    let fresh := x.nonce.isEmpty || (x.st == .up && x.passed)
    let s := if fresh then helloStart s l else s
    let s := helloAnswer s l m.nonce
    if (link s l).st == .hello && (link s l).passed then linkUp s l else s

/-- 100 ms after it began, an exchange that has not finished brings its link DOWN (spec/12 R314). -/
def helloExpire (s : State) (l : Nat) : State :=
  let x := link s l
  if x.st == .hello || (x.st == .up && !x.nonce.isEmpty && !x.passed) then helloFail s l else s

end Sys2Proof.Machine
end

