-- ==== Sys2Proof/Machine/Ckpt.lean ====
section
/-! DEFINITION. CKPT_PUSH, CKPT_PULL and ASSUME_ID (spec/15 R382 to R386). -/

namespace Sys2Proof.Machine

/-! ### Bytes from either end -/

/-- Bytes at a global address, as far as they have come. -/
inductive Got where
  | bytes (bs : List Byte)
  | need (n : Need)
  /-- There is no chip to ask. -/
  | none (st : Status)
  /-- Remote rows not all here. -/
  | rows (chip : Nat) (want : List RowReq)

/-- `n` bytes at a global address: read here, or fetched in 4 KiB rows. -/
def getFar (s : State) (o : Op) (a n : Nat) : Got :=
  if isLocal s a then
    match opRead s o a n with
    | .ok bs => .bytes bs
    | .error e => .need e
  else match destStatus s (addrChip a) with
    | some st => .none st
    | none =>
      let want := (pieces n).map fun p => ({ off := addrOff a + p.1, bytes := p.2 } : RowReq)
      match want.mapM (replyTo o (addrChip a)) with
      | none => .rows (addrChip a) want
      | some rows => match rows.findSome? fun r => replyStatus r.code with
        | some st => .need (.stop st)
        | none => .bytes (rows.flatMap (·.bytes))

/-- What is still missing is asked for. -/
def askFar (s : State) (id : Nat) (g : Got) : State :=
  match g with
  | .bytes _ => s
  | .need n => opNeed s id n
  | .none st => unroutable s id st
  | .rows chip want => match fetchRows s id 1 (want.map fun r => (chip, r)) with
    | .wait s => s
    | .ready _ => s

/-! ### Images (spec/15 Table 15.6) -/

/-- An image header. -/
structure ImgHead where
  (step chip job ranges : Nat)
  valid : Bool
  (bytes crc : Nat)
  deriving DecidableEq, Repr

/-- spec/15 Table 15.6. -/
def parseImage (d : List Byte) : ImgHead :=
  { step := fieldAt d 0 8, chip := fieldAt d 8 2, job := fieldAt d 10 2, ranges := fieldAt d 12 2,
    valid := fieldAt d 14 1 % 2 == 1, bytes := fieldAt d 16 8, crc := fieldAt d 24 8 }

/-- A header as written. -/
def imageHead (s : State) (step ranges : Nat) (valid : Bool) (body : List Byte) : List Byte :=
  leBytes 8 step ++ leBytes 2 (ownChip s) ++ leBytes 2 (jobId s) ++ leBytes 2 ranges ++ leBytes 1 (b2n valid) ++
    leBytes 1 0 ++ leBytes 8 body.length ++ leBytes 8 (crc64 body).toNat ++ leBytes 8 (mtime s) ++ List.replicate 24 0

/-- A range table's entries: offset and bytes. -/
def rangeEntries (n : Nat) (table : List Byte) : List (Nat × Nat) :=
  (List.range n).map fun i => (fieldAt table (16 * i) 8, fieldAt table (16 * i + 8) 4)

/-- The range table as an image holds it, padded to 64 B. -/
def rangeTable (rs : List (Nat × Nat)) : List Byte :=
  let t := rs.flatMap fun r => leBytes 8 r.1 ++ leBytes 4 r.2 ++ leBytes 4 0
  t ++ List.replicate (roundUp t.length 64 - t.length) 0

/-- The slot a push takes: one not VALID, A first; else the lower STEP, A on a tie (spec/15 R383). -/
def pushSlot (a b : ImgHead) : Nat :=
  if !a.valid then 0 else if !b.valid then 1 else if b.step < a.step then 1 else 0

/-- The slot a pull reads: the newest VALID one, or the VALID one of a STEP (spec/15 R384). -/
def pullSlot (a b : ImgHead) (want : Option Nat) : Option Nat :=
  let okA := a.valid && (want.isNone || want == some a.step)
  let okB := b.valid && (want.isNone || want == some b.step)
  if okA && okB then some (if b.step > a.step then 1 else 0) else if okA then some 0 else if okB then some 1 else none

/-! ### CKPT_PUSH (spec/15 R383) -/

/-- The ranges a push copies. -/
def pushRanges (s : State) (o : Op) (b : CkptPushBody) : List (Nat × Nat) :=
  rangeEntries b.ranges (opRec s o b.rangeAddr (16 * b.ranges))

/-- LOCAL. -/
def pushLocal (b : CkptPushBody) : Bool := b.flags % 2 == 1

/-- A device offset as a global address of this device. -/
def ownAddr (off : Nat) : Nat := 0xFFFF * 2 ^ 48 + off

/-- Ranges a CKPT_PUSH reads: its range table and the ranges in it. -/
def readsPush (s : State) (o : Op) (b : CkptPushBody) : List (Nat × Nat) :=
  (b.rangeAddr, 16 * b.ranges) :: (pushRanges s o b).map fun r => (ownAddr r.1, r.2)

/-- Regions on this device that a checkpoint op names as its buffers (spec/11 Table 11.2). -/
def pushRegions (s : State) (b : CkptPushBody) : List (Nat × Nat) :=
  ((b.region, b.regionBytes) :: if pushLocal b then [(b.localRegion, b.regionBytes)] else []).filter fun r => isLocal s r.1

/-- A region field: 64-byte aligned, here or at a chip, clear of the mirror (spec/15 Table 15.7, spec/01 R20). -/
def regionBad (s : State) (o : Op) (a n : Nat) : Bool :=
  absent a || a % 64 != 0 || (if isLocal s a then !rangeOkOp s o (addrOff a) n else meetsMirror a n)

/-- Local bytes of a region meet a view (spec/08 R202). -/
def regionView (s : State) (a n : Nat) : Bool := isLocal s a && meetsView s (addrOff a) n

/-- CKPT_PUSH's acceptance checks (spec/15 Table 15.7, R382). -/
def checkPush (s : State) (o : Op) (b : CkptPushBody) : Option Status :=
  if maskBad s b.mask || b.ranges == 0 || decide (b.ranges > 256) || b.regionBytes == 0 || b.regionBytes % 128 != 0 ||
      regionView s b.region b.regionBytes || (pushLocal b && regionView s b.localRegion b.regionBytes) then
    some .malformed
  else if !opRange s o b.rangeAddr (16 * b.ranges) 1 then some .outOfRange
  else
    let rs := pushRanges s o b
    refuse
      [ (rs.any fun r => r.2 % 64 != 0, .malformed),
        (rs.any fun r => r.1 % 64 != 0 || !rangeOkOp s o r.1 r.2, .outOfRange),
        (regionBad s o b.region b.regionBytes || (pushLocal b && (!isLocal s b.localRegion ||
          regionBad s o b.localRegion b.regionBytes)), .outOfRange),
        (decide (64 + roundUp (16 * b.ranges) 64 + (rs.map (·.2)).sum > b.regionBytes / 2), .outOfRange) ]

/-- At acceptance a push pins the current version of every slice, in an epoch of its own (spec/15 R383). -/
def acceptPush (s : State) (o : Op) (_b : CkptPushBody) : State :=
  let e := s.dome.epochNext
  let s := epochOpen s o.ring
  let s := { s with dome := { s.dome with epochs := s.dome.epochs.map fun x =>
    if x.id == e then { x with isOpen := false } else x } }
  opUpdate s o.id fun o => { o with epoch := some e, work := .ckpt 0 0 0 [] }

/-- A STEP_COMMIT accepted before this op has not completed. -/
def stepsPending (s : State) (o : Op) : Bool :=
  s.ops.any fun x => decide (x.id < o.id) && x.isStepCommit && x.accepted && !x.completed

/-- A push accepted before an op has not read all its ranges: an UPDATE waits (spec/15 R383). -/
def pushReading (s : State) (o : Op) : Bool :=
  s.ops.any fun x => decide (x.id < o.id) && !x.isDone && match x.work with
    | .ckpt 0 _ _ _ => true
    | _ => false

/-- A whole image written to a slot of a local region. -/
def imageWrites (s : State) (at_ step ranges : Nat) (body : List Byte) : List (Nat × List Byte) :=
  [(at_, imageHead s step ranges false body), (at_ + 64, body), (at_, imageHead s step ranges true body)]

/-- A local region's slot for a push. -/
def localSlot (s : State) (o : Op) (region half : Nat) : Except Need Nat := do
  let a ← opRead s o region 64
  let b ← opRead s o (region + half) 64
  return pushSlot (parseImage a) (parseImage b)

/-- Bytes of a push's image. -/
def pushBytes (s : State) (o : Op) (b : CkptPushBody) : Nat :=
  64 + roundUp (16 * b.ranges) 64 + ((pushRanges s o b).map (·.2)).sum

/-- Where a push writes on this device: in each local region the slot that its headers choose now (spec/15 R383). -/
def writesPush (s : State) (o : Op) (b : CkptPushBody) : List (Nat × Nat) :=
  (pushRegions s b).map fun r => match localSlot s o r.1 (b.regionBytes / 2) with
    | .ok k => (r.1 + k * (b.regionBytes / 2), pushBytes s o b)
    | .error _ => (r.1, pushBytes s o b)

/-- The push's first part: STEP taken, the ranges read, the local image written. -/
def pushRead (s : State) (o : Op) (b : CkptPushBody) : State :=
  let rs := pushRanges s o b
  let half := b.regionBytes / 2
  let got : Except Need (List Byte × Nat) := do
    let data ← collect (fun r => opRead s o r.1 r.2) rs
    let k ← if pushLocal b then localSlot s o b.localRegion half else pure 0
    return (rangeTable rs ++ data.flatten, k)
  match got with
  | .error n => opNeed s o.id n
  | .ok (body, k) =>
    let step := s.dome.lastCommitted
    let ws := if pushLocal b then imageWrites s (b.localRegion + k * half) step b.ranges body else []
    applyWrites s o ws fun s => opUpdate s o.id fun o => { o with work := .ckpt 1 0 step body }

/-- Packets of a push, each awaited. -/
def pushSend (s : State) (id at_ : Nat) (bs : List Byte) : State :=
  (pieces bs.length).foldl (fun s p =>
    sendAwaited s id (addrChip at_) 3 (addrOff at_ + p.1) (.write ((bs.drop p.1).take p.2))) s

/-- The push's second part, to its target region: header not VALID, then table and data, then the header VALID, each
after the acknowledgements of the one before (spec/12 R301). -/
def pushWrite (s : State) (o : Op) (b : CkptPushBody) (stage slot step : Nat) (body : List Byte) : State :=
  let half := b.regionBytes / 2
  let next := fun (s : State) (stage slot : Nat) => opUpdate s o.id fun o => { o with work := .ckpt stage slot step body }
  if isLocal s b.region then
    match localSlot s o b.region half with
    | .error n => opNeed s o.id n
    | .ok k => applyWrites s o (imageWrites s (b.region + k * half) step b.ranges body) fun s => opDone s o.id .ok
  else if stage = 1 then
    match getFar s o b.region 64, getFar s o (b.region + half) 64 with
    | .bytes x, .bytes y =>
      let k := pushSlot (parseImage x) (parseImage y)
      next (pushSend s o.id (b.region + k * half) (imageHead s step b.ranges false body)) 2 k
    | .bytes _, g => askFar s o.id g
    | g, _ => askFar s o.id g
  else if ackAwaited o then s
  else if stage = 2 then next (pushSend s o.id (b.region + slot * half + 64) body) 3 slot
  else if stage = 3 then next (pushSend s o.id (b.region + slot * half) (imageHead s step b.ranges true body)) 4 slot
  else opDone s o.id .ok

/-- CKPT_PUSH's work. -/
def runPush (s : State) (o : Op) (b : CkptPushBody) : State :=
  match o.work with
  | .ckpt 0 _ _ _ =>
    if stepsPending s o then s
    else
      let s := pushRead s o b
      match opById s o.id with
      | some o => match o.work with
        | .ckpt (n + 1) k st body => if o.isDone then s else pushWrite s o b (n + 1) k st body
        | _ => s
      | none => s
  | .ckpt n k st body => pushWrite s o b n k st body
  | _ => s

/-! ### CKPT_PULL (spec/15 R384) -/

/-- Peer mode. -/
def pullPeer (b : CkptPullBody) : Bool := b.flags % 2 == 1

/-- A peer list: source, destination and bytes. -/
def peerEntries (s : State) (o : Op) (b : CkptPullBody) : List (Nat × Nat × Nat) :=
  let d := opRec s o b.region (32 * b.count)
  (List.range b.count).map fun i => (fieldAt d (32 * i) 8, fieldAt d (32 * i + 8) 8, fieldAt d (32 * i + 16) 4)

/-- Ranges a CKPT_PULL reads: its region, or its list with the sources that lie here. -/
def readsPull (s : State) (o : Op) (b : CkptPullBody) : List (Nat × Nat) :=
  if pullPeer b then (b.region, 32 * b.count) :: (((peerEntries s o b).filter fun e => isLocal s e.1).map fun e => (e.1, e.2.2))
  else if isLocal s b.region then [(b.region, b.regionBytes)] else []

/-- CKPT_PULL's acceptance checks (spec/15 Table 15.7). -/
def checkPull (s : State) (o : Op) (b : CkptPullBody) : Option Status :=
  if maskBad s b.mask then some .malformed
  else if pullPeer b then
    if !opRange s o b.region (32 * b.count) 1 then some .outOfRange
    else if (peerEntries s o b).any fun e => absent e.1 || (isLocal s e.1 && !rangeOkOp s o (addrOff e.1) e.2.2) ||
        (!isLocal s e.1 && meetsMirror e.1 e.2.2) || !opRange s o e.2.1 e.2.2 1 then some .outOfRange
    else none
  else if b.regionBytes = 0 ∨ b.regionBytes % 128 ≠ 0 then some .malformed
  else if regionBad s o b.region b.regionBytes then some .outOfRange
  else none

/-- What a pull is to write, once everything it reads is here. -/
inductive PullPlan where
  | wait (g : Got)
  /-- Its reads end the op with this status; nothing is written. -/
  | stop (st : Status)
  /-- Destination ranges with their bytes; for an image its STEP, and whether it is good. -/
  | go (ws : List (Nat × List Byte)) (image : Option (Nat × Bool))

/-- A peer pull's plan. -/
def peerPlan (s : State) (o : Op) (b : CkptPullBody) : PullPlan :=
  let gots := (peerEntries s o b).map fun e => (e.2.1, getFar s o e.1 e.2.2)
  match gots.find? fun g => match g.2 with
      | .bytes _ => false
      | _ => true with
  | some g => .wait g.2
  | none => .go (gots.filterMap fun g => match g.2 with
      | .bytes bs => some (addrOff g.1, bs)
      | _ => none) none

/-- The header of a pull's image and its address; none while it is read, and nothing when no slot serves. -/
def pullHead (s : State) (o : Op) (b : CkptPullBody) : Got ⊕ Option (Nat × ImgHead) :=
  let half := b.regionBytes / 2
  match getFar s o b.region 64, getFar s o (b.region + half) 64 with
  | .bytes x, .bytes y =>
    let x := parseImage x
    let y := parseImage y
    match pullSlot x y (if natBits b.flags 1 1 = 1 then some b.step else none) with
    | some 0 => .inr (some (b.region, x))
    | some _ => .inr (some (b.region + half, y))
    | none => .inr none
  | .bytes _, g => .inl g
  | g, _ => .inl g

/-- An image pull's plan. -/
def imagePlan (s : State) (o : Op) (b : CkptPullBody) : PullPlan :=
  match pullHead s o b with
  | .inl g => .wait g
  | .inr none => .stop .malformed
  | .inr (some (at_, h)) =>
    if h.ranges = 0 ∨ h.ranges > 256 ∨ 64 + h.bytes > b.regionBytes / 2 ∨ h.bytes < roundUp (16 * h.ranges) 64 then
      .stop .malformed
    else match getFar s o (at_ + 64) h.bytes with
      | .bytes body =>
        let rs := rangeEntries h.ranges body
        let data := body.drop (roundUp (16 * h.ranges) 64)
        let good := (crc64 body).toNat == h.crc && h.chip == ownChip s && h.job == jobId s &&
          (rs.map (·.2)).sum == data.length
        let ws := (rs.foldl (fun (acc : List Byte × List (Nat × List Byte)) r =>
          (acc.1.drop r.2, acc.2 ++ [(r.1, acc.1.take r.2)])) (data, [])).2
        if ws.any fun w => !rangeOkOp s o w.1 w.2.length then .stop .outOfRange else .go ws (some (h.step, good))
      | g => .wait g

/-- A pull's plan. -/
def pullPlan (s : State) (o : Op) (b : CkptPullBody) : PullPlan :=
  if pullPeer b then peerPlan s o b else imagePlan s o b

/-- Slices whose view some range of a list meets. -/
def slicesMet (s : State) (rs : List (Nat × Nat)) : List Nat :=
  natsWhere (verCount s) fun i => rs.any fun r =>
    decide (slotAddr s i 0 < r.1 + r.2) && decide (r.1 < slotAddr s i 0 + sliceBytes s i)

/-- The ranges of a list of writes. -/
def writeRanges (ws : List (Nat × List Byte)) : List (Nat × Nat) := ws.map fun w => (w.1, w.2.length)

/-- Destinations of a pull, as device offsets: those of its list, or those of its image; none while the image's table has not
been read. -/
def pullTargets (s : State) (o : Op) (b : CkptPullBody) : Option (List (Nat × Nat)) :=
  if pullPeer b then some ((peerEntries s o b).map fun e => (addrOff e.2.1, e.2.2))
  else match imagePlan s o b with
    | .wait _ => none
    | .stop _ => some []
    | .go ws _ => some (writeRanges ws)

/-- Ranges a CKPT_PULL writes, as far as they are known. -/
def writesPull (s : State) (o : Op) (b : CkptPullBody) : List (Nat × Nat) :=
  ((pullTargets s o b).getD []).map fun r => (ownAddr r.1, r.2)

/-- A running pull writes some view, or its ranges are still to be read: an epoch waits (spec/15 R384). -/
def pullHoldsEpochs (s : State) : Bool :=
  s.ops.any fun o => o.isActive && match o.body with
    | .ckptPull b => match pullTargets s o b with
      | some rs => !(slicesMet s rs).isEmpty
      | none => true
    | _ => false

/-- Bytes at their addresses joined into runs. -/
def byteRuns : List (Nat × Byte) → List (Nat × List Byte)
  | [] => []
  | (a, b) :: t => match byteRuns t with
    | (x, bs) :: r => if x = a + 1 then (a, b :: bs) :: r else (a, [b]) :: (x, bs) :: r
    | [] => [(a, [b])]

/-- A write into a view goes to the view's current slot. -/
def viewRuns (s : State) (w : Nat × List Byte) : List (Nat × List Byte) :=
  byteRuns (w.2.mapIdx fun i v => (servedAt s none (w.1 + i), v))

/-- A slice that a pull has written: every other slot with no pins is free, and its current version is the job's last
step. -/
def pullSettle (s : State) (i : Nat) : State :=
  let s := setSliceVer s i (sliceCur s i) (s.dome.lastStep % 2 ^ 32)
  (List.range (sliceSlots s i)).foldl (fun s k =>
    if k ≠ sliceCur s i ∧ slicePin s i k = 0 then
      setSliceVer (setSliceState s i (sliceState s i &&& (0xFF ^^^ 2 ^ (4 + k)))) i k verFree
    else s) s

/-- The pull's writes land; an image that fails its checks leaves its ranges undefined. After a good one the job goes on from its
step, and votes that are held for steps that failed are dropped: they are cast again. -/
def pullApply (s : State) (o : Op) (ws : List (Nat × List Byte)) (image : Option (Nat × Bool)) : State :=
  let met := slicesMet s (writeRanges ws)
  let plain := ws.filter fun w => !meetsView s w.1 w.2.length
  let views := (ws.filter fun w => meetsView s w.1 w.2.length).flatMap (viewRuns s)
  applyWrites s o (plain ++ views) fun s =>
    let good := match image with
      | some (_, g) => g
      | none => true
    let s := match image with
      | some (step, true) =>
        let votes := s.dome.votes.filter fun v => !s.dome.failedSteps.contains v.2.step
        { s with dome := { s.dome with lastStep := step, lastCommitted := step, failedSteps := [], votes := votes },
                 flt := { s.flt with halted := false } }
      | _ => s
    let s := if good || (txnOf s o.hdr.txn).isSome then s
      else (plain ++ views).foldl (fun s w =>
        { s with draws := s.draws + 1, mem := s.mem.lose w.1 (w.1 + w.2.length) (.free s.draws) }) s
    opDone (met.foldl pullSettle s) o.id (if good then .ok else .malformed)

/-- The bursts of a pull's writes, by the DMAs of its belfries (spec/15 R383, R384). -/
def pullBursts (s : State) (o : Op) (b : CkptPullBody) (ws : List (Nat × List Byte)) : List Burst :=
  ((writeRanges ws).filter fun r => !inScratch r.1).flatMap fun r => dmaBursts s (opCrew s o b.mask) r.1 r.2

/-- CKPT_PULL's work: it reads, waits until the slots it will write hold no pin and its requests can be served, and writes. -/
def runPull (s : State) (o : Op) (b : CkptPullBody) : State :=
  match pullPlan s o b with
  | .wait g => askFar s o.id g
  | .stop st => opDone s o.id st
  | .go ws image =>
    if (slicesMet s (writeRanges ws)).any fun i => slicePin s i (sliceCur s i) != 0 then s
    else
      let (s, waits) := requestRanges s ((writeRanges ws).map fun r => (ownAddr r.1, r.2))
      if waits then s else askTokens s o 1 (pullBursts s o b ws) fun s => pullApply s o ws image

/-! ### ASSUME_ID (spec/15 R385) and the job -/

/-- A packet of this device that has no number yet: its flow goes, and it with it. -/
def unnumbered (w : HeldPkt) : Bool := w.ingress.isNone && w.pkt.hdr.fseq == 2 ^ 32

/-- GAL_SELF takes CHIP and JOB: every flow context is cleared, HALTED clears unless a C4 is in force, and a write of a non-zero
JOB opens a job: its last step is 0 and nothing of an earlier job's steps is left (spec/12 R302, R321, spec/08 R224, spec/15 R376). -/
def selfWrite (s : State) (v : Word) : State :=
  let opened := bits v 15 0 ≠ 0
  let s := regPut s 0x800000 v
  let s := { s with fab := { s.fab with flows := [], heldPkts := s.fab.heldPkts.filter (!unnumbered ·) }, flt := { s.flt with halted := s.flt.halted && !s.flt.fatal.isEmpty } }
  if opened then
    { s with dome := { s.dome with
      lastStep := 0, lastCommitted := 0, groups := [], workFailed := [], failedSteps := [], votes := [],
      badNext := [], exchanges := [] } }
  else s

/-- ASSUME_ID's acceptance checks. -/
def checkAssume (s : State) (_o : Op) (b : AssumeIdBody) : Option Status :=
  if jobId s ≠ 0 ∨ b.chip ≥ 0x4000 ∨ b.job = 0 ∨ spireMode s then some .malformed else none

/-- Links that stand in a state. -/
def linksIn (s : State) (st : LinkState) : List Nat := natsWhere 96 fun l => (link s l).st == st

/-- A link is down for good or until it trains anew: it does not prove the number now. -/
def LinkState.isDown : LinkState → Bool
  | .down => true
  | .disabled => true
  | .failed => true
  | .quarantined => true
  | _ => false

/-- ASSUME_ID's work: the number is taken and proven anew on every UP link, and on a link in HELLO that has already
answered; it ends once each link that was UP has passed or gone DOWN. -/
def runAssume (s : State) (o : Op) (b : AssumeIdBody) : State :=
  match o.work with
  | .links ls =>
    if ls.all fun l => (link s l).passed || (link s l).st.isDown then opDone s o.id .ok else s
  | _ =>
    let s := selfWrite s (BitVec.ofNat 32 (b.chip * 65536 + b.job))
    let ups := linksIn s .up
    let old := (linksIn s .hello).filter fun l => (link s l).answered
    let s := (ups ++ old).foldl helloStart s
    let s := opUpdate s o.id fun o => { o with work := .links ups }
    if ups.isEmpty then opDone s o.id .ok else s

end Sys2Proof.Machine
end

