-- ==== Sys2Proof/Machine/HostOps.lean ====
section
/-! DEFINITION. WAIT, SIGNAL, TIMER (spec/13 R341 to R343). -/

namespace Sys2Proof.Machine

/-! ### WAIT -/

/-- WAIT's work: its limit counts from here (spec/13 R344), and the condition is tested. -/
def runWait (s : State) (o : Op) (b : WaitBody) : State :=
  waitTest (if o.reqs.any fun r => r.await == .event then s else addReq s o.id 0 .event) o b

/-! ### SIGNAL -/

/-- SIGNAL's acceptance checks (spec/13 R342, R433, spec/08 R202). -/
def checkSignal (s : State) (o : Op) (b : SignalBody) : Option Status :=
  let near := isLocal s b.addr
  let off := addrOff b.addr
  refuse
    [ (decide (b.sop > 1), .malformed), (near && regionOf off == .hostWindow && b.sop == 1, .malformed),
      (near && meetsView s off 8, .malformed), (absent b.addr || b.addr % 8 != 0, .outOfRange),
      (near && !rangeOkOp s o off 8 || !near && meetsMirror b.addr 8, .outOfRange) ]

/-- The word after a SIGNAL or an ATOMIC. -/
def signalWord (sop value old : Nat) : List Byte := leBytes 8 (if sop = 1 then old + value else value)

/-- The word that a SIGNAL has staged in its open group (spec/08 R208): WAITs on it are tested at the commit. -/
def stagedSignal (s : State) (o : Op) (a : Nat) : State :=
  if regionOf a = .scratch ∨ regionOf a = .hostWindow then s
  else txnUpdate s o.hdr.txn fun t => { t with signals := t.signals ++ [a] }

/-- SIGNAL's work. Its word is written, whole and at once, when nothing holds it back; then it is visible. -/
def runSignal (s : State) (o : Op) (b : SignalBody) : State :=
  if hasSent o then (if o.reqs.isEmpty then opDone s o.id .ok else s)
  else if isLocal s b.addr then
    let old : Except Need Nat := if b.sop = 1 then opNat s o b.addr 8 else .ok 0
    match old with
    | .error n => opNeed s o.id n
    | .ok w => applyWrites s o [(b.addr, signalWord b.sop b.value w)] fun s =>
        testGrains (opDone (stagedSignal s o (addrOff b.addr)) o.id .ok) (addrOff b.addr) 8
  else match destStatus s (addrChip b.addr) with
    | some st => unroutable s o.id st
    | none => markSent (sendAwaited s o.id (addrChip b.addr) 4 (addrOff b.addr) (.atomic b.sop b.value)) o.id

/-! ### TIMER -/

/-- TIMER's acceptance check. -/
def checkTimer (b : TimerBody) : Option Status := if b.tmode > 1 then some .malformed else none

/-- A TIMER's target. -/
def timerTarget (o : Op) (b : TimerBody) : Nat := if b.tmode = 0 then o.start + b.time else b.time

/-- TIMER's work: a target already past ends it. -/
def runTimer (s : State) (o : Op) (b : TimerBody) : State :=
  if mtime s ≥ timerTarget o b then opDone s o.id .ok else s

end Sys2Proof.Machine
end

