-- ==== Sys2Proof/Machine/Charge.lean ====
section
/-! DEFINITION. What an op touches: the ranges it reads (spec/08 R203) and those it writes, the scale-history records it names
(spec/03 R79), and the bursts that its work takes (spec/04 R83, R96, spec/14 R356). -/

namespace Sys2Proof.Machine

/-- Ranges that the acceptance-time view lookup checks (spec/08 R202, R203). -/
def opReads (s : State) (o : Op) : List (Nat × Nat) :=
  match o.body with
  | .copy b => readsCopy s o b
  | .gemm b => readsGemm s o .dense b
  | .gemmSp b => readsGemm s o .sparse b
  | .gemmTall b => readsGemm s o .tall b
  | .spspIntersect b => readsSpsp s o b
  | .elem b => readsElem s o b
  | .rowred b => readsElem s o b
  | .sample b => readsSample s o b
  | .gather b => readsGather s o b
  | .scatter b => readsScatter s o b
  | .embBag b => readsEmbBag s o b
  | .embGrad b => readsEmbGrad s o b
  | .reduceGrad b => readsReduce s o b
  | .paramPublish b => readsPublish s o b
  | .update b => readsUpdate s o b
  | .stepCommit b => readsStep s o b
  | .wait b => readsWait s o b
  | .ckptPush b => readsPush s o b
  | .ckptPull b => readsPull s o b
  | _ => []

/-! ### What an op writes -/

/-- The tile group an op names (spec/09 R228). -/
def opGroup (s : State) (o : Op) : Option Nat :=
  match o.body with
  | .gemm b => if (gemmOf s o .dense b).grad then some (addrOff b.d) else none
  | .gemmSp b => if (gemmOf s o .sparse b).grad then some (addrOff b.d) else none
  | .gemmTall b => if (gemmOf s o .tall b).grad then some (addrOff b.d) else none
  | .embGrad b => if absent b.red then none else some (addrOff b.red)
  | .reduceGrad b => some (addrOff b.group)
  | .update b => some (addrOff b.red)
  | _ => none

/-- The sums of a tile group that this device owns (spec/09 Table 9.1, OUT_MODE 0). -/
def groupSums (s : State) (off : Nat) : List (Nat × Nat) :=
  let g := groupRec s off
  let (a, b) := ownedTiles s g
  if g.outMode || absent g.sum then [] else [(g.sum, (b - a) * g.stride)]

/-- Destination rows here that a SCATTER names: of its path record, or of its list. -/
def scatterTargets (s : State) (o : Op) (b : ScatterBody) : List (Nat × Nat) :=
  if scatterPath b then
    let n := recCount s o b.idx (b.hop - 1)
    (b.dst, n * scatterRow b) :: (if scatterArg b then [(b.arg, 4 * n * scatterLanes b)] else [])
  else match listItems s o b with
    | .ok it => ((it.items.filter fun x => x.1 == ownChip s).map fun x => (b.dst + x.2.1 * scatterRow b, scatterRow b)).eraseDups
    | .error _ => [(b.dst, scatterRow b)]

/-- Gradient rows here that an EMB_GRAD may write: its table's local shares. -/
def gradTargets (s : State) (o : Op) (b : EmbGradBody) : List (Nat × Nat) :=
  let d := match o.table with
    | some _ => opTable s o
    | none => (tableNow s o b.table).2.2
  let share := fun (second : Bool) =>
    (ownAddr (gradBase b second), ceilDiv (d.rows second) (max 1 d.shards) * gradPitch d second)
  share false :: if d.composed then [share true] else []

/-- Ranges an op names to write, as far as its descriptor and the blocks it names give them. -/
def opWritten (s : State) (o : Op) : List (Nat × Nat) :=
  match o.body with
  | .copy b =>
    if absent b.cmp then [(b.dst, b.bytes)]
    else
      let c := parseCmp (opRec s o b.cmp 64)
      if natBits b.flags 0 0 = 1 then [(b.dst, denseSpan c b)] else (b.dst, c.rows * cmpPitch c) :: cmpOutputs c
  | .fill b => [(b.dst, b.bytes)]
  | .gemm b => (gemmOf s o .dense b).outputs
  | .gemmSp b => (gemmOf s o .sparse b).outputs
  | .gemmTall b => (gemmOf s o .tall b).outputs
  | .spspIntersect b => spspOutputs b
  | .elem b => (b.rowRes, rowResBytes b) :: elemOutputs (elemPlan s o b) b
  | .rowred b => (b.rowRes, rowResBytes b) :: elemOutputs (elemPlan s o b) b
  | .sample b => [(b.pr, 64 * b.prCap)]
  | .gather b => [(b.dst, gatherRows s o b * b.rowBytes)]
  | .scatter b => scatterTargets s o b
  | .embBag b =>
    let r := bagsOf s o b.bagRec
    [(b.out, r.bags * bagPitch (tableNow s o b.table).2.2.width b.outFmt), (r.stage, 64 * r.cap)]
  | .embGrad b => let r := bagsOf s o b.bagRec; (r.stage, 64 * r.cap) :: gradTargets s o b
  | .update b => [(b.master, 4 * b.elems), (b.m, momBytes b), (b.v, momBytes b)]
  | .signal b => [(b.addr, 8)]
  | .ckptPush b => writesPush s o b
  | .ckptPull b => writesPull s o b
  | _ => []

/-- Ranges an op names beside those it reads and writes: its tile group and the sums it owns, and the regions of a checkpoint op,
whose buffers they are (spec/11 Table 11.2, spec/15 R383). -/
def opShared (s : State) (o : Op) : List (Nat × Nat) :=
  match o.body with
  | .ckptPush b => pushRegions s b
  | _ => match opGroup s o with
    | some off => (ownAddr off, 64) :: groupSums s off
    | none => []

/-- Scale-history records an op names (spec/03 R79, spec/09 R236). -/
def opHists (s : State) (o : Op) : List Nat :=
  let own := match o.body with
    | .gemm b => let g := gemmOf s o .dense b; if g.scaled then [g.x.hist] else []
    | .gemmSp b => let g := gemmOf s o .sparse b; if g.scaled then [g.x.hist] else []
    | .gemmTall b => let g := gemmOf s o .tall b; if g.scaled then [g.x.hist] else []
    | .elem b => (((elemPlan s o b).streams.drop 4).filterMap id).filterMap fun x => if x.scaled then some x.hist else none
    | .rowred b => (((elemPlan s o b).streams.drop 4).filterMap id).filterMap fun x => if x.scaled then some x.hist else none
    | _ => []
  own ++ ((opGroup s o).map fun off => (groupRec s off).hist).toList

/-- A local range touches a Lantern (1 to 4) or a Drum (5, 6). Four granules in a row lie on the four Lanterns (spec/11 R279). -/
def touchesDie (s : State) (d : Nat) (r : Nat × Nat) : Bool :=
  let o := addrOff r.1
  !absent r.1 && isLocal s r.1 && match regionOf o with
    | .lantern => ((granules o r.2).take 4).any fun g => 1 + (lanDecode (g.1 - lanBase)).1 == d
    | .lpddr => (rangeChannels s o r.2).any fun ch => 5 + ch / 64 == d
    | _ => false

/-- An op touches a Lantern or a Drum with the ranges and the scale-history records that it names. -/
def opOnDie (s : State) (o : Op) (d : Nat) : Bool :=
  (opReads s o ++ opWritten s o ++ opShared s o ++ (opHists s o).map fun h => (ownAddr (histAddr s h), 32)).any (touchesDie s d)

/-! ### Bursts at the start of an op -/

/-- TURRET_MASK of an op that has one. -/
def opMask : OpBody → Option Nat
  | .copy b => some b.mask
  | .fill b => some b.mask
  | .gemm b => some b.mask
  | .gemmSp b => some b.mask
  | .gemmTall b => some b.mask
  | .spspIntersect b => some b.mask
  | .elem b => some b.mask
  | .rowred b => some b.mask
  | .sample b => some b.mask
  | .gather b => some b.mask
  | .scatter b => some b.mask
  | .embBag b => some b.mask
  | .embGrad b => some b.mask
  | .ckptPush b => some b.mask
  | .ckptPull b => some b.mask
  | _ => none

/-- An op that moves data, whose work its bursts hold back (spec/14 R356). -/
def movesData : OpBody → Bool
  | .copy _ => true
  | .fill _ => true
  | .gemm _ => true
  | .gemmSp _ => true
  | .gemmTall _ => true
  | .spspIntersect _ => true
  | .elem _ => true
  | .rowred _ => true
  | .sample _ => true
  | .gather _ => true
  | .scatter _ => true
  | .embBag _ => true
  | .embGrad _ => true
  | .reduceGrad _ => true
  | .update _ => true
  | .paramPublish _ => true
  | .signal _ => true
  | .ckptPush _ => true
  | .ckptPull _ => true
  | _ => false

/-- A fused ELEM runs with its GEMM's tiles: its streams are moved and its program issued with them (spec/04 R93). -/
def Op.ridesGemm (o : Op) : Bool :=
  match o.work with
  | .fused _ _ => true
  | _ => false

/-- Bursts of an ELEM or ROWRED on its turrets: groups of 64 rows are dealt to them, a burst to a chunk, or to two chunks of a
packed pass (log entry 134). -/
def vectorBursts (s : State) (o : Op) (b : ElemBody) : List Burst :=
  let p := elemPlan s o b
  let chunks := ceilDiv b.rowLen 64
  (List.range (ceilDiv b.rows 64)).flatMap fun g =>
    let rows := min 64 (b.rows - 64 * g)
    let t := dealTurret s (opCrew s o b.mask) (64 * g)
    (if b.prog2Len = 0 then [p.prog1] else [p.prog1, p.prog2]).flatMap fun prog =>
      (rowIssue (passIssue o.mode.strict p prog) chunks).map fun x =>
        { act := 1, unit := t, size := x.1, count := rows * x.2 }

/-- Local ranges of a list, but for those in scratchpads. -/
def deepRanges (s : State) (rs : List (Nat × Nat)) : List (Nat × Nat) :=
  (rs.filter fun r => !absent r.1 && isLocal s r.1 && !inScratch (addrOff r.1)).map fun r => (addrOff r.1, r.2)

/-- The ELEM fused to a GEMM. -/
def fusedElem (s : State) (o : Op) : Option (Op × ElemBody) :=
  match o.work with
  | .gemm _ _ (some e) _ _ _ _ => match opById s e with
    | some x => match x.body with
      | .elem b => some (x, b)
      | _ => none
    | none => none
  | _ => none

/-- The streams that an ELEM fused to a GEMM reads and writes. -/
def fusedTouches (s : State) (o : Op) : List (Nat × Nat) :=
  match fusedElem s o with
  | some (x, b) => readsElem s x b ++ elemOutputs (elemPlan s x b) b
  | none => []

/-- The ranges that an op's own requests reach at its start: what it reads and writes, and what the ELEM fused to it does, but for
the rows that `withRows` asks for, the edges that a SAMPLE draws and the destinations of a CKPT_PULL. -/
def opTouches (s : State) (o : Op) : List (Nat × Nat) :=
  match o.body with
  | .sample b => [(b.graph, 64), (b.seed, 16 * b.seeds)] ++ opWritten s o
  | .gather _ => (opReads s o).take 1 ++ opWritten s o
  | .scatter _ => (opReads s o).take 1 ++ opWritten s o
  | .embBag _ => (opReads s o).take 3 ++ opWritten s o
  | .embGrad b => (opReads s o).take 3 ++ [(b.dy, (bagsOf s o b.bagRec).bags * bagPitch (opTable s o).width b.dyFmt)]
  | .ckptPull _ => opReads s o
  | _ => opReads s o ++ opWritten s o ++ fusedTouches s o

/-- Bursts of ranges that an op's belfry DMAs move. -/
def dmaTraffic (s : State) (o : Op) (mask : Nat) (rs : List (Nat × Nat)) : List Burst :=
  (deepRanges s rs).flatMap fun r => dmaBursts s ((opCrew s o mask).map (standIn s)) r.1 r.2

/-- Streams that an ELEM or ROWRED reads again in its second pass (spec/04 R102). -/
def secondReads (s : State) (o : Op) (b : ElemBody) : List (Nat × Nat) :=
  if b.prog2Len = 0 then [] else (readsElem s o b).drop 2

/-- Bursts of an op's start: belfry DMAs move what COPY, FILL and the checkpoint ops name and stage the streams of ELEM and
ROWRED, those of an ELEM fused to a GEMM too; other ops' requests go to the memories (spec/04 R83, R93, spec/14 R356; log entry
134). -/
def opTraffic (s : State) (o : Op) : List Burst :=
  let rs := opTouches s o
  match o.body with
  | .copy b => dmaTraffic s o b.mask rs
  | .fill b => dmaTraffic s o b.mask rs
  | .ckptPush b => dmaTraffic s o b.mask rs
  | .ckptPull b => dmaTraffic s o b.mask rs
  | .elem b => dmaTraffic s o b.mask (rs ++ secondReads s o b) ++ vectorBursts s o b
  | .rowred b => dmaTraffic s o b.mask (rs ++ secondReads s o b) ++ vectorBursts s o b
  | b => ((deepRanges s (opReads s o ++ opWritten s o)).flatMap fun r => rangeBursts s r.1 r.2) ++
      dmaTraffic s o ((opMask b).getD 0) (fusedTouches s o)

/-! ### Records in the host window (spec/11 R291) -/

/-- The planned summary that a GEMM reads (spec/05 R115, R116). -/
def planRecords (s : State) (b : GemmBody) : List (Nat × Nat) :=
  match planOf s b with
  | some a =>
    [(memNat s (a + 8 * natBits (memNat s (a + 28) 1) 1 1) 8, min (memNat s (a + 24) 4) (ceilDiv b.m 64 * mapPitch b.k))]
  | none => []

/-- The lists of a tile group (spec/09 R228). -/
def groupRecords (s : State) (o : Op) : List (Nat × Nat) :=
  match opGroup s o with
  | some off => let g := groupRec s off; [(g.ring, 2 * g.ndev), (g.own, 4 * (g.ndev + 1))]
  | none => []

/-- Records of a path that a GATHER or SCATTER reads: its header, and its graph's record with the edge count. -/
def pathRecords (s : State) (o : Op) (pr : Nat) : List (Nat × Nat) :=
  let g := recField s o pr 0 8
  let r := parseGraph (opRec s o g 64)
  [(pr, 128), (g, 64), (r.rptr + 8 * r.rows, 8)]

/-- Records of an embedding op: its table's descriptor, its bag record and the bags' offsets. -/
def bagRecords (s : State) (o : Op) (id rec_ : Nat) : List (Nat × Nat) :=
  let r := bagsOf s o rec_
  [((match o.table with
     | some (_, _, a) => a
     | none => (dirEntry s id).2), 64), (rec_, 64), (r.off, 8 * (r.bags + 1))]

/-- Records and blocks that an op reads before its work: those that its descriptor names, and those that they name, as far as
they are here. -/
def opRecords (s : State) (o : Op) : List (Nat × Nat) :=
  let aux := fun (b : GemmBody) => (b.aux, 64) :: planRecords s b ++ groupRecords s o
  match o.body with
  | .copy b => [(b.cmp, 64)]
  | .gemm b => aux b
  | .gemmSp b => aux b
  | .gemmTall b => aux b
  | .spspIntersect b => [(b.xRec, 32), (b.yRec, 32)]
  | .elem b => [(b.prog, 512), (b.stream, 192)]
  | .rowred b => [(b.prog, 512), (b.stream, 192)]
  | .sample b => let g := parseGraph (opRec s o b.graph 64); [(b.graph, 64), (g.rptr + 8 * g.rows, 8)]
  | .gather b => if gatherKind b = 0 then [] else pathRecords s o b.src
  | .scatter b => if scatterPath b then pathRecords s o b.idx else []
  | .embBag b => bagRecords s o b.table b.bagRec
  | .embGrad b => bagRecords s o b.table b.bagRec ++ groupRecords s o
  | .paramPublish b => [(b.recv, 2048)]
  | .stepCommit b => [(b.voter, 2048)]
  | .ckptPush b => [(b.rangeAddr, 16 * b.ranges)]
  | .ckptPull b => if pullPeer b then [(b.region, 32 * b.count)] else []
  | _ => groupRecords s o

/-- The next host-window grain of an op's records that has not been read. -/
def recMissing (s : State) (o : Op) : Option Nat :=
  if o.hwin.isNone then none
  else ((opRecords s o).filter fun r => !absent r.1 && isLocal s r.1 && regionOf (addrOff r.1) == .hostWindow &&
      rangeOkOp s o (addrOff r.1) r.2).findSome? fun r =>
    ((List.range (grainCount (addrOff r.1) r.2)).map fun i => (addrOff r.1 / 64 + i) * 64).find? fun g =>
      !(o.hostBuf.any fun c => c.1 / 64 == g / 64)

end Sys2Proof.Machine
end

