-- ==== Sys2Proof/Machine/Engine.lean ====
section
/-! DEFINITION. The life of an op (spec/13 R331 to R338, R344 to R352, R444): checks, acceptance, start, the work by opcode,
completion with its event record, and limits. -/

namespace Sys2Proof.Machine

/-! ### By opcode -/

/-- The numerics control byte of an op that has one (spec/02 R42). -/
def opCtl : OpBody → Option Nat
  | .gemm b => some b.numCtl
  | .gemmSp b => some b.numCtl
  | .gemmTall b => some b.numCtl
  | .spspIntersect b => some b.numCtl
  | .elem b => some b.numCtl
  | .rowred b => some b.numCtl
  | .scatter b => some b.numCtl
  | .embBag b => some b.numCtl
  | .embGrad b => some b.numCtl
  | _ => none

/-- The op resolves nodes through an ownership bank (spec/06 R135). DESIGN CHOICE: every SAMPLE, GATHER and SCATTER counts, also in the
forms that resolve none; for which the spec does not say (log entry 154). -/
def usesBank : OpBody → Bool
  | .sample _ => true
  | .gather _ => true
  | .scatter _ => true
  | _ => false

/-- The table an op pins (spec/07 R171). -/
def opTableId : OpBody → Option Nat
  | .embBag b => some b.table
  | .embGrad b => some b.table
  | _ => none

/-- The op is known to the table of opcodes. -/
def opKnown : OpBody → Bool
  | .unknown _ => false
  | _ => true

/-- Accepted by a device with no job (spec/13 Table 13.3). -/
def noJobOk : OpBody → Bool
  | .nop => true
  | .timer _ => true
  | .assumeId _ => true
  | _ => false

/-- Accepted in spire mode (spec/13 Table 13.3). -/
def spireOk : OpBody → Bool
  | .nop => true
  | .timer _ => true
  | _ => false

/-- Accepted while HALTED (spec/15 R377). -/
def haltOk : OpBody → Bool
  | .nop => true
  | .timer _ => true
  | .wait _ => true
  | .signal _ => true
  | .stepCommit _ => true
  | .ckptPull _ => true
  | _ => false

/-- The opcode's own acceptance checks; `fused` is the shape of the GEMM an ELEM is fused to. -/
def opCheck (s : State) (o : Op) (fused : Option FusedShape := none) : Option Status :=
  if (match opCtl o.body with
      | some c => (numMode s c).isNone
      | none => false) then some .malformed
  else match o.body with
    | .copy b => checkCopy s o b
    | .fill b => checkFill s o b
    | .gemm b => checkGemm s o .dense b
    | .gemmSp b => checkGemm s o .sparse b
    | .gemmTall b => checkGemm s o .tall b
    | .spspIntersect b => checkSpsp s o b
    | .elem b => checkElem s o b false fused
    | .rowred b => checkElem s o b true none
    | .sample b => checkSample s o b
    | .gather b => checkGather s o b
    | .scatter b => checkScatter s o b
    | .embBag b => checkEmbBag s o b
    | .embGrad b => checkEmbGrad s o b
    | .reduceGrad b => checkReduce s o b
    | .paramPublish b => checkPublish s o b
    | .update b => checkUpdate s o b
    | .txnBegin b => checkTxnBegin s o b
    | .txnCommit => checkTxnClose s o
    | .txnAbort => checkTxnClose s o
    | .stepCommit b => checkStep s o b
    | .wait b => checkWait s o b
    | .signal b => checkSignal s o b
    | .timer b => checkTimer b
    | .ckptPush b => checkPush s o b
    | .ckptPull b => checkPull s o b
    | .assumeId b => checkAssume s o b
    | .nop => none
    | .unknown _ => some .malformed

/-- What acceptance itself does. -/
def opAccept (s : State) (o : Op) : State :=
  match o.body with
  | .gemm b => acceptGemm s o .dense b
  | .gemmSp b => acceptGemm s o .sparse b
  | .gemmTall b => acceptGemm s o .tall b
  | .embGrad b => acceptEmbGrad s o b
  | .reduceGrad b => acceptReduce s o b
  | .update b => acceptUpdate s o b
  | .txnBegin b => acceptTxnBegin s o b
  | .txnCommit => acceptTxnClose s o
  | .txnAbort => acceptTxnClose s o
  | .stepCommit b => acceptStep s o b
  | .ckptPush b => acceptPush s o b
  | _ => s

/-- The work of a running op that goes on by itself: at its start, and each time what it awaits may have come. -/
def opWork (s : State) (o : Op) : State :=
  match o.body with
  | .copy b => runCopy s o b
  | .fill b => runFill s o b
  | .spspIntersect b => runSpsp s o b
  | .elem b => runElemOp s o b
  | .rowred b => runElemOp s o b
  | .sample b => runSample s o b
  | .gather b => runGather s o b
  | .scatter b => runScatter s o b
  | .embBag b => runEmbBag s o b
  | .embGrad b => runEmbGrad s o b
  | .reduceGrad b => runReduce s o b
  | .paramPublish b => runPublish s o b
  | .txnCommit => runTxnCommit s o
  | .txnAbort => runTxnAbort s o
  | .signal b => runSignal s o b
  | .ckptPush b => runPush s o b
  | .ckptPull b => runPull s o b
  | .assumeId b => runAssume s o b
  | .stepCommit b => runStep s o b
  | _ => s

/-- A GEMM's tiles are dealt once. -/
def gemmBegun (s : State) (o : Op) : State := opUpdate s o.id fun o => { o with asked := 2 }

/-- The work at the start of an op. -/
def opBegin (s : State) (o : Op) : State :=
  match o.body with
  | .gemm b => runGemm (gemmBegun s o) o .dense b
  | .gemmSp b => runGemm (gemmBegun s o) o .sparse b
  | .gemmTall b => runGemm (gemmBegun s o) o .tall b
  | .txnBegin _ => opDone s o.id .ok
  | .wait b => runWait s o b
  | .timer b => runTimer s o b
  | .nop => opDone s o.id .ok
  | _ => opWork s o

/-- An op's bursts have started (spec/14 R358). -/
def opReady (o : Op) : Bool := !movesData o.body || o.ridesGemm || (decide (o.asked ≥ 1) && o.owed.isEmpty)

/-- Work for the engines and the DMAs reaches the belfries of an op: they wake (spec/14 R361). A GEMM's tiles wait in their
queues for it. -/
def rouse (s : State) (o : Op) : State :=
  match opMask o.body, gemmBody o with
  | some m, none => (maskBelfries s m).foldl belfryWake s
  | _, _ => s

/-- A running op goes as far as it can. It reads its records in the host window first. One that moves data then reaches the memories: it waits while a channel wakes, trains
or is in repair, or a bank in copy (spec/11 R277, R278, R288, R289), and then for its bursts' tokens (spec/14 R358). -/
def opGo (s : State) (o : Op) : State :=
  match if o.ridesGemm then none else recMissing s o with
  | some g => askHost s o.id g
  | none =>
  if !movesData o.body || o.ridesGemm then opWork s o
  else if o.asked = 0 then
    let (s, waits) := requestRanges s (opTouches s o)
    if waits then s
    else askTokens (rouse s o) o 0 (opTraffic s o) fun s => match opById s o.id with
      | some o => opBegin s o
      | none => s
  else if !o.owed.isEmpty then s
  else if (gemmBody o).isSome ∧ o.asked = 1 then opBegin s o
  else opWork s o

/-- A started op begins. -/
def opStart (s : State) (o : Op) : State := if movesData o.body && !o.ridesGemm then opGo s o else opBegin s o

/-! ### Rings -/

/-- Ring r. -/
def ring (s : State) (r : Nat) : Ring := tabGet (fun _ => {}) s.hif.rings r
/-- Ring r replaced. -/
def ringPut (s : State) (r : Nat) (x : Ring) : State :=
  { s with hif := { s.hif with rings := tabPut (fun _ => {}) s.hif.rings r x } }
/-- Ops of ring r in flight. -/
def ringInFlight (s : State) (r : Nat) : Nat := (s.ops.filter fun o => o.ring == r).length
/-- QUOTA of ring r. -/
def ringQuota (s : State) (r : Nat) : Nat := regBits s (0x101008 + 32 * r) 14 0
/-- The limit of ring r in kt. -/
def ringLimit (s : State) (r : Nat) : Nat :=
  let n := regBits s (0x10100C + 32 * r) 15 0
  (if n = 0 then 1000 else n) * 1250

/-- Comparators that serve HIF timers (spec/16 R408). -/
def hifComparators (s : State) : List Nat :=
  natsWhere 16 fun c => regBits s (0x80 + 16 * c) 31 31 == 1 && regBits s (0x80 + 16 * c) 2 0 == 1 &&
    !s.fin.cmpReleasing.contains c

/-- The op is a TIMER that has not fired. -/
def timerPends (o : Op) : Bool :=
  !o.isDone && match o.body with
    | .timer _ => true
    | _ => false

/-- Pending timers. -/
def pendingTimers (s : State) : Nat := (s.ops.filter timerPends).length

/-- Pending timers that comparator c serves. -/
def comparatorTimers (s : State) (c : Nat) : Nat := (s.ops.filter fun o => timerPends o && o.cmp == some c).length

/-- The comparator for the next timer: the one of the HIF's with the fewest, the lowest of them (spec/16 R408; log entry 148). -/
def nextComparator (s : State) : Option Nat :=
  ((hifComparators s).sortBy fun a b => decide (comparatorTimers s a ≤ comparatorTimers s b)).head?

/-- Comparators being released fall free once their last pending timer is over (spec/16 R408). -/
def freeComparators (s : State) : State :=
  let fired := s.fin.cmpReleasing.filter fun c => comparatorTimers s c == 0
  let s' := fired.foldl (fun s c => regSet s (0x80 + 16 * c) 31 31 0) s
  { s' with fin := { s'.fin with cmpReleasing := s'.fin.cmpReleasing.filter fun c => !fired.contains c } }

/-! ### Acceptance -/

/-- A GEMM's FUSE_NEXT. -/
def wantsFuse (b : OpBody) : Bool :=
  match b with
  | .gemm g => natBits g.flags 7 7 == 1
  | .gemmSp g => natBits g.flags 7 7 == 1
  | .gemmTall g => natBits g.flags 7 7 == 1
  | _ => false

/-- The op a descriptor would be if it were accepted now. -/
def newOp (s : State) (r : Nat) (d : Desc) (id : Nat) : Op :=
  let e := openEpoch s r
  { id := id, ring := r, hdr := d.hdr, body := d.body, evq := regBits s (0x101008 + 32 * r) 29 24,
    mode := ((opCtl d.body).bind (numMode s)).getD {}, seed := jobSeed s,
    bank := if usesBank d.body then some (regBits s 0x1000080 31 31) else none,
    epoch := e.map (·.id), pver := (e.map (·.ver)).getD (s.dome.lastCommitted % 2 ^ 32), hwin := hostWindow s,
    srRowLog2 := regBits s 0x1000000 12 8, taken := mtime s, hostBuf := (ring s r).recBuf }

/-- What refuses an op before its own checks (spec/13 R331, spec/01 R12, R16, spec/15 R377). -/
def headStatus (s : State) (o : Op) : Option Status :=
  let h := o.hdr
  refuse
    [ (hdrReserved h != 0, .malformed), (hdrPhase h == 3, .malformed),
      ((hdrProduce h || hdrConsume h) && h.depTag == 0, .malformed), (!opKnown o.body, .malformed),
      (jobId s == 0 && !noJobOk o.body, .malformed), (spireMode s && !spireOk o.body, .malformed),
      (s.flt.halted && !haltOk o.body, .aborted) ]

/-- The group an op names: open, not closing, and not aborted but for what closes it (spec/08 R211, R213, R438). -/
def groupStands (s : State) (o : Op) : Option Status :=
  let closes := match o.body with
    | .txnCommit => true
    | .txnAbort => true
    | .stepCommit _ => true
    | _ => false
  let begins := match o.body with
    | .txnBegin _ => true
    | _ => false
  if o.hdr.txn = 0 || begins then none
  else match txnOf s o.hdr.txn with
    | none => some .malformed
    | some t => if t.closer.isSome then some .malformed else if t.aborted.isSome && !closes then some .aborted else none

/-- An op that must wait before acceptance, whatever its checks say (spec/08 R191, R207, spec/13 R343, spec/16 R408). -/
def mustWait (s : State) (o : Op) : Bool :=
  (match opMask o.body with
   | some m => maskDraining s m
   | none => false) ||
  match o.body with
  | .txnBegin _ => decide (s.dome.txns.length ≥ 64)
  | .timer _ => decide (pendingTimers s ≥ 256) || (hifComparators s).isEmpty
  | _ => false

/-- The op reads a view (spec/08 R203). -/
def readsView (s : State) (o : Op) : Bool :=
  (opReads s o).any fun r => isLocal s r.1 && meetsView s (addrOff r.1) r.2

/-- A checkpoint push pins every slice for itself. -/
def pinsAll (o : Op) : Bool :=
  match o.body with
  | .ckptPush _ => true
  | _ => false

/-- It would open an epoch that a CLOSED slice or a running pull holds back (spec/08 R206, spec/15 R384). -/
def epochWaits (s : State) (o : Op) : Bool :=
  (pinsAll o || ((openEpoch s o.ring).isNone && readsView s o)) && (someClosed s || pullHoldsEpochs s)

/-- The telemetry step of an op (spec/10 R254). -/
def opStep (s : State) (o : Op) : Nat :=
  match o.body with
  | .update b => fullStep s b.step
  | .reduceGrad b => b.step
  | .paramPublish b => b.step
  | .stepCommit b => b.step
  | _ => s.dome.telStep + 1

/-- A refused op: done with its status, accepted for no other rule (spec/13 R444); the group it names aborts at once
(spec/08 R212). -/
def refuseOp (s : State) (o : Op) (st : Status) : State :=
  let s := { s with ops := s.ops ++ [{ o with epoch := none, accepted := false, phase := .done st }], opNext := s.opNext + 1 }
  if o.hdr.txn = 0 then s else abortTxn s o.hdr.txn st

/-- The op closes its ring's pin epoch (spec/08 R203). -/
def closesEpoch (o : Op) : Bool :=
  match o.body with
  | .nop => true
  | .stepCommit _ => true
  | _ => false

/-- An op that ends without running because its producer failed (spec/13 R336); a STEP_COMMIT's step fails with it. -/
def opAbandon (s : State) (o : Op) : State :=
  if o.isDone then s
  else match o.body with
    | .stepCommit b => stepFail s o b.step .aborted false
    | _ => opDone s o.id .aborted

/-- The op's work needs the Dome: all but timers, no-ops, a STEP_COMMIT, which casts no vote, and words of the host window
(spec/15 Table 15.4). -/
def needsDome (o : Op) : Bool :=
  match o.body with
  | .nop => false
  | .timer _ => false
  | .stepCommit _ => false
  | .wait b => regionOf (addrOff b.addr) != .hostWindow
  | .signal b => regionOf (addrOff b.addr) != .hostWindow
  | _ => true

/-- Acceptance (spec/13 R333 to R336): the epoch, the pins, the producer and what it depends on.
A calibration pattern stops for it (spec/14 R364). -/
def acceptOp (s : State) (o : Op) : State :=
  let views := !pinsAll o && readsView s o
  let s := if views && (openEpoch s o.ring).isNone then epochOpen s o.ring else s
  let e := openEpoch s o.ring
  let s := if closesEpoch o then epochClose s o.ring else s
  let fence := if hdrFence o.hdr then (s.ops.filter fun x => x.ring == o.ring && !x.completed).map (·.id) else []
  let prod := if hdrConsume o.hdr then producerOf s o.hdr.depTag else none
  let failed := match prod with
    | some (_, some st) => st != .ok
    | _ => false
  let dep := match prod with
    | some (p, none) => some p
    | _ => none
  let o := { o with
    cmp := match o.body with
      | .timer _ => nextComparator s
      | _ => none,
    epoch := if views then e.map (·.id) else none, pver := if views then (e.map (·.ver)).getD o.pver else o.pver,
    step := some (opStep s o), deps := fence ++ dep.toList, consumes := dep,
    table := (opTableId o.body).map fun t => let (v, a, _) := tableNow s o t; (t, v, a),
    crew := ((opMask o.body).map (maskBelfries s)).getD [] }
  let s := telOpen { s with ops := s.ops ++ [o], opNext := s.opNext + 1 } (opStep s o)
  let s := if needsDome o then { s with chime := { s.chime with recal := false, domeBusyAt := mtime s } } else s
  let s := if hdrProduce o.hdr then producerPut s o.hdr.depTag (some (o.id, none)) else s
  let s := epochsRelease (opAccept s o)
  match failed, opById s o.id with
  | true, some o => opAbandon s o
  | _, _ => s

/-- The next descriptors of a ring cannot be accepted for want of a stream or of quota (spec/13 R337, R338). -/
def ringFull (s : State) (r : Nat) (ds : List Desc) : Bool :=
  (ds.any fun d => (opByStream s d.hdr.stream).isSome) || decide (ringInFlight s r + ds.length > ringQuota s r) ||
    decide (s.ops.length + ds.length > 16384)

/-- The first descriptors held at a ring leave it, and the reads of the records that they name are over. -/
def popHeld (s : State) (r n : Nat) : State :=
  let x := ring s r
  let s := ringPut s r { x with held := x.held.drop n, since := none, recBuf := [], recFailed := false }
  { s with hif := { s.hif with reads := s.hif.reads.filter fun q => q.ring != some r } }

/-- The status that refuses one op, once it need not wait. -/
def opStatus (s : State) (o : Op) (fused : Option FusedShape := none) : Option Status :=
  ((headStatus s o).or (groupStands s o)).or (opCheck s o fused)

/-- What stands between an op that need not wait and its checks: its records in the host window, to be read or not to be had
(spec/11 R287, R291). -/
inductive Records where
  | here | missing | failed

/-- Whether the records of the next ops of a ring are here. -/
def recordsOf (s : State) (r : Nat) (os : List Op) : Records :=
  if (ring s r).recFailed then .failed else if (os.findSome? (recMissing s)).isSome then .missing else .here

/-- A GEMM with FUSE_NEXT and the descriptor after it, accepted or refused together (spec/04 R93, spec/03 Table 3.10). -/
def acceptPair (s : State) (r : Nat) (d e : Desc) : Option State :=
  let g := newOp s r d s.opNext
  let x := newOp s r e (s.opNext + 1)
  if ringFull s r [d, e] || mustWait s g then none
  else
    let s' := popHeld s r 2
    match e.body, gemmBody g with
    | .elem _, some (kind, b) =>
      match recordsOf s r [g, x] with
      | .missing => none
      | .failed => some (refuseOp (refuseOp s' g .aborted) x .aborted)
      | .here =>
      let bad1 := opStatus s g
      let bad2 := opStatus s x (some (fusedShape s g kind b))
      match bad1, bad2 with
      | none, none =>
        if epochWaits s g || epochWaits s x then none
        else
          let s := acceptOp s' g
          let s := acceptOp s x
          let more := match opById s x.id with
            | some o => o.deps.filter (· != g.id)
            | none => []
          let s := opUpdate s x.id fun o => { o with deps := more, work := .fused g.id [] }
          some (opUpdate s g.id fun o => { o with
            deps := o.deps ++ more,
            work := match o.work with
              | .gemm t a _ l p k w => .gemm t a (some x.id) l p k w
              | w => w })
      | some a, b => some (refuseOp (refuseOp s' g a) x (b.getD .malformed))
      | none, some b => some (refuseOp (refuseOp s' g b) x b)
    | _, _ =>
      some (refuseOp (refuseOp s' g ((headStatus s g).getD .malformed)) x ((headStatus s x).getD .malformed))

/-- The first held descriptor of a ring, accepted or refused; none while it waits. -/
def tryAccept (s : State) (r : Nat) : Option State :=
  match (ring s r).held with
  | [] => none
  | d :: rest =>
    if wantsFuse d.body && (headStatus s (newOp s r d s.opNext)).isNone then
      match rest with
      | [] => none
      | e :: _ => acceptPair s r d e
    else if ringFull s r [d] then none
    else
      let o := newOp s r d s.opNext
      match headStatus s o with
      | some st => some (refuseOp (popHeld s r 1) o st)
      | none =>
        if mustWait s o then none
        else match recordsOf s r [o] with
          | .missing => none
          | .failed => some (refuseOp (popHeld s r 1) o .aborted)
          | .here => match (groupStands s o).or (opCheck s o) with
            | some st => some (refuseOp (popHeld s r 1) o st)
            | none => if epochWaits s o then none else some (acceptOp (popHeld s r 1) o)

/-- The next ops of a ring: its first descriptor, with the one that a GEMM fuses. -/
def nextOps (s : State) (r : Nat) : List Op :=
  match (ring s r).held with
  | [] => []
  | d :: rest =>
    newOp s r d s.opNext :: if wantsFuse d.body then (rest.take 1).map fun e => newOp s r e (s.opNext + 1) else []

/-- A host-window grain of a record is read for the next descriptors of a ring (spec/11 R291). -/
def readRecord (s : State) (r g : Nat) : State :=
  if s.hif.reads.any fun q => q.ring == some r && q.a == g then s
  else { s with hif := { s.hif with
    nextTag := s.hif.nextTag + 1, reads := s.hif.reads ++ [{ tag := s.hif.nextTag, op := 0, a := g, ring := some r }] } }

/-- What the first op of a ring waits for before acceptance: a free group, whose limit counts from here (spec/13 R344), or a record
in the host window, which is read. -/
def noteWait (s : State) (r : Nat) : State :=
  match nextOps s r with
  | [] => s
  | o :: os =>
    if ringFull s r ((o :: os).map fun o => { hdr := o.hdr, body := o.body }) || (headStatus s o).isSome then s
    else if mustWait s o then
      match o.body, (ring s r).since with
      | .txnBegin _, none => ringPut s r { ring s r with since := some (mtime s) }
      | _, _ => s
    else if (ring s r).recFailed then s
    else match (o :: os).findSome? (recMissing s) with
      | some g => readRecord s r g
      | none => s

/-! ### Running -/

/-- The op's work is done by vector and gather-scatter engines or by a steeple. -/
def onEngines : OpBody → Bool
  | .spspIntersect _ => true
  | .elem _ => true
  | .rowred _ => true
  | .sample _ => true
  | .gather _ => true
  | .scatter _ => true
  | .embBag _ => true
  | .embGrad _ => true
  | _ => false

/-- A producer with tiles (spec/13 R335). -/
def writesTiles : OpBody → Bool
  | .gemm _ => true
  | .gemmSp _ => true
  | .gemmTall _ => true
  | .update _ => true
  | b => onEngines b

/-- An op's dependency is met: it has completed; or it is the op's producer, whose tiles are all complete, or complete one by
one as the op's own tiles go on to read them (spec/01 R21, spec/13 R335, R336). -/
def depMet (s : State) (o : Op) (id : Nat) : Bool :=
  match opById s id with
  | some p =>
    p.completed || (o.consumes == some id && !(hdrFence o.hdr && p.ring == o.ring) && writesTiles p.body &&
      (p.phase == .done .ok || (p.isActive && (gemmBody p).isSome && (gemmBody o).isSome)))
  | none => true

/-- The op needs a die that is stopped: the Dome, or a Lantern or a Drum that it touches (spec/14 R367, spec/15 Table 15.4). A
STEP_COMMIT goes on, without a vote. -/
def opStopped (s : State) (o : Op) : Bool :=
  needsDome o && (s.dome.stopped || s.mif.stoppedDies.any (opOnDie s o))

/-- One op that waits is started once its dependencies have completed; one that needs a stopped die ends ABORTED. What an op that
waited for others had read of its records it reads again (log entry 18). -/
def startOne (s : State) (id : Nat) : State :=
  match opById s id with
  | some o =>
    if o.phase != .waiting || !(o.deps.all (depMet s o)) then s
    else if opStopped s o then opDone s id .aborted
    else
      let s := opUpdate s id fun o => { o with
        phase := .active, start := mtime s, hostBuf := if o.deps.isEmpty || o.ridesGemm then o.hostBuf else [] }
      match opById s id with
      | some o => opStart s o
      | none => s
  | none => s

/-- One running op goes on. -/
def wakeOne (s : State) (id : Nat) : State :=
  match opById s id with
  | some o => if o.isActive then opGo s o else s
  | none => s

/-- A ring's held descriptors accepted as far as they go, each op started when it can be. -/
def pumpRing : Nat → State → Nat → State
  | 0, s, _ => s
  | n + 1, s, r =>
    match tryAccept s r with
    | none => noteWait s r
    | some t => pumpRing n ((List.range (t.opNext - s.opNext)).foldl (fun u i => startOne u (s.opNext + i)) t) r

/-- Every ring with a held descriptor, ascending (spec/13 R333). -/
def pump (s : State) : State :=
  s.hif.rings.foldl (fun s x => if x.2.held.isEmpty then s else pumpRing x.2.held.length s x.1) s

/-- One round: tiles and timers of ops that are over leave their queues and comparators, what can start starts, what can go on goes on, what can be accepted is accepted. -/
def wake (s : State) : State :=
  let s := freeComparators (purgeJobs s)
  let s := s.ops.foldl (fun s o => startOne s o.id) s
  pump (s.ops.foldl (fun s o => wakeOne s o.id) s)

/-- What follows any change: two rounds, since the second sees what the first has freed. -/
def settle (s : State) : State := wake (wake s)

/-- A descriptor is handed on to acceptance. -/
def submit (s : State) (r : Nat) (d : Desc) : State :=
  let x := ring s r
  wake (ringPut s r { x with held := x.held ++ [d] })

/-! ### Completion (spec/13 R336, R348 to R352, R444) -/

/-- The event record of a completion. -/
def opRecord (o : Op) (st : Status) (ext : Bool) : List Byte :=
  recHead 1 st.code (2 * b2n ext) o.ring o.hdr.stream o.ended ++ leBytes 4 (min o.tally.sat 0xFFFFFFFF) ++
    leBytes 4 (min o.tally.nonfin 0xFFFFFFFF) ++ leBytes 1 o.tally.ieeeByte ++ leBytes 1 (OpBody.opcode o.body) ++
    leBytes 2 o.hdr.txn ++ leBytes 4 o.detail

/-- Its extension, when some count is not zero (spec/13 R349). -/
def opExtension (o : Op) (st : Status) : Option (List Byte) :=
  if o.c0 = 0 ∧ o.c1 = 0 ∧ o.c2 = 0 ∧ o.c3 = 0 then none
  else some (leBytes 2 2 ++ leBytes 1 st.code ++ leBytes 1 2 ++ leBytes 2 o.ring ++ leBytes 2 o.hdr.stream ++
    leBytes 8 o.aux ++ leBytes 4 o.c0 ++ leBytes 4 o.c1 ++ leBytes 4 o.c2 ++ leBytes 4 o.c3)

/-- QUIET holds back the record (spec/13 Table 13.2). -/
def quiet (o : Op) (st : Status) : Bool :=
  hdrQuiet o.hdr && o.accepted && st == .ok && o.tally.sat == 0 && o.tally.nonfin == 0 && o.tally.ieeeByte == 0 &&
    (opExtension o st).isNone && o.detail == 0

/-- The op is over: it leaves the device and its stream is free. -/
def opGone (s : State) (id : Nat) : State := { s with ops := s.ops.filter fun o => o.id != id }

/-- Completions held for queue q, oldest first (spec/13 R351, R352). -/
def heldFor (s : State) (q : Nat) : List Op :=
  (s.ops.filter fun o => o.completed && o.evq == q).sortBy fun a b => decide (a.doneNo ≤ b.doneNo)

/-- The record of a completed op written; none while its queue has no room for it. -/
def writeRecord (s : State) (o : Op) : Option State :=
  match o.phase with
  | .done st =>
    let ext := opExtension o st
    if !s.flt.sealed && eqEnabled s o.evq && decide (eqFree s o.evq ≥ 1 + b2n ext.isSome) then
      some (opGone (postRecords s o.evq (opRecord o st ext.isSome) ext (hdrIrqNow o.hdr || st != .ok)) o.id)
    else none
  | _ => none

/-- The oldest held completion of queue q is written, if there is room. -/
def writeHeld (s : State) (q : Nat) : State :=
  match heldFor s q with
  | o :: _ => match writeRecord s o with
    | some t => settle t
    | none => s
  | [] => s

/-- A planning op's counts enter its plan entry; at 16 ops the window closes (spec/05 R116, R118, R119; log entry 125). -/
def planEnd (s : State) (o : Op) : State :=
  match o.plan, o.work, gemmBody o with
  | some a, .gemm _ _ _ late present skip waste, some (_, b) =>
    let at4 := fun k => memNat s (a + k) 4
    let ctl := memNat s (a + 28) 1
    let ops := memNat s (a + 30) 2 + 1
    let miss := satAdd32 (at4 32) late
    let seen := satAdd32 (at4 36) present
    let thresh := memNat s (a + 29) 1
    let limit := if thresh = 0 then regBits s 0x1000044 15 8 else thresh
    let shut := decide (ops ≥ 16)
    let off := shut && decide (miss * 256 > limit * seen) && natBits ctl 3 3 == 0
    let ctl := (ctl ^^^ 2) ||| (if off then 4 else 0)
    let cur := memNat s (a + 8 * natBits (memNat s (a + 28) 1) 1 1) 8
    let s := recordRows (devWrite s (a + 28) (leBytes 1 ctl)) cur fun _ => 0
    let s := devWrite s (a + 30) (leBytes 2 (if shut then 0 else ops) ++ leBytes 4 (if shut then 0 else miss) ++
      leBytes 4 (if shut then 0 else seen) ++ leBytes 4 (satAdd32 (at4 40) late) ++ leBytes 4 (satAdd32 (at4 44) waste) ++
      leBytes 4 (satAdd32 (at4 48) skip) ++ leBytes 4 (satAdd32 (at4 52) o.c3))
    if off then deviceEvent s 0x0030 .ok (leBytes 2 b.layer ++ leBytes 4 miss ++ leBytes 4 seen) else s
  | _, _, _ => s

/-- A step has committed or failed on this device. -/
def stepSettled (s : State) (step : Nat) : Bool := s.dome.failedSteps.contains step || decide (step ≤ s.dome.lastCommitted)

/-- The gate of a STEP_COMMIT was good. -/
def gateGood (o : Op) : Bool :=
  match o.work with
  | .step _ _ _ _ g _ _ => g == some true
  | _ => false

/-- What the completion of an accepted op does besides its record. A STEP_COMMIT that something else has ended fails its step,
whose WALL and IDLE end here (spec/10 Table 10.5); an exchange that an op did not fold is forgotten (spec/08 R212, R438, spec/09 R241, spec/13 R336). -/
def opEffects (s : State) (o : Op) (st : Status) : State :=
  let s := planEnd s o
  match o.body with
  | .txnCommit => txnDrop s o.hdr.txn
  | .txnAbort => txnDrop s o.hdr.txn
  | .stepCommit b =>
    let n := regBits s 0x1000188 4 0
    let s := regSet s 0x1000188 4 0 (n - 1)
    let s := if stepSettled s b.step then s else stepFail s o b.step st (gateGood o)
    let s := telUpdate s b.step fun t => { t with wallOpen := false }
    { s with dome := { s.dome with workFailed := s.dome.workFailed.filter (· != b.step) } }
  | .paramPublish b => if st = .timeout then
      { s with dome := { s.dome with workFailed := b.step :: s.dome.workFailed } }
    else s
  | .reduceGrad b => if reduceFinal b then finalOverGo s o (addrOff b.group) b.step else s
  | .embGrad b => match o.work with
    | .embGrad _ _ true _ _ => s
    | _ => exchangeEnd s b.exch (gradChips s (opTable s o))
  | .scatter b =>
    if scatterPath b || !ownersRemote s (o.bank.getD 0) || hasSent o then s else exchangeEnd s b.exch (jobChips s)
  | _ => match o.work with
    | .gemm _ _ (some e) _ _ _ _ => if st = .ok then s else opDone s e .aborted
    | _ => s

/-- Consumers of an op that did not end OK end ABORTED (spec/13 R336). -/
def abortConsumers (s : State) (id : Nat) : State :=
  s.ops.foldl (fun s o => if o.consumes == some id then
    (match opById s o.id with
     | some o => opAbandon s o
     | none => s) else s) s

/-- The replays of an op's grains are counted no longer (spec/11 R442). -/
def replaysOver (s : State) (stream : Nat) : State :=
  { s with mif := { s.mif with replays := s.mif.replays.filter fun r => r.1 != .opRead stream && r.1 != .opWrite stream } }

/-- An op whose work has ended completes. -/
def completeOp (s : State) (o : Op) : State :=
  match o.phase, o.completed with
  | .done st, false =>
    let s := opUpdate s o.id fun o => { o with completed := true, ended := mtime s, doneNo := s.hif.doneNext }
    let s := { s with hif := { s.hif with doneNext := s.hif.doneNext + 1 } }
    let s := replaysOver s o.hdr.stream
    let s := if o.accepted then producerDone s o.id o.hdr.depTag st else s
    let s := if st != .ok && o.accepted && o.hdr.txn != 0 then abortTxn s o.hdr.txn st else s
    let s := if o.accepted then opEffects s o st else s
    let s := if st != .ok && o.accepted then abortConsumers s o.id else s
    let s := epochsRelease s
    let s := match opById s o.id with
      | some o =>
        if quiet o st then opGone s o.id
        else if ((heldFor s o.evq).head?.map (·.id)) == some o.id then (writeRecord s o).getD s
        else s
      | none => s
    settle s
  | _, _ => s

/-! ### Limits (spec/13 R344 to R346) -/

/-- The limit of an awaited arrival in kt; none where it has none here. -/
def reqLimit (s : State) (o : Op) (r : Req) : Option Nat :=
  let own := fun n => some (if n = 0 then ringLimit s o.ring else n)
  let ms8 := fun n => some (if n = 0 then 1250000 else n)
  match r.await, o.body with
  | .hostRead _, _ => none
  | .event, .timer _ => none
  | .event, .stepCommit _ => none
  | _, .wait b => if b.limit = 0xFFFFFFFF then none else own b.limit
  | .event, .reduceGrad b => ms8 b.limit
  | .ack _ _ _, .paramPublish b => ms8 b.limit
  | _, .ckptPush b => own b.limit
  | _, .ckptPull b => own b.limit
  | _, _ => some (ringLimit s o.ring)

/-- The limit of some awaited arrival has been reached. -/
def limitReached (s : State) (o : Op) : Bool :=
  o.reqs.any fun r => match reqLimit s o r with
    | some n => decide (mtime s ≥ r.start + n)
    | none => false

/-- How an op ends at its limit: a FINAL that has dropped a bad packet ends MALFORMED (spec/09 Table 9.9), and a STEP_COMMIT whose
replicas are not acknowledged fails its step. -/
def limitEnd (s : State) (o : Op) : State :=
  match o.body with
  | .reduceGrad b => match groupStep s (addrOff b.group) b.step with
    | some g => if g.badPacket then opStrictFail s o.id .malformed else opDone s o.id .timeout
    | none => opDone s o.id .timeout
  | .stepCommit b => stepFail s o b.step .timeout (gateGood o)
  | _ => opDone s o.id .timeout

/-- LIMIT_EXPIRY: an op whose arrival was latched in the expiry clk goes on, and the near miss is counted; so does a TXN_BEGIN that
waits for a free group. -/
def limitExpire (s : State) (stream : Nat) (latched : Bool) : State :=
  match opByStream s stream with
  | some o =>
    if !o.isActive || !limitReached s o then s
    else if latched then
      let s := regCount s 0x100024 1
      match o.body with
      | .wait b => waitTest s o b
      | _ => s
    else limitEnd s o
  | none =>
    match s.hif.rings.find? fun x => match x.2.held, x.2.since with
        | d :: _, some t =>
          d.hdr.stream == stream && decide (mtime s ≥ t + ringLimit s x.1) && decide (s.dome.txns.length ≥ 64)
        | _, _ => false with
    | some x => match x.2.held with
      | d :: _ => if latched then settle (regCount s 0x100024 1) else settle (refuseOp (popHeld s x.1 1) (newOp s x.1 d s.opNext) .timeout)
      | [] => s
    | none => s

end Sys2Proof.Machine
end

