-- ==== Sys2Proof/Machine/OpCmds.lean ====
section
/-! DEFINITION. The op commands: a descriptor is handed on to acceptance (spec/13 R332, R333). What each op then does is
in its own file; `opBegin` and `opWork` of Engine tell which. -/

namespace Sys2Proof.Machine

/-- Descriptors with an opcode outside Table 13.3 at the head of a ring's fetched ones are handed on (spec/13 R331): no op
command carries them. -/
def drainUnknown : Nat → State → Nat → State
  | 0, s, _ => s
  | n + 1, s, r =>
    let x := ring s r
    match x.fetchedDescs with
    | d :: rest =>
      if opKnown d.body then s else drainUnknown n (submit (ringPut s r { x with fetchedDescs := rest }) r d) r
    | [] => s

/-- An op command: the ring's next fetched descriptor is handed on; with none fetched the descriptor counts as handed on
itself, and one that is not the next is not enabled (log entries 6, 7). A sealed device takes none (spec/15 R376). -/
def opCommand (s : State) (r : Nat) (d : Desc) : State :=
  let x := ring s r
  if s.flt.sealed then s
  else match x.fetchedDescs with
  | [] => submit s r d
  | f :: rest =>
    if f = d then drainUnknown rest.length (submit (ringPut s r { x with fetchedDescs := rest }) r d) r else s

/-- COPY (spec rule R339). -/
def execCopy (r : Fin 256) (h : Hdr) (b : CopyBody) (s : State) : Host.Outcome State Fault Refusal :=
  .next (opCommand s r.val { hdr := h, body := .copy b })

/-- FILL (spec rule R340). -/
def execFill (r : Fin 256) (h : Hdr) (b : FillBody) (s : State) : Host.Outcome State Fault Refusal :=
  .next (opCommand s r.val { hdr := h, body := .fill b })

/-- GEMM (spec rule R78). -/
def execGemm (r : Fin 256) (h : Hdr) (b : GemmBody) (s : State) : Host.Outcome State Fault Refusal :=
  .next (opCommand s r.val { hdr := h, body := .gemm b })

/-- GEMM_SP (spec rule R73). -/
def execGemmSp (r : Fin 256) (h : Hdr) (b : GemmBody) (s : State) : Host.Outcome State Fault Refusal :=
  .next (opCommand s r.val { hdr := h, body := .gemmSp b })

/-- GEMM_TALL (spec rule R76). -/
def execGemmTall (r : Fin 256) (h : Hdr) (b : GemmBody) (s : State) : Host.Outcome State Fault Refusal :=
  .next (opCommand s r.val { hdr := h, body := .gemmTall b })

/-- SPSP_INTERSECT (spec rule R123). -/
def execSpspIntersect (r : Fin 256) (h : Hdr) (b : SpspBody) (s : State) : Host.Outcome State Fault Refusal :=
  .next (opCommand s r.val { hdr := h, body := .spspIntersect b })

/-- ELEM (spec rule R93). -/
def execElem (r : Fin 256) (h : Hdr) (b : ElemBody) (s : State) : Host.Outcome State Fault Refusal :=
  .next (opCommand s r.val { hdr := h, body := .elem b })

/-- ROWRED (spec rule R102). -/
def execRowred (r : Fin 256) (h : Hdr) (b : ElemBody) (s : State) : Host.Outcome State Fault Refusal :=
  .next (opCommand s r.val { hdr := h, body := .rowred b })

/-- SAMPLE (spec rule R137). -/
def execSample (r : Fin 256) (h : Hdr) (b : SampleBody) (s : State) : Host.Outcome State Fault Refusal :=
  .next (opCommand s r.val { hdr := h, body := .sample b })

/-- GATHER (spec rule R152). -/
def execGather (r : Fin 256) (h : Hdr) (b : GatherBody) (s : State) : Host.Outcome State Fault Refusal :=
  .next (opCommand s r.val { hdr := h, body := .gather b })

/-- SCATTER (spec rule R155). -/
def execScatter (r : Fin 256) (h : Hdr) (b : ScatterBody) (s : State) : Host.Outcome State Fault Refusal :=
  .next (opCommand s r.val { hdr := h, body := .scatter b })

/-- EMB_BAG (spec rule R168). -/
def execEmbBag (r : Fin 256) (h : Hdr) (b : EmbBagBody) (s : State) : Host.Outcome State Fault Refusal :=
  .next (opCommand s r.val { hdr := h, body := .embBag b })

/-- EMB_GRAD (spec rule R182). -/
def execEmbGrad (r : Fin 256) (h : Hdr) (b : EmbGradBody) (s : State) : Host.Outcome State Fault Refusal :=
  .next (opCommand s r.val { hdr := h, body := .embGrad b })

/-- REDUCE_GRAD (spec rule R248). -/
def execReduceGrad (r : Fin 256) (h : Hdr) (b : ReduceGradBody) (s : State) : Host.Outcome State Fault Refusal :=
  .next (opCommand s r.val { hdr := h, body := .reduceGrad b })

/-- PARAM_PUBLISH (spec rule R245). -/
def execParamPublish (r : Fin 256) (h : Hdr) (b : PublishBody) (s : State) : Host.Outcome State Fault Refusal :=
  .next (opCommand s r.val { hdr := h, body := .paramPublish b })

/-- UPDATE (spec rule R222). -/
def execUpdate (r : Fin 256) (h : Hdr) (b : UpdateBody) (s : State) : Host.Outcome State Fault Refusal :=
  .next (opCommand s r.val { hdr := h, body := .update b })

/-- TXN_BEGIN (spec rule R207). -/
def execTxnBegin (r : Fin 256) (h : Hdr) (b : TxnBeginBody) (s : State) : Host.Outcome State Fault Refusal :=
  .next (opCommand s r.val { hdr := h, body := .txnBegin b })

/-- TXN_COMMIT (spec rule R211). -/
def execTxnCommit (r : Fin 256) (h : Hdr) (s : State) : Host.Outcome State Fault Refusal :=
  .next (opCommand s r.val { hdr := h, body := .txnCommit })

/-- TXN_ABORT (spec rule R438). -/
def execTxnAbort (r : Fin 256) (h : Hdr) (s : State) : Host.Outcome State Fault Refusal :=
  .next (opCommand s r.val { hdr := h, body := .txnAbort })

/-- STEP_COMMIT (spec rule R224). -/
def execStepCommit (r : Fin 256) (h : Hdr) (b : StepCommitBody) (s : State) : Host.Outcome State Fault Refusal :=
  .next (opCommand s r.val { hdr := h, body := .stepCommit b })

/-- WAIT (spec rule R341). -/
def execWait (r : Fin 256) (h : Hdr) (b : WaitBody) (s : State) : Host.Outcome State Fault Refusal :=
  .next (opCommand s r.val { hdr := h, body := .wait b })

/-- SIGNAL (spec rule R342). -/
def execSignal (r : Fin 256) (h : Hdr) (b : SignalBody) (s : State) : Host.Outcome State Fault Refusal :=
  .next (opCommand s r.val { hdr := h, body := .signal b })

/-- TIMER (spec rule R343). -/
def execTimer (r : Fin 256) (h : Hdr) (b : TimerBody) (s : State) : Host.Outcome State Fault Refusal :=
  .next (opCommand s r.val { hdr := h, body := .timer b })

/-- CKPT_PUSH (spec rule R383). -/
def execCkptPush (r : Fin 256) (h : Hdr) (b : CkptPushBody) (s : State) : Host.Outcome State Fault Refusal :=
  .next (opCommand s r.val { hdr := h, body := .ckptPush b })

/-- CKPT_PULL (spec rule R384). -/
def execCkptPull (r : Fin 256) (h : Hdr) (b : CkptPullBody) (s : State) : Host.Outcome State Fault Refusal :=
  .next (opCommand s r.val { hdr := h, body := .ckptPull b })

/-- ASSUME_ID (spec rule R385). -/
def execAssumeId (r : Fin 256) (h : Hdr) (b : AssumeIdBody) (s : State) : Host.Outcome State Fault Refusal :=
  .next (opCommand s r.val { hdr := h, body := .assumeId b })

/-- NOP (spec rule R343). -/
def execNop (r : Fin 256) (h : Hdr) (s : State) : Host.Outcome State Fault Refusal :=
  .next (opCommand s r.val { hdr := h, body := .nop })

end Sys2Proof.Machine
end

