-- ==== Sys2Proof/Machine/HostCmds.lean ====
section
/-! DEFINITION. The host interface's own commands: polls and fetches (spec/13 R327, R328), timers and limits (R343, R345),
completions and interrupts (R349 to R352), BAR0 and BAR2 (R324, spec/11 R290) and the host window (spec/11 R291). -/

namespace Sys2Proof.Machine

/-! ### Polling and fetching -/

/-- MIN_US. -/
def pollMin (s : State) : Nat := max 1 (regBits s 0x100014 15 0)
/-- MAX_US. -/
def pollMax (s : State) : Nat :=
  let n := regBits s 0x100014 31 16
  max (pollMin s) (if n = 0 then 50 else n)

/-- Ring r is enabled. -/
def ringEnabled (s : State) (r : Nat) : Bool := regBits s (0x101008 + 32 * r) 31 31 == 1
/-- Descriptor slots of ring r. -/
def ringSize (s : State) (r : Nat) : Nat := 2 ^ regBits s (0x101008 + 32 * r) 23 19
/-- TAIL − FETCHED of a ring, modulo 2^32. -/
def ringNew (x : Ring) : Nat := (x.tail + 2 ^ 32 - x.fetched % 2 ^ 32) % 2 ^ 32

/-- One ring's TAIL as a poll reads it: a TAIL too far ahead stops the ring (spec/13 R328). -/
def pollRing (v : List Byte) (s : State) (r : Nat) : State :=
  let x := ring s r
  if !ringEnabled s r || x.stopped then s
  else
    let y := { x with tail := fieldAt v (16 * r) 4 }
    if ringNew y > ringSize s r then
      deviceEvent (ringPut s r { y with stopped := true }) 0x0010 .malformed (leBytes 2 r ++ leBytes 4 y.tail ++ leBytes 4 y.fetched)
    else ringPut s r y

/-- One queue's EQ_HEAD as a poll reads it. -/
def pollQueue (v : List Byte) (s : State) (q : Nat) : State :=
  if eqEnabled s q then eqPut s q { eqGet s q with head := fieldAt v (16 * q + 4) 4 } else s

/-- Some enabled ring has descriptors to fetch. -/
def newDescs (s : State) : Bool :=
  (List.range 256).any fun r => ringEnabled s r && !(ring s r).stopped && decide (ringNew (ring s r) ≠ 0)

/-- The doorbell vector's host address, HIF_DB_LO and HIF_DB_HI (spec/13 R326). -/
def doorbellAddr (s : State) : Nat := regBits s 0x100004 31 12 * 4096 + regBits s 0x100008 31 0 * 2 ^ 32

/-- A poll of the vector that host memory holds at its address: TAILs and EQ_HEADs are read, the interval follows, and WAITs on
host-window words are tested (spec/13 R326, R327, R341). -/
def poll (s : State) (v : List Byte) : State :=
  if regBits s 0x100000 0 0 = 0 || s.flt.sealed || s.fin.pinsTaken then s
  else
    let s := { s with host := s.host.putBytes (doorbellAddr s) (v.take 4096) }
    let s := (List.range 64).foldl (pollQueue v) s
    let s := (List.range 256).foldl (pollRing v) s
    let us := if newDescs s || !s.ops.isEmpty then pollMin s else min (pollMax s) (2 * s.hif.pollUs)
    testWaits { s with hif := { s.hif with pollUs := max (pollMin s) us } } fun a => regionOf a == .hostWindow

/-- DOORBELL_POLL (spec/13 R326, R327). -/
def execDoorbellPoll (vector : List Byte) (s : State) : Host.Outcome State Fault Refusal := .next (poll s vector)

/-- The ring's entry in the ring status area (spec/13 R328). -/
def ringStatus (s : State) (r : Nat) : State :=
  let base := regBits s 0x10000C 31 12 * 4096 + regBits s 0x100010 31 0 * 2 ^ 32
  let entry := leBytes 4 (ring s r).fetched ++ leBytes 4 (ringInFlight s r) ++ leBytes 8 0
  { s with host := s.host.putBytes (base + 16 * r) entry }

/-- A ring has descriptors to fetch: 1 to SIZE of them (spec/13 R328). -/
def fetchable (s : State) (r : Nat) : Bool :=
  let n := ringNew (ring s r)
  ringEnabled s r && !(ring s r).stopped && decide (1 ≤ n) && decide (n ≤ ringSize s r)

/-- The ring whose turn it is: rings are served in ascending order, round robin (spec/13 R328). -/
def turnRing (s : State) : Option Nat := ((List.range 256).map fun i => (s.hif.nextRing + i) % 256).find? (fetchable s)

/-- Host address of the slot of the descriptor with free-running count c in ring r (spec/13 R325). -/
def slotHost (s : State) (r c : Nat) : Nat :=
  regBits s (0x101000 + 32 * r) 31 6 * 64 + regBits s (0x101004 + 32 * r) 31 0 * 2 ^ 32 + c % ringSize s r * 64

/-- Host memory holds these descriptors in ring r from count c on. -/
def slotsHold (s : State) (r c : Nat) (descs : List (List Byte)) : State :=
  { s with host := (List.range descs.length).foldl (fun m i =>
    m.putBytes (slotHost s r (c + i)) (((descs[i]?).getD []).take 64)) s.host }

/-- Descriptors fetched from the ring whose turn it is, at most 16 a turn (spec/13 R328). -/
def fetch (s : State) (r : Nat) (descs : List (List Byte)) : State :=
  let x := ring s r
  if s.flt.sealed || s.fin.pinsTaken || regBits s 0x100000 0 0 = 0 || turnRing s != some r || descs.isEmpty ||
      decide (descs.length > min 16 (ringNew x)) then s
  else
    let s := slotsHold s r x.fetched descs
    let ds := descs.map parseDesc
    let s := ringPut s r { x with fetched := (x.fetched + ds.length) % 2 ^ 32, fetchedDescs := x.fetchedDescs ++ ds }
    let s := ringStatus { s with hif := { s.hif with nextRing := (r + 1) % 256 } } r
    drainUnknown (ring s r).fetchedDescs.length s r

/-- DESCRIPTOR_FETCH (spec/13 R328). -/
def execDescriptorFetch (r : Fin 256) (descs : List (List Byte)) (s : State) : Host.Outcome State Fault Refusal :=
  .next (fetch s r.val descs)

/-! ### Timers, limits, completions -/

/-- A TIMER's target is reached (spec/13 R343). -/
def timerFire (s : State) (stream : Nat) : State :=
  match opByStream s stream with
  | some o => match o.body with
    | .timer b =>
      if o.isActive && decide (mtime s ≥ timerTarget o b) then settle (opDone s o.id .ok) else s
    | _ => s
  | none => s

/-- TIMER_EXPIRY (spec/13 R343). -/
def execTimerExpiry (stream : Nat) (s : State) : Host.Outcome State Fault Refusal := .next (timerFire s stream)

/-- LIMIT_EXPIRY (spec/13 R345). -/
def execLimitExpiry (stream : Nat) (latched : Bool) (s : State) : Host.Outcome State Fault Refusal :=
  .next (limitExpire s stream latched)

/-- COMPLETION (spec/13 R349): the op that holds the stream completes, once its work has ended. -/
def execCompletion (stream : Nat) (s : State) : Host.Outcome State Fault Refusal :=
  .next (match opByStream s stream with
    | some o => completeOp s o
    | none => s)

/-- HELD_COMPLETION_WRITE (spec/13 R351). -/
def execHeldCompletionWrite (q : Fin 64) (s : State) : Host.Outcome State Fault Refusal := .next (writeHeld s q.val)

/-- The oldest pending record has waited TIME kt (spec/13 R350). -/
def irqTime (s : State) (q : Nat) : State :=
  let e := eqGet s q
  let t := regBits s (0x10300C + 32 * q) 31 16
  if e.pend ≠ 0 ∧ t ≠ 0 ∧ mtime s ≥ e.since + t then sendIrq s q else s

/-- INTERRUPT_TIME_TRIGGER (spec/13 R350). -/
def execInterruptTimeTrigger (q : Fin 64) (s : State) : Host.Outcome State Fault Refusal := .next (irqTime s q.val)

/-- A vector's mask bit falls: a pending interrupt is sent (spec/13 R350). -/
def unmask (s : State) (v : Nat) : State :=
  let s := regSet s (0x108000 + 16 * v + 12) 0 0 0
  if s.hif.pba.contains v then
    { s with hif := { s.hif with pba := s.hif.pba.filter (· != v), msix := s.hif.msix ++ [v] } }
  else s

/-- MSIX_UNMASK (spec/13 R350). -/
def execMsixUnmask (v : Fin 64) (s : State) : Host.Outcome State Fault Refusal := .next (unmask s v.val)

/-! ### BAR0 and BAR2 -/

/-- BAR0_BAD_ACCESS (spec/13 R324): a read is answered with Unsupported Request, a write is dropped; with its pins taken the
endpoint answers nothing (spec/17 R430), and a sealed device answers nothing of this kind (spec/15 Table 15.4). -/
def execBar0BadAccess (write : Bool) (s : State) : Host.Outcome State Fault Refusal :=
  .next (if write || s.fin.pinsTaken || s.flt.sealed then s else { s with fin := { s.fin with unsupported := s.fin.unsupported + 1 } })

/-- Device offset of a BAR2 offset (spec/11 R290). -/
def bar2Offset (s : State) (a : Nat) : Nat := regBits s 0x100100 11 0 * 2 ^ 36 + a

/-- A range the aperture reaches outside every gap, on dies that run. -/
def bar2Ok (s : State) (o n : Nat) : Bool :=
  !s.flt.sealed && !rangeStopped s o n && (regionOf o == .lpddr || regionOf o == .lantern || regionOf o == .scratch) && rangeOk s o n

/-- The answer to a host read: its bytes, or Completer Abort. -/
def bar2Answer (s : State) (bs : Option (List Byte)) : State :=
  { s with mif := { s.mif with bar2Answers := s.mif.bar2Answers ++ [bs] } }

/-- A host read at a device offset: committed bytes, a view from its current slot (spec/11 R290, spec/08 R202). -/
def bar2Read (s : State) (o n : Nat) : State :=
  if bar2Ok s o n then
    bar2Answer (touchRange s o n) (some ((List.range n).map fun i => committedByte s (servedAt s none (o + i))))
  else bar2Answer (regCount s 0x100104 1) none

/-- A host write at a device offset: it names no group; into a gap or a view it is dropped and counted (spec/11 R290). -/
def bar2Write (s : State) (o : Nat) (data : List Byte) : State :=
  if !bar2Ok s o data.length || meetsView s o data.length then regCount s 0x100104 1
  else if regionOf o = .scratch then applyBytes s o data
  else plainWrite (touchRange s o data.length) o data

/-! ### The host window -/

/-- Outstanding host reads but one. -/
def dropRead (s : State) (tag : Nat) : State :=
  { s with hif := { s.hif with reads := s.hif.reads.filter fun r => r.tag != tag } }

/-- Bytes read from the host are what host memory holds at their place in a window. -/
def hostHolds (s : State) (window : Option Nat) (a : Nat) (data : List Byte) : State :=
  match window with
  | some b => { s with host := s.host.putBytes (b + (a - hwinBase)) data }
  | none => s

/-- A host-window read has failed: the op is abandoned, with health bit FATAL (spec/11 R287, R291); one of a record ends the op
that names it when it is next up. -/
def hostReadFail (s : State) (tag : Nat) : State :=
  match s.hif.reads.find? fun r => r.tag == tag with
  | none => s
  | some r =>
    let s := dropRead s tag
    match r.ring with
    | some k => settle (setHealth (raiseFault (ringPut s k { ring s k with recFailed := true }) 0 1 0x02 r.a) 0)
    | none =>
    match opById s r.op with
    | some o => if o.isActive then settle (setHealth (opDone (raiseFault s 0 1 0x02 r.a) o.id .aborted) 0) else regCount s 0x100020 1
    | none => regCount s 0x100020 1

/-- A host-window read's bytes arrive: the op, or the acceptance of the next op of a ring, goes on, or they are late
(spec/13 R345). -/
def hostReadDone (s : State) (tag : Nat) (data : List Byte) : State :=
  match s.hif.reads.find? fun r => r.tag == tag with
  | none => s
  | some r =>
    let s := dropRead s tag
    let cells := data.mapIdx fun i b => (r.a + i, b)
    match r.ring with
    | some k => settle (hostHolds (ringPut s k { ring s k with recBuf := (ring s k).recBuf ++ cells }) (hostWindow s) r.a data)
    | none =>
    match opById s r.op with
    | some o =>
      if o.isActive then
        let s := hostHolds s o.hwin r.a data
        let s := opUpdate s o.id fun o => { o with
          hostBuf := o.hostBuf ++ cells, reqs := o.reqs.filter fun q => q.await != .hostRead r.a }
        match opById s o.id with
        | some o => match o.body with
          | .wait b => settle (waitTest s o b)
          | _ => settle s
        | none => s
      else regCount s 0x100020 1
    | none => regCount s 0x100020 1

/-- HOST_WINDOW_COMPLETION (spec/11 R291). -/
def execHostWindowCompletion (tag : Nat) (ok : Bool) (data : List Byte) (s : State) : Host.Outcome State Fault Refusal :=
  .next (if ok then hostReadDone s tag data else hostReadFail s tag)

/-- PCIE_COMPLETION_TIMEOUT (spec/13 R344): a read that timed out has failed. -/
def execPcieCompletionTimeout (tag : Nat) (s : State) : Host.Outcome State Fault Refusal := .next (hostReadFail s tag)

end Sys2Proof.Machine
end

