-- ==== Sys2Proof/Machine/Parts.lean ====
section
/-! DEFINITION. What the Lantern partitions are used for (spec/11 Table 11.2, R281, R282), and what a size cut waits for. -/

namespace Sys2Proof.Machine

/-- Lantern ranges that an op names, as Lantern offsets. -/
def opLantern (s : State) (o : Op) : List (Nat × Nat) :=
  let rs := (opReads s o ++ opWritten s o ++ opShared s o).filter fun r => !absent r.1 && isLocal s r.1 && regionOf (addrOff r.1) == .lantern
  rs.map (fun r => (addrOff r.1 - lanBase, max 1 r.2)) ++
    (opHists s o).map fun h => (partBase s 3 * 2 ^ 20 + 32 * h, 32)

/-- Lantern ranges that registers configure: plan entries, directory, version table, frozen bitmap, retention area,
telemetry, collector and baseline (spec/11 R281, spec/05 R121, spec/10 R271). -/
def configured (s : State) : List (Nat × Nat) :=
  let on := fun (b : Bool) (r : Nat × Nat) => if b then [r] else []
  on (regBits s 0x1000044 0 0 == 1) (regBits s 0x1000040 30 6 * 64, 2 ^ 22) ++
  on (regBits s 0x10000C0 30 12 != 0) (regBits s 0x10000C0 30 12 * 4096, 4096) ++
  on (verCount s != 0) (regBits s 0x1000100 30 6 * 64, 64 * verCount s) ++
  on (regBits s 0x1000108 31 31 == 1) (regBits s 0x1000108 30 13 * 8192, 8192) ++
  on (regBits s 0x1000184 19 0 != 0) (regBits s 0x1000180 30 12 * 4096, 4096 * regBits s 0x1000184 19 0) ++
  on (telLayers s != 0) (telBase s, telSpan s) ++
  on (regBits s 0x40000C 30 12 != 0) (regBits s 0x40000C 30 12 * 4096, 2 ^ 21) ++
  on (regBits s 0x400020 31 31 == 1) (regBits s 0x400020 30 6 * 64, 64)

/-- MiB of a Lantern area from `base` of `size` MiB that some range touches. -/
def mibUsed (base size : Nat) (rs : List (Nat × Nat)) : Nat :=
  (natsWhere size fun i => rs.any fun r =>
    decide (r.1 < (base + i + 1) * 2 ^ 20) && decide ((base + i) * 2 ^ 20 < r.1 + r.2)).length

/-- The extent of a partition in MiB, with the old extent of a cut that waits (spec/11 R281). -/
def partExtent (s : State) (k : Nat) : Nat :=
  (s.mif.cuts.filter fun c => c.part == k && c.waits).foldl (fun n c => max n c.old) (partSize s k)

/-- MiB of a partition in use, rounded up (spec/11 Table 11.2). -/
def partUse (s : State) (k : Nat) : Nat :=
  let live := s.ops.filter fun o => o.accepted && !o.completed
  if k = 0 then ceilDiv ((s.dome.replicas.map fun r => if r.own then 0 else r.bytes.length + 64).sum) (2 ^ 20)
  else if k = 2 then ceilDiv (64 * journalUsed s) (2 ^ 20)
  else
    let rs := live.flatMap (opLantern s)
    mibUsed (partBase s k) (partExtent s k) (if k = 5 then rs ++ configured s else rs)

/-- The general partition at a base and size would hold every configured area but those named. -/
def generalHolds (s : State) (base size : Nat) : Bool :=
  (configured s).all fun r => decide (base * 2 ^ 20 ≤ r.1) && decide (r.1 + r.2 ≤ (base + size) * 2 ^ 20)

/-- A cut that waits ends once the use is no more than the new size (spec/11 R282; log entry 39). -/
def cutComplete (s : State) (k : Nat) : State :=
  if partUse s k ≤ partSize s k then
    { s with mif := { s.mif with cuts := s.mif.cuts.map fun c => if c.part == k then { c with waits := false } else c } }
  else s

end Sys2Proof.Machine
end

