-- ==== Sys2Proof/Machine/RegRead.lean ====
section
/-! DEFINITION. What a read of a BAR0 register returns (spec/00 R9, spec/13 R324, spec/16 R392, spec/17 R431): stored fields
as written, and the fields that report other state. -/

namespace Sys2Proof.Machine

/-- A fault source: DIE in bits 15 to 13, UNIT below (spec/15 Tables 15.1, 15.2). -/
def sourceOf (die unit : Nat) : Nat := die * 8192 + unit % 8192

/-- Word 0 and word 1 of a fault record (spec/15 Table 15.1). -/
def recordWords (r : FaultRec) : Nat × Nat :=
  (sourceOf r.die r.unit * 2 ^ 48 + r.kind % 256 * 2 ^ 40 + r.count % 256 * 2 ^ 32 + r.time % 2 ^ 32, r.addr % 2 ^ 64)

/-- A fault record's 16 bytes. -/
def recordBytes (r : FaultRec) : List Byte := leBytes 8 (recordWords r).1 ++ leBytes 8 (recordWords r).2

/-- A calibration tag's 16 bytes (spec/10 Table 10.8): KIND, LOAD, TEMP and TAKEN. -/
def tagBytes (kind load : Nat) (temp : Int) (taken : Nat) : List Byte :=
  leBytes 1 kind ++ leBytes 1 0 ++ leBytes 1 load ++ leBytes 1 0 ++ leBytes 2 (wrapTo 16 temp) ++ leBytes 1 0 ++ leBytes 1 0 ++
    leBytes 8 taken

/-- A 32-bit word at byte `o` of a block of bytes; past its end it reads 0. -/
def wordAt (bs : List Byte) (o : Nat) : Nat := fieldAt bs o 4

/-! ### Finial -/

/-- The device is out of C3 to C5 (spec/16 R407, FAULT_N). -/
def faultPin (s : State) : Bool := s.flt.halted || !s.flt.fatal.isEmpty || s.flt.sealed

/-- Some factor is below 16 (spec/16 R407, THROTTLE_N). -/
def throttled (s : State) : Bool := s.chime.factors.any fun f => decide (f < 16)

/-- The level of GPIO pin p (spec/16 R407): a pulse of TICK is over by the time it is read. -/
def gpioLevel (s : State) (p : Nat) : Bool :=
  match regBits s (0x40 + 4 * p) 3 0 with
  | 1 => Config.pinLevel p s.time.keep
  | 2 => regBits s (0x40 + 4 * p) 6 6 == 1
  | 3 => !faultPin s
  | 4 => !throttled s
  | 5 => s.fin.ready
  | _ => false

/-- FIN_SVN. -/
def finSvnWord (s : State) : Nat :=
  s.fin.blfSvn * 2 ^ 24 + s.fin.finSvn * 2 ^ 16 + s.fin.blfCtr * 256 + s.fin.finCtr

/-- The FIN block (spec/16 Table 16.9). -/
def finRead (s : State) (off : Nat) : Nat :=
  let f := s.fin
  if off = 0x0 then 0x64000000 + f.stepping % 256 * 256
  else if off = 0x4 then f.serial % 2 ^ 32
  else if off = 0x8 then f.serial / 2 ^ 32 % 2 ^ 32
  else if off = 0xC then
    b2n f.ready * 2 ^ 31 + b2n f.slotB * 2 ^ 30 + b2n f.failA * 2 ^ 29 + b2n f.failB * 2 ^ 28 + f.stage % 16
  else if off = 0x10 then f.lc % 4 * 8 + f.strap % 8
  else if off = 0x14 then finSvnWord s
  else if 0x40 ≤ off ∧ off < 0x60 then (regGet s off).toNat + b2n (gpioLevel s ((off - 0x40) / 4)) * 128
  else if off = 0x220 then b2n f.attBusy * 2 ^ 31 + b2n f.attDone * 2 ^ 30
  else if 0x240 ≤ off ∧ off < 0x270 then 0
  else if 0x300 ≤ off ∧ off < 0x330 then wordAt f.m0 (off - 0x300)
  else if 0x340 ≤ off ∧ off < 0x370 then wordAt f.m1 (off - 0x340)
  else if 0x380 ≤ off ∧ off < 0x3B0 then wordAt f.m2 (off - 0x380)
  else if 0x400 ≤ off ∧ off < 0x560 then wordAt f.report (off - 0x400)
  else if off = 0x600 then f.cert.length % 2048
  else if 0x1000 ≤ off ∧ off < 0x1400 then wordAt f.cert (off - 0x1000)
  else (regGet s off).toNat

/-! ### Host interface, faults, Chime, Oculus -/

/-- The HIF block (spec/13 Table 13.9, spec/11 Table 11.5). -/
def hifRead (s : State) (off : Nat) : Nat :=
  let bit := fun (v : Nat) => b2n (s.hif.pba.contains v) * 2 ^ (v % 32)
  if off = 0x10001C then pendingTimers s % 512 * 2 ^ 16 + s.ops.length % 32768
  else if 0x101000 ≤ off ∧ off < 0x103000 then
    let r := (off - 0x101000) / 32
    match (off - 0x101000) % 32 with
    | 0x08 => (regGet s off).toNat + b2n (ring s r).stopped * 2 ^ 30
    | 0x10 => (ring s r).fetched % 2 ^ 32
    | 0x14 => ringInFlight s r % 32768
    | _ => (regGet s off).toNat
  else if 0x103000 ≤ off ∧ off < 0x103800 ∧ off % 32 = 0x10 then (eqGet s ((off - 0x103000) / 32)).written % 2 ^ 32
  else if off = 0x109000 then ((List.range 32).map bit).sum
  else if off = 0x109004 then ((List.range 32).map fun i => bit (32 + i)).sum
  else (regGet s off).toNat

/-- The logged record at ring index i (spec/15 Table 15.9). -/
def logAt (s : State) (i : Nat) : Option (FaultRec × Nat) :=
  s.flt.log[(s.flt.written + 4096 * (i / 4096 + 1) - 1 - i) % 4096]?

/-- Entry i of the repair list: VALID, what was replaced, and the spare. -/
def repairWord (s : State) (i : Nat) : Nat :=
  match s.flt.repairs[i]? with
  | some (u, r) => 2 ^ 63 + u * 2 ^ 32 + r * 2 ^ 16
  | none => 0

/-- The FLT block (spec/15 Table 15.9). -/
def fltRead (s : State) (off : Nat) : Nat :=
  let f := s.flt
  if off = 0x200000 then
    b2n f.sealed * 2 ^ 31 + b2n (!f.fatal.isEmpty) * 2 ^ 30 + b2n f.halted * 2 ^ 29 + f.log.length % 8192
  else if off = 0x200008 then f.written % 2 ^ 32
  else if 0x201000 ≤ off ∧ off < 0x201800 then repairWord s ((off - 0x201000) / 8) / 2 ^ (8 * (off % 8)) % 2 ^ 32
  else if 0x208000 ≤ off ∧ off < 0x218000 then
    match logAt s ((off - 0x208000) / 16) with
    | some r => wordAt (recordBytes r.1) (off % 16)
    | none => 0
  else (regGet s off).toNat

/-- Voltage record k as CHM_VFk shows it, with its tag (spec/14 Table 14.6). -/
def vfBytes (s : State) (k : Nat) : List Byte :=
  match tabGet (fun _ => none) s.chime.vf k with
  | some v => leBytes 4 (2 ^ 31 + b2n v.accepted * 2 ^ 30 + v.volt % 4096) ++ tagBytes 1 v.load v.temp v.taken
  | none => []

/-- Debt of the most indebted unit of an activity (spec/14 CHM_DEBTa). -/
def debtOf (s : State) (a : Nat) : Nat :=
  (s.chime.debt.filter fun d => d.1 / 512 == a).foldl (fun m d => max m d.2) 0

/-- The CHM block (spec/14 Table 14.6). -/
def chmRead (s : State) (off : Nat) : Nat :=
  let c := s.chime
  if off = 0x300000 then c.period % 2 ^ 32
  else if 0x300010 ≤ off ∧ off < 0x300034 then (c.factors[(off - 0x300010) / 4]?).getD 0
  else if off = 0x300040 then (regGet s off).toNat + b2n c.guard * 2 ^ 31 + c.vdd % 4096
  else if 0x300080 ≤ off ∧ off < 0x300100 then wordAt (vfBytes s ((off - 0x300080) / 32)) (off % 32)
  else if 0x300100 ≤ off ∧ off < 0x300168 then wrapTo 16 ((c.temps[(off - 0x300100) / 4]?).getD 0)
  else if 0x300400 ≤ off ∧ off < 0x3005A0 then min 0xFFFFFF (debtOf s ((off - 0x300400) / 4))
  else if 0x300600 ≤ off ∧ off < 0x300640 then
    let b := belfry s ((off - 0x300600) / 4)
    b2n b.pllOn * 2 ^ 31 + b.powered % 2 ^ 17
  else (regGet s off).toNat

/-- The OCU block (spec/10 Table 10.10). -/
def ocuRead (s : State) (off : Nat) : Nat :=
  if off = 0x400028 then wrapTo 16 s.chime.temp * 256 + s.chime.load % 256 else (regGet s off).toNat

/-! ### Galleries -/

/-- A GAL offset as GAL0's, where the register serves both Galleries (spec/12 R321): everything but the violation and drop
counters and the link registers. -/
def galShared (off : Nat) : Nat :=
  if 0xA00000 ≤ off ∧ off < 0xC00000 ∧ off ≠ 0xA00060 ∧ off ≠ 0xA00064 ∧ ¬(0xA01000 ≤ off ∧ off < 0xA01300) then
    off - 0x200000
  else off

/-- The link whose registers lie at an offset. -/
def galLink (off : Nat) : Nat := (if off < 0xA00000 then 0 else 48) + off % 0x1000 / 16

/-- The GAL blocks (spec/12 Table 12.11). -/
def galRead (s : State) (off0 : Nat) : Nat :=
  let off := galShared off0
  let t := s.time
  if (0x801000 ≤ off ∧ off < 0x801300) ∨ (0xA01000 ≤ off ∧ off < 0xA01300) then
    let x := link s (galLink off)
    match off % 16 with
    | 4 => x.st.code * 2 ^ 28 + min 255 x.retrains * 2 ^ 16 + min 65535 x.replays
    | 8 => x.partnerChip % 65536 * 65536 + x.partnerLink % 256 * 256
    | _ => (regGet s off).toNat
  else if off = 0x800028 then
    let near := (s.fab.flows.filter fun f => f.spill.isNone).length
    min (s.fab.flows.length - near) (2 ^ 18 - 1) * 2 ^ 14 + near
  else if off = 0x800048 then wrapTo 64 t.offset % 2 ^ 32
  else if off = 0x80004C then wrapTo 64 t.offset / 2 ^ 32
  else if off = 0x800050 then b2n t.stale * 2 ^ 31 + min 65535 t.pathDelay
  else (regGet s off).toNat

/-! ### Memories -/

/-- The repair that Drum d runs. -/
def pprOf (s : State) (d : Nat) : Option Ppr := tabGet (fun _ => none) s.mif.ppr d

/-- One entry of DRM_SUSPECT. -/
def suspectWord (x : Channel) (i : Nat) : Nat :=
  match x.suspect[i]? with
  | some (row, hits) => min 255 hits * 2 ^ 56 + row / 2 ^ 18 % 16 * 2 ^ 52 + row % 2 ^ 18
  | none => 0

/-- The DRM blocks (spec/11 Table 11.4). -/
def drmRead (s : State) (off : Nat) : Nat :=
  let d := if off < 0xD00000 then 0 else 1
  let o := off % 0x100000
  if o = 0 then (regGet s 0xC00000).toNat
  else if 0x100 ≤ o ∧ o < 0x200 then
    let x := channel s (64 * d + (o - 0x100) / 4)
    b2n x.selfRefresh * 2 ^ 31 + b2n x.training * 2 ^ 30 + b2n x.ppr * 2 ^ 29 + x.suspect.length % 32
  else if o = 0x300 then 0
  else if o = 0x304 then b2n (pprOf s d).isSome * 2 ^ 31 + (regGet s off).toNat % 2 ^ 31
  else if 0x1000 ≤ o ∧ o < 0x3000 then
    suspectWord (channel s (64 * d + (o - 0x1000) / 128)) (o % 128 / 8) / 2 ^ (8 * (o % 8)) % 2 ^ 32
  else (regGet s off).toNat

/-- The bank that a spare of a Lantern replaces. -/
def spareBank (s : State) (die sp : Nat) : Option Nat :=
  (s.mif.spares.find? fun x => x.1 == die && x.2.1 == sp).bind (·.2.2)

/-- The LAN blocks (spec/11 Table 11.3). -/
def lanRead (s : State) (off : Nat) : Nat :=
  let n := (off - 0xE00000) / 0x40000
  let o := (off - 0xE00000) % 0x40000
  if o = 0 then (natsWhere 4 fun i => (spareBank s n i).isSome).length
  else if 0x10 ≤ o ∧ o < 0x20 then
    match spareBank s n ((o - 0x10) / 4) with
    | some b => 2 ^ 31 + b % 64
    | none => 0
  else if n = 0 ∧ 0x140 ≤ o ∧ o < 0x158 then
    let k := (o - 0x140) / 4
    b2n (s.mif.cuts.any fun c => c.part == k && c.waits) * 2 ^ 31 + partUse s k % 4096
  else (regGet s off).toNat

/-! ### Dome -/

/-- A running op still uses the inactive ownership bank (spec/06 R135). -/
def ownBusy (s : State) : Bool :=
  s.ops.any fun o => o.accepted && !o.completed && o.bank == some (1 - regBits s 0x1000080 31 31)

/-- The DOM block (spec/02 Table 2.7, spec/05 Table 5.5, spec/06 Table 6.4, spec/07 Table 7.6, spec/08 Table 8.9,
spec/09 Table 9.8). -/
def domRead (s : State) (off : Nat) : Nat :=
  if off = 0x1000080 then (regGet s off).toNat + b2n (ownBusy s) * 2 ^ 30
  else if off = 0x100010C then ceilDiv (64 * journalUsed s) (2 ^ 20) % 65536 * 65536 + s.dome.txns.length % 128
  else if off = 0x1000110 then s.dome.health % 16
  else if 0x1000140 ≤ off ∧ off < 0x1000180 then
    let b := belfry s ((off - 0x1000140) / 4)
    b2n b.fullSeen * 2 ^ 31 + b.peak % 8192 * 65536 + b.deferred.length % 8192
  else if off = 0x100018C then
    min 65535 (ceilDiv (retainUsed s) (2 ^ 20)) * 65536 + min 255 (s.dome.groups.filter fun g => !g.over).length * 256
  else (regGet s off).toNat

/-! ### A read -/

/-- The register at a BAR0 offset, whatever the device's stage. -/
def regShown (s : State) (off : Nat) : Nat :=
  if off < 0x100000 then finRead s off
  else if off < 0x200000 then hifRead s off
  else if off < 0x300000 then fltRead s off
  else if off < 0x400000 then chmRead s off
  else if off < 0x500000 then ocuRead s off
  else if off < 0x800000 then 0
  else if off < 0xC00000 then galRead s off
  else if off < 0xE00000 then drmRead s off
  else if off < 0xF00000 then lanRead s off
  else if off < 0x1000000 then 0
  else if off < 0x2000000 then domRead s off
  else 0

/-- A register as Wamos and the management mirror read it: while sealed only the FIN and FLT blocks answer, and the others
read 0 (spec/15 Table 15.4; log entry 40). -/
def shownReg (s : State) (off : Nat) : Word :=
  if s.flt.sealed && !(decide (off < 0x100000) || (decide (0x200000 ≤ off) && decide (off < 0x300000))) then 0
  else BitVec.ofNat 32 (regShown s off)

/-- A read of BAR0: 0 before READY, but for a device sealed during boot (spec/16 R392). -/
def readReg (s : State) (off : Nat) : Word := if s.flt.sealed || s.fin.ready then shownReg s off else 0

end Sys2Proof.Machine
end

