-- ==== Sys2Proof/Machine/Faults.lean ====
section
/-! DEFINITION. The fault collector (spec/15 R370 to R381): buckets, classes, the log, and what each class does: spares and
fences, halting the job, stopping dies, sealing. -/

namespace Sys2Proof.Machine

/-! ### Text -/

/-- A hexadecimal digit, upper case. -/
def hexDigit (n : Nat) : Char := if n < 10 then Char.ofNat (48 + n) else Char.ofNat (55 + n)

/-- A number in `n` hexadecimal digits. -/
def hexText : Nat → Nat → List Char
  | 0, _ => []
  | n + 1, v => hexText n (v / 16) ++ [hexDigit (v % 16)]

/-- A line sent on the UART. -/
def sayLine (s : State) (l : String) : State := { s with wamos := { s.wamos with out := s.wamos.out ++ [l] } }

/-! ### Buckets and classes (spec/15 R372 to R375) -/

/-- N of a kind. -/
def kindN (s : State) (k : Nat) : Nat := regBits s (0x200100 + 4 * k) 11 0
/-- Base class of a kind; a reserved kind is C0. -/
def kindBase (s : State) (k : Nat) : Nat := regBits s (0x200100 + 4 * k) 14 12

/-- The kt in which a level of a kind falls by 1: its window over N, at least 1; never where N is 0 (spec/15 R372, R373). A
window counts 16 ms, 2,500,000 kt. -/
def leakEvery (s : State) (k : Nat) : Nat :=
  if kindN s k = 0 then 0 else max 1 (max 1 (regBits s (0x200100 + 4 * k) 31 16) * 2500000 / kindN s k)

/-- A bucket entry is a pair's. -/
def Bucket.pair (b : Bucket) (die unit kind : Nat) : Bool := b.die == die && b.unit == unit && b.kind == kind

/-- The entry that a pair without one takes: a free one, else that of an unpromoted pair with the lowest level, the
lower index on a tie; none when every entry is promoted (spec/15 R374). -/
def bucketFor (bs : List Bucket) (fresh : Bucket) : Option (List Bucket) :=
  if bs.length < 2048 then some (bs ++ [fresh])
  else
    let best := bs.zipIdx.foldl (fun (m : Option (Nat × Nat)) x =>
      if x.1.promoted then m
      else match m with
        | some (l, _) => if x.1.level < l then some (x.1.level, x.2) else m
        | none => some (x.1.level, x.2)) none
    best.map fun m => replaceAt bs m.2 fresh

/-- A record counted in its pair's bucket (spec/15 R373): the class, whether it was promoted, and the buckets; without a
bucket, its base class. A level starts to fall when it leaves 0 (log entry 155). -/
def bucketCount (s : State) (r : FaultRec) : Nat × Bool × Option (List Bucket) :=
  let base := kindBase s r.kind
  let fresh : Bucket := { die := r.die, unit := r.unit, kind := r.kind, cls := base, level := 0 }
  let held := if s.flt.buckets.any fun b => b.pair r.die r.unit r.kind then some s.flt.buckets
    else bucketFor s.flt.buckets fresh
  match held with
  | none => (base, false, none)
  | some bs =>
    let b := (bs.find? fun b => b.pair r.die r.unit r.kind).getD fresh
    let b := { b with every := leakEvery s r.kind, leakAt := if b.level = 0 then mtime s else b.leakAt }
    let level := b.level + r.count
    let up := decide (kindN s r.kind > 0) && decide (level ≥ kindN s r.kind)
    let b' := if up then { b with cls := min 5 (b.cls + 1), level := 0, promoted := true } else { b with level := level }
    (b'.cls, up, some (bs.map fun x => if x.pair r.die r.unit r.kind then b' else x))

/-- The unit has a spare or a fence in Table 15.5 (spec/15 R375); a spare bank has one while it is in use. -/
def hasSpare (s : State) (die unit : Nat) : Bool :=
  if unit ≥ 0x1F00 then true
  else match die with
    | 1 => decide (unit < 0x110) || (decide (0x200 ≤ unit) && decide (unit < 0x510) && decide (unit % 0x100 < 16))
    | 2 =>
      let k := unit % 0x100
      decide (k < 0x40) || (decide (k < 0x44) && (spareBank s (unit / 0x100) (k - 0x40)).isSome)
    | 3 => decide (unit < 0x80)
    | 4 => decide (unit < 0x60)
    | _ => false

/-- The class a record is logged at (spec/15 R375; log entry 41: the two cases do not chain). -/
def loggedClass (s : State) (r : FaultRec) (cls : Nat) : Nat :=
  if cls = 3 ∧ jobId s = 0 then 2
  else if cls = 2 ∧ !hasSpare s r.die r.unit then 4
  else cls

/-! ### Repairs (spec/15 R379, R380) -/

/-- An entry of the repair list, while it has room (spec/15 R379). -/
def repairAdd (s : State) (unit spare : Nat) : State :=
  if s.flt.repairs.length < 256 then { s with flt := { s.flt with repairs := s.flt.repairs ++ [(unit, spare)] } } else s

/-- SPARE_IN (spec/15 R378): the replaced source, the spare's, the words lost. -/
def spareIn (s : State) (unit spare lost : Nat) : State :=
  deviceEvent s 0x0051 .ok (leBytes 2 unit ++ leBytes 2 spare ++ leBytes 4 lost)

/-- The jobs in a turret's buffers, marked as started before. -/
def heldJobs (t : Turret) : List TileJob :=
  ((t.buf0.toList ++ t.buf1.toList).map fun b => { b.job with again := true })

/-- A job is a slice of a weight-gradient op. -/
def jobDeferred (s : State) (j : TileJob) : Bool :=
  match opById s j.op with
  | some o => match gemmBody o with
    | some (k, b) => (gemmOf s o k b).grad
    | none => false
  | none => false

/-- Jobs returned to the heads of a belfry's queues (spec/08 R193): the deferred queue holds its 4,096, what they push out is
placed again first, and a queue that they fill drains (R190, R191). -/
def giveBack (s : State) (b : Nat) (js : List TileJob) : State :=
  let x := belfry s b
  let q := js.filter (jobDeferred s) ++ x.deferred
  let full := decide (q.length ≥ wgqSize)
  belfryPut s b { x with
    deferred := q.take wgqSize, unplaced := q.drop wgqSize ++ x.unplaced,
    immediate := (js.filter fun j => !jobDeferred s j) ++ x.immediate,
    peak := max x.peak (min wgqSize q.length), fullSeen := x.fullSeen || full, draining := x.draining || full }

/-- A logical turret's unfinished work goes back to a belfry's queues. -/
def emptyTurret (s : State) (t b : Nat) : State := turretPut (giveBack s b (heldJobs (turret s t))) t {}

/-- A logical turret's scratchpad contents are lost (spec/11 R283). -/
def losePad (s : State) (t : Nat) : State :=
  let lo := padBase + t * 0x100000
  { s with mem := s.mem.lose lo (lo + padBytes) (.free s.draws), draws := s.draws + 1 }

/-- TURRET_FENCE (spec/15 R380): the belfry's spare slot takes the logical number, or past the stock it is vacated. -/
def fenceTurret (s : State) (slot : Nat) : State :=
  let b := slot / 17
  let p := slot % 17
  let x := belfry s b
  if x.fencedSlots.contains p then s
  else
    let spareFree := !x.fencedSlots.contains 16 && x.spareFor.isNone && p != 16
    let src := sourceOf 1 slot
    let x' := { x with fencedSlots := x.fencedSlots ++ [p], powered := x.powered &&& (2 ^ 17 - 1 - 2 ^ p) }
    match servesAs x p with
    | none => repairAdd (belfryPut s b x') src 0xFFFF
    | some i =>
      let t := 16 * b + i
      if spareFree then
        let spare := sourceOf 1 (17 * b + 16)
        let s := emptyTurret (belfryPut s b { x' with spareFor := some i }) t b
        spareIn (repairAdd (losePad s t) src spare) src spare 0
      else
        let s := emptyTurret (belfryPut s b { x' with
          vacated := x'.vacated ++ [i], spareFor := if p = 16 then none else x'.spareFor }) t b
        let s := spareIn (repairAdd (losePad s t) src 0xFFFF) src 0xFFFF 0
        if (belfry s b).vacated.length ≥ 16 then raiseFault s 1 (0x200 + b) 0x2A src else s

/-- BELFRY_FENCE (spec/15 R381): the next unfenced belfry takes over its queues and its turrets' unfinished work; with no
unfenced belfry left the device is out of spares. -/
def fenceBelfry (s : State) (b unit : Nat) : State :=
  let x := belfry s b
  if x.fenced then s
  else
    let jobs := (List.range 16).flatMap fun i => heldJobs (turret s (16 * b + i))
    let s := (List.range 16).foldl (fun s i => turretPut s (16 * b + i) {}) s
    let s := belfryPut s b { x with fenced := true, deferred := [], immediate := [], unplaced := [], draining := false }
    let c := standIn s b
    if (belfry s c).fenced then raiseFault s 1 unit 0x2A (sourceOf 1 unit)
    else
      let y := belfry s c
      let later := jobs.filter (jobDeferred s)
      let now := jobs.filter fun j => !jobDeferred s j
      belfryPut s c (wgqPlace { y with immediate := y.immediate ++ now ++ x.immediate,
                                       unplaced := y.unplaced ++ later ++ x.deferred ++ x.unplaced })

/-- LANTERN_BANK_REPLACE (spec/11 R289, spec/15 Table 15.5): the lowest free spare takes the bank and its copy starts;
a failing spare is replaced for the bank it serves. -/
def replaceBank (s : State) (unit : Nat) : State :=
  let die := unit / 0x100
  let k := unit % 0x100
  let bank := if k < 0x40 then some k else spareBank s die (k - 0x40)
  match bank with
  | none => s
  | some b =>
    if k < 0x40 ∧ (natsWhere 4 fun i => spareBank s die i == some b).length > 0 then s
    else match firstNat 4 fun i => !(s.mif.spares.any fun x => x.1 == die && x.2.1 == i) with
      | none => raiseFault s 2 unit 0x2A (sourceOf 2 unit)
      | some j =>
        let spares := s.mif.spares.map fun x => if x.1 == die && x.2.2 == some b then (x.1, x.2.1, none) else x
        let s := { s with mif := { s.mif with
          spares := spares ++ [(die, j, some b)], copying := s.mif.copying ++ [(die, b, j)] } }
        repairAdd s (sourceOf 2 unit) (sourceOf 2 (die * 0x100 + 0x40 + j))

/-- A link's C2: EN is cleared, and it stays DISABLED; a quarantined one once CLEAR_Q has released it, as nothing else does
(spec/12 R312; log entry 35). -/
def linkOff (s : State) (l : Nat) : State :=
  let s := regSet s (galBase (galleryOf l) + 0x1000 + 16 * (l % 48)) 31 31 0
  if (link s l).st == .quarantined then s else linkTo s l .disabled

/-- The action of a C2 (spec/15 Table 15.5). -/
def spareAction (s : State) (r : FaultRec) : State :=
  if r.unit ≥ 0x1F00 then s
  else match r.die with
    | 1 => if r.unit < 0x110 then fenceTurret s r.unit
      else if 0x200 ≤ r.unit ∧ r.unit < 0x510 ∧ r.unit % 0x100 < 16 then fenceBelfry s (r.unit % 0x100) r.unit
      else s
    | 2 => if r.unit % 0x100 < 0x44 then replaceBank s r.unit else s
    | 4 => if r.unit < 0x60 then linkOff s r.unit else s
    | _ => s

/-! ### Stopping (spec/14 R367, spec/15 R376) -/

/-- The Dome stops: belfry PLLs off, nothing starts any more. -/
def stopDome (s : State) : State :=
  let s := (List.range 16).foldl (fun s b => belfryPut s b { belfry s b with pllOn := false, powered := 0 }) s
  { s with dome := { s.dome with stopped := true } }

/-- Memory dies stop: 1 to 4 Lanterns 0 to 3, 5 and 6 Drums 0 and 1. -/
def stopMemory (s : State) (ds : List Nat) : State :=
  { s with mif := { s.mif with stoppedDies := (s.mif.stoppedDies ++ ds).eraseDups } }

/-- A Gallery stops: its links go DOWN. -/
def stopGallery (s : State) (g : Nat) : State :=
  let s := (List.range 48).foldl (fun s i =>
    if (link s (48 * g + i)).st == .disabled then s else linkTo s (48 * g + i) .down) s
  { s with fab := { s.fab with stopped0 := s.fab.stopped0 || g == 0, stopped1 := s.fab.stopped1 || g == 1 } }

/-- A C4's source takes the Galleries with it: a Gallery, KREF or the board's VDD_SERDES (spec/15 Table 15.4). -/
def stopsGalleries (die unit : Nat) : Bool := die == 4 || (die == 0 && unit == 4) || (die == 5 && unit == 3)

/-- C3: FATAL, every op in flight but STEP_COMMIT ends ABORTED, HALTED (spec/15 R376, R377). -/
def jobFatal (s : State) : State := haltJob (setHealth s 0)

/-- C4 (spec/15 Table 15.4). -/
def deviceFatal (s : State) (die unit : Nat) : State :=
  let s := jobFatal s
  let s := { s with flt := { s.flt with fatal := if s.flt.fatal.contains (die, unit) then s.flt.fatal
                                                  else s.flt.fatal ++ [(die, unit)] } }
  let s := stopMemory (stopDome s) [1, 2, 3, 4, 5, 6]
  if stopsGalleries die unit then stopGallery (stopGallery s 0) 1 else s

/-- C5: sealed; every die but the always-on domain stops and every link is DOWN; the Finial gives the UART to Wamos
(spec/15 Table 15.4, spec/16 R406). -/
def sealDevice (s : State) : State :=
  let s := { s with ops := s.ops.map fun o => if o.isDone then o else { o with phase := .done .aborted, reqs := [], owed := [] } }
  let s := stopMemory (stopDome s) [1, 2, 3, 4, 5, 6]
  let s := stopGallery (stopGallery s 0) 1
  let s := regSet (regSet s 0x20 31 31 1) 0x20 30 30 0
  { s with flt := { s.flt with sealed := true } }

/-! ### Delivery -/

/-- The fault console's line (spec/16 R406). -/
def consoleLine (s : State) (r : FaultRec) (cls : Nat) : State :=
  if regBits s 0x20 30 30 = 1 then
    let w := recordWords r
    sayLine s ("FLT " ++ String.ofList (hexText 16 w.1) ++ " " ++ String.ofList (hexText 16 w.2) ++ " C" ++
      String.ofList [hexDigit cls])
  else s

/-- A record logged at a class (spec/15 R376, R379, spec/17 R427). -/
def logRecord (s : State) (r : FaultRec) (cls : Nat) : State :=
  let s := regCount s (0x200020 + 4 * cls) 1
  let s := { s with flt := { s.flt with
    log := ((r, cls) :: s.flt.log).take 4096, written := s.flt.written + 1,
    thermTrip := s.flt.thermTrip || r.kind == 0x21 } }
  if cls ≥ 2 then consoleLine { s with flt := { s.flt with alert := true, newest := some r } } r cls else s

/-- FAULT (spec/15 R378). -/
def faultEvent (s : State) (r : FaultRec) (cls : Nat) (up : Bool) : State :=
  if decide (cls ≥ 2) || up || regBits s (0x200100 + 4 * r.kind) 15 15 == 1 then
    deviceEvent s 0x0050 (if cls ≤ 2 then .ok else .aborted) (recordBytes r)
  else s

/-- What a class does (spec/15 Table 15.4). -/
def classAction (s : State) (r : FaultRec) (cls : Nat) : State :=
  match cls with
  | 2 => spareAction s r
  | 3 => jobFatal s
  | 4 => deviceFatal s r.die r.unit
  | 5 => sealDevice s
  | _ => s

/-- A record reaches the collector (spec/15 R373 to R378). -/
def collect1 (s : State) (r : FaultRec) : State :=
  let (cls0, up, bs) := bucketCount s r
  let s := match bs with
    | some l => { s with flt := { s.flt with buckets := l } }
    | none => regCount s 0x20000C 1
  let cls := loggedClass s r cls0
  classAction (faultEvent (logRecord s r cls) r cls up) r cls

/-- Records in the order a die offers them: ascending UNIT, then KIND (spec/15 R371). -/
def offerBefore (a b : FaultRec) : Bool := decide (a.unit < b.unit) || (a.unit == b.unit && decide (a.kind ≤ b.kind))

/-- A die delivers its next record. -/
def deliver (s : State) (die : Nat) : State :=
  match (s.flt.undelivered.filter fun r => r.die == die).sortBy offerBefore with
  | [] => s
  | r :: _ => collect1 { s with flt := { s.flt with undelivered := s.flt.undelivered.erase r } } r

/-- FAULT_RECORD (spec/15 R371). -/
def execFaultRecord (die : Fin 6) (s : State) : Host.Outcome State Fault Refusal := .next (settle (deliver s die.val))

/-- The level of a pair falls by 1, once its W ÷ N has passed since it fell last (spec/15 R373). -/
def bucketLeak (s : State) (src kind : Nat) : State :=
  let leak := fun (b : Bucket) =>
    if sourceOf b.die b.unit == src && b.kind == kind && b.every != 0 && decide (mtime s ≥ b.leakAt + b.every) then
      { b with level := b.level - 1, leakAt := b.leakAt + b.every }
    else b
  { s with flt := { s.flt with buckets := s.flt.buckets.map leak } }

/-- BUCKET_LEAK (spec/15 R373). -/
def execBucketLeak (src kind : Nat) (s : State) : Host.Outcome State Fault Refusal := .next (bucketLeak s src kind)

/-! ### Occurrences that units report -/

/-- PLL_LOCK_LOST (spec/15 R372). -/
def execPllLockLost (die unit : Nat) (s : State) : Host.Outcome State Fault Refusal := .next (raiseFault s die unit 0x0A 0)

/-- UNIT_SELFCHECK_FAIL (spec/15 R372): SELFCHECK, or COLLECTOR of the collector itself. -/
def execUnitSelfcheckFail (die unit : Nat) (s : State) : Host.Outcome State Fault Refusal :=
  .next (raiseFault s die unit (if die = 0 ∧ unit = 0 then 0x48 else 0x08) 0)

/-- PCIE_LINK_ERROR (spec/15 R372): PCIE_CORR, or PCIE_FATAL. -/
def execPcieLinkError (fatal : Bool) (s : State) : Host.Outcome State Fault Refusal :=
  .next (raiseFault s 0 1 (if fatal then 0x31 else 0x30) 0)

end Sys2Proof.Machine
end

