-- ==== Sys2Proof/Machine/Reset.lean ====
section
/-! DEFINITION. The four reset levels (spec/16 R389, R390, Table 16.1) and power-down (spec/17 R423). -/

namespace Sys2Proof.Machine

/-! ### What a reset does to each part -/

/-- A range loses its contents (log entry 4). -/
def loseAt (s : State) (lo hi : Nat) : State :=
  { s with mem := s.mem.lose lo hi (.free s.draws), draws := s.draws + 1 }

/-- The Drums', the Lanterns' and the turrets' memories after their reset; the scale-history partition is empty
(spec/09 R241). -/
def loseDies (s : State) : State :=
  let s := loseAt (loseAt (loseAt s 0 lpBytes) lanBase (lanBase + lanBytes)) padBase (padBase + 0x10000000)
  let lo := lanBase + partBase s 3 * 2 ^ 20
  { s with mem := s.mem.lose lo (lo + partSize s 3 * 2 ^ 20) .zero }

/-- The Dome after a reset: only its fences stay (spec/15 R380, R381). -/
def freshDome (s : State) (stopped : Bool) : Dome :=
  let keep := fun (t : Tab Belfry) b =>
    let x := belfry s b
    tabPut (fun _ => {}) t b { fenced := x.fenced, fencedSlots := x.fencedSlots, spareFor := x.spareFor, vacated := x.vacated }
  { belfries := (List.range 16).foldl keep [], stopped := stopped }

/-- The memory interfaces after a reset: the spare-bank mappings stay, and copies to them go on (spec/11 R289). -/
def freshMif (s : State) (stopped : List Nat) : MemIf :=
  { spares := s.mif.spares, copying := s.mif.copying, stoppedDies := stopped, bar2Answers := s.mif.bar2Answers }

/-- A link after a reset of its Gallery. -/
def freshLink (x : Link) : Link := { media := x.media, sent := x.sent }

/-- The fabric after a reset of the Galleries. -/
def freshFabric (s : State) : Fabric :=
  let put := fun (t : Tab Link) l => tabPut (fun _ => {}) t l (freshLink (link s l))
  { links := (List.range 96).foldl put [], sent := s.fab.sent, nextTag := s.fab.nextTag }

/-- The host interface after a reset. -/
def freshHif (s : State) : HostIf := { nextTag := s.hif.nextTag, doneNext := s.hif.doneNext, msix := s.hif.msix }

/-- Only the registers of these offsets keep what was written. -/
def keepRegs (s : State) (f : Nat → Bool) : State := { s with regs := s.regs.filter fun r => f r.1 }

/-- The counters of an interrupted anti-rollback burn stand at their old or their new values (spec/16 R395). -/
def burnCut (s : State) : State :=
  if s.fin.arbBurn then
    let (a, s) := drawFree s
    let (b, s) := drawFree s
    let f := s.fin
    let raise := fun (old new pick : Nat) => if pick % 2 = 0 then old else max old (min new 64)
    { s with fin := { f with arbBurn := false, finCtr := raise f.finCtr f.finSvn a, blfCtr := raise f.blfCtr f.blfSvn b } }
  else s

/-- An anti-rollback burn ends: each counter has 64 fuses (spec/16 R395). -/
def arbDone (s : State) : State :=
  let f := s.fin
  if f.arbBurn then
    { s with fin := { f with arbBurn := false, finCtr := max f.finCtr (min f.finSvn 64), blfCtr := max f.blfCtr (min f.blfSvn 64) } }
  else s

/-- A burned lifecycle takes effect (spec/16 R400); one whose burn power loss cut short may or may not have moved. A device that is
RETURNED has no keys. -/
def lcTake (s : State) : State :=
  match s.fin.lcBurn with
  | some t =>
    let moved := fun (s : State) (lc : Nat) =>
      { s with fin := { s.fin with lcBurn := none, lc := lc, keysBlown := s.fin.keysBlown || lc == 3 } }
    if s.wamos.lcWaits then
      let (a, s) := drawFree s
      { moved s (if a % 2 = 0 then s.fin.lc else t) with wamos := { s.wamos with lcWaits := false } }
    else moved s t
  | none => s

/-! ### Host reset -/

/-- Every op in flight ends ABORTED and is gone without a record; HIF, rings, queues and MSI-X are reset. -/
def hostLevel (s : State) : State :=
  let s := keepRegs { s with hif := freshHif s } fun o => decide (o < 0x100000) || decide (0x200000 ≤ o)
  let s := s.ops.foldl opAbandon s
  let s := s.ops.foldl (fun s o => (((opById s o.id).map (completeOp s)).getD s)) s
  freeComparators { s with ops := [], hif := freshHif s }

/-- HOST_RESET (spec/16 R389): PERST_N is asserted. -/
def hostReset (s : State) : State :=
  let s := { s with fin := { s.fin with perstLow := true, perstHeld := false } }
  if s.flt.sealed then s
  else
    let open_ := jobId s ≠ 0
    let s := hostLevel s
    if open_ then raiseFault s 0 1 0x31 0 else s

/-- HOST_RESET. -/
def execHostReset (s : State) : Host.Outcome State Fault Refusal := .next (hostReset s)

/-! ### Compute reset -/

/-- A C4 that a compute reset clears: from the Dome, a Lantern, a Drum, VDD_CORE, VDD_SRAM or VDDQ_LP. -/
def computeClears (die unit : Nat) : Bool := (decide (1 ≤ die) && decide (die ≤ 3)) || (die == 5 && decide (unit < 3))

/-- A compute reset, the host level included (spec/16 R389). -/
def computeReset (s : State) : State :=
  if s.flt.sealed then s
  else
    let left := s.flt.fatal.filter fun f => !computeClears f.1 f.2
    let s := hostLevel s
    let dome := freshDome s (s.dome.stopped && !left.isEmpty)
    let mif := freshMif s (if left.isEmpty then [] else s.mif.stoppedDies)
    let s := { s with dome := dome, mif := mif }
    let s := { s with flt := { s.flt with
      fatal := left, undelivered := s.flt.undelivered.filter fun r => !(decide (1 ≤ r.die) && decide (r.die ≤ 3)),
      thermTrip := s.flt.thermTrip && left.any fun f => decide (f.2 ≥ 0x1F00) } }
    let s := keepRegs s fun o => decide (o < 0x400000) || (decide (0x500000 ≤ o) && decide (o < 0xC00000))
    let s := selfWrite s (BitVec.ofNat 32 (ownChip s * 65536))
    let s := loseDies s
    settle { s with fin := { s.fin with
      stage := min s.fin.stage 2, ready := false, memoryDone := false, domeDone := false, belfryImage := false } }

/-! ### Straps (spec/16 R390) -/

/-- The strap values that may start up in a lifecycle: reserved ones never, tests not in DEPLOYED. -/
def strapOk (strap lc : Nat) : Bool := decide (strap < 2) || (decide (strap < 4) && lc != 2)

/-- A boot failure is logged at once: the Finial stops there (spec/16 R390, R394). -/
def bootFail (s : State) (kind addr : Nat) : State :=
  collect1 s { die := 0, unit := 2, kind := kind, count := 1, time := mtime s % 2 ^ 32, addr := addr }

/-- Stage 0 reads the latched straps and the lifecycle: a pair that is not allowed stops boot there. -/
def strapCheck (s : State) : State := if strapOk s.fin.strap s.fin.lc then s else bootFail s 0x40 0

/-! ### Chip reset -/

/-- A chip reset (spec/16 R389; log entry 42: the always-on domain is the Finial with its keep-time counter and the
Chime). -/
def chipReset (s0 : State) : State :=
  if s0.flt.sealed then s0
  else
    let s := lcTake (arbDone s0)
    let s := hostLevel s
    let s := keepRegs s fun o => decide (o < 0x100000) || (decide (0x200000 ≤ o) && decide (o < 0x400000))
    let s := { s with
      dome := freshDome s false, mif := freshMif s [], fab := freshFabric s, time := { keep := s.time.keep, runs := s.time.runs } }
    let s := { s with flt := { s.flt with
      buckets := [], halted := false, fatal := [], thermTrip := false,
      undelivered := s.flt.undelivered.filter fun r => r.die == 0 || r.die == 5 } }
    let s := { s with wamos := { s.wamos with challenge := none, session := none } }
    let s := periodRestart (loseDies s)
    strapCheck { s with fin := { s.fin with
      stage := 0, ready := false, slotB := false, failA := false, failB := false, finSvn := 0, blfSvn := 0,
      belfryImage := false, memoryDone := false, domeDone := false, m2 := List.replicate 48 0, attBusy := false, krefLostBoot := false,
      railsStopped := false, avsPending := false, pinsTaken := false } }

/-- CHIP_RESET (spec/16 R389): SYS_RST_N. -/
def execChipReset (s : State) : Host.Outcome State Fault Refusal := .next (chipReset s)

/-! ### Power -/

/-- Everything but fuses, flash and the persistent store is lost; what the model alone holds goes on. -/
def powerLost (s0 : State) : State :=
  let s := lcTake (burnCut s0)
  let f := s.fin
  let fresh : State :=
    { pending := s.pending, draws := s.draws, host := s.host, flt := { repairs := s.flt.repairs },
      fin := { lc := f.lc, serial := f.serial, stepping := f.stepping, finCtr := f.finCtr, blfCtr := f.blfCtr, cert := f.cert,
               keysBlown := f.keysBlown, flash := f.flash } }
  loseDies fresh

/-- A power-on reset with these straps. -/
def powerOn (s : State) (straps : Nat) : State :=
  let s := powerLost s
  strapCheck { s with fin := { s.fin with strap := straps } }

/-- POWER_ON_RESET (spec/16 R389, R390). -/
def execPowerOnReset (straps : Fin 8) (s : State) : Host.Outcome State Fault Refusal := .next (powerOn s straps.val)

/-- AON_PWROK falls: every enable falls in turn, and with the power every volatile state is lost (spec/17 R423). -/
def powerDown (s : State) : State :=
  let s := powerLost s
  { s with fin := { s.fin with aonPwrok := false } }

/-- POWER_DOWN_SEQUENCE (spec/17 R423). -/
def execPowerDownSequence (s : State) : Host.Outcome State Fault Refusal := .next (powerDown s)

end Sys2Proof.Machine
end

