-- ==== Sys2Proof/Machine/RegWrite.lean ====
section
/-! DEFINITION. Writes of BAR0 registers (spec/00 R9, spec/13 R324, spec/16 R402, R409 and each chapter's register table):
which values are taken, what a write does besides, and what an ignored write raises (log entry 43). -/

namespace Sys2Proof.Machine

/-- A write taken as its access says where `ok` holds, else ignored with CONFIG_IGNORED. -/
def writeIf (ok : Bool) (s : State) (off : Nat) (v : Word) : State := if ok then regAccept s off v else configIgnored s off v

/-- A field of a stored register put back to what it was. -/
def keepField (s old : State) (off hi lo : Nat) : State := regSet s off hi lo (regBits old off hi lo)

/-! ### FIN (spec/16 Table 16.9) -/

/-- Words of a run of registers as bytes. -/
def regBytes (s : State) (off n : Nat) : List Byte := (List.range n).flatMap fun i => leBytes 4 (regGet s (off + 4 * i)).toNat

/-- FIN_ARB_COMMIT.GO (spec/16 R395). -/
def arbGo (s : State) (off : Nat) (v : Word) : State :=
  if bits v 0 0 = 0 then s
  else if s.fin.ready ∧ s.fin.lc ≠ 0 then { s with fin := { s.fin with arbBurn := true } }
  else configIgnored s off v

/-- FIN_RESET (spec/16 R389, Table 16.9). -/
def resetWrite (s : State) (off : Nat) (v : Word) : State :=
  if bits v 31 16 ≠ 0xA5C3 then configIgnored s off v
  else match bits v 1 0 with
    | 1 => chipReset s
    | 2 => computeReset s
    | _ => configIgnored s off v

/-- FIN_UART (spec/16 R406): a claim of pins that the other side holds is ignored; a release by Wamos discards its line. -/
def uartWrite (s : State) (off : Nat) (v : Word) : State :=
  let mon := regBits s off 31 31 == 1
  let con := regBits s off 30 30 == 1
  let monNew := bits v 31 31 == 1
  let conNew := bits v 30 30 == 1
  let baud := bits v 21 0
  if (conNew && mon) || (monNew && con) || (conNew && monNew) then configIgnored s off v (held := true)
  else if baud < 9600 ∨ 3000000 < baud then configIgnored s off v
  else
    let s := regAccept s off v
    if mon && !monNew then { s with wamos := { s.wamos with line := [] } } else s

/-- FIN_GPIOp (spec/16 R407). -/
def gpioWrite (s : State) (off : Nat) (v : Word) : State :=
  let new := bits v 3 0
  let old := regBits s off 3 0
  let other := (natsWhere 8 fun p => 0x40 + 4 * p != off && regBits s (0x40 + 4 * p) 3 0 == new).length
  if new ≥ 7 then configIgnored s off v
  else if (new ≠ 0 ∧ old ≠ 0 ∧ new ≠ old) ∨ (3 ≤ new ∧ other ≠ 0) then configIgnored s off v (held := true)
  else regAccept s off v

/-- FIN_KTCMPc_CFG (spec/16 R405, R408): a claim, or a release; one lent to HIF is released once its own timers have fired
(log entry 44). Comparator 0 is the Chime's. -/
def comparatorWrite (s : State) (c : Nat) (off : Nat) (v : Word) : State :=
  let en := regBits s off 31 31 == 1
  let owner := bits v 2 0
  if c = 0 then configIgnored s off v (held := bits v 31 31 == 1)
  else if bits v 31 31 = 1 then
    if en then configIgnored s off v (held := true)
    else if owner = 0 ∨ owner ≥ 6 then configIgnored s off v
    else
      let s := regAccept s off v
      let cmps := tabPut (fun _ => 0) s.fin.cmpCount c 0
      settle { s with fin := { s.fin with cmpCount := cmps, cmpReported := s.fin.cmpReported.filter (· != c) } }
  else if en && regBits s off 2 0 == 1 && decide (comparatorTimers s c ≠ 0) then
    { s with fin := { s.fin with cmpReleasing := (s.fin.cmpReleasing ++ [c]).eraseDups } }
  else regAccept s off v

/-- The report of spec/16 Table 16.4 but for its signature. -/
def reportBody (s : State) : List Byte :=
  let f := s.fin
  leBytes 2 1 ++ leBytes 1 f.lc ++ leBytes 1 f.strap ++ leBytes 2 (ownChip s) ++ leBytes 2 (jobId s) ++ leBytes 8 (mtime s) ++
    regBytes s 0x200 8 ++ f.m0 ++ f.m1 ++ f.m2 ++ leBytes 4 (finSvnWord s) ++
    leBytes 1 (b2n f.slotB + 2 * b2n f.failA + 4 * b2n s.chime.guard) ++ List.replicate 59 0

/-- FIN_ATT_CTL (spec/16 R397, R398): GO takes the measurements before EXTEND. -/
def attestWrite (s : State) (off : Nat) (v : Word) : State :=
  let go := bits v 0 0 == 1
  let s := if !go then s
    else if s.fin.attBusy || s.fin.lc == 3 then configIgnored s off v
    else { s with fin := { s.fin with attBusy := true, attDone := false, attInputs := reportBody s } }
  if bits v 1 1 = 1 then
    { s with fin := { s.fin with m2 := sha384 (s.fin.m2 ++ regBytes s 0x240 12) } }
  else s

/-- A FIN register without a field that takes writes (spec/16 Table 16.9). -/
def finReadOnly (off : Nat) : Bool :=
  decide (off < 0x18) || (decide (0x300 ≤ off) && decide (off < 0x3C0) && decide ((off - 0x300) % 64 < 48)) ||
    (decide (0x400 ≤ off) && decide (off < 0x560)) || off == 0x600 || (decide (0x1000 ≤ off) && decide (off < 0x1400))

/-- A write of the FIN block; one that Table 16.9 does not accept raises CONFIG_IGNORED (spec/16 R409). -/
def finWrite (s : State) (off : Nat) (v : Word) : State :=
  if off = 0x18 then arbGo s off v
  else if off = 0x1C then resetWrite s off v
  else if off = 0x20 then uartWrite s off v
  else if 0x40 ≤ off ∧ off < 0x60 then gpioWrite s off v
  else if 0x80 ≤ off ∧ off < 0x180 ∧ off % 16 = 0 then comparatorWrite s ((off - 0x80) / 16) off v
  else if off = 0x220 then attestWrite s off v
  else if finReadOnly off ∨ (0x80 ≤ off ∧ off < 0x90) then configIgnored s off v
  else regAccept s off v

/-! ### HIF (spec/13 Table 13.9, spec/11 Table 11.5) -/

/-- HIF_RINGr_CFG (spec/13 R329). -/
def ringCfg (s : State) (r : Nat) (off : Nat) (v : Word) : State :=
  let size := bits v 23 19
  let quota := bits v 14 0
  let en := regBits s off 31 31 == 1
  let enNew := bits v 31 31 == 1
  let busy := en || decide (ringInFlight s r ≠ 0)
  if size < 6 ∨ 16 < size ∨ quota = 0 ∨ 16384 < quota ∨ (busy ∧ size ≠ regBits s off 23 19) then configIgnored s off v
  else
    let x := ring s r
    let x := if !en && enNew then { x with fetched := 0, tail := 0 } else x
    let x := if enNew then x else { x with stopped := false }
    settle (ringPut (regAccept s off v) r x)

/-- HIF_EQq_CFG (spec/13 R352). -/
def queueCfg (s : State) (q : Nat) (off : Nat) (v : Word) : State :=
  let size := bits v 20 16
  if size < 6 ∨ 16 < size then configIgnored s off v
  else
    let e := eqGet s q
    let rise := regBits s off 31 31 == 0 && bits v 31 31 == 1
    eqPut (regAccept s off v) q (if rise then { e with written := 0, pend := 0 } else e)

/-- A word of the MSI-X table: an unmasked vector that pends is sent (spec/13 R350). -/
def msixWrite (s : State) (off : Nat) (v : Word) : State :=
  let n := (off - 0x108000) / 16
  let s := regAccept s off v
  if off % 16 = 12 ∧ bits v 0 0 = 0 ∧ s.hif.pba.contains n then
    { s with hif := { s.hif with pba := s.hif.pba.filter (· != n), msix := s.hif.msix ++ [n] } }
  else s

/-- The positions that the aperture takes (spec/11 R290). -/
def apertureOk (v : Word) : Bool := decide (bits v 11 0 ≤ 9) || bits v 11 0 == 0x10 || bits v 11 0 == 0x20

/-- A HIF register without a field that takes writes (spec/13 Table 13.9). -/
def hifReadOnly (off : Nat) : Bool :=
  off == 0x10001C || (decide (0x101000 ≤ off) && decide (off < 0x103000) && (off % 32 == 0x10 || off % 32 == 0x14)) ||
    (decide (0x103000 ≤ off) && decide (off < 0x103800) && off % 32 == 0x10) || off == 0x109000 || off == 0x109004

/-- A write of the HIF block; one that Table 13.9 does not accept raises CONFIG_IGNORED (spec/13 R353). -/
def hifWrite (s : State) (off : Nat) (v : Word) : State :=
  if hifReadOnly off then configIgnored s off v
  else if off = 0x100100 then writeIf (apertureOk v) s off v
  else if 0x101000 ≤ off ∧ off < 0x103000 then
    let r := (off - 0x101000) / 32
    let cfg := 0x101008 + 32 * r
    if off % 32 = 8 then ringCfg s r off v
    else if off % 32 < 8 then writeIf (regBits s cfg 31 31 == 0 && ringInFlight s r == 0) s off v
    else regAccept s off v
  else if 0x103000 ≤ off ∧ off < 0x103800 then
    let q := (off - 0x103000) / 32
    if off % 32 = 8 then queueCfg s q off v
    else if off % 32 < 8 then writeIf (!eqEnabled s q) s off v
    else regAccept s off v
  else if 0x108000 ≤ off ∧ off < 0x108400 then msixWrite s off v
  else regAccept s off v

/-! ### FLT, CHM, OCU -/

/-- FLT_CTRL (spec/15 R377, Table 15.9). -/
def fltCtrl (s : State) (v : Word) : State :=
  let s := if bits v 1 1 = 1 ∧ !s.flt.sealed then { s with flt := { s.flt with log := [] } } else s
  if bits v 0 0 = 1 ∧ s.flt.fatal.isEmpty then settle { s with flt := { s.flt with halted := false } } else s

/-- A write of the FLT block. -/
def fltWrite (s : State) (off : Nat) (v : Word) : State :=
  if off = 0x200004 then fltCtrl s v
  else if 0x200100 ≤ off ∧ off < 0x200500 then writeIf (faultKinds.contains ((off - 0x200100) / 4)) s off v
  else regAccept s off v

/-- A write of the CHM block (spec/14 R368). -/
def chmWrite (s : State) (off : Nat) (v : Word) : State :=
  if off = 0x300008 then writeIf (decide (bits v 7 0 ≤ 100)) s off v
  else if off = 0x30000C then writeIf (decide (200 ≤ bits v 9 0) && decide (bits v 9 0 ≤ 760)) s off v
  else if 0x300200 ≤ off ∧ off < 0x3003A0 then writeIf (decide (1 ≤ bits v 8 0) && decide (bits v 8 0 ≤ 256)) s off v
  else regAccept s off v

/-- The telemetry area for a base in 4 KiB units and a count of layers lies in the general partition (spec/10 R271). -/
def telFits (s : State) (base layers : Nat) : Bool := inPart s 5 (base * 4096) (2080 * layers + 128)

/-- OCU_TEL_CFG (spec/10 R271): the LAYERS field by itself may be ignored. -/
def telCfg (s : State) (off : Nat) (v : Word) : State :=
  let layers := bits v 13 0
  if layers > 8192 then ocuConfig s off
  else if layers ≠ telLayers s ∧ (jobId s ≠ 0 ∨ !telFits s (regBits s 0x400000 30 12) layers) then
    ocuConfig (keepField (regAccept s off v) s off 13 0) off
  else regAccept s off v

/-- A write of the OCU block (spec/10 R271). -/
def ocuWrite (s : State) (off : Nat) (v : Word) : State :=
  let checked := fun (ok : Bool) => if ok then regAccept s off v else ocuConfig s off
  if off = 0x400000 then checked (jobId s == 0 && telFits s (bits v 30 12) (telLayers s))
  else if off = 0x400004 then telCfg s off v
  else if off = 0x40000C then checked (bits v 30 12 == 0 || inPart s 5 (bits v 30 12 * 4096) (2 ^ 21))
  else if off = 0x400020 then checked (inPart s 5 (bits v 30 6 * 64) 64)
  else regAccept s off v

/-! ### GAL (spec/12 Table 12.11) -/

/-- GAL_SELF: a spire's JOB stays 0 (spec/01 R12). -/
def selfRegister (s : State) (v : Word) : State :=
  settle (selfWrite s (if spireMode s then setBits v 15 0 0 else v))

/-- A Gallery is stopped: its links do not train. -/
def galleryStopped (s : State) (l : Nat) : Bool := if galleryOf l = 0 then s.fab.stopped0 else s.fab.stopped1

/-- GAL_LINK_CTL's EN (spec/12 Table 12.8). -/
def linkEnable (s : State) (l : Nat) (en : Bool) : State :=
  if (link s l).st == .quarantined then s
  else if !en then (if (link s l).st == .disabled then s else linkTo s l .disabled)
  else if (link s l).st == .disabled then linkTo s l .down
  else s

/-- GAL_LINK_CTL's CLEAR_Q releases a quarantined link, and nothing else does: it trains again, where EN lets it
(spec/12 R312). -/
def linkClearQ (s : State) (l : Nat) (en : Bool) : State :=
  if (link s l).st == .quarantined && !galleryStopped s l then linkTo s l (if en then .training else .disabled) else s

/-- GAL_LINK_CTL's RETRAIN: an UP link trains (spec/12 Table 12.8). -/
def linkRetrain (s : State) (l : Nat) : State := if (link s l).st == .up then linkTrain s l else s

/-- GAL_LINK_CTLl (spec/12 Table 12.11). -/
def linkCtl (s : State) (off : Nat) (v : Word) : State :=
  let l := galLink off
  let s := linkEnable (regAccept s off v) l (bits v 31 31 == 1)
  let s := if bits v 30 30 = 1 then linkClearQ s l (bits v 31 31 == 1) else s
  let s := if bits v 29 29 = 1 then linkRetrain s l else s
  settle s

/-- SPLIT is taken only while every link is DOWN or DISABLED (spec/12 R308); its event is CONFIG_IGNORED. -/
def splitWrite (s : State) (off : Nat) (v : Word) : State :=
  let still := (List.range 96).all fun l => (link s l).st == .down || (link s l).st == .disabled
  writeIf (still && bits v 1 0 != 3) s off v

/-- A remap entry: a change clears the flow contexts with its chip, whose unacknowledged packets are sent again to the new
position (spec/12 R302, R309, Table 12.12). -/
def remapWrite (s : State) (off : Nat) (v : Word) : State :=
  let chip := (off - 0x820000) / 4
  let moved := regGet s off ≠ v
  let s := regPut s off v
  if moved then settle (retryHeld (flowsRestart s chip)) else s

/-- A write of a GAL block (spec/12 R321): GAL1's copies of the shared registers ignore it. -/
def galWrite (s : State) (off : Nat) (v : Word) : State :=
  if galShared off ≠ off then s
  else if off = 0x800000 then selfRegister s v
  else if off = 0x800010 then (if bits v 7 0 ≤ 50 then regAccept s off v else s)
  else if off = 0x800018 then splitWrite s off v
  else if off = 0x800024 then retryHeld (regAccept s off v)
  else if (0x801000 ≤ off ∧ off < 0x801300 ∨ 0xA01000 ≤ off ∧ off < 0xA01300) ∧ off % 16 = 0 then linkCtl s off v
  else if 0x820000 ≤ off ∧ off < 0x840000 then remapWrite s off v
  else regAccept s off v

/-! ### DRM and LAN (spec/11) -/

/-- A local range lies in LPDDR5X, or reaches it through a version view. -/
def meetsDrums (s : State) (r : Nat × Nat) : Bool :=
  !absent r.1 && isLocal s r.1 && (regionOf (addrOff r.1) == .lpddr || meetsView s (addrOff r.1) r.2)

/-- An LPDDR5X request may be in flight: of an op at work whose ranges lie there, of a row read for another device, or of a
journal or a held write. -/
def memBusy (s : State) : Bool :=
  (s.ops.any fun o => o.isActive && (opReads s o ++ opWritten s o).any (meetsDrums s)) || !s.fab.serving.isEmpty ||
    !s.dome.journals.isEmpty || !s.dome.heldWrites.isEmpty

/-- DRM_ILV_CFG (spec/11 R276): a change of FOLD moves every granule, and the contents are taken as lost
(log entry 45); any other write, DRM1's copy among them, is ignored with an event. -/
def ilvWrite (s : State) (off : Nat) (v : Word) : State :=
  if off ≠ 0xC00000 ∨ jobId s ≠ 0 ∨ memBusy s then configIgnored s off v
  else
    let t := regAccept s off v
    if bits v 2 0 = regBits s off 2 0 then t else loseAt t 0 lpBytes

/-- DRM_PPR_REQ (spec/11 R288): a request while one runs, or a hard one with a job open, is refused in RESULT. -/
def pprWrite (s : State) (d : Nat) (v : Word) : State :=
  let status := 0xC00304 + 0x100000 * d
  if bits v 31 31 = 0 then s
  else if (pprOf s d).isSome ∨ (bits v 30 30 = 1 ∧ jobId s ≠ 0) then regSet s status 30 28 3
  else
    let ch := 64 * d + bits v 29 24
    let p : Ppr := { ch := ch, bank := bits v 23 20, row := bits v 17 0 }
    let s := { s with mif := { s.mif with ppr := tabPut (fun _ => none) s.mif.ppr d (some p) } }
    channelPut s ch { channel s ch with ppr := true }

/-- A write of a DRM block. -/
def drmWrite (s : State) (off : Nat) (v : Word) : State :=
  let d := if off < 0xD00000 then 0 else 1
  match off % 0x100000 with
  | 0 => ilvWrite s off v
  | 0x300 => pprWrite s d v
  | _ => regAccept s off v

/-- A partition's new extent is refused (spec/11 R281). -/
def partRefused (s : State) (k base size : Nat) : Bool :=
  let overlap := fun j => j != k && size != 0 && partExtent s j != 0 &&
    decide (base < partBase s j + partExtent s j) && decide (partBase s j < base + size)
  decide (base + size > 2048) || (List.range 6).any overlap || (base != partBase s k && partUse s k != 0) ||
    (k == 3 && decide (size > 2)) || (k == 5 && !generalHolds s base size)

/-- LAN_PARTk (spec/11 R281, R282, spec/14 Table 14.3): a cut waits while more is in use; the replica cache's does not. -/
def partWrite (s : State) (k : Nat) (off : Nat) (v : Word) : State :=
  let size := bits v 11 0
  let old := partSize s k
  if partRefused s k (bits v 26 16) size then configIgnored s off v (held := true)
  else
    let use := partUse s k
    let s := regAccept s off v
    let cuts := s.mif.cuts.filter fun c => !(c.part == k && decide (c.old ≤ size))
    let cuts := if size < old ∧ k ≠ 0 then cuts ++ [{ part := k, old := old, mark := s.opNext, waits := decide (use > size) }]
      else cuts
    settle { s with mif := { s.mif with cuts := cuts } }

/-- A write of a LAN block. -/
def lanWrite (s : State) (off : Nat) (v : Word) : State :=
  if 0xE00100 ≤ off ∧ off < 0xE00118 then partWrite s ((off - 0xE00100) / 4) off v else regAccept s off v

/-! ### DOM -/

/-- DOM_NUM_MODE (spec/02 R47). -/
def numModeWrite (s : State) (off : Nat) (v : Word) : State :=
  let sr := bits v 12 8
  if bits v 2 0 ≥ 5 ∨ sr < 6 ∨ 24 < sr then s else regAccept s off v

/-- DOM_PLAN_CFG (spec/05 R121). -/
def planCfg (s : State) (off : Nat) (v : Word) : State :=
  if bits v 0 0 = 1 ∧ !inPart s 5 (regBits s 0x1000040 30 6 * 64) (2 ^ 22) then
    configIgnored (regSet (regAccept s off v) off 0 0 0) off v
  else regAccept s off v

/-- An ownership bank is valid (spec/06 R135). -/
def bankValid (s : State) (bank : Nat) : Bool :=
  let n := ownCount s bank
  let lo := fun e => ownLo (ownEntry s bank e)
  let chip := fun e => ownChipOf (ownEntry s bank e)
  decide (1 ≤ n) && decide (n ≤ 4096) && lo 0 == 0 &&
    (List.range n).all fun e =>
      (e == 0 || decide (lo (e - 1) < lo e)) && !(decide (0x8000 ≤ chip e) && decide (chip e ≤ 0xFFFD))

/-- DOM_OWN_CFG (spec/06 R135): the active bank's count stays, and the inactive one's while BUSY; the flip is checked with
the count that this write loads. -/
def ownCfg (s : State) (off : Nat) (v : Word) : State :=
  let act := regBits s off 31 31
  let t := keepField (regAccept s off v) s off 31 31
  let t := if act = 0 ∨ ownBusy s then keepField t s off 12 0 else t
  let t := if act = 1 ∨ ownBusy s then keepField t s off 28 16 else t
  if bits v 31 31 = act then t
  else if bankValid t (1 - act) then regSet t off 31 31 (1 - act)
  else configIgnored t off v

/-- An entry of an ownership bank (spec/06 R135). -/
def ownWrite (s : State) (bank : Nat) (off : Nat) (v : Word) : State :=
  if bank = regBits s 0x1000080 31 31 ∨ ownBusy s then s else regAccept s off v

/-- DOM_EMB_SKETCHn (spec/07 R172). -/
def sketchWrite (s : State) (n : Nat) (off : Nat) (v : Word) : State :=
  let en := regBits s off 31 31 == 1
  if en && bits v 31 31 == 1 then configIgnored s off v (held := true)
  else if en then keepField (regAccept s off v) s off 7 0
  else
    let s := regAccept s off v
    if bits v 31 31 = 1 then { s with dome := { s.dome with sketches := tabPut (fun _ => {}) s.dome.sketches n {} } } else s

/-- DOM_VER_CFG (spec/08 R225): COUNT by itself may be ignored. -/
def verCfg (s : State) (off : Nat) (v : Word) : State :=
  let n := bits v 16 0
  let fits := n == 0 || inPart s 5 (regBits s 0x1000100 30 6 * 64) (64 * n)
  if n ≠ verCount s ∧ (jobId s ≠ 0 ∨ n > 65536 ∨ !fits) then
    configIgnored (keepField (regAccept s off v) s off 16 0) off v
  else regAccept s off v

/-- DOM_FRZ_BASE (spec/08 R225): EN by itself may be ignored. -/
def frzWrite (s : State) (off : Nat) (v : Word) : State :=
  if bits v 31 31 = 1 ∧ !inPart s 5 (bits v 30 13 * 8192) 8192 then
    configIgnored (keepField (regAccept s off v) s off 31 31) off v
  else regAccept s off v

/-- DOM_RED_RETAIN_BASE and _SIZE (spec/09 R251). -/
def retainWrite (s : State) (off : Nat) (v : Word) : State :=
  let t := regAccept s off v
  let n := regBits t 0x1000184 19 0
  let fits := n == 0 || inPart s 5 (regBits t 0x1000180 30 12 * 4096) (4096 * n)
  if retainUsed s = 0 ∧ fits then t else configIgnored s off v

/-- DOM_WGQ_STATUSb: FULL_SEEN is cleared by a one. -/
def wgqWrite (s : State) (b : Nat) (v : Word) : State :=
  if bits v 31 31 = 1 then belfryPut s b { belfry s b with fullSeen := false } else s

/-- A write of the DOM block. -/
def domWrite (s : State) (off : Nat) (v : Word) : State :=
  if off = 0x1000000 then numModeWrite s off v
  else if off = 0x1000044 then planCfg s off v
  else if off = 0x1000080 then ownCfg s off v
  else if off = 0x10000C0 then
    (if inPart s 5 (bits v 30 12 * 4096) 4096 then dirMove s (regAccept s off v) else writeIf false s off v)
  else if 0x10000D0 ≤ off ∧ off < 0x10000E0 then sketchWrite s ((off - 0x10000D0) / 4) off v
  else if off = 0x1000100 then writeIf (jobId s == 0) s off v
  else if off = 0x1000104 then verCfg s off v
  else if off = 0x1000108 then frzWrite s off v
  else if 0x1000140 ≤ off ∧ off < 0x1000180 then wgqWrite s ((off - 0x1000140) / 4) v
  else if off = 0x1000180 ∨ off = 0x1000184 then retainWrite s off v
  else if off = 0x1000188 then (if bits v 4 0 ≤ 16 then regAccept s off v else s)
  else if 0x1010000 ≤ off ∧ off < 0x1020000 then ownWrite s 0 off v
  else if 0x1020000 ≤ off ∧ off < 0x1030000 then ownWrite s 1 off v
  else regAccept s off v

/-! ### A write -/

/-- A register write, whoever sends it (spec/16 R402); offsets that are no 32-bit register take none. -/
def writeReg (s : State) (off : Nat) (v : Word) : State :=
  if off % 4 ≠ 0 then s
  else if off < 0x100000 then finWrite s off v
  else if off < 0x200000 then hifWrite s off v
  else if off < 0x300000 then fltWrite s off v
  else if off < 0x400000 then chmWrite s off v
  else if off < 0x500000 then ocuWrite s off v
  else if off < 0x800000 then s
  else if off < 0xC00000 then galWrite s off v
  else if off < 0xE00000 then drmWrite s off v
  else if off < 0xF00000 then lanWrite s off v
  else if off < 0x1000000 then s
  else if off < 0x2000000 then domWrite s off v
  else s

/-- A write through BAR0: dropped before READY and while sealed (spec/16 R392, spec/15 Table 15.4). -/
def hostWrite (s : State) (off : Nat) (v : Word) : State :=
  if s.flt.sealed || !s.fin.ready || s.fin.pinsTaken then s else writeReg s off v

end Sys2Proof.Machine
end

