-- ==== Sys2Proof/Machine/RegCmds.lean ====
section
/-! DEFINITION. The register commands: each is a write through BAR0, or what a register's request does later. -/

namespace Sys2Proof.Machine

/-! ### Host interface -/

/-- RING_CFG_WRITE (spec/13 R329). -/
def execRingCfgWrite (r : Fin 256) (v : Word) (s : State) : Host.Outcome State Fault Refusal :=
  .next (hostWrite s (0x101008 + 32 * r.val) v)

/-- EQ_CFG_WRITE (spec/13 R352). -/
def execEqCfgWrite (q : Fin 64) (v : Word) (s : State) : Host.Outcome State Fault Refusal :=
  .next (hostWrite s (0x103008 + 32 * q.val) v)

/-- BAR2_APERTURE_WRITE (spec/11 R290). -/
def execBar2ApertureWrite (v : Word) (s : State) : Host.Outcome State Fault Refusal := .next (hostWrite s 0x100100 v)

/-! ### Dome -/

/-- DOM_NUM_MODE_WRITE (spec/02 R47). -/
def execDomNumModeWrite (v : Word) (s : State) : Host.Outcome State Fault Refusal := .next (hostWrite s 0x1000000 v)

/-- DOM_OWN_CFG_WRITE (spec/06 R135). -/
def execDomOwnCfgWrite (v : Word) (s : State) : Host.Outcome State Fault Refusal := .next (hostWrite s 0x1000080 v)

/-- OWN_TABLE_WRITE (spec/06 R135). -/
def execOwnTableWrite (bank : Fin 2) (entry : Fin 4096) (word : Fin 4) (v : Word) (s : State) :
    Host.Outcome State Fault Refusal :=
  .next (hostWrite s (0x1010000 + 0x10000 * bank.val + 16 * entry.val + 4 * word.val) v)

/-- DOM_PLAN_CFG_WRITE (spec/05 R121). -/
def execDomPlanCfgWrite (v : Word) (s : State) : Host.Outcome State Fault Refusal := .next (hostWrite s 0x1000044 v)

/-- DOM_EMB_SKETCH_WRITE (spec/07 R172). -/
def execDomEmbSketchWrite (n : Fin 4) (v : Word) (s : State) : Host.Outcome State Fault Refusal :=
  .next (hostWrite s (0x10000D0 + 4 * n.val) v)

/-- DOM_EMB_DIR_BASE_WRITE (spec/07 R187). -/
def execDomEmbDirBaseWrite (v : Word) (s : State) : Host.Outcome State Fault Refusal := .next (hostWrite s 0x10000C0 v)

/-- DOM_VER_CFG_WRITE (spec/08 R225): DOM_VER_CFG, or DOM_VER_BASE. -/
def execDomVerCfgWrite (cfg : Bool) (v : Word) (s : State) : Host.Outcome State Fault Refusal :=
  .next (hostWrite s (if cfg then 0x1000104 else 0x1000100) v)

/-- DOM_RED_RETAIN_WRITE (spec/09 R251): DOM_RED_RETAIN_SIZE, or DOM_RED_RETAIN_BASE. -/
def execDomRedRetainWrite (size : Bool) (v : Word) (s : State) : Host.Outcome State Fault Refusal :=
  .next (hostWrite s (if size then 0x1000184 else 0x1000180) v)

/-! ### Memories -/

/-- LAN_PART_WRITE (spec/11 R281). -/
def execLanPartWrite (k : Fin 6) (v : Word) (s : State) : Host.Outcome State Fault Refusal :=
  .next (hostWrite s (0xE00100 + 4 * k.val) v)

/-- PARTITION_CUT_COMPLETE (spec/11 R282). -/
def execPartitionCutComplete (k : Fin 6) (s : State) : Host.Outcome State Fault Refusal := .next (cutComplete s k.val)

/-- DRM_ILV_CFG_WRITE (spec/11 R276). -/
def execDrmIlvCfgWrite (v : Word) (s : State) : Host.Outcome State Fault Refusal := .next (hostWrite s 0xC00000 v)

/-- PPR_SOFT (spec/11 R288): DRM_PPR_REQ with GO and without HARD. -/
def execPprSoft (d : Fin 2) (v : Word) (s : State) : Host.Outcome State Fault Refusal :=
  .next (hostWrite s (0xC00300 + 0x100000 * d.val) (setBits v 31 30 2))

/-- PPR_HARD (spec/11 R288): DRM_PPR_REQ with GO and HARD. -/
def execPprHard (d : Fin 2) (v : Word) (s : State) : Host.Outcome State Fault Refusal :=
  .next (hostWrite s (0xC00300 + 0x100000 * d.val) (setBits v 31 30 3))

/-- A repair ends: its RESULT is shown, the row's bytes were written back, and what waited for the channel goes on
(spec/11 R288). -/
def pprDone (s : State) (d result : Nat) : State :=
  match pprOf s d with
  | none => s
  | some p =>
    let s := { s with mif := { s.mif with ppr := tabPut (fun _ => none) s.mif.ppr d none } }
    let s := channelPut s p.ch { channel s p.ch with ppr := false }
    settle (regSet s (0xC00304 + 0x100000 * d) 30 28 result)

/-- PPR_DONE (spec/11 R288). -/
def execPprDone (d : Fin 2) (result : Fin 3) (s : State) : Host.Outcome State Fault Refusal :=
  .next (pprDone s d.val result.val)

/-! ### Fabric -/

/-- GAL_SELF_WRITE (spec/12 R321). -/
def execGalSelfWrite (v : Word) (s : State) : Host.Outcome State Fault Refusal := .next (hostWrite s 0x800000 v)

/-- GAL_REMAP_WRITE (spec/12 R309). -/
def execGalRemapWrite (chip : Fin 32768) (v : Word) (s : State) : Host.Outcome State Fault Refusal :=
  .next (hostWrite s (0x820000 + 4 * chip.val) v)

/-- SPIRE_SPLIT_WRITE (spec/12 R308). -/
def execSpireSplitWrite (v : Word) (s : State) : Host.Outcome State Fault Refusal := .next (hostWrite s 0x800018 v)

/-- GAL_LINK_CTL of link l. -/
def linkCtlOff (l : Nat) : Nat := galBase (galleryOf l) + 0x1000 + 16 * (l % 48)

/-- LINK_EN_WRITE (spec/12 R313). -/
def execLinkEnWrite (l : Fin 96) (en : Bool) (s : State) : Host.Outcome State Fault Refusal :=
  .next (hostWrite s (linkCtlOff l.val) (setBits (regGet s (linkCtlOff l.val)) 31 31 (b2n en)))

/-- CLEAR_Q (spec/12 R312). -/
def execClearQ (l : Fin 96) (s : State) : Host.Outcome State Fault Refusal :=
  .next (hostWrite s (linkCtlOff l.val) (setBits (regGet s (linkCtlOff l.val)) 30 30 1))

/-- RETRAIN (spec/12 R313). -/
def execRetrain (l : Fin 96) (s : State) : Host.Outcome State Fault Refusal :=
  .next (hostWrite s (linkCtlOff l.val) (setBits (regGet s (linkCtlOff l.val)) 29 29 1))

/-! ### Faults -/

/-- CLEAR_LOG (spec/15 R387). -/
def execClearLog (s : State) : Host.Outcome State Fault Refusal := .next (hostWrite s 0x200004 2)

/-- RESUME (spec/15 R377). -/
def execResume (s : State) : Host.Outcome State Fault Refusal := .next (hostWrite s 0x200004 1)

/-! ### Finial -/

/-- FIN_RESET_CHIP (spec/16 R389). -/
def execFinResetChip (key : BitVec 16) (s : State) : Host.Outcome State Fault Refusal :=
  .next (hostWrite s 0x1C (BitVec.ofNat 32 (key.toNat * 65536 + 1)))

/-- FIN_RESET_COMPUTE (spec/16 R389). -/
def execFinResetCompute (key : BitVec 16) (s : State) : Host.Outcome State Fault Refusal :=
  .next (hostWrite s 0x1C (BitVec.ofNat 32 (key.toNat * 65536 + 2)))

/-- ARB_COMMIT (spec/16 R395): asked for before READY it is ignored and, unlike other writes, reported (Table 16.10). -/
def execArbCommit (s : State) : Host.Outcome State Fault Refusal := .next (if s.flt.sealed then s else arbGo s 0x18 1)

/-- ARB_BURN_DONE (spec/16 R395). -/
def execArbBurnDone (s : State) : Host.Outcome State Fault Refusal := .next (arbDone s)

/-- ATTESTATION_GO (spec/16 R398). -/
def execAttestationGo (s : State) : Host.Outcome State Fault Refusal := .next (hostWrite s 0x220 1)

/-- The report is ready: what GO took, and the identity key's signature of it (spec/16 R398). -/
def reportDone (s : State) : State :=
  if s.fin.attBusy then
    let (raw, s) := signIdentity s s.fin.attInputs
    let sig := (raw ++ List.replicate 96 0).take 96
    { s with fin := { s.fin with attBusy := false, attDone := true, report := s.fin.attInputs ++ sig } }
  else s

/-- ATTESTATION_REPORT_DONE (spec/16 R398). -/
def execAttestationReportDone (s : State) : Host.Outcome State Fault Refusal := .next (reportDone s)

/-- M2_EXTEND (spec/16 R397). -/
def execM2Extend (s : State) : Host.Outcome State Fault Refusal := .next (hostWrite s 0x220 2)

/-- FIN_UART_WRITE (spec/16 R406). -/
def execFinUartWrite (v : Word) (s : State) : Host.Outcome State Fault Refusal := .next (hostWrite s 0x20 v)

/-- FIN_GPIO_WRITE (spec/16 R407). -/
def execFinGpioWrite (p : Fin 8) (v : Word) (s : State) : Host.Outcome State Fault Refusal :=
  .next (hostWrite s (0x40 + 4 * p.val) v)

/-- COMPARATOR_CLAIM (spec/16 R408). -/
def execComparatorClaim (c : Fin 16) (v : Word) (s : State) : Host.Outcome State Fault Refusal :=
  .next (hostWrite s (0x80 + 16 * c.val) v)

/-- TICK_ADDR of a comparator. -/
def tickAddr (s : State) (c : Nat) : Nat := (regGet s (0x88 + 16 * c)).toNat + (regGet s (0x8C + 16 * c)).toNat * 2 ^ 32

/-- PERIOD_KT of a comparator, as it is read (spec/16 R408). -/
def tickPeriod (s : State) (c : Nat) : Nat := max 1280 (regGet s (0x84 + 16 * c)).toNat

/-- A TICK_ADDR that can be written: an aligned word here or in the host window; in spire mode only the latter, since its memory
serves two other accesses (spec/16 R408, spec/01 R12). -/
def tickOk (s : State) (a : Nat) : Bool :=
  isLocal s a && addrOff a % 8 == 0 && rangeOk s (addrOff a) 8 && (!spireMode s || regionOf (addrOff a) == .hostWindow)

/-- The 8 bytes of a count, in the memory its address names. -/
def tickStore (s : State) (o : Nat) (count : List Byte) : State :=
  match regionOf o, hostWindow s with
  | .hostWindow, some b => { s with host := s.host.putBytes (b + (o - hwinBase)) count }
  | .scratch, _ => applyBytes s o count
  | _, _ => plainWrite s o count

/-- A bad TICK_ADDR is reported; the event's code is not stated (log entry 46). -/
def tickReport (s : State) (c : Nat) : State :=
  let (code, s) := drawFree s
  let (pay, s) := drawBytes 16 s
  deviceEvent { s with fin := { s.fin with cmpReported := s.fin.cmpReported ++ [c] } } (code % 65536) .outOfRange pay

/-- The count of expiries is written to TICK_ADDR, now or once its burst finds tokens, but not on a stopped die; or a bad address is
reported once. -/
def tickWrite (s : State) (c : Nat) : State :=
  let a := tickAddr s c
  let count := leBytes 8 (tabGet (fun _ => 0) s.fin.cmpCount c)
  let o := addrOff a
  if tickOk s a then
    if dieStopped s o then s
    else match payNow (touchRange s o 8) (rangeBursts s o 8) with
    | none => { s with fin := { s.fin with cmpDue := (s.fin.cmpDue ++ [c]).eraseDups } }
    | some s => tickStore s o count
  else if s.fin.cmpReported.contains c then s
  else tickReport s c

/-- A comparator of a cadence or of the GPIO tick expires, at a machine time that is a multiple of its period
(spec/16 R407, R408). -/
def comparatorTick (s : State) (c : Nat) : State :=
  let owner := regBits s (0x80 + 16 * c) 2 0
  if regBits s (0x80 + 16 * c) 31 31 = 0 ∨ owner < 3 ∨ 5 < owner ∨ mtime s % tickPeriod s c ≠ 0 then s
  else
    let count := (tabGet (fun _ => 0) s.fin.cmpCount c + 1) % 2 ^ 64
    let s := { s with fin := { s.fin with cmpCount := tabPut (fun _ => 0) s.fin.cmpCount c count } }
    if owner = 5 then
      let pins := natsWhere 8 fun p => regBits s (0x40 + 4 * p) 3 0 == 6 && regBits s (0x40 + 4 * p) 11 8 == c
      { s with fin := { s.fin with gpioTicks := s.fin.gpioTicks ++ pins } }
    else tickWrite s c

/-- COMPARATOR_TICK (spec/16 R408). -/
def execComparatorTick (c : Fin 16) (s : State) : Host.Outcome State Fault Refusal := .next (comparatorTick s c.val)

/-- REGISTER_WRITE (spec/16 R402). -/
def execRegisterWrite (off : Nat) (v : Word) (s : State) : Host.Outcome State Fault Refusal := .next (hostWrite s off v)

end Sys2Proof.Machine
end

