-- ==== Sys2Proof/Machine/Chime.lean ====
section
/-! DEFINITION. The Chime (spec/14): periods and grants, throttle factors and trips, calibration records and VDD_CORE, and the
sleep of turrets and belfries. -/

namespace Sys2Proof.Machine

/-! ### Registers in force (spec/14 R368) -/

/-- A field of a CHM register as the period that runs has it. -/
def chmBits (s : State) (off hi lo : Nat) : Nat := regBits { s with regs := s.chime.cfg } off hi lo

/-- The CHM registers as they stand: what is written in the kt in which a period starts comes too late for it (spec/14 R369). -/
def chmLatch (s : State) : State :=
  { s with chime := { s.chime with latch := s.regs.filter fun r => decide (0x300000 ≤ r.1) && decide (r.1 < 0x400000) } }

/-! ### Calibration tags (spec/10 R267, R268) -/

/-- A tag is accepted at the present operating point under its own bands; 0 is the default band. -/
def tagWithin (s : State) (load : Nat) (temp : Int) (bandLoad bandTemp : Nat) : Bool :=
  let bl := if bandLoad = 0 then regBits s 0x40001C 7 0 else bandLoad
  let bt := if bandTemp = 0 then regBits s 0x40001C 15 8 else bandTemp
  decide ((((s.chime.load : Int) - load).natAbs) ≤ bl) && decide ((s.chime.temp - temp).natAbs ≤ 8 * bt)

/-- A tag under the default bands. -/
def tagAccepted (s : State) (load : Nat) (temp : Int) : Bool := tagWithin s load temp 0 0

/-- CAL_REFUSED (spec/10 Table 10.9). -/
def calRefused (s : State) (kind taken : Nat) : State :=
  deviceEvent s 0x0024 .ok (leBytes 1 kind ++ leBytes 1 s.chime.load ++ leBytes 2 (wrapTo 16 s.chime.temp) ++ leBytes 8 taken)

/-- A tag of KIND 2 or 3 tested: its new state, and whether it has just been refused. -/
def tagTest (s : State) (t : Nat × Int × Nat × Bool) : (Nat × Int × Nat × Bool) × Bool :=
  let ok := tagAccepted s t.1 t.2.1
  ((t.1, t.2.1, t.2.2.1, ok), t.2.2.2 && !ok)

/-- A calibration of KIND 2 or 3 made now. -/
def tagNow (s : State) : Nat × Int × Nat × Bool := (s.chime.load, s.chime.temp, mtime s, true)

/-- Voltage record k. -/
def vfAt (s : State) (k : Nat) : Option VfRec := tabGet (fun _ => none) s.chime.vf k
/-- Voltage record k replaced. -/
def vfPut (s : State) (k : Nat) (v : Option VfRec) : State :=
  { s with chime := { s.chime with vf := tabPut (fun _ => none) s.chime.vf k v } }

/-- The voltage records tested (spec/14 R362). -/
def testVf (s : State) : State :=
  (List.range 4).foldl (fun s k =>
    match vfAt s k with
    | some v =>
      let ok := tagAccepted s v.load v.temp
      let t := vfPut s k (some { v with accepted := ok })
      if v.accepted && !ok then calRefused t 1 v.taken else t
    | none => s) s

/-- The channels' tags tested: a refused one is retrained in its next gap (spec/11 R278). -/
def testChannels (s : State) : State :=
  s.mif.channels.foldl (fun s c =>
    match c.2.tag with
    | some t =>
      let (t', fell) := tagTest s t
      let dueAt := if c.2.due || t'.2.2.2 then c.2.dueAt else mtime s
      let s := channelPut s c.1 { channel s c.1 with tag := some t', due := c.2.due || !t'.2.2.2, dueAt := dueAt }
      if fell then calRefused s 2 t.2.2.1 else s
    | none => s) s

/-- Port p would stay up without link l, and none of its links trains. -/
def portSpares (s : State) (l : Nat) : Bool :=
  let p := portOf s l
  let up := ((portLinks s p).filter fun k => k != l && (link s k).st == .up).length
  let training := (portLinks s p).any fun k => (link s k).st == .training || (link s k).st == .hello
  decide (up ≥ if !spireMode s && decide (p < 6) then 12 else 2) && !training

/-- The links' tags tested: a link whose tag is refused trains again once its port can spare it (spec/14 Table 14.5). -/
def testLinks (s : State) : State :=
  (List.range 96).foldl (fun s l =>
    match (link s l).tag with
    | some t =>
      if (link s l).st == .up then
        let (t', fell) := tagTest s t
        let s := linkUpdate s l fun x => { x with tag := some t' }
        let s := if fell then calRefused s 3 t.2.2.1 else s
        if !t'.2.2.2 && portSpares s l then linkTrain s l else s
      else s
    | none => s) s

/-- Device offset of the phase baseline. -/
def baseAddr (s : State) : Nat := lanBase + regBits s 0x400020 30 6 * 64

/-- The baseline's tag is of KIND 4 and accepted at the present operating point (spec/10 R267 to R269). -/
def baseAccepted (s : State) : Bool :=
  let a := baseAddr s
  memNat s a 1 == 4 &&
    tagWithin s (memNat s (a + 2) 1) (asSigned 16 (memNat s (a + 4) 2)) (memNat s (a + 3) 1) (memNat s (a + 6) 1)

/-- The baseline's tag tested, where comparison is enabled; CAL_REFUSED once, until it has been accepted again. -/
def testBaseline (s : State) : State :=
  if regBits s 0x400020 31 31 = 0 then s
  else
    let ok := baseAccepted s
    let t := { s with chime := { s.chime with baseOk := ok } }
    if s.chime.baseOk && !ok then calRefused t (memNat s (baseAddr s) 1) (memNat s (baseAddr s + 8) 8) else t

/-! ### VDD_CORE (spec/14 R362) -/

/-- The valid records. -/
def vfValid (s : State) : List VfRec := (List.range 4).filterMap (vfAt s)

/-- The accepted record whose LOAD is nearest; on a tie, the higher VOLT. -/
def vfNearest (s : State) : Option VfRec :=
  let dist := fun (v : VfRec) => ((s.chime.load : Int) - v.load).natAbs
  ((vfValid s).filter (·.accepted)).foldl (fun (m : Option VfRec) v =>
    match m with
    | none => some v
    | some b => if dist v < dist b ∨ (dist v = dist b ∧ v.volt > b.volt) then some v else m) none

/-- The setpoint for the next period, and whether it is guard-banded. -/
def vddNext (s : State) : Nat × Bool :=
  match vfNearest s, decide (s.chime.forced > 0) with
  | some v, false => (v.volt, false)
  | _, _ =>
    match vfValid s with
    | [] => (800, true)
    | vs => (min 800 (vs.foldl (fun m v => max m v.volt) 0 + chmBits s 0x300040 23 16), true)

/-- VDD_CORE set; a new setpoint is a command to the regulator, which a spire never sends (spec/17 R421). -/
def vddSet (s : State) : State :=
  let (v, g) := vddNext s
  if v = s.chime.vdd then { s with chime := { s.chime with guard := g } }
  else
    let s := { s with chime := { s.chime with vdd := v, vddPrev := s.chime.vdd, guard := g } }
    if spireMode s then s else { s with fin := { s.fin with avsPending := true } }

/-! ### Sensors, factors and trips (spec/14 R366, R367) -/

/-- The factor's die of a sensor: 0 Dome, 1 to 4 Lanterns, 5 and 6 Drums, 7 and 8 Galleries; none for the Finial. -/
def sensorFactor (i : Nat) : Option Nat := if i < 17 then some 0 else if i < 25 then some (i - 16) else none

/-- DIE of a sensor's source (spec/15 Table 15.2). -/
def sensorDie (i : Nat) : Nat := if i < 17 then 1 else if i < 21 then 2 else if i < 23 then 3 else if i < 25 then 4 else 0

/-- Hottest sensor of a factor's die, and its reading; the lowest-numbered on a tie. -/
def hottest (temps : List Int) (d : Nat) : Nat × Int :=
  match (natsWhere 26 fun i => sensorFactor i == some d) with
  | [] => (0, 0)
  | i :: rest =>
    let t := fun k => (temps[k]?).getD 0
    rest.foldl (fun m k => if t k > m.2 then (k, t k) else m) (i, t i)

/-- One factor's update (spec/14 R366). -/
def factorNext (s : State) (d f : Nat) (t : Int) (p : Nat) : Nat :=
  let throt : Int := 8 * chmBits s 0x300008 7 0
  let hyst : Int := 8 * chmBits s 0x300008 11 8
  let floor := max 1 (chmBits s 0x300008 19 16)
  let cap := chmBits s 0x30000C 9 0
  if t ≥ throt ∨ (d = 0 ∧ p > cap) then max (f - 1) floor
  else if t < throt - hyst ∧ (d ≠ 0 ∨ p * 16 ≤ cap * 15) then min (f + 1) 16
  else f

/-- Every factor updated; the first period below 16 and the first back at 16 are recorded at the die's hottest sensor
(log entry 48). -/
def factorsUpdate (s : State) (p : Nat) : State :=
  (List.range 9).foldl (fun s d =>
    let (i, t) := hottest s.chime.temps d
    let f := (s.chime.factors[d]?).getD 16
    let n := factorNext s d f t p
    let s := { s with chime := { s.chime with factors := replaceAt s.chime.factors d n } }
    if (f == 16) != (n == 16) then raiseFault s (sensorDie i) (0x1F00 + i) 0x20 n else s) s

/-- Ops in flight that touch a Lantern or a Drum are abandoned, by the ranges they name. -/
def abandonTouching (s : State) (d : Nat) : State :=
  let hit := s.ops.filter fun o => !o.isDone && o.accepted && opOnDie s o d
  hit.foldl opAbandon s

/-- A die trips (spec/14 R367). -/
def tripDie (s : State) (i : Nat) : State :=
  match sensorFactor i with
  | some 0 =>
    if s.dome.stopped then s
    else
      let s := stopDome s
      let s := s.ops.foldl (fun s o => if o.isDone || !needsDome o then s else opAbandon s o) s
      { s with dome := { s.dome with tripped := true } }
  | some d =>
    if d ≤ 6 then abandonTouching (stopMemory s [d]) d else stopGallery s (d - 7)
  | none => stopGallery (stopGallery (stopMemory (stopDome s) [1, 2, 3, 4, 5, 6]) 0) 1

/-- The die of a sensor is stopped already. -/
def sensorStopped (s : State) (i : Nat) : Bool :=
  match sensorFactor i with
  | some 0 => s.dome.stopped
  | some d => if d ≤ 6 then s.mif.stoppedDies.contains d else if d = 7 then s.fab.stopped0 else s.fab.stopped1
  | none => s.dome.stopped && s.fab.stopped0 && s.fab.stopped1 && decide (s.mif.stoppedDies.length ≥ 6)

/-- Every working sensor at 105 °C or above trips its die and records it. -/
def tripAll (s : State) (sensors : List (Option Int)) : State :=
  sensors.zipIdx.foldl (fun s x =>
    match x.1 with
    | some t => if t ≥ 840 ∧ !sensorStopped s x.2 then
        raiseFault (tripDie s x.2) (sensorDie x.2) (0x1F00 + x.2) 0x21 t.toNat else s
    | none => s) s

/-- Sensors that failed their self-check are recorded (spec/14 R367). -/
def sensorFails (s : State) (sensors : List (Option Int)) : State :=
  sensors.zipIdx.foldl (fun s x =>
    if x.1.isNone then raiseFault s (sensorDie x.2) (0x1F00 + x.2) 0x22 x.2 else s) s

/-! ### Grants (spec/14 R357, R358) -/

/-- The factor that scales an activity; a port on both Galleries takes the lower (log entry 49). -/
def activityFactor (s : State) (a : Nat) : Nat :=
  let f := fun d => (s.chime.factors[d]?).getD 16
  if a ≤ 3 then f 0
  else if a ≤ 7 then f 5
  else if a ≤ 11 then f 6
  else if a ≤ 15 then f (a - 11)
  else if a < 32 then 16
  else if (a - 32) % 3 = 0 then 16
  else
    let ls := portLinks s ((a - 32) / 3)
    let g := fun k => if ls.any fun l => galleryOf l == k then f (7 + k) else 16
    min (g 0) (g 1)

/-- G of an activity (spec/14 R357). -/
def grantOf (s : State) (a : Nat) : Nat :=
  chimePeak (spireMode s) a * chmBits s (0x300200 + 4 * a) 8 0 * activityFactor s a / 4096

/-- A unit's balance and debt at the start of a period (spec/14 R358). -/
def periodStart (g debt : Nat) : Nat × Nat := (g - debt, debt - g)

/-- The grants of the new period; debtors are repaid from them first. -/
def grantAll (s : State) : State :=
  let peak := fun a => chimePeak (spireMode s) a
  let grants := (List.range 104).foldl (fun t a => if chimeUsed (spireMode s) a then tabPut peak t a (grantOf s a) else t) []
  let dflt := fun k => tabGet peak grants (k / 512)
  let start := fun (acc : Tab Nat × Tab Nat) (d : Nat × Nat) =>
    let (bal, left) := periodStart (dflt d.1) d.2
    (tabPut dflt acc.1 d.1 bal, tabPut (fun _ => 0) acc.2 d.1 left)
  let (bal, debt) := s.chime.debt.foldl start ([], [])
  { s with chime := { s.chime with grants := grants, balance := bal, debt := debt } }

/-- Blocks that waited for tokens start, in the order of their turret's buffers (spec/14 R358). -/
def payOwed (s : State) : State :=
  (List.range 256).foldl (fun s t =>
    let x := turret s t
    let pay := fun (s : State) (b : Option TileBuf) =>
      match b with
      | some b =>
        let (s, owed) := payBursts s 0 t b.owed
        let (s, issue) := payBursts s 1 t b.issue
        (s, some { b with owed := owed, issue := issue })
      | none => (s, none)
    let owes := fun (b : TileBuf) => !b.owed.isEmpty || !b.issue.isEmpty
    if x.buf0.any owes || x.buf1.any owes then
      let (s, b0) := pay s x.buf0
      let (s, b1) := pay s x.buf1
      turretPut s t { buf0 := b0, buf1 := b1 }
    else s) s

/-! ### The period -/

/-- The Dome has no op in flight. -/
def domeIdle (s : State) : Bool := s.ops.all fun o => o.completed || !needsDome o

/-- An op was in flight on the Dome at machine time `t` or since. -/
def domeBusyIn (s : State) (t : Nat) : Bool := !domeIdle s || decide (s.chime.domeBusyAt > t)

/-- The period-end updates (spec/14 R362, R365 to R367, spec/10 R267). -/
def periodEnd (s : State) (sensors : List (Option Int)) (watts : Nat) : State :=
  let throt : Int := 8 * chmBits s 0x300008 7 0
  let temps := (List.range 26).map fun i => (((sensors[i]?).getD none).getD throt)
  let busy := domeBusyIn s (1280 * s.chime.began)
  let s := { s with chime := { s.chime with
    temps := temps, watts := watts, load := watts * 100 / 760, temp := (hottest temps 0).2 } }
  let s := { s with chime := { s.chime with
    lastBusyLoad := if busy then s.chime.load else s.chime.lastBusyLoad,
    forced := if s.chime.stretchSeen then 16 else s.chime.forced - 1, stretchSeen := false } }
  let s := factorsUpdate (sensorFails s sensors) watts
  let s := tripAll s sensors
  vddSet (testBaseline (testLinks (testChannels (testVf s))))

/-! ### Recalibration and path monitors (spec/14 R364, R365) -/

/-- GAP_US. -/
def gapUs (s : State) : Nat := let n := chmBits s 0x300044 15 0; if n = 0 then 100 else n

/-- A maintenance gap, GAP_US without an op in flight on the Dome: the pattern starts when the records have been refused. -/
def gapStart (s : State) : State :=
  if chmBits s 0x300044 31 31 = 1 ∧ domeIdle s ∧ elapsed s s.chime.domeBusyAt (gapUs s) ∧ vfValid s ≠ [] ∧
      (vfNearest s).isNone ∧ !s.chime.recal then
    { s with chime := { s.chime with recal := true, recalAt := mtime s } }
  else s

/-- MAINTENANCE_GAP (spec/14 R364). -/
def execMaintenanceGap (s : State) : Host.Outcome State Fault Refusal := .next (gapStart s)

/-- The slot a new record takes: an invalid one, else that with the oldest TAKEN. -/
def vfSlot (s : State) : Nat :=
  match firstNat 4 fun k => (vfAt s k).isNone with
  | some k => k
  | none =>
    let taken := fun k => ((vfAt s k).map (·.taken)).getD 0
    [1, 2, 3].foldl (fun m k => if taken k < taken m then k else m) 0

/-- The temperature measured during the pattern: the Dome's at the last period's end, where one has ended in it; else no command
has brought one (a free value; log entry 156). -/
def patternTemp (s : State) : Int × State :=
  if 1280 * s.chime.began > s.chime.recalAt then (s.chime.temp, s)
  else
    let (n, s) := drawFree s
    (asSigned 16 (n % 65536), s)

/-- The pattern has ended: the record is written, tagged with the load of the last busy period, at which the pattern ran, and the
temperature measured in it. -/
def recalDone (s : State) (volt : Nat) : State :=
  if s.chime.recal then
    let (temp, s) := patternTemp s
    let v : VfRec := { volt := volt + 20, load := s.chime.lastBusyLoad, temp := temp, taken := mtime s }
    vfPut { s with chime := { s.chime with recal := false } } (vfSlot s) (some v)
  else s

/-- RECALIBRATION_DONE (spec/14 R364). -/
def execRecalibrationDone (volt : Nat) (s : State) : Host.Outcome State Fault Refusal := .next (recalDone s volt)

/-- PATH_MONITOR_TRIP (spec/14 R365): one clk stretched. -/
def pathTrip (s : State) (b : Nat) : State :=
  let s := regCount s 0x300048 1
  raiseFault { s with chime := { s.chime with stretchSeen := true } } 1 (0x200 + b) 0x09 1

/-- PATH_MONITOR_TRIP (spec/14 R365). -/
def execPathMonitorTrip (b : Fin 16) (s : State) : Host.Outcome State Fault Refusal := .next (pathTrip s b.val)

/-! ### Sleep (spec/14 R361) -/

/-- NO_GATE. -/
def noGate (s : State) : Bool := chmBits s 0x300004 31 31 == 1
/-- TURRET_IDLE_US. -/
def turretIdleUs (s : State) : Nat := let n := chmBits s 0x300004 15 0; if n = 0 then 2 else n
/-- PLL_IDLE_US. -/
def pllIdleUs (s : State) : Nat := let n := chmBits s 0x300004 30 16; if n = 0 then 20 else n

/-- An op works on the engines or the DMA of a belfry, or its DMA serves a remote row. -/
def enginesBusy (s : State) (b : Nat) : Bool :=
  (s.fab.serving.any fun x => x.owed.any fun u => u.act == 3 && u.unit == b) || s.ops.any fun o => o.isActive && (gemmBody o).isNone &&
    match opMask o.body with
    | some m => ((opCrew s o m).map (standIn s)).contains b
    | none => false

/-- A belfry has nothing queued and its turrets nothing to do. -/
def belfryQuiet (s : State) (b : Nat) : Bool :=
  let x := belfry s b
  !enginesBusy s b && x.deferred.isEmpty && x.immediate.isEmpty && x.unplaced.isEmpty &&
    (List.range 16).all fun i => let t := turret s (16 * b + i); t.buf0.isNone && t.buf1.isNone

/-- The turret of a physical slot is idle: its buffers and its belfry's queues are empty, and no op works there. -/
def slotIdle (s : State) (slot : Nat) : Bool :=
  let x := belfry s (slot / 17)
  let busy := match servesAs x (slot % 17) with
    | some i => let t := turret s (16 * (slot / 17) + i); t.buf0.isSome || t.buf1.isSome
    | none => false
  !enginesBusy s (slot / 17) && x.deferred.isEmpty && x.immediate.isEmpty && x.unplaced.isEmpty && !busy

/-- Machine time at which a slot or its belfry's queues and engines last had work. -/
def slotBusyAt (s : State) (slot : Nat) : Nat :=
  max (belfry s (slot / 17)).busyAt (tabGet (fun _ => 0) (belfry s (slot / 17)).slotBusy (slot % 17))

/-- A turret idle for TURRET_IDLE_US is power-gated. -/
def gateSlot (s : State) (slot : Nat) : State :=
  if noGate s || !slotIdle s slot || !elapsed s (slotBusyAt s slot) (turretIdleUs s) then s
  else
    let b := slot / 17
    belfryPut s b { belfry s b with powered := (belfry s b).powered &&& (2 ^ 17 - 1 - 2 ^ (slot % 17)) }

/-- TURRET_POWER_GATE (spec/14 R361). -/
def execTurretPowerGate (slot : Fin 272) (s : State) : Host.Outcome State Fault Refusal := .next (gateSlot s slot.val)

/-- The PLL of a belfry idle for PLL_IDLE_US stops once all its slots are gated. -/
def pllStop (s : State) (b : Nat) : State :=
  if noGate s || !belfryQuiet s b || (belfry s b).powered != 0 || !elapsed s (belfry s b).busyAt (pllIdleUs s) then s else belfryPut s b { belfry s b with pllOn := false }

/-- BELFRY_PLL_STOP (spec/14 R361). -/
def execBelfryPllStop (b : Fin 16) (s : State) : Host.Outcome State Fault Refusal := .next (pllStop s b.val)

/-- BELFRY_WAKE (spec/14 R361): work has arrived at the belfry. -/
def execBelfryWake (b : Fin 16) (s : State) : Host.Outcome State Fault Refusal :=
  .next (if belfryQuiet s b.val then s else belfryWake s b.val)

/-- Its queues or its engines have work. -/
def queuesBusy (s : State) (b : Nat) : Bool :=
  let x := belfry s b
  enginesBusy s b || !x.deferred.isEmpty || !x.immediate.isEmpty || !x.unplaced.isEmpty

/-- What a belfry that is awake has to do now is noted, for it and for each of its slots. -/
def busyNote (s : State) (b : Nat) : State :=
  let x := belfry s b
  if !x.pllOn then s
  else
    let works := (List.range 17).filter fun p => match servesAs x p with
      | some i => let t := turret s (16 * b + i); t.buf0.isSome || t.buf1.isSome
      | none => false
    belfryPut s b { x with
      busyAt := if queuesBusy s b then mtime s else x.busyAt,
      slotBusy := works.foldl (fun t p => tabPut (fun _ => 0) t p (mtime s)) x.slotBusy }

/-- What the Chime notes at every kt: who has work (spec/14 R361, R364). -/
def chimeNote (s : State) : State :=
  let s := (s.dome.belfries.map (·.1)).foldl busyNote s
  if domeIdle s then s else { s with chime := { s.chime with domeBusyAt := mtime s } }

end Sys2Proof.Machine
end

