-- ==== Sys2Proof/Machine/Boot.lean ====
section
/-! DEFINITION. From power to READY: rails (spec/17 R421 to R423), KREF (R419), PERST_N and configuration requests (spec/16
R392), secure boot (R393, R394) and the stages (R391). -/

namespace Sys2Proof.Machine

/-! ### Rails (spec/17 R420 to R423) -/

/-- UNIT of the board rail that RAIL_EN[i] enables (spec/15 Table 15.2, spec/17 Table 17.8). -/
def railUnit (i : Nat) : Nat := 5 - i

/-- Nominal voltage in mV of RAIL_EN[i]'s rail (spec/17 Table 17.7); the two VDD_SERDES rails share one power good, so either
nominal may be recorded. -/
def railNominal (s : State) (i : Nat) : Nat × State :=
  match i with
  | 0 => (1800, s)
  | 1 => (800, s)
  | 2 => let (k, s) := drawFree s; (if k % 2 = 0 then 750 else 1200, s)
  | 3 => (500, s)
  | 4 => (800, s)
  | _ => (750, s)

/-- RAIL_PG[i] is good. -/
def railGood (s : State) (i : Nat) : Bool := s.fin.railPg.testBit i
/-- RAIL_EN[i] is asserted. -/
def railOn (s : State) (i : Nat) : Bool := s.fin.railEn.testBit i

/-- The next enable of Table 17.8: every earlier rail is good; VDD_CORE in compute mode only; none after a rail that failed
or fell in stages 2 and 3. -/
def railNext (s : State) : Option Nat :=
  match firstNat 6 fun i => !railOn s i with
  | some i =>
    if (List.range i).all (railGood s) && !s.fin.railsStopped && decide (1 ≤ s.fin.stage) && !s.fin.krefLostBoot &&
        !s.flt.sealed && (i != 5 || s.fin.strap == 0) then some i else none
  | none => none

/-- `n` kt of keep time have passed since keep time `t`; while the counter does not count, a command that comes says so itself
(log entry 5). -/
def keepPassed (s : State) (t n : Nat) : Bool := !(s.time.runs && s.fin.kref) || decide (s.time.keep ≥ t + n)

/-- 100 µs, 10 ms and 1 ms, in kt. -/
def kt100us : Nat := 15625
def kt10ms : Nat := 1562500
def kt1ms : Nat := 156250

/-- Keep time at which RAIL_PG[i] last rose. -/
def railRoseAt (s : State) (i : Nat) : Nat := tabGet (fun _ => 0) s.fin.railPgAt i

/-- The next enable may follow: 100 µs after the power good before it. -/
def railWaited (s : State) (i : Nat) : Bool := i == 0 || keepPassed s (railRoseAt s (i - 1)) kt100us

/-- The next rail is enabled. -/
def railEnable (s : State) : State :=
  match railNext s with
  | some i => if railWaited s i then
      { s with fin := { s.fin with railEn := s.fin.railEn ||| 2 ^ i, railEnAt := s.time.keep } } else s
  | none => s

/-- RAIL_ENABLE (spec/17 R422). -/
def execRailEnable (s : State) : Host.Outcome State Fault Refusal := .next (railEnable s)

/-- The stage that has begun (spec/16 Table 16.2): 2 once VDDQ_LP and VDD_SRAM are good, and 3 in compute mode once stage 2 is
done and VDD_CORE is good. -/
def stageNow (s : State) : Nat :=
  let f := s.fin
  if s.flt.sealed then f.stage
  else
    let two := if f.stage = 1 ∧ railGood s 3 ∧ railGood s 4 ∧ f.kref ∧ !f.krefLostBoot then 2 else f.stage
    if two = 2 ∧ f.memoryDone ∧ f.strap = 0 ∧ railGood s 5 then 3 else two

/-- A stage begins whose conditions hold. -/
def stageBegin (s : State) : State := { s with fin := { s.fin with stage := stageNow s } }

/-- A power good rises after its enable; a stage that waited for it begins. -/
def railRise (s : State) (i : Nat) : State :=
  if railOn s i && !railGood s i then stageBegin { s with fin := { s.fin with
    railPg := s.fin.railPg ||| 2 ^ i, railPgAt := tabPut (fun _ => 0) s.fin.railPgAt i s.time.keep } } else s

/-- RAIL_POWER_GOOD_RISE (spec/17 R422). -/
def execRailPowerGoodRise (rail : Fin 6) (s : State) : Host.Outcome State Fault Refusal := .next (railRise s rail.val)

/-- The rail that is enabled and not good 10 ms after its enable: its enable and the later ones fall, and RAIL is recorded. -/
def railTimeout (s : State) : State :=
  if !keepPassed s s.fin.railEnAt kt10ms then s
  else match firstNat 6 fun i => railOn s i && !railGood s i with
  | some i =>
    let (mv, s) := railNominal s i
    raiseFault { s with fin := { s.fin with railEn := s.fin.railEn % 2 ^ i, railsStopped := true } } 5 (railUnit i) 0x38 mv
  | none => s

/-- RAIL_POWER_GOOD_TIMEOUT (spec/17 R422). -/
def execRailPowerGoodTimeout (s : State) : Host.Outcome State Fault Refusal := .next (railTimeout s)

/-- A power good falls: RAIL with the voltage; the enable stays; in stages 2 and 3 the later enables stay low (spec/17 R423,
Table 17.15). -/
def railLost (s : State) (i mv : Nat) : State :=
  if railGood s i then
    let mid := s.fin.stage == 2 || s.fin.stage == 3
    raiseFault { s with fin := { s.fin with
      railPg := s.fin.railPg &&& (2 ^ 6 - 1 - 2 ^ i), railsStopped := s.fin.railsStopped || mid } } 5 (railUnit i) 0x38 mv
  else s

/-- RAIL_POWER_GOOD_LOST (spec/17 R423). -/
def execRailPowerGoodLost (rail : Fin 6) (mv : Nat) (s : State) : Host.Outcome State Fault Refusal :=
  .next (railLost s rail.val mv)

/-- An unacknowledged AVSBus command: the setpoint is held (spec/17 R421, Table 17.15). -/
def avsTimeout (s : State) : State :=
  if s.fin.avsPending then
    let s := { s with fin := { s.fin with avsPending := false }, chime := { s.chime with vdd := s.chime.vddPrev } }
    raiseFault s 5 0 0x38 s.chime.vdd
  else s

/-- AVSBUS_ACK_TIMEOUT (spec/17 R421). -/
def execAvsbusAckTimeout (s : State) : Host.Outcome State Fault Refusal := .next (avsTimeout s)

/-- The reported Vout after a ramp: more than 20 mV off is RAIL for VDD_CORE (spec/17 R421). -/
def avsCheck (s : State) (mv : Nat) : State :=
  if s.fin.avsPending then
    let s := { s with fin := { s.fin with avsPending := false } }
    if ((mv : Int) - s.chime.vdd).natAbs > 20 then raiseFault s 5 0 0x38 mv else s
  else s

/-- AVSBUS_VOUT_CHECK (spec/17 R421). -/
def execAvsbusVoutCheck (mv : Nat) (s : State) : Host.Outcome State Fault Refusal := .next (avsCheck s mv)

/-! ### KREF (spec/16 R392, spec/17 R419) -/

/-- KREF runs: a stage that waited for it begins. -/
def krefDetect (s : State) : State := stageBegin { s with fin := { s.fin with kref := true } }

/-- KREF_DETECT (spec/16 R392). -/
def execKrefDetect (s : State) : Host.Outcome State Fault Refusal := .next (krefDetect s)

/-- KREF shows no edge after boot (spec/17 R419). -/
def krefLost (s : State) : State :=
  if s.fin.kref then raiseFault { s with fin := { s.fin with kref := false } } 0 4 0x18 0 else s

/-- KREF_LOST (spec/17 R419). -/
def execKrefLost (s : State) : Host.Outcome State Fault Refusal := .next (krefLost s)

/-- The ROM has run 100 ms without KREF: boot stops at stage 1 (spec/16 R392). -/
def krefTimeout (s : State) : State :=
  if s.fin.kref || s.fin.krefLostBoot || decide (1 < s.fin.stage) then s
  else raiseFault { s with fin := { s.fin with stage := 1, krefLostBoot := true } } 0 4 0x18 0

/-- KREF_BOOT_TIMEOUT (spec/16 R392). -/
def execKrefBootTimeout (s : State) : Host.Outcome State Fault Refusal := .next (krefTimeout s)

/-! ### PERST_N and configuration requests (spec/16 R392, spec/17 R422) -/

/-- PERST_N rises: held inside while VDD_PCIE is not good. -/
def perstRise (s : State) : State :=
  if !s.fin.perstLow then s
  else if railGood s 1 then { s with fin := { s.fin with perstLow := false, perstHeld := false, perstAt := s.time.keep } }
  else { s with fin := { s.fin with perstLow := false, perstHeld := true } }

/-- PERST_DEASSERT (spec/16 R392). -/
def execPerstDeassert (s : State) : Host.Outcome State Fault Refusal := .next (perstRise s)

/-- A PERST_N deasserted early is released inside, 1 ms after VDD_PCIE is good. -/
def perstRelease (s : State) : State :=
  if s.fin.perstHeld && railGood s 1 && keepPassed s (railRoseAt s 1) kt1ms then { s with fin := { s.fin with perstHeld := false, perstAt := s.time.keep } } else s

/-- PERST_INTERNAL_RELEASE (spec/17 R422). -/
def execPerstInternalRelease (s : State) : Host.Outcome State Fault Refusal := .next (perstRelease s)

/-- What the function's configuration space says of it (spec/13 R323, R324): a processing accelerator, with two 64-bit BARs, 64
MSI-X vectors, and neither INTx, MSI, SR-IOV, ATS nor PASID. -/
structure PcieFunction where
  functions : Nat := 1
  classCode : Nat := 0x120000
  bar0Bytes : Nat := 2 ^ 26
  bar0Prefetch : Bool := false
  bar2Bytes : Nat := 2 ^ 36
  bar2Prefetch : Bool := true
  msixVectors : Nat := 64
  intx : Bool := false
  msi : Bool := false
  sriov : Bool := false
  ats : Bool := false
  pasid : Bool := false
  /-- The widest and fastest link it trains, lanes and GT/s. -/
  lanes : Nat := 16
  rate : Nat := 128
  flitMode : Bool := true
  deriving DecidableEq, Repr

/-- The one physical function of the device. -/
def pcieFunction : PcieFunction := {}

/-- A configuration request: answered from 100 ms after the release on, with Request Retry Status before READY; a sealed
device answers normally; while the pins are taken, nothing does (spec/15 Table 15.4, spec/17 R430). 100 ms is 15,625,000
kt. -/
def configRequest (s : State) : State :=
  if s.fin.perstLow || s.fin.perstHeld || s.fin.pinsTaken || decide (s.time.keep < s.fin.perstAt + 15625000) then s
  else { s with fin := { s.fin with cfgAnswers := s.fin.cfgAnswers ++
    [if s.fin.ready || s.flt.sealed then some pcieFunction.classCode else none] } }

/-- PCIE_CONFIG_REQUEST (spec/16 R392). -/
def execPcieConfigRequest (s : State) : Host.Outcome State Fault Refusal := .next (configRequest s)

/-! ### Secure boot (spec/16 R393, R394) -/

/-- LENGTH of an image. -/
def imageLen (im : List Byte) : Nat := fieldAt im 8 4
/-- SVN of an image. -/
def imageSvn (im : List Byte) : Nat := fieldAt im 5 1
/-- CERT of an image. -/
def imageCert (im : List Byte) : List Byte := (im.drop 160).take 1024

/-- Where an image starts in boot flash: its slot, and the belfry image 0x50_0000 into it (spec/16 R393). -/
def imagePlace (slotB belfry : Bool) : Nat := (if slotB then 0x1000000 else 0) + if belfry then 0x500000 else 0

/-- LENGTH's bound: 4 MiB for the Finial image, 8 MiB for the belfry image (spec/16 Table 16.3). -/
def imageMax (stage : Nat) : Nat := if stage = 1 then 2 ^ 22 else 2 ^ 23

/-- Every condition of R394 but the SVN's, with the header as Table 16.3 bounds it (log entry 47 on KEYCLASS and the bounds). -/
def imageGood (s : State) (stage : Nat) (im : List Byte) : Bool :=
  fieldAt im 0 4 == 1 && fieldAt im 4 1 == stage && decide (imageLen im ≤ imageMax stage) && Config.certChains (imageCert im) && Config.certFirmware (imageCert im) &&
    Config.ecdsaVerify (imageCert im) (im.take 64) ((im.drop 64).take 96) &&
    sha384 ((im.drop 1280).take (imageLen im)) == (im.drop 16).take 48 &&
    (fieldAt im 6 1 == 0 || decide (s.fin.lc < 2))

/-- The anti-rollback counter of a stage (spec/16 R395). -/
def arbCounter (s : State) (stage : Nat) : Nat := if stage = 1 then s.fin.finCtr else s.fin.blfCtr

/-- An image has passed: it runs, and it is measured (spec/16 R391, R397). -/
def imageTake (s : State) (stage : Nat) (im : List Byte) : State :=
  let m := sha384 (im.take (1280 + imageLen im))
  if stage = 1 then
    stageBegin { s with fin := { s.fin with stage := 1, m0 := m, finSvn := imageSvn im }, time := { s.time with runs := true } }
  else { s with fin := { s.fin with m1 := m, blfSvn := imageSvn im, belfryImage := true } }

/-- An image has failed: slot B is tried after slot A, and after slot B the device is sealed (spec/16 R394). -/
def imageFail (s : State) (stage : Nat) (rollback : Bool) : State :=
  if s.fin.slotB then
    bootFail { s with fin := { s.fin with failB := true } } (if rollback then 0x41 else 0x40) stage
  else
    let s := chipReset s
    { s with fin := { s.fin with failA := true, slotB := true } }

/-- The image that is due: the Finial's at stage 0, the belfries' at stage 3. -/
def imageDue (s : State) (belfry : Bool) : Bool :=
  !s.flt.sealed && if belfry then
      s.fin.stage == 3 && railGood s 5 && !s.fin.belfryImage
    else s.fin.stage == 0

/-- The image programmed at its place in boot flash, which nothing in the device writes (log entry 47). -/
def flashPut (s : State) (belfry : Bool) (im : List Byte) : State :=
  { s with fin := { s.fin with flash := tabPut (fun _ => []) s.fin.flash (imagePlace s.fin.slotB belfry) im } }

/-- What boot flash holds at the place of the image that is due. -/
def flashImage (s : State) (belfry : Bool) : List Byte := tabGet (fun _ => []) s.fin.flash (imagePlace s.fin.slotB belfry)

/-- The image that is due is loaded from the slot in use and verified. -/
def imageVerify (s : State) (belfry : Bool) (im : List Byte) : State :=
  let stage := if belfry then 2 else 1
  if !imageDue s belfry then s
  else
    let s := flashPut s belfry im
    let im := flashImage s belfry
    let good := imageGood s stage im
    let svn := decide (arbCounter s stage ≤ imageSvn im)
    if good && svn then imageTake s stage im else imageFail s stage (good && !svn)

/-- BOOT_IMAGE_VERIFY (spec/16 R394). -/
def execBootImageVerify (belfry : Bool) (image : List Byte) (s : State) : Host.Outcome State Fault Refusal :=
  .next (imageVerify s belfry image)

/-! ### Stages (spec/16 R391) -/

/-- A repair entry of a Lantern bank applied: Lantern, spare and bank (spec/15 R379). -/
def applySpare (s : State) (r : Nat × Nat) : State :=
  if r.1 / 8192 = 2 ∧ r.2 / 8192 = 2 then
    let k := r.1 % 8192
    let n := k / 0x100
    let j := r.2 % 8192 % 0x100 - 0x40
    let bank := if k % 0x100 < 0x40 then some (k % 0x100) else spareBank s n (k % 0x100 - 0x40)
    if s.mif.spares.any fun x => x.1 == n && x.2.1 == j then s
    else
      let spares := s.mif.spares.map fun x => if x.1 == n && x.2.2 == bank then (x.1, x.2.1, none) else x
      { s with mif := { s.mif with spares := spares ++ [(n, j, bank)] } }
  else s

/-- Every channel of the Drums trained now. -/
def trainAll (s : State) : State :=
  (List.range 128).foldl (fun s ch => channelPut s ch { channel s ch with
    training := false, due := false, exiting := false, lastTrained := mtime s, trainTemp := (channel s ch).pkgTemp,
    tag := some (tagNow s) }) s

/-- Stage 2: the Drums train; in compute mode the Lanterns take their spares. -/
def stageMemory (s : State) : State :=
  if s.fin.stage = 2 ∧ !s.fin.memoryDone ∧ railGood s 3 ∧ railGood s 4 ∧ s.fin.kref ∧ !s.fin.krefLostBoot ∧ !s.flt.sealed ∧
      !s.fin.pinsTaken then
    let s := trainAll s
    let s := if s.fin.strap = 1 then s else s.flt.repairs.foldl applySpare s
    stageBegin { s with fin := { s.fin with memoryDone := true } }
  else s

/-- STAGE_MEMORY (spec/16 R391). -/
def execStageMemory (s : State) : Host.Outcome State Fault Refusal := .next (stageMemory s)

/-- A repair entry of a turret slot applied (spec/15 R379, R380). -/
def applyFence (s : State) (r : Nat × Nat) : State :=
  let slot := r.1 % 8192
  if r.1 / 8192 = 1 ∧ slot < 0x110 then
    let b := slot / 17
    let p := slot % 17
    let x := belfry s b
    if x.fencedSlots.contains p then s
    else
      let y := { x with fencedSlots := x.fencedSlots ++ [p] }
      match servesAs x p with
      | none => belfryPut s b y
      | some i =>
        if r.2 = 0xFFFF then
          belfryPut s b { y with vacated := y.vacated ++ [i], spareFor := if p = 16 then none else y.spareFor }
        else belfryPut s b { y with spareFor := some i }
  else s

/-- Stage 3: turret fences applied and one point calibrated at idle into CHM_VF0. -/
def stageDome (s : State) (volt : Nat) : State :=
  if s.fin.stage = 3 ∧ !s.fin.domeDone ∧ railGood s 5 ∧ s.fin.belfryImage ∧ !s.flt.sealed then
    let s := s.flt.repairs.foldl applyFence s
    let s := vfPut s 0 (some { volt := volt, load := s.chime.load, temp := s.chime.temp, taken := mtime s })
    vddSet { s with fin := { s.fin with domeDone := true } }
  else s

/-- STAGE_DOME (spec/16 R391). -/
def execStageDome (volt : Nat) (s : State) : Host.Outcome State Fault Refusal := .next (stageDome s volt)

/-- Stage 4: stages 2 and 3 are done, or stage 2 outside compute mode. -/
def stageReady (s : State) : State :=
  if s.fin.memoryDone ∧ ((s.fin.stage = 3 ∧ s.fin.domeDone) ∨ (s.fin.stage = 2 ∧ s.fin.strap ≠ 0)) ∧ !s.flt.sealed then
    let s := regSet s 0x1000188 4 0 16
    regSet { s with fin := { s.fin with stage := 4, ready := true } } 0x800000 15 0 0
  else s

/-- STAGE_READY (spec/16 R391). -/
def execStageReady (s : State) : Host.Outcome State Fault Refusal := .next (stageReady s)

end Sys2Proof.Machine
end

