-- ==== Sys2Proof/Machine/MemCtl.lean ====
section
/-! DEFINITION. The memory controllers: refresh, self-refresh and retraining of LPDDR5X channels (spec/11 R277, R278), replayed
and failed grains (R284 to R287), spare banks (R289) and the journal's copy (spec/08 R211). -/

namespace Sys2Proof.Machine

/-! ### Channels -/

/-- PER_BANK_REFRESH (spec/11 R277): refresh delays requests and drops none. -/
def execPerBankRefresh (ch : Fin 128) (s : State) : Host.Outcome State Fault Refusal :=
  .next (channelUpdate s ch.val fun x => { x with refreshes := x.refreshes + 1 })

/-- SR_IDLE of a channel's Drum. -/
def srIdle (s : State) (ch : Nat) : Nat := regBits s (if ch < 64 then 0xC00004 else 0xD00004) 15 0

/-- A channel has had no request for `us` microseconds. -/
def channelIdle (s : State) (ch us : Nat) : Bool :=
  match (channel s ch).lastUse with
  | some t => elapsed s t us
  | none => true

/-- A channel idle for SR_IDLE µs falls asleep. -/
def sleepChannel (s : State) (ch : Nat) : State :=
  if srIdle s ch = 0 ∨ channelWaits s ch ∨ !channelIdle s ch (srIdle s ch) then s
  else channelUpdate s ch fun x => { x with selfRefresh := true }

/-- SELF_REFRESH_ENTRY (spec/11 R277). -/
def execSelfRefreshEntry (ch : Fin 128) (s : State) : Host.Outcome State Fault Refusal := .next (sleepChannel s ch.val)

/-- SELF_REFRESH_EXIT (spec/11 R277): a request arrives at a sleeping channel. -/
def execSelfRefreshExit (ch : Fin 128) (s : State) : Host.Outcome State Fault Refusal :=
  .next (if (channel s ch.val).selfRefresh then wakeChannel s ch.val else s)

/-- PERIOD of a channel's Drum in ms, and TEMP_STEP in °C; 0 is read as 100 and as 5. -/
def retrainCfg (s : State) (ch : Nat) : Nat × Nat :=
  let a := if ch < 64 then 0xC00008 else 0xD00008
  let period := regBits s a 15 0
  let step := regBits s a 23 16
  (if period = 0 then 100 else period, if step = 0 then 5 else step)

/-- A channel's package is at `temp` °C: a retraining falls due PERIOD ms after the last training, or once the temperature has
moved by TEMP_STEP since (spec/11 R278). -/
def retrainCheck (s : State) (ch : Nat) (temp : Int) : State :=
  let x := channel s ch
  let (period, step) := retrainCfg s ch
  let x := { x with pkgTemp := temp }
  if x.due then channelPut s ch x
  else if elapsed s x.lastTrained (1000 * period) || decide ((temp - x.trainTemp).natAbs ≥ step) then
    channelPut s ch { x with due := true, dueAt := mtime s }
  else channelPut s ch x

/-- RETRAIN_DUE (spec/11 R278). -/
def execRetrainDue (t : PkgTemp) (s : State) : Host.Outcome State Fault Refusal :=
  .next (retrainCheck s t.ch.val t.temp)

/-- A channel whose retraining is due may train: awake, not in repair, and no other channel of its Drum in training. -/
def mayTrain (s : State) (ch : Nat) : Bool :=
  let x := channel s ch
  x.due && !x.selfRefresh && !x.ppr && !drumTrains s ch

/-- A retraining starts. -/
def trainChannel (s : State) (ch : Nat) : State :=
  if mayTrain s ch then channelUpdate s ch fun x => { x with training := true } else s

/-- CHANNEL_RETRAIN (spec/11 R278): in a gap of 1 µs. -/
def execChannelRetrain (ch : Fin 128) (s : State) : Host.Outcome State Fault Refusal :=
  .next (if channelIdle s ch.val 1 then trainChannel s ch.val else s)

/-- FORCED_RETRAIN (spec/11 R278): 20 ms after it fell due the channel is drained, gap or no gap. -/
def execForcedRetrain (ch : Fin 128) (s : State) : Host.Outcome State Fault Refusal :=
  .next (if elapsed s (channel s ch.val).dueAt 20000 then trainChannel s ch.val else s)

/-- The next channel of a Drum that must train before it serves starts (spec/11 R277). -/
def trainNext (s : State) (ch : Nat) : State :=
  match firstNat 64 fun i => (channel s (64 * (ch / 64) + i)).exiting with
  | some i => trainChannel s (64 * (ch / 64) + i)
  | none => s

/-- A retraining ends: its tag is written, and what waited for the channel goes on. -/
def trainDone (s : State) (ch : Nat) : State :=
  if (channel s ch).training then
    settle (trainNext (channelUpdate s ch fun x =>
      { x with training := false, due := false, exiting := false, lastTrained := mtime s, trainTemp := x.pkgTemp,
               tag := some (tagNow s) }) ch)
  else s

/-- RETRAIN_COMPLETE (spec/11 R278). -/
def execRetrainComplete (ch : Fin 128) (s : State) : Host.Outcome State Fault Refusal := .next (trainDone s ch.val)

/-! ### Replayed grains (spec/11 R284 to R287) -/

/-- Replays so far of a grain for an accessor. -/
def replayCount (s : State) (who : Accessor) (a : Nat) : Nat :=
  match s.mif.replays.find? fun r => r.1 == who && r.2.1 == a with
  | some r => r.2.2
  | none => 0

/-- Replays of a grain set; 0 forgets it. -/
def replaySet (s : State) (who : Accessor) (a n : Nat) : State :=
  let rest := s.mif.replays.filter fun r => !(r.1 == who && r.2.1 == a)
  { s with mif := { s.mif with replays := if n = 0 then rest else rest ++ [(who, a, n)] } }

/-- A grain has failed 3 replays for an accessor, which has not met it yet. -/
def grainFailed (s : State) (who : Accessor) (a : Nat) : Bool := decide (replayCount s who a ≥ 3)

/-- Failed grains of an accessor in a range, lowest first. -/
def failedIn (s : State) (who : Accessor) (a n : Nat) : List Nat :=
  ((s.mif.replays.filter fun r => r.1 == who && decide (r.2.2 ≥ 3) && decide (r.2.1 < a + n) && decide (a < r.2.1 + 64)).map
    (·.2.1)).sortBy fun x y => decide (x ≤ y)

/-- A failed access is recorded with its grain's offset. -/
def accessFail (s : State) (kind a : Nat) : State :=
  let (die, unit) := unitOf s a
  raiseFault s die unit kind a

/-- The accessor reads. -/
def readsGrain : Accessor → Bool
  | .opWrite _ => false
  | .journalWrite => false
  | .bar2Write => false
  | .remoteWrite => false
  | _ => true

/-- A replay seen on a row of LPDDR5X (spec/11 R288): up to 16 rows a channel, hits up to 255. -/
def suspectAdd (s : State) (ch row : Nat) : State :=
  channelUpdate s ch fun x =>
    if x.suspect.any fun r => r.1 == row then
      { x with suspect := x.suspect.map fun r => if r.1 == row then (r.1, min 255 (r.2 + 1)) else r }
    else if x.suspect.length < 16 then { x with suspect := x.suspect ++ [(row, 1)] }
    else x

/-- A grain corrected by a replay: C1, and one count of its channel or Lantern. -/
def grainGood (s : State) (a : Nat) : State :=
  let (die, unit) := unitOf s a
  let s := raiseFault s die unit 0x01 a
  match die with
  | 3 => regCount s (if unit < 64 then 0xC00200 + 4 * unit else 0xD00200 + 4 * (unit - 64)) 1
  | 2 => regCount s (0xE00020 + 0x40000 * (unit / 0x100)) 1
  | _ => s

/-- The bytes of a grain that an op's write failed on are what they were (spec/11 R287). -/
def unwrite (s : State) (o : Op) (a : Nat) : State :=
  (o.before.filter fun c => c.1 / 64 == a / 64).foldl (fun s c => { s with mem := s.mem.putBytes c.1 [c.2] }) s

/-- An op whose access failed is abandoned, even with its work done; the grain of a write keeps its previous bytes
(spec/11 R287). -/
def grainAbandon (s : State) (stream a : Nat) (write : Bool) : State :=
  match opByStream s stream with
  | some o =>
    if o.completed then s
    else
      let s := accessFail s (if write then 0x03 else 0x02) a
      let s := if write then unwrite s o a else s
      let s := if o.isDone then opUpdate s o.id fun o => { o with phase := .done .aborted } else opAbandon s o
      settle (if write then s else setHealth s 0)
  | none => s

/-- The replays of an accessor's grains in a range are over: the access has ended good (spec/11 R442). -/
def replaysEnd (s : State) (who : Accessor) (a n : Nat) : State :=
  { s with mif := { s.mif with replays := s.mif.replays.filter fun r =>
    !(r.1 == who && decide (r.2.1 < a + n) && decide (a < r.2.1 + 64)) } }

/-- The link ECC corrected an error on a grain of LPDDR5X: C1, with the channel-local byte (spec/11 R285; log entry 131). -/
def linkCorrected (s : State) (a : Nat) : State :=
  if regionOf a = .lpddr then
    let (ch, off) := lpDecode (regBits s 0xC00000 2 0) a
    raiseFault s 3 ch 0x04 off
  else s

/-- A grain of the retention area failed: the tile whose copy it holds is abandoned, job-fatally (spec/09 Table 9.9). -/
def retainedFail (s : State) (a : Nat) : State :=
  let s := s.dome.groups.foldl (fun s g =>
    (g.copies.filter fun c => retainAt s c.page / 4096 == a / 4096).foldl (fun s c =>
      tilePut s g.handle g.step { tileRed s g.handle g.step c.tile with lost := true }) s) s
  setHealth (accessFail s 0x02 a) 0

/-- A replayed grain comes back (spec/11 R284): good, perhaps with an error that its link's ECC corrected, or bad up to 3 times; a grain that fails serves its accessor's own step
(a remote read, BAR2, the journal's copy), or abandons the op. -/
def grainReplay (s : State) (who : Accessor) (a row : Nat) (good ecc : Bool) : State :=
  let s := if regionOf a = .lpddr ∧ readsGrain who then suspectAdd s (unitOf s a).2 row else s
  let s := if ecc then linkCorrected s a else s
  if good then replaySet (grainGood s a) who a 0
  else
    let n := replayCount s who a + 1
    let s := replaySet s who a n
    if n < 3 then s
    else match who with
      | .opRead st => grainAbandon (replaySet s who a 0) st a false
      | .opWrite st => grainAbandon (replaySet s who a 0) st a true
      | .retained => settle (retainedFail (replaySet s who a 0) a)
      | _ => s

/-- GRAIN_REPLAY (spec/11 R284). -/
def execGrainReplay (who : Accessor) (a : Nat) (row : Nat) (back : ReplayedGrain) (s : State) :
    Host.Outcome State Fault Refusal := .next (grainReplay s who (a / 64 * 64) row back.good back.ecc)

/-! ### BAR2 with failed grains (spec/11 R287, R290) -/

/-- Every failed grain of an access is recorded, and none is remembered: a later access is checked afresh (spec/11 R287,
R442). -/
def grainsFail (s : State) (who : Accessor) (kind : Nat) (gs : List Nat) : State :=
  gs.foldl (fun s g => accessFail (replaySet s who g 0) kind g) s

/-- A host read that meets a failed grain ends with Completer Abort. -/
def bar2ReadGrains (s : State) (o n : Nat) : State :=
  match failedIn s .bar2Read o n with
  | [] => bar2Read (replaysEnd s .bar2Read o n) o n
  | gs => bar2Answer (grainsFail s .bar2Read 0x02 gs) none

/-- A host write that meets a failed grain is dropped. -/
def bar2WriteGrains (s : State) (o : Nat) (data : List Byte) : State :=
  match failedIn s .bar2Write o data.length with
  | [] => bar2Write (replaysEnd s .bar2Write o data.length) o data
  | gs => grainsFail s .bar2Write 0x03 gs

/-- A host access at a device offset: a write of bytes, or a read of a count. -/
def bar2Access (s : State) (x : Nat × Option (List Byte) × Nat) : State :=
  match x.2.1 with
  | some bs => bar2WriteGrains s x.1 bs
  | none => bar2ReadGrains s x.1 x.2.2

/-- A host access reaches a bank in copy (spec/11 R289). -/
def bar2Copies (s : State) (x : Nat × Option (List Byte) × Nat) : Bool :=
  match x.2.1 with
  | some bs => (List.range bs.length).any fun i => bankCopies s (x.1 + i)
  | none => (List.range x.2.2).any fun i => bankCopies s (servedAt s none (x.1 + i))

/-- Host accesses that wait are served in order, up to one that a bank in copy still holds. -/
def bar2Serve : Nat → State → State
  | 0, s => s
  | n + 1, s =>
    match s.mif.bar2Waits with
    | [] => s
    | x :: rest =>
      if bar2Copies s x then s else bar2Serve n (bar2Access { s with mif := { s.mif with bar2Waits := rest } } x)

/-- A host access comes after those that wait, and waits for a bank in copy (spec/11 R289). -/
def bar2Take (s : State) (x : Nat × Option (List Byte) × Nat) : State :=
  bar2Serve (s.mif.bar2Waits.length + 1) { s with mif := { s.mif with bar2Waits := s.mif.bar2Waits ++ [x] } }

/-- The endpoint serves BAR2: its pins are its own, and the device is not sealed (spec/17 R430, spec/15 Table 15.4). -/
def bar2Serves (s : State) : Bool := !s.fin.pinsTaken && !s.flt.sealed

/-- BAR2_READ (spec/11 R290). -/
def execBar2Read (a len : Nat) (s : State) : Host.Outcome State Fault Refusal :=
  .next (if bar2Serves s then bar2Take s (bar2Offset s a, none, len) else s)

/-- BAR2_WRITE (spec/11 R290). -/
def execBar2Write (a : Nat) (data : List Byte) (s : State) : Host.Outcome State Fault Refusal :=
  .next (if bar2Serves s then bar2Take s (bar2Offset s a, some data, data.length) else s)

/-! ### The journal's copy (spec/08 R211) -/

/-- The target granule that is copied next. -/
def nextGranule (s : State) : Option Nat :=
  match s.dome.journals with
  | (c :: _) :: _ => some (c.1 / 64 * 64)
  | _ => none

/-- The next granule is copied, once its burst has started and unless its bank is in copy (spec/14 R358, spec/11 R289); after a
failed read or write its target keeps its bytes. -/
def journalCopy (s : State) : State :=
  match nextGranule s with
  | none => copyGranule s false
  | some g =>
    if bankCopies s g then s
    else match payNow (touchRange s g 64) (rangeBursts s g 64) with
    | none => s
    | some s =>
    match s.mif.replays.find? fun r => r.1 == .journalRead && decide (r.2.2 ≥ 3) with
    | some r => copyGranule (accessFail (replaySet s .journalRead r.2.1 0) 0x02 r.2.1) true
    | none =>
      if grainFailed s .journalWrite g then copyGranule (accessFail (replaySet s .journalWrite g 0) 0x03 g) true
      else copyGranule (replaysEnd (replaysEnd s .journalWrite g 64) .journalRead 0 (2 ^ 48)) false

/-- JOURNAL_GRANULE_COPY (spec/08 R211): stopped memories copy nothing. -/
def execJournalGranuleCopy (s : State) : Host.Outcome State Fault Refusal :=
  .next (if s.dome.stopped || !s.mif.stoppedDies.isEmpty then s else
    settle (journalCopy s))

/-! ### Spare banks (spec/11 R289) -/

/-- The device has written this byte of its own tables while its bank was in copy: it is written now, and not lost. -/
def keptInCopy (s : State) (a : Nat) : Bool := s.mif.copyWrites.any fun w => decide (w.1 ≤ a) && decide (a < w.1 + w.2)

/-- A word that the copy lost reads zero, but for bytes written since (spec/11 R289). -/
def loseWord (s : State) (w : Nat) : State :=
  (List.range 4).foldl (fun s i =>
    let a := w / 4 * 4 + i
    if keptInCopy s a then s else { s with mem := s.mem.putBytes a [0] }) s

/-- A bank's copy to its spare ends: lost words read zero, are recorded, and are counted in SPARE_IN; what waited for the bank is
served. -/
def bankCopied (s : State) (die : Nat) (lost : List Nat) : State :=
  match s.mif.copying.find? fun c => c.1 == die with
  | none => s
  | some c =>
    let s := lost.foldl (fun s w =>
      raiseFault (loseWord s w) 2 (die * 0x100 + c.2.1) 0x02 w) s
    let s := { s with mif := { s.mif with copying := s.mif.copying.erase c } }
    let s := releaseHeld { s with mif := { s.mif with copyWrites := s.mif.copyWrites.filter fun w => bankCopies s w.1 } }
    let s := bar2Serve s.mif.bar2Waits.length s
    settle <| spareIn s (sourceOf 2 (die * 0x100 + c.2.1)) (sourceOf 2 (die * 0x100 + 0x40 + c.2.2)) lost.length

end Sys2Proof.Machine
end

