-- ==== Sys2Proof/Machine/Flits.lean ====
section
/-! DEFINITION. Flits as they arrive, link retry and the timers of a link (spec/12 R294 to R298, R313 to R317, R436). -/

namespace Sys2Proof.Machine

/-! ### A flit's fields (spec/12 Table 12.1) -/

/-- The header word. -/
def flitWord (f : List Byte) : Nat := fieldAt f 0 8

/-- The CRC holds (spec/12 R295). -/
def flitCrcOk (f : List Byte) : Bool := f.length == 256 && fieldAt f 248 8 == (crc64 (f.take 248)).toNat

/-- A DATA flit as the receiver wants it: CRC and FEC good, its FTYPE DATA, VALID in range, SEQ the next one expected
(spec/12 R298, Table 12.1). -/
def dataFlitOk (x : Link) (f : List Byte) (fecOk : Bool) : Bool :=
  let w := flitWord f
  let valid := natBits w 7 0
  fecOk && flitCrcOk f && natBits w 63 60 == 1 && natBits w 54 43 == x.expSeq &&
    (valid == 240 || (natBits w 55 55 == 1 && decide (1 ≤ valid) && decide (valid ≤ 240)))

/-- The DATA flits that an ACK covers: every one up to and including its SEQ; an ACK outside the unacknowledged range
covers none. -/
def ackCovers (x : Link) (ack : Nat) : Nat :=
  let n := (ack + 1 + x.retry.length + 4096 - x.sendSeq) % 4096
  if n ≤ x.retry.length then n else 0

/-- ACK of a good flit: covered copies go; progress ends the counts of fruitless replays and retrains. -/
def takeAck (x : Link) (ack : Nat) : Link :=
  let n := ackCovers x ack
  if n = 0 then x else { x with retry := x.retry.drop n, stuckReplays := 0, failedRetrains := 0 }

/-- Credits of a good flit: at most the 128 of a virtual lane are held (spec/12 R297). -/
def takeCredits (x : Link) (vl n : Nat) : Link :=
  { x with credits := replaceAt x.credits vl (min 128 ((x.credits[vl]?).getD 0 + n)) }

/-- ACK and credits, as any good flit returns them. -/
def takeReturns (x : Link) (w : Nat) : Link := takeCredits (takeAck x (natBits w 42 31)) (natBits w 30 28) (natBits w 27 20)

/-- An IDLE (0) or NAK (2) flit sent: no payload; ACK and credits go with it. -/
def sendControl (x : Link) (ftype : Nat) : Link :=
  let (cvl, n) := owedCredits x
  let f := flitBytes ftype 0 false false 0 (lastGood x) cvl n 0 []
  { x with sent := x.sent ++ [f], unacked := 0, owed := replaceAt x.owed cvl ((x.owed[cvl]?).getD 0 - n) }

/-- The link carries flits: UP, or HELLO for its hellos (spec/12 Table 12.8). -/
def linkCarries (x : Link) : Bool := x.st == .up || x.st == .hello

/-! ### Receiving -/

/-- The payload of a good flit joins its lane's packet; the packet a lane's EOP completes. -/
def takePayload (x : Link) (f : List Byte) : Link × Option (List Byte) :=
  let w := flitWord f
  let vl := natBits w 59 57
  let part := (f.drop 8).take (natBits w 7 0)
  let all := if natBits w 56 56 = 1 then part else (x.rx[vl]?).getD [] ++ part
  if natBits w 55 55 = 1 then ({ x with rx := replaceAt x.rx vl [] }, some all)
  else ({ x with rx := replaceAt x.rx vl all }, none)

/-- A flit was dropped: one NAK, until the replay arrives (spec/12 R298). -/
def nakOnce (s : State) (l : Nat) : State :=
  let x := link s l
  linkPut s l (if x.nak then x else { sendControl x 2 with nak := true })

/-- What an arrival has made room for goes on: the link's own queue, and then what is held. -/
def linkGoesOn (s : State) (l : Nat) : State := retryHeld (linkUpdate s l pumpLink)

/-- A DATA flit arrives: accepted in SEQ order and acknowledged every 16, or dropped with one NAK (spec/12 R298). -/
def dataArrive (s : State) (l : Nat) (f : List Byte) (fecOk : Bool) : State :=
  let x := link s l
  if !linkCarries x then s
  else if !dataFlitOk x f fecOk then nakOnce s l
  else
    let x := takeReturns x (flitWord f)
    let (x, done) := takePayload { x with expSeq := (x.expSeq + 1) % 4096, unacked := x.unacked + 1, nak := false } f
    let s := linkPut s l (if x.unacked ≥ 16 then sendControl x 0 else x)
    let s := match done with
      | some bytes => { s with fab := { s.fab with arrived := s.fab.arrived ++ [(l, bytes)] } }
      | none => s
    linkGoesOn s l

/-- DATA_FLIT (spec/12 R298). -/
def execDataFlit (l : Fin 96) (flit : List Byte) (fecOk : Bool) (s : State) : Host.Outcome State Fault Refusal :=
  .next (dataArrive s l.val flit fecOk)

/-- An IDLE flit returns ACK and credits; one that fails is dropped as any flit is (spec/12 R297, R298). -/
def idleArrive (s : State) (l : Nat) (f : List Byte) (fecOk : Bool) : State :=
  let x := link s l
  if !linkCarries x then s
  else if !(fecOk && flitCrcOk f) then nakOnce s l
  else if natBits (flitWord f) 63 60 = 0 then linkGoesOn (linkPut s l (takeReturns x (flitWord f))) l
  else s

/-- IDLE_FLIT (spec/12 R297). -/
def execIdleFlit (l : Fin 96) (flit : ControlFlit) (s : State) : Host.Outcome State Fault Refusal :=
  .next (idleArrive s l.val flit.bytes flit.fecOk)

/-! ### Replay -/

/-- Every flit after ACK is sent again in order: counted, a C1 record, and the eighth in a row without progress retrains the
link (spec/12 R298, Table 12.11). -/
def replayFlits (s : State) (l : Nat) : State :=
  let x := link s l
  let s := linkPut s l
    { x with sent := x.sent ++ x.retry.map (·.2), replays := min 65535 (x.replays + 1), stuckReplays := x.stuckReplays + 1 }
  let s := raiseFault s 4 l 0x10 l
  if x.stuckReplays + 1 ≥ 8 then linkStuck s l else s

/-- A NAK arrives; one that fails is dropped as any flit is (spec/12 R298). -/
def nakArrive (s : State) (l : Nat) (f : List Byte) (fecOk : Bool) : State :=
  let x := link s l
  if !linkCarries x then s
  else if !(fecOk && flitCrcOk f) then nakOnce s l
  else if natBits (flitWord f) 63 60 = 2 then linkGoesOn (replayFlits (linkPut s l (takeReturns x (flitWord f))) l) l
  else s

/-- NAK_FLIT (spec/12 R298). -/
def execNakFlit (l : Fin 96) (flit : ControlFlit) (s : State) : Host.Outcome State Fault Refusal :=
  .next (nakArrive s l.val flit.bytes flit.fecOk)

/-- NAK_REPEAT (spec/12 R298): the replay has not come for 2 µs. -/
def execNakRepeat (l : Fin 96) (s : State) : Host.Outcome State Fault Refusal :=
  .next (let x := link s l.val
    if linkCarries x && x.nak then linkPut s l.val (sendControl x 2) else s)

/-- RETRY_TIMEOUT (spec/12 R298): the oldest unacknowledged flit has waited 10 µs without progress. -/
def execRetryTimeout (l : Fin 96) (s : State) : Host.Outcome State Fault Refusal :=
  .next (let x := link s l.val
    if linkCarries x && !x.retry.isEmpty then replayFlits s l.val else s)

/-- LINK_ACK_TIMER (spec/12 R298): 1 µs since the last acknowledgement. -/
def execLinkAckTimer (l : Fin 96) (s : State) : Host.Outcome State Fault Refusal :=
  .next (let x := link s l.val
    if linkCarries x && (decide (x.unacked > 0) || decide ((owedCredits x).2 > 0)) then linkPut s l.val (sendControl x 0) else s)

/-- Flits wait for a virtual lane of an UP link that holds no credit for it: in its queue, or at its port. -/
def laneStarves (s : State) (l vl : Nat) : Bool :=
  let x := link s l
  x.st == .up && (x.credits[vl]?).getD 0 == 0 &&
    (x.txq.any (fun f => f.vl == vl) ||
      s.fab.heldPkts.any fun w => w.port == some (portOf s l) && classOf w.pkt.hdr.kind == vl / 2)

/-- CREDIT_SILENCE (spec/12 R315). -/
def execCreditSilence (l : Fin 96) (vl : Fin 8) (s : State) : Host.Outcome State Fault Refusal :=
  .next (if laneStarves s l.val vl.val then linkStuck s l.val else s)

/-! ### Bringing a link up, and losing it -/

/-- A link whose Gallery runs can train (spec/12 R313; spec/16 R391). -/
def canTrain (s : State) (l : Nat) : Bool := decide (s.fin.stage ≥ 1) && natBits s.fin.railPg 2 2 == 1 && !galleryStopped s l && !s.fin.pinsTaken

/-- SIGNAL_DETECT (spec/12 R313). -/
def execSignalDetect (l : Fin 96) (s : State) : Host.Outcome State Fault Refusal :=
  .next (if (link s l.val).st == .down && canTrain s l.val then linkTo s l.val .training else s)

/-- Training has locked: a KIND 3 tag is recorded, sequence numbers start at 0, and the hello exchange begins; a retraining
goes on until the link is UP (spec/12 R313, R314, spec/10 R267). -/
def linkLocked (s : State) (l : Nat) : State :=
  if (link s l).st == .training then
    let again := (link s l).retraining
    let s := linkTo s l .hello
    let s := linkUpdate s l fun x => { x with tag := some (tagNow s), sendSeq := 0, expSeq := 0, retraining := again }
    helloStart s l
  else s

/-- TRAINING_LOCK (spec/12 R313). -/
def execTrainingLock (l : Fin 96) (s : State) : Host.Outcome State Fault Refusal := .next (linkLocked s l.val)

/-- TRAINING_TIMEOUT (spec/12 R313): 500 ms without lock. -/
def execTrainingTimeout (l : Fin 96) (s : State) : Host.Outcome State Fault Refusal :=
  .next (if (link s l.val).st == .training then linkTo s l.val .down else s)

/-- LOSS_OF_SIGNAL (spec/12 R436). -/
def execLossOfSignal (l : Fin 96) (s : State) : Host.Outcome State Fault Refusal :=
  .next (let st := (link s l.val).st
    if st == .up || st == .hello || st == .training then settle (linkTo s l.val .down) else s)

/-- HELLO_TIMEOUT (spec/12 R314). -/
def execHelloTimeout (l : Fin 96) (s : State) : Host.Outcome State Fault Refusal := .next (settle (helloExpire s l.val))

/-- FAILED_LINK_RETRY (spec/12 R313): 1 s in FAILED. -/
def execFailedLinkRetry (l : Fin 96) (s : State) : Host.Outcome State Fault Refusal :=
  .next (if (link s l.val).st == .failed && canTrain s l.val then linkTo s l.val .training else s)

/-- LINK_RETRAIN_TIMEOUT (spec/12 R298): a retraining has taken longer than 100 ms. -/
def execLinkRetrainTimeout (l : Fin 96) (s : State) : Host.Outcome State Fault Refusal :=
  .next (if (link s l.val).retraining then settle (linkFail s l.val) else s)

end Sys2Proof.Machine
end

