-- ==== Sys2Proof/Machine/TimeSync.lean ====
section
/-! DEFINITION. Keep time and machine time (spec/12 R319, R320). Times of an exchange are in 1/16 kt. -/

namespace Sys2Proof.Machine

/-- This device is its keep's time leader. -/
def isLeader (s : State) : Bool := regBits s 0x800040 31 31 == 1
/-- ROOT, on the leader of the root keep. -/
def isRoot (s : State) : Bool := isLeader s && regBits s 0x800040 30 30 == 1

/-- Keep time in 1/16 kt, as the count has it. -/
def keep16 (s : State) : Int := (s.time.keep : Int) * 16

/-- What a Gallery stamps an exchange with, at a resolution of 1/16 kt: machine time at the root, else its keep time. How far the
kt has gone no command says: a free part of it (log entry 52). -/
def stamp16 (s : State) : Int × State :=
  let (n, s) := drawFree s
  (keep16 s + (if isRoot s then s.time.offset else 0) + (n % 16 : Nat), s)

/-- Offset and rate taken: a change above 1,000 kt applies at once on a device with no job, every other is slewed
(spec/12 R320). -/
def timeApply (s : State) (offset : Int) (num den : Nat) : State :=
  let jump := jobId s = 0 ∧ (offset - s.time.offset).natAbs > 16000
  let s := { s with time := { s.time with target := offset, offset := if jump then offset else s.time.offset, rateNum := num,
                                          rateDen := max 1 den, stale := false, lastSync := s.time.keep } }
  if jump then periodRestart s else s

/-- TIME event (spec/13 Table 13.8): the spec numbers no reasons, so that byte is free. -/
def timeEvent (s : State) (chip : Nat) : State :=
  let (r, s) := drawBytes 1 s
  deviceEvent s 0x0043 .ok (r ++ leBytes 2 chip)

/-- Offset of an exchange. -/
def syncOffset (t1 t2 t3 t4 : Int) : Int := ((t2 - t1) + (t3 - t4)) / 2
/-- Its path delay. -/
def syncDelay (t1 t2 t3 t4 : Int) : Int := ((t4 - t1) - (t3 - t2)) / 2

/-- The leader's offset and rate go to every device of its keep, itself included. -/
def timeSpread (s : State) (offset : Int) (num den : Nat) : State :=
  sendPkt (timeApply s offset num den) 0xFFFE 0x11 0 0 (.timeSync (.apply offset num den))

/-- The answer to an exchange: a leader computes offset, path delay and rate (how the rate is estimated the spec does not
say: a free value) and spreads them; another device with no job aligns its count (spec/12 R319). -/
def timeAnswer (s : State) (t1 t2 t3 t4 : Int) : State :=
  let off := syncOffset t1 t2 t3 t4
  if isRoot s then s
  else if isLeader s then
    let (num, s) := drawFree s
    let (den, s) := drawFree s
    let s := { s with time := { s.time with pathDelay := min 0xFFFF (syncDelay t1 t2 t3 t4).toNat } }
    timeSpread s off num (den + 1)
  else if jobId s = 0 then periodRestart { s with time := { s.time with keep := ((keep16 s + off) / 16).toNat } }
  else s

/-- A leader's broadcast: followers take the leader with the lower chip number, and a second leader is reported
(spec/12 Table 12.12). -/
def timeFollow (s : State) (src : Nat) (offset : Int) (num den : Nat) : State :=
  if isLeader s then s
  else
    let old := s.time.leaders
    let s := if old.contains src then s else { s with time := { s.time with leaders := old ++ [src] } }
    let s := if !old.contains src && !old.isEmpty then timeEvent s src else s
    if old.any fun c => decide (c < src) then s else timeApply s offset num den

/-- A TIME_SYNC arrives: it is stamped as it does (spec/12 R319). -/
def timeArrive (s : State) (h : PktHdr) (m : SyncMsg) : State :=
  match m with
  | .request t1 =>
    let (t2, s) := stamp16 s
    let (t3, s) := stamp16 s
    sendPkt s h.src 0x11 0 h.tag (.timeSync (.answer t1 t2 (max t2 t3)))
  | .answer t1 t2 t3 =>
    let (t4, s) := stamp16 s
    timeAnswer s t1 t2 t3 t4
  | .apply o n d => timeFollow s h.src o n d

/-- At keep bring-up, before it has heard a leader, a device with no job asks its neighbour toward the leader; which chip that
is the spec does not say where to find (a free value; spec/12 R319; log entry 52). -/
def alignAsk (s : State) : State :=
  if jobId s = 0 ∧ s.time.leaders.isEmpty ∧ s.fin.ready then
    let (c, s) := drawFree s
    let (tag, s) := takeTag s
    let (t1, s) := stamp16 s
    sendPkt s (c % 32768) 0x11 0 tag (.timeSync (.request t1))
  else s

/-- Every INTERVAL_US a leader asks the root leader, over plane 0 or the next plane that is up; which chip that is the spec
does not say where to find (a free value). The root's own time is machine time (spec/12 R319; log entry 52). -/
def syncInterval (s : State) : State :=
  if isRoot s then timeSpread s 0 1 1
  else if isLeader s then
    match planeUp s with
    | none => s
    | some q =>
      let (c, s) := drawFree s
      let (tag, s) := takeTag s
      let (t1, s) := stamp16 s
      let pay : Payload := .timeSync (.request t1)
      let h := mkHdr s (c % 32768) 0x11 0 tag (payBytes s.draws pay).length 0
      routeHeld s { pkt := { hdr := { h with rflags := 2 + 4 * q }, pay := pay }, port := some (6 + q), fixed := true }
  else alignAsk s

/-- TIME_SYNC_INTERVAL (spec/12 R319). -/
def execTimeSyncInterval (s : State) : Host.Outcome State Fault Refusal := .next (syncInterval s)

/-- 100 ms, in kt. -/
def staleAfter : Nat := 15625000

/-- TIME_STALE (spec/12 R320): no successful exchange for 100 ms; the keep goes on at its last rate. -/
def execTimeStale (s : State) : Host.Outcome State Fault Refusal :=
  .next (if !s.time.stale && decide (s.time.keep ≥ s.time.lastSync + staleAfter) then
    timeEvent (raiseFault { s with time := { s.time with stale := true } } 0 4 0x19 0) (ownChip s)
  else s)

/-- One kt of keep time: the offset moves toward what offset and rate give, by at most 1/16 kt in 16 kt
(spec/12 R320). -/
def timeTick (s : State) : State :=
  let t := s.time
  let k := t.keep + 1
  let drift : Int := 16 * ((k : Int) - t.lastSync) * ((t.rateNum : Int) - t.rateDen) / (max 1 t.rateDen)
  let want := t.target + drift
  let offset :=
    if k % 16 ≠ 0 then t.offset
    else if want > t.offset then t.offset + 1
    else if want < t.offset then t.offset - 1
    else t.offset
  { s with time := { t with keep := k, offset := offset } }

end Sys2Proof.Machine
end

