-- ==== Sys2Proof/Machine/Flows.lean ====
section
/-! DEFINITION. The receiving end of a flow, acknowledgement and retransmission (spec/12 R301, R302). -/

namespace Sys2Proof.Machine

/-! ### What has been received -/

/-- Where a sequence number stands in a flow's window (spec/12 R301). -/
inductive SeqPlace where
  | fresh
  | duplicate
  /-- Above the window of 1,024, where no sender is. -/
  | beyond
  deriving DecidableEq, Repr

/-- A number below the window, or received in it, is a duplicate. -/
def seqPlace (f : Flow) (fseq : Nat) : SeqPlace :=
  let d := (fseq + 2 ^ 32 - f.base % 2 ^ 32) % 2 ^ 32
  if d ≥ 2 ^ 31 then .duplicate
  else if d ≥ 1024 then .beyond
  else if f.got.contains fseq then .duplicate
  else .fresh

/-- The window moves up past every number received in order. -/
def advanceBase : Nat → Nat → List Nat → Nat × List Nat
  | 0, base, got => (base, got)
  | n + 1, base, got =>
    if got.contains base then advanceBase n ((base + 1) % 2 ^ 32) (got.filter (· != base)) else (base, got)

/-- A sequence number received: an acknowledgement is owed. -/
def markGot (s : State) (chip cls fseq : Nat) : State :=
  flowUpdate s chip cls fun f =>
    let (base, got) := advanceBase 1025 f.base (f.got ++ [fseq])
    { f with base := base, got := got, ackOwed := true }

/-! ### What has been acknowledged -/

/-- An op's wait for a packet's acknowledgement ends. -/
def ackReq (chip cls : Nat) (done : List Nat) (r : Req) : Bool :=
  match r.await with
  | .ack c k f => c == chip && k == cls && done.contains f
  | _ => false

/-- Packets of job bulk that this device answered with REFUSED count as received once their answers are acknowledged
(spec/09 R246). -/
def answersGot (s : State) (chip : Nat) (done : List Nat) : State :=
  match flow s chip 2 with
  | none => s
  | some f =>
    let out := f.answers.filter fun a => done.contains a.2
    out.foldl (fun s a => markGot (flowUpdate s chip 2 fun f => { f with answers := f.answers.erase a }) chip 2 a.1) s

/-- The packets of a flow that `p` acknowledges leave the packet store; window room is used again. -/
def releaseAcked (s : State) (chip cls : Nat) (p : Nat → Bool) : State :=
  match flow s chip cls with
  | none => s
  | some f =>
    let done := (f.unacked.map fun u => u.pkt.hdr.fseq).filter p
    if done.isEmpty then s
    else
      let s := flowUpdate s chip cls fun f => { f with unacked := f.unacked.filter fun u => !done.contains u.pkt.hdr.fseq }
      let s := { s with ops := s.ops.map fun o => { o with reqs := o.reqs.filter fun r => !ackReq chip cls done r } }
      retryHeld (answersGot s chip done)

/-- `fseq` lies below `base`, modulo 2^32. -/
def seqBelow (fseq base : Nat) : Bool :=
  let d := (base + 2 ^ 32 - fseq % 2 ^ 32) % 2 ^ 32
  decide (d ≠ 0) && decide (d < 2 ^ 31)

/-- PACK of a reverse packet: every packet below it has been received (log entry 17). -/
def takePack (s : State) (h : PktHdr) : State := releaseAcked s h.src (classOf h.kind) fun n => seqBelow n h.pack

/-- An E2E_ACK: PACK, and the bitmap of the window from PACK on; TAG names the class (log entry 17). -/
def takeE2eAck (s : State) (h : PktHdr) (bitmap : List Byte) : State :=
  releaseAcked s h.src h.tag fun n =>
    let d := (n + 2 ^ 32 - h.pack % 2 ^ 32) % 2 ^ 32
    seqBelow n h.pack || (decide (d < 1024) && mapBit bitmap d)

/-! ### FLOW_RETRANSMIT, FLOW_ACK_TIMER, FLOW_CONTEXT_FILL -/

/-- The op awaits something of a flow: an acknowledgement of its class, or, on job bulk, the rows of its chip. -/
def waitsOnFlow (o : Op) (chip cls : Nat) : Bool :=
  o.reqs.any fun r => match r.await with
    | .ack c k _ => c == chip && k == cls
    | .rows _ _ c _ => c == chip && cls == 2
    | .publish c _ => c == chip && cls == 2
    | _ => false

/-- A flow fails: what it carried is given up, every op waiting on it ends TIMEOUT, and a Gallery records it; which of the
two holds the flow the spec does not say (a free value). -/
def flowFail (s : State) (chip cls : Nat) : State :=
  let (g, s) := drawFree s
  let s := raiseFault s 4 (0x300 + g % 2) 0x14 chip
  let s := flowUpdate s chip cls fun f => { f with unacked := [] }
  let s := { s with fab := { s.fab with heldPkts := s.fab.heldPkts.filter fun w =>
    !(w.ingress.isNone && w.pkt.hdr.dst == chip && classOf w.pkt.hdr.kind == cls) } }
  let ids := (s.ops.filter fun o => !o.isDone && waitsOnFlow o chip cls).map (·.id)
  settle (ids.foldl (fun s i => match opById s i with
    | some o => limitEnd s o
    | none => s) s)

/-- A spilled context comes back, and what waited for it goes on; with none of the 12,288 places free another context takes
its place in the spill range, and which one the spec does not say (a free value; spec/12 R302). -/
def flowFill (s : State) (chip cls : Nat) : State :=
  match (flow s chip cls).bind (·.spill) with
  | none => s
  | some k =>
    let back := fun (s : State) => retryHeld (flowUpdate s chip cls fun f => { f with spill := none })
    if residents s < 12288 then back s
    else
      let (n, s) := drawFree s
      let here := s.fab.flows.filter fun f => f.spill.isNone
      match here[n % here.length]? with
      | some v => back (flowUpdate (spillTo s k) v.chip v.cls fun f => { f with spill := some k })
      | none => back s

/-- A copy of a packet of this device waits here: it has not been sent. -/
def copyWaits (s : State) (chip cls fseq : Nat) : Bool :=
  s.fab.heldPkts.any fun w => w.ingress.isNone && w.pkt.hdr.dst == chip && classOf w.pkt.hdr.kind == cls && w.pkt.hdr.fseq == fseq

/-- A packet unacknowledged 100 µs after its last sending is sent again, with STAMP and PACK of now, and an E2E_ACK with the window
of now; after 8 retransmissions the flow fails. -/
def flowRetransmit (s : State) (chip cls fseq : Nat) : State :=
  let s := flowFill s chip cls
  match (flow s chip cls).bind fun f => f.unacked.find? fun u => u.pkt.hdr.fseq == fseq with
  | none => s
  | some u =>
    if copyWaits s chip cls fseq then s
    else if u.tries ≥ 8 then flowFail s chip cls
    else
      let h := u.pkt.hdr
      let pay := ackPay s h u.pkt.pay
      let h := if h.kind = 8 then ackHdr s h else { h with stamp := stampNow s, pack := packFor s chip cls }
      let p : Packet := { hdr := h, pay := pay }
      launch (flowUpdate s chip cls fun f =>
        { f with unacked := f.unacked.map fun x =>
            if x.pkt.hdr.fseq == fseq then { x with pkt := p, tries := x.tries + 1 } else x }) p

/-- FLOW_RETRANSMIT (spec/12 R301). -/
def execFlowRetransmit (chip : Nat) (cls : Fin 3) (fseq : Nat) (s : State) : Host.Outcome State Fault Refusal :=
  .next (flowRetransmit s chip cls.val fseq)

/-- 2 µs with received packets unacknowledged: an E2E_ACK goes, a packet of the control class like any other (log entry
17). -/
def flowAck (s : State) (chip cls : Nat) : State :=
  let s := flowFill s chip cls
  match flow s chip cls with
  | none => s
  | some f =>
    if !f.ackOwed then s
    else sendNumbered s (ackHdr s (mkHdr s chip 8 0 cls 128 0)) (.e2eAck (windowBitmap f))

/-- FLOW_ACK_TIMER (spec/12 R301). -/
def execFlowAckTimer (chip : Nat) (cls : Fin 3) (s : State) : Host.Outcome State Fault Refusal :=
  .next (flowAck s chip cls.val)

/-- FLOW_CONTEXT_FILL (spec/12 R302). -/
def execFlowContextFill (chip : Nat) (cls : Fin 3) (s : State) : Host.Outcome State Fault Refusal :=
  .next (flowFill s chip cls.val)

end Sys2Proof.Machine
end

