-- ==== Sys2Proof/Machine/Fabric.lean ====
section
/-! DEFINITION. Packets as they arrive: routing (spec/12 R299, R300, R305 to R309), remote windows and violations (R310 to R312),
and what each kind does here (spec/12 Table 12.4). -/

namespace Sys2Proof.Machine

/-! ### Remote windows (spec/12 R310) -/

/-- Window w admits `n` bytes at an offset for a permission bit: VALID, JOB of the packet and of this device, and room. -/
def windowGrants (s : State) (job perm off n w : Nat) : Bool :=
  let a := 0x840000 + 32 * w
  let base := regBits s a 31 0 + regBits s (a + 4) 31 0 * 2 ^ 32
  let limit := regBits s (a + 8) 31 0 + regBits s (a + 12) 31 0 * 2 ^ 32
  regBits s (a + 16) 23 23 == 1 && regBits s (a + 16) (16 + perm) (16 + perm) == 1 && regBits s (a + 16) 15 0 == job &&
    job == jobId s && decide (base ≤ off) && decide (off + n ≤ limit)

/-- READ, WRITE, ATOMIC and REDUCE: bits of PERM. -/
def permRead : Nat := 0
def permWrite : Nat := 1
def permAtomic : Nat := 2
def permReduce : Nat := 3

/-- Some window admits it, and it lies neither in the register mirror nor in the host window, which no window opens
(spec/01 R20, Table 1.6). -/
def admitted (s : State) (job perm off n : Nat) : Bool :=
  regionOf off != .mirror && regionOf off != .hostWindow && !meetsMirror off n &&
    (List.range 256).any (windowGrants s job perm off n)

/-! ### What comes of a packet -/

/-- A packet at its destination. -/
inductive Taken where
  /-- Taken, and acknowledged where its kind is. -/
  | accept (s : State)
  /-- Dropped. -/
  | drop (s : State)
  /-- Answered: it counts as received once the answer, whose FSEQ this is, is acknowledged (spec/09 R246). -/
  | answered (s : State) (fseq : Nat)
  /-- Held back through its flow's credits, or until its flow has a context here: it has not been taken (spec/08 R205, spec/12
  R302). -/
  | hold (s : State)

/-- The bytes of a remote write may not be written: no window admits them, a view is read-only, or the range does not exist
(spec/12 R310, spec/08 R202, spec/01 R20). -/
def remoteWriteBad (s : State) (job perm off n : Nat) : Bool :=
  !admitted s job perm off n || meetsView s off n || !rangeOk s off n

/-- Grains that failed a remote write are recorded, and keep their previous bytes (spec/11 R287): the parts of the write that lie
in others. -/
def goodParts (s : State) (off : Nat) (bs : List Byte) : State × List (Nat × List Byte) :=
  let bad := failedIn s .remoteWrite off bs.length
  let t := replaysEnd (bad.foldl (fun s g => accessFail s 0x03 g) s) .remoteWrite off bs.length
  (t, (grainParts off bs).filter fun p => !bad.contains (p.1 / 64 * 64))

/-- The bytes of a remote write land, and WAITs on them are tested (spec/13 R341). -/
def landBytes (s : State) (off : Nat) (bs : List Byte) : State :=
  let (s, parts) := goodParts s off bs
  testGrains (parts.foldl (fun s p => plainWrite s p.1 p.2 true) s) off bs.length

/-- A remote write that passed its checks: its bursts start, or it waits in its flow for tokens, as for what holds its bytes up
(spec/14 R356, R358, spec/08 R211); on a stopped die nothing is taken and nothing acknowledged. -/
def remoteWrite (s : State) (l : Nat) (h : PktHdr) (perm n : Nat) (waits : Bool) (k : State → State) : Taken :=
  if remoteWriteBad s h.job perm h.offset n then .drop (violation s l h)
  else if rangeStopped s h.offset n then .drop s
  else if waits then .hold s
  else match payNow (touchRange s h.offset n) (rangeBursts s h.offset n) with
    | none => .hold s
    | some t => .accept (k t)

/-! ### READ and READ_REPLY (spec/06 R150, R151) -/

/-- Steps from a slot's version up to a parameter version, both modulo 2^32; none for a version above it, a shadow or a free
slot. -/
def slotAge (s : State) (i pver k : Nat) : Option Nat :=
  let age := (pver + 2 ^ 32 - sliceVer s i k % 2 ^ 32) % 2 ^ 32
  if sliceShadow s i k || sliceVer s i k == verFree || decide (age ≥ 2 ^ 31) then none else some age

/-- The slot of a slice that a parameter version reads: the newest that the slice had at that step, since a step that does not
update it leaves it as it was; the current one where none is held (spec/07 R171, spec/08 R204; log entry 54). -/
def slotHolding (s : State) (i pver : Nat) : Nat :=
  ((List.range (sliceSlots s i)).foldl (fun (m : Option (Nat × Nat)) k =>
    match slotAge s i pver k, m with
    | some a, some (b, j) => if a < b then some (a, k) else some (b, j)
    | some a, none => some (a, k)
    | none, m => m) none).elim (sliceCur s i) (·.2)

/-- The bytes of a row for a remote request: those of the version it carries, else the current ones (spec/08 R202). -/
def remoteBytes (s : State) (r : RowReq) : List Byte :=
  (List.range r.bytes).map fun i =>
    let a := r.off + i
    match r.pver, viewOf s a with
    | some v, some (sl, x) => committedByte s (slotAddr s sl (slotHolding s sl v) + x)
    | _, _ => committedByte s (servedAt s none a)

/-- The code of one row: REFUSED with no window or a table version not held, RANGE outside the regions, FAILED after three
replays. -/
def rowCode (s : State) (job : Nat) (r : RowReq) : Nat :=
  let held := match r.table with
    | some (id, v, _) => holdsTable s id v
    | none => true
  if !admitted s job permRead r.off r.bytes || !held then 1
  else if !rangeOk s r.off r.bytes then 2
  else if !(failedIn s .remote r.off r.bytes).isEmpty then 3
  else 0

/-- One row served: a failed read is recorded, and a look-up of a hot table counted (spec/07 R173). -/
def serveRow (s : State) (job : Nat) (r : RowReq) : State × RowReply :=
  let c := rowCode s job r
  let s := if c = 3 then (failedIn s .remote r.off r.bytes).foldl (fun s a => accessFail (replaySet s .remote a 0) 0x02 a) s
    else replaysEnd s .remote r.off r.bytes
  let s := match r.table with
    | some (id, v, row) => if c = 0 then sketchAdd s id v row r.count else s
    | none => s
  (s, { code := c, bytes := if c = 0 then remoteBytes s r else [] })

/-- A batch served: every row answered in one reply that carries the request's TAG. A batch with a refused row is a window
violation (spec/06 R162; log entry 137). -/
def serveRows (s : State) (l : Nat) (h : PktHdr) (rows : List RowReq) : State :=
  let (s, out) := rows.foldl (fun (acc : State × List RowReply) r =>
    let (s, x) := serveRow acc.1 h.job r
    (s, acc.2 ++ [x])) (s, [])
  sendPkt (if out.any fun x => x.code == 1 then violation s l h else s) h.src 2 h.offset h.tag (.readReply out)

/-- What the rows of a batch take of the belfry DMAs and the memories (spec/06 R151; log entry 134). -/
def serveBursts (s : State) (job : Nat) (rows : List RowReq) : List Burst :=
  (rows.filter fun r => rowCode s job r == 0).flatMap fun r => dmaBursts s (maskBelfries s 0xFFFF) r.off r.bytes

/-- A row of a batch lies in a bank in copy: it waits (spec/11 R289). -/
def rowsCopy (s : State) (rows : List RowReq) : Bool :=
  !s.mif.copying.isEmpty && rows.any fun r => (List.range r.bytes).any fun i => bankCopies s (servedAt s none (r.off + i))

/-- Batches are paid in the order they came, and served once paid, unless a bank in copy holds them. -/
def serveGo (s : State) : State :=
  let xs := s.fab.serving
  xs.foldl (fun s x =>
    let (s, left) := payAll s x.owed
    if left.isEmpty && !rowsCopy s x.rows then serveRows s x.link x.hdr x.rows
    else { s with fab := { s.fab with serving := s.fab.serving ++ [{ x with owed := left }] } })
    { s with fab := { s.fab with serving := [] } }

/-- Belfries whose DMAs serve these bursts. -/
def servingBelfries (bs : List Burst) : List Nat := ((bs.filter fun b => b.act == 3).map (·.unit)).eraseDups

/-- A batch is taken: the belfries whose DMAs serve it wake (spec/14 R361), and it is served once its bursts have started. -/
def serveRead (s : State) (l : Nat) (h : PktHdr) (rows : List RowReq) : Taken :=
  if rows.any fun r => rangeStopped s r.off r.bytes then .drop s
  else
    let owed := serveBursts s h.job rows
    let s := (rows.filter fun r => rowCode s h.job r == 0).foldl (fun s r => touchRange s r.off r.bytes) s
    let s := (servingBelfries owed).foldl belfryWake s
    .accept (serveGo { s with fab := { s.fab with
      serving := s.fab.serving ++ [{ link := l, hdr := h, rows := rows, owed := owed }] } })

/-- BANK_COPY_DONE (spec/11 R289): the batches that waited for the bank are served too. -/
def execBankCopyDone (die : Fin 4) (lost : List Nat) (s : State) : Host.Outcome State Fault Refusal :=
  .next (serveGo (bankCopied s die.val lost))

/-- The op whose outstanding request carries a tag and awaits this chip. -/
def opOfTag (s : State) (chip tag : Nat) : Option (Op × Req) :=
  s.ops.findSome? fun o =>
    if o.isDone then none
    else (o.reqs.find? fun r => r.tag == tag && match r.await with
      | .rows _ _ c _ => c == chip
      | .publish c _ => c == chip
      | .ack c _ _ => c == chip
      | _ => false).map fun r => (o, r)

/-- A published slice was refused: a C3 record, and the op ends MALFORMED (spec/09 R246). -/
def publishRefused (s : State) (o : Op) (chip : Nat) : State := opDone (raiseFault s 1 0x602 0x29 chip) o.id .malformed

/-- A reply arrives: its rows are there for the op that asked; a tag this device never gave is a violation, and one no op
awaits any more is late (spec/13 R345). -/
def takeReply (s : State) (l : Nat) (h : PktHdr) (rows : List RowReply) : Taken :=
  match opOfTag s h.src h.tag with
  | some (o, r) => match r.await with
    | .rows b _ _ reqs =>
      .accept (opUpdate s o.id fun o => { o with
        rowBuf := o.rowBuf ++ (reqs.zip rows).map fun x => (b, x.1, x.2), reqs := o.reqs.filter (· != r) })
    | _ => .accept (match o.body with
      | .paramPublish _ => if rows.any fun x => x.code == 1 then publishRefused s o h.src else s
      | _ => s)
  | none =>
    if h.tag < s.fab.nextTag then .accept (regCount s 0x100020 1) else .drop (violation s l h)

/-! ### WRITE, ATOMIC, REDUCE -/

/-- A WRITE's bytes land, and WAITs on them are tested; a replica's copy goes to the replica cache (spec/07 R174; log entry
30). -/
def takeWrite (s : State) (l : Nat) (h : PktHdr) (data : List Byte) : Taken :=
  remoteWrite s l h permWrite data.length false fun s =>
    if h.offset = lanBase + partBase s 0 * 2 ^ 20 ∧ data.length > 64 then replicaTake s data
    else landBytes s h.offset data

/-- An ATOMIC writes or adds to one aligned word (spec/13 R342); while the word's last write is still held, it waits. -/
def takeAtomic (s : State) (l : Nat) (h : PktHdr) (sop value : Nat) : Taken :=
  let word := fun (s : State) => signalWord sop value (memNat s h.offset 8)
  if sop > 1 ∨ h.offset % 8 ≠ 0 then .drop (violation s l h)
  else remoteWrite s l h permAtomic 8 (plainWaits s h.offset (word s)) fun s => landBytes s h.offset (word s)

/-- A REDUCE packet joins its exchange; every row it names needs the permission (spec/06 R151, R156). -/
def takeReduce (s : State) (l : Nat) (h : PktHdr) (b : ReduceBatch) : Taken :=
  let rows := (h.offset, 0) :: b.rows.map fun r => (r.1, r.2.length)
  if rows.any fun r => !admitted s h.job permReduce r.1 r.2 then .drop (violation s l h)
  else if rows.any fun r => rangeStopped s r.1 r.2 then .drop s
  else .accept (exchangeAdd s h.src b)

/-- A collective packet, given to its tile (spec/09 R237 to R243). OFFSET names the group record. -/
def takeColl (s : State) (l : Nat) (h : PktHdr) (kind : Nat) (c : CollHdr) (sums : List Int) : Taken :=
  if !admitted s h.job permReduce h.offset 64 then .drop (violation s l h)
  else if rangeStopped s h.offset 64 then .drop s
  else .accept (collRun s h.offset [{ src := h.src, kind := kind, hdr := c, sums := sums }])

/-! ### Publications (spec/09 R246) -/

/-- The job's next step: the oldest STEP_COMMIT's that has not ended, else one above the last step (log entry 51). -/
def nextStep (s : State) : Nat :=
  let steps := s.ops.filterMap fun o => match o.body with
    | .stepCommit b => if o.isDone then none else some b.step
    | _ => none
  match steps with
  | [] => s.dome.lastStep + 1
  | n :: t => t.foldl min n

/-- The receiver's three conditions. -/
def publicationOk (s : State) (slice step size off n : Nat) : Bool :=
  decide (slice < verCount s) && sliceBytes s slice == size && !sliceOwned s slice && step == nextStep s &&
    decide (off + n ≤ size)

/-- A published piece: refused, or written into the slot claimed for its step, or held back while no slot is free. -/
def takePublication (s : State) (l : Nat) (h : PktHdr) (slice step size off : Nat) (data : List Byte) : Taken :=
  if !publicationOk s slice step size off data.length then
    let n := nextFseq s h.src 2
    .answered (sendPkt s h.src 2 h.offset h.tag (.readReply [{ code := 1, bytes := [] }])) n
  else match claimSlot s slice step with
    | none => .hold s
    | some t =>
      let a := slotAddr t slice ((shadowSlot t slice step).getD 0) + off
      if !admitted s h.job permWrite a data.length then .drop (violation s l h)
      else if rangeStopped s a data.length then .drop s
      else match payNow (touchRange t a data.length) (rangeBursts s a data.length) with
        | none => .hold s
        | some t => .accept (landBytes t a data)

/-! ### Management -/

/-- The chip is in the management source list (spec/12 R311). -/
def mgmtListed (s : State) (chip : Nat) : Bool :=
  [0, 1, 2, 3].any fun i => regBits s (0x800030 + 4 * i) 31 31 == 1 && regBits s (0x800030 + 4 * i) 15 0 == chip

/-- A MGMT packet reads or writes the register mirror; the reply carries its TAG and the register as it then reads. -/
def takeMgmt (s : State) (l : Nat) (h : PktHdr) (m : MgmtMsg) : Taken :=
  if !mgmtListed s h.src then .drop (violation s l h)
  else
    let s := if m.write then writeReg s m.off m.value else s
    .accept (sendPkt s h.src 0x13 h.offset h.tag (.mgmtReply (shownReg s m.off)))

/-- A MGMT_REPLY is matched to an outstanding TAG. -/
def takeMgmtReply (s : State) (l : Nat) (h : PktHdr) : Taken :=
  if s.fab.mgmtTags.contains h.tag then
    .accept { s with fab := { s.fab with mgmtTags := s.fab.mgmtTags.filter (· != h.tag) } }
  else .drop (violation s l h)

/-- A phase record at the collector goes to bank STEP mod 2 (spec/10 R266), or is dropped and counted. -/
def takePhase (s : State) (h : PktHdr) (rec : List Byte) : Taken :=
  let base := regBits s 0x40000C 30 12 * 4096
  let at_ := base + (fieldAt rec 0 8 % 2 * 16384 + h.src) * 64
  if base = 0 ∨ h.src ≥ 16384 ∨ !inPart s 5 at_ 64 ∨ rangeStopped s (lanBase + at_) 64 then .drop (regCount s 0x400018 1)
  else .accept (devWrite s (lanBase + at_) ((rec ++ List.replicate 64 0).take 64))

/-! ### Arrival -/

/-- What a packet does once it is new and of this device's job. -/
def takeBulk (s : State) (l : Nat) (h : PktHdr) (p : Payload) : Taken :=
  match p with
  | .read rows => serveRead s l h rows
  | .readReply rows => takeReply s l h rows
  | .write d => takeWrite s l h d
  | .publish slice step size off d => takePublication s l h slice step size off d
  | .pubReply _ _ refused => takeReply s l h [{ code := b2n refused, bytes := [] }]
  | .atomic sop v => takeAtomic s l h sop v
  | .reduce b => takeReduce s l h b
  | .coll kind c _ sums => takeColl s l h kind c sums
  | .vote v => .accept (voteArrive s h.src v)
  | .e2eAck b => .accept (takeE2eAck s h b)
  | _ => .drop (violation s l h .malformed)

/-- The flows whose contexts a packet needs are here: its own, and the one an E2E_ACK speaks for. -/
def contextsHere (s : State) (h : PktHdr) : Bool :=
  let here := fun (cls : Nat) => (flow s h.src cls).all fun f => f.spill.isNone
  here (classOf h.kind) && (h.kind != 8 || here h.tag)

/-- A packet of a job class: of this device's job, on a compute device, and not received before; acknowledged once taken. It
waits while there is no context for its flow, or until its context comes back (spec/12 R301, R302, R310; spec/01 R16, R18). -/
def takeNumbered (s : State) (l : Nat) (h : PktHdr) (p : Payload) : Taken :=
  let cls := classOf h.kind
  if h.job ≠ jobId s ∨ jobId s = 0 ∨ ownChip s ≥ 0x4000 then .drop (violation s l h)
  else match openFlow s h.src cls with
    | none => .hold (flowFull s h.src cls)
    | some t =>
      if !contextsHere t h then .hold t
      else
      let t := takePack t h
      match (flow t h.src cls).map fun f => (f.answers.any fun a => a.1 == h.fseq, seqPlace f h.fseq) with
      | some (true, _) => .drop t
      | some (false, .fresh) => match takeBulk t l h p with
        | .accept u => .accept (markGot u h.src cls h.fseq)
        | .answered u n => .accept (flowUpdate u h.src cls fun f => { f with answers := f.answers ++ [(h.fseq, n)] })
        | other => other
      | some (false, .duplicate) => .drop (flowUpdate t h.src cls fun f => { f with ackOwed := true })
      | some (false, .beyond) => .drop (violation t l h)
      | none => .drop t

/-- What a packet does at its destination (spec/12 Table 12.4). -/
def takePacket (s : State) (l : Nat) (h : PktHdr) (p : Payload) : Taken :=
  match p with
  | .hello m => .accept (helloArrive s l m)
  | .timeSync m => .accept (timeArrive s h m)
  | .mgmt m => takeMgmt s l h m
  | .mgmtReply _ => takeMgmtReply s l h
  | .phase r => takePhase s h r
  | .raw _ => .drop (violation s l h .malformed)
  | other => takeNumbered s l h other

/-- The KIND that a payload travels under; none where the spec names none. -/
def kindOf : Payload → Option Nat
  | .read _ => some 1
  | .readReply _ => some 2
  | .pubReply _ _ _ => some 2
  | .write _ => some 3
  | .publish _ _ _ _ _ => some 3
  | .atomic _ _ => some 4
  | .reduce _ => some 5
  | .coll _ _ _ _ => some 6
  | .vote _ => some 7
  | .e2eAck _ => some 8
  | .hello _ => some 0x10
  | .timeSync _ => some 0x11
  | .mgmt _ => some 0x12
  | .mgmtReply _ => some 0x13
  | .phase _ => some 0x14
  | .raw _ => none

/-- The packet leaves its link's receive buffer, when its flits brought it: credits are owed for them (spec/12 R297). -/
def takeArrived (s : State) (l : Nat) (h : PktHdr) : State :=
  let mine := fun (x : Nat × List Byte) => x.1 == l && x.2.take 32 == hdrBytes h
  if s.fab.arrived.any mine then
    let vl := vlOf h
    let n := ceilDiv (32 + h.len) 240
    let s := linkUpdate s l fun x => { x with owed := replaceAt x.owed vl ((x.owed[vl]?).getD 0 + n) }
    { s with fab := { s.fab with arrived := s.fab.arrived.eraseP mine } }
  else s

/-- A packet on its way through this router: one more router passed. -/
def passOn (s : State) (l : Nat) (h : PktHdr) (p : Payload) : State :=
  routeOut s (some l) { hdr := { h with hops := h.hops + 1 }, pay := p }

/-- A packet that stays: at its destination, or dropped and counted where its DST is another chip (spec/12 R309). -/
def landed (s : State) (l : Nat) (h : PktHdr) (p : Payload) : Taken :=
  if h.dst = ownChip s ∨ h.dst = 0xFFFF ∨ h.dst = 0xFFFE then takePacket s l h p else .drop (countDrop s (some l))

/-- A packet taken out of a link: what the router does with it (spec/12 R299 to R312, spec/01 R18). -/
def routePacket (s : State) (l : Nat) (h : PktHdr) (p : Payload) : Taken :=
  if kindOf p = some 0x10 then takePacket s l h p
  else if h.hops ≥ 64 ∨ expired s h then .drop (countDrop s (some l))
  else if h.hops = 0 ∧ h.src ≠ (link s l).partnerChip then .drop (violation s l h)
  else if strayDst h || !kindKnown h.kind then .drop (violation s l h .malformed)
  else if h.dst = 0xFFFE then
    (if copyFirst s h (portOf s l) then landed (passOn s l h p) l h p else .accept (passOn s l h p))
  else match nextHop s h (some (portOf s l)) with
    | .here => landed s l h p
    | _ => .accept (passOn s l h p)

/-- A packet of this device to itself: served here, with no flow (spec/01 R18, R19). -/
def takeOwn (s : State) (p : Packet) : Taken :=
  let h := p.hdr
  if !kindKnown h.kind then .drop (violation s noLink h .malformed)
  else if classOf h.kind = 3 then takePacket s noLink h p.pay
  else if h.job ≠ jobId s ∨ jobId s = 0 ∨ ownChip s ≥ 0x4000 then .drop (violation s noLink h)
  else takeBulk s noLink h p.pay

/-- Packets of this device to itself, and those that they bring about. -/
def drainLoop : Nat → State → State
  | 0, s => s
  | n + 1, s => match s.fab.loop with
    | [] => s
    | p :: rest => match takeOwn { s with fab := { s.fab with loop := rest } } p with
      | .accept t => drainLoop n t
      | .drop t => drainLoop n t
      | .answered t _ => drainLoop n t
      | .hold t => drainLoop n { t with fab := { t.fab with loop := t.fab.loop ++ [p] } }

/-- What this device has sent to itself is taken, and what waited goes on. -/
def takeLoop (s : State) : State := if s.fab.loop.isEmpty then s else settle (drainLoop 64 s)

/-- A packet arrives on a link: only an UP link carries it, and a link in HELLO carries hellos alone (spec/12 Table 12.8);
what waited goes on. One that is held keeps its place in the receive buffer. -/
def packetIn (s : State) (l : Nat) (h : PktHdr) (p : Payload) : State :=
  let st := (link s l).st
  if st == .up || (st == .hello && kindOf p == some 0x10) then
    match routePacket (takeArrived s l h) l h p with
    | .accept t => takeLoop (settle t)
    | .drop t => takeLoop (settle t)
    | .answered t _ => takeLoop (settle t)
    | .hold t => { t with fab := { t.fab with arrived := s.fab.arrived, links := s.fab.links } }
  else if st == .hello then violation s l h
  else s

/-- A header with the KIND its command names. -/
def withKind (h : PktHdr) (kind : Nat) : PktHdr := { h with kind := kind }

/-! ### The packet commands -/

/-- PACKET_FORWARD (spec/12 R305): from a link, or from this device's own sources. -/
def execPacketForward (l : Option (Fin 96)) (h : PktHdr) (p : Payload) (s : State) : Host.Outcome State Fault Refusal :=
  .next (match l with
    | some l => packetIn s l.val (withKind h ((kindOf p).getD h.kind)) p
    | none => takeLoop (launch s { hdr := withKind h ((kindOf p).getD h.kind), pay := p }))

/-- PACKET_KIND_RESERVED (spec/12 Table 12.4). -/
def execPacketKindReserved (l : Fin 96) (h : PktHdr) (s : State) : Host.Outcome State Fault Refusal :=
  .next (if kindKnown h.kind then s else packetIn s l.val h (.raw []))

/-- READ (spec/06 R151). -/
def execRead (l : Fin 96) (h : PktHdr) (rows : List RowReq) (s : State) : Host.Outcome State Fault Refusal :=
  .next (packetIn s l.val (withKind h 1) (.read rows))

/-- READ_REPLY (spec/06 R150). -/
def execReadReply (l : Fin 96) (h : PktHdr) (rows : List RowReply) (s : State) : Host.Outcome State Fault Refusal :=
  .next (packetIn s l.val (withKind h 2) (.readReply rows))

/-- WRITE (spec/12 R310). -/
def execWrite (l : Fin 96) (h : PktHdr) (data : List Byte) (s : State) : Host.Outcome State Fault Refusal :=
  .next (packetIn s l.val (withKind h 3) (.write data))

/-- PUBLICATION_RECEIVE (spec/09 R246). -/
def execPublicationReceive (l : Fin 96) (h : PktHdr) (slice step size off : Nat) (data : List Byte) (s : State) :
    Host.Outcome State Fault Refusal :=
  .next (packetIn s l.val (withKind h 3) (.publish slice step size off data))

/-- ATOMIC (spec/13 R342). -/
def execAtomic (l : Fin 96) (h : PktHdr) (sop value : Nat) (s : State) : Host.Outcome State Fault Refusal :=
  .next (packetIn s l.val (withKind h 4) (.atomic sop value))

/-- REDUCE (spec/06 R156). -/
def execReduce (l : Fin 96) (h : PktHdr) (batch : ReduceBatch) (s : State) : Host.Outcome State Fault Refusal :=
  .next (packetIn s l.val (withKind h 5) (.reduce batch))

/-- A collective packet of a Table 9.4 kind. -/
def collIn (s : State) (l : Nat) (h : PktHdr) (kind : Nat) (c : CollHdr) (sums : List Int) : State :=
  packetIn s l (withKind h 6) (.coll kind c 0 sums)

/-- COLL_DATA (spec/09 R237). -/
def execCollData (l : Fin 96) (h : PktHdr) (c : CollHdr) (sums : List Int) (s : State) : Host.Outcome State Fault Refusal :=
  .next (collIn s l.val h 1 c sums)

/-- COLL_MISS (spec/09 R238). -/
def execCollMiss (l : Fin 96) (h : PktHdr) (c : CollHdr) (s : State) : Host.Outcome State Fault Refusal :=
  .next (collIn s l.val h 2 c [])

/-- COLL_MARKER (spec/09 R238). -/
def execCollMarker (l : Fin 96) (h : PktHdr) (c : CollHdr) (s : State) : Host.Outcome State Fault Refusal :=
  .next (collIn s l.val h 3 c [])

/-- COLL_RESTART (spec/09 R238). -/
def execCollRestart (l : Fin 96) (h : PktHdr) (c : CollHdr) (s : State) : Host.Outcome State Fault Refusal :=
  .next (collIn s l.val h 4 c [])

/-- COLL_PREPASS (spec/09 R239). -/
def execCollPrepass (l : Fin 96) (h : PktHdr) (c : CollHdr) (s : State) : Host.Outcome State Fault Refusal :=
  .next (collIn s l.val h 5 c [])

/-- COLL_EXP (spec/09 R240). -/
def execCollExp (l : Fin 96) (h : PktHdr) (c : CollHdr) (s : State) : Host.Outcome State Fault Refusal :=
  .next (collIn s l.val h 6 c [])

/-- COLL_ACK (spec/09 R243). -/
def execCollAck (l : Fin 96) (h : PktHdr) (c : CollHdr) (s : State) : Host.Outcome State Fault Refusal :=
  .next (collIn s l.val h 7 c [])

/-- VOTE (spec/08 R218). -/
def execVote (l : Fin 96) (h : PktHdr) (v : VoteMsg) (s : State) : Host.Outcome State Fault Refusal :=
  .next (packetIn s l.val (withKind h 7) (.vote v))

/-- E2E_ACK (spec/12 R301). -/
def execE2eAck (l : Fin 96) (h : PktHdr) (bitmap : List Byte) (s : State) : Host.Outcome State Fault Refusal :=
  .next (packetIn s l.val (withKind h 8) (.e2eAck bitmap))

/-- HELLO (spec/12 R314). -/
def execHello (l : Fin 96) (h : PktHdr) (m : HelloMsg) (s : State) : Host.Outcome State Fault Refusal :=
  .next (packetIn s l.val (withKind h 0x10) (.hello m))

/-- TIME_SYNC (spec/12 R319). -/
def execTimeSync (l : Fin 96) (h : PktHdr) (m : SyncMsg) (s : State) : Host.Outcome State Fault Refusal :=
  .next (packetIn s l.val (withKind h 0x11) (.timeSync m))

/-- MGMT (spec/12 R311). -/
def execMgmt (l : Fin 96) (h : PktHdr) (m : MgmtMsg) (s : State) : Host.Outcome State Fault Refusal :=
  .next (packetIn s l.val (withKind h 0x12) (.mgmt m))

/-- MGMT_REPLY (spec/12 R311). -/
def execMgmtReply (l : Fin 96) (h : PktHdr) (value : Word) (s : State) : Host.Outcome State Fault Refusal :=
  .next (packetIn s l.val (withKind h 0x13) (.mgmtReply value))

/-- PHASE (spec/10 R266). -/
def execPhase (l : Fin 96) (h : PktHdr) (rec : List Byte) (s : State) : Host.Outcome State Fault Refusal :=
  .next (packetIn s l.val (withKind h 0x14) (.phase rec))

end Sys2Proof.Machine
end

