-- ==== Sys2Proof/Machine/Steps.lean ====
section
/-! DEFINITION. Tiles, steps and their telemetry: the commands of turrets, of the Vane and of a step's votes (spec/03 R67, spec/05
R117, spec/08 R190, R214, R218 to R220, spec/09 R237), the close of a step (spec/10 R255, R261 to R269) and one kt. -/

namespace Sys2Proof.Machine

/-! ### Turrets -/

/-- TILE_START (spec/08 R190). -/
def execTileStart (t : Fin 256) (s : State) : Host.Outcome State Fault Refusal := .next (settle (startTile s t.val))

/-- TILE_COMPLETE (spec/03 R67). -/
def execTileComplete (t : Fin 256) (buf : Fin 2) (s : State) : Host.Outcome State Fault Refusal :=
  .next (settle (completeTile s t.val buf.val))

/-- LATE_FETCH_ARRIVAL (spec/05 R117). -/
def execLateFetchArrival (t : Fin 256) (buf : Fin 2) (s : State) : Host.Outcome State Fault Refusal :=
  .next (settle (lateArrival s t.val buf.val))

/-- TILE_LOCALLY_COMPLETE (spec/09 R237): the tile of the group record at this offset goes on as far as it can. -/
def execTileLocallyComplete (group tile step : Nat) (s : State) : Host.Outcome State Fault Refusal :=
  .next (match groupStep s group step with
    | some _ => settle (tileGo s group step tile)
    | none => s)

/-! ### The Vane and the votes -/

/-- The UPDATE on a stream runs, once no push still reads (spec/08 R214, spec/15 R383). -/
def updateGo (s : State) (stream : Nat) : State :=
  match opByStream s stream with
  | some o => match o.body with
    | .update b => if o.isActive && opReady o && !pushReading s o && !s.dome.stopped then settle (updateRun s o b) else s
    | _ => s
  | none => s

/-- UPDATE_RUN (spec/08 R214). -/
def execUpdateRun (stream : Nat) (s : State) : Host.Outcome State Fault Refusal := .next (updateGo s stream)

/-- GATE_CAST (spec/08 R218). -/
def execGateCast (stream : Nat) (s : State) : Host.Outcome State Fault Refusal := .next (settle (gateCast s stream))

/-- COMMIT_ROUND_CAST (spec/08 R218). -/
def execCommitRoundCast (stream : Nat) (s : State) : Host.Outcome State Fault Refusal := .next (settle (commitCast s stream))

/-- GATE_LIMIT_EXPIRY (spec/08 R219). -/
def execGateLimitExpiry (stream : Nat) (s : State) : Host.Outcome State Fault Refusal := .next (settle (gateExpire s stream))

/-- COMMIT_LIMIT_EXPIRY (spec/08 R219). -/
def execCommitLimitExpiry (stream : Nat) (s : State) : Host.Outcome State Fault Refusal :=
  .next (settle (commitExpire s stream))

/-- FLIP_TICK (spec/08 R220). -/
def execFlipTick (stream : Nat) (s : State) : Host.Outcome State Fault Refusal := .next (settle (flipAt s stream))

/-! ### Watches (spec/10 R261 to R264) -/

/-- Device offset of a layer's watch entry. -/
def watchAddr (s : State) (layer : Nat) : Nat := lanBase + telBase s + 2048 * telLayers s + 32 * layer

/-- An FP64 product, RNE. -/
def mul64 (a b : Val) : Val := canonical (fpMul vaneMode 0xC 0 a b)

/-- `a` is less than `b`; no NaN is. -/
def valLess (a b : Val) : Bool := !a.isNaN && !b.isNaN && cmpVal a b == .lt

/-- A layer is outside its band (spec/10 R263): W_SQ, U_SQ, LO and HI. -/
def outsideBand (w u lo hi : Val) : Bool :=
  valLess u (mul64 (mul64 lo lo) w) || valLess (mul64 (mul64 hi hi) w) u ||
    (w.isZero && valLess (.zero false) u) || !u.isFin || !w.isFin

/-- A run just reached a non-zero multiple of `n`. -/
def runReached (old new n : Nat) : Bool := decide (new ≠ old) && decide (new ≠ 0) && decide (n ≠ 0) && decide (new % n = 0)

/-- One layer evaluated at the close of a committed step: its record has NORMS. -/
def watchLayer (s : State) (step layer : Nat) : State :=
  let a := layerRec s step layer
  if memNat s a 8 ≠ step ∨ memNat s (a + 12) 4 % 2 = 0 then s
  else
    let e := watchAddr s layer
    let f64 := fun i => decodeVal 0xC false (memNat s (a + i) 8)
    let f32 := fun i => decodeVal 0 false (memNat s (e + i) 4)
    let n := memNat s (e + 8) 2
    let out := decide (n ≠ 0) && outsideBand (f64 16) (f64 32) (f32 0) (f32 4)
    let zero := decide (memNat s (a + 24) 8 = 0)
    let starved := zero && decide (memNat s (a + 48) 4 = 0)
    let oldOut := memNat s (e + 10) 2
    let newOut := if n = 0 then oldOut else if out then min 65535 (oldOut + 1) else 0
    let oldStarve := memNat s (e + 12) 4
    let newStarve := if starved then satAdd32 oldStarve 1 else 0
    let s := devWrite s (a + 12) (leBytes 4 (memNat s (a + 12) 4 % 2 + 2 * b2n out + 4 * b2n zero))
    let s := devWrite s (e + 10) (leBytes 2 newOut ++ leBytes 4 newStarve ++ leBytes 8 step)
    let s := if out && runReached oldOut newOut n then
        deviceEvent s 0x0021 .ok (leBytes 2 layer ++ leBytes 8 step ++ leBytes 2 newOut) else s
    if starved && runReached oldStarve newStarve (regBits s 0x400004 31 16) then
      deviceEvent s 0x0022 .ok (leBytes 2 layer ++ leBytes 8 step ++ leBytes 4 newStarve)
    else s

/-- Every layer of a committed step evaluated (spec/10 R262). -/
def watchAll (s : State) (t : StepTel) : State :=
  if t.outcome = some .ok ∧ telKept s then (List.range (telLayers s)).foldl (fun s l => watchLayer s t.step l) s else s

/-! ### The phase record and the baseline (spec/10 R266, R269) -/

/-- The 64-byte phase record (spec/10 Table 10.6). -/
def phaseRecord (s : State) (t : StepTel) : List Byte :=
  leBytes 8 t.step ++ leBytes 2 (ownChip s) ++ leBytes 1 (b2n (t.outcome != some .ok)) ++ leBytes 5 0 ++
    t.counters.flatMap (leBytes 4) ++ leBytes 8 t.start ++ leBytes 8 t.gate

/-- The record sent to the collector, which may be this device; one that no port can take is dropped and counted. -/
def phaseSend (s : State) (rec : List Byte) : State :=
  let c := regBits s 0x400008 15 0
  let h := mkHdr s c 0x14 0 0 64 0
  let way := match nextHop s h none with
    | .out _ _ => true
    | _ => false
  if regBits s 0x400008 31 31 = 0 then s
  else if isSelf s c || c == 0xFFFE || way then takeLoop (sendPkt s c 0x14 0 0 (.phase rec))
  else regCount s 0x400018 1

/-- Counters above the baseline by more than SLOW_PCT, as a mask. -/
def slowMask (s : State) (t : StepTel) : Nat :=
  let a := baseAddr s
  let p := memNat s (a + 48) 1
  let pct := if p = 0 then 25 else p
  ((List.range 8).map fun i =>
    let want := memNat s (a + 16 + 4 * i) 4
    if want ≠ 0 ∧ (t.counters[i]?).getD 0 * 100 > want * (100 + pct) then 2 ^ i else 0).sum

/-- The close compared with the baseline, where that is enabled. -/
def baseCompare (s : State) (t : StepTel) : State :=
  if regBits s 0x400020 31 31 = 0 then s
  else
    let s := testBaseline s
    if !s.chime.baseOk then regCount s 0x400024 1
    else
      let m := slowMask s t
      if m = 0 then s else deviceEvent s 0x0023 .ok (leBytes 8 t.step ++ leBytes 1 m)

/-- A step closes once its STEP_COMMIT and every op attributed to it have completed (spec/10 R255). -/
def stepClose (s : State) (step : Nat) : State :=
  match s.dome.steps.find? fun t => t.step == step with
  | none => s
  | some t =>
    if t.outcome.isNone || s.ops.any fun o => o.step == some step && !o.completed then s
    else
      let s := { s with dome := { s.dome with steps := s.dome.steps.filter fun x => x.step != step } }
      let s := watchAll s t
      let r := phaseRecord s t
      let s := if telKept s then devWrite s (lanBase + telBase s + 2080 * telLayers s + 64 * (step % 2)) r else s
      let s := baseCompare (phaseSend s r) t
      let s := regPut s 0x400010 (BitVec.ofNat 32 step)
      deviceEvent s 0x0020 .ok (leBytes 8 step ++ leBytes 1 (step % 2) ++ leBytes 1 (b2n (t.outcome != some .ok)))

/-- STEP_CLOSE (spec/10 R255). -/
def execStepClose (step : Nat) (s : State) : Host.Outcome State Fault Refusal := .next (stepClose s step)

/-! ### One kt (spec/12 R319, R320, spec/10 R265) -/

/-- A turret holds a tile of the op. -/
def turretHolds (s : State) (id : Nat) : Bool :=
  s.dome.turrets.any fun t => [t.2.buf0, t.2.buf1].any fun b => match b with
    | some b => b.job.op == id
    | none => false

/-- The op's tiles go through the deferred queue: a weight-gradient GEMM (spec/08 R189). -/
def isDeferred (s : State) (o : Op) : Bool :=
  match gemmBody o with
  | some (k, b) => (gemmOf s o k b).grad
  | none => false

/-- A turret or a steeple works on the op: a turret holds a tile of it or of the GEMM it is fused to, or its engines have its
bursts. -/
def engineWorks (s : State) (o : Op) : Bool :=
  o.isActive && (turretHolds s o.id || match o.work with
    | .fused g _ => turretHolds s g
    | _ => onEngines o.body && opReady o)

/-- The conditions of spec/10 Table 10.5 for a step, in Table 10.6 order. -/
def phaseHolds (s : State) (t : StepTel) : List Bool :=
  let mine := s.ops.filter fun o => o.step == some t.step
  let works := fun (p : Op → Bool) => mine.any fun o => p o && engineWorks s o
  let red := s.dome.groups.any fun g => g.step == t.step && !g.over &&
    g.tiles.any fun x => !x.acked && (x.e.isSome || x.lastE.isSome) && g.contribs.any fun c => c.elem / 1024 == x.tile
  let upd := mine.any fun o => o.isActive && !o.reqs.isEmpty && match o.body with
    | .update _ => true
    | _ => false
  let commit := mine.any fun o => !o.completed && match o.work with
    | .step _ _ (some _) _ _ _ _ => true
    | _ => false
  let idle := t.wallOpen && !(works fun _ => true) && !red && !upd && !commit
  [ works fun o => hdrPhase o.hdr == 0, works fun o => hdrPhase o.hdr == 1, works fun o => isDeferred s o, red, upd, commit,
    idle, t.wallOpen ]

/-- The phase counters of every open step count this kt. -/
def phaseTick (s : State) : State :=
  { s with dome := { s.dome with steps := s.dome.steps.map fun t =>
      { t with counters := (t.counters.zip (phaseHolds s t)).map fun x => satAdd32 x.1 (b2n x.2) } } }

/-- Keep time counts, and with the machine time of a Chime period the registers that it will take are set (spec/14 R369). -/
def timePasses (s : State) : State :=
  let t := timeTick s
  if mtime t / 1280 = mtime s / 1280 then t else chmLatch t

/-- One kt passes (log entry 5): what this device has sent to itself is taken; keep time counts while the counter has been
started and KREF runs, and the Chime notes who has work. -/
def tick (s : State) : State :=
  takeLoop (if s.time.runs && s.fin.kref then chimeNote (timePasses (phaseTick s)) else s)

end Sys2Proof.Machine
end

