-- ==== Sys2Proof/Machine/Monitor.lean ====
section
/-! DEFINITION. The Wamos monitor and the lifecycle (spec/16 R399 to R404, R406, spec/15 R379). What the spec does not lay out of
an answer's text is the model's (log entry 56). -/

namespace Sys2Proof.Machine

/-! ### Answers -/

/-- The name of a status (spec/00 Table 0.7). -/
def statusName : Status → String
  | .ok => "OK"
  | .timeout => "TIMEOUT"
  | .conflict => "CONFLICT"
  | .resourceHeld => "RESOURCE_HELD"
  | .scaleMiss => "SCALE_MISS"
  | .nonfinite => "NONFINITE"
  | .malformed => "MALFORMED"
  | .outOfRange => "OUT_OF_RANGE"
  | .quarantined => "QUARANTINED"
  | .aborted => "ABORTED"

/-- Wamos holds the UART (spec/16 R406). -/
def monitorHolds (s : State) : Bool := regBits s 0x20 31 31 == 1

/-- The last line and the prompt. -/
def wamosEnd (s : State) (st : Status) : State :=
  if monitorHolds s then sayLine (sayLine s (if st = .ok then "OK" else "ERR " ++ statusName st)) "wamos> " else s

/-- Lines of an answer, then OK. -/
def wamosLines (s : State) (ls : List String) : State := wamosEnd (ls.foldl sayLine s) .ok

/-- A 32-bit number as 0x, four digits, an underscore and four digits. -/
def wordText (n : Nat) : String :=
  "0x" ++ String.ofList (hexText 4 (n / 65536)) ++ "_" ++ String.ofList (hexText 4 n)

/-- A number in hexadecimal digits after 0x. -/
def hexNumber (digits n : Nat) : String := "0x" ++ String.ofList (hexText digits n)

/-- Wamos runs: from stage 1 on, and on a sealed device, while it holds the UART and no burn keeps it (spec/16 R391, R392,
R400). -/
def wamosRuns (s : State) : Bool :=
  s.fin.aonPwrok && (decide (s.fin.stage ≥ 1) || s.flt.sealed) && monitorHolds s && !s.wamos.lcWaits

/-- A session that has not run out. -/
def liveSession (s : State) : Option Session := s.wamos.session.filter fun x => decide (s.time.keep < x.ends)

/-- A scope is held: in DEPLOYED by an unlocked session, in the other states without a token (spec/16 Table 16.5; log entry
57 on the scopes other than WRITE). -/
def hasScope (s : State) (bitNo : Nat) : Bool :=
  s.fin.lc != 2 || ((liveSession s).map fun x => natBits x.scope bitNo bitNo == 1).getD false

/-- A command that the seal stops answers OUT_OF_RANGE (spec/16 R401). -/
def whenOpen (s : State) (k : State → State) : State :=
  if !wamosRuns s then s else if s.flt.sealed then wamosEnd s .outOfRange else k s

/-- A command that needs a scope. -/
def withScope (s : State) (bitNo : Nat) (k : State → State) : State :=
  whenOpen s fun s => if hasScope s bitNo then k s else wamosEnd s .outOfRange

/-! ### Commands that anyone may give -/

/-- Table 16.6. -/
def helpLines : List String :=
  ["help", "id", "rd", "log", "ctr", "chal", "unlock", "lock", "wr", "baud", "repair", "reset chip", "reset compute", "lc"]

/-- `help`. -/
def wamosHelp (s : State) : State := if wamosRuns s then wamosLines s helpLines else s

/-- WAMOS_HELP (spec/16 R401). -/
def execWamosHelp (s : State) : Host.Outcome State Fault Refusal := .next (wamosHelp s)

/-- `id`: part, serial, lifecycle, stage, slot, SVNs. -/
def idLines (s : State) : List String :=
  [ hexNumber 4 0x6400, hexNumber 16 s.fin.serial, hexNumber 1 s.fin.lc, hexNumber 1 s.fin.stage, hexNumber 1 (b2n s.fin.slotB),
    hexNumber 2 s.fin.finSvn, hexNumber 2 s.fin.blfSvn ]

/-- `id`. -/
def wamosId (s : State) : State := if wamosRuns s then wamosLines s (idLines s) else s

/-- WAMOS_ID (spec/16 R401). -/
def execWamosId (s : State) : Host.Outcome State Fault Refusal := .next (wamosId s)

/-- Registers `off` to `off + 4n − 4` lie in the FIN or FLT block. -/
def finOrFlt (off n : Nat) : Bool :=
  decide (off + 4 * n ≤ 0x100000) || (decide (0x200000 ≤ off) && decide (off + 4 * n ≤ 0x300000))

/-- `rd`: 1 to 64 registers. -/
def wamosRead (s : State) (off n : Nat) : State :=
  if !wamosRuns s then s
  else if n = 0 ∨ n > 64 ∨ off % 4 ≠ 0 ∨ off + 4 * n > 0x4000000 then wamosEnd s .malformed
  else if s.flt.sealed && !finOrFlt off n then wamosEnd s .outOfRange
  else wamosLines s ((List.range n).map fun i =>
    wordText (off + 4 * i) ++ " " ++ wordText (shownReg s (off + 4 * i)).toNat)

/-- WAMOS_RD (spec/16 R401). -/
def execWamosRd (off n : Nat) (s : State) : Host.Outcome State Fault Refusal := .next (wamosRead s off n)

/-- One record of `log`: word 0, word 1 and the class. -/
def logLine (r : FaultRec × Nat) : String :=
  let w := recordWords r.1
  String.ofList (hexText 16 w.1) ++ " " ++ String.ofList (hexText 16 w.2) ++ " " ++ String.ofList [hexDigit r.2]

/-- `log`: the newest records; up to 4,096. -/
def wamosLogs (s : State) (n : Nat) : State :=
  if !wamosRuns s then s
  else if n = 0 ∨ n > 4096 then wamosEnd s .malformed
  else wamosLines s ((s.flt.log.take n).map logLine)

/-- WAMOS_LOG (spec/16 R401). -/
def execWamosLog (n : Nat) (s : State) : Host.Outcome State Fault Refusal := .next (wamosLogs s n)

/-- `ctr`. -/
def wamosCounters (s : State) : State :=
  if wamosRuns s then
    wamosLines s (([0, 1, 2, 3, 4, 5].map fun c => wordText (shownReg s (0x200020 + 4 * c)).toNat) ++
      [wordText (shownReg s 0x20000C).toNat, wordText (regShown s 0x100028)])
  else s

/-- WAMOS_CTR (spec/16 R401). -/
def execWamosCtr (s : State) : Host.Outcome State Fault Refusal := .next (wamosCounters s)

/-! ### Tokens and sessions (spec/16 R403, R404) -/

/-- The groups of a challenge as printed. -/
def challengeText (c : List Byte) : String :=
  String.intercalate " " ((chunksOf 4 c).map fun g => String.ofList (g.flatMap fun b => hexText 2 b.toNat))

/-- A fresh challenge from the Finial's generator. -/
def wamosChallenge (s : State) : State :=
  whenOpen s fun s =>
    let (c, s) := drawBytes 16 s
    wamosLines { s with wamos := { s.wamos with challenge := some c } } [challengeText c]

/-- WAMOS_CHAL (spec/16 R404). -/
def execWamosChal (s : State) : Host.Outcome State Fault Refusal := .next (wamosChallenge s)

/-- 1 s, in kt. -/
def ktPerSecond : Nat := 156250000

/-- The session a token opens; none where a field fails (spec/16 Table 16.7). -/
def tokenSession (s : State) (c token : List Byte) : Option Session :=
  let secs := fieldAt token 28 4
  if token.length = 128 ∧ token.take 16 = c ∧ fieldAt token 16 8 = s.fin.serial ∧ fieldAt token 24 1 < 16 ∧
      fieldAt token 26 2 = 0 ∧ 1 ≤ secs ∧ secs ≤ 86400 ∧ Config.unlockVerify (token.take 32) (token.drop 32) then
    some { scope := fieldAt token 24 1, targetLc := fieldAt token 25 1, ends := s.time.keep + secs * ktPerSecond }
  else none

/-- The session of a token tried against the challenge that stands; none where a field fails, its challenge being another
or a spent one among them (spec/16 R404, Table 16.10). -/
def tokenTry (s : State) (token : List Byte) : Option Session := s.wamos.challenge.bind fun c => tokenSession s c token

/-- A challenge serves one token (spec/16 R404). -/
def challengeSpent (s : State) : State := { s with wamos := { s.wamos with challenge := none } }

/-- A failed token: the third failure in a row locks `unlock` out for 60 s (spec/16 R404, Table 16.10). -/
def tokenFail (s : State) : State :=
  let n := s.wamos.fails + 1
  if n ≥ 3 then
    wamosEnd { s with wamos := { s.wamos with fails := 0, lockout := true, lockEnds := s.time.keep + 60 * ktPerSecond } } .malformed
  else wamosEnd { s with wamos := { s.wamos with fails := n } } .malformed

/-- `unlock` is locked out: 60 s of keep time have not passed. -/
def lockedOut (s : State) : Bool := s.wamos.lockout && decide (s.time.keep < s.wamos.lockEnds)

/-- `unlock`: one attempt a challenge. -/
def wamosUnlock (s : State) (token : List Byte) : State :=
  whenOpen s fun s =>
    if lockedOut s then wamosEnd s .quarantined
    else match tokenTry s token with
      | some x => wamosEnd { challengeSpent s with wamos := { (challengeSpent s).wamos with session := some x, fails := 0 } } .ok
      | none => tokenFail (challengeSpent s)

/-- WAMOS_UNLOCK (spec/16 R403). -/
def execWamosUnlock (token : List Byte) (s : State) : Host.Outcome State Fault Refusal := .next (wamosUnlock s token)

/-- `lock`. -/
def wamosLock (s : State) : State := whenOpen s fun s => wamosEnd { s with wamos := { s.wamos with session := none } } .ok

/-- WAMOS_LOCK (spec/16 R404). -/
def execWamosLock (s : State) : Host.Outcome State Fault Refusal := .next (wamosLock s)

/-- UNLOCK_LOCKOUT_END (spec/16 R404): 60 s have passed. -/
def execUnlockLockoutEnd (s : State) : Host.Outcome State Fault Refusal :=
  .next (if lockedOut s then s else { s with wamos := { s.wamos with lockout := false } })

/-- SESSION_EXPIRY (spec/16 R404): VALID_S has passed. -/
def execSessionExpiry (s : State) : Host.Outcome State Fault Refusal :=
  .next { s with wamos := { s.wamos with session := liveSession s } }

/-! ### Commands that need a scope -/

/-- `wr`. -/
def wamosWrite (s : State) (off : Nat) (v : Word) : State :=
  withScope s 0 fun s =>
    if off % 4 ≠ 0 ∨ off ≥ 0x4000000 then wamosEnd s .malformed else wamosEnd (writeReg s off v) .ok

/-- WAMOS_WR (spec/16 R401). -/
def execWamosWr (off : Nat) (v : Word) (s : State) : Host.Outcome State Fault Refusal := .next (wamosWrite s off v)

/-- `baud`: the new rate applies after OK. -/
def wamosBaud (s : State) (rate : Nat) : State :=
  withScope s 0 fun s =>
    if rate < 9600 ∨ rate > 3000000 then wamosEnd s .malformed else regSet (wamosEnd s .ok) 0x20 21 0 rate

/-- WAMOS_BAUD (spec/16 R401). -/
def execWamosBaud (rate : Nat) (s : State) : Host.Outcome State Fault Refusal := .next (wamosBaud s rate)

/-- `repair`. -/
def wamosRepairs (s : State) : State :=
  whenOpen s fun s =>
    wamosLines s ((List.range s.flt.repairs.length).map fun i => String.ofList (hexText 16 (repairWord s i)))

/-- WAMOS_REPAIR (spec/16 R401). -/
def execWamosRepair (s : State) : Host.Outcome State Fault Refusal := .next (wamosRepairs s)

/-- `repair del`. -/
def wamosRepairDel (s : State) (i : Nat) : State :=
  withScope s 2 fun s =>
    if i ≥ s.flt.repairs.length then wamosEnd s .malformed
    else wamosEnd { s with flt := { s.flt with repairs := s.flt.repairs.eraseIdx i } } .ok

/-- WAMOS_REPAIR_DEL (spec/15 R379): under REPAIR scope. -/
def execWamosRepairDel (i : Nat) (s : State) : Host.Outcome State Fault Refusal := .next (wamosRepairDel s i)

/-- `reset chip`. -/
def wamosResetChip (s : State) : State := withScope s 3 fun s => chipReset (wamosEnd s .ok)

/-- WAMOS_RESET_CHIP (spec/16 R389): under RESET scope. -/
def execWamosResetChip (s : State) : Host.Outcome State Fault Refusal := .next (wamosResetChip s)

/-- `reset compute`. -/
def wamosResetCompute (s : State) : State := withScope s 3 fun s => computeReset (wamosEnd s .ok)

/-- WAMOS_RESET_COMPUTE (spec/16 R389): under RESET scope. -/
def execWamosResetCompute (s : State) : Host.Outcome State Fault Refusal := .next (wamosResetCompute s)

/-! ### The lifecycle (spec/16 R399, R400) -/

/-- A refusal whose status the spec does not name: any but OK (a free value). -/
def wamosRefuse (s : State) : State :=
  let (k, s) := drawFree s
  let all : List Status := [.timeout, .conflict, .resourceHeld, .scaleMiss, .nonfinite, .malformed, .outOfRange, .quarantined, .aborted]
  wamosEnd s ((all[k % 9]?).getD .malformed)

/-- The burn starts: Wamos answers when it has finished. -/
def lcBegin (s : State) (target : Nat) : State :=
  { s with fin := { s.fin with lcBurn := some target }, wamos := { s.wamos with lcWaits := true } }

/-- LIFECYCLE scope for a target. -/
def lcScope (x : Session) (target : Nat) : Bool := natBits x.scope 1 1 == 1 && x.targetLc == target

/-- `lc`: forward only, not with a job open (Table 16.10), out of MANUFACTURE only with an identity (spec/16 R396), and in DEVELOP
and DEPLOYED with a token for this target, given here or by the unlocked session. -/
def wamosLc (s : State) (target : Nat) (token : Option (List Byte)) : State :=
  whenOpen s fun s =>
    if target > 3 ∨ target ≤ max s.fin.lc (s.fin.lcBurn.getD 0) then wamosEnd s .malformed
    else if jobId s ≠ 0 then wamosEnd s .resourceHeld
    else if s.fin.lc = 0 then (if s.fin.cert.isEmpty then wamosRefuse s else lcBegin s target)
    else match token with
      | some t => match tokenTry s t with
        | some x =>
          if lcScope x target then lcBegin (challengeSpent s) target else wamosEnd (challengeSpent s) .outOfRange
        | none => tokenFail (challengeSpent s)
      | none =>
        if ((liveSession s).map fun x => lcScope x target).getD false then lcBegin s target else wamosEnd s .outOfRange

/-- WAMOS_LC (spec/16 R400). -/
def execWamosLc (state : Nat) (token : Option (List Byte)) (s : State) : Host.Outcome State Fault Refusal :=
  .next (wamosLc s state token)

/-- The burn has finished: Wamos answers, and entering RETURNED has destroyed the keys. -/
def lcBurned (s : State) : State :=
  if s.wamos.lcWaits then
    wamosEnd { s with wamos := { s.wamos with lcWaits := false },
                      fin := { s.fin with keysBlown := s.fin.keysBlown || s.fin.lcBurn == some 3 } } .ok
  else s

/-- LC_BURN_DONE (spec/16 R400). -/
def execLcBurnDone (s : State) : Host.Outcome State Fault Refusal := .next (lcBurned s)

/-! ### The line -/

/-- An unknown command, or a bad argument of one. -/
def wamosBad (s : State) : State := whenOpen s fun s => wamosEnd s .malformed

/-- WAMOS_UNKNOWN_COMMAND (spec/16 R401). -/
def execWamosUnknownCommand (s : State) : Host.Outcome State Fault Refusal := .next (wamosBad s)

/-- The characters of a name. -/
def asciiOf (t : String) : List Byte := t.toList.map fun c => BitVec.ofNat 8 c.toNat

/-- The words of a line, which spaces part. -/
def lineWords (line : List Byte) : List (List Byte) :=
  (line.foldr (fun (c : Byte) (ws : List (List Byte)) => if c = 32 then [] :: ws else match ws with
    | w :: t => (c :: w) :: t
    | [] => [[c]]) [[]]).filter fun w => !w.isEmpty

/-- The value of a hexadecimal digit. -/
def hexValue (c : Byte) : Option Nat :=
  let n := c.toNat
  if 48 ≤ n ∧ n ≤ 57 then some (n - 48) else if 65 ≤ n ∧ n ≤ 70 then some (n - 55) else if 97 ≤ n ∧ n ≤ 102 then some (n - 87) else none

/-- The number that digits of a base spell; none where there is no digit, or a character is none. -/
def digitsValue (base : Nat) (ds : List Byte) : Option Nat :=
  if ds.isEmpty then none
  else ds.foldl (fun a c => a.bind fun v => (hexValue c).bind fun d => if d < base then some (base * v + d) else none) (some 0)

/-- A number as it is typed: hexadecimal after 0x, underscores allowed, and decimal otherwise (spec/16 R401). -/
def typedNumber (w : List Byte) : Option Nat :=
  if w.take 2 = [48, 120] then digitsValue 16 ((w.drop 2).filter fun c => c != 95) else digitsValue 10 w

/-- 32 groups of 8 digits: group g gives bytes 4g to 4g + 3, leftmost digits first (spec/16 R403). -/
def typedToken (gs : List (List Byte)) : Option (List Byte) :=
  if gs.length = 32 ∧ gs.all (fun g => g.length == 8) then
    (gs.mapM fun g => (digitsValue 16 g).map fun v => (leBytes 4 v).reverse).map List.flatten
  else none

/-- A typed line: the command it names with its arguments, or an unknown command; an empty line is none
(spec/16 R401, Table 16.6; log entry 55). -/
def typedLine (s : State) (line : List Byte) : State :=
  let malformed := fun s => if wamosRuns s then wamosEnd s .malformed else s
  match lineWords line with
  | [] => s
  | c :: args =>
    if c = asciiOf "help" then (if args.isEmpty then wamosHelp s else malformed s)
    else if c = asciiOf "id" then (if args.isEmpty then wamosId s else malformed s)
    else if c = asciiOf "ctr" then (if args.isEmpty then wamosCounters s else malformed s)
    else if c = asciiOf "rd" then
      match args.mapM typedNumber with
      | some [off] => wamosRead s off 1
      | some [off, n] => wamosRead s off n
      | _ => malformed s
    else if c = asciiOf "log" then
      match args.mapM typedNumber with
      | some [] => wamosLogs s 16
      | some [n] => wamosLogs s n
      | _ => malformed s
    else if c = asciiOf "chal" then (if args.isEmpty then wamosChallenge s else wamosBad s)
    else if c = asciiOf "unlock" then
      match typedToken args with
      | some t => wamosUnlock s t
      | none => wamosBad s
    else if c = asciiOf "lock" then (if args.isEmpty then wamosLock s else wamosBad s)
    else if c = asciiOf "wr" then
      match args.mapM typedNumber with
      | some [off, v] => if v < 2 ^ 32 then wamosWrite s off (BitVec.ofNat 32 v) else withScope s 0 wamosBad
      | _ => withScope s 0 wamosBad
    else if c = asciiOf "baud" then
      match args.mapM typedNumber with
      | some [rate] => wamosBaud s rate
      | _ => withScope s 0 wamosBad
    else if c = asciiOf "repair" then
      match args with
      | [] => wamosRepairs s
      | d :: more =>
        if d = asciiOf "del" then
          match more.mapM typedNumber with
          | some [i] => wamosRepairDel s i
          | _ => withScope s 2 wamosBad
        else wamosBad s
    else if c = asciiOf "reset" then
      (if args = [asciiOf "chip"] then wamosResetChip s
       else if args = [asciiOf "compute"] then wamosResetCompute s
       else wamosBad s)
    else if c = asciiOf "lc" then
      match args with
      | [] => wamosBad s
      | t :: groups =>
        match typedNumber t, groups.isEmpty, typedToken groups with
        | some n, true, _ => wamosLc s n none
        | some n, false, some token => wamosLc s n (some token)
        | _, _, _ => wamosBad s
    else wamosBad s

/-- A character: echoed, and part of the line until CR or LF ends it; a line past 600 characters is no command
(log entry 55). -/
def monCharacter (s : State) (c : Byte) : State :=
  if !wamosRuns s then s
  else
    let s := { s with wamos := { s.wamos with echo := s.wamos.echo ++ [c] } }
    if c = 13 ∨ c = 10 then
      let line := s.wamos.line
      let long := line.length > 600
      let s := { s with wamos := { s.wamos with line := [] } }
      if long then wamosBad s else typedLine s line
    else { s with wamos := { s.wamos with line := s.wamos.line ++ [c] } }

/-- MON_RXD_CHARACTER (spec/16 R401). -/
def execMonRxdCharacter (c : Byte) (s : State) : Host.Outcome State Fault Refusal := .next (monCharacter s c)

end Sys2Proof.Machine
end

