-- ==== Sys2Proof/Machine/Period.lean ====
section
/-! DEFINITION. The Chime's period (spec/14 R355): what ends with the old one and what starts with the new. -/

namespace Sys2Proof.Machine

/-- What waited for a new period's tokens and shares: blocks of tiles, the bursts of ops and of the batches served, counts of
comparators, and packets at their ports (spec/14 R358, spec/12 R318). -/
def periodGo (s : State) : State :=
  let s := s.fin.cmpDue.foldl tickWrite { s with fin := { s.fin with cmpDue := [] } }
  let s := { s with fab := { s.fab with reported := [], slots := [], transitMin := regBits s 0x800010 7 0 } }
  retryHeld (serveGo (payOps (payOwed s)))

/-- CHIME_PERIOD (spec/14 R355): the next period begins, not before its machine time, and none is left out. The registers that
were set then come into force; the old period's updates, then the new one's grants; every WAIT is tested and each source may be
reported again (spec/13 R341, spec/12 R312). -/
def chimePeriod (s : State) (sensors : List (Option Int)) (watts : Nat) : State :=
  let n := s.chime.began + 1
  if !s.time.runs || s.flt.sealed || decide (mtime s < 1280 * n) then s
  else
    let s := { s with chime := { s.chime with cfg := s.chime.latch } }
    let s := grantAll (periodEnd s sensors watts)
    let s := { s with chime := { s.chime with period := s.chime.period + 1, began := n } }
    takeLoop (settle (testWaits (periodGo s) fun _ => true))

/-- CHIME_PERIOD (spec/14 R355). -/
def execChimePeriod (sensors : List (Option Int)) (watts : Nat) (s : State) : Host.Outcome State Fault Refusal :=
  .next (chimePeriod s sensors watts)

end Sys2Proof.Machine
end

