-- ==== Sys2Proof/Machine/Package.lean ====
section
/-! DEFINITION. The package (spec/17 R411 to R420, R424 to R426, R429): which ball carries which signal, the supplies and their
limits, the figures of Tables 17.1 to 17.10, and the cells of the boundary register with the levels that the device knows. -/

namespace Sys2Proof.Machine

/-! ### Balls (spec/17 R411 to R416) -/

/-- The outline of Table 17.1, lengths in µm. -/
structure Outline where
  body : Nat := 90000
  bodyTol : Nat := 150
  lid : Nat := 88000
  height : Nat := 6200
  heightTol : Nat := 150
  grid : Nat := 112
  pitch : Nat := 800
  populated : Nat := 10404
  ball : Nat := 450
  coplanarity : Nat := 200
  milligrams : Nat := 210000
  moistureLevel : Nat := 3
  deriving DecidableEq, Repr

/-- A position of the ball grid: row and column from 1. -/
structure Ball where
  row : Nat
  col : Nat
  deriving DecidableEq, Repr

/-- A number in three decimal digits. -/
def digits3 (n : Nat) : String := toString (n / 100 % 10) ++ toString (n / 10 % 10) ++ toString (n % 10)

/-- A ball's name: row and column, three digits each (R412). -/
def Ball.name (b : Ball) : String := digits3 b.row ++ "-" ++ digits3 b.col

/-- The groups of Table 17.2 with the balls of each. -/
def ballGroups : List (String × Nat) :=
  [("LPDDR5X, sites 0-3 (Drum 0)", 2376), ("LPDDR5X, sites 4-7 (Drum 1)", 2376), ("Links 0-47 (Gallery 0)", 192),
   ("Links 48-95 (Gallery 1)", 192), ("PCIe", 67), ("Keep reference", 2), ("Management, test and control", 49),
   ("Not connected", 15), ("VDD_CORE", 1600), ("VDD_SRAM", 240), ("VDDQ_LP", 384)] ++
  [("VDD_SERDES_075", 96), ("VDD_SERDES_120", 48), ("VDD_PCIE", 16), ("VDD_IO18", 8), ("VDD_AON", 8), ("VSS", 2735)]

/-- The LPDDR5X site of a channel. -/
def siteOf (c : Nat) : Nat := c / 16

/-- Where the block of channel c begins (R414). -/
def channelCorner (c : Nat) : Ball :=
  let s := siteOf c
  let j := c % 16
  { row := 28 * (s % 4) + 7 * (j / 4) + 1, col := (if s < 4 then 1 else 85) + 7 * (j % 4) }

/-- The channel block of Table 17.3, row by row. -/
def channelBlock : List (List String) :=
  [["DQ[0]", "DQ[1]", "VSS", "DQ[2]", "DQ[3]", "VSS", "DMI[0]"],
   ["DQ[4]", "DQ[5]", "VSS", "DQ[6]", "DQ[7]", "VDDQ_LP", "RDQS_T[0]"],
   ["WCK_T[0]", "WCK_C[0]", "VSS", "RDQS_C[0]", "VSS", "VDDQ_LP", "CA[0]"],
   ["CA[1]", "CA[2]", "CA[3]", "CK_T", "CK_C", "CA[4]", "CA[5]"]] ++
  [["CA[6]", "CS[0]", "CS[1]", "VSS", "VDDQ_LP", "WCK_T[1]", "WCK_C[1]"],
   ["DQ[8]", "DQ[9]", "VSS", "DQ[10]", "DQ[11]", "VSS", "RDQS_T[1]"],
   ["DQ[12]", "DQ[13]", "X", "DQ[14]", "DQ[15]", "DMI[1]", "RDQS_C[1]"]]

/-- What offset (r, k) of the block of channel c carries; position X has the site's two signals in its first two channels
(R414). -/
def channelSignal (c r k : Nat) : String :=
  let x := (((channelBlock[r]?).getD [])[k]?).getD "VSS"
  let site := "LP_SITE" ++ toString (siteOf c)
  if x = "VSS" ∨ x = "VDDQ_LP" then x
  else if x = "X" then (if c % 16 = 0 then site ++ "_RESET_N" else if c % 16 = 1 then site ++ "_ZQ" else "VSS")
  else "LP_CH" ++ digits3 c ++ "_" ++ x

/-- The ball at offset (r, k) of the block of channel c. -/
def channelBall (c r k : Nat) : Ball := { row := (channelCorner c).row + r, col := (channelCorner c).col + k }

/-- Signal row and supply row of link l, and its first column (R415): signal rows lie toward the package edge. -/
def linkRows (l : Nat) : Nat × Nat × Nat :=
  let m := l % 48
  let p := m / 8
  let col := 29 + 7 * (m % 8)
  if l < 48 then (2 * p + 1, 2 * p + 2, col) else (112 - 2 * p, 111 - 2 * p, col)

/-- What column offset k of link l's block carries in its signal row or its supply row (Table 17.4). -/
def linkSignal (l k : Nat) (supply : Bool) : String :=
  let i := "[" ++ toString l ++ "]"
  if supply then
    if k = 3 then "VDD_SERDES_075" else if k = 6 ∧ l % 2 = 0 then "VDD_SERDES_120" else "VSS"
  else match k with
    | 1 => "KL_TX_P" ++ i
    | 2 => "KL_TX_N" ++ i
    | 4 => "KL_RX_P" ++ i
    | 5 => "KL_RX_N" ++ i
    | _ => "VSS"

/-- The ball at column offset k of link l's block. -/
def linkBall (l k : Nat) (supply : Bool) : Ball :=
  let (sig, sup, col) := linkRows l
  { row := if supply then sup else sig, col := col + k }

/-! ### Management, test and control signals (spec/17 R417) -/

/-- A way a signal goes. -/
inductive PinDir where
  | input | output | both | openDrain | analog
  deriving DecidableEq, Repr

/-- A signal of Table 17.5: its bits, its direction, and whether it pulls up, down or not at all. -/
structure PinSignal where
  name : String
  bits : Nat
  dir : PinDir
  pull : Option Bool := none
  deriving DecidableEq, Repr

/-- Table 17.5 in its order; the sense pairs and the TAP have no boundary cell. -/
def pinSignals : List PinSignal :=
  [{ name := "AON_PWROK", bits := 1, dir := .input, pull := some false },
   { name := "SYS_RST_N", bits := 1, dir := .input, pull := some true },
   { name := "STRAP_MODE", bits := 3, dir := .input, pull := some false },
   { name := "RAIL_EN", bits := 6, dir := .output },
   { name := "RAIL_PG", bits := 6, dir := .input, pull := some false },
   { name := "AVS_CLK", bits := 1, dir := .output },
   { name := "AVS_MDATA", bits := 1, dir := .output },
   { name := "AVS_SDATA", bits := 1, dir := .input },
   { name := "VCORE_SENSE", bits := 2, dir := .analog },
   { name := "VSRAM_SENSE", bits := 2, dir := .analog },
   { name := "MON_TXD", bits := 1, dir := .output },
   { name := "MON_RXD", bits := 1, dir := .input, pull := some true }] ++
  [{ name := "GPIO", bits := 8, dir := .both, pull := some false },
   { name := "SMB_SCL", bits := 1, dir := .openDrain },
   { name := "SMB_SDA", bits := 1, dir := .openDrain },
   { name := "SMB_ALERT_N", bits := 1, dir := .openDrain },
   { name := "THERM_TRIP_N", bits := 1, dir := .openDrain },
   { name := "FL_CLK", bits := 1, dir := .output },
   { name := "FL_CS_N", bits := 1, dir := .output, pull := some true },
   { name := "FL_IO", bits := 4, dir := .both, pull := some true },
   { name := "TCK", bits := 1, dir := .input, pull := some false },
   { name := "TMS", bits := 1, dir := .input, pull := some true },
   { name := "TDI", bits := 1, dir := .input, pull := some true },
   { name := "TDO", bits := 1, dir := .output },
   { name := "TRST_N", bits := 1, dir := .input, pull := some false }]

/-- A single-ended signal whose name ends in _N is active low (R416). -/
def PinSignal.activeLow (p : PinSignal) : Bool := p.name.toList.reverse.take 2 == ['N', '_']

/-! ### Supplies and limits (spec/17 R418 to R420, R424 to R426) -/

/-- A rail of Table 17.7, in mV, mA and W; VDD_CORE's band is about its setpoint. -/
structure Rail where
  name : String
  nominal : Nat
  low : Nat
  high : Nat
  amps : Nat
  watts : Nat
  maximum : Nat
  deriving DecidableEq, Repr

/-- The rails of Table 17.7, VDD_CORE with this setpoint. -/
def railTable (setpoint : Nat) : List Rail :=
  [{ name := "VDD_CORE", nominal := 750, low := setpoint - 10, high := setpoint + 10, amps := 950, watts := 760, maximum := 900 },
   { name := "VDD_SRAM", nominal := 800, low := 776, high := 824, amps := 100, watts := 82, maximum := 950 },
   { name := "VDDQ_LP", nominal := 500, low := 470, high := 570, amps := 60, watts := 34, maximum := 700 },
   { name := "VDD_SERDES_075", nominal := 750, low := 728, high := 772, amps := 60, watts := 46, maximum := 900 }] ++
  [{ name := "VDD_SERDES_120", nominal := 1200, low := 1164, high := 1236, amps := 30, watts := 37, maximum := 1400 },
   { name := "VDD_PCIE", nominal := 800, low := 776, high := 824, amps := 10, watts := 8, maximum := 950 },
   { name := "VDD_IO18", nominal := 1800, low := 1710, high := 1890, amps := 2, watts := 4, maximum := 2100 },
   { name := "VDD_AON", nominal := 800, low := 776, high := 824, amps := 4, watts := 3, maximum := 950 }]

/-- A voltage lies in a rail's static band, and below its absolute maximum. -/
def Rail.inBand (r : Rail) (mv : Nat) : Bool := decide (r.low ≤ mv) && decide (mv ≤ r.high) && decide (mv ≤ r.maximum)

/-- The reference clocks of Table 17.6 in kHz, and KREF's accuracy in ppm. -/
structure RefClocks where
  kref : Nat := 156250
  krefPpm : Nat := 100
  pcie : Nat := 100000
  deriving DecidableEq, Repr

/-- Boot flash: its least size, and where the persistent store lies in it (R418). -/
def flashBytes : Nat := 2 ^ 25
def flashStore : Nat × Nat := (0x1F00000, 0x10000)

/-- The operating conditions of Table 17.10: the junction in °C, the coolant in °C, the humidity in %. -/
def conditionsMet (junction coolant humidity : Int) : Bool :=
  decide (0 ≤ junction) && decide (junction < 105) && decide (15 ≤ coolant) && decide (coolant ≤ 40) &&
    decide (10 ≤ humidity) && decide (humidity ≤ 85)

/-- Highest temperature of the lid in m°C, with a cold plate as R426 asks: inlet in °C, package power in W. -/
def lidMax (inlet watts : Nat) : Nat := 1000 * inlet + 35 * watts

/-- Thermal resistance from junction to lid of a die, in m°C/W (R426); the die numbers of spec/15 Table 15.2. -/
def junctionToLid : Nat → Option Nat
  | 1 => some 18
  | 2 => some 60
  | 3 => some 80
  | 4 => some 70
  | _ => none

/-- Highest junction temperature in m°C of a die of this power. -/
def junctionMax (die lid watts : Nat) : Option Nat := (junctionToLid die).map fun r => lid + r * watts

/-! ### Boundary scan (spec/17 R429) -/

/-- Cells of each row of Table 17.13, from TDI toward TDO. -/
def boundaryRows : List Nat := [4752, 128, 192, 32, 2, 40]

/-- The level of every single-ended signal of Table 17.5 that has a cell, in the table's order, each bus from its high bit down;
none where the level is another's to drive and no rule holds it here. -/
def pinLevels (s : State) : List (Option Bool) :=
  let down := fun (n : Nat) (f : Nat → Option Bool) => (List.range n).map fun i => f (n - 1 - i)
  [some s.fin.aonPwrok, none] ++ down 3 (fun _ => none) ++ down 6 (fun i => some (s.fin.railEn.testBit i)) ++
    down 6 (fun i => some (s.fin.railPg.testBit i)) ++ List.replicate 5 none ++ down 8 (fun p => some (gpioLevel s p)) ++
    [none, none, some !s.flt.alert, some !s.flt.thermTrip] ++ List.replicate 6 none

/-- Levels as a number, the last of them in bit 0; `k` gives those that no rule holds. -/
def levelBits (k : Nat) (ls : List (Option Bool)) : Nat :=
  (ls.foldl (fun (a : Nat × Nat) l => (2 * a.1 + b2n (l.getD (k.testBit a.2)), a.2 + 1)) (0, 0)).1

/-- What the boundary register samples: its last 40 cells the single-ended signals, the others the levels of balls that no rule
holds here. The cell nearest TDO is bit 0 (log entry 159). -/
def sampledCells (s : State) (k : Nat) : Nat :=
  k % 2 ^ 5106 * 2 ^ 40 + levelBits (k / 2 ^ 5106) (pinLevels s) % 2 ^ 40

end Sys2Proof.Machine
end

