-- ==== Sys2Proof/Machine/Pins.lean ====
section
/-! DEFINITION. SMBus (spec/17 R427) and JTAG (spec/17 R428 to R430, spec/16 R399). -/

namespace Sys2Proof.Machine

/-! ### SMBus -/

/-- The target answers whenever its domain has power; none is NACK. -/
def smbAnswer (s : State) (a : Option (List Byte)) : State :=
  if s.fin.aonPwrok then { s with fin := { s.fin with smbAnswer := a } } else s

/-- SMB_READ_PART (spec/17 R427). -/
def execSmbReadPart (s : State) : Host.Outcome State Fault Refusal := .next (smbAnswer s (some (leBytes 2 0x6400)))

/-- Command 0x01: READY, HALTED, DEVICE_FATAL, SEALED, GUARD, a factor below 16, THERM_TRIP_N low. -/
def smbStatus (s : State) : Nat :=
  b2n s.fin.ready + 2 * b2n s.flt.halted + 4 * b2n (!s.flt.fatal.isEmpty) + 8 * b2n s.flt.sealed + 16 * b2n s.chime.guard +
    32 * b2n (s.chime.factors.any fun f => decide (f < 16)) + 64 * b2n s.flt.thermTrip

/-- SMB_READ_STATUS (spec/17 R427). -/
def execSmbReadStatus (s : State) : Host.Outcome State Fault Refusal :=
  .next (smbAnswer s (some (leBytes 1 (smbStatus s))))

/-- The hottest of the sensors. -/
def hottestOf : List Int → Int
  | [] => 0
  | t :: ts => ts.foldl max t

/-- SMB_READ_TEMP (spec/17 R427). -/
def execSmbReadTemp (s : State) : Host.Outcome State Fault Refusal :=
  .next (smbAnswer s (some (leBytes 2 (wrapTo 16 (hottestOf s.chime.temps)))))

/-- SMB_READ_POWER (spec/17 R427). -/
def execSmbReadPower (s : State) : Host.Outcome State Fault Refusal :=
  .next (smbAnswer s (some (leBytes 2 (min 0xFFFF s.chime.watts))))

/-- SMB_READ_STAGE (spec/17 R427). -/
def execSmbReadStage (s : State) : Host.Outcome State Fault Refusal := .next (smbAnswer s (some (leBytes 1 s.fin.stage)))

/-- Command 0x05: the newest record of class C2 or above, or zeros; SMB_ALERT_N is released. -/
def smbFault (s : State) : State :=
  if s.fin.aonPwrok then
    let bs := match s.flt.newest with
      | some r => recordBytes r
      | none => List.replicate 16 0
    smbAnswer { s with flt := { s.flt with alert := false } } (some bs)
  else s

/-- SMB_READ_FAULT (spec/17 R427). -/
def execSmbReadFault (s : State) : Host.Outcome State Fault Refusal := .next (smbFault s)

/-- SMB_ALERT_RESPONSE (spec/17 R427): a device that pulls SMB_ALERT_N low answers. -/
def execSmbAlertResponse (s : State) : Host.Outcome State Fault Refusal :=
  .next (if s.fin.aonPwrok && s.flt.alert then { s with fin := { s.fin with smbAlertAnswers := s.fin.smbAlertAnswers + 1 } } else s)

/-- SMB_WRITE (spec/17 R427): NACK. -/
def execSmbWrite (s : State) : Host.Outcome State Fault Refusal := .next (smbAnswer s none)

/-! ### JTAG -/

/-- The IDCODE (spec/17 R428). -/
def idcode (s : State) : Nat := s.fin.stepping % 16 * 2 ^ 28 + 0x6400 * 2 ^ 12 + 0x2B7 * 2 + 1

/-- The pins come back: a chip reset runs (spec/17 R430). -/
def pinsBack (s : State) : State :=
  if s.fin.pinsTaken then
    let s := chipReset s
    { s with fin := { s.fin with pinsTaken := false } }
  else s

/-- The instruction register loaded. -/
def irLoad (s : State) (code : Nat) : State := { s with fin := { s.fin with jtagIr := code } }

/-- The pins go to the boundary register: compute reset, every link DOWN, and the Dome, the Lanterns and the Drums kept in
reset. -/
def takePins (s : State) : State :=
  if s.fin.pinsTaken then s
  else
    let s := computeReset s
    let s := (List.range 96).foldl (fun s l => if (link s l).st == .disabled then s else linkTo s l .down) s
    { s with dome := { s.dome with stopped := true }, mif := { s.mif with stoppedDies := [1, 2, 3, 4, 5, 6] },
             fin := { s.fin with pinsTaken := true } }

/-- An instruction that takes the pins. -/
def pinInstr (s : State) (code : Nat) : State := if s.fin.aonPwrok then irLoad (takePins s) code else s

/-- Any other instruction; the data register it selects captures `dr`, none where it selects the bypass bit. -/
def plainInstr (s : State) (code : Nat) (dr : Option Nat) : State :=
  if s.fin.aonPwrok then
    let s := irLoad (pinsBack s) code
    match dr with
    | some d => { s with fin := { s.fin with jtagDr := d } }
    | none => s
  else s

/-- EXTEST (spec/17 R430). -/
def execExtest (s : State) : Host.Outcome State Fault Refusal := .next (pinInstr s 0x00)

/-- IDCODE (spec/17 R428). -/
def execIdcode (s : State) : Host.Outcome State Fault Refusal := .next (plainInstr s 0x01 (some (idcode s)))

/-- SAMPLE/PRELOAD samples the levels of the balls; those that others drive lie outside the model (free values). -/
def samplePins (s : State) : State :=
  let (k, s) := drawFree s
  let s := plainInstr s 0x02 none
  { s with fin := { s.fin with boundary := if s.fin.aonPwrok then sampledCells s k else s.fin.boundary } }

/-- SAMPLE_PRELOAD (spec/17 R430). -/
def execSamplePreload (s : State) : Host.Outcome State Fault Refusal := .next (samplePins s)

/-- CLAMP (spec/17 R430). -/
def execClamp (s : State) : Host.Outcome State Fault Refusal := .next (pinInstr s 0x04)

/-- HIGHZ (spec/17 R430). -/
def execHighz (s : State) : Host.Outcome State Fault Refusal := .next (pinInstr s 0x05)

/-- EXTEST_PULSE (spec/17 R430). -/
def execExtestPulse (s : State) : Host.Outcome State Fault Refusal := .next (pinInstr s 0x06)

/-- EXTEST_TRAIN (spec/17 R430). -/
def execExtestTrain (s : State) : Host.Outcome State Fault Refusal := .next (pinInstr s 0x07)

/-- Scan and self-test: BYPASS in DEPLOYED (spec/16 R399); else what the test returns the spec does not say (a free value). -/
def scanTest (s : State) (code : Nat) : State :=
  if s.fin.lc = 2 ∨ code < 0x80 ∨ code > 0xFE then plainInstr s code none
  else
    let (k, s) := drawFree s
    plainInstr s code (some k)

/-- JTAG_SCAN_SELF_TEST (spec/17 R428). -/
def execJtagScanSelfTest (code : Nat) (s : State) : Host.Outcome State Fault Refusal := .next (scanTest s code)

/-- BYPASS (spec/17 R428). -/
def execBypass (s : State) : Host.Outcome State Fault Refusal := .next (plainInstr s 0xFF none)

/-- TEST_LOGIC_RESET (spec/17 R428, R430): IDCODE is selected. -/
def execTestLogicReset (s : State) : Host.Outcome State Fault Refusal := .next (plainInstr s 0x01 (some (idcode s)))

end Sys2Proof.Machine
end

