-- ==== Sys2Proof/Machine/Dispatch.lean ====
section
/-! DEFINITION. One arm per command, in the order of the table of operations and events. -/

namespace Sys2Proof.Machine

/-- What a command does to everything but the queue. -/
def exec (i : Instr) (s : State) : Host.Outcome State Fault Refusal :=
  match i with
  | .powerOnReset a => Sys2Proof.Machine.execPowerOnReset a s
  | .powerDownSequence => Sys2Proof.Machine.execPowerDownSequence s
  | .chipReset => Sys2Proof.Machine.execChipReset s
  | .hostReset => Sys2Proof.Machine.execHostReset s
  | .perstDeassert => Sys2Proof.Machine.execPerstDeassert s
  | .pcieConfigRequest => Sys2Proof.Machine.execPcieConfigRequest s
  | .railEnable => Sys2Proof.Machine.execRailEnable s
  | .railPowerGoodTimeout => Sys2Proof.Machine.execRailPowerGoodTimeout s
  | .railPowerGoodLost a b => Sys2Proof.Machine.execRailPowerGoodLost a b s
  | .krefLost => Sys2Proof.Machine.execKrefLost s
  | .krefBootTimeout => Sys2Proof.Machine.execKrefBootTimeout s
  | .bootImageVerify a b => Sys2Proof.Machine.execBootImageVerify a b s
  | .stageMemory => Sys2Proof.Machine.execStageMemory s
  | .stageDome a => Sys2Proof.Machine.execStageDome a s
  | .stageReady => Sys2Proof.Machine.execStageReady s
  | .doorbellPoll a => Sys2Proof.Machine.execDoorbellPoll a s
  | .descriptorFetch a b => Sys2Proof.Machine.execDescriptorFetch a b s
  | .copy a b c => Sys2Proof.Machine.execCopy a b c s
  | .fill a b c => Sys2Proof.Machine.execFill a b c s
  | .gemm a b c => Sys2Proof.Machine.execGemm a b c s
  | .gemmSp a b c => Sys2Proof.Machine.execGemmSp a b c s
  | .gemmTall a b c => Sys2Proof.Machine.execGemmTall a b c s
  | .spspIntersect a b c => Sys2Proof.Machine.execSpspIntersect a b c s
  | .elem a b c => Sys2Proof.Machine.execElem a b c s
  | .rowred a b c => Sys2Proof.Machine.execRowred a b c s
  | .sample a b c => Sys2Proof.Machine.execSample a b c s
  | .gather a b c => Sys2Proof.Machine.execGather a b c s
  | .scatter a b c => Sys2Proof.Machine.execScatter a b c s
  | .embBag a b c => Sys2Proof.Machine.execEmbBag a b c s
  | .embGrad a b c => Sys2Proof.Machine.execEmbGrad a b c s
  | .reduceGrad a b c => Sys2Proof.Machine.execReduceGrad a b c s
  | .paramPublish a b c => Sys2Proof.Machine.execParamPublish a b c s
  | .update a b c => Sys2Proof.Machine.execUpdate a b c s
  | .txnBegin a b c => Sys2Proof.Machine.execTxnBegin a b c s
  | .txnCommit a b => Sys2Proof.Machine.execTxnCommit a b s
  | .txnAbort a b => Sys2Proof.Machine.execTxnAbort a b s
  | .stepCommit a b c => Sys2Proof.Machine.execStepCommit a b c s
  | .wait a b c => Sys2Proof.Machine.execWait a b c s
  | .signal a b c => Sys2Proof.Machine.execSignal a b c s
  | .timer a b c => Sys2Proof.Machine.execTimer a b c s
  | .ckptPush a b c => Sys2Proof.Machine.execCkptPush a b c s
  | .ckptPull a b c => Sys2Proof.Machine.execCkptPull a b c s
  | .assumeId a b c => Sys2Proof.Machine.execAssumeId a b c s
  | .nop a b => Sys2Proof.Machine.execNop a b s
  | .timerExpiry a => Sys2Proof.Machine.execTimerExpiry a s
  | .limitExpiry a b => Sys2Proof.Machine.execLimitExpiry a b s
  | .completion a => Sys2Proof.Machine.execCompletion a s
  | .heldCompletionWrite a => Sys2Proof.Machine.execHeldCompletionWrite a s
  | .interruptTimeTrigger a => Sys2Proof.Machine.execInterruptTimeTrigger a s
  | .msixUnmask a => Sys2Proof.Machine.execMsixUnmask a s
  | .bar0BadAccess a => Sys2Proof.Machine.execBar0BadAccess a s
  | .bar2Read a b => Sys2Proof.Machine.execBar2Read a b s
  | .bar2Write a b => Sys2Proof.Machine.execBar2Write a b s
  | .hostWindowCompletion a b c => Sys2Proof.Machine.execHostWindowCompletion a b c s
  | .pcieCompletionTimeout a => Sys2Proof.Machine.execPcieCompletionTimeout a s
  | .ringCfgWrite a b => Sys2Proof.Machine.execRingCfgWrite a b s
  | .eqCfgWrite a b => Sys2Proof.Machine.execEqCfgWrite a b s
  | .bar2ApertureWrite a => Sys2Proof.Machine.execBar2ApertureWrite a s
  | .domNumModeWrite a => Sys2Proof.Machine.execDomNumModeWrite a s
  | .domOwnCfgWrite a => Sys2Proof.Machine.execDomOwnCfgWrite a s
  | .ownTableWrite a b c d => Sys2Proof.Machine.execOwnTableWrite a b c d s
  | .domPlanCfgWrite a => Sys2Proof.Machine.execDomPlanCfgWrite a s
  | .domEmbSketchWrite a b => Sys2Proof.Machine.execDomEmbSketchWrite a b s
  | .domEmbDirBaseWrite a => Sys2Proof.Machine.execDomEmbDirBaseWrite a s
  | .domVerCfgWrite a b => Sys2Proof.Machine.execDomVerCfgWrite a b s
  | .domRedRetainWrite a b => Sys2Proof.Machine.execDomRedRetainWrite a b s
  | .lanPartWrite a b => Sys2Proof.Machine.execLanPartWrite a b s
  | .partitionCutComplete a => Sys2Proof.Machine.execPartitionCutComplete a s
  | .drmIlvCfgWrite a => Sys2Proof.Machine.execDrmIlvCfgWrite a s
  | .pprSoft a b => Sys2Proof.Machine.execPprSoft a b s
  | .pprHard a b => Sys2Proof.Machine.execPprHard a b s
  | .pprDone a b => Sys2Proof.Machine.execPprDone a b s
  | .galSelfWrite a => Sys2Proof.Machine.execGalSelfWrite a s
  | .galRemapWrite a b => Sys2Proof.Machine.execGalRemapWrite a b s
  | .spireSplitWrite a => Sys2Proof.Machine.execSpireSplitWrite a s
  | .linkEnWrite a b => Sys2Proof.Machine.execLinkEnWrite a b s
  | .clearQ a => Sys2Proof.Machine.execClearQ a s
  | .retrain a => Sys2Proof.Machine.execRetrain a s
  | .clearLog => Sys2Proof.Machine.execClearLog s
  | .resume => Sys2Proof.Machine.execResume s
  | .finResetChip a => Sys2Proof.Machine.execFinResetChip a s
  | .finResetCompute a => Sys2Proof.Machine.execFinResetCompute a s
  | .arbCommit => Sys2Proof.Machine.execArbCommit s
  | .arbBurnDone => Sys2Proof.Machine.execArbBurnDone s
  | .attestationGo => Sys2Proof.Machine.execAttestationGo s
  | .attestationReportDone => Sys2Proof.Machine.execAttestationReportDone s
  | .m2Extend => Sys2Proof.Machine.execM2Extend s
  | .finUartWrite a => Sys2Proof.Machine.execFinUartWrite a s
  | .finGpioWrite a b => Sys2Proof.Machine.execFinGpioWrite a b s
  | .comparatorClaim a b => Sys2Proof.Machine.execComparatorClaim a b s
  | .comparatorTick a => Sys2Proof.Machine.execComparatorTick a s
  | .registerWrite a b => Sys2Proof.Machine.execRegisterWrite a b s
  | .chimePeriod a b => Sys2Proof.Machine.execChimePeriod a b s
  | .maintenanceGap => Sys2Proof.Machine.execMaintenanceGap s
  | .recalibrationDone a => Sys2Proof.Machine.execRecalibrationDone a s
  | .pathMonitorTrip a => Sys2Proof.Machine.execPathMonitorTrip a s
  | .turretPowerGate a => Sys2Proof.Machine.execTurretPowerGate a s
  | .belfryPllStop a => Sys2Proof.Machine.execBelfryPllStop a s
  | .belfryWake a => Sys2Proof.Machine.execBelfryWake a s
  | .perBankRefresh a => Sys2Proof.Machine.execPerBankRefresh a s
  | .selfRefreshEntry a => Sys2Proof.Machine.execSelfRefreshEntry a s
  | .selfRefreshExit a => Sys2Proof.Machine.execSelfRefreshExit a s
  | .retrainDue a => Sys2Proof.Machine.execRetrainDue a s
  | .channelRetrain a => Sys2Proof.Machine.execChannelRetrain a s
  | .forcedRetrain a => Sys2Proof.Machine.execForcedRetrain a s
  | .retrainComplete a => Sys2Proof.Machine.execRetrainComplete a s
  | .grainReplay a b c d => Sys2Proof.Machine.execGrainReplay a b c d s
  | .bankCopyDone a b => Sys2Proof.Machine.execBankCopyDone a b s
  | .faultRecord a => Sys2Proof.Machine.execFaultRecord a s
  | .bucketLeak a b => Sys2Proof.Machine.execBucketLeak a b s
  | .signalDetect a => Sys2Proof.Machine.execSignalDetect a s
  | .trainingLock a => Sys2Proof.Machine.execTrainingLock a s
  | .trainingTimeout a => Sys2Proof.Machine.execTrainingTimeout a s
  | .lossOfSignal a => Sys2Proof.Machine.execLossOfSignal a s
  | .helloTimeout a => Sys2Proof.Machine.execHelloTimeout a s
  | .failedLinkRetry a => Sys2Proof.Machine.execFailedLinkRetry a s
  | .dataFlit a b c => Sys2Proof.Machine.execDataFlit a b c s
  | .idleFlit a b => Sys2Proof.Machine.execIdleFlit a b s
  | .nakFlit a b => Sys2Proof.Machine.execNakFlit a b s
  | .nakRepeat a => Sys2Proof.Machine.execNakRepeat a s
  | .retryTimeout a => Sys2Proof.Machine.execRetryTimeout a s
  | .linkAckTimer a => Sys2Proof.Machine.execLinkAckTimer a s
  | .creditSilence a b => Sys2Proof.Machine.execCreditSilence a b s
  | .linkRetrainTimeout a => Sys2Proof.Machine.execLinkRetrainTimeout a s
  | .packetForward a b c => Sys2Proof.Machine.execPacketForward a b c s
  | .packetKindReserved a b => Sys2Proof.Machine.execPacketKindReserved a b s
  | .read a b c => Sys2Proof.Machine.execRead a b c s
  | .readReply a b c => Sys2Proof.Machine.execReadReply a b c s
  | .write a b c => Sys2Proof.Machine.execWrite a b c s
  | .publicationReceive a b c d e f g => Sys2Proof.Machine.execPublicationReceive a b c d e f g s
  | .atomic a b c d => Sys2Proof.Machine.execAtomic a b c d s
  | .reduce a b c => Sys2Proof.Machine.execReduce a b c s
  | .collData a b c d => Sys2Proof.Machine.execCollData a b c d s
  | .collMiss a b c => Sys2Proof.Machine.execCollMiss a b c s
  | .collMarker a b c => Sys2Proof.Machine.execCollMarker a b c s
  | .collRestart a b c => Sys2Proof.Machine.execCollRestart a b c s
  | .collPrepass a b c => Sys2Proof.Machine.execCollPrepass a b c s
  | .collExp a b c => Sys2Proof.Machine.execCollExp a b c s
  | .collAck a b c => Sys2Proof.Machine.execCollAck a b c s
  | .vote a b c => Sys2Proof.Machine.execVote a b c s
  | .e2eAck a b c => Sys2Proof.Machine.execE2eAck a b c s
  | .hello a b c => Sys2Proof.Machine.execHello a b c s
  | .timeSync a b c => Sys2Proof.Machine.execTimeSync a b c s
  | .mgmt a b c => Sys2Proof.Machine.execMgmt a b c s
  | .mgmtReply a b c => Sys2Proof.Machine.execMgmtReply a b c s
  | .phase a b c => Sys2Proof.Machine.execPhase a b c s
  | .flowRetransmit a b c => Sys2Proof.Machine.execFlowRetransmit a b c s
  | .flowAckTimer a b => Sys2Proof.Machine.execFlowAckTimer a b s
  | .flowContextFill a b => Sys2Proof.Machine.execFlowContextFill a b s
  | .timeSyncInterval => Sys2Proof.Machine.execTimeSyncInterval s
  | .timeStale => Sys2Proof.Machine.execTimeStale s
  | .tileStart a => Sys2Proof.Machine.execTileStart a s
  | .tileComplete a b => Sys2Proof.Machine.execTileComplete a b s
  | .lateFetchArrival a b => Sys2Proof.Machine.execLateFetchArrival a b s
  | .tileLocallyComplete a b c => Sys2Proof.Machine.execTileLocallyComplete a b c s
  | .updateRun a => Sys2Proof.Machine.execUpdateRun a s
  | .gateCast a => Sys2Proof.Machine.execGateCast a s
  | .commitRoundCast a => Sys2Proof.Machine.execCommitRoundCast a s
  | .gateLimitExpiry a => Sys2Proof.Machine.execGateLimitExpiry a s
  | .commitLimitExpiry a => Sys2Proof.Machine.execCommitLimitExpiry a s
  | .flipTick a => Sys2Proof.Machine.execFlipTick a s
  | .journalGranuleCopy => Sys2Proof.Machine.execJournalGranuleCopy s
  | .stepClose a => Sys2Proof.Machine.execStepClose a s
  | .wamosHelp => Sys2Proof.Machine.execWamosHelp s
  | .wamosId => Sys2Proof.Machine.execWamosId s
  | .wamosRd a b => Sys2Proof.Machine.execWamosRd a b s
  | .wamosLog a => Sys2Proof.Machine.execWamosLog a s
  | .wamosCtr => Sys2Proof.Machine.execWamosCtr s
  | .wamosChal => Sys2Proof.Machine.execWamosChal s
  | .wamosUnlock a => Sys2Proof.Machine.execWamosUnlock a s
  | .wamosLock => Sys2Proof.Machine.execWamosLock s
  | .wamosWr a b => Sys2Proof.Machine.execWamosWr a b s
  | .wamosBaud a => Sys2Proof.Machine.execWamosBaud a s
  | .wamosRepair => Sys2Proof.Machine.execWamosRepair s
  | .wamosRepairDel a => Sys2Proof.Machine.execWamosRepairDel a s
  | .wamosResetChip => Sys2Proof.Machine.execWamosResetChip s
  | .wamosResetCompute => Sys2Proof.Machine.execWamosResetCompute s
  | .wamosLc a b => Sys2Proof.Machine.execWamosLc a b s
  | .unlockLockoutEnd => Sys2Proof.Machine.execUnlockLockoutEnd s
  | .sessionExpiry => Sys2Proof.Machine.execSessionExpiry s
  | .smbReadPart => Sys2Proof.Machine.execSmbReadPart s
  | .smbReadStatus => Sys2Proof.Machine.execSmbReadStatus s
  | .smbReadTemp => Sys2Proof.Machine.execSmbReadTemp s
  | .smbReadPower => Sys2Proof.Machine.execSmbReadPower s
  | .smbReadStage => Sys2Proof.Machine.execSmbReadStage s
  | .smbReadFault => Sys2Proof.Machine.execSmbReadFault s
  | .smbAlertResponse => Sys2Proof.Machine.execSmbAlertResponse s
  | .smbWrite => Sys2Proof.Machine.execSmbWrite s
  | .extest => Sys2Proof.Machine.execExtest s
  | .idcode => Sys2Proof.Machine.execIdcode s
  | .samplePreload => Sys2Proof.Machine.execSamplePreload s
  | .clamp => Sys2Proof.Machine.execClamp s
  | .highz => Sys2Proof.Machine.execHighz s
  | .extestPulse => Sys2Proof.Machine.execExtestPulse s
  | .extestTrain => Sys2Proof.Machine.execExtestTrain s
  | .jtagScanSelfTest a => Sys2Proof.Machine.execJtagScanSelfTest a s
  | .bypass => Sys2Proof.Machine.execBypass s
  | .testLogicReset => Sys2Proof.Machine.execTestLogicReset s
  | .wamosUnknownCommand => Sys2Proof.Machine.execWamosUnknownCommand s
  | .monRxdCharacter a => Sys2Proof.Machine.execMonRxdCharacter a s
  | .lcBurnDone => Sys2Proof.Machine.execLcBurnDone s
  | .krefDetect => Sys2Proof.Machine.execKrefDetect s
  | .railPowerGoodRise a => Sys2Proof.Machine.execRailPowerGoodRise a s
  | .perstInternalRelease => Sys2Proof.Machine.execPerstInternalRelease s
  | .avsbusAckTimeout => Sys2Proof.Machine.execAvsbusAckTimeout s
  | .avsbusVoutCheck a => Sys2Proof.Machine.execAvsbusVoutCheck a s
  | .pllLockLost a b => Sys2Proof.Machine.execPllLockLost a b s
  | .unitSelfcheckFail a b => Sys2Proof.Machine.execUnitSelfcheckFail a b s
  | .pcieLinkError a => Sys2Proof.Machine.execPcieLinkError a s

end Sys2Proof.Machine
end

