-- ==== Sys2Proof/Safety.lean ====
section
/-! DEFINITION. What a safe run of the block is: the forms every state keeps and what no command undoes, in the terms the
statements use. -/

namespace Sys2Proof.Machine

/-- The lifecycle is one of the four, and a burn under way goes forward (spec/16 R400). -/
def lifecycleOk (f : Finial) : Bool :=
  decide (f.lc ≤ 3) &&
    match f.lcBurn with
    | some t => decide (f.lc < t) && decide (t ≤ 3)
    | none => true

/-- The boot's state holds together: READY is stage 4 (spec/16 R391), no stage above 1 is reached by a boot that lost KREF
(R392), and no image runs whose SVN is below its anti-rollback counter (R394, R395). -/
def bootOk (f : Finial) : Bool :=
  decide (f.stage ≤ 4) && (!f.ready || f.stage == 4) && (decide (f.stage < 2) || !f.krefLostBoot) &&
    (decide (f.stage = 0) || f.krefLostBoot || decide (f.finCtr ≤ f.finSvn)) &&
    (!f.belfryImage || decide (f.blfCtr ≤ f.blfSvn))

/-- The host interface's tables are canonical. -/
abbrev HifOk (h : HostIf) : Prop :=
  tabWf (fun _ => ({} : Ring)) 0 h.rings = true ∧ tabWf (fun _ => ({} : EvQueue)) 0 h.queues = true

/-- The Dome's tables are canonical. -/
abbrev DomeOk (d : Dome) : Prop :=
  tabWf (fun _ => ({} : Belfry)) 0 d.belfries = true ∧ tabWf (fun _ => ({} : Turret)) 0 d.turrets = true ∧
    tabWf (fun _ => ({} : Sketch)) 0 d.sketches = true ∧ tabWf (fun _ => 0) 0 d.closedBy = true ∧
    tabWf (fun _ => none) 0 d.producers = true

/-- The fabric's table is canonical. -/
abbrev FabOk (f : Fabric) : Prop := tabWf (fun _ => ({} : Link)) 0 f.links = true

/-- The memory interfaces' tables are canonical. -/
abbrev MifOk (m : MemIf) : Prop :=
  tabWf (fun _ => ({} : Channel)) 0 m.channels = true ∧ tabWf (fun _ => none) 0 m.ppr = true

/-- The Chime's table of records is canonical. -/
abbrev ChimeOk (c : Chime) : Prop := tabWf (fun _ => none) 0 c.vf = true

/-- The comparators' table of counts is canonical. -/
abbrev CmpOk (f : Finial) : Prop := tabWf (fun _ => 0) 0 f.cmpCount = true

/-- The form every state keeps: both memories and every table are canonical, the fault log holds at most the 4,096
records of spec/15 Table 15.9, the lifecycle is legal, and the boot's state holds together. -/
def Sound (s : State) : Bool :=
  s.mem.wf && s.host.wf && tabWf regReset 0 s.regs && decide (s.flt.log.length ≤ 4096) && lifecycleOk s.fin &&
    bootOk s.fin && decide (HifOk s.hif ∧ DomeOk s.dome ∧ FabOk s.fab ∧ MifOk s.mif ∧ ChimeOk s.chime ∧ CmpOk s.fin)

/-- What no command undoes: the part's identity stays (spec/16 Table 16.9), the lifecycle only moves on (R400), no
anti-rollback counter falls (R395), destroyed keys stay destroyed (R400), and no draw is taken twice (log entry 8). -/
structure Onward (s t : State) : Prop where
  serial : t.fin.serial = s.fin.serial
  stepping : t.fin.stepping = s.fin.stepping
  lifecycle : s.fin.lc ≤ t.fin.lc
  finCounter : s.fin.finCtr ≤ t.fin.finCtr
  belfryCounter : s.fin.blfCtr ≤ t.fin.blfCtr
  keys : s.fin.keysBlown = true → t.fin.keysBlown = true
  draws : s.draws ≤ t.draws

/-- The two commands by which power is lost (spec/16 R389, spec/17 R423). -/
def losesPower : Instr → Bool
  | .powerOnReset _ => true
  | .powerDownSequence => true
  | _ => false

end Sys2Proof.Machine
end

