-- ==== Sys2Proof/Certificates/Slice0/Obligations.lean ====
section
/-! DEFINITION. The statements about the block, family by family (OBLIGATIONS.json lists them), after the terms they are
written in. -/

open Sys2Proof Sys2Proof.Machine

namespace Sys2Proof.Machine

/-! ### Terms of the statements -/

/-- BAR0 takes accesses: the device is not sealed, READY, and its pins are its own (spec/16 R392, spec/15 Table 15.4,
spec/17 R430). -/
abbrev HostOpen (s : State) : Prop := s.flt.sealed = false ∧ s.fin.ready = true ∧ s.fin.pinsTaken = false

/-- No op is in flight, no tile of one is queued at a belfry, no descriptor waits at a ring, and no comparator waits for its
timers. -/
abbrev NoWork (s : State) : Prop :=
  s.ops = [] ∧ s.fin.cmpReleasing = [] ∧ (∀ x ∈ s.dome.belfries, x.2.immediate = [] ∧ x.2.deferred = [] ∧ x.2.unplaced = []) ∧
    ∀ x ∈ s.hif.rings, x.2.held = []

/-- Nothing but one stored register differs. -/
abbrev OnlyReg (s t : State) (off : Nat) : Prop := t = { s with regs := t.regs } ∧ ∀ o, o ≠ off → regGet t o = regGet s o

/-- A register's bits under a mask took a value; its other bits, every other register and everything else stayed. -/
abbrev FieldsWritten (s t : State) (off mask : Nat) (v : Word) : Prop :=
  OnlyReg s t off ∧ regGet t off &&& BitVec.ofNat 32 mask = v &&& BitVec.ofNat 32 mask ∧
    regGet t off &&& ~~~BitVec.ofNat 32 mask = regGet s off &&& ~~~BitVec.ofNat 32 mask

end Sys2Proof.Machine

/-! ### The machine as a whole -/

/-- A step takes the command at the front of the queue and runs it on the state with the queue's rest; on an empty queue
one kt passes, which does nothing while keep time does not run and nothing this device has sent to itself waits (log entry 5). -/
def Obligations.StepRunsTheFrontCommand : Prop :=
  (∀ (s : State) (c : Instr) (rest : List Instr), s.pending = c :: rest → step s = exec c { s with pending := rest }) ∧
  ∀ s : State, s.pending = [] →
    ∃ t, step s = .next t ∧ t.pending = [] ∧ (¬(s.time.runs = true ∧ s.fin.kref = true) → s.fab.loop = [] → t = s)

/-- Every command of the table completes in every state, and leaves the queue as it is: the spec gives each outcome a status,
an event or no effect. -/
def Obligations.EveryCommandCompletes : Prop :=
  ∀ (c : Instr) (s : State), ∃ t, exec c s = .next t ∧ t.pending = s.pending

/-- Every step from a sound state ends in a sound state: both memories and every table canonical, at most 4,096 records
logged, the lifecycle legal, and the boot's state as spec/16 R391, R392, R394 and R395 have it. -/
def Obligations.SoundIsKept : Prop :=
  ∀ s t : State, Sound s = true → step s = .next t → Sound t = true

/-- The machine after a power-on reset is sound, at stage 0, not READY, not sealed or halted, with no job, the number 0xFFFF,
CAUTIOUS_LEFT 16 and nothing under way. -/
def Obligations.ResetState : Prop :=
  Sound State.reset = true ∧ State.reset.pending = [] ∧ State.reset.ops = [] ∧ State.reset.fin.stage = 0 ∧
  State.reset.fin.ready = false ∧ State.reset.flt.sealed = false ∧ State.reset.flt.halted = false ∧
  jobId State.reset = 0 ∧ ownChip State.reset = 0xFFFF ∧ regBits State.reset 0x1000188 4 0 = 16 ∧
  (∀ a, regionOf a ≠ .hostWindow → committedByte State.reset a = 0) ∧ (∀ l, (link State.reset l).st = .down)

/-- No step changes the part's identity, moves the lifecycle back, lowers an anti-rollback counter, brings destroyed keys
back or takes a draw twice (spec/16 R395, R400). -/
def Obligations.NothingIsUndone : Prop :=
  ∀ s t : State, Sound s = true → step s = .next t → Onward s t

/-- A sealed device stays sealed under every command but a loss of power (spec/15 R376, spec/16 R389: a C5 ignores every
level except power-on). -/
def Obligations.OnlyPowerUnseals : Prop :=
  ∀ (c : Instr) (s t : State), losesPower c = false → s.flt.sealed = true → exec c s = .next t → t.flt.sealed = true

/-! ### Resets -/

/-- STRAP_MODE is latched once, when AON_PWROK rises, and no other command changes it; a reserved value, and a test value in
DEPLOYED, stop boot at stage 0 with BOOT_FAIL (C5) of ADDRESS 0, and 000 and 001 start in compute and in spire mode (spec/16
R390).
Completes: powerOnReset. -/
def Obligations.Straps : Prop :=
  (∀ (s : State) (v : Fin 8), ∃ t, exec (.powerOnReset v) s = .next t ∧ t.fin.strap = v.val ∧
    (v.val < 2 ∨ (v.val < 4 ∧ t.fin.lc ≠ 2) → t.flt.sealed = false ∧ spireMode t = decide (v.val = 1)) ∧
    (4 ≤ v.val ∨ (2 ≤ v.val ∧ t.fin.lc = 2) → t.fin.stage = 0 ∧ t.flt.sealed = true ∧
      ∃ r, t.flt.log = [(r, 5)] ∧ r.die = 0 ∧ r.unit = 2 ∧ r.kind = 0x40 ∧ r.addr = 0)) ∧
  ∀ (c : Instr) (s t : State), losesPower c = false → exec c s = .next t → t.fin.strap = s.fin.strap

/-- POWER_ON_RESET resumes at stage 0 with the straps it latches, keeps the fuses and the repair list, and seals the device
on a strap that the lifecycle does not allow; POWER_DOWN_SEQUENCE lowers every enable.
Completes: powerOnReset, powerDownSequence. -/
def Obligations.PowerResets : Prop :=
  (∀ (s : State) (straps : Fin 8), ∃ t, exec (.powerOnReset straps) s = .next t ∧ t.fin.stage = 0 ∧ t.fin.ready = false ∧
    t.fin.strap = straps.val ∧ t.fin.serial = s.fin.serial ∧
    t.flt.sealed = !strapOk straps.val t.fin.lc ∧ (strapOk straps.val t.fin.lc = true →
      t.flt.repairs = s.flt.repairs ∧ t.ops = [] ∧ t.flt.halted = false ∧ t.regs = [] ∧ t.fin.aonPwrok = true)) ∧
  ∀ s : State, ∃ t, exec .powerDownSequence s = .next t ∧ t.fin.aonPwrok = false ∧ t.fin.railEn = 0 ∧ t.fin.railPg = 0 ∧
    t.fin.stage = 0 ∧ t.flt.repairs = s.flt.repairs ∧ t.ops = []

/-- A chip reset of a device at rest resumes at stage 0 with no C4, no HALTED, M2 zero and no job, and keeps the fault log,
keep time and the straps, where the lifecycle that then holds allows them; where it does not, boot fails there and seals the
device (spec/16 R390). A sealed device ignores it. The same follows from FIN_RESET with its key and LEVEL 1.
Completes: chipReset, finResetChip. -/
def Obligations.ChipReset : Prop :=
  (∀ s : State, s.flt.sealed = true → exec .chipReset s = .next s) ∧
  (∀ s : State, Sound s = true → s.flt.sealed = false → NoWork s →
    ∃ t, exec .chipReset s = .next t ∧ t.fin.stage = 0 ∧ t.fin.ready = false ∧
      t.fin.m2 = List.replicate 48 0 ∧ jobId t = 0 ∧ ownChip t = 0xFFFF ∧ regBits t 0x1000188 4 0 = 16 ∧
      t.time.keep = s.time.keep ∧ t.fin.strap = s.fin.strap ∧ t.flt.sealed = !strapOk s.fin.strap t.fin.lc ∧
      (strapOk s.fin.strap t.fin.lc = true → t.flt.halted = false ∧ t.flt.fatal = [] ∧ t.flt.log = s.flt.log)) ∧
  (∀ s : State, HostOpen s → exec (.finResetChip 0xA5C3) s = exec .chipReset s) ∧
  ∀ s : State, Sound s = true → HostOpen s → NoWork s →
    ∃ t, exec (.finResetChip 0xA5C3) s = .next t ∧ t.fin.stage = 0 ∧ t.fin.ready = false ∧ jobId t = 0 ∧ ownChip t = 0xFFFF

/-- A compute reset of a device at rest resumes at stage 2, empties rings and queues as a host reset does, sets JOB to 0, keeps
CHIP, the fault log and the links, and leaves HALTED set only while a C4 from another source remains. Another key is ignored,
with CONFIG_IGNORED.
Completes: finResetCompute. -/
def Obligations.ComputeReset : Prop :=
  (∀ s : State, Sound s = true → HostOpen s → NoWork s → s.fab.heldPkts = [] →
    ∃ t, exec (.finResetCompute 0xA5C3) s = .next t ∧ t.fin.stage = 2 ∧ t.fin.ready = false ∧ jobId t = 0 ∧
      t.hif.queues = [] ∧ t.hif.rings = [] ∧ t.hif.reads = [] ∧ t.hif.pba = [] ∧
      (∀ off, 0x100000 ≤ off → off < 0x200000 → regGet t off = regReset off) ∧
      ownChip t = ownChip s ∧ t.flt.log = s.flt.log ∧ t.fab.links = s.fab.links ∧ t.fab.flows = [] ∧
      t.flt.fatal = s.flt.fatal.filter (fun f => !computeClears f.1 f.2) ∧
      (t.flt.fatal = [] → t.flt.halted = false) ∧ (t.flt.fatal ≠ [] → t.flt.halted = s.flt.halted)) ∧
  ∀ (s : State) (key : BitVec 16), HostOpen s → key ≠ 0xA5C3 →
    exec (.finResetCompute key) s = .next (configIgnored s 0x1C (BitVec.ofNat 32 (key.toNat * 65536 + 2))) ∧
    exec (.finResetChip key) s = .next (configIgnored s 0x1C (BitVec.ofNat 32 (key.toNat * 65536 + 1)))

/-- A host reset of a device at rest empties the rings, the queues and the HIF registers, and touches no memory, no log and no
other register; with a job open it raises PCIE_FATAL.
Completes: hostReset. -/
def Obligations.HostReset : Prop :=
  ∀ s : State, Sound s = true → s.flt.sealed = false → NoWork s →
    ∃ t, exec .hostReset s = .next t ∧ t.hif.queues = [] ∧ t.hif.rings = [] ∧ t.hif.reads = [] ∧ t.hif.pba = [] ∧
      t.fin.perstLow = true ∧ (∀ off, 0x100000 ≤ off → off < 0x200000 → regGet t off = regReset off) ∧
      (∀ off, off < 0x100000 ∨ 0x200000 ≤ off → regGet t off = regGet s off) ∧ t.mem = s.mem ∧ t.host = s.host ∧
      t.dome = s.dome ∧ t.fab = s.fab ∧ t.flt.log = s.flt.log ∧ t.fin.stage = s.fin.stage ∧
      (jobId s ≠ 0 → ∃ r ∈ t.flt.undelivered, r.die = 0 ∧ r.unit = 1 ∧ r.kind = 0x31) ∧
      (jobId s = 0 → t.flt = s.flt)

/-! ### Set-up registers -/

namespace Sys2Proof.Machine

/-- The commands that are writes of BAR0 registers. -/
def bar0Command : Instr → Bool
  | .ringCfgWrite _ _ | .eqCfgWrite _ _ | .bar2ApertureWrite _ | .domNumModeWrite _ | .domOwnCfgWrite _ | .ownTableWrite _ _ _ _
  | .domPlanCfgWrite _ | .domEmbSketchWrite _ _ | .domEmbDirBaseWrite _ | .domVerCfgWrite _ _ | .domRedRetainWrite _ _
  | .lanPartWrite _ _ | .drmIlvCfgWrite _ | .pprSoft _ _ | .pprHard _ _ | .galSelfWrite _ | .galRemapWrite _ _
  | .spireSplitWrite _ | .linkEnWrite _ _ | .clearQ _ | .retrain _ | .clearLog | .resume | .finResetChip _
  | .finResetCompute _ | .attestationGo | .m2Extend | .finUartWrite _ | .finGpioWrite _ _ | .comparatorClaim _ _
  | .registerWrite _ _ => true
  | _ => false

/-- Registers whose write does nothing but set their fields: the numerics seed, the doorbell, ring and telemetry set-up, FIN's
nonce and message words, and the Chime's and Galleries' own settings. -/
def plainRegister (off : Nat) : Bool :=
  [0x200, 0x21C, 0x240, 0x26C, 0x100000, 0x100004, 0x100008, 0x100014, 0x100018, 0x100108, 0x10010C, 0x300004, 0x300040,
    0x300044, 0x800004, 0x800008, 0x800014, 0x80001C, 0x800020, 0x800030, 0x800040, 0x1000008, 0x100000C, 0x1000040].contains
    off

end Sys2Proof.Machine

/-- Before READY, while sealed and with the pins taken a write through BAR0 changes nothing (spec/16 R392, spec/15 Table
15.4, spec/17 R430). -/
def Obligations.ClosedDeviceDropsRegisterWrites : Prop :=
  ∀ (c : Instr) (s : State), bar0Command c = true → ¬HostOpen s → exec c s = .next s

/-- REGISTER_WRITE: a field that takes writes takes the value and nothing else changes; a counter loses what is written 1; an
offset that is no 32-bit register changes nothing; a value out of a register's limits is ignored with CONFIG_IGNORED.
Completes: registerWrite. -/
def Obligations.PlainRegisterWrite : Prop :=
  (∀ (s : State) (off : Nat) (v : Word) (d : RegDef), Sound s = true → HostOpen s → plainRegister off = true →
    regDef off = some d → ∃ t, exec (.registerWrite off v) s = .next t ∧ FieldsWritten s t off d.rw v) ∧
  (∀ (s : State) (off : Nat) (v : Word), Sound s = true → HostOpen s →
    off = 0x100020 ∨ off = 0x100024 ∨ off = 0x20000C ∨ off = 0x300048 ∨ off = 0x400014 ∨ off = 0xC00200 ∨ off = 0x1000190 →
    ∃ t, exec (.registerWrite off v) s = .next t ∧ OnlyReg s t off ∧ regGet t off = regGet s off &&& ~~~v) ∧
  (∀ (s : State) (off : Nat) (v : Word), HostOpen s → off % 4 ≠ 0 ∨ 0x2000000 ≤ off →
    exec (.registerWrite off v) s = .next s) ∧
  (∀ (s : State) (v : Word), HostOpen s → bits v 7 0 > 100 →
    exec (.registerWrite 0x300008 v) s = .next (configIgnored s 0x300008 v)) ∧
  ∀ (s : State) (v : Word), HostOpen s → bits v 9 0 < 200 ∨ 760 < bits v 9 0 →
    exec (.registerWrite 0x30000C v) s = .next (configIgnored s 0x30000C v)

/-- Registers with checks: a valid value is taken alone and an invalid one is ignored. DOM_NUM_MODE takes a rounding mode
below 5 and SR_ROW_LOG2 from 6 to 24 and ignores any other value whole (spec/02 R47); BAR2's aperture, the plan area's switch,
the directory's and the version table's base, and the retention area, which moves only while it holds nothing and only within
the general partition (spec/09 R251), ignore one with CONFIG_IGNORED.
Completes: bar2ApertureWrite, domNumModeWrite, domPlanCfgWrite, domEmbDirBaseWrite, domVerCfgWrite, domRedRetainWrite. -/
def Obligations.CheckedRegisters : Prop :=
  (∀ (s : State) (v : Word), Sound s = true → HostOpen s → bits v 2 0 < 5 → 6 ≤ bits v 12 8 → bits v 12 8 ≤ 24 →
    ∃ t, exec (.domNumModeWrite v) s = .next t ∧ FieldsWritten s t 0x1000000 0x1F0F v) ∧
  (∀ (s : State) (v : Word), HostOpen s → 5 ≤ bits v 2 0 ∨ bits v 12 8 < 6 ∨ 24 < bits v 12 8 →
    exec (.domNumModeWrite v) s = .next s) ∧
  (∀ (s : State) (v : Word), Sound s = true → HostOpen s → apertureOk v = true →
    ∃ t, exec (.bar2ApertureWrite v) s = .next t ∧ FieldsWritten s t 0x100100 0xFFF v) ∧
  (∀ (s : State) (v : Word), HostOpen s → apertureOk v = false →
    exec (.bar2ApertureWrite v) s = .next (configIgnored s 0x100100 v)) ∧
  (∀ (s : State) (v : Word), Sound s = true → HostOpen s →
    bits v 0 0 = 0 ∨ inPart s 5 (regBits s 0x1000040 30 6 * 64) (2 ^ 22) = true →
    ∃ t, exec (.domPlanCfgWrite v) s = .next t ∧ FieldsWritten s t 0x1000044 0xFF01 v) ∧
  (∀ (s : State) (v : Word), Sound s = true → HostOpen s → bits v 0 0 = 1 →
    inPart s 5 (regBits s 0x1000040 30 6 * 64) (2 ^ 22) = false →
    ∃ u, exec (.domPlanCfgWrite v) s = .next (configIgnored u 0x1000044 v) ∧ OnlyReg s u 0x1000044 ∧
      regBits u 0x1000044 0 0 = 0) ∧
  (∀ (s : State) (v : Word), Sound s = true → HostOpen s → inPart s 5 (bits v 30 12 * 4096) 4096 = true →
    ∃ t, exec (.domEmbDirBaseWrite v) s = .next t ∧
      t = { s with regs := t.regs, dome := { s.dome with tables := t.dome.tables, sketches := t.dome.sketches } } ∧
      (∀ o, o ≠ 0x10000C0 → regGet t o = regGet s o) ∧
      regGet t 0x10000C0 &&& 0x7FFFF000 = v &&& 0x7FFFF000 ∧ (∀ x ∈ s.dome.tables, x ∈ t.dome.tables)) ∧
  (∀ (s : State) (v : Word), HostOpen s → inPart s 5 (bits v 30 12 * 4096) 4096 = false →
    exec (.domEmbDirBaseWrite v) s = .next (configIgnored s 0x10000C0 v)) ∧
  (∀ (s : State) (v : Word), Sound s = true → HostOpen s → jobId s = 0 →
    ∃ t, exec (.domVerCfgWrite false v) s = .next t ∧ FieldsWritten s t 0x1000100 0x7FFFFFC0 v) ∧
  (∀ (s : State) (v : Word), HostOpen s → jobId s ≠ 0 →
    exec (.domVerCfgWrite false v) s = .next (configIgnored s 0x1000100 v)) ∧
  (∀ (s : State) (v : Word), Sound s = true → HostOpen s → jobId s = 0 → bits v 16 0 ≤ 65536 →
    bits v 16 0 = 0 ∨ inPart s 5 (regBits s 0x1000100 30 6 * 64) (64 * bits v 16 0) = true →
    ∃ t, exec (.domVerCfgWrite true v) s = .next t ∧ FieldsWritten s t 0x1000104 0xFFF1FFFF v ∧ verCount t = bits v 16 0) ∧
  (∀ (s : State) (v : Word), Sound s = true → HostOpen s → retainUsed s = 0 →
    bits v 19 0 = 0 ∨ inPart s 5 (regBits s 0x1000180 30 12 * 4096) (4096 * bits v 19 0) = true →
    ∃ t, exec (.domRedRetainWrite true v) s = .next t ∧ FieldsWritten s t 0x1000184 0xFFFFF v) ∧
  (∀ (s : State) (v : Word), Sound s = true → HostOpen s → retainUsed s = 0 →
    regBits s 0x1000184 19 0 = 0 ∨ inPart s 5 (bits v 30 12 * 4096) (4096 * regBits s 0x1000184 19 0) = true →
    ∃ t, exec (.domRedRetainWrite false v) s = .next t ∧ FieldsWritten s t 0x1000180 0x7FFFF000 v) ∧
  (∀ (s : State) (v : Word), HostOpen s → retainUsed s = 0 → bits v 19 0 ≠ 0 →
    inPart s 5 (regBits s 0x1000180 30 12 * 4096) (4096 * bits v 19 0) = false →
    exec (.domRedRetainWrite true v) s = .next (configIgnored s 0x1000184 v)) ∧
  (∀ (s : State) (v : Word), HostOpen s → retainUsed s = 0 → regBits s 0x1000184 19 0 ≠ 0 →
    inPart s 5 (bits v 30 12 * 4096) (4096 * regBits s 0x1000184 19 0) = false →
    exec (.domRedRetainWrite false v) s = .next (configIgnored s 0x1000180 v)) ∧
  ∀ (s : State) (v : Word) (size : Bool), HostOpen s → retainUsed s ≠ 0 →
    exec (.domRedRetainWrite size v) s = .next (configIgnored s (if size then 0x1000184 else 0x1000180) v)

/-- The ownership banks: an entry of the inactive bank takes its word, the active bank and a bank in use take none; ACTIVE
flips to a valid bank and keeps with CONFIG_IGNORED on an invalid one; the active bank's count never changes.
Completes: domOwnCfgWrite, ownTableWrite. -/
def Obligations.OwnershipBanks : Prop :=
  (∀ (s : State) (b : Fin 2) (e : Fin 4096) (w : Fin 4) (v : Word), Sound s = true → HostOpen s →
    b.val ≠ regBits s 0x1000080 31 31 → ownBusy s = false →
    ∃ t, exec (.ownTableWrite b e w v) s = .next t ∧
      FieldsWritten s t (0x1010000 + 0x10000 * b.val + 16 * e.val + 4 * w.val) 0xFFFFFFFF v) ∧
  (∀ (s : State) (b : Fin 2) (e : Fin 4096) (w : Fin 4) (v : Word), HostOpen s →
    b.val = regBits s 0x1000080 31 31 ∨ ownBusy s = true → exec (.ownTableWrite b e w v) s = .next s) ∧
  (∀ (s : State) (v : Word), Sound s = true → HostOpen s → ownBusy s = false → regBits s 0x1000080 31 31 = 0 →
    bits v 31 31 = 0 → ∃ t, exec (.domOwnCfgWrite v) s = .next t ∧ OnlyReg s t 0x1000080 ∧
      regBits t 0x1000080 31 31 = 0 ∧ regBits t 0x1000080 28 16 = bits v 28 16 ∧
      regBits t 0x1000080 12 0 = regBits s 0x1000080 12 0) ∧
  ∀ (s : State) (v : Word), Sound s = true → HostOpen s → ownBusy s = false → bits v 31 31 ≠ regBits s 0x1000080 31 31 →
    ∃ t, exec (.domOwnCfgWrite v) s = .next t ∧
      (regBits t 0x1000080 31 31 = bits v 31 31 → bankValid t (bits v 31 31) = true) ∧
      (regBits t 0x1000080 31 31 = bits v 31 31 ∨ regBits t 0x1000080 31 31 = regBits s 0x1000080 31 31)

/-- A sketch that is free is claimed empty for a table; one already claimed is kept, with RESOURCE_HELD (spec/07 R172).
Completes: domEmbSketchWrite. -/
def Obligations.SketchClaim : Prop :=
  (∀ (s : State) (n : Fin 4) (v : Word), Sound s = true → HostOpen s → regBits s (0x10000D0 + 4 * n.val) 31 31 = 0 →
    bits v 31 31 = 1 → ∃ t, exec (.domEmbSketchWrite n v) s = .next t ∧ sketchAt t n.val = {} ∧
      regGet t (0x10000D0 + 4 * n.val) &&& 0x800000FF = v &&& 0x800000FF ∧ t.mem = s.mem ∧
      ∀ m, m ≠ n.val → sketchAt t m = sketchAt s m) ∧
  ∀ (s : State) (n : Fin 4) (v : Word), HostOpen s → regBits s (0x10000D0 + 4 * n.val) 31 31 = 1 → bits v 31 31 = 1 →
    exec (.domEmbSketchWrite n v) s = .next (configIgnored s (0x10000D0 + 4 * n.val) v (held := true))

/-- A ring's configuration takes SIZE 6 to 16 and QUOTA 1 to 16,384; enabling it starts FETCHED at 0, disabling it lifts its
stop; other values, and another SIZE while it is enabled or busy, are ignored with CONFIG_IGNORED (spec/13 R329).
Completes: ringCfgWrite. -/
def Obligations.RingConfiguration : Prop :=
  (∀ (s : State) (r : Fin 256) (v : Word), Sound s = true → HostOpen s → NoWork s →
    6 ≤ bits v 23 19 → bits v 23 19 ≤ 16 → 1 ≤ bits v 14 0 → bits v 14 0 ≤ 16384 →
    regBits s (0x101008 + 32 * r.val) 31 31 = 0 → bits v 31 31 = 1 →
    ∃ t, exec (.ringCfgWrite r v) s = .next t ∧ (ring t r.val).fetched = 0 ∧ ringQuota t r.val = bits v 14 0 ∧
      ringEnabled t r.val = true ∧ ringSize t r.val = 2 ^ bits v 23 19 ∧ t.mem = s.mem ∧ t.host = s.host) ∧
  (∀ (s : State) (r : Fin 256) (v : Word), Sound s = true → HostOpen s → NoWork s →
    6 ≤ bits v 23 19 → bits v 23 19 ≤ 16 → 1 ≤ bits v 14 0 → bits v 14 0 ≤ 16384 →
    bits v 23 19 = regBits s (0x101008 + 32 * r.val) 23 19 → bits v 31 31 = 0 →
    ∃ t, exec (.ringCfgWrite r v) s = .next t ∧ (ring t r.val).stopped = false ∧ ringEnabled t r.val = false) ∧
  ∀ (s : State) (r : Fin 256) (v : Word), HostOpen s →
    (bits v 23 19 < 6 ∨ 16 < bits v 23 19 ∨ bits v 14 0 = 0 ∨ 16384 < bits v 14 0) ∨
      (regBits s (0x101008 + 32 * r.val) 31 31 = 1 ∧ bits v 23 19 ≠ regBits s (0x101008 + 32 * r.val) 23 19) →
    exec (.ringCfgWrite r v) s = .next (configIgnored s (0x101008 + 32 * r.val) v)

/-- Enabling an event queue sets its written count to 0; a SIZE outside 6 to 16 is ignored with CONFIG_IGNORED (spec/13
R352).
Completes: eqCfgWrite. -/
def Obligations.QueueConfiguration : Prop :=
  (∀ (s : State) (q : Fin 64) (v : Word), Sound s = true → HostOpen s → 6 ≤ bits v 20 16 → bits v 20 16 ≤ 16 →
    ∃ t, exec (.eqCfgWrite q v) s = .next t ∧
      regGet t (0x103008 + 32 * q.val) &&& 0x801F003F = v &&& 0x801F003F ∧ t.mem = s.mem ∧ t.host = s.host ∧
      (bits v 31 31 = 1 → regBits s (0x103008 + 32 * q.val) 31 31 = 0 → (eqGet t q.val).written = 0) ∧
      ∀ p, p ≠ q.val → eqGet t p = eqGet s p) ∧
  ∀ (s : State) (q : Fin 64) (v : Word), HostOpen s → bits v 20 16 < 6 ∨ 16 < bits v 20 16 →
    exec (.eqCfgWrite q v) s = .next (configIgnored s (0x103008 + 32 * q.val) v)

/-- A partition takes a new place that meets no other, moves only while unused, and is refused whole with RESOURCE_HELD
otherwise; a waiting cut ends once the use is no more than the new size (spec/11 R281, R282).
Completes: lanPartWrite, partitionCutComplete. -/
def Obligations.Partitions : Prop :=
  (∀ (s : State) (k : Fin 6) (v : Word), Sound s = true → HostOpen s → NoWork s →
    partRefused s k.val (bits v 26 16) (bits v 11 0) = false →
    ∃ t, exec (.lanPartWrite k v) s = .next t ∧ partBase t k.val = bits v 26 16 ∧ partSize t k.val = bits v 11 0 ∧
      t.mem = s.mem ∧ ∀ j, j < 6 → j ≠ k.val → partBase t j = partBase s j ∧ partSize t j = partSize s j) ∧
  (∀ (s : State) (k : Fin 6) (v : Word), HostOpen s → partRefused s k.val (bits v 26 16) (bits v 11 0) = true →
    exec (.lanPartWrite k v) s = .next (configIgnored s (0xE00100 + 4 * k.val) v (held := true))) ∧
  (∀ (s : State) (k : Fin 6), partUse s k.val ≤ partSize s k.val →
    ∃ t, exec (.partitionCutComplete k) s = .next t ∧ (∀ c ∈ t.mif.cuts, c.part = k.val → c.waits = false) ∧
      t.regs = s.regs ∧ t.mem = s.mem) ∧
  ∀ (s : State) (k : Fin 6), partSize s k.val < partUse s k.val → exec (.partitionCutComplete k) s = .next s

/-- FOLD changes only with no job open and no LPDDR5X request in flight; the write that keeps it changes nothing else, and the one
that changes it leaves every other memory as it was (spec/11 R276; log entry 45 on what LPDDR5X then holds). A repair starts on the
row its request names, for a hard one with no job open; one asked for in between is refused with RESULT 3; when it finishes the
channel is free and RESULT says how it ended, with the row's bytes as they were (spec/11 R288).
Completes: drmIlvCfgWrite, pprSoft, pprHard, pprDone. -/
def Obligations.DrumRegisters : Prop :=
  ((∀ (s : State) (v : Word), Sound s = true → HostOpen s → jobId s = 0 → memBusy s = false →
    bits v 2 0 = regBits s 0xC00000 2 0 →
    ∃ t, exec (.drmIlvCfgWrite v) s = .next t ∧ FieldsWritten s t 0xC00000 7 v) ∧
  (∀ (s : State) (v : Word), Sound s = true → HostOpen s → jobId s = 0 → memBusy s = false →
    ∃ t, exec (.drmIlvCfgWrite v) s = .next t ∧ regBits t 0xC00000 2 0 = bits v 2 0 ∧
      ∀ a, lpBytes ≤ a → t.mem.get a = s.mem.get a) ∧
  ∀ (s : State) (v : Word), HostOpen s → jobId s ≠ 0 ∨ memBusy s = true →
    exec (.drmIlvCfgWrite v) s = .next (configIgnored s 0xC00000 v)) ∧
  ((∀ (s : State) (d : Fin 2) (v : Word), Sound s = true → HostOpen s → pprOf s d.val = none →
    ∃ t, exec (.pprSoft d v) s = .next t ∧
      pprOf t d.val = some { ch := 64 * d.val + bits v 29 24, bank := bits v 23 20, row := bits v 17 0 } ∧
      (channel t (64 * d.val + bits v 29 24)).ppr = true ∧ t.mem = s.mem ∧ t.regs = s.regs) ∧
  (∀ (s : State) (d : Fin 2) (v : Word), Sound s = true → HostOpen s → pprOf s d.val = none → jobId s = 0 →
    ∃ t, exec (.pprHard d v) s = .next t ∧
      pprOf t d.val = some { ch := 64 * d.val + bits v 29 24, bank := bits v 23 20, row := bits v 17 0 } ∧
      (channel t (64 * d.val + bits v 29 24)).ppr = true ∧ t.mem = s.mem ∧ t.regs = s.regs) ∧
  (∀ (s : State) (d : Fin 2) (v : Word), Sound s = true → HostOpen s → pprOf s d.val ≠ none →
    ∃ t u, exec (.pprSoft d v) s = .next t ∧ exec (.pprHard d v) s = .next u ∧
      OnlyReg s t (0xC00304 + 0x100000 * d.val) ∧ OnlyReg s u (0xC00304 + 0x100000 * d.val) ∧
      regBits t (0xC00304 + 0x100000 * d.val) 30 28 = 3 ∧ regBits u (0xC00304 + 0x100000 * d.val) 30 28 = 3) ∧
  (∀ (s : State) (d : Fin 2) (v : Word), Sound s = true → HostOpen s → jobId s ≠ 0 →
    ∃ t, exec (.pprHard d v) s = .next t ∧ OnlyReg s t (0xC00304 + 0x100000 * d.val) ∧
      regBits t (0xC00304 + 0x100000 * d.val) 30 28 = 3) ∧
  ∀ (s : State) (d : Fin 2) (result : Fin 3) (p : Ppr), Sound s = true → NoWork s → pprOf s d.val = some p →
    ∃ t, exec (.pprDone d result) s = .next t ∧ pprOf t d.val = none ∧ (channel t p.ch).ppr = false ∧
      regBits t (0xC00304 + 0x100000 * d.val) 30 28 = result.val ∧ t.mem = s.mem ∧ t.ops = s.ops)



/-- GAL_SELF takes CHIP and JOB, clears every flow context, and lifts HALTED unless a C4 is in force; a write of a remap entry
redirects its chip and clears that chip's contexts, whose unacknowledged packets are numbered from 0 to be sent again (log
entry 149); SPLIT changes only while every link is DOWN or DISABLED.
Completes: galSelfWrite, galRemapWrite, spireSplitWrite. -/
def Obligations.FabricRegisters : Prop :=
  (∀ (s : State) (v : Word), Sound s = true → HostOpen s → NoWork s → spireMode s = false →
    ∃ t, exec (.galSelfWrite v) s = .next t ∧ ownChip t = bits v 31 16 ∧ jobId t = bits v 15 0 ∧ t.fab.flows = [] ∧
      (s.flt.fatal = [] → t.flt.halted = false) ∧ (s.flt.fatal ≠ [] → t.flt.halted = s.flt.halted) ∧
      t.mem = s.mem ∧ t.host = s.host ∧ t.fab.links = s.fab.links ∧ ∀ o, o ≠ 0x800000 → regGet t o = regGet s o) ∧
  (∀ (s : State) (v : Word), Sound s = true → HostOpen s → NoWork s → spireMode s = true →
    ∃ t, exec (.galSelfWrite v) s = .next t ∧ ownChip t = bits v 31 16 ∧ jobId t = 0) ∧
  (∀ (s : State) (chip : Fin 32768) (v : Word), Sound s = true → HostOpen s → NoWork s → s.fab.heldPkts = [] →
    regGet s (0x820000 + 4 * chip.val) ≠ v →
    ∃ t, exec (.galRemapWrite chip v) s = .next t ∧ regGet t (0x820000 + 4 * chip.val) = v ∧
      (∀ o, o ≠ 0x820000 + 4 * chip.val → regGet t o = regGet s o) ∧
      t.fab.flows.filter (fun f => f.chip != chip.val) = s.fab.flows.filter (fun f => f.chip != chip.val) ∧
      (∀ f ∈ t.fab.flows, f.chip = chip.val → f.base = 0 ∧ f.got = [] ∧ f.next = f.unacked.length ∧ f.unacked ≠ [] ∧
        ∀ (i : Nat) (u : Unacked), f.unacked[i]? = some u → u.pkt.hdr.fseq = i) ∧ t.mem = s.mem ∧ t.fab.links = s.fab.links) ∧
  (∀ (s : State) (v : Word), Sound s = true → HostOpen s → bits v 1 0 ≠ 3 →
    (∀ l, l < 96 → (link s l).st = .down ∨ (link s l).st = .disabled) →
    ∃ t, exec (.spireSplitWrite v) s = .next t ∧ FieldsWritten s t 0x800018 3 v) ∧
  ∀ (s : State) (v : Word) (l : Nat), HostOpen s → l < 96 → (link s l).st ≠ .down → (link s l).st ≠ .disabled →
    exec (.spireSplitWrite v) s = .next (configIgnored s 0x800018 v)

/-- GAL_LINK_CTL: EN = 0 disables a link that is not QUARANTINED, EN = 1 lets a disabled one go DOWN; nothing but CLEAR_Q releases
a quarantined one, which trains again where EN is set (spec/12 R312); RETRAIN trains an UP one; asked of a link in another state,
the last two change no link's state.
Completes: linkEnWrite, clearQ, retrain. -/
def Obligations.LinkControls : Prop :=
  (∀ (s : State) (l : Fin 96), Sound s = true → HostOpen s → NoWork s → (link s l.val).st ≠ .quarantined →
    ∃ t, exec (.linkEnWrite l false) s = .next t ∧ (link t l.val).st = .disabled ∧
      regBits t (linkCtlOff l.val) 31 31 = 0 ∧ t.mem = s.mem) ∧
  (∀ (s : State) (l : Fin 96) (en : Bool), Sound s = true → HostOpen s → NoWork s → (link s l.val).st = .quarantined →
    regBits s (linkCtlOff l.val) 30 30 = 0 → regBits s (linkCtlOff l.val) 29 29 = 0 →
    ∃ t, exec (.linkEnWrite l en) s = .next t ∧ (link t l.val).st = .quarantined ∧
      regBits t (linkCtlOff l.val) 31 31 = b2n en ∧ t.fab = s.fab ∧ t.mem = s.mem) ∧
  (∀ (s : State) (l : Fin 96), Sound s = true → HostOpen s → NoWork s → (link s l.val).st = .disabled →
    ∃ t, exec (.linkEnWrite l true) s = .next t ∧ (link t l.val).st = .down ∧ regBits t (linkCtlOff l.val) 31 31 = 1 ∧
      t.mem = s.mem ∧ ∀ j, j ≠ l.val → link t j = link s j) ∧
  (∀ (s : State) (l : Fin 96), Sound s = true → HostOpen s → NoWork s → (link s l.val).st = .quarantined →
    regBits s (linkCtlOff l.val) 31 31 = 1 → regBits s (linkCtlOff l.val) 29 29 = 0 → galleryStopped s l.val = false →
    ∃ t, exec (.clearQ l) s = .next t ∧ (link t l.val).st = .training ∧ t.mem = s.mem ∧
      ∀ j, j ≠ l.val → link t j = link s j) ∧
  (∀ (s : State) (l : Fin 96), Sound s = true → HostOpen s → NoWork s → (link s l.val).st = .up →
    regBits s (linkCtlOff l.val) 31 31 = 1 → regBits s (linkCtlOff l.val) 30 30 = 0 →
    ∃ t, exec (.retrain l) s = .next t ∧ (link t l.val).st = .training ∧
      (link t l.val).retrains = min 255 ((link s l.val).retrains + 1) ∧ t.mem = s.mem) ∧
  ∀ (s : State) (l : Fin 96), Sound s = true → HostOpen s → NoWork s → regBits s (linkCtlOff l.val) 31 31 = 1 →
    regBits s (linkCtlOff l.val) 30 30 = 0 → regBits s (linkCtlOff l.val) 29 29 = 0 → (link s l.val).st ≠ .disabled →
    ((link s l.val).st ≠ .quarantined → ∃ t, exec (.clearQ l) s = .next t ∧ t.fab = s.fab) ∧
    ((link s l.val).st ≠ .up → ∃ t, exec (.retrain l) s = .next t ∧ t.fab = s.fab)

/-- CLEAR_LOG empties the log and RESUME lifts HALTED unless a C4 is in force; neither does what the other does
(spec/15 R377, Table 15.9).
Completes: clearLog, resume. -/
def Obligations.FaultControls : Prop :=
  (∀ s : State, HostOpen s →
    ∃ t, exec .clearLog s = .next t ∧ t.flt.log = [] ∧ t.flt.halted = s.flt.halted ∧ t.flt.buckets = s.flt.buckets ∧
      t.flt.written = s.flt.written ∧ t.regs = s.regs ∧ t.mem = s.mem ∧ t.ops = s.ops) ∧
  (∀ s : State, HostOpen s → NoWork s → s.flt.fatal = [] →
    ∃ t, exec .resume s = .next t ∧ t.flt.halted = false ∧ t.flt.log = s.flt.log ∧ t.regs = s.regs ∧ t.mem = s.mem) ∧
  ∀ s : State, HostOpen s → s.flt.fatal ≠ [] → exec .resume s = .next s

/-- The anti-rollback counters: GO is taken in DEVELOP and later once READY, and nowhere else; the burn raises each counter to
the running image's SVN as far as its 64 fuses go, never below what it was; a power loss during the burn leaves each at its old or its new value
(spec/16 R395).
Completes: arbCommit, arbBurnDone. -/
def Obligations.AntiRollback : Prop :=
  (∀ s : State, s.flt.sealed = false → s.fin.ready = true → s.fin.lc ≠ 0 →
    ∃ t, exec .arbCommit s = .next t ∧ t = { s with fin := t.fin } ∧ t.fin = { s.fin with arbBurn := true }) ∧
  (∀ s : State, s.flt.sealed = false → s.fin.ready = false ∨ s.fin.lc = 0 →
    exec .arbCommit s = .next (configIgnored s 0x18 1)) ∧
  (∀ s : State, s.fin.arbBurn = true →
    ∃ t, exec .arbBurnDone s = .next t ∧ t.fin.finCtr = max s.fin.finCtr (min s.fin.finSvn 64) ∧
      t.fin.blfCtr = max s.fin.blfCtr (min s.fin.blfSvn 64) ∧ (s.fin.finCtr ≤ 64 → t.fin.finCtr ≤ 64) ∧
      (s.fin.blfCtr ≤ 64 → t.fin.blfCtr ≤ 64) ∧ t.fin.arbBurn = false ∧ t.regs = s.regs ∧ t.mem = s.mem) ∧
  (∀ s : State, s.fin.arbBurn = false → exec .arbBurnDone s = .next s) ∧
  ∀ (s : State) (straps : Fin 8), s.fin.arbBurn = true → ∀ c ∈ [.powerDownSequence, .powerOnReset straps],
    ∃ t, exec c s = .next t ∧ t.fin.arbBurn = false ∧
      (t.fin.finCtr = s.fin.finCtr ∨ t.fin.finCtr = max s.fin.finCtr (min s.fin.finSvn 64)) ∧
      (t.fin.blfCtr = s.fin.blfCtr ∨ t.fin.blfCtr = max s.fin.blfCtr (min s.fin.blfSvn 64))

/-- Attestation: GO takes the nonce and the measurements as they are and clears DONE, and is ignored while a report is built
or in RETURNED; the report is what GO took followed by 96 signature bytes; EXTEND replaces M2 by the SHA-384 of M2 and the
data words (spec/16 R397, R398).
Completes: attestationGo, attestationReportDone, m2Extend. -/
def Obligations.Attestation : Prop :=
  (∀ s : State, HostOpen s → s.fin.attBusy = false → s.fin.lc ≠ 3 →
    ∃ t, exec .attestationGo s = .next t ∧ t.fin.attBusy = true ∧ t.fin.attDone = false ∧ t.fin.attInputs = reportBody s ∧
      t.fin.m2 = s.fin.m2 ∧ t.regs = s.regs ∧ t.mem = s.mem) ∧
  (∀ s : State, HostOpen s → s.fin.attBusy = true ∨ s.fin.lc = 3 →
    exec .attestationGo s = .next (configIgnored s 0x220 1)) ∧
  (∀ s : State, s.fin.attBusy = true →
    ∃ t, exec .attestationReportDone s = .next t ∧ t.fin.attBusy = false ∧ t.fin.attDone = true ∧
      t.fin.report.take s.fin.attInputs.length = s.fin.attInputs ∧ t.fin.report.length = s.fin.attInputs.length + 96 ∧
      t.regs = s.regs ∧ t.mem = s.mem) ∧
  ∀ s : State, HostOpen s →
    ∃ t, exec .m2Extend s = .next t ∧ t.fin.m2 = sha384 (s.fin.m2 ++ regBytes s 0x240 12) ∧
      t.fin.m0 = s.fin.m0 ∧ t.fin.m1 = s.fin.m1 ∧ t.fin.attInputs = s.fin.attInputs ∧ t.regs = s.regs ∧ t.mem = s.mem

/-- The UART's pins go to Wamos or to the fault console, never to both, at 9,600 to 3,000,000 baud; a GPIO pin takes a free
function, and a function or a pin that is taken is refused with RESOURCE_HELD (spec/16 R406, R407).
Completes: finUartWrite, finGpioWrite. -/
def Obligations.PinClaims : Prop :=
  (∀ (s : State) (v : Word), Sound s = true → HostOpen s → regBits s 0x20 31 31 = 0 → regBits s 0x20 30 30 = 0 →
    bits v 31 31 + bits v 30 30 ≤ 1 → 9600 ≤ bits v 21 0 → bits v 21 0 ≤ 3000000 →
    ∃ t, exec (.finUartWrite v) s = .next t ∧ FieldsWritten s t 0x20 0xC03FFFFF v) ∧
  (∀ (s : State) (v : Word), HostOpen s → (regBits s 0x20 31 31 = 1 ∧ bits v 30 30 = 1) ∨
      (regBits s 0x20 30 30 = 1 ∧ bits v 31 31 = 1) ∨ (bits v 31 31 = 1 ∧ bits v 30 30 = 1) →
    exec (.finUartWrite v) s = .next (configIgnored s 0x20 v (held := true))) ∧
  (∀ (s : State) (v : Word), Sound s = true → HostOpen s → regBits s 0x20 31 31 = 1 → regBits s 0x20 30 30 = 0 →
    bits v 31 31 = 0 → bits v 30 30 = 0 → 9600 ≤ bits v 21 0 → bits v 21 0 ≤ 3000000 →
    ∃ t, exec (.finUartWrite v) s = .next t ∧ t.wamos.line = [] ∧ regBits t 0x20 31 31 = 0) ∧
  (∀ (s : State) (p : Fin 8) (v : Word), Sound s = true → HostOpen s → bits v 3 0 < 7 →
    regBits s (0x40 + 4 * p.val) 3 0 = 0 →
    (∀ q, q < 8 → 3 ≤ bits v 3 0 → regBits s (0x40 + 4 * q) 3 0 ≠ bits v 3 0) →
    ∃ t, exec (.finGpioWrite p v) s = .next t ∧ FieldsWritten s t (0x40 + 4 * p.val) 0xF4F v) ∧
  ∀ (s : State) (p : Fin 8) (v : Word), HostOpen s → bits v 3 0 < 7 → bits v 3 0 ≠ 0 →
    regBits s (0x40 + 4 * p.val) 3 0 ≠ 0 → regBits s (0x40 + 4 * p.val) 3 0 ≠ bits v 3 0 →
    exec (.finGpioWrite p v) s = .next (configIgnored s (0x40 + 4 * p.val) v (held := true))

/-- A keep-time comparator: a free one other than 0 is claimed for an owner with its count at 0, a claimed one, and 0, which is
the Chime's, is refused with RESOURCE_HELD, a released one is free; at a multiple of its period a cadence's count goes up by 1, and its 8 bytes go to
TICK_ADDR (spec/16 R408).
Completes: comparatorClaim, comparatorTick. -/
def Obligations.Comparators : Prop :=
  (∀ (s : State) (c : Fin 16) (v : Word), Sound s = true → HostOpen s → NoWork s → c.val ≠ 0 →
    regBits s (0x80 + 16 * c.val) 31 31 = 0 → bits v 31 31 = 1 → 1 ≤ bits v 2 0 → bits v 2 0 ≤ 5 →
    ∃ t, exec (.comparatorClaim c v) s = .next t ∧ regBits t (0x80 + 16 * c.val) 31 31 = 1 ∧
      regBits t (0x80 + 16 * c.val) 2 0 = bits v 2 0 ∧ tabGet (fun _ => 0) t.fin.cmpCount c.val = 0 ∧ t.mem = s.mem) ∧
  (∀ (s : State) (c : Fin 16) (v : Word), HostOpen s → c.val ≠ 0 → regBits s (0x80 + 16 * c.val) 31 31 = 1 →
    bits v 31 31 = 1 →
    exec (.comparatorClaim c v) s = .next (configIgnored s (0x80 + 16 * c.val) v (held := true))) ∧
  (∀ (s : State) (v : Word), HostOpen s →
    exec (.comparatorClaim 0 v) s = .next (configIgnored s 0x80 v (held := bits v 31 31 == 1))) ∧
  (∀ (s : State) (c : Fin 16) (v : Word), Sound s = true → HostOpen s → NoWork s → c.val ≠ 0 → bits v 31 31 = 0 →
    ∃ t, exec (.comparatorClaim c v) s = .next t ∧ regBits t (0x80 + 16 * c.val) 31 31 = 0) ∧
  (∀ (s : State) (c : Fin 16), Sound s = true → regBits s (0x80 + 16 * c.val) 31 31 = 1 →
    regBits s (0x80 + 16 * c.val) 2 0 = 3 → mtime s % max 1280 (regGet s (0x84 + 16 * c.val)).toNat = 0 →
    spireMode s = false → s.dome.stopped = false → isLocal s (tickAddr s c.val) = true → addrOff (tickAddr s c.val) % 8 = 0 →
    regionOf (addrOff (tickAddr s c.val)) = .scratch → rangeOk s (addrOff (tickAddr s c.val)) 8 = true →
    ∃ t, exec (.comparatorTick c) s = .next t ∧
      tabGet (fun _ => 0) t.fin.cmpCount c.val = (tabGet (fun _ => 0) s.fin.cmpCount c.val + 1) % 2 ^ 64 ∧
      t.mem.getBytes (addrOff (tickAddr s c.val)) 8 = leBytes 8 ((tabGet (fun _ => 0) s.fin.cmpCount c.val + 1) % 2 ^ 64) ∧
      ∀ a, a < addrOff (tickAddr s c.val) ∨ addrOff (tickAddr s c.val) + 8 ≤ a → t.mem.get a = s.mem.get a) ∧
  ∀ (s : State) (c : Fin 16), regBits s (0x80 + 16 * c.val) 31 31 = 0 ∨
      mtime s % max 1280 (regGet s (0x84 + 16 * c.val)).toNat ≠ 0 → exec (.comparatorTick c) s = .next s

/-! ### Start-up -/

/-- Rails: the next enable rises once every earlier power good has, 100 µs after the last of them; a power good is noted, and a
stage that waited for it begins; a rail that is not good 10 ms after its enable or that falls raises RAIL for it (C4) with its
voltage. VDD_CORE's regulator: an unacknowledged command holds the setpoint and raises
RAIL; a reported voltage more than 20 mV off the setpoint raises it too, another does not (spec/17 R421 to R423).
Completes: railEnable, railPowerGoodTimeout, railPowerGoodLost, railPowerGoodRise, avsbusAckTimeout, avsbusVoutCheck. -/
def Obligations.Rails : Prop :=
  ((∀ (s : State) (i : Nat), railNext s = some i →
    (i ≠ 0 → s.time.runs = true → s.fin.kref = true → railRoseAt s (i - 1) + 15625 ≤ s.time.keep) →
    ∃ t, exec .railEnable s = .next t ∧ t = { s with fin := t.fin } ∧
      t.fin = { s.fin with railEn := s.fin.railEn ||| 2 ^ i, railEnAt := s.time.keep } ∧
      i < 6 ∧ railOn s i = false ∧ ∀ j, j < i → railGood s j = true) ∧
  (∀ (s : State) (i : Nat), i < 6 → railOn s i = false → (∀ j, j < i → railOn s j = true ∧ railGood s j = true) →
    s.fin.railsStopped = false → 1 ≤ s.fin.stage → s.fin.krefLostBoot = false → s.flt.sealed = false →
    (i = 5 → s.fin.strap = 0) →
    (i ≠ 0 → s.time.runs = true → s.fin.kref = true → railRoseAt s (i - 1) + 15625 ≤ s.time.keep) →
    exec .railEnable s = .next { s with fin := { s.fin with railEn := s.fin.railEn ||| 2 ^ i, railEnAt := s.time.keep } }) ∧
  (∀ s : State, railNext s = none → exec .railEnable s = .next s) ∧
  (∀ (s : State) (i : Nat), railNext s = some i → i ≠ 0 → s.time.runs = true → s.fin.kref = true →
    s.time.keep < railRoseAt s (i - 1) + 15625 → exec .railEnable s = .next s) ∧
  (∀ (s : State) (r : Fin 6), railOn s r.val = true →
    ∃ t, exec (.railPowerGoodRise r) s = .next t ∧ t = { s with fin := t.fin } ∧ railGood t r.val = true ∧
      (railGood s r.val = false → railRoseAt t r.val = s.time.keep) ∧ t.fin.railEn = s.fin.railEn ∧
      (railGood s r.val = false → 3 ≤ r.val → r.val ≤ 4 → s.fin.stage = 1 → s.fin.memoryDone = false →
        (∀ j, 3 ≤ j → j ≤ 4 → j ≠ r.val → railGood s j = true) → s.fin.kref = true → s.fin.krefLostBoot = false →
        s.flt.sealed = false → t.fin.stage = 2) ∧
      ∀ j, j ≠ r.val → railGood t j = railGood s j) ∧
  (∀ (s : State) (r : Fin 6) (mv : Nat), railGood s r.val = true →
    ∃ t, exec (.railPowerGoodLost r mv) s = .next t ∧ (r.val < 6 → railGood t r.val = false) ∧
      (∃ x ∈ t.flt.undelivered, x.die = 5 ∧ x.unit = 5 - r.val ∧ x.kind = 0x38) ∧ t.fin.railEn = s.fin.railEn ∧
      t.mem = s.mem ∧ t.regs = s.regs) ∧
  ∀ (s : State) (i : Nat), i < 6 → railOn s i = true → railGood s i = false →
    (∀ j, j < i → railOn s j = false ∨ railGood s j = true) →
    (s.time.runs = true → s.fin.kref = true → s.fin.railEnAt + 1562500 ≤ s.time.keep) →
    ∃ t, exec .railPowerGoodTimeout s = .next t ∧ t.fin.railEn = s.fin.railEn % 2 ^ i ∧ t.fin.railsStopped = true ∧
      (∃ x ∈ t.flt.undelivered, x.die = 5 ∧ x.unit = 5 - i ∧ x.kind = 0x38) ∧ t.mem = s.mem ∧ t.regs = s.regs) ∧
  ((∀ s : State, s.fin.avsPending = true →
    ∃ t, exec .avsbusAckTimeout s = .next t ∧ t.fin.avsPending = false ∧ t.chime.vdd = s.chime.vddPrev ∧
      ∃ x ∈ t.flt.undelivered, x.die = 5 ∧ x.unit = 0 ∧ x.kind = 0x38) ∧
  (∀ (s : State) (mv : Nat), s.fin.avsPending = true → ((mv : Int) - s.chime.vdd).natAbs > 20 →
    ∃ t, exec (.avsbusVoutCheck mv) s = .next t ∧ t.fin.avsPending = false ∧ t.chime = s.chime ∧
      ∃ x ∈ t.flt.undelivered, x.die = 5 ∧ x.unit = 0 ∧ x.kind = 0x38) ∧
  ∀ (s : State) (mv : Nat), s.fin.avsPending = true → ((mv : Int) - s.chime.vdd).natAbs ≤ 20 →
    ∃ t, exec (.avsbusVoutCheck mv) s = .next t ∧ t = { s with fin := t.fin } ∧ t.fin = { s.fin with avsPending := false })



/-- KREF and PERST_N: KREF's edges take the ROM off its oscillator, and stage 2 begins that waited for them; 100 ms without them stop the boot at stage 1 with KREF_LOST,
and so does their loss later raise it; PERST_N's release, inside not before 1 ms after VDD_PCIE is good, starts the count after
which configuration requests are answered, with Request Retry Status until READY and then by a function of class code 0x12_0000 (spec/13
R323, spec/16 R392, spec/17 R419, R422).
Completes: perstDeassert, pcieConfigRequest, krefLost, krefBootTimeout, krefDetect, perstInternalRelease. -/
def Obligations.ReferenceAndPerst : Prop :=
  (∀ s : State, ∃ t, exec .krefDetect s = .next t ∧ t = { s with fin := { s.fin with kref := true, stage := t.fin.stage } } ∧
    (s.fin.stage ≠ 1 → s.fin.memoryDone = false → t.fin.stage = s.fin.stage) ∧
    (s.fin.stage = 1 → s.fin.memoryDone = false → s.flt.sealed = false → s.fin.krefLostBoot = false →
      t.fin.stage = if railGood s 3 = true ∧ railGood s 4 = true then 2 else 1)) ∧
  (∀ s : State, s.fin.kref = false → s.fin.krefLostBoot = false → s.fin.stage ≤ 1 →
    ∃ t, exec .krefBootTimeout s = .next t ∧ t.fin.stage = 1 ∧ t.fin.krefLostBoot = true ∧
      (∃ x ∈ t.flt.undelivered, x.die = 0 ∧ x.unit = 4 ∧ x.kind = 0x18) ∧ t.regs = s.regs ∧ t.mem = s.mem) ∧
  (∀ s : State, s.fin.kref = true →
    ∃ t, exec .krefLost s = .next t ∧ t.fin.kref = false ∧ (∃ x ∈ t.flt.undelivered, x.die = 0 ∧ x.unit = 4 ∧ x.kind = 0x18) ∧
      t.regs = s.regs ∧ t.mem = s.mem) ∧
  (∀ s : State, s.fin.perstLow = true → railGood s 1 = true →
    ∃ t, exec .perstDeassert s = .next t ∧ t.fin.perstLow = false ∧ t.fin.perstHeld = false ∧ t.fin.perstAt = s.time.keep ∧
      t.mem = s.mem ∧ t.regs = s.regs) ∧
  (∀ s : State, s.fin.perstLow = true → railGood s 1 = false →
    ∃ t, exec .perstDeassert s = .next t ∧ t.fin.perstLow = false ∧ t.fin.perstHeld = true) ∧
  (∀ s : State, s.fin.perstHeld = true → railGood s 1 = true →
    (s.time.runs = true → s.fin.kref = true → railRoseAt s 1 + 156250 ≤ s.time.keep) →
    ∃ t, exec .perstInternalRelease s = .next t ∧ t.fin.perstHeld = false ∧ t.fin.perstAt = s.time.keep) ∧
  (∀ s : State, s.fin.perstLow = false → s.fin.perstHeld = false → s.fin.pinsTaken = false →
    s.fin.perstAt + 15625000 ≤ s.time.keep →
    ∃ t, exec .pcieConfigRequest s = .next t ∧ t = { s with fin := t.fin } ∧
      t.fin.cfgAnswers = s.fin.cfgAnswers ++ [if s.fin.ready || s.flt.sealed then some 0x120000 else none]) ∧
  ∀ s : State, s.fin.perstLow = true ∨ s.time.keep < s.fin.perstAt + 15625000 → exec .pcieConfigRequest s = .next s

/-- Secure boot: an image that passes every check and is not older than its counter runs and is measured; a failing image of
slot A brings a chip reset into slot B (which straps that a burned lifecycle no longer allows then seal, R390), and a failing one of slot B seals the device (spec/16 R394, R395).
Completes: bootImageVerify. -/
def Obligations.SecureBoot : Prop :=
  (∀ (s : State) (im : List Byte), imageDue s false = true → s.fin.finCtr ≤ imageSvn im →
    ∃ t, exec (.bootImageVerify false im) s = .next t ∧ (imageGood s 1 im = true → 1 ≤ t.fin.stage ∧
      (railGood s 3 = false ∨ railGood s 4 = false ∨ s.fin.kref = false → t.fin.stage = 1) ∧
      t.fin.finSvn = imageSvn im ∧ t.fin.m0 = sha384 (im.take (1280 + imageLen im)) ∧
      t.time.runs = true ∧ t.flt = s.flt)) ∧
  (∀ (s : State) (im : List Byte), imageDue s true = true → s.fin.blfCtr ≤ imageSvn im →
    ∃ t, exec (.bootImageVerify true im) s = .next t ∧ (imageGood s 2 im = true → t.fin.stage = s.fin.stage ∧
      t.fin.blfSvn = imageSvn im ∧ t.fin.m1 = sha384 (im.take (1280 + imageLen im)) ∧
      t.fin.belfryImage = true ∧ t.flt = s.flt)) ∧
  (∀ (s : State) (b : Bool) (im : List Byte), imageDue s b = true → s.fin.slotB = false →
    imageGood s (if b then 2 else 1) im = false ∨ imageSvn im < arbCounter s (if b then 2 else 1) →
    ∃ t, exec (.bootImageVerify b im) s = .next t ∧ t.fin.stage = 0 ∧ t.fin.slotB = true ∧ t.fin.failA = true ∧
      t.flt.sealed = !strapOk s.fin.strap t.fin.lc) ∧
  (∀ (s : State) (b : Bool) (im : List Byte), Sound s = true → imageDue s b = true → s.fin.slotB = true →
    s.flt.buckets = [] → regGet s 0x200200 = regReset 0x200200 → regGet s 0x200204 = regReset 0x200204 →
    imageGood s (if b then 2 else 1) im = false ∨ imageSvn im < arbCounter s (if b then 2 else 1) →
    ∃ t, exec (.bootImageVerify b im) s = .next t ∧ t.fin.failB = true ∧ t.flt.sealed = true) ∧
  ∀ (s : State) (b : Bool) (im : List Byte), imageDue s b = false → exec (.bootImageVerify b im) s = .next s

/-- The stages: 2 trains every channel and ends with memory ready, and 3 begins once it has in compute mode and VDD_CORE is good;
3 applies the fences and calibrates one point into CHM_VF0, 4 sets READY with CAUTIOUS_LEFT 16 and no job; a stage that is not due does nothing (spec/16 R391).
Completes: stageMemory, stageDome, stageReady. -/
def Obligations.Stages : Prop :=
  (∀ s : State, Sound s = true → s.fin.stage = 2 → s.fin.memoryDone = false → railGood s 3 = true →
    railGood s 4 = true → s.fin.kref = true → s.fin.krefLostBoot = false → s.flt.sealed = false → s.fin.pinsTaken = false →
    ∃ t, exec .stageMemory s = .next t ∧ t.fin.memoryDone = true ∧
      t.fin.stage = (if s.fin.strap = 0 ∧ railGood s 5 = true then 3 else 2) ∧
      (∀ ch, ch < 128 → (channel t ch).tag.isSome = true ∧ (channel t ch).due = false) ∧ t.mem = s.mem ∧ t.regs = s.regs) ∧
  (∀ (s : State) (volt : Nat), Sound s = true → s.fin.stage = 3 → s.fin.domeDone = false → railGood s 5 = true → s.fin.belfryImage = true → s.flt.sealed = false →
    ∃ t, exec (.stageDome volt) s = .next t ∧ t.fin.stage = 3 ∧ t.fin.domeDone = true ∧
      (∃ x, vfAt t 0 = some x ∧ x.volt = volt ∧ x.accepted = true) ∧ t.mem = s.mem ∧ t.regs = s.regs) ∧
  (∀ s : State, Sound s = true → s.fin.memoryDone = true →
    (s.fin.stage = 3 ∧ s.fin.domeDone = true) ∨ (s.fin.stage = 2 ∧ s.fin.strap ≠ 0) →
    s.flt.sealed = false →
    ∃ t, exec .stageReady s = .next t ∧ t.fin.stage = 4 ∧ t.fin.ready = true ∧ jobId t = 0 ∧ regBits t 0x1000188 4 0 = 16 ∧
      t.mem = s.mem ∧ ∀ o, o ≠ 0x1000188 → o ≠ 0x800000 → regGet t o = regGet s o) ∧
  (∀ s : State, s.fin.stage ≠ 2 → exec .stageMemory s = .next s) ∧
  (∀ (s : State) (volt : Nat), s.fin.stage ≠ 3 ∨ s.fin.domeDone = true → exec (.stageDome volt) s = .next s) ∧
  ∀ s : State, s.fin.memoryDone = false ∨ (s.fin.stage = 3 ∧ s.fin.domeDone = false) → exec .stageReady s = .next s

/-! ### The host interface -/

namespace Sys2Proof.Machine

/-- Nothing held at acceptance, nothing in flight but one op, and no comparator that waits for its timers. -/
abbrev OnlyOp (s : State) (o : Op) : Prop := s.ops = [o] ∧ s.fin.cmpReleasing = [] ∧ ∀ x ∈ s.hif.rings, x.2.held = []

/-- A host access that comes finds none before it, and no bank in copy on its way. -/
abbrev Bar2Free (s : State) (x : Nat × Option (List Byte) × Nat) : Prop :=
  s.mif.bar2Waits = [] ∧ bar2Copies s x = false

/-- One op ended with a status, its other requests cancelled; every other op as it was. -/
abbrev Ended (s t : State) (o : Op) (st : Status) : Prop :=
  t.ops = s.ops.map fun p => if p.id = o.id ∧ p.isDone = false then { p with phase := .done st, reqs := [], owed := [] } else p

/-- The op is a FINAL REDUCE_GRAD, whose completion ends its group's step (spec/09 R236). -/
def finalReduce : OpBody → Bool
  | .reduceGrad b => reduceFinal b
  | _ => false

/-- Slot of the next record of queue q. -/
def nextSlot (s : State) (q : Nat) : Nat := eqBase s q + (eqGet s q).written % eqSize s q * 32

/-- A completion's 32 bytes without an extension, with PHASE and LOST as the next slot of its queue takes them (spec/13 Table
13.6). -/
def completionBytes (s : State) (o : Op) (st : Status) (time : Nat) : List Byte :=
  recHead 1 st.code (b2n ((eqGet s o.evq).written / eqSize s o.evq % 2 == 0) + 4 * b2n (eqGet s o.evq).lost) o.ring
      o.hdr.stream time ++
    leBytes 4 (min o.tally.sat 0xFFFFFFFF) ++ leBytes 4 (min o.tally.nonfin 0xFFFFFFFF) ++ leBytes 1 o.tally.ieeeByte ++
    leBytes 1 (OpBody.opcode o.body) ++ leBytes 2 o.hdr.txn ++ leBytes 4 o.detail

end Sys2Proof.Machine

/-- Rings. DOORBELL_POLL takes EQ_HEAD of every enabled queue and TAIL of every enabled ring that is not stopped, and stops a ring
whose TAIL is more than SIZE ahead; the interval doubles up to MAX_US on an idle device and is MIN_US once there are new
descriptors. DESCRIPTOR_FETCH hands 1 to 16 descriptors of the ring whose turn it is, no more than TAIL is ahead, on in ring order
from their slots, moves FETCHED past them, writes the ring's entry of the status area and gives the turn to the next ring; what was
not asked for is not fetched (spec/13 R325 to R328).
Completes: doorbellPoll, descriptorFetch. -/
def Obligations.RingService : Prop :=
  ((∀ (s : State) (v : List Byte), Sound s = true → s.flt.sealed = false → s.fin.pinsTaken = false →
    regBits s 0x100000 0 0 = 1 → s.ops = [] →
    ∃ t, exec (.doorbellPoll v) s = .next t ∧ t.mem = s.mem ∧
      (∀ q, q < 64 → eqEnabled s q = true → (eqGet t q).head = fieldAt v (16 * q + 4) 4) ∧
      (∀ r, r < 256 → ringEnabled s r = true → (ring s r).stopped = false →
        (ring t r).tail = fieldAt v (16 * r) 4 ∧
        ((ring t r).stopped = true ↔ ringSize s r < ringNew { ring s r with tail := fieldAt v (16 * r) 4 })) ∧
      ((∀ r, r < 256 → ringEnabled s r = false) → t.hif.pollUs = max (pollMin s) (min (pollMax s) (2 * s.hif.pollUs)) ∧
        (v.length ≤ 4096 → t.host.getBytes (doorbellAddr s) v.length = v)) ∧
      ((∃ r, r < 256 ∧ ringEnabled s r = true ∧ (ring s r).stopped = false ∧
          0 < ringNew { ring s r with tail := fieldAt v (16 * r) 4 } ∧
          ringNew { ring s r with tail := fieldAt v (16 * r) 4 } ≤ ringSize s r) → t.hif.pollUs = pollMin s)) ∧
  ∀ (s : State) (v : List Byte), regBits s 0x100000 0 0 = 0 ∨ s.flt.sealed = true → exec (.doorbellPoll v) s = .next s) ∧
  ((∀ (s : State) (r : Fin 256) (ds : List (List Byte)), Sound s = true → s.flt.sealed = false → s.fin.pinsTaken = false →
    regBits s 0x100000 0 0 = 1 → turnRing s = some r.val → ds ≠ [] →
    ds.length ≤ 16 → ds.length ≤ ringNew (ring s r.val) →
    (∀ d ∈ (ring s r.val).fetchedDescs ++ ds.map parseDesc, opKnown d.body = true) →
    ∃ t, exec (.descriptorFetch r ds) s = .next t ∧ (ring t r.val).fetched = ((ring s r.val).fetched + ds.length) % 2 ^ 32 ∧
      (ring t r.val).fetchedDescs = (ring s r.val).fetchedDescs ++ ds.map parseDesc ∧
      t.host.getBytes (regBits s 0x10000C 31 12 * 4096 + regBits s 0x100010 31 0 * 2 ^ 32 + 16 * r.val) 16 =
        leBytes 4 (ring t r.val).fetched ++ leBytes 4 (ringInFlight s r.val) ++ leBytes 8 0 ∧
      (∀ i d, ds[i]? = some d → d.length = 64 → 16 ≤ ringSize s r.val →
        (slotHost s r.val ((ring s r.val).fetched + i) + 64 ≤
            regBits s 0x10000C 31 12 * 4096 + regBits s 0x100010 31 0 * 2 ^ 32 + 16 * r.val ∨
          regBits s 0x10000C 31 12 * 4096 + regBits s 0x100010 31 0 * 2 ^ 32 + 16 * r.val + 16 ≤
            slotHost s r.val ((ring s r.val).fetched + i)) →
        t.host.getBytes (slotHost s r.val ((ring s r.val).fetched + i)) 64 = d) ∧
      t.hif.nextRing = (r.val + 1) % 256 ∧
      t.ops = s.ops ∧ t.mem = s.mem ∧ t.regs = s.regs ∧ ∀ x, x ≠ r.val → ring t x = ring s x) ∧
  (∀ (s : State) (r : Nat), turnRing s = some r → fetchable s r = true) ∧
  (∀ (s : State) (r i : Nat), turnRing s = some r → i < (r + 256 - s.hif.nextRing % 256) % 256 →
    fetchable s ((s.hif.nextRing + i) % 256) = false) ∧
  ∀ (s : State) (r : Fin 256) (ds : List (List Byte)),
    ringEnabled s r.val = false ∨ (ring s r.val).stopped = true ∨ turnRing s ≠ some r.val ∨ 16 < ds.length ∨ ringNew (ring s r.val) < ds.length →
    exec (.descriptorFetch r ds) s = .next s)



/-- TIMER_EXPIRY ends a TIMER whose target is reached OK, and one before its target not at all; LIMIT_EXPIRY ends an op whose
limit is reached with TIMEOUT, or, when its arrival was latched in that clk, counts a near timeout and lets it go on
(spec/13 R343, R345; a FINAL REDUCE_GRAD and a STEP_COMMIT are stated with the others of their families).
Completes: timerExpiry, limitExpiry. -/
def Obligations.TimersAndLimits : Prop :=
  (∀ (s : State) (o : Op) (b : TimerBody), OnlyOp s o → o.body = .timer b → o.phase = .active → timerTarget o b ≤ mtime s →
    ∃ t, exec (.timerExpiry o.hdr.stream) s = .next t ∧ Ended s t o .ok ∧ t.mem = s.mem ∧ t.host = s.host) ∧
  (∀ (s : State) (o : Op) (b : TimerBody), OnlyOp s o → o.body = .timer b → mtime s < timerTarget o b →
    exec (.timerExpiry o.hdr.stream) s = .next s) ∧
  (∀ (s : State) (o : Op), opByStream s o.hdr.stream = some o → o.phase = .active → limitReached s o = true →
    (∀ b, o.body ≠ .reduceGrad b) → (∀ b, o.body ≠ .stepCommit b) →
    ∃ t, exec (.limitExpiry o.hdr.stream false) s = .next t ∧ Ended s t o .timeout ∧ t = { s with ops := t.ops }) ∧
  (∀ (s : State) (o : Op), opByStream s o.hdr.stream = some o → o.phase = .active → limitReached s o = true →
    (∀ b, o.body ≠ .wait b) →
    exec (.limitExpiry o.hdr.stream true) s = .next (regCount s 0x100024 1)) ∧
  ∀ (s : State) (o : Op) (latched : Bool), opByStream s o.hdr.stream = some o → limitReached s o = false →
    exec (.limitExpiry o.hdr.stream latched) s = .next s

/-- COMPLETION of an op that has ended writes its record into the next slot of its queue, counts it, and frees its stream; a
queue that is full or not enabled holds it, and HELD_COMPLETION_WRITE writes it once there is room (spec/13 R348, R351).
Completes: completion, heldCompletionWrite. -/
def Obligations.CompletionRecords : Prop :=
  (∀ (s : State) (o : Op) (st : Status), Sound s = true → OnlyOp s o → o.phase = .done st → o.completed = false →
    o.plan = none → hdrQuiet o.hdr = false → o.c0 = 0 → o.c1 = 0 → o.c2 = 0 → o.c3 = 0 → s.flt.sealed = false →
    eqEnabled s o.evq = true → 1 ≤ eqFree s o.evq → (o.hdr.txn = 0 ∨ st = .ok) → (∀ b, o.body ≠ .stepCommit b) →
    finalReduce o.body = false →
    ∃ t, exec (.completion o.hdr.stream) s = .next t ∧ t.ops = [] ∧ (eqGet t o.evq).written = ((eqGet s o.evq).written + 1) % 2 ^ 32 ∧
      t.host.getBytes (nextSlot s o.evq) 32 = completionBytes s o st (mtime s) ∧
      (∀ a, a < nextSlot s o.evq ∨ nextSlot s o.evq + 32 ≤ a → t.host.get a = s.host.get a) ∧ t.regs = s.regs) ∧
  (∀ (s : State) (o : Op) (st : Status), OnlyOp s o → o.phase = .done st → o.completed = false → o.plan = none →
    hdrQuiet o.hdr = false → (o.hdr.txn = 0 ∨ st = .ok) → (∀ b, o.body ≠ .stepCommit b) → finalReduce o.body = false →
    (eqEnabled s o.evq = false ∨ eqFree s o.evq = 0) →
    ∃ t, exec (.completion o.hdr.stream) s = .next t ∧ t.host = s.host ∧ t.hif.queues = s.hif.queues ∧
      t.ops = [{ o with completed := true, ended := mtime s, doneNo := s.hif.doneNext }]) ∧
  (∀ (s : State) (o : Op) (st : Status), Sound s = true → OnlyOp s o → o.phase = .done st → o.completed = true →
    o.c0 = 0 → o.c1 = 0 → o.c2 = 0 → o.c3 = 0 → s.flt.sealed = false → o.evq < 64 → eqEnabled s o.evq = true →
    1 ≤ eqFree s o.evq →
    ∃ t, exec (.heldCompletionWrite (Fin.ofNat 64 o.evq)) s = .next t ∧ t.ops = [] ∧
      t.host.getBytes (nextSlot s o.evq) 32 = completionBytes s o st o.ended) ∧
  ∀ (s : State) (q : Fin 64), eqEnabled s q.val = false ∨ eqFree s q.val = 0 → exec (.heldCompletionWrite q) s = .next s

/-- Interrupts: a queue whose oldest pending record has waited TIME sends its vector, which a mask keeps pending in the PBA
until MSIX_UNMASK sends it (spec/13 R350).
Completes: interruptTimeTrigger, msixUnmask. -/
def Obligations.Interrupts : Prop :=
  (∀ (s : State) (q : Fin 64), Sound s = true → (eqGet s q.val).pend ≠ 0 → regBits s (0x10300C + 32 * q.val) 31 16 ≠ 0 →
    (eqGet s q.val).since + regBits s (0x10300C + 32 * q.val) 31 16 ≤ mtime s →
    ∃ t, exec (.interruptTimeTrigger q) s = .next t ∧ (eqGet t q.val).pend = 0 ∧ t = { s with hif := t.hif } ∧
      (regBits s (0x108000 + 16 * regBits s (0x103008 + 32 * q.val) 5 0 + 12) 0 0 = 0 →
        t.hif.msix = s.hif.msix ++ [regBits s (0x103008 + 32 * q.val) 5 0] ∧ t.hif.pba = s.hif.pba) ∧
      (regBits s (0x108000 + 16 * regBits s (0x103008 + 32 * q.val) 5 0 + 12) 0 0 = 1 →
        t.hif.msix = s.hif.msix ∧ regBits s (0x103008 + 32 * q.val) 5 0 ∈ t.hif.pba)) ∧
  (∀ (s : State) (q : Fin 64), (eqGet s q.val).pend = 0 ∨
      mtime s < (eqGet s q.val).since + regBits s (0x10300C + 32 * q.val) 31 16 →
    exec (.interruptTimeTrigger q) s = .next s) ∧
  ∀ (s : State) (v : Fin 64), Sound s = true →
    ∃ t, exec (.msixUnmask v) s = .next t ∧ regBits t (0x108000 + 16 * v.val + 12) 0 0 = 0 ∧ v.val ∉ t.hif.pba ∧
      t.hif.msix = s.hif.msix ++ (if v.val ∈ s.hif.pba then [v.val] else []) ∧ t.mem = s.mem ∧ t.host = s.host ∧
      ∀ o, o ≠ 0x108000 + 16 * v.val + 12 → regGet t o = regGet s o

/-- BAR0 and BAR2: a BAR0 access of another size or alignment is answered with Unsupported Request or dropped; a BAR2 read is
answered with committed bytes, in a gap and on a failed grain with Completer Abort; a BAR2 write lands, and in a gap or a view is
dropped; both are counted; one that meets a bank in copy waits (spec/11 R289); sealed, or with the pins taken, the endpoint answers
nothing (spec/11 R287, R290, spec/13 R324, spec/15 Table 15.4, spec/17 R430).
Completes: bar0BadAccess, bar2Read, bar2Write. -/
def Obligations.HostAccess : Prop :=
  (∀ s : State, s.fin.pinsTaken = false → s.flt.sealed = false → exec (.bar0BadAccess false) s =
    .next { s with fin := { s.fin with unsupported := s.fin.unsupported + 1 } }) ∧
  (∀ s : State, exec (.bar0BadAccess true) s = .next s) ∧
  (∀ s : State, s.fin.pinsTaken = true ∨ s.flt.sealed = true → exec (.bar0BadAccess false) s = .next s ∧
    ∀ a n bs, exec (.bar2Read a n) s = .next s ∧ exec (.bar2Write a bs) s = .next s) ∧
  (∀ (s : State) (a n : Nat), s.fin.pinsTaken = false → Bar2Free s (bar2Offset s a, none, n) →
    failedIn s .bar2Read (bar2Offset s a) n = [] → bar2Ok s (bar2Offset s a) n = true →
    ∃ t bs, exec (.bar2Read a n) s = .next t ∧ t = { s with mif := t.mif } ∧
      t.mif = { s.mif with channels := t.mif.channels, replays := t.mif.replays, bar2Answers := s.mif.bar2Answers ++ [some bs] } ∧ bs.length = n ∧
      (∀ x ∈ s.mif.replays, x.1 ≠ .bar2Read → x ∈ t.mif.replays) ∧
      ∀ i, i < n → bs[i]? = some (committedByte s (servedAt s none (bar2Offset s a + i)))) ∧
  (∀ (s : State) (a n : Nat), Sound s = true → s.fin.pinsTaken = false → s.flt.sealed = false →
    Bar2Free s (bar2Offset s a, none, n) → failedIn s .bar2Read (bar2Offset s a) n = [] →
    bar2Ok s (bar2Offset s a) n = false →
    ∃ t, exec (.bar2Read a n) s = .next t ∧ t.mif = { s.mif with replays := t.mif.replays, bar2Answers := s.mif.bar2Answers ++ [none] } ∧
      (regGet t 0x100104).toNat = satAdd32 (regGet s 0x100104).toNat 1 ∧ t.mem = s.mem) ∧
  (∀ (s : State) (a n x : Nat), s.fin.pinsTaken = false → s.flt.sealed = false → Bar2Free s (bar2Offset s a, none, n) →
    failedIn s .bar2Read (bar2Offset s a) n = [x] →
    ∃ t, exec (.bar2Read a n) s = .next t ∧ t.mif.bar2Answers = s.mif.bar2Answers ++ [none] ∧ t.mem = s.mem ∧
      failedIn t .bar2Read (bar2Offset s a) n = []) ∧
  (∀ (s : State) (a : Nat) (bs : List Byte), Sound s = true → s.fin.pinsTaken = false → s.mif.bar2Waits = [] →
    failedIn s .bar2Write (bar2Offset s a) bs.length = [] → bar2Ok s (bar2Offset s a) bs.length = true →
    meetsView s (bar2Offset s a) bs.length = false → s.dome.journals = [] → s.mif.copying = [] → s.dome.heldWrites = [] →
    (∀ i, (tablesPinned s i).length < 4) →
    ∃ t, exec (.bar2Write a bs) s = .next t ∧ t.mem.getBytes (bar2Offset s a) bs.length = bs ∧
      (∀ x, x < bar2Offset s a ∨ bar2Offset s a + bs.length ≤ x → t.mem.get x = s.mem.get x) ∧ t.regs = s.regs) ∧
  (∀ (s : State) (a n : Nat), s.fin.pinsTaken = false → s.flt.sealed = false → s.mif.bar2Waits = [] →
    bar2Copies s (bar2Offset s a, none, n) = true →
    exec (.bar2Read a n) s = .next { s with mif := { s.mif with bar2Waits := [(bar2Offset s a, none, n)] } }) ∧
  ∀ (s : State) (a : Nat) (bs : List Byte), Sound s = true → s.fin.pinsTaken = false → s.flt.sealed = false →
    Bar2Free s (bar2Offset s a, some bs, bs.length) → failedIn s .bar2Write (bar2Offset s a) bs.length = [] →
    (bar2Ok s (bar2Offset s a) bs.length = false ∨ meetsView s (bar2Offset s a) bs.length = true) →
    ∃ t, exec (.bar2Write a bs) s = .next t ∧ t = { s with regs := t.regs, mif := { s.mif with replays := t.mif.replays } } ∧
      (regGet t 0x100104).toNat = satAdd32 (regGet s 0x100104).toNat 1

/-- Host-window reads: the word of a WAIT arrives and is compared; a completion that is no success, and one that passes its
timeout, abort the op with HOST_WINDOW recorded; the bytes of a record wait for the ring whose next descriptor names it, and a
read of one that fails is recorded so too; a completion for an op that is over is counted late, and one for no read at all
does nothing (spec/11 R287, R291, spec/13 R341, R344, R345).
Completes: hostWindowCompletion, pcieCompletionTimeout. -/
def Obligations.HostWindowReads : Prop :=
  (∀ (s : State) (o : Op) (b : WaitBody) (r : HostRead) (bs : List Byte) (w : Nat), OnlyOp s o → o.phase = .active →
    o.body = .wait b → r.op = o.id → r.ring = none → s.hif.reads = [r] → r.a = addrOff b.addr / 64 * 64 → bs.length = 64 →
    regionOf (addrOff b.addr) = .hostWindow → addrOff b.addr % 8 = 0 → o.hostBuf = [] →
    w = fieldAt bs (addrOff b.addr % 64) 8 →
    ∃ t p, exec (.hostWindowCompletion r.tag true bs) s = .next t ∧ t.ops = [p] ∧ p.id = o.id ∧ t.hif.reads = [] ∧
      p.phase = (if waitMet b w then .done .ok else .active) ∧ t.mem = s.mem ∧ t.regs = s.regs) ∧
  (∀ (s : State) (o : Op) (r : HostRead), OnlyOp s o → o.phase = .active → r.op = o.id → r.ring = none →
    s.hif.reads = [r] →
    ∃ t, exec (.hostWindowCompletion r.tag false []) s = .next t ∧ exec (.pcieCompletionTimeout r.tag) s = .next t ∧
      Ended s t o .aborted ∧ t.hif.reads = [] ∧ (∃ x ∈ t.flt.undelivered, x.die = 0 ∧ x.unit = 1 ∧ x.kind = 0x02) ∧
      t.mem = s.mem ∧ t.regs = s.regs) ∧
  (∀ (s : State) (r : HostRead) (ok : Bool) (bs : List Byte), Sound s = true → s.hif.reads = [r] → r.ring = none →
    s.ops = [] →
    ∃ t, exec (.hostWindowCompletion r.tag ok bs) s = .next t ∧ t.hif.reads = [] ∧ t.mem = s.mem ∧
      (regGet t 0x100020).toNat = satAdd32 (regGet s 0x100020).toNat 1) ∧
  (∀ (s : State) (r : HostRead) (k : Nat) (bs : List Byte), Sound s = true → NoWork s → s.hif.reads = [r] → r.ring = some k →
    ∃ t u, exec (.hostWindowCompletion r.tag true bs) s = .next t ∧ t.hif.reads = [] ∧
      (ring t k).recBuf = (ring s k).recBuf ++ bs.mapIdx (fun i x => (r.a + i, x)) ∧ t.mem = s.mem ∧ t.regs = s.regs ∧
      exec (.hostWindowCompletion r.tag false bs) s = .next u ∧ exec (.pcieCompletionTimeout r.tag) s = .next u ∧
      u.hif.reads = [] ∧ (ring u k).recFailed = true ∧ (∃ x ∈ u.flt.undelivered, x.die = 0 ∧ x.unit = 1 ∧ x.kind = 0x02) ∧
      u.mem = s.mem ∧ u.regs = s.regs) ∧
  ∀ (s : State) (tag : Nat) (ok : Bool) (bs : List Byte), (∀ r ∈ s.hif.reads, r.tag ≠ tag) →
    exec (.hostWindowCompletion tag ok bs) s = .next s ∧ exec (.pcieCompletionTimeout tag) s = .next s

/-! ### Ops: acceptance, words, moves and groups -/

namespace Sys2Proof.Machine

/-- The ring and descriptor of an op command. -/
def handedOn : Instr → Option (Nat × Desc)
  | .copy r h b => some (r.val, { hdr := h, body := .copy b })
  | .fill r h b => some (r.val, { hdr := h, body := .fill b })
  | .gemm r h b => some (r.val, { hdr := h, body := .gemm b })
  | .gemmSp r h b => some (r.val, { hdr := h, body := .gemmSp b })
  | .gemmTall r h b => some (r.val, { hdr := h, body := .gemmTall b })
  | .spspIntersect r h b => some (r.val, { hdr := h, body := .spspIntersect b })
  | .elem r h b => some (r.val, { hdr := h, body := .elem b })
  | .rowred r h b => some (r.val, { hdr := h, body := .rowred b })
  | .sample r h b => some (r.val, { hdr := h, body := .sample b })
  | .gather r h b => some (r.val, { hdr := h, body := .gather b })
  | .scatter r h b => some (r.val, { hdr := h, body := .scatter b })
  | .embBag r h b => some (r.val, { hdr := h, body := .embBag b })
  | .embGrad r h b => some (r.val, { hdr := h, body := .embGrad b })
  | .reduceGrad r h b => some (r.val, { hdr := h, body := .reduceGrad b })
  | .paramPublish r h b => some (r.val, { hdr := h, body := .paramPublish b })
  | .update r h b => some (r.val, { hdr := h, body := .update b })
  | .txnBegin r h b => some (r.val, { hdr := h, body := .txnBegin b })
  | .txnCommit r h => some (r.val, { hdr := h, body := .txnCommit })
  | .txnAbort r h => some (r.val, { hdr := h, body := .txnAbort })
  | .stepCommit r h b => some (r.val, { hdr := h, body := .stepCommit b })
  | .wait r h b => some (r.val, { hdr := h, body := .wait b })
  | .signal r h b => some (r.val, { hdr := h, body := .signal b })
  | .timer r h b => some (r.val, { hdr := h, body := .timer b })
  | .ckptPush r h b => some (r.val, { hdr := h, body := .ckptPush b })
  | .ckptPull r h b => some (r.val, { hdr := h, body := .ckptPull b })
  | .assumeId r h b => some (r.val, { hdr := h, body := .assumeId b })
  | .nop r h => some (r.val, { hdr := h, body := .nop })
  | _ => none

/-- A device at rest takes a descriptor at ring r: not sealed, no op in flight, nothing waiting at any ring, quota for one. -/
abbrev AtRest (s : State) (r : Nat) : Prop :=
  Sound s = true ∧ s.flt.sealed = false ∧ NoWork s ∧ (ring s r).fetchedDescs = [] ∧ (ring s r).since = none ∧
    1 ≤ ringQuota s r

/-- The descriptor stands alone at its ring, handed on and not yet accepted. -/
def handed (s : State) (r : Nat) (d : Desc) : State := ringPut s r { ring s r with held := [d] }

/-- The op it becomes. -/
def asOp (s : State) (r : Nat) (d : Desc) : Op := newOp (handed s r d) r d s.opNext

/-- The records that it names are here: none lies in the host window unread, and no read of one has failed (spec/11 R291). -/
abbrev RecordsHere (s : State) (r : Nat) (d : Desc) : Prop :=
  (ring s r).recFailed = false ∧ recMissing (handed s r d) (asOp s r d) = none

/-- Its checks pass, and it need not wait: it is no GEMM that waits for the ELEM fused to it, its records are here, and its
producer, if it consumes one, has not failed. -/
abbrev Accepts (s : State) (r : Nat) (d : Desc) : Prop :=
  wantsFuse d.body = false ∧ mustWait (handed s r d) (asOp s r d) = false ∧ opStatus (handed s r d) (asOp s r d) = none ∧
    epochWaits (handed s r d) (asOp s r d) = false ∧ RecordsHere s r d ∧
    (hdrConsume d.hdr = true → producerOf s d.hdr.depTag = none ∨ ∃ p, producerOf s d.hdr.depTag = some (p, some .ok))

/-- The state right after its acceptance. -/
def accepted (s : State) (r : Nat) (d : Desc) : State := acceptOp (popHeld (handed s r d) r 1) (asOp s r d)

/-- It runs: the state in which its work begins, and the op there. -/
def begun (s : State) (r : Nat) (d : Desc) : State :=
  opUpdate (accepted s r d) s.opNext fun o => { o with phase := .active, start := mtime (accepted s r d) }
/-- The op as its work begins. -/
def begunOp (s : State) (r : Nat) (d : Desc) : Op := (opById (begun s r d) s.opNext).getD (asOp s r d)

/-- What the memories are asked for at its start, and what becomes of the channels asked. -/
def reached (s : State) (r : Nat) (d : Desc) : State × Bool :=
  requestRanges (begun s r d) (opTouches (begun s r d) (begunOp s r d))

/-- The Dome and every memory die run. -/
abbrev DiesRun (s : State) : Prop := s.dome.stopped = false ∧ s.mif.stoppedDies = []

/-- Its bursts take their units' tokens, once the belfries that carry them are awake. -/
def charged (s : State) (r : Nat) (d : Desc) : State × List Burst :=
  payAll (rouse (reached s r d).1 (begunOp s r d)) (opTraffic (reached s r d).1 (begunOp s r d))

/-- Nothing holds its start back: no channel it asks wakes, trains or is in repair, no bank it asks is in copy, and every unit
has tokens for its bursts (spec/11 R277, R278, R288, R289, spec/14 R358). -/
abbrev Starts (s : State) (r : Nat) (d : Desc) : Prop := (reached s r d).2 = false ∧ (charged s r d).2 = []

/-- The state in which the work of an op that moves data begins, and the op there. -/
def atWork (s : State) (r : Nat) (d : Desc) : State :=
  opUpdate (charged s r d).1 s.opNext fun o => { o with asked := 1, owed := [] }
/-- The op as that work begins. -/
def atWorkOp (s : State) (r : Nat) (d : Desc) : Op := (opById (atWork s r d) s.opNext).getD (asOp s r d)

/-- A WAIT's test that comes with its start finds tokens for its word's grain (spec/14 R358). -/
abbrev WaitPaid (s : State) (r : Nat) (d : Desc) (b : WaitBody) : Prop :=
  (payNow (touchRange (addReq (begun s r d) s.opNext 0 .event) (addrOff b.addr) 8)
    (waitBursts (addReq (begun s r d) s.opNext 0 .event) (begunOp s r d) b)).isSome = true

/-- The state after an op's rows, in their windows, took their units' tokens. -/
def rowsPaid (w : State) (id : Nat) (xs : List (RowItem × Nat)) : State :=
  opUpdate (payAll w (rowBursts w xs)).1 id fun o => { o with asked := 2, owed := [] }
/-- Nothing holds an op's rows back: every unit has tokens, every channel serves, and each turret has a free strand (spec/06
R147, R148). -/
abbrev RowsServed (w : State) (id : Nat) (xs : List (RowItem × Nat)) : Prop :=
  (payAll w (rowBursts w xs)).2 = [] ∧ (nearReady (rowsPaid w id xs) xs).2 = true
/-- The state in which the rows of this device are read. -/
def rowsRead (w : State) (id : Nat) (xs : List (RowItem × Nat)) : State := (nearReady (rowsPaid w id xs) xs).1

/-- It reads no view, and no epoch is open, so that its acceptance pins nothing. -/
abbrev NoPins (s : State) (r : Nat) (d : Desc) : Prop := s.dome.epochs = [] ∧ readsView (handed s r d) (asOp s r d) = false

/-- Exactly one op is in flight: the one the descriptor became, at this point of its life. -/
abbrev OpIs (s t : State) (r : Nat) (d : Desc) (ph : Phase) : Prop :=
  ∃ o, t.ops = [o] ∧ o.id = s.opNext ∧ o.ring = r ∧ o.hdr = d.hdr ∧ o.body = d.body ∧ o.accepted = true ∧ o.completed = false ∧
    o.phase = ph ∧ t.opNext = s.opNext + 1

/-- Writes that land in place at once: no journal and no bank is still being copied, no write waits, none goes to the host window, and none changes the
table directory. -/
abbrev InPlace (s : State) (ws : List (Nat × Nat)) : Prop :=
  s.dome.journals = [] ∧ s.mif.copying = [] ∧ s.dome.heldWrites = [] ∧ txnOf s 0 = none ∧ ∀ w ∈ ws, regionOf (addrOff w.1) ≠ .hostWindow ∧
    (dirOk s = true → addrOff w.1 + w.2 ≤ dirBase s ∨ dirBase s + 4096 ≤ addrOff w.1)

/-- Every byte outside [lo, lo + n) reads as before. -/
abbrev MemFrame (s t : State) (lo n : Nat) : Prop := ∀ a, a < lo ∨ lo + n ≤ a → t.mem.get a = s.mem.get a

/-- The chip is one that takes packets; its flow has room for `n` more, and so has the packet store of either Gallery; its context
is resident, or one is free for it (spec/01 R18, spec/12 R301, R302). -/
abbrev RoomTo (s : State) (chip cls n : Nat) : Prop :=
  chip < 0x8000 ∧ ((flow s chip cls).map fun f => f.unacked.length).getD 0 + n ≤ 1024 ∧
    ((flow s chip cls).all fun f => f.spill.isNone) = true ∧ ((flow s chip cls).isSome = true ∨ residents s < 12288) ∧
    ∀ g, g < 2 → storeUsed s g + 4128 * n ≤ 2 ^ 24

/-- A packet of this payload to a chip awaits its acknowledgement. -/
abbrev Sends (t : State) (chip cls kind off : Nat) (pay : Payload) : Prop :=
  ∃ f, flow t chip cls = some f ∧ ∃ u ∈ f.unacked, u.pkt.hdr.dst = chip ∧ u.pkt.hdr.kind = kind ∧ u.pkt.hdr.offset = off ∧
    u.pkt.pay = pay

end Sys2Proof.Machine

/-- Every op command hands its descriptor on: its op is refused with the status of the first check it fails, or ABORTED where its
records cannot be read, waits at its ring while it must, and else is accepted and begins; a sealed device takes none, and neither is one taken that is not the next
(spec/13 R331 to R333, spec/15 R377; log entries 6, 7, 9).
Completes: every command that hands a descriptor on (handedOn names them), its op accepted and begun. -/
def Obligations.OpCommands : Prop :=
  (∀ (c : Instr) (s : State) (r : Nat) (d : Desc), handedOn c = some (r, d) → AtRest s r → Accepts s r d →
    exec c s = .next (startOne (accepted s r d) s.opNext)) ∧
  (∀ (c : Instr) (s : State) (r : Nat) (d : Desc) (st : Status), handedOn c = some (r, d) → AtRest s r →
    headStatus (handed s r d) (asOp s r d) = some st ∨
      (wantsFuse d.body = false ∧ mustWait (handed s r d) (asOp s r d) = false ∧ RecordsHere s r d ∧
        opStatus (handed s r d) (asOp s r d) = some st) ∨
      (wantsFuse d.body = false ∧ headStatus (handed s r d) (asOp s r d) = none ∧
        mustWait (handed s r d) (asOp s r d) = false ∧ (ring s r).recFailed = true ∧ st = .aborted) →
    ∃ t, exec c s = .next t ∧ t.ops = [{ asOp s r d with epoch := none, accepted := false, phase := .done st }] ∧
      t.mem = s.mem ∧ t.host = s.host ∧ t.regs = s.regs ∧ t.fab = s.fab ∧ (d.hdr.txn = 0 → t.dome = s.dome)) ∧
  (∀ (c : Instr) (s : State) (r : Nat) (d : Desc), handedOn c = some (r, d) → AtRest s r →
    headStatus (handed s r d) (asOp s r d) = none →
    wantsFuse d.body = true ∨ mustWait (handed s r d) (asOp s r d) = true ∨
      (opStatus (handed s r d) (asOp s r d) = none ∧ RecordsHere s r d ∧ epochWaits (handed s r d) (asOp s r d) = true) ∨
      ((ring s r).recFailed = false ∧ recMissing (handed s r d) (asOp s r d) ≠ none) →
    ∃ t, exec c s = .next t ∧ t.ops = [] ∧ (ring t r).held = [d] ∧ t.mem = s.mem ∧ t.host = s.host ∧ t.regs = s.regs ∧
      t.dome = s.dome) ∧
  (∀ (c : Instr) (s : State) (r : Nat) (d : Desc), handedOn c = some (r, d) → AtRest s r →
    hdrReserved d.hdr ≠ 0 ∨ hdrPhase d.hdr = 3 ∨ ((hdrProduce d.hdr || hdrConsume d.hdr) = true ∧ d.hdr.depTag = 0) ∨
      (jobId s = 0 ∧ noJobOk d.body = false) ∨ (s.fin.strap = 1 ∧ spireOk d.body = false) →
    ∃ t o, exec c s = .next t ∧ t.ops = [o] ∧ o.phase = .done .malformed ∧ o.accepted = false) ∧
  (∀ (c : Instr) (s : State) (r : Nat) (d : Desc), handedOn c = some (r, d) → AtRest s r →
    hdrReserved d.hdr = 0 → hdrPhase d.hdr ≠ 3 → d.hdr.depTag ≠ 0 → jobId s ≠ 0 → s.fin.strap ≠ 1 →
    s.flt.halted = true → haltOk d.body = false →
    ∃ t o, exec c s = .next t ∧ t.ops = [o] ∧ o.phase = .done .aborted ∧ o.accepted = false) ∧
  (∀ (c : Instr) (s : State) (r : Nat) (d : Desc), handedOn c = some (r, d) → s.flt.sealed = true → exec c s = .next s) ∧
  (∀ (c : Instr) (s : State) (r : Nat) (d f : Desc) (rest : List Desc), handedOn c = some (r, d) →
    (ring s r).fetchedDescs = f :: rest → f ≠ d → exec c s = .next s) ∧
  ∀ (c : Instr) (s : State) (r : Nat) (d : Desc), handedOn c = some (r, d) → Sound s = true → s.flt.sealed = false →
    (ring s r).fetchedDescs = [d] → exec c s = exec c (ringPut s r { ring s r with fetchedDescs := [] })

/-- NOP completes at once and closes its ring's epoch; a TIMER ends once its target is reached; a WAIT ends once its masked word
meets its condition, which it tests when its grain's burst finds tokens, and asks for a word of the host window; a SIGNAL writes or adds to its word, here, in the host window or at
another chip, and changes no other byte (spec/13 R341 to R343).
Completes: wait, signal, timer, nop. -/
def Obligations.WordOps : Prop :=
  (∀ (s : State) (r : Fin 256) (h : Hdr), AtRest s r.val → Accepts s r.val { hdr := h, body := .nop } →
    ∃ t, exec (.nop r h) s = .next t ∧ OpIs s t r.val { hdr := h, body := .nop } (.done .ok) ∧
      (∀ e ∈ t.dome.epochs, e.ring ≠ r.val) ∧ (s.dome.epochs = [] → t.mem = s.mem) ∧ t.regs = s.regs ∧ t.host = s.host) ∧
  (∀ (s : State) (r : Fin 256) (h : Hdr) (b : TimerBody), AtRest s r.val → Accepts s r.val { hdr := h, body := .timer b } →
    s.dome.epochs = [] →
    ∃ t, exec (.timer r h b) s = .next t ∧ t.mem = s.mem ∧ t.regs = s.regs ∧
      OpIs s t r.val { hdr := h, body := .timer b }
        (if (if b.tmode = 0 then b.time = 0 else b.time ≤ mtime s) then .done .ok else .active)) ∧
  (∀ (s : State) (r : Fin 256) (h : Hdr) (b : WaitBody), AtRest s r.val → Accepts s r.val { hdr := h, body := .wait b } →
    NoPins s r.val { hdr := h, body := .wait b } → DiesRun s → txnOf s h.txn = none →
    regionOf (addrOff b.addr) ≠ .hostWindow → WaitPaid s r.val { hdr := h, body := .wait b } b →
    ∃ t, exec (.wait r h b) s = .next t ∧ t.mem = s.mem ∧ t.regs = s.regs ∧
      OpIs s t r.val { hdr := h, body := .wait b }
        (if waitMet b (leNat (committedBytes s (addrOff b.addr) 8)) then .done .ok else .active)) ∧
  (∀ (s : State) (r : Fin 256) (h : Hdr) (b : WaitBody), AtRest s r.val → Accepts s r.val { hdr := h, body := .wait b } →
    NoPins s r.val { hdr := h, body := .wait b } → s.hif.reads = [] → regionOf (addrOff b.addr) = .hostWindow →
    (ring s r.val).recBuf = [] → WaitPaid s r.val { hdr := h, body := .wait b } b →
    ∃ t, exec (.wait r h b) s = .next t ∧ OpIs s t r.val { hdr := h, body := .wait b } .active ∧
      t.hif.reads = [{ tag := s.hif.nextTag, op := s.opNext, a := addrOff b.addr / 64 * 64 }]) ∧
  (∀ (s : State) (r : Fin 256) (h : Hdr) (b : WaitBody), AtRest s r.val → Accepts s r.val { hdr := h, body := .wait b } →
    NoPins s r.val { hdr := h, body := .wait b } → DiesRun s → ¬WaitPaid s r.val { hdr := h, body := .wait b } b →
    ∃ t, exec (.wait r h b) s = .next t ∧ OpIs s t r.val { hdr := h, body := .wait b } .active ∧ t.mem = s.mem ∧ t.regs = s.regs) ∧
  (∀ (s : State) (r : Fin 256) (h : Hdr) (b : SignalBody), AtRest s r.val → Accepts s r.val { hdr := h, body := .signal b } →
    Starts s r.val { hdr := h, body := .signal b } →
    s.dome.epochs = [] → DiesRun s → h.txn = 0 → isLocal s b.addr = true → InPlace s [(b.addr, 8)] →
    ∃ t, exec (.signal r h b) s = .next t ∧ OpIs s t r.val { hdr := h, body := .signal b } (.done .ok) ∧
      t.mem.getBytes (addrOff b.addr) 8 =
        leBytes 8 (if b.sop = 1 then leNat (committedBytes s (addrOff b.addr) 8) + b.value else b.value) ∧
      MemFrame s t (addrOff b.addr) 8 ∧ t.regs = s.regs) ∧
  (∀ (s : State) (r : Fin 256) (h : Hdr) (b : SignalBody) (w : Nat), AtRest s r.val →
    Accepts s r.val { hdr := h, body := .signal b } → Starts s r.val { hdr := h, body := .signal b } → s.dome.epochs = [] → isLocal s b.addr = true →
    regionOf (addrOff b.addr) = .hostWindow → hostWindow s = some w →
    ∃ t, exec (.signal r h b) s = .next t ∧ OpIs s t r.val { hdr := h, body := .signal b } (.done .ok) ∧
      t.host.getBytes (w + (addrOff b.addr - hwinBase)) 8 = leBytes 8 b.value ∧ t.mem = s.mem ∧ t.regs = s.regs) ∧
  ∀ (s : State) (r : Fin 256) (h : Hdr) (b : SignalBody), AtRest s r.val → Accepts s r.val { hdr := h, body := .signal b } →
    Starts s r.val { hdr := h, body := .signal b } →
    s.dome.epochs = [] → DiesRun s → isLocal s b.addr = false → destStatus s (addrChip b.addr) = none →
    RoomTo s (addrChip b.addr) 2 1 →
    ∃ t, exec (.signal r h b) s = .next t ∧ OpIs s t r.val { hdr := h, body := .signal b } .active ∧
      Sends t (addrChip b.addr) 2 4 (addrOff b.addr) (.atomic b.sop b.value) ∧ t.mem = s.mem

/-- FILL writes byte o mod 8 of its pattern at every byte o of its range and nothing else: in place, in its open group, or by WRITE
packets of at most 4 KiB to another chip. COPY moves its bytes: a plain copy leaves the destination equal to the source and nothing
else changed, sends WRITE packets to another chip, asks one with READ, or reads the host window; a store through a compression
block and a restore write what their rows come to (spec/13 R339, R340, spec/05 R109, spec/08 R200, R208).
Completes: copy, fill. -/
def Obligations.Moves : Prop :=
  ((∀ (s : State) (r : Fin 256) (h : Hdr) (b : FillBody), AtRest s r.val → Accepts s r.val { hdr := h, body := .fill b } →
    Starts s r.val { hdr := h, body := .fill b } →
    s.dome.epochs = [] → DiesRun s → h.txn = 0 → isLocal s b.dst = true → InPlace s [(b.dst, b.bytes)] →
    ∃ t, exec (.fill r h b) s = .next t ∧ OpIs s t r.val { hdr := h, body := .fill b } (.done .ok) ∧
      (∀ i, i < b.bytes → t.mem.get (addrOff b.dst + i) = BitVec.ofNat 8 (b.pattern / 256 ^ (i % 8))) ∧
      MemFrame s t (addrOff b.dst) b.bytes ∧ t.regs = s.regs ∧ t.host = s.host) ∧
  (∀ (s : State) (r : Fin 256) (h : Hdr) (b : FillBody) (x : Txn), AtRest s r.val →
    Accepts s r.val { hdr := h, body := .fill b } →
    Starts s r.val { hdr := h, body := .fill b } → s.dome.epochs = [] → DiesRun s → isLocal s b.dst = true →
    s.dome.txns = [x] → x.num = h.txn → h.txn ≠ 0 → x.staged = [] → x.limit ≤ partSize s 2 * 2 ^ 20 → s.dome.journals = [] →
    (regionOf (addrOff b.dst) = .lpddr ∨ regionOf (addrOff b.dst) = .lantern) → 64 * (b.bytes / 64 + 2) ≤ x.limit →
    ∃ t y, exec (.fill r h b) s = .next t ∧ OpIs s t r.val { hdr := h, body := .fill b } (.done .ok) ∧ t.mem = s.mem ∧
      txnOf t h.txn = some y ∧ y.aborted = none ∧ y.staged = (List.range b.bytes).map fun i =>
        (addrOff b.dst + i, BitVec.ofNat 8 (b.pattern / 256 ^ (i % 8)))) ∧
  ∀ (s : State) (r : Fin 256) (h : Hdr) (b : FillBody), AtRest s r.val → Accepts s r.val { hdr := h, body := .fill b } →
    Starts s r.val { hdr := h, body := .fill b } →
    s.dome.epochs = [] → DiesRun s → isLocal s b.dst = false → destStatus s (addrChip b.dst) = none →
    RoomTo s (addrChip b.dst) 2 (pieces b.bytes).length →
    ∃ t, exec (.fill r h b) s = .next t ∧ OpIs s t r.val { hdr := h, body := .fill b } .active ∧ t.mem = s.mem ∧
      ∀ p ∈ pieces b.bytes, Sends t (addrChip b.dst) 2 3 (addrOff b.dst + p.1) (.write (((fillBytes b).drop p.1).take p.2))) ∧
  ((∀ (s : State) (r : Fin 256) (h : Hdr) (b : CopyBody), AtRest s r.val → Accepts s r.val { hdr := h, body := .copy b } →
    Starts s r.val { hdr := h, body := .copy b } →
    NoPins s r.val { hdr := h, body := .copy b } → DiesRun s → h.txn = 0 → absent b.cmp = true →
    isLocal s b.src = true → isLocal s b.dst = true → regionOf (addrOff b.src) ≠ .hostWindow → InPlace s [(b.dst, b.bytes)] →
    addrOff b.src = addrOff b.dst ∨ addrOff b.src + b.bytes ≤ addrOff b.dst ∨ addrOff b.dst + b.bytes ≤ addrOff b.src →
    ∃ t, exec (.copy r h b) s = .next t ∧ OpIs s t r.val { hdr := h, body := .copy b } (.done .ok) ∧
      (∀ i, i < b.bytes → t.mem.get (addrOff b.dst + i) = s.mem.get (addrOff b.src + i)) ∧
      MemFrame s t (addrOff b.dst) b.bytes ∧ t.regs = s.regs ∧ t.host = s.host) ∧
  (∀ (s : State) (r : Fin 256) (h : Hdr) (b : CopyBody), AtRest s r.val → Accepts s r.val { hdr := h, body := .copy b } →
    Starts s r.val { hdr := h, body := .copy b } →
    NoPins s r.val { hdr := h, body := .copy b } → DiesRun s → absent b.cmp = true →
    isLocal s b.src = true → isLocal s b.dst = false → regionOf (addrOff b.src) ≠ .hostWindow → txnOf s h.txn = none →
    destStatus s (addrChip b.dst) = none → RoomTo s (addrChip b.dst) 2 (pieces b.bytes).length →
    ∃ t, exec (.copy r h b) s = .next t ∧ OpIs s t r.val { hdr := h, body := .copy b } .active ∧ t.mem = s.mem ∧
      ∀ p ∈ pieces b.bytes,
        Sends t (addrChip b.dst) 2 3 (addrOff b.dst + p.1) (.write (committedBytes s (addrOff b.src + p.1) p.2))) ∧
  (∀ (s : State) (r : Fin 256) (h : Hdr) (b : CopyBody), AtRest s r.val → Accepts s r.val { hdr := h, body := .copy b } →
    Starts s r.val { hdr := h, body := .copy b } →
    NoPins s r.val { hdr := h, body := .copy b } → DiesRun s → absent b.cmp = true →
    isLocal s b.src = false → destStatus s (addrChip b.src) = none → RoomTo s (addrChip b.src) 2 (pieces b.bytes).length →
    ∃ t, exec (.copy r h b) s = .next t ∧ OpIs s t r.val { hdr := h, body := .copy b } .active ∧ t.mem = s.mem ∧
      ∀ p ∈ pieces b.bytes, Sends t (addrChip b.src) 2 1 (addrOff b.src + p.1)
        (.read [{ off := addrOff b.src + p.1, bytes := p.2 }])) ∧
  (∀ (s : State) (r : Fin 256) (h : Hdr) (b : CopyBody), AtRest s r.val → Accepts s r.val { hdr := h, body := .copy b } →
    Starts s r.val { hdr := h, body := .copy b } →
    NoPins s r.val { hdr := h, body := .copy b } → DiesRun s → absent b.cmp = true → isLocal s b.src = true →
    regionOf (addrOff b.src) = .hostWindow → s.hif.reads = [] →
    ∃ t, exec (.copy r h b) s = .next t ∧ OpIs s t r.val { hdr := h, body := .copy b } .active ∧
      t.hif.reads = [{ tag := s.hif.nextTag, op := s.opNext, a := addrOff b.src / 64 * 64 }] ∧ t.mem = s.mem) ∧
  (∀ (s : State) (r : Fin 256) (h : Hdr) (b : CopyBody) (c : CmpBlock) (rows : List (Option (List Byte))), AtRest s r.val →
    Accepts s r.val { hdr := h, body := .copy b } →
    Starts s r.val { hdr := h, body := .copy b } → NoPins s r.val { hdr := h, body := .copy b } → DiesRun s →
    h.txn = 0 → absent b.cmp = false → natBits b.flags 0 0 = 1 →
    c = parseCmp (committedBytes s (addrOff b.cmp) 64) → regionOf (addrOff b.cmp) ≠ .hostWindow →
    regionOf (addrOff b.src) ≠ .hostWindow → regionOf (addrOff c.metaA) ≠ .hostWindow →
    collect (fun i => restoreRow s (asOp s r.val { hdr := h, body := .copy b }) b c
      (memNat s (addrOff (c.metaA + 8 * i)) 8) (memNat s (addrOff (c.metaA + 8 * (i + 1))) 8)) (List.range c.rows) =
        .ok rows →
    (∀ i, i < c.rows → InPlace s [(b.dst + i * densePitch c b, denseRow c)]) →
    ∃ t, exec (.copy r h b) s = .next t ∧
      OpIs s t r.val { hdr := h, body := .copy b } (.done (if rows.any Option.isNone then .malformed else .ok)) ∧
      t.mem = (rows.zipIdx.filterMap fun x => x.1.map fun bs => (addrOff (b.dst + x.2 * densePitch c b), bs)).foldl
        (fun m w => m.putBytes w.1 w.2) s.mem ∧ t.regs = s.regs) ∧
  ∀ (s : State) (r : Fin 256) (h : Hdr) (b : CopyBody) (c : CmpBlock) (rows : List StoredRow), AtRest s r.val →
    Accepts s r.val { hdr := h, body := .copy b } →
    Starts s r.val { hdr := h, body := .copy b } → NoPins s r.val { hdr := h, body := .copy b } → DiesRun s →
    h.txn = 0 → absent b.cmp = false → natBits b.flags 0 0 = 0 →
    c = parseCmp (committedBytes s (addrOff b.cmp) 64) → regionOf (addrOff b.cmp) ≠ .hostWindow →
    regionOf (addrOff b.src) ≠ .hostWindow → c.strict = false →
    rows = (List.range c.rows).map (fun i => storeOne c (committedBytes s (addrOff (b.src + i * densePitch c b)) (denseRow c))) →
    InPlace s [] → (∀ w ∈ cmpRows c b.dst rows ++ cmpExtras c rows, InPlace s [(w.1, w.2.length)]) →
    ∃ t, exec (.copy r h b) s = .next t ∧ OpIs s t r.val { hdr := h, body := .copy b } (.done .ok) ∧
      t.mem = (cmpRows c b.dst rows ++ cmpExtras c rows).foldl (fun m w => m.putBytes (addrOff w.1) w.2) s.mem ∧
      t.regs = s.regs)



/-- Groups: TXN_BEGIN opens an empty group, TXN_COMMIT makes its staged bytes the committed ones at once, TXN_ABORT leaves every
byte as it was; both close the group, and an aborted group's commit ends ABORTED (spec/08 R207, R211, R212, R438).
Completes: txnBegin, txnCommit, txnAbort. -/
def Obligations.Transactions : Prop :=
  (∀ (s : State) (r : Fin 256) (h : Hdr) (b : TxnBeginBody), AtRest s r.val →
    Accepts s r.val { hdr := h, body := .txnBegin b } → s.dome.epochs = [] → DiesRun s →
    ∃ t, exec (.txnBegin r h b) s = .next t ∧ OpIs s t r.val { hdr := h, body := .txnBegin b } (.done .ok) ∧
      t.mem = s.mem ∧ t.regs = s.regs ∧
      ∃ x : Txn, t.dome.txns = s.dome.txns ++ [x] ∧ x.num = h.txn ∧ x.order = s.dome.txnOrder ∧ x.staged = [] ∧
        x.aborted = none ∧ x.closer = none ∧ x.limit = if b.journalLimit = 0 then 0x4000000 else b.journalLimit) ∧
  (∀ (s : State) (r : Fin 256) (h : Hdr) (x : Txn), AtRest s r.val → Accepts s r.val { hdr := h, body := .txnCommit } →
    s.dome.epochs = [] → DiesRun s → s.dome.txns = [x] → x.num = h.txn → h.txn ≠ 0 → x.aborted = none →
    (dirOk s = true → ∀ c ∈ x.staged, c.1 < dirBase s ∨ dirBase s + 4096 ≤ c.1) →
    ∃ t, exec (.txnCommit r h) s = .next t ∧ OpIs s t r.val { hdr := h, body := .txnCommit } (.done .ok) ∧ t.dome.txns = [] ∧
      (∀ c, x.staged.find? (fun y => y.1 == c) = none → committedByte t c = committedByte s c) ∧
      (∀ c, x.staged.find? (fun y => y.1 == c.1) = some c → committedByte t c.1 = c.2) ∧ t.mem = s.mem ∧ t.regs = s.regs) ∧
  (∀ (s : State) (r : Fin 256) (h : Hdr) (x : Txn) (st : Status), AtRest s r.val →
    Accepts s r.val { hdr := h, body := .txnCommit } → s.dome.epochs = [] → DiesRun s → s.dome.txns = [x] →
    x.num = h.txn → h.txn ≠ 0 → x.aborted = some st →
    ∃ t, exec (.txnCommit r h) s = .next t ∧ OpIs s t r.val { hdr := h, body := .txnCommit } (.done .aborted) ∧
      t.dome.txns = [] ∧ t.mem = s.mem ∧ t.dome.journals = s.dome.journals) ∧
  ∀ (s : State) (r : Fin 256) (h : Hdr) (x : Txn), AtRest s r.val → Accepts s r.val { hdr := h, body := .txnAbort } →
    s.dome.epochs = [] → DiesRun s → s.dome.txns = [x] → x.num = h.txn → h.txn ≠ 0 →
    ∃ t, exec (.txnAbort r h) s = .next t ∧ OpIs s t r.val { hdr := h, body := .txnAbort } (.done .ok) ∧ t.dome.txns = [] ∧
      t.mem = s.mem ∧ t.dome.journals = s.dome.journals ∧ t.regs = s.regs

/-! ### The matrix unit, the vector engines and the graph engines -/

namespace Sys2Proof.Machine

/-- A GEMM's command, kind and body. -/
def gemmCommand (kind : GemmKind) (r : Fin 256) (h : Hdr) (b : GemmBody) : Instr :=
  match kind with
  | .dense => .gemm r h b
  | .sparse => .gemmSp r h b
  | .tall => .gemmTall r h b
/-- Its descriptor. -/
def gemmDesc (kind : GemmKind) (h : Hdr) (b : GemmBody) : Desc :=
  { hdr := h, body := match kind with
      | .dense => .gemm b
      | .sparse => .gemmSp b
      | .tall => .gemmTall b }

/-- Its tiles wait at the belfries of its mask as immediate work, and nothing else differs. -/
abbrev TilesDealt (s t : State) (r : Nat) (d : Desc) (b : GemmBody) : Prop :=
  OpIs s t r d .active ∧ t.ops.map (·.work) = [.gemm (ceilDiv b.m 64 * ceilDiv b.n 64) none none 0 0 0 0] ∧
    (∀ i, i < ceilDiv b.m 64 * ceilDiv b.n 64 →
      ∃ x ∈ maskBelfries s b.mask, ({ op := s.opNext, tile := i } : TileJob) ∈ (belfry t x).immediate) ∧
    t.mem = s.mem ∧ t.regs = s.regs ∧ t.host = s.host

/-- Memory with a list of writes applied in order. -/
def writesOn (m : Memory) (ws : List (Nat × List Byte)) : Memory :=
  ws.foldl (fun m w => m.putBytes (addrOff w.1) w.2) m

/-- Every write lands in place. -/
abbrev AllInPlace (s : State) (ws : List (Nat × List Byte)) : Prop := InPlace s (ws.map fun w => (w.1, w.2.length))

/-- All that an ELEM or ROWRED writes: its outputs, then the results of its rows and of its columns. -/
def elemStores (s : State) (o : Op) (b : ElemBody) (rows : List RowOut) : List (Nat × List Byte) :=
  (storeBlock s o b (elemPlan s o b) false 0 0 rows).writes ++ (allResults o b (tapFree s) rows).1

/-- An ELEM or ROWRED is done: memory took exactly what its rows come to. -/
abbrev RowsStored (s t w : State) (r : Nat) (d : Desc) (o : Op) (b : ElemBody) (rows : List RowOut) : Prop :=
  OpIs s t r d (.done .ok) ∧ t.mem = writesOn s.mem (elemStores w o b rows) ∧ t.regs = s.regs ∧ t.host = s.host

/-- The pooled rows of an EMB_BAG, bag by bag, after the rows it stages. -/
def bagWrites (o : Op) (b : EmbBagBody) (d : TableDesc) (r : BagRec) (ps : List Position) (rs : List RowRead) :
    List (Nat × List Byte) :=
  stageRows r rs ++ (List.range r.bags).map fun k =>
    (b.out + k * bagPitch d.width b.outFmt,
      (poolBag o b d k ((ps.filter fun p => p.bag == k).map fun p =>
        (if posCode rs p = 2 then Val.zero false else p.weight, (posVals o.mode d rs p).1))).1)

/-- The bank of the ownership table that a new op uses. -/
def bankNow (s : State) : Nat := regBits s 0x1000080 31 31

/-- Node i of a list-form GATHER. -/
def gatherNode (s : State) (b : GatherBody) (i : Nat) : Nat := memNat s (addrOff (b.src + 8 * i)) 8
/-- The rows that a GATHER asks for. -/
def gatherItems (s : State) (o : Op) (b : GatherBody) : List RowItem :=
  match gatherPlaces s o b with
  | .ok ps => ps.zipIdx.filterMap fun x => placeItem s (opCrew s o b.mask) b.rowBytes x.1.1 x.2
  | .error _ => []
/-- Where a node's row lies here. -/
def gatherRow (s : State) (b : GatherBody) (v : Nat) : Nat := addrOff b.feat + (ownerOf s (bankNow s) v).2 * b.rowBytes

end Sys2Proof.Machine

/-- GEMM, GEMM_SP and GEMM_TALL deal their tiles to the belfries of their mask: as immediate work, or, with a gradient
destination, into the deferred queues; of a frozen layer one completes with DETAIL bit 0; a GEMM with FUSE_NEXT is accepted with
the ELEM after it (spec/03 R78, Table 3.10, spec/04 R93, spec/08 R189, R190, R196; log entry 26).
Completes: gemm, gemmSp, gemmTall, elem. -/
def Obligations.MatrixOps : Prop :=
  (∀ (s : State) (kind : GemmKind) (r : Fin 256) (h : Hdr) (b : GemmBody), AtRest s r.val →
    Accepts s r.val (gemmDesc kind h b) → Starts s r.val (gemmDesc kind h b) → NoPins s r.val (gemmDesc kind h b) → DiesRun s →
    (gemmOf s (asOp s r.val (gemmDesc kind h b)) kind b).grad = false →
    (kind = .dense → ∃ t, exec (.gemm r h b) s = .next t ∧ TilesDealt s t r.val { hdr := h, body := .gemm b } b) ∧
    (kind = .sparse → ∃ t, exec (.gemmSp r h b) s = .next t ∧ TilesDealt s t r.val { hdr := h, body := .gemmSp b } b) ∧
    (kind = .tall → ∃ t, exec (.gemmTall r h b) s = .next t ∧ TilesDealt s t r.val { hdr := h, body := .gemmTall b } b)) ∧
  (∀ (s : State) (kind : GemmKind) (r : Fin 256) (h : Hdr) (b : GemmBody), AtRest s r.val →
    Accepts s r.val (gemmDesc kind h b) → Starts s r.val (gemmDesc kind h b) → NoPins s r.val (gemmDesc kind h b) → DiesRun s →
    (gemmOf s (asOp s r.val (gemmDesc kind h b)) kind b).grad = true → frozenLayer s b.layer = false →
    ∃ t, exec (gemmCommand kind r h b) s = .next t ∧ OpIs s t r.val (gemmDesc kind h b) .active ∧
      (∀ i, i < ceilDiv b.m 64 * ceilDiv b.n 64 → ∃ x ∈ maskBelfries s b.mask,
        ({ op := s.opNext, tile := i } : TileJob) ∈ (belfry t x).deferred ++ (belfry t x).unplaced) ∧
      t.mem = s.mem ∧ t.regs = s.regs ∧ t.host = s.host) ∧
  (∀ (s : State) (kind : GemmKind) (r : Fin 256) (h : Hdr) (b : GemmBody), AtRest s r.val →
    Accepts s r.val (gemmDesc kind h b) → Starts s r.val (gemmDesc kind h b) → NoPins s r.val (gemmDesc kind h b) → DiesRun s →
    (gemmOf s (asOp s r.val (gemmDesc kind h b)) kind b).grad = true → frozenLayer s b.layer = true →
    ∃ t, exec (gemmCommand kind r h b) s = .next t ∧ OpIs s t r.val (gemmDesc kind h b) (.done .ok) ∧
      t.ops.map (·.detail) = [1] ∧ t.dome.belfries = s.dome.belfries ∧ t.mem = s.mem ∧ t.regs = s.regs) ∧
  ∀ (s u : State) (r : Fin 256) (h : Hdr) (d : Desc) (g : GemmBody) (e : ElemBody), d.body = .gemm g →
    natBits g.flags 7 7 = 1 → Sound s = true → s.flt.sealed = false → DiesRun s → s.ops = [] →
    s.dome.epochs = [] → (ring s r.val).recFailed = false → (ring s r.val).held = [d] → (ring s r.val).fetchedDescs = [] → 2 ≤ ringQuota s r.val →
    (∀ x ∈ s.hif.rings, x.1 ≠ r.val → x.2.held = []) → d.hdr.stream ≠ h.stream →
    hdrConsume d.hdr = false → hdrConsume h = false →
    u = ringPut s r.val { ring s r.val with held := [d, { hdr := h, body := .elem e }] } →
    recMissing u (newOp u r.val d s.opNext) = none →
    recMissing u (newOp u r.val { hdr := h, body := .elem e } (s.opNext + 1)) = none →
    mustWait u (newOp u r.val d s.opNext) = false → opStatus u (newOp u r.val d s.opNext) = none →
    opStatus u (newOp u r.val { hdr := h, body := .elem e } (s.opNext + 1))
      (some (fusedShape u (newOp u r.val d s.opNext) .dense g)) = none →
    readsView u (newOp u r.val d s.opNext) = false →
    readsView u (newOp u r.val { hdr := h, body := .elem e } (s.opNext + 1)) = false →
    ∃ t p q, exec (.elem r h e) s = .next t ∧ t.ops = [p, q] ∧ p.body = .gemm g ∧ q.body = .elem e ∧ q.hdr = h ∧
      p.accepted = true ∧ q.accepted = true ∧ p.phase = .active ∧ q.phase = .active ∧ q.work = .fused p.id [] ∧
      p.work = .gemm (ceilDiv g.m 64 * ceilDiv g.n 64) none (some q.id) 0 0 0 0 ∧ t.mem = s.mem

/-- Tiles: TILE_START gives a turret's free buffer the next tile of its belfry with the products of its blocks;
LATE_FETCH_ARRIVAL fills the blocks that waited, the last one with all entries; TILE_COMPLETE stores the tile where D says and
frees the buffer, and with the last tile the op is done; a buffer with nothing finished stays (spec/03 R61 to R67, R71,
spec/05 R117, spec/08 R190).
Completes: tileStart, tileComplete, lateFetchArrival. -/
def Obligations.Tiles : Prop :=
  (∀ (s : State) (o : Op) (kind : GemmKind) (b : GemmBody) (t : Fin 256) (j : TileJob) (ops : TileOps), Sound s = true →
    OnlyOp s o → o.phase = .active → gemmBody o = some (kind, b) → o.asked = 2 → o.plan = none → DiesRun s →
    s.dome.tripped = false → (belfry s (t.val / 16)).fenced = false → (belfry s (t.val / 16)).pllOn = true →
    t.val % 16 ∉ (belfry s (t.val / 16)).vacated → (turret s t.val).buf0 = none →
    nextJob s (belfry s (t.val / 16)) = some j → j.op = o.id → tileOps s o (gemmOf s o kind b) j.tile = .ok ops →
    ∃ u x, exec (.tileStart t) s = .next u ∧ (turret u t.val).buf0 = some x ∧ x.job = j ∧ x.missing = [] ∧
      x.acc = (tileEntries o (gemmOf s o kind b) ops (tilePlan s o (gemmOf s o kind b) j.tile ops.a ops.b)).map (·.1) ∧
      (turret u t.val).buf1 = (turret s t.val).buf1 ∧ u.mem = s.mem ∧ u.regs = s.regs ∧ ∀ y, y ≠ t.val → turret u y = turret s y) ∧
  (∀ (s : State) (o : Op) (kind : GemmKind) (b : GemmBody) (t : Fin 256) (i : Fin 2) (x : TileBuf) (k m : Nat)
      (rest : List Nat), Sound s = true → OnlyOp s o → o.phase = .active → gemmBody o = some (kind, b) → o.asked = 2 →
    recMissing s o = none → (turret s t.val).buf i.val = some x → x.missing = k :: m :: rest →
    ∃ u, exec (.lateFetchArrival t i) s = .next u ∧ (turret u t.val).buf i.val = some { x with missing := m :: rest } ∧
      u.mem = s.mem ∧ u.regs = s.regs ∧ u.ops = s.ops) ∧
  (∀ (s : State) (o : Op) (kind : GemmKind) (b : GemmBody) (t : Fin 256) (i : Fin 2) (x : TileBuf) (k : Nat) (ops : TileOps),
    Sound s = true → OnlyOp s o → o.phase = .active → gemmBody o = some (kind, b) → o.asked = 2 →
    recMissing s o = none → (turret s t.val).buf i.val = some x → x.missing = [k] → x.job.op = o.id →
    tileOps s o (gemmOf s o kind b) x.job.tile = .ok ops →
    ∃ u y, exec (.lateFetchArrival t i) s = .next u ∧ (turret u t.val).buf i.val = some y ∧ y.missing = [] ∧ y.job = x.job ∧
      y.acc = (tileEntries o (gemmOf s o kind b) ops
        (tilePlan s o (gemmOf s o kind b) x.job.tile ops.a ops.b)).map (·.1) ∧ u.mem = s.mem ∧ u.ops = s.ops) ∧
  (∀ (s : State) (o : Op) (kind : GemmKind) (b : GemmBody) (t : Fin 256) (i : Fin 2) (x : TileBuf) (n l m k w : Nat)
      (am : Option Int) (g : Gemm), Sound s = true → OnlyOp s o → o.phase = .active → gemmBody o = some (kind, b) → o.asked = 2 → g = gemmOf s o kind b →
    (turret s t.val).buf i.val = some x → x.owed = [] → x.issue = [] → x.missing = [] → x.job.op = o.id → o.hdr.txn = 0 →
    o.work = .gemm (n + 1) am none l m k w → g.grad = false → g.fuse = false → g.scaled = false → g.hist = false →
    (g.strictMd = false ∨ x.malformed = 0) → AllInPlace s (emitTile s o g x.job.tile x.acc).writes →
    ∃ u p, exec (.tileComplete t i) s = .next u ∧ (turret u t.val).buf i.val = none ∧ u.ops = [p] ∧
      p.work = .gemm n (maxExp am (emitTile s o g x.job.tile x.acc).amax) none l m k w ∧
      p.phase = (if n = 0 then .done .ok else .active) ∧
      u.mem = writesOn s.mem (emitTile s o g x.job.tile x.acc).writes ∧ u.regs = s.regs) ∧
  (∀ (s v : State) (o : Op) (kind : GemmKind) (b : GemmBody) (t : Fin 256) (i : Fin 2) (x : TileBuf) (n l m k w : Nat)
      (g : Gemm),
    Sound s = true → OnlyOp s o → o.phase = .active → gemmBody o = some (kind, b) → o.asked = 2 → g = gemmOf s o kind b →
    (turret s t.val).buf i.val = some x → x.owed = [] → x.issue = [] → x.missing = [] → x.job.op = o.id → o.hdr.txn = 0 →
    o.work = .gemm (n + 1) none none l m k w → g.grad = true → (g.strictMd = false ∨ x.malformed = 0) →
    tileToGroup s o g x.job.tile x.acc = .done v → v.ops = s.ops → v.hif.rings = s.hif.rings →
    ∃ u p, exec (.tileComplete t i) s = .next u ∧ (turret u t.val).buf i.val = none ∧ u.ops = [p] ∧
      p.phase = (if n = 0 then .done .ok else .active) ∧ u.dome.groups = v.dome.groups ∧ u.mem = v.mem) ∧
  ∀ (s : State) (o : Op) (kind : GemmKind) (b : GemmBody) (t : Fin 256) (i : Fin 2), OnlyOp s o → o.phase = .active →
    gemmBody o = some (kind, b) → o.asked = 2 → recMissing s o = none →
    (∀ x ∈ s.dome.belfries, ∀ j ∈ x.2.immediate ++ x.2.deferred ++ x.2.unplaced, jobDead s j = false) → (turret s t.val).buf i.val = none →
    exec (.tileComplete t i) s = .next s ∧ exec (.lateFetchArrival t i) s = .next s

/-- SPSP_INTERSECT, ELEM, ROWRED and EMB_BAG run to their end when their operands can be read, and memory takes exactly the bytes
their pairs, rows and bags come to; a strict SPSP_INTERSECT that met a malformed pair ends MALFORMED and stores nothing
(spec/04 R93, R102, spec/05 R123 to R125, spec/07 R168 to R170).
Completes: spspIntersect, elem, rowred, embBag. -/
def Obligations.VectorOps : Prop :=
  (∀ (s : State) (r : Fin 256) (h : Hdr) (b : SpspBody) (d : Desc) (ps : List PairOut), d = { hdr := h, body := .spspIntersect b } →
    AtRest s r.val → Accepts s r.val d → Starts s r.val d → NoPins s r.val d → DiesRun s → h.txn = 0 →
    collect (runPair s (asOp s r.val d) b (spspRecs s (asOp s r.val d) b).1 (spspRecs s (asOp s r.val d) b).2)
      (List.range b.pairs) = .ok ps →
    (spspStrict b = true → ∀ p ∈ ps, p.malformed = false ∧ p.range = false) → AllInPlace s (ps.flatMap (·.writes)) →
    ∃ t, exec (.spspIntersect r h b) s = .next t ∧ OpIs s t r.val d (.done .ok) ∧
      t.mem = writesOn s.mem (ps.flatMap (·.writes)) ∧ t.regs = s.regs ∧
      t.ops.map (fun o => (o.c0, o.c1, o.c2)) = [(min 0xFFFFFFFF (ps.filter (·.malformed)).length,
        min 0xFFFFFFFF (ps.filter (·.range)).length, min 0xFFFFFFFF (ps.filter (·.cut)).length)]) ∧
  (∀ (s : State) (r : Fin 256) (h : Hdr) (b : SpspBody) (d : Desc) (ps : List PairOut), d = { hdr := h, body := .spspIntersect b } →
    AtRest s r.val → Accepts s r.val d → Starts s r.val d → NoPins s r.val d → DiesRun s → h.txn = 0 →
    txnOf s 0 = none →
    collect (runPair s (asOp s r.val d) b (spspRecs s (asOp s r.val d) b).1 (spspRecs s (asOp s r.val d) b).2)
      (List.range b.pairs) = .ok ps →
    spspStrict b = true → (∃ p ∈ ps, p.malformed = true) →
    ∃ t, exec (.spspIntersect r h b) s = .next t ∧ OpIs s t r.val d (.done .malformed) ∧ t.mem = s.mem) ∧
  (∀ (s w : State) (r : Fin 256) (h : Hdr) (b : ElemBody) (d : Desc) (o : Op) (rows : List RowOut) (two : Bool),
    d = { hdr := h, body := if two then .rowred b else .elem b } → w = atWork s r.val d → o = atWorkOp s r.val d →
    AtRest s r.val → Accepts s r.val d → Starts s r.val d → NoPins s r.val d → DiesRun s → h.txn = 0 →
    natBits b.flags 7 7 = 0 → (∀ x ∈ (elemPlan w o b).streams, ∀ y, x = some y → y.scaled = false) →
    collect (elemRow w o b (elemPlan w o b) (tapFree w)) (List.range b.rows) = .ok rows →
    AllInPlace s (elemStores w o b rows) →
    (two = false → ∃ t, exec (.elem r h b) s = .next t ∧ RowsStored s t w r.val d o b rows) ∧
    (two = true → ∃ t, exec (.rowred r h b) s = .next t ∧ RowsStored s t w r.val d o b rows)) ∧
  ∀ (s w v : State) (r : Fin 256) (h : Hdr) (b : EmbBagBody) (d : Desc) (o p : Op) (ps : List Position) (tl : Tally)
      (is : List RowItem) (rs : List RowRead), d = { hdr := h, body := .embBag b } →
    AtRest s r.val → Accepts s r.val d → Starts s r.val d → NoPins s r.val d → DiesRun s → h.txn = 0 →
    bagHist b = false → bagStrict b = false → o = atWorkOp s r.val d →
    positions (atWork s r.val d) o (bagsOf (atWork s r.val d) o b.bagRec) (opTable s o) = .ok (ps, tl) →
    w = holdReplicas (atWork s r.val d) o (opTable s o) (distinctRows ps) →
    is = rowItems (atWork s r.val d) o (opTable s o) b.mask ps (distinctRows ps) → (∀ x ∈ is, x.chip = none) →
    RowsServed w s.opNext (windowed 0 is) → v = rowsRead w s.opNext (windowed 0 is) → opById v s.opNext = some p →
    readRows v p (opTable s o) ps (distinctRows ps) (fun _ _ => none) = .ok rs → (∀ x ∈ rs, x.2.2 = 0 ∨ x.2.2 = 2) →
    AllInPlace s (bagWrites o b (opTable s o) (bagsOf (atWork s r.val d) o b.bagRec) ps rs) →
    ∃ t, exec (.embBag r h b) s = .next t ∧ OpIs s t r.val d (.done .ok) ∧
      t.mem = writesOn s.mem (bagWrites o b (opTable s o) (bagsOf (atWork s r.val d) o b.bagRec) ps rs) ∧ t.regs = s.regs

/-- GATHER of a list leaves at row i of its destination the feature row of node i, a zero row for NONE, and nothing else changed;
SAMPLE writes its record, which begins with the graph, the sample and the seeds it was asked for, and no byte outside its room; a
path-form or local list-form SCATTER stores exactly its folded rows, and one whose bank names another chip goes on as a
collective of the job, unless it comes to a row in a register mirror there, which ends it OUT_OF_RANGE (spec/01 R20, spec/06 R137,
R144, R152, R155, R156).
Completes: sample, gather, scatter. -/
def Obligations.GraphOps : Prop :=
  (∀ (s : State) (r : Fin 256) (h : Hdr) (b : GatherBody) (d : Desc), d = { hdr := h, body := .gather b } →
    AtRest s r.val → Accepts s r.val d → Starts s r.val d → NoPins s r.val d → DiesRun s → h.txn = 0 →
    gatherKind b = 0 → regionOf (addrOff b.src) ≠ .hostWindow → InPlace s [(b.dst, b.count * b.rowBytes)] →
    (∀ i, i < b.count → gatherNode s b i = nodeNone ∨
      (gatherNode s b i < nodeNone ∧ reachOf s (ownerOf s (bankNow s) (gatherNode s b i)).1 = .near ∧
        rangeOk s (gatherRow s b (gatherNode s b i)) b.rowBytes = true ∧
        meetsView s (gatherRow s b (gatherNode s b i)) b.rowBytes = false ∧
        regionOf (gatherRow s b (gatherNode s b i)) ≠ .hostWindow)) →
    RowsServed (atWork s r.val d) s.opNext (windowed b.windowReq (gatherItems (atWork s r.val d) (atWorkOp s r.val d) b)) →
    ∃ t, exec (.gather r h b) s = .next t ∧ OpIs s t r.val d (.done .ok) ∧ t.regs = s.regs ∧
      (∀ i, i < b.count → t.mem.getBytes (addrOff b.dst + i * b.rowBytes) b.rowBytes =
        if gatherNode s b i = nodeNone then List.replicate b.rowBytes 0
        else committedBytes s (gatherRow s b (gatherNode s b i)) b.rowBytes) ∧
      MemFrame s t (addrOff b.dst) (b.count * b.rowBytes)) ∧
  (∀ (s w : State) (r : Fin 256) (h : Hdr) (b : SampleBody) (d : Desc) (o : Op) (seeds : List FrontEntry)
      (hops : List (List Expanded)), d = { hdr := h, body := .sample b } → w = atWork s r.val d → o = atWorkOp s r.val d →
    AtRest s r.val → Accepts s r.val d → Starts s r.val d → NoPins s r.val d → DiesRun s → h.txn = 0 →
    sampleStrict b = false → sampleHops w o b = .ok (seeds, hops) → walkersWait w o b hops = false →
    (payAll w (sampleBursts w o b hops)).2 = [] → InPlace s [(b.pr, 64 * b.prCap)] →
    ∃ t, exec (.sample r h b) s = .next t ∧
      OpIs s t r.val d (.done (if (sampleRecord b seeds hops).2 then .outOfRange else .ok)) ∧
      t.mem = writesOn s.mem ((sampleRecord b seeds hops).1.map fun x => (b.pr + x.1, x.2)) ∧
      t.mem.getBytes (addrOff b.pr) 17 = leBytes 8 b.graph ++ leBytes 4 b.sampleId ++ leBytes 4 b.seeds ++ leBytes 1 b.hops ∧
      MemFrame s t (addrOff b.pr) (64 * b.prCap) ∧ t.regs = s.regs) ∧
  (∀ (s w : State) (r : Fin 256) (h : Hdr) (b : ScatterBody) (d : Desc) (o : Op) (is : List RowItem)
      (ws : List (Nat × List Byte)) (tl : Tally), d = { hdr := h, body := .scatter b } → w = atWork s r.val d →
    o = atWorkOp s r.val d → AtRest s r.val → Accepts s r.val d → Starts s r.val d → NoPins s r.val d →
    DiesRun s → h.txn = 0 → scatterPath b = true → is = messageItems w o b (recCount w o b.idx b.hop) →
    RowsServed w s.opNext (windowed 0 is) → pathRows w o b = .ok (ws, tl) → AllInPlace s ws →
    ∃ t, exec (.scatter r h b) s = .next t ∧ OpIs s t r.val d (.done .ok) ∧ t.mem = writesOn s.mem ws ∧ t.regs = s.regs) ∧
  (∀ (s w : State) (r : Fin 256) (h : Hdr) (b : ScatterBody) (d : Desc) (o : Op) (it : ListItems)
      (res : List (Nat × List Byte) × Tally), d = { hdr := h, body := .scatter b } → w = atWork s r.val d →
    o = atWorkOp s r.val d → AtRest s r.val → Accepts s r.val d → Starts s r.val d → NoPins s r.val d →
    DiesRun s → h.txn = 0 → scatterPath b = false → ownersRemote s (bankNow s) = false →
    RowsServed w s.opNext (windowed 0 (messageItems w o b b.count)) → listItems w o b = .ok it →
    (∀ x ∈ it.items, x.1 = ownChip s) → foldRows w o b ((mtOrder w (it.items.map fun x => x.2.1).eraseDups).map fun k =>
      (addrOff b.dst + k * scatterRow b, (it.items.filter fun x => x.2.1 == k).map fun x => (x.2.2.1, x.2.2.2))) = .ok res →
    (∀ y ∈ res.1, meetsView s y.1 y.2.length = false ∧ y.1 < 2 ^ 48) → AllInPlace s res.1 →
    ∃ t, exec (.scatter r h b) s = .next t ∧ t.mem = writesOn s.mem res.1 ∧ t.regs = s.regs ∧
      OpIs s t r.val d (.done (if scatterStrict b = true ∧ it.dropped ≠ [] then .outOfRange else .ok))) ∧
  (∀ (s w : State) (r : Fin 256) (h : Hdr) (b : ScatterBody) (d : Desc) (o : Op) (it : ListItems),
    d = { hdr := h, body := .scatter b } → w = atWork s r.val d → o = atWorkOp s r.val d →
    AtRest s r.val → Accepts s r.val d → Starts s r.val d → NoPins s r.val d → DiesRun s → scatterPath b = false →
    RowsServed w s.opNext (windowed 0 (messageItems w o b b.count)) → listItems w o b = .ok it →
    (∃ x ∈ it.items, x.1 ≠ ownChip s ∧ meetsMirror (addrOff b.dst + x.2.1 * scatterRow b) (scatterRow b) = true) →
    ∃ t, exec (.scatter r h b) s = .next t ∧ OpIs s t r.val d (.done .outOfRange) ∧ t.mem = s.mem) ∧
  ∀ (s w : State) (r : Fin 256) (h : Hdr) (b : ScatterBody) (d : Desc) (o : Op) (it : ListItems) (c : Nat),
    d = { hdr := h, body := .scatter b } → w = atWork s r.val d → o = atWorkOp s r.val d →
    AtRest s r.val → Accepts s r.val d → Starts s r.val d → NoPins s r.val d → DiesRun s →
    scatterPath b = false → ownersRemote s (bankNow s) = true →
    RowsServed w s.opNext (windowed 0 (messageItems w o b b.count)) → listItems w o b = .ok it →
    (∀ x ∈ it.items, x.1 = ownChip s ∨ (destStatus s x.1 = none ∧
      meetsMirror (addrOff b.dst + x.2.1 * scatterRow b) (scatterRow b) = false)) → c ∈ jobChips s → c ≠ ownChip s → ownChip s < 0x4000 →
    s.fab.flows.length + (jobChips s).length ≤ 12288 →
    ∃ t, exec (.scatter r h b) s = .next t ∧ OpIs s t r.val d .active ∧ t.mem = s.mem ∧
      (∃ x, x ∈ t.ops.map (·.work) ∧ (x = .exchange false ∨ x = .exchange true)) ∧
      ∃ p ∈ (exchangeOf t b.exch).batches, p.1 = ownChip s ∧ p.2.combine = scatterComb b ∧ p.2.marker = false

/-! ### Training ops and checkpoints -/

namespace Sys2Proof.Machine

/-- The FP32 code of source element i of a REDUCE_GRAD. -/
def gradCode (s : State) (b : ReduceGradBody) (i : Nat) : Nat := memNat s (addrOff (b.src + 4 * i)) 4

/-- Tiles that a REDUCE_GRAD's source meets. -/
def gradTiles (b : ReduceGradBody) : Nat :=
  if b.srcElems = 0 then 0 else (b.srcOffset + b.srcElems - 1) / 1024 + 1 - b.srcOffset / 1024

/-- A range lies outside the retention area (spec/09 R234). -/
abbrev OffRetained (s : State) (a n : Nat) : Prop := a + n ≤ retainAt s 0 ∨ retainAt s (regBits s 0x1000184 19 0) ≤ a

/-- The receivers of a PARAM_PUBLISH: its map without this device. -/
def receivers (s : State) (r : Nat) (d : Desc) (b : PublishBody) : List Nat :=
  (mapChips (atWork s r d) (atWorkOp s r d) b.recv).filter fun c => c != ownChip s

/-- The state after the reads of a PARAM_PUBLISH's first n shadows took their units' tokens. -/
def shadowsPaid (w : State) (id : Nat) (b : PublishBody) : Nat → State
  | 0 => w
  | n + 1 => payShadow (shadowsPaid w id b n) id (b.sliceFirst + n) b.step n

/-- The state after a CKPT_PULL's writes reached their channels, and whether these make it wait. -/
def pullReached (w : State) (ws : List (Nat × List Byte)) : State × Bool :=
  requestRanges w ((writeRanges ws).map fun r => (ownAddr r.1, r.2))
/-- Nothing holds a CKPT_PULL's writes back: their slices hold no pin, their channels serve, and every unit has tokens. -/
abbrev PullServed (w : State) (o : Op) (b : CkptPullBody) (ws : List (Nat × List Byte)) : Prop :=
  slicesMet w (writeRanges ws) = [] ∧ (pullReached w ws).2 = false ∧
    (payAll (pullReached w ws).1 (pullBursts (pullReached w ws).1 o b ws)).2 = []

end Sys2Proof.Machine

/-- REDUCE_GRAD gives each source element, once, to its group step as a contribution, its FP32 value kept in the retention area, and is
done when all are given; a FINAL stays to wait for the tiles. EMB_GRAD of a table that lies here alone stores the folded gradient rows and nothing else. PARAM_PUBLISH
sends every slice's shadow bytes to every receiver but itself, once their reads have found tokens. UPDATE waits for its sums; of a frozen layer it completes at once.
STEP_COMMIT becomes the job's last step and the closer of its group (spec/07 R182, R184, spec/08 R195, R213, R224, spec/09 R234,
R245, R248).
Completes: embGrad, reduceGrad, paramPublish, update, stepCommit. -/
def Obligations.TrainingOps : Prop :=
  (∀ (s : State) (r : Fin 256) (h : Hdr) (b : ReduceGradBody) (d : Desc) (off : Nat), d = { hdr := h, body := .reduceGrad b } →
    off = addrOff b.group → AtRest s r.val → Accepts s r.val d → Starts s r.val d → NoPins s r.val d → DiesRun s →
    txnOf s h.txn = none → s.dome.journals = [] → groupStep s off b.step = none → groupActive s off b.step = true →
    groupRoom s off b.step = true → (histMax s (groupRec s off).hist = none ∨ cautiousNow s = true) →
    OffRetained s off 64 → OffRetained s (histAddr s (groupRec s off).hist) 32 →
    (b.srcElems ≠ 0 → regionOf (addrOff b.src) ≠ .hostWindow ∧ OffRetained s (addrOff b.src) (4 * b.srcElems)) →
    (b.srcElems ≠ 0 ∨ reduceFinal b = true) → retainUsed s + 12288 * gradTiles b ≤ 4096 * regBits s 0x1000184 19 0 →
    ∃ t g, exec (.reduceGrad r h b) s = .next t ∧ OpIs s t r.val d (if reduceFinal b then .active else .done .ok) ∧
      groupStep t off b.step = some g ∧ g.final = (if reduceFinal b then some s.opNext else none) ∧ g.excess = 0 ∧
      (g.contribs.map fun c => (c.elem, c.op, c.seed, memNat t c.at_ 4)) =
        ((List.range b.srcElems).map fun i => (b.srcOffset + i, s.opNext, jobSeed s, gradCode s b i)) ∧
      (∀ a, a < retainAt s 0 ∨ retainAt s (regBits s 0x1000184 19 0) ≤ a → t.mem.get a = s.mem.get a) ∧
      t.regs = s.regs ∧ t.host = s.host) ∧
  (∀ (s w : State) (r : Fin 256) (h : Hdr) (b : EmbGradBody) (d : Desc) (o : Op) (ps : List Position) (tl : Tally)
      (g : GradRows) (res : List (Nat × List Byte) × Tally), d = { hdr := h, body := .embGrad b } → w = atWork s r.val d →
    o = atWorkOp s r.val d → AtRest s r.val → Accepts s r.val d → Starts s r.val d → NoPins s r.val d →
    DiesRun s → h.txn = 0 →
    (opTable s o).hot = false → (opTable s o).prod = false → tableLocal s (opTable s o) = true →
    positions w o (bagsOf w o b.bagRec) (opTable s o) = .ok (ps, tl) → gradRows w o b (opTable s o) ps [] = .ok g →
    g.marks.failed = false → g.marks.refused = [] → gradStrict b = false → (exchangeOf s b.exch).batches = [] →
    gradFolds w o b (opTable s o) (g.rows.map fun x => (ownChip s, gradOffset (opTable s o) b x.1, mtBytes 0 x.2)) = .ok res →
    (∀ y ∈ res.1, meetsView s y.1 y.2.length = false ∧ y.1 < 2 ^ 48) → AllInPlace s res.1 →
    ∃ t, exec (.embGrad r h b) s = .next t ∧ OpIs s t r.val d (.done .ok) ∧ t.mem = writesOn s.mem res.1 ∧
      t.regs = s.regs ∧ t.host = s.host) ∧
  (∀ (s : State) (r : Fin 256) (h : Hdr) (b : PublishBody) (d : Desc) (n : Nat), d = { hdr := h, body := .paramPublish b } →
    AtRest s r.val → Accepts s r.val d → Starts s r.val d → NoPins s r.val d → DiesRun s →
    gateOf (atWork s r.val d) b.step ≠ some false →
    (∀ i, i < b.sliceCount → opOwes (shadowsPaid (atWork s r.val d) s.opNext b (i + 1)) s.opNext = false) →
    (∀ i, i < b.sliceCount → shadowBytes s h.txn (b.sliceFirst + i) b.step ≠ none) →
    n = ((List.range b.sliceCount).map fun i => (pieces (sliceBytes s (b.sliceFirst + i))).length).sum →
    (∀ c ∈ receivers s r.val d b, destStatus s c = none ∧ RoomTo s c 2 n) →
    (∀ g, g < 2 → storeUsed s g + 4128 * ((receivers s r.val d b).length * n) ≤ 2 ^ 24) →
    s.fab.flows.length + (receivers s r.val d b).length ≤ 12288 →
    ∃ t, exec (.paramPublish r h b) s = .next t ∧ t.mem = s.mem ∧
      ((∀ i, i < b.sliceCount → sliceBytes s (b.sliceFirst + i) = 0) ∨
        OpIs s t r.val d (if receivers s r.val d b = [] then .done .ok else .active)) ∧
      ∀ c ∈ receivers s r.val d b, ∀ i, i < b.sliceCount → ∀ bs, shadowBytes s h.txn (b.sliceFirst + i) b.step = some bs →
        ∀ p ∈ pieces bs.length, Sends t c 2 3 (slotAddr s (b.sliceFirst + i) 0 + p.1)
          (.publish (b.sliceFirst + i) b.step bs.length p.1 ((bs.drop p.1).take p.2))) ∧
  (∀ (s : State) (r : Fin 256) (h : Hdr) (b : UpdateBody) (d : Desc), d = { hdr := h, body := .update b } →
    AtRest s r.val → Accepts s r.val d → NoPins s r.val d → DiesRun s →
    ∃ t, exec (.update r h b) s = .next t ∧
      OpIs s t r.val d (if frozenLayer s b.layer = true then .done .ok else .active) ∧ t.mem = s.mem ∧ t.regs = s.regs ∧
      t.host = s.host) ∧
  ∀ (s : State) (r : Fin 256) (h : Hdr) (b : StepCommitBody) (d : Desc), d = { hdr := h, body := .stepCommit b } →
    AtRest s r.val → Accepts s r.val d → NoPins s r.val d →
    ∃ t, exec (.stepCommit r h b) s = .next t ∧ OpIs s t r.val d .active ∧ t.dome.lastStep = b.step ∧
      t.ops.map (·.work) = [.step (mapChips s (asOp s r.val d) b.voter) (regBits s 0x1000104 31 20) none none none none 0] ∧
      (∀ x ∈ t.dome.txns, x.num = h.txn → x.closer = some s.opNext ∧ x.isStep = true) ∧
      ((∃ x, txnOf s h.txn = some x ∧ x.aborted ≠ none) → natBits t.dome.health 3 3 = 1) ∧
      t.mem = s.mem ∧ t.regs = s.regs ∧ t.host = s.host

/-- CKPT_PUSH to a local region leaves there, in the slot that the rule picks, the range table, the ranges' bytes and a VALID header of
the last committed step; one to another chip writes its LOCAL image first and asks for the region's header. CKPT_PULL writes a
local image's ranges, or a peer list's, and a good image's STEP becomes the job's last step; a bad image ends MALFORMED and touches
nothing outside its ranges. ASSUME_ID takes the numbers, clears every flow and proves itself anew on every UP link (spec/15 R383 to
R385, Tables 15.6, 15.7).
Completes: ckptPush, ckptPull, assumeId. -/
def Obligations.CheckpointOps : Prop :=
  (∀ (s b0 : State) (r : Fin 256) (h : Hdr) (b : CkptPushBody) (d : Desc) (o : Op) (data : List (List Byte)) (k : Nat)
      (ws : List (Nat × List Byte)), d = { hdr := h, body := .ckptPush b } → b0 = atWork s r.val d → o = atWorkOp s r.val d →
    AtRest s r.val → Accepts s r.val d → Starts s r.val d → s.dome.epochs = [] → DiesRun s → h.txn = 0 →
    isLocal s b.region = true → pushLocal b = false →
    collect (fun x => opRead b0 o x.1 x.2) (pushRanges b0 o b) = .ok data →
    localSlot b0 o b.region (b.regionBytes / 2) = .ok k →
    ws = imageWrites s (b.region + k * (b.regionBytes / 2)) s.dome.lastCommitted b.ranges
      (rangeTable (pushRanges b0 o b) ++ data.flatten) → AllInPlace b0 ws →
    ∃ t, exec (.ckptPush r h b) s = .next t ∧ OpIs s t r.val d (.done .ok) ∧ t.mem = writesOn b0.mem ws ∧
      t.regs = s.regs ∧ t.host = s.host) ∧
  (∀ (s b0 : State) (r : Fin 256) (h : Hdr) (b : CkptPushBody) (d : Desc) (o : Op) (data : List (List Byte)) (k : Nat)
      (ws : List (Nat × List Byte)), d = { hdr := h, body := .ckptPush b } → b0 = atWork s r.val d → o = atWorkOp s r.val d →
    AtRest s r.val → Accepts s r.val d → Starts s r.val d → s.dome.epochs = [] → DiesRun s → h.txn = 0 →
    isLocal s b.region = false → destStatus s (addrChip b.region) = none → RoomTo s (addrChip b.region) 2 1 →
    collect (fun x => opRead b0 o x.1 x.2) (pushRanges b0 o b) = .ok data →
    (pushLocal b = true → localSlot b0 o b.localRegion (b.regionBytes / 2) = .ok k) →
    ws = (if pushLocal b then imageWrites s (b.localRegion + k * (b.regionBytes / 2)) s.dome.lastCommitted b.ranges
      (rangeTable (pushRanges b0 o b) ++ data.flatten) else []) → InPlace b0 [] → AllInPlace b0 ws →
    ∃ t, exec (.ckptPush r h b) s = .next t ∧ OpIs s t r.val d .active ∧ t.mem = writesOn b0.mem ws ∧
      Sends t (addrChip b.region) 2 1 (addrOff b.region) (.read [{ off := addrOff b.region, bytes := 64 }])) ∧
  (∀ (s b0 : State) (r : Fin 256) (h : Hdr) (b : CkptPullBody) (d : Desc) (ws : List (Nat × List Byte))
      (img : Option (Nat × Bool)), d = { hdr := h, body := .ckptPull b } → b0 = atWork s r.val d →
    AtRest s r.val → Accepts s r.val d → Starts s r.val d → NoPins s r.val d → DiesRun s → h.txn = 0 →
    pullPlan b0 (atWorkOp s r.val d) b = .go ws img → (∀ x, img = some x → x.2 = true) →
    PullServed b0 (atWorkOp s r.val d) b ws →
    InPlace s [] → AllInPlace s ws →
    ∃ t, exec (.ckptPull r h b) s = .next t ∧ OpIs s t r.val d (.done .ok) ∧ t.mem = writesOn s.mem ws ∧
      t.dome.lastCommitted = (img.map (·.1)).getD s.dome.lastCommitted ∧
      t.dome.lastStep = (img.map (·.1)).getD s.dome.lastStep ∧ t.flt.halted = (s.flt.halted && img.isNone) ∧
      t.regs = s.regs ∧ t.host = s.host) ∧
  (∀ (s b0 : State) (r : Fin 256) (h : Hdr) (b : CkptPullBody) (d : Desc) (ws : List (Nat × List Byte)) (n : Nat),
    d = { hdr := h, body := .ckptPull b } → b0 = atWork s r.val d →
    AtRest s r.val → Accepts s r.val d → Starts s r.val d → NoPins s r.val d → DiesRun s → h.txn = 0 →
    pullPlan b0 (atWorkOp s r.val d) b = .go ws (some (n, false)) → PullServed b0 (atWorkOp s r.val d) b ws →
    InPlace s [] → AllInPlace s ws →
    ∃ t, exec (.ckptPull r h b) s = .next t ∧ OpIs s t r.val d (.done .malformed) ∧
      t.dome.lastCommitted = s.dome.lastCommitted ∧ t.dome.lastStep = s.dome.lastStep ∧ t.flt.halted = s.flt.halted ∧
      ∀ a, (∀ w ∈ ws, a < addrOff w.1 ∨ addrOff w.1 + w.2.length ≤ a) → t.mem.get a = s.mem.get a) ∧
  ∀ (s : State) (r : Fin 256) (h : Hdr) (b : AssumeIdBody) (d : Desc), d = { hdr := h, body := .assumeId b } →
    AtRest s r.val → Accepts s r.val d → s.dome.epochs = [] → DiesRun s →
    ∃ t, exec (.assumeId r h b) s = .next t ∧
      OpIs s t r.val d (if linksIn s .up = [] then .done .ok else .active) ∧
      regGet t 0x800000 = BitVec.ofNat 32 (b.chip * 65536 + b.job) ∧ t.fab.flows = [] ∧ t.dome.lastStep = 0 ∧
      t.dome.lastCommitted = 0 ∧
      (∀ l ∈ linksIn s .up, (link t l).st = .up ∧ (link t l).passed = false ∧ (link t l).answered = false ∧
        (link t l).nonce.length = 32) ∧ t.mem = s.mem ∧ t.host = s.host

/-! ### Periods, sleep, memory upkeep and faults -/

namespace Sys2Proof.Machine

/-- The next period begins: machine time runs and has come to it, and the device is not sealed (spec/14 R355). -/
abbrev PeriodDue (s : State) : Prop :=
  s.time.runs = true ∧ s.flt.sealed = false ∧ 1280 * (s.chime.began + 1) ≤ mtime s

/-- The next period has the registers that were set when its machine time came (spec/14 R359, R369). -/
def inForce (s : State) : State := { s with chime := { s.chime with cfg := s.chime.latch } }

/-- The readings a period keeps: a sensor that gave none reads THROT (spec/14 R366, R367). -/
def readings (s : State) (sensors : List (Option Int)) : List Int :=
  (List.range 26).map fun i => ((sensors[i]?).getD none).getD (8 * (chmBits (inForce s) 0x300008 7 0 : Int))

/-- Nothing but one LPDDR5X channel differs. -/
abbrev OnlyChannel (s t : State) (ch : Nat) : Prop :=
  t = { s with mif := t.mif } ∧ t.mif = { s.mif with channels := t.mif.channels } ∧ ∀ c, c ≠ ch → channel t c = channel s c

/-- Nothing but one belfry differs. -/
abbrev OnlyBelfry (s t : State) (b : Nat) : Prop :=
  t = { s with dome := t.dome } ∧ t.dome = { s.dome with belfries := t.dome.belfries } ∧ ∀ c, c ≠ b → belfry t c = belfry s c

/-- An occurrence waits at its unit as a record, or adds 1 to the one that waits, at most 255 (spec/15 R371). -/
abbrev Raises (s t : State) (die unit kind addr : Nat) : Prop :=
  t = { s with flt := t.flt } ∧ t.flt = { s.flt with undelivered := t.flt.undelivered } ∧
    ((∀ x ∈ s.flt.undelivered, ¬(x.die = die ∧ x.unit = unit ∧ x.kind = kind)) → t.flt.undelivered = s.flt.undelivered ++
      [{ die := die, unit := unit, kind := kind, count := 1, time := mtime s % 2 ^ 32, addr := addr }]) ∧
    ((∃ x ∈ s.flt.undelivered, x.die = die ∧ x.unit = unit ∧ x.kind = kind) → t.flt.undelivered = s.flt.undelivered.map fun x =>
      if x.die = die ∧ x.unit = unit ∧ x.kind = kind then { x with count := min 255 (x.count + 1) } else x)

/-- Some record of this kind waits at this unit. -/
abbrev Waits (t : State) (die unit kind : Nat) : Prop := ∃ x ∈ t.flt.undelivered, x.die = die ∧ x.unit = unit ∧ x.kind = kind

/-- A die's only waiting record, and the class it is logged at. -/
abbrev Offers (s : State) (die : Nat) (r : FaultRec) (cls : Nat) : Prop :=
  s.flt.undelivered.filter (fun x => x.die == die) = [r] ∧ cls = loggedClass s r (bucketCount s r).1

end Sys2Proof.Machine

/-- Periods and sleep. CHIME_PERIOD begins the next period, none left out, under the registers latched for it: it keeps the
readings, steps every throttle factor, counts the guard band down and grants each activity its tokens; a maintenance gap of GAP_US
starts a recalibration when no record is accepted, whose end writes a record 20 mV above what it found; a path monitor's trip is
counted and remembered. A slot idle for TURRET_IDLE_US is gated, the PLL of a gated belfry idle for PLL_IDLE_US stops, and work wakes
the slots in service; NO_GATE, a fence, a stopped Dome or spire mode forbids it (spec/14 R355, R357, R361, R364 to R366, R369; log
entry 156 on the pattern's temperature).
Completes: chimePeriod, maintenanceGap, recalibrationDone, pathMonitorTrip, turretPowerGate, belfryPllStop, belfryWake. -/
def Obligations.Power : Prop :=
  (∀ (s : State) (sensors : List (Option Int)) (watts : Nat), Sound s = true → NoWork s → PeriodDue s →
    s.chime.factors.length = 9 → s.fab.heldPkts = [] → s.fab.serving = [] → s.fab.loop = [] → s.fin.cmpDue = [] →
    (∀ l, l < 96 → retryPackets (link s l) = []) →
    ∃ t, exec (.chimePeriod sensors watts) s = .next t ∧ t.chime.period = s.chime.period + 1 ∧
      t.chime.began = s.chime.began + 1 ∧ t.chime.cfg = s.chime.latch ∧ t.chime.temps = readings s sensors ∧ t.chime.watts = watts ∧
      t.chime.load = watts * 100 / 760 ∧ t.chime.temp = (hottest (readings s sensors) 0).2 ∧
      t.chime.forced = (if s.chime.stretchSeen = true then 16 else s.chime.forced - 1) ∧ t.chime.stretchSeen = false ∧
      t.fab.reported = [] ∧ t.fab.slots = [] ∧ t.fab.transitMin = regBits s 0x800010 7 0 ∧
      (∀ d, d < 9 → t.chime.factors[d]? =
        some (factorNext (inForce s) d ((s.chime.factors[d]?).getD 16) (hottest (readings s sensors) d).2 watts)) ∧
      (∀ a, a < 104 → chimeUsed (spireMode s) a = true →
        tabGet (fun k => chimePeak (spireMode s) k) t.chime.grants a =
          chimePeak (spireMode s) a * chmBits (inForce s) (0x300200 + 4 * a) 8 0 * activityFactor t a / 4096) ∧
      t.mem = s.mem ∧ t.ops = []) ∧
  (∀ (s : State) (sensors : List (Option Int)) (watts : Nat), s.time.runs = false ∨ s.flt.sealed = true ∨
      mtime s < 1280 * (s.chime.began + 1) → exec (.chimePeriod sensors watts) s = .next s) ∧
  ((∀ s : State, chmBits s 0x300044 31 31 = 1 → domeIdle s = true → elapsed s s.chime.domeBusyAt (gapUs s) = true →
    vfValid s ≠ [] → vfNearest s = none → s.chime.recal = false →
    exec .maintenanceGap s = .next { s with chime := { s.chime with recal := true, recalAt := mtime s } }) ∧
  (∀ s : State, chmBits s 0x300044 31 31 = 0 ∨ domeIdle s = false ∨ elapsed s s.chime.domeBusyAt (gapUs s) = false ∨
      vfValid s = [] ∨ vfNearest s ≠ none ∨ s.chime.recal = true → exec .maintenanceGap s = .next s) ∧
  (∀ (s : State) (volt : Nat), Sound s = true → s.chime.recal = true →
    ∃ t temp, exec (.recalibrationDone volt) s = .next t ∧ t = { s with chime := t.chime, draws := t.draws } ∧
      t.chime.recal = false ∧ (s.chime.recalAt < 1280 * s.chime.began → temp = s.chime.temp ∧ t.draws = s.draws) ∧
      vfAt t (vfSlot s) = some { volt := volt + 20, load := s.chime.lastBusyLoad, temp := temp, taken := mtime s } ∧
      ∀ k, k ≠ vfSlot s → vfAt t k = vfAt s k) ∧
  (∀ (s : State) (volt : Nat), s.chime.recal = false → exec (.recalibrationDone volt) s = .next s) ∧
  ∀ (s : State) (b : Fin 16), Sound s = true →
    ∃ t, exec (.pathMonitorTrip b) s = .next t ∧ t.chime = { s.chime with stretchSeen := true } ∧
      (regGet t 0x300048).toNat = satAdd32 (regGet s 0x300048).toNat 1 ∧ Waits t 1 (0x200 + b.val) 0x09 ∧
      t.mem = s.mem ∧ ∀ o, o ≠ 0x300048 → regGet t o = regGet s o) ∧
  (∀ (s : State) (p : Fin 272), Sound s = true → chmBits s 0x300004 31 31 = 0 → slotIdle s p.val = true →
    elapsed s (slotBusyAt s p.val) (turretIdleUs s) = true →
    ∃ t, exec (.turretPowerGate p) s = .next t ∧ OnlyBelfry s t (p.val / 17) ∧ ∀ i, i < 17 →
      (belfry t (p.val / 17)).powered.testBit i =
        (decide (i ≠ p.val % 17) && (belfry s (p.val / 17)).powered.testBit i)) ∧
  (∀ (s : State) (p : Fin 272), chmBits s 0x300004 31 31 = 1 ∨ slotIdle s p.val = false ∨
      elapsed s (slotBusyAt s p.val) (turretIdleUs s) = false →
    exec (.turretPowerGate p) s = .next s) ∧
  (∀ (s : State) (b : Fin 16), Sound s = true → chmBits s 0x300004 31 31 = 0 → belfryQuiet s b.val = true →
    (belfry s b.val).powered = 0 → elapsed s (belfry s b.val).busyAt (pllIdleUs s) = true →
    ∃ t, exec (.belfryPllStop b) s = .next t ∧ OnlyBelfry s t b.val ∧
      belfry t b.val = { belfry s b.val with pllOn := false }) ∧
  (∀ (s : State) (b : Fin 16), chmBits s 0x300004 31 31 = 1 ∨ belfryQuiet s b.val = false ∨ (belfry s b.val).powered ≠ 0 ∨
      elapsed s (belfry s b.val).busyAt (pllIdleUs s) = false →
    exec (.belfryPllStop b) s = .next s) ∧
  (∀ (s : State) (b : Fin 16), Sound s = true → (belfry s b.val).fenced = false → s.dome.stopped = false → spireMode s = false →
    belfryQuiet s b.val = false →
    ∃ t, exec (.belfryWake b) s = .next t ∧ OnlyBelfry s t b.val ∧ (belfry t b.val).pllOn = true ∧ ∀ i, i < 17 →
      ((belfry t b.val).powered.testBit i = true ↔
        i ∉ (belfry s b.val).fencedSlots ∧ servesAs (belfry s b.val) i ≠ none)) ∧
  ∀ (s : State) (b : Fin 16), (belfry s b.val).fenced = true ∨ s.dome.stopped = true ∨ spireMode s = true ∨
    belfryQuiet s b.val = true → exec (.belfryWake b) s = .next s

/-- A retraining of a channel falls due now: PERIOD ms after its last training, or TEMP_STEP °C away from its temperature then
(spec/11 R278). -/
abbrev FallsDue (s : State) (ch : Nat) (temp : Int) : Prop :=
  elapsed s (channel s ch).lastTrained (1000 * (retrainCfg s ch).1) = true ∨
    (retrainCfg s ch).2 ≤ (temp - (channel s ch).trainTemp).natAbs

/-- Memory upkeep. A refresh delays and drops nothing; a channel idle for SR_IDLE sleeps, and a request wakes it, first to a
retraining that fell due; a retraining falls due by time or by temperature, waits for a gap or 20 ms, and at most one channel of a
Drum trains; its end leaves a tag, and the channel that must train before it serves is next. A good replay is recorded and forgets
the bad ones; the third bad one in a row aborts the op, whose write leaves the grain as it was. A bank's copy ends with zeros in its
lost words, but for bytes written since it began. The journal's next granule, once its burst starts, reaches its target and no other
byte changes (spec/08 R211, spec/11 R277, R278, R284 to R289;
log entry 131 on the link's ECC).
Completes: perBankRefresh, selfRefreshEntry, selfRefreshExit, retrainDue, channelRetrain, forcedRetrain, retrainComplete,
grainReplay, bankCopyDone, journalGranuleCopy. -/
def Obligations.MemoryUpkeep : Prop :=
  ((∀ (s : State) (c : Fin 128), Sound s = true →
    ∃ t, exec (.perBankRefresh c) s = .next t ∧ OnlyChannel s t c.val ∧
      channel t c.val = { channel s c.val with refreshes := (channel s c.val).refreshes + 1 }) ∧
  (∀ (s : State) (c : Fin 128), Sound s = true → srIdle s c.val ≠ 0 → channelWaits s c.val = false →
    channelIdle s c.val (srIdle s c.val) = true →
    ∃ t, exec (.selfRefreshEntry c) s = .next t ∧ OnlyChannel s t c.val ∧
      channel t c.val = { channel s c.val with selfRefresh := true }) ∧
  (∀ (s : State) (c : Fin 128), srIdle s c.val = 0 ∨ channelWaits s c.val = true ∨
      channelIdle s c.val (srIdle s c.val) = false → exec (.selfRefreshEntry c) s = .next s) ∧
  (∀ (s : State) (c : Fin 128), Sound s = true → (channel s c.val).selfRefresh = true →
    ∃ t, exec (.selfRefreshExit c) s = .next t ∧ OnlyChannel s t c.val ∧
      channel t c.val = { channel s c.val with
        selfRefresh := false, lastUse := some (mtime s), exiting := (channel s c.val).due,
        training := (channel s c.val).due && !drumTrains s c.val }) ∧
  (∀ (s : State) (c : Fin 128), (channel s c.val).selfRefresh = false → exec (.selfRefreshExit c) s = .next s) ∧
  (∀ (s : State) (c : Fin 128) (temp : Int), Sound s = true →
    ∃ t, exec (.retrainDue ⟨c, temp⟩) s = .next t ∧ OnlyChannel s t c.val ∧
      (FallsDue s c.val temp → (channel s c.val).due = false →
        channel t c.val = { channel s c.val with pkgTemp := temp, due := true, dueAt := mtime s }) ∧
      (¬FallsDue s c.val temp ∨ (channel s c.val).due = true →
        channel t c.val = { channel s c.val with pkgTemp := temp })) ∧
  (∀ (s : State) (c : Fin 128), Sound s = true → (channel s c.val).due = true → (channel s c.val).selfRefresh = false →
    (channel s c.val).ppr = false → (∀ i, i < 64 → (channel s (64 * (c.val / 64) + i)).training = false) →
    ∃ t, OnlyChannel s t c.val ∧ channel t c.val = { channel s c.val with training := true } ∧
      (channelIdle s c.val 1 = true → exec (.channelRetrain c) s = .next t) ∧
      (elapsed s (channel s c.val).dueAt 20000 = true → exec (.forcedRetrain c) s = .next t)) ∧
  (∀ (s : State) (c : Fin 128), (channel s c.val).due = false ∨ (channel s c.val).selfRefresh = true ∨
      (channel s c.val).ppr = true ∨ (∃ i, i < 64 ∧ (channel s (64 * (c.val / 64) + i)).training = true) →
    exec (.channelRetrain c) s = .next s ∧ exec (.forcedRetrain c) s = .next s) ∧
  (∀ (s : State) (c : Fin 128), channelIdle s c.val 1 = false → exec (.channelRetrain c) s = .next s) ∧
  (∀ (s : State) (c : Fin 128), elapsed s (channel s c.val).dueAt 20000 = false → exec (.forcedRetrain c) s = .next s) ∧
  (∀ (s : State) (c : Fin 128), Sound s = true → NoWork s → (channel s c.val).training = true →
    (∀ i, i < 64 → 64 * (c.val / 64) + i ≠ c.val → (channel s (64 * (c.val / 64) + i)).exiting = false) →
    ∃ t, exec (.retrainComplete c) s = .next t ∧ OnlyChannel s t c.val ∧ channel t c.val = { channel s c.val with
      training := false, due := false, exiting := false, lastTrained := mtime s, trainTemp := (channel s c.val).pkgTemp,
      tag := some (s.chime.load, s.chime.temp, mtime s, true) }) ∧
  (∀ (s : State) (c : Fin 128) (i : Nat), Sound s = true → NoWork s → (channel s c.val).training = true → i < 64 →
    64 * (c.val / 64) + i ≠ c.val →
    (∀ j, j < 64 → 64 * (c.val / 64) + j ≠ c.val → (channel s (64 * (c.val / 64) + j)).training = false) →
    (∀ j, j < i → 64 * (c.val / 64) + j ≠ c.val → (channel s (64 * (c.val / 64) + j)).exiting = false) →
    (channel s (64 * (c.val / 64) + i)).exiting = true → (channel s (64 * (c.val / 64) + i)).due = true →
    (channel s (64 * (c.val / 64) + i)).selfRefresh = false → (channel s (64 * (c.val / 64) + i)).ppr = false →
    ∃ t, exec (.retrainComplete c) s = .next t ∧ (channel t c.val).training = false ∧
      (channel t (64 * (c.val / 64) + i)).training = true ∧ t.mem = s.mem) ∧
  ∀ (s : State) (c : Fin 128), (channel s c.val).training = false → exec (.retrainComplete c) s = .next s) ∧
  ((∀ (s : State) (who : Accessor) (a row g : Nat) (ecc : Bool), Sound s = true → g = a / 64 * 64 →
    ∃ t, exec (.grainReplay who a row ⟨true, ecc⟩) s = .next t ∧ replayCount t who g = 0 ∧
      Waits t (unitOf s g).1 (unitOf s g).2 0x01 ∧
      (ecc = true → regionOf g = .lpddr → Waits t 3 (unitOf s g).2 0x04) ∧ t.ops = s.ops ∧ t.mem = s.mem ∧ t.host = s.host ∧
      ∀ c, unitOf s g = (3, c) → (regGet t (if c < 64 then 0xC00200 + 4 * c else 0xD00200 + 4 * (c - 64))).toNat =
        satAdd32 (regGet s (if c < 64 then 0xC00200 + 4 * c else 0xD00200 + 4 * (c - 64))).toNat 1) ∧
  (∀ (s : State) (who : Accessor) (a row g : Nat) (ecc : Bool), g = a / 64 * 64 → replayCount s who g < 2 →
    ∃ t, exec (.grainReplay who a row ⟨false, ecc⟩) s = .next t ∧ replayCount t who g = replayCount s who g + 1 ∧
      t = { s with mif := t.mif, flt := t.flt } ∧ (ecc = false ∨ regionOf g ≠ .lpddr → t.flt = s.flt) ∧
      (ecc = true → regionOf g = .lpddr → Waits t 3 (unitOf s g).2 0x04)) ∧
  (∀ (s : State) (who : Accessor) (a row g : Nat) (ecc : Bool), g = a / 64 * 64 → replayCount s who g = 2 →
    who = .remote ∨ who = .remoteWrite ∨ who = .journalRead ∨ who = .journalWrite ∨ who = .bar2Read ∨ who = .bar2Write →
    ∃ t, exec (.grainReplay who a row ⟨false, ecc⟩) s = .next t ∧ grainFailed t who g = true ∧
      t = { s with mif := t.mif, flt := t.flt } ∧ (ecc = false → t.flt = s.flt)) ∧
  ∀ (s : State) (o : Op) (wr ecc : Bool) (a row g : Nat), Sound s = true → OnlyOp s o → o.completed = false →
    (∀ b, o.body ≠ .stepCommit b) → g = a / 64 * 64 →
    replayCount s (if wr then .opWrite o.hdr.stream else .opRead o.hdr.stream) g = 2 →
    ∃ t, exec (.grainReplay (if wr then .opWrite o.hdr.stream else .opRead o.hdr.stream) a row ⟨false, ecc⟩) s = .next t ∧
      (o.isDone = false → Ended s t o .aborted) ∧ (o.isDone = true → t.ops = [{ o with phase := .done .aborted }]) ∧
      Waits t (unitOf s g).1 (unitOf s g).2 (if wr then 0x03 else 0x02) ∧
      (wr = false → natBits t.dome.health 0 0 = 1) ∧ t.regs = s.regs ∧
      replayCount t (if wr then .opWrite o.hdr.stream else .opRead o.hdr.stream) g = 0 ∧
      ∀ x, t.mem.get x = if wr = true ∧ x / 64 = g / 64 then
        ((o.before.reverse.find? fun c => c.1 == x).map (·.2)).getD (s.mem.get x) else s.mem.get x) ∧
  ((∀ (s : State) (die : Fin 4) (lost : List Nat) (c : Nat × Nat × Nat), Sound s = true → NoWork s →
    s.dome.heldWrites = [] → s.mif.bar2Waits = [] → s.fab.serving = [] →
    s.mif.copying.find? (fun x => x.1 == die.val) = some c →
    ∃ t, exec (.bankCopyDone die lost) s = .next t ∧
      t.mif = { s.mif with copying := s.mif.copying.erase c, copyWrites := t.mif.copyWrites } ∧
      (∀ x ∈ t.mif.copyWrites, x ∈ s.mif.copyWrites) ∧
      (∀ a, t.mem.get a = if (∃ w ∈ lost, a / 4 = w / 4) ∧ keptInCopy s a = false then 0 else s.mem.get a) ∧
      (lost ≠ [] → Waits t 2 (die.val * 0x100 + c.2.1) 0x02)) ∧
  ∀ (s : State) (die : Fin 4) (lost : List Nat), s.mif.copying.find? (fun x => x.1 == die.val) = none →
    exec (.bankCopyDone die lost) s = .next s) ∧
  ((∀ (s : State) (c : Nat × Byte) (j : List (Nat × Byte)) (rest : List (List (Nat × Byte))), Sound s = true → NoWork s →
    s.dome.journals = (c :: j) :: rest → DiesRun s → s.mif.copying = [] → s.mif.replays = [] →
    s.dome.heldWrites = [] →
    (payNow (touchRange s (c.1 / 64 * 64) 64) (rangeBursts s (c.1 / 64 * 64) 64)).isSome = true →
    ∃ t, exec .journalGranuleCopy s = .next t ∧ (∀ a, t.mem.get a = if a / 64 = c.1 / 64 then
        (((c :: j).find? fun x => x.1 == a).map (·.2)).getD (s.mem.get a) else s.mem.get a) ∧
      (∀ a, committedByte t a = committedByte s a) ∧
      t.dome.journals = (if (c :: j).all (fun x => x.1 / 64 == c.1 / 64) then rest
        else ((c :: j).filter fun x => x.1 / 64 != c.1 / 64) :: rest) ∧ t.regs = s.regs ∧ t.host = s.host) ∧
  ∀ s : State, s.dome.stopped = true ∨ s.mif.stoppedDies ≠ [] → exec .journalGranuleCopy s = .next s)

/-- Faults. Every occurrence waits at its unit as one record with a count; FAULT_RECORD counts the record in its bucket, logs it newest
first at its class, counts the class, and does what the class does: C3 halts the job, C4 stops the device's work, C5 seals it, a C2 of a
turret fences its slot and a C2 of a link disables it; a bucket's level leaks by 1 each time its W ÷ N has passed (spec/15 R371 to
R377, R380, Tables 15.4, 15.5, 15.9; log entries 35, 155).
Completes: faultRecord, bucketLeak, pllLockLost, unitSelfcheckFail, pcieLinkError. -/
def Obligations.Faults : Prop :=
  ((∀ (s : State) (die unit : Nat),
    ∃ t, exec (.pllLockLost die unit) s = .next t ∧ Raises s t die unit 0x0A 0) ∧
  (∀ (s : State) (die unit : Nat),
    ∃ t, exec (.unitSelfcheckFail die unit) s = .next t ∧ Raises s t die unit (if die = 0 ∧ unit = 0 then 0x48 else 0x08) 0) ∧
  ∀ (s : State) (fatal : Bool),
    ∃ t, exec (.pcieLinkError fatal) s = .next t ∧ Raises s t 0 1 (if fatal then 0x31 else 0x30) 0) ∧
  ((∀ (s : State) (src kind : Nat),
    ∃ t, exec (.bucketLeak src kind) s = .next t ∧ t = { s with flt := t.flt } ∧
      t.flt = { s.flt with buckets := t.flt.buckets } ∧ t.flt.buckets.length = s.flt.buckets.length ∧
      ∀ (i : Nat) (b : Bucket), s.flt.buckets[i]? = some b → t.flt.buckets[i]? =
        some (if sourceOf b.die b.unit = src ∧ b.kind = kind ∧ b.every ≠ 0 ∧ b.leakAt + b.every ≤ mtime s then
          { b with level := b.level - 1, leakAt := b.leakAt + b.every } else b))) ∧
  ((∀ (s : State) (die : Fin 6) (r : FaultRec) (cls : Nat), Sound s = true → NoWork s → Offers s die.val r cls →
    ∃ t, exec (.faultRecord die) s = .next t ∧ t.flt.log = ((r, cls) :: s.flt.log).take 4096 ∧
      t.flt.written = s.flt.written + 1 ∧
      (regGet t (0x200020 + 4 * cls)).toNat = satAdd32 (regGet s (0x200020 + 4 * cls)).toNat 1 ∧
      (2 ≤ cls → t.flt.alert = true ∧ t.flt.newest = some r) ∧
      (cls ≤ 1 → t.flt.undelivered = s.flt.undelivered.erase r ∧ t.flt.halted = s.flt.halted ∧ t.flt.fatal = s.flt.fatal ∧
        t.flt.sealed = s.flt.sealed ∧ t.mem = s.mem) ∧
      (cls = 3 → t.flt.halted = true ∧ natBits t.dome.health 0 0 = 1 ∧ t.flt.fatal = s.flt.fatal ∧ t.mem = s.mem) ∧
      (cls = 4 → (r.die, r.unit) ∈ t.flt.fatal ∧ t.flt.halted = true ∧ t.dome.stopped = true ∧
        (∀ d, 1 ≤ d ∧ d ≤ 6 → d ∈ t.mif.stoppedDies)) ∧
      (cls = 5 → t.flt.sealed = true ∧ t.dome.stopped = true ∧
        (∀ l, l < 96 → (link t l).st = .down ∨ (link t l).st = .disabled))) ∧
  (∀ (s : State) (o : Op) (die : Fin 6) (r : FaultRec), Sound s = true → OnlyOp s o → o.phase = .active → Offers s die.val r 3 →
    (∀ b, o.body ≠ .stepCommit b) → DiesRun s →
    ∃ t, exec (.faultRecord die) s = .next t ∧ t.flt.halted = true ∧ Ended s t o .aborted) ∧
  (∀ (s : State) (die : Fin 6) (r : FaultRec), Sound s = true → NoWork s → Offers s die.val r 2 → r.die = 1 → r.unit < 0x110 →
    r.unit % 17 ∉ (belfry s (r.unit / 17)).fencedSlots →
    ∃ t, exec (.faultRecord die) s = .next t ∧ r.unit % 17 ∈ (belfry t (r.unit / 17)).fencedSlots ∧
      (belfry t (r.unit / 17)).powered.testBit (r.unit % 17) = false) ∧
  (∀ (s : State) (die : Fin 6) (r : FaultRec), Sound s = true → NoWork s → Offers s die.val r 2 → r.die = 4 → r.unit < 96 →
    ∃ t, exec (.faultRecord die) s = .next t ∧
      regBits t (galBase (galleryOf r.unit) + 0x1000 + 16 * (r.unit % 48)) 31 31 = 0 ∧
      (link t r.unit).st = if (link s r.unit).st = .quarantined then .quarantined else .disabled) ∧
  ∀ (s : State) (die : Fin 6), NoWork s → (∀ x ∈ s.flt.undelivered, x.die ≠ die.val) →
    exec (.faultRecord die) s = .next s)

/-! ### Links, flits and packets -/

namespace Sys2Proof.Machine

/-- Every other link as it was. -/
abbrev OtherLinks (s t : State) (l : Nat) : Prop := ∀ k, k ≠ l → link t k = link s k

/-- The control flit a link sends now: no payload, the last good SEQ and the credits it owes (spec/12 Table 12.1). -/
def controlFlit (x : Link) (ftype : Nat) : List Byte :=
  flitBytes ftype 0 false false 0 (lastGood x) (owedCredits x).1 (owedCredits x).2 0 []

/-- A packet on an UP link that the router neither drops nor refuses (spec/12 R299, R300, R304, R312). -/
abbrev Carried (s : State) (l : Nat) (h : PktHdr) (kind : Nat) : Prop :=
  (link s l).st = .up ∧ s.fab.arrived = [] ∧ s.fab.loop = [] ∧ h.hops < 64 ∧ expired s h = false ∧
    (h.hops = 0 → h.src = (link s l).partnerChip) ∧ h.dst < 0x8000 ∧ kindKnown kind = true

/-- It is for this device. -/
abbrev AtHome (s : State) (l : Nat) (h : PktHdr) (kind : Nat) : Prop :=
  Carried s l h kind ∧ h.dst = ownChip s ∧ nextHop s (withKind h kind) (some (portOf s l)) = .here

/-- A new packet of a job class for this device: its job, a number not yet received, its flow's context resident or room for one,
nothing of the reverse flow waiting for acknowledgement (spec/12 R301, R302, R310). -/
abbrev NewHere (s : State) (l : Nat) (h : PktHdr) (kind : Nat) : Prop :=
  Sound s = true ∧ AtHome s l h kind ∧ h.job = jobId s ∧ jobId s ≠ 0 ∧ ownChip s < 0x4000 ∧ h.fseq < 2 ^ 32 ∧
    match flow s h.src (classOf kind) with
    | none => h.fseq < 1024 ∧ residents s < 12288
    | some f => f.base < 2 ^ 32 ∧ f.unacked = [] ∧ f.answers = [] ∧ f.spill = none ∧ seqPlace f h.fseq = .fresh

/-- What this device answers on job bulk goes to another chip, and finds room in either Gallery's packet store. -/
abbrev RoomBack (s : State) (chip : Nat) : Prop := chip < 0x8000 ∧ isSelf s chip = false ∧ ∀ g, g < 2 → storeUsed s g + 4128 ≤ 2 ^ 24

/-- It was taken: a second copy is a duplicate, and an acknowledgement is owed. -/
abbrev Taken1 (t : State) (h : PktHdr) (kind : Nat) : Prop :=
  ∃ f, flow t h.src (classOf kind) = some f ∧ f.ackOwed = true ∧ seqPlace f h.fseq = .duplicate

/-- A violation: counted in GAL_VIOL, and nothing done for the packet (spec/12 R312). -/
abbrev Violation (s t : State) (l : Nat) : Prop :=
  (regGet t (galBase (galleryOf l) + 0x60)).toNat = satAdd32 (regGet s (galBase (galleryOf l) + 0x60)).toNat 1 ∧
    t.mem = s.mem ∧ t.ops = s.ops ∧ t.dome = s.dome

/-- A packet of this device on its way to a chip: on a link, or waiting for one. -/
abbrev Leaves (t : State) (chip kind tag : Nat) (pay : Payload) : Prop :=
  ∃ p, ((∃ w ∈ t.fab.heldPkts, w.pkt = p) ∨ ∃ l, (some l, p) ∈ t.fab.sent) ∧ p.hdr.dst = chip ∧ p.hdr.kind = kind ∧ p.hdr.tag = tag ∧
    p.pay = pay

/-- This device's packets to a chip find a way out, now or later. -/
abbrev Reaches (s : State) (chip kind : Nat) : Prop :=
  chip < 0x8000 ∧ isSelf s chip = false ∧ nextHop s (mkHdr s chip kind 0 0 0 0) none ≠ .here ∧ nextHop s (mkHdr s chip kind 0 0 0 0) none ≠ .drop

/-- A packet is on its way out of port q, or waits there as it came. -/
abbrev GoesBy (t : State) (ingress : Option Nat) (q rf : Nat) (h : PktHdr) (p : Payload) : Prop :=
  { pkt := { hdr := h, pay := p }, ingress := ingress, port := some q } ∈ t.fab.heldPkts ∨
    ∃ k, (some k, { hdr := { h with rflags := rf }, pay := p }) ∈ t.fab.sent

/-- A write of n bytes at an offset starts: its bursts find tokens, and no grain of it has failed (spec/14 R358, spec/11 R287). -/
abbrev WriteStarts (s u : State) (a n : Nat) : Prop :=
  s.mif.replays = [] ∧ (payNow (touchRange u a n) (rangeBursts s a n)).isSome = true

/-- A stamp of the kt that runs: its keep time, at the root its machine time, in 1/16 kt (spec/12 R319; log entry 52). -/
abbrev StampNow (s : State) (t : Int) : Prop :=
  keep16 s + (if isRoot s then s.time.offset else 0) ≤ t ∧ t < keep16 s + (if isRoot s then s.time.offset else 0) + 16

/-- Nothing waits to go out: neither at a link nor at a port. -/
abbrev OutIdle (s : State) (l : Nat) : Prop := (link s l).txq = [] ∧ s.fab.heldPkts = []

end Sys2Proof.Machine

/-- Links. A DOWN link whose Gallery runs trains when signal comes; lock brings it to HELLO with a tag and a fresh nonce; no lock,
lost signal or an unfinished hello brings it DOWN, the third failed hello in a row to QUARANTINED; a question is answered; an
answer that passes brings the link UP with 128 credits a lane. FAILED links train again; credit silence retrains a link, or fails it
after three retrains, and a retraining that takes too long fails it (spec/12 R297, R298, R313 to R315, R436).
Completes: signalDetect, trainingLock, trainingTimeout, lossOfSignal, helloTimeout, failedLinkRetry, creditSilence,
linkRetrainTimeout, hello. -/
def Obligations.Links : Prop :=
  (∀ (s : State) (l : Fin 96), Sound s = true → (link s l.val).st = .down → canTrain s l.val = true →
    ∃ t, exec (.signalDetect l) s = .next t ∧ (link t l.val).st = .training ∧ OtherLinks s t l.val ∧ t.mem = s.mem) ∧
  (∀ (s : State) (l : Fin 96), (link s l.val).st ≠ .down ∨ canTrain s l.val = false → exec (.signalDetect l) s = .next s) ∧
  (∀ (s : State) (l : Fin 96), Sound s = true → (link s l.val).st = .training →
    ∃ t, exec (.trainingLock l) s = .next t ∧ (link t l.val).st = .hello ∧
      (link t l.val).tag = some (s.chime.load, s.chime.temp, mtime s, true) ∧ (link t l.val).expSeq = 0 ∧
      (link t l.val).nonce.length = 32 ∧ (link t l.val).answered = false ∧ (link t l.val).passed = false ∧
      OtherLinks s t l.val ∧ t.mem = s.mem) ∧
  (∀ (s : State) (l : Fin 96), (link s l.val).st ≠ .training →
    exec (.trainingLock l) s = .next s ∧ exec (.trainingTimeout l) s = .next s) ∧
  (∀ (s : State) (l : Fin 96), Sound s = true → (link s l.val).st = .training →
    ∃ t, exec (.trainingTimeout l) s = .next t ∧ (link t l.val).st = .down ∧ OtherLinks s t l.val ∧ t.mem = s.mem) ∧
  (∀ (s : State) (l : Fin 96), Sound s = true → NoWork s →
    (link s l.val).st = .up ∨ (link s l.val).st = .hello ∨ (link s l.val).st = .training →
    ∃ t, exec (.lossOfSignal l) s = .next t ∧ (link t l.val).st = .down ∧ t.mem = s.mem) ∧
  (∀ (s : State) (l : Fin 96), Sound s = true → NoWork s → (link s l.val).st = .hello →
    ∃ t, exec (.helloTimeout l) s = .next t ∧
      (link t l.val).st = (if (link s l.val).failedHellos < 2 then .down else .quarantined) ∧
      (link t l.val).failedHellos = (if (link s l.val).failedHellos < 2 then (link s l.val).failedHellos + 1 else 0) ∧
      Waits t 4 l.val 0x12 ∧ OtherLinks s t l.val ∧ t.mem = s.mem) ∧
  (∀ (s : State) (l : Fin 96) (h : PktHdr) (m : HelloMsg), Sound s = true → NoWork s → (link s l.val).st = .hello →
    s.fab.arrived = [] → s.fab.loop = [] → s.fab.heldPkts = [] → m.answer = false → (link s l.val).nonce ≠ [] →
    ∃ t, exec (.hello l h m) s = .next t ∧ (link t l.val).answered = true ∧ (link t l.val).peerNonce = m.nonce ∧
      (link t l.val).st = (if (link s l.val).passed then .up else .hello) ∧ OtherLinks s t l.val ∧ t.mem = s.mem) ∧
  (∀ (s : State) (l : Fin 96) (h : PktHdr) (m : HelloMsg), Sound s = true → NoWork s → (link s l.val).st = .hello →
    s.fab.arrived = [] → s.fab.loop = [] → s.fab.heldPkts = [] → m.answer = true → (link s l.val).nonce ≠ [] →
    (link s l.val).passed = false →
    ∃ t, exec (.hello l h m) s = .next t ∧ OtherLinks s t l.val ∧ t.mem = s.mem ∧
      (helloPasses s l.val m = true → (link t l.val).passed = true ∧ (link t l.val).partnerChip = m.chip ∧
        (link t l.val).partnerLink = m.link ∧
        (link t l.val).st = (if (link s l.val).answered then .up else .hello) ∧
        ((link s l.val).answered = true → (link t l.val).credits = List.replicate 8 128)) ∧
      (helloPasses s l.val m = false →
        (link t l.val).st = (if (link s l.val).failedHellos < 2 then .down else .quarantined))) ∧
  (∀ (s : State) (l : Fin 96), Sound s = true → (link s l.val).st = .failed → canTrain s l.val = true →
    ∃ t, exec (.failedLinkRetry l) s = .next t ∧ (link t l.val).st = .training ∧ OtherLinks s t l.val ∧ t.mem = s.mem) ∧
  (∀ (s : State) (l : Fin 96), Sound s = true → NoWork s → (link s l.val).retraining = true →
    ∃ t, exec (.linkRetrainTimeout l) s = .next t ∧ (link t l.val).st = .failed ∧ Waits t 4 l.val 0x11 ∧ t.mem = s.mem) ∧
  (∀ (s : State) (l : Fin 96), (link s l.val).retraining = false → exec (.linkRetrainTimeout l) s = .next s) ∧
  (∀ (s : State) (l : Fin 96) (v : Fin 8), Sound s = true → (link s l.val).st = .up →
    ((link s l.val).credits[v.val]?).getD 0 = 0 →
    (∃ f ∈ (link s l.val).txq, f.vl = v.val) ∨
      (∃ w ∈ s.fab.heldPkts, w.port = some (portOf s l.val) ∧ classOf w.pkt.hdr.kind = v.val / 2) →
    ∃ t, exec (.creditSilence l v) s = .next t ∧ t.mem = s.mem ∧
      (link t l.val).st = (if (link s l.val).failedRetrains < 3 then .training else .failed) ∧
      ((link s l.val).failedRetrains < 3 → (link t l.val).retrains = min 255 ((link s l.val).retrains + 1) ∧
        (link t l.val).failedRetrains = (link s l.val).failedRetrains + 1)) ∧
  ∀ (s : State) (l : Fin 96) (v : Fin 8), (link s l.val).st ≠ .up ∨ 0 < ((link s l.val).credits[v.val]?).getD 0 ∨
      ((∀ f ∈ (link s l.val).txq, f.vl ≠ v.val) ∧
        ∀ w ∈ s.fab.heldPkts, w.port ≠ some (portOf s l.val) ∨ classOf w.pkt.hdr.kind ≠ v.val / 2) →
    exec (.creditSilence l v) s = .next s

/-- Flits. A good DATA flit in order moves the expected SEQ on and, when it is a whole packet, hands its bytes to the router; any other,
and any flit that fails its CRC or its FEC, is dropped, with one NAK until the replay comes. An IDLE flit's ACK releases copies, its
credits are added, to at most 128, and a flit that waited for one goes out with a copy kept. A NAK, and 10 µs without progress, send every copy after the acknowledged ones again and record it; the acknowledgement timer sends an
IDLE flit with the last good SEQ (spec/12 R295, R297, R298, Table 12.1).
Completes: dataFlit, idleFlit, nakFlit, nakRepeat, retryTimeout, linkAckTimer. -/
def Obligations.Flits : Prop :=
  (∀ (s : State) (l : Fin 96) (f : List Byte), Sound s = true → linkCarries (link s l.val) = true →
    dataFlitOk (link s l.val) f true = true → OutIdle s l.val →
    ∃ t, exec (.dataFlit l f true) s = .next t ∧ (link t l.val).expSeq = ((link s l.val).expSeq + 1) % 4096 ∧
      (link t l.val).nak = false ∧
      (link t l.val).unacked = (if (link s l.val).unacked < 15 then (link s l.val).unacked + 1 else 0) ∧
      (natBits (flitWord f) 56 56 = 1 → natBits (flitWord f) 55 55 = 1 →
        t.fab.arrived = s.fab.arrived ++ [(l.val, (f.drop 8).take (natBits (flitWord f) 7 0))]) ∧
      (natBits (flitWord f) 55 55 = 0 → t.fab.arrived = s.fab.arrived) ∧ OtherLinks s t l.val ∧ t.mem = s.mem) ∧
  (∀ (s : State) (l : Fin 96) (f : List Byte) (fec : Bool), Sound s = true → linkCarries (link s l.val) = true →
    dataFlitOk (link s l.val) f fec = false →
    ∃ t, exec (.dataFlit l f fec) s = .next t ∧ (link t l.val).nak = true ∧
      (link t l.val).expSeq = (link s l.val).expSeq ∧ t.fab.arrived = s.fab.arrived ∧
      (link t l.val).sent = (link s l.val).sent ++ (if (link s l.val).nak then [] else [controlFlit (link s l.val) 2]) ∧
      OtherLinks s t l.val ∧ t.mem = s.mem) ∧
  (∀ (s : State) (l : Fin 96) (f : List Byte), Sound s = true → linkCarries (link s l.val) = true → flitCrcOk f = true →
    natBits (flitWord f) 63 60 = 0 → OutIdle s l.val →
    ∃ t, exec (.idleFlit l ⟨f, true⟩) s = .next t ∧
      (link t l.val).retry = (link s l.val).retry.drop (ackCovers (link s l.val) (natBits (flitWord f) 42 31)) ∧
      (link t l.val).credits = replaceAt (link s l.val).credits (natBits (flitWord f) 30 28)
        (min 128 (((link s l.val).credits[natBits (flitWord f) 30 28]?).getD 0 + natBits (flitWord f) 27 20)) ∧
      (link t l.val).sent = (link s l.val).sent ∧ OtherLinks s t l.val ∧ t.mem = s.mem) ∧
  (∀ (s : State) (l : Fin 96) (f : List Byte) (q : TxFlit), Sound s = true → linkCarries (link s l.val) = true →
    flitCrcOk f = true → natBits (flitWord f) 63 60 = 0 → s.fab.heldPkts = [] → (link s l.val).txq = [q] → q.vl < 8 →
    (link s l.val).retry.length < 256 → (link s l.val).credits.length = 8 →
    ∃ t, exec (.idleFlit l ⟨f, true⟩) s = .next t ∧ OtherLinks s t l.val ∧ t.mem = s.mem ∧
      (natBits (flitWord f) 30 28 = q.vl → 0 < natBits (flitWord f) 27 20 →
        ∃ b, (link t l.val).txq = [] ∧ (link t l.val).sent = (link s l.val).sent ++ [b] ∧
          (link t l.val).retry = (link s l.val).retry.drop (ackCovers (link s l.val) (natBits (flitWord f) 42 31)) ++
            [(q.held, b)] ∧ (link t l.val).sendSeq = ((link s l.val).sendSeq + 1) % 4096 ∧
          ((link t l.val).credits[q.vl]?).getD 0 =
            min 128 (((link s l.val).credits[q.vl]?).getD 0 + natBits (flitWord f) 27 20) - 1) ∧
      (natBits (flitWord f) 30 28 ≠ q.vl → ((link s l.val).credits[q.vl]?).getD 0 = 0 →
        (link t l.val).txq = [q] ∧ (link t l.val).sent = (link s l.val).sent)) ∧
  (∀ (s : State) (l : Fin 96) (f : List Byte) (fec : Bool), Sound s = true → linkCarries (link s l.val) = true →
    fec = false ∨ flitCrcOk f = false →
    ∃ t, exec (.idleFlit l ⟨f, fec⟩) s = .next t ∧ exec (.nakFlit l ⟨f, fec⟩) s = .next t ∧ (link t l.val).nak = true ∧
      (link t l.val).retry = (link s l.val).retry ∧ (link t l.val).credits = (link s l.val).credits ∧
      (link t l.val).sent = (link s l.val).sent ++ (if (link s l.val).nak then [] else [controlFlit (link s l.val) 2]) ∧
      OtherLinks s t l.val ∧ t.mem = s.mem) ∧
  (∀ (s : State) (l : Fin 96) (f : List Byte) (fec : Bool), linkCarries (link s l.val) = false →
    exec (.idleFlit l ⟨f, fec⟩) s = .next s ∧ exec (.nakFlit l ⟨f, fec⟩) s = .next s) ∧
  (∀ (s : State) (l : Fin 96) (f : List Byte), Sound s = true → linkCarries (link s l.val) = true → flitCrcOk f = true →
    natBits (flitWord f) 63 60 = 2 → (link s l.val).stuckReplays < 7 → OutIdle s l.val →
    ∃ t, exec (.nakFlit l ⟨f, true⟩) s = .next t ∧
      (link t l.val).retry = (link s l.val).retry.drop (ackCovers (link s l.val) (natBits (flitWord f) 42 31)) ∧
      (link t l.val).sent = (link s l.val).sent ++ (link t l.val).retry.map (·.2) ∧
      (link t l.val).replays = min 65535 ((link s l.val).replays + 1) ∧ Waits t 4 l.val 0x10 ∧ OtherLinks s t l.val ∧
      t.mem = s.mem) ∧
  (∀ (s : State) (l : Fin 96), Sound s = true → linkCarries (link s l.val) = true → (link s l.val).nak = true →
    ∃ t, exec (.nakRepeat l) s = .next t ∧ (link t l.val).sent = (link s l.val).sent ++ [controlFlit (link s l.val) 2] ∧
      (link t l.val).nak = true ∧ OtherLinks s t l.val ∧ t.mem = s.mem) ∧
  (∀ (s : State) (l : Fin 96), (link s l.val).nak = false → exec (.nakRepeat l) s = .next s) ∧
  (∀ (s : State) (l : Fin 96), Sound s = true → linkCarries (link s l.val) = true → (link s l.val).retry ≠ [] →
    (link s l.val).failedRetrains < 3 →
    ∃ t, exec (.retryTimeout l) s = .next t ∧ Waits t 4 l.val 0x10 ∧ t.mem = s.mem ∧
      ((link s l.val).stuckReplays < 7 → (link t l.val).st = (link s l.val).st ∧
        (link t l.val).retry = (link s l.val).retry ∧
        (link t l.val).sent = (link s l.val).sent ++ (link s l.val).retry.map (·.2)) ∧
      (7 ≤ (link s l.val).stuckReplays → (link t l.val).st = .training)) ∧
  (∀ (s : State) (l : Fin 96), (link s l.val).retry = [] → exec (.retryTimeout l) s = .next s) ∧
  (∀ (s : State) (l : Fin 96), Sound s = true → linkCarries (link s l.val) = true → 0 < (link s l.val).unacked →
    ∃ t, exec (.linkAckTimer l) s = .next t ∧ (link t l.val).unacked = 0 ∧
      (link t l.val).sent = (link s l.val).sent ++ [controlFlit (link s l.val) 0] ∧ OtherLinks s t l.val ∧ t.mem = s.mem) ∧
  ∀ (s : State) (l : Fin 96), (link s l.val).unacked = 0 → (owedCredits (link s l.val)).2 = 0 →
    exec (.linkAckTimer l) s = .next s

/-- Packets for this device. A packet for another chip is passed on, and one that is too old or has passed 64 routers is dropped and
counted; an unknown kind is a violation. A READ is answered row by row; a reply serves the op that asked, and one that nobody awaits
is counted late; a WRITE and an ATOMIC change exactly their bytes through a window, and are violations without one; a published
slice is written into the slot claimed for its step, refused, or held back while none is free; a listed manager reads and writes
registers (spec/06 R150, R151, spec/09 R246, spec/12 R299, R300, R305, R310 to R312, spec/13 R342, R345).
Completes: packetForward, packetKindReserved, read, readReply, write, publicationReceive, atomic, mgmt, mgmtReply. -/
def Obligations.RemoteAccess : Prop :=
  ((∀ (s : State) (l : Fin 96) (h : PktHdr) (p : Payload) (kind q rf : Nat), Sound s = true → NoWork s →
    kind = (kindOf p).getD h.kind → kindOf p ≠ some 0x10 → Carried s l.val h kind →
    nextHop s (withKind h kind) (some (portOf s l.val)) = .out q rf →
    ∃ t, exec (.packetForward (some l) h p) s = .next t ∧
      GoesBy t (some l.val) q rf { h with kind := kind, hops := h.hops + 1 } p ∧ t.mem = s.mem ∧ t.regs = s.regs ∧
      t.host = s.host) ∧
  (∀ (s : State) (h : PktHdr) (p : Payload) (q rf : Nat), h.dst < 0x8000 → isSelf s h.dst = false → s.fab.loop = [] →
    expired s h = false → nextHop s (withKind h ((kindOf p).getD h.kind)) none = .out q rf →
    ∃ t, exec (.packetForward none h p) s = .next t ∧ GoesBy t none q rf { h with kind := (kindOf p).getD h.kind } p ∧
      t.mem = s.mem ∧ t.regs = s.regs) ∧
  (∀ (s : State) (l : Fin 96) (h : PktHdr) (p : Payload), Sound s = true → NoWork s → kindOf p ≠ some 0x10 →
    (link s l.val).st = .up → s.fab.arrived = [] → s.fab.loop = [] → 64 ≤ h.hops ∨ expired s h = true →
    exec (.packetForward (some l) h p) s = .next (countDrop s (some l.val))) ∧
  (∀ (s : State) (l : Fin 96) (h : PktHdr), Sound s = true → NoWork s → kindKnown h.kind = false → (link s l.val).st = .up →
    s.fab.arrived = [] → s.fab.loop = [] → h.hops < 64 → expired s h = false →
    ∃ t, exec (.packetKindReserved l h) s = .next t ∧ Violation s t l.val) ∧
  ∀ (s : State) (l : Fin 96) (h : PktHdr), kindKnown h.kind = true → exec (.packetKindReserved l h) s = .next s) ∧
  ((∀ (s : State) (l : Fin 96) (h : PktHdr) (rows : List RowReq), NoWork s → NewHere s l.val h 1 → s.mif.replays = [] →
    s.fab.serving = [] → (∀ r ∈ rows, rangeStopped s r.off r.bytes = false) → (payAll s (serveBursts s h.job rows)).2 = [] →
    rowsCopy s rows = false → RoomBack s h.src →
    ∃ t, exec (.read l h rows) s = .next t ∧ Taken1 t h 1 ∧ t.mem = s.mem ∧
      ((∀ r ∈ rows, rowCode s h.job r ≠ 1) → t.host = s.host) ∧
      ((∃ r ∈ rows, rowCode s h.job r = 1) → (regGet t (galBase (galleryOf l.val) + 0x60)).toNat =
        satAdd32 (regGet s (galBase (galleryOf l.val) + 0x60)).toNat 1) ∧
      Sends t h.src 2 2 h.offset (.readReply (rows.map fun r =>
        { code := rowCode s h.job r, bytes := if rowCode s h.job r = 0 then remoteBytes s r else [] }))) ∧
  (∀ (s : State) (l : Fin 96) (h : PktHdr) (rows : List RowReq), NoWork s → NewHere s l.val h 1 → s.fab.serving = [] →
    (∀ r ∈ rows, rangeStopped s r.off r.bytes = false) → (payAll s (serveBursts s h.job rows)).2 ≠ [] ∨ rowsCopy s rows = true →
    ∃ t, exec (.read l h rows) s = .next t ∧ Taken1 t h 1 ∧ t.mem = s.mem ∧ t.host = s.host ∧ t.regs = s.regs ∧
      t.fab.serving = [{ link := l.val, hdr := withKind h 1, rows := rows, owed := (payAll s (serveBursts s h.job rows)).2 }]) ∧
  (∀ (s : State) (l : Fin 96) (h : PktHdr) (bs : List Byte) (o : Op) (b : CopyBody) (tm : Nat), OnlyOp s o →
    NewHere s l.val h 2 → o.phase = .active → o.asked = 1 → o.owed = [] → o.body = .copy b → o.work ≠ .slices 1 → absent b.cmp = true → 0 < b.bytes →
    b.bytes ≤ 4096 → isLocal s b.src = false → isLocal s b.dst = true → addrChip b.src = h.src →
    destStatus s h.src = none → o.rowBuf = [] → o.hdr.txn = 0 → InPlace s [(b.dst, b.bytes)] → bs.length = b.bytes →
    o.reqs = [{ tag := h.tag, await := .rows h.src noTurret h.src [{ off := addrOff b.src, bytes := b.bytes }], start := tm }] →
    ∃ t p, exec (.readReply l h [{ code := 0, bytes := bs }]) s = .next t ∧ Taken1 t h 2 ∧ t.ops = [p] ∧ p.id = o.id ∧
      p.phase = .done .ok ∧ t.mem.getBytes (addrOff b.dst) b.bytes = bs ∧ MemFrame s t (addrOff b.dst) b.bytes ∧
      t.regs = s.regs) ∧
  ∀ (s : State) (l : Fin 96) (h : PktHdr) (rows : List RowReply), NoWork s → NewHere s l.val h 2 → h.tag < s.fab.nextTag →
    ∃ t, exec (.readReply l h rows) s = .next t ∧ Taken1 t h 2 ∧ t.mem = s.mem ∧
      (regGet t 0x100020).toNat = satAdd32 (regGet s 0x100020).toNat 1) ∧
  ((∀ (s : State) (l : Fin 96) (h : PktHdr) (bs : List Byte), NoWork s → NewHere s l.val h 3 → h.offset < 2 ^ 48 →
    remoteWriteBad s h.job permWrite h.offset bs.length = false → rangeStopped s h.offset bs.length = false →
    h.offset ≠ lanBase + partBase s 0 * 2 ^ 20 → WriteStarts s s h.offset bs.length → InPlace s [(h.offset, bs.length)] →
    ∃ t, exec (.write l h bs) s = .next t ∧ Taken1 t h 3 ∧ t.mem.getBytes h.offset bs.length = bs ∧
      MemFrame s t h.offset bs.length ∧ t.regs = s.regs ∧ t.host = s.host) ∧
  (∀ (s : State) (l : Fin 96) (h : PktHdr) (sop v : Nat), NoWork s → NewHere s l.val h 4 → h.offset < 2 ^ 48 → sop ≤ 1 →
    h.offset % 8 = 0 → remoteWriteBad s h.job permAtomic h.offset 8 = false → rangeStopped s h.offset 8 = false →
    WriteStarts s s h.offset 8 → InPlace s [(h.offset, 8)] →
    ∃ t, exec (.atomic l h sop v) s = .next t ∧ Taken1 t h 4 ∧ MemFrame s t h.offset 8 ∧ t.regs = s.regs ∧
      t.mem.getBytes h.offset 8 = leBytes 8 (if sop = 1 then memNat s h.offset 8 + v else v)) ∧
  ∀ (s : State) (l : Fin 96) (h : PktHdr) (bs : List Byte) (sop v : Nat), NoWork s → NewHere s l.val h 3 → NewHere s l.val h 4 →
    admitted s h.job permWrite h.offset bs.length = false → admitted s h.job permAtomic h.offset 8 = false →
    ∃ t u, exec (.write l h bs) s = .next t ∧ Violation s t l.val ∧ exec (.atomic l h sop v) s = .next u ∧
      Violation s u l.val) ∧
  ((∀ (s u : State) (l : Fin 96) (h : PktHdr) (slice step size off : Nat) (bs : List Byte), NoWork s → NewHere s l.val h 3 →
    publicationOk s slice step size off bs.length = true → claimSlot s slice step = some u →
    admitted s h.job permWrite (slotAddr u slice ((shadowSlot u slice step).getD 0) + off) bs.length = true →
    rangeStopped s (slotAddr u slice ((shadowSlot u slice step).getD 0) + off) bs.length = false →
    WriteStarts s u (slotAddr u slice ((shadowSlot u slice step).getD 0) + off) bs.length →
    InPlace u [(slotAddr u slice ((shadowSlot u slice step).getD 0) + off, bs.length)] →
    ∃ t, exec (.publicationReceive l h slice step size off bs) s = .next t ∧ Taken1 t h 3 ∧
      t.mem = u.mem.putBytes (slotAddr u slice ((shadowSlot u slice step).getD 0) + off) bs ∧ t.regs = s.regs) ∧
  (∀ (s : State) (l : Fin 96) (h : PktHdr) (slice step size off : Nat) (bs : List Byte), NoWork s → NewHere s l.val h 3 →
    publicationOk s slice step size off bs.length = false → RoomBack s h.src →
    ∃ t f, exec (.publicationReceive l h slice step size off bs) s = .next t ∧ t.mem = s.mem ∧
      Sends t h.src 2 2 h.offset (.readReply [{ code := 1, bytes := [] }]) ∧ flow t h.src 2 = some f ∧
      seqPlace f h.fseq = .fresh ∧ ∃ a ∈ f.answers, a.1 = h.fseq) ∧
  ∀ (s : State) (l : Fin 96) (h : PktHdr) (slice step size off : Nat) (bs : List Byte), NewHere s l.val h 3 →
    publicationOk s slice step size off bs.length = true → claimSlot s slice step = none →
    ∃ t f, exec (.publicationReceive l h slice step size off bs) s = .next t ∧ t = { s with fab := t.fab } ∧
      t.fab.arrived = s.fab.arrived ∧ t.fab.links = s.fab.links ∧ t.fab.sent = s.fab.sent ∧ flow t h.src 2 = some f ∧
      seqPlace f h.fseq = .fresh) ∧
  ((∀ (s u : State) (l : Fin 96) (h : PktHdr) (m : MgmtMsg), Sound s = true → AtHome s l.val h 0x12 →
    mgmtListed s h.src = true → u = (if m.write then writeReg s m.off m.value else s) → NoWork u → u.fab.loop = [] →
    Reaches u h.src 0x13 →
    ∃ t, exec (.mgmt l h m) s = .next t ∧ Leaves t h.src 0x13 h.tag (.mgmtReply (shownReg u m.off)) ∧ t.regs = u.regs ∧
      t.mem = u.mem) ∧
  (∀ (s : State) (l : Fin 96) (h : PktHdr) (m : MgmtMsg), Sound s = true → NoWork s → AtHome s l.val h 0x12 →
    mgmtListed s h.src = false → ∃ t, exec (.mgmt l h m) s = .next t ∧ Violation s t l.val) ∧
  (∀ (s : State) (l : Fin 96) (h : PktHdr) (v : Word), NoWork s → AtHome s l.val h 0x13 → h.tag ∈ s.fab.mgmtTags →
    ∃ t, exec (.mgmtReply l h v) s = .next t ∧ t = { s with fab := { s.fab with mgmtTags := t.fab.mgmtTags } } ∧
      ∀ x, x ∈ t.fab.mgmtTags ↔ x ∈ s.fab.mgmtTags ∧ x ≠ h.tag) ∧
  ∀ (s : State) (l : Fin 96) (h : PktHdr) (v : Word), Sound s = true → NoWork s → AtHome s l.val h 0x13 →
    h.tag ∉ s.fab.mgmtTags → ∃ t, exec (.mgmtReply l h v) s = .next t ∧ Violation s t l.val)

/-- Flows and time. An acknowledgement releases exactly the packets it covers; a packet unacknowledged is sent again with one more
try, and at the ninth its flow fails and every op waiting on it ends TIMEOUT; received packets are acknowledged, a refused
publication with its answer, and a spilled context comes back. A time request is answered with both stamps; a device with no job asks
a neighbour and aligns to the answer; a leader spreads what it
computed; a follower takes offset and rate, which end STALE; 100 ms without an exchange set it (spec/12 R301, R302, R319, R320).
Completes: e2eAck, timeSync, flowRetransmit, flowAckTimer, flowContextFill, timeSyncInterval, timeStale. -/
def Obligations.FlowsAndTime : Prop :=
  ((∀ (s : State) (l : Fin 96) (h : PktHdr) (bm : List Byte) (f : Flow), NoWork s → NewHere s l.val h 8 →
    h.tag = 1 ∨ h.tag = 2 → flow s h.src h.tag = some f → f.spill = none → s.fab.heldPkts = [] →
    (∀ g, flow s h.src 2 = some g → g.answers = []) →
    ∃ t, exec (.e2eAck l h bm) s = .next t ∧ t.mem = s.mem ∧ t.regs = s.regs ∧
      flow t h.src h.tag = some { f with unacked := f.unacked.filter fun u =>
        !(seqBelow u.pkt.hdr.fseq h.pack || (decide ((u.pkt.hdr.fseq + 2 ^ 32 - h.pack % 2 ^ 32) % 2 ^ 32 < 1024) &&
          mapBit bm ((u.pkt.hdr.fseq + 2 ^ 32 - h.pack % 2 ^ 32) % 2 ^ 32))) }) ∧
  (∀ (s : State) (l : Fin 96) (h : PktHdr) (bm : List Byte) (f : Flow) (u : Unacked) (n : Nat), NoWork s → NewHere s l.val h 8 →
    h.tag = 2 → flow s h.src 2 = some f → f.spill = none → s.fab.heldPkts = [] → f.unacked = [u] →
    seqBelow u.pkt.hdr.fseq h.pack = true → f.answers = [(n, u.pkt.hdr.fseq)] → n < 2 ^ 32 → f.base < 2 ^ 32 →
    seqPlace f n = .fresh →
    ∃ t g, exec (.e2eAck l h bm) s = .next t ∧ flow t h.src 2 = some g ∧ g.unacked = [] ∧ g.answers = [] ∧
      seqPlace g n = .duplicate ∧ g.ackOwed = true ∧ t.mem = s.mem) ∧
  (∀ (s : State) (chip n : Nat) (c : Fin 3) (f : Flow) (u : Unacked), flow s chip c.val = some f → f.spill = none →
    u ∈ f.unacked → u.pkt.hdr.fseq = n → (∀ v ∈ f.unacked, v.pkt.hdr.fseq = n → v = u) → u.tries < 8 →
    copyWaits s chip c.val n = false →
    ∃ t g v, exec (.flowRetransmit chip c n) s = .next t ∧ flow t chip c.val = some g ∧ v ∈ g.unacked ∧
      v.tries = u.tries + 1 ∧ v.pkt.pay = ackPay s u.pkt.hdr u.pkt.pay ∧ (u.pkt.hdr.kind ≠ 8 → v.pkt.pay = u.pkt.pay) ∧
      v.pkt.hdr.fseq = n ∧ v.pkt.hdr.stamp = stampNow s ∧
      g.unacked.length = f.unacked.length ∧ t.mem = s.mem) ∧
  (∀ (s : State) (chip n : Nat) (c : Fin 3) (f : Flow), flow s chip c.val = some f → f.spill = none →
    copyWaits s chip c.val n = true ∨ (∀ u ∈ f.unacked, u.pkt.hdr.fseq ≠ n) →
    exec (.flowRetransmit chip c n) s = .next s) ∧
  (∀ (s : State) (chip n : Nat) (c : Fin 3) (f : Flow) (u : Unacked) (o : Op), OnlyOp s o → o.phase = .active →
    (∀ b, o.body ≠ .reduceGrad b) → (∀ b, o.body ≠ .stepCommit b) → waitsOnFlow o chip c.val = true → flow s chip c.val = some f → f.spill = none →
    u ∈ f.unacked → u.pkt.hdr.fseq = n → (∀ v ∈ f.unacked, v.pkt.hdr.fseq = n → v = u) → 8 ≤ u.tries →
    copyWaits s chip c.val n = false →
    ∃ t, exec (.flowRetransmit chip c n) s = .next t ∧ flow t chip c.val = some { f with unacked := [] } ∧
      Ended s t o .timeout ∧ (Waits t 4 0x300 0x14 ∨ Waits t 4 0x301 0x14) ∧ t.mem = s.mem ∧ t.regs = s.regs) ∧
  (∀ (s : State) (chip n : Nat) (c : Fin 3), flow s chip c.val = none → exec (.flowRetransmit chip c n) s = .next s ∧
    exec (.flowAckTimer chip c) s = .next s ∧ exec (.flowContextFill chip c) s = .next s) ∧
  (∀ (s : State) (chip : Nat) (c : Fin 3) (f : Flow), flow s chip c.val = some f → f.spill = none → f.ackOwed = true →
    RoomTo s chip 0 1 → Reaches s chip 8 →
    ∃ t g, exec (.flowAckTimer chip c) s = .next t ∧ Sends t chip 0 8 0 (.e2eAck (windowBitmap f)) ∧
      Leaves t chip 8 c.val (.e2eAck (windowBitmap f)) ∧ flow t chip c.val = some g ∧ g.base = f.base ∧ g.got = f.got ∧
      (t.fab.sent = s.fab.sent → g.ackOwed = true) ∧ (t.fab.sent ≠ s.fab.sent → g.ackOwed = false) ∧ t.mem = s.mem ∧
      t.regs = s.regs) ∧
  (∀ (s : State) (chip : Nat) (c : Fin 3) (f : Flow), flow s chip c.val = some f → f.spill = none → f.ackOwed = false →
    exec (.flowAckTimer chip c) s = .next s) ∧
  (∀ (s : State) (chip : Nat) (c : Fin 3) (f : Flow), flow s chip c.val = some f → f.spill.isSome = true →
    residents s < 12288 → s.fab.heldPkts = [] →
    ∃ t, exec (.flowContextFill chip c) s = .next t ∧ flow t chip c.val = some { f with spill := none } ∧
      t.mem = s.mem ∧ t.fab.flows.length = s.fab.flows.length) ∧
  ∀ (s : State) (chip : Nat) (c : Fin 3) (f : Flow), flow s chip c.val = some f → f.spill = none →
    exec (.flowContextFill chip c) s = .next s) ∧
  ((∀ (s : State) (l : Fin 96) (h : PktHdr) (t1 : Int), NoWork s → AtHome s l.val h 0x11 → Reaches s h.src 0x11 →
    ∃ t t2 t3, exec (.timeSync l h (.request t1)) s = .next t ∧ t.time = s.time ∧ StampNow s t2 ∧ StampNow s t3 ∧ t2 ≤ t3 ∧
      Leaves t h.src 0x11 h.tag (.timeSync (.answer t1 t2 t3))) ∧
  (∀ (s : State) (l : Fin 96) (h : PktHdr) (t1 t2 t3 : Int), NoWork s → AtHome s l.val h 0x11 → isLeader s = false →
    jobId s = 0 →
    ∃ t t4, exec (.timeSync l h (.answer t1 t2 t3)) s = .next t ∧ StampNow s t4 ∧
      t = { s with time := { s.time with keep := ((keep16 s + syncOffset t1 t2 t3 t4) / 16).toNat }, chime := t.chime,
                   draws := t.draws } ∧ t.chime = { s.chime with began := mtime t / 1280 }) ∧
  (∀ (s : State) (l : Fin 96) (h : PktHdr) (t1 t2 t3 : Int), NoWork s → AtHome s l.val h 0x11 → isLeader s = true →
    isRoot s = false →
    ∃ t t4, exec (.timeSync l h (.answer t1 t2 t3)) s = .next t ∧ StampNow s t4 ∧ t.time.target = syncOffset t1 t2 t3 t4 ∧
      t.time.pathDelay = min 0xFFFF (syncDelay t1 t2 t3 t4).toNat ∧ t.time.stale = false ∧
      t.time.lastSync = s.time.keep ∧ t.mem = s.mem) ∧
  (∀ (s : State) (l : Fin 96) (h : PktHdr) (off : Int) (n d : Nat), NoWork s → AtHome s l.val h 0x11 → isLeader s = false →
    (∀ c ∈ s.time.leaders, h.src ≤ c) →
    ∃ t, exec (.timeSync l h (.apply off n d)) s = .next t ∧ t.time.target = off ∧ t.time.rateNum = n ∧
      t.time.rateDen = max 1 d ∧ t.time.stale = false ∧ t.time.lastSync = s.time.keep ∧
      t.time.offset = (if jobId s = 0 ∧ 16000 < (off - s.time.offset).natAbs then off else s.time.offset) ∧
      h.src ∈ t.time.leaders ∧ t.mem = s.mem) ∧
  (∀ s : State, isRoot s = true →
    ∃ t, exec .timeSyncInterval s = .next t ∧ t.time.target = 0 ∧ t.time.rateNum = 1 ∧ t.time.rateDen = 1 ∧
      t.time.stale = false ∧ t.mem = s.mem) ∧
  (∀ (s : State) (q : Nat), isLeader s = true → isRoot s = false → planeUp s = some q →
    ∃ t chip tag t1, exec .timeSyncInterval s = .next t ∧ StampNow s t1 ∧ Leaves t chip 0x11 tag (.timeSync (.request t1)) ∧
      t.time = s.time ∧ t.mem = s.mem ∧ t.regs = s.regs) ∧
  (∀ s : State, isLeader s = false → jobId s ≠ 0 ∨ s.time.leaders ≠ [] ∨ s.fin.ready = false →
    exec .timeSyncInterval s = .next s) ∧
  (∀ (s : State) (chip : Nat), isLeader s = false → jobId s = 0 → s.time.leaders = [] → s.fin.ready = true →
    chip = Config.freeNat s.draws % 32768 →
    ∃ t, exec .timeSyncInterval s = .next t ∧ t.time = s.time ∧ t.mem = s.mem ∧ t.fab.nextTag = s.fab.nextTag + 1 ∧
      (Reaches s chip 0x11 → ∃ t1, StampNow s t1 ∧ Leaves t chip 0x11 (s.fab.nextTag % 2 ^ 32) (.timeSync (.request t1)))) ∧
  (∀ s : State, s.time.stale = false → s.time.lastSync + 15625000 ≤ s.time.keep →
    ∃ t, exec .timeStale s = .next t ∧ t.time = { s.time with stale := true } ∧ Waits t 0 4 0x19 ∧ t.mem = s.mem) ∧
  ∀ s : State, s.time.stale = true ∨ s.time.keep < s.time.lastSync + 15625000 → exec .timeStale s = .next s)

/-! ### Reductions and steps -/

namespace Sys2Proof.Machine

/-- A collective packet for a tile of a good group record, whose step goes on here (spec/09 R237, Table 9.9); nothing of the tile waits
here. -/
abbrev CollHere (s : State) (l : Nat) (h : PktHdr) (c : CollHdr) (r : GroupRec) (g : GroupStep) (x : TileRed) : Prop :=
  NewHere s l h 6 ∧ h.offset < 2 ^ 48 ∧ admitted s h.job permReduce h.offset 64 = true ∧ rangeStopped s h.offset 64 = false ∧
    groupStatusBy s (heldSize s) (heldWindow s) (0xFFFF * 2 ^ 48 + h.offset) = none ∧ r = groupRec s h.offset ∧ c.group = r.group ∧ c.tile < r.tiles ∧
    groupStep s h.offset c.step = some g ∧ g.over = false ∧ x = g.tileAt c.tile ∧ x.tile = c.tile ∧ x.ready = true ∧
    x.acked = false ∧ x.final = false ∧ x.held = []

/-- The packet is of the tile's present pass and exponent. -/
abbrev OfPass (c : CollHdr) (x : TileRed) : Prop := c.pass = x.pass ∧ x.e = some c.e

/-- No contribution of this device is there yet. -/
abbrev NoneYet (r : GroupRec) (g : GroupStep) (t : Nat) : Prop :=
  g.contribs = [] ∧ g.final = none ∧ locallyComplete r g t = false

/-- The EXPs that an owner holds with this one. -/
def expsWith (x : TileRed) (src : Nat) (f : Int) : List (Nat × Int) := x.exps.filter (fun p => p.1 != src) ++ [(src, f)]

/-- A tile that is locally complete with nothing missed and nothing sent, at the first place of its chain. -/
abbrev FirstReady (s : State) (off step t : Nat) (r : GroupRec) (g : GroupStep) (x : TileRed) (e : Int) (q : List Int) : Prop :=
  groupStep s off step = some g ∧ r = groupRec s off ∧ x = g.tileAt t ∧ x.tile = t ∧ g.over = false ∧ g.final = none ∧
    x.ready = true ∧ x.final = false ∧ x.acked = false ∧ x.lost = false ∧ x.sent = false ∧ x.marker = false ∧ x.e = some e ∧
    locallyComplete r g t = true ∧ chainPlace s r t = 0 ∧ localPart s r g t e = some q

/-- Exactly one op in flight, a STEP_COMMIT that has got this far. -/
abbrev StepIs (s : State) (o : Op) (b : StepCommitBody) (w : Work) : Prop :=
  OnlyOp s o ∧ o.phase = .active ∧ o.body = .stepCommit b ∧ o.work = w

/-- What the gate samples: the health word, and HALTED as FATAL (spec/08 R218, spec/15 R377). -/
def gateCause (s : State) : Nat := s.dome.health ||| b2n s.flt.halted

/-- The status of a step whose gate failed with these causes and that has no group (spec/08 Table 8.5). -/
def badGate (causes : Nat) : Status :=
  if natBits causes 0 0 = 1 then .aborted else if natBits causes 1 1 = 1 then .nonfinite else .aborted

/-- A bit of this device or of a voter. -/
def voteBit (step : Nat) (commit good : Bool) (causes : Nat) : VoteMsg :=
  { step := step, commit := commit, result := false, good := good, causes := causes, flipTick := 0 }

/-- Nothing goes on by itself: no tile of an op that is over is queued at a belfry, and no op has a record in the host window still
to read. -/
abbrev NoDead (s : State) : Prop :=
  (∀ x ∈ s.dome.belfries, ∀ j ∈ x.2.immediate ++ x.2.deferred ++ x.2.unplaced, jobDead s j = false) ∧
    ∀ o ∈ s.ops, recMissing s o = none

/-- One op runs an UPDATE whose bursts have started, every other is a STEP_COMMIT under way, nothing waits at a ring, and no row is
replicated. -/
abbrev UpdateAmong (s : State) (o : Op) (b : UpdateBody) : Prop :=
  opByStream s o.hdr.stream = some o ∧ opById s o.id = some o ∧ o ∈ s.ops ∧ o.body = .update b ∧ o.phase = .active ∧ opReady o = true ∧
    pushReading s o = false ∧ s.dome.replicas = [] ∧
    s.fin.cmpReleasing = [] ∧ (∀ p ∈ s.ops, p = o ∨ (p.phase = .active ∧ p.isStepCommit = true)) ∧
    ∀ x ∈ s.hif.rings, x.2.held = []

/-- The new master words of an UPDATE. -/
def vaneMaster (x : VaneIn) (es : List VaneElem) : List Byte :=
  (es.mapIdx fun i e => match e.new with
    | some (w2, _, _) => leBytes 4 (encodeVal 0 w2)
    | none => (x.master.drop (4 * i)).take 4).flatten

/-- Where an UPDATE writes its master and moments, and what. -/
def vaneWrites (b : UpdateBody) (x : VaneIn) (es : List VaneElem) : List (Nat × List Byte) :=
  [(b.master, vaneMaster x es), (b.m, (momNew (momM b) b x.m es fun p => p.2.1).1),
    (b.v, (momNew (momV b) b x.v es fun p => p.2.2).1)]

/-- A device event in the next slot of its queue, with PHASE and LOST as that slot takes them (spec/13 Table 13.7). -/
def eventBytes (s : State) (q code : Nat) (st : Status) (pay : List Byte) : List Byte :=
  recHead code st.code (b2n ((eqGet s q).written / eqSize s q % 2 == 0) + 4 * b2n (eqGet s q).lost) 0xFFFF 0xFFFF (mtime s) ++
    (pay ++ List.replicate 16 0).take 16

end Sys2Proof.Machine

/-- Collectives. A REDUCE batch joins its exchange through a window. A newer RESTART starts a pass at its exponent and a newer PREPASS one
without; a DATA half and a marker of the present pass are kept, and one of another exponent is dropped and remembered; an ACK closes the
tile, and the last one ends the step's FINAL; at the owner a first MISS restarts the tile at the larger exponent, a second sends it to the
pre-pass form, and the last EXP restarts it at an exponent that no f exceeds. A tile that is locally complete goes to the next in
its chain, or, when this device is the whole ring, becomes its sum (spec/06 R156, spec/09 R237 to R243, R248).
Completes: reduce, collData, collMiss, collMarker, collRestart, collPrepass, collExp, collAck, tileLocallyComplete. -/
def Obligations.Collectives : Prop :=
  ((∀ (s : State) (l : Fin 96) (h : PktHdr) (b : ReduceBatch), NoWork s → NewHere s l.val h 5 →
    (∀ r ∈ (h.offset, 0) :: b.rows.map (fun r => (r.1, r.2.length)), admitted s h.job permReduce r.1 r.2 = true ∧
      rangeStopped s r.1 r.2 = false) →
    ∃ t, exec (.reduce l h b) s = .next t ∧ Taken1 t h 5 ∧ t.mem = s.mem ∧ t.regs = s.regs ∧
      (exchangeOf t b.exch).batches = (exchangeOf s b.exch).batches ++ [(h.src, b)] ∧
      ∀ k, k ≠ b.exch → exchangeOf t k = exchangeOf s k) ∧
  ∀ (s : State) (l : Fin 96) (h : PktHdr) (b : ReduceBatch), NoWork s → NewHere s l.val h 5 →
    admitted s h.job permReduce h.offset 0 = false → ∃ t, exec (.reduce l h b) s = .next t ∧ Violation s t l.val) ∧
  ((∀ (s : State) (l : Fin 96) (h : PktHdr) (c : CollHdr) (r : GroupRec) (g : GroupStep) (x : TileRed), NoWork s →
    CollHere s l.val h c r g x → NoneYet r g c.tile → x.pass < c.pass →
    (∃ t y, exec (.collRestart l h c) s = .next t ∧ Taken1 t h 6 ∧ y = tileRed t h.offset c.step c.tile ∧ y.pass = c.pass ∧
      y.e = some c.e ∧ y.marker = false ∧ y.half0 = none ∧ y.half1 = none ∧ y.sent = false ∧ y.exps = [] ∧ t.mem = s.mem ∧
      t.regs = s.regs) ∧
    ∃ t y, exec (.collPrepass l h c) s = .next t ∧ Taken1 t h 6 ∧ y = tileRed t h.offset c.step c.tile ∧ y.pass = c.pass ∧
      y.e = none ∧ y.prepass = true ∧ y.marker = false ∧ y.sent = false ∧ t.mem = s.mem ∧ t.regs = s.regs) ∧
  (∀ (s : State) (l : Fin 96) (h : PktHdr) (c : CollHdr) (r : GroupRec) (g : GroupStep) (x : TileRed) (sums : List Int),
    NoWork s → CollHere s l.val h c r g x → NoneYet r g c.tile → c.pass < x.pass →
    ∃ t u v w z, exec (.collRestart l h c) s = .next t ∧ tileRed t h.offset c.step c.tile = x ∧
      exec (.collPrepass l h c) s = .next u ∧ tileRed u h.offset c.step c.tile = x ∧
      exec (.collData l h c sums) s = .next v ∧ tileRed v h.offset c.step c.tile = x ∧
      exec (.collMarker l h c) s = .next w ∧ tileRed w h.offset c.step c.tile = x ∧
      exec (.collAck l h c) s = .next z ∧ tileRed z h.offset c.step c.tile = x) ∧
  (∀ (s : State) (l : Fin 96) (h : PktHdr) (c : CollHdr) (r : GroupRec) (g : GroupStep) (x : TileRed) (sums : List Int),
    NoWork s → CollHere s l.val h c r g x → x.pass < c.pass →
    ∃ t u, exec (.collData l h c sums) s = .next t ∧
      tileRed t h.offset c.step c.tile = { x with held := [{ src := h.src, kind := 1, hdr := c, sums := sums }] } ∧
      exec (.collAck l h c) s = .next u ∧
      tileRed u h.offset c.step c.tile = { x with held := [{ src := h.src, kind := 7, hdr := c, sums := [] }] }) ∧
  (∀ (s : State) (l : Fin 96) (h : PktHdr) (c : CollHdr) (r : GroupRec) (g : GroupStep) (x : TileRed) (sums : List Int),
    NoWork s → CollHere s l.val h c r g x → NoneYet r g c.tile → OfPass c x →
    ∃ t u, exec (.collData l h c sums) s = .next t ∧ Taken1 t h 6 ∧ t.mem = s.mem ∧
      tileRed t h.offset c.step c.tile = (if c.half = 0 then { x with half0 := some (sums, c.f) }
        else { x with half1 := some (sums, c.f) }) ∧
      exec (.collMarker l h c) s = .next u ∧ Taken1 u h 6 ∧ u.mem = s.mem ∧
      tileRed u h.offset c.step c.tile = { x with marker := true }) ∧
  (∀ (s : State) (l : Fin 96) (h : PktHdr) (c : CollHdr) (r : GroupRec) (g : GroupStep) (x : TileRed) (sums : List Int)
      (e : Int), NoWork s → CollHere s l.val h c r g x → NoneYet r g c.tile → c.pass = x.pass → x.e = some e → c.e ≠ e →
    ∃ t u v y z k, exec (.collData l h c sums) s = .next t ∧ groupStep t h.offset c.step = some y ∧ y.badPacket = true ∧
      y.tiles = g.tiles ∧ t.mem = s.mem ∧ exec (.collAck l h c) s = .next u ∧ groupStep u h.offset c.step = some z ∧
      z.badPacket = true ∧ z.tiles = g.tiles ∧ u.mem = s.mem ∧ exec (.collRestart l h c) s = .next v ∧
      groupStep v h.offset c.step = some k ∧ k.badPacket = true ∧ k.tiles = g.tiles ∧ v.mem = s.mem) ∧
  (∀ (s : State) (l : Fin 96) (h : PktHdr) (c : CollHdr) (r : GroupRec) (g : GroupStep) (x : TileRed), NoWork s →
    CollHere s l.val h c r g x → OfPass c x → g.final = none →
    ∃ t y, exec (.collAck l h c) s = .next t ∧ Taken1 t h 6 ∧ groupStep t h.offset c.step = some y ∧
      (y.tileAt c.tile).acked = true ∧ y.fMax = max g.fMax c.f ∧
      y.contribs = g.contribs.filter (fun d => d.elem / 1024 != c.tile) ∧
      y.copies = g.copies.filter (fun d => d.tile != c.tile) ∧ t.mem = s.mem ∧ t.regs = s.regs) ∧
  ∀ (s u : State) (l : Fin 96) (h : PktHdr) (c : CollHdr) (r : GroupRec) (g : GroupStep) (x : TileRed) (o : Op)
      (b : ReduceGradBody) (n a : Nat), OnlyOp s o → CollHere s l.val h c r g x → OfPass c x → o.phase = .active →
    o.body = .reduceGrad b → o.work = .reduce n → b.srcElems ≤ n → g.final = some o.id → r.tiles = 1 →
    ownedTiles s r = (a, a) → g.badPacket = false → g.excess = 0 → groupStep s h.offset (c.step + 1) = none →
    histEnter s o r.hist (max g.fMax c.f) = .done u →
    ∃ t p y, exec (.collAck l h c) s = .next t ∧ t.ops = [p] ∧ p.id = o.id ∧ p.phase = .done .ok ∧
      groupStep t h.offset c.step = some y ∧ y.finalDone = true ∧ y.contribs = [] ∧ y.copies = [] ∧
      t.mem = u.mem) ∧
  ((∀ (s : State) (l : Fin 96) (h : PktHdr) (c : CollHdr) (r : GroupRec) (g : GroupStep) (x : TileRed) (e : Int), NoWork s →
    CollHere s l.val h c r g x → NoneYet r g c.tile → ownerChip s r c.tile = ownChip s → c.pass = x.pass → x.e = some e →
    x.announced ≠ some x.pass → s.fab.flows.length + r.ndev < 12288 →
    regionOf (addrOff r.ring) ≠ .hostWindow → regionOf (addrOff r.own) ≠ .hostWindow →
    ∃ t y, exec (.collMiss l h c) s = .next t ∧ Taken1 t h 6 ∧ y = tileRed t h.offset c.step c.tile ∧
      y.misses = x.misses + 1 ∧ y.pass = x.pass + 1 ∧ y.e = (if x.misses = 0 then some (max e c.e) else none) ∧
      (x.misses ≠ 0 → y.prepass = true) ∧
      (regGet t 0x1000190).toNat = satAdd32 (regGet s 0x1000190).toNat 1 ∧
      t.mem = s.mem) ∧
  (∀ (s : State) (l : Fin 96) (h : PktHdr) (c : CollHdr) (r : GroupRec) (g : GroupStep) (x : TileRed), NoWork s →
    CollHere s l.val h c r g x → NoneYet r g c.tile → ownerChip s r c.tile = ownChip s → c.pass = x.pass → x.e = none →
    x.announced ≠ some x.pass → (expsWith x h.src c.f).length < r.ndev →
    ∃ t, exec (.collExp l h c) s = .next t ∧ Taken1 t h 6 ∧ t.mem = s.mem ∧
      tileRed t h.offset c.step c.tile = { x with exps := expsWith x h.src c.f }) ∧
  ∀ (s : State) (l : Fin 96) (h : PktHdr) (c : CollHdr) (r : GroupRec) (g : GroupStep) (x : TileRed), NoWork s →
    CollHere s l.val h c r g x → NoneYet r g c.tile → ownerChip s r c.tile = ownChip s → c.pass = x.pass → x.e = none →
    x.announced ≠ some x.pass → s.fab.flows.length + r.ndev < 12288 → r.ndev ≤ (expsWith x h.src c.f).length →
    ∃ t y e, exec (.collExp l h c) s = .next t ∧ y = tileRed t h.offset c.step c.tile ∧ y.pass = x.pass ∧ y.e = some e ∧
      (∀ p ∈ expsWith x h.src c.f, needExp r.width p.2 ≤ e) ∧
      t.mem = s.mem) ∧
  ((∀ (s : State) (off step i : Nat) (r : GroupRec) (g : GroupStep) (x : TileRed) (e : Int) (q : List Int), Sound s = true →
    NoWork s → FirstReady s off step i r g x e q → 2 ≤ r.ndev → isSelf s (chainChip (keepPartial s g i q) r i 1) = false →
    RoomTo s (chainChip (keepPartial s g i q) r i 1) 1 2 →
    ∃ t, exec (.tileLocallyComplete off i step) s = .next t ∧ (tileRed t off step i).sent = true ∧
      t.mem = (keepPartial s g i q).mem ∧ ∀ k, k < 2 → Sends t (chainChip (keepPartial s g i q) r i 1) 1 6 off (.coll 1
        { collHdr r step i x.pass e (max (-128) (fLocal s g i)) with
            half := k, pflags := b2n (((q.drop (512 * k)).take 512).contains r.nonfinite) }
        r.wire ((q.drop (512 * k)).take 512))) ∧
  (∀ (s : State) (off step i : Nat) (r : GroupRec) (g : GroupStep) (x : TileRed) (e : Int) (q : List Int), Sound s = true →
    NoWork s → FirstReady s off step i r g x e q → r.ndev = 1 → r.outMode = false → s.fab.flows.length < 12288 →
    InPlace (keepPartial s g i q) [(addrOff r.sum + (i - (ownedTiles (keepPartial s g i q) r).1) * r.stride,
      (sumTile r step x e (max (-128) (fLocal s g i)) q).length)] →
    addrOff r.sum + (i - (ownedTiles (keepPartial s g i q) r).1) * r.stride < 2 ^ 48 →
    ∃ t, exec (.tileLocallyComplete off i step) s = .next t ∧ (tileRed t off step i).final = true ∧
      (tileRed t off step i).sums = q ∧
      t.mem = (keepPartial s g i q).mem.putBytes
        (addrOff r.sum + (i - (ownedTiles (keepPartial s g i q) r).1) * r.stride)
        (sumTile r step x e (max (-128) (fLocal s g i)) q)) ∧
  ∀ (s : State) (off step i : Nat), groupStep s off step = none → exec (.tileLocallyComplete off i step) s = .next s)

/-- Steps. UPDATE_RUN, once the gate has passed and every owned tile is final, leaves the new master words, moments and the slice's new
version, and aborts after a failed gate. GATE_CAST samples and clears the health word and casts it; COMMIT_ROUND_CAST casts the commit
bit; a vote's result opens the commit round, sets the flip tick, flips late, or fails the step with its status, and one with FATAL halts a
device that has no such step; a missing result fails it
with TIMEOUT at its limit; at the flip tick the step's shadows become current. STEP_CLOSE writes the phase record and reports the
step; a phase record is kept at the collector (spec/08 R214, R218 to R221, spec/10 R255, R266, spec/09 R244, R245).
Completes: vote, phase, updateRun, gateCast, commitRoundCast, gateLimitExpiry, commitLimitExpiry, flipTick, stepClose. -/
def Obligations.Steps : Prop :=
  ((∀ (s u : State) (o : Op) (b : UpdateBody) (x : VaneIn) (k : Nat) (es : List VaneElem) (ws : List (Nat × List Byte)), Sound s = true → UpdateAmong s o b →
    s.dome.stopped = false → o.hdr.txn = 0 → telKept s = false → b.sliceCount = 1 →
    ownedFinal s (addrOff b.red) (fullStep s b.step) = some true → gateOf s (fullStep s b.step) = some true →
    u = claimAll s b (fullStep s b.step) →
    vaneRead u o b = .ok x → sliceBytes u b.sliceFirst = 2 * b.elems →
    shadowSlot u b.sliceFirst (fullStep s b.step) = some k → es = (vaneElems (groupRec u (addrOff b.red)) b x).1 →
    ws = vaneWrites b x es ++ [(slotAddr u b.sliceFirst k, sliceNew o b b.sliceFirst
      (committedBytes u (slotAddr u b.sliceFirst (sliceCur u b.sliceFirst)) (2 * b.elems)) es)] → AllInPlace u ws →
    ∃ t p, exec (.updateRun o.hdr.stream) s = .next t ∧ opById t o.id = some p ∧ p.phase = .done .ok ∧
      t.mem = writesOn u.mem ws) ∧
  (∀ (s : State) (o : Op) (b : UpdateBody), UpdateAmong s o b → s.dome.stopped = false →
    gateOf s (fullStep s b.step) = some false →
    ∃ t p, exec (.updateRun o.hdr.stream) s = .next t ∧ opById t o.id = some p ∧ p.phase = .done .aborted ∧ t.mem = s.mem ∧
      t.regs = s.regs) ∧
  ∀ (s : State) (o : Op) (b : UpdateBody), UpdateAmong s o b → NoDead s → (∀ p ∈ s.ops, p = o ∨ 1 < p.asked) →
    gateOf s (fullStep s b.step) = none →
    ownedFinal s (addrOff b.red) (fullStep s b.step) ≠ some false → exec (.updateRun o.hdr.stream) s = .next s) ∧
  ((∀ (s : State) (o : Op) (b : StepCommitBody) (vs : List Nat) (d : Nat), Sound s = true →
    StepIs s o b (.step vs d none none none none 0) → noVote s = false → finalMissing s b.step = false →
    isSelf s (voteRoot vs) = false → RoomTo s (voteRoot vs) 0 1 →
    ∃ t p, exec (.gateCast o.hdr.stream) s = .next t ∧ t.ops = [p] ∧ p.id = o.id ∧ p.phase = .active ∧
      p.work = .step vs d (some (mtime s)) none none none 0 ∧ p.detail = gateCause s ∧ t.dome.health = 0 ∧
      Sends t (voteRoot vs) 0 7 0 (.vote (voteBit b.step false (decide (gateCause s = 0)) (gateCause s))) ∧ t.mem = s.mem) ∧
  (∀ (s : State) (o : Op) (b : StepCommitBody) (d : Nat),
    StepIs s o b (.step [ownChip s] d none none none none 0) → noVote s = false → finalMissing s b.step = false →
    s.dome.votes = [] → s.dome.replicas = [] → s.dome.groups = [] → o.hdr.txn = 0 → txnOf s 0 = none →
    ownChip s < 0x4000 → (∀ i, i < verCount s → shadowSlot s i b.step = none) →
    ∃ t p, exec (.gateCast o.hdr.stream) s = .next t ∧ t.ops = [p] ∧ p.id = o.id ∧ t.dome.health = 0 ∧
      p.phase = (if gateCause s = 0 then .active else .done (badGate (gateCause s))) ∧
      p.work = .step [ownChip s] d (some (mtime s)) none (some (decide (gateCause s = 0))) none (gateCause s) ∧
      t.dome.lastCommitted = s.dome.lastCommitted ∧ t.mem = s.mem ∧ t.regs = s.regs) ∧
  (∀ (s : State) (o : Op) (b : StepCommitBody) (vs : List Nat) (d gc c : Nat), Sound s = true →
    StepIs s o b (.step vs d (some gc) none (some true) none c) → noVote s = false → 1 < o.asked → ackAwaited o = false →
    o.hdr.txn = 0 → txnOf s 0 = none → natBits s.dome.health 0 0 = 0 → s.flt.halted = false → b.step ∉ s.dome.workFailed →
    (vs = [ownChip s] ∧ ownChip s < 0x4000 ∧ s.dome.votes = []) ∨
      (isSelf s (voteRoot vs) = false ∧ RoomTo s (voteRoot vs) 0 1) →
    ∃ t p, exec (.commitRoundCast o.hdr.stream) s = .next t ∧ t.ops = [p] ∧ p.id = o.id ∧ p.phase = .active ∧ t.mem = s.mem ∧
      p.work = .step vs d (some gc) (some (mtime s)) (some true)
        (if voteRoot vs = ownChip s then some (mtime s + d) else none) c ∧
      (voteRoot vs ≠ ownChip s → Sends t (voteRoot vs) 0 7 0 (.vote (voteBit b.step true true 0)))) ∧
  (∀ (s : State) (o : Op) (b : StepCommitBody) (w : Work), StepIs s o b w → NoDead s → 1 < o.asked → noVote s = true →
    exec (.gateCast o.hdr.stream) s = .next s ∧ exec (.commitRoundCast o.hdr.stream) s = .next s) ∧
  (∀ (s : State) (o : Op) (b : StepCommitBody) (vs : List Nat) (d gc c : Nat) (cc f : Option Nat),
    StepIs s o b (.step vs d (some gc) cc none f c) → voteStart o + voteLimit b.gateLimit ≤ mtime s → o.hdr.txn = 0 →
    txnOf s 0 = none → s.dome.groups = [] → (∀ i, i < verCount s → shadowSlot s i b.step = none) →
    ∃ t, exec (.gateLimitExpiry o.hdr.stream) s = .next t ∧ Ended s t o .timeout ∧ t.mem = s.mem ∧ t.regs = s.regs ∧
      t.dome.lastCommitted = s.dome.lastCommitted) ∧
  (∀ (s : State) (o : Op) (b : StepCommitBody) (vs : List Nat) (d c : Nat) (gc cc : Option Nat),
    StepIs s o b (.step vs d gc cc (some true) none c) → voteStart o + voteLimit b.commitLimit ≤ mtime s → o.hdr.txn = 0 →
    txnOf s 0 = none → s.dome.groups = [] → (∀ i, i < verCount s → shadowSlot s i b.step = none) →
    ∃ t, exec (.commitLimitExpiry o.hdr.stream) s = .next t ∧ Ended s t o .timeout ∧ Waits t 1 0x602 0x28 ∧ t.mem = s.mem ∧
      t.regs = s.regs ∧ t.dome.lastCommitted = s.dome.lastCommitted) ∧
  (∀ (s : State) (o : Op) (b : StepCommitBody) (w : Work), StepIs s o b w → NoDead s → 1 < o.asked →
    mtime s < voteStart o + voteLimit b.gateLimit → mtime s < voteStart o + voteLimit b.commitLimit →
    exec (.gateLimitExpiry o.hdr.stream) s = .next s ∧ exec (.commitLimitExpiry o.hdr.stream) s = .next s) ∧
  (∀ (s : State) (o : Op) (b : StepCommitBody) (vs : List Nat) (d c tk : Nat) (gc cc : Option Nat) (g : Option Bool),
    Sound s = true → StepIs s o b (.step vs d gc cc g (some tk) c) → tk ≤ mtime s → o.hdr.txn = 0 → txnOf s 0 = none →
    s.dome.heldWrites = [] →
    ∃ t p, exec (.flipTick o.hdr.stream) s = .next t ∧ t.ops = [p] ∧ p.id = o.id ∧ p.phase = .done .ok ∧ p.c0 = 0 ∧
      t.dome.lastCommitted = b.step ∧ t.mem = (flipAll s b.step).mem ∧
      (s.dome.journals = [] → verCount s = 1 → 2 ≤ sliceSlots s 0 → sliceSlots s 0 ≤ 4 → ∀ k,
        shadowSlot s 0 b.step = some k → sliceCur t 0 = k ∧ sliceShadow t 0 k = false)) ∧
  ∀ (s : State) (o : Op) (b : StepCommitBody) (vs : List Nat) (d c tk : Nat) (gc cc : Option Nat) (g : Option Bool),
    StepIs s o b (.step vs d gc cc g (some tk) c) → NoDead s → 1 < o.asked → mtime s < tk → exec (.flipTick o.hdr.stream) s = .next s) ∧
  ((∀ (s : State) (l : Fin 96) (h : PktHdr) (o : Op) (b : StepCommitBody) (vs : List Nat) (d gc c : Nat) (v : VoteMsg),
    StepIs s o b (.step vs d (some gc) none none none c) → NewHere s l.val h 7 → v.result = true → v.commit = false →
    v.step = b.step → s.dome.replicas = [] → s.dome.groups = [] → o.hdr.txn = 0 → txnOf s 0 = none →
    (∀ i, i < verCount s → shadowSlot s i b.step = none) →
    ∃ t p, exec (.vote l h v) s = .next t ∧ Taken1 t h 7 ∧ t.ops = [p] ∧ p.id = o.id ∧ p.detail = c ||| v.causes ∧
      p.work = .step vs d (some gc) none (some v.good) none (c ||| v.causes) ∧
      p.phase = (if v.good then .active else .done (badGate v.causes)) ∧ t.mem = s.mem) ∧
  (∀ (s : State) (l : Fin 96) (h : PktHdr) (o : Op) (b : StepCommitBody) (vs : List Nat) (d gc cc c : Nat) (v : VoteMsg),
    StepIs s o b (.step vs d (some gc) (some cc) (some true) none c) → NewHere s l.val h 7 → v.result = true →
    v.commit = true → v.good = true → v.step = b.step → o.hdr.txn = 0 → txnOf s 0 = none → s.dome.heldWrites = [] →
    ∃ t p, exec (.vote l h v) s = .next t ∧ Taken1 t h 7 ∧ t.ops = [p] ∧ p.id = o.id ∧
      (mtime s ≤ v.flipTick → p.phase = .active ∧ t.mem = s.mem ∧
        p.work = .step vs d (some gc) (some cc) (some true) (some v.flipTick) (c ||| v.causes)) ∧
      (v.flipTick < mtime s → p.phase = .done .ok ∧ p.c0 = 1 ∧ t.dome.lastCommitted = b.step)) ∧
  (∀ (s : State) (l : Fin 96) (h : PktHdr) (o : Op) (b : StepCommitBody) (vs : List Nat) (d gc cc c : Nat) (v : VoteMsg),
    StepIs s o b (.step vs d (some gc) (some cc) (some true) none c) → NewHere s l.val h 7 → v.result = true →
    v.commit = true → v.good = false → v.step = b.step → o.hdr.txn = 0 → txnOf s 0 = none → s.dome.groups = [] →
    ∃ t p, exec (.vote l h v) s = .next t ∧ Taken1 t h 7 ∧ t.ops = [p] ∧ p.id = o.id ∧ p.phase = .done .aborted ∧
      Waits t 1 0x602 0x28 ∧ t.dome.lastCommitted = s.dome.lastCommitted) ∧
  (∀ (s : State) (l : Fin 96) (h : PktHdr) (v : VoteMsg), NoWork s → NewHere s l.val h 7 → v.result = true → v.good = false →
    natBits v.causes 0 0 = 1 →
    ∃ t, exec (.vote l h v) s = .next t ∧ Taken1 t h 7 ∧ t.flt.halted = true ∧ t.mem = s.mem ∧ t.regs = s.regs) ∧
  ∀ (s : State) (l : Fin 96) (h : PktHdr) (o : Op) (b : StepCommitBody) (vs : List Nat) (d c x : Nat) (gc cc f : Option Nat)
      (g : Option Bool) (v : VoteMsg), StepIs s o b (.step vs d gc cc g f c) → NewHere s l.val h 7 → v.result = false → 1 < o.asked →
    recMissing s o = none → x ∈ vs → x ≠ h.src → (∀ y ∈ s.dome.votes, y.1 ≠ x ∧ y.1 ≠ h.src) →
    ∃ t, exec (.vote l h v) s = .next t ∧ Taken1 t h 7 ∧ t.dome.votes = s.dome.votes ++ [(h.src, v)] ∧ t.ops = s.ops ∧
      t.mem = s.mem) ∧
  ((∀ (s : State) (st : StepTel) (q : Nat), Sound s = true → s.dome.steps.find? (fun x => x.step == st.step) = some st →
    st.outcome ≠ none → (∀ o ∈ s.ops, o.step = some st.step → o.completed = true) → s.flt.sealed = false →
    regBits s 0x400008 31 31 = 0 → regBits s 0x400020 31 31 = 0 →
    q = regBits s 0x100018 5 0 → eqEnabled s q = true → 1 ≤ eqFree s q →
    ∃ t, exec (.stepClose st.step) s = .next t ∧ (∀ x ∈ t.dome.steps, x.step ≠ st.step) ∧
      regGet t 0x400010 = BitVec.ofNat 32 st.step ∧ t.ops = s.ops ∧
      (telKept s = true → t.mem.getBytes (lanBase + telBase s + 2080 * telLayers s + 64 * (st.step % 2)) 64 =
        phaseRecord s st) ∧
      (telKept s = false ∨ st.outcome ≠ some .ok → (eqGet t q).written = ((eqGet s q).written + 1) % 2 ^ 32 ∧
        t.host.getBytes (nextSlot s q) 32 = eventBytes s q 0x0020 .ok (leBytes 8 st.step ++ leBytes 1 (st.step % 2) ++
          leBytes 1 (b2n (st.outcome != some .ok))))) ∧
  (∀ (s : State) (n : Nat), (∀ x ∈ s.dome.steps, x.step = n → x.outcome = none) → exec (.stepClose n) s = .next s) ∧
  (∀ (s : State) (l : Fin 96) (h : PktHdr) (rec : List Byte) (a : Nat), Sound s = true → NoWork s → AtHome s l.val h 0x14 →
    a = regBits s 0x40000C 30 12 * 4096 + (fieldAt rec 0 8 % 2 * 16384 + h.src) * 64 → rec.length = 64 →
    regBits s 0x40000C 30 12 ≠ 0 → h.src < 16384 → inPart s 5 a 64 = true → rangeStopped s (lanBase + a) 64 = false →
    ∃ t, exec (.phase l h rec) s = .next t ∧ t.mem.getBytes (lanBase + a) 64 = rec ∧ MemFrame s t (lanBase + a) 64 ∧
      t.regs = s.regs) ∧
  ∀ (s : State) (l : Fin 96) (h : PktHdr) (rec : List Byte), Sound s = true → NoWork s → AtHome s l.val h 0x14 →
    regBits s 0x40000C 30 12 = 0 ∨ 16384 ≤ h.src →
    exec (.phase l h rec) s = .next (regCount s 0x400018 1))

/-! ### Wamos and the side pins -/

namespace Sys2Proof.Machine

/-- Wamos printed these lines, then OK or ERR and the status's name, then its prompt. -/
abbrev Answers (s t : State) (ls : List String) (st : Status) : Prop :=
  t.wamos.out = s.wamos.out ++ ls ++ [if st = .ok then "OK" else "ERR " ++ statusName st, "wamos> "]

/-- Only Wamos's own state differs. -/
abbrev OnlyWamos (s t : State) : Prop := t = { s with wamos := t.wamos }

/-- Wamos refuses: it answers with a status and nothing else differs. -/
abbrev Refuses (c : Instr) (s : State) (st : Status) : Prop :=
  ∃ t, exec c s = .next t ∧ OnlyWamos s t ∧ Answers s t [] st ∧ t.wamos = { s.wamos with out := t.wamos.out }

/-- Wamos takes every command: it runs and the device is not sealed. -/
abbrev WamosOpen (s : State) : Prop := wamosRuns s = true ∧ s.flt.sealed = false

/-- `unlock` is locked out: its 60 s have not passed (spec/16 R404). -/
abbrev LockedOut (s : State) : Prop := s.wamos.lockout = true ∧ s.time.keep < s.wamos.lockEnds

/-- A character echoed, with the line that it ends taken up. -/
abbrev lineTaken (s : State) (c : Byte) : State := { s with wamos := { s.wamos with echo := s.wamos.echo ++ [c], line := [] } }

/-- A typed line and the command it spells. -/
inductive Spells : List (List Byte) → Instr → Prop
  | help : Spells [asciiOf "help"] .wamosHelp
  | id : Spells [asciiOf "id"] .wamosId
  | ctr : Spells [asciiOf "ctr"] .wamosCtr
  | chal : Spells [asciiOf "chal"] .wamosChal
  | lock : Spells [asciiOf "lock"] .wamosLock
  | repair : Spells [asciiOf "repair"] .wamosRepair
  | resetChip : Spells [asciiOf "reset", asciiOf "chip"] .wamosResetChip
  | resetCompute : Spells [asciiOf "reset", asciiOf "compute"] .wamosResetCompute
  | rdOne (a : List Byte) (off : Nat) : typedNumber a = some off → Spells [asciiOf "rd", a] (.wamosRd off 1)
  | rd (a b : List Byte) (off n : Nat) : typedNumber a = some off → typedNumber b = some n →
      Spells [asciiOf "rd", a, b] (.wamosRd off n)
  | logLast : Spells [asciiOf "log"] (.wamosLog 16)
  | log (a : List Byte) (n : Nat) : typedNumber a = some n → Spells [asciiOf "log", a] (.wamosLog n)
  | wr (a b : List Byte) (off n : Nat) : typedNumber a = some off → typedNumber b = some n → n < 2 ^ 32 →
      Spells [asciiOf "wr", a, b] (.wamosWr off (BitVec.ofNat 32 n))
  | baud (a : List Byte) (n : Nat) : typedNumber a = some n → Spells [asciiOf "baud", a] (.wamosBaud n)
  | repairDel (a : List Byte) (n : Nat) : typedNumber a = some n → Spells [asciiOf "repair", asciiOf "del", a] (.wamosRepairDel n)
  | unlock (gs : List (List Byte)) (token : List Byte) : typedToken gs = some token →
      Spells (asciiOf "unlock" :: gs) (.wamosUnlock token)
  | lc (a : List Byte) (n : Nat) : typedNumber a = some n → Spells [asciiOf "lc", a] (.wamosLc n none)
  | lcToken (a : List Byte) (gs : List (List Byte)) (n : Nat) (token : List Byte) : typedNumber a = some n →
      typedToken gs = some token → Spells (asciiOf "lc" :: a :: gs) (.wamosLc n (some token))

/-- The lines a character of MON_RXD or a command of Wamos spells. -/
def wamosCommand : Instr → Bool
  | .wamosHelp | .wamosId | .wamosRd _ _ | .wamosLog _ | .wamosCtr | .wamosChal | .wamosUnlock _ | .wamosLock | .wamosWr _ _
  | .wamosBaud _ | .wamosRepair | .wamosRepairDel _ | .wamosResetChip | .wamosResetCompute | .wamosLc _ _
  | .wamosUnknownCommand | .monRxdCharacter _ => true
  | _ => false

/-- The five instructions that take the pins, with their codes (spec/17 R430). -/
def pinCodes : List (Instr × Nat) := [(.extest, 0), (.clamp, 4), (.highz, 5), (.extestPulse, 6), (.extestTrain, 7)]

/-- The SMBus target returned these bytes; nothing else differs. -/
abbrev smbSent (s : State) (bs : List Byte) : State := { s with fin := { s.fin with smbAnswer := some bs } }

/-- The pins are the test port's, under this instruction: the device is in compute reset and every link is DOWN. -/
abbrev PinsTaken (t : State) (code : Nat) : Prop :=
  t.fin.jtagIr = code ∧ t.fin.pinsTaken = true ∧ t.fin.ready = false ∧ t.fin.stage ≤ 2 ∧ t.dome.stopped = true ∧
    t.mif.stoppedDies = [1, 2, 3, 4, 5, 6] ∧ jobId t = 0 ∧ ∀ l, l < 96 → (link t l).st = .down ∨ (link t l).st = .disabled

/-- Only the instruction register of the test port differs. -/
abbrev OnlyIr (s t : State) (code : Nat) : Prop := t = { s with fin := { s.fin with jtagIr := code } }

end Sys2Proof.Machine

/-- What Wamos prints and to whom it listens: it takes commands from stage 1 on while it holds the UART; anyone may read, a
sealed device answers only reads of FIN and FLT, a bad argument is MALFORMED, a character is echoed, and a typed line runs the
command it spells, with numbers hexadecimal after 0x and decimal otherwise, and a token typed as 32 groups (spec/16 R401, R403).
The layout of an answer's lines and the 600 characters of a line are the model's choice (log entries 55, 56).
Completes: wamosHelp, wamosId, wamosRd, wamosLog, wamosCtr, wamosRepair, wamosUnknownCommand, monRxdCharacter. -/
def Obligations.WamosReads : Prop :=
  (∀ (s : State) (c : Instr), wamosCommand c = true → wamosRuns s = false → exec c s = .next s) ∧
  (∀ s : State, wamosRuns s = true →
    (∃ t, exec .wamosHelp s = .next t ∧ OnlyWamos s t ∧ Answers s t helpLines .ok) ∧
    (∃ t, exec .wamosId s = .next t ∧ OnlyWamos s t ∧ Answers s t (idLines s) .ok) ∧
    (∃ t, exec .wamosCtr s = .next t ∧ OnlyWamos s t ∧
      Answers s t ([0x200020, 0x200024, 0x200028, 0x20002C, 0x200030, 0x200034, 0x20000C].map (fun o =>
        wordText (shownReg s o).toNat) ++ [wordText (regShown s 0x100028)]) .ok)) ∧
  (∀ (s : State) (off n : Nat), wamosRuns s = true → 1 ≤ n → n ≤ 64 → off % 4 = 0 → off + 4 * n ≤ 0x4000000 →
    s.flt.sealed = false ∨ off + 4 * n ≤ 0x100000 ∨ (0x200000 ≤ off ∧ off + 4 * n ≤ 0x300000) →
    ∃ t, exec (.wamosRd off n) s = .next t ∧ OnlyWamos s t ∧
      Answers s t ((List.range n).map fun i =>
        wordText (off + 4 * i) ++ " " ++ wordText (shownReg s (off + 4 * i)).toNat) .ok) ∧
  (∀ (s : State) (off n : Nat), wamosRuns s = true → n = 0 ∨ 64 < n ∨ off % 4 ≠ 0 ∨ 0x4000000 < off + 4 * n →
    Refuses (.wamosRd off n) s .malformed) ∧
  (∀ (s : State) (off n : Nat), wamosRuns s = true → s.flt.sealed = true → 1 ≤ n → n ≤ 64 → off % 4 = 0 →
    off + 4 * n ≤ 0x4000000 → 0x100000 < off + 4 * n → off < 0x200000 ∨ 0x300000 < off + 4 * n →
    Refuses (.wamosRd off n) s .outOfRange) ∧
  (∀ (s : State) (n : Nat), wamosRuns s = true → 1 ≤ n → n ≤ 4096 →
    ∃ t, exec (.wamosLog n) s = .next t ∧ OnlyWamos s t ∧ Answers s t ((s.flt.log.take n).map logLine) .ok) ∧
  (∀ (s : State) (n : Nat), wamosRuns s = true → n = 0 ∨ 4096 < n → Refuses (.wamosLog n) s .malformed) ∧
  (∀ s : State, WamosOpen s →
    ∃ t, exec .wamosRepair s = .next t ∧ OnlyWamos s t ∧
      Answers s t ((List.range s.flt.repairs.length).map fun i => String.ofList (hexText 16 (repairWord s i))) .ok) ∧
  (∀ s : State, WamosOpen s →
    ∃ t, exec .wamosUnknownCommand s = .next t ∧ OnlyWamos s t ∧ Answers s t [] .malformed ∧
      t.wamos = { s.wamos with out := t.wamos.out }) ∧
  (∀ (s : State) (token : List Byte) (off i n : Nat) (v : Word) (k : Option (List Byte)), wamosRuns s = true →
    s.flt.sealed = true →
    ∀ c ∈ [.wamosChal, .wamosUnlock token, .wamosLock, .wamosWr off v, .wamosBaud n, .wamosRepair, .wamosRepairDel i,
      .wamosResetChip, .wamosResetCompute, .wamosLc n k, .wamosUnknownCommand], Refuses c s .outOfRange) ∧
  (∀ (s : State) (c : Byte), wamosRuns s = true → c ≠ 13 → c ≠ 10 →
    ∃ t, exec (.monRxdCharacter c) s = .next t ∧ OnlyWamos s t ∧ t.wamos.echo = s.wamos.echo ++ [c] ∧
      t.wamos.line = s.wamos.line ++ [c] ∧ t.wamos.out = s.wamos.out) ∧
  (∀ (s : State) (c : Byte), wamosRuns s = true → c = 13 ∨ c = 10 → s.wamos.line.length ≤ 600 →
    lineWords s.wamos.line = [] → exec (.monRxdCharacter c) s = .next (lineTaken s c)) ∧
  (∀ (s : State) (c : Byte) (x : Instr), wamosRuns s = true → c = 13 ∨ c = 10 → s.wamos.line.length ≤ 600 →
    Spells (lineWords s.wamos.line) x → exec (.monRxdCharacter c) s = exec x (lineTaken s c)) ∧
  (∀ (s : State) (c : Byte), wamosRuns s = true → c = 13 ∨ c = 10 → 600 < s.wamos.line.length →
    exec (.monRxdCharacter c) s = exec .wamosUnknownCommand (lineTaken s c)) ∧
  (∀ (s : State) (c : Byte) (w : List Byte) (ws : List (List Byte)), wamosRuns s = true → c = 13 ∨ c = 10 →
    s.wamos.line.length ≤ 600 → lineWords s.wamos.line = w :: ws →
    w ∉ ["help", "id", "rd", "log", "ctr", "chal", "unlock", "lock", "wr", "baud", "repair", "reset", "lc"].map asciiOf →
    exec (.monRxdCharacter c) s = exec .wamosUnknownCommand (lineTaken s c)) ∧
  (typedNumber (asciiOf "0x20_0000") = some 0x200000 ∧ typedNumber (asciiOf "64") = some 64 ∧ typedNumber (asciiOf "0x") = none ∧
    typedNumber (asciiOf "6f") = none) ∧
  (∀ (gs : List (List Byte)) (token : List Byte), typedToken gs = some token → gs.length = 32 ∧ token.length = 128) ∧
  ∀ (gs : List (List Byte)) (token x : List Byte) (g v : Nat), typedToken gs = some token → gs[g]? = some x →
    digitsValue 16 x = some v → fieldAt token (4 * g) 1 = v / 2 ^ 24 ∧ fieldAt token (4 * g + 3) 1 = v % 256

/-- Challenges, tokens and sessions: a challenge serves one `unlock`, and a new `chal` or a chip reset discards it; a token
that fails any field is MALFORMED; after three failures in a row `unlock` is QUARANTINED for 60 s of keep time; a session ends
at `lock`, when VALID_S passes, or at a chip reset, and a command that runs then completes (spec/16 R404).
Completes: chipReset, wamosChal, wamosUnlock, wamosLock, unlockLockoutEnd, sessionExpiry, lcBurnDone. -/
def Obligations.Sessions : Prop :=
  (∀ s : State, WamosOpen s →
    ∃ t c, exec .wamosChal s = .next t ∧ t.wamos.challenge = some c ∧ c.length = 16 ∧ Answers s t [challengeText c] .ok ∧
      t = { s with wamos := t.wamos, draws := t.draws } ∧ t.wamos.session = s.wamos.session) ∧
  (∀ (s : State) (token : List Byte), WamosOpen s → LockedOut s → Refuses (.wamosUnlock token) s .quarantined) ∧
  (∀ (s : State) (token c : List Byte), WamosOpen s → ¬ LockedOut s → s.wamos.challenge = some c →
    ∃ t, exec (.wamosUnlock token) s = .next t ∧ OnlyWamos s t ∧ t.wamos.challenge = none ∧
      (∀ x, tokenSession s c token = some x → Answers s t [] .ok ∧ t.wamos.session = some x ∧ t.wamos.fails = 0 ∧
        ¬ LockedOut t) ∧
      (tokenSession s c token = none → Answers s t [] .malformed ∧ t.wamos.session = s.wamos.session ∧
        (s.wamos.fails < 2 → t.wamos.fails = s.wamos.fails + 1 ∧ ¬ LockedOut t) ∧
        (2 ≤ s.wamos.fails → t.wamos.fails = 0 ∧ LockedOut t ∧ t.wamos.lockEnds = s.time.keep + 60 * 156250000))) ∧
  (∀ (s : State) (token c : List Byte) (x : Session), tokenSession s c token = some x ↔
    token.length = 128 ∧ token.take 16 = c ∧ fieldAt token 16 8 = s.fin.serial ∧ fieldAt token 24 1 < 16 ∧
      fieldAt token 26 2 = 0 ∧ 1 ≤ fieldAt token 28 4 ∧ fieldAt token 28 4 ≤ 86400 ∧
      Config.unlockVerify (token.take 32) (token.drop 32) = true ∧
      x = { scope := fieldAt token 24 1, targetLc := fieldAt token 25 1, ends := s.time.keep + fieldAt token 28 4 * 156250000 }) ∧
  (∀ s : State, WamosOpen s →
    ∃ t, exec .wamosLock s = .next t ∧ OnlyWamos s t ∧ Answers s t [] .ok ∧ t.wamos.session = none) ∧
  (∀ s : State, (LockedOut s → exec .unlockLockoutEnd s = .next s) ∧
    (¬ LockedOut s → exec .unlockLockoutEnd s = .next { s with wamos := { s.wamos with lockout := false } })) ∧
  (∀ s : State, ∃ t, exec .sessionExpiry s = .next t ∧ OnlyWamos s t ∧
    ((∃ x, s.wamos.session = some x ∧ s.time.keep < x.ends) → t.wamos = s.wamos) ∧
    ((∀ x, s.wamos.session = some x → x.ends ≤ s.time.keep) → t.wamos.session = none ∧ t.wamos.out = s.wamos.out)) ∧
  (∀ s : State, s.flt.sealed = false →
    ∃ t, exec .chipReset s = .next t ∧ t.wamos.challenge = none ∧ t.wamos.session = none) ∧
  ∀ s : State, s.wamos.lcWaits = true → regBits s 0x20 31 31 = 1 →
    ∃ t, exec .lcBurnDone s = .next t ∧ Answers s t [] .ok ∧ t.wamos.lcWaits = false

/-- What Wamos changes, and for whom: writes, rates, repairs, resets and the lifecycle need their scope of an unlocked session
in DEPLOYED; a lifecycle change goes forward only, with no job open, out of MANUFACTURE only with an identity, and is answered once
burned; a token without a challenge fails as any other (spec/16 R396, R399 to R401, R404, spec/15 R379; the scopes other than WRITE
outside DEPLOYED are the model's choice, log entry 57).
Completes: wamosUnlock, wamosWr, wamosBaud, wamosRepairDel, wamosResetChip, wamosResetCompute, wamosLc, lcBurnDone. -/
def Obligations.WamosActs : Prop :=
  (∀ (s : State) (token : List Byte), WamosOpen s → ¬ LockedOut s → s.wamos.challenge = none →
    ∃ t, exec (.wamosUnlock token) s = .next t ∧ OnlyWamos s t ∧ Answers s t [] .malformed ∧
      t.wamos.session = s.wamos.session ∧ (s.wamos.fails < 2 → t.wamos.fails = s.wamos.fails + 1 ∧ ¬ LockedOut t) ∧
      (2 ≤ s.wamos.fails → t.wamos.fails = 0 ∧ LockedOut t)) ∧
  ((∀ s : State, s.fin.lc ≠ 2 → ∀ i, hasScope s i = true) ∧
  (∀ (s : State) (x : Session) (i : Nat), s.wamos.session = some x → s.time.keep < x.ends → natBits x.scope i i = 1 →
    hasScope s i = true) ∧
  (∀ (s : State) (x : Session) (i : Nat), s.fin.lc = 2 →
    s.wamos.session = none ∨ (s.wamos.session = some x ∧ (x.ends ≤ s.time.keep ∨ natBits x.scope i i = 0)) →
    hasScope s i = false) ∧
  (∀ (s : State) (off i n : Nat) (v : Word), WamosOpen s →
    (hasScope s 0 = false → Refuses (.wamosWr off v) s .outOfRange ∧ Refuses (.wamosBaud n) s .outOfRange) ∧
    (hasScope s 2 = false → Refuses (.wamosRepairDel i) s .outOfRange) ∧
    (hasScope s 3 = false → Refuses .wamosResetChip s .outOfRange ∧ Refuses .wamosResetCompute s .outOfRange)) ∧
  (∀ (s t : State) (off : Nat) (v : Word), WamosOpen s → hasScope s 0 = true → off % 4 = 0 → off < 0x2000000 →
    s.fin.ready = true → s.fin.pinsTaken = false → exec (.registerWrite off v) s = .next t →
    ∃ u, exec (.wamosWr off v) s = .next u ∧ OnlyWamos t u ∧ (regBits t 0x20 31 31 = 1 → Answers t u [] .ok)) ∧
  (∀ (s : State) (off : Nat) (v : Word), WamosOpen s → hasScope s 0 = true → off % 4 ≠ 0 ∨ 0x4000000 ≤ off →
    Refuses (.wamosWr off v) s .malformed) ∧
  (∀ (s : State) (rate : Nat), Sound s = true → WamosOpen s → hasScope s 0 = true → 9600 ≤ rate → rate ≤ 3000000 →
    ∃ t, exec (.wamosBaud rate) s = .next t ∧ Answers s t [] .ok ∧ regBits t 0x20 21 0 = rate ∧
      t = { s with wamos := t.wamos, regs := t.regs } ∧ ∀ o, o ≠ 0x20 → regGet t o = regGet s o) ∧
  (∀ (s : State) (rate : Nat), WamosOpen s → hasScope s 0 = true → rate < 9600 ∨ 3000000 < rate →
    Refuses (.wamosBaud rate) s .malformed) ∧
  (∀ (s : State) (i : Nat), WamosOpen s → hasScope s 2 = true → i < s.flt.repairs.length →
    ∃ t, exec (.wamosRepairDel i) s = .next t ∧ Answers s t [] .ok ∧ t.flt.repairs = s.flt.repairs.eraseIdx i ∧
      t = { s with wamos := t.wamos, flt := t.flt } ∧ t.flt = { s.flt with repairs := t.flt.repairs }) ∧
  (∀ (s : State) (i : Nat), WamosOpen s → hasScope s 2 = true → s.flt.repairs.length ≤ i →
    Refuses (.wamosRepairDel i) s .malformed) ∧
  (∀ s : State, Sound s = true → NoWork s → WamosOpen s → hasScope s 3 = true →
    ∃ t, exec .wamosResetChip s = .next t ∧ (strapOk s.fin.strap t.fin.lc = true → Answers s t [] .ok) ∧
      t.fin.stage = 0 ∧ t.fin.ready = false ∧ t.wamos.session = none ∧ t.wamos.challenge = none ∧ jobId t = 0 ∧ ownChip t = 0xFFFF) ∧
  ∀ s : State, Sound s = true → NoWork s → s.fab.heldPkts = [] → WamosOpen s → hasScope s 3 = true →
    ∃ t, exec .wamosResetCompute s = .next t ∧ Answers s t [] .ok ∧ t.fin.stage = min s.fin.stage 2 ∧ t.fin.ready = false ∧
      jobId t = 0 ∧ ownChip t = ownChip s ∧ t.wamos.session = s.wamos.session) ∧
  ((∀ (s : State) (target : Nat) (k : Option (List Byte)), WamosOpen s →
    3 < target ∨ target ≤ s.fin.lc ∨ (∃ b, s.fin.lcBurn = some b ∧ target ≤ b) → Refuses (.wamosLc target k) s .malformed) ∧
  (∀ (s : State) (target : Nat) (k : Option (List Byte)), WamosOpen s → target ≤ 3 → s.fin.lc < target →
    s.fin.lcBurn = none → jobId s ≠ 0 → Refuses (.wamosLc target k) s .resourceHeld) ∧
  (∀ (s : State) (target : Nat) (k : Option (List Byte)), WamosOpen s → target ≤ 3 → s.fin.lc = 0 → 0 < target →
    s.fin.lcBurn = none → jobId s = 0 → s.fin.cert = [] →
    ∃ t st, exec (.wamosLc target k) s = .next t ∧ st ≠ Status.ok ∧ Answers s t [] st ∧ t.fin = s.fin ∧ t.regs = s.regs ∧
      t.mem = s.mem) ∧
  (∀ (s : State) (target : Nat) (k : Option (List Byte)), WamosOpen s → target ≤ 3 → s.fin.lc < target →
    s.fin.lcBurn = none → jobId s = 0 → (s.fin.lc = 0 ∧ s.fin.cert ≠ []) ∨ (s.fin.lc ≠ 0 ∧ k = none ∧ ∃ x, s.wamos.session = some x ∧ s.time.keep < x.ends ∧
      natBits x.scope 1 1 = 1 ∧ x.targetLc = target) →
    ∃ t, exec (.wamosLc target k) s = .next t ∧ t.fin = { s.fin with lcBurn := some target } ∧ t.wamos.lcWaits = true ∧
      t.wamos.out = s.wamos.out ∧ t.regs = s.regs ∧ t.mem = s.mem) ∧
  (∀ (s : State) (target : Nat), WamosOpen s → target ≤ 3 → s.fin.lc < target → s.fin.lcBurn = none → jobId s = 0 →
    s.fin.lc ≠ 0 → (∀ x, s.wamos.session = some x → s.time.keep < x.ends → natBits x.scope 1 1 = 1 → x.targetLc ≠ target) →
    Refuses (.wamosLc target none) s .outOfRange) ∧
  (∀ (s : State) (target : Nat) (token c : List Byte), WamosOpen s → target ≤ 3 → s.fin.lc < target →
    s.fin.lcBurn = none → jobId s = 0 → s.fin.lc ≠ 0 → s.wamos.challenge = some c →
    ∃ t, exec (.wamosLc target (some token)) s = .next t ∧ t.wamos.challenge = none ∧ t.regs = s.regs ∧ t.mem = s.mem ∧
      (∀ x, tokenSession s c token = some x → natBits x.scope 1 1 = 1 → x.targetLc = target →
        t.fin = { s.fin with lcBurn := some target } ∧ t.wamos.lcWaits = true ∧ t.wamos.out = s.wamos.out) ∧
      (∀ x, tokenSession s c token = some x → natBits x.scope 1 1 = 0 ∨ x.targetLc ≠ target →
        t.fin = s.fin ∧ Answers s t [] .outOfRange) ∧
      (tokenSession s c token = none → t.fin = s.fin ∧ Answers s t [] .malformed)) ∧
  (∀ (s : State) (target : Nat) (token : List Byte), WamosOpen s → target ≤ 3 → s.fin.lc < target → s.fin.lcBurn = none →
    jobId s = 0 → s.fin.lc ≠ 0 → s.wamos.challenge = none →
    ∃ t, exec (.wamosLc target (some token)) s = .next t ∧ OnlyWamos s t ∧ Answers s t [] .malformed) ∧
  (∀ s : State, s.wamos.lcWaits = true → regBits s 0x20 31 31 = 1 →
    ∃ t, exec .lcBurnDone s = .next t ∧ Answers s t [] .ok ∧ t.wamos.lcWaits = false ∧ t.regs = s.regs ∧ t.mem = s.mem ∧
      t.fin.lc = s.fin.lc ∧ t.fin.lcBurn = s.fin.lcBurn ∧
      t.fin.keysBlown = (s.fin.keysBlown || decide (s.fin.lcBurn = some 3))) ∧
  ∀ s : State, s.wamos.lcWaits = false → exec .lcBurnDone s = .next s)

/-- SMBus and JTAG: the target answers each read of Table 17.11 while its domain has power, in any state of the device, and
takes no write; the five instructions that take the pins put the device into compute reset with every link DOWN, and the
next other instruction runs a chip reset; IDCODE is selected after Test-Logic-Reset (spec/17 R427 to R430, spec/16 R399).
Completes: smbReadPart, smbReadStatus, smbReadTemp, smbReadPower, smbReadStage, smbReadFault, smbAlertResponse, smbWrite,
extest, idcode, samplePreload, clamp, highz, extestPulse, extestTrain, jtagScanSelfTest, bypass, testLogicReset. -/
def Obligations.SidePins : Prop :=
  ((∀ s : State, s.fin.aonPwrok = true →
    exec .smbReadPart s = .next (smbSent s (leBytes 2 0x6400)) ∧
    exec .smbReadStatus s = .next (smbSent s (leBytes 1 (smbStatus s))) ∧
    exec .smbReadTemp s = .next (smbSent s (leBytes 2 (wrapTo 16 (hottestOf s.chime.temps)))) ∧
    exec .smbReadPower s = .next (smbSent s (leBytes 2 (min 0xFFFF s.chime.watts))) ∧
    exec .smbReadStage s = .next (smbSent s (leBytes 1 s.fin.stage))) ∧
  (∀ s : State, s.fin.aonPwrok = true →
    ∃ t, exec .smbReadFault s = .next t ∧ t = { s with fin := t.fin, flt := t.flt } ∧
      t.flt = { s.flt with alert := false } ∧ (∀ r, s.flt.newest = some r →
        t.fin = { s.fin with smbAnswer := some (recordBytes r) }) ∧
      (s.flt.newest = none → t.fin = { s.fin with smbAnswer := some (List.replicate 16 0) })) ∧
  (∀ s : State, s.fin.aonPwrok = true →
    ∃ t, exec .smbWrite s = .next t ∧ t = { s with fin := t.fin } ∧ t.fin = { s.fin with smbAnswer := none }) ∧
  (∀ s : State, s.fin.aonPwrok = true → s.flt.alert = true →
    ∃ t, exec .smbAlertResponse s = .next t ∧ t = { s with fin := t.fin } ∧
      t.fin = { s.fin with smbAlertAnswers := s.fin.smbAlertAnswers + 1 }) ∧
  (∀ s : State, s.flt.alert = false → exec .smbAlertResponse s = .next s) ∧
  ∀ s : State, s.fin.aonPwrok = false →
    ∀ c ∈ [.smbReadPart, .smbReadStatus, .smbReadTemp, .smbReadPower, .smbReadStage, .smbReadFault, .smbAlertResponse,
      .smbWrite, .extest, .idcode, .clamp, .highz, .extestPulse, .extestTrain, .bypass, .testLogicReset],
      exec c s = .next s) ∧
  ((∀ s : State, Sound s = true → NoWork s → s.fab.heldPkts = [] → s.fin.aonPwrok = true → s.fin.pinsTaken = false →
      s.flt.sealed = false →
    (∃ t, exec .extest s = .next t ∧ PinsTaken t 0) ∧ (∃ t, exec .clamp s = .next t ∧ PinsTaken t 4) ∧
    (∃ t, exec .highz s = .next t ∧ PinsTaken t 5) ∧ (∃ t, exec .extestPulse s = .next t ∧ PinsTaken t 6) ∧
    ∃ t, exec .extestTrain s = .next t ∧ PinsTaken t 7) ∧
  (∀ s : State, s.fin.aonPwrok = true → s.fin.pinsTaken = true →
    ∀ x ∈ pinCodes, ∃ t, exec x.1 s = .next t ∧ OnlyIr s t x.2) ∧
  (∀ s : State, s.fin.aonPwrok = true → s.fin.pinsTaken = false →
    exec .idcode s = .next { s with
      fin := { s.fin with jtagIr := 1, jtagDr := s.fin.stepping % 16 * 2 ^ 28 + 0x640056F } } ∧
    exec .testLogicReset s = .next { s with
      fin := { s.fin with jtagIr := 1, jtagDr := s.fin.stepping % 16 * 2 ^ 28 + 0x640056F } } ∧
    exec .bypass s = .next { s with fin := { s.fin with jtagIr := 0xFF } } ∧
    (∃ t, exec .samplePreload s = .next t ∧ t = { s with fin := t.fin, draws := t.draws } ∧
      t.fin = { s.fin with jtagIr := 2, boundary := t.fin.boundary } ∧ t.fin.boundary < 2 ^ 5146) ∧
    ∀ n, (s.fin.lc = 2 → ∃ t, exec (.jtagScanSelfTest n) s = .next t ∧ t = { s with fin := t.fin } ∧
        t.fin = { s.fin with jtagIr := n }) ∧
      (s.fin.lc ≠ 2 → 0x80 ≤ n → n ≤ 0xFE → ∃ t, exec (.jtagScanSelfTest n) s = .next t ∧
        t = { s with fin := t.fin, draws := t.draws } ∧ t.fin = { s.fin with jtagIr := n, jtagDr := t.fin.jtagDr })) ∧
  ∀ s : State, s.fin.aonPwrok = true → s.fin.pinsTaken = true → s.flt.sealed = false →
    (∀ c ∈ [.idcode, .testLogicReset], ∃ t, exec c s = .next t ∧ t.fin.jtagIr = 1 ∧
      t.fin.jtagDr = s.fin.stepping % 16 * 2 ^ 28 + 0x640056F ∧ t.fin.pinsTaken = false ∧ t.fin.stage = 0 ∧
      t.fin.ready = false ∧ t.dome.stopped = !strapOk s.fin.strap t.fin.lc) ∧
    ∀ n, ∀ c ∈ [.bypass, .samplePreload, .jtagScanSelfTest n], ∃ t, exec c s = .next t ∧
      t.fin.pinsTaken = false ∧ t.fin.stage = 0 ∧ t.fin.ready = false ∧ t.dome.stopped = !strapOk s.fin.strap t.fin.lc)
end

