-- ==== Sys2Proof/Laws/Table.lean ====
section
/-! SUPPORT. Laws of the sparse table and of memory: a read after a write, and the canonical form every operation keeps. -/

-- In order: this many theorems side by side ask for more threads than fit.
set_option Elab.async false

namespace Sys2Proof.Machine

/-! ### The sparse table -/

theorem tabWf_mono {α : Type} [DecidableEq α] {d : Nat → α} : ∀ {t : Tab α} {lo lo' : Nat}, lo' ≤ lo →
    tabWf d lo t = true → tabWf d lo' t = true
  | [], _, _, _, _ => rfl
  | (i, v) :: t, lo, lo', h, hw => by
    simp only [tabWf, Bool.and_eq_true, decide_eq_true_eq] at hw ⊢
    exact ⟨⟨by omega, hw.1.2⟩, hw.2⟩

/-- A rewritten table is canonical. -/
theorem tabPut_wf {α : Type} [DecidableEq α] {d : Nat → α} : ∀ {t : Tab α} {lo k : Nat} {v : α}, lo ≤ k →
    tabWf d lo t = true → tabWf d lo (tabPut d t k v) = true
  | [], lo, k, v, hk, _ => by
    unfold tabPut
    split
    · rfl
    · simp_all [tabWf]
  | (i, w) :: t, lo, k, v, hk, hw => by
    simp only [tabWf, Bool.and_eq_true, decide_eq_true_eq] at hw
    unfold tabPut
    split
    · rename_i he
      subst he
      split
      · exact tabWf_mono (by omega) hw.2
      · simp_all [tabWf]
    · rename_i hne
      split
      · rename_i hlt
        split
        · simp [tabWf, hw.1.2, hw.2]; omega
        · rename_i hv
          simp only [tabWf, Bool.and_eq_true, decide_eq_true_eq]
          exact ⟨⟨hk, hv⟩, ⟨by omega, hw.1.2⟩, hw.2⟩
      · simp only [tabWf, Bool.and_eq_true, decide_eq_true_eq]
        exact ⟨hw.1, tabPut_wf (by omega) hw.2⟩

theorem tabGet_below {α : Type} [DecidableEq α] {d : Nat → α} : ∀ {t : Tab α} {lo k : Nat}, k < lo →
    tabWf d lo t = true → tabGet d t k = d k
  | [], _, _, _, _ => rfl
  | (i, v) :: t, lo, k, h, hw => by
    simp only [tabWf, Bool.and_eq_true, decide_eq_true_eq] at hw
    unfold tabGet
    rw [if_neg (by omega), if_pos (by omega)]

/-- What a canonical table holds after one key is rewritten. -/
theorem tabGet_tabPut {α : Type} [DecidableEq α] {d : Nat → α} : ∀ {t : Tab α} {lo : Nat} (k : Nat) (v : α) (j : Nat),
    tabWf d lo t = true → tabGet d (tabPut d t k v) j = if j = k then v else tabGet d t j
  | [], lo, k, v, j, _ => by
    unfold tabPut
    split
    · simp only [tabGet]; split <;> simp_all
    · simp only [tabGet]
      split
      · rfl
      · split <;> rfl
  | (i, w) :: t, lo, k, v, j, hw => by
    simp only [tabWf, Bool.and_eq_true, decide_eq_true_eq] at hw
    unfold tabPut
    split
    · rename_i he
      subst he
      split
      · rename_i hv
        by_cases hj : j = k
        · subst hj
          rw [if_pos rfl, tabGet_below (by omega : j < j + 1) hw.2, hv]
        · rw [if_neg hj]
          simp only [tabGet, if_neg hj]
          split
          · rw [tabGet_below (by omega : j < k + 1) hw.2]
          · rfl
      · simp only [tabGet]; split <;> rfl
    · rename_i hne
      split
      · rename_i hlt
        split
        · rename_i hv
          by_cases hj : j = k
          · subst hj
            simp only [tabGet, if_neg hne, if_pos hlt, if_true, hv]
          · simp only [if_neg hj]
        · simp only [tabGet]
          by_cases hj : j = k
          · simp [hj]
          · simp only [if_neg hj]
            by_cases hjk : j < k
            · rw [if_pos hjk, if_neg (by omega), if_pos (by omega)]
            · rw [if_neg hjk]
      · simp only [tabGet]
        by_cases hji : j = i
        · rw [if_pos hji, if_neg (by omega), if_pos hji]
        · simp only [if_neg hji]
          by_cases hl : j < i
          · rw [if_pos hl, if_pos hl, if_neg (by omega)]
          · rw [if_neg hl, if_neg hl]
            exact tabGet_tabPut k v j hw.2

/-- A table without some of its entries is canonical. -/
theorem tabWf_filter {α : Type} [DecidableEq α] {d : Nat → α} {p : Nat × α → Bool} : ∀ {t : Tab α} {lo : Nat},
    tabWf d lo t = true → tabWf d lo (t.filter p) = true
  | [], _, _ => rfl
  | (i, v) :: t, lo, hw => by
    simp only [tabWf, Bool.and_eq_true, decide_eq_true_eq] at hw
    rw [List.filter_cons]
    split
    · simp only [tabWf, Bool.and_eq_true, decide_eq_true_eq]
      exact ⟨hw.1, tabWf_filter hw.2⟩
    · exact tabWf_mono (by omega) (tabWf_filter hw.2)

/-! ### Memory -/

theorem cellsWf_mono {fs : List Fill} : ∀ {t : Tab Byte} {lo lo' : Nat}, lo' ≤ lo →
    cellsWf fs lo t = true → cellsWf fs lo' t = true
  | [], _, _, _, _ => rfl
  | (i, v) :: t, lo, lo', h, hw => by
    simp only [cellsWf, Bool.and_eq_true, decide_eq_true_eq] at hw ⊢
    exact ⟨⟨by omega, hw.1.2⟩, hw.2⟩

theorem underByte_of_zero : ∀ {fs : List Fill} {a : Nat}, underZero fs a = true → underByte fs a = 0
  | [], _, _ => rfl
  | f :: t, a, h => by
    unfold underZero at h
    unfold underByte
    split
    · rename_i hin
      rw [if_pos hin] at h
      have : f.src = .zero := by simpa using h
      rw [this]
    · rename_i hin
      rw [if_neg hin] at h
      exact underByte_of_zero h

theorem putCell_wf {fs : List Fill} : ∀ {t : Tab Byte} {lo k : Nat} {v : Byte}, lo ≤ k →
    cellsWf fs lo t = true → cellsWf fs lo (putCell fs t k v) = true
  | [], lo, k, v, hk, _ => by
    unfold putCell
    split
    · rfl
    · rename_i h
      simp only [cellsWf, Bool.and_eq_true, decide_eq_true_eq, Bool.and_true, Bool.not_eq_true']
      refine ⟨hk, ?_⟩
      simpa using h
  | (i, w) :: t, lo, k, v, hk, hw => by
    simp only [cellsWf, Bool.and_eq_true, decide_eq_true_eq] at hw
    unfold putCell
    split
    · rename_i he
      subst he
      split
      · exact cellsWf_mono (by omega) hw.2
      · rename_i h
        simp only [cellsWf, Bool.and_eq_true, decide_eq_true_eq, Bool.not_eq_true']
        exact ⟨⟨hk, by simpa using h⟩, hw.2⟩
    · rename_i hne
      split
      · split
        · simp only [cellsWf, Bool.and_eq_true, decide_eq_true_eq]
          exact hw
        · rename_i h
          simp only [cellsWf, Bool.and_eq_true, decide_eq_true_eq, Bool.not_eq_true']
          exact ⟨⟨hk, by simpa using h⟩, ⟨by omega, by simpa only [Bool.not_eq_true'] using hw.1.2⟩, hw.2⟩
      · simp only [cellsWf, Bool.and_eq_true, decide_eq_true_eq]
        exact ⟨hw.1, putCell_wf (by omega) hw.2⟩

theorem cells_below {fs : List Fill} {d : Nat → Byte} : ∀ {t : Tab Byte} {lo k : Nat}, k < lo →
    cellsWf fs lo t = true → tabGet d t k = d k
  | [], _, _, _, _ => rfl
  | (i, v) :: t, lo, k, h, hw => by
    simp only [cellsWf, Bool.and_eq_true, decide_eq_true_eq] at hw
    unfold tabGet
    rw [if_neg (by omega), if_pos (by omega)]

theorem get_putCell {fs : List Fill} : ∀ {t : Tab Byte} {lo : Nat} (k : Nat) (v : Byte) (j : Nat),
    cellsWf fs lo t = true → tabGet (underByte fs) (putCell fs t k v) j = if j = k then v else tabGet (underByte fs) t j
  | [], lo, k, v, j, _ => by
    unfold putCell
    split
    · rename_i h
      simp only [tabGet]
      split
      · rename_i hj; rw [hj, h.1, underByte_of_zero h.2]
      · rfl
    · simp only [tabGet]
      split
      · rfl
      · split <;> rfl
  | (i, w) :: t, lo, k, v, j, hw => by
    simp only [cellsWf, Bool.and_eq_true, decide_eq_true_eq] at hw
    unfold putCell
    split
    · rename_i he
      subst he
      split
      · rename_i h
        by_cases hj : j = k
        · subst hj
          rw [if_pos rfl, cells_below (by omega : j < j + 1) hw.2, h.1, underByte_of_zero h.2]
        · rw [if_neg hj]
          simp only [tabGet, if_neg hj]
          split
          · rw [cells_below (by omega : j < k + 1) hw.2]
          · rfl
      · simp only [tabGet]; split <;> rfl
    · rename_i hne
      split
      · rename_i hlt
        split
        · rename_i h
          by_cases hj : j = k
          · subst hj
            simp only [tabGet, if_neg hne, if_pos hlt, if_true, h.1, underByte_of_zero h.2]
          · simp only [if_neg hj]
        · simp only [tabGet]
          by_cases hj : j = k
          · simp [hj]
          · simp only [if_neg hj]
            by_cases hjk : j < k
            · rw [if_pos hjk, if_neg (by omega), if_pos (by omega)]
            · rw [if_neg hjk]
      · simp only [tabGet]
        by_cases hji : j = i
        · rw [if_pos hji, if_neg (by omega), if_pos hji]
        · simp only [if_neg hji]
          by_cases hl : j < i
          · rw [if_pos hl, if_pos hl, if_neg (by omega)]
          · rw [if_neg hl, if_neg hl]
            exact get_putCell k v j hw.2

/-- A byte written keeps the canonical form. -/
theorem Memory.put_wf {m : Memory} {a : Nat} {v : Byte} (h : m.wf = true) : (m.put a v).wf = true :=
  putCell_wf (Nat.zero_le a) h

/-- Bytes written keep the canonical form. -/
theorem Memory.putBytes_wf : ∀ {bs : List Byte} {m : Memory} {a : Nat}, m.wf = true → (m.putBytes a bs).wf = true
  | [], _, _, h => h
  | _ :: bs, m, a, h => by
    unfold Memory.putBytes
    exact Memory.putBytes_wf (bs := bs) (Memory.put_wf h)

/-- A read of the byte written, and of every other byte. -/
theorem Memory.get_put {m : Memory} (h : m.wf = true) (a : Nat) (v : Byte) (b : Nat) :
    (m.put a v).get b = if b = a then v else m.get b := by
  unfold Memory.get Memory.put
  exact get_putCell a v b h

/-- A read after a write of bytes. -/
theorem Memory.get_putBytes : ∀ {bs : List Byte} {m : Memory} (_ : m.wf = true) (a b : Nat),
    (m.putBytes a bs).get b = if a ≤ b then (bs[b - a]?).getD (m.get b) else m.get b
  | [], m, _, a, b => by simp [Memory.putBytes]
  | x :: bs, m, h, a, b => by
    unfold Memory.putBytes
    rw [Memory.get_putBytes (Memory.put_wf h), Memory.get_put h]
    by_cases h1 : a + 1 ≤ b
    · rw [if_pos h1, if_pos (show a ≤ b by omega), if_neg (show ¬ b = a by omega)]
      have : b - a = (b - (a + 1)) + 1 := by omega
      rw [this, List.getElem?_cons_succ]
    · rw [if_neg h1]
      by_cases h2 : b = a
      · subst h2; simp
      · rw [if_neg h2, if_neg (show ¬ a ≤ b by omega)]

theorem lose_cells {fs : List Fill} {f : Fill} : ∀ {t : Tab Byte} {lo : Nat}, cellsWf fs lo t = true →
    cellsWf (f :: fs) lo (t.filter fun c => decide (c.1 < f.lo) || decide (f.hi ≤ c.1)) = true
  | [], _, _ => rfl
  | (i, v) :: t, lo, hw => by
    simp only [cellsWf, Bool.and_eq_true, decide_eq_true_eq] at hw
    rw [List.filter_cons]
    split
    · rename_i h
      simp only [cellsWf, Bool.and_eq_true, decide_eq_true_eq]
      refine ⟨⟨hw.1.1, ?_⟩, lose_cells hw.2⟩
      have hout : ¬ (f.lo ≤ i ∧ i < f.hi) := by
        simp only [Bool.or_eq_true, decide_eq_true_eq] at h
        omega
      have h2 := hw.1.2
      unfold underZero
      rw [if_neg hout]
      exact h2
    · exact cellsWf_mono (by omega) (lose_cells hw.2)

/-- A lost range keeps the canonical form. -/
theorem Memory.lose_wf {m : Memory} {lo hi : Nat} {src : FillSrc} (h : m.wf = true) : (m.lose lo hi src).wf = true :=
  lose_cells h

end Sys2Proof.Machine
end

