-- ==== Sys2Proof/Laws/Kept.lean ====
section
/-! SUPPORT. What every operation of the model keeps, as a preorder on states, and its rules for the record updates the
model is written in. -/

-- In order: this many theorems side by side ask for more threads than fit.
set_option Elab.async false
-- One list of moves serves every lemma; a lemma that needs few of them leaves the rest unused.
set_option linter.unusedTactic false
set_option linter.unreachableTactic false

namespace Sys2Proof.Machine

/-- The Finial's part of what is kept. -/
structure FinKept (f g : Finial) : Prop where
  serial : g.serial = f.serial
  stepping : g.stepping = f.stepping
  fin : f.finCtr ≤ g.finCtr
  blf : f.blfCtr ≤ g.blfCtr
  keys : f.keysBlown = true → g.keysBlown = true
  lc : lifecycleOk f = true → lifecycleOk g = true ∧ f.lc ≤ g.lc
  boot : bootOk f = true → bootOk g = true
  cmp : CmpOk f → CmpOk g

/-- Where a run of operations began, and whether power may be lost in it. -/
structure Origin where
  s : State
  power : Bool

/-- The queue stays, draws go on, the Finial is kept, a sound state stays sound, and without a loss of power the straps stay
and a sealed device stays sealed. -/
structure Kept (r : Origin) (t : State) : Prop where
  pending : t.pending = r.s.pending
  draws : r.s.draws ≤ t.draws
  fin : FinKept r.s.fin t.fin
  mem : r.s.mem.wf = true → t.mem.wf = true
  host : r.s.host.wf = true → t.host.wf = true
  regs : tabWf regReset 0 r.s.regs = true → tabWf regReset 0 t.regs = true
  log : r.s.flt.log.length ≤ 4096 → t.flt.log.length ≤ 4096
  sealed : r.power = true ∨ (r.s.flt.sealed = true → t.flt.sealed = true)
  hif : HifOk r.s.hif → HifOk t.hif
  dome : DomeOk r.s.dome → DomeOk t.dome
  fab : FabOk r.s.fab → FabOk t.fab
  mif : MifOk r.s.mif → MifOk t.mif
  chime : ChimeOk r.s.chime → ChimeOk t.chime
  strap : r.power = true ∨ t.fin.strap = r.s.fin.strap

theorem tabPut_fold {α : Type} [DecidableEq α] {d : Nat → α} {f : Nat → α} : ∀ {l : List Nat} {t : Tab α}, tabWf d 0 t = true →
    tabWf d 0 (l.foldl (fun t k => tabPut d t k (f k)) t) = true
  | [], _, h => h
  | k :: l, t, h => by
    rw [List.foldl_cons]
    exact tabPut_fold (tabPut_wf (Nat.zero_le _) h)

theorem freshHif_ok (s : State) : HifOk (freshHif s) := ⟨rfl, rfl⟩
theorem freshMif_ok (s : State) (l : List Nat) : MifOk (freshMif s l) := ⟨rfl, rfl⟩
theorem freshFabric_ok (s : State) : FabOk (freshFabric s) := by
  unfold FabOk freshFabric
  generalize List.range 96 = l
  exact tabPut_fold (f := fun l => freshLink (link s l)) (t := []) rfl
theorem freshDome_ok (s : State) (b : Bool) : DomeOk (freshDome s b) := by
  unfold DomeOk freshDome
  dsimp only
  generalize List.range 16 = l
  refine ⟨?_, rfl, rfl, rfl, rfl⟩
  exact tabPut_fold (t := []) rfl

theorem FinKept.refl (f : Finial) : FinKept f f :=
  ⟨rfl, rfl, Nat.le_refl _, Nat.le_refl _, fun h => h, fun h => ⟨h, Nat.le_refl _⟩, fun h => h, fun h => h⟩

theorem FinKept.trans {f g h : Finial} (a : FinKept f g) (b : FinKept g h) : FinKept f h :=
  ⟨b.serial.trans a.serial, b.stepping.trans a.stepping, Nat.le_trans a.fin b.fin, Nat.le_trans a.blf b.blf,
    fun w => b.keys (a.keys w), fun w => ⟨(b.lc (a.lc w).1).1, Nat.le_trans (a.lc w).2 (b.lc (a.lc w).1).2⟩,
    fun w => b.boot (a.boot w), fun w => b.cmp (a.cmp w)⟩

/-- A Finial whose counters, lifecycle and keys stand, with the boot's state argued. -/
theorem FinKept.mk' {f g : Finial} (h1 : g.serial = f.serial) (h2 : g.stepping = f.stepping) (h3 : g.finCtr = f.finCtr)
    (h4 : g.blfCtr = f.blfCtr) (h5 : g.lc = f.lc) (h6 : g.lcBurn = f.lcBurn) (h7 : g.keysBlown = f.keysBlown)
    (h8 : CmpOk f → CmpOk g) (hb : bootOk f = true → bootOk g = true) : FinKept f g :=
  ⟨h1, h2, Nat.le_of_eq h3.symm, Nat.le_of_eq h4.symm, fun w => h7.trans w,
    fun w => ⟨by simpa only [lifecycleOk, h5, h6] using w, Nat.le_of_eq h5.symm⟩, hb, h8⟩

/-- A Finial with other fields replaced. -/
theorem FinKept.same {f g : Finial} (h1 : g.serial = f.serial) (h2 : g.stepping = f.stepping) (h3 : g.finCtr = f.finCtr)
    (h4 : g.blfCtr = f.blfCtr) (h5 : g.lc = f.lc) (h6 : g.lcBurn = f.lcBurn) (h7 : g.keysBlown = f.keysBlown)
    (h8 : g.stage = f.stage) (h9 : g.ready = f.ready) (h10 : g.krefLostBoot = f.krefLostBoot) (h11 : g.finSvn = f.finSvn)
    (h12 : g.blfSvn = f.blfSvn) (h13 : g.belfryImage = f.belfryImage) (h14 : CmpOk f → CmpOk g) : FinKept f g :=
  FinKept.mk' h1 h2 h3 h4 h5 h6 h7 h14
    fun w => by simpa only [bootOk, h3, h4, h8, h9, h10, h11, h12, h13] using w

theorem Kept.refl (s : State) (p : Bool) : Kept ⟨s, p⟩ s :=
  ⟨rfl, Nat.le_refl _, FinKept.refl _, fun h => h, fun h => h, fun h => h, fun h => h, .inr fun h => h, fun h => h, fun h => h, fun h => h, fun h => h,
    fun h => h, .inr rfl⟩

/-- A state written out over another. -/
theorem Kept.lit {r : Origin} {s : State} (a : Kept r s) {d : Nat} {tm : TimeState} {regs : Tab Word} {mem host : Memory}
    {hif : HostIf} {ops : List Op} {n : Nat} {dome : Dome} {fab : Fabric} {flt : FaultState} {mif : MemIf} {ch : Chime}
    {fin : Finial} {w : Wamos}
    (hd : s.draws ≤ d := by first | exact Nat.le_refl _ | exact Nat.le_add_right _ _ | omega)
    (hr : tabWf regReset 0 s.regs = true → tabWf regReset 0 regs = true
      := by first | exact fun x => x | exact tabPut_wf (Nat.zero_le _) | exact tabWf_filter)
    (hm : s.mem.wf = true → mem.wf = true := by first | exact fun x => x | exact Memory.putBytes_wf | exact Memory.lose_wf)
    (hh : s.host.wf = true → host.wf = true := by first | exact fun x => x | exact Memory.putBytes_wf)
    (hl : s.flt.log.length ≤ 4096 → flt.log.length ≤ 4096
      := by first | exact fun x => x | exact fun _ => List.length_take_le _ _ | simp)
    (hs : r.power = true ∨ (s.flt.sealed = true → flt.sealed = true)
      := by first | exact .inr (fun x => x) | exact .inr (fun _ => rfl))
    (hi : HifOk s.hif → HifOk hif := by
      first
        | exact fun x => x
        | exact fun _ => freshHif_ok _
        | (refine And.imp ?_ ?_ <;> first | exact fun x => x | exact tabPut_wf (Nat.zero_le _) | exact fun _ => rfl))
    (ho : DomeOk s.dome → DomeOk dome := by
      first
        | exact fun x => x
        | exact fun _ => freshDome_ok _ _
        | (refine And.imp ?_ (And.imp ?_ (And.imp ?_ (And.imp ?_ ?_))) <;> first | exact fun x => x | exact tabPut_wf (Nat.zero_le _) | exact fun _ => rfl))
    (hb : FabOk s.fab → FabOk fab := by
      first
        | exact fun x => x
        | exact tabPut_wf (Nat.zero_le _)
        | exact fun _ => freshFabric_ok _
        | exact fun _ => rfl)
    (hj : MifOk s.mif → MifOk mif := by
      first
        | exact fun x => x
        | exact fun _ => freshMif_ok _ _
        | (refine And.imp ?_ ?_ <;> first | exact fun x => x | exact tabPut_wf (Nat.zero_le _) | exact fun _ => rfl))
    (hc : ChimeOk s.chime → ChimeOk ch := by
      first
        | exact fun x => x
        | exact tabPut_wf (Nat.zero_le _)
        | exact fun _ => rfl)
    (hf : FinKept s.fin fin := by
      first
        | exact FinKept.refl _
        | exact FinKept.same rfl rfl rfl rfl rfl rfl rfl rfl rfl rfl rfl rfl rfl (fun x => x)
        | exact FinKept.same rfl rfl rfl rfl rfl rfl rfl rfl rfl rfl rfl rfl rfl (tabPut_wf (Nat.zero_le _))
        | exact FinKept.mk' rfl rfl rfl rfl rfl rfl rfl (fun x => x) (fun w => by simp only [bootOk] at w ⊢; grind))
    (hg : r.power = true ∨ fin.strap = s.fin.strap := by first | exact .inr rfl | exact .inl rfl) :
    Kept r ⟨s.pending, d, tm, regs, mem, host, hif, ops, n, dome, fab, flt, mif, ch, fin, w⟩ :=
  ⟨a.pending, Nat.le_trans a.draws hd, a.fin.trans hf, fun h => hm (a.mem h), fun h => hh (a.host h),
    fun h => hr (a.regs h), fun h => hl (a.log h),
    hs.elim .inl fun h => a.sealed.elim .inl fun g => .inr fun x => h (g x), fun h => hi (a.hif h), fun h => ho (a.dome h),
    fun h => hb (a.fab h), fun h => hj (a.mif h), fun h => hc (a.chime h),
    hg.elim .inl fun h => a.strap.elim .inl fun g => .inr (h.trans g)⟩

theorem Kept.ite {c : Prop} [Decidable c] {r : Origin} {s t : State} (a : Kept r s) (b : Kept r t) : Kept r (if c then s else t) := by
  split
  · exact a
  · exact b

/-- A fold of operations that each keep. -/
theorem Kept.foldl {α : Type} {r : Origin} {f : State → α → State} (hf : ∀ s a, Kept r s → Kept r (f s a)) :
    ∀ {l : List α} {s : State}, Kept r s → Kept r (l.foldl f s)
  | [], _, h => h
  | a :: l, s, h => by
    rw [List.foldl_cons]
    exact Kept.foldl hf (hf s a h)

/-- The same with a second component. -/
theorem Kept.foldl1 {α β : Type} {r : Origin} {f : State × β → α → State × β} (hf : ∀ s a, Kept r s.1 → Kept r (f s a).1) :
    ∀ {l : List α} {s : State × β}, Kept r s.1 → Kept r (l.foldl f s).1
  | [], _, h => h
  | a :: l, s, h => by
    rw [List.foldl_cons]
    exact Kept.foldl1 hf (hf s a h)

/-- An optional state that is kept where there is one. -/
def KeptOpt (r : Origin) (o : Option State) : Prop := ∀ t, o = Option.some t → Kept r t

theorem KeptOpt.none (r : Origin) : KeptOpt r Option.none := fun _ h => nomatch h
theorem KeptOpt.some {r : Origin} {t : State} (h : Kept r t) : KeptOpt r (Option.some t) := fun _ e => Option.some.inj e ▸ h
theorem KeptOpt.getD {r : Origin} {t : State} {o : Option State} (ho : KeptOpt r o) (h : Kept r t) : Kept r (o.getD t) := by
  cases o with
  | none => exact h
  | some x => exact ho x rfl

/-- What became of a write keeps, where it is a state. -/
def WroteKept (r : Origin) (w : Wrote) : Prop := ∀ t, w = .done t ∨ w = .limit t → Kept r t

theorem WroteKept.wait (r : Origin) (b : Bool) : WroteKept r (.wait b) := fun _ h => h.elim (fun e => nomatch e) (fun e => nomatch e)
theorem WroteKept.done {r : Origin} {t : State} (h : Kept r t) : WroteKept r (.done t) :=
  fun _ e => e.elim (fun e => Wrote.done.inj e ▸ h) (fun e => nomatch e)
theorem WroteKept.limit {r : Origin} {t : State} (h : Kept r t) : WroteKept r (.limit t) :=
  fun _ e => e.elim (fun e => nomatch e) (fun e => Wrote.limit.inj e ▸ h)
theorem WroteKept.done_of {r : Origin} {t : State} {w : Wrote} (h : WroteKept r w) (e : w = .done t) : Kept r t := h t (.inl e)
theorem WroteKept.limit_of {r : Origin} {t : State} {w : Wrote} (h : WroteKept r w) (e : w = .limit t) : Kept r t := h t (.inr e)
/-- Remote rows: what waits for them keeps. -/
def FetchKept (r : Origin) (w : Fetched) : Prop := ∀ t, w = .wait t → Kept r t
theorem FetchKept.wait {r : Origin} {t : State} (h : Kept r t) : FetchKept r (.wait t) := fun _ e => Fetched.wait.inj e ▸ h
theorem FetchKept.ready (r : Origin) (l : List RowReply) : FetchKept r (.ready l) := fun _ e => nomatch e
theorem FetchKept.of {r : Origin} {t : State} {w : Fetched} (h : FetchKept r w) (e : w = .wait t) : Kept r t := h t e

/-- Contributions given keep. -/
def GivenKept (r : Origin) (w : Given) : Prop := ∀ t, w = .done t → Kept r t
theorem GivenKept.wait (r : Origin) : GivenKept r .wait := fun _ e => nomatch e
theorem GivenKept.over (r : Origin) : GivenKept r .over := fun _ e => nomatch e
theorem GivenKept.done {r : Origin} {t : State} (h : Kept r t) : GivenKept r (.done t) := fun _ e => Given.done.inj e ▸ h
theorem GivenKept.of {r : Origin} {t : State} {w : Given} (h : GivenKept r w) (e : w = .done t) : Kept r t := h t e

/-- A state in place of bytes keeps. -/
def SumKept (r : Origin) {α : Type} (w : State ⊕ α) : Prop := ∀ t, w = .inl t → Kept r t
theorem SumKept.inl {r : Origin} {t : State} {α : Type} (h : Kept r t) : SumKept r (α := α) (.inl t) := fun _ e => Sum.inl.inj e ▸ h
theorem SumKept.inr (r : Origin) {α : Type} (l : α) : SumKept r (.inr l) := fun _ e => nomatch e
theorem SumKept.of {r : Origin} {t : State} {α : Type} {w : State ⊕ α} (h : SumKept r w) (e : w = .inl t) : Kept r t := h t e

/-- What became of a tile keeps. -/
def TileKept (r : Origin) (w : TileOut) : Prop := ∀ t, w = .done t → Kept r t
theorem TileKept.wait (r : Origin) : TileKept r .wait := fun _ e => nomatch e
theorem TileKept.done {r : Origin} {t : State} (h : Kept r t) : TileKept r (.done t) := fun _ e => TileOut.done.inj e ▸ h
theorem TileKept.of {r : Origin} {t : State} {w : TileOut} (h : TileKept r w) (e : w = .done t) : Kept r t := h t e
theorem TileKept.ite {r : Origin} {c : Prop} [Decidable c] {v w : TileOut} (a : TileKept r v) (b : TileKept r w) :
    TileKept r (if c then v else w) := by
  split
  · exact a
  · exact b

/-- The state in which a fused tile leaves the device. -/
def Fused.state : Fused → State
  | .wait s => s
  | .done s => s

/-- What comes of a fused tile keeps. -/
def FusedKept (r : Origin) (w : Fused) : Prop := Kept r w.state

theorem FusedKept.wait {r : Origin} {t : State} (h : Kept r t) : FusedKept r (.wait t) := h
theorem FusedKept.done {r : Origin} {t : State} (h : Kept r t) : FusedKept r (.done t) := h
theorem FusedKept.wait_of {r : Origin} {t : State} {w : Fused} (h : FusedKept r w) (e : w = .wait t) : Kept r t := by
  subst e; exact h
theorem FusedKept.done_of {r : Origin} {t : State} {w : Fused} (h : FusedKept r w) (e : w = .done t) : Kept r t := by
  subst e; exact h

/-- The state in which a packet leaves the device. -/
def Taken.state : Taken → State
  | .accept s => s
  | .drop s => s
  | .answered s _ => s
  | .hold s => s

/-- What comes of a packet keeps. -/
def TakenKept (r : Origin) (w : Taken) : Prop := Kept r w.state

theorem TakenKept.hold {r : Origin} {t : State} (h : Kept r t) : TakenKept r (.hold t) := h
theorem TakenKept.accept {r : Origin} {t : State} (h : Kept r t) : TakenKept r (.accept t) := h
theorem TakenKept.drop {r : Origin} {t : State} (h : Kept r t) : TakenKept r (.drop t) := h
theorem TakenKept.answered {r : Origin} {t : State} {n : Nat} (h : Kept r t) : TakenKept r (.answered t n) := h
theorem TakenKept.hold_of {r : Origin} {t : State} {w : Taken} (h : TakenKept r w) (e : w = .hold t) : Kept r t := by
  subst e; exact h
theorem TakenKept.accept_of {r : Origin} {t : State} {w : Taken} (h : TakenKept r w) (e : w = .accept t) : Kept r t := by
  subst e; exact h
theorem TakenKept.drop_of {r : Origin} {t : State} {w : Taken} (h : TakenKept r w) (e : w = .drop t) : Kept r t := by
  subst e; exact h
theorem TakenKept.answered_of {r : Origin} {t : State} {w : Taken} {n : Nat} (h : TakenKept r w)
    (e : w = .answered t n) : Kept r t := by
  subst e; exact h

theorem KeptOpt.map {r : Origin} {α : Type} {f : α → State} {o : Option α} (hf : ∀ a, Kept r (f a)) : KeptOpt r (o.map f) := by
  cases o with
  | none => exact KeptOpt.none r
  | some a => exact KeptOpt.some (hf a)
theorem KeptOpt.of {r : Origin} {t : State} {o : Option State} (h : KeptOpt r o) (e : o = Option.some t) : Kept r t := h t e

end Sys2Proof.Machine
end

