-- ==== Sys2Proof/Laws/KeptOps.lean ====
section
/-! SUPPORT. What every operation keeps (Laws/Kept): the shared operations, the network, copies and the reduction. -/

set_option Elab.async false
set_option linter.unusedTactic false
set_option linter.unreachableTactic false

namespace Sys2Proof.Machine

/-! ### Regs -/

theorem regPut_kept {z0 : Origin} {s : State} {off : Nat} {v : Word} (h0 : Kept z0 s) :
    Kept z0 (regPut s off v) := by
  unfold regPut
  try dsimp only
  repeat' first
    | with_reducible assumption | with_reducible exact Kept.refl _ _ | split
    | (fail_if_no_progress with_reducible refine Kept.lit ?_)

theorem regSet_kept {z0 : Origin} {s : State} {off hi lo x : Nat} (h0 : Kept z0 s) :
    Kept z0 (regSet s off hi lo x) := by
  unfold regSet
  try dsimp only
  repeat' first
    | with_reducible assumption | with_reducible exact Kept.refl _ _ | with_reducible apply regPut_kept | split

theorem regAccept_kept {z0 : Origin} {s : State} {off : Nat} {v : Word} (h0 : Kept z0 s) :
    Kept z0 (regAccept s off v) := by
  unfold regAccept
  try dsimp only
  repeat' first
    | with_reducible assumption | with_reducible exact Kept.refl _ _ | with_reducible apply regPut_kept | split

theorem regCount_kept {z0 : Origin} {s : State} {off n : Nat} (h0 : Kept z0 s) :
    Kept z0 (regCount s off n) := by
  unfold regCount
  try dsimp only
  repeat' first
    | with_reducible assumption | with_reducible exact Kept.refl _ _ | with_reducible apply regPut_kept | split

/-! ### Ops -/

theorem periodRestart_kept {z0 : Origin} {s : State} (h0 : Kept z0 s) :
    Kept z0 (periodRestart s) := by
  unfold periodRestart
  try dsimp only
  repeat' first
    | with_reducible assumption | with_reducible exact Kept.refl _ _ | split
    | (fail_if_no_progress with_reducible refine Kept.lit ?_)

theorem drawFree_kept {z0 : Origin} {s : State} (h0 : Kept z0 s) :
    Kept z0 (drawFree s).2 := by
  unfold drawFree
  try dsimp only
  repeat' first
    | with_reducible assumption | with_reducible exact Kept.refl _ _ | split
    | (fail_if_no_progress with_reducible refine Kept.lit ?_)

theorem drawBytes_kept {z0 : Origin} {n : Nat} {s : State} (h0 : Kept z0 s) :
    Kept z0 (drawBytes n s).2 := by
  unfold drawBytes
  try dsimp only
  repeat' first
    | with_reducible assumption | with_reducible exact Kept.refl _ _ | with_reducible apply drawFree_kept | split

theorem eqPut_kept {z0 : Origin} {s : State} {q : Nat} {e : EvQueue} (h0 : Kept z0 s) :
    Kept z0 (eqPut s q e) := by
  unfold eqPut
  try dsimp only
  repeat' first
    | with_reducible assumption | with_reducible exact Kept.refl _ _ | split
    | (fail_if_no_progress with_reducible refine Kept.lit ?_)

theorem putRecord_kept {z0 : Origin} {s : State} {q count : Nat} {lost : Bool} {bs : List Byte} (h0 : Kept z0 s) :
    Kept z0 (putRecord s q count lost bs) := by
  unfold putRecord
  try dsimp only
  repeat' first
    | with_reducible assumption | with_reducible exact Kept.refl _ _ | with_reducible apply KeptOpt.getD | split
    | (fail_if_no_progress with_reducible refine Kept.lit ?_)

theorem sendIrq_kept {z0 : Origin} {s : State} {q : Nat} (h0 : Kept z0 s) :
    Kept z0 (sendIrq s q) := by
  unfold sendIrq
  try dsimp only
  repeat' first
    | with_reducible assumption | with_reducible exact Kept.refl _ _ | with_reducible apply eqPut_kept
    | with_reducible apply Kept.ite | split | (fail_if_no_progress with_reducible refine Kept.lit ?_)

theorem postRecords_kept {z0 : Origin} {s : State} {q : Nat} {bs : List Byte} {ext : Option (List Byte)} {now : Bool} (h0 : Kept z0 s) :
    Kept z0 (postRecords s q bs ext now) := by
  unfold postRecords
  try dsimp only
  repeat' first
    | with_reducible assumption | with_reducible exact Kept.refl _ _ | with_reducible apply sendIrq_kept
    | with_reducible apply putRecord_kept | with_reducible apply eqPut_kept | with_reducible apply Kept.ite | split
    | (fail_if_no_progress with_reducible refine Kept.lit ?_)

theorem deviceEvent_kept {z0 : Origin} {s : State} {code : Nat} {st : Status} {payload : List Byte} (h0 : Kept z0 s) :
    Kept z0 (deviceEvent s code st payload) := by
  unfold deviceEvent
  try dsimp only
  repeat' first
    | with_reducible assumption | with_reducible exact Kept.refl _ _ | with_reducible apply postRecords_kept
    | with_reducible apply eqPut_kept | with_reducible apply regCount_kept | with_reducible apply Kept.ite | split
    | (fail_if_no_progress with_reducible refine Kept.lit ?_)

theorem configIgnored_kept {z0 : Origin} {s : State} {off : Nat} {v : Word} {held : Bool} (h0 : Kept z0 s) :
    Kept z0 (configIgnored s off v held) := by
  unfold configIgnored
  try dsimp only
  repeat' first
    | with_reducible assumption | with_reducible exact Kept.refl _ _ | with_reducible apply deviceEvent_kept
    | with_reducible apply Kept.ite | split

theorem ocuConfig_kept {z0 : Origin} {s : State} {off : Nat} (h0 : Kept z0 s) :
    Kept z0 (ocuConfig s off) := by
  unfold ocuConfig
  try dsimp only
  repeat' first
    | with_reducible assumption | with_reducible exact Kept.refl _ _ | with_reducible apply deviceEvent_kept | split

theorem raiseFault_kept {z0 : Origin} {s : State} {die unit kind addr : Nat} (h0 : Kept z0 s) :
    Kept z0 (raiseFault s die unit kind addr) := by
  unfold raiseFault
  try dsimp only
  repeat' first
    | with_reducible assumption | with_reducible exact Kept.refl _ _ | with_reducible apply Kept.ite | split
    | (fail_if_no_progress with_reducible refine Kept.lit ?_)

theorem belfryPut_kept {z0 : Origin} {s : State} {b : Nat} {x : Belfry} (h0 : Kept z0 s) :
    Kept z0 (belfryPut s b x) := by
  unfold belfryPut
  try dsimp only
  repeat' first
    | with_reducible assumption | with_reducible exact Kept.refl _ _ | split
    | (fail_if_no_progress with_reducible refine Kept.lit ?_)

theorem turretPut_kept {z0 : Origin} {s : State} {t : Nat} {x : Turret} (h0 : Kept z0 s) :
    Kept z0 (turretPut s t x) := by
  unfold turretPut
  try dsimp only
  repeat' first
    | with_reducible assumption | with_reducible exact Kept.refl _ _ | split
    | (fail_if_no_progress with_reducible refine Kept.lit ?_)

theorem devWrite_kept {z0 : Origin} {s : State} {a : Nat} {bs : List Byte} (h0 : Kept z0 s) :
    Kept z0 (devWrite s a bs) := by
  unfold devWrite
  try dsimp only
  repeat' first
    | with_reducible assumption | with_reducible exact Kept.refl _ _ | with_reducible apply Kept.ite | split
    | (fail_if_no_progress with_reducible refine Kept.lit ?_)

theorem setSliceState_kept {z0 : Origin} {s : State} {i v : Nat} (h0 : Kept z0 s) :
    Kept z0 (setSliceState s i v) := by
  unfold setSliceState
  try dsimp only
  repeat' first
    | with_reducible assumption | with_reducible exact Kept.refl _ _ | with_reducible apply devWrite_kept | split

theorem setSliceVer_kept {z0 : Origin} {s : State} {i k v : Nat} (h0 : Kept z0 s) :
    Kept z0 (setSliceVer s i k v) := by
  unfold setSliceVer
  try dsimp only
  repeat' first
    | with_reducible assumption | with_reducible exact Kept.refl _ _ | with_reducible apply devWrite_kept | split

theorem setSlicePin_kept {z0 : Origin} {s : State} {i k v : Nat} (h0 : Kept z0 s) :
    Kept z0 (setSlicePin s i k v) := by
  unfold setSlicePin
  try dsimp only
  repeat' first
    | with_reducible assumption | with_reducible exact Kept.refl _ _ | with_reducible apply devWrite_kept | split

theorem opUpdate_kept {z0 : Origin} {s : State} {id : Nat} {f : Op → Op} (h0 : Kept z0 s) :
    Kept z0 (opUpdate s id f) := by
  unfold opUpdate
  try dsimp only
  repeat' first
    | with_reducible assumption | with_reducible exact Kept.refl _ _ | with_reducible apply Kept.ite | split
    | (fail_if_no_progress with_reducible refine Kept.lit ?_)

theorem txnUpdate_kept {z0 : Origin} {s : State} {num : Nat} {f : Txn → Txn} (h0 : Kept z0 s) :
    Kept z0 (txnUpdate s num f) := by
  unfold txnUpdate
  try dsimp only
  repeat' first
    | with_reducible assumption | with_reducible exact Kept.refl _ _ | with_reducible apply Kept.ite | split
    | (fail_if_no_progress with_reducible refine Kept.lit ?_)

theorem setHealth_kept {z0 : Origin} {s : State} {bitNo : Nat} (h0 : Kept z0 s) :
    Kept z0 (setHealth s bitNo) := by
  unfold setHealth
  try dsimp only
  repeat' first
    | with_reducible assumption | with_reducible exact Kept.refl _ _ | split
    | (fail_if_no_progress with_reducible refine Kept.lit ?_)

theorem abortTxn_kept {z0 : Origin} {s : State} {num : Nat} {cause : Status} (h0 : Kept z0 s) :
    Kept z0 (abortTxn s num cause) := by
  unfold abortTxn
  try dsimp only
  repeat' first
    | with_reducible assumption | with_reducible exact Kept.refl _ _ | with_reducible apply setHealth_kept
    | with_reducible apply txnUpdate_kept | with_reducible apply Kept.ite | split
    | (fail_if_no_progress with_reducible refine Kept.lit ?_)

theorem producerPut_kept {z0 : Origin} {s : State} {tag : Nat} {p : Option (Nat × Option Status)} (h0 : Kept z0 s) :
    Kept z0 (producerPut s tag p) := by
  unfold producerPut
  try dsimp only
  repeat' first
    | with_reducible assumption | with_reducible exact Kept.refl _ _ | split
    | (fail_if_no_progress with_reducible refine Kept.lit ?_)

theorem producerDone_kept {z0 : Origin} {s : State} {id tag : Nat} {st : Status} (h0 : Kept z0 s) :
    Kept z0 (producerDone s id tag st) := by
  unfold producerDone
  try dsimp only
  repeat' first
    | with_reducible assumption | with_reducible exact Kept.refl _ _ | with_reducible apply producerPut_kept
    | with_reducible apply Kept.ite | split

theorem opDone_kept {z0 : Origin} {s : State} {id : Nat} {st : Status} (h0 : Kept z0 s) :
    Kept z0 (opDone s id st) := by
  unfold opDone
  try dsimp only
  repeat' first
    | with_reducible assumption | with_reducible exact Kept.refl _ _ | with_reducible apply opUpdate_kept
    | with_reducible apply Kept.ite | split | (fail_if_no_progress with_reducible refine Kept.lit ?_)

theorem opStrictFail_kept {z0 : Origin} {s : State} {id : Nat} {st : Status} (h0 : Kept z0 s) :
    Kept z0 (opStrictFail s id st) := by
  unfold opStrictFail
  try dsimp only
  repeat' first
    | with_reducible assumption | with_reducible exact Kept.refl _ _ | with_reducible apply opDone_kept
    | with_reducible apply setHealth_kept | split

theorem opTally_kept {z0 : Origin} {s : State} {id : Nat} {t : Tally} (h0 : Kept z0 s) :
    Kept z0 (opTally s id t) := by
  unfold opTally
  try dsimp only
  repeat' first
    | with_reducible assumption | with_reducible exact Kept.refl _ _ | with_reducible apply opUpdate_kept | split
    | (fail_if_no_progress with_reducible refine Kept.lit ?_)

theorem askHost_kept {z0 : Origin} {s : State} {id a : Nat} (h0 : Kept z0 s) :
    Kept z0 (askHost s id a) := by
  unfold askHost
  try dsimp only
  repeat' first
    | with_reducible assumption | with_reducible exact Kept.refl _ _ | with_reducible apply opUpdate_kept
    | with_reducible apply Kept.ite | split | (fail_if_no_progress with_reducible refine Kept.lit ?_)

theorem applyBytes_kept {z0 : Origin} {s : State} {a : Nat} {bs : List Byte} (h0 : Kept z0 s) :
    Kept z0 (applyBytes s a bs) := by
  unfold applyBytes
  try dsimp only
  repeat' first
    | with_reducible assumption | with_reducible exact Kept.refl _ _ | split
    | (fail_if_no_progress with_reducible refine Kept.lit ?_)

theorem sketchClear_kept {z0 : Origin} {s : State} {id : Nat} (h0 : Kept z0 s) :
    Kept z0 (sketchClear s id) := by
  unfold sketchClear
  try dsimp only
  repeat' first
    | with_reducible assumption | with_reducible exact Kept.refl _ _ | with_reducible apply Kept.ite
    | (with_reducible apply Kept.foldl; intro _ _ _; try dsimp only)
    | (with_reducible apply Kept.foldl1; intro _ _ _; try dsimp only) | split
    | (fail_if_no_progress with_reducible refine Kept.lit ?_)

theorem dirSwap_kept {z0 : Origin} {old new : State} {ids : List Nat} (h0 : Kept z0 old) (h1 : Kept z0 new) :
    Kept z0 (dirSwap old new ids) := by
  unfold dirSwap
  try dsimp only
  repeat' first
    | with_reducible assumption | with_reducible exact Kept.refl _ _ | with_reducible apply sketchClear_kept
    | (with_reducible apply Kept.foldl; intro _ _ _; try dsimp only)
    | (with_reducible apply Kept.foldl1; intro _ _ _; try dsimp only) | split
    | (fail_if_no_progress with_reducible refine Kept.lit ?_)

theorem plainPart_kept {z0 : Origin} {wakes : Bool} {s : State} {p : Nat × List Byte} (h0 : Kept z0 s) :
    Kept z0 (plainPart wakes s p) := by
  unfold plainPart
  try dsimp only
  repeat' first
    | with_reducible assumption | with_reducible exact Kept.refl _ _ | with_reducible apply dirSwap_kept
    | with_reducible apply applyBytes_kept | with_reducible apply Kept.ite | split
    | (fail_if_no_progress with_reducible refine Kept.lit ?_)

theorem plainConflicts_kept {z0 : Origin} {s : State} {a n : Nat} (h0 : Kept z0 s) :
    Kept z0 (plainConflicts s a n) := by
  unfold plainConflicts
  try dsimp only
  repeat' first
    | with_reducible assumption | with_reducible exact Kept.refl _ _ | with_reducible apply abortTxn_kept
    | (with_reducible apply Kept.foldl; intro _ _ _; try dsimp only)
    | (with_reducible apply Kept.foldl1; intro _ _ _; try dsimp only) | split

theorem plainWrite_kept {z0 : Origin} {s : State} {a : Nat} {bs : List Byte} {wakes : Bool} (h0 : Kept z0 s) :
    Kept z0 (plainWrite s a bs wakes) := by
  unfold plainWrite
  try dsimp only
  repeat' first
    | with_reducible assumption | with_reducible exact Kept.refl _ _ | with_reducible apply plainConflicts_kept
    | with_reducible apply plainPart_kept | (with_reducible apply Kept.foldl; intro _ _ _; try dsimp only)
    | (with_reducible apply Kept.foldl1; intro _ _ _; try dsimp only) | split

theorem stageWrite_kept {z0 : Origin} {s : State} {num a : Nat} {bs : List Byte} (h0 : Kept z0 s) :
    WroteKept z0 (stageWrite s num a bs) := by
  unfold stageWrite
  try dsimp only
  repeat' first
    | with_reducible assumption | with_reducible exact Kept.refl _ _ | with_reducible apply abortTxn_kept
    | with_reducible apply txnUpdate_kept | with_reducible apply Kept.ite
    | (with_reducible apply Kept.foldl; intro _ _ _; try dsimp only)
    | (with_reducible apply Kept.foldl1; intro _ _ _; try dsimp only) | with_reducible apply KeptOpt.getD
    | with_reducible exact WroteKept.wait _ _ | with_reducible apply WroteKept.done
    | with_reducible apply WroteKept.limit | split | (fail_if_no_progress with_reducible refine Kept.lit ?_)

theorem keepBefore_kept {z0 : Origin} {s : State} {o : Op} {a n : Nat} (h0 : Kept z0 s) :
    Kept z0 (keepBefore s o a n) := by
  unfold keepBefore
  try dsimp only
  repeat' first
    | with_reducible assumption | with_reducible exact Kept.refl _ _ | with_reducible apply opUpdate_kept | split
    | (fail_if_no_progress with_reducible refine Kept.lit ?_)

theorem opWrite_kept {z0 : Origin} {s : State} {o : Op} {a : Nat} {bs : List Byte} (h0 : Kept z0 s) :
    WroteKept z0 (opWrite s o a bs) := by
  unfold opWrite
  try dsimp only
  repeat' first
    | with_reducible assumption | with_reducible exact Kept.refl _ _ | with_reducible apply keepBefore_kept
    | with_reducible apply stageWrite_kept | with_reducible apply plainWrite_kept | with_reducible apply applyBytes_kept
    | (refine WroteKept.done_of ?_ (by with_reducible assumption))
    | (refine WroteKept.limit_of ?_ (by with_reducible assumption)) | with_reducible apply Kept.ite
    | with_reducible exact WroteKept.wait _ _ | with_reducible apply WroteKept.done
    | with_reducible apply WroteKept.limit | split | (fail_if_no_progress with_reducible refine Kept.lit ?_)

theorem opWrites_kept {r : Origin} : ∀ {l : List (Nat × List Byte)} {s : State} {o : Op}, Kept r s →
    WroteKept r (opWrites s o l)
  | [], _, _, h => WroteKept.done h
  | (a, bs) :: t, s, o, h => by
    have hw : WroteKept r (opWrite s o (addrOff a) bs) := opWrite_kept h
    unfold opWrites
    split
    · rename_i heq
      exact opWrites_kept (hw.done_of heq)
    · exact hw

theorem opWritesThen_kept {z0 : Origin} {s : State} {o : Op} {ws : List (Nat × List Byte)} {k : State → Wrote} (h0 : Kept z0 s) (k_k : ∀ x0, Kept z0 x0 → WroteKept z0 (k x0)) :
    WroteKept z0 (opWritesThen s o ws k) := by
  unfold opWritesThen
  try dsimp only
  repeat' first
    | with_reducible apply k_k | with_reducible assumption | with_reducible exact Kept.refl _ _
    | with_reducible apply opWrites_kept | (refine WroteKept.done_of ?_ (by with_reducible assumption))
    | (refine WroteKept.limit_of ?_ (by with_reducible assumption)) | with_reducible exact WroteKept.wait _ _
    | with_reducible apply WroteKept.done | with_reducible apply WroteKept.limit
    | (with_reducible intro _; try dsimp only) | split

theorem awaitRoom_kept {z0 : Origin} {s : State} {id : Nat} (h0 : Kept z0 s) :
    Kept z0 (awaitRoom s id) := by
  unfold awaitRoom
  try dsimp only
  repeat' first
    | with_reducible assumption | with_reducible exact Kept.refl _ _ | with_reducible apply opUpdate_kept
    | with_reducible apply Kept.ite | split | (fail_if_no_progress with_reducible refine Kept.lit ?_)

theorem awaitWrite_kept {z0 : Origin} {s : State} {id : Nat} {room : Bool} (h0 : Kept z0 s) :
    Kept z0 (awaitWrite s id room) := by
  unfold awaitWrite
  try dsimp only
  repeat' first
    | with_reducible assumption | with_reducible exact Kept.refl _ _ | with_reducible apply awaitRoom_kept
    | with_reducible apply Kept.ite | split

theorem opLimit_kept {z0 : Origin} {s : State} {o : Op} (h0 : Kept z0 s) :
    Kept z0 (opLimit s o) := by
  unfold opLimit
  try dsimp only
  repeat' first
    | with_reducible assumption | with_reducible exact Kept.refl _ _ | with_reducible apply opDone_kept
    | with_reducible apply abortTxn_kept | split

theorem opNeed_kept {z0 : Origin} {s : State} {id : Nat} {n : Need} (h0 : Kept z0 s) :
    Kept z0 (opNeed s id n) := by
  unfold opNeed
  try dsimp only
  repeat' first
    | with_reducible assumption | with_reducible exact Kept.refl _ _ | with_reducible apply askHost_kept
    | with_reducible apply opDone_kept | split

/-! ### Tokens -/

theorem tryBurst_kept {z0 : Origin} {s : State} {a u size : Nat} (h0 : Kept z0 s) :
    KeptOpt z0 (tryBurst s a u size) := by
  unfold tryBurst
  try dsimp only
  repeat' first
    | with_reducible assumption | with_reducible exact Kept.refl _ _ | with_reducible apply Kept.ite
    | with_reducible exact KeptOpt.none _ | with_reducible apply KeptOpt.some | split
    | (fail_if_no_progress with_reducible refine Kept.lit ?_)

theorem payBursts_kept {r : Origin} {a u : Nat} : ∀ {l : List Nat} {s : State}, Kept r s → Kept r (payBursts s a u l).1
  | [], _, h => h
  | c :: cs, s, h => by
    have hb : KeptOpt r (tryBurst s a u c) := tryBurst_kept h
    unfold payBursts
    split
    · rename_i heq
      exact payBursts_kept (hb.of heq)
    · exact h

theorem payBurst_kept {z0 : Origin} {s : State} {b : Burst} (h0 : Kept z0 s) :
    Kept z0 (payBurst s b).1 := by
  unfold payBurst
  try dsimp only
  repeat' first
    | with_reducible assumption | with_reducible exact Kept.refl _ _ | with_reducible apply Kept.ite | split
    | (fail_if_no_progress with_reducible refine Kept.lit ?_)

theorem payAll_kept {z0 : Origin} {s : State} {bs : List Burst} (h0 : Kept z0 s) :
    Kept z0 (payAll s bs).1 := by
  unfold payAll
  try dsimp only
  repeat' first
    | with_reducible assumption | with_reducible exact Kept.refl _ _ | with_reducible apply payBurst_kept
    | with_reducible apply Kept.ite | (with_reducible apply Kept.foldl; intro _ _ _; try dsimp only)
    | (with_reducible apply Kept.foldl1; intro _ _ _; try dsimp only) | split

theorem askTokens_kept {z0 : Origin} {s : State} {o : Op} {part : Nat} {bs : List Burst} {k : State → State} (h0 : Kept z0 s) (k_k : ∀ x0, Kept z0 x0 → Kept z0 (k x0)) :
    Kept z0 (askTokens s o part bs k) := by
  unfold askTokens
  try dsimp only
  repeat' first
    | with_reducible apply k_k | with_reducible assumption | with_reducible exact Kept.refl _ _
    | with_reducible apply payAll_kept | with_reducible apply opUpdate_kept | with_reducible apply Kept.ite | split
    | (fail_if_no_progress with_reducible refine Kept.lit ?_)

theorem payOps_kept {z0 : Origin} {s : State} (h0 : Kept z0 s) :
    Kept z0 (payOps s) := by
  unfold payOps
  try dsimp only
  repeat' first
    | with_reducible assumption | with_reducible exact Kept.refl _ _ | with_reducible apply payAll_kept
    | with_reducible apply opUpdate_kept | with_reducible apply Kept.ite
    | (with_reducible apply Kept.foldl; intro _ _ _; try dsimp only)
    | (with_reducible apply Kept.foldl1; intro _ _ _; try dsimp only) | split
    | (fail_if_no_progress with_reducible refine Kept.lit ?_)

/-! ### Access -/

theorem channelPut_kept {z0 : Origin} {s : State} {ch : Nat} {x : Channel} (h0 : Kept z0 s) :
    Kept z0 (channelPut s ch x) := by
  unfold channelPut
  try dsimp only
  repeat' first
    | with_reducible assumption | with_reducible exact Kept.refl _ _ | split
    | (fail_if_no_progress with_reducible refine Kept.lit ?_)

theorem channelUpdate_kept {z0 : Origin} {s : State} {ch : Nat} {f : Channel → Channel} (h0 : Kept z0 s) :
    Kept z0 (channelUpdate s ch f) := by
  unfold channelUpdate
  try dsimp only
  repeat' first
    | with_reducible assumption | with_reducible exact Kept.refl _ _ | with_reducible apply channelPut_kept | split

theorem wakeChannel_kept {z0 : Origin} {s : State} {ch : Nat} (h0 : Kept z0 s) :
    Kept z0 (wakeChannel s ch) := by
  unfold wakeChannel
  try dsimp only
  repeat' first
    | with_reducible assumption | with_reducible exact Kept.refl _ _ | with_reducible apply channelPut_kept
    | with_reducible apply Kept.ite | split | (fail_if_no_progress with_reducible refine Kept.lit ?_)

theorem belfryWake_kept {z0 : Origin} {s : State} {b : Nat} (h0 : Kept z0 s) :
    Kept z0 (belfryWake s b) := by
  unfold belfryWake
  try dsimp only
  repeat' first
    | with_reducible assumption | with_reducible exact Kept.refl _ _ | with_reducible apply belfryPut_kept
    | with_reducible apply Kept.ite | (with_reducible apply Kept.foldl; intro _ _ _; try dsimp only)
    | (with_reducible apply Kept.foldl1; intro _ _ _; try dsimp only) | split
    | (fail_if_no_progress with_reducible refine Kept.lit ?_)

theorem requestRange_kept {z0 : Origin} {s : State} {o n : Nat} (h0 : Kept z0 s) :
    Kept z0 (requestRange s o n).1 := by
  unfold requestRange
  try dsimp only
  repeat' first
    | with_reducible assumption | with_reducible exact Kept.refl _ _ | with_reducible apply wakeChannel_kept
    | (with_reducible apply Kept.foldl; intro _ _ _; try dsimp only)
    | (with_reducible apply Kept.foldl1; intro _ _ _; try dsimp only) | split

theorem requestRanges_kept {z0 : Origin} {s : State} {rs : List (Nat × Nat)} (h0 : Kept z0 s) :
    Kept z0 (requestRanges s rs).1 := by
  unfold requestRanges
  try dsimp only
  repeat' first
    | with_reducible assumption | with_reducible exact Kept.refl _ _ | with_reducible apply requestRange_kept
    | (with_reducible apply Kept.foldl; intro _ _ _; try dsimp only)
    | (with_reducible apply Kept.foldl1; intro _ _ _; try dsimp only) | split

theorem touchRange_kept {z0 : Origin} {s : State} {o n : Nat} (h0 : Kept z0 s) :
    Kept z0 (touchRange s o n) := by
  unfold touchRange
  try dsimp only
  repeat' first
    | with_reducible assumption | with_reducible exact Kept.refl _ _ | with_reducible apply requestRange_kept | split

theorem payNow_kept {r : Origin} {s : State} {bs : List Burst} (h : Kept r s) : KeptOpt r (payNow s bs) := by
  have hp : Kept r (payAll s bs).1 := payAll_kept h
  unfold payNow
  split
  · rename_i heq
    rw [heq] at hp
    exact KeptOpt.some hp
  · exact KeptOpt.none r

/-! ### Net -/

theorem linkPut_kept {z0 : Origin} {s : State} {l : Nat} {x : Link} (h0 : Kept z0 s) :
    Kept z0 (linkPut s l x) := by
  unfold linkPut
  try dsimp only
  repeat' first
    | with_reducible assumption | with_reducible exact Kept.refl _ _ | split
    | (fail_if_no_progress with_reducible refine Kept.lit ?_)

theorem linkUpdate_kept {z0 : Origin} {s : State} {l : Nat} {f : Link → Link} (h0 : Kept z0 s) :
    Kept z0 (linkUpdate s l f) := by
  unfold linkUpdate
  try dsimp only
  repeat' first
    | with_reducible assumption | with_reducible exact Kept.refl _ _ | with_reducible apply linkPut_kept | split

theorem txPacket_kept {z0 : Origin} {s : State} {l : Nat} {w : HeldPkt} {p : Packet} (h0 : Kept z0 s) :
    Kept z0 (txPacket s l w p) := by
  unfold txPacket
  try dsimp only
  repeat' first
    | with_reducible assumption | with_reducible exact Kept.refl _ _ | with_reducible apply linkUpdate_kept | split
    | (fail_if_no_progress with_reducible refine Kept.lit ?_)

theorem takeSlots_kept {z0 : Origin} {s : State} {p : Nat} {h : PktHdr} (h0 : Kept z0 s) :
    KeptOpt z0 (takeSlots s p h) := by
  unfold takeSlots
  try dsimp only
  repeat' first
    | with_reducible assumption | with_reducible exact Kept.refl _ _ | with_reducible apply tryBurst_kept
    | (refine KeptOpt.of ?_ (by with_reducible assumption)) | with_reducible apply Kept.ite
    | with_reducible exact KeptOpt.none _ | with_reducible apply KeptOpt.some | split
    | (fail_if_no_progress with_reducible refine Kept.lit ?_)

theorem holdPkt_kept {z0 : Origin} {s : State} {w : HeldPkt} (h0 : Kept z0 s) :
    Kept z0 (holdPkt s w) := by
  unfold holdPkt
  try dsimp only
  repeat' first
    | with_reducible assumption | with_reducible exact Kept.refl _ _ | split
    | (fail_if_no_progress with_reducible refine Kept.lit ?_)

theorem countDrop_kept {z0 : Origin} {s : State} {l : Option Nat} (h0 : Kept z0 s) :
    Kept z0 (countDrop s l) := by
  unfold countDrop
  try dsimp only
  repeat' first
    | with_reducible assumption | with_reducible exact Kept.refl _ _ | with_reducible apply regCount_kept
    | with_reducible apply KeptOpt.getD | split

theorem flowUpdate_kept {z0 : Origin} {s : State} {chip cls : Nat} {f : Flow → Flow} (h0 : Kept z0 s) :
    Kept z0 (flowUpdate s chip cls f) := by
  unfold flowUpdate
  try dsimp only
  repeat' first
    | with_reducible assumption | with_reducible exact Kept.refl _ _ | with_reducible apply Kept.ite | split
    | (fail_if_no_progress with_reducible refine Kept.lit ?_)

theorem leaveSource_kept {z0 : Origin} {s : State} {l : Nat} {p : Packet} (h0 : Kept z0 s) :
    Kept z0 (leaveSource s l p) := by
  unfold leaveSource
  try dsimp only
  repeat' first
    | with_reducible assumption | with_reducible exact Kept.refl _ _ | with_reducible apply flowUpdate_kept
    | with_reducible apply Kept.ite | split | (fail_if_no_progress with_reducible refine Kept.lit ?_)

theorem dropHeld_kept {z0 : Origin} {s : State} {w : HeldPkt} (h0 : Kept z0 s) :
    Kept z0 (dropHeld s w) := by
  unfold dropHeld
  try dsimp only
  repeat' first
    | with_reducible assumption | with_reducible exact Kept.refl _ _ | with_reducible apply countDrop_kept
    | with_reducible apply regCount_kept | with_reducible apply Kept.ite | split

theorem viaPort_kept {z0 : Origin} {s : State} {port : Nat} {w : HeldPkt} {p : Packet} (h0 : Kept z0 s) :
    Kept z0 (viaPort s port w p) := by
  unfold viaPort
  try dsimp only
  repeat' first
    | with_reducible assumption | with_reducible exact Kept.refl _ _ | with_reducible apply dropHeld_kept
    | with_reducible apply leaveSource_kept | with_reducible apply holdPkt_kept | with_reducible apply takeSlots_kept
    | with_reducible apply txPacket_kept | (refine KeptOpt.of ?_ (by with_reducible assumption))
    | with_reducible apply Kept.ite | split | (fail_if_no_progress with_reducible refine Kept.lit ?_)

theorem waitAt_kept {z0 : Origin} {s : State} {w : HeldPkt} {port : Option Nat} (h0 : Kept z0 s) :
    Kept z0 (waitAt s w port) := by
  unfold waitAt
  try dsimp only
  repeat' first
    | with_reducible assumption | with_reducible exact Kept.refl _ _ | with_reducible apply dropHeld_kept
    | with_reducible apply holdPkt_kept | with_reducible apply Kept.ite | split
    | (fail_if_no_progress with_reducible refine Kept.lit ?_)

theorem viaOwn_kept {z0 : Origin} {s : State} {q : Nat} {w : HeldPkt} (h0 : Kept z0 s) :
    Kept z0 (viaOwn s q w) := by
  unfold viaOwn
  try dsimp only
  repeat' first
    | with_reducible assumption | with_reducible exact Kept.refl _ _ | with_reducible apply waitAt_kept
    | with_reducible apply viaPort_kept | with_reducible apply Kept.ite | split

theorem routeHeld_kept {z0 : Origin} {s : State} {w : HeldPkt} (h0 : Kept z0 s) :
    Kept z0 (routeHeld s w) := by
  unfold routeHeld
  try dsimp only
  repeat' first
    | with_reducible assumption | with_reducible exact Kept.refl _ _ | with_reducible apply viaOwn_kept
    | with_reducible apply waitAt_kept | with_reducible apply viaPort_kept | with_reducible apply dropHeld_kept | split

theorem routeOut_kept {z0 : Origin} {s : State} {ingress : Option Nat} {p : Packet} (h0 : Kept z0 s) :
    Kept z0 (routeOut s ingress p) := by
  unfold routeOut
  try dsimp only
  repeat' first
    | with_reducible assumption | with_reducible exact Kept.refl _ _ | with_reducible apply routeHeld_kept
    | with_reducible apply Kept.ite | (with_reducible apply Kept.foldl; intro _ _ _; try dsimp only)
    | (with_reducible apply Kept.foldl1; intro _ _ _; try dsimp only) | split

theorem spillTo_kept {z0 : Origin} {s : State} {k : Nat} (h0 : Kept z0 s) :
    Kept z0 (spillTo s k) := by
  unfold spillTo
  try dsimp only
  repeat' first
    | with_reducible assumption | with_reducible exact Kept.refl _ _ | split
    | (fail_if_no_progress with_reducible refine Kept.lit ?_)

theorem fullOver_kept {z0 : Origin} {s : State} {chip cls : Nat} (h0 : Kept z0 s) :
    Kept z0 (fullOver s chip cls) := by
  unfold fullOver
  try dsimp only
  repeat' first
    | with_reducible assumption | with_reducible exact Kept.refl _ _ | split
    | (fail_if_no_progress with_reducible refine Kept.lit ?_)

theorem openFlow_kept {z0 : Origin} {s : State} {chip cls : Nat} (h0 : Kept z0 s) :
    KeptOpt z0 (openFlow s chip cls) := by
  unfold openFlow
  try dsimp only
  repeat' first
    | with_reducible assumption | with_reducible exact Kept.refl _ _ | with_reducible apply fullOver_kept
    | with_reducible apply spillTo_kept | with_reducible apply Kept.ite | with_reducible exact KeptOpt.none _
    | with_reducible apply KeptOpt.some | (with_reducible apply KeptOpt.map; intro _; try dsimp only) | split
    | (fail_if_no_progress with_reducible refine Kept.lit ?_)

theorem flowFull_kept {z0 : Origin} {s : State} {chip cls : Nat} (h0 : Kept z0 s) :
    Kept z0 (flowFull s chip cls) := by
  unfold flowFull
  try dsimp only
  repeat' first
    | with_reducible assumption | with_reducible exact Kept.refl _ _ | with_reducible apply deviceEvent_kept
    | with_reducible apply Kept.ite | split | (fail_if_no_progress with_reducible refine Kept.lit ?_)

theorem loopBack_kept {z0 : Origin} {s : State} {p : Packet} (h0 : Kept z0 s) :
    Kept z0 (loopBack s p) := by
  unfold loopBack
  try dsimp only
  repeat' first
    | with_reducible assumption | with_reducible exact Kept.refl _ _ | split
    | (fail_if_no_progress with_reducible refine Kept.lit ?_)

theorem violationNote_kept {z0 : Origin} {s : State} {l : Nat} {h : PktHdr} {st : Status} (h0 : Kept z0 s) :
    Kept z0 (violationNote s l h st) := by
  unfold violationNote
  try dsimp only
  repeat' first
    | with_reducible assumption | with_reducible exact Kept.refl _ _ | with_reducible apply deviceEvent_kept
    | with_reducible apply regCount_kept | with_reducible apply Kept.ite | split
    | (fail_if_no_progress with_reducible refine Kept.lit ?_)

theorem launch_kept {z0 : Origin} {s : State} {p : Packet} (h0 : Kept z0 s) :
    Kept z0 (launch s p) := by
  unfold launch
  try dsimp only
  repeat' first
    | with_reducible assumption | with_reducible exact Kept.refl _ _ | with_reducible apply violationNote_kept
    | with_reducible apply loopBack_kept | with_reducible apply routeOut_kept | with_reducible apply countDrop_kept
    | with_reducible apply Kept.ite | split

theorem sendNumbered_kept {z0 : Origin} {s : State} {h : PktHdr} {pay : Payload} (h0 : Kept z0 s) :
    Kept z0 (sendNumbered s h pay) := by
  unfold sendNumbered
  try dsimp only
  repeat' first
    | with_reducible assumption | with_reducible exact Kept.refl _ _ | with_reducible apply launch_kept
    | with_reducible apply flowFull_kept | with_reducible apply openFlow_kept | with_reducible apply flowUpdate_kept
    | with_reducible apply holdPkt_kept | (refine KeptOpt.of ?_ (by with_reducible assumption))
    | with_reducible apply Kept.ite | split | (fail_if_no_progress with_reducible refine Kept.lit ?_)

theorem sendPkt_kept {z0 : Origin} {s : State} {chip kind offset tag : Nat} {pay : Payload} (h0 : Kept z0 s) :
    Kept z0 (sendPkt s chip kind offset tag pay) := by
  unfold sendPkt
  try dsimp only
  repeat' first
    | with_reducible assumption | with_reducible exact Kept.refl _ _ | with_reducible apply sendNumbered_kept
    | with_reducible apply launch_kept | with_reducible apply Kept.ite | split

theorem retryOne_kept {z0 : Origin} {s : State} {w : HeldPkt} (h0 : Kept z0 s) :
    Kept z0 (retryOne s w) := by
  unfold retryOne
  try dsimp only
  repeat' first
    | with_reducible assumption | with_reducible exact Kept.refl _ _ | with_reducible apply sendNumbered_kept
    | with_reducible apply routeHeld_kept | with_reducible apply Kept.ite | split
    | (fail_if_no_progress with_reducible refine Kept.lit ?_)

theorem retryHeld_kept {z0 : Origin} {s : State} (h0 : Kept z0 s) :
    Kept z0 (retryHeld s) := by
  unfold retryHeld
  try dsimp only
  repeat' first
    | with_reducible assumption | with_reducible exact Kept.refl _ _ | with_reducible apply retryOne_kept
    | (with_reducible apply Kept.foldl; intro _ _ _; try dsimp only)
    | (with_reducible apply Kept.foldl1; intro _ _ _; try dsimp only) | split

theorem flowsRestart_kept {z0 : Origin} {s : State} {chip : Nat} (h0 : Kept z0 s) :
    Kept z0 (flowsRestart s chip) := by
  unfold flowsRestart
  try dsimp only
  repeat' first
    | with_reducible assumption | with_reducible exact Kept.refl _ _ | with_reducible apply Kept.ite | split
    | (fail_if_no_progress with_reducible refine Kept.lit ?_)

theorem unroutable_kept {z0 : Origin} {s : State} {id : Nat} {st : Status} (h0 : Kept z0 s) :
    Kept z0 (unroutable s id st) := by
  unfold unroutable
  try dsimp only
  repeat' first
    | with_reducible assumption | with_reducible exact Kept.refl _ _ | with_reducible apply countDrop_kept
    | with_reducible apply opDone_kept | split

theorem takeTag_kept {z0 : Origin} {s : State} (h0 : Kept z0 s) :
    Kept z0 (takeTag s).2 := by
  unfold takeTag
  try dsimp only
  repeat' first
    | with_reducible assumption | with_reducible exact Kept.refl _ _ | split
    | (fail_if_no_progress with_reducible refine Kept.lit ?_)

theorem addReq_kept {z0 : Origin} {s : State} {id tag : Nat} {a : Await} (h0 : Kept z0 s) :
    Kept z0 (addReq s id tag a) := by
  unfold addReq
  try dsimp only
  repeat' first
    | with_reducible assumption | with_reducible exact Kept.refl _ _ | with_reducible apply opUpdate_kept | split
    | (fail_if_no_progress with_reducible refine Kept.lit ?_)

theorem sendAwaited_kept {z0 : Origin} {s : State} {id chip kind offset : Nat} {pay : Payload} (h0 : Kept z0 s) :
    Kept z0 (sendAwaited s id chip kind offset pay) := by
  unfold sendAwaited
  try dsimp only
  repeat' first
    | with_reducible assumption | with_reducible exact Kept.refl _ _ | with_reducible apply addReq_kept
    | with_reducible apply takeTag_kept | with_reducible apply sendPkt_kept | with_reducible apply Kept.ite | split

theorem sendRead_kept {z0 : Origin} {s : State} {id batch turret chip : Nat} {rows : List RowReq} (h0 : Kept z0 s) :
    Kept z0 (sendRead s id batch turret chip rows) := by
  unfold sendRead
  try dsimp only
  repeat' first
    | with_reducible assumption | with_reducible exact Kept.refl _ _ | with_reducible apply addReq_kept
    | with_reducible apply takeTag_kept | with_reducible apply sendPkt_kept | with_reducible apply KeptOpt.getD | split

theorem linkEvent_kept {z0 : Origin} {s : State} {l : Nat} {old new : LinkState} {st : Status} (h0 : Kept z0 s) :
    Kept z0 (linkEvent s l old new st) := by
  unfold linkEvent
  try dsimp only
  repeat' first
    | with_reducible assumption | with_reducible exact Kept.refl _ _ | with_reducible apply deviceEvent_kept
    | with_reducible apply drawBytes_kept | split

theorem portDetour_kept {z0 : Origin} {s : State} {port : Nat} (h0 : Kept z0 s) :
    Kept z0 (portDetour s port) := by
  unfold portDetour
  try dsimp only
  repeat' first
    | with_reducible assumption | with_reducible exact Kept.refl _ _ | with_reducible apply routeHeld_kept
    | with_reducible apply linkUpdate_kept | (with_reducible apply Kept.foldl; intro _ _ _; try dsimp only)
    | (with_reducible apply Kept.foldl1; intro _ _ _; try dsimp only) | split
    | (fail_if_no_progress with_reducible refine Kept.lit ?_)

theorem linkLeave_kept {z0 : Origin} {s : State} {l : Nat} {new : LinkState} (h0 : Kept z0 s) :
    Kept z0 (linkLeave s l new) := by
  unfold linkLeave
  try dsimp only
  repeat' first
    | with_reducible assumption | with_reducible exact Kept.refl _ _ | with_reducible apply portDetour_kept
    | with_reducible apply routeHeld_kept | with_reducible apply linkPut_kept | with_reducible apply Kept.ite
    | (with_reducible apply Kept.foldl; intro _ _ _; try dsimp only)
    | (with_reducible apply Kept.foldl1; intro _ _ _; try dsimp only) | split

theorem violation_kept {z0 : Origin} {s : State} {l : Nat} {h : PktHdr} {st : Status} (h0 : Kept z0 s) :
    Kept z0 (violation s l h st) := by
  unfold violation
  try dsimp only
  repeat' first
    | with_reducible assumption | with_reducible exact Kept.refl _ _ | with_reducible apply linkLeave_kept
    | with_reducible apply linkEvent_kept | with_reducible apply violationNote_kept
    | with_reducible apply linkUpdate_kept | with_reducible apply raiseFault_kept | with_reducible apply Kept.ite
    | split | (fail_if_no_progress with_reducible refine Kept.lit ?_)

/-! ### Telemetry -/

theorem bumpField_kept {z0 : Origin} {s : State} {a n x : Nat} (h0 : Kept z0 s) :
    Kept z0 (bumpField s a n x) := by
  unfold bumpField
  try dsimp only
  repeat' first
    | with_reducible assumption | with_reducible exact Kept.refl _ _ | with_reducible apply devWrite_kept | split

theorem layerOpen_kept {z0 : Origin} {s : State} {step layer : Nat} (h0 : Kept z0 s) :
    Kept z0 (layerOpen s step layer) := by
  unfold layerOpen
  try dsimp only
  repeat' first
    | with_reducible assumption | with_reducible exact Kept.refl _ _ | with_reducible apply devWrite_kept
    | with_reducible apply Kept.ite | split

theorem layerDo_kept {z0 : Origin} {s : State} {step layer n : Nat} {f : State → Nat → State} (h0 : Kept z0 s) (k_f : ∀ x0 x1, Kept z0 x0 → Kept z0 (f x0 x1)) :
    Kept z0 (layerDo s step layer n f) := by
  unfold layerDo
  try dsimp only
  repeat' first
    | with_reducible apply k_f | with_reducible assumption | with_reducible exact Kept.refl _ _
    | with_reducible apply layerOpen_kept | with_reducible apply regCount_kept | with_reducible apply Kept.ite | split

theorem addBins_kept {z0 : Origin} {s : State} {step layer : Nat} {bins : List Nat} {disc ops n : Nat} (h0 : Kept z0 s) :
    Kept z0 (addBins s step layer bins disc ops n) := by
  unfold addBins
  try dsimp only
  repeat' first
    | with_reducible assumption | with_reducible exact Kept.refl _ _ | with_reducible apply layerDo_kept
    | with_reducible apply bumpField_kept | with_reducible apply Kept.ite
    | (with_reducible apply Kept.foldl; intro _ _ _; try dsimp only)
    | (with_reducible apply Kept.foldl1; intro _ _ _; try dsimp only) | (with_reducible intro _; try dsimp only) | split

theorem telOpen_kept {z0 : Origin} {s : State} {step : Nat} (h0 : Kept z0 s) :
    Kept z0 (telOpen s step) := by
  unfold telOpen
  try dsimp only
  repeat' first
    | with_reducible assumption | with_reducible exact Kept.refl _ _ | with_reducible apply Kept.ite | split
    | (fail_if_no_progress with_reducible refine Kept.lit ?_)

theorem telUpdate_kept {z0 : Origin} {s : State} {step : Nat} {f : StepTel → StepTel} (h0 : Kept z0 s) :
    Kept z0 (telUpdate s step f) := by
  unfold telUpdate
  try dsimp only
  repeat' first
    | with_reducible assumption | with_reducible exact Kept.refl _ _ | with_reducible apply Kept.ite | split
    | (fail_if_no_progress with_reducible refine Kept.lit ?_)

/-! ### Copy -/

theorem fetchRows_kept {z0 : Origin} {s : State} {id per : Nat} {want : List (Nat × RowReq)} (h0 : Kept z0 s) :
    FetchKept z0 (fetchRows s id per want) := by
  unfold fetchRows
  try dsimp only
  repeat' first
    | with_reducible assumption | with_reducible exact Kept.refl _ _ | with_reducible apply sendRead_kept
    | with_reducible exact FetchKept.ready _ _ | with_reducible apply FetchKept.wait
    | (with_reducible apply Kept.foldl; intro _ _ _; try dsimp only)
    | (with_reducible apply Kept.foldl1; intro _ _ _; try dsimp only) | split

theorem markSent_kept {z0 : Origin} {s : State} {id : Nat} (h0 : Kept z0 s) :
    Kept z0 (markSent s id) := by
  unfold markSent
  try dsimp only
  repeat' first
    | with_reducible assumption | with_reducible exact Kept.refl _ _ | with_reducible apply opUpdate_kept | split
    | (fail_if_no_progress with_reducible refine Kept.lit ?_)

theorem applyWrites_kept {z0 : Origin} {s : State} {o : Op} {ws : List (Nat × List Byte)} {k : State → State} (h0 : Kept z0 s) (k_k : ∀ x0, Kept z0 x0 → Kept z0 (k x0)) :
    Kept z0 (applyWrites s o ws k) := by
  unfold applyWrites
  try dsimp only
  repeat' first
    | with_reducible apply k_k | with_reducible assumption | with_reducible exact Kept.refl _ _
    | with_reducible apply opLimit_kept | with_reducible apply awaitWrite_kept | with_reducible apply opWrites_kept
    | (refine WroteKept.done_of ?_ (by with_reducible assumption))
    | (refine WroteKept.limit_of ?_ (by with_reducible assumption)) | with_reducible exact WroteKept.wait _ _
    | with_reducible apply WroteKept.done | with_reducible apply WroteKept.limit
    | (with_reducible intro _; try dsimp only) | split

theorem recordRows_kept {z0 : Origin} {s : State} {buffer : Nat} {f : Nat → Nat} (h0 : Kept z0 s) :
    Kept z0 (recordRows s buffer f) := by
  unfold recordRows
  try dsimp only
  repeat' first
    | with_reducible assumption | with_reducible exact Kept.refl _ _ | split
    | (fail_if_no_progress with_reducible refine Kept.lit ?_)

theorem runStore_kept {z0 : Origin} {s : State} {o : Op} {b : CopyBody} {c : CmpBlock} (h0 : Kept z0 s) :
    Kept z0 (runStore s o b c) := by
  unfold runStore
  try dsimp only
  repeat' first
    | with_reducible assumption | with_reducible exact Kept.refl _ _ | with_reducible apply recordRows_kept
    | with_reducible apply applyWrites_kept | with_reducible apply opNeed_kept | with_reducible apply opTally_kept
    | with_reducible apply opStrictFail_kept | with_reducible apply opDone_kept | with_reducible apply opUpdate_kept
    | with_reducible apply Kept.ite | (with_reducible intro _; try dsimp only) | split
    | (fail_if_no_progress with_reducible refine Kept.lit ?_)

theorem runRestore_kept {z0 : Origin} {s : State} {o : Op} {b : CopyBody} {c : CmpBlock} (h0 : Kept z0 s) :
    Kept z0 (runRestore s o b c) := by
  unfold runRestore
  try dsimp only
  repeat' first
    | with_reducible assumption | with_reducible exact Kept.refl _ _ | with_reducible apply applyWrites_kept
    | with_reducible apply opNeed_kept | with_reducible apply opDone_kept | with_reducible apply Kept.ite
    | with_reducible apply KeptOpt.getD | (with_reducible intro _; try dsimp only) | split
    | (fail_if_no_progress dsimp only [id])

theorem sendWrites_kept {z0 : Origin} {s : State} {id dst : Nat} {bs : List Byte} (h0 : Kept z0 s) :
    Kept z0 (sendWrites s id dst bs) := by
  unfold sendWrites
  try dsimp only
  repeat' first
    | with_reducible assumption | with_reducible exact Kept.refl _ _ | with_reducible apply markSent_kept
    | with_reducible apply sendAwaited_kept | with_reducible apply unroutable_kept
    | (with_reducible apply Kept.foldl; intro _ _ _; try dsimp only)
    | (with_reducible apply Kept.foldl1; intro _ _ _; try dsimp only) | split

theorem plainSource_kept {z0 : Origin} {s : State} {o : Op} {b : CopyBody} (h0 : Kept z0 s) :
    SumKept z0 (plainSource s o b) := by
  unfold plainSource
  try dsimp only
  repeat' first
    | with_reducible assumption | with_reducible exact Kept.refl _ _ | with_reducible apply fetchRows_kept
    | with_reducible apply unroutable_kept | with_reducible apply opNeed_kept | with_reducible apply opDone_kept
    | (refine FetchKept.of ?_ (by with_reducible assumption)) | with_reducible exact SumKept.inr _ _
    | with_reducible apply SumKept.inl | with_reducible apply Kept.ite | split

theorem runPlain_kept {z0 : Origin} {s : State} {o : Op} {b : CopyBody} (h0 : Kept z0 s) :
    Kept z0 (runPlain s o b) := by
  unfold runPlain
  try dsimp only
  repeat' first
    | with_reducible assumption | with_reducible exact Kept.refl _ _ | with_reducible apply plainSource_kept
    | with_reducible apply sendWrites_kept | with_reducible apply applyWrites_kept | with_reducible apply opDone_kept
    | (refine SumKept.of ?_ (by with_reducible assumption)) | with_reducible apply Kept.ite
    | (with_reducible intro _; try dsimp only) | split | (fail_if_no_progress with_reducible refine Kept.lit ?_)

theorem runCopy_kept {z0 : Origin} {s : State} {o : Op} {b : CopyBody} (h0 : Kept z0 s) :
    Kept z0 (runCopy s o b) := by
  unfold runCopy
  try dsimp only
  repeat' first
    | with_reducible assumption | with_reducible exact Kept.refl _ _ | with_reducible apply runPlain_kept
    | with_reducible apply runRestore_kept | with_reducible apply runStore_kept | with_reducible apply Kept.ite | split

theorem runFill_kept {z0 : Origin} {s : State} {o : Op} {b : FillBody} (h0 : Kept z0 s) :
    Kept z0 (runFill s o b) := by
  unfold runFill
  try dsimp only
  repeat' first
    | with_reducible assumption | with_reducible exact Kept.refl _ _ | with_reducible apply sendWrites_kept
    | with_reducible apply applyWrites_kept | with_reducible apply opDone_kept | with_reducible apply Kept.ite
    | (with_reducible intro _; try dsimp only) | split

/-! ### Rows -/

theorem sendBatches_kept {z0 : Origin} {s : State} {id : Nat} {bs : List RowBatch} (h0 : Kept z0 s) :
    Kept z0 (sendBatches s id bs) := by
  unfold sendBatches
  try dsimp only
  repeat' first
    | with_reducible assumption | with_reducible exact Kept.refl _ _ | with_reducible apply sendRead_kept
    | with_reducible apply Kept.ite | (with_reducible apply Kept.foldl; intro _ _ _; try dsimp only)
    | (with_reducible apply Kept.foldl1; intro _ _ _; try dsimp only) | split

theorem nearReady_kept {z0 : Origin} {s : State} {xs : List (RowItem × Nat)} (h0 : Kept z0 s) :
    Kept z0 (nearReady s xs).1 := by
  unfold nearReady
  try dsimp only
  repeat' first
    | with_reducible assumption | with_reducible exact Kept.refl _ _ | with_reducible apply requestRange_kept
    | (with_reducible apply Kept.foldl; intro _ _ _; try dsimp only)
    | (with_reducible apply Kept.foldl1; intro _ _ _; try dsimp only) | split

theorem withRows_kept {z0 : Origin} {s : State} {o : Op} {rounds windowReq : Nat} {items : List RowItem} {k : State → List (RowItem × Nat) → (RowItem × Nat → Option RowReply) → State} (h0 : Kept z0 s) (k_k : ∀ x0 x1 x2, Kept z0 x0 → Kept z0 (k x0 x1 x2)) :
    Kept z0 (withRows s o rounds windowReq items k) := by
  unfold withRows
  try dsimp only
  repeat' first
    | with_reducible apply k_k | with_reducible assumption | with_reducible exact Kept.refl _ _
    | with_reducible apply nearReady_kept | with_reducible apply sendBatches_kept | with_reducible apply askTokens_kept
    | with_reducible apply Kept.ite | (with_reducible intro _; try dsimp only) | split

/-! ### Emit -/

theorem histEnter_kept {z0 : Origin} {s : State} {o : Op} {slot : Nat} {e : Int} (h0 : Kept z0 s) :
    WroteKept z0 (histEnter s o slot e) := by
  unfold histEnter
  try dsimp only
  repeat' first
    | with_reducible assumption | with_reducible exact Kept.refl _ _ | with_reducible apply opWrites_kept
    | (refine WroteKept.done_of ?_ (by with_reducible assumption))
    | (refine WroteKept.limit_of ?_ (by with_reducible assumption)) | with_reducible exact WroteKept.wait _ _
    | with_reducible apply WroteKept.done | with_reducible apply WroteKept.limit
    | (with_reducible intro _; try dsimp only) | split

/-! ### Chain -/

theorem groupUpdate_kept {z0 : Origin} {s : State} {off step : Nat} {f : GroupStep → GroupStep} (h0 : Kept z0 s) :
    Kept z0 (groupUpdate s off step f) := by
  unfold groupUpdate
  try dsimp only
  repeat' first
    | with_reducible assumption | with_reducible exact Kept.refl _ _ | with_reducible apply Kept.ite | split
    | (fail_if_no_progress with_reducible refine Kept.lit ?_)

theorem groupOpen_kept {z0 : Origin} {s : State} {off step : Nat} (h0 : Kept z0 s) :
    Kept z0 (groupOpen s off step) := by
  unfold groupOpen
  try dsimp only
  repeat' first
    | with_reducible assumption | with_reducible exact Kept.refl _ _ | with_reducible apply Kept.ite | split
    | (fail_if_no_progress with_reducible refine Kept.lit ?_)

theorem groupClean_kept {z0 : Origin} {s : State} {off step : Nat} (h0 : Kept z0 s) :
    Kept z0 (groupClean s off step) := by
  unfold groupClean
  try dsimp only
  repeat' first
    | with_reducible assumption | with_reducible exact Kept.refl _ _ | split
    | (fail_if_no_progress with_reducible refine Kept.lit ?_)

theorem groupOpenHere_kept {z0 : Origin} {s : State} {off step : Nat} (h0 : Kept z0 s) :
    Kept z0 (groupOpenHere s off step) := by
  unfold groupOpenHere
  try dsimp only
  repeat' first
    | with_reducible assumption | with_reducible exact Kept.refl _ _ | with_reducible apply groupClean_kept
    | with_reducible apply groupOpen_kept | with_reducible apply Kept.ite | split
    | (fail_if_no_progress with_reducible refine Kept.lit ?_)

theorem tilePut_kept {z0 : Origin} {s : State} {off step : Nat} {x : TileRed} (h0 : Kept z0 s) :
    Kept z0 (tilePut s off step x) := by
  unfold tilePut
  try dsimp only
  repeat' first
    | with_reducible assumption | with_reducible exact Kept.refl _ _ | with_reducible apply groupUpdate_kept
    | with_reducible apply Kept.ite | split | (fail_if_no_progress with_reducible refine Kept.lit ?_)

theorem tileUpdate_kept {z0 : Origin} {s : State} {off step t : Nat} {f : TileRed → TileRed} (h0 : Kept z0 s) :
    Kept z0 (tileUpdate s off step t f) := by
  unfold tileUpdate
  try dsimp only
  repeat' first
    | with_reducible assumption | with_reducible exact Kept.refl _ _ | with_reducible apply tilePut_kept | split

theorem tileInit_kept {z0 : Origin} {s : State} {off step t : Nat} (h0 : Kept z0 s) :
    Kept z0 (tileInit s off step t) := by
  unfold tileInit
  try dsimp only
  repeat' first
    | with_reducible assumption | with_reducible exact Kept.refl _ _ | with_reducible apply tilePut_kept
    | with_reducible apply Kept.ite | split | (fail_if_no_progress with_reducible refine Kept.lit ?_)

theorem giveOne_kept {z0 : Origin} {off step limit : Nat} {o : Op} {s : State} {item : Nat × Nat} (h0 : Kept z0 s) :
    Kept z0 (giveOne off step limit o s item) := by
  unfold giveOne
  try dsimp only
  repeat' first
    | with_reducible assumption | with_reducible exact Kept.refl _ _ | with_reducible apply groupUpdate_kept
    | with_reducible apply devWrite_kept | with_reducible apply Kept.ite | split
    | (fail_if_no_progress with_reducible refine Kept.lit ?_)

theorem contribJoin_kept {z0 : Origin} {s : State} {o : Op} {off step : Nat} {items : List (Nat × Nat)} (h0 : Kept z0 s) :
    GivenKept z0 (contribJoin s o off step items) := by
  unfold contribJoin
  try dsimp only
  repeat' first
    | with_reducible assumption | with_reducible exact Kept.refl _ _ | with_reducible apply giveOne_kept
    | with_reducible apply tileInit_kept | with_reducible apply groupOpenHere_kept
    | with_reducible apply groupClean_kept | with_reducible apply groupUpdate_kept
    | with_reducible exact GivenKept.wait _ | with_reducible exact GivenKept.over _
    | with_reducible apply GivenKept.done | with_reducible apply Kept.ite
    | (with_reducible apply Kept.foldl; intro _ _ _; try dsimp only)
    | (with_reducible apply Kept.foldl1; intro _ _ _; try dsimp only) | split
    | (fail_if_no_progress with_reducible refine Kept.lit ?_)

theorem zerosJoin_kept {z0 : Origin} {s : State} {z : ZerosDue} (h0 : Kept z0 s) :
    Kept z0 (zerosJoin s z) := by
  unfold zerosJoin
  try dsimp only
  repeat' first
    | with_reducible assumption | with_reducible exact Kept.refl _ _ | with_reducible apply tileInit_kept
    | with_reducible apply groupOpenHere_kept | with_reducible apply groupUpdate_kept | with_reducible apply Kept.ite
    | (with_reducible apply Kept.foldl; intro _ _ _; try dsimp only)
    | (with_reducible apply Kept.foldl1; intro _ _ _; try dsimp only) | split
    | (fail_if_no_progress with_reducible refine Kept.lit ?_)

theorem contributeZeros_kept {z0 : Origin} {s : State} {o : Op} {off step first n : Nat} (h0 : Kept z0 s) :
    Kept z0 (contributeZeros s o off step first n) := by
  unfold contributeZeros
  try dsimp only
  repeat' first
    | with_reducible assumption | with_reducible exact Kept.refl _ _ | with_reducible apply zerosJoin_kept
    | with_reducible apply Kept.ite | split | (fail_if_no_progress with_reducible refine Kept.lit ?_)

theorem zerosRelease_kept {z0 : Origin} {s : State} (h0 : Kept z0 s) :
    Kept z0 (zerosRelease s) := by
  unfold zerosRelease
  try dsimp only
  repeat' first
    | with_reducible assumption | with_reducible exact Kept.refl _ _ | with_reducible apply zerosJoin_kept
    | with_reducible apply Kept.ite | (with_reducible apply Kept.foldl; intro _ _ _; try dsimp only)
    | (with_reducible apply Kept.foldl1; intro _ _ _; try dsimp only) | split
    | (fail_if_no_progress with_reducible refine Kept.lit ?_)

theorem sendColl_kept {z0 : Origin} {s : State} {off : Nat} {r : GroupRec} {chip kind : Nat} {h : CollHdr} {sums : List Int} (h0 : Kept z0 s) :
    Kept z0 (sendColl s off r chip kind h sums).1 := by
  unfold sendColl
  try dsimp only
  repeat' first
    | with_reducible assumption | with_reducible exact Kept.refl _ _ | with_reducible apply sendPkt_kept
    | with_reducible apply Kept.ite | split

theorem sendAll_kept {z0 : Origin} {s : State} {off : Nat} {r : GroupRec} {kind : Nat} {h : CollHdr} (h0 : Kept z0 s) :
    Kept z0 (sendAll s off r kind h).1 := by
  unfold sendAll
  try dsimp only
  repeat' first
    | with_reducible assumption | with_reducible exact Kept.refl _ _ | with_reducible apply sendColl_kept
    | (with_reducible apply Kept.foldl; intro _ _ _; try dsimp only)
    | (with_reducible apply Kept.foldl1; intro _ _ _; try dsimp only) | split

theorem sendData_kept {z0 : Origin} {s : State} {off : Nat} {r : GroupRec} {chip : Nat} {h : CollHdr} {sums : List Int} (h0 : Kept z0 s) :
    Kept z0 (sendData s off r chip h sums).1 := by
  unfold sendData
  try dsimp only
  repeat' first
    | with_reducible assumption | with_reducible exact Kept.refl _ _ | with_reducible apply sendColl_kept | split
    | (fail_if_no_progress with_reducible refine Kept.lit ?_)

theorem sumWrite_kept {z0 : Origin} {s : State} {off step a : Nat} {bs : List Byte} (h0 : Kept z0 s) :
    Kept z0 (sumWrite s off step a bs) := by
  unfold sumWrite
  try dsimp only
  repeat' first
    | with_reducible assumption | with_reducible exact Kept.refl _ _ | with_reducible apply keepBefore_kept
    | with_reducible apply plainWrite_kept | with_reducible apply Kept.ite | split
    | (fail_if_no_progress with_reducible refine Kept.lit ?_)

theorem tileFinal_kept {z0 : Origin} {s : State} {off : Nat} {r : GroupRec} {step t : Nat} {e f : Int} {sums : List Int} (h0 : Kept z0 s) :
    Kept z0 (tileFinal s off r step t e f sums).1 := by
  unfold tileFinal
  try dsimp only
  repeat' first
    | with_reducible assumption | with_reducible exact Kept.refl _ _ | with_reducible apply sumWrite_kept
    | with_reducible apply sendAll_kept | with_reducible apply tilePut_kept | with_reducible apply setHealth_kept
    | with_reducible apply Kept.ite | split | (fail_if_no_progress with_reducible refine Kept.lit ?_)

theorem keepPartial_kept {z0 : Origin} {s : State} {g : GroupStep} {t : Nat} {q : List Int} (h0 : Kept z0 s) :
    Kept z0 (keepPartial s g t q) := by
  unfold keepPartial
  try dsimp only
  repeat' first
    | with_reducible assumption | with_reducible exact Kept.refl _ _ | with_reducible apply devWrite_kept | split

theorem chainTurn_kept {z0 : Origin} {s : State} {off : Nat} {r : GroupRec} {g : GroupStep} {x : TileRed} {e f : Int} {part : Option (List Int)} (h0 : Kept z0 s) :
    Kept z0 (chainTurn s off r g x e f part).1 := by
  unfold chainTurn
  try dsimp only
  repeat' first
    | with_reducible assumption | with_reducible exact Kept.refl _ _ | with_reducible apply keepPartial_kept
    | with_reducible apply tileFinal_kept | with_reducible apply sendData_kept | with_reducible apply sendColl_kept
    | with_reducible apply tilePut_kept | with_reducible apply Kept.ite | split
    | (fail_if_no_progress with_reducible refine Kept.lit ?_)

theorem missNow_kept {z0 : Origin} {s : State} {off step t : Nat} (h0 : Kept z0 s) :
    Kept z0 (missNow s off step t).1 := by
  unfold missNow
  try dsimp only
  repeat' first
    | with_reducible assumption | with_reducible exact Kept.refl _ _ | with_reducible apply sendColl_kept
    | with_reducible apply tilePut_kept | with_reducible apply Kept.ite | split
    | (fail_if_no_progress with_reducible refine Kept.lit ?_)

theorem tileAdvance_kept {z0 : Origin} {s : State} {off step t : Nat} (h0 : Kept z0 s) :
    Kept z0 (tileAdvance s off step t).1 := by
  unfold tileAdvance
  try dsimp only
  repeat' first
    | with_reducible assumption | with_reducible exact Kept.refl _ _ | with_reducible apply missNow_kept
    | with_reducible apply chainTurn_kept | with_reducible apply sendColl_kept | with_reducible apply tilePut_kept
    | with_reducible apply Kept.ite | split | (fail_if_no_progress with_reducible refine Kept.lit ?_)

theorem passBegin_kept {z0 : Origin} {s : State} {off step t pass : Nat} {e : Option Int} {pre : Bool} (h0 : Kept z0 s) :
    Kept z0 (passBegin s off step t pass e pre).1 := by
  unfold passBegin
  try dsimp only
  repeat' first
    | with_reducible assumption | with_reducible exact Kept.refl _ _ | with_reducible apply tilePut_kept
    | with_reducible apply Kept.ite | split | (fail_if_no_progress with_reducible refine Kept.lit ?_)

theorem collHold_kept {z0 : Origin} {s : State} {off step : Nat} {m : CollMsg} (h0 : Kept z0 s) :
    Kept z0 (collHold s off step m) := by
  unfold collHold
  try dsimp only
  repeat' first
    | with_reducible assumption | with_reducible exact Kept.refl _ _ | with_reducible apply tileUpdate_kept | split
    | (fail_if_no_progress with_reducible refine Kept.lit ?_)

theorem collBad_kept {z0 : Origin} {s : State} {off step : Nat} (h0 : Kept z0 s) :
    Kept z0 (collBad s off step) := by
  unfold collBad
  try dsimp only
  repeat' first
    | with_reducible assumption | with_reducible exact Kept.refl _ _ | with_reducible apply groupUpdate_kept | split
    | (fail_if_no_progress with_reducible refine Kept.lit ?_)

theorem missAtOwner_kept {z0 : Origin} {s : State} {off : Nat} {r : GroupRec} {g : GroupStep} {x : TileRed} {e : Int} {queue : List CollMsg} {m : CollMsg} (h0 : Kept z0 s) :
    Kept z0 (missAtOwner s off r g x e queue m).1 := by
  unfold missAtOwner
  try dsimp only
  repeat' first
    | with_reducible assumption | with_reducible exact Kept.refl _ _ | with_reducible apply sendAll_kept
    | with_reducible apply tilePut_kept | with_reducible apply deviceEvent_kept | with_reducible apply regCount_kept
    | with_reducible apply Kept.ite | (with_reducible apply Kept.foldl; intro _ _ _; try dsimp only)
    | (with_reducible apply Kept.foldl1; intro _ _ _; try dsimp only) | split
    | (fail_if_no_progress with_reducible refine Kept.lit ?_)

theorem expAtOwner_kept {z0 : Origin} {s : State} {off : Nat} {r : GroupRec} {g : GroupStep} {x : TileRed} {m : CollMsg} (h0 : Kept z0 s) :
    Kept z0 (expAtOwner s off r g x m).1 := by
  unfold expAtOwner
  try dsimp only
  repeat' first
    | with_reducible assumption | with_reducible exact Kept.refl _ _ | with_reducible apply sendAll_kept
    | with_reducible apply tilePut_kept | with_reducible apply Kept.ite
    | (with_reducible apply Kept.foldl; intro _ _ _; try dsimp only)
    | (with_reducible apply Kept.foldl1; intro _ _ _; try dsimp only) | split
    | (fail_if_no_progress with_reducible refine Kept.lit ?_)

theorem groupEnd_kept {z0 : Origin} {s : State} {off step : Nat} {f : GroupStep → GroupStep} (h0 : Kept z0 s) :
    Kept z0 (groupEnd s off step f) := by
  unfold groupEnd
  try dsimp only
  repeat' first
    | with_reducible assumption | with_reducible exact Kept.refl _ _ | with_reducible apply groupUpdate_kept | split
    | (fail_if_no_progress with_reducible refine Kept.lit ?_)

theorem groupNext_kept {z0 : Origin} {s : State} {off step : Nat} (h0 : Kept z0 s) :
    Kept z0 (groupNext s off step).1 := by
  unfold groupNext
  try dsimp only
  repeat' first
    | with_reducible assumption | with_reducible exact Kept.refl _ _ | with_reducible apply zerosRelease_kept
    | with_reducible apply tileInit_kept | with_reducible apply groupUpdate_kept
    | (with_reducible apply Kept.foldl; intro _ _ _; try dsimp only)
    | (with_reducible apply Kept.foldl1; intro _ _ _; try dsimp only) | split
    | (fail_if_no_progress with_reducible refine Kept.lit ?_)

theorem finalEnd_kept {z0 : Origin} {s : State} {o : Op} {r : GroupRec} {g : GroupStep} {off step : Nat} (h0 : Kept z0 s) :
    Kept z0 (finalEnd s o r g off step).1 := by
  unfold finalEnd
  try dsimp only
  repeat' first
    | with_reducible assumption | with_reducible exact Kept.refl _ _ | with_reducible apply groupNext_kept
    | with_reducible apply groupEnd_kept | with_reducible apply opStrictFail_kept | with_reducible apply opDone_kept
    | with_reducible apply opUpdate_kept | with_reducible apply Kept.ite | split
    | (fail_if_no_progress with_reducible refine Kept.lit ?_)

theorem finalCheck_kept {z0 : Origin} {s : State} {off step : Nat} (h0 : Kept z0 s) :
    Kept z0 (finalCheck s off step).1 := by
  unfold finalCheck
  try dsimp only
  repeat' first
    | with_reducible assumption | with_reducible exact Kept.refl _ _ | with_reducible apply finalEnd_kept
    | with_reducible apply groupNext_kept | with_reducible apply groupEnd_kept | with_reducible apply histEnter_kept
    | with_reducible apply opLimit_kept | with_reducible apply awaitWrite_kept
    | (refine WroteKept.done_of ?_ (by with_reducible assumption))
    | (refine WroteKept.limit_of ?_ (by with_reducible assumption)) | with_reducible apply Kept.ite
    | with_reducible exact WroteKept.wait _ _ | with_reducible apply WroteKept.done
    | with_reducible apply WroteKept.limit | split | (fail_if_no_progress with_reducible refine Kept.lit ?_)

theorem finalOver_kept {z0 : Origin} {s : State} {o : Op} {off step : Nat} (h0 : Kept z0 s) :
    Kept z0 (finalOver s o off step).1 := by
  unfold finalOver
  try dsimp only
  repeat' first
    | with_reducible assumption | with_reducible exact Kept.refl _ _ | with_reducible apply groupNext_kept
    | with_reducible apply groupEnd_kept | with_reducible apply plainWrite_kept | with_reducible apply Kept.ite
    | (with_reducible apply Kept.foldl; intro _ _ _; try dsimp only)
    | (with_reducible apply Kept.foldl1; intro _ _ _; try dsimp only) | split
    | (fail_if_no_progress with_reducible refine Kept.lit ?_)

theorem collTake_kept {z0 : Origin} {s : State} {off : Nat} {r : GroupRec} {queue : List CollMsg} {m : CollMsg} (h0 : Kept z0 s) :
    Kept z0 (collTake s off r queue m).1 := by
  unfold collTake
  try dsimp only
  repeat' first
    | with_reducible assumption | with_reducible exact Kept.refl _ _ | with_reducible apply finalCheck_kept
    | with_reducible apply expAtOwner_kept | with_reducible apply missAtOwner_kept | with_reducible apply collBad_kept
    | with_reducible apply collHold_kept | with_reducible apply passBegin_kept | with_reducible apply tileAdvance_kept
    | with_reducible apply tileInit_kept | with_reducible apply tilePut_kept | with_reducible apply groupUpdate_kept
    | with_reducible apply Kept.ite | split | (fail_if_no_progress with_reducible refine Kept.lit ?_)

theorem collWrong_kept {z0 : Origin} {s : State} {off : Nat} (h0 : Kept z0 s) :
    Kept z0 (collWrong s off) := by
  unfold collWrong
  try dsimp only
  repeat' first
    | with_reducible assumption | with_reducible exact Kept.refl _ _ | with_reducible apply collBad_kept
    | (with_reducible apply Kept.foldl; intro _ _ _; try dsimp only)
    | (with_reducible apply Kept.foldl1; intro _ _ _; try dsimp only) | split
    | (fail_if_no_progress with_reducible refine Kept.lit ?_)

theorem collHandle_kept {z0 : Origin} {s : State} {off : Nat} {queue : List CollMsg} {m : CollMsg} (h0 : Kept z0 s) :
    Kept z0 (collHandle s off queue m).1 := by
  unfold collHandle
  try dsimp only
  repeat' first
    | with_reducible assumption | with_reducible exact Kept.refl _ _ | with_reducible apply collWrong_kept
    | with_reducible apply collTake_kept | with_reducible apply collBad_kept | with_reducible apply groupOpen_kept
    | with_reducible apply Kept.ite | split

theorem collDrive_kept {r : Origin} : ∀ {n : Nat} {s : State} {off : Nat} {l : List CollMsg}, Kept r s →
    Kept r (collDrive n s off l)
  | 0, _, _, _, h => by unfold collDrive; exact h
  | n + 1, s, off, [], h => by unfold collDrive; exact h
  | n + 1, s, off, m :: ms, h => by
    unfold collDrive
    exact collDrive_kept (collHandle_kept h)

theorem collRun_kept {z0 : Origin} {s : State} {off : Nat} {ms : List CollMsg} (h0 : Kept z0 s) :
    Kept z0 (collRun s off ms) := by
  unfold collRun
  try dsimp only
  repeat' first
    | with_reducible assumption | with_reducible exact Kept.refl _ _ | with_reducible apply collDrive_kept
    | (with_reducible intro _; try dsimp only) | split

theorem tileGo_kept {z0 : Origin} {s : State} {off step t : Nat} (h0 : Kept z0 s) :
    Kept z0 (tileGo s off step t) := by
  unfold tileGo
  try dsimp only
  repeat' first
    | with_reducible assumption | with_reducible exact Kept.refl _ _ | with_reducible apply collRun_kept
    | with_reducible apply tileAdvance_kept | split

theorem finalOverGo_kept {z0 : Origin} {s : State} {o : Op} {off step : Nat} (h0 : Kept z0 s) :
    Kept z0 (finalOverGo s o off step) := by
  unfold finalOverGo
  try dsimp only
  repeat' first
    | with_reducible assumption | with_reducible exact Kept.refl _ _ | with_reducible apply collRun_kept
    | with_reducible apply finalOver_kept | split

theorem finalGo_kept {z0 : Origin} {s : State} {off step : Nat} (h0 : Kept z0 s) :
    Kept z0 (finalGo s off step) := by
  unfold finalGo
  try dsimp only
  repeat' first
    | with_reducible assumption | with_reducible exact Kept.refl _ _ | with_reducible apply collRun_kept
    | with_reducible apply finalCheck_kept | split

theorem contribute_kept {z0 : Origin} {s : State} {o : Op} {off step : Nat} {items : List (Nat × Nat)} (h0 : Kept z0 s) :
    GivenKept z0 (contribute s o off step items) := by
  unfold contribute
  try dsimp only
  repeat' first
    | with_reducible assumption | with_reducible exact Kept.refl _ _ | with_reducible apply collRun_kept
    | with_reducible apply missNow_kept | with_reducible apply contribJoin_kept
    | (refine GivenKept.of ?_ (by with_reducible assumption)) | with_reducible exact GivenKept.wait _
    | with_reducible exact GivenKept.over _ | with_reducible apply GivenKept.done
    | (with_reducible apply Kept.foldl; intro _ _ _; try dsimp only)
    | (with_reducible apply Kept.foldl1; intro _ _ _; try dsimp only) | split

theorem histLower_kept {z0 : Origin} {s : State} {slot : Nat} (h0 : Kept z0 s) :
    Kept z0 (histLower s slot) := by
  unfold histLower
  try dsimp only
  repeat' first
    | with_reducible assumption | with_reducible exact Kept.refl _ _ | with_reducible apply plainWrite_kept
    | (with_reducible apply Kept.foldl; intro _ _ _; try dsimp only)
    | (with_reducible apply Kept.foldl1; intro _ _ _; try dsimp only) | split

theorem groupsFail_kept {z0 : Origin} {s : State} {step : Nat} {lower : Bool} (h0 : Kept z0 s) :
    Kept z0 (groupsFail s step lower) := by
  unfold groupsFail
  try dsimp only
  repeat' first
    | with_reducible assumption | with_reducible exact Kept.refl _ _ | with_reducible apply histLower_kept
    | with_reducible apply collRun_kept | with_reducible apply groupNext_kept | with_reducible apply groupEnd_kept
    | with_reducible apply Kept.ite | (with_reducible apply Kept.foldl; intro _ _ _; try dsimp only)
    | (with_reducible apply Kept.foldl1; intro _ _ _; try dsimp only) | split
    | (fail_if_no_progress with_reducible refine Kept.lit ?_)

end Sys2Proof.Machine
end

