-- ==== Sys2Proof/Laws/KeptEngines.lean ====
section
/-! SUPPORT. What every operation keeps (Laws/Kept): the matrix, vector, sparse, graph and embedding engines. -/

set_option Elab.async false
set_option linter.unusedTactic false
set_option linter.unreachableTactic false

namespace Sys2Proof.Machine

/-! ### Vector -/

theorem enterHistory_kept {z0 : Origin} {s : State} {o : Op} {p : ElemPlan} {i : Nat} {amax : Option Int} (h0 : Kept z0 s) :
    WroteKept z0 (enterHistory s o p i amax) := by
  unfold enterHistory
  try dsimp only
  repeat' first
    | with_reducible assumption | with_reducible exact Kept.refl _ _ | with_reducible apply histEnter_kept
    | (refine WroteKept.done_of ?_ (by with_reducible assumption))
    | (refine WroteKept.limit_of ?_ (by with_reducible assumption)) | with_reducible apply Kept.ite
    | with_reducible exact WroteKept.wait _ _ | with_reducible apply WroteKept.done
    | with_reducible apply WroteKept.limit | split

theorem blockCounts_kept {z0 : Origin} {s : State} {o : Op} {b : ElemBody} {st : Stored} {t : Tally} {ops : Nat} (h0 : Kept z0 s) :
    Kept z0 (blockCounts s o b st t ops) := by
  unfold blockCounts
  try dsimp only
  repeat' first
    | with_reducible assumption | with_reducible exact Kept.refl _ _ | with_reducible apply addBins_kept
    | with_reducible apply opTally_kept | with_reducible apply opUpdate_kept | with_reducible apply Kept.ite
    | with_reducible apply KeptOpt.getD | split | (fail_if_no_progress with_reducible refine Kept.lit ?_)

theorem elemWrites_kept {z0 : Origin} {s : State} {o : Op} {p : ElemPlan} {ws : List (Nat × List Byte)} {amax0 amax1 : Option Int} (h0 : Kept z0 s) :
    WroteKept z0 (elemWrites s o p ws amax0 amax1) := by
  unfold elemWrites
  try dsimp only
  repeat' first
    | with_reducible assumption | with_reducible exact Kept.refl _ _ | with_reducible apply enterHistory_kept
    | with_reducible apply opWritesThen_kept | (refine WroteKept.done_of ?_ (by with_reducible assumption))
    | (refine WroteKept.limit_of ?_ (by with_reducible assumption)) | with_reducible exact WroteKept.wait _ _
    | with_reducible apply WroteKept.done | with_reducible apply WroteKept.limit
    | (with_reducible intro _; try dsimp only) | split

theorem finishElem_kept {z0 : Origin} {s : State} {o : Op} {b : ElemBody} {p : ElemPlan} {rows : List RowOut} {free : Nat → Nat} (h0 : Kept z0 s) :
    Kept z0 (finishElem s o b p rows free) := by
  unfold finishElem
  try dsimp only
  repeat' first
    | with_reducible assumption | with_reducible exact Kept.refl _ _ | with_reducible apply elemWrites_kept
    | with_reducible apply blockCounts_kept | with_reducible apply opLimit_kept | with_reducible apply awaitWrite_kept
    | with_reducible apply opDone_kept | (refine WroteKept.done_of ?_ (by with_reducible assumption))
    | (refine WroteKept.limit_of ?_ (by with_reducible assumption)) | with_reducible exact WroteKept.wait _ _
    | with_reducible apply WroteKept.done | with_reducible apply WroteKept.limit | split

theorem afterPass1_kept {z0 : Origin} {s : State} {o : Op} {b : ElemBody} {p : ElemPlan} {row : Nat} {r : RowOut} (h0 : Kept z0 s) :
    Kept z0 (afterPass1 s o b p row r) := by
  unfold afterPass1
  try dsimp only
  repeat' first
    | with_reducible assumption | with_reducible exact Kept.refl _ _ | with_reducible apply opWrites_kept
    | (refine WroteKept.done_of ?_ (by with_reducible assumption))
    | (refine WroteKept.limit_of ?_ (by with_reducible assumption)) | with_reducible apply Kept.ite
    | with_reducible apply KeptOpt.getD | with_reducible exact WroteKept.wait _ _ | with_reducible apply WroteKept.done
    | with_reducible apply WroteKept.limit | (with_reducible intro _; try dsimp only) | split

theorem runElemOp_kept {z0 : Origin} {s : State} {o : Op} {b : ElemBody} (h0 : Kept z0 s) :
    Kept z0 (runElemOp s o b) := by
  unfold runElemOp
  try dsimp only
  repeat' first
    | with_reducible assumption | with_reducible exact Kept.refl _ _ | with_reducible apply finishElem_kept
    | with_reducible apply opNeed_kept | split | (fail_if_no_progress with_reducible refine Kept.lit ?_)

theorem runTile_kept {z0 : Origin} {s : State} {o : Op} {b : ElemBody} {gemm : Nat} {tiles : List FusedTile} {cols : Nat} {last : Bool} {tile r0 nr c0 nc : Nat} {acc : List Acc} (h0 : Kept z0 s) :
    FusedKept z0 (runTile s o b gemm tiles cols last tile r0 nr c0 nc acc) := by
  unfold runTile
  try dsimp only
  repeat' first
    | with_reducible assumption | with_reducible exact Kept.refl _ _ | with_reducible apply elemWrites_kept
    | with_reducible apply blockCounts_kept | with_reducible apply opNeed_kept | with_reducible apply opLimit_kept
    | with_reducible apply awaitWrite_kept | with_reducible apply opDone_kept | with_reducible apply opUpdate_kept
    | (refine WroteKept.done_of ?_ (by with_reducible assumption))
    | (refine WroteKept.limit_of ?_ (by with_reducible assumption)) | with_reducible apply Kept.ite
    | (with_reducible apply Kept.foldl; intro _ _ _; try dsimp only)
    | (with_reducible apply Kept.foldl1; intro _ _ _; try dsimp only) | with_reducible apply FusedKept.wait
    | with_reducible apply FusedKept.done | with_reducible exact WroteKept.wait _ _
    | with_reducible apply WroteKept.done | with_reducible apply WroteKept.limit | split
    | (fail_if_no_progress with_reducible refine Kept.lit ?_)

/-! ### Matrix -/

theorem writeSummary_kept {z0 : Origin} {s : State} {o : Op} {g : Gemm} {plan tile : Nat} {p : TilePlan} (h0 : Kept z0 s) :
    WroteKept z0 (writeSummary s o g plan tile p) := by
  unfold writeSummary
  try dsimp only
  repeat' first
    | with_reducible assumption | with_reducible exact Kept.refl _ _ | with_reducible apply recordRows_kept
    | with_reducible apply opWritesThen_kept | (refine WroteKept.done_of ?_ (by with_reducible assumption))
    | (refine WroteKept.limit_of ?_ (by with_reducible assumption)) | with_reducible apply Kept.ite
    | with_reducible exact WroteKept.wait _ _ | with_reducible apply WroteKept.done
    | with_reducible apply WroteKept.limit | (with_reducible intro _; try dsimp only) | split

theorem dealTiles_kept {z0 : Origin} {s : State} {id tiles : Nat} {bs : List Nat} {deferred : Bool} (h0 : Kept z0 s) :
    Kept z0 (dealTiles s id tiles bs deferred) := by
  unfold dealTiles
  try dsimp only
  repeat' first
    | with_reducible assumption | with_reducible exact Kept.refl _ _ | with_reducible apply belfryPut_kept
    | with_reducible apply Kept.ite | (with_reducible apply Kept.foldl; intro _ _ _; try dsimp only)
    | (with_reducible apply Kept.foldl1; intro _ _ _; try dsimp only) | split
    | (fail_if_no_progress with_reducible refine Kept.lit ?_)

theorem acceptGemm_kept {z0 : Origin} {s : State} {o : Op} {kind : GemmKind} {b : GemmBody} (h0 : Kept z0 s) :
    Kept z0 (acceptGemm s o kind b) := by
  unfold acceptGemm
  try dsimp only
  repeat' first
    | with_reducible assumption | with_reducible exact Kept.refl _ _ | with_reducible apply dealTiles_kept
    | with_reducible apply contributeZeros_kept | with_reducible apply opDone_kept | with_reducible apply opUpdate_kept
    | with_reducible apply Kept.ite | with_reducible apply KeptOpt.getD | split
    | (fail_if_no_progress with_reducible refine Kept.lit ?_)

theorem runGemm_kept {z0 : Origin} {s : State} {o : Op} {kind : GemmKind} {b : GemmBody} (h0 : Kept z0 s) :
    Kept z0 (runGemm s o kind b) := by
  unfold runGemm
  try dsimp only
  repeat' first
    | with_reducible assumption | with_reducible exact Kept.refl _ _ | with_reducible apply dealTiles_kept
    | with_reducible apply Kept.ite | split

theorem purgeJobs_kept {z0 : Origin} {s : State} (h0 : Kept z0 s) :
    Kept z0 (purgeJobs s) := by
  unfold purgeJobs
  try dsimp only
  repeat' first
    | with_reducible assumption | with_reducible exact Kept.refl _ _ | with_reducible apply belfryPut_kept
    | with_reducible apply Kept.ite | (with_reducible apply Kept.foldl; intro _ _ _; try dsimp only)
    | (with_reducible apply Kept.foldl1; intro _ _ _; try dsimp only) | split
    | (fail_if_no_progress with_reducible refine Kept.lit ?_)

theorem planCount_kept {z0 : Origin} {s : State} {id : Nat} {p : TilePlan} {skip : Bool} (h0 : Kept z0 s) :
    Kept z0 (planCount s id p skip) := by
  unfold planCount
  try dsimp only
  repeat' first
    | with_reducible assumption | with_reducible exact Kept.refl _ _ | with_reducible apply opUpdate_kept
    | with_reducible apply Kept.ite | split | (fail_if_no_progress with_reducible refine Kept.lit ?_)

theorem startTile_kept {z0 : Origin} {s : State} {t : Nat} (h0 : Kept z0 s) :
    Kept z0 (startTile s t) := by
  unfold startTile
  try dsimp only
  repeat' first
    | with_reducible assumption | with_reducible exact Kept.refl _ _ | with_reducible apply planCount_kept
    | with_reducible apply writeSummary_kept | with_reducible apply payBursts_kept | with_reducible apply opNeed_kept
    | with_reducible apply opLimit_kept | with_reducible apply awaitWrite_kept | with_reducible apply turretPut_kept
    | with_reducible apply belfryPut_kept | (refine WroteKept.done_of ?_ (by with_reducible assumption))
    | (refine WroteKept.limit_of ?_ (by with_reducible assumption)) | with_reducible apply Kept.ite
    | with_reducible exact WroteKept.wait _ _ | with_reducible apply WroteKept.done
    | with_reducible apply WroteKept.limit | (with_reducible intro _; try dsimp only) | split
    | (fail_if_no_progress with_reducible refine Kept.lit ?_)

theorem lateArrival_kept {z0 : Origin} {s : State} {t i : Nat} (h0 : Kept z0 s) :
    Kept z0 (lateArrival s t i) := by
  unfold lateArrival
  try dsimp only
  repeat' first
    | with_reducible assumption | with_reducible exact Kept.refl _ _ | with_reducible apply opNeed_kept
    | with_reducible apply turretPut_kept | split | (fail_if_no_progress with_reducible refine Kept.lit ?_)

theorem tileToGroup_kept {z0 : Origin} {s : State} {o : Op} {g : Gemm} {tile : Nat} {acc : List Acc} (h0 : Kept z0 s) :
    TileKept z0 (tileToGroup s o g tile acc) := by
  unfold tileToGroup
  try dsimp only
  repeat' first
    | with_reducible assumption | with_reducible exact Kept.refl _ _ | with_reducible apply contribute_kept
    | with_reducible apply opDone_kept | (refine GivenKept.of ?_ (by with_reducible assumption))
    | with_reducible exact TileKept.wait _ | with_reducible apply TileKept.done | with_reducible apply KeptOpt.getD
    | split

theorem tileToMemory_kept {z0 : Origin} {s : State} {o : Op} {g : Gemm} {tile : Nat} {acc : List Acc} (h0 : Kept z0 s) :
    TileKept z0 (tileToMemory s o g tile acc) := by
  unfold tileToMemory
  try dsimp only
  repeat' first
    | with_reducible assumption | with_reducible exact Kept.refl _ _ | with_reducible apply histEnter_kept
    | with_reducible apply addBins_kept | with_reducible apply opLimit_kept | with_reducible apply opWritesThen_kept
    | with_reducible apply opTally_kept | with_reducible apply opUpdate_kept
    | (refine WroteKept.done_of ?_ (by with_reducible assumption))
    | (refine WroteKept.limit_of ?_ (by with_reducible assumption)) | with_reducible exact TileKept.wait _
    | with_reducible apply TileKept.done | with_reducible apply Kept.ite | with_reducible apply KeptOpt.getD
    | with_reducible exact WroteKept.wait _ _ | with_reducible apply WroteKept.done
    | with_reducible apply WroteKept.limit | (with_reducible intro _; try dsimp only) | split
    | (fail_if_no_progress with_reducible refine Kept.lit ?_)

theorem tileToProgram_kept {z0 : Origin} {s : State} {o : Op} {g : Gemm} {tile left : Nat} {elem : Option Nat} {acc : List Acc} (h0 : Kept z0 s) :
    FusedKept z0 (tileToProgram s o g tile left elem acc) := by
  unfold tileToProgram
  try dsimp only
  repeat' first
    | with_reducible assumption | with_reducible exact Kept.refl _ _ | with_reducible apply runTile_kept
    | with_reducible apply opUpdate_kept | (refine FusedKept.wait_of ?_ (by with_reducible assumption))
    | (refine FusedKept.done_of ?_ (by with_reducible assumption)) | with_reducible apply Kept.ite
    | with_reducible apply KeptOpt.getD | with_reducible apply FusedKept.wait | with_reducible apply FusedKept.done
    | split | (fail_if_no_progress with_reducible refine Kept.lit ?_)

theorem tileDone_kept {z0 : Origin} {s : State} {o : Op} {g : Gemm} {b : TileBuf} (h0 : Kept z0 s) :
    Kept z0 (tileDone s o g b) := by
  unfold tileDone
  try dsimp only
  repeat' first
    | with_reducible assumption | with_reducible exact Kept.refl _ _ | with_reducible apply addBins_kept
    | with_reducible apply opTally_kept | with_reducible apply opStrictFail_kept | with_reducible apply opDone_kept
    | with_reducible apply abortTxn_kept | with_reducible apply opUpdate_kept | with_reducible apply Kept.ite
    | with_reducible apply KeptOpt.getD | split | (fail_if_no_progress with_reducible refine Kept.lit ?_)

theorem completeTile_kept {z0 : Origin} {s : State} {t i : Nat} (h0 : Kept z0 s) :
    Kept z0 (completeTile s t i) := by
  unfold completeTile
  try dsimp only
  repeat' first
    | with_reducible assumption | with_reducible exact Kept.refl _ _ | with_reducible apply tileDone_kept
    | with_reducible apply tileToProgram_kept | with_reducible apply tileToMemory_kept
    | with_reducible apply tileToGroup_kept | with_reducible apply turretPut_kept
    | (refine FusedKept.wait_of ?_ (by with_reducible assumption))
    | (refine FusedKept.done_of ?_ (by with_reducible assumption))
    | (refine TileKept.of ?_ (by with_reducible assumption)) | with_reducible apply TileKept.ite
    | with_reducible exact TileKept.wait _ | with_reducible apply TileKept.done | with_reducible apply Kept.ite | split

/-! ### Sparse -/

theorem runSpsp_kept {z0 : Origin} {s : State} {o : Op} {b : SpspBody} (h0 : Kept z0 s) :
    Kept z0 (runSpsp s o b) := by
  unfold runSpsp
  try dsimp only
  repeat' first
    | with_reducible assumption | with_reducible exact Kept.refl _ _ | with_reducible apply applyWrites_kept
    | with_reducible apply opNeed_kept | with_reducible apply opTally_kept | with_reducible apply opStrictFail_kept
    | with_reducible apply opDone_kept | with_reducible apply opUpdate_kept | with_reducible apply Kept.ite
    | (with_reducible intro _; try dsimp only) | split | (fail_if_no_progress with_reducible refine Kept.lit ?_)

/-! ### Sample -/

theorem sampleEnd_kept {z0 : Origin} {s : State} {o : Op} {b : SampleBody} {all : List Expanded} {cut : Bool} (h0 : Kept z0 s) :
    Kept z0 (sampleEnd s o b all cut) := by
  unfold sampleEnd
  try dsimp only
  repeat' first
    | with_reducible assumption | with_reducible exact Kept.refl _ _ | with_reducible apply opStrictFail_kept
    | with_reducible apply opDone_kept | with_reducible apply opUpdate_kept | with_reducible apply Kept.ite | split
    | (fail_if_no_progress with_reducible refine Kept.lit ?_)

theorem runSample_kept {z0 : Origin} {s : State} {o : Op} {b : SampleBody} (h0 : Kept z0 s) :
    Kept z0 (runSample s o b) := by
  unfold runSample
  try dsimp only
  repeat' first
    | with_reducible assumption | with_reducible exact Kept.refl _ _ | with_reducible apply sampleEnd_kept
    | with_reducible apply applyWrites_kept | with_reducible apply askTokens_kept | with_reducible apply opNeed_kept
    | with_reducible apply Kept.ite | (with_reducible intro _; try dsimp only) | split

/-! ### Gather -/

theorem rowsEnd_kept {z0 : Origin} {s : State} {id : Nat} {strict : Bool} {m : RowMarks} (h0 : Kept z0 s) :
    Kept z0 (rowsEnd s id strict m) := by
  unfold rowsEnd
  try dsimp only
  repeat' first
    | with_reducible assumption | with_reducible exact Kept.refl _ _ | with_reducible apply opStrictFail_kept
    | with_reducible apply opDone_kept | with_reducible apply opUpdate_kept | with_reducible apply Kept.ite | split
    | (fail_if_no_progress with_reducible refine Kept.lit ?_)

theorem runGather_kept {z0 : Origin} {s : State} {o : Op} {b : GatherBody} (h0 : Kept z0 s) :
    Kept z0 (runGather s o b) := by
  unfold runGather
  try dsimp only
  repeat' first
    | with_reducible assumption | with_reducible exact Kept.refl _ _ | with_reducible apply rowsEnd_kept
    | with_reducible apply withRows_kept | with_reducible apply applyWrites_kept | with_reducible apply unroutable_kept
    | with_reducible apply opNeed_kept | with_reducible apply opDone_kept | with_reducible apply Kept.ite
    | (with_reducible intro _; try dsimp only) | split

/-! ### Scatter -/

theorem runPathScatter_kept {z0 : Origin} {s : State} {o : Op} {b : ScatterBody} (h0 : Kept z0 s) :
    Kept z0 (runPathScatter s o b) := by
  unfold runPathScatter
  try dsimp only
  repeat' first
    | with_reducible assumption | with_reducible exact Kept.refl _ _ | with_reducible apply withRows_kept
    | with_reducible apply applyWrites_kept | with_reducible apply opNeed_kept | with_reducible apply opTally_kept
    | with_reducible apply opDone_kept | with_reducible apply Kept.ite | (with_reducible intro _; try dsimp only)
    | split | (fail_if_no_progress with_reducible refine Kept.lit ?_)

theorem storeRows_kept {z0 : Origin} {s : State} {o : Op} {strict : Bool} {m : RowMarks} {r : List (Nat × List Byte) × Tally} {k : State → State} (h0 : Kept z0 s) (k_k : ∀ x0, Kept z0 x0 → Kept z0 (k x0)) :
    Kept z0 (storeRows s o strict m r k) := by
  unfold storeRows
  try dsimp only
  repeat' first
    | with_reducible apply k_k | with_reducible assumption | with_reducible exact Kept.refl _ _
    | with_reducible apply rowsEnd_kept | with_reducible apply applyWrites_kept | with_reducible apply opTally_kept
    | with_reducible apply opDone_kept | with_reducible apply Kept.ite | (with_reducible intro _; try dsimp only)
    | split

theorem runLocalList_kept {z0 : Origin} {s : State} {o : Op} {b : ScatterBody} {it : ListItems} (h0 : Kept z0 s) :
    Kept z0 (runLocalList s o b it) := by
  unfold runLocalList
  try dsimp only
  repeat' first
    | with_reducible assumption | with_reducible exact Kept.refl _ _ | with_reducible apply storeRows_kept
    | with_reducible apply opNeed_kept | (with_reducible intro _; try dsimp only) | split
    | (fail_if_no_progress dsimp only [id])

theorem exchangeAdd_kept {z0 : Origin} {s : State} {src : Nat} {p : ReduceBatch} (h0 : Kept z0 s) :
    Kept z0 (exchangeAdd s src p) := by
  unfold exchangeAdd
  try dsimp only
  repeat' first
    | with_reducible assumption | with_reducible exact Kept.refl _ _ | split
    | (fail_if_no_progress with_reducible refine Kept.lit ?_)

theorem exchangeEnd_kept {z0 : Origin} {s : State} {x : Nat} {chips : List Nat} (h0 : Kept z0 s) :
    Kept z0 (exchangeEnd s x chips) := by
  unfold exchangeEnd
  try dsimp only
  repeat' first
    | with_reducible assumption | with_reducible exact Kept.refl _ _ | with_reducible apply Kept.ite | split
    | (fail_if_no_progress with_reducible refine Kept.lit ?_)

theorem sendExchange_kept {z0 : Origin} {s : State} {o : Op} {b : ScatterBody} {it : ListItems} (h0 : Kept z0 s) :
    Kept z0 (sendExchange s o b it) := by
  unfold sendExchange
  try dsimp only
  repeat' first
    | with_reducible assumption | with_reducible exact Kept.refl _ _ | with_reducible apply exchangeAdd_kept
    | with_reducible apply sendAwaited_kept | with_reducible apply addReq_kept | with_reducible apply opTally_kept
    | with_reducible apply opUpdate_kept | with_reducible apply Kept.ite
    | (with_reducible apply Kept.foldl; intro _ _ _; try dsimp only)
    | (with_reducible apply Kept.foldl1; intro _ _ _; try dsimp only) | with_reducible apply KeptOpt.getD | split
    | (fail_if_no_progress with_reducible refine Kept.lit ?_)

theorem markExchange_kept {z0 : Origin} {s : State} {o : Op} {b : ScatterBody} (h0 : Kept z0 s) :
    Kept z0 (markExchange s o b) := by
  unfold markExchange
  try dsimp only
  repeat' first
    | with_reducible assumption | with_reducible exact Kept.refl _ _ | with_reducible apply exchangeAdd_kept
    | with_reducible apply sendAwaited_kept | with_reducible apply opUpdate_kept | with_reducible apply Kept.ite
    | (with_reducible apply Kept.foldl; intro _ _ _; try dsimp only)
    | (with_reducible apply Kept.foldl1; intro _ _ _; try dsimp only) | split
    | (fail_if_no_progress with_reducible refine Kept.lit ?_)

theorem foldExchange_kept {z0 : Origin} {s : State} {o : Op} {b : ScatterBody} (h0 : Kept z0 s) :
    Kept z0 (foldExchange s o b) := by
  unfold foldExchange
  try dsimp only
  repeat' first
    | with_reducible assumption | with_reducible exact Kept.refl _ _ | with_reducible apply exchangeEnd_kept
    | with_reducible apply applyWrites_kept | with_reducible apply markSent_kept | with_reducible apply opNeed_kept
    | with_reducible apply opTally_kept | with_reducible apply opStrictFail_kept | with_reducible apply opDone_kept
    | with_reducible apply opUpdate_kept | with_reducible apply Kept.ite | (with_reducible intro _; try dsimp only)
    | split | (fail_if_no_progress with_reducible refine Kept.lit ?_)

theorem goExchange_kept {z0 : Origin} {s : State} {o : Op} {b : ScatterBody} (h0 : Kept z0 s) :
    Kept z0 (goExchange s o b) := by
  unfold goExchange
  try dsimp only
  repeat' first
    | with_reducible assumption | with_reducible exact Kept.refl _ _ | with_reducible apply foldExchange_kept
    | with_reducible apply markExchange_kept | with_reducible apply Kept.ite | split

theorem runScatter_kept {z0 : Origin} {s : State} {o : Op} {b : ScatterBody} (h0 : Kept z0 s) :
    Kept z0 (runScatter s o b) := by
  unfold runScatter
  try dsimp only
  repeat' first
    | with_reducible assumption | with_reducible exact Kept.refl _ _ | with_reducible apply goExchange_kept
    | with_reducible apply sendExchange_kept | with_reducible apply runLocalList_kept
    | with_reducible apply runPathScatter_kept | with_reducible apply withRows_kept
    | with_reducible apply unroutable_kept | with_reducible apply opNeed_kept | with_reducible apply opDone_kept
    | with_reducible apply Kept.ite | with_reducible apply KeptOpt.getD | (with_reducible intro _; try dsimp only)
    | split

/-! ### Embed -/

theorem sketchAdd_kept {z0 : Origin} {s : State} {table tver r c : Nat} (h0 : Kept z0 s) :
    Kept z0 (sketchAdd s table tver r c) := by
  unfold sketchAdd
  try dsimp only
  repeat' first
    | with_reducible assumption | with_reducible exact Kept.refl _ _ | with_reducible apply Kept.ite
    | (with_reducible apply Kept.foldl; intro _ _ _; try dsimp only)
    | (with_reducible apply Kept.foldl1; intro _ _ _; try dsimp only) | split
    | (fail_if_no_progress with_reducible refine Kept.lit ?_)

theorem replicaTake_kept {z0 : Origin} {s : State} {bs : List Byte} (h0 : Kept z0 s) :
    Kept z0 (replicaTake s bs) := by
  unfold replicaTake
  try dsimp only
  repeat' first
    | with_reducible assumption | with_reducible exact Kept.refl _ _ | split
    | (fail_if_no_progress with_reducible refine Kept.lit ?_)

theorem sendReplicas_kept {z0 : Origin} {s : State} {id num step : Nat} (h0 : Kept z0 s) :
    Kept z0 (sendReplicas s id num step) := by
  unfold sendReplicas
  try dsimp only
  repeat' first
    | with_reducible assumption | with_reducible exact Kept.refl _ _ | with_reducible apply sendAwaited_kept
    | with_reducible apply countDrop_kept | with_reducible apply Kept.ite
    | (with_reducible apply Kept.foldl; intro _ _ _; try dsimp only)
    | (with_reducible apply Kept.foldl1; intro _ _ _; try dsimp only) | split

theorem demote_kept {z0 : Origin} {s : State} {table tver step : Nat} {p : Replica → Bool} (h0 : Kept z0 s) :
    Kept z0 (demote s table tver step p) := by
  unfold demote
  try dsimp only
  repeat' first
    | with_reducible assumption | with_reducible exact Kept.refl _ _ | with_reducible apply Kept.ite | split
    | (fail_if_no_progress with_reducible refine Kept.lit ?_)

theorem promote_kept {r : Origin} {table tver step : Nat} {k : Sketch} {shards : Nat} {acc : State × Nat × Nat × Nat} {x : Nat}
    (h : Kept r acc.1) : Kept r (promote table tver step k shards acc x).1 := by
  obtain ⟨s, p, np, ev⟩ := acc
  unfold promote
  dsimp only at h ⊢
  repeat' first
    | with_reducible assumption
    | with_reducible apply drawFree_kept
    | with_reducible apply demote_kept
    | split
    | (fail_if_no_progress with_reducible refine Kept.lit ?_)

theorem lackRoom_kept {z0 : Origin} {s : State} {shards : Nat} {rows : List Nat} (h0 : Kept z0 s) :
    Kept z0 (lackRoom s shards rows).1 := by
  unfold lackRoom
  try dsimp only
  repeat' first
    | with_reducible assumption | with_reducible exact Kept.refl _ _ | with_reducible apply drawFree_kept
    | with_reducible apply Kept.ite | (with_reducible apply Kept.foldl; intro _ _ _; try dsimp only)
    | (with_reducible apply Kept.foldl1; intro _ _ _; try dsimp only) | split

theorem tableClose_kept {z0 : Origin} {s : State} {step table tver : Nat} {d : TableDesc} (h0 : Kept z0 s) :
    Kept z0 (tableClose s step table tver d) := by
  unfold tableClose
  try dsimp only
  repeat' first
    | with_reducible assumption | with_reducible exact Kept.refl _ _ | with_reducible apply lackRoom_kept
    | with_reducible apply promote_kept | with_reducible apply demote_kept | with_reducible apply deviceEvent_kept
    | with_reducible apply Kept.ite | (with_reducible apply Kept.foldl; intro _ _ _; try dsimp only)
    | (with_reducible apply Kept.foldl1; intro _ _ _; try dsimp only) | (with_reducible intro _; try dsimp only) | split
    | (fail_if_no_progress with_reducible refine Kept.lit ?_)

theorem windowClose_kept {z0 : Origin} {s : State} {step : Nat} (h0 : Kept z0 s) :
    Kept z0 (windowClose s step) := by
  unfold windowClose
  try dsimp only
  repeat' first
    | with_reducible assumption | with_reducible exact Kept.refl _ _ | with_reducible apply tableClose_kept
    | with_reducible apply Kept.ite | (with_reducible apply Kept.foldl; intro _ _ _; try dsimp only)
    | (with_reducible apply Kept.foldl1; intro _ _ _; try dsimp only) | split
    | (fail_if_no_progress with_reducible refine Kept.lit ?_)

theorem dirMove_kept {z0 : Origin} {old new : State} (h0 : Kept z0 old) (h1 : Kept z0 new) :
    Kept z0 (dirMove old new) := by
  unfold dirMove
  try dsimp only
  repeat' first
    | with_reducible assumption | with_reducible exact Kept.refl _ _ | with_reducible apply dirSwap_kept
    | with_reducible apply Kept.ite | split

theorem retireTables_kept {z0 : Origin} {s : State} (h0 : Kept z0 s) :
    Kept z0 (retireTables s) := by
  unfold retireTables
  try dsimp only
  repeat' first
    | with_reducible assumption | with_reducible exact Kept.refl _ _ | with_reducible apply deviceEvent_kept
    | (with_reducible apply Kept.foldl; intro _ _ _; try dsimp only)
    | (with_reducible apply Kept.foldl1; intro _ _ _; try dsimp only) | split
    | (fail_if_no_progress with_reducible refine Kept.lit ?_)

theorem settleReplicas_kept {z0 : Origin} {s : State} {step : Nat} {good : Bool} (h0 : Kept z0 s) :
    Kept z0 (settleReplicas s step good) := by
  unfold settleReplicas
  try dsimp only
  repeat' first
    | with_reducible assumption | with_reducible exact Kept.refl _ _ | with_reducible apply Kept.ite | split
    | (fail_if_no_progress with_reducible refine Kept.lit ?_)

theorem holdReplicas_kept {z0 : Origin} {s : State} {o : Op} {d : TableDesc} {rows : List StoredRowId} (h0 : Kept z0 s) :
    Kept z0 (holdReplicas s o d rows) := by
  unfold holdReplicas
  try dsimp only
  repeat' first
    | with_reducible assumption | with_reducible exact Kept.refl _ _ | with_reducible apply opUpdate_kept
    | with_reducible apply Kept.ite | split | (fail_if_no_progress with_reducible refine Kept.lit ?_)

theorem withTable_kept {z0 : Origin} {s : State} {o : Op} {d : TableDesc} {mask rounds : Nat} {ps : List Position} {rows : List StoredRowId} {k : State → Op → List RowRead → State} (h0 : Kept z0 s) (k_k : ∀ x0 x1 x2, Kept z0 x0 → Kept z0 (k x0 x1 x2)) :
    Kept z0 (withTable s o d mask rounds ps rows k) := by
  unfold withTable
  try dsimp only
  repeat' first
    | with_reducible apply k_k | with_reducible assumption | with_reducible exact Kept.refl _ _
    | with_reducible apply holdReplicas_kept | with_reducible apply withRows_kept | with_reducible apply unroutable_kept
    | with_reducible apply opNeed_kept | (with_reducible intro _; try dsimp only) | split

theorem countLocal_kept {z0 : Origin} {s : State} {o : Op} {d : TableDesc} {looks : List (StoredRowId × Nat)} (h0 : Kept z0 s) :
    Kept z0 (countLocal s o d looks) := by
  unfold countLocal
  try dsimp only
  repeat' first
    | with_reducible assumption | with_reducible exact Kept.refl _ _ | with_reducible apply sketchAdd_kept
    | (with_reducible apply Kept.foldl; intro _ _ _; try dsimp only)
    | (with_reducible apply Kept.foldl1; intro _ _ _; try dsimp only) | with_reducible apply KeptOpt.getD | split

theorem runEmbBag_kept {z0 : Origin} {s : State} {o : Op} {b : EmbBagBody} (h0 : Kept z0 s) :
    Kept z0 (runEmbBag s o b) := by
  unfold runEmbBag
  try dsimp only
  repeat' first
    | with_reducible assumption | with_reducible exact Kept.refl _ _ | with_reducible apply countLocal_kept
    | with_reducible apply withTable_kept | with_reducible apply rowsEnd_kept | with_reducible apply applyWrites_kept
    | with_reducible apply addBins_kept | with_reducible apply opNeed_kept | with_reducible apply opTally_kept
    | with_reducible apply Kept.ite | with_reducible apply KeptOpt.getD | (with_reducible intro _; try dsimp only)
    | split

theorem withGrad_kept {z0 : Origin} {s : State} {o : Op} {b : EmbGradBody} {d : TableDesc} {k : State → Op → GradRows → State} (h0 : Kept z0 s) (k_k : ∀ x0 x1 x2, Kept z0 x0 → Kept z0 (k x0 x1 x2)) :
    Kept z0 (withGrad s o b d k) := by
  unfold withGrad
  try dsimp only
  repeat' first
    | with_reducible apply k_k | with_reducible assumption | with_reducible exact Kept.refl _ _
    | with_reducible apply withTable_kept | with_reducible apply unroutable_kept | with_reducible apply opNeed_kept
    | with_reducible apply Kept.ite | (with_reducible intro _; try dsimp only) | split
    | (fail_if_no_progress with_reducible refine Kept.lit ?_)

theorem sendGrads_kept {z0 : Origin} {s : State} {o : Op} {b : EmbGradBody} {d : TableDesc} {g : GradRows} (h0 : Kept z0 s) :
    Kept z0 (sendGrads s o b d g) := by
  unfold sendGrads
  try dsimp only
  repeat' first
    | with_reducible assumption | with_reducible exact Kept.refl _ _ | with_reducible apply exchangeAdd_kept
    | with_reducible apply sendAwaited_kept | with_reducible apply Kept.ite
    | (with_reducible apply Kept.foldl; intro _ _ _; try dsimp only)
    | (with_reducible apply Kept.foldl1; intro _ _ _; try dsimp only) | with_reducible apply KeptOpt.getD | split

theorem gradStage_kept {z0 : Origin} {s : State} {id : Nat} {marked folded wrong : Bool} (h0 : Kept z0 s) :
    Kept z0 (gradStage s id marked folded wrong) := by
  unfold gradStage
  try dsimp only
  repeat' first
    | with_reducible assumption | with_reducible exact Kept.refl _ _ | with_reducible apply opUpdate_kept | split
    | (fail_if_no_progress with_reducible refine Kept.lit ?_)

theorem gradGiven_kept {z0 : Origin} {s : State} {id n : Nat} (h0 : Kept z0 s) :
    Kept z0 (gradGiven s id n) := by
  unfold gradGiven
  try dsimp only
  repeat' first
    | with_reducible assumption | with_reducible exact Kept.refl _ _ | with_reducible apply opUpdate_kept | split
    | (fail_if_no_progress with_reducible refine Kept.lit ?_)

theorem gradMark_kept {z0 : Origin} {s : State} {o : Op} {b : EmbGradBody} {d : TableDesc} (h0 : Kept z0 s) :
    Kept z0 (gradMark s o b d) := by
  unfold gradMark
  try dsimp only
  repeat' first
    | with_reducible assumption | with_reducible exact Kept.refl _ _ | with_reducible apply gradStage_kept
    | with_reducible apply exchangeAdd_kept | with_reducible apply sendAwaited_kept | with_reducible apply Kept.ite
    | (with_reducible apply Kept.foldl; intro _ _ _; try dsimp only)
    | (with_reducible apply Kept.foldl1; intro _ _ _; try dsimp only) | split

theorem gradFold_kept {z0 : Origin} {s : State} {o : Op} {b : EmbGradBody} {d : TableDesc} (h0 : Kept z0 s) :
    Kept z0 (gradFold s o b d) := by
  unfold gradFold
  try dsimp only
  repeat' first
    | with_reducible assumption | with_reducible exact Kept.refl _ _ | with_reducible apply gradStage_kept
    | with_reducible apply exchangeEnd_kept | with_reducible apply applyWrites_kept | with_reducible apply opNeed_kept
    | with_reducible apply opTally_kept | with_reducible apply opDone_kept | with_reducible apply opUpdate_kept
    | with_reducible apply Kept.ite | (with_reducible intro _; try dsimp only) | split
    | (fail_if_no_progress with_reducible refine Kept.lit ?_)

theorem gradEnd_kept {z0 : Origin} {s : State} {id : Nat} {b : EmbGradBody} (h0 : Kept z0 s) :
    Kept z0 (gradEnd s id b) := by
  unfold gradEnd
  try dsimp only
  repeat' first
    | with_reducible assumption | with_reducible exact Kept.refl _ _ | with_reducible apply opStrictFail_kept
    | with_reducible apply opDone_kept | with_reducible apply Kept.ite | split

theorem giveGrads_kept {r : Origin} {o : Op} {off elems : Nat} {codes : List Nat} : ∀ {f : Nat} {s : State} {n : Nat}, Kept r s →
    Kept r (giveGrads o off elems codes f s n)
  | 0, _, _, h => h
  | f + 1, s, n, h => by
    unfold giveGrads
    dsimp only
    split
    · exact h
    · split
      · exact h
      · exact opDone_kept h
      · rename_i heq
        exact giveGrads_kept (gradGiven_kept ((contribute_kept h).of heq))

theorem gradReturn_kept {z0 : Origin} {s : State} {o : Op} {b : EmbGradBody} {d : TableDesc} (h0 : Kept z0 s) :
    Kept z0 (gradReturn s o b d) := by
  unfold gradReturn
  try dsimp only
  repeat' first
    | with_reducible assumption | with_reducible exact Kept.refl _ _ | with_reducible apply gradEnd_kept
    | with_reducible apply applyWrites_kept | with_reducible apply opDone_kept | with_reducible apply Kept.ite
    | with_reducible apply KeptOpt.getD | (with_reducible intro _; try dsimp only) | split

theorem gradExchange_kept {z0 : Origin} {s : State} {o : Op} {b : EmbGradBody} {d : TableDesc} (h0 : Kept z0 s) :
    Kept z0 (gradExchange s o b d) := by
  unfold gradExchange
  try dsimp only
  repeat' first
    | with_reducible assumption | with_reducible exact Kept.refl _ _ | with_reducible apply gradFold_kept
    | with_reducible apply gradMark_kept | with_reducible apply Kept.ite | split

theorem gradGo_kept {z0 : Origin} {s : State} {o : Op} {b : EmbGradBody} {d : TableDesc} (h0 : Kept z0 s) :
    Kept z0 (gradGo s o b d) := by
  unfold gradGo
  try dsimp only
  repeat' first
    | with_reducible assumption | with_reducible exact Kept.refl _ _ | with_reducible apply gradExchange_kept
    | with_reducible apply gradReturn_kept | with_reducible apply giveGrads_kept | with_reducible apply gradEnd_kept
    | with_reducible apply withGrad_kept | with_reducible apply Kept.ite | (with_reducible intro _; try dsimp only)
    | split

theorem acceptEmbGrad_kept {z0 : Origin} {s : State} {o : Op} {b : EmbGradBody} (h0 : Kept z0 s) :
    Kept z0 (acceptEmbGrad s o b) := by
  unfold acceptEmbGrad
  try dsimp only
  repeat' first
    | with_reducible assumption | with_reducible exact Kept.refl _ _ | with_reducible apply opUpdate_kept
    | with_reducible apply Kept.ite | with_reducible apply KeptOpt.getD | split
    | (fail_if_no_progress with_reducible refine Kept.lit ?_)

theorem runEmbGrad_kept {z0 : Origin} {s : State} {o : Op} {b : EmbGradBody} (h0 : Kept z0 s) :
    Kept z0 (runEmbGrad s o b) := by
  unfold runEmbGrad
  try dsimp only
  repeat' first
    | with_reducible assumption | with_reducible exact Kept.refl _ _ | with_reducible apply gradGo_kept
    | with_reducible apply sendGrads_kept | with_reducible apply withGrad_kept | with_reducible apply countLocal_kept
    | with_reducible apply applyWrites_kept | with_reducible apply addReq_kept | with_reducible apply opTally_kept
    | with_reducible apply opUpdate_kept | with_reducible apply Kept.ite | (with_reducible intro _; try dsimp only)
    | split | (fail_if_no_progress with_reducible refine Kept.lit ?_)

end Sys2Proof.Machine
end

