-- ==== Sys2Proof/Laws/KeptSteps.lean ====
section
/-! SUPPORT. What every operation keeps (Laws/Kept): versions, publications, the Vane and the step vote. -/

set_option Elab.async false
set_option linter.unusedTactic false
set_option linter.unreachableTactic false

namespace Sys2Proof.Machine

/-! ### Waits -/

theorem waitTest_kept {z0 : Origin} {s : State} {o : Op} {b : WaitBody} (h0 : Kept z0 s) :
    Kept z0 (waitTest s o b) := by
  unfold waitTest
  try dsimp only
  repeat' first
    | with_reducible assumption | with_reducible exact Kept.refl _ _ | with_reducible apply payNow_kept
    | with_reducible apply touchRange_kept | with_reducible apply opNeed_kept | with_reducible apply opDone_kept
    | with_reducible apply opUpdate_kept | (refine KeptOpt.of ?_ (by with_reducible assumption))
    | with_reducible apply Kept.ite | (with_reducible intro _; try dsimp only) | split
    | (fail_if_no_progress with_reducible refine Kept.lit ?_)

theorem testWaits_kept {z0 : Origin} {s : State} {p : Nat → Bool} (h0 : Kept z0 s) :
    Kept z0 (testWaits s p) := by
  unfold testWaits
  try dsimp only
  repeat' first
    | with_reducible assumption | with_reducible exact Kept.refl _ _ | with_reducible apply waitTest_kept
    | with_reducible apply Kept.ite | (with_reducible apply Kept.foldl; intro _ _ _; try dsimp only)
    | (with_reducible apply Kept.foldl1; intro _ _ _; try dsimp only) | split

theorem testGrains_kept {z0 : Origin} {s : State} {a n : Nat} (h0 : Kept z0 s) :
    Kept z0 (testGrains s a n) := by
  unfold testGrains
  try dsimp only
  repeat' first
    | with_reducible assumption | with_reducible exact Kept.refl _ _ | with_reducible apply testWaits_kept | split

/-! ### Slots -/

theorem setClosed_kept {z0 : Origin} {s : State} {i step : Nat} (h0 : Kept z0 s) :
    Kept z0 (setClosed s i step) := by
  unfold setClosed
  try dsimp only
  repeat' first
    | with_reducible assumption | with_reducible exact Kept.refl _ _ | with_reducible apply setSliceState_kept
    | with_reducible apply Kept.ite | split | (fail_if_no_progress with_reducible refine Kept.lit ?_)

theorem claimSlot_kept {z0 : Origin} {s : State} {i step : Nat} (h0 : Kept z0 s) :
    KeptOpt z0 (claimSlot s i step) := by
  unfold claimSlot
  try dsimp only
  repeat' first
    | with_reducible assumption | with_reducible exact Kept.refl _ _ | with_reducible apply setClosed_kept
    | with_reducible apply setSliceVer_kept | with_reducible apply setSliceState_kept | with_reducible apply Kept.ite
    | with_reducible exact KeptOpt.none _ | with_reducible apply KeptOpt.some | split

theorem settleSlot_kept {z0 : Origin} {s : State} {i k : Nat} (h0 : Kept z0 s) :
    Kept z0 (settleSlot s i k) := by
  unfold settleSlot
  try dsimp only
  repeat' first
    | with_reducible assumption | with_reducible exact Kept.refl _ _ | with_reducible apply setSliceVer_kept
    | with_reducible apply Kept.ite | split

theorem flipSlice_kept {z0 : Origin} {step : Nat} {s : State} {i : Nat} (h0 : Kept z0 s) :
    Kept z0 (flipSlice step s i) := by
  unfold flipSlice
  try dsimp only
  repeat' first
    | with_reducible assumption | with_reducible exact Kept.refl _ _ | with_reducible apply settleSlot_kept
    | with_reducible apply setClosed_kept | with_reducible apply setSliceVer_kept
    | with_reducible apply setSliceState_kept | with_reducible apply Kept.ite | split

theorem dropShadow_kept {z0 : Origin} {step : Nat} {s : State} {i : Nat} (h0 : Kept z0 s) :
    Kept z0 (dropShadow step s i) := by
  unfold dropShadow
  try dsimp only
  repeat' first
    | with_reducible assumption | with_reducible exact Kept.refl _ _ | with_reducible apply setClosed_kept
    | with_reducible apply setSliceVer_kept | with_reducible apply setSliceState_kept | with_reducible apply Kept.ite
    | split

theorem flipAll_kept {z0 : Origin} {s : State} {step : Nat} (h0 : Kept z0 s) :
    Kept z0 (flipAll s step) := by
  unfold flipAll
  try dsimp only
  repeat' first
    | with_reducible assumption | with_reducible exact Kept.refl _ _ | with_reducible apply flipSlice_kept
    | (with_reducible apply Kept.foldl; intro _ _ _; try dsimp only)
    | (with_reducible apply Kept.foldl1; intro _ _ _; try dsimp only) | split

theorem dropShadows_kept {z0 : Origin} {s : State} {step : Nat} (h0 : Kept z0 s) :
    Kept z0 (dropShadows s step) := by
  unfold dropShadows
  try dsimp only
  repeat' first
    | with_reducible assumption | with_reducible exact Kept.refl _ _ | with_reducible apply dropShadow_kept
    | (with_reducible apply Kept.foldl; intro _ _ _; try dsimp only)
    | (with_reducible apply Kept.foldl1; intro _ _ _; try dsimp only) | split

theorem epochOpen_kept {z0 : Origin} {s : State} {ring : Nat} (h0 : Kept z0 s) :
    Kept z0 (epochOpen s ring) := by
  unfold epochOpen
  try dsimp only
  repeat' first
    | with_reducible assumption | with_reducible exact Kept.refl _ _ | with_reducible apply setSlicePin_kept
    | (with_reducible apply Kept.foldl; intro _ _ _; try dsimp only)
    | (with_reducible apply Kept.foldl1; intro _ _ _; try dsimp only) | split
    | (fail_if_no_progress with_reducible refine Kept.lit ?_)

theorem epochClose_kept {z0 : Origin} {s : State} {ring : Nat} (h0 : Kept z0 s) :
    Kept z0 (epochClose s ring) := by
  unfold epochClose
  try dsimp only
  repeat' first
    | with_reducible assumption | with_reducible exact Kept.refl _ _ | with_reducible apply Kept.ite | split
    | (fail_if_no_progress with_reducible refine Kept.lit ?_)

theorem epochsRelease_kept {z0 : Origin} {s : State} (h0 : Kept z0 s) :
    Kept z0 (epochsRelease s) := by
  unfold epochsRelease
  try dsimp only
  repeat' first
    | with_reducible assumption | with_reducible exact Kept.refl _ _ | with_reducible apply settleSlot_kept
    | with_reducible apply setSlicePin_kept | (with_reducible apply Kept.foldl; intro _ _ _; try dsimp only)
    | (with_reducible apply Kept.foldl1; intro _ _ _; try dsimp only) | split
    | (fail_if_no_progress with_reducible refine Kept.lit ?_)

theorem txnDrop_kept {z0 : Origin} {s : State} {num : Nat} (h0 : Kept z0 s) :
    Kept z0 (txnDrop s num) := by
  unfold txnDrop
  try dsimp only
  repeat' first
    | with_reducible assumption | with_reducible exact Kept.refl _ _ | split
    | (fail_if_no_progress with_reducible refine Kept.lit ?_)

theorem txnApply_kept {z0 : Origin} {s : State} {num : Nat} (h0 : Kept z0 s) :
    KeptOpt z0 (txnApply s num) := by
  unfold txnApply
  try dsimp only
  repeat' first
    | with_reducible assumption | with_reducible exact Kept.refl _ _ | with_reducible apply txnDrop_kept
    | with_reducible apply testGrains_kept | with_reducible apply dirSwap_kept | with_reducible apply Kept.ite
    | (with_reducible apply Kept.foldl; intro _ _ _; try dsimp only)
    | (with_reducible apply Kept.foldl1; intro _ _ _; try dsimp only) | with_reducible exact KeptOpt.none _
    | with_reducible apply KeptOpt.some | (with_reducible apply KeptOpt.map; intro _; try dsimp only) | split
    | (fail_if_no_progress with_reducible refine Kept.lit ?_)

theorem retryWrite_kept {z0 : Origin} {s : State} {w : HeldWrite} (h0 : Kept z0 s) :
    Kept z0 (retryWrite s w) := by
  unfold retryWrite
  try dsimp only
  repeat' first
    | with_reducible assumption | with_reducible exact Kept.refl _ _ | with_reducible apply testGrains_kept
    | with_reducible apply plainConflicts_kept | with_reducible apply plainPart_kept | with_reducible apply Kept.ite
    | split

theorem releaseHeld_kept {z0 : Origin} {s : State} (h0 : Kept z0 s) :
    Kept z0 (releaseHeld s) := by
  unfold releaseHeld
  try dsimp only
  repeat' first
    | with_reducible assumption | with_reducible exact Kept.refl _ _ | with_reducible apply retryWrite_kept
    | (with_reducible apply Kept.foldl; intro _ _ _; try dsimp only)
    | (with_reducible apply Kept.foldl1; intro _ _ _; try dsimp only) | split
    | (fail_if_no_progress with_reducible refine Kept.lit ?_)

theorem copyGranule_kept {z0 : Origin} {s : State} {lost : Bool} (h0 : Kept z0 s) :
    Kept z0 (copyGranule s lost) := by
  unfold copyGranule
  try dsimp only
  repeat' first
    | with_reducible assumption | with_reducible exact Kept.refl _ _ | with_reducible apply releaseHeld_kept
    | with_reducible apply applyBytes_kept | with_reducible apply Kept.ite
    | (with_reducible apply Kept.foldl; intro _ _ _; try dsimp only)
    | (with_reducible apply Kept.foldl1; intro _ _ _; try dsimp only) | split
    | (fail_if_no_progress with_reducible refine Kept.lit ?_)

theorem acceptTxnBegin_kept {z0 : Origin} {s : State} {o : Op} {b : TxnBeginBody} (h0 : Kept z0 s) :
    Kept z0 (acceptTxnBegin s o b) := by
  unfold acceptTxnBegin
  try dsimp only
  repeat' first
    | with_reducible assumption | with_reducible exact Kept.refl _ _ | with_reducible apply Kept.ite | split
    | (fail_if_no_progress with_reducible refine Kept.lit ?_)

theorem acceptTxnClose_kept {z0 : Origin} {s : State} {o : Op} (h0 : Kept z0 s) :
    Kept z0 (acceptTxnClose s o) := by
  unfold acceptTxnClose
  try dsimp only
  repeat' first
    | with_reducible assumption | with_reducible exact Kept.refl _ _ | with_reducible apply txnUpdate_kept | split
    | (fail_if_no_progress with_reducible refine Kept.lit ?_)

theorem noteCause_kept {z0 : Origin} {s : State} {id : Nat} {cause : Option Status} (h0 : Kept z0 s) :
    Kept z0 (noteCause s id cause) := by
  unfold noteCause
  try dsimp only
  repeat' first
    | with_reducible assumption | with_reducible exact Kept.refl _ _ | with_reducible apply opUpdate_kept | split
    | (fail_if_no_progress with_reducible refine Kept.lit ?_)

theorem runTxnCommit_kept {z0 : Origin} {s : State} {o : Op} (h0 : Kept z0 s) :
    Kept z0 (runTxnCommit s o) := by
  unfold runTxnCommit
  try dsimp only
  repeat' first
    | with_reducible assumption | with_reducible exact Kept.refl _ _ | with_reducible apply noteCause_kept
    | with_reducible apply txnApply_kept | with_reducible apply txnDrop_kept | with_reducible apply opDone_kept
    | (refine KeptOpt.of ?_ (by with_reducible assumption)) | with_reducible apply Kept.ite | split

theorem runTxnAbort_kept {z0 : Origin} {s : State} {o : Op} (h0 : Kept z0 s) :
    Kept z0 (runTxnAbort s o) := by
  unfold runTxnAbort
  try dsimp only
  repeat' first
    | with_reducible assumption | with_reducible exact Kept.refl _ _ | with_reducible apply noteCause_kept
    | with_reducible apply txnDrop_kept | with_reducible apply opDone_kept | with_reducible apply abortTxn_kept | split

theorem haltJob_kept {z0 : Origin} {s : State} (h0 : Kept z0 s) :
    Kept z0 (haltJob s) := by
  unfold haltJob
  try dsimp only
  repeat' first
    | with_reducible assumption | with_reducible exact Kept.refl _ _ | with_reducible apply Kept.ite | split
    | (fail_if_no_progress with_reducible refine Kept.lit ?_)

/-! ### Reduce -/

theorem finalJoin_kept {z0 : Origin} {s : State} {o : Op} {b : ReduceGradBody} (h0 : Kept z0 s) :
    Kept z0 (finalJoin s o b) := by
  unfold finalJoin
  try dsimp only
  repeat' first
    | with_reducible assumption | with_reducible exact Kept.refl _ _ | with_reducible apply groupOpenHere_kept
    | with_reducible apply groupUpdate_kept | with_reducible apply Kept.ite | split
    | (fail_if_no_progress with_reducible refine Kept.lit ?_)

theorem acceptReduce_kept {z0 : Origin} {s : State} {o : Op} {b : ReduceGradBody} (h0 : Kept z0 s) :
    Kept z0 (acceptReduce s o b) := by
  unfold acceptReduce
  try dsimp only
  repeat' first
    | with_reducible assumption | with_reducible exact Kept.refl _ _ | with_reducible apply finalJoin_kept
    | with_reducible apply opUpdate_kept | with_reducible apply Kept.ite | split
    | (fail_if_no_progress with_reducible refine Kept.lit ?_)

theorem reduceSteps_kept {r : Origin} {b : ReduceGradBody} : ∀ {f : Nat} {s : State} {o : Op} {n : Nat}, Kept r s →
    Kept r (reduceSteps b f s o n)
  | 0, _, _, _, h => h
  | f + 1, s, o, n, h => by
    unfold reduceSteps
    dsimp only
    split
    · exact h
    · split
      · exact opNeed_kept h
      · split
        · exact h
        · exact opDone_kept h
        · rename_i heq
          exact reduceSteps_kept (opUpdate_kept ((contribute_kept h).of heq))

theorem runReduce_kept {z0 : Origin} {s : State} {o : Op} {b : ReduceGradBody} (h0 : Kept z0 s) :
    Kept z0 (runReduce s o b) := by
  unfold runReduce
  try dsimp only
  repeat' first
    | with_reducible assumption | with_reducible exact Kept.refl _ _ | with_reducible apply reduceSteps_kept
    | with_reducible apply finalJoin_kept | with_reducible apply finalGo_kept | with_reducible apply opDone_kept
    | with_reducible apply opUpdate_kept | with_reducible apply Kept.ite | (with_reducible intro _; try dsimp only)
    | split | (fail_if_no_progress with_reducible refine Kept.lit ?_)

theorem sendSlice_kept {z0 : Origin} {s : State} {id chip i step : Nat} {bs : List Byte} (h0 : Kept z0 s) :
    Kept z0 (sendSlice s id chip i step bs) := by
  unfold sendSlice
  try dsimp only
  repeat' first
    | with_reducible assumption | with_reducible exact Kept.refl _ _ | with_reducible apply sendAwaited_kept
    | (with_reducible apply Kept.foldl; intro _ _ _; try dsimp only)
    | (with_reducible apply Kept.foldl1; intro _ _ _; try dsimp only) | split

theorem payShadow_kept {z0 : Origin} {s : State} {id i step n : Nat} (h0 : Kept z0 s) :
    Kept z0 (payShadow s id i step n) := by
  unfold payShadow
  try dsimp only
  repeat' first
    | with_reducible assumption | with_reducible exact Kept.refl _ _ | with_reducible apply touchRange_kept
    | with_reducible apply askTokens_kept | with_reducible apply Kept.ite | (with_reducible intro _; try dsimp only)
    | split | (fail_if_no_progress dsimp only [id])

theorem publishSteps_kept {r : Origin} {b : PublishBody} {num : Nat} {chips : List Nat} : ∀ {f : Nat} {s : State} {i n : Nat}, Kept r s →
    Kept r (publishSteps b num chips f s i n).1
  | 0, _, _, _, h => h
  | f + 1, s, i, n, h => by
    unfold publishSteps
    split
    · exact h
    · split
      · exact h
      · split
        · exact unroutable_kept h
        · dsimp only
          split
          · exact payShadow_kept h
          · exact publishSteps_kept (Kept.foldl (fun _ _ hs => sendSlice_kept hs) (payShadow_kept h))

theorem runPublish_kept {z0 : Origin} {s : State} {o : Op} {b : PublishBody} (h0 : Kept z0 s) :
    Kept z0 (runPublish s o b) := by
  unfold runPublish
  try dsimp only
  repeat' first
    | with_reducible assumption | with_reducible exact Kept.refl _ _ | with_reducible apply publishSteps_kept
    | with_reducible apply opDone_kept | with_reducible apply opUpdate_kept | with_reducible apply Kept.ite
    | (with_reducible intro _; try dsimp only) | split | (fail_if_no_progress with_reducible refine Kept.lit ?_)

/-! ### Vane -/

theorem acceptUpdate_kept {z0 : Origin} {s : State} {o : Op} {b : UpdateBody} (h0 : Kept z0 s) :
    Kept z0 (acceptUpdate s o b) := by
  unfold acceptUpdate
  try dsimp only
  repeat' first
    | with_reducible assumption | with_reducible exact Kept.refl _ _ | with_reducible apply opDone_kept
    | with_reducible apply Kept.ite | split

theorem addField_kept {z0 : Origin} {s : State} {a : Nat} {v : Val} (h0 : Kept z0 s) :
    Kept z0 (addField s a v) := by
  unfold addField
  try dsimp only
  repeat' first
    | with_reducible assumption | with_reducible exact Kept.refl _ _ | with_reducible apply devWrite_kept | split

theorem addNorms_kept {z0 : Origin} {s : State} {step layer : Nat} {es : List VaneElem} (h0 : Kept z0 s) :
    Kept z0 (addNorms s step layer es) := by
  unfold addNorms
  try dsimp only
  repeat' first
    | with_reducible assumption | with_reducible exact Kept.refl _ _ | with_reducible apply addField_kept
    | with_reducible apply layerDo_kept | with_reducible apply bumpField_kept | with_reducible apply devWrite_kept
    | (with_reducible intro _; try dsimp only) | split

theorem claimAll_kept {z0 : Origin} {s : State} {b : UpdateBody} {step : Nat} (h0 : Kept z0 s) :
    Kept z0 (claimAll s b step) := by
  unfold claimAll
  try dsimp only
  repeat' first
    | with_reducible assumption | with_reducible exact Kept.refl _ _ | with_reducible apply claimSlot_kept
    | (refine KeptOpt.of ?_ (by with_reducible assumption))
    | (with_reducible apply Kept.foldl; intro _ _ _; try dsimp only)
    | (with_reducible apply Kept.foldl1; intro _ _ _; try dsimp only) | with_reducible apply KeptOpt.getD | split

theorem vaneRun_kept {z0 : Origin} {s : State} {o : Op} {b : UpdateBody} {step : Nat} (h0 : Kept z0 s) :
    Kept z0 (vaneRun s o b step) := by
  unfold vaneRun
  try dsimp only
  repeat' first
    | with_reducible assumption | with_reducible exact Kept.refl _ _ | with_reducible apply addNorms_kept
    | with_reducible apply applyWrites_kept | with_reducible apply opNeed_kept | with_reducible apply opTally_kept
    | with_reducible apply opDone_kept | with_reducible apply opUpdate_kept | with_reducible apply deviceEvent_kept
    | with_reducible apply Kept.ite | (with_reducible intro _; try dsimp only) | split
    | (fail_if_no_progress with_reducible refine Kept.lit ?_)

theorem updateRun_kept {z0 : Origin} {s : State} {o : Op} {b : UpdateBody} (h0 : Kept z0 s) :
    Kept z0 (updateRun s o b) := by
  unfold updateRun
  try dsimp only
  repeat' first
    | with_reducible assumption | with_reducible exact Kept.refl _ _ | with_reducible apply vaneRun_kept
    | with_reducible apply claimAll_kept | with_reducible apply opDone_kept | with_reducible apply Kept.ite | split

/-! ### StepCommit -/

theorem acceptStep_kept {z0 : Origin} {s : State} {o : Op} {b : StepCommitBody} (h0 : Kept z0 s) :
    Kept z0 (acceptStep s o b) := by
  unfold acceptStep
  try dsimp only
  repeat' first
    | with_reducible assumption | with_reducible exact Kept.refl _ _ | with_reducible apply setHealth_kept
    | with_reducible apply txnUpdate_kept | with_reducible apply opUpdate_kept | with_reducible apply Kept.ite | split
    | (fail_if_no_progress with_reducible refine Kept.lit ?_)

theorem awaitVote_kept {z0 : Origin} {s : State} {id : Nat} (h0 : Kept z0 s) :
    Kept z0 (awaitVote s id) := by
  unfold awaitVote
  try dsimp only
  repeat' first
    | with_reducible assumption | with_reducible exact Kept.refl _ _ | with_reducible apply opUpdate_kept | split
    | (fail_if_no_progress with_reducible refine Kept.lit ?_)

theorem stepOutcome_kept {z0 : Origin} {s : State} {step : Nat} {st : Status} (h0 : Kept z0 s) :
    Kept z0 (stepOutcome s step st) := by
  unfold stepOutcome
  try dsimp only
  repeat' first
    | with_reducible assumption | with_reducible exact Kept.refl _ _ | with_reducible apply telUpdate_kept | split
    | (fail_if_no_progress with_reducible refine Kept.lit ?_)

theorem abortWork_kept {z0 : Origin} {s : State} {step : Nat} (h0 : Kept z0 s) :
    Kept z0 (abortWork s step) := by
  unfold abortWork
  try dsimp only
  repeat' first
    | with_reducible assumption | with_reducible exact Kept.refl _ _ | with_reducible apply Kept.ite | split
    | (fail_if_no_progress with_reducible refine Kept.lit ?_)

theorem stepFail_kept {z0 : Origin} {s : State} {o : Op} {step : Nat} {st : Status} {afterGate : Bool} (h0 : Kept z0 s) :
    Kept z0 (stepFail s o step st afterGate) := by
  unfold stepFail
  try dsimp only
  repeat' first
    | with_reducible assumption | with_reducible exact Kept.refl _ _ | with_reducible apply abortWork_kept
    | with_reducible apply stepOutcome_kept | with_reducible apply txnDrop_kept | with_reducible apply dropShadows_kept
    | with_reducible apply settleReplicas_kept | with_reducible apply groupsFail_kept | with_reducible apply opDone_kept
    | with_reducible apply abortTxn_kept | with_reducible apply raiseFault_kept | with_reducible apply Kept.ite | split
    | (fail_if_no_progress with_reducible refine Kept.lit ?_)

theorem stepFlipped_kept {z0 : Origin} {t : State} {o : Op} {step : Nat} {late : Bool} (h0 : Kept z0 t) :
    Kept z0 (stepFlipped t o step late) := by
  unfold stepFlipped
  try dsimp only
  repeat' first
    | with_reducible assumption | with_reducible exact Kept.refl _ _ | with_reducible apply stepOutcome_kept
    | with_reducible apply releaseHeld_kept | with_reducible apply settleReplicas_kept
    | with_reducible apply opDone_kept | with_reducible apply opUpdate_kept | split
    | (fail_if_no_progress with_reducible refine Kept.lit ?_)

theorem stepFlip_kept {z0 : Origin} {s : State} {o : Op} {step : Nat} {late : Bool} (h0 : Kept z0 s) :
    Kept z0 (stepFlip s o step late) := by
  have hk : KeptOpt z0 (txnApply (retireTables (windowClose (flipAll s step) step)) o.hdr.txn) :=
    txnApply_kept (retireTables_kept (windowClose_kept (flipAll_kept h0)))
  unfold stepFlip
  refine KeptOpt.getD (fun u e => ?_) h0
  obtain ⟨t, ht, rfl⟩ := Option.map_eq_some_iff.mp e
  exact stepFlipped_kept (hk t ht)

theorem voteNear_kept {z0 : Origin} {s : State} {o : Op} {limit : Nat} (h0 : Kept z0 s) :
    Kept z0 (voteNear s o limit) := by
  unfold voteNear
  try dsimp only
  repeat' first
    | with_reducible assumption | with_reducible exact Kept.refl _ _ | with_reducible apply regCount_kept
    | with_reducible apply Kept.ite | split

theorem voteResult_kept {z0 : Origin} {s : State} {v : VoteMsg} (h0 : Kept z0 s) :
    Kept z0 (voteResult s v) := by
  unfold voteResult
  try dsimp only
  repeat' first
    | with_reducible assumption | with_reducible exact Kept.refl _ _ | with_reducible apply voteNear_kept
    | with_reducible apply stepFlip_kept | with_reducible apply stepFail_kept | with_reducible apply awaitVote_kept
    | with_reducible apply haltJob_kept | with_reducible apply opUpdate_kept | with_reducible apply Kept.ite
    | (with_reducible intro _; try dsimp only) | split | (fail_if_no_progress with_reducible refine Kept.lit ?_)

theorem voteTry_kept {z0 : Origin} {s : State} {step : Nat} {commit : Bool} (h0 : Kept z0 s) :
    Kept z0 (voteTry s step commit) := by
  unfold voteTry
  try dsimp only
  repeat' first
    | with_reducible assumption | with_reducible exact Kept.refl _ _ | with_reducible apply voteResult_kept
    | with_reducible apply sendPkt_kept | with_reducible apply Kept.ite
    | (with_reducible apply Kept.foldl; intro _ _ _; try dsimp only)
    | (with_reducible apply Kept.foldl1; intro _ _ _; try dsimp only) | split
    | (fail_if_no_progress with_reducible refine Kept.lit ?_)

theorem voteArrive_kept {z0 : Origin} {s : State} {src : Nat} {v : VoteMsg} (h0 : Kept z0 s) :
    Kept z0 (voteArrive s src v) := by
  unfold voteArrive
  try dsimp only
  repeat' first
    | with_reducible assumption | with_reducible exact Kept.refl _ _ | with_reducible apply voteTry_kept
    | with_reducible apply voteResult_kept | with_reducible apply Kept.ite | split
    | (fail_if_no_progress with_reducible refine Kept.lit ?_)

theorem voteCast_kept {z0 : Origin} {s : State} {voters : List Nat} {step : Nat} {commit good : Bool} {causes : Nat} (h0 : Kept z0 s) :
    Kept z0 (voteCast s voters step commit good causes) := by
  unfold voteCast
  try dsimp only
  repeat' first
    | with_reducible assumption | with_reducible exact Kept.refl _ _ | with_reducible apply voteArrive_kept
    | with_reducible apply sendPkt_kept | with_reducible apply Kept.ite | split

theorem gateCast_kept {z0 : Origin} {s : State} {stream : Nat} (h0 : Kept z0 s) :
    Kept z0 (gateCast s stream) := by
  unfold gateCast
  try dsimp only
  repeat' first
    | with_reducible assumption | with_reducible exact Kept.refl _ _ | with_reducible apply voteCast_kept
    | with_reducible apply awaitVote_kept | with_reducible apply telUpdate_kept | with_reducible apply setHealth_kept
    | with_reducible apply opUpdate_kept | with_reducible apply Kept.ite | split
    | (fail_if_no_progress with_reducible refine Kept.lit ?_)

theorem runStep_kept {z0 : Origin} {s : State} {o : Op} {b : StepCommitBody} (h0 : Kept z0 s) :
    Kept z0 (runStep s o b) := by
  unfold runStep
  try dsimp only
  repeat' first
    | with_reducible assumption | with_reducible exact Kept.refl _ _ | with_reducible apply sendReplicas_kept
    | with_reducible apply opUpdate_kept | with_reducible apply Kept.ite | split
    | (fail_if_no_progress with_reducible refine Kept.lit ?_)

theorem commitCast_kept {z0 : Origin} {s : State} {stream : Nat} (h0 : Kept z0 s) :
    Kept z0 (commitCast s stream) := by
  unfold commitCast
  try dsimp only
  repeat' first
    | with_reducible assumption | with_reducible exact Kept.refl _ _ | with_reducible apply voteCast_kept
    | with_reducible apply awaitVote_kept | with_reducible apply opUpdate_kept | with_reducible apply Kept.ite | split
    | (fail_if_no_progress with_reducible refine Kept.lit ?_)

theorem gateExpire_kept {z0 : Origin} {s : State} {stream : Nat} (h0 : Kept z0 s) :
    Kept z0 (gateExpire s stream) := by
  unfold gateExpire
  try dsimp only
  repeat' first
    | with_reducible assumption | with_reducible exact Kept.refl _ _ | with_reducible apply stepFail_kept
    | with_reducible apply Kept.ite | split

theorem commitExpire_kept {z0 : Origin} {s : State} {stream : Nat} (h0 : Kept z0 s) :
    Kept z0 (commitExpire s stream) := by
  unfold commitExpire
  try dsimp only
  repeat' first
    | with_reducible assumption | with_reducible exact Kept.refl _ _ | with_reducible apply stepFail_kept
    | with_reducible apply Kept.ite | split

theorem flipAt_kept {z0 : Origin} {s : State} {stream : Nat} (h0 : Kept z0 s) :
    Kept z0 (flipAt s stream) := by
  unfold flipAt
  try dsimp only
  repeat' first
    | with_reducible assumption | with_reducible exact Kept.refl _ _ | with_reducible apply stepFlip_kept
    | with_reducible apply Kept.ite | (with_reducible intro _; try dsimp only) | split

end Sys2Proof.Machine
end

