-- ==== Sys2Proof/Laws/KeptHost.lean ====
section
/-! SUPPORT. What every operation keeps (Laws/Kept): links, checkpoints, the life of an op and the host interface. -/

set_option Elab.async false
set_option linter.unusedTactic false
set_option linter.unreachableTactic false

namespace Sys2Proof.Machine

/-! ### Links -/

theorem linkTo_kept {z0 : Origin} {s : State} {l : Nat} {new : LinkState} {st : Status} (h0 : Kept z0 s) :
    Kept z0 (linkTo s l new st) := by
  unfold linkTo
  try dsimp only
  repeat' first
    | with_reducible assumption | with_reducible exact Kept.refl _ _ | with_reducible apply linkLeave_kept
    | with_reducible apply linkEvent_kept | with_reducible apply Kept.ite | split

theorem linkUp_kept {z0 : Origin} {s : State} {l : Nat} (h0 : Kept z0 s) :
    Kept z0 (linkUp s l) := by
  unfold linkUp
  try dsimp only
  repeat' first
    | with_reducible assumption | with_reducible exact Kept.refl _ _ | with_reducible apply linkEvent_kept
    | with_reducible apply retryHeld_kept | with_reducible apply linkUpdate_kept | split
    | (fail_if_no_progress with_reducible refine Kept.lit ?_)

theorem linkQuarantine_kept {z0 : Origin} {s : State} {l : Nat} (h0 : Kept z0 s) :
    Kept z0 (linkQuarantine s l) := by
  unfold linkQuarantine
  try dsimp only
  repeat' first
    | with_reducible assumption | with_reducible exact Kept.refl _ _ | with_reducible apply linkTo_kept
    | with_reducible apply linkUpdate_kept | with_reducible apply raiseFault_kept | split
    | (fail_if_no_progress with_reducible refine Kept.lit ?_)

theorem linkFail_kept {z0 : Origin} {s : State} {l : Nat} (h0 : Kept z0 s) :
    Kept z0 (linkFail s l) := by
  unfold linkFail
  try dsimp only
  repeat' first
    | with_reducible assumption | with_reducible exact Kept.refl _ _ | with_reducible apply linkTo_kept
    | with_reducible apply linkUpdate_kept | with_reducible apply raiseFault_kept | split
    | (fail_if_no_progress with_reducible refine Kept.lit ?_)

theorem linkTrain_kept {z0 : Origin} {s : State} {l : Nat} (h0 : Kept z0 s) :
    Kept z0 (linkTrain s l) := by
  unfold linkTrain
  try dsimp only
  repeat' first
    | with_reducible assumption | with_reducible exact Kept.refl _ _ | with_reducible apply linkTo_kept
    | with_reducible apply linkUpdate_kept | split | (fail_if_no_progress with_reducible refine Kept.lit ?_)

theorem linkStuck_kept {z0 : Origin} {s : State} {l : Nat} (h0 : Kept z0 s) :
    Kept z0 (linkStuck s l) := by
  unfold linkStuck
  try dsimp only
  repeat' first
    | with_reducible assumption | with_reducible exact Kept.refl _ _ | with_reducible apply linkTrain_kept
    | with_reducible apply linkFail_kept | with_reducible apply linkUpdate_kept | with_reducible apply Kept.ite | split
    | (fail_if_no_progress with_reducible refine Kept.lit ?_)

theorem sendHello_kept {z0 : Origin} {s : State} {l : Nat} {m : HelloMsg} (h0 : Kept z0 s) :
    Kept z0 (sendHello s l m) := by
  unfold sendHello
  try dsimp only
  repeat' first
    | with_reducible assumption | with_reducible exact Kept.refl _ _ | with_reducible apply txPacket_kept | split

theorem helloStart_kept {z0 : Origin} {s : State} {l : Nat} (h0 : Kept z0 s) :
    Kept z0 (helloStart s l) := by
  unfold helloStart
  try dsimp only
  repeat' first
    | with_reducible assumption | with_reducible exact Kept.refl _ _ | with_reducible apply sendHello_kept
    | with_reducible apply linkUpdate_kept | with_reducible apply drawBytes_kept | split
    | (fail_if_no_progress with_reducible refine Kept.lit ?_)

theorem signIdentity_kept {z0 : Origin} {s : State} {msg : List Byte} (h0 : Kept z0 s) :
    Kept z0 (signIdentity s msg).2 := by
  unfold signIdentity
  try dsimp only
  repeat' first
    | with_reducible assumption | with_reducible exact Kept.refl _ _ | with_reducible apply drawBytes_kept
    | with_reducible apply Kept.ite | split

theorem helloAnswer_kept {z0 : Origin} {s : State} {l : Nat} {echo : List Byte} (h0 : Kept z0 s) :
    Kept z0 (helloAnswer s l echo) := by
  unfold helloAnswer
  try dsimp only
  repeat' first
    | with_reducible assumption | with_reducible exact Kept.refl _ _ | with_reducible apply signIdentity_kept
    | with_reducible apply sendHello_kept | with_reducible apply linkUpdate_kept | split
    | (fail_if_no_progress with_reducible refine Kept.lit ?_)

theorem helloFail_kept {z0 : Origin} {s : State} {l : Nat} (h0 : Kept z0 s) :
    Kept z0 (helloFail s l) := by
  unfold helloFail
  try dsimp only
  repeat' first
    | with_reducible assumption | with_reducible exact Kept.refl _ _ | with_reducible apply linkQuarantine_kept
    | with_reducible apply linkTo_kept | with_reducible apply linkUpdate_kept | with_reducible apply raiseFault_kept
    | with_reducible apply drawFree_kept | with_reducible apply Kept.ite | split
    | (fail_if_no_progress with_reducible refine Kept.lit ?_)

theorem helloPassed_kept {z0 : Origin} {s : State} {l : Nat} {m : HelloMsg} (h0 : Kept z0 s) :
    Kept z0 (helloPassed s l m) := by
  unfold helloPassed
  try dsimp only
  repeat' first
    | with_reducible assumption | with_reducible exact Kept.refl _ _ | with_reducible apply linkUp_kept
    | with_reducible apply linkUpdate_kept | with_reducible apply Kept.ite | split
    | (fail_if_no_progress with_reducible refine Kept.lit ?_)

theorem helloArrive_kept {z0 : Origin} {s : State} {l : Nat} {m : HelloMsg} (h0 : Kept z0 s) :
    Kept z0 (helloArrive s l m) := by
  unfold helloArrive
  try dsimp only
  repeat' first
    | with_reducible assumption | with_reducible exact Kept.refl _ _ | with_reducible apply helloPassed_kept
    | with_reducible apply helloFail_kept | with_reducible apply helloAnswer_kept | with_reducible apply helloStart_kept
    | with_reducible apply linkUp_kept | with_reducible apply Kept.ite | split

theorem helloExpire_kept {z0 : Origin} {s : State} {l : Nat} (h0 : Kept z0 s) :
    Kept z0 (helloExpire s l) := by
  unfold helloExpire
  try dsimp only
  repeat' first
    | with_reducible assumption | with_reducible exact Kept.refl _ _ | with_reducible apply helloFail_kept
    | with_reducible apply Kept.ite | split

/-! ### Ckpt -/

theorem askFar_kept {z0 : Origin} {s : State} {id : Nat} {g : Got} (h0 : Kept z0 s) :
    Kept z0 (askFar s id g) := by
  unfold askFar
  try dsimp only
  repeat' first
    | with_reducible assumption | with_reducible exact Kept.refl _ _ | with_reducible apply fetchRows_kept
    | with_reducible apply unroutable_kept | with_reducible apply opNeed_kept
    | (refine FetchKept.of ?_ (by with_reducible assumption)) | split

theorem acceptPush_kept {z0 : Origin} {s : State} {o : Op} {_b : CkptPushBody} (h0 : Kept z0 s) :
    Kept z0 (acceptPush s o _b) := by
  unfold acceptPush
  try dsimp only
  repeat' first
    | with_reducible assumption | with_reducible exact Kept.refl _ _ | with_reducible apply epochOpen_kept
    | with_reducible apply opUpdate_kept | with_reducible apply Kept.ite | split
    | (fail_if_no_progress with_reducible refine Kept.lit ?_)

theorem pushRead_kept {z0 : Origin} {s : State} {o : Op} {b : CkptPushBody} (h0 : Kept z0 s) :
    Kept z0 (pushRead s o b) := by
  unfold pushRead
  try dsimp only
  repeat' first
    | with_reducible assumption | with_reducible exact Kept.refl _ _ | with_reducible apply applyWrites_kept
    | with_reducible apply opNeed_kept | with_reducible apply opUpdate_kept | with_reducible apply Kept.ite
    | (with_reducible intro _; try dsimp only) | split | (fail_if_no_progress with_reducible refine Kept.lit ?_)

theorem pushSend_kept {z0 : Origin} {s : State} {id at_ : Nat} {bs : List Byte} (h0 : Kept z0 s) :
    Kept z0 (pushSend s id at_ bs) := by
  unfold pushSend
  try dsimp only
  repeat' first
    | with_reducible assumption | with_reducible exact Kept.refl _ _ | with_reducible apply sendAwaited_kept
    | (with_reducible apply Kept.foldl; intro _ _ _; try dsimp only)
    | (with_reducible apply Kept.foldl1; intro _ _ _; try dsimp only) | split

theorem pushWrite_kept {z0 : Origin} {s : State} {o : Op} {b : CkptPushBody} {stage slot step : Nat} {body : List Byte} (h0 : Kept z0 s) :
    Kept z0 (pushWrite s o b stage slot step body) := by
  unfold pushWrite
  try dsimp only
  repeat' first
    | with_reducible assumption | with_reducible exact Kept.refl _ _ | with_reducible apply pushSend_kept
    | with_reducible apply askFar_kept | with_reducible apply applyWrites_kept | with_reducible apply opNeed_kept
    | with_reducible apply opDone_kept | with_reducible apply opUpdate_kept | with_reducible apply Kept.ite
    | (with_reducible intro _; try dsimp only) | split | (fail_if_no_progress with_reducible refine Kept.lit ?_)

theorem runPush_kept {z0 : Origin} {s : State} {o : Op} {b : CkptPushBody} (h0 : Kept z0 s) :
    Kept z0 (runPush s o b) := by
  unfold runPush
  try dsimp only
  repeat' first
    | with_reducible assumption | with_reducible exact Kept.refl _ _ | with_reducible apply pushWrite_kept
    | with_reducible apply pushRead_kept | with_reducible apply Kept.ite | split

theorem pullSettle_kept {z0 : Origin} {s : State} {i : Nat} (h0 : Kept z0 s) :
    Kept z0 (pullSettle s i) := by
  unfold pullSettle
  try dsimp only
  repeat' first
    | with_reducible assumption | with_reducible exact Kept.refl _ _ | with_reducible apply setSliceVer_kept
    | with_reducible apply setSliceState_kept | with_reducible apply Kept.ite
    | (with_reducible apply Kept.foldl; intro _ _ _; try dsimp only)
    | (with_reducible apply Kept.foldl1; intro _ _ _; try dsimp only) | split

theorem pullApply_kept {z0 : Origin} {s : State} {o : Op} {ws : List (Nat × List Byte)} {image : Option (Nat × Bool)} (h0 : Kept z0 s) :
    Kept z0 (pullApply s o ws image) := by
  unfold pullApply
  try dsimp only
  repeat' first
    | with_reducible assumption | with_reducible exact Kept.refl _ _ | with_reducible apply pullSettle_kept
    | with_reducible apply applyWrites_kept | with_reducible apply opDone_kept | with_reducible apply Kept.ite
    | (with_reducible apply Kept.foldl; intro _ _ _; try dsimp only)
    | (with_reducible apply Kept.foldl1; intro _ _ _; try dsimp only) | (with_reducible intro _; try dsimp only) | split
    | (fail_if_no_progress with_reducible refine Kept.lit ?_)

theorem runPull_kept {z0 : Origin} {s : State} {o : Op} {b : CkptPullBody} (h0 : Kept z0 s) :
    Kept z0 (runPull s o b) := by
  unfold runPull
  try dsimp only
  repeat' first
    | with_reducible assumption | with_reducible exact Kept.refl _ _ | with_reducible apply pullApply_kept
    | with_reducible apply askFar_kept | with_reducible apply requestRanges_kept | with_reducible apply askTokens_kept
    | with_reducible apply opDone_kept | with_reducible apply Kept.ite | (with_reducible intro _; try dsimp only)
    | split

theorem selfWrite_kept {z0 : Origin} {s : State} {v : Word} (h0 : Kept z0 s) :
    Kept z0 (selfWrite s v) := by
  unfold selfWrite
  try dsimp only
  repeat' first
    | with_reducible assumption | with_reducible exact Kept.refl _ _ | with_reducible apply regPut_kept
    | with_reducible apply Kept.ite | split | (fail_if_no_progress with_reducible refine Kept.lit ?_)

theorem runAssume_kept {z0 : Origin} {s : State} {o : Op} {b : AssumeIdBody} (h0 : Kept z0 s) :
    Kept z0 (runAssume s o b) := by
  unfold runAssume
  try dsimp only
  repeat' first
    | with_reducible assumption | with_reducible exact Kept.refl _ _ | with_reducible apply selfWrite_kept
    | with_reducible apply helloStart_kept | with_reducible apply opDone_kept | with_reducible apply opUpdate_kept
    | with_reducible apply Kept.ite | (with_reducible apply Kept.foldl; intro _ _ _; try dsimp only)
    | (with_reducible apply Kept.foldl1; intro _ _ _; try dsimp only) | split
    | (fail_if_no_progress with_reducible refine Kept.lit ?_)

/-! ### HostOps -/

theorem runWait_kept {z0 : Origin} {s : State} {o : Op} {b : WaitBody} (h0 : Kept z0 s) :
    Kept z0 (runWait s o b) := by
  unfold runWait
  try dsimp only
  repeat' first
    | with_reducible assumption | with_reducible exact Kept.refl _ _ | with_reducible apply waitTest_kept
    | with_reducible apply addReq_kept | with_reducible apply Kept.ite | split

theorem stagedSignal_kept {z0 : Origin} {s : State} {o : Op} {a : Nat} (h0 : Kept z0 s) :
    Kept z0 (stagedSignal s o a) := by
  unfold stagedSignal
  try dsimp only
  repeat' first
    | with_reducible assumption | with_reducible exact Kept.refl _ _ | with_reducible apply txnUpdate_kept
    | with_reducible apply Kept.ite | split | (fail_if_no_progress with_reducible refine Kept.lit ?_)

theorem runSignal_kept {z0 : Origin} {s : State} {o : Op} {b : SignalBody} (h0 : Kept z0 s) :
    Kept z0 (runSignal s o b) := by
  unfold runSignal
  try dsimp only
  repeat' first
    | with_reducible assumption | with_reducible exact Kept.refl _ _ | with_reducible apply stagedSignal_kept
    | with_reducible apply testGrains_kept | with_reducible apply applyWrites_kept | with_reducible apply markSent_kept
    | with_reducible apply sendAwaited_kept | with_reducible apply unroutable_kept | with_reducible apply opNeed_kept
    | with_reducible apply opDone_kept | with_reducible apply Kept.ite | (with_reducible intro _; try dsimp only)
    | split

theorem runTimer_kept {z0 : Origin} {s : State} {o : Op} {b : TimerBody} (h0 : Kept z0 s) :
    Kept z0 (runTimer s o b) := by
  unfold runTimer
  try dsimp only
  repeat' first
    | with_reducible assumption | with_reducible exact Kept.refl _ _ | with_reducible apply opDone_kept
    | with_reducible apply Kept.ite | split

/-! ### Engine -/

theorem opAccept_kept {z0 : Origin} {s : State} {o : Op} (h0 : Kept z0 s) :
    Kept z0 (opAccept s o) := by
  unfold opAccept
  try dsimp only
  repeat' first
    | with_reducible assumption | with_reducible exact Kept.refl _ _ | with_reducible apply acceptPush_kept
    | with_reducible apply acceptStep_kept | with_reducible apply acceptUpdate_kept
    | with_reducible apply acceptReduce_kept | with_reducible apply acceptTxnClose_kept
    | with_reducible apply acceptTxnBegin_kept | with_reducible apply acceptEmbGrad_kept
    | with_reducible apply acceptGemm_kept | split

theorem opWork_kept {z0 : Origin} {s : State} {o : Op} (h0 : Kept z0 s) :
    Kept z0 (opWork s o) := by
  unfold opWork
  try dsimp only
  repeat' first
    | with_reducible assumption | with_reducible exact Kept.refl _ _ | with_reducible apply runSignal_kept
    | with_reducible apply runAssume_kept | with_reducible apply runPull_kept | with_reducible apply runPush_kept
    | with_reducible apply runStep_kept | with_reducible apply runPublish_kept | with_reducible apply runReduce_kept
    | with_reducible apply runTxnAbort_kept | with_reducible apply runTxnCommit_kept
    | with_reducible apply runEmbGrad_kept | with_reducible apply runEmbBag_kept | with_reducible apply runScatter_kept
    | with_reducible apply runGather_kept | with_reducible apply runSample_kept | with_reducible apply runSpsp_kept
    | with_reducible apply runElemOp_kept | with_reducible apply runFill_kept | with_reducible apply runCopy_kept
    | split

theorem gemmBegun_kept {z0 : Origin} {s : State} {o : Op} (h0 : Kept z0 s) :
    Kept z0 (gemmBegun s o) := by
  unfold gemmBegun
  try dsimp only
  repeat' first
    | with_reducible assumption | with_reducible exact Kept.refl _ _ | with_reducible apply opUpdate_kept | split
    | (fail_if_no_progress with_reducible refine Kept.lit ?_)

theorem opBegin_kept {z0 : Origin} {s : State} {o : Op} (h0 : Kept z0 s) :
    Kept z0 (opBegin s o) := by
  unfold opBegin
  try dsimp only
  repeat' first
    | with_reducible assumption | with_reducible exact Kept.refl _ _ | with_reducible apply gemmBegun_kept
    | with_reducible apply opWork_kept | with_reducible apply runTimer_kept | with_reducible apply runWait_kept
    | with_reducible apply runGemm_kept | with_reducible apply opDone_kept | split

theorem rouse_kept {z0 : Origin} {s : State} {o : Op} (h0 : Kept z0 s) :
    Kept z0 (rouse s o) := by
  unfold rouse
  try dsimp only
  repeat' first
    | with_reducible assumption | with_reducible exact Kept.refl _ _ | with_reducible apply belfryWake_kept
    | (with_reducible apply Kept.foldl; intro _ _ _; try dsimp only)
    | (with_reducible apply Kept.foldl1; intro _ _ _; try dsimp only) | split

theorem opGo_kept {z0 : Origin} {s : State} {o : Op} (h0 : Kept z0 s) :
    Kept z0 (opGo s o) := by
  unfold opGo
  try dsimp only
  repeat' first
    | with_reducible assumption | with_reducible exact Kept.refl _ _ | with_reducible apply rouse_kept
    | with_reducible apply opBegin_kept | with_reducible apply opWork_kept | with_reducible apply requestRanges_kept
    | with_reducible apply askTokens_kept | with_reducible apply askHost_kept | with_reducible apply Kept.ite
    | (with_reducible intro _; try dsimp only) | split

theorem opStart_kept {z0 : Origin} {s : State} {o : Op} (h0 : Kept z0 s) :
    Kept z0 (opStart s o) := by
  unfold opStart
  try dsimp only
  repeat' first
    | with_reducible assumption | with_reducible exact Kept.refl _ _ | with_reducible apply opGo_kept
    | with_reducible apply opBegin_kept | with_reducible apply Kept.ite | split

theorem ringPut_kept {z0 : Origin} {s : State} {r : Nat} {x : Ring} (h0 : Kept z0 s) :
    Kept z0 (ringPut s r x) := by
  unfold ringPut
  try dsimp only
  repeat' first
    | with_reducible assumption | with_reducible exact Kept.refl _ _ | split
    | (fail_if_no_progress with_reducible refine Kept.lit ?_)

theorem freeComparators_kept {z0 : Origin} {s : State} (h0 : Kept z0 s) :
    Kept z0 (freeComparators s) := by
  unfold freeComparators
  try dsimp only
  repeat' first
    | with_reducible assumption | with_reducible exact Kept.refl _ _ | with_reducible apply regSet_kept
    | (with_reducible apply Kept.foldl; intro _ _ _; try dsimp only)
    | (with_reducible apply Kept.foldl1; intro _ _ _; try dsimp only) | split
    | (fail_if_no_progress with_reducible refine Kept.lit ?_)

theorem refuseOp_kept {z0 : Origin} {s : State} {o : Op} {st : Status} (h0 : Kept z0 s) :
    Kept z0 (refuseOp s o st) := by
  unfold refuseOp
  try dsimp only
  repeat' first
    | with_reducible assumption | with_reducible exact Kept.refl _ _ | with_reducible apply abortTxn_kept
    | with_reducible apply Kept.ite | split | (fail_if_no_progress with_reducible refine Kept.lit ?_)

theorem opAbandon_kept {z0 : Origin} {s : State} {o : Op} (h0 : Kept z0 s) :
    Kept z0 (opAbandon s o) := by
  unfold opAbandon
  try dsimp only
  repeat' first
    | with_reducible assumption | with_reducible exact Kept.refl _ _ | with_reducible apply stepFail_kept
    | with_reducible apply opDone_kept | with_reducible apply Kept.ite | split

theorem acceptOp_kept {z0 : Origin} {s : State} {o : Op} (h0 : Kept z0 s) :
    Kept z0 (acceptOp s o) := by
  unfold acceptOp
  try dsimp only
  repeat' first
    | with_reducible assumption | with_reducible exact Kept.refl _ _ | with_reducible apply opAbandon_kept
    | with_reducible apply opAccept_kept | with_reducible apply epochsRelease_kept
    | with_reducible apply epochClose_kept | with_reducible apply epochOpen_kept | with_reducible apply telOpen_kept
    | with_reducible apply producerPut_kept | with_reducible apply Kept.ite | with_reducible apply KeptOpt.getD | split
    | (fail_if_no_progress with_reducible refine Kept.lit ?_)

theorem popHeld_kept {z0 : Origin} {s : State} {r n : Nat} (h0 : Kept z0 s) :
    Kept z0 (popHeld s r n) := by
  unfold popHeld
  try dsimp only
  repeat' first
    | with_reducible assumption | with_reducible exact Kept.refl _ _ | with_reducible apply ringPut_kept | split
    | (fail_if_no_progress with_reducible refine Kept.lit ?_)

theorem acceptPair_kept {z0 : Origin} {s : State} {r : Nat} {d e : Desc} (h0 : Kept z0 s) :
    KeptOpt z0 (acceptPair s r d e) := by
  unfold acceptPair
  try dsimp only
  repeat' first
    | with_reducible assumption | with_reducible exact Kept.refl _ _ | with_reducible apply popHeld_kept
    | with_reducible apply acceptOp_kept | with_reducible apply refuseOp_kept | with_reducible apply opUpdate_kept
    | with_reducible apply Kept.ite | with_reducible exact KeptOpt.none _ | with_reducible apply KeptOpt.some
    | with_reducible apply KeptOpt.getD | split | (fail_if_no_progress with_reducible refine Kept.lit ?_)

theorem tryAccept_kept {z0 : Origin} {s : State} {r : Nat} (h0 : Kept z0 s) :
    KeptOpt z0 (tryAccept s r) := by
  unfold tryAccept
  try dsimp only
  repeat' first
    | with_reducible assumption | with_reducible exact Kept.refl _ _ | with_reducible apply acceptPair_kept
    | with_reducible apply popHeld_kept | with_reducible apply acceptOp_kept | with_reducible apply refuseOp_kept
    | (refine KeptOpt.of ?_ (by with_reducible assumption)) | with_reducible apply Kept.ite
    | with_reducible exact KeptOpt.none _ | with_reducible apply KeptOpt.some | split

theorem readRecord_kept {z0 : Origin} {s : State} {r g : Nat} (h0 : Kept z0 s) :
    Kept z0 (readRecord s r g) := by
  unfold readRecord
  try dsimp only
  repeat' first
    | with_reducible assumption | with_reducible exact Kept.refl _ _ | with_reducible apply Kept.ite | split
    | (fail_if_no_progress with_reducible refine Kept.lit ?_)

theorem noteWait_kept {z0 : Origin} {s : State} {r : Nat} (h0 : Kept z0 s) :
    Kept z0 (noteWait s r) := by
  unfold noteWait
  try dsimp only
  repeat' first
    | with_reducible assumption | with_reducible exact Kept.refl _ _ | with_reducible apply readRecord_kept
    | with_reducible apply ringPut_kept | with_reducible apply Kept.ite | split
    | (fail_if_no_progress with_reducible refine Kept.lit ?_)

theorem startOne_kept {z0 : Origin} {s : State} {id : Nat} (h0 : Kept z0 s) :
    Kept z0 (startOne s id) := by
  unfold startOne
  try dsimp only
  repeat' first
    | with_reducible assumption | with_reducible exact Kept.refl _ _ | with_reducible apply opStart_kept
    | with_reducible apply opDone_kept | with_reducible apply opUpdate_kept | with_reducible apply Kept.ite | split
    | (fail_if_no_progress with_reducible refine Kept.lit ?_)

theorem wakeOne_kept {z0 : Origin} {s : State} {id : Nat} (h0 : Kept z0 s) :
    Kept z0 (wakeOne s id) := by
  unfold wakeOne
  try dsimp only
  repeat' first
    | with_reducible assumption | with_reducible exact Kept.refl _ _ | with_reducible apply opGo_kept
    | with_reducible apply Kept.ite | split

theorem pumpRing_kept {r : Origin} : ∀ {n : Nat} {s : State} {x : Nat}, Kept r s → Kept r (pumpRing n s x)
  | 0, _, _, h => h
  | n + 1, s, x, h => by
    have ht : KeptOpt r (tryAccept s x) := tryAccept_kept h
    unfold pumpRing
    split
    · exact noteWait_kept h
    · rename_i heq
      exact pumpRing_kept (Kept.foldl (fun _ _ hs => startOne_kept hs) (ht.of heq))

theorem pump_kept {z0 : Origin} {s : State} (h0 : Kept z0 s) :
    Kept z0 (pump s) := by
  unfold pump
  try dsimp only
  repeat' first
    | with_reducible assumption | with_reducible exact Kept.refl _ _ | with_reducible apply pumpRing_kept
    | with_reducible apply Kept.ite | (with_reducible apply Kept.foldl; intro _ _ _; try dsimp only)
    | (with_reducible apply Kept.foldl1; intro _ _ _; try dsimp only) | (with_reducible intro _; try dsimp only) | split

theorem wake_kept {z0 : Origin} {s : State} (h0 : Kept z0 s) :
    Kept z0 (wake s) := by
  unfold wake
  try dsimp only
  repeat' first
    | with_reducible assumption | with_reducible exact Kept.refl _ _ | with_reducible apply pump_kept
    | with_reducible apply wakeOne_kept | with_reducible apply startOne_kept | with_reducible apply freeComparators_kept
    | with_reducible apply purgeJobs_kept | (with_reducible apply Kept.foldl; intro _ _ _; try dsimp only)
    | (with_reducible apply Kept.foldl1; intro _ _ _; try dsimp only) | split

theorem settle_kept {z0 : Origin} {s : State} (h0 : Kept z0 s) :
    Kept z0 (settle s) := by
  unfold settle
  try dsimp only
  repeat' first
    | with_reducible assumption | with_reducible exact Kept.refl _ _ | with_reducible apply wake_kept | split

theorem submit_kept {z0 : Origin} {s : State} {r : Nat} {d : Desc} (h0 : Kept z0 s) :
    Kept z0 (submit s r d) := by
  unfold submit
  try dsimp only
  repeat' first
    | with_reducible assumption | with_reducible exact Kept.refl _ _ | with_reducible apply wake_kept
    | with_reducible apply ringPut_kept | split | (fail_if_no_progress with_reducible refine Kept.lit ?_)

theorem opGone_kept {z0 : Origin} {s : State} {id : Nat} (h0 : Kept z0 s) :
    Kept z0 (opGone s id) := by
  unfold opGone
  try dsimp only
  repeat' first
    | with_reducible assumption | with_reducible exact Kept.refl _ _ | split
    | (fail_if_no_progress with_reducible refine Kept.lit ?_)

theorem writeRecord_kept {z0 : Origin} {s : State} {o : Op} (h0 : Kept z0 s) :
    KeptOpt z0 (writeRecord s o) := by
  unfold writeRecord
  try dsimp only
  repeat' first
    | with_reducible assumption | with_reducible exact Kept.refl _ _ | with_reducible apply opGone_kept
    | with_reducible apply postRecords_kept | with_reducible apply Kept.ite | with_reducible exact KeptOpt.none _
    | with_reducible apply KeptOpt.some | split

theorem writeHeld_kept {z0 : Origin} {s : State} {q : Nat} (h0 : Kept z0 s) :
    Kept z0 (writeHeld s q) := by
  unfold writeHeld
  try dsimp only
  repeat' first
    | with_reducible assumption | with_reducible exact Kept.refl _ _ | with_reducible apply writeRecord_kept
    | with_reducible apply settle_kept | (refine KeptOpt.of ?_ (by with_reducible assumption)) | split

theorem planEnd_kept {z0 : Origin} {s : State} {o : Op} (h0 : Kept z0 s) :
    Kept z0 (planEnd s o) := by
  unfold planEnd
  try dsimp only
  repeat' first
    | with_reducible assumption | with_reducible exact Kept.refl _ _ | with_reducible apply recordRows_kept
    | with_reducible apply devWrite_kept | with_reducible apply deviceEvent_kept | with_reducible apply Kept.ite | split

theorem opEffects_kept {z0 : Origin} {s : State} {o : Op} {st : Status} (h0 : Kept z0 s) :
    Kept z0 (opEffects s o st) := by
  unfold opEffects
  try dsimp only
  repeat' first
    | with_reducible assumption | with_reducible exact Kept.refl _ _ | with_reducible apply planEnd_kept
    | with_reducible apply stepFail_kept | with_reducible apply txnDrop_kept | with_reducible apply exchangeEnd_kept
    | with_reducible apply finalOverGo_kept | with_reducible apply telUpdate_kept | with_reducible apply opDone_kept
    | with_reducible apply regSet_kept | with_reducible apply Kept.ite | with_reducible apply KeptOpt.getD | split
    | (fail_if_no_progress with_reducible refine Kept.lit ?_)

theorem abortConsumers_kept {z0 : Origin} {s : State} {id : Nat} (h0 : Kept z0 s) :
    Kept z0 (abortConsumers s id) := by
  unfold abortConsumers
  try dsimp only
  repeat' first
    | with_reducible assumption | with_reducible exact Kept.refl _ _ | with_reducible apply opAbandon_kept
    | with_reducible apply Kept.ite | (with_reducible apply Kept.foldl; intro _ _ _; try dsimp only)
    | (with_reducible apply Kept.foldl1; intro _ _ _; try dsimp only) | split

theorem replaysOver_kept {z0 : Origin} {s : State} {stream : Nat} (h0 : Kept z0 s) :
    Kept z0 (replaysOver s stream) := by
  unfold replaysOver
  try dsimp only
  repeat' first
    | with_reducible assumption | with_reducible exact Kept.refl _ _ | with_reducible apply opWrite_kept
    | (refine WroteKept.done_of ?_ (by with_reducible assumption))
    | (refine WroteKept.limit_of ?_ (by with_reducible assumption)) | with_reducible exact WroteKept.wait _ _
    | with_reducible apply WroteKept.done | with_reducible apply WroteKept.limit | split
    | (fail_if_no_progress with_reducible refine Kept.lit ?_)

theorem completeOp_kept {z0 : Origin} {s : State} {o : Op} (h0 : Kept z0 s) :
    Kept z0 (completeOp s o) := by
  unfold completeOp
  try dsimp only
  repeat' first
    | with_reducible assumption | with_reducible exact Kept.refl _ _ | with_reducible apply replaysOver_kept
    | with_reducible apply abortConsumers_kept | with_reducible apply opEffects_kept
    | with_reducible apply writeRecord_kept | with_reducible apply opGone_kept | with_reducible apply settle_kept
    | with_reducible apply epochsRelease_kept | with_reducible apply producerDone_kept
    | with_reducible apply abortTxn_kept | with_reducible apply opUpdate_kept
    | (refine KeptOpt.of ?_ (by with_reducible assumption)) | with_reducible apply Kept.ite
    | with_reducible apply KeptOpt.getD | split | (fail_if_no_progress with_reducible refine Kept.lit ?_)

theorem limitEnd_kept {z0 : Origin} {s : State} {o : Op} (h0 : Kept z0 s) :
    Kept z0 (limitEnd s o) := by
  unfold limitEnd
  try dsimp only
  repeat' first
    | with_reducible assumption | with_reducible exact Kept.refl _ _ | with_reducible apply stepFail_kept
    | with_reducible apply opStrictFail_kept | with_reducible apply opDone_kept | with_reducible apply Kept.ite | split

theorem limitExpire_kept {z0 : Origin} {s : State} {stream : Nat} {latched : Bool} (h0 : Kept z0 s) :
    Kept z0 (limitExpire s stream latched) := by
  unfold limitExpire
  try dsimp only
  repeat' first
    | with_reducible assumption | with_reducible exact Kept.refl _ _ | with_reducible apply limitEnd_kept
    | with_reducible apply settle_kept | with_reducible apply popHeld_kept | with_reducible apply refuseOp_kept
    | with_reducible apply waitTest_kept | with_reducible apply regCount_kept | with_reducible apply Kept.ite | split

/-! ### OpCmds -/

theorem drainUnknown_kept {r : Origin} : ∀ {n : Nat} {s : State} {x : Nat}, Kept r s → Kept r (drainUnknown n s x)
  | 0, _, _, h => h
  | n + 1, s, x, h => by
    unfold drainUnknown
    dsimp only
    split
    · split
      · exact h
      · exact drainUnknown_kept (submit_kept (ringPut_kept h))
    · exact h

theorem opCommand_kept {z0 : Origin} {s : State} {r : Nat} {d : Desc} (h0 : Kept z0 s) :
    Kept z0 (opCommand s r d) := by
  unfold opCommand
  try dsimp only
  repeat' first
    | with_reducible assumption | with_reducible exact Kept.refl _ _ | with_reducible apply drainUnknown_kept
    | with_reducible apply submit_kept | with_reducible apply ringPut_kept | with_reducible apply Kept.ite
    | (with_reducible intro _; try dsimp only) | split | (fail_if_no_progress with_reducible refine Kept.lit ?_)

/-! ### HostCmds -/

theorem pollRing_kept {z0 : Origin} {v : List Byte} {s : State} {r : Nat} (h0 : Kept z0 s) :
    Kept z0 (pollRing v s r) := by
  unfold pollRing
  try dsimp only
  repeat' first
    | with_reducible assumption | with_reducible exact Kept.refl _ _ | with_reducible apply ringPut_kept
    | with_reducible apply deviceEvent_kept | with_reducible apply Kept.ite | split
    | (fail_if_no_progress with_reducible refine Kept.lit ?_)

theorem pollQueue_kept {z0 : Origin} {v : List Byte} {s : State} {q : Nat} (h0 : Kept z0 s) :
    Kept z0 (pollQueue v s q) := by
  unfold pollQueue
  try dsimp only
  repeat' first
    | with_reducible assumption | with_reducible exact Kept.refl _ _ | with_reducible apply eqPut_kept
    | with_reducible apply Kept.ite | split | (fail_if_no_progress with_reducible refine Kept.lit ?_)

theorem poll_kept {z0 : Origin} {s : State} {v : List Byte} (h0 : Kept z0 s) :
    Kept z0 (poll s v) := by
  unfold poll
  try dsimp only
  repeat' first
    | with_reducible assumption | with_reducible exact Kept.refl _ _ | with_reducible apply pollQueue_kept
    | with_reducible apply pollRing_kept | with_reducible apply testWaits_kept | with_reducible apply Kept.ite
    | (with_reducible apply Kept.foldl; intro _ _ _; try dsimp only)
    | (with_reducible apply Kept.foldl1; intro _ _ _; try dsimp only) | split
    | (fail_if_no_progress with_reducible refine Kept.lit ?_)

theorem ringStatus_kept {z0 : Origin} {s : State} {r : Nat} (h0 : Kept z0 s) :
    Kept z0 (ringStatus s r) := by
  unfold ringStatus
  try dsimp only
  repeat' first
    | with_reducible assumption | with_reducible exact Kept.refl _ _ | split
    | (fail_if_no_progress with_reducible refine Kept.lit ?_)

theorem foldl_wf {α : Type} {f : Memory → α → Memory} (hf : ∀ m a, m.wf = true → (f m a).wf = true) :
    ∀ {l : List α} {m : Memory}, m.wf = true → (l.foldl f m).wf = true
  | [], _, h => h
  | a :: l, m, h => by
    rw [List.foldl_cons]
    exact foldl_wf hf (hf m a h)

theorem slotsHold_kept {r : Origin} {s : State} {k c : Nat} {descs : List (List Byte)} (h : Kept r s) :
    Kept r (slotsHold s k c descs) := by
  unfold slotsHold
  exact h.lit (hh := foldl_wf fun _ _ hm => Memory.putBytes_wf hm)

theorem fetch_kept {z0 : Origin} {s : State} {r : Nat} {descs : List (List Byte)} (h0 : Kept z0 s) :
    Kept z0 (fetch s r descs) := by
  unfold fetch
  try dsimp only
  repeat' first
    | with_reducible assumption | with_reducible exact Kept.refl _ _ | with_reducible apply slotsHold_kept
    | with_reducible apply ringStatus_kept | with_reducible apply drainUnknown_kept | with_reducible apply ringPut_kept
    | with_reducible apply Kept.ite | (with_reducible intro _; try dsimp only) | split
    | (fail_if_no_progress with_reducible refine Kept.lit ?_)

theorem timerFire_kept {z0 : Origin} {s : State} {stream : Nat} (h0 : Kept z0 s) :
    Kept z0 (timerFire s stream) := by
  unfold timerFire
  try dsimp only
  repeat' first
    | with_reducible assumption | with_reducible exact Kept.refl _ _ | with_reducible apply settle_kept
    | with_reducible apply opDone_kept | with_reducible apply Kept.ite | split

theorem irqTime_kept {z0 : Origin} {s : State} {q : Nat} (h0 : Kept z0 s) :
    Kept z0 (irqTime s q) := by
  unfold irqTime
  try dsimp only
  repeat' first
    | with_reducible assumption | with_reducible exact Kept.refl _ _ | with_reducible apply sendIrq_kept
    | with_reducible apply Kept.ite | split

theorem unmask_kept {z0 : Origin} {s : State} {v : Nat} (h0 : Kept z0 s) :
    Kept z0 (unmask s v) := by
  unfold unmask
  try dsimp only
  repeat' first
    | with_reducible assumption | with_reducible exact Kept.refl _ _ | with_reducible apply regSet_kept
    | with_reducible apply Kept.ite | split | (fail_if_no_progress with_reducible refine Kept.lit ?_)

theorem bar2Answer_kept {z0 : Origin} {s : State} {bs : Option (List Byte)} (h0 : Kept z0 s) :
    Kept z0 (bar2Answer s bs) := by
  unfold bar2Answer
  try dsimp only
  repeat' first
    | with_reducible assumption | with_reducible exact Kept.refl _ _ | split
    | (fail_if_no_progress with_reducible refine Kept.lit ?_)

theorem bar2Read_kept {z0 : Origin} {s : State} {o n : Nat} (h0 : Kept z0 s) :
    Kept z0 (bar2Read s o n) := by
  unfold bar2Read
  try dsimp only
  repeat' first
    | with_reducible assumption | with_reducible exact Kept.refl _ _ | with_reducible apply bar2Answer_kept
    | with_reducible apply touchRange_kept | with_reducible apply regCount_kept | with_reducible apply Kept.ite | split

theorem bar2Write_kept {z0 : Origin} {s : State} {o : Nat} {data : List Byte} (h0 : Kept z0 s) :
    Kept z0 (bar2Write s o data) := by
  unfold bar2Write
  try dsimp only
  repeat' first
    | with_reducible assumption | with_reducible exact Kept.refl _ _ | with_reducible apply touchRange_kept
    | with_reducible apply plainWrite_kept | with_reducible apply applyBytes_kept | with_reducible apply regCount_kept
    | with_reducible apply Kept.ite | split

theorem dropRead_kept {z0 : Origin} {s : State} {tag : Nat} (h0 : Kept z0 s) :
    Kept z0 (dropRead s tag) := by
  unfold dropRead
  try dsimp only
  repeat' first
    | with_reducible assumption | with_reducible exact Kept.refl _ _ | split
    | (fail_if_no_progress with_reducible refine Kept.lit ?_)

theorem hostHolds_kept {z0 : Origin} {s : State} {window : Option Nat} {a : Nat} {data : List Byte} (h0 : Kept z0 s) :
    Kept z0 (hostHolds s window a data) := by
  unfold hostHolds
  try dsimp only
  repeat' first
    | with_reducible assumption | with_reducible exact Kept.refl _ _ | split
    | (fail_if_no_progress with_reducible refine Kept.lit ?_)

theorem hostReadFail_kept {z0 : Origin} {s : State} {tag : Nat} (h0 : Kept z0 s) :
    Kept z0 (hostReadFail s tag) := by
  unfold hostReadFail
  try dsimp only
  repeat' first
    | with_reducible assumption | with_reducible exact Kept.refl _ _ | with_reducible apply dropRead_kept
    | with_reducible apply settle_kept | with_reducible apply ringPut_kept | with_reducible apply opDone_kept
    | with_reducible apply setHealth_kept | with_reducible apply raiseFault_kept | with_reducible apply regCount_kept
    | with_reducible apply Kept.ite | split | (fail_if_no_progress with_reducible refine Kept.lit ?_)

theorem hostReadDone_kept {z0 : Origin} {s : State} {tag : Nat} {data : List Byte} (h0 : Kept z0 s) :
    Kept z0 (hostReadDone s tag data) := by
  unfold hostReadDone
  try dsimp only
  repeat' first
    | with_reducible assumption | with_reducible exact Kept.refl _ _ | with_reducible apply hostHolds_kept
    | with_reducible apply dropRead_kept | with_reducible apply settle_kept | with_reducible apply ringPut_kept
    | with_reducible apply waitTest_kept | with_reducible apply opUpdate_kept | with_reducible apply regCount_kept
    | with_reducible apply Kept.ite | split | (fail_if_no_progress with_reducible refine Kept.lit ?_)

/-! ### Parts -/

theorem cutComplete_kept {z0 : Origin} {s : State} {k : Nat} (h0 : Kept z0 s) :
    Kept z0 (cutComplete s k) := by
  unfold cutComplete
  try dsimp only
  repeat' first
    | with_reducible assumption | with_reducible exact Kept.refl _ _ | with_reducible apply Kept.ite | split
    | (fail_if_no_progress with_reducible refine Kept.lit ?_)

end Sys2Proof.Machine
end

