-- ==== Sys2Proof/Laws/KeptControl.lean ====
section
/-! SUPPORT. What every operation keeps (Laws/Kept): faults, resets, registers, the Chime and boot. -/

set_option Elab.async false
set_option linter.unusedTactic false
set_option linter.unreachableTactic false

namespace Sys2Proof.Machine

/-! ### Faults -/

theorem sayLine_kept {z0 : Origin} {s : State} {l : String} (h0 : Kept z0 s) :
    Kept z0 (sayLine s l) := by
  unfold sayLine
  try dsimp only
  repeat' first
    | with_reducible assumption | with_reducible exact Kept.refl _ _ | split
    | (fail_if_no_progress with_reducible refine Kept.lit ?_)

theorem repairAdd_kept {z0 : Origin} {s : State} {unit spare : Nat} (h0 : Kept z0 s) :
    Kept z0 (repairAdd s unit spare) := by
  unfold repairAdd
  try dsimp only
  repeat' first
    | with_reducible assumption | with_reducible exact Kept.refl _ _ | with_reducible apply Kept.ite | split
    | (fail_if_no_progress with_reducible refine Kept.lit ?_)

theorem spareIn_kept {z0 : Origin} {s : State} {unit spare lost : Nat} (h0 : Kept z0 s) :
    Kept z0 (spareIn s unit spare lost) := by
  unfold spareIn
  try dsimp only
  repeat' first
    | with_reducible assumption | with_reducible exact Kept.refl _ _ | with_reducible apply deviceEvent_kept | split

theorem giveBack_kept {z0 : Origin} {s : State} {b : Nat} {js : List TileJob} (h0 : Kept z0 s) :
    Kept z0 (giveBack s b js) := by
  unfold giveBack
  try dsimp only
  repeat' first
    | with_reducible assumption | with_reducible exact Kept.refl _ _ | with_reducible apply belfryPut_kept | split
    | (fail_if_no_progress with_reducible refine Kept.lit ?_)

theorem emptyTurret_kept {z0 : Origin} {s : State} {t b : Nat} (h0 : Kept z0 s) :
    Kept z0 (emptyTurret s t b) := by
  unfold emptyTurret
  try dsimp only
  repeat' first
    | with_reducible assumption | with_reducible exact Kept.refl _ _ | with_reducible apply giveBack_kept
    | with_reducible apply turretPut_kept | split

theorem losePad_kept {z0 : Origin} {s : State} {t : Nat} (h0 : Kept z0 s) :
    Kept z0 (losePad s t) := by
  unfold losePad
  try dsimp only
  repeat' first
    | with_reducible assumption | with_reducible exact Kept.refl _ _ | split
    | (fail_if_no_progress with_reducible refine Kept.lit ?_)

theorem fenceTurret_kept {z0 : Origin} {s : State} {slot : Nat} (h0 : Kept z0 s) :
    Kept z0 (fenceTurret s slot) := by
  unfold fenceTurret
  try dsimp only
  repeat' first
    | with_reducible assumption | with_reducible exact Kept.refl _ _ | with_reducible apply losePad_kept
    | with_reducible apply emptyTurret_kept | with_reducible apply spareIn_kept | with_reducible apply repairAdd_kept
    | with_reducible apply belfryPut_kept | with_reducible apply raiseFault_kept | with_reducible apply Kept.ite | split
    | (fail_if_no_progress with_reducible refine Kept.lit ?_)

theorem fenceBelfry_kept {z0 : Origin} {s : State} {b unit : Nat} (h0 : Kept z0 s) :
    Kept z0 (fenceBelfry s b unit) := by
  unfold fenceBelfry
  try dsimp only
  repeat' first
    | with_reducible assumption | with_reducible exact Kept.refl _ _ | with_reducible apply turretPut_kept
    | with_reducible apply belfryPut_kept | with_reducible apply raiseFault_kept | with_reducible apply Kept.ite
    | (with_reducible apply Kept.foldl; intro _ _ _; try dsimp only)
    | (with_reducible apply Kept.foldl1; intro _ _ _; try dsimp only) | split
    | (fail_if_no_progress with_reducible refine Kept.lit ?_)

theorem replaceBank_kept {z0 : Origin} {s : State} {unit : Nat} (h0 : Kept z0 s) :
    Kept z0 (replaceBank s unit) := by
  unfold replaceBank
  try dsimp only
  repeat' first
    | with_reducible assumption | with_reducible exact Kept.refl _ _ | with_reducible apply repairAdd_kept
    | with_reducible apply raiseFault_kept | with_reducible apply Kept.ite | split
    | (fail_if_no_progress with_reducible refine Kept.lit ?_)

theorem linkOff_kept {z0 : Origin} {s : State} {l : Nat} (h0 : Kept z0 s) :
    Kept z0 (linkOff s l) := by
  unfold linkOff
  try dsimp only
  repeat' first
    | with_reducible assumption | with_reducible exact Kept.refl _ _ | with_reducible apply linkTo_kept
    | with_reducible apply regSet_kept | with_reducible apply Kept.ite | split

theorem spareAction_kept {z0 : Origin} {s : State} {r : FaultRec} (h0 : Kept z0 s) :
    Kept z0 (spareAction s r) := by
  unfold spareAction
  try dsimp only
  repeat' first
    | with_reducible assumption | with_reducible exact Kept.refl _ _ | with_reducible apply linkOff_kept
    | with_reducible apply replaceBank_kept | with_reducible apply fenceBelfry_kept
    | with_reducible apply fenceTurret_kept | with_reducible apply Kept.ite | split

theorem stopDome_kept {z0 : Origin} {s : State} (h0 : Kept z0 s) :
    Kept z0 (stopDome s) := by
  unfold stopDome
  try dsimp only
  repeat' first
    | with_reducible assumption | with_reducible exact Kept.refl _ _ | with_reducible apply belfryPut_kept
    | (with_reducible apply Kept.foldl; intro _ _ _; try dsimp only)
    | (with_reducible apply Kept.foldl1; intro _ _ _; try dsimp only) | split
    | (fail_if_no_progress with_reducible refine Kept.lit ?_)

theorem stopMemory_kept {z0 : Origin} {s : State} {ds : List Nat} (h0 : Kept z0 s) :
    Kept z0 (stopMemory s ds) := by
  unfold stopMemory
  try dsimp only
  repeat' first
    | with_reducible assumption | with_reducible exact Kept.refl _ _ | split
    | (fail_if_no_progress with_reducible refine Kept.lit ?_)

theorem stopGallery_kept {z0 : Origin} {s : State} {g : Nat} (h0 : Kept z0 s) :
    Kept z0 (stopGallery s g) := by
  unfold stopGallery
  try dsimp only
  repeat' first
    | with_reducible assumption | with_reducible exact Kept.refl _ _ | with_reducible apply linkTo_kept
    | with_reducible apply Kept.ite | (with_reducible apply Kept.foldl; intro _ _ _; try dsimp only)
    | (with_reducible apply Kept.foldl1; intro _ _ _; try dsimp only) | split
    | (fail_if_no_progress with_reducible refine Kept.lit ?_)

theorem jobFatal_kept {z0 : Origin} {s : State} (h0 : Kept z0 s) :
    Kept z0 (jobFatal s) := by
  unfold jobFatal
  try dsimp only
  repeat' first
    | with_reducible assumption | with_reducible exact Kept.refl _ _ | with_reducible apply haltJob_kept
    | with_reducible apply setHealth_kept | split

theorem deviceFatal_kept {z0 : Origin} {s : State} {die unit : Nat} (h0 : Kept z0 s) :
    Kept z0 (deviceFatal s die unit) := by
  unfold deviceFatal
  try dsimp only
  repeat' first
    | with_reducible assumption | with_reducible exact Kept.refl _ _ | with_reducible apply jobFatal_kept
    | with_reducible apply stopGallery_kept | with_reducible apply stopMemory_kept | with_reducible apply stopDome_kept
    | with_reducible apply Kept.ite | split | (fail_if_no_progress with_reducible refine Kept.lit ?_)

theorem sealDevice_kept {z0 : Origin} {s : State} (h0 : Kept z0 s) :
    Kept z0 (sealDevice s) := by
  unfold sealDevice
  try dsimp only
  repeat' first
    | with_reducible assumption | with_reducible exact Kept.refl _ _ | with_reducible apply stopGallery_kept
    | with_reducible apply stopMemory_kept | with_reducible apply stopDome_kept | with_reducible apply regSet_kept
    | with_reducible apply Kept.ite | split | (fail_if_no_progress with_reducible refine Kept.lit ?_)

theorem consoleLine_kept {z0 : Origin} {s : State} {r : FaultRec} {cls : Nat} (h0 : Kept z0 s) :
    Kept z0 (consoleLine s r cls) := by
  unfold consoleLine
  try dsimp only
  repeat' first
    | with_reducible assumption | with_reducible exact Kept.refl _ _ | with_reducible apply sayLine_kept
    | with_reducible apply Kept.ite | split

theorem logRecord_kept {z0 : Origin} {s : State} {r : FaultRec} {cls : Nat} (h0 : Kept z0 s) :
    Kept z0 (logRecord s r cls) := by
  unfold logRecord
  try dsimp only
  repeat' first
    | with_reducible assumption | with_reducible exact Kept.refl _ _ | with_reducible apply consoleLine_kept
    | with_reducible apply regCount_kept | with_reducible apply Kept.ite | split
    | (fail_if_no_progress with_reducible refine Kept.lit ?_)

theorem faultEvent_kept {z0 : Origin} {s : State} {r : FaultRec} {cls : Nat} {up : Bool} (h0 : Kept z0 s) :
    Kept z0 (faultEvent s r cls up) := by
  unfold faultEvent
  try dsimp only
  repeat' first
    | with_reducible assumption | with_reducible exact Kept.refl _ _ | with_reducible apply deviceEvent_kept
    | with_reducible apply Kept.ite | split

theorem classAction_kept {z0 : Origin} {s : State} {r : FaultRec} {cls : Nat} (h0 : Kept z0 s) :
    Kept z0 (classAction s r cls) := by
  unfold classAction
  try dsimp only
  repeat' first
    | with_reducible assumption | with_reducible exact Kept.refl _ _ | with_reducible apply sealDevice_kept
    | with_reducible apply deviceFatal_kept | with_reducible apply jobFatal_kept | with_reducible apply spareAction_kept
    | split

theorem collect1_kept {z0 : Origin} {s : State} {r : FaultRec} (h0 : Kept z0 s) :
    Kept z0 (collect1 s r) := by
  unfold collect1
  try dsimp only
  repeat' first
    | with_reducible assumption | with_reducible exact Kept.refl _ _ | with_reducible apply classAction_kept
    | with_reducible apply faultEvent_kept | with_reducible apply logRecord_kept | with_reducible apply regCount_kept
    | split | (fail_if_no_progress with_reducible refine Kept.lit ?_)

theorem deliver_kept {z0 : Origin} {s : State} {die : Nat} (h0 : Kept z0 s) :
    Kept z0 (deliver s die) := by
  unfold deliver
  try dsimp only
  repeat' first
    | with_reducible assumption | with_reducible exact Kept.refl _ _ | with_reducible apply collect1_kept | split
    | (fail_if_no_progress with_reducible refine Kept.lit ?_)

theorem bucketLeak_kept {z0 : Origin} {s : State} {src kind : Nat} (h0 : Kept z0 s) :
    Kept z0 (bucketLeak s src kind) := by
  unfold bucketLeak
  try dsimp only
  repeat' first
    | with_reducible assumption | with_reducible exact Kept.refl _ _ | with_reducible apply Kept.ite | split
    | (fail_if_no_progress with_reducible refine Kept.lit ?_)

/-! ### Reset -/

theorem loseAt_kept {z0 : Origin} {s : State} {lo hi : Nat} (h0 : Kept z0 s) :
    Kept z0 (loseAt s lo hi) := by
  unfold loseAt
  try dsimp only
  repeat' first
    | with_reducible assumption | with_reducible exact Kept.refl _ _ | split
    | (fail_if_no_progress with_reducible refine Kept.lit ?_)

theorem loseDies_kept {z0 : Origin} {s : State} (h0 : Kept z0 s) :
    Kept z0 (loseDies s) := by
  unfold loseDies
  try dsimp only
  repeat' first
    | with_reducible assumption | with_reducible exact Kept.refl _ _ | with_reducible apply loseAt_kept | split
    | (fail_if_no_progress with_reducible refine Kept.lit ?_)

theorem keepRegs_kept {z0 : Origin} {s : State} {f : Nat → Bool} (h0 : Kept z0 s) :
    Kept z0 (keepRegs s f) := by
  unfold keepRegs
  try dsimp only
  repeat' first
    | with_reducible assumption | with_reducible exact Kept.refl _ _ | split
    | (fail_if_no_progress with_reducible refine Kept.lit ?_)

theorem bootOk_raise {f : Finial} {a b : Nat} (ha : f.finCtr ≤ f.finSvn → a ≤ f.finSvn)
    (hb : f.blfCtr ≤ f.blfSvn → b ≤ f.blfSvn) (h : bootOk f = true) :
    bootOk { f with arbBurn := false, finCtr := a, blfCtr := b } = true := by
  simp only [bootOk, Bool.and_eq_true, Bool.or_eq_true, decide_eq_true_eq] at h ⊢
  exact ⟨⟨h.1.1, h.1.2.imp_right ha⟩, h.2.imp_right hb⟩

theorem max_min_le {c v : Nat} (h : c ≤ v) : max c (min v 64) ≤ v := Nat.max_le.mpr ⟨h, Nat.min_le_left _ _⟩

theorem raise_le (old new pick : Nat) : old ≤ if pick % 2 = 0 then old else max old (min new 64) := by
  split
  · exact Nat.le_refl _
  · exact Nat.le_max_left _ _

theorem le_raise {old new : Nat} (pick : Nat) (h : old ≤ new) : (if pick % 2 = 0 then old else max old (min new 64)) ≤ new := by
  split
  · exact h
  · exact max_min_le h

theorem burnCut_kept {z0 : Origin} {s : State} (h0 : Kept z0 s) : Kept z0 (burnCut s) := by
  unfold burnCut
  split
  · exact (drawFree_kept (drawFree_kept h0)).lit
      (hf := ⟨rfl, rfl, raise_le _ _ _, raise_le _ _ _, fun h => h, fun w => ⟨w, Nat.le_refl _⟩,
        bootOk_raise (le_raise _) (le_raise _), fun h => h⟩)
  · exact h0

theorem arbDone_kept {z0 : Origin} {s : State} (h0 : Kept z0 s) : Kept z0 (arbDone s) := by
  unfold arbDone
  dsimp only
  split
  · exact h0.lit (hf := ⟨rfl, rfl, Nat.le_max_left _ _, Nat.le_max_left _ _, fun h => h, fun w => ⟨w, Nat.le_refl _⟩,
      bootOk_raise max_min_le max_min_le, fun h => h⟩)
  · exact h0

theorem lcMoved_kept {z0 : Origin} {s : State} {lc : Nat} (hl : lifecycleOk s.fin = true → s.fin.lc ≤ lc ∧ lc ≤ 3)
    (h0 : Kept z0 s) :
    Kept z0 { s with fin := { s.fin with lcBurn := none, lc := lc, keysBlown := s.fin.keysBlown || lc == 3 } } :=
  h0.lit (hf := ⟨rfl, rfl, Nat.le_refl _, Nat.le_refl _, fun h => by simp [h], fun w =>
    ⟨by simp only [lifecycleOk, Bool.and_true, decide_eq_true_eq]; exact (hl w).2, (hl w).1⟩, fun h => h, fun h => h⟩)

theorem lcTake_kept {z0 : Origin} {s : State} (h0 : Kept z0 s) : Kept z0 (lcTake s) := by
  unfold lcTake
  split
  · rename_i t heq
    have go : lifecycleOk s.fin = true → s.fin.lc ≤ t ∧ t ≤ 3 := by
      intro h
      simp only [lifecycleOk, heq, Bool.and_eq_true, decide_eq_true_eq] at h
      omega
    have pick : ∀ p : Prop, [Decidable p] → lifecycleOk s.fin = true →
        s.fin.lc ≤ (if p then s.fin.lc else t) ∧ (if p then s.fin.lc else t) ≤ 3 := by
      intro p _ w
      have := go w
      split <;> omega
    dsimp only
    split
    · exact (lcMoved_kept (s := (drawFree s).2) (pick _) (drawFree_kept h0)).lit
    · exact lcMoved_kept go h0
  · exact h0

theorem hostLevel_kept {z0 : Origin} {s : State} (h0 : Kept z0 s) : Kept z0 (hostLevel s) := by
  unfold hostLevel
  dsimp only
  apply freeComparators_kept
  refine Kept.lit (Kept.foldl (fun s o hs => ?_) (Kept.foldl (fun _ _ hs => opAbandon_kept hs) (keepRegs_kept h0.lit)))
  cases opById s o.id with
  | none => exact hs
  | some x => exact completeOp_kept hs

theorem hostReset_kept {z0 : Origin} {s : State} (h0 : Kept z0 s) :
    Kept z0 (hostReset s) := by
  unfold hostReset
  try dsimp only
  repeat' first
    | with_reducible assumption | with_reducible exact Kept.refl _ _ | with_reducible apply hostLevel_kept
    | with_reducible apply raiseFault_kept | with_reducible apply Kept.ite | (with_reducible intro _; try dsimp only)
    | split | (fail_if_no_progress with_reducible refine Kept.lit ?_)

theorem computeReset_kept {z0 : Origin} {s : State} (h0 : Kept z0 s) :
    Kept z0 (computeReset s) := by
  unfold computeReset
  try dsimp only
  repeat' first
    | with_reducible assumption | with_reducible exact Kept.refl _ _ | with_reducible apply hostLevel_kept
    | with_reducible apply keepRegs_kept | with_reducible apply loseDies_kept | with_reducible apply settle_kept
    | with_reducible apply selfWrite_kept | with_reducible apply Kept.ite | (with_reducible intro _; try dsimp only)
    | split | (fail_if_no_progress with_reducible refine Kept.lit ?_)

theorem bootFail_kept {z0 : Origin} {s : State} {kind addr : Nat} (h0 : Kept z0 s) :
    Kept z0 (bootFail s kind addr) := by
  unfold bootFail
  try dsimp only
  repeat' first
    | with_reducible assumption | with_reducible exact Kept.refl _ _ | with_reducible apply collect1_kept | split

theorem strapCheck_kept {z0 : Origin} {s : State} (h0 : Kept z0 s) :
    Kept z0 (strapCheck s) := by
  unfold strapCheck
  try dsimp only
  repeat' first
    | with_reducible assumption | with_reducible exact Kept.refl _ _ | with_reducible apply bootFail_kept
    | with_reducible apply Kept.ite | split

theorem chipReset_kept {z0 : Origin} {s0 : State} (h0 : Kept z0 s0) :
    Kept z0 (chipReset s0) := by
  unfold chipReset
  try dsimp only
  repeat' first
    | with_reducible assumption | with_reducible exact Kept.refl _ _ | with_reducible apply strapCheck_kept
    | with_reducible apply hostLevel_kept | with_reducible apply lcTake_kept | with_reducible apply arbDone_kept
    | with_reducible apply keepRegs_kept | with_reducible apply loseDies_kept | with_reducible apply periodRestart_kept
    | with_reducible apply Kept.ite | (with_reducible intro _; try dsimp only) | split
    | (fail_if_no_progress with_reducible refine Kept.lit ?_)

theorem powerLost_kept {s : State} {s0 : State} (h0 : Kept ⟨s, true⟩ s0) : Kept ⟨s, true⟩ (powerLost s0) := by
  have h := lcTake_kept (burnCut_kept h0)
  unfold powerLost
  dsimp only
  apply loseDies_kept
  refine h.lit (hr := fun _ => rfl) (hm := fun _ => rfl) (hs := .inl rfl) (hi := fun _ => ⟨rfl, rfl⟩)
    (ho := fun _ => ⟨rfl, rfl, rfl, rfl, rfl⟩) (hb := fun _ => rfl) (hj := fun _ => ⟨rfl, rfl⟩) (hc := fun _ => rfl)
    (hf := ⟨rfl, rfl, Nat.le_refl _, Nat.le_refl _, fun h => h, fun w => ?_, fun _ => rfl, fun _ => rfl⟩)
  simp only [lifecycleOk, Bool.and_eq_true, decide_eq_true_eq, Bool.and_true] at w ⊢
  exact ⟨w.1, Nat.le_refl _⟩

theorem powerOn_kept {s : State} {s0 : State} {straps : Nat} (h0 : Kept ⟨s, true⟩ s0) :
    Kept ⟨s, true⟩ (powerOn s0 straps) := by
  have h := powerLost_kept h0
  unfold powerOn
  dsimp only
  exact strapCheck_kept h.lit

theorem powerDown_kept {s : State} {s0 : State} (h0 : Kept ⟨s, true⟩ s0) : Kept ⟨s, true⟩ (powerDown s0) := by
  have h := powerLost_kept h0
  unfold powerDown
  exact h.lit

/-! ### RegWrite -/

theorem writeIf_kept {z0 : Origin} {ok : Bool} {s : State} {off : Nat} {v : Word} (h0 : Kept z0 s) :
    Kept z0 (writeIf ok s off v) := by
  unfold writeIf
  try dsimp only
  repeat' first
    | with_reducible assumption | with_reducible exact Kept.refl _ _ | with_reducible apply configIgnored_kept
    | with_reducible apply regAccept_kept | with_reducible apply Kept.ite | split

theorem keepField_kept {z0 : Origin} {s old : State} {off hi lo : Nat} (h0 : Kept z0 s) (h1 : Kept z0 old) :
    Kept z0 (keepField s old off hi lo) := by
  unfold keepField
  try dsimp only
  repeat' first
    | with_reducible assumption | with_reducible exact Kept.refl _ _ | with_reducible apply regSet_kept | split

theorem arbGo_kept {z0 : Origin} {s : State} {off : Nat} {v : Word} (h0 : Kept z0 s) :
    Kept z0 (arbGo s off v) := by
  unfold arbGo
  try dsimp only
  repeat' first
    | with_reducible assumption | with_reducible exact Kept.refl _ _ | with_reducible apply configIgnored_kept
    | with_reducible apply Kept.ite | split | (fail_if_no_progress with_reducible refine Kept.lit ?_)

theorem resetWrite_kept {z0 : Origin} {s : State} {off : Nat} {v : Word} (h0 : Kept z0 s) :
    Kept z0 (resetWrite s off v) := by
  unfold resetWrite
  try dsimp only
  repeat' first
    | with_reducible assumption | with_reducible exact Kept.refl _ _ | with_reducible apply chipReset_kept
    | with_reducible apply computeReset_kept | with_reducible apply configIgnored_kept | with_reducible apply Kept.ite
    | split

theorem uartWrite_kept {z0 : Origin} {s : State} {off : Nat} {v : Word} (h0 : Kept z0 s) :
    Kept z0 (uartWrite s off v) := by
  unfold uartWrite
  try dsimp only
  repeat' first
    | with_reducible assumption | with_reducible exact Kept.refl _ _ | with_reducible apply configIgnored_kept
    | with_reducible apply regAccept_kept | with_reducible apply Kept.ite | split
    | (fail_if_no_progress with_reducible refine Kept.lit ?_)

theorem gpioWrite_kept {z0 : Origin} {s : State} {off : Nat} {v : Word} (h0 : Kept z0 s) :
    Kept z0 (gpioWrite s off v) := by
  unfold gpioWrite
  try dsimp only
  repeat' first
    | with_reducible assumption | with_reducible exact Kept.refl _ _ | with_reducible apply configIgnored_kept
    | with_reducible apply regAccept_kept | with_reducible apply Kept.ite | split

theorem comparatorWrite_kept {z0 : Origin} {s : State} {c : Nat} {off : Nat} {v : Word} (h0 : Kept z0 s) :
    Kept z0 (comparatorWrite s c off v) := by
  unfold comparatorWrite
  try dsimp only
  repeat' first
    | with_reducible assumption | with_reducible exact Kept.refl _ _ | with_reducible apply settle_kept
    | with_reducible apply configIgnored_kept | with_reducible apply regAccept_kept | with_reducible apply Kept.ite
    | split | (fail_if_no_progress with_reducible refine Kept.lit ?_)

theorem attestWrite_kept {z0 : Origin} {s : State} {off : Nat} {v : Word} (h0 : Kept z0 s) :
    Kept z0 (attestWrite s off v) := by
  unfold attestWrite
  try dsimp only
  repeat' first
    | with_reducible assumption | with_reducible exact Kept.refl _ _ | with_reducible apply configIgnored_kept
    | with_reducible apply Kept.ite | split | (fail_if_no_progress with_reducible refine Kept.lit ?_)

theorem finWrite_kept {z0 : Origin} {s : State} {off : Nat} {v : Word} (h0 : Kept z0 s) :
    Kept z0 (finWrite s off v) := by
  unfold finWrite
  try dsimp only
  repeat' first
    | with_reducible assumption | with_reducible exact Kept.refl _ _ | with_reducible apply attestWrite_kept
    | with_reducible apply comparatorWrite_kept | with_reducible apply gpioWrite_kept
    | with_reducible apply uartWrite_kept | with_reducible apply resetWrite_kept | with_reducible apply arbGo_kept
    | with_reducible apply configIgnored_kept | with_reducible apply regAccept_kept | with_reducible apply Kept.ite
    | split

theorem ringCfg_kept {z0 : Origin} {s : State} {r : Nat} {off : Nat} {v : Word} (h0 : Kept z0 s) :
    Kept z0 (ringCfg s r off v) := by
  unfold ringCfg
  try dsimp only
  repeat' first
    | with_reducible assumption | with_reducible exact Kept.refl _ _ | with_reducible apply settle_kept
    | with_reducible apply ringPut_kept | with_reducible apply configIgnored_kept | with_reducible apply regAccept_kept
    | with_reducible apply Kept.ite | split | (fail_if_no_progress with_reducible refine Kept.lit ?_)

theorem queueCfg_kept {z0 : Origin} {s : State} {q : Nat} {off : Nat} {v : Word} (h0 : Kept z0 s) :
    Kept z0 (queueCfg s q off v) := by
  unfold queueCfg
  try dsimp only
  repeat' first
    | with_reducible assumption | with_reducible exact Kept.refl _ _ | with_reducible apply configIgnored_kept
    | with_reducible apply eqPut_kept | with_reducible apply regAccept_kept | with_reducible apply Kept.ite | split
    | (fail_if_no_progress with_reducible refine Kept.lit ?_)

theorem msixWrite_kept {z0 : Origin} {s : State} {off : Nat} {v : Word} (h0 : Kept z0 s) :
    Kept z0 (msixWrite s off v) := by
  unfold msixWrite
  try dsimp only
  repeat' first
    | with_reducible assumption | with_reducible exact Kept.refl _ _ | with_reducible apply regAccept_kept
    | with_reducible apply Kept.ite | split | (fail_if_no_progress with_reducible refine Kept.lit ?_)

theorem hifWrite_kept {z0 : Origin} {s : State} {off : Nat} {v : Word} (h0 : Kept z0 s) :
    Kept z0 (hifWrite s off v) := by
  unfold hifWrite
  try dsimp only
  repeat' first
    | with_reducible assumption | with_reducible exact Kept.refl _ _ | with_reducible apply msixWrite_kept
    | with_reducible apply queueCfg_kept | with_reducible apply ringCfg_kept | with_reducible apply writeIf_kept
    | with_reducible apply configIgnored_kept | with_reducible apply regAccept_kept | with_reducible apply Kept.ite
    | split

theorem fltCtrl_kept {z0 : Origin} {s : State} {v : Word} (h0 : Kept z0 s) :
    Kept z0 (fltCtrl s v) := by
  unfold fltCtrl
  try dsimp only
  repeat' first
    | with_reducible assumption | with_reducible exact Kept.refl _ _ | with_reducible apply settle_kept
    | with_reducible apply Kept.ite | split | (fail_if_no_progress with_reducible refine Kept.lit ?_)

theorem fltWrite_kept {z0 : Origin} {s : State} {off : Nat} {v : Word} (h0 : Kept z0 s) :
    Kept z0 (fltWrite s off v) := by
  unfold fltWrite
  try dsimp only
  repeat' first
    | with_reducible assumption | with_reducible exact Kept.refl _ _ | with_reducible apply fltCtrl_kept
    | with_reducible apply writeIf_kept | with_reducible apply regAccept_kept | with_reducible apply Kept.ite | split

theorem chmWrite_kept {z0 : Origin} {s : State} {off : Nat} {v : Word} (h0 : Kept z0 s) :
    Kept z0 (chmWrite s off v) := by
  unfold chmWrite
  try dsimp only
  repeat' first
    | with_reducible assumption | with_reducible exact Kept.refl _ _ | with_reducible apply writeIf_kept
    | with_reducible apply regAccept_kept | with_reducible apply Kept.ite | split

theorem telCfg_kept {z0 : Origin} {s : State} {off : Nat} {v : Word} (h0 : Kept z0 s) :
    Kept z0 (telCfg s off v) := by
  unfold telCfg
  try dsimp only
  repeat' first
    | with_reducible assumption | with_reducible exact Kept.refl _ _ | with_reducible apply keepField_kept
    | with_reducible apply ocuConfig_kept | with_reducible apply regAccept_kept | with_reducible apply Kept.ite | split

theorem ocuWrite_kept {z0 : Origin} {s : State} {off : Nat} {v : Word} (h0 : Kept z0 s) :
    Kept z0 (ocuWrite s off v) := by
  unfold ocuWrite
  try dsimp only
  repeat' first
    | with_reducible assumption | with_reducible exact Kept.refl _ _ | with_reducible apply telCfg_kept
    | with_reducible apply ocuConfig_kept | with_reducible apply regAccept_kept | with_reducible apply Kept.ite | split

theorem selfRegister_kept {z0 : Origin} {s : State} {v : Word} (h0 : Kept z0 s) :
    Kept z0 (selfRegister s v) := by
  unfold selfRegister
  try dsimp only
  repeat' first
    | with_reducible assumption | with_reducible exact Kept.refl _ _ | with_reducible apply settle_kept
    | with_reducible apply selfWrite_kept | with_reducible apply Kept.ite | split

theorem linkEnable_kept {z0 : Origin} {s : State} {l : Nat} {en : Bool} (h0 : Kept z0 s) :
    Kept z0 (linkEnable s l en) := by
  unfold linkEnable
  try dsimp only
  repeat' first
    | with_reducible assumption | with_reducible exact Kept.refl _ _ | with_reducible apply linkTo_kept
    | with_reducible apply Kept.ite | split

theorem linkClearQ_kept {z0 : Origin} {s : State} {l : Nat} {en : Bool} (h0 : Kept z0 s) :
    Kept z0 (linkClearQ s l en) := by
  unfold linkClearQ
  try dsimp only
  repeat' first
    | with_reducible assumption | with_reducible exact Kept.refl _ _ | with_reducible apply linkTo_kept
    | with_reducible apply Kept.ite | split

theorem linkRetrain_kept {z0 : Origin} {s : State} {l : Nat} (h0 : Kept z0 s) :
    Kept z0 (linkRetrain s l) := by
  unfold linkRetrain
  try dsimp only
  repeat' first
    | with_reducible assumption | with_reducible exact Kept.refl _ _ | with_reducible apply linkTrain_kept
    | with_reducible apply Kept.ite | split

theorem linkCtl_kept {z0 : Origin} {s : State} {off : Nat} {v : Word} (h0 : Kept z0 s) :
    Kept z0 (linkCtl s off v) := by
  unfold linkCtl
  try dsimp only
  repeat' first
    | with_reducible assumption | with_reducible exact Kept.refl _ _ | with_reducible apply linkRetrain_kept
    | with_reducible apply linkClearQ_kept | with_reducible apply linkEnable_kept | with_reducible apply settle_kept
    | with_reducible apply regAccept_kept | with_reducible apply Kept.ite | split

theorem splitWrite_kept {z0 : Origin} {s : State} {off : Nat} {v : Word} (h0 : Kept z0 s) :
    Kept z0 (splitWrite s off v) := by
  unfold splitWrite
  try dsimp only
  repeat' first
    | with_reducible assumption | with_reducible exact Kept.refl _ _ | with_reducible apply writeIf_kept | split

theorem remapWrite_kept {z0 : Origin} {s : State} {off : Nat} {v : Word} (h0 : Kept z0 s) :
    Kept z0 (remapWrite s off v) := by
  unfold remapWrite
  try dsimp only
  repeat' first
    | with_reducible assumption | with_reducible exact Kept.refl _ _ | with_reducible apply settle_kept
    | with_reducible apply flowsRestart_kept | with_reducible apply retryHeld_kept | with_reducible apply regPut_kept
    | with_reducible apply Kept.ite | split

theorem galWrite_kept {z0 : Origin} {s : State} {off : Nat} {v : Word} (h0 : Kept z0 s) :
    Kept z0 (galWrite s off v) := by
  unfold galWrite
  try dsimp only
  repeat' first
    | with_reducible assumption | with_reducible exact Kept.refl _ _ | with_reducible apply remapWrite_kept
    | with_reducible apply splitWrite_kept | with_reducible apply linkCtl_kept | with_reducible apply selfRegister_kept
    | with_reducible apply retryHeld_kept | with_reducible apply regAccept_kept | with_reducible apply Kept.ite | split

theorem ilvWrite_kept {z0 : Origin} {s : State} {off : Nat} {v : Word} (h0 : Kept z0 s) :
    Kept z0 (ilvWrite s off v) := by
  unfold ilvWrite
  try dsimp only
  repeat' first
    | with_reducible assumption | with_reducible exact Kept.refl _ _ | with_reducible apply loseAt_kept
    | with_reducible apply configIgnored_kept | with_reducible apply regAccept_kept | with_reducible apply Kept.ite
    | split

theorem pprWrite_kept {z0 : Origin} {s : State} {d : Nat} {v : Word} (h0 : Kept z0 s) :
    Kept z0 (pprWrite s d v) := by
  unfold pprWrite
  try dsimp only
  repeat' first
    | with_reducible assumption | with_reducible exact Kept.refl _ _ | with_reducible apply channelPut_kept
    | with_reducible apply regSet_kept | with_reducible apply Kept.ite | split
    | (fail_if_no_progress with_reducible refine Kept.lit ?_)

theorem drmWrite_kept {z0 : Origin} {s : State} {off : Nat} {v : Word} (h0 : Kept z0 s) :
    Kept z0 (drmWrite s off v) := by
  unfold drmWrite
  try dsimp only
  repeat' first
    | with_reducible assumption | with_reducible exact Kept.refl _ _ | with_reducible apply pprWrite_kept
    | with_reducible apply ilvWrite_kept | with_reducible apply regAccept_kept | with_reducible apply Kept.ite | split

theorem partWrite_kept {z0 : Origin} {s : State} {k : Nat} {off : Nat} {v : Word} (h0 : Kept z0 s) :
    Kept z0 (partWrite s k off v) := by
  unfold partWrite
  try dsimp only
  repeat' first
    | with_reducible assumption | with_reducible exact Kept.refl _ _ | with_reducible apply settle_kept
    | with_reducible apply configIgnored_kept | with_reducible apply regAccept_kept | with_reducible apply Kept.ite
    | split | (fail_if_no_progress with_reducible refine Kept.lit ?_)

theorem lanWrite_kept {z0 : Origin} {s : State} {off : Nat} {v : Word} (h0 : Kept z0 s) :
    Kept z0 (lanWrite s off v) := by
  unfold lanWrite
  try dsimp only
  repeat' first
    | with_reducible assumption | with_reducible exact Kept.refl _ _ | with_reducible apply partWrite_kept
    | with_reducible apply regAccept_kept | with_reducible apply Kept.ite | split

theorem numModeWrite_kept {z0 : Origin} {s : State} {off : Nat} {v : Word} (h0 : Kept z0 s) :
    Kept z0 (numModeWrite s off v) := by
  unfold numModeWrite
  try dsimp only
  repeat' first
    | with_reducible assumption | with_reducible exact Kept.refl _ _ | with_reducible apply regAccept_kept
    | with_reducible apply Kept.ite | split

theorem planCfg_kept {z0 : Origin} {s : State} {off : Nat} {v : Word} (h0 : Kept z0 s) :
    Kept z0 (planCfg s off v) := by
  unfold planCfg
  try dsimp only
  repeat' first
    | with_reducible assumption | with_reducible exact Kept.refl _ _ | with_reducible apply configIgnored_kept
    | with_reducible apply regAccept_kept | with_reducible apply regSet_kept | with_reducible apply Kept.ite | split

theorem ownCfg_kept {z0 : Origin} {s : State} {off : Nat} {v : Word} (h0 : Kept z0 s) :
    Kept z0 (ownCfg s off v) := by
  unfold ownCfg
  try dsimp only
  repeat' first
    | with_reducible assumption | with_reducible exact Kept.refl _ _ | with_reducible apply keepField_kept
    | with_reducible apply configIgnored_kept | with_reducible apply regAccept_kept | with_reducible apply regSet_kept
    | with_reducible apply Kept.ite | split

theorem ownWrite_kept {z0 : Origin} {s : State} {bank : Nat} {off : Nat} {v : Word} (h0 : Kept z0 s) :
    Kept z0 (ownWrite s bank off v) := by
  unfold ownWrite
  try dsimp only
  repeat' first
    | with_reducible assumption | with_reducible exact Kept.refl _ _ | with_reducible apply regAccept_kept
    | with_reducible apply Kept.ite | split

theorem sketchWrite_kept {z0 : Origin} {s : State} {n : Nat} {off : Nat} {v : Word} (h0 : Kept z0 s) :
    Kept z0 (sketchWrite s n off v) := by
  unfold sketchWrite
  try dsimp only
  repeat' first
    | with_reducible assumption | with_reducible exact Kept.refl _ _ | with_reducible apply keepField_kept
    | with_reducible apply configIgnored_kept | with_reducible apply regAccept_kept | with_reducible apply Kept.ite
    | split | (fail_if_no_progress with_reducible refine Kept.lit ?_)

theorem verCfg_kept {z0 : Origin} {s : State} {off : Nat} {v : Word} (h0 : Kept z0 s) :
    Kept z0 (verCfg s off v) := by
  unfold verCfg
  try dsimp only
  repeat' first
    | with_reducible assumption | with_reducible exact Kept.refl _ _ | with_reducible apply keepField_kept
    | with_reducible apply configIgnored_kept | with_reducible apply regAccept_kept | with_reducible apply Kept.ite
    | split

theorem frzWrite_kept {z0 : Origin} {s : State} {off : Nat} {v : Word} (h0 : Kept z0 s) :
    Kept z0 (frzWrite s off v) := by
  unfold frzWrite
  try dsimp only
  repeat' first
    | with_reducible assumption | with_reducible exact Kept.refl _ _ | with_reducible apply keepField_kept
    | with_reducible apply configIgnored_kept | with_reducible apply regAccept_kept | with_reducible apply Kept.ite
    | split

theorem retainWrite_kept {z0 : Origin} {s : State} {off : Nat} {v : Word} (h0 : Kept z0 s) :
    Kept z0 (retainWrite s off v) := by
  unfold retainWrite
  try dsimp only
  repeat' first
    | with_reducible assumption | with_reducible exact Kept.refl _ _ | with_reducible apply configIgnored_kept
    | with_reducible apply regAccept_kept | with_reducible apply Kept.ite | split

theorem wgqWrite_kept {z0 : Origin} {s : State} {b : Nat} {v : Word} (h0 : Kept z0 s) :
    Kept z0 (wgqWrite s b v) := by
  unfold wgqWrite
  try dsimp only
  repeat' first
    | with_reducible assumption | with_reducible exact Kept.refl _ _ | with_reducible apply belfryPut_kept
    | with_reducible apply Kept.ite | split | (fail_if_no_progress with_reducible refine Kept.lit ?_)

theorem domWrite_kept {z0 : Origin} {s : State} {off : Nat} {v : Word} (h0 : Kept z0 s) :
    Kept z0 (domWrite s off v) := by
  unfold domWrite
  try dsimp only
  repeat' first
    | with_reducible assumption | with_reducible exact Kept.refl _ _ | with_reducible apply wgqWrite_kept
    | with_reducible apply retainWrite_kept | with_reducible apply frzWrite_kept | with_reducible apply verCfg_kept
    | with_reducible apply sketchWrite_kept | with_reducible apply ownWrite_kept | with_reducible apply ownCfg_kept
    | with_reducible apply planCfg_kept | with_reducible apply numModeWrite_kept | with_reducible apply writeIf_kept
    | with_reducible apply dirMove_kept | with_reducible apply regAccept_kept | with_reducible apply Kept.ite | split

theorem writeReg_kept {z0 : Origin} {s : State} {off : Nat} {v : Word} (h0 : Kept z0 s) :
    Kept z0 (writeReg s off v) := by
  unfold writeReg
  try dsimp only
  repeat' first
    | with_reducible assumption | with_reducible exact Kept.refl _ _ | with_reducible apply domWrite_kept
    | with_reducible apply lanWrite_kept | with_reducible apply drmWrite_kept | with_reducible apply galWrite_kept
    | with_reducible apply ocuWrite_kept | with_reducible apply chmWrite_kept | with_reducible apply fltWrite_kept
    | with_reducible apply hifWrite_kept | with_reducible apply finWrite_kept | with_reducible apply Kept.ite | split

theorem hostWrite_kept {z0 : Origin} {s : State} {off : Nat} {v : Word} (h0 : Kept z0 s) :
    Kept z0 (hostWrite s off v) := by
  unfold hostWrite
  try dsimp only
  repeat' first
    | with_reducible assumption | with_reducible exact Kept.refl _ _ | with_reducible apply writeReg_kept
    | with_reducible apply Kept.ite | split

/-! ### RegCmds -/

theorem pprDone_kept {z0 : Origin} {s : State} {d result : Nat} (h0 : Kept z0 s) :
    Kept z0 (pprDone s d result) := by
  unfold pprDone
  try dsimp only
  repeat' first
    | with_reducible assumption | with_reducible exact Kept.refl _ _ | with_reducible apply settle_kept
    | with_reducible apply channelPut_kept | with_reducible apply regSet_kept | split
    | (fail_if_no_progress with_reducible refine Kept.lit ?_)

theorem reportDone_kept {z0 : Origin} {s : State} (h0 : Kept z0 s) :
    Kept z0 (reportDone s) := by
  unfold reportDone
  try dsimp only
  repeat' first
    | with_reducible assumption | with_reducible exact Kept.refl _ _ | with_reducible apply signIdentity_kept
    | with_reducible apply Kept.ite | split | (fail_if_no_progress with_reducible refine Kept.lit ?_)

theorem tickStore_kept {z0 : Origin} {s : State} {o : Nat} {count : List Byte} (h0 : Kept z0 s) :
    Kept z0 (tickStore s o count) := by
  unfold tickStore
  try dsimp only
  repeat' first
    | with_reducible assumption | with_reducible exact Kept.refl _ _ | with_reducible apply plainWrite_kept
    | with_reducible apply applyBytes_kept | split | (fail_if_no_progress with_reducible refine Kept.lit ?_)

theorem tickReport_kept {z0 : Origin} {s : State} {c : Nat} (h0 : Kept z0 s) :
    Kept z0 (tickReport s c) := by
  unfold tickReport
  try dsimp only
  repeat' first
    | with_reducible assumption | with_reducible exact Kept.refl _ _ | with_reducible apply deviceEvent_kept
    | with_reducible apply drawBytes_kept | with_reducible apply drawFree_kept | split
    | (fail_if_no_progress with_reducible refine Kept.lit ?_)

theorem tickWrite_kept {r : Origin} {s : State} {c : Nat} (h0 : Kept r s) : Kept r (tickWrite s c) := by
  unfold tickWrite
  refine Kept.ite (Kept.ite h0 ?_) (Kept.ite h0 (tickReport_kept h0))
  split
  · exact h0.lit
  · rename_i heq
    exact tickStore_kept (KeptOpt.of (payNow_kept (touchRange_kept h0)) heq)

theorem comparatorTick_kept {z0 : Origin} {s : State} {c : Nat} (h0 : Kept z0 s) :
    Kept z0 (comparatorTick s c) := by
  unfold comparatorTick
  try dsimp only
  repeat' first
    | with_reducible assumption | with_reducible exact Kept.refl _ _ | with_reducible apply tickWrite_kept
    | with_reducible apply Kept.ite | (with_reducible intro _; try dsimp only) | split
    | (fail_if_no_progress with_reducible refine Kept.lit ?_)

/-! ### Chime -/

theorem chmLatch_kept {z0 : Origin} {s : State} (h0 : Kept z0 s) :
    Kept z0 (chmLatch s) := by
  unfold chmLatch
  try dsimp only
  repeat' first
    | with_reducible assumption | with_reducible exact Kept.refl _ _ | split
    | (fail_if_no_progress with_reducible refine Kept.lit ?_)

theorem calRefused_kept {z0 : Origin} {s : State} {kind taken : Nat} (h0 : Kept z0 s) :
    Kept z0 (calRefused s kind taken) := by
  unfold calRefused
  try dsimp only
  repeat' first
    | with_reducible assumption | with_reducible exact Kept.refl _ _ | with_reducible apply deviceEvent_kept | split

theorem vfPut_kept {z0 : Origin} {s : State} {k : Nat} {v : Option VfRec} (h0 : Kept z0 s) :
    Kept z0 (vfPut s k v) := by
  unfold vfPut
  try dsimp only
  repeat' first
    | with_reducible assumption | with_reducible exact Kept.refl _ _ | split
    | (fail_if_no_progress with_reducible refine Kept.lit ?_)

theorem testVf_kept {z0 : Origin} {s : State} (h0 : Kept z0 s) :
    Kept z0 (testVf s) := by
  unfold testVf
  try dsimp only
  repeat' first
    | with_reducible assumption | with_reducible exact Kept.refl _ _ | with_reducible apply vfPut_kept
    | with_reducible apply calRefused_kept | with_reducible apply Kept.ite
    | (with_reducible apply Kept.foldl; intro _ _ _; try dsimp only)
    | (with_reducible apply Kept.foldl1; intro _ _ _; try dsimp only) | split
    | (fail_if_no_progress with_reducible refine Kept.lit ?_)

theorem testChannels_kept {z0 : Origin} {s : State} (h0 : Kept z0 s) :
    Kept z0 (testChannels s) := by
  unfold testChannels
  try dsimp only
  repeat' first
    | with_reducible assumption | with_reducible exact Kept.refl _ _ | with_reducible apply calRefused_kept
    | with_reducible apply channelPut_kept | with_reducible apply Kept.ite
    | (with_reducible apply Kept.foldl; intro _ _ _; try dsimp only)
    | (with_reducible apply Kept.foldl1; intro _ _ _; try dsimp only) | split
    | (fail_if_no_progress with_reducible refine Kept.lit ?_)

theorem testLinks_kept {z0 : Origin} {s : State} (h0 : Kept z0 s) :
    Kept z0 (testLinks s) := by
  unfold testLinks
  try dsimp only
  repeat' first
    | with_reducible assumption | with_reducible exact Kept.refl _ _ | with_reducible apply calRefused_kept
    | with_reducible apply linkTrain_kept | with_reducible apply linkUpdate_kept | with_reducible apply Kept.ite
    | (with_reducible apply Kept.foldl; intro _ _ _; try dsimp only)
    | (with_reducible apply Kept.foldl1; intro _ _ _; try dsimp only) | split
    | (fail_if_no_progress with_reducible refine Kept.lit ?_)

theorem testBaseline_kept {z0 : Origin} {s : State} (h0 : Kept z0 s) :
    Kept z0 (testBaseline s) := by
  unfold testBaseline
  try dsimp only
  repeat' first
    | with_reducible assumption | with_reducible exact Kept.refl _ _ | with_reducible apply calRefused_kept
    | with_reducible apply Kept.ite | split | (fail_if_no_progress with_reducible refine Kept.lit ?_)

theorem vddSet_kept {z0 : Origin} {s : State} (h0 : Kept z0 s) :
    Kept z0 (vddSet s) := by
  unfold vddSet
  try dsimp only
  repeat' first
    | with_reducible assumption | with_reducible exact Kept.refl _ _ | with_reducible apply Kept.ite | split
    | (fail_if_no_progress with_reducible refine Kept.lit ?_)

theorem factorsUpdate_kept {z0 : Origin} {s : State} {p : Nat} (h0 : Kept z0 s) :
    Kept z0 (factorsUpdate s p) := by
  unfold factorsUpdate
  try dsimp only
  repeat' first
    | with_reducible assumption | with_reducible exact Kept.refl _ _ | with_reducible apply raiseFault_kept
    | with_reducible apply Kept.ite | (with_reducible apply Kept.foldl; intro _ _ _; try dsimp only)
    | (with_reducible apply Kept.foldl1; intro _ _ _; try dsimp only) | with_reducible apply KeptOpt.getD | split
    | (fail_if_no_progress with_reducible refine Kept.lit ?_)

theorem abandonTouching_kept {z0 : Origin} {s : State} {d : Nat} (h0 : Kept z0 s) :
    Kept z0 (abandonTouching s d) := by
  unfold abandonTouching
  try dsimp only
  repeat' first
    | with_reducible assumption | with_reducible exact Kept.refl _ _ | with_reducible apply opAbandon_kept
    | (with_reducible apply Kept.foldl; intro _ _ _; try dsimp only)
    | (with_reducible apply Kept.foldl1; intro _ _ _; try dsimp only) | split

theorem tripDie_kept {z0 : Origin} {s : State} {i : Nat} (h0 : Kept z0 s) :
    Kept z0 (tripDie s i) := by
  unfold tripDie
  try dsimp only
  repeat' first
    | with_reducible assumption | with_reducible exact Kept.refl _ _ | with_reducible apply abandonTouching_kept
    | with_reducible apply stopGallery_kept | with_reducible apply stopMemory_kept | with_reducible apply stopDome_kept
    | with_reducible apply opAbandon_kept | with_reducible apply Kept.ite
    | (with_reducible apply Kept.foldl; intro _ _ _; try dsimp only)
    | (with_reducible apply Kept.foldl1; intro _ _ _; try dsimp only) | split
    | (fail_if_no_progress with_reducible refine Kept.lit ?_)

theorem tripAll_kept {z0 : Origin} {s : State} {sensors : List (Option Int)} (h0 : Kept z0 s) :
    Kept z0 (tripAll s sensors) := by
  unfold tripAll
  try dsimp only
  repeat' first
    | with_reducible assumption | with_reducible exact Kept.refl _ _ | with_reducible apply tripDie_kept
    | with_reducible apply raiseFault_kept | with_reducible apply Kept.ite
    | (with_reducible apply Kept.foldl; intro _ _ _; try dsimp only)
    | (with_reducible apply Kept.foldl1; intro _ _ _; try dsimp only) | split

theorem sensorFails_kept {z0 : Origin} {s : State} {sensors : List (Option Int)} (h0 : Kept z0 s) :
    Kept z0 (sensorFails s sensors) := by
  unfold sensorFails
  try dsimp only
  repeat' first
    | with_reducible assumption | with_reducible exact Kept.refl _ _ | with_reducible apply raiseFault_kept
    | with_reducible apply Kept.ite | (with_reducible apply Kept.foldl; intro _ _ _; try dsimp only)
    | (with_reducible apply Kept.foldl1; intro _ _ _; try dsimp only) | split

theorem grantAll_kept {z0 : Origin} {s : State} (h0 : Kept z0 s) :
    Kept z0 (grantAll s) := by
  unfold grantAll
  try dsimp only
  repeat' first
    | with_reducible assumption | with_reducible exact Kept.refl _ _ | with_reducible apply Kept.ite
    | (with_reducible apply Kept.foldl; intro _ _ _; try dsimp only)
    | (with_reducible apply Kept.foldl1; intro _ _ _; try dsimp only) | split
    | (fail_if_no_progress with_reducible refine Kept.lit ?_)

theorem payOwed_kept {z0 : Origin} {s : State} (h0 : Kept z0 s) :
    Kept z0 (payOwed s) := by
  unfold payOwed
  try dsimp only
  repeat' first
    | with_reducible assumption | with_reducible exact Kept.refl _ _ | with_reducible apply payBursts_kept
    | with_reducible apply turretPut_kept | with_reducible apply Kept.ite
    | (with_reducible apply Kept.foldl; intro _ _ _; try dsimp only)
    | (with_reducible apply Kept.foldl1; intro _ _ _; try dsimp only) | (with_reducible intro _; try dsimp only) | split
    | (fail_if_no_progress with_reducible refine Kept.lit ?_)

theorem periodEnd_kept {z0 : Origin} {s : State} {sensors : List (Option Int)} {watts : Nat} (h0 : Kept z0 s) :
    Kept z0 (periodEnd s sensors watts) := by
  unfold periodEnd
  try dsimp only
  repeat' first
    | with_reducible assumption | with_reducible exact Kept.refl _ _ | with_reducible apply sensorFails_kept
    | with_reducible apply tripAll_kept | with_reducible apply factorsUpdate_kept | with_reducible apply vddSet_kept
    | with_reducible apply testBaseline_kept | with_reducible apply testLinks_kept
    | with_reducible apply testChannels_kept | with_reducible apply testVf_kept | with_reducible apply Kept.ite
    | with_reducible apply KeptOpt.getD | split | (fail_if_no_progress with_reducible refine Kept.lit ?_)

theorem gapStart_kept {z0 : Origin} {s : State} (h0 : Kept z0 s) :
    Kept z0 (gapStart s) := by
  unfold gapStart
  try dsimp only
  repeat' first
    | with_reducible assumption | with_reducible exact Kept.refl _ _ | with_reducible apply Kept.ite | split
    | (fail_if_no_progress with_reducible refine Kept.lit ?_)

theorem patternTemp_kept {z0 : Origin} {s : State} (h0 : Kept z0 s) :
    Kept z0 (patternTemp s).2 := by
  unfold patternTemp
  try dsimp only
  repeat' first
    | with_reducible assumption | with_reducible exact Kept.refl _ _ | with_reducible apply drawFree_kept
    | with_reducible apply Kept.ite | split

theorem recalDone_kept {z0 : Origin} {s : State} {volt : Nat} (h0 : Kept z0 s) :
    Kept z0 (recalDone s volt) := by
  unfold recalDone
  try dsimp only
  repeat' first
    | with_reducible assumption | with_reducible exact Kept.refl _ _ | with_reducible apply patternTemp_kept
    | with_reducible apply vfPut_kept | with_reducible apply Kept.ite | split
    | (fail_if_no_progress with_reducible refine Kept.lit ?_)

theorem pathTrip_kept {z0 : Origin} {s : State} {b : Nat} (h0 : Kept z0 s) :
    Kept z0 (pathTrip s b) := by
  unfold pathTrip
  try dsimp only
  repeat' first
    | with_reducible assumption | with_reducible exact Kept.refl _ _ | with_reducible apply raiseFault_kept
    | with_reducible apply regCount_kept | split | (fail_if_no_progress with_reducible refine Kept.lit ?_)

theorem gateSlot_kept {z0 : Origin} {s : State} {slot : Nat} (h0 : Kept z0 s) :
    Kept z0 (gateSlot s slot) := by
  unfold gateSlot
  try dsimp only
  repeat' first
    | with_reducible assumption | with_reducible exact Kept.refl _ _ | with_reducible apply belfryPut_kept
    | with_reducible apply Kept.ite | split | (fail_if_no_progress with_reducible refine Kept.lit ?_)

theorem pllStop_kept {z0 : Origin} {s : State} {b : Nat} (h0 : Kept z0 s) :
    Kept z0 (pllStop s b) := by
  unfold pllStop
  try dsimp only
  repeat' first
    | with_reducible assumption | with_reducible exact Kept.refl _ _ | with_reducible apply belfryPut_kept
    | with_reducible apply Kept.ite | split | (fail_if_no_progress with_reducible refine Kept.lit ?_)

theorem busyNote_kept {z0 : Origin} {s : State} {b : Nat} (h0 : Kept z0 s) :
    Kept z0 (busyNote s b) := by
  unfold busyNote
  try dsimp only
  repeat' first
    | with_reducible assumption | with_reducible exact Kept.refl _ _ | with_reducible apply belfryPut_kept
    | with_reducible apply Kept.ite | (with_reducible apply Kept.foldl; intro _ _ _; try dsimp only)
    | (with_reducible apply Kept.foldl1; intro _ _ _; try dsimp only) | split
    | (fail_if_no_progress with_reducible refine Kept.lit ?_)

theorem chimeNote_kept {z0 : Origin} {s : State} (h0 : Kept z0 s) :
    Kept z0 (chimeNote s) := by
  unfold chimeNote
  try dsimp only
  repeat' first
    | with_reducible assumption | with_reducible exact Kept.refl _ _ | with_reducible apply busyNote_kept
    | with_reducible apply Kept.ite | (with_reducible apply Kept.foldl; intro _ _ _; try dsimp only)
    | (with_reducible apply Kept.foldl1; intro _ _ _; try dsimp only) | split
    | (fail_if_no_progress with_reducible refine Kept.lit ?_)

/-! ### Boot -/

theorem railNominal_kept {z0 : Origin} {s : State} {i : Nat} (h0 : Kept z0 s) :
    Kept z0 (railNominal s i).2 := by
  unfold railNominal
  try dsimp only
  repeat' first
    | with_reducible assumption | with_reducible exact Kept.refl _ _ | with_reducible apply drawFree_kept
    | with_reducible apply Kept.ite | split

theorem railEnable_kept {z0 : Origin} {s : State} (h0 : Kept z0 s) :
    Kept z0 (railEnable s) := by
  unfold railEnable
  try dsimp only
  repeat' first
    | with_reducible assumption | with_reducible exact Kept.refl _ _ | with_reducible apply Kept.ite | split
    | (fail_if_no_progress with_reducible refine Kept.lit ?_)

/-- The stage that begins is the one that runs, or 2 or 3 after 1 or 2 of a boot that kept KREF. -/
theorem stageNow_cases {s : State} (w : bootOk s.fin = true) :
    stageNow s = s.fin.stage ∨
      (1 ≤ s.fin.stage ∧ s.fin.stage ≤ 2 ∧ 2 ≤ stageNow s ∧ stageNow s ≤ 3 ∧ s.fin.krefLostBoot = false) := by
  have hk : s.fin.stage = 2 → s.fin.krefLostBoot = false := by
    intro h
    simp only [bootOk, Bool.and_eq_true, Bool.or_eq_true, decide_eq_true_eq, h] at w
    simpa using w.1.1.2
  unfold stageNow
  dsimp only
  split
  · exact .inl rfl
  · split
    · rename_i h
      right
      have hl : s.fin.krefLostBoot = false := by simpa using h.2.2.2.2
      split <;> simp_all
    · split
      · rename_i h
        right
        exact ⟨by omega, by omega, by omega, by omega, hk h.1⟩
      · exact .inl rfl

theorem bootOk_stage {f : Finial} {n : Nat}
    (h : n = f.stage ∨ (1 ≤ f.stage ∧ f.stage ≤ 2 ∧ 2 ≤ n ∧ n ≤ 3 ∧ f.krefLostBoot = false)) (w : bootOk f = true) :
    bootOk { f with stage := n } = true := by
  rcases h with h | ⟨h1, h2, h3, h4, h5⟩
  · subst h
    exact w
  · have hr : f.ready = false := by
      simp only [bootOk, Bool.and_eq_true, Bool.or_eq_true, decide_eq_true_eq, beq_iff_eq] at w
      have := w.1.1.1.2
      rcases this with a | a
      · simpa using a
      · omega
    have h0 : ¬ f.stage = 0 := by omega
    simp only [bootOk, Bool.and_eq_true, Bool.or_eq_true, decide_eq_true_eq, h5, h0, false_or] at w ⊢
    refine ⟨⟨⟨⟨?_, ?_⟩, ?_⟩, ?_⟩, w.2⟩
    · omega
    · exact .inl (by simp [hr])
    · exact .inr rfl
    · exact .inr (by simpa using w.1.2)

theorem stageBegin_kept {z0 : Origin} {s : State} (h0 : Kept z0 s) : Kept z0 (stageBegin s) := by
  unfold stageBegin
  exact h0.lit (hf := FinKept.mk' rfl rfl rfl rfl rfl rfl rfl (fun x => x) fun w => bootOk_stage (stageNow_cases w) w)

theorem railRise_kept {z0 : Origin} {s : State} {i : Nat} (h0 : Kept z0 s) :
    Kept z0 (railRise s i) := by
  unfold railRise
  try dsimp only
  repeat' first
    | with_reducible assumption | with_reducible exact Kept.refl _ _ | with_reducible apply stageBegin_kept
    | with_reducible apply Kept.ite | (with_reducible intro _; try dsimp only) | split
    | (fail_if_no_progress with_reducible refine Kept.lit ?_)

theorem railTimeout_kept {z0 : Origin} {s : State} (h0 : Kept z0 s) :
    Kept z0 (railTimeout s) := by
  unfold railTimeout
  try dsimp only
  repeat' first
    | with_reducible assumption | with_reducible exact Kept.refl _ _ | with_reducible apply railNominal_kept
    | with_reducible apply raiseFault_kept | with_reducible apply Kept.ite | split
    | (fail_if_no_progress with_reducible refine Kept.lit ?_)

theorem railLost_kept {z0 : Origin} {s : State} {i mv : Nat} (h0 : Kept z0 s) :
    Kept z0 (railLost s i mv) := by
  unfold railLost
  try dsimp only
  repeat' first
    | with_reducible assumption | with_reducible exact Kept.refl _ _ | with_reducible apply raiseFault_kept
    | with_reducible apply Kept.ite | split | (fail_if_no_progress with_reducible refine Kept.lit ?_)

theorem avsTimeout_kept {z0 : Origin} {s : State} (h0 : Kept z0 s) :
    Kept z0 (avsTimeout s) := by
  unfold avsTimeout
  try dsimp only
  repeat' first
    | with_reducible assumption | with_reducible exact Kept.refl _ _ | with_reducible apply raiseFault_kept
    | with_reducible apply Kept.ite | split | (fail_if_no_progress with_reducible refine Kept.lit ?_)

theorem avsCheck_kept {z0 : Origin} {s : State} {mv : Nat} (h0 : Kept z0 s) :
    Kept z0 (avsCheck s mv) := by
  unfold avsCheck
  try dsimp only
  repeat' first
    | with_reducible assumption | with_reducible exact Kept.refl _ _ | with_reducible apply raiseFault_kept
    | with_reducible apply Kept.ite | split | (fail_if_no_progress with_reducible refine Kept.lit ?_)

theorem krefDetect_kept {z0 : Origin} {s : State} (h0 : Kept z0 s) :
    Kept z0 (krefDetect s) := by
  unfold krefDetect
  try dsimp only
  repeat' first
    | with_reducible assumption | with_reducible exact Kept.refl _ _ | with_reducible apply stageBegin_kept
    | (with_reducible intro _; try dsimp only) | split | (fail_if_no_progress with_reducible refine Kept.lit ?_)

theorem krefLost_kept {z0 : Origin} {s : State} (h0 : Kept z0 s) :
    Kept z0 (krefLost s) := by
  unfold krefLost
  try dsimp only
  repeat' first
    | with_reducible assumption | with_reducible exact Kept.refl _ _ | with_reducible apply raiseFault_kept
    | with_reducible apply Kept.ite | split | (fail_if_no_progress with_reducible refine Kept.lit ?_)

theorem krefTimeout_kept {z0 : Origin} {s : State} (h0 : Kept z0 s) : Kept z0 (krefTimeout s) := by
  unfold krefTimeout
  split
  · exact h0
  · rename_i h
    exact raiseFault_kept (h0.lit (hf := FinKept.mk' rfl rfl rfl rfl rfl rfl rfl (fun x => x) (fun w => by
      simp only [bootOk, Bool.or_eq_true, decide_eq_true_eq] at w h ⊢; grind)))

theorem perstRise_kept {z0 : Origin} {s : State} (h0 : Kept z0 s) :
    Kept z0 (perstRise s) := by
  unfold perstRise
  try dsimp only
  repeat' first
    | with_reducible assumption | with_reducible exact Kept.refl _ _ | with_reducible apply Kept.ite | split
    | (fail_if_no_progress with_reducible refine Kept.lit ?_)

theorem perstRelease_kept {z0 : Origin} {s : State} (h0 : Kept z0 s) :
    Kept z0 (perstRelease s) := by
  unfold perstRelease
  try dsimp only
  repeat' first
    | with_reducible assumption | with_reducible exact Kept.refl _ _ | with_reducible apply Kept.ite | split
    | (fail_if_no_progress with_reducible refine Kept.lit ?_)

theorem configRequest_kept {z0 : Origin} {s : State} (h0 : Kept z0 s) :
    Kept z0 (configRequest s) := by
  unfold configRequest
  try dsimp only
  repeat' first
    | with_reducible assumption | with_reducible exact Kept.refl _ _ | with_reducible apply Kept.ite | split
    | (fail_if_no_progress with_reducible refine Kept.lit ?_)

theorem imageTake_kept {z0 : Origin} {s : State} {stage : Nat} {im : List Byte}
    (h1 : stage = 1 → s.fin.stage = 0 ∧ s.fin.finCtr ≤ imageSvn im) (h2 : stage ≠ 1 → s.fin.blfCtr ≤ imageSvn im)
    (h0 : Kept z0 s) : Kept z0 (imageTake s stage im) := by
  unfold imageTake
  dsimp only
  split
  · rename_i h
    have h1 := h1 h
    exact stageBegin_kept (h0.lit (hf := FinKept.mk' rfl rfl rfl rfl rfl rfl rfl (fun x => x) (fun w => by simp only [bootOk] at w ⊢; grind)))
  · rename_i h
    have h2 := h2 h
    exact h0.lit (hf := FinKept.mk' rfl rfl rfl rfl rfl rfl rfl (fun x => x) (fun w => by simp only [bootOk] at w ⊢; grind))

theorem imageFail_kept {z0 : Origin} {s : State} {stage : Nat} {rollback : Bool} (h0 : Kept z0 s) :
    Kept z0 (imageFail s stage rollback) := by
  unfold imageFail
  try dsimp only
  repeat' first
    | with_reducible assumption | with_reducible exact Kept.refl _ _ | with_reducible apply chipReset_kept
    | with_reducible apply bootFail_kept | with_reducible apply Kept.ite | split
    | (fail_if_no_progress with_reducible refine Kept.lit ?_)

theorem flashPut_kept {z0 : Origin} {s : State} {belfry : Bool} {im : List Byte} (h0 : Kept z0 s) :
    Kept z0 (flashPut s belfry im) := by
  unfold flashPut
  try dsimp only
  repeat' first
    | with_reducible assumption | with_reducible exact Kept.refl _ _ | split
    | (fail_if_no_progress with_reducible refine Kept.lit ?_)

theorem imageVerify_kept {z0 : Origin} {s : State} {belfry : Bool} {im : List Byte} (h0 : Kept z0 s) :
    Kept z0 (imageVerify s belfry im) := by
  have hf : Kept z0 (flashPut s belfry im) := flashPut_kept h0
  unfold imageVerify
  cases belfry <;> simp only [Bool.false_eq_true, if_false, if_true] <;> split
  · exact h0
  · rename_i hd
    split
    · rename_i hg
      simp only [imageDue, arbCounter, Bool.and_eq_true, decide_eq_true_eq, Bool.not_eq_true', Bool.not_eq_false,
        beq_iff_eq, Bool.false_eq_true, if_false, if_true] at hd hg
      exact imageTake_kept (fun _ => ⟨hd.2, hg.2⟩) (fun h => absurd rfl h) hf
    · exact imageFail_kept hf
  · exact h0
  · split
    · rename_i hg
      simp only [Bool.and_eq_true] at hg
      exact imageTake_kept (fun h => nomatch h) (fun _ => of_decide_eq_true hg.2) hf
    · exact imageFail_kept hf

theorem foldl_fin {α : Type} {f : State → α → State} (hf : ∀ s a, (f s a).fin = s.fin) :
    ∀ {l : List α} {s : State}, (l.foldl f s).fin = s.fin
  | [], _ => rfl
  | a :: l, s => by rw [List.foldl_cons, foldl_fin hf, hf]

theorem applySpare_kept {z0 : Origin} {s : State} {x : Nat × Nat} (h0 : Kept z0 s) : Kept z0 (applySpare s x) := by
  unfold applySpare
  try dsimp only
  repeat' first
    | with_reducible assumption | with_reducible apply Kept.ite | split
    | (fail_if_no_progress with_reducible refine Kept.lit ?_)

theorem trainAll_kept {z0 : Origin} {s : State} (h0 : Kept z0 s) :
    Kept z0 (trainAll s) := by
  unfold trainAll
  try dsimp only
  repeat' first
    | with_reducible assumption | with_reducible exact Kept.refl _ _ | with_reducible apply channelPut_kept
    | (with_reducible apply Kept.foldl; intro _ _ _; try dsimp only)
    | (with_reducible apply Kept.foldl1; intro _ _ _; try dsimp only) | split
    | (fail_if_no_progress with_reducible refine Kept.lit ?_)

theorem stageMemory_kept {z0 : Origin} {s : State} (h0 : Kept z0 s) : Kept z0 (stageMemory s) := by
  unfold stageMemory
  split
  · rename_i h
    have hk : Kept z0 (trainAll s) := trainAll_kept h0
    exact stageBegin_kept (Kept.lit (Kept.ite hk (Kept.foldl (fun _ _ hs => applySpare_kept hs) hk)))
  · exact h0

theorem applyFence_kept {z0 : Origin} {s : State} {r : Nat × Nat} (h0 : Kept z0 s) :
    Kept z0 (applyFence s r) := by
  unfold applyFence
  try dsimp only
  repeat' first
    | with_reducible assumption | with_reducible exact Kept.refl _ _ | with_reducible apply belfryPut_kept
    | with_reducible apply Kept.ite | split | (fail_if_no_progress with_reducible refine Kept.lit ?_)

theorem applyFence_fin (s : State) (x : Nat × Nat) : (applyFence s x).fin = s.fin := by
  unfold applyFence
  dsimp only
  repeat' (first | rfl | split)

theorem stageDome_kept {z0 : Origin} {s : State} {volt : Nat} (h0 : Kept z0 s) : Kept z0 (stageDome s volt) := by
  unfold stageDome
  split
  · rename_i h
    dsimp only
    refine vddSet_kept ((vfPut_kept (Kept.foldl (fun _ _ hs => applyFence_kept hs) h0)).lit (hf := ?_))
    have hv : ∀ (u : State) (k : Nat) (v : Option VfRec), (vfPut u k v).fin = u.fin := fun _ _ _ => rfl
    rw [hv, foldl_fin applyFence_fin]
    exact FinKept.mk' rfl rfl rfl rfl rfl rfl rfl (fun x => x) (fun w => by simp only [bootOk] at w ⊢; grind)
  · exact h0

theorem stageReady_kept {z0 : Origin} {s : State} (h0 : Kept z0 s) : Kept z0 (stageReady s) := by
  unfold stageReady
  split
  · rename_i h
    dsimp only
    refine regSet_kept ((regSet_kept h0).lit (hf := ?_))
    have hv : ∀ (u : State) (o hi lo x : Nat), (regSet u o hi lo x).fin = u.fin := fun _ _ _ _ _ => rfl
    rw [hv]
    exact FinKept.mk' rfl rfl rfl rfl rfl rfl rfl (fun x => x) (fun w => by simp only [bootOk] at w ⊢; grind)
  · exact h0

/-! ### MemCtl -/

theorem sleepChannel_kept {z0 : Origin} {s : State} {ch : Nat} (h0 : Kept z0 s) :
    Kept z0 (sleepChannel s ch) := by
  unfold sleepChannel
  try dsimp only
  repeat' first
    | with_reducible assumption | with_reducible exact Kept.refl _ _ | with_reducible apply channelUpdate_kept
    | with_reducible apply Kept.ite | split | (fail_if_no_progress with_reducible refine Kept.lit ?_)

theorem retrainCheck_kept {z0 : Origin} {s : State} {ch : Nat} {temp : Int} (h0 : Kept z0 s) :
    Kept z0 (retrainCheck s ch temp) := by
  unfold retrainCheck
  try dsimp only
  repeat' first
    | with_reducible assumption | with_reducible exact Kept.refl _ _ | with_reducible apply channelPut_kept
    | with_reducible apply Kept.ite | split | (fail_if_no_progress with_reducible refine Kept.lit ?_)

theorem trainChannel_kept {z0 : Origin} {s : State} {ch : Nat} (h0 : Kept z0 s) :
    Kept z0 (trainChannel s ch) := by
  unfold trainChannel
  try dsimp only
  repeat' first
    | with_reducible assumption | with_reducible exact Kept.refl _ _ | with_reducible apply channelUpdate_kept
    | with_reducible apply Kept.ite | split | (fail_if_no_progress with_reducible refine Kept.lit ?_)

theorem trainNext_kept {z0 : Origin} {s : State} {ch : Nat} (h0 : Kept z0 s) :
    Kept z0 (trainNext s ch) := by
  unfold trainNext
  try dsimp only
  repeat' first
    | with_reducible assumption | with_reducible exact Kept.refl _ _ | with_reducible apply trainChannel_kept | split

theorem trainDone_kept {z0 : Origin} {s : State} {ch : Nat} (h0 : Kept z0 s) :
    Kept z0 (trainDone s ch) := by
  unfold trainDone
  try dsimp only
  repeat' first
    | with_reducible assumption | with_reducible exact Kept.refl _ _ | with_reducible apply trainNext_kept
    | with_reducible apply settle_kept | with_reducible apply channelUpdate_kept | with_reducible apply Kept.ite | split
    | (fail_if_no_progress with_reducible refine Kept.lit ?_)

theorem replaySet_kept {z0 : Origin} {s : State} {who : Accessor} {a n : Nat} (h0 : Kept z0 s) :
    Kept z0 (replaySet s who a n) := by
  unfold replaySet
  try dsimp only
  repeat' first
    | with_reducible assumption | with_reducible exact Kept.refl _ _ | with_reducible apply Kept.ite | split
    | (fail_if_no_progress with_reducible refine Kept.lit ?_)

theorem accessFail_kept {z0 : Origin} {s : State} {kind a : Nat} (h0 : Kept z0 s) :
    Kept z0 (accessFail s kind a) := by
  unfold accessFail
  try dsimp only
  repeat' first
    | with_reducible assumption | with_reducible exact Kept.refl _ _ | with_reducible apply raiseFault_kept | split

theorem suspectAdd_kept {z0 : Origin} {s : State} {ch row : Nat} (h0 : Kept z0 s) :
    Kept z0 (suspectAdd s ch row) := by
  unfold suspectAdd
  try dsimp only
  repeat' first
    | with_reducible assumption | with_reducible exact Kept.refl _ _ | with_reducible apply channelUpdate_kept
    | with_reducible apply Kept.ite | split | (fail_if_no_progress with_reducible refine Kept.lit ?_)

theorem grainGood_kept {z0 : Origin} {s : State} {a : Nat} (h0 : Kept z0 s) :
    Kept z0 (grainGood s a) := by
  unfold grainGood
  try dsimp only
  repeat' first
    | with_reducible assumption | with_reducible exact Kept.refl _ _ | with_reducible apply raiseFault_kept
    | with_reducible apply regCount_kept | with_reducible apply Kept.ite | split

theorem unwrite_kept {z0 : Origin} {s : State} {o : Op} {a : Nat} (h0 : Kept z0 s) :
    Kept z0 (unwrite s o a) := by
  unfold unwrite
  try dsimp only
  repeat' first
    | with_reducible assumption | with_reducible exact Kept.refl _ _
    | (with_reducible apply Kept.foldl; intro _ _ _; try dsimp only)
    | (with_reducible apply Kept.foldl1; intro _ _ _; try dsimp only) | split
    | (fail_if_no_progress with_reducible refine Kept.lit ?_)

theorem grainAbandon_kept {z0 : Origin} {s : State} {stream a : Nat} {write : Bool} (h0 : Kept z0 s) :
    Kept z0 (grainAbandon s stream a write) := by
  unfold grainAbandon
  try dsimp only
  repeat' first
    | with_reducible assumption | with_reducible exact Kept.refl _ _ | with_reducible apply unwrite_kept
    | with_reducible apply accessFail_kept | with_reducible apply settle_kept | with_reducible apply opAbandon_kept
    | with_reducible apply setHealth_kept | with_reducible apply opUpdate_kept | with_reducible apply Kept.ite | split
    | (fail_if_no_progress with_reducible refine Kept.lit ?_)

theorem replaysEnd_kept {z0 : Origin} {s : State} {who : Accessor} {a n : Nat} (h0 : Kept z0 s) :
    Kept z0 (replaysEnd s who a n) := by
  unfold replaysEnd
  try dsimp only
  repeat' first
    | with_reducible assumption | with_reducible exact Kept.refl _ _ | split
    | (fail_if_no_progress with_reducible refine Kept.lit ?_)

theorem linkCorrected_kept {z0 : Origin} {s : State} {a : Nat} (h0 : Kept z0 s) :
    Kept z0 (linkCorrected s a) := by
  unfold linkCorrected
  try dsimp only
  repeat' first
    | with_reducible assumption | with_reducible exact Kept.refl _ _ | with_reducible apply raiseFault_kept
    | with_reducible apply Kept.ite | split

theorem retainedFail_kept {z0 : Origin} {s : State} {a : Nat} (h0 : Kept z0 s) :
    Kept z0 (retainedFail s a) := by
  unfold retainedFail
  try dsimp only
  repeat' first
    | with_reducible assumption | with_reducible exact Kept.refl _ _ | with_reducible apply accessFail_kept
    | with_reducible apply tilePut_kept | with_reducible apply setHealth_kept
    | (with_reducible apply Kept.foldl; intro _ _ _; try dsimp only)
    | (with_reducible apply Kept.foldl1; intro _ _ _; try dsimp only) | split
    | (fail_if_no_progress with_reducible refine Kept.lit ?_)

theorem grainReplay_kept {z0 : Origin} {s : State} {who : Accessor} {a row : Nat} {good ecc : Bool} (h0 : Kept z0 s) :
    Kept z0 (grainReplay s who a row good ecc) := by
  unfold grainReplay
  try dsimp only
  repeat' first
    | with_reducible assumption | with_reducible exact Kept.refl _ _ | with_reducible apply retainedFail_kept
    | with_reducible apply linkCorrected_kept | with_reducible apply grainAbandon_kept
    | with_reducible apply grainGood_kept | with_reducible apply suspectAdd_kept | with_reducible apply replaySet_kept
    | with_reducible apply settle_kept | with_reducible apply opWrite_kept
    | (refine WroteKept.done_of ?_ (by with_reducible assumption))
    | (refine WroteKept.limit_of ?_ (by with_reducible assumption)) | with_reducible apply Kept.ite
    | with_reducible exact WroteKept.wait _ _ | with_reducible apply WroteKept.done
    | with_reducible apply WroteKept.limit | split

theorem grainsFail_kept {z0 : Origin} {s : State} {who : Accessor} {kind : Nat} {gs : List Nat} (h0 : Kept z0 s) :
    Kept z0 (grainsFail s who kind gs) := by
  unfold grainsFail
  try dsimp only
  repeat' first
    | with_reducible assumption | with_reducible exact Kept.refl _ _ | with_reducible apply accessFail_kept
    | with_reducible apply replaySet_kept | (with_reducible apply Kept.foldl; intro _ _ _; try dsimp only)
    | (with_reducible apply Kept.foldl1; intro _ _ _; try dsimp only) | split

theorem bar2ReadGrains_kept {z0 : Origin} {s : State} {o n : Nat} (h0 : Kept z0 s) :
    Kept z0 (bar2ReadGrains s o n) := by
  unfold bar2ReadGrains
  try dsimp only
  repeat' first
    | with_reducible assumption | with_reducible exact Kept.refl _ _ | with_reducible apply grainsFail_kept
    | with_reducible apply replaysEnd_kept | with_reducible apply bar2Read_kept | with_reducible apply bar2Answer_kept
    | split

theorem bar2WriteGrains_kept {z0 : Origin} {s : State} {o : Nat} {data : List Byte} (h0 : Kept z0 s) :
    Kept z0 (bar2WriteGrains s o data) := by
  unfold bar2WriteGrains
  try dsimp only
  repeat' first
    | with_reducible assumption | with_reducible exact Kept.refl _ _ | with_reducible apply grainsFail_kept
    | with_reducible apply replaysEnd_kept | with_reducible apply bar2Write_kept | split

theorem bar2Access_kept {z0 : Origin} {s : State} {x : Nat × Option (List Byte) × Nat} (h0 : Kept z0 s) :
    Kept z0 (bar2Access s x) := by
  unfold bar2Access
  try dsimp only
  repeat' first
    | with_reducible assumption | with_reducible exact Kept.refl _ _ | with_reducible apply bar2WriteGrains_kept
    | with_reducible apply bar2ReadGrains_kept | split

theorem bar2Serve_kept {r : Origin} : ∀ {n : Nat} {s : State}, Kept r s → Kept r (bar2Serve n s)
  | 0, _, h => h
  | n + 1, s, h => by
    unfold bar2Serve
    split
    · exact h
    · split
      · exact h
      · exact bar2Serve_kept (bar2Access_kept (Kept.lit h))

theorem bar2Take_kept {z0 : Origin} {s : State} {x : Nat × Option (List Byte) × Nat} (h0 : Kept z0 s) :
    Kept z0 (bar2Take s x) := by
  unfold bar2Take
  try dsimp only
  repeat' first
    | with_reducible assumption | with_reducible exact Kept.refl _ _ | with_reducible apply bar2Serve_kept
    | (with_reducible intro _; try dsimp only) | split | (fail_if_no_progress with_reducible refine Kept.lit ?_)

theorem journalCopy_kept {z0 : Origin} {s : State} (h0 : Kept z0 s) :
    Kept z0 (journalCopy s) := by
  unfold journalCopy
  try dsimp only
  repeat' first
    | with_reducible assumption | with_reducible exact Kept.refl _ _ | with_reducible apply replaysEnd_kept
    | with_reducible apply accessFail_kept | with_reducible apply replaySet_kept | with_reducible apply copyGranule_kept
    | with_reducible apply payNow_kept | with_reducible apply touchRange_kept
    | (refine KeptOpt.of ?_ (by with_reducible assumption)) | with_reducible apply Kept.ite
    | (with_reducible intro _; try dsimp only) | split

theorem loseWord_kept {z0 : Origin} {s : State} {w : Nat} (h0 : Kept z0 s) :
    Kept z0 (loseWord s w) := by
  unfold loseWord
  try dsimp only
  repeat' first
    | with_reducible assumption | with_reducible exact Kept.refl _ _ | with_reducible apply Kept.ite
    | (with_reducible apply Kept.foldl; intro _ _ _; try dsimp only)
    | (with_reducible apply Kept.foldl1; intro _ _ _; try dsimp only) | split
    | (fail_if_no_progress with_reducible refine Kept.lit ?_)

theorem bankCopied_kept {z0 : Origin} {s : State} {die : Nat} {lost : List Nat} (h0 : Kept z0 s) :
    Kept z0 (bankCopied s die lost) := by
  unfold bankCopied
  try dsimp only
  repeat' first
    | with_reducible assumption | with_reducible exact Kept.refl _ _ | with_reducible apply loseWord_kept
    | with_reducible apply bar2Serve_kept | with_reducible apply spareIn_kept | with_reducible apply settle_kept
    | with_reducible apply releaseHeld_kept | with_reducible apply raiseFault_kept
    | (with_reducible apply Kept.foldl; intro _ _ _; try dsimp only)
    | (with_reducible apply Kept.foldl1; intro _ _ _; try dsimp only) | (with_reducible intro _; try dsimp only) | split
    | (fail_if_no_progress with_reducible refine Kept.lit ?_)

end Sys2Proof.Machine
end

