-- ==== Sys2Proof/Laws/KeptFabric.lean ====
section
/-! SUPPORT. What every operation keeps (Laws/Kept): flits, time, flows, packets, tiles, Wamos and the pins. -/

set_option Elab.async false
set_option linter.unusedTactic false
set_option linter.unreachableTactic false

namespace Sys2Proof.Machine

/-! ### Flits -/

theorem nakOnce_kept {z0 : Origin} {s : State} {l : Nat} (h0 : Kept z0 s) :
    Kept z0 (nakOnce s l) := by
  unfold nakOnce
  try dsimp only
  repeat' first
    | with_reducible assumption | with_reducible exact Kept.refl _ _ | with_reducible apply linkPut_kept
    | with_reducible apply Kept.ite | split | (fail_if_no_progress with_reducible refine Kept.lit ?_)

theorem linkGoesOn_kept {z0 : Origin} {s : State} {l : Nat} (h0 : Kept z0 s) :
    Kept z0 (linkGoesOn s l) := by
  unfold linkGoesOn
  try dsimp only
  repeat' first
    | with_reducible assumption | with_reducible exact Kept.refl _ _ | with_reducible apply retryHeld_kept
    | with_reducible apply linkUpdate_kept | split

theorem dataArrive_kept {z0 : Origin} {s : State} {l : Nat} {f : List Byte} {fecOk : Bool} (h0 : Kept z0 s) :
    Kept z0 (dataArrive s l f fecOk) := by
  unfold dataArrive
  try dsimp only
  repeat' first
    | with_reducible assumption | with_reducible exact Kept.refl _ _ | with_reducible apply linkGoesOn_kept
    | with_reducible apply nakOnce_kept | with_reducible apply linkPut_kept | with_reducible apply Kept.ite | split
    | (fail_if_no_progress with_reducible refine Kept.lit ?_)

theorem idleArrive_kept {z0 : Origin} {s : State} {l : Nat} {f : List Byte} {fecOk : Bool} (h0 : Kept z0 s) :
    Kept z0 (idleArrive s l f fecOk) := by
  unfold idleArrive
  try dsimp only
  repeat' first
    | with_reducible assumption | with_reducible exact Kept.refl _ _ | with_reducible apply linkGoesOn_kept
    | with_reducible apply nakOnce_kept | with_reducible apply linkPut_kept | with_reducible apply Kept.ite | split

theorem replayFlits_kept {z0 : Origin} {s : State} {l : Nat} (h0 : Kept z0 s) :
    Kept z0 (replayFlits s l) := by
  unfold replayFlits
  try dsimp only
  repeat' first
    | with_reducible assumption | with_reducible exact Kept.refl _ _ | with_reducible apply linkStuck_kept
    | with_reducible apply linkPut_kept | with_reducible apply raiseFault_kept | with_reducible apply Kept.ite | split
    | (fail_if_no_progress with_reducible refine Kept.lit ?_)

theorem nakArrive_kept {z0 : Origin} {s : State} {l : Nat} {f : List Byte} {fecOk : Bool} (h0 : Kept z0 s) :
    Kept z0 (nakArrive s l f fecOk) := by
  unfold nakArrive
  try dsimp only
  repeat' first
    | with_reducible assumption | with_reducible exact Kept.refl _ _ | with_reducible apply replayFlits_kept
    | with_reducible apply linkGoesOn_kept | with_reducible apply nakOnce_kept | with_reducible apply linkPut_kept
    | with_reducible apply Kept.ite | split

theorem linkLocked_kept {z0 : Origin} {s : State} {l : Nat} (h0 : Kept z0 s) :
    Kept z0 (linkLocked s l) := by
  unfold linkLocked
  try dsimp only
  repeat' first
    | with_reducible assumption | with_reducible exact Kept.refl _ _ | with_reducible apply helloStart_kept
    | with_reducible apply linkTo_kept | with_reducible apply linkUpdate_kept | with_reducible apply Kept.ite | split
    | (fail_if_no_progress with_reducible refine Kept.lit ?_)

/-! ### TimeSync -/

theorem stamp16_kept {z0 : Origin} {s : State} (h0 : Kept z0 s) :
    Kept z0 (stamp16 s).2 := by
  unfold stamp16
  try dsimp only
  repeat' first
    | with_reducible assumption | with_reducible exact Kept.refl _ _ | with_reducible apply drawFree_kept
    | with_reducible apply Kept.ite | split

theorem timeApply_kept {z0 : Origin} {s : State} {offset : Int} {num den : Nat} (h0 : Kept z0 s) :
    Kept z0 (timeApply s offset num den) := by
  unfold timeApply
  try dsimp only
  repeat' first
    | with_reducible assumption | with_reducible exact Kept.refl _ _ | with_reducible apply periodRestart_kept
    | with_reducible apply Kept.ite | split | (fail_if_no_progress with_reducible refine Kept.lit ?_)

theorem timeEvent_kept {z0 : Origin} {s : State} {chip : Nat} (h0 : Kept z0 s) :
    Kept z0 (timeEvent s chip) := by
  unfold timeEvent
  try dsimp only
  repeat' first
    | with_reducible assumption | with_reducible exact Kept.refl _ _ | with_reducible apply deviceEvent_kept
    | with_reducible apply drawBytes_kept | split

theorem timeSpread_kept {z0 : Origin} {s : State} {offset : Int} {num den : Nat} (h0 : Kept z0 s) :
    Kept z0 (timeSpread s offset num den) := by
  unfold timeSpread
  try dsimp only
  repeat' first
    | with_reducible assumption | with_reducible exact Kept.refl _ _ | with_reducible apply timeApply_kept
    | with_reducible apply sendPkt_kept | split

theorem timeAnswer_kept {z0 : Origin} {s : State} {t1 t2 t3 t4 : Int} (h0 : Kept z0 s) :
    Kept z0 (timeAnswer s t1 t2 t3 t4) := by
  unfold timeAnswer
  try dsimp only
  repeat' first
    | with_reducible assumption | with_reducible exact Kept.refl _ _ | with_reducible apply timeSpread_kept
    | with_reducible apply drawFree_kept | with_reducible apply periodRestart_kept | with_reducible apply Kept.ite
    | split | (fail_if_no_progress with_reducible refine Kept.lit ?_)

theorem timeFollow_kept {z0 : Origin} {s : State} {src : Nat} {offset : Int} {num den : Nat} (h0 : Kept z0 s) :
    Kept z0 (timeFollow s src offset num den) := by
  unfold timeFollow
  try dsimp only
  repeat' first
    | with_reducible assumption | with_reducible exact Kept.refl _ _ | with_reducible apply timeEvent_kept
    | with_reducible apply timeApply_kept | with_reducible apply Kept.ite | split
    | (fail_if_no_progress with_reducible refine Kept.lit ?_)

theorem timeArrive_kept {z0 : Origin} {s : State} {h : PktHdr} {m : SyncMsg} (h0 : Kept z0 s) :
    Kept z0 (timeArrive s h m) := by
  unfold timeArrive
  try dsimp only
  repeat' first
    | with_reducible assumption | with_reducible exact Kept.refl _ _ | with_reducible apply timeFollow_kept
    | with_reducible apply timeAnswer_kept | with_reducible apply stamp16_kept | with_reducible apply sendPkt_kept
    | split

theorem alignAsk_kept {z0 : Origin} {s : State} (h0 : Kept z0 s) :
    Kept z0 (alignAsk s) := by
  unfold alignAsk
  try dsimp only
  repeat' first
    | with_reducible assumption | with_reducible exact Kept.refl _ _ | with_reducible apply stamp16_kept
    | with_reducible apply takeTag_kept | with_reducible apply sendPkt_kept | with_reducible apply drawFree_kept
    | with_reducible apply Kept.ite | split

theorem syncInterval_kept {z0 : Origin} {s : State} (h0 : Kept z0 s) :
    Kept z0 (syncInterval s) := by
  unfold syncInterval
  try dsimp only
  repeat' first
    | with_reducible assumption | with_reducible exact Kept.refl _ _ | with_reducible apply alignAsk_kept
    | with_reducible apply timeSpread_kept | with_reducible apply stamp16_kept | with_reducible apply takeTag_kept
    | with_reducible apply routeHeld_kept | with_reducible apply drawFree_kept | with_reducible apply Kept.ite | split
    | (fail_if_no_progress with_reducible refine Kept.lit ?_)

theorem timeTick_kept {z0 : Origin} {s : State} (h0 : Kept z0 s) :
    Kept z0 (timeTick s) := by
  unfold timeTick
  try dsimp only
  repeat' first
    | with_reducible assumption | with_reducible exact Kept.refl _ _ | with_reducible apply Kept.ite | split
    | (fail_if_no_progress with_reducible refine Kept.lit ?_)

/-! ### Flows -/

theorem markGot_kept {z0 : Origin} {s : State} {chip cls fseq : Nat} (h0 : Kept z0 s) :
    Kept z0 (markGot s chip cls fseq) := by
  unfold markGot
  try dsimp only
  repeat' first
    | with_reducible assumption | with_reducible exact Kept.refl _ _ | with_reducible apply flowUpdate_kept | split
    | (fail_if_no_progress with_reducible refine Kept.lit ?_)

theorem answersGot_kept {z0 : Origin} {s : State} {chip : Nat} {done : List Nat} (h0 : Kept z0 s) :
    Kept z0 (answersGot s chip done) := by
  unfold answersGot
  try dsimp only
  repeat' first
    | with_reducible assumption | with_reducible exact Kept.refl _ _ | with_reducible apply markGot_kept
    | with_reducible apply flowUpdate_kept | (with_reducible apply Kept.foldl; intro _ _ _; try dsimp only)
    | (with_reducible apply Kept.foldl1; intro _ _ _; try dsimp only) | split
    | (fail_if_no_progress with_reducible refine Kept.lit ?_)

theorem releaseAcked_kept {z0 : Origin} {s : State} {chip cls : Nat} {p : Nat → Bool} (h0 : Kept z0 s) :
    Kept z0 (releaseAcked s chip cls p) := by
  unfold releaseAcked
  try dsimp only
  repeat' first
    | with_reducible assumption | with_reducible exact Kept.refl _ _ | with_reducible apply answersGot_kept
    | with_reducible apply retryHeld_kept | with_reducible apply flowUpdate_kept | with_reducible apply Kept.ite | split
    | (fail_if_no_progress with_reducible refine Kept.lit ?_)

theorem takePack_kept {z0 : Origin} {s : State} {h : PktHdr} (h0 : Kept z0 s) :
    Kept z0 (takePack s h) := by
  unfold takePack
  try dsimp only
  repeat' first
    | with_reducible assumption | with_reducible exact Kept.refl _ _ | with_reducible apply releaseAcked_kept | split

theorem takeE2eAck_kept {z0 : Origin} {s : State} {h : PktHdr} {bitmap : List Byte} (h0 : Kept z0 s) :
    Kept z0 (takeE2eAck s h bitmap) := by
  unfold takeE2eAck
  try dsimp only
  repeat' first
    | with_reducible assumption | with_reducible exact Kept.refl _ _ | with_reducible apply releaseAcked_kept | split

theorem flowFail_kept {z0 : Origin} {s : State} {chip cls : Nat} (h0 : Kept z0 s) :
    Kept z0 (flowFail s chip cls) := by
  unfold flowFail
  try dsimp only
  repeat' first
    | with_reducible assumption | with_reducible exact Kept.refl _ _ | with_reducible apply limitEnd_kept
    | with_reducible apply settle_kept | with_reducible apply flowUpdate_kept | with_reducible apply raiseFault_kept
    | with_reducible apply drawFree_kept | (with_reducible apply Kept.foldl; intro _ _ _; try dsimp only)
    | (with_reducible apply Kept.foldl1; intro _ _ _; try dsimp only) | split
    | (fail_if_no_progress with_reducible refine Kept.lit ?_)

theorem flowFill_kept {z0 : Origin} {s : State} {chip cls : Nat} (h0 : Kept z0 s) :
    Kept z0 (flowFill s chip cls) := by
  unfold flowFill
  try dsimp only
  repeat' first
    | with_reducible assumption | with_reducible exact Kept.refl _ _ | with_reducible apply retryHeld_kept
    | with_reducible apply spillTo_kept | with_reducible apply flowUpdate_kept | with_reducible apply drawFree_kept
    | with_reducible apply Kept.ite | split | (fail_if_no_progress with_reducible refine Kept.lit ?_)

theorem flowRetransmit_kept {z0 : Origin} {s : State} {chip cls fseq : Nat} (h0 : Kept z0 s) :
    Kept z0 (flowRetransmit s chip cls fseq) := by
  unfold flowRetransmit
  try dsimp only
  repeat' first
    | with_reducible assumption | with_reducible exact Kept.refl _ _ | with_reducible apply flowFill_kept
    | with_reducible apply flowFail_kept | with_reducible apply launch_kept | with_reducible apply flowUpdate_kept
    | with_reducible apply Kept.ite | split | (fail_if_no_progress with_reducible refine Kept.lit ?_)

theorem flowAck_kept {z0 : Origin} {s : State} {chip cls : Nat} (h0 : Kept z0 s) :
    Kept z0 (flowAck s chip cls) := by
  unfold flowAck
  try dsimp only
  repeat' first
    | with_reducible assumption | with_reducible exact Kept.refl _ _ | with_reducible apply flowFill_kept
    | with_reducible apply sendNumbered_kept | with_reducible apply Kept.ite | split

/-! ### Fabric -/

theorem goodParts_kept {z0 : Origin} {s : State} {off : Nat} {bs : List Byte} (h0 : Kept z0 s) :
    Kept z0 (goodParts s off bs).1 := by
  unfold goodParts
  try dsimp only
  repeat' first
    | with_reducible assumption | with_reducible exact Kept.refl _ _ | with_reducible apply replaysEnd_kept
    | with_reducible apply accessFail_kept | (with_reducible apply Kept.foldl; intro _ _ _; try dsimp only)
    | (with_reducible apply Kept.foldl1; intro _ _ _; try dsimp only) | split

theorem landBytes_kept {z0 : Origin} {s : State} {off : Nat} {bs : List Byte} (h0 : Kept z0 s) :
    Kept z0 (landBytes s off bs) := by
  unfold landBytes
  try dsimp only
  repeat' first
    | with_reducible assumption | with_reducible exact Kept.refl _ _ | with_reducible apply goodParts_kept
    | with_reducible apply testGrains_kept | with_reducible apply plainWrite_kept
    | (with_reducible apply Kept.foldl; intro _ _ _; try dsimp only)
    | (with_reducible apply Kept.foldl1; intro _ _ _; try dsimp only) | split

theorem remoteWrite_kept {z0 : Origin} {s : State} {l : Nat} {h : PktHdr} {perm n : Nat} {waits : Bool} {k : State → State} (h0 : Kept z0 s) (k_k : ∀ x0, Kept z0 x0 → Kept z0 (k x0)) :
    TakenKept z0 (remoteWrite s l h perm n waits k) := by
  unfold remoteWrite
  try dsimp only
  repeat' first
    | with_reducible apply k_k | with_reducible assumption | with_reducible exact Kept.refl _ _
    | with_reducible apply violation_kept | with_reducible apply payNow_kept | with_reducible apply touchRange_kept
    | (refine KeptOpt.of ?_ (by with_reducible assumption)) | with_reducible apply TakenKept.hold
    | with_reducible apply TakenKept.accept | with_reducible apply TakenKept.drop
    | with_reducible apply TakenKept.answered | with_reducible apply Kept.ite | (with_reducible intro _; try dsimp only)
    | split

theorem serveRow_kept {z0 : Origin} {s : State} {job : Nat} {r : RowReq} (h0 : Kept z0 s) :
    Kept z0 (serveRow s job r).1 := by
  unfold serveRow
  try dsimp only
  repeat' first
    | with_reducible assumption | with_reducible exact Kept.refl _ _ | with_reducible apply replaysEnd_kept
    | with_reducible apply accessFail_kept | with_reducible apply replaySet_kept | with_reducible apply sketchAdd_kept
    | with_reducible apply Kept.ite | (with_reducible apply Kept.foldl; intro _ _ _; try dsimp only)
    | (with_reducible apply Kept.foldl1; intro _ _ _; try dsimp only) | split

theorem serveRows_kept {z0 : Origin} {s : State} {l : Nat} {h : PktHdr} {rows : List RowReq} (h0 : Kept z0 s) :
    Kept z0 (serveRows s l h rows) := by
  unfold serveRows
  try dsimp only
  repeat' first
    | with_reducible assumption | with_reducible exact Kept.refl _ _ | with_reducible apply serveRow_kept
    | with_reducible apply violation_kept | with_reducible apply sendPkt_kept | with_reducible apply Kept.ite
    | (with_reducible apply Kept.foldl; intro _ _ _; try dsimp only)
    | (with_reducible apply Kept.foldl1; intro _ _ _; try dsimp only) | split

theorem serveGo_kept {z0 : Origin} {s : State} (h0 : Kept z0 s) :
    Kept z0 (serveGo s) := by
  unfold serveGo
  try dsimp only
  repeat' first
    | with_reducible assumption | with_reducible exact Kept.refl _ _ | with_reducible apply serveRows_kept
    | with_reducible apply payAll_kept | with_reducible apply Kept.ite
    | (with_reducible apply Kept.foldl; intro _ _ _; try dsimp only)
    | (with_reducible apply Kept.foldl1; intro _ _ _; try dsimp only) | split
    | (fail_if_no_progress with_reducible refine Kept.lit ?_)

theorem serveRead_kept {z0 : Origin} {s : State} {l : Nat} {h : PktHdr} {rows : List RowReq} (h0 : Kept z0 s) :
    TakenKept z0 (serveRead s l h rows) := by
  unfold serveRead
  try dsimp only
  repeat' first
    | with_reducible assumption | with_reducible exact Kept.refl _ _ | with_reducible apply serveGo_kept
    | with_reducible apply touchRange_kept | with_reducible apply belfryWake_kept | with_reducible apply TakenKept.hold
    | with_reducible apply TakenKept.accept | with_reducible apply TakenKept.drop
    | with_reducible apply TakenKept.answered | with_reducible apply Kept.ite
    | (with_reducible apply Kept.foldl; intro _ _ _; try dsimp only)
    | (with_reducible apply Kept.foldl1; intro _ _ _; try dsimp only) | split
    | (fail_if_no_progress with_reducible refine Kept.lit ?_)

theorem publishRefused_kept {z0 : Origin} {s : State} {o : Op} {chip : Nat} (h0 : Kept z0 s) :
    Kept z0 (publishRefused s o chip) := by
  unfold publishRefused
  try dsimp only
  repeat' first
    | with_reducible assumption | with_reducible exact Kept.refl _ _ | with_reducible apply opDone_kept
    | with_reducible apply raiseFault_kept | split

theorem takeReply_kept {z0 : Origin} {s : State} {l : Nat} {h : PktHdr} {rows : List RowReply} (h0 : Kept z0 s) :
    TakenKept z0 (takeReply s l h rows) := by
  unfold takeReply
  try dsimp only
  repeat' first
    | with_reducible assumption | with_reducible exact Kept.refl _ _ | with_reducible apply publishRefused_kept
    | with_reducible apply violation_kept | with_reducible apply opUpdate_kept | with_reducible apply regCount_kept
    | with_reducible apply TakenKept.hold | with_reducible apply TakenKept.accept | with_reducible apply TakenKept.drop
    | with_reducible apply TakenKept.answered | with_reducible apply Kept.ite | split
    | (fail_if_no_progress with_reducible refine Kept.lit ?_)

theorem takeWrite_kept {z0 : Origin} {s : State} {l : Nat} {h : PktHdr} {data : List Byte} (h0 : Kept z0 s) :
    TakenKept z0 (takeWrite s l h data) := by
  unfold takeWrite
  try dsimp only
  repeat' first
    | with_reducible assumption | with_reducible exact Kept.refl _ _ | with_reducible apply remoteWrite_kept
    | with_reducible apply landBytes_kept | with_reducible apply replicaTake_kept
    | (refine TakenKept.accept_of ?_ (by with_reducible assumption))
    | (refine TakenKept.drop_of ?_ (by with_reducible assumption))
    | (refine TakenKept.answered_of ?_ (by with_reducible assumption))
    | (refine TakenKept.hold_of ?_ (by with_reducible assumption)) | with_reducible apply TakenKept.hold
    | with_reducible apply TakenKept.accept | with_reducible apply TakenKept.drop
    | with_reducible apply TakenKept.answered | with_reducible apply Kept.ite | (with_reducible intro _; try dsimp only)
    | split

theorem takeAtomic_kept {z0 : Origin} {s : State} {l : Nat} {h : PktHdr} {sop value : Nat} (h0 : Kept z0 s) :
    TakenKept z0 (takeAtomic s l h sop value) := by
  unfold takeAtomic
  try dsimp only
  repeat' first
    | with_reducible assumption | with_reducible exact Kept.refl _ _ | with_reducible apply remoteWrite_kept
    | with_reducible apply landBytes_kept | with_reducible apply violation_kept
    | (refine TakenKept.accept_of ?_ (by with_reducible assumption))
    | (refine TakenKept.drop_of ?_ (by with_reducible assumption))
    | (refine TakenKept.answered_of ?_ (by with_reducible assumption))
    | (refine TakenKept.hold_of ?_ (by with_reducible assumption)) | with_reducible apply TakenKept.hold
    | with_reducible apply TakenKept.accept | with_reducible apply TakenKept.drop
    | with_reducible apply TakenKept.answered | with_reducible apply Kept.ite | (with_reducible intro _; try dsimp only)
    | split

theorem takeReduce_kept {z0 : Origin} {s : State} {l : Nat} {h : PktHdr} {b : ReduceBatch} (h0 : Kept z0 s) :
    TakenKept z0 (takeReduce s l h b) := by
  unfold takeReduce
  try dsimp only
  repeat' first
    | with_reducible assumption | with_reducible exact Kept.refl _ _ | with_reducible apply exchangeAdd_kept
    | with_reducible apply violation_kept | with_reducible apply TakenKept.hold | with_reducible apply TakenKept.accept
    | with_reducible apply TakenKept.drop | with_reducible apply TakenKept.answered | with_reducible apply Kept.ite
    | split

theorem takeColl_kept {z0 : Origin} {s : State} {l : Nat} {h : PktHdr} {kind : Nat} {c : CollHdr} {sums : List Int} (h0 : Kept z0 s) :
    TakenKept z0 (takeColl s l h kind c sums) := by
  unfold takeColl
  try dsimp only
  repeat' first
    | with_reducible assumption | with_reducible exact Kept.refl _ _ | with_reducible apply collRun_kept
    | with_reducible apply violation_kept | with_reducible apply TakenKept.hold | with_reducible apply TakenKept.accept
    | with_reducible apply TakenKept.drop | with_reducible apply TakenKept.answered | with_reducible apply Kept.ite
    | split

theorem takePublication_kept {z0 : Origin} {s : State} {l : Nat} {h : PktHdr} {slice step size off : Nat} {data : List Byte} (h0 : Kept z0 s) :
    TakenKept z0 (takePublication s l h slice step size off data) := by
  unfold takePublication
  try dsimp only
  repeat' first
    | with_reducible assumption | with_reducible exact Kept.refl _ _ | with_reducible apply landBytes_kept
    | with_reducible apply claimSlot_kept | with_reducible apply violation_kept | with_reducible apply sendPkt_kept
    | with_reducible apply payNow_kept | with_reducible apply touchRange_kept
    | (refine KeptOpt.of ?_ (by with_reducible assumption)) | with_reducible apply TakenKept.hold
    | with_reducible apply TakenKept.accept | with_reducible apply TakenKept.drop
    | with_reducible apply TakenKept.answered | with_reducible apply Kept.ite | with_reducible apply KeptOpt.getD
    | (with_reducible intro _; try dsimp only) | split

theorem takeMgmt_kept {z0 : Origin} {s : State} {l : Nat} {h : PktHdr} {m : MgmtMsg} (h0 : Kept z0 s) :
    TakenKept z0 (takeMgmt s l h m) := by
  unfold takeMgmt
  try dsimp only
  repeat' first
    | with_reducible assumption | with_reducible exact Kept.refl _ _ | with_reducible apply writeReg_kept
    | with_reducible apply violation_kept | with_reducible apply sendPkt_kept | with_reducible apply TakenKept.hold
    | with_reducible apply TakenKept.accept | with_reducible apply TakenKept.drop
    | with_reducible apply TakenKept.answered | with_reducible apply Kept.ite | split

theorem takeMgmtReply_kept {z0 : Origin} {s : State} {l : Nat} {h : PktHdr} (h0 : Kept z0 s) :
    TakenKept z0 (takeMgmtReply s l h) := by
  unfold takeMgmtReply
  try dsimp only
  repeat' first
    | with_reducible assumption | with_reducible exact Kept.refl _ _ | with_reducible apply violation_kept
    | with_reducible apply TakenKept.hold | with_reducible apply TakenKept.accept | with_reducible apply TakenKept.drop
    | with_reducible apply TakenKept.answered | with_reducible apply Kept.ite | split
    | (fail_if_no_progress with_reducible refine Kept.lit ?_)

theorem takePhase_kept {z0 : Origin} {s : State} {h : PktHdr} {rec : List Byte} (h0 : Kept z0 s) :
    TakenKept z0 (takePhase s h rec) := by
  unfold takePhase
  try dsimp only
  repeat' first
    | with_reducible assumption | with_reducible exact Kept.refl _ _ | with_reducible apply devWrite_kept
    | with_reducible apply regCount_kept | with_reducible apply TakenKept.hold | with_reducible apply TakenKept.accept
    | with_reducible apply TakenKept.drop | with_reducible apply TakenKept.answered | with_reducible apply Kept.ite
    | split

theorem takeBulk_kept {z0 : Origin} {s : State} {l : Nat} {h : PktHdr} {p : Payload} (h0 : Kept z0 s) :
    TakenKept z0 (takeBulk s l h p) := by
  unfold takeBulk
  try dsimp only
  repeat' first
    | with_reducible assumption | with_reducible exact Kept.refl _ _ | with_reducible apply takePublication_kept
    | with_reducible apply takeColl_kept | with_reducible apply takeReduce_kept | with_reducible apply takeAtomic_kept
    | with_reducible apply takeWrite_kept | with_reducible apply takeReply_kept | with_reducible apply serveRead_kept
    | with_reducible apply takeE2eAck_kept | with_reducible apply voteArrive_kept | with_reducible apply violation_kept
    | (refine TakenKept.accept_of ?_ (by with_reducible assumption))
    | (refine TakenKept.drop_of ?_ (by with_reducible assumption))
    | (refine TakenKept.answered_of ?_ (by with_reducible assumption))
    | (refine TakenKept.hold_of ?_ (by with_reducible assumption)) | with_reducible apply TakenKept.hold
    | with_reducible apply TakenKept.accept | with_reducible apply TakenKept.drop
    | with_reducible apply TakenKept.answered | split

theorem takeNumbered_kept {z0 : Origin} {s : State} {l : Nat} {h : PktHdr} {p : Payload} (h0 : Kept z0 s) :
    TakenKept z0 (takeNumbered s l h p) := by
  unfold takeNumbered
  try dsimp only
  repeat' first
    | with_reducible assumption | with_reducible exact Kept.refl _ _ | with_reducible apply takeBulk_kept
    | with_reducible apply takePack_kept | with_reducible apply markGot_kept | with_reducible apply violation_kept
    | with_reducible apply flowFull_kept | with_reducible apply openFlow_kept | with_reducible apply flowUpdate_kept
    | (refine KeptOpt.of ?_ (by with_reducible assumption))
    | (refine TakenKept.accept_of ?_ (by with_reducible assumption))
    | (refine TakenKept.drop_of ?_ (by with_reducible assumption))
    | (refine TakenKept.answered_of ?_ (by with_reducible assumption))
    | (refine TakenKept.hold_of ?_ (by with_reducible assumption)) | with_reducible apply TakenKept.hold
    | with_reducible apply TakenKept.accept | with_reducible apply TakenKept.drop
    | with_reducible apply TakenKept.answered | with_reducible apply Kept.ite | split
    | (fail_if_no_progress with_reducible refine Kept.lit ?_)

theorem takePacket_kept {z0 : Origin} {s : State} {l : Nat} {h : PktHdr} {p : Payload} (h0 : Kept z0 s) :
    TakenKept z0 (takePacket s l h p) := by
  unfold takePacket
  try dsimp only
  repeat' first
    | with_reducible assumption | with_reducible exact Kept.refl _ _ | with_reducible apply takeNumbered_kept
    | with_reducible apply takePhase_kept | with_reducible apply takeMgmtReply_kept | with_reducible apply takeMgmt_kept
    | with_reducible apply timeArrive_kept | with_reducible apply helloArrive_kept | with_reducible apply violation_kept
    | (refine TakenKept.accept_of ?_ (by with_reducible assumption))
    | (refine TakenKept.drop_of ?_ (by with_reducible assumption))
    | (refine TakenKept.answered_of ?_ (by with_reducible assumption))
    | (refine TakenKept.hold_of ?_ (by with_reducible assumption)) | with_reducible apply TakenKept.hold
    | with_reducible apply TakenKept.accept | with_reducible apply TakenKept.drop
    | with_reducible apply TakenKept.answered | split

theorem takeArrived_kept {z0 : Origin} {s : State} {l : Nat} {h : PktHdr} (h0 : Kept z0 s) :
    Kept z0 (takeArrived s l h) := by
  unfold takeArrived
  try dsimp only
  repeat' first
    | with_reducible assumption | with_reducible exact Kept.refl _ _ | with_reducible apply linkUpdate_kept
    | with_reducible apply Kept.ite | with_reducible apply KeptOpt.getD | split
    | (fail_if_no_progress with_reducible refine Kept.lit ?_)

theorem passOn_kept {z0 : Origin} {s : State} {l : Nat} {h : PktHdr} {p : Payload} (h0 : Kept z0 s) :
    Kept z0 (passOn s l h p) := by
  unfold passOn
  try dsimp only
  repeat' first
    | with_reducible assumption | with_reducible exact Kept.refl _ _ | with_reducible apply routeOut_kept | split
    | (fail_if_no_progress with_reducible refine Kept.lit ?_)

theorem landed_kept {z0 : Origin} {s : State} {l : Nat} {h : PktHdr} {p : Payload} (h0 : Kept z0 s) :
    TakenKept z0 (landed s l h p) := by
  unfold landed
  try dsimp only
  repeat' first
    | with_reducible assumption | with_reducible exact Kept.refl _ _ | with_reducible apply takePacket_kept
    | with_reducible apply countDrop_kept | (refine TakenKept.accept_of ?_ (by with_reducible assumption))
    | (refine TakenKept.drop_of ?_ (by with_reducible assumption))
    | (refine TakenKept.answered_of ?_ (by with_reducible assumption))
    | (refine TakenKept.hold_of ?_ (by with_reducible assumption)) | with_reducible apply TakenKept.hold
    | with_reducible apply TakenKept.accept | with_reducible apply TakenKept.drop
    | with_reducible apply TakenKept.answered | with_reducible apply Kept.ite | split

theorem routePacket_kept {z0 : Origin} {s : State} {l : Nat} {h : PktHdr} {p : Payload} (h0 : Kept z0 s) :
    TakenKept z0 (routePacket s l h p) := by
  unfold routePacket
  try dsimp only
  repeat' first
    | with_reducible assumption | with_reducible exact Kept.refl _ _ | with_reducible apply landed_kept
    | with_reducible apply passOn_kept | with_reducible apply takePacket_kept | with_reducible apply violation_kept
    | with_reducible apply countDrop_kept | (refine TakenKept.accept_of ?_ (by with_reducible assumption))
    | (refine TakenKept.drop_of ?_ (by with_reducible assumption))
    | (refine TakenKept.answered_of ?_ (by with_reducible assumption))
    | (refine TakenKept.hold_of ?_ (by with_reducible assumption)) | with_reducible apply TakenKept.hold
    | with_reducible apply TakenKept.accept | with_reducible apply TakenKept.drop
    | with_reducible apply TakenKept.answered | with_reducible apply Kept.ite | split

theorem takeOwn_kept {z0 : Origin} {s : State} {p : Packet} (h0 : Kept z0 s) :
    TakenKept z0 (takeOwn s p) := by
  unfold takeOwn
  try dsimp only
  repeat' first
    | with_reducible assumption | with_reducible exact Kept.refl _ _ | with_reducible apply takePacket_kept
    | with_reducible apply takeBulk_kept | with_reducible apply violation_kept
    | (refine TakenKept.accept_of ?_ (by with_reducible assumption))
    | (refine TakenKept.drop_of ?_ (by with_reducible assumption))
    | (refine TakenKept.answered_of ?_ (by with_reducible assumption))
    | (refine TakenKept.hold_of ?_ (by with_reducible assumption)) | with_reducible apply TakenKept.hold
    | with_reducible apply TakenKept.accept | with_reducible apply TakenKept.drop
    | with_reducible apply TakenKept.answered | with_reducible apply Kept.ite | split

theorem drainLoop_kept {r : Origin} : ∀ {n : Nat} {s : State}, Kept r s → Kept r (drainLoop n s)
  | 0, _, h => h
  | n + 1, s, h => by
    unfold drainLoop
    cases s.fab.loop with
    | nil => exact h | cons p rest =>
      have hk : TakenKept r (takeOwn { s with fab := { s.fab with loop := rest } } p) := takeOwn_kept h.lit
      dsimp only
      revert hk
      generalize takeOwn _ p = w
      intro hk
      cases w with
      | accept t => exact drainLoop_kept hk
      | drop t => exact drainLoop_kept hk
      | answered t _ => exact drainLoop_kept hk
      | hold t => exact drainLoop_kept (Kept.lit hk)

theorem takeLoop_kept {z0 : Origin} {s : State} (h0 : Kept z0 s) :
    Kept z0 (takeLoop s) := by
  unfold takeLoop
  try dsimp only
  repeat' first
    | with_reducible assumption | with_reducible exact Kept.refl _ _ | with_reducible apply drainLoop_kept
    | with_reducible apply settle_kept | with_reducible apply Kept.ite | (with_reducible intro _; try dsimp only)
    | split

theorem packetIn_kept {z0 : Origin} {s : State} {l : Nat} {h : PktHdr} {p : Payload} (h0 : Kept z0 s) :
    Kept z0 (packetIn s l h p) := by
  have hk : TakenKept z0 (routePacket (takeArrived s l h) l h p) := routePacket_kept (takeArrived_kept h0)
  unfold packetIn
  dsimp only
  split
  · revert hk
    generalize routePacket (takeArrived s l h) l h p = w
    intro hk
    cases w with
    | accept t => exact takeLoop_kept (settle_kept hk) | drop t => exact takeLoop_kept (settle_kept hk)
    | answered t n => exact takeLoop_kept (settle_kept hk) | hold t =>
      have k : Kept z0 t := hk
      exact { pending := k.pending, draws := k.draws, fin := k.fin, mem := k.mem, host := k.host, regs := k.regs,
              log := k.log, sealed := k.sealed, hif := k.hif, dome := k.dome, fab := h0.fab, mif := k.mif,
              chime := k.chime, strap := k.strap }
  · exact Kept.ite (violation_kept h0) h0

theorem collIn_kept {z0 : Origin} {s : State} {l : Nat} {h : PktHdr} {kind : Nat} {c : CollHdr} {sums : List Int} (h0 : Kept z0 s) :
    Kept z0 (collIn s l h kind c sums) := by
  unfold collIn
  try dsimp only
  repeat' first
    | with_reducible assumption | with_reducible exact Kept.refl _ _ | with_reducible apply packetIn_kept
    | (with_reducible intro _; try dsimp only) | split

/-! ### Steps -/

theorem updateGo_kept {z0 : Origin} {s : State} {stream : Nat} (h0 : Kept z0 s) :
    Kept z0 (updateGo s stream) := by
  unfold updateGo
  try dsimp only
  repeat' first
    | with_reducible assumption | with_reducible exact Kept.refl _ _ | with_reducible apply settle_kept
    | with_reducible apply updateRun_kept | with_reducible apply Kept.ite | split

theorem watchLayer_kept {z0 : Origin} {s : State} {step layer : Nat} (h0 : Kept z0 s) :
    Kept z0 (watchLayer s step layer) := by
  unfold watchLayer
  try dsimp only
  repeat' first
    | with_reducible assumption | with_reducible exact Kept.refl _ _ | with_reducible apply devWrite_kept
    | with_reducible apply deviceEvent_kept | with_reducible apply Kept.ite | split

theorem watchAll_kept {z0 : Origin} {s : State} {t : StepTel} (h0 : Kept z0 s) :
    Kept z0 (watchAll s t) := by
  unfold watchAll
  try dsimp only
  repeat' first
    | with_reducible assumption | with_reducible exact Kept.refl _ _ | with_reducible apply watchLayer_kept
    | with_reducible apply Kept.ite | (with_reducible apply Kept.foldl; intro _ _ _; try dsimp only)
    | (with_reducible apply Kept.foldl1; intro _ _ _; try dsimp only) | split

theorem phaseSend_kept {z0 : Origin} {s : State} {rec : List Byte} (h0 : Kept z0 s) :
    Kept z0 (phaseSend s rec) := by
  unfold phaseSend
  try dsimp only
  repeat' first
    | with_reducible assumption | with_reducible exact Kept.refl _ _ | with_reducible apply takeLoop_kept
    | with_reducible apply sendPkt_kept | with_reducible apply regCount_kept | with_reducible apply Kept.ite | split

theorem baseCompare_kept {z0 : Origin} {s : State} {t : StepTel} (h0 : Kept z0 s) :
    Kept z0 (baseCompare s t) := by
  unfold baseCompare
  try dsimp only
  repeat' first
    | with_reducible assumption | with_reducible exact Kept.refl _ _ | with_reducible apply testBaseline_kept
    | with_reducible apply deviceEvent_kept | with_reducible apply regCount_kept | with_reducible apply Kept.ite | split

theorem stepClose_kept {z0 : Origin} {s : State} {step : Nat} (h0 : Kept z0 s) :
    Kept z0 (stepClose s step) := by
  unfold stepClose
  try dsimp only
  repeat' first
    | with_reducible assumption | with_reducible exact Kept.refl _ _ | with_reducible apply baseCompare_kept
    | with_reducible apply phaseSend_kept | with_reducible apply watchAll_kept | with_reducible apply devWrite_kept
    | with_reducible apply deviceEvent_kept | with_reducible apply regPut_kept | with_reducible apply Kept.ite | split
    | (fail_if_no_progress with_reducible refine Kept.lit ?_)

theorem phaseTick_kept {z0 : Origin} {s : State} (h0 : Kept z0 s) :
    Kept z0 (phaseTick s) := by
  unfold phaseTick
  try dsimp only
  repeat' first
    | with_reducible assumption | with_reducible exact Kept.refl _ _ | split
    | (fail_if_no_progress with_reducible refine Kept.lit ?_)

theorem timePasses_kept {z0 : Origin} {s : State} (h0 : Kept z0 s) :
    Kept z0 (timePasses s) := by
  unfold timePasses
  try dsimp only
  repeat' first
    | with_reducible assumption | with_reducible exact Kept.refl _ _ | with_reducible apply timeTick_kept
    | with_reducible apply chmLatch_kept | with_reducible apply Kept.ite | split

theorem tick_kept {z0 : Origin} {s : State} (h0 : Kept z0 s) :
    Kept z0 (tick s) := by
  unfold tick
  try dsimp only
  repeat' first
    | with_reducible assumption | with_reducible exact Kept.refl _ _ | with_reducible apply timePasses_kept
    | with_reducible apply phaseTick_kept | with_reducible apply takeLoop_kept | with_reducible apply chimeNote_kept
    | with_reducible apply Kept.ite | split

/-! ### Monitor -/

theorem wamosEnd_kept {z0 : Origin} {s : State} {st : Status} (h0 : Kept z0 s) :
    Kept z0 (wamosEnd s st) := by
  unfold wamosEnd
  try dsimp only
  repeat' first
    | with_reducible assumption | with_reducible exact Kept.refl _ _ | with_reducible apply sayLine_kept
    | with_reducible apply Kept.ite | split

theorem wamosLines_kept {z0 : Origin} {s : State} {ls : List String} (h0 : Kept z0 s) :
    Kept z0 (wamosLines s ls) := by
  unfold wamosLines
  try dsimp only
  repeat' first
    | with_reducible assumption | with_reducible exact Kept.refl _ _ | with_reducible apply wamosEnd_kept
    | with_reducible apply sayLine_kept | (with_reducible apply Kept.foldl; intro _ _ _; try dsimp only)
    | (with_reducible apply Kept.foldl1; intro _ _ _; try dsimp only) | split

theorem whenOpen_kept {z0 : Origin} {s : State} {k : State → State} (h0 : Kept z0 s) (k_k : ∀ x0, Kept z0 x0 → Kept z0 (k x0)) :
    Kept z0 (whenOpen s k) := by
  unfold whenOpen
  try dsimp only
  repeat' first
    | with_reducible apply k_k | with_reducible assumption | with_reducible exact Kept.refl _ _
    | with_reducible apply wamosEnd_kept | with_reducible apply Kept.ite | split

theorem withScope_kept {z0 : Origin} {s : State} {bitNo : Nat} {k : State → State} (h0 : Kept z0 s) (k_k : ∀ x0, Kept z0 x0 → Kept z0 (k x0)) :
    Kept z0 (withScope s bitNo k) := by
  unfold withScope
  try dsimp only
  repeat' first
    | with_reducible apply k_k | with_reducible assumption | with_reducible exact Kept.refl _ _
    | with_reducible apply whenOpen_kept | with_reducible apply wamosEnd_kept | with_reducible apply Kept.ite
    | (with_reducible intro _; try dsimp only) | split

theorem wamosHelp_kept {z0 : Origin} {s : State} (h0 : Kept z0 s) :
    Kept z0 (wamosHelp s) := by
  unfold wamosHelp
  try dsimp only
  repeat' first
    | with_reducible assumption | with_reducible exact Kept.refl _ _ | with_reducible apply wamosLines_kept
    | with_reducible apply Kept.ite | split

theorem wamosId_kept {z0 : Origin} {s : State} (h0 : Kept z0 s) :
    Kept z0 (wamosId s) := by
  unfold wamosId
  try dsimp only
  repeat' first
    | with_reducible assumption | with_reducible exact Kept.refl _ _ | with_reducible apply wamosLines_kept
    | with_reducible apply Kept.ite | split

theorem wamosRead_kept {z0 : Origin} {s : State} {off n : Nat} (h0 : Kept z0 s) :
    Kept z0 (wamosRead s off n) := by
  unfold wamosRead
  try dsimp only
  repeat' first
    | with_reducible assumption | with_reducible exact Kept.refl _ _ | with_reducible apply wamosLines_kept
    | with_reducible apply wamosEnd_kept | with_reducible apply Kept.ite | split

theorem wamosLogs_kept {z0 : Origin} {s : State} {n : Nat} (h0 : Kept z0 s) :
    Kept z0 (wamosLogs s n) := by
  unfold wamosLogs
  try dsimp only
  repeat' first
    | with_reducible assumption | with_reducible exact Kept.refl _ _ | with_reducible apply wamosLines_kept
    | with_reducible apply wamosEnd_kept | with_reducible apply Kept.ite | split

theorem wamosCounters_kept {z0 : Origin} {s : State} (h0 : Kept z0 s) :
    Kept z0 (wamosCounters s) := by
  unfold wamosCounters
  try dsimp only
  repeat' first
    | with_reducible assumption | with_reducible exact Kept.refl _ _ | with_reducible apply wamosLines_kept
    | with_reducible apply Kept.ite | split

theorem wamosChallenge_kept {z0 : Origin} {s : State} (h0 : Kept z0 s) :
    Kept z0 (wamosChallenge s) := by
  unfold wamosChallenge
  try dsimp only
  repeat' first
    | with_reducible assumption | with_reducible exact Kept.refl _ _ | with_reducible apply whenOpen_kept
    | with_reducible apply wamosLines_kept | with_reducible apply drawBytes_kept
    | (with_reducible intro _; try dsimp only) | split | (fail_if_no_progress with_reducible refine Kept.lit ?_)

theorem challengeSpent_kept {z0 : Origin} {s : State} (h0 : Kept z0 s) :
    Kept z0 (challengeSpent s) := by
  unfold challengeSpent
  try dsimp only
  repeat' first
    | with_reducible assumption | with_reducible exact Kept.refl _ _ | split
    | (fail_if_no_progress with_reducible refine Kept.lit ?_)

theorem tokenFail_kept {z0 : Origin} {s : State} (h0 : Kept z0 s) :
    Kept z0 (tokenFail s) := by
  unfold tokenFail
  try dsimp only
  repeat' first
    | with_reducible assumption | with_reducible exact Kept.refl _ _ | with_reducible apply wamosEnd_kept
    | with_reducible apply Kept.ite | split | (fail_if_no_progress with_reducible refine Kept.lit ?_)

theorem wamosUnlock_kept {z0 : Origin} {s : State} {token : List Byte} (h0 : Kept z0 s) :
    Kept z0 (wamosUnlock s token) := by
  unfold wamosUnlock
  try dsimp only
  repeat' first
    | with_reducible assumption | with_reducible exact Kept.refl _ _ | with_reducible apply tokenFail_kept
    | with_reducible apply challengeSpent_kept | with_reducible apply whenOpen_kept | with_reducible apply wamosEnd_kept
    | with_reducible apply Kept.ite | (with_reducible intro _; try dsimp only) | split
    | (fail_if_no_progress with_reducible refine Kept.lit ?_)

theorem wamosLock_kept {z0 : Origin} {s : State} (h0 : Kept z0 s) :
    Kept z0 (wamosLock s) := by
  unfold wamosLock
  try dsimp only
  repeat' first
    | with_reducible assumption | with_reducible exact Kept.refl _ _ | with_reducible apply whenOpen_kept
    | with_reducible apply wamosEnd_kept | (with_reducible intro _; try dsimp only) | split
    | (fail_if_no_progress with_reducible refine Kept.lit ?_)

theorem wamosWrite_kept {z0 : Origin} {s : State} {off : Nat} {v : Word} (h0 : Kept z0 s) :
    Kept z0 (wamosWrite s off v) := by
  unfold wamosWrite
  try dsimp only
  repeat' first
    | with_reducible assumption | with_reducible exact Kept.refl _ _ | with_reducible apply withScope_kept
    | with_reducible apply wamosEnd_kept | with_reducible apply writeReg_kept | with_reducible apply Kept.ite
    | (with_reducible intro _; try dsimp only) | split

theorem wamosBaud_kept {z0 : Origin} {s : State} {rate : Nat} (h0 : Kept z0 s) :
    Kept z0 (wamosBaud s rate) := by
  unfold wamosBaud
  try dsimp only
  repeat' first
    | with_reducible assumption | with_reducible exact Kept.refl _ _ | with_reducible apply withScope_kept
    | with_reducible apply wamosEnd_kept | with_reducible apply regSet_kept | with_reducible apply Kept.ite
    | (with_reducible intro _; try dsimp only) | split

theorem wamosRepairs_kept {z0 : Origin} {s : State} (h0 : Kept z0 s) :
    Kept z0 (wamosRepairs s) := by
  unfold wamosRepairs
  try dsimp only
  repeat' first
    | with_reducible assumption | with_reducible exact Kept.refl _ _ | with_reducible apply whenOpen_kept
    | with_reducible apply wamosLines_kept | (with_reducible intro _; try dsimp only) | split

theorem wamosRepairDel_kept {z0 : Origin} {s : State} {i : Nat} (h0 : Kept z0 s) :
    Kept z0 (wamosRepairDel s i) := by
  unfold wamosRepairDel
  try dsimp only
  repeat' first
    | with_reducible assumption | with_reducible exact Kept.refl _ _ | with_reducible apply withScope_kept
    | with_reducible apply wamosEnd_kept | with_reducible apply Kept.ite | (with_reducible intro _; try dsimp only)
    | split | (fail_if_no_progress with_reducible refine Kept.lit ?_)

theorem wamosResetChip_kept {z0 : Origin} {s : State} (h0 : Kept z0 s) :
    Kept z0 (wamosResetChip s) := by
  unfold wamosResetChip
  try dsimp only
  repeat' first
    | with_reducible assumption | with_reducible exact Kept.refl _ _ | with_reducible apply withScope_kept
    | with_reducible apply wamosEnd_kept | with_reducible apply chipReset_kept
    | (with_reducible intro _; try dsimp only) | split

theorem wamosResetCompute_kept {z0 : Origin} {s : State} (h0 : Kept z0 s) :
    Kept z0 (wamosResetCompute s) := by
  unfold wamosResetCompute
  try dsimp only
  repeat' first
    | with_reducible assumption | with_reducible exact Kept.refl _ _ | with_reducible apply withScope_kept
    | with_reducible apply wamosEnd_kept | with_reducible apply computeReset_kept
    | (with_reducible intro _; try dsimp only) | split

theorem wamosRefuse_kept {z0 : Origin} {s : State} (h0 : Kept z0 s) :
    Kept z0 (wamosRefuse s) := by
  unfold wamosRefuse
  try dsimp only
  repeat' first
    | with_reducible assumption | with_reducible exact Kept.refl _ _ | with_reducible apply wamosEnd_kept
    | with_reducible apply drawFree_kept | with_reducible apply KeptOpt.getD | split

theorem lcBegin_kept {z0 : Origin} {s : State} {target : Nat} (hl : s.fin.lc < target) (ht : target ≤ 3) (h0 : Kept z0 s) :
    Kept z0 (lcBegin s target) := by
  unfold lcBegin
  exact h0.lit (hf := ⟨rfl, rfl, Nat.le_refl _, Nat.le_refl _, fun h => h, fun _ =>
    ⟨by simp only [lifecycleOk, Bool.and_eq_true, decide_eq_true_eq]; omega, Nat.le_refl _⟩, fun h => h, fun h => h⟩)

theorem wamosLc_kept {z0 : Origin} {s : State} {target : Nat} {token : Option (List Byte)} (h0 : Kept z0 s) :
    Kept z0 (wamosLc s target token) := by
  unfold wamosLc
  apply whenOpen_kept h0
  intro t h
  split
  · exact wamosEnd_kept h
  · rename_i hgo
    have hl : t.fin.lc < target := by
      have := Nat.le_max_left t.fin.lc (t.fin.lcBurn.getD 0)
      omega
    have ht : target ≤ 3 := by omega
    split
    · exact wamosEnd_kept h
    · split
      · exact Kept.ite (wamosRefuse_kept h) (lcBegin_kept hl ht h)
      · split
        · split
          · exact Kept.ite (lcBegin_kept hl ht (challengeSpent_kept h)) (wamosEnd_kept (challengeSpent_kept h))
          · exact tokenFail_kept (challengeSpent_kept h)
        · exact Kept.ite (lcBegin_kept hl ht h) (wamosEnd_kept h)

theorem lcBurned_kept {z0 : Origin} {s : State} (h0 : Kept z0 s) : Kept z0 (lcBurned s) := by
  unfold lcBurned
  split
  · exact wamosEnd_kept (h0.lit (hf := ⟨rfl, rfl, Nat.le_refl _, Nat.le_refl _, fun h => by simp [h],
      fun h => ⟨h, Nat.le_refl _⟩, fun h => h, fun h => h⟩))
  · exact h0

theorem wamosBad_kept {z0 : Origin} {s : State} (h0 : Kept z0 s) :
    Kept z0 (wamosBad s) := by
  unfold wamosBad
  try dsimp only
  repeat' first
    | with_reducible assumption | with_reducible exact Kept.refl _ _ | with_reducible apply whenOpen_kept
    | with_reducible apply wamosEnd_kept | (with_reducible intro _; try dsimp only) | split

theorem typedLine_kept {z0 : Origin} {s : State} {line : List Byte} (h0 : Kept z0 s) :
    Kept z0 (typedLine s line) := by
  unfold typedLine
  try dsimp only
  repeat' first
    | with_reducible assumption | with_reducible exact Kept.refl _ _ | with_reducible apply wamosBad_kept
    | with_reducible apply wamosLc_kept | with_reducible apply wamosResetCompute_kept
    | with_reducible apply wamosResetChip_kept | with_reducible apply wamosRepairDel_kept
    | with_reducible apply wamosRepairs_kept | with_reducible apply wamosBaud_kept
    | with_reducible apply wamosWrite_kept | with_reducible apply wamosLock_kept | with_reducible apply wamosUnlock_kept
    | with_reducible apply wamosChallenge_kept | with_reducible apply wamosCounters_kept
    | with_reducible apply wamosLogs_kept | with_reducible apply wamosRead_kept | with_reducible apply wamosId_kept
    | with_reducible apply wamosHelp_kept | with_reducible apply withScope_kept | with_reducible apply wamosEnd_kept
    | with_reducible apply Kept.ite | (with_reducible intro _; try dsimp only) | split

theorem monCharacter_kept {z0 : Origin} {s : State} {c : Byte} (h0 : Kept z0 s) :
    Kept z0 (monCharacter s c) := by
  unfold monCharacter
  try dsimp only
  repeat' first
    | with_reducible assumption | with_reducible exact Kept.refl _ _ | with_reducible apply typedLine_kept
    | with_reducible apply wamosBad_kept | with_reducible apply Kept.ite | split
    | (fail_if_no_progress with_reducible refine Kept.lit ?_)

/-! ### Period -/

theorem periodGo_kept {z0 : Origin} {s : State} (h0 : Kept z0 s) :
    Kept z0 (periodGo s) := by
  unfold periodGo
  try dsimp only
  repeat' first
    | with_reducible assumption | with_reducible exact Kept.refl _ _ | with_reducible apply serveGo_kept
    | with_reducible apply payOwed_kept | with_reducible apply tickWrite_kept | with_reducible apply retryHeld_kept
    | with_reducible apply payOps_kept | (with_reducible apply Kept.foldl; intro _ _ _; try dsimp only)
    | (with_reducible apply Kept.foldl1; intro _ _ _; try dsimp only) | (with_reducible intro _; try dsimp only) | split
    | (fail_if_no_progress with_reducible refine Kept.lit ?_)

theorem chimePeriod_kept {z0 : Origin} {s : State} {sensors : List (Option Int)} {watts : Nat} (h0 : Kept z0 s) :
    Kept z0 (chimePeriod s sensors watts) := by
  unfold chimePeriod
  try dsimp only
  repeat' first
    | with_reducible assumption | with_reducible exact Kept.refl _ _ | with_reducible apply periodGo_kept
    | with_reducible apply takeLoop_kept | with_reducible apply periodEnd_kept | with_reducible apply grantAll_kept
    | with_reducible apply settle_kept | with_reducible apply testWaits_kept | with_reducible apply Kept.ite | split
    | (fail_if_no_progress with_reducible refine Kept.lit ?_)

/-! ### Pins -/

theorem smbAnswer_kept {z0 : Origin} {s : State} {a : Option (List Byte)} (h0 : Kept z0 s) :
    Kept z0 (smbAnswer s a) := by
  unfold smbAnswer
  try dsimp only
  repeat' first
    | with_reducible assumption | with_reducible exact Kept.refl _ _ | with_reducible apply Kept.ite | split
    | (fail_if_no_progress with_reducible refine Kept.lit ?_)

theorem smbFault_kept {z0 : Origin} {s : State} (h0 : Kept z0 s) :
    Kept z0 (smbFault s) := by
  unfold smbFault
  try dsimp only
  repeat' first
    | with_reducible assumption | with_reducible exact Kept.refl _ _ | with_reducible apply smbAnswer_kept
    | with_reducible apply Kept.ite | split | (fail_if_no_progress with_reducible refine Kept.lit ?_)

theorem pinsBack_kept {z0 : Origin} {s : State} (h0 : Kept z0 s) :
    Kept z0 (pinsBack s) := by
  unfold pinsBack
  try dsimp only
  repeat' first
    | with_reducible assumption | with_reducible exact Kept.refl _ _ | with_reducible apply chipReset_kept
    | with_reducible apply Kept.ite | split | (fail_if_no_progress with_reducible refine Kept.lit ?_)

theorem irLoad_kept {z0 : Origin} {s : State} {code : Nat} (h0 : Kept z0 s) :
    Kept z0 (irLoad s code) := by
  unfold irLoad
  try dsimp only
  repeat' first
    | with_reducible assumption | with_reducible exact Kept.refl _ _ | split
    | (fail_if_no_progress with_reducible refine Kept.lit ?_)

theorem takePins_kept {z0 : Origin} {s : State} (h0 : Kept z0 s) :
    Kept z0 (takePins s) := by
  unfold takePins
  try dsimp only
  repeat' first
    | with_reducible assumption | with_reducible exact Kept.refl _ _ | with_reducible apply computeReset_kept
    | with_reducible apply linkTo_kept | with_reducible apply Kept.ite
    | (with_reducible apply Kept.foldl; intro _ _ _; try dsimp only)
    | (with_reducible apply Kept.foldl1; intro _ _ _; try dsimp only) | split
    | (fail_if_no_progress with_reducible refine Kept.lit ?_)

theorem pinInstr_kept {z0 : Origin} {s : State} {code : Nat} (h0 : Kept z0 s) :
    Kept z0 (pinInstr s code) := by
  unfold pinInstr
  try dsimp only
  repeat' first
    | with_reducible assumption | with_reducible exact Kept.refl _ _ | with_reducible apply takePins_kept
    | with_reducible apply irLoad_kept | with_reducible apply Kept.ite | split

theorem plainInstr_kept {z0 : Origin} {s : State} {code : Nat} {dr : Option Nat} (h0 : Kept z0 s) :
    Kept z0 (plainInstr s code dr) := by
  unfold plainInstr
  try dsimp only
  repeat' first
    | with_reducible assumption | with_reducible exact Kept.refl _ _ | with_reducible apply irLoad_kept
    | with_reducible apply pinsBack_kept | with_reducible apply Kept.ite | split
    | (fail_if_no_progress with_reducible refine Kept.lit ?_)

theorem samplePins_kept {z0 : Origin} {s : State} (h0 : Kept z0 s) :
    Kept z0 (samplePins s) := by
  unfold samplePins
  try dsimp only
  repeat' first
    | with_reducible assumption | with_reducible exact Kept.refl _ _ | with_reducible apply plainInstr_kept
    | with_reducible apply drawFree_kept | with_reducible apply Kept.ite | split
    | (fail_if_no_progress with_reducible refine Kept.lit ?_)

theorem scanTest_kept {z0 : Origin} {s : State} {code : Nat} (h0 : Kept z0 s) :
    Kept z0 (scanTest s code) := by
  unfold scanTest
  try dsimp only
  repeat' first
    | with_reducible assumption | with_reducible exact Kept.refl _ _ | with_reducible apply plainInstr_kept
    | with_reducible apply drawFree_kept | with_reducible apply Kept.ite | split

end Sys2Proof.Machine
end

