-- ==== Sys2Proof/Laws/KeptStep.lean ====
section
/-! SUPPORT. What every command and every step keeps (Laws/Kept). -/

set_option Elab.async false
set_option linter.unusedTactic false
set_option linter.unreachableTactic false

namespace Sys2Proof.Machine

/-- A command that answers a next state keeps what is kept. -/
theorem exec_kept {s : State} (c : Instr) : ∀ t, exec c s = .next t → Kept ⟨s, losesPower c⟩ t := by
  have h0 : ∀ {p : Bool}, Kept ⟨s, p⟩ s := Kept.refl s _
  intro t e
  cases c with
  | powerOnReset _ =>
    obtain rfl := Host.Outcome.next.inj e
    exact powerOn_kept h0
  | powerDownSequence =>
    obtain rfl := Host.Outcome.next.inj e
    exact powerDown_kept h0
  | chipReset =>
    obtain rfl := Host.Outcome.next.inj e
    exact chipReset_kept h0
  | hostReset =>
    obtain rfl := Host.Outcome.next.inj e
    exact hostReset_kept h0
  | perstDeassert =>
    obtain rfl := Host.Outcome.next.inj e
    exact perstRise_kept h0
  | pcieConfigRequest =>
    obtain rfl := Host.Outcome.next.inj e
    exact configRequest_kept h0
  | railEnable =>
    obtain rfl := Host.Outcome.next.inj e
    exact railEnable_kept h0
  | railPowerGoodTimeout =>
    obtain rfl := Host.Outcome.next.inj e
    exact railTimeout_kept h0
  | railPowerGoodLost _ _ =>
    obtain rfl := Host.Outcome.next.inj e
    exact railLost_kept h0
  | krefLost =>
    obtain rfl := Host.Outcome.next.inj e
    exact krefLost_kept h0
  | krefBootTimeout =>
    obtain rfl := Host.Outcome.next.inj e
    exact krefTimeout_kept h0
  | bootImageVerify _ _ =>
    obtain rfl := Host.Outcome.next.inj e
    exact imageVerify_kept h0
  | stageMemory =>
    obtain rfl := Host.Outcome.next.inj e
    exact stageMemory_kept h0
  | stageDome _ =>
    obtain rfl := Host.Outcome.next.inj e
    exact stageDome_kept h0
  | stageReady =>
    obtain rfl := Host.Outcome.next.inj e
    exact stageReady_kept h0
  | doorbellPoll _ =>
    obtain rfl := Host.Outcome.next.inj e
    exact poll_kept h0
  | descriptorFetch _ _ =>
    obtain rfl := Host.Outcome.next.inj e
    exact fetch_kept h0
  | copy _ _ _ =>
    obtain rfl := Host.Outcome.next.inj e
    exact opCommand_kept h0
  | fill _ _ _ =>
    obtain rfl := Host.Outcome.next.inj e
    exact opCommand_kept h0
  | gemm _ _ _ =>
    obtain rfl := Host.Outcome.next.inj e
    exact opCommand_kept h0
  | gemmSp _ _ _ =>
    obtain rfl := Host.Outcome.next.inj e
    exact opCommand_kept h0
  | gemmTall _ _ _ =>
    obtain rfl := Host.Outcome.next.inj e
    exact opCommand_kept h0
  | spspIntersect _ _ _ =>
    obtain rfl := Host.Outcome.next.inj e
    exact opCommand_kept h0
  | elem _ _ _ =>
    obtain rfl := Host.Outcome.next.inj e
    exact opCommand_kept h0
  | rowred _ _ _ =>
    obtain rfl := Host.Outcome.next.inj e
    exact opCommand_kept h0
  | sample _ _ _ =>
    obtain rfl := Host.Outcome.next.inj e
    exact opCommand_kept h0
  | gather _ _ _ =>
    obtain rfl := Host.Outcome.next.inj e
    exact opCommand_kept h0
  | scatter _ _ _ =>
    obtain rfl := Host.Outcome.next.inj e
    exact opCommand_kept h0
  | embBag _ _ _ =>
    obtain rfl := Host.Outcome.next.inj e
    exact opCommand_kept h0
  | embGrad _ _ _ =>
    obtain rfl := Host.Outcome.next.inj e
    exact opCommand_kept h0
  | reduceGrad _ _ _ =>
    obtain rfl := Host.Outcome.next.inj e
    exact opCommand_kept h0
  | paramPublish _ _ _ =>
    obtain rfl := Host.Outcome.next.inj e
    exact opCommand_kept h0
  | update _ _ _ =>
    obtain rfl := Host.Outcome.next.inj e
    exact opCommand_kept h0
  | txnBegin _ _ _ =>
    obtain rfl := Host.Outcome.next.inj e
    exact opCommand_kept h0
  | txnCommit _ _ =>
    obtain rfl := Host.Outcome.next.inj e
    exact opCommand_kept h0
  | txnAbort _ _ =>
    obtain rfl := Host.Outcome.next.inj e
    exact opCommand_kept h0
  | stepCommit _ _ _ =>
    obtain rfl := Host.Outcome.next.inj e
    exact opCommand_kept h0
  | wait _ _ _ =>
    obtain rfl := Host.Outcome.next.inj e
    exact opCommand_kept h0
  | signal _ _ _ =>
    obtain rfl := Host.Outcome.next.inj e
    exact opCommand_kept h0
  | timer _ _ _ =>
    obtain rfl := Host.Outcome.next.inj e
    exact opCommand_kept h0
  | ckptPush _ _ _ =>
    obtain rfl := Host.Outcome.next.inj e
    exact opCommand_kept h0
  | ckptPull _ _ _ =>
    obtain rfl := Host.Outcome.next.inj e
    exact opCommand_kept h0
  | assumeId _ _ _ =>
    obtain rfl := Host.Outcome.next.inj e
    exact opCommand_kept h0
  | nop _ _ =>
    obtain rfl := Host.Outcome.next.inj e
    exact opCommand_kept h0
  | timerExpiry _ =>
    obtain rfl := Host.Outcome.next.inj e
    exact timerFire_kept h0
  | limitExpiry _ _ =>
    obtain rfl := Host.Outcome.next.inj e
    exact limitExpire_kept h0
  | completion _ =>
    obtain rfl := Host.Outcome.next.inj e
    try dsimp only
    repeat' first
      | with_reducible exact h0 | with_reducible assumption | with_reducible apply completeOp_kept
      | with_reducible apply Kept.ite | split | (fail_if_no_progress with_reducible refine Kept.lit ?_)
  | heldCompletionWrite _ =>
    obtain rfl := Host.Outcome.next.inj e
    exact writeHeld_kept h0
  | interruptTimeTrigger _ =>
    obtain rfl := Host.Outcome.next.inj e
    exact irqTime_kept h0
  | msixUnmask _ =>
    obtain rfl := Host.Outcome.next.inj e
    exact unmask_kept h0
  | bar0BadAccess _ =>
    obtain rfl := Host.Outcome.next.inj e
    try dsimp only
    repeat' first
      | with_reducible exact h0 | with_reducible assumption | with_reducible apply Kept.ite | split
      | (fail_if_no_progress with_reducible refine Kept.lit ?_)
  | bar2Read _ _ =>
    obtain rfl := Host.Outcome.next.inj e
    try dsimp only
    repeat' first
      | with_reducible exact h0 | with_reducible assumption | with_reducible apply bar2Take_kept
      | with_reducible apply Kept.ite | split | (fail_if_no_progress with_reducible refine Kept.lit ?_)
  | bar2Write _ _ =>
    obtain rfl := Host.Outcome.next.inj e
    try dsimp only
    repeat' first
      | with_reducible exact h0 | with_reducible assumption | with_reducible apply bar2Take_kept
      | with_reducible apply Kept.ite | split | (fail_if_no_progress with_reducible refine Kept.lit ?_)
  | hostWindowCompletion _ _ _ =>
    obtain rfl := Host.Outcome.next.inj e
    try dsimp only
    repeat' first
      | with_reducible exact h0 | with_reducible assumption | with_reducible apply hostReadDone_kept
      | with_reducible apply hostReadFail_kept | with_reducible apply Kept.ite | split
      | (fail_if_no_progress with_reducible refine Kept.lit ?_)
  | pcieCompletionTimeout _ =>
    obtain rfl := Host.Outcome.next.inj e
    exact hostReadFail_kept h0
  | ringCfgWrite _ _ =>
    obtain rfl := Host.Outcome.next.inj e
    exact hostWrite_kept h0
  | eqCfgWrite _ _ =>
    obtain rfl := Host.Outcome.next.inj e
    exact hostWrite_kept h0
  | bar2ApertureWrite _ =>
    obtain rfl := Host.Outcome.next.inj e
    exact hostWrite_kept h0
  | domNumModeWrite _ =>
    obtain rfl := Host.Outcome.next.inj e
    exact hostWrite_kept h0
  | domOwnCfgWrite _ =>
    obtain rfl := Host.Outcome.next.inj e
    exact hostWrite_kept h0
  | ownTableWrite _ _ _ _ =>
    obtain rfl := Host.Outcome.next.inj e
    exact hostWrite_kept h0
  | domPlanCfgWrite _ =>
    obtain rfl := Host.Outcome.next.inj e
    exact hostWrite_kept h0
  | domEmbSketchWrite _ _ =>
    obtain rfl := Host.Outcome.next.inj e
    exact hostWrite_kept h0
  | domEmbDirBaseWrite _ =>
    obtain rfl := Host.Outcome.next.inj e
    exact hostWrite_kept h0
  | domVerCfgWrite _ _ =>
    obtain rfl := Host.Outcome.next.inj e
    try dsimp only
    repeat' first
      | with_reducible exact h0 | with_reducible assumption | with_reducible apply hostWrite_kept
      | with_reducible apply Kept.ite | split | (fail_if_no_progress with_reducible refine Kept.lit ?_)
  | domRedRetainWrite _ _ =>
    obtain rfl := Host.Outcome.next.inj e
    try dsimp only
    repeat' first
      | with_reducible exact h0 | with_reducible assumption | with_reducible apply hostWrite_kept
      | with_reducible apply Kept.ite | split | (fail_if_no_progress with_reducible refine Kept.lit ?_)
  | lanPartWrite _ _ =>
    obtain rfl := Host.Outcome.next.inj e
    exact hostWrite_kept h0
  | partitionCutComplete _ =>
    obtain rfl := Host.Outcome.next.inj e
    exact cutComplete_kept h0
  | drmIlvCfgWrite _ =>
    obtain rfl := Host.Outcome.next.inj e
    exact hostWrite_kept h0
  | pprSoft _ _ =>
    obtain rfl := Host.Outcome.next.inj e
    exact hostWrite_kept h0
  | pprHard _ _ =>
    obtain rfl := Host.Outcome.next.inj e
    exact hostWrite_kept h0
  | pprDone _ _ =>
    obtain rfl := Host.Outcome.next.inj e
    exact pprDone_kept h0
  | galSelfWrite _ =>
    obtain rfl := Host.Outcome.next.inj e
    exact hostWrite_kept h0
  | galRemapWrite _ _ =>
    obtain rfl := Host.Outcome.next.inj e
    exact hostWrite_kept h0
  | spireSplitWrite _ =>
    obtain rfl := Host.Outcome.next.inj e
    exact hostWrite_kept h0
  | linkEnWrite _ _ =>
    obtain rfl := Host.Outcome.next.inj e
    exact hostWrite_kept h0
  | clearQ _ =>
    obtain rfl := Host.Outcome.next.inj e
    exact hostWrite_kept h0
  | retrain _ =>
    obtain rfl := Host.Outcome.next.inj e
    exact hostWrite_kept h0
  | clearLog =>
    obtain rfl := Host.Outcome.next.inj e
    exact hostWrite_kept h0
  | resume =>
    obtain rfl := Host.Outcome.next.inj e
    exact hostWrite_kept h0
  | finResetChip _ =>
    obtain rfl := Host.Outcome.next.inj e
    exact hostWrite_kept h0
  | finResetCompute _ =>
    obtain rfl := Host.Outcome.next.inj e
    exact hostWrite_kept h0
  | arbCommit =>
    obtain rfl := Host.Outcome.next.inj e
    try dsimp only
    repeat' first
      | with_reducible exact h0 | with_reducible assumption | with_reducible apply arbGo_kept
      | with_reducible apply Kept.ite | split | (fail_if_no_progress with_reducible refine Kept.lit ?_)
  | arbBurnDone =>
    obtain rfl := Host.Outcome.next.inj e
    exact arbDone_kept h0
  | attestationGo =>
    obtain rfl := Host.Outcome.next.inj e
    exact hostWrite_kept h0
  | attestationReportDone =>
    obtain rfl := Host.Outcome.next.inj e
    exact reportDone_kept h0
  | m2Extend =>
    obtain rfl := Host.Outcome.next.inj e
    exact hostWrite_kept h0
  | finUartWrite _ =>
    obtain rfl := Host.Outcome.next.inj e
    exact hostWrite_kept h0
  | finGpioWrite _ _ =>
    obtain rfl := Host.Outcome.next.inj e
    exact hostWrite_kept h0
  | comparatorClaim _ _ =>
    obtain rfl := Host.Outcome.next.inj e
    exact hostWrite_kept h0
  | comparatorTick _ =>
    obtain rfl := Host.Outcome.next.inj e
    exact comparatorTick_kept h0
  | registerWrite _ _ =>
    obtain rfl := Host.Outcome.next.inj e
    exact hostWrite_kept h0
  | chimePeriod _ _ =>
    obtain rfl := Host.Outcome.next.inj e
    exact chimePeriod_kept h0
  | maintenanceGap =>
    obtain rfl := Host.Outcome.next.inj e
    exact gapStart_kept h0
  | recalibrationDone _ =>
    obtain rfl := Host.Outcome.next.inj e
    exact recalDone_kept h0
  | pathMonitorTrip _ =>
    obtain rfl := Host.Outcome.next.inj e
    exact pathTrip_kept h0
  | turretPowerGate _ =>
    obtain rfl := Host.Outcome.next.inj e
    exact gateSlot_kept h0
  | belfryPllStop _ =>
    obtain rfl := Host.Outcome.next.inj e
    exact pllStop_kept h0
  | belfryWake _ =>
    obtain rfl := Host.Outcome.next.inj e
    try dsimp only
    repeat' first
      | with_reducible exact h0 | with_reducible assumption | with_reducible apply belfryWake_kept
      | with_reducible apply Kept.ite | split | (fail_if_no_progress with_reducible refine Kept.lit ?_)
  | perBankRefresh _ =>
    obtain rfl := Host.Outcome.next.inj e
    try dsimp only
    repeat' first
      | with_reducible exact h0 | with_reducible assumption | with_reducible apply channelUpdate_kept
      | with_reducible apply Kept.ite | split | (fail_if_no_progress with_reducible refine Kept.lit ?_)
  | selfRefreshEntry _ =>
    obtain rfl := Host.Outcome.next.inj e
    exact sleepChannel_kept h0
  | selfRefreshExit _ =>
    obtain rfl := Host.Outcome.next.inj e
    try dsimp only
    repeat' first
      | with_reducible exact h0 | with_reducible assumption | with_reducible apply wakeChannel_kept
      | with_reducible apply Kept.ite | split | (fail_if_no_progress with_reducible refine Kept.lit ?_)
  | retrainDue _ =>
    obtain rfl := Host.Outcome.next.inj e
    exact retrainCheck_kept h0
  | channelRetrain _ =>
    obtain rfl := Host.Outcome.next.inj e
    try dsimp only
    repeat' first
      | with_reducible exact h0 | with_reducible assumption | with_reducible apply trainChannel_kept
      | with_reducible apply Kept.ite | split | (fail_if_no_progress with_reducible refine Kept.lit ?_)
  | forcedRetrain _ =>
    obtain rfl := Host.Outcome.next.inj e
    try dsimp only
    repeat' first
      | with_reducible exact h0 | with_reducible assumption | with_reducible apply trainChannel_kept
      | with_reducible apply Kept.ite | split | (fail_if_no_progress with_reducible refine Kept.lit ?_)
  | retrainComplete _ =>
    obtain rfl := Host.Outcome.next.inj e
    exact trainDone_kept h0
  | grainReplay _ _ _ _ =>
    obtain rfl := Host.Outcome.next.inj e
    exact grainReplay_kept h0
  | bankCopyDone _ _ =>
    obtain rfl := Host.Outcome.next.inj e
    try dsimp only
    repeat' first
      | with_reducible exact h0 | with_reducible assumption | with_reducible apply serveGo_kept
      | with_reducible apply bankCopied_kept | with_reducible apply Kept.ite | split
      | (fail_if_no_progress with_reducible refine Kept.lit ?_)
  | faultRecord _ =>
    obtain rfl := Host.Outcome.next.inj e
    try dsimp only
    repeat' first
      | with_reducible exact h0 | with_reducible assumption | with_reducible apply deliver_kept
      | with_reducible apply settle_kept | with_reducible apply Kept.ite | split
      | (fail_if_no_progress with_reducible refine Kept.lit ?_)
  | bucketLeak _ _ =>
    obtain rfl := Host.Outcome.next.inj e
    exact bucketLeak_kept h0
  | signalDetect _ =>
    obtain rfl := Host.Outcome.next.inj e
    try dsimp only
    repeat' first
      | with_reducible exact h0 | with_reducible assumption | with_reducible apply linkTo_kept
      | with_reducible apply Kept.ite | split | (fail_if_no_progress with_reducible refine Kept.lit ?_)
  | trainingLock _ =>
    obtain rfl := Host.Outcome.next.inj e
    exact linkLocked_kept h0
  | trainingTimeout _ =>
    obtain rfl := Host.Outcome.next.inj e
    try dsimp only
    repeat' first
      | with_reducible exact h0 | with_reducible assumption | with_reducible apply linkTo_kept
      | with_reducible apply Kept.ite | split | (fail_if_no_progress with_reducible refine Kept.lit ?_)
  | lossOfSignal _ =>
    obtain rfl := Host.Outcome.next.inj e
    try dsimp only
    repeat' first
      | with_reducible exact h0 | with_reducible assumption | with_reducible apply settle_kept
      | with_reducible apply linkTo_kept | with_reducible apply Kept.ite | split
      | (fail_if_no_progress with_reducible refine Kept.lit ?_)
  | helloTimeout _ =>
    obtain rfl := Host.Outcome.next.inj e
    try dsimp only
    repeat' first
      | with_reducible exact h0 | with_reducible assumption | with_reducible apply settle_kept
      | with_reducible apply helloExpire_kept | with_reducible apply Kept.ite | split
      | (fail_if_no_progress with_reducible refine Kept.lit ?_)
  | failedLinkRetry _ =>
    obtain rfl := Host.Outcome.next.inj e
    try dsimp only
    repeat' first
      | with_reducible exact h0 | with_reducible assumption | with_reducible apply linkTo_kept
      | with_reducible apply Kept.ite | split | (fail_if_no_progress with_reducible refine Kept.lit ?_)
  | dataFlit _ _ _ =>
    obtain rfl := Host.Outcome.next.inj e
    exact dataArrive_kept h0
  | idleFlit _ _ =>
    obtain rfl := Host.Outcome.next.inj e
    exact idleArrive_kept h0
  | nakFlit _ _ =>
    obtain rfl := Host.Outcome.next.inj e
    exact nakArrive_kept h0
  | nakRepeat _ =>
    obtain rfl := Host.Outcome.next.inj e
    try dsimp only
    repeat' first
      | with_reducible exact h0 | with_reducible assumption | with_reducible apply linkPut_kept
      | with_reducible apply Kept.ite | split | (fail_if_no_progress with_reducible refine Kept.lit ?_)
  | retryTimeout _ =>
    obtain rfl := Host.Outcome.next.inj e
    try dsimp only
    repeat' first
      | with_reducible exact h0 | with_reducible assumption | with_reducible apply replayFlits_kept
      | with_reducible apply Kept.ite | split | (fail_if_no_progress with_reducible refine Kept.lit ?_)
  | linkAckTimer _ =>
    obtain rfl := Host.Outcome.next.inj e
    try dsimp only
    repeat' first
      | with_reducible exact h0 | with_reducible assumption | with_reducible apply linkPut_kept
      | with_reducible apply Kept.ite | split | (fail_if_no_progress with_reducible refine Kept.lit ?_)
  | creditSilence _ _ =>
    obtain rfl := Host.Outcome.next.inj e
    try dsimp only
    repeat' first
      | with_reducible exact h0 | with_reducible assumption | with_reducible apply linkStuck_kept
      | with_reducible apply Kept.ite | split | (fail_if_no_progress with_reducible refine Kept.lit ?_)
  | linkRetrainTimeout _ =>
    obtain rfl := Host.Outcome.next.inj e
    try dsimp only
    repeat' first
      | with_reducible exact h0 | with_reducible assumption | with_reducible apply settle_kept
      | with_reducible apply linkFail_kept | with_reducible apply Kept.ite | split
      | (fail_if_no_progress with_reducible refine Kept.lit ?_)
  | packetForward _ _ _ =>
    obtain rfl := Host.Outcome.next.inj e
    try dsimp only
    repeat' first
      | with_reducible exact h0 | with_reducible assumption | with_reducible apply packetIn_kept
      | with_reducible apply takeLoop_kept | with_reducible apply launch_kept | with_reducible apply Kept.ite | split
      | (fail_if_no_progress with_reducible refine Kept.lit ?_)
  | packetKindReserved _ _ =>
    obtain rfl := Host.Outcome.next.inj e
    try dsimp only
    repeat' first
      | with_reducible exact h0 | with_reducible assumption | with_reducible apply packetIn_kept
      | with_reducible apply Kept.ite | split | (fail_if_no_progress with_reducible refine Kept.lit ?_)
  | read _ _ _ =>
    obtain rfl := Host.Outcome.next.inj e
    exact packetIn_kept h0
  | readReply _ _ _ =>
    obtain rfl := Host.Outcome.next.inj e
    exact packetIn_kept h0
  | write _ _ _ =>
    obtain rfl := Host.Outcome.next.inj e
    exact packetIn_kept h0
  | publicationReceive _ _ _ _ _ _ _ =>
    obtain rfl := Host.Outcome.next.inj e
    exact packetIn_kept h0
  | atomic _ _ _ _ =>
    obtain rfl := Host.Outcome.next.inj e
    exact packetIn_kept h0
  | reduce _ _ _ =>
    obtain rfl := Host.Outcome.next.inj e
    exact packetIn_kept h0
  | collData _ _ _ _ =>
    obtain rfl := Host.Outcome.next.inj e
    exact collIn_kept h0
  | collMiss _ _ _ =>
    obtain rfl := Host.Outcome.next.inj e
    exact collIn_kept h0
  | collMarker _ _ _ =>
    obtain rfl := Host.Outcome.next.inj e
    exact collIn_kept h0
  | collRestart _ _ _ =>
    obtain rfl := Host.Outcome.next.inj e
    exact collIn_kept h0
  | collPrepass _ _ _ =>
    obtain rfl := Host.Outcome.next.inj e
    exact collIn_kept h0
  | collExp _ _ _ =>
    obtain rfl := Host.Outcome.next.inj e
    exact collIn_kept h0
  | collAck _ _ _ =>
    obtain rfl := Host.Outcome.next.inj e
    exact collIn_kept h0
  | vote _ _ _ =>
    obtain rfl := Host.Outcome.next.inj e
    exact packetIn_kept h0
  | e2eAck _ _ _ =>
    obtain rfl := Host.Outcome.next.inj e
    exact packetIn_kept h0
  | hello _ _ _ =>
    obtain rfl := Host.Outcome.next.inj e
    exact packetIn_kept h0
  | timeSync _ _ _ =>
    obtain rfl := Host.Outcome.next.inj e
    exact packetIn_kept h0
  | mgmt _ _ _ =>
    obtain rfl := Host.Outcome.next.inj e
    exact packetIn_kept h0
  | mgmtReply _ _ _ =>
    obtain rfl := Host.Outcome.next.inj e
    exact packetIn_kept h0
  | phase _ _ _ =>
    obtain rfl := Host.Outcome.next.inj e
    exact packetIn_kept h0
  | flowRetransmit _ _ _ =>
    obtain rfl := Host.Outcome.next.inj e
    exact flowRetransmit_kept h0
  | flowAckTimer _ _ =>
    obtain rfl := Host.Outcome.next.inj e
    exact flowAck_kept h0
  | flowContextFill _ _ =>
    obtain rfl := Host.Outcome.next.inj e
    exact flowFill_kept h0
  | timeSyncInterval =>
    obtain rfl := Host.Outcome.next.inj e
    exact syncInterval_kept h0
  | timeStale =>
    obtain rfl := Host.Outcome.next.inj e
    try dsimp only
    repeat' first
      | with_reducible exact h0 | with_reducible assumption | with_reducible apply timeEvent_kept
      | with_reducible apply raiseFault_kept | with_reducible apply Kept.ite | split
      | (fail_if_no_progress with_reducible refine Kept.lit ?_)
  | tileStart _ =>
    obtain rfl := Host.Outcome.next.inj e
    try dsimp only
    repeat' first
      | with_reducible exact h0 | with_reducible assumption | with_reducible apply settle_kept
      | with_reducible apply startTile_kept | with_reducible apply Kept.ite | split
      | (fail_if_no_progress with_reducible refine Kept.lit ?_)
  | tileComplete _ _ =>
    obtain rfl := Host.Outcome.next.inj e
    try dsimp only
    repeat' first
      | with_reducible exact h0 | with_reducible assumption | with_reducible apply settle_kept
      | with_reducible apply completeTile_kept | with_reducible apply Kept.ite | split
      | (fail_if_no_progress with_reducible refine Kept.lit ?_)
  | lateFetchArrival _ _ =>
    obtain rfl := Host.Outcome.next.inj e
    try dsimp only
    repeat' first
      | with_reducible exact h0 | with_reducible assumption | with_reducible apply settle_kept
      | with_reducible apply lateArrival_kept | with_reducible apply Kept.ite | split
      | (fail_if_no_progress with_reducible refine Kept.lit ?_)
  | tileLocallyComplete _ _ _ =>
    obtain rfl := Host.Outcome.next.inj e
    try dsimp only
    repeat' first
      | with_reducible exact h0 | with_reducible assumption | with_reducible apply settle_kept
      | with_reducible apply tileGo_kept | with_reducible apply Kept.ite | split
      | (fail_if_no_progress with_reducible refine Kept.lit ?_)
  | updateRun _ =>
    obtain rfl := Host.Outcome.next.inj e
    exact updateGo_kept h0
  | gateCast _ =>
    obtain rfl := Host.Outcome.next.inj e
    try dsimp only
    repeat' first
      | with_reducible exact h0 | with_reducible assumption | with_reducible apply settle_kept
      | with_reducible apply gateCast_kept | with_reducible apply Kept.ite | split
      | (fail_if_no_progress with_reducible refine Kept.lit ?_)
  | commitRoundCast _ =>
    obtain rfl := Host.Outcome.next.inj e
    try dsimp only
    repeat' first
      | with_reducible exact h0 | with_reducible assumption | with_reducible apply settle_kept
      | with_reducible apply commitCast_kept | with_reducible apply Kept.ite | split
      | (fail_if_no_progress with_reducible refine Kept.lit ?_)
  | gateLimitExpiry _ =>
    obtain rfl := Host.Outcome.next.inj e
    try dsimp only
    repeat' first
      | with_reducible exact h0 | with_reducible assumption | with_reducible apply settle_kept
      | with_reducible apply gateExpire_kept | with_reducible apply Kept.ite | split
      | (fail_if_no_progress with_reducible refine Kept.lit ?_)
  | commitLimitExpiry _ =>
    obtain rfl := Host.Outcome.next.inj e
    try dsimp only
    repeat' first
      | with_reducible exact h0 | with_reducible assumption | with_reducible apply settle_kept
      | with_reducible apply commitExpire_kept | with_reducible apply Kept.ite | split
      | (fail_if_no_progress with_reducible refine Kept.lit ?_)
  | flipTick _ =>
    obtain rfl := Host.Outcome.next.inj e
    try dsimp only
    repeat' first
      | with_reducible exact h0 | with_reducible assumption | with_reducible apply settle_kept
      | with_reducible apply flipAt_kept | with_reducible apply Kept.ite | split
      | (fail_if_no_progress with_reducible refine Kept.lit ?_)
  | journalGranuleCopy =>
    obtain rfl := Host.Outcome.next.inj e
    try dsimp only
    repeat' first
      | with_reducible exact h0 | with_reducible assumption | with_reducible apply journalCopy_kept
      | with_reducible apply settle_kept | with_reducible apply Kept.ite | split
      | (fail_if_no_progress with_reducible refine Kept.lit ?_)
  | stepClose _ =>
    obtain rfl := Host.Outcome.next.inj e
    exact stepClose_kept h0
  | wamosHelp =>
    obtain rfl := Host.Outcome.next.inj e
    exact wamosHelp_kept h0
  | wamosId =>
    obtain rfl := Host.Outcome.next.inj e
    exact wamosId_kept h0
  | wamosRd _ _ =>
    obtain rfl := Host.Outcome.next.inj e
    exact wamosRead_kept h0
  | wamosLog _ =>
    obtain rfl := Host.Outcome.next.inj e
    exact wamosLogs_kept h0
  | wamosCtr =>
    obtain rfl := Host.Outcome.next.inj e
    exact wamosCounters_kept h0
  | wamosChal =>
    obtain rfl := Host.Outcome.next.inj e
    exact wamosChallenge_kept h0
  | wamosUnlock _ =>
    obtain rfl := Host.Outcome.next.inj e
    exact wamosUnlock_kept h0
  | wamosLock =>
    obtain rfl := Host.Outcome.next.inj e
    exact wamosLock_kept h0
  | wamosWr _ _ =>
    obtain rfl := Host.Outcome.next.inj e
    exact wamosWrite_kept h0
  | wamosBaud _ =>
    obtain rfl := Host.Outcome.next.inj e
    exact wamosBaud_kept h0
  | wamosRepair =>
    obtain rfl := Host.Outcome.next.inj e
    exact wamosRepairs_kept h0
  | wamosRepairDel _ =>
    obtain rfl := Host.Outcome.next.inj e
    exact wamosRepairDel_kept h0
  | wamosResetChip =>
    obtain rfl := Host.Outcome.next.inj e
    exact wamosResetChip_kept h0
  | wamosResetCompute =>
    obtain rfl := Host.Outcome.next.inj e
    exact wamosResetCompute_kept h0
  | wamosLc _ _ =>
    obtain rfl := Host.Outcome.next.inj e
    exact wamosLc_kept h0
  | unlockLockoutEnd =>
    obtain rfl := Host.Outcome.next.inj e
    try dsimp only
    repeat' first
      | with_reducible exact h0 | with_reducible assumption | with_reducible apply Kept.ite | split
      | (fail_if_no_progress with_reducible refine Kept.lit ?_)
  | sessionExpiry =>
    obtain rfl := Host.Outcome.next.inj e
    try dsimp only
    repeat' first
      | with_reducible exact h0 | with_reducible assumption | with_reducible apply Kept.ite | split
      | (fail_if_no_progress with_reducible refine Kept.lit ?_)
  | smbReadPart =>
    obtain rfl := Host.Outcome.next.inj e
    exact smbAnswer_kept h0
  | smbReadStatus =>
    obtain rfl := Host.Outcome.next.inj e
    exact smbAnswer_kept h0
  | smbReadTemp =>
    obtain rfl := Host.Outcome.next.inj e
    exact smbAnswer_kept h0
  | smbReadPower =>
    obtain rfl := Host.Outcome.next.inj e
    exact smbAnswer_kept h0
  | smbReadStage =>
    obtain rfl := Host.Outcome.next.inj e
    exact smbAnswer_kept h0
  | smbReadFault =>
    obtain rfl := Host.Outcome.next.inj e
    exact smbFault_kept h0
  | smbAlertResponse =>
    obtain rfl := Host.Outcome.next.inj e
    try dsimp only
    repeat' first
      | with_reducible exact h0 | with_reducible assumption | with_reducible apply Kept.ite | split
      | (fail_if_no_progress with_reducible refine Kept.lit ?_)
  | smbWrite =>
    obtain rfl := Host.Outcome.next.inj e
    exact smbAnswer_kept h0
  | extest =>
    obtain rfl := Host.Outcome.next.inj e
    exact pinInstr_kept h0
  | idcode =>
    obtain rfl := Host.Outcome.next.inj e
    exact plainInstr_kept h0
  | samplePreload =>
    obtain rfl := Host.Outcome.next.inj e
    exact samplePins_kept h0
  | clamp =>
    obtain rfl := Host.Outcome.next.inj e
    exact pinInstr_kept h0
  | highz =>
    obtain rfl := Host.Outcome.next.inj e
    exact pinInstr_kept h0
  | extestPulse =>
    obtain rfl := Host.Outcome.next.inj e
    exact pinInstr_kept h0
  | extestTrain =>
    obtain rfl := Host.Outcome.next.inj e
    exact pinInstr_kept h0
  | jtagScanSelfTest _ =>
    obtain rfl := Host.Outcome.next.inj e
    exact scanTest_kept h0
  | bypass =>
    obtain rfl := Host.Outcome.next.inj e
    exact plainInstr_kept h0
  | testLogicReset =>
    obtain rfl := Host.Outcome.next.inj e
    exact plainInstr_kept h0
  | wamosUnknownCommand =>
    obtain rfl := Host.Outcome.next.inj e
    exact wamosBad_kept h0
  | monRxdCharacter _ =>
    obtain rfl := Host.Outcome.next.inj e
    exact monCharacter_kept h0
  | lcBurnDone =>
    obtain rfl := Host.Outcome.next.inj e
    exact lcBurned_kept h0
  | krefDetect =>
    obtain rfl := Host.Outcome.next.inj e
    exact krefDetect_kept h0
  | railPowerGoodRise _ =>
    obtain rfl := Host.Outcome.next.inj e
    exact railRise_kept h0
  | perstInternalRelease =>
    obtain rfl := Host.Outcome.next.inj e
    exact perstRelease_kept h0
  | avsbusAckTimeout =>
    obtain rfl := Host.Outcome.next.inj e
    exact avsTimeout_kept h0
  | avsbusVoutCheck _ =>
    obtain rfl := Host.Outcome.next.inj e
    exact avsCheck_kept h0
  | pllLockLost _ _ =>
    obtain rfl := Host.Outcome.next.inj e
    exact raiseFault_kept h0
  | unitSelfcheckFail _ _ =>
    obtain rfl := Host.Outcome.next.inj e
    try dsimp only
    repeat' first
      | with_reducible exact h0 | with_reducible assumption | with_reducible apply raiseFault_kept
      | with_reducible apply Kept.ite | split | (fail_if_no_progress with_reducible refine Kept.lit ?_)
  | pcieLinkError _ =>
    obtain rfl := Host.Outcome.next.inj e
    try dsimp only
    repeat' first
      | with_reducible exact h0 | with_reducible assumption | with_reducible apply raiseFault_kept
      | with_reducible apply Kept.ite | split | (fail_if_no_progress with_reducible refine Kept.lit ?_)

/-- A conjunction of checks goes over part by part. -/
theorem and_goes_over {a b c d : Bool} (h : a = true → c = true) (k : b = true → d = true) (w : (a && b) = true) :
    (c && d) = true := by
  rw [Bool.and_eq_true] at *
  exact w.imp h k

/-- A decision goes over with what it decides. -/
theorem decide_goes_over {p q : Prop} [Decidable p] [Decidable q] (h : p → q) (w : decide p = true) : decide q = true :=
  decide_eq_true (h (of_decide_eq_true w))

/-- What is kept makes a sound state sound. -/
theorem Kept.sound {s t : State} {p : Bool} (h : Kept ⟨s, p⟩ t) : Sound s = true → Sound t = true := by
  refine and_goes_over (and_goes_over (and_goes_over (and_goes_over (and_goes_over (and_goes_over h.mem h.host) h.regs) ?_)
    fun w => (h.fin.lc w).1) h.fin.boot) (decide_goes_over ?_)
  · exact decide_goes_over h.log
  · exact And.imp h.hif (And.imp h.dome (And.imp h.fab (And.imp h.mif (And.imp h.chime h.fin.cmp))))

/-- A step with a command in front runs it on the queue's rest. -/
theorem step_front {s : State} {c : Instr} {rest : List Instr} (h : s.pending = c :: rest) :
    step s = exec c { s with pending := rest } := by
  unfold step
  rw [h]

/-- A step on an empty queue is a tick. -/
theorem step_idle {s : State} (h : s.pending = []) : step s = .next (tick s) := by
  unfold step
  rw [h]

end Sys2Proof.Machine
end

