-- ==== Sys2Proof/Laws/State.lean ====
section
/-! SUPPORT. One lemma per field of the state for each update that changes one field, true by rfl: later proofs never unfold
a record update. -/

-- In order: this many theorems side by side ask for more threads than fit.
set_option Elab.async false

namespace Sys2Proof.Machine

/-! ### regPut -/

@[simp] theorem regPut_pending (s : State) (off : Nat) (v : Word) : (regPut s off v).pending = s.pending := rfl
@[simp] theorem regPut_draws (s : State) (off : Nat) (v : Word) : (regPut s off v).draws = s.draws := rfl
@[simp] theorem regPut_time (s : State) (off : Nat) (v : Word) : (regPut s off v).time = s.time := rfl
@[simp] theorem regPut_mem (s : State) (off : Nat) (v : Word) : (regPut s off v).mem = s.mem := rfl
@[simp] theorem regPut_host (s : State) (off : Nat) (v : Word) : (regPut s off v).host = s.host := rfl
@[simp] theorem regPut_hif (s : State) (off : Nat) (v : Word) : (regPut s off v).hif = s.hif := rfl
@[simp] theorem regPut_ops (s : State) (off : Nat) (v : Word) : (regPut s off v).ops = s.ops := rfl
@[simp] theorem regPut_opNext (s : State) (off : Nat) (v : Word) : (regPut s off v).opNext = s.opNext := rfl
@[simp] theorem regPut_dome (s : State) (off : Nat) (v : Word) : (regPut s off v).dome = s.dome := rfl
@[simp] theorem regPut_fab (s : State) (off : Nat) (v : Word) : (regPut s off v).fab = s.fab := rfl
@[simp] theorem regPut_flt (s : State) (off : Nat) (v : Word) : (regPut s off v).flt = s.flt := rfl
@[simp] theorem regPut_mif (s : State) (off : Nat) (v : Word) : (regPut s off v).mif = s.mif := rfl
@[simp] theorem regPut_chime (s : State) (off : Nat) (v : Word) : (regPut s off v).chime = s.chime := rfl
@[simp] theorem regPut_fin (s : State) (off : Nat) (v : Word) : (regPut s off v).fin = s.fin := rfl
@[simp] theorem regPut_wamos (s : State) (off : Nat) (v : Word) : (regPut s off v).wamos = s.wamos := rfl

/-! ### periodRestart -/

@[simp] theorem periodRestart_pending (s : State) : (periodRestart s).pending = s.pending := rfl
@[simp] theorem periodRestart_draws (s : State) : (periodRestart s).draws = s.draws := rfl
@[simp] theorem periodRestart_time (s : State) : (periodRestart s).time = s.time := rfl
@[simp] theorem periodRestart_regs (s : State) : (periodRestart s).regs = s.regs := rfl
@[simp] theorem periodRestart_mem (s : State) : (periodRestart s).mem = s.mem := rfl
@[simp] theorem periodRestart_host (s : State) : (periodRestart s).host = s.host := rfl
@[simp] theorem periodRestart_hif (s : State) : (periodRestart s).hif = s.hif := rfl
@[simp] theorem periodRestart_ops (s : State) : (periodRestart s).ops = s.ops := rfl
@[simp] theorem periodRestart_opNext (s : State) : (periodRestart s).opNext = s.opNext := rfl
@[simp] theorem periodRestart_dome (s : State) : (periodRestart s).dome = s.dome := rfl
@[simp] theorem periodRestart_fab (s : State) : (periodRestart s).fab = s.fab := rfl
@[simp] theorem periodRestart_flt (s : State) : (periodRestart s).flt = s.flt := rfl
@[simp] theorem periodRestart_mif (s : State) : (periodRestart s).mif = s.mif := rfl
@[simp] theorem periodRestart_fin (s : State) : (periodRestart s).fin = s.fin := rfl
@[simp] theorem periodRestart_wamos (s : State) : (periodRestart s).wamos = s.wamos := rfl

/-! ### eqPut -/

@[simp] theorem eqPut_pending (s : State) (q : Nat) (e : EvQueue) : (eqPut s q e).pending = s.pending := rfl
@[simp] theorem eqPut_draws (s : State) (q : Nat) (e : EvQueue) : (eqPut s q e).draws = s.draws := rfl
@[simp] theorem eqPut_time (s : State) (q : Nat) (e : EvQueue) : (eqPut s q e).time = s.time := rfl
@[simp] theorem eqPut_regs (s : State) (q : Nat) (e : EvQueue) : (eqPut s q e).regs = s.regs := rfl
@[simp] theorem eqPut_mem (s : State) (q : Nat) (e : EvQueue) : (eqPut s q e).mem = s.mem := rfl
@[simp] theorem eqPut_host (s : State) (q : Nat) (e : EvQueue) : (eqPut s q e).host = s.host := rfl
@[simp] theorem eqPut_ops (s : State) (q : Nat) (e : EvQueue) : (eqPut s q e).ops = s.ops := rfl
@[simp] theorem eqPut_opNext (s : State) (q : Nat) (e : EvQueue) : (eqPut s q e).opNext = s.opNext := rfl
@[simp] theorem eqPut_dome (s : State) (q : Nat) (e : EvQueue) : (eqPut s q e).dome = s.dome := rfl
@[simp] theorem eqPut_fab (s : State) (q : Nat) (e : EvQueue) : (eqPut s q e).fab = s.fab := rfl
@[simp] theorem eqPut_flt (s : State) (q : Nat) (e : EvQueue) : (eqPut s q e).flt = s.flt := rfl
@[simp] theorem eqPut_mif (s : State) (q : Nat) (e : EvQueue) : (eqPut s q e).mif = s.mif := rfl
@[simp] theorem eqPut_chime (s : State) (q : Nat) (e : EvQueue) : (eqPut s q e).chime = s.chime := rfl
@[simp] theorem eqPut_fin (s : State) (q : Nat) (e : EvQueue) : (eqPut s q e).fin = s.fin := rfl
@[simp] theorem eqPut_wamos (s : State) (q : Nat) (e : EvQueue) : (eqPut s q e).wamos = s.wamos := rfl

/-! ### belfryPut -/

@[simp] theorem belfryPut_pending (s : State) (b : Nat) (x : Belfry) : (belfryPut s b x).pending = s.pending := rfl
@[simp] theorem belfryPut_draws (s : State) (b : Nat) (x : Belfry) : (belfryPut s b x).draws = s.draws := rfl
@[simp] theorem belfryPut_time (s : State) (b : Nat) (x : Belfry) : (belfryPut s b x).time = s.time := rfl
@[simp] theorem belfryPut_regs (s : State) (b : Nat) (x : Belfry) : (belfryPut s b x).regs = s.regs := rfl
@[simp] theorem belfryPut_mem (s : State) (b : Nat) (x : Belfry) : (belfryPut s b x).mem = s.mem := rfl
@[simp] theorem belfryPut_host (s : State) (b : Nat) (x : Belfry) : (belfryPut s b x).host = s.host := rfl
@[simp] theorem belfryPut_hif (s : State) (b : Nat) (x : Belfry) : (belfryPut s b x).hif = s.hif := rfl
@[simp] theorem belfryPut_ops (s : State) (b : Nat) (x : Belfry) : (belfryPut s b x).ops = s.ops := rfl
@[simp] theorem belfryPut_opNext (s : State) (b : Nat) (x : Belfry) : (belfryPut s b x).opNext = s.opNext := rfl
@[simp] theorem belfryPut_fab (s : State) (b : Nat) (x : Belfry) : (belfryPut s b x).fab = s.fab := rfl
@[simp] theorem belfryPut_flt (s : State) (b : Nat) (x : Belfry) : (belfryPut s b x).flt = s.flt := rfl
@[simp] theorem belfryPut_mif (s : State) (b : Nat) (x : Belfry) : (belfryPut s b x).mif = s.mif := rfl
@[simp] theorem belfryPut_chime (s : State) (b : Nat) (x : Belfry) : (belfryPut s b x).chime = s.chime := rfl
@[simp] theorem belfryPut_fin (s : State) (b : Nat) (x : Belfry) : (belfryPut s b x).fin = s.fin := rfl
@[simp] theorem belfryPut_wamos (s : State) (b : Nat) (x : Belfry) : (belfryPut s b x).wamos = s.wamos := rfl

/-! ### turretPut -/

@[simp] theorem turretPut_pending (s : State) (t : Nat) (x : Turret) : (turretPut s t x).pending = s.pending := rfl
@[simp] theorem turretPut_draws (s : State) (t : Nat) (x : Turret) : (turretPut s t x).draws = s.draws := rfl
@[simp] theorem turretPut_time (s : State) (t : Nat) (x : Turret) : (turretPut s t x).time = s.time := rfl
@[simp] theorem turretPut_regs (s : State) (t : Nat) (x : Turret) : (turretPut s t x).regs = s.regs := rfl
@[simp] theorem turretPut_mem (s : State) (t : Nat) (x : Turret) : (turretPut s t x).mem = s.mem := rfl
@[simp] theorem turretPut_host (s : State) (t : Nat) (x : Turret) : (turretPut s t x).host = s.host := rfl
@[simp] theorem turretPut_hif (s : State) (t : Nat) (x : Turret) : (turretPut s t x).hif = s.hif := rfl
@[simp] theorem turretPut_ops (s : State) (t : Nat) (x : Turret) : (turretPut s t x).ops = s.ops := rfl
@[simp] theorem turretPut_opNext (s : State) (t : Nat) (x : Turret) : (turretPut s t x).opNext = s.opNext := rfl
@[simp] theorem turretPut_fab (s : State) (t : Nat) (x : Turret) : (turretPut s t x).fab = s.fab := rfl
@[simp] theorem turretPut_flt (s : State) (t : Nat) (x : Turret) : (turretPut s t x).flt = s.flt := rfl
@[simp] theorem turretPut_mif (s : State) (t : Nat) (x : Turret) : (turretPut s t x).mif = s.mif := rfl
@[simp] theorem turretPut_chime (s : State) (t : Nat) (x : Turret) : (turretPut s t x).chime = s.chime := rfl
@[simp] theorem turretPut_fin (s : State) (t : Nat) (x : Turret) : (turretPut s t x).fin = s.fin := rfl
@[simp] theorem turretPut_wamos (s : State) (t : Nat) (x : Turret) : (turretPut s t x).wamos = s.wamos := rfl

/-! ### opUpdate -/

@[simp] theorem opUpdate_pending (s : State) (id : Nat) (f : Op → Op) : (opUpdate s id f).pending = s.pending := rfl
@[simp] theorem opUpdate_draws (s : State) (id : Nat) (f : Op → Op) : (opUpdate s id f).draws = s.draws := rfl
@[simp] theorem opUpdate_time (s : State) (id : Nat) (f : Op → Op) : (opUpdate s id f).time = s.time := rfl
@[simp] theorem opUpdate_regs (s : State) (id : Nat) (f : Op → Op) : (opUpdate s id f).regs = s.regs := rfl
@[simp] theorem opUpdate_mem (s : State) (id : Nat) (f : Op → Op) : (opUpdate s id f).mem = s.mem := rfl
@[simp] theorem opUpdate_host (s : State) (id : Nat) (f : Op → Op) : (opUpdate s id f).host = s.host := rfl
@[simp] theorem opUpdate_hif (s : State) (id : Nat) (f : Op → Op) : (opUpdate s id f).hif = s.hif := rfl
@[simp] theorem opUpdate_opNext (s : State) (id : Nat) (f : Op → Op) : (opUpdate s id f).opNext = s.opNext := rfl
@[simp] theorem opUpdate_dome (s : State) (id : Nat) (f : Op → Op) : (opUpdate s id f).dome = s.dome := rfl
@[simp] theorem opUpdate_fab (s : State) (id : Nat) (f : Op → Op) : (opUpdate s id f).fab = s.fab := rfl
@[simp] theorem opUpdate_flt (s : State) (id : Nat) (f : Op → Op) : (opUpdate s id f).flt = s.flt := rfl
@[simp] theorem opUpdate_mif (s : State) (id : Nat) (f : Op → Op) : (opUpdate s id f).mif = s.mif := rfl
@[simp] theorem opUpdate_chime (s : State) (id : Nat) (f : Op → Op) : (opUpdate s id f).chime = s.chime := rfl
@[simp] theorem opUpdate_fin (s : State) (id : Nat) (f : Op → Op) : (opUpdate s id f).fin = s.fin := rfl
@[simp] theorem opUpdate_wamos (s : State) (id : Nat) (f : Op → Op) : (opUpdate s id f).wamos = s.wamos := rfl

/-! ### txnUpdate -/

@[simp] theorem txnUpdate_pending (s : State) (num : Nat) (f : Txn → Txn) :
    (txnUpdate s num f).pending = s.pending := rfl
@[simp] theorem txnUpdate_draws (s : State) (num : Nat) (f : Txn → Txn) : (txnUpdate s num f).draws = s.draws := rfl
@[simp] theorem txnUpdate_time (s : State) (num : Nat) (f : Txn → Txn) : (txnUpdate s num f).time = s.time := rfl
@[simp] theorem txnUpdate_regs (s : State) (num : Nat) (f : Txn → Txn) : (txnUpdate s num f).regs = s.regs := rfl
@[simp] theorem txnUpdate_mem (s : State) (num : Nat) (f : Txn → Txn) : (txnUpdate s num f).mem = s.mem := rfl
@[simp] theorem txnUpdate_host (s : State) (num : Nat) (f : Txn → Txn) : (txnUpdate s num f).host = s.host := rfl
@[simp] theorem txnUpdate_hif (s : State) (num : Nat) (f : Txn → Txn) : (txnUpdate s num f).hif = s.hif := rfl
@[simp] theorem txnUpdate_ops (s : State) (num : Nat) (f : Txn → Txn) : (txnUpdate s num f).ops = s.ops := rfl
@[simp] theorem txnUpdate_opNext (s : State) (num : Nat) (f : Txn → Txn) : (txnUpdate s num f).opNext = s.opNext := rfl
@[simp] theorem txnUpdate_fab (s : State) (num : Nat) (f : Txn → Txn) : (txnUpdate s num f).fab = s.fab := rfl
@[simp] theorem txnUpdate_flt (s : State) (num : Nat) (f : Txn → Txn) : (txnUpdate s num f).flt = s.flt := rfl
@[simp] theorem txnUpdate_mif (s : State) (num : Nat) (f : Txn → Txn) : (txnUpdate s num f).mif = s.mif := rfl
@[simp] theorem txnUpdate_chime (s : State) (num : Nat) (f : Txn → Txn) : (txnUpdate s num f).chime = s.chime := rfl
@[simp] theorem txnUpdate_fin (s : State) (num : Nat) (f : Txn → Txn) : (txnUpdate s num f).fin = s.fin := rfl
@[simp] theorem txnUpdate_wamos (s : State) (num : Nat) (f : Txn → Txn) : (txnUpdate s num f).wamos = s.wamos := rfl

/-! ### setHealth -/

@[simp] theorem setHealth_pending (s : State) (bitNo : Nat) : (setHealth s bitNo).pending = s.pending := rfl
@[simp] theorem setHealth_draws (s : State) (bitNo : Nat) : (setHealth s bitNo).draws = s.draws := rfl
@[simp] theorem setHealth_time (s : State) (bitNo : Nat) : (setHealth s bitNo).time = s.time := rfl
@[simp] theorem setHealth_regs (s : State) (bitNo : Nat) : (setHealth s bitNo).regs = s.regs := rfl
@[simp] theorem setHealth_mem (s : State) (bitNo : Nat) : (setHealth s bitNo).mem = s.mem := rfl
@[simp] theorem setHealth_host (s : State) (bitNo : Nat) : (setHealth s bitNo).host = s.host := rfl
@[simp] theorem setHealth_hif (s : State) (bitNo : Nat) : (setHealth s bitNo).hif = s.hif := rfl
@[simp] theorem setHealth_ops (s : State) (bitNo : Nat) : (setHealth s bitNo).ops = s.ops := rfl
@[simp] theorem setHealth_opNext (s : State) (bitNo : Nat) : (setHealth s bitNo).opNext = s.opNext := rfl
@[simp] theorem setHealth_fab (s : State) (bitNo : Nat) : (setHealth s bitNo).fab = s.fab := rfl
@[simp] theorem setHealth_flt (s : State) (bitNo : Nat) : (setHealth s bitNo).flt = s.flt := rfl
@[simp] theorem setHealth_mif (s : State) (bitNo : Nat) : (setHealth s bitNo).mif = s.mif := rfl
@[simp] theorem setHealth_chime (s : State) (bitNo : Nat) : (setHealth s bitNo).chime = s.chime := rfl
@[simp] theorem setHealth_fin (s : State) (bitNo : Nat) : (setHealth s bitNo).fin = s.fin := rfl
@[simp] theorem setHealth_wamos (s : State) (bitNo : Nat) : (setHealth s bitNo).wamos = s.wamos := rfl

/-! ### producerPut -/

@[simp] theorem producerPut_pending (s : State) (tag : Nat) (p : Option (Nat × Option Status)) :
    (producerPut s tag p).pending = s.pending := rfl
@[simp] theorem producerPut_draws (s : State) (tag : Nat) (p : Option (Nat × Option Status)) :
    (producerPut s tag p).draws = s.draws := rfl
@[simp] theorem producerPut_time (s : State) (tag : Nat) (p : Option (Nat × Option Status)) :
    (producerPut s tag p).time = s.time := rfl
@[simp] theorem producerPut_regs (s : State) (tag : Nat) (p : Option (Nat × Option Status)) :
    (producerPut s tag p).regs = s.regs := rfl
@[simp] theorem producerPut_mem (s : State) (tag : Nat) (p : Option (Nat × Option Status)) :
    (producerPut s tag p).mem = s.mem := rfl
@[simp] theorem producerPut_host (s : State) (tag : Nat) (p : Option (Nat × Option Status)) :
    (producerPut s tag p).host = s.host := rfl
@[simp] theorem producerPut_hif (s : State) (tag : Nat) (p : Option (Nat × Option Status)) :
    (producerPut s tag p).hif = s.hif := rfl
@[simp] theorem producerPut_ops (s : State) (tag : Nat) (p : Option (Nat × Option Status)) :
    (producerPut s tag p).ops = s.ops := rfl
@[simp] theorem producerPut_opNext (s : State) (tag : Nat) (p : Option (Nat × Option Status)) :
    (producerPut s tag p).opNext = s.opNext := rfl
@[simp] theorem producerPut_fab (s : State) (tag : Nat) (p : Option (Nat × Option Status)) :
    (producerPut s tag p).fab = s.fab := rfl
@[simp] theorem producerPut_flt (s : State) (tag : Nat) (p : Option (Nat × Option Status)) :
    (producerPut s tag p).flt = s.flt := rfl
@[simp] theorem producerPut_mif (s : State) (tag : Nat) (p : Option (Nat × Option Status)) :
    (producerPut s tag p).mif = s.mif := rfl
@[simp] theorem producerPut_chime (s : State) (tag : Nat) (p : Option (Nat × Option Status)) :
    (producerPut s tag p).chime = s.chime := rfl
@[simp] theorem producerPut_fin (s : State) (tag : Nat) (p : Option (Nat × Option Status)) :
    (producerPut s tag p).fin = s.fin := rfl
@[simp] theorem producerPut_wamos (s : State) (tag : Nat) (p : Option (Nat × Option Status)) :
    (producerPut s tag p).wamos = s.wamos := rfl

/-! ### applyBytes -/

@[simp] theorem applyBytes_pending (s : State) (a : Nat) (bs : List Byte) :
    (applyBytes s a bs).pending = s.pending := rfl
@[simp] theorem applyBytes_draws (s : State) (a : Nat) (bs : List Byte) : (applyBytes s a bs).draws = s.draws := rfl
@[simp] theorem applyBytes_time (s : State) (a : Nat) (bs : List Byte) : (applyBytes s a bs).time = s.time := rfl
@[simp] theorem applyBytes_regs (s : State) (a : Nat) (bs : List Byte) : (applyBytes s a bs).regs = s.regs := rfl
@[simp] theorem applyBytes_host (s : State) (a : Nat) (bs : List Byte) : (applyBytes s a bs).host = s.host := rfl
@[simp] theorem applyBytes_hif (s : State) (a : Nat) (bs : List Byte) : (applyBytes s a bs).hif = s.hif := rfl
@[simp] theorem applyBytes_ops (s : State) (a : Nat) (bs : List Byte) : (applyBytes s a bs).ops = s.ops := rfl
@[simp] theorem applyBytes_opNext (s : State) (a : Nat) (bs : List Byte) : (applyBytes s a bs).opNext = s.opNext := rfl
@[simp] theorem applyBytes_dome (s : State) (a : Nat) (bs : List Byte) : (applyBytes s a bs).dome = s.dome := rfl
@[simp] theorem applyBytes_fab (s : State) (a : Nat) (bs : List Byte) : (applyBytes s a bs).fab = s.fab := rfl
@[simp] theorem applyBytes_flt (s : State) (a : Nat) (bs : List Byte) : (applyBytes s a bs).flt = s.flt := rfl
@[simp] theorem applyBytes_mif (s : State) (a : Nat) (bs : List Byte) : (applyBytes s a bs).mif = s.mif := rfl
@[simp] theorem applyBytes_chime (s : State) (a : Nat) (bs : List Byte) : (applyBytes s a bs).chime = s.chime := rfl
@[simp] theorem applyBytes_fin (s : State) (a : Nat) (bs : List Byte) : (applyBytes s a bs).fin = s.fin := rfl
@[simp] theorem applyBytes_wamos (s : State) (a : Nat) (bs : List Byte) : (applyBytes s a bs).wamos = s.wamos := rfl

/-! ### channelPut -/

@[simp] theorem channelPut_pending (s : State) (ch : Nat) (x : Channel) :
    (channelPut s ch x).pending = s.pending := rfl
@[simp] theorem channelPut_draws (s : State) (ch : Nat) (x : Channel) : (channelPut s ch x).draws = s.draws := rfl
@[simp] theorem channelPut_time (s : State) (ch : Nat) (x : Channel) : (channelPut s ch x).time = s.time := rfl
@[simp] theorem channelPut_regs (s : State) (ch : Nat) (x : Channel) : (channelPut s ch x).regs = s.regs := rfl
@[simp] theorem channelPut_mem (s : State) (ch : Nat) (x : Channel) : (channelPut s ch x).mem = s.mem := rfl
@[simp] theorem channelPut_host (s : State) (ch : Nat) (x : Channel) : (channelPut s ch x).host = s.host := rfl
@[simp] theorem channelPut_hif (s : State) (ch : Nat) (x : Channel) : (channelPut s ch x).hif = s.hif := rfl
@[simp] theorem channelPut_ops (s : State) (ch : Nat) (x : Channel) : (channelPut s ch x).ops = s.ops := rfl
@[simp] theorem channelPut_opNext (s : State) (ch : Nat) (x : Channel) : (channelPut s ch x).opNext = s.opNext := rfl
@[simp] theorem channelPut_dome (s : State) (ch : Nat) (x : Channel) : (channelPut s ch x).dome = s.dome := rfl
@[simp] theorem channelPut_fab (s : State) (ch : Nat) (x : Channel) : (channelPut s ch x).fab = s.fab := rfl
@[simp] theorem channelPut_flt (s : State) (ch : Nat) (x : Channel) : (channelPut s ch x).flt = s.flt := rfl
@[simp] theorem channelPut_chime (s : State) (ch : Nat) (x : Channel) : (channelPut s ch x).chime = s.chime := rfl
@[simp] theorem channelPut_fin (s : State) (ch : Nat) (x : Channel) : (channelPut s ch x).fin = s.fin := rfl
@[simp] theorem channelPut_wamos (s : State) (ch : Nat) (x : Channel) : (channelPut s ch x).wamos = s.wamos := rfl

/-! ### linkPut -/

@[simp] theorem linkPut_pending (s : State) (l : Nat) (x : Link) : (linkPut s l x).pending = s.pending := rfl
@[simp] theorem linkPut_draws (s : State) (l : Nat) (x : Link) : (linkPut s l x).draws = s.draws := rfl
@[simp] theorem linkPut_time (s : State) (l : Nat) (x : Link) : (linkPut s l x).time = s.time := rfl
@[simp] theorem linkPut_regs (s : State) (l : Nat) (x : Link) : (linkPut s l x).regs = s.regs := rfl
@[simp] theorem linkPut_mem (s : State) (l : Nat) (x : Link) : (linkPut s l x).mem = s.mem := rfl
@[simp] theorem linkPut_host (s : State) (l : Nat) (x : Link) : (linkPut s l x).host = s.host := rfl
@[simp] theorem linkPut_hif (s : State) (l : Nat) (x : Link) : (linkPut s l x).hif = s.hif := rfl
@[simp] theorem linkPut_ops (s : State) (l : Nat) (x : Link) : (linkPut s l x).ops = s.ops := rfl
@[simp] theorem linkPut_opNext (s : State) (l : Nat) (x : Link) : (linkPut s l x).opNext = s.opNext := rfl
@[simp] theorem linkPut_dome (s : State) (l : Nat) (x : Link) : (linkPut s l x).dome = s.dome := rfl
@[simp] theorem linkPut_flt (s : State) (l : Nat) (x : Link) : (linkPut s l x).flt = s.flt := rfl
@[simp] theorem linkPut_mif (s : State) (l : Nat) (x : Link) : (linkPut s l x).mif = s.mif := rfl
@[simp] theorem linkPut_chime (s : State) (l : Nat) (x : Link) : (linkPut s l x).chime = s.chime := rfl
@[simp] theorem linkPut_fin (s : State) (l : Nat) (x : Link) : (linkPut s l x).fin = s.fin := rfl
@[simp] theorem linkPut_wamos (s : State) (l : Nat) (x : Link) : (linkPut s l x).wamos = s.wamos := rfl

/-! ### holdPkt -/

@[simp] theorem holdPkt_pending (s : State) (w : HeldPkt) : (holdPkt s w).pending = s.pending := rfl
@[simp] theorem holdPkt_draws (s : State) (w : HeldPkt) : (holdPkt s w).draws = s.draws := rfl
@[simp] theorem holdPkt_time (s : State) (w : HeldPkt) : (holdPkt s w).time = s.time := rfl
@[simp] theorem holdPkt_regs (s : State) (w : HeldPkt) : (holdPkt s w).regs = s.regs := rfl
@[simp] theorem holdPkt_mem (s : State) (w : HeldPkt) : (holdPkt s w).mem = s.mem := rfl
@[simp] theorem holdPkt_host (s : State) (w : HeldPkt) : (holdPkt s w).host = s.host := rfl
@[simp] theorem holdPkt_hif (s : State) (w : HeldPkt) : (holdPkt s w).hif = s.hif := rfl
@[simp] theorem holdPkt_ops (s : State) (w : HeldPkt) : (holdPkt s w).ops = s.ops := rfl
@[simp] theorem holdPkt_opNext (s : State) (w : HeldPkt) : (holdPkt s w).opNext = s.opNext := rfl
@[simp] theorem holdPkt_dome (s : State) (w : HeldPkt) : (holdPkt s w).dome = s.dome := rfl
@[simp] theorem holdPkt_flt (s : State) (w : HeldPkt) : (holdPkt s w).flt = s.flt := rfl
@[simp] theorem holdPkt_mif (s : State) (w : HeldPkt) : (holdPkt s w).mif = s.mif := rfl
@[simp] theorem holdPkt_chime (s : State) (w : HeldPkt) : (holdPkt s w).chime = s.chime := rfl
@[simp] theorem holdPkt_fin (s : State) (w : HeldPkt) : (holdPkt s w).fin = s.fin := rfl
@[simp] theorem holdPkt_wamos (s : State) (w : HeldPkt) : (holdPkt s w).wamos = s.wamos := rfl

/-! ### flowUpdate -/

@[simp] theorem flowUpdate_pending (s : State) (chip cls : Nat) (f : Flow → Flow) :
    (flowUpdate s chip cls f).pending = s.pending := rfl
@[simp] theorem flowUpdate_draws (s : State) (chip cls : Nat) (f : Flow → Flow) :
    (flowUpdate s chip cls f).draws = s.draws := rfl
@[simp] theorem flowUpdate_time (s : State) (chip cls : Nat) (f : Flow → Flow) :
    (flowUpdate s chip cls f).time = s.time := rfl
@[simp] theorem flowUpdate_regs (s : State) (chip cls : Nat) (f : Flow → Flow) :
    (flowUpdate s chip cls f).regs = s.regs := rfl
@[simp] theorem flowUpdate_mem (s : State) (chip cls : Nat) (f : Flow → Flow) :
    (flowUpdate s chip cls f).mem = s.mem := rfl
@[simp] theorem flowUpdate_host (s : State) (chip cls : Nat) (f : Flow → Flow) :
    (flowUpdate s chip cls f).host = s.host := rfl
@[simp] theorem flowUpdate_hif (s : State) (chip cls : Nat) (f : Flow → Flow) :
    (flowUpdate s chip cls f).hif = s.hif := rfl
@[simp] theorem flowUpdate_ops (s : State) (chip cls : Nat) (f : Flow → Flow) :
    (flowUpdate s chip cls f).ops = s.ops := rfl
@[simp] theorem flowUpdate_opNext (s : State) (chip cls : Nat) (f : Flow → Flow) :
    (flowUpdate s chip cls f).opNext = s.opNext := rfl
@[simp] theorem flowUpdate_dome (s : State) (chip cls : Nat) (f : Flow → Flow) :
    (flowUpdate s chip cls f).dome = s.dome := rfl
@[simp] theorem flowUpdate_flt (s : State) (chip cls : Nat) (f : Flow → Flow) :
    (flowUpdate s chip cls f).flt = s.flt := rfl
@[simp] theorem flowUpdate_mif (s : State) (chip cls : Nat) (f : Flow → Flow) :
    (flowUpdate s chip cls f).mif = s.mif := rfl
@[simp] theorem flowUpdate_chime (s : State) (chip cls : Nat) (f : Flow → Flow) :
    (flowUpdate s chip cls f).chime = s.chime := rfl
@[simp] theorem flowUpdate_fin (s : State) (chip cls : Nat) (f : Flow → Flow) :
    (flowUpdate s chip cls f).fin = s.fin := rfl
@[simp] theorem flowUpdate_wamos (s : State) (chip cls : Nat) (f : Flow → Flow) :
    (flowUpdate s chip cls f).wamos = s.wamos := rfl

/-! ### fullOver -/

@[simp] theorem fullOver_pending (s : State) (chip cls : Nat) : (fullOver s chip cls).pending = s.pending := rfl
@[simp] theorem fullOver_draws (s : State) (chip cls : Nat) : (fullOver s chip cls).draws = s.draws := rfl
@[simp] theorem fullOver_time (s : State) (chip cls : Nat) : (fullOver s chip cls).time = s.time := rfl
@[simp] theorem fullOver_regs (s : State) (chip cls : Nat) : (fullOver s chip cls).regs = s.regs := rfl
@[simp] theorem fullOver_mem (s : State) (chip cls : Nat) : (fullOver s chip cls).mem = s.mem := rfl
@[simp] theorem fullOver_host (s : State) (chip cls : Nat) : (fullOver s chip cls).host = s.host := rfl
@[simp] theorem fullOver_hif (s : State) (chip cls : Nat) : (fullOver s chip cls).hif = s.hif := rfl
@[simp] theorem fullOver_ops (s : State) (chip cls : Nat) : (fullOver s chip cls).ops = s.ops := rfl
@[simp] theorem fullOver_opNext (s : State) (chip cls : Nat) : (fullOver s chip cls).opNext = s.opNext := rfl
@[simp] theorem fullOver_dome (s : State) (chip cls : Nat) : (fullOver s chip cls).dome = s.dome := rfl
@[simp] theorem fullOver_flt (s : State) (chip cls : Nat) : (fullOver s chip cls).flt = s.flt := rfl
@[simp] theorem fullOver_mif (s : State) (chip cls : Nat) : (fullOver s chip cls).mif = s.mif := rfl
@[simp] theorem fullOver_chime (s : State) (chip cls : Nat) : (fullOver s chip cls).chime = s.chime := rfl
@[simp] theorem fullOver_fin (s : State) (chip cls : Nat) : (fullOver s chip cls).fin = s.fin := rfl
@[simp] theorem fullOver_wamos (s : State) (chip cls : Nat) : (fullOver s chip cls).wamos = s.wamos := rfl

/-! ### loopBack -/

@[simp] theorem loopBack_pending (s : State) (p : Packet) : (loopBack s p).pending = s.pending := rfl
@[simp] theorem loopBack_draws (s : State) (p : Packet) : (loopBack s p).draws = s.draws := rfl
@[simp] theorem loopBack_time (s : State) (p : Packet) : (loopBack s p).time = s.time := rfl
@[simp] theorem loopBack_regs (s : State) (p : Packet) : (loopBack s p).regs = s.regs := rfl
@[simp] theorem loopBack_mem (s : State) (p : Packet) : (loopBack s p).mem = s.mem := rfl
@[simp] theorem loopBack_host (s : State) (p : Packet) : (loopBack s p).host = s.host := rfl
@[simp] theorem loopBack_hif (s : State) (p : Packet) : (loopBack s p).hif = s.hif := rfl
@[simp] theorem loopBack_ops (s : State) (p : Packet) : (loopBack s p).ops = s.ops := rfl
@[simp] theorem loopBack_opNext (s : State) (p : Packet) : (loopBack s p).opNext = s.opNext := rfl
@[simp] theorem loopBack_dome (s : State) (p : Packet) : (loopBack s p).dome = s.dome := rfl
@[simp] theorem loopBack_flt (s : State) (p : Packet) : (loopBack s p).flt = s.flt := rfl
@[simp] theorem loopBack_mif (s : State) (p : Packet) : (loopBack s p).mif = s.mif := rfl
@[simp] theorem loopBack_chime (s : State) (p : Packet) : (loopBack s p).chime = s.chime := rfl
@[simp] theorem loopBack_fin (s : State) (p : Packet) : (loopBack s p).fin = s.fin := rfl
@[simp] theorem loopBack_wamos (s : State) (p : Packet) : (loopBack s p).wamos = s.wamos := rfl

/-! ### telUpdate -/

@[simp] theorem telUpdate_pending (s : State) (step : Nat) (f : StepTel → StepTel) :
    (telUpdate s step f).pending = s.pending := rfl
@[simp] theorem telUpdate_draws (s : State) (step : Nat) (f : StepTel → StepTel) :
    (telUpdate s step f).draws = s.draws := rfl
@[simp] theorem telUpdate_time (s : State) (step : Nat) (f : StepTel → StepTel) :
    (telUpdate s step f).time = s.time := rfl
@[simp] theorem telUpdate_regs (s : State) (step : Nat) (f : StepTel → StepTel) :
    (telUpdate s step f).regs = s.regs := rfl
@[simp] theorem telUpdate_mem (s : State) (step : Nat) (f : StepTel → StepTel) :
    (telUpdate s step f).mem = s.mem := rfl
@[simp] theorem telUpdate_host (s : State) (step : Nat) (f : StepTel → StepTel) :
    (telUpdate s step f).host = s.host := rfl
@[simp] theorem telUpdate_hif (s : State) (step : Nat) (f : StepTel → StepTel) :
    (telUpdate s step f).hif = s.hif := rfl
@[simp] theorem telUpdate_ops (s : State) (step : Nat) (f : StepTel → StepTel) :
    (telUpdate s step f).ops = s.ops := rfl
@[simp] theorem telUpdate_opNext (s : State) (step : Nat) (f : StepTel → StepTel) :
    (telUpdate s step f).opNext = s.opNext := rfl
@[simp] theorem telUpdate_fab (s : State) (step : Nat) (f : StepTel → StepTel) :
    (telUpdate s step f).fab = s.fab := rfl
@[simp] theorem telUpdate_flt (s : State) (step : Nat) (f : StepTel → StepTel) :
    (telUpdate s step f).flt = s.flt := rfl
@[simp] theorem telUpdate_mif (s : State) (step : Nat) (f : StepTel → StepTel) :
    (telUpdate s step f).mif = s.mif := rfl
@[simp] theorem telUpdate_chime (s : State) (step : Nat) (f : StepTel → StepTel) :
    (telUpdate s step f).chime = s.chime := rfl
@[simp] theorem telUpdate_fin (s : State) (step : Nat) (f : StepTel → StepTel) :
    (telUpdate s step f).fin = s.fin := rfl
@[simp] theorem telUpdate_wamos (s : State) (step : Nat) (f : StepTel → StepTel) :
    (telUpdate s step f).wamos = s.wamos := rfl

/-! ### recordRows -/

@[simp] theorem recordRows_pending (s : State) (buffer : Nat) (f : Nat → Nat) :
    (recordRows s buffer f).pending = s.pending := rfl
@[simp] theorem recordRows_draws (s : State) (buffer : Nat) (f : Nat → Nat) :
    (recordRows s buffer f).draws = s.draws := rfl
@[simp] theorem recordRows_time (s : State) (buffer : Nat) (f : Nat → Nat) :
    (recordRows s buffer f).time = s.time := rfl
@[simp] theorem recordRows_regs (s : State) (buffer : Nat) (f : Nat → Nat) :
    (recordRows s buffer f).regs = s.regs := rfl
@[simp] theorem recordRows_mem (s : State) (buffer : Nat) (f : Nat → Nat) : (recordRows s buffer f).mem = s.mem := rfl
@[simp] theorem recordRows_host (s : State) (buffer : Nat) (f : Nat → Nat) :
    (recordRows s buffer f).host = s.host := rfl
@[simp] theorem recordRows_hif (s : State) (buffer : Nat) (f : Nat → Nat) : (recordRows s buffer f).hif = s.hif := rfl
@[simp] theorem recordRows_ops (s : State) (buffer : Nat) (f : Nat → Nat) : (recordRows s buffer f).ops = s.ops := rfl
@[simp] theorem recordRows_opNext (s : State) (buffer : Nat) (f : Nat → Nat) :
    (recordRows s buffer f).opNext = s.opNext := rfl
@[simp] theorem recordRows_fab (s : State) (buffer : Nat) (f : Nat → Nat) : (recordRows s buffer f).fab = s.fab := rfl
@[simp] theorem recordRows_flt (s : State) (buffer : Nat) (f : Nat → Nat) : (recordRows s buffer f).flt = s.flt := rfl
@[simp] theorem recordRows_mif (s : State) (buffer : Nat) (f : Nat → Nat) : (recordRows s buffer f).mif = s.mif := rfl
@[simp] theorem recordRows_chime (s : State) (buffer : Nat) (f : Nat → Nat) :
    (recordRows s buffer f).chime = s.chime := rfl
@[simp] theorem recordRows_fin (s : State) (buffer : Nat) (f : Nat → Nat) : (recordRows s buffer f).fin = s.fin := rfl
@[simp] theorem recordRows_wamos (s : State) (buffer : Nat) (f : Nat → Nat) :
    (recordRows s buffer f).wamos = s.wamos := rfl

/-! ### groupUpdate -/

@[simp] theorem groupUpdate_pending (s : State) (off step : Nat) (f : GroupStep → GroupStep) :
    (groupUpdate s off step f).pending = s.pending := rfl
@[simp] theorem groupUpdate_draws (s : State) (off step : Nat) (f : GroupStep → GroupStep) :
    (groupUpdate s off step f).draws = s.draws := rfl
@[simp] theorem groupUpdate_time (s : State) (off step : Nat) (f : GroupStep → GroupStep) :
    (groupUpdate s off step f).time = s.time := rfl
@[simp] theorem groupUpdate_regs (s : State) (off step : Nat) (f : GroupStep → GroupStep) :
    (groupUpdate s off step f).regs = s.regs := rfl
@[simp] theorem groupUpdate_mem (s : State) (off step : Nat) (f : GroupStep → GroupStep) :
    (groupUpdate s off step f).mem = s.mem := rfl
@[simp] theorem groupUpdate_host (s : State) (off step : Nat) (f : GroupStep → GroupStep) :
    (groupUpdate s off step f).host = s.host := rfl
@[simp] theorem groupUpdate_hif (s : State) (off step : Nat) (f : GroupStep → GroupStep) :
    (groupUpdate s off step f).hif = s.hif := rfl
@[simp] theorem groupUpdate_ops (s : State) (off step : Nat) (f : GroupStep → GroupStep) :
    (groupUpdate s off step f).ops = s.ops := rfl
@[simp] theorem groupUpdate_opNext (s : State) (off step : Nat) (f : GroupStep → GroupStep) :
    (groupUpdate s off step f).opNext = s.opNext := rfl
@[simp] theorem groupUpdate_fab (s : State) (off step : Nat) (f : GroupStep → GroupStep) :
    (groupUpdate s off step f).fab = s.fab := rfl
@[simp] theorem groupUpdate_flt (s : State) (off step : Nat) (f : GroupStep → GroupStep) :
    (groupUpdate s off step f).flt = s.flt := rfl
@[simp] theorem groupUpdate_mif (s : State) (off step : Nat) (f : GroupStep → GroupStep) :
    (groupUpdate s off step f).mif = s.mif := rfl
@[simp] theorem groupUpdate_chime (s : State) (off step : Nat) (f : GroupStep → GroupStep) :
    (groupUpdate s off step f).chime = s.chime := rfl
@[simp] theorem groupUpdate_fin (s : State) (off step : Nat) (f : GroupStep → GroupStep) :
    (groupUpdate s off step f).fin = s.fin := rfl
@[simp] theorem groupUpdate_wamos (s : State) (off step : Nat) (f : GroupStep → GroupStep) :
    (groupUpdate s off step f).wamos = s.wamos := rfl

/-! ### demote -/

@[simp] theorem demote_pending (s : State) (table tver step : Nat) (p : Replica → Bool) :
    (demote s table tver step p).pending = s.pending := rfl
@[simp] theorem demote_draws (s : State) (table tver step : Nat) (p : Replica → Bool) :
    (demote s table tver step p).draws = s.draws := rfl
@[simp] theorem demote_time (s : State) (table tver step : Nat) (p : Replica → Bool) :
    (demote s table tver step p).time = s.time := rfl
@[simp] theorem demote_regs (s : State) (table tver step : Nat) (p : Replica → Bool) :
    (demote s table tver step p).regs = s.regs := rfl
@[simp] theorem demote_mem (s : State) (table tver step : Nat) (p : Replica → Bool) :
    (demote s table tver step p).mem = s.mem := rfl
@[simp] theorem demote_host (s : State) (table tver step : Nat) (p : Replica → Bool) :
    (demote s table tver step p).host = s.host := rfl
@[simp] theorem demote_hif (s : State) (table tver step : Nat) (p : Replica → Bool) :
    (demote s table tver step p).hif = s.hif := rfl
@[simp] theorem demote_ops (s : State) (table tver step : Nat) (p : Replica → Bool) :
    (demote s table tver step p).ops = s.ops := rfl
@[simp] theorem demote_opNext (s : State) (table tver step : Nat) (p : Replica → Bool) :
    (demote s table tver step p).opNext = s.opNext := rfl
@[simp] theorem demote_fab (s : State) (table tver step : Nat) (p : Replica → Bool) :
    (demote s table tver step p).fab = s.fab := rfl
@[simp] theorem demote_flt (s : State) (table tver step : Nat) (p : Replica → Bool) :
    (demote s table tver step p).flt = s.flt := rfl
@[simp] theorem demote_mif (s : State) (table tver step : Nat) (p : Replica → Bool) :
    (demote s table tver step p).mif = s.mif := rfl
@[simp] theorem demote_chime (s : State) (table tver step : Nat) (p : Replica → Bool) :
    (demote s table tver step p).chime = s.chime := rfl
@[simp] theorem demote_fin (s : State) (table tver step : Nat) (p : Replica → Bool) :
    (demote s table tver step p).fin = s.fin := rfl
@[simp] theorem demote_wamos (s : State) (table tver step : Nat) (p : Replica → Bool) :
    (demote s table tver step p).wamos = s.wamos := rfl

/-! ### epochClose -/

@[simp] theorem epochClose_pending (s : State) (ring : Nat) : (epochClose s ring).pending = s.pending := rfl
@[simp] theorem epochClose_draws (s : State) (ring : Nat) : (epochClose s ring).draws = s.draws := rfl
@[simp] theorem epochClose_time (s : State) (ring : Nat) : (epochClose s ring).time = s.time := rfl
@[simp] theorem epochClose_regs (s : State) (ring : Nat) : (epochClose s ring).regs = s.regs := rfl
@[simp] theorem epochClose_mem (s : State) (ring : Nat) : (epochClose s ring).mem = s.mem := rfl
@[simp] theorem epochClose_host (s : State) (ring : Nat) : (epochClose s ring).host = s.host := rfl
@[simp] theorem epochClose_hif (s : State) (ring : Nat) : (epochClose s ring).hif = s.hif := rfl
@[simp] theorem epochClose_ops (s : State) (ring : Nat) : (epochClose s ring).ops = s.ops := rfl
@[simp] theorem epochClose_opNext (s : State) (ring : Nat) : (epochClose s ring).opNext = s.opNext := rfl
@[simp] theorem epochClose_fab (s : State) (ring : Nat) : (epochClose s ring).fab = s.fab := rfl
@[simp] theorem epochClose_flt (s : State) (ring : Nat) : (epochClose s ring).flt = s.flt := rfl
@[simp] theorem epochClose_mif (s : State) (ring : Nat) : (epochClose s ring).mif = s.mif := rfl
@[simp] theorem epochClose_chime (s : State) (ring : Nat) : (epochClose s ring).chime = s.chime := rfl
@[simp] theorem epochClose_fin (s : State) (ring : Nat) : (epochClose s ring).fin = s.fin := rfl
@[simp] theorem epochClose_wamos (s : State) (ring : Nat) : (epochClose s ring).wamos = s.wamos := rfl

/-! ### txnDrop -/

@[simp] theorem txnDrop_pending (s : State) (num : Nat) : (txnDrop s num).pending = s.pending := rfl
@[simp] theorem txnDrop_draws (s : State) (num : Nat) : (txnDrop s num).draws = s.draws := rfl
@[simp] theorem txnDrop_time (s : State) (num : Nat) : (txnDrop s num).time = s.time := rfl
@[simp] theorem txnDrop_regs (s : State) (num : Nat) : (txnDrop s num).regs = s.regs := rfl
@[simp] theorem txnDrop_mem (s : State) (num : Nat) : (txnDrop s num).mem = s.mem := rfl
@[simp] theorem txnDrop_host (s : State) (num : Nat) : (txnDrop s num).host = s.host := rfl
@[simp] theorem txnDrop_hif (s : State) (num : Nat) : (txnDrop s num).hif = s.hif := rfl
@[simp] theorem txnDrop_ops (s : State) (num : Nat) : (txnDrop s num).ops = s.ops := rfl
@[simp] theorem txnDrop_opNext (s : State) (num : Nat) : (txnDrop s num).opNext = s.opNext := rfl
@[simp] theorem txnDrop_fab (s : State) (num : Nat) : (txnDrop s num).fab = s.fab := rfl
@[simp] theorem txnDrop_flt (s : State) (num : Nat) : (txnDrop s num).flt = s.flt := rfl
@[simp] theorem txnDrop_mif (s : State) (num : Nat) : (txnDrop s num).mif = s.mif := rfl
@[simp] theorem txnDrop_chime (s : State) (num : Nat) : (txnDrop s num).chime = s.chime := rfl
@[simp] theorem txnDrop_fin (s : State) (num : Nat) : (txnDrop s num).fin = s.fin := rfl
@[simp] theorem txnDrop_wamos (s : State) (num : Nat) : (txnDrop s num).wamos = s.wamos := rfl

/-! ### abortWork -/

@[simp] theorem abortWork_pending (s : State) (step : Nat) : (abortWork s step).pending = s.pending := rfl
@[simp] theorem abortWork_draws (s : State) (step : Nat) : (abortWork s step).draws = s.draws := rfl
@[simp] theorem abortWork_time (s : State) (step : Nat) : (abortWork s step).time = s.time := rfl
@[simp] theorem abortWork_regs (s : State) (step : Nat) : (abortWork s step).regs = s.regs := rfl
@[simp] theorem abortWork_mem (s : State) (step : Nat) : (abortWork s step).mem = s.mem := rfl
@[simp] theorem abortWork_host (s : State) (step : Nat) : (abortWork s step).host = s.host := rfl
@[simp] theorem abortWork_hif (s : State) (step : Nat) : (abortWork s step).hif = s.hif := rfl
@[simp] theorem abortWork_opNext (s : State) (step : Nat) : (abortWork s step).opNext = s.opNext := rfl
@[simp] theorem abortWork_dome (s : State) (step : Nat) : (abortWork s step).dome = s.dome := rfl
@[simp] theorem abortWork_fab (s : State) (step : Nat) : (abortWork s step).fab = s.fab := rfl
@[simp] theorem abortWork_flt (s : State) (step : Nat) : (abortWork s step).flt = s.flt := rfl
@[simp] theorem abortWork_mif (s : State) (step : Nat) : (abortWork s step).mif = s.mif := rfl
@[simp] theorem abortWork_chime (s : State) (step : Nat) : (abortWork s step).chime = s.chime := rfl
@[simp] theorem abortWork_fin (s : State) (step : Nat) : (abortWork s step).fin = s.fin := rfl
@[simp] theorem abortWork_wamos (s : State) (step : Nat) : (abortWork s step).wamos = s.wamos := rfl

/-! ### ringPut -/

@[simp] theorem ringPut_pending (s : State) (r : Nat) (x : Ring) : (ringPut s r x).pending = s.pending := rfl
@[simp] theorem ringPut_draws (s : State) (r : Nat) (x : Ring) : (ringPut s r x).draws = s.draws := rfl
@[simp] theorem ringPut_time (s : State) (r : Nat) (x : Ring) : (ringPut s r x).time = s.time := rfl
@[simp] theorem ringPut_regs (s : State) (r : Nat) (x : Ring) : (ringPut s r x).regs = s.regs := rfl
@[simp] theorem ringPut_mem (s : State) (r : Nat) (x : Ring) : (ringPut s r x).mem = s.mem := rfl
@[simp] theorem ringPut_host (s : State) (r : Nat) (x : Ring) : (ringPut s r x).host = s.host := rfl
@[simp] theorem ringPut_ops (s : State) (r : Nat) (x : Ring) : (ringPut s r x).ops = s.ops := rfl
@[simp] theorem ringPut_opNext (s : State) (r : Nat) (x : Ring) : (ringPut s r x).opNext = s.opNext := rfl
@[simp] theorem ringPut_dome (s : State) (r : Nat) (x : Ring) : (ringPut s r x).dome = s.dome := rfl
@[simp] theorem ringPut_fab (s : State) (r : Nat) (x : Ring) : (ringPut s r x).fab = s.fab := rfl
@[simp] theorem ringPut_flt (s : State) (r : Nat) (x : Ring) : (ringPut s r x).flt = s.flt := rfl
@[simp] theorem ringPut_mif (s : State) (r : Nat) (x : Ring) : (ringPut s r x).mif = s.mif := rfl
@[simp] theorem ringPut_chime (s : State) (r : Nat) (x : Ring) : (ringPut s r x).chime = s.chime := rfl
@[simp] theorem ringPut_fin (s : State) (r : Nat) (x : Ring) : (ringPut s r x).fin = s.fin := rfl
@[simp] theorem ringPut_wamos (s : State) (r : Nat) (x : Ring) : (ringPut s r x).wamos = s.wamos := rfl

/-! ### opGone -/

@[simp] theorem opGone_pending (s : State) (id : Nat) : (opGone s id).pending = s.pending := rfl
@[simp] theorem opGone_draws (s : State) (id : Nat) : (opGone s id).draws = s.draws := rfl
@[simp] theorem opGone_time (s : State) (id : Nat) : (opGone s id).time = s.time := rfl
@[simp] theorem opGone_regs (s : State) (id : Nat) : (opGone s id).regs = s.regs := rfl
@[simp] theorem opGone_mem (s : State) (id : Nat) : (opGone s id).mem = s.mem := rfl
@[simp] theorem opGone_host (s : State) (id : Nat) : (opGone s id).host = s.host := rfl
@[simp] theorem opGone_hif (s : State) (id : Nat) : (opGone s id).hif = s.hif := rfl
@[simp] theorem opGone_opNext (s : State) (id : Nat) : (opGone s id).opNext = s.opNext := rfl
@[simp] theorem opGone_dome (s : State) (id : Nat) : (opGone s id).dome = s.dome := rfl
@[simp] theorem opGone_fab (s : State) (id : Nat) : (opGone s id).fab = s.fab := rfl
@[simp] theorem opGone_flt (s : State) (id : Nat) : (opGone s id).flt = s.flt := rfl
@[simp] theorem opGone_mif (s : State) (id : Nat) : (opGone s id).mif = s.mif := rfl
@[simp] theorem opGone_chime (s : State) (id : Nat) : (opGone s id).chime = s.chime := rfl
@[simp] theorem opGone_fin (s : State) (id : Nat) : (opGone s id).fin = s.fin := rfl
@[simp] theorem opGone_wamos (s : State) (id : Nat) : (opGone s id).wamos = s.wamos := rfl

/-! ### replaysOver -/

@[simp] theorem replaysOver_pending (s : State) (stream : Nat) : (replaysOver s stream).pending = s.pending := rfl
@[simp] theorem replaysOver_draws (s : State) (stream : Nat) : (replaysOver s stream).draws = s.draws := rfl
@[simp] theorem replaysOver_time (s : State) (stream : Nat) : (replaysOver s stream).time = s.time := rfl
@[simp] theorem replaysOver_regs (s : State) (stream : Nat) : (replaysOver s stream).regs = s.regs := rfl
@[simp] theorem replaysOver_mem (s : State) (stream : Nat) : (replaysOver s stream).mem = s.mem := rfl
@[simp] theorem replaysOver_host (s : State) (stream : Nat) : (replaysOver s stream).host = s.host := rfl
@[simp] theorem replaysOver_hif (s : State) (stream : Nat) : (replaysOver s stream).hif = s.hif := rfl
@[simp] theorem replaysOver_ops (s : State) (stream : Nat) : (replaysOver s stream).ops = s.ops := rfl
@[simp] theorem replaysOver_opNext (s : State) (stream : Nat) : (replaysOver s stream).opNext = s.opNext := rfl
@[simp] theorem replaysOver_dome (s : State) (stream : Nat) : (replaysOver s stream).dome = s.dome := rfl
@[simp] theorem replaysOver_fab (s : State) (stream : Nat) : (replaysOver s stream).fab = s.fab := rfl
@[simp] theorem replaysOver_flt (s : State) (stream : Nat) : (replaysOver s stream).flt = s.flt := rfl
@[simp] theorem replaysOver_chime (s : State) (stream : Nat) : (replaysOver s stream).chime = s.chime := rfl
@[simp] theorem replaysOver_fin (s : State) (stream : Nat) : (replaysOver s stream).fin = s.fin := rfl
@[simp] theorem replaysOver_wamos (s : State) (stream : Nat) : (replaysOver s stream).wamos = s.wamos := rfl

/-! ### slotsHold -/

@[simp] theorem slotsHold_pending (s : State) (r c : Nat) (descs : List (List Byte)) :
    (slotsHold s r c descs).pending = s.pending := rfl
@[simp] theorem slotsHold_draws (s : State) (r c : Nat) (descs : List (List Byte)) :
    (slotsHold s r c descs).draws = s.draws := rfl
@[simp] theorem slotsHold_time (s : State) (r c : Nat) (descs : List (List Byte)) :
    (slotsHold s r c descs).time = s.time := rfl
@[simp] theorem slotsHold_regs (s : State) (r c : Nat) (descs : List (List Byte)) :
    (slotsHold s r c descs).regs = s.regs := rfl
@[simp] theorem slotsHold_mem (s : State) (r c : Nat) (descs : List (List Byte)) :
    (slotsHold s r c descs).mem = s.mem := rfl
@[simp] theorem slotsHold_hif (s : State) (r c : Nat) (descs : List (List Byte)) :
    (slotsHold s r c descs).hif = s.hif := rfl
@[simp] theorem slotsHold_ops (s : State) (r c : Nat) (descs : List (List Byte)) :
    (slotsHold s r c descs).ops = s.ops := rfl
@[simp] theorem slotsHold_opNext (s : State) (r c : Nat) (descs : List (List Byte)) :
    (slotsHold s r c descs).opNext = s.opNext := rfl
@[simp] theorem slotsHold_dome (s : State) (r c : Nat) (descs : List (List Byte)) :
    (slotsHold s r c descs).dome = s.dome := rfl
@[simp] theorem slotsHold_fab (s : State) (r c : Nat) (descs : List (List Byte)) :
    (slotsHold s r c descs).fab = s.fab := rfl
@[simp] theorem slotsHold_flt (s : State) (r c : Nat) (descs : List (List Byte)) :
    (slotsHold s r c descs).flt = s.flt := rfl
@[simp] theorem slotsHold_mif (s : State) (r c : Nat) (descs : List (List Byte)) :
    (slotsHold s r c descs).mif = s.mif := rfl
@[simp] theorem slotsHold_chime (s : State) (r c : Nat) (descs : List (List Byte)) :
    (slotsHold s r c descs).chime = s.chime := rfl
@[simp] theorem slotsHold_fin (s : State) (r c : Nat) (descs : List (List Byte)) :
    (slotsHold s r c descs).fin = s.fin := rfl
@[simp] theorem slotsHold_wamos (s : State) (r c : Nat) (descs : List (List Byte)) :
    (slotsHold s r c descs).wamos = s.wamos := rfl

/-! ### bar2Answer -/

@[simp] theorem bar2Answer_pending (s : State) (bs : Option (List Byte)) : (bar2Answer s bs).pending = s.pending := rfl
@[simp] theorem bar2Answer_draws (s : State) (bs : Option (List Byte)) : (bar2Answer s bs).draws = s.draws := rfl
@[simp] theorem bar2Answer_time (s : State) (bs : Option (List Byte)) : (bar2Answer s bs).time = s.time := rfl
@[simp] theorem bar2Answer_regs (s : State) (bs : Option (List Byte)) : (bar2Answer s bs).regs = s.regs := rfl
@[simp] theorem bar2Answer_mem (s : State) (bs : Option (List Byte)) : (bar2Answer s bs).mem = s.mem := rfl
@[simp] theorem bar2Answer_host (s : State) (bs : Option (List Byte)) : (bar2Answer s bs).host = s.host := rfl
@[simp] theorem bar2Answer_hif (s : State) (bs : Option (List Byte)) : (bar2Answer s bs).hif = s.hif := rfl
@[simp] theorem bar2Answer_ops (s : State) (bs : Option (List Byte)) : (bar2Answer s bs).ops = s.ops := rfl
@[simp] theorem bar2Answer_opNext (s : State) (bs : Option (List Byte)) : (bar2Answer s bs).opNext = s.opNext := rfl
@[simp] theorem bar2Answer_dome (s : State) (bs : Option (List Byte)) : (bar2Answer s bs).dome = s.dome := rfl
@[simp] theorem bar2Answer_fab (s : State) (bs : Option (List Byte)) : (bar2Answer s bs).fab = s.fab := rfl
@[simp] theorem bar2Answer_flt (s : State) (bs : Option (List Byte)) : (bar2Answer s bs).flt = s.flt := rfl
@[simp] theorem bar2Answer_chime (s : State) (bs : Option (List Byte)) : (bar2Answer s bs).chime = s.chime := rfl
@[simp] theorem bar2Answer_fin (s : State) (bs : Option (List Byte)) : (bar2Answer s bs).fin = s.fin := rfl
@[simp] theorem bar2Answer_wamos (s : State) (bs : Option (List Byte)) : (bar2Answer s bs).wamos = s.wamos := rfl

/-! ### dropRead -/

@[simp] theorem dropRead_pending (s : State) (tag : Nat) : (dropRead s tag).pending = s.pending := rfl
@[simp] theorem dropRead_draws (s : State) (tag : Nat) : (dropRead s tag).draws = s.draws := rfl
@[simp] theorem dropRead_time (s : State) (tag : Nat) : (dropRead s tag).time = s.time := rfl
@[simp] theorem dropRead_regs (s : State) (tag : Nat) : (dropRead s tag).regs = s.regs := rfl
@[simp] theorem dropRead_mem (s : State) (tag : Nat) : (dropRead s tag).mem = s.mem := rfl
@[simp] theorem dropRead_host (s : State) (tag : Nat) : (dropRead s tag).host = s.host := rfl
@[simp] theorem dropRead_ops (s : State) (tag : Nat) : (dropRead s tag).ops = s.ops := rfl
@[simp] theorem dropRead_opNext (s : State) (tag : Nat) : (dropRead s tag).opNext = s.opNext := rfl
@[simp] theorem dropRead_dome (s : State) (tag : Nat) : (dropRead s tag).dome = s.dome := rfl
@[simp] theorem dropRead_fab (s : State) (tag : Nat) : (dropRead s tag).fab = s.fab := rfl
@[simp] theorem dropRead_flt (s : State) (tag : Nat) : (dropRead s tag).flt = s.flt := rfl
@[simp] theorem dropRead_mif (s : State) (tag : Nat) : (dropRead s tag).mif = s.mif := rfl
@[simp] theorem dropRead_chime (s : State) (tag : Nat) : (dropRead s tag).chime = s.chime := rfl
@[simp] theorem dropRead_fin (s : State) (tag : Nat) : (dropRead s tag).fin = s.fin := rfl
@[simp] theorem dropRead_wamos (s : State) (tag : Nat) : (dropRead s tag).wamos = s.wamos := rfl

/-! ### sayLine -/

@[simp] theorem sayLine_pending (s : State) (l : String) : (sayLine s l).pending = s.pending := rfl
@[simp] theorem sayLine_draws (s : State) (l : String) : (sayLine s l).draws = s.draws := rfl
@[simp] theorem sayLine_time (s : State) (l : String) : (sayLine s l).time = s.time := rfl
@[simp] theorem sayLine_regs (s : State) (l : String) : (sayLine s l).regs = s.regs := rfl
@[simp] theorem sayLine_mem (s : State) (l : String) : (sayLine s l).mem = s.mem := rfl
@[simp] theorem sayLine_host (s : State) (l : String) : (sayLine s l).host = s.host := rfl
@[simp] theorem sayLine_hif (s : State) (l : String) : (sayLine s l).hif = s.hif := rfl
@[simp] theorem sayLine_ops (s : State) (l : String) : (sayLine s l).ops = s.ops := rfl
@[simp] theorem sayLine_opNext (s : State) (l : String) : (sayLine s l).opNext = s.opNext := rfl
@[simp] theorem sayLine_dome (s : State) (l : String) : (sayLine s l).dome = s.dome := rfl
@[simp] theorem sayLine_fab (s : State) (l : String) : (sayLine s l).fab = s.fab := rfl
@[simp] theorem sayLine_flt (s : State) (l : String) : (sayLine s l).flt = s.flt := rfl
@[simp] theorem sayLine_mif (s : State) (l : String) : (sayLine s l).mif = s.mif := rfl
@[simp] theorem sayLine_chime (s : State) (l : String) : (sayLine s l).chime = s.chime := rfl
@[simp] theorem sayLine_fin (s : State) (l : String) : (sayLine s l).fin = s.fin := rfl

/-! ### stopMemory -/

@[simp] theorem stopMemory_pending (s : State) (ds : List Nat) : (stopMemory s ds).pending = s.pending := rfl
@[simp] theorem stopMemory_draws (s : State) (ds : List Nat) : (stopMemory s ds).draws = s.draws := rfl
@[simp] theorem stopMemory_time (s : State) (ds : List Nat) : (stopMemory s ds).time = s.time := rfl
@[simp] theorem stopMemory_regs (s : State) (ds : List Nat) : (stopMemory s ds).regs = s.regs := rfl
@[simp] theorem stopMemory_mem (s : State) (ds : List Nat) : (stopMemory s ds).mem = s.mem := rfl
@[simp] theorem stopMemory_host (s : State) (ds : List Nat) : (stopMemory s ds).host = s.host := rfl
@[simp] theorem stopMemory_hif (s : State) (ds : List Nat) : (stopMemory s ds).hif = s.hif := rfl
@[simp] theorem stopMemory_ops (s : State) (ds : List Nat) : (stopMemory s ds).ops = s.ops := rfl
@[simp] theorem stopMemory_opNext (s : State) (ds : List Nat) : (stopMemory s ds).opNext = s.opNext := rfl
@[simp] theorem stopMemory_dome (s : State) (ds : List Nat) : (stopMemory s ds).dome = s.dome := rfl
@[simp] theorem stopMemory_fab (s : State) (ds : List Nat) : (stopMemory s ds).fab = s.fab := rfl
@[simp] theorem stopMemory_flt (s : State) (ds : List Nat) : (stopMemory s ds).flt = s.flt := rfl
@[simp] theorem stopMemory_chime (s : State) (ds : List Nat) : (stopMemory s ds).chime = s.chime := rfl
@[simp] theorem stopMemory_fin (s : State) (ds : List Nat) : (stopMemory s ds).fin = s.fin := rfl
@[simp] theorem stopMemory_wamos (s : State) (ds : List Nat) : (stopMemory s ds).wamos = s.wamos := rfl

/-! ### keepRegs -/

@[simp] theorem keepRegs_pending (s : State) (f : Nat → Bool) : (keepRegs s f).pending = s.pending := rfl
@[simp] theorem keepRegs_draws (s : State) (f : Nat → Bool) : (keepRegs s f).draws = s.draws := rfl
@[simp] theorem keepRegs_time (s : State) (f : Nat → Bool) : (keepRegs s f).time = s.time := rfl
@[simp] theorem keepRegs_mem (s : State) (f : Nat → Bool) : (keepRegs s f).mem = s.mem := rfl
@[simp] theorem keepRegs_host (s : State) (f : Nat → Bool) : (keepRegs s f).host = s.host := rfl
@[simp] theorem keepRegs_hif (s : State) (f : Nat → Bool) : (keepRegs s f).hif = s.hif := rfl
@[simp] theorem keepRegs_ops (s : State) (f : Nat → Bool) : (keepRegs s f).ops = s.ops := rfl
@[simp] theorem keepRegs_opNext (s : State) (f : Nat → Bool) : (keepRegs s f).opNext = s.opNext := rfl
@[simp] theorem keepRegs_dome (s : State) (f : Nat → Bool) : (keepRegs s f).dome = s.dome := rfl
@[simp] theorem keepRegs_fab (s : State) (f : Nat → Bool) : (keepRegs s f).fab = s.fab := rfl
@[simp] theorem keepRegs_flt (s : State) (f : Nat → Bool) : (keepRegs s f).flt = s.flt := rfl
@[simp] theorem keepRegs_mif (s : State) (f : Nat → Bool) : (keepRegs s f).mif = s.mif := rfl
@[simp] theorem keepRegs_chime (s : State) (f : Nat → Bool) : (keepRegs s f).chime = s.chime := rfl
@[simp] theorem keepRegs_fin (s : State) (f : Nat → Bool) : (keepRegs s f).fin = s.fin := rfl
@[simp] theorem keepRegs_wamos (s : State) (f : Nat → Bool) : (keepRegs s f).wamos = s.wamos := rfl

/-! ### chmLatch -/

@[simp] theorem chmLatch_pending (s : State) : (chmLatch s).pending = s.pending := rfl
@[simp] theorem chmLatch_draws (s : State) : (chmLatch s).draws = s.draws := rfl
@[simp] theorem chmLatch_time (s : State) : (chmLatch s).time = s.time := rfl
@[simp] theorem chmLatch_regs (s : State) : (chmLatch s).regs = s.regs := rfl
@[simp] theorem chmLatch_mem (s : State) : (chmLatch s).mem = s.mem := rfl
@[simp] theorem chmLatch_host (s : State) : (chmLatch s).host = s.host := rfl
@[simp] theorem chmLatch_hif (s : State) : (chmLatch s).hif = s.hif := rfl
@[simp] theorem chmLatch_ops (s : State) : (chmLatch s).ops = s.ops := rfl
@[simp] theorem chmLatch_opNext (s : State) : (chmLatch s).opNext = s.opNext := rfl
@[simp] theorem chmLatch_dome (s : State) : (chmLatch s).dome = s.dome := rfl
@[simp] theorem chmLatch_fab (s : State) : (chmLatch s).fab = s.fab := rfl
@[simp] theorem chmLatch_flt (s : State) : (chmLatch s).flt = s.flt := rfl
@[simp] theorem chmLatch_mif (s : State) : (chmLatch s).mif = s.mif := rfl
@[simp] theorem chmLatch_fin (s : State) : (chmLatch s).fin = s.fin := rfl
@[simp] theorem chmLatch_wamos (s : State) : (chmLatch s).wamos = s.wamos := rfl

/-! ### vfPut -/

@[simp] theorem vfPut_pending (s : State) (k : Nat) (v : Option VfRec) : (vfPut s k v).pending = s.pending := rfl
@[simp] theorem vfPut_draws (s : State) (k : Nat) (v : Option VfRec) : (vfPut s k v).draws = s.draws := rfl
@[simp] theorem vfPut_time (s : State) (k : Nat) (v : Option VfRec) : (vfPut s k v).time = s.time := rfl
@[simp] theorem vfPut_regs (s : State) (k : Nat) (v : Option VfRec) : (vfPut s k v).regs = s.regs := rfl
@[simp] theorem vfPut_mem (s : State) (k : Nat) (v : Option VfRec) : (vfPut s k v).mem = s.mem := rfl
@[simp] theorem vfPut_host (s : State) (k : Nat) (v : Option VfRec) : (vfPut s k v).host = s.host := rfl
@[simp] theorem vfPut_hif (s : State) (k : Nat) (v : Option VfRec) : (vfPut s k v).hif = s.hif := rfl
@[simp] theorem vfPut_ops (s : State) (k : Nat) (v : Option VfRec) : (vfPut s k v).ops = s.ops := rfl
@[simp] theorem vfPut_opNext (s : State) (k : Nat) (v : Option VfRec) : (vfPut s k v).opNext = s.opNext := rfl
@[simp] theorem vfPut_dome (s : State) (k : Nat) (v : Option VfRec) : (vfPut s k v).dome = s.dome := rfl
@[simp] theorem vfPut_fab (s : State) (k : Nat) (v : Option VfRec) : (vfPut s k v).fab = s.fab := rfl
@[simp] theorem vfPut_flt (s : State) (k : Nat) (v : Option VfRec) : (vfPut s k v).flt = s.flt := rfl
@[simp] theorem vfPut_mif (s : State) (k : Nat) (v : Option VfRec) : (vfPut s k v).mif = s.mif := rfl
@[simp] theorem vfPut_fin (s : State) (k : Nat) (v : Option VfRec) : (vfPut s k v).fin = s.fin := rfl
@[simp] theorem vfPut_wamos (s : State) (k : Nat) (v : Option VfRec) : (vfPut s k v).wamos = s.wamos := rfl

/-! ### stageBegin -/

@[simp] theorem stageBegin_pending (s : State) : (stageBegin s).pending = s.pending := rfl
@[simp] theorem stageBegin_draws (s : State) : (stageBegin s).draws = s.draws := rfl
@[simp] theorem stageBegin_time (s : State) : (stageBegin s).time = s.time := rfl
@[simp] theorem stageBegin_regs (s : State) : (stageBegin s).regs = s.regs := rfl
@[simp] theorem stageBegin_mem (s : State) : (stageBegin s).mem = s.mem := rfl
@[simp] theorem stageBegin_host (s : State) : (stageBegin s).host = s.host := rfl
@[simp] theorem stageBegin_hif (s : State) : (stageBegin s).hif = s.hif := rfl
@[simp] theorem stageBegin_ops (s : State) : (stageBegin s).ops = s.ops := rfl
@[simp] theorem stageBegin_opNext (s : State) : (stageBegin s).opNext = s.opNext := rfl
@[simp] theorem stageBegin_dome (s : State) : (stageBegin s).dome = s.dome := rfl
@[simp] theorem stageBegin_fab (s : State) : (stageBegin s).fab = s.fab := rfl
@[simp] theorem stageBegin_flt (s : State) : (stageBegin s).flt = s.flt := rfl
@[simp] theorem stageBegin_mif (s : State) : (stageBegin s).mif = s.mif := rfl
@[simp] theorem stageBegin_chime (s : State) : (stageBegin s).chime = s.chime := rfl
@[simp] theorem stageBegin_wamos (s : State) : (stageBegin s).wamos = s.wamos := rfl

/-! ### flashPut -/

@[simp] theorem flashPut_pending (s : State) (belfry : Bool) (im : List Byte) :
    (flashPut s belfry im).pending = s.pending := rfl
@[simp] theorem flashPut_draws (s : State) (belfry : Bool) (im : List Byte) :
    (flashPut s belfry im).draws = s.draws := rfl
@[simp] theorem flashPut_time (s : State) (belfry : Bool) (im : List Byte) :
    (flashPut s belfry im).time = s.time := rfl
@[simp] theorem flashPut_regs (s : State) (belfry : Bool) (im : List Byte) :
    (flashPut s belfry im).regs = s.regs := rfl
@[simp] theorem flashPut_mem (s : State) (belfry : Bool) (im : List Byte) : (flashPut s belfry im).mem = s.mem := rfl
@[simp] theorem flashPut_host (s : State) (belfry : Bool) (im : List Byte) :
    (flashPut s belfry im).host = s.host := rfl
@[simp] theorem flashPut_hif (s : State) (belfry : Bool) (im : List Byte) : (flashPut s belfry im).hif = s.hif := rfl
@[simp] theorem flashPut_ops (s : State) (belfry : Bool) (im : List Byte) : (flashPut s belfry im).ops = s.ops := rfl
@[simp] theorem flashPut_opNext (s : State) (belfry : Bool) (im : List Byte) :
    (flashPut s belfry im).opNext = s.opNext := rfl
@[simp] theorem flashPut_dome (s : State) (belfry : Bool) (im : List Byte) :
    (flashPut s belfry im).dome = s.dome := rfl
@[simp] theorem flashPut_fab (s : State) (belfry : Bool) (im : List Byte) : (flashPut s belfry im).fab = s.fab := rfl
@[simp] theorem flashPut_flt (s : State) (belfry : Bool) (im : List Byte) : (flashPut s belfry im).flt = s.flt := rfl
@[simp] theorem flashPut_mif (s : State) (belfry : Bool) (im : List Byte) : (flashPut s belfry im).mif = s.mif := rfl
@[simp] theorem flashPut_chime (s : State) (belfry : Bool) (im : List Byte) :
    (flashPut s belfry im).chime = s.chime := rfl
@[simp] theorem flashPut_wamos (s : State) (belfry : Bool) (im : List Byte) :
    (flashPut s belfry im).wamos = s.wamos := rfl

/-! ### replaysEnd -/

@[simp] theorem replaysEnd_pending (s : State) (who : Accessor) (a n : Nat) :
    (replaysEnd s who a n).pending = s.pending := rfl
@[simp] theorem replaysEnd_draws (s : State) (who : Accessor) (a n : Nat) :
    (replaysEnd s who a n).draws = s.draws := rfl
@[simp] theorem replaysEnd_time (s : State) (who : Accessor) (a n : Nat) : (replaysEnd s who a n).time = s.time := rfl
@[simp] theorem replaysEnd_regs (s : State) (who : Accessor) (a n : Nat) : (replaysEnd s who a n).regs = s.regs := rfl
@[simp] theorem replaysEnd_mem (s : State) (who : Accessor) (a n : Nat) : (replaysEnd s who a n).mem = s.mem := rfl
@[simp] theorem replaysEnd_host (s : State) (who : Accessor) (a n : Nat) : (replaysEnd s who a n).host = s.host := rfl
@[simp] theorem replaysEnd_hif (s : State) (who : Accessor) (a n : Nat) : (replaysEnd s who a n).hif = s.hif := rfl
@[simp] theorem replaysEnd_ops (s : State) (who : Accessor) (a n : Nat) : (replaysEnd s who a n).ops = s.ops := rfl
@[simp] theorem replaysEnd_opNext (s : State) (who : Accessor) (a n : Nat) :
    (replaysEnd s who a n).opNext = s.opNext := rfl
@[simp] theorem replaysEnd_dome (s : State) (who : Accessor) (a n : Nat) : (replaysEnd s who a n).dome = s.dome := rfl
@[simp] theorem replaysEnd_fab (s : State) (who : Accessor) (a n : Nat) : (replaysEnd s who a n).fab = s.fab := rfl
@[simp] theorem replaysEnd_flt (s : State) (who : Accessor) (a n : Nat) : (replaysEnd s who a n).flt = s.flt := rfl
@[simp] theorem replaysEnd_chime (s : State) (who : Accessor) (a n : Nat) :
    (replaysEnd s who a n).chime = s.chime := rfl
@[simp] theorem replaysEnd_fin (s : State) (who : Accessor) (a n : Nat) : (replaysEnd s who a n).fin = s.fin := rfl
@[simp] theorem replaysEnd_wamos (s : State) (who : Accessor) (a n : Nat) :
    (replaysEnd s who a n).wamos = s.wamos := rfl

/-! ### phaseTick -/

@[simp] theorem phaseTick_pending (s : State) : (phaseTick s).pending = s.pending := rfl
@[simp] theorem phaseTick_draws (s : State) : (phaseTick s).draws = s.draws := rfl
@[simp] theorem phaseTick_time (s : State) : (phaseTick s).time = s.time := rfl
@[simp] theorem phaseTick_regs (s : State) : (phaseTick s).regs = s.regs := rfl
@[simp] theorem phaseTick_mem (s : State) : (phaseTick s).mem = s.mem := rfl
@[simp] theorem phaseTick_host (s : State) : (phaseTick s).host = s.host := rfl
@[simp] theorem phaseTick_hif (s : State) : (phaseTick s).hif = s.hif := rfl
@[simp] theorem phaseTick_ops (s : State) : (phaseTick s).ops = s.ops := rfl
@[simp] theorem phaseTick_opNext (s : State) : (phaseTick s).opNext = s.opNext := rfl
@[simp] theorem phaseTick_fab (s : State) : (phaseTick s).fab = s.fab := rfl
@[simp] theorem phaseTick_flt (s : State) : (phaseTick s).flt = s.flt := rfl
@[simp] theorem phaseTick_mif (s : State) : (phaseTick s).mif = s.mif := rfl
@[simp] theorem phaseTick_chime (s : State) : (phaseTick s).chime = s.chime := rfl
@[simp] theorem phaseTick_fin (s : State) : (phaseTick s).fin = s.fin := rfl
@[simp] theorem phaseTick_wamos (s : State) : (phaseTick s).wamos = s.wamos := rfl

/-! ### challengeSpent -/

@[simp] theorem challengeSpent_pending (s : State) : (challengeSpent s).pending = s.pending := rfl
@[simp] theorem challengeSpent_draws (s : State) : (challengeSpent s).draws = s.draws := rfl
@[simp] theorem challengeSpent_time (s : State) : (challengeSpent s).time = s.time := rfl
@[simp] theorem challengeSpent_regs (s : State) : (challengeSpent s).regs = s.regs := rfl
@[simp] theorem challengeSpent_mem (s : State) : (challengeSpent s).mem = s.mem := rfl
@[simp] theorem challengeSpent_host (s : State) : (challengeSpent s).host = s.host := rfl
@[simp] theorem challengeSpent_hif (s : State) : (challengeSpent s).hif = s.hif := rfl
@[simp] theorem challengeSpent_ops (s : State) : (challengeSpent s).ops = s.ops := rfl
@[simp] theorem challengeSpent_opNext (s : State) : (challengeSpent s).opNext = s.opNext := rfl
@[simp] theorem challengeSpent_dome (s : State) : (challengeSpent s).dome = s.dome := rfl
@[simp] theorem challengeSpent_fab (s : State) : (challengeSpent s).fab = s.fab := rfl
@[simp] theorem challengeSpent_flt (s : State) : (challengeSpent s).flt = s.flt := rfl
@[simp] theorem challengeSpent_mif (s : State) : (challengeSpent s).mif = s.mif := rfl
@[simp] theorem challengeSpent_chime (s : State) : (challengeSpent s).chime = s.chime := rfl
@[simp] theorem challengeSpent_fin (s : State) : (challengeSpent s).fin = s.fin := rfl

/-! ### irLoad -/

@[simp] theorem irLoad_pending (s : State) (code : Nat) : (irLoad s code).pending = s.pending := rfl
@[simp] theorem irLoad_draws (s : State) (code : Nat) : (irLoad s code).draws = s.draws := rfl
@[simp] theorem irLoad_time (s : State) (code : Nat) : (irLoad s code).time = s.time := rfl
@[simp] theorem irLoad_regs (s : State) (code : Nat) : (irLoad s code).regs = s.regs := rfl
@[simp] theorem irLoad_mem (s : State) (code : Nat) : (irLoad s code).mem = s.mem := rfl
@[simp] theorem irLoad_host (s : State) (code : Nat) : (irLoad s code).host = s.host := rfl
@[simp] theorem irLoad_hif (s : State) (code : Nat) : (irLoad s code).hif = s.hif := rfl
@[simp] theorem irLoad_ops (s : State) (code : Nat) : (irLoad s code).ops = s.ops := rfl
@[simp] theorem irLoad_opNext (s : State) (code : Nat) : (irLoad s code).opNext = s.opNext := rfl
@[simp] theorem irLoad_dome (s : State) (code : Nat) : (irLoad s code).dome = s.dome := rfl
@[simp] theorem irLoad_fab (s : State) (code : Nat) : (irLoad s code).fab = s.fab := rfl
@[simp] theorem irLoad_flt (s : State) (code : Nat) : (irLoad s code).flt = s.flt := rfl
@[simp] theorem irLoad_mif (s : State) (code : Nat) : (irLoad s code).mif = s.mif := rfl
@[simp] theorem irLoad_chime (s : State) (code : Nat) : (irLoad s code).chime = s.chime := rfl
@[simp] theorem irLoad_wamos (s : State) (code : Nat) : (irLoad s code).wamos = s.wamos := rfl

end Sys2Proof.Machine
end

