-- ==== Sys2Proof/Tests/Slice0.lean ====
section
/-! SUPPORT. The model's own tests: one ill-formed command for each check of WellFormed,
  worked examples of the manual (each cites its
table or rule), and for every obligation with hypotheses a theorem that shows, clause by clause,
  a concrete state and operands that meet
all of them together. -/
set_option maxRecDepth 100000
set_option Elab.async false
open Sys2Proof Sys2Proof.Machine
namespace Sys2Proof.Tests

/-! ### Ill-formed operands are refused -/

/-- Every field 0. -/
def okHdr : Hdr :=
  { txn := 0, depTag := 0, flags := 0, stream := 0 }
/-- One ill-formed Hdr for each check, refused. -/
theorem wf_hdr :
    okHdr.wf = true ∧
    ({ okHdr with txn := 2 ^ 16 } : Hdr).wf = false ∧
    ({ okHdr with depTag := 2 ^ 16 } : Hdr).wf = false ∧
    ({ okHdr with flags := 2 ^ 10 } : Hdr).wf = false ∧
    ({ okHdr with stream := 2 ^ 14 } : Hdr).wf = false := by
  decide +kernel

/-- Every field 0. -/
def okCopyBody : CopyBody :=
  { src := 0, dst := 0, cmp := 0, bytes := 0, pitch := 0, mask := 0, flags := 0 }
/-- One ill-formed CopyBody for each check, refused. -/
theorem wf_copyBody :
    okCopyBody.wf = true ∧
    ({ okCopyBody with src := 256 ^ 8 } : CopyBody).wf = false ∧
    ({ okCopyBody with dst := 256 ^ 8 } : CopyBody).wf = false ∧
    ({ okCopyBody with cmp := 256 ^ 8 } : CopyBody).wf = false ∧
    ({ okCopyBody with bytes := 256 ^ 8 } : CopyBody).wf = false ∧
    ({ okCopyBody with pitch := 256 ^ 4 } : CopyBody).wf = false ∧
    ({ okCopyBody with mask := 256 ^ 2 } : CopyBody).wf = false ∧
    ({ okCopyBody with flags := 256 ^ 1 } : CopyBody).wf = false := by
  decide +kernel

/-- Every field 0. -/
def okFillBody : FillBody :=
  { dst := 0, bytes := 0, pattern := 0, mask := 0 }
/-- One ill-formed FillBody for each check, refused. -/
theorem wf_fillBody :
    okFillBody.wf = true ∧
    ({ okFillBody with dst := 256 ^ 8 } : FillBody).wf = false ∧
    ({ okFillBody with bytes := 256 ^ 8 } : FillBody).wf = false ∧
    ({ okFillBody with pattern := 256 ^ 8 } : FillBody).wf = false ∧
    ({ okFillBody with mask := 256 ^ 2 } : FillBody).wf = false := by
  decide +kernel

/-- Every field 0. -/
def okGemmBody : GemmBody :=
  { a := 0, b := 0, d := 0, aux := 0, m := 0, aFmt := 0, n := 0, bFmt := 0, k := 0, dFmt := 0, mask := 0, numCtl := 0, flags := 0, outTensor := 0, layer := 0, slices := 0, margin := 0 }
/-- One ill-formed GemmBody for each check, refused. -/
theorem wf_gemmBody :
    okGemmBody.wf = true ∧
    ({ okGemmBody with a := 256 ^ 8 } : GemmBody).wf = false ∧
    ({ okGemmBody with b := 256 ^ 8 } : GemmBody).wf = false ∧
    ({ okGemmBody with d := 256 ^ 8 } : GemmBody).wf = false ∧
    ({ okGemmBody with aux := 256 ^ 8 } : GemmBody).wf = false ∧
    ({ okGemmBody with m := 256 ^ 3 } : GemmBody).wf = false ∧
    ({ okGemmBody with aFmt := 256 ^ 1 } : GemmBody).wf = false ∧
    ({ okGemmBody with n := 256 ^ 3 } : GemmBody).wf = false ∧
    ({ okGemmBody with bFmt := 256 ^ 1 } : GemmBody).wf = false ∧
    ({ okGemmBody with k := 256 ^ 3 } : GemmBody).wf = false ∧
    ({ okGemmBody with dFmt := 256 ^ 1 } : GemmBody).wf = false ∧
    ({ okGemmBody with mask := 256 ^ 2 } : GemmBody).wf = false ∧
    ({ okGemmBody with numCtl := 256 ^ 1 } : GemmBody).wf = false ∧
    ({ okGemmBody with flags := 256 ^ 1 } : GemmBody).wf = false ∧
    ({ okGemmBody with outTensor := 256 ^ 4 } : GemmBody).wf = false ∧
    ({ okGemmBody with layer := 256 ^ 2 } : GemmBody).wf = false ∧
    ({ okGemmBody with slices := 256 ^ 1 } : GemmBody).wf = false ∧
    ({ okGemmBody with margin := 256 ^ 1 } : GemmBody).wf = false := by
  decide +kernel

/-- Every field 0. -/
def okSpspBody : SpspBody :=
  { xRec := 0, yRec := 0, pair := 0, out := 0, pairs := 0, numCtl := 0, flags := 0, mask := 0, count := 0, matchCap := 0 }
/-- One ill-formed SpspBody for each check, refused. -/
theorem wf_spspBody :
    okSpspBody.wf = true ∧
    ({ okSpspBody with xRec := 256 ^ 8 } : SpspBody).wf = false ∧
    ({ okSpspBody with yRec := 256 ^ 8 } : SpspBody).wf = false ∧
    ({ okSpspBody with pair := 256 ^ 8 } : SpspBody).wf = false ∧
    ({ okSpspBody with out := 256 ^ 8 } : SpspBody).wf = false ∧
    ({ okSpspBody with pairs := 256 ^ 4 } : SpspBody).wf = false ∧
    ({ okSpspBody with numCtl := 256 ^ 1 } : SpspBody).wf = false ∧
    ({ okSpspBody with flags := 256 ^ 1 } : SpspBody).wf = false ∧
    ({ okSpspBody with mask := 256 ^ 2 } : SpspBody).wf = false ∧
    ({ okSpspBody with count := 256 ^ 8 } : SpspBody).wf = false ∧
    ({ okSpspBody with matchCap := 256 ^ 4 } : SpspBody).wf = false := by
  decide +kernel

/-- Every field 0. -/
def okElemBody : ElemBody :=
  { prog := 0, stream := 0, rowRes := 0, rows := 0, rowLen := 0, mask := 0, numCtl := 0, flags := 0, outTensor := 0, layer := 0, progLen := 0, prog2Len := 0, tapCfg := 0, tapCfg2 := 0 }
/-- One ill-formed ElemBody for each check, refused. -/
theorem wf_elemBody :
    okElemBody.wf = true ∧
    ({ okElemBody with prog := 256 ^ 8 } : ElemBody).wf = false ∧
    ({ okElemBody with stream := 256 ^ 8 } : ElemBody).wf = false ∧
    ({ okElemBody with rowRes := 256 ^ 8 } : ElemBody).wf = false ∧
    ({ okElemBody with rows := 256 ^ 4 } : ElemBody).wf = false ∧
    ({ okElemBody with rowLen := 256 ^ 4 } : ElemBody).wf = false ∧
    ({ okElemBody with mask := 256 ^ 2 } : ElemBody).wf = false ∧
    ({ okElemBody with numCtl := 256 ^ 1 } : ElemBody).wf = false ∧
    ({ okElemBody with flags := 256 ^ 1 } : ElemBody).wf = false ∧
    ({ okElemBody with outTensor := 256 ^ 4 } : ElemBody).wf = false ∧
    ({ okElemBody with layer := 256 ^ 2 } : ElemBody).wf = false ∧
    ({ okElemBody with progLen := 256 ^ 1 } : ElemBody).wf = false ∧
    ({ okElemBody with prog2Len := 256 ^ 1 } : ElemBody).wf = false ∧
    ({ okElemBody with tapCfg := 256 ^ 4 } : ElemBody).wf = false ∧
    ({ okElemBody with tapCfg2 := 256 ^ 4 } : ElemBody).wf = false := by
  decide +kernel

/-- Every field 0. -/
def okSampleBody : SampleBody :=
  { graph := 0, seed := 0, pr := 0, seeds := 0, sampleId := 0, fanout := 0, hops := 0, flags := 0, mask := 0, prCap := 0, span := 0 }
/-- One ill-formed SampleBody for each check, refused. -/
theorem wf_sampleBody :
    okSampleBody.wf = true ∧
    ({ okSampleBody with graph := 256 ^ 8 } : SampleBody).wf = false ∧
    ({ okSampleBody with seed := 256 ^ 8 } : SampleBody).wf = false ∧
    ({ okSampleBody with pr := 256 ^ 8 } : SampleBody).wf = false ∧
    ({ okSampleBody with seeds := 256 ^ 4 } : SampleBody).wf = false ∧
    ({ okSampleBody with sampleId := 256 ^ 4 } : SampleBody).wf = false ∧
    ({ okSampleBody with fanout := 256 ^ 8 } : SampleBody).wf = false ∧
    ({ okSampleBody with hops := 256 ^ 1 } : SampleBody).wf = false ∧
    ({ okSampleBody with flags := 256 ^ 1 } : SampleBody).wf = false ∧
    ({ okSampleBody with mask := 256 ^ 2 } : SampleBody).wf = false ∧
    ({ okSampleBody with prCap := 256 ^ 4 } : SampleBody).wf = false ∧
    ({ okSampleBody with span := 256 ^ 8 } : SampleBody).wf = false := by
  decide +kernel

/-- Every field 0. -/
def okGatherBody : GatherBody :=
  { src := 0, feat := 0, dst := 0, arg := 0, count := 0, rowBytes := 0, mask := 0, flags := 0, sel := 0, roundRows := 0, windowReq := 0, argFmt := 0 }
/-- One ill-formed GatherBody for each check, refused. -/
theorem wf_gatherBody :
    okGatherBody.wf = true ∧
    ({ okGatherBody with src := 256 ^ 8 } : GatherBody).wf = false ∧
    ({ okGatherBody with feat := 256 ^ 8 } : GatherBody).wf = false ∧
    ({ okGatherBody with dst := 256 ^ 8 } : GatherBody).wf = false ∧
    ({ okGatherBody with arg := 256 ^ 8 } : GatherBody).wf = false ∧
    ({ okGatherBody with count := 256 ^ 4 } : GatherBody).wf = false ∧
    ({ okGatherBody with rowBytes := 256 ^ 4 } : GatherBody).wf = false ∧
    ({ okGatherBody with mask := 256 ^ 2 } : GatherBody).wf = false ∧
    ({ okGatherBody with flags := 256 ^ 1 } : GatherBody).wf = false ∧
    ({ okGatherBody with sel := 256 ^ 1 } : GatherBody).wf = false ∧
    ({ okGatherBody with roundRows := 256 ^ 2 } : GatherBody).wf = false ∧
    ({ okGatherBody with windowReq := 256 ^ 2 } : GatherBody).wf = false ∧
    ({ okGatherBody with argFmt := 256 ^ 1 } : GatherBody).wf = false := by
  decide +kernel

/-- Every field 0. -/
def okScatterBody : ScatterBody :=
  { src := 0, idx := 0, dst := 0, arg := 0, count := 0, rowBytes := 0, mask := 0, flags := 0, hop := 0, numCtl := 0, fmts := 0, roundRows := 0, outTensor := 0, exch := 0 }
/-- One ill-formed ScatterBody for each check, refused. -/
theorem wf_scatterBody :
    okScatterBody.wf = true ∧
    ({ okScatterBody with src := 256 ^ 8 } : ScatterBody).wf = false ∧
    ({ okScatterBody with idx := 256 ^ 8 } : ScatterBody).wf = false ∧
    ({ okScatterBody with dst := 256 ^ 8 } : ScatterBody).wf = false ∧
    ({ okScatterBody with arg := 256 ^ 8 } : ScatterBody).wf = false ∧
    ({ okScatterBody with count := 256 ^ 4 } : ScatterBody).wf = false ∧
    ({ okScatterBody with rowBytes := 256 ^ 4 } : ScatterBody).wf = false ∧
    ({ okScatterBody with mask := 256 ^ 2 } : ScatterBody).wf = false ∧
    ({ okScatterBody with flags := 256 ^ 1 } : ScatterBody).wf = false ∧
    ({ okScatterBody with hop := 256 ^ 1 } : ScatterBody).wf = false ∧
    ({ okScatterBody with numCtl := 256 ^ 1 } : ScatterBody).wf = false ∧
    ({ okScatterBody with fmts := 256 ^ 1 } : ScatterBody).wf = false ∧
    ({ okScatterBody with roundRows := 256 ^ 2 } : ScatterBody).wf = false ∧
    ({ okScatterBody with outTensor := 256 ^ 4 } : ScatterBody).wf = false ∧
    ({ okScatterBody with exch := 256 ^ 2 } : ScatterBody).wf = false := by
  decide +kernel

/-- Every field 0. -/
def okEmbBagBody : EmbBagBody :=
  { bagRec := 0, out := 0, outTensor := 0, table := 0, outFmt := 0, numCtl := 0, flags := 0, mask := 0, layer := 0, roundRows := 0 }
/-- One ill-formed EmbBagBody for each check, refused. -/
theorem wf_embBagBody :
    okEmbBagBody.wf = true ∧
    ({ okEmbBagBody with bagRec := 256 ^ 8 } : EmbBagBody).wf = false ∧
    ({ okEmbBagBody with out := 256 ^ 8 } : EmbBagBody).wf = false ∧
    ({ okEmbBagBody with outTensor := 256 ^ 4 } : EmbBagBody).wf = false ∧
    ({ okEmbBagBody with table := 256 ^ 1 } : EmbBagBody).wf = false ∧
    ({ okEmbBagBody with outFmt := 256 ^ 1 } : EmbBagBody).wf = false ∧
    ({ okEmbBagBody with numCtl := 256 ^ 1 } : EmbBagBody).wf = false ∧
    ({ okEmbBagBody with flags := 256 ^ 1 } : EmbBagBody).wf = false ∧
    ({ okEmbBagBody with mask := 256 ^ 2 } : EmbBagBody).wf = false ∧
    ({ okEmbBagBody with layer := 256 ^ 2 } : EmbBagBody).wf = false ∧
    ({ okEmbBagBody with roundRows := 256 ^ 2 } : EmbBagBody).wf = false := by
  decide +kernel

/-- Every field 0. -/
def okEmbGradBody : EmbGradBody :=
  { bagRec := 0, dy := 0, gradA := 0, gradB := 0, red := 0, outTensor := 0, table := 0, dyFmt := 0, numCtl := 0, flags := 0, mask := 0, exch := 0, roundRows := 0 }
/-- One ill-formed EmbGradBody for each check, refused. -/
theorem wf_embGradBody :
    okEmbGradBody.wf = true ∧
    ({ okEmbGradBody with bagRec := 256 ^ 8 } : EmbGradBody).wf = false ∧
    ({ okEmbGradBody with dy := 256 ^ 8 } : EmbGradBody).wf = false ∧
    ({ okEmbGradBody with gradA := 256 ^ 8 } : EmbGradBody).wf = false ∧
    ({ okEmbGradBody with gradB := 256 ^ 8 } : EmbGradBody).wf = false ∧
    ({ okEmbGradBody with red := 256 ^ 8 } : EmbGradBody).wf = false ∧
    ({ okEmbGradBody with outTensor := 256 ^ 4 } : EmbGradBody).wf = false ∧
    ({ okEmbGradBody with table := 256 ^ 1 } : EmbGradBody).wf = false ∧
    ({ okEmbGradBody with dyFmt := 256 ^ 1 } : EmbGradBody).wf = false ∧
    ({ okEmbGradBody with numCtl := 256 ^ 1 } : EmbGradBody).wf = false ∧
    ({ okEmbGradBody with flags := 256 ^ 1 } : EmbGradBody).wf = false ∧
    ({ okEmbGradBody with mask := 256 ^ 2 } : EmbGradBody).wf = false ∧
    ({ okEmbGradBody with exch := 256 ^ 2 } : EmbGradBody).wf = false ∧
    ({ okEmbGradBody with roundRows := 256 ^ 2 } : EmbGradBody).wf = false := by
  decide +kernel

/-- Every field 0. -/
def okReduceGradBody : ReduceGradBody :=
  { group := 0, src := 0, step := 0, srcElems := 0, srcOffset := 0, limit := 0, flags := 0 }
/-- One ill-formed ReduceGradBody for each check, refused. -/
theorem wf_reduceGradBody :
    okReduceGradBody.wf = true ∧
    ({ okReduceGradBody with group := 256 ^ 8 } : ReduceGradBody).wf = false ∧
    ({ okReduceGradBody with src := 256 ^ 8 } : ReduceGradBody).wf = false ∧
    ({ okReduceGradBody with step := 256 ^ 8 } : ReduceGradBody).wf = false ∧
    ({ okReduceGradBody with srcElems := 256 ^ 4 } : ReduceGradBody).wf = false ∧
    ({ okReduceGradBody with srcOffset := 256 ^ 4 } : ReduceGradBody).wf = false ∧
    ({ okReduceGradBody with limit := 256 ^ 4 } : ReduceGradBody).wf = false ∧
    ({ okReduceGradBody with flags := 256 ^ 1 } : ReduceGradBody).wf = false := by
  decide +kernel

/-- Every field 0. -/
def okPublishBody : PublishBody :=
  { recv := 0, step := 0, sliceFirst := 0, sliceCount := 0, limit := 0 }
/-- One ill-formed PublishBody for each check, refused. -/
theorem wf_publishBody :
    okPublishBody.wf = true ∧
    ({ okPublishBody with recv := 256 ^ 8 } : PublishBody).wf = false ∧
    ({ okPublishBody with step := 256 ^ 8 } : PublishBody).wf = false ∧
    ({ okPublishBody with sliceFirst := 256 ^ 2 } : PublishBody).wf = false ∧
    ({ okPublishBody with sliceCount := 256 ^ 2 } : PublishBody).wf = false ∧
    ({ okPublishBody with limit := 256 ^ 4 } : PublishBody).wf = false := by
  decide +kernel

/-- Every field 0. -/
def okUpdateBody : UpdateBody :=
  { master := 0, m := 0, v := 0, hp := 0, red := 0, elems := 0, sliceFirst := 0, sliceCount := 0, step := 0, momFmt := 0, flags := 0, layer := 0 }
/-- One ill-formed UpdateBody for each check, refused. -/
theorem wf_updateBody :
    okUpdateBody.wf = true ∧
    ({ okUpdateBody with master := 256 ^ 8 } : UpdateBody).wf = false ∧
    ({ okUpdateBody with m := 256 ^ 8 } : UpdateBody).wf = false ∧
    ({ okUpdateBody with v := 256 ^ 8 } : UpdateBody).wf = false ∧
    ({ okUpdateBody with hp := 256 ^ 8 } : UpdateBody).wf = false ∧
    ({ okUpdateBody with red := 256 ^ 8 } : UpdateBody).wf = false ∧
    ({ okUpdateBody with elems := 256 ^ 4 } : UpdateBody).wf = false ∧
    ({ okUpdateBody with sliceFirst := 256 ^ 2 } : UpdateBody).wf = false ∧
    ({ okUpdateBody with sliceCount := 256 ^ 2 } : UpdateBody).wf = false ∧
    ({ okUpdateBody with step := 256 ^ 4 } : UpdateBody).wf = false ∧
    ({ okUpdateBody with momFmt := 256 ^ 1 } : UpdateBody).wf = false ∧
    ({ okUpdateBody with flags := 256 ^ 1 } : UpdateBody).wf = false ∧
    ({ okUpdateBody with layer := 256 ^ 2 } : UpdateBody).wf = false := by
  decide +kernel

/-- Every field 0. -/
def okTxnBeginBody : TxnBeginBody :=
  { journalLimit := 0 }
/-- One ill-formed TxnBeginBody for each check, refused. -/
theorem wf_txnBeginBody :
    okTxnBeginBody.wf = true ∧
    ({ okTxnBeginBody with journalLimit := 256 ^ 4 } : TxnBeginBody).wf = false := by
  decide +kernel

/-- Every field 0. -/
def okStepCommitBody : StepCommitBody :=
  { step := 0, voter := 0, gateLimit := 0, commitLimit := 0 }
/-- One ill-formed StepCommitBody for each check, refused. -/
theorem wf_stepCommitBody :
    okStepCommitBody.wf = true ∧
    ({ okStepCommitBody with step := 256 ^ 8 } : StepCommitBody).wf = false ∧
    ({ okStepCommitBody with voter := 256 ^ 8 } : StepCommitBody).wf = false ∧
    ({ okStepCommitBody with gateLimit := 256 ^ 4 } : StepCommitBody).wf = false ∧
    ({ okStepCommitBody with commitLimit := 256 ^ 4 } : StepCommitBody).wf = false := by
  decide +kernel

/-- Every field 0. -/
def okWaitBody : WaitBody :=
  { addr := 0, value := 0, mask := 0, limit := 0, cond := 0 }
/-- One ill-formed WaitBody for each check, refused. -/
theorem wf_waitBody :
    okWaitBody.wf = true ∧
    ({ okWaitBody with addr := 256 ^ 8 } : WaitBody).wf = false ∧
    ({ okWaitBody with value := 256 ^ 8 } : WaitBody).wf = false ∧
    ({ okWaitBody with mask := 256 ^ 8 } : WaitBody).wf = false ∧
    ({ okWaitBody with limit := 256 ^ 4 } : WaitBody).wf = false ∧
    ({ okWaitBody with cond := 256 ^ 1 } : WaitBody).wf = false := by
  decide +kernel

/-- Every field 0. -/
def okSignalBody : SignalBody :=
  { addr := 0, value := 0, sop := 0 }
/-- One ill-formed SignalBody for each check, refused. -/
theorem wf_signalBody :
    okSignalBody.wf = true ∧
    ({ okSignalBody with addr := 256 ^ 8 } : SignalBody).wf = false ∧
    ({ okSignalBody with value := 256 ^ 8 } : SignalBody).wf = false ∧
    ({ okSignalBody with sop := 256 ^ 1 } : SignalBody).wf = false := by
  decide +kernel

/-- Every field 0. -/
def okTimerBody : TimerBody :=
  { time := 0, tmode := 0 }
/-- One ill-formed TimerBody for each check, refused. -/
theorem wf_timerBody :
    okTimerBody.wf = true ∧
    ({ okTimerBody with time := 256 ^ 8 } : TimerBody).wf = false ∧
    ({ okTimerBody with tmode := 256 ^ 1 } : TimerBody).wf = false := by
  decide +kernel

/-- Every field 0. -/
def okCkptPushBody : CkptPushBody :=
  { rangeAddr := 0, region := 0, localRegion := 0, regionBytes := 0, ranges := 0, flags := 0, limit := 0, mask := 0 }
/-- One ill-formed CkptPushBody for each check, refused. -/
theorem wf_ckptPushBody :
    okCkptPushBody.wf = true ∧
    ({ okCkptPushBody with rangeAddr := 256 ^ 8 } : CkptPushBody).wf = false ∧
    ({ okCkptPushBody with region := 256 ^ 8 } : CkptPushBody).wf = false ∧
    ({ okCkptPushBody with localRegion := 256 ^ 8 } : CkptPushBody).wf = false ∧
    ({ okCkptPushBody with regionBytes := 256 ^ 8 } : CkptPushBody).wf = false ∧
    ({ okCkptPushBody with ranges := 256 ^ 2 } : CkptPushBody).wf = false ∧
    ({ okCkptPushBody with flags := 256 ^ 1 } : CkptPushBody).wf = false ∧
    ({ okCkptPushBody with limit := 256 ^ 4 } : CkptPushBody).wf = false ∧
    ({ okCkptPushBody with mask := 256 ^ 2 } : CkptPushBody).wf = false := by
  decide +kernel

/-- Every field 0. -/
def okCkptPullBody : CkptPullBody :=
  { region := 0, step := 0, count := 0, flags := 0, regionBytes := 0, limit := 0, mask := 0 }
/-- One ill-formed CkptPullBody for each check, refused. -/
theorem wf_ckptPullBody :
    okCkptPullBody.wf = true ∧
    ({ okCkptPullBody with region := 256 ^ 8 } : CkptPullBody).wf = false ∧
    ({ okCkptPullBody with step := 256 ^ 8 } : CkptPullBody).wf = false ∧
    ({ okCkptPullBody with count := 256 ^ 4 } : CkptPullBody).wf = false ∧
    ({ okCkptPullBody with flags := 256 ^ 1 } : CkptPullBody).wf = false ∧
    ({ okCkptPullBody with regionBytes := 256 ^ 8 } : CkptPullBody).wf = false ∧
    ({ okCkptPullBody with limit := 256 ^ 4 } : CkptPullBody).wf = false ∧
    ({ okCkptPullBody with mask := 256 ^ 2 } : CkptPullBody).wf = false := by
  decide +kernel

/-- Every field 0. -/
def okAssumeIdBody : AssumeIdBody :=
  { chip := 0, job := 0 }
/-- One ill-formed AssumeIdBody for each check, refused. -/
theorem wf_assumeIdBody :
    okAssumeIdBody.wf = true ∧
    ({ okAssumeIdBody with chip := 256 ^ 2 } : AssumeIdBody).wf = false ∧
    ({ okAssumeIdBody with job := 256 ^ 2 } : AssumeIdBody).wf = false := by
  decide +kernel

/-- Every field 0. -/
def okPktHdr : PktHdr :=
  { dst := 0, src := 0, job := 0, kind := 0, rflags := 0, len := 0, hops := 0, fseq := 0, offset := 0, stamp := 0, tag := 0, pack := 0 }
/-- One ill-formed PktHdr for each check, refused. -/
theorem wf_pktHdr :
    okPktHdr.wf = true ∧
    ({ okPktHdr with dst := 256 ^ 2 } : PktHdr).wf = false ∧
    ({ okPktHdr with src := 256 ^ 2 } : PktHdr).wf = false ∧
    ({ okPktHdr with job := 256 ^ 2 } : PktHdr).wf = false ∧
    ({ okPktHdr with kind := 256 ^ 1 } : PktHdr).wf = false ∧
    ({ okPktHdr with rflags := 256 ^ 1 } : PktHdr).wf = false ∧
    ({ okPktHdr with hops := 256 ^ 1 } : PktHdr).wf = false ∧
    ({ okPktHdr with fseq := 256 ^ 4 } : PktHdr).wf = false ∧
    ({ okPktHdr with offset := 256 ^ 6 } : PktHdr).wf = false ∧
    ({ okPktHdr with stamp := 256 ^ 2 } : PktHdr).wf = false ∧
    ({ okPktHdr with tag := 256 ^ 4 } : PktHdr).wf = false ∧
    ({ okPktHdr with pack := 256 ^ 4 } : PktHdr).wf = false ∧
    ({ okPktHdr with len := 4097 } : PktHdr).wf = false := by
  decide +kernel

/-- Every field 0. -/
def okRowReq : RowReq :=
  { off := 0, bytes := 0 }
/-- One ill-formed RowReq for each check, refused. -/
theorem wf_rowReq :
    okRowReq.wf = true ∧
    ({ okRowReq with off := 256 ^ 6 } : RowReq).wf = false ∧
    ({ okRowReq with bytes := 4097 } : RowReq).wf = false ∧
    ({ okRowReq with pver := some (256 ^ 4) } : RowReq).wf = false ∧
    ({ okRowReq with table := some (256, 0, 0) } : RowReq).wf = false ∧
    ({ okRowReq with table := some (0, 256 ^ 4, 0) } : RowReq).wf = false ∧
    ({ okRowReq with table := some (0, 0, 256 ^ 8) } : RowReq).wf = false := by
  decide +kernel

/-- Every field 0. -/
def okRowReply : RowReply :=
  { code := 0, bytes := [] }
/-- One ill-formed RowReply for each check, refused. -/
theorem wf_rowReply :
    okRowReply.wf = true ∧
    ({ okRowReply with code := 4 } : RowReply).wf = false ∧
    ({ okRowReply with bytes := List.replicate 4097 0 } : RowReply).wf = false := by
  decide +kernel

/-- Every field 0. -/
def okReduceBatch : ReduceBatch :=
  { exch := 0, combine := 0, init := 0, marker := false, rows := [] }
/-- One ill-formed ReduceBatch for each check, refused. -/
theorem wf_reduceBatch :
    okReduceBatch.wf = true ∧
    ({ okReduceBatch with exch := 256 ^ 2 } : ReduceBatch).wf = false ∧
    ({ okReduceBatch with 1 := 256 ^ 6 } : ReduceBatch).wf = false ∧
    ({ okReduceBatch with rows := [(256 ^ 6, [])] } : ReduceBatch).wf = false := by
  decide +kernel

/-- Every field 0. -/
def okCollHdr : CollHdr :=
  { group := 0, tile := 0, pass := 0, half := 0, pflags := 0, e := 0, f := 0, step := 0 }
/-- One ill-formed CollHdr for each check, refused. -/
theorem wf_collHdr :
    okCollHdr.wf = true ∧
    ({ okCollHdr with group := 256 ^ 4 } : CollHdr).wf = false ∧
    ({ okCollHdr with tile := 256 ^ 4 } : CollHdr).wf = false ∧
    ({ okCollHdr with pass := 256 ^ 1 } : CollHdr).wf = false ∧
    ({ okCollHdr with half := 256 ^ 1 } : CollHdr).wf = false ∧
    ({ okCollHdr with pflags := 256 ^ 1 } : CollHdr).wf = false ∧
    ({ okCollHdr with step := 256 ^ 8 } : CollHdr).wf = false ∧
    ({ okCollHdr with e := 32768 } : CollHdr).wf = false ∧
    ({ okCollHdr with f := 128 } : CollHdr).wf = false ∧
    ({ okCollHdr with e := -32769 } : CollHdr).wf = false ∧
    ({ okCollHdr with f := -129 } : CollHdr).wf = false := by
  decide +kernel

/-- Every field 0. -/
def okVoteMsg : VoteMsg :=
  { step := 0, commit := false, result := false, good := false, causes := 0, flipTick := 0 }
/-- One ill-formed VoteMsg for each check, refused. -/
theorem wf_voteMsg :
    okVoteMsg.wf = true ∧
    ({ okVoteMsg with step := 256 ^ 8 } : VoteMsg).wf = false ∧
    ({ okVoteMsg with causes := 256 ^ 2 } : VoteMsg).wf = false ∧
    ({ okVoteMsg with flipTick := 256 ^ 8 } : VoteMsg).wf = false := by
  decide +kernel

/-- Every field 0. -/
def okHelloMsg : HelloMsg :=
  { answer := false, nonce := List.replicate 32 0, echo := [], domain := 0, chip := 0, mode := 0, link := 0, lc := 0, cert := [], sig := [] }
/-- One ill-formed HelloMsg for each check, refused. -/
theorem wf_helloMsg :
    okHelloMsg.wf = true ∧
    ({ okHelloMsg with domain := 256 ^ 2 } : HelloMsg).wf = false ∧
    ({ okHelloMsg with chip := 256 ^ 2 } : HelloMsg).wf = false ∧
    ({ okHelloMsg with mode := 256 ^ 1 } : HelloMsg).wf = false ∧
    ({ okHelloMsg with link := 256 ^ 1 } : HelloMsg).wf = false ∧
    ({ okHelloMsg with lc := 256 ^ 1 } : HelloMsg).wf = false ∧
    ({ okHelloMsg with echo := List.replicate 33 0 } : HelloMsg).wf = false ∧
    ({ okHelloMsg with nonce := [] } : HelloMsg).wf = false := by
  decide +kernel

/-- Every field 0. -/
def okMgmtMsg : MgmtMsg :=
  { write := false, off := 0, value := 0 }
/-- One ill-formed MgmtMsg for each check, refused. -/
theorem wf_mgmtMsg :
    okMgmtMsg.wf = true ∧
    ({ okMgmtMsg with off := 0x4000000 } : MgmtMsg).wf = false := by
  decide +kernel

/-- Commands (part 1): operands of 0 are well-formed, and for each check one command is refused. -/
theorem wf_commands1 :
    (.railPowerGoodLost 0 0 : Instr).wf = true ∧
    (.railPowerGoodLost 0 (256 ^ 4) : Instr).wf = false ∧
    (.stageDome 0 : Instr).wf = true ∧
    (.stageDome (256 ^ 2) : Instr).wf = false ∧
    (.recalibrationDone 0 : Instr).wf = true ∧
    (.recalibrationDone (256 ^ 2) : Instr).wf = false ∧
    (.doorbellPoll [] : Instr).wf = true ∧
    (.doorbellPoll (List.replicate 4097 0) : Instr).wf = false ∧
    (.descriptorFetch 0 [] : Instr).wf = true ∧
    (.descriptorFetch 0 [[]] : Instr).wf = false ∧
    (.copy 0 okHdr okCopyBody : Instr).wf = true ∧
    (.copy 0 { okHdr with txn := 2 ^ 16 } okCopyBody : Instr).wf = false ∧
    (.copy 0 okHdr { okCopyBody with src := 256 ^ 8 } : Instr).wf = false ∧
    (.fill 0 okHdr okFillBody : Instr).wf = true ∧
    (.fill 0 { okHdr with txn := 2 ^ 16 } okFillBody : Instr).wf = false ∧
    (.fill 0 okHdr { okFillBody with dst := 256 ^ 8 } : Instr).wf = false ∧
    (.gemm 0 okHdr okGemmBody : Instr).wf = true ∧
    (.gemm 0 { okHdr with txn := 2 ^ 16 } okGemmBody : Instr).wf = false ∧
    (.gemm 0 okHdr { okGemmBody with a := 256 ^ 8 } : Instr).wf = false ∧
    (.gemmSp 0 okHdr okGemmBody : Instr).wf = true ∧
    (.gemmSp 0 { okHdr with txn := 2 ^ 16 } okGemmBody : Instr).wf = false ∧
    (.gemmSp 0 okHdr { okGemmBody with a := 256 ^ 8 } : Instr).wf = false ∧
    (.gemmTall 0 okHdr okGemmBody : Instr).wf = true ∧
    (.gemmTall 0 { okHdr with txn := 2 ^ 16 } okGemmBody : Instr).wf = false ∧
    (.gemmTall 0 okHdr { okGemmBody with a := 256 ^ 8 } : Instr).wf = false ∧
    (.spspIntersect 0 okHdr okSpspBody : Instr).wf = true ∧
    (.spspIntersect 0 { okHdr with txn := 2 ^ 16 } okSpspBody : Instr).wf = false ∧
    (.spspIntersect 0 okHdr { okSpspBody with xRec := 256 ^ 8 } : Instr).wf = false ∧
    (.elem 0 okHdr okElemBody : Instr).wf = true ∧
    (.elem 0 { okHdr with txn := 2 ^ 16 } okElemBody : Instr).wf = false ∧
    (.elem 0 okHdr { okElemBody with prog := 256 ^ 8 } : Instr).wf = false ∧
    (.rowred 0 okHdr okElemBody : Instr).wf = true ∧
    (.rowred 0 { okHdr with txn := 2 ^ 16 } okElemBody : Instr).wf = false ∧
    (.rowred 0 okHdr { okElemBody with prog := 256 ^ 8 } : Instr).wf = false ∧
    (.sample 0 okHdr okSampleBody : Instr).wf = true ∧
    (.sample 0 { okHdr with txn := 2 ^ 16 } okSampleBody : Instr).wf = false ∧
    (.sample 0 okHdr { okSampleBody with graph := 256 ^ 8 } : Instr).wf = false ∧
    (.gather 0 okHdr okGatherBody : Instr).wf = true ∧
    (.gather 0 { okHdr with txn := 2 ^ 16 } okGatherBody : Instr).wf = false ∧
    (.gather 0 okHdr { okGatherBody with src := 256 ^ 8 } : Instr).wf = false ∧
    (.scatter 0 okHdr okScatterBody : Instr).wf = true ∧
    (.scatter 0 { okHdr with txn := 2 ^ 16 } okScatterBody : Instr).wf = false ∧
    (.scatter 0 okHdr { okScatterBody with src := 256 ^ 8 } : Instr).wf = false ∧
    (.embBag 0 okHdr okEmbBagBody : Instr).wf = true ∧
    (.embBag 0 { okHdr with txn := 2 ^ 16 } okEmbBagBody : Instr).wf = false ∧
    (.embBag 0 okHdr { okEmbBagBody with bagRec := 256 ^ 8 } : Instr).wf = false ∧
    (.embGrad 0 okHdr okEmbGradBody : Instr).wf = true ∧
    (.embGrad 0 { okHdr with txn := 2 ^ 16 } okEmbGradBody : Instr).wf = false ∧
    (.embGrad 0 okHdr { okEmbGradBody with bagRec := 256 ^ 8 } : Instr).wf = false ∧
    (.reduceGrad 0 okHdr okReduceGradBody : Instr).wf = true ∧
    (.reduceGrad 0 { okHdr with txn := 2 ^ 16 } okReduceGradBody : Instr).wf = false ∧
    (.reduceGrad 0 okHdr { okReduceGradBody with group := 256 ^ 8 } : Instr).wf = false ∧
    (.paramPublish 0 okHdr okPublishBody : Instr).wf = true ∧
    (.paramPublish 0 { okHdr with txn := 2 ^ 16 } okPublishBody : Instr).wf = false ∧
    (.paramPublish 0 okHdr { okPublishBody with recv := 256 ^ 8 } : Instr).wf = false ∧
    (.update 0 okHdr okUpdateBody : Instr).wf = true ∧
    (.update 0 { okHdr with txn := 2 ^ 16 } okUpdateBody : Instr).wf = false ∧
    (.update 0 okHdr { okUpdateBody with master := 256 ^ 8 } : Instr).wf = false ∧
    (.txnBegin 0 okHdr okTxnBeginBody : Instr).wf = true ∧
    (.txnBegin 0 { okHdr with txn := 2 ^ 16 } okTxnBeginBody : Instr).wf = false := by
  decide +kernel

/-- Commands (part 2): operands of 0 are well-formed, and for each check one command is refused. -/
theorem wf_commands2 :
    (.txnBegin 0 okHdr { okTxnBeginBody with journalLimit := 256 ^ 4 } : Instr).wf = false ∧
    (.stepCommit 0 okHdr okStepCommitBody : Instr).wf = true ∧
    (.stepCommit 0 { okHdr with txn := 2 ^ 16 } okStepCommitBody : Instr).wf = false ∧
    (.stepCommit 0 okHdr { okStepCommitBody with step := 256 ^ 8 } : Instr).wf = false ∧
    (.wait 0 okHdr okWaitBody : Instr).wf = true ∧
    (.wait 0 { okHdr with txn := 2 ^ 16 } okWaitBody : Instr).wf = false ∧
    (.wait 0 okHdr { okWaitBody with addr := 256 ^ 8 } : Instr).wf = false ∧
    (.signal 0 okHdr okSignalBody : Instr).wf = true ∧
    (.signal 0 { okHdr with txn := 2 ^ 16 } okSignalBody : Instr).wf = false ∧
    (.signal 0 okHdr { okSignalBody with addr := 256 ^ 8 } : Instr).wf = false ∧
    (.timer 0 okHdr okTimerBody : Instr).wf = true ∧
    (.timer 0 { okHdr with txn := 2 ^ 16 } okTimerBody : Instr).wf = false ∧
    (.timer 0 okHdr { okTimerBody with time := 256 ^ 8 } : Instr).wf = false ∧
    (.ckptPush 0 okHdr okCkptPushBody : Instr).wf = true ∧
    (.ckptPush 0 { okHdr with txn := 2 ^ 16 } okCkptPushBody : Instr).wf = false ∧
    (.ckptPush 0 okHdr { okCkptPushBody with rangeAddr := 256 ^ 8 } : Instr).wf = false ∧
    (.ckptPull 0 okHdr okCkptPullBody : Instr).wf = true ∧
    (.ckptPull 0 { okHdr with txn := 2 ^ 16 } okCkptPullBody : Instr).wf = false ∧
    (.ckptPull 0 okHdr { okCkptPullBody with region := 256 ^ 8 } : Instr).wf = false ∧
    (.assumeId 0 okHdr okAssumeIdBody : Instr).wf = true ∧
    (.assumeId 0 { okHdr with txn := 2 ^ 16 } okAssumeIdBody : Instr).wf = false ∧
    (.assumeId 0 okHdr { okAssumeIdBody with chip := 256 ^ 2 } : Instr).wf = false ∧
    (.reduce 0 okPktHdr okReduceBatch : Instr).wf = true ∧
    (.reduce 0 { okPktHdr with dst := 256 ^ 2 } okReduceBatch : Instr).wf = false ∧
    (.reduce 0 okPktHdr { okReduceBatch with exch := 256 ^ 2 } : Instr).wf = false ∧
    (.txnCommit 0 okHdr : Instr).wf = true ∧
    (.txnCommit 0 { okHdr with txn := 2 ^ 16 } : Instr).wf = false ∧
    (.txnAbort 0 okHdr : Instr).wf = true ∧
    (.txnAbort 0 { okHdr with txn := 2 ^ 16 } : Instr).wf = false ∧
    (.nop 0 okHdr : Instr).wf = true ∧
    (.nop 0 { okHdr with txn := 2 ^ 16 } : Instr).wf = false ∧
    (.packetForward none okPktHdr (.raw []) : Instr).wf = true ∧
    (.packetForward none { okPktHdr with dst := 256 ^ 2 } (.raw []) : Instr).wf = false ∧
    (.packetKindReserved 0 okPktHdr : Instr).wf = true ∧
    (.packetKindReserved 0 { okPktHdr with dst := 256 ^ 2 } : Instr).wf = false ∧
    (.timeSync 0 okPktHdr (.request 0) : Instr).wf = true ∧
    (.timeSync 0 { okPktHdr with dst := 256 ^ 2 } (.request 0) : Instr).wf = false ∧
    (.mgmtReply 0 okPktHdr 0 : Instr).wf = true ∧
    (.mgmtReply 0 { okPktHdr with dst := 256 ^ 2 } 0 : Instr).wf = false ∧
    (.timerExpiry 0 : Instr).wf = true ∧
    (.timerExpiry (2 ^ 14) : Instr).wf = false ∧
    (.limitExpiry 0 true : Instr).wf = true ∧
    (.limitExpiry (2 ^ 14) true : Instr).wf = false ∧
    (.completion 0 : Instr).wf = true ∧
    (.completion (2 ^ 14) : Instr).wf = false ∧
    (.updateRun 0 : Instr).wf = true ∧
    (.updateRun (2 ^ 14) : Instr).wf = false ∧
    (.gateCast 0 : Instr).wf = true ∧
    (.gateCast (2 ^ 14) : Instr).wf = false ∧
    (.commitRoundCast 0 : Instr).wf = true ∧
    (.commitRoundCast (2 ^ 14) : Instr).wf = false ∧
    (.gateLimitExpiry 0 : Instr).wf = true ∧
    (.gateLimitExpiry (2 ^ 14) : Instr).wf = false ∧
    (.commitLimitExpiry 0 : Instr).wf = true ∧
    (.commitLimitExpiry (2 ^ 14) : Instr).wf = false ∧
    (.flipTick 0 : Instr).wf = true ∧
    (.flipTick (2 ^ 14) : Instr).wf = false ∧
    (.bar2Read 0 0 : Instr).wf = true ∧
    (.bar2Read (2 ^ 36) 0 : Instr).wf = false ∧
    (.bar2Read 0 4097 : Instr).wf = false := by
  decide +kernel

/-- Commands (part 3): operands of 0 are well-formed, and for each check one command is refused. -/
theorem wf_commands3 :
    (.bar2Write 0 [] : Instr).wf = true ∧
    (.bar2Write (2 ^ 36) [] : Instr).wf = false ∧
    (.bar2Write 0 (List.replicate 4097 0) : Instr).wf = false ∧
    (.hostWindowCompletion 0 true [] : Instr).wf = true ∧
    (.hostWindowCompletion 0 true (List.replicate 65 0) : Instr).wf = false ∧
    (.registerWrite 0 0 : Instr).wf = true ∧
    (.registerWrite 0x4000000 0 : Instr).wf = false ∧
    (.registerWrite 2 0 : Instr).wf = false ∧
    (.chimePeriod (List.replicate 26 none) 0 : Instr).wf = true ∧
    (.chimePeriod (List.replicate 26 none) (256 ^ 4) : Instr).wf = false ∧
    (.chimePeriod [] 0 : Instr).wf = false ∧
    (.grainReplay .remote 0 0 ⟨true, true⟩ : Instr).wf = true ∧
    (.grainReplay .remote (256 ^ 6) 0 ⟨true, true⟩ : Instr).wf = false ∧
    (.grainReplay .remote 0 (2 ^ 23) ⟨true, true⟩ : Instr).wf = false ∧
    (.bankCopyDone 0 [] : Instr).wf = true ∧
    (.bankCopyDone 0 [256 ^ 6] : Instr).wf = false ∧
    (.bucketLeak 0 0 : Instr).wf = true ∧
    (.bucketLeak (256 ^ 2) 0 : Instr).wf = false ∧
    (.bucketLeak 0 (256 ^ 1) : Instr).wf = false ∧
    (.dataFlit 0 (List.replicate 256 0) true : Instr).wf = true ∧
    (.dataFlit 0 [] true : Instr).wf = false ∧
    (.idleFlit 0 ⟨List.replicate 256 0, true⟩ : Instr).wf = true ∧
    (.idleFlit 0 ⟨[], true⟩ : Instr).wf = false ∧
    (.nakFlit 0 ⟨List.replicate 256 0, true⟩ : Instr).wf = true ∧
    (.nakFlit 0 ⟨[], true⟩ : Instr).wf = false ∧
    (.read 0 okPktHdr [] : Instr).wf = true ∧
    (.read 0 { okPktHdr with dst := 256 ^ 2 } [] : Instr).wf = false ∧
    (.read 0 okPktHdr [{ okRowReq with off := 256 ^ 6 }] : Instr).wf = false ∧
    (.readReply 0 okPktHdr [] : Instr).wf = true ∧
    (.readReply 0 { okPktHdr with dst := 256 ^ 2 } [] : Instr).wf = false ∧
    (.readReply 0 okPktHdr [{ okRowReply with code := 4 }] : Instr).wf = false ∧
    (.write 0 okPktHdr [] : Instr).wf = true ∧
    (.write 0 { okPktHdr with dst := 256 ^ 2 } [] : Instr).wf = false ∧
    (.write 0 okPktHdr (List.replicate 4097 0) : Instr).wf = false ∧
    (.publicationReceive 0 okPktHdr 0 0 0 0 [] : Instr).wf = true ∧
    (.publicationReceive 0 okPktHdr (256 ^ 4) 0 0 0 [] : Instr).wf = false ∧
    (.publicationReceive 0 okPktHdr 0 (256 ^ 8) 0 0 [] : Instr).wf = false ∧
    (.publicationReceive 0 okPktHdr 0 0 (256 ^ 4) 0 [] : Instr).wf = false ∧
    (.publicationReceive 0 okPktHdr 0 0 0 (256 ^ 4) [] : Instr).wf = false ∧
    (.publicationReceive 0 { okPktHdr with dst := 256 ^ 2 } 0 0 0 0 [] : Instr).wf = false ∧
    (.publicationReceive 0 okPktHdr 0 0 0 0 (List.replicate 4097 0) : Instr).wf = false ∧
    (.atomic 0 okPktHdr 0 0 : Instr).wf = true ∧
    (.atomic 0 okPktHdr (256 ^ 1) 0 : Instr).wf = false ∧
    (.atomic 0 okPktHdr 0 (256 ^ 8) : Instr).wf = false ∧
    (.atomic 0 { okPktHdr with dst := 256 ^ 2 } 0 0 : Instr).wf = false ∧
    (.collData 0 okPktHdr okCollHdr [] : Instr).wf = true ∧
    (.collData 0 { okPktHdr with dst := 256 ^ 2 } okCollHdr [] : Instr).wf = false ∧
    (.collData 0 okPktHdr { okCollHdr with group := 256 ^ 4 } [] : Instr).wf = false ∧
    (.collData 0 okPktHdr okCollHdr (List.replicate 513 0) : Instr).wf = false ∧
    (.collMiss 0 okPktHdr okCollHdr : Instr).wf = true ∧
    (.collMiss 0 { okPktHdr with dst := 256 ^ 2 } okCollHdr : Instr).wf = false ∧
    (.collMiss 0 okPktHdr { okCollHdr with group := 256 ^ 4 } : Instr).wf = false ∧
    (.collMarker 0 okPktHdr okCollHdr : Instr).wf = true ∧
    (.collMarker 0 { okPktHdr with dst := 256 ^ 2 } okCollHdr : Instr).wf = false ∧
    (.collMarker 0 okPktHdr { okCollHdr with group := 256 ^ 4 } : Instr).wf = false ∧
    (.collRestart 0 okPktHdr okCollHdr : Instr).wf = true ∧
    (.collRestart 0 { okPktHdr with dst := 256 ^ 2 } okCollHdr : Instr).wf = false ∧
    (.collRestart 0 okPktHdr { okCollHdr with group := 256 ^ 4 } : Instr).wf = false ∧
    (.collPrepass 0 okPktHdr okCollHdr : Instr).wf = true := by
  decide +kernel

/-- Commands (part 4): operands of 0 are well-formed, and for each check one command is refused. -/
theorem wf_commands4 :
    (.collPrepass 0 { okPktHdr with dst := 256 ^ 2 } okCollHdr : Instr).wf = false ∧
    (.collPrepass 0 okPktHdr { okCollHdr with group := 256 ^ 4 } : Instr).wf = false ∧
    (.collExp 0 okPktHdr okCollHdr : Instr).wf = true ∧
    (.collExp 0 { okPktHdr with dst := 256 ^ 2 } okCollHdr : Instr).wf = false ∧
    (.collExp 0 okPktHdr { okCollHdr with group := 256 ^ 4 } : Instr).wf = false ∧
    (.collAck 0 okPktHdr okCollHdr : Instr).wf = true ∧
    (.collAck 0 { okPktHdr with dst := 256 ^ 2 } okCollHdr : Instr).wf = false ∧
    (.collAck 0 okPktHdr { okCollHdr with group := 256 ^ 4 } : Instr).wf = false ∧
    (.vote 0 okPktHdr okVoteMsg : Instr).wf = true ∧
    (.vote 0 { okPktHdr with dst := 256 ^ 2 } okVoteMsg : Instr).wf = false ∧
    (.vote 0 okPktHdr { okVoteMsg with step := 256 ^ 8 } : Instr).wf = false ∧
    (.e2eAck 0 okPktHdr [] : Instr).wf = true ∧
    (.e2eAck 0 { okPktHdr with dst := 256 ^ 2 } [] : Instr).wf = false ∧
    (.e2eAck 0 okPktHdr (List.replicate 4097 0) : Instr).wf = false ∧
    (.hello 0 okPktHdr okHelloMsg : Instr).wf = true ∧
    (.hello 0 { okPktHdr with dst := 256 ^ 2 } okHelloMsg : Instr).wf = false ∧
    (.hello 0 okPktHdr { okHelloMsg with domain := 256 ^ 2 } : Instr).wf = false ∧
    (.mgmt 0 okPktHdr okMgmtMsg : Instr).wf = true ∧
    (.mgmt 0 { okPktHdr with dst := 256 ^ 2 } okMgmtMsg : Instr).wf = false ∧
    (.mgmt 0 okPktHdr { okMgmtMsg with off := 0x4000000 } : Instr).wf = false ∧
    (.phase 0 okPktHdr (List.replicate 64 0) : Instr).wf = true ∧
    (.phase 0 { okPktHdr with dst := 256 ^ 2 } (List.replicate 64 0) : Instr).wf = false ∧
    (.phase 0 okPktHdr [] : Instr).wf = false ∧
    (.flowRetransmit 0 0 0 : Instr).wf = true ∧
    (.flowRetransmit (256 ^ 2) 0 0 : Instr).wf = false ∧
    (.flowRetransmit 0 0 (256 ^ 4) : Instr).wf = false ∧
    (.flowAckTimer 0 0 : Instr).wf = true ∧
    (.flowAckTimer (256 ^ 2) 0 : Instr).wf = false ∧
    (.flowContextFill 0 0 : Instr).wf = true ∧
    (.flowContextFill (256 ^ 2) 0 : Instr).wf = false ∧
    (.tileLocallyComplete 0 0 0 : Instr).wf = true ∧
    (.tileLocallyComplete (256 ^ 6) 0 0 : Instr).wf = false ∧
    (.tileLocallyComplete 0 (256 ^ 4) 0 : Instr).wf = false ∧
    (.tileLocallyComplete 0 0 (256 ^ 8) : Instr).wf = false ∧
    (.stepClose 0 : Instr).wf = true ∧
    (.stepClose (256 ^ 8) : Instr).wf = false ∧
    (.wamosRd 0 0 : Instr).wf = true ∧
    (.wamosRd 0x4000000 0 : Instr).wf = false ∧
    (.wamosWr 0 0 : Instr).wf = true ∧
    (.wamosWr 0x4000000 0 : Instr).wf = false ∧
    (.jtagScanSelfTest 0x80 : Instr).wf = true ∧
    (.jtagScanSelfTest 255 : Instr).wf = false ∧
    (.jtagScanSelfTest 0x7F : Instr).wf = false ∧
    (.avsbusVoutCheck 0 : Instr).wf = true ∧
    (.avsbusVoutCheck (256 ^ 2) : Instr).wf = false ∧
    (.pllLockLost 0 0 : Instr).wf = true ∧
    (.pllLockLost 0 (256 ^ 2) : Instr).wf = false ∧
    (.pllLockLost 16 0 : Instr).wf = false ∧
    (.unitSelfcheckFail 0 0 : Instr).wf = true ∧
    (.unitSelfcheckFail 0 (256 ^ 2) : Instr).wf = false ∧
    (.unitSelfcheckFail 16 0 : Instr).wf = false := by
  decide +kernel

/-! ### Small states -/

/-- Registers written one after another. -/
def put (s : State) (rs : List (Nat × Nat)) : State := rs.foldl (fun s r => regPut s r.1 (BitVec.ofNat 32 r.2)) s

/-- A device that is READY, with no job and no partition. -/
def bare : State :=
  { fin := { stage := 4, ready := true, kref := true, memoryDone := true, belfryImage := true, railEn := 63, railPg := 63,
             perstLow := false, lc := 1, serial := 77 },
    time := { keep := 5000, runs := true } }

/-- The same with six partitions, the general one from 1,024 MiB. -/
def up : State :=
  put bare [(0xE00100, 64), (0xE00104, 0x00400040), (0xE00108, 0x00800040), (0xE0010C, 0x00C00002), (0xE00110, 0x01000040),
    (0xE00114, 0x04000400)]

/-- The same as chip 5 of job 1. -/
def job : State := put up [(0x800000, 0x50001)]

/-- The Finial of a state replaced. -/
def finOf (s : State) (f : Finial → Finial) : State := { s with fin := f s.fin }

/-- The fault state of a state replaced. -/
def fltOf (s : State) (f : FaultState → FaultState) : State := { s with flt := f s.flt }

/-- One link in a state of its own. -/
def linkIn (s : State) (l : Nat) (x : Link) : State := linkPut s l x

/-- An op under way, alone on ring 0, with its completions on queue 1. -/
def opOf (b : OpBody) (ph : Phase := .active) : Op :=
  { id := 0, ring := 0, hdr := { txn := 0, depTag := 0, flags := 0, stream := 3 }, body := b, evq := 1, phase := ph }

/-- A state with this op and no other. -/
def withOp (s : State) (o : Op) : State := { s with ops := [o], opNext := 1 }

/-- Queue 1 is enabled with 64 slots at host address 0x10000. -/
def queued : State := put job [(0x103020, 0x10000), (0x103028, 0x80060002)]

/-- Chip 5 of job 1 at rest with ring 0 enabled. -/
def rest : State := put job [(0x101008, 0x80304000)]

/-- A header that names nothing but its stream. -/
def hdr0 : Hdr := { txn := 0, depTag := 0, flags := 0, stream := 3 }

/-- The same, with chip 6 a neighbour in the torus. -/
def far : State := put rest [(0x820018, 0x80000001)]

/-- A global address of this device. -/
def here (a : Nat) : Nat := 0xFFFF000000000000 + a
/-- An address that names nothing. -/
def nowhere : Nat := 0xFFFFFFFFFFFFFFFF

/-- Bytes placed in device memory. -/
def poke (s : State) (ws : List (Nat × List Byte)) : State :=
  { s with mem := ws.foldl (fun m w => m.putBytes w.1 w.2) s.mem }

/-- The first byte of the general partition's second MiB. -/
def gen : Nat := lanBase + 0x40100000

/-- A 1 × 1 × 1 integer product. -/
def gemmBd : GemmBody :=
  { a := here 0x100, b := here 0x200, d := here 0x300, aux := nowhere, m := 1, aFmt := 8, n := 1, bFmt := 8, k := 1,
    dFmt := 0xB, mask := 1, numCtl := 0, flags := 0, outTensor := 0, layer := 0, slices := 0, margin := 0 }
/-- The same into the tile group at `gen`. -/
def gradBd : GemmBody := { gemmBd with aFmt := 1, bFmt := 1, d := here gen, dFmt := 0xF }

/-- A tile group of one tile that this device alone contributes to and owns. -/
def grouped : State :=
  poke (put rest [(0x1000180, 0x40200000), (0x1000184, 0x100)])
    [(0x100, [3]), (0x200, [5]),
     (gen, leBytes 4 7 ++ [0xF, 0x10, 1, 0] ++ leBytes 4 1024 ++ leBytes 2 1 ++ leBytes 2 0 ++ leBytes 8 (here (gen +
       0x1000)) ++
       leBytes 8 (here (gen + 0x1100)) ++ leBytes 8 (here (gen + 0x2000)) ++ leBytes 8 0x2000),
     (gen + 0x1000, [5]), (gen + 0x1104, [1])]

/-- The op of a GEMM under way with one tile left. -/
def gemmOp (b : GemmBody) : Op := { opOf (.gemm b) with work := .gemm 1 none none 0 0 0 0, asked := 2 }

/-- Belfry 0 runs with one job waiting. -/
def tiled (s : State) (j : TileJob) : State :=
  { s with dome := { belfries := [(0, { pllOn := true, powered := 0xFFFF, immediate := [j] })] } }

/-- Two equal sparse operands of one row, {1 ↦ 1.0, 3 ↦ 2.0}, and the pair (0, 0). -/
def sparse (idx : List Byte) : State :=
  poke rest
    [(0x100, leBytes 8 (here 0x200) ++ leBytes 8 (here 0x300) ++ leBytes 8 (here 0x400) ++ leBytes 4 1),
     (0x120, leBytes 8 (here 0x200) ++ leBytes 8 (here 0x300) ++ leBytes 8 (here 0x400) ++ leBytes 4 1),
     (0x208, [2]), (0x300, idx), (0x400, leBytes 4 0x3F800000 ++ leBytes 4 0x40000000)]
/-- Their intersection. -/
def spspBd (flags : Nat) : SpspBody :=
  { xRec := here 0x100, yRec := here 0x120, pair := here 0x500, out := here 0x600, pairs := 1, numCtl := 0, flags := flags,
    mask := 1, count := here 0x700, matchCap := 4 }

/-- An entry of a stream table. -/
def stream (a fmt : Nat) : List Byte := leBytes 8 a ++ leBytes 8 nowhere ++ leBytes 4 0 ++ leBytes 4 fmt ++ leBytes 8 0
/-- The program OUT O0 ← S0 over two FP32 values. -/
def program : State :=
  poke rest
    [(0x1000, leBytes 4 0x480C3FFC),
     (0x2000, stream (here 0x3000) 0 ++ stream nowhere 0 ++ stream nowhere 0 ++ stream nowhere 0 ++ stream (here 0x4000) 0 ++
       stream nowhere 0),
     (0x3000, leBytes 4 0x3F800000 ++ leBytes 4 0x40000000)]
/-- Its op. -/
def elemBd : ElemBody :=
  { prog := here 0x1000, stream := here 0x2000, rowRes := nowhere, rows := 1, rowLen := 2, mask := 1, numCtl := 0, flags := 0,
    outTensor := 0, layer := 0, progLen := 1, prog2Len := 0, tapCfg := 0, tapCfg2 := 0 }

/-- A table of four FP32 rows of one value, all here, and a bag of the rows 1 and 3. -/
def tabled : State :=
  poke (put rest [(0x10000C0, 0x40100000)])
    [(gen, leBytes 8 (here 0x5000)),
     (0x5000, leBytes 8 0x6000 ++ leBytes 8 0 ++ leBytes 8 4 ++ leBytes 4 4 ++ leBytes 4 0 ++ leBytes 8 0 ++ leBytes 2 5 ++
       leBytes 2 1 ++ leBytes 2 1 ++ leBytes 2 0 ++ [0, 0, 0, 0] ++ leBytes 4 0),
     (0x6040, leBytes 4 0x3F800000), (0x60C0, leBytes 4 0x40000000),
     (0x7000, leBytes 8 (here 0x7100) ++ leBytes 8 (here 0x7200) ++ leBytes 8 nowhere ++ leBytes 4 1 ++ [0, 0, 0, 0] ++
       leBytes 8 (here (lanBase + 0x4000000)) ++ leBytes 4 16),
     (0x7108, [2]), (0x7200, [1]), (0x7208, [3])]
/-- Its EMB_BAG. -/
def bagBd : EmbBagBody :=
  { bagRec := here 0x7000, out := here 0x8000, outTensor := 0, table := 0, outFmt := 0, numCtl := 0, flags := 0, mask := 1,
    layer := 0, roundRows := 0 }
/-- Its EMB_GRAD. -/
def embBd : EmbGradBody :=
  { bagRec := here 0x7000, dy := here 0x9000, gradA := here 0xA000, gradB := nowhere, red := nowhere, outTensor := 0,
    table := 0, dyFmt := 0, numCtl := 0, flags := 0, mask := 1, exch := 0, roundRows := 0 }

/-- A graph of two nodes, 0 → 1, whose rows this device owns. -/
def graphed : State :=
  poke (put rest [(0x1000080, 1), (0x1010000, 0), (0x1010004, 0x500), (0x1010008, 0)])
    [(0x100, leBytes 8 (here 0x200) ++ leBytes 8 (here 0x300) ++ leBytes 8 nowhere ++ leBytes 8 nowhere ++
      leBytes 8 nowhere ++
       leBytes 8 2 ++ leBytes 8 0 ++ leBytes 8 2),
     (0x208, [1]), (0x210, [1]), (0x300, [1]),
     (0x1000, [0]), (0x1010, leBytes 8 0xFFFFFFFFFF), (0x1018, [1]), (0x20000, [9]), (0x20040, [8])]
/-- Its SAMPLE. -/
def sampleBd : SampleBody :=
  { graph := here 0x100, seed := here 0x1000, pr := here 0x10000, seeds := 1, sampleId := 7, fanout := 1, hops := 1, flags := 0,
    mask := 1, prCap := 16, span := 0 }
/-- A GATHER of three rows of the list at 0x1008. -/
def gatherBd : GatherBody :=
  { src := here 0x1008, feat := here 0x20000, dst := here 0x30000, arg := nowhere, count := 3, rowBytes := 64, mask := 1,
    flags := 0, sel := 0, roundRows := 0, windowReq := 0, argFmt := 0 }
/-- A SCATTER, in list form of two rows to the nodes of the list at 0x1000. -/
def scatterBd : ScatterBody :=
  { src := here 0x20000, idx := here 0x1000, dst := here 0x40000, arg := nowhere, count := 2, rowBytes := 64, mask := 1,
    flags := 0, hop := 0, numCtl := 0, fmts := 0, roundRows := 0, outTensor := 0, exch := 3 }

/-- One slice of 2,048 bytes with two slots, the second holding the shadow of step 1; its shadow's first byte is 6. -/
def sliced : State :=
  poke (put far [(0x1000100, 0x40100000), (0x1000104, 1)])
    [(gen, leBytes 8 0x10000 ++ leBytes 8 0x20000 ++ leBytes 16 0 ++ leBytes 4 2048 ++ [2, 0x24, 0, 0] ++ leBytes 4 0 ++
      leBytes 4 1 ++
       leBytes 8 (2 ^ 64 - 1) ++ leBytes 8 0),
     (0x20000, [6]), (0x30000, [0x60]), (0x31000, [0x20])]

/-- What a computation gave. -/
def okVal {ε α : Type} (e : Except ε α) (d : α) : α :=
  match e with
  | .ok x => x
  | .error _ => d
/-- The state a tile's output left. -/
def tileState (w : TileOut) : State :=
  match w with
  | .done s => s
  | .wait => up
/-- The state that an op's writes left. -/
def wroteState (w : Wrote) : State :=
  match w with
  | .done s => s
  | _ => up
/-- The writes of a pull's plan, and its image. -/
def planWrites (p : PullPlan) : List (Nat × List Byte) × Option (Nat × Bool) :=
  match p with
  | .go ws img => (ws, img)
  | _ => ([], none)
/-- Chips 5 and 6 have places in the torus, a window opens the whole space to job 1, and link 3 leads to chip 6. -/
def net : State :=
  linkIn (put rest [(0x820014, 0x80000000), (0x820018, 0x80000001), (0x840000, 0), (0x840004, 0), (0x840008, 0xFFFFFFFF),
    (0x84000C, 0xFFFF), (0x840010, 0x8F0001)]) 3 { st := .up, passed := true, partnerChip := 6 }
/-- A packet's header from chip 6 to chip 5. -/
def ph0 : PktHdr :=
  { dst := 5, src := 6, job := 1, kind := 1, rflags := 0, len := 0, hops := 0, fseq := 0, offset := 0x100, stamp := stampNow net,
    tag := 0, pack := 0 }
/-- Port and flags of a hop. -/
def hopOut (h : Hop) : Nat × Nat :=
  match h with
  | .out q f => (q, f)
  | _ => (0, 0)
/-- Four tree links and twelve links to the neighbour in +x are UP. -/
def roads (s : State) : State :=
  [0, 1, 2, 4, 5, 6, 7, 8, 9, 10, 11, 12, 84, 85,
    86].foldl (fun s l => linkIn s l { st := .up, passed := true, partnerChip := 6 }) s
/-- The same with a group of chips 5 and 6: its element count, its owner map, its control byte and devices. -/
def gang (elems : Nat) (own : List Nat) (rctl : Nat := 0x10) (ndev : Nat := 2) : State :=
  poke (put net [(0x1000180, 0x40200000), (0x1000184, 0x100)])
    [(gen, leBytes 4 7 ++ [0xF] ++ leBytes 1 rctl ++ leBytes 2 ndev ++ leBytes 4 elems ++ leBytes 2 1 ++ leBytes 2 0 ++
       leBytes 8 (here (gen + 0x1000)) ++ leBytes 8 (here (gen + 0x1100)) ++ leBytes 8 (here (gen + 0x2000)) ++
         leBytes 8 0x4000),
     (gen + 0x1000, [5, 0, 6, 0]), (gen + 0x1100, own.flatMap (leBytes 4))]
/-- Step 1 of it, with one tile. -/
def step1 (x : TileRed) (cs : List Contrib := []) : GroupStep := { handle := gen, group := 7, step := 1, contribs := cs, tiles := [x] }
/-- A state with one group step. -/
def held1 (s : State) (g : GroupStep) : State := { s with dome := { s.dome with groups := [g] } }
/-- A collective header of step 1, tile 0. -/
def ch0 : CollHdr := { group := 7, tile := 0, pass := 1, half := 0, pflags := 0, e := 3, f := 2, step := 1 }
/-- The state a command leaves. -/
def after (c : Instr) (s : State) : State :=
  match exec c s with
  | .next t => t
  | _ => s
/-- A command answers a next state. -/
def goes (c : Instr) (s : State) : Bool :=
  match exec c s with
  | .next _ => true
  | _ => false

/-! ### Worked examples of the manual -/

/-- A BF16 conversion of 1 + 2⁻⁸ under a rounding mode and a random word. -/
def toBf16 (rmode r : Nat) : Nat := (convertCode .store { rmode := rmode } 1 false r (decodeVal 0 false 0x3F808000)).1

/-- spec/02 Table 2.11: RNE, RTZ, RUP, RDN, and SR on both sides of one half. -/
theorem test_bf16_tie :
    toBf16 0 0 = 0x3F80 ∧ toBf16 1 0 = 0x3F80 ∧ toBf16 2 0 = 0x3F81 ∧ toBf16 3 0 = 0x3F80 ∧ toBf16 4 0x80000000 = 0x3F81 ∧
      toBf16 4 0x7FFFFFFF = 0x3F80 := by
  decide +kernel

/-- An E4M3 conversion: its code and what it counts. -/
def toE4m3 (strict : Bool) (rmode code : Nat) : Nat × Rounded :=
  convertCode .store { strict := strict, rmode := rmode } 3 false 0 (decodeVal 0 false code)

/-- spec/02 Table 2.12: 500.0 saturates in fast mode and overflows to NaN under strict RNE; 460.0 and 464.0 round to 448. -/
theorem test_e4m3_overflow :
    (toE4m3 false 0 0x43FA0000).1 = 0x7E ∧ (toE4m3 false 0 0x43FA0000).2.tally.sat = 1 ∧
      histBin (toE4m3 false 0 0x43FA0000).2.note (toE4m3 false 0 0x43FA0000).2.val = 60 ∧
      (toE4m3 true 0 0x43FA0000).1 = 0x7F ∧ (toE4m3 true 0 0x43FA0000).2.tally.overflow = true ∧
      (toE4m3 true 1 0x43FA0000).1 = 0x7E ∧ (toE4m3 true 1 0x43FA0000).2.tally.overflow = true ∧
      (toE4m3 false 0 0x43E60000).1 = 0x7E ∧ (toE4m3 true 0 0x43E80000).1 = 0x7E ∧
      (toE4m3 true 0 0x43E60000).2.tally.inexact = true ∧ (toE4m3 true 0 0x43E60000).2.tally.overflow = false := by
  decide +kernel

/-- spec/02 Table 2.13: an MXFP4 block of 11.0, −0.7, 3.1, 0.5 and zeros, encoded under RNE. -/
theorem test_mxfp4_block :
    let b := encodeMxBlock {} 7 (fun _ => 0) ([0x41300000, 0xBF333333, 0x40466666, 0x3F000000].map (decodeVal 0 false))
    b.scale = 0x80 ∧ b.codes = [7, 9, 3, 0] ∧ b.outs.map (·.tally.sat) = [0, 0, 0, 0] := by
  decide +kernel

/-- spec/05 Table 5.2: four BF16 groups compressed to 2:4, with the metadata bytes, the prunes and the magnitudes pruned. -/
theorem test_sparse_column :
    let c : CmpBlock :=
      { kind := 1, bitmap := false, summary := false, guard := false, strict := false, rowLen := 16, rows := 1, src := opFmt 1,
        dst := opFmt 1, metaA := 0, bitmapA := 0, summaryA := 0, guardA := 0, scaleA := 0 }
    let row := [0x3F00, 0xBF40, 0, 0x3E80, 0, 0, 0x3F80, 0, 0xC000, 0x4000, 0x4000, 0x3F80, 0, 0x8000, 0,
      0].flatMap (leBytes 2)
    let r := storeOne c row
    r.bytes = [0x3F00, 0xBF40, 0x0000, 0x3F80, 0xC000, 0x4000, 0x0000, 0x8000].flatMap (leBytes 2) ∧
      r.md.take 2 = [0x84, 0x44] ∧ r.prunes = 2 ∧
      (r.loss.foldl (fun t p => t + p.1 * 2 ^ (p.2 + 16).toNat) 0) * 4 = 13 * 2 ^ 16 := by
  decide +kernel

/-- spec/06 Table 6.12: Floyd's draw of 4 of 6 edges. -/
theorem test_floyd :
    drawUniform (fun i => ([0xC0000000, 0x40000000, 0x66666666, 0xF0000000][i]?).getD 0) 6 4 = [1, 2, 4, 5] := by
  decide +kernel

/-- spec/11 R275's example: the channels of two granules with FOLD 111 and with FOLD 0. -/
theorem test_interleave :
    lpDecode 7 0x12345678 = (7, 2385528) ∧ (lpDecode 7 0x12346000).1 = 4 ∧ (lpDecode 0 0x12345678).1 = 69 ∧
      (lpDecode 0 0x12346000).1 = 70 := by
  decide +kernel

/-- A G40 group with RNE, and a contribution of a value. -/
def quant (e : Int) (code : Nat) : Option Int :=
  quantise (poke bare [(0, leBytes 4 code)]) (parseGroup ([0x51, 0, 0, 0, 0xE, 0, 3, 0] ++ List.replicate 56 0))
    { handle := 0, group := 0x51, step := 1 } e { elem := 731, at_ := 0, op := 0, seed := 0 }

/-- spec/09 Table 9.5: 0.05 misses at E −29; need −26; and what 0.0012, 0.05 and −0.003 give at −26. -/
theorem test_scale_miss :
    quant (-29) 0x3D4CCCCD = none ∧ needExp 24 (-5) = -26 ∧ quant (-26) 0x3A9D4952 = some 80531 ∧
      quant (-26) 0x3D4CCCCD = some 3355443 ∧ quant (-26) 0xBB449BA6 = some (-201327) := by
  decide +kernel

/-- spec/03 Table 3.6 at s = 4: the digits of 6.5, 0.1, 2.0 and 4.0 at exponent 2. -/
theorem test_tall_digits :
    tallDigits 4 (some 2) (decodeVal 0 false 0x40D00000) = [104, 0, 0, 0] ∧
      tallDigits 4 (some 2) (decodeVal 0 false 0x3DCCCCCD) = [1, 76, 102, 51] ∧
      tallDigits 4 (some 2) (decodeVal 0 false 0x40000000) = [32, 0, 0, 0] ∧
      tallDigits 4 (some 2) (decodeVal 0 false 0x40800000) = [64, 0, 0, 0] := by
  decide +kernel

/-- Forty bursts of 64 grains of belfry 0's DMA against a balance: how many start, and the debt. -/
def dmaPeriod (balance : Nat) : Nat × Nat :=
  let p := payAll { bare with chime := { bare.chime with balance := [(3 * 512, balance)] } }
    [{ act := 3, unit := 0, size := 64, count := 40 }]
  (40 - (p.2.map (·.count)).sum, tabGet (fun _ => 0) p.1.chime.debt (3 * 512))

/-- spec/14 Table 14.2: pieces started and debt, period by period. -/
theorem test_chime_debt :
    dmaPeriod 2400 = (38, 32) ∧ dmaPeriod 2368 = (37, 0) ∧ dmaPeriod 768 = (12, 0) ∧ dmaPeriod 800 = (13, 32) := by
  decide +kernel

/-- A device of spec/12's example in a slot of the keep, Z+ with its links 56 to 67 up, and chip 6 in slot 0. -/
def atZ5 (slot : Nat) : State :=
  (List.range 12).foldl (fun s l => linkIn s (56 + l) { st := .up, passed := true })
    (put job [(0x800004, slot), (0x820018, 0x80000000)])

/-- spec/12 R305's example: from z = 5 to z = 0 the route runs Z+, and sets DL on the wrap link 7 → 0. -/
theorem test_wrap :
    nextHop (atZ5 80) { ph0 with dst := 6 } none = .out 4 0 ∧
      nextHop (atZ5 112) { ph0 with dst := 6 } (some 5) = .out 4 16 := by
  decide +kernel

/-- spec/16's example: `rd` of FLT_BUCKET_FULL after it was cleared, and `wr` without a session on a DEPLOYED device. -/
theorem test_wamos :
    (wamosRead bare 0x20000C 1).wamos.out = ["0x0020_000C 0x0000_0000", "OK", "wamos> "] ∧
      (after (.wamosWr 0x20000C 0xFFFFFFFF) (finOf bare fun f => { f with lc := 2 })).wamos.out =
        ["ERR OUT_OF_RANGE", "wamos> "] := by
  decide +kernel


/-- The example of FIPS 180-4 for SHA-384: the digest of "abc" (spec/16 R394, R397). -/
theorem test_sha384 :
    (sha384 [0x61, 0x62, 0x63]).foldl (fun n b => 256 * n + b.toNat) 0 =
      0xcb00753f45a35e8bb5a03d699ac65007272c32ab0eded1631a8b605a43ff5bed8086072ba1e7cc2358baeca134c825a7 := by
  decide +kernel

/-- spec/17 R414's example: offset (1, 1) of channel 97's block is LP_CH097_DQ[5] at ball 058-093, and its position X the site's ZQ;
Tables 17.2, 17.7 and 17.13 add up; R426's example. -/
theorem test_package :
    (channelSignal 97 1 1, (channelBall 97 1 1).name) = ("LP_CH097_DQ[5]", "058-093") ∧
      (channelSignal 97 6 2, (channelBall 97 6 2).name) = ("LP_SITE6_ZQ", "063-094") ∧
      (ballGroups.map (·.2)).sum = 10404 ∧ ((railTable 750).map (·.watts)).sum = 974 ∧ boundaryRows.sum = 5146 ∧
      (pinLevels State.reset).length = 40 ∧ lidMax 40 1000 = 75000 ∧ junctionMax 1 75000 760 = some 88680 := by
  decide +kernel
/-! ### How a witness is shown -/

/-- The first two parts of a conjunction shown at once. -/
theorem first2 {A B C : Prop} (h : A ∧ B) (t : C) : A ∧ B ∧ C := ⟨h.1, h.2, t⟩

/-- The first four parts of a conjunction shown at once. -/
theorem first4 {A B C D E : Prop} (h : A ∧ B ∧ C ∧ D) (t : E) : A ∧ B ∧ C ∧ D ∧ E :=
  first2 ⟨h.1, h.2.1⟩ (first2 h.2.2 t)

/-- The first eight parts of a conjunction shown at once. -/
theorem first8 {A B C D E F G H I : Prop} (h : A ∧ B ∧ C ∧ D ∧ E ∧ F ∧ G ∧ H) (t : I) :
    A ∧ B ∧ C ∧ D ∧ E ∧ F ∧ G ∧ H ∧ I :=
  first4 ⟨h.1, h.2.1, h.2.2.1, h.2.2.2.1⟩ (first4 h.2.2.2.2 t)

theorem goesIs {c : Instr} {s : State} (h : goes c s = true) : exec c s = .next (after c s) := by
  unfold goes at h; unfold after; split at h <;> simp_all
theorem stepIs {s : State} (h : (match step s with | .next _ => true | _ => false) = true) :
    step s = .next (match step s with | .next t => t | _ => s) := by
  split at h <;> simp_all
theorem okEq {ε α : Type} {e : Except ε α} {k : α} (h : e.toOption = some k) : e = .ok k := by
  cases e <;> simp_all [Except.toOption]
theorem tileIs {w : TileOut} (h : (match w with | .done _ => true | .wait => false) = true) : w = .done (tileState w) := by
  cases w <;> simp_all [tileState]
theorem firstReadyIs {s : State} {off step t : Nat} {r : GroupRec} {g : GroupStep} {x : TileRed} {e : Int}
    (h : groupStep s off step = some g ∧ r = groupRec s off ∧ x = g.tileAt t ∧ x.tile = t ∧ g.over = false ∧ g.final = none ∧
      x.ready = true ∧ x.final = false ∧ x.acked = false ∧ x.lost = false ∧ x.sent = false ∧ x.marker = false ∧ x.e = some e ∧
      locallyComplete r g t = true ∧ chainPlace s r t = 0) (q : (localPart s r g t e).isSome = true) :
    FirstReady s off step t r g x e ((localPart s r g t e).getD []) := by
  obtain ⟨a, b, c, d, i, j, k, l, m, n, o, p, u, v, w⟩ := h
  refine ⟨a, b, c, d, i, j, k, l, m, n, o, p, u, v, w, ?_⟩
  cases hq : localPart s r g t e with
  | none => simp [hq] at q
  | some y => rfl
theorem wroteIs {w : Wrote} (h : (match w with | .done _ => true | _ => false) = true) : w = .done (wroteState w) := by
  cases w <;> simp_all [wroteState]
theorem planIs {p : PullPlan} (h : (match p with | .go _ _ => true | _ => false) = true) : p = .go (planWrites p).1 (planWrites p).2 := by
  cases p <;> simp_all [planWrites]
theorem planIs2 {p : PullPlan} {x : Option (Nat × Bool)} (h : (match p with | .go _ _ => true | _ => false) = true ∧ (planWrites p).2 = x) :
    p = .go (planWrites p).1 x := by
  cases p <;> simp_all [planWrites]
theorem okIs2 {ε α β : Type} {e : Except ε (α × β)} {d : α × β} (h : e.toBool = true) : e = .ok ((okVal e d).1, (okVal e d).2) := by
  cases e with
  | ok x => rfl
  | error x => cases h
theorem acceptsIs {s : State} {r : Nat} {d : Desc}
    (h : wantsFuse d.body = false ∧ mustWait (handed s r d) (asOp s r d) = false ∧
      opStatus (handed s r d) (asOp s r d) = none ∧
      epochWaits (handed s r d) (asOp s r d) = false ∧ RecordsHere s r d ∧ hdrConsume d.hdr = false) : Accepts s r d :=
  ⟨h.1, h.2.1, h.2.2.1, h.2.2.2.1, h.2.2.2.2.1, fun c => by simp [h.2.2.2.2.2] at c⟩
theorem pinnedFew {s : State} (h : s.ops = []) (i : Nat) : (tablesPinned s i).length < 4 := by
  simp [tablesPinned, h]
theorem spellsIs {a b : List (List Byte)} {x : Instr} (h : a = b) (q : Spells b x) : Spells a x := h ▸ q
theorem newHereIs {s : State} {l : Nat} {h : PktHdr} {kind : Nat}
    (a : Sound s = true ∧ AtHome s l h kind ∧ h.job = jobId s ∧ jobId s ≠ 0 ∧ ownChip s < 0x4000 ∧ h.fseq < 2 ^ 32)
    (f : flow s h.src (classOf kind) = none) (b : h.fseq < 1024 ∧ residents s < 12288) : NewHere s l h kind := by
  refine ⟨a.1, a.2.1, a.2.2.1, a.2.2.2.1, a.2.2.2.2.1, a.2.2.2.2.2, ?_⟩
  simp only [f]; exact b
theorem okIs {ε α : Type} {e : Except ε α} {d : α} (h : e.toBool = true) : e = .ok (okVal e d) := by
  cases e with
  | ok x => rfl
  | error x => cases h
/-- No chip's remap entry is valid unless it has been written. -/
theorem reset_remap (c : Nat) (h : c < 0x4000) : bits (regReset (0x820000 + 4 * c)) 31 31 = 0 := by
  have hr : ∀ d ∈ galRegs, bits (BitVec.ofNat 32 d.reset) 31 31 = 0 ∨ d.base +
    d.count * d.stride ≤ 0x820000 ∨ 0x830000 ≤ d.base := by
    decide +kernel
  unfold regReset regDef
  rw [if_neg (by omega), if_neg (by omega), if_neg (by omega), if_neg (by omega), if_neg (by omega), if_neg (by omega),
    if_pos (by omega)]
  cases e : galRegs.find? (fun d => d.has (0x820000 + 4 * c)) with
  | none => decide
  | some d =>
    have hd := List.find?_some e
    simp only [RegDef.has, Bool.and_eq_true, decide_eq_true_eq] at hd
    rcases hr d (List.mem_of_find?_eq_some e) with h | h | h
    · exact h
    · omega
    · omega

/-- A key that a table does not list reads as the default. -/
theorem tabGet_unlisted {α : Type} (d : Nat → α) : ∀ (t : Tab α) (k : Nat), k ∉ t.map (·.1) → tabGet d t k = d k
  | [], _, _ => rfl
  | (i, v) :: t, k, h => by
    simp only [List.map_cons, List.mem_cons, not_or] at h
    unfold tabGet
    rw [if_neg h.1]
    split
    · rfl
    · exact tabGet_unlisted d t k h.2

/-- The devices of a job are this one and chips whose remap entries are listed. -/
theorem jobChips_few (s : State) : (jobChips s).length ≤ s.regs.length + 1 := by
  have hn : (jobChips s).Nodup := List.nodup_range.filter _
  have hs : jobChips s ⊆ ownChip s :: s.regs.map (fun x => (x.1 - 0x820000) / 4) := by
    intro c hc
    obtain ⟨hc, hp⟩ := List.mem_filter.mp hc
    have hc := List.mem_range.mp hc
    rcases Bool.or_eq_true _ _ ▸ hp with h | h
    · exact List.mem_cons.mpr (.inl (by simpa using h))
    · refine List.mem_cons_of_mem _ ?_
      by_contra hx
      have hk : 0x820000 + 4 * c ∉ s.regs.map (·.1) := by
        intro hm
        obtain ⟨x, hx1, hx2⟩ := List.mem_map.mp hm
        exact hx (List.mem_map.mpr ⟨x, hx1, by rw [hx2]; omega⟩)
      have := reset_remap c hc
      unfold remap regBits regGet at h
      rw [tabGet_unlisted _ _ _ hk, this] at h
      simp at h
  simpa using (List.subperm_of_subset hn hs).length_le

/-- A chip with a valid remap entry is a device of the job. -/
theorem jobChips_has {s : State} {c : Nat} (h : c < 0x4000 ∧ (remap s c).isSome = true) : c ∈ jobChips s :=
  List.mem_filter.mpr ⟨List.mem_range.mpr h.1, by simp [h.2]⟩

/-! ### Every statement's hypotheses can be met -/

theorem hyps_StepRunsTheFrontCommand :
  (∃ (s : State) (c : Instr) (rest : List Instr),
    s.pending = c :: rest) ∧
  (∃ (s : State),
    s.pending = []) :=
  ⟨⟨({ up with pending := [.clearLog, .resume] }), (.clearLog), ([.resume]), by decide +kernel⟩,
    ⟨up, by decide +kernel⟩⟩

theorem hyps_SoundIsKept :
  (∃ (s : State) (t : State),
    Sound s = true ∧
    step s = .next t) :=
  ⟨({ up with pending := [.clearLog] }), (after .clearLog up), by decide +kernel, stepIs (by decide +kernel)⟩

theorem hyps_ResetState :
  (∃ (a : Nat),
    regionOf a ≠ .hostWindow) :=
  ⟨0, by decide +kernel⟩

theorem hyps_NothingIsUndone :
  (∃ (s : State) (t : State),
    Sound s = true ∧
    step s = .next t) :=
  ⟨({ up with pending := [.clearLog] }), (after .clearLog up), by decide +kernel, stepIs (by decide +kernel)⟩

theorem hyps_OnlyPowerUnseals :
  (∃ (c : Instr) (s : State),
    losesPower c = false ∧
    s.flt.sealed = true) :=
  ⟨(.chipReset), (fltOf up fun f => { f with sealed := true }), by decide +kernel⟩

theorem hyps_Straps :
  (∃ (c : Instr),
    losesPower c = false) :=
  ⟨(.chipReset), by decide +kernel⟩

theorem hyps_ChipReset :
  (∃ (s : State),
    s.flt.sealed = true) ∧
  (∃ (s : State),
    Sound s = true ∧
    s.flt.sealed = false ∧
    NoWork s) ∧
  (∃ (s : State),
    HostOpen s) ∧
  (∃ (s : State),
    Sound s = true ∧
    HostOpen s ∧
    NoWork s) :=
  ⟨⟨(fltOf up fun f => { f with sealed := true }), by decide +kernel⟩,
    ⟨job, by decide +kernel⟩,
    ⟨job, by decide +kernel⟩,
    ⟨job, by decide +kernel⟩⟩

theorem hyps_ComputeReset :
  (∃ (s : State),
    Sound s = true ∧
    HostOpen s ∧
    NoWork s ∧
    s.fab.heldPkts = []) ∧
  (∃ (s : State) (key : BitVec 16),
    HostOpen s ∧
    key ≠ 0xA5C3) :=
  ⟨⟨job, by decide +kernel⟩,
    ⟨up, 0, by decide +kernel⟩⟩

theorem hyps_HostReset :
  (∃ (s : State),
    Sound s = true ∧
    s.flt.sealed = false ∧
    NoWork s) :=
  ⟨job, by decide +kernel⟩

theorem hyps_ClosedDeviceDropsRegisterWrites :
  (∃ (c : Instr) (s : State),
    bar0Command c = true ∧
    ¬HostOpen s) :=
  ⟨(.clearLog), (finOf up fun f => { f with ready := false }), by decide +kernel⟩

theorem hyps_PlainRegisterWrite :
  (∃ (s : State) (off : Nat) (d : RegDef),
    Sound s = true ∧
    HostOpen s ∧
    plainRegister off = true ∧
    regDef off = some d) ∧
  (∃ (s : State) (off : Nat),
    Sound s = true ∧
    HostOpen s ∧
    (off = 0x100020 ∨ off = 0x100024 ∨ off = 0x20000C ∨ off = 0x300048 ∨ off = 0x400014 ∨ off = 0xC00200 ∨ off = 0x1000190)) ∧
  (∃ (s : State) (off : Nat),
    HostOpen s ∧
    (off % 4 ≠ 0 ∨ 0x2000000 ≤ off)) ∧
  (∃ (s : State) (v : Word),
    HostOpen s ∧
    bits v 7 0 > 100) ∧
  (∃ (s : State) (v : Word),
    HostOpen s ∧
    (bits v 9 0 < 200 ∨ 760 < bits v 9 0)) :=
  ⟨⟨up, 0x200, ((regDef 0x200).getD { base := 0, rw := 0 }), by decide +kernel⟩,
    ⟨(put up [(0x100020, 0x12345)]), 0x100020, by decide +kernel⟩,
    ⟨up, 0x100001, by decide +kernel⟩,
    ⟨up, 101, by decide +kernel⟩,
    ⟨up, 199, by decide +kernel⟩⟩

/-- Witness of clause 15 of CheckedRegisters. -/
def w_CheckedRegisters_15_s : State :=
  { up with dome := { groups := [{ handle := 0, group := 64, step := 1, contribs := [{ elem := 0, at_ := 0, op := 0, seed := 0 }], copies := [{ tile := 0, op := some 0, page := 0 }] }] } }
theorem hyps_CheckedRegisters :
  (∃ (s : State) (v : Word),
    Sound s = true ∧
    HostOpen s ∧
    bits v 2 0 < 5 ∧
    6 ≤ bits v 12 8 ∧
    bits v 12 8 ≤ 24) ∧
  (∃ (s : State) (v : Word),
    HostOpen s ∧
    (5 ≤ bits v 2 0 ∨ bits v 12 8 < 6 ∨ 24 < bits v 12 8)) ∧
  (∃ (s : State) (v : Word),
    Sound s = true ∧
    HostOpen s ∧
    apertureOk v = true) ∧
  (∃ (s : State) (v : Word),
    HostOpen s ∧
    apertureOk v = false) ∧
  (∃ (s : State) (v : Word),
    Sound s = true ∧
    HostOpen s ∧
    (bits v 0 0 = 0 ∨ inPart s 5 (regBits s 0x1000040 30 6 * 64) (2 ^ 22) = true)) ∧
  (∃ (s : State) (v : Word),
    Sound s = true ∧
    HostOpen s ∧
    bits v 0 0 = 1 ∧
    inPart s 5 (regBits s 0x1000040 30 6 * 64) (2 ^ 22) = false) ∧
  (∃ (s : State) (v : Word),
    Sound s = true ∧
    HostOpen s ∧
    inPart s 5 (bits v 30 12 * 4096) 4096 = true) ∧
  (∃ (s : State) (v : Word),
    HostOpen s ∧
    inPart s 5 (bits v 30 12 * 4096) 4096 = false) ∧
  (∃ (s : State),
    Sound s = true ∧
    HostOpen s ∧
    jobId s = 0) ∧
  (∃ (s : State),
    HostOpen s ∧
    jobId s ≠ 0) ∧
  (∃ (s : State) (v : Word),
    Sound s = true ∧
    HostOpen s ∧
    jobId s = 0 ∧
    bits v 16 0 ≤ 65536 ∧
    (bits v 16 0 = 0 ∨ inPart s 5 (regBits s 0x1000100 30 6 * 64) (64 * bits v 16 0) = true)) ∧
  (∃ (s : State) (v : Word),
    Sound s = true ∧
    HostOpen s ∧
    retainUsed s = 0 ∧
    (bits v 19 0 = 0 ∨ inPart s 5 (regBits s 0x1000180 30 12 * 4096) (4096 * bits v 19 0) = true)) ∧
  (∃ (s : State) (v : Word),
    Sound s = true ∧
    HostOpen s ∧
    retainUsed s = 0 ∧
    (regBits s 0x1000184 19 0 = 0 ∨ inPart s 5 (bits v 30 12 * 4096) (4096 * regBits s 0x1000184 19 0) = true)) ∧
  (∃ (s : State) (v : Word),
    HostOpen s ∧
    retainUsed s = 0 ∧
    bits v 19 0 ≠ 0 ∧
    inPart s 5 (regBits s 0x1000180 30 12 * 4096) (4096 * bits v 19 0) = false) ∧
  (∃ (s : State) (v : Word),
    HostOpen s ∧
    retainUsed s = 0 ∧
    regBits s 0x1000184 19 0 ≠ 0 ∧
    inPart s 5 (bits v 30 12 * 4096) (4096 * regBits s 0x1000184 19 0) = false) ∧
  (∃ (s : State),
    HostOpen s ∧
    retainUsed s ≠ 0) :=
  ⟨⟨up, 0x00000600, by decide +kernel⟩,
    ⟨up, 0x605, by decide +kernel⟩,
    ⟨up, 0x80000000, by decide +kernel⟩,
    ⟨up, 0xFFFFFFFF, by decide +kernel⟩,
    ⟨(put up [(0x1000040, 0x40000000)]), 0xFFFFFFFF, by decide +kernel⟩,
    ⟨(put up [(0x1000040, 0x100)]), 0x1, by decide +kernel⟩,
    ⟨up, 0x40000000, by decide +kernel⟩,
    ⟨up, 0x0, by decide +kernel⟩,
    ⟨up, by decide +kernel⟩,
    ⟨job, by decide +kernel⟩,
    ⟨up, 0, by decide +kernel⟩,
    ⟨(put up [(0x1000180, 0x40000000)]), 0xFFF00005, by decide +kernel⟩,
    ⟨(put up [(0x1000184, 0x1)]), 0x40000FFF, by decide +kernel⟩,
    ⟨up, 0x1, by decide +kernel⟩,
    ⟨(put up [(0x1000184, 0x1)]), 0, by decide +kernel⟩,
    ⟨w_CheckedRegisters_15_s, by decide +kernel⟩⟩

theorem hyps_OwnershipBanks :
  (∃ (s : State) (b : Fin 2),
    Sound s = true ∧
    HostOpen s ∧
    b.val ≠ regBits s 0x1000080 31 31 ∧
    ownBusy s = false) ∧
  (∃ (s : State) (b : Fin 2),
    HostOpen s ∧
    (b.val = regBits s 0x1000080 31 31 ∨ ownBusy s = true)) ∧
  (∃ (s : State) (v : Word),
    Sound s = true ∧
    HostOpen s ∧
    ownBusy s = false ∧
    regBits s 0x1000080 31 31 = 0 ∧
    bits v 31 31 = 0) ∧
  (∃ (s : State) (v : Word),
    Sound s = true ∧
    HostOpen s ∧
    ownBusy s = false ∧
    bits v 31 31 ≠ regBits s 0x1000080 31 31) :=
  ⟨⟨up, 1, by decide +kernel⟩,
    ⟨up, 0, by decide +kernel⟩,
    ⟨up, 0x00010001, by decide +kernel⟩,
    ⟨up, 0x80010000, by decide +kernel⟩⟩

theorem hyps_SketchClaim :
  (∃ (s : State) (n : Fin 4) (v : Word),
    Sound s = true ∧
    HostOpen s ∧
    regBits s (0x10000D0 + 4 * n.val) 31 31 = 0 ∧
    bits v 31 31 = 1) ∧
  (∃ (s : State) (n : Fin 4) (v : Word),
    HostOpen s ∧
    regBits s (0x10000D0 + 4 * n.val) 31 31 = 1 ∧
    bits v 31 31 = 1) :=
  ⟨⟨up, 3, 0x80000005, by decide +kernel⟩,
    ⟨(put up [(0x10000DC, 0x80000005)]), 3, 0x80000006, by decide +kernel⟩⟩

theorem hyps_RingConfiguration :
  (∃ (s : State) (r : Fin 256) (v : Word),
    Sound s = true ∧
    HostOpen s ∧
    NoWork s ∧
    6 ≤ bits v 23 19 ∧
    bits v 23 19 ≤ 16 ∧
    1 ≤ bits v 14 0 ∧
    bits v 14 0 ≤ 16384 ∧
    regBits s (0x101008 + 32 * r.val) 31 31 = 0 ∧
    bits v 31 31 = 1) ∧
  (∃ (s : State) (r : Fin 256) (v : Word),
    Sound s = true ∧
    HostOpen s ∧
    NoWork s ∧
    6 ≤ bits v 23 19 ∧
    bits v 23 19 ≤ 16 ∧
    1 ≤ bits v 14 0 ∧
    bits v 14 0 ≤ 16384 ∧
    bits v 23 19 = regBits s (0x101008 + 32 * r.val) 23 19 ∧
    bits v 31 31 = 0) ∧
  (∃ (s : State) (r : Fin 256) (v : Word),
    HostOpen s ∧
    ((bits v 23 19 < 6 ∨ 16 < bits v 23 19 ∨ bits v 14 0 = 0 ∨ 16384 < bits v 14 0) ∨ (regBits s (0x101008 +
      32 * r.val) 31 31 = 1 ∧ bits v 23 19 ≠ regBits s (0x101008 + 32 * r.val) 23 19))) :=
  ⟨⟨up, 255, 0x80800001, by decide +kernel⟩,
    ⟨(put up [(0x102FE8, 0x80304000)]), 255, 0x00300001, by decide +kernel⟩,
    ⟨up, 1, 0x00280001, by decide +kernel⟩⟩

theorem hyps_QueueConfiguration :
  (∃ (s : State) (v : Word),
    Sound s = true ∧
    HostOpen s ∧
    6 ≤ bits v 20 16 ∧
    bits v 20 16 ≤ 16) ∧
  (∃ (s : State) (v : Word),
    HostOpen s ∧
    (bits v 20 16 < 6 ∨ 16 < bits v 20 16)) :=
  ⟨⟨up, 0x80100000, by decide +kernel⟩,
    ⟨up, 0x80050000, by decide +kernel⟩⟩

/-- Witness of clause 3 of Partitions. -/
def w_Partitions_3_s : State :=
  put { up with dome := { txns := [{ num := 1, order := 0, limit := 64, staged := [(lanBase, 5)] }] } } [(0xE00108, 0)]
theorem hyps_Partitions :
  (∃ (s : State) (k : Fin 6) (v : Word),
    Sound s = true ∧
    HostOpen s ∧
    NoWork s ∧
    partRefused s k.val (bits v 26 16) (bits v 11 0) = false) ∧
  (∃ (s : State) (k : Fin 6) (v : Word),
    HostOpen s ∧
    partRefused s k.val (bits v 26 16) (bits v 11 0) = true) ∧
  (∃ (s : State) (k : Fin 6),
    partUse s k.val ≤ partSize s k.val) ∧
  (∃ (s : State) (k : Fin 6),
    partSize s k.val < partUse s k.val) :=
  ⟨⟨up, 3, 0x03FE0002, by decide +kernel⟩,
    ⟨up, 3, 0x0FFF07FF, by decide +kernel⟩,
    ⟨({ up with mif := { cuts := [{ part := 2, old := 5, mark := 0, waits := true }] } }), 2, by decide +kernel⟩,
    ⟨w_Partitions_3_s, 2, by decide +kernel⟩⟩

/-- Witness of clause 7 of DrumRegisters. -/
def w_DrumRegisters_7_s : State :=
  { up with mif := { ppr := [(1, some { ch := 70, bank := 1, row := 2 })], channels := [(70, { ppr := true })] } }
theorem hyps_DrumRegisters :
  (∃ (s : State) (v : Word),
    Sound s = true ∧
    HostOpen s ∧
    jobId s = 0 ∧
    memBusy s = false ∧
    bits v 2 0 = regBits s 0xC00000 2 0) ∧
  (∃ (s : State),
    Sound s = true ∧
    HostOpen s ∧
    jobId s = 0 ∧
    memBusy s = false) ∧
  (∃ (s : State),
    HostOpen s ∧
    (jobId s ≠ 0 ∨ memBusy s = true)) ∧
  (∃ (s : State) (d : Fin 2),
    Sound s = true ∧
    HostOpen s ∧
    pprOf s d.val = none) ∧
  (∃ (s : State) (d : Fin 2),
    Sound s = true ∧
    HostOpen s ∧
    pprOf s d.val = none ∧
    jobId s = 0) ∧
  (∃ (s : State) (d : Fin 2),
    Sound s = true ∧
    HostOpen s ∧
    pprOf s d.val ≠ none) ∧
  (∃ (s : State),
    Sound s = true ∧
    HostOpen s ∧
    jobId s ≠ 0) ∧
  (∃ (s : State) (d : Fin 2) (p : Ppr),
    Sound s = true ∧
    NoWork s ∧
    pprOf s d.val = some p) :=
  ⟨⟨up, (0xFFFFFFF8 ||| BitVec.ofNat 32 (regBits up 0xC00000 2 0)), by decide +kernel⟩,
    ⟨up, by decide +kernel⟩,
    ⟨job, by decide +kernel⟩,
    ⟨up, 1, by decide +kernel⟩,
    ⟨up, 1, by decide +kernel⟩,
    ⟨({ up with mif := { ppr := [(1, some { ch := 70, bank := 1, row := 2 })] } }), 1, by decide +kernel⟩,
    ⟨job, by decide +kernel⟩,
    ⟨w_DrumRegisters_7_s, 1, ({ ch := 70, bank := 1, row := 2 }), by decide +kernel⟩⟩

theorem hyps_FabricRegisters :
  (∃ (s : State),
    Sound s = true ∧
    HostOpen s ∧
    NoWork s ∧
    spireMode s = false) ∧
  (∃ (s : State),
    Sound s = true ∧
    HostOpen s ∧
    NoWork s ∧
    spireMode s = true) ∧
  (∃ (s : State) (chip : Fin 32768) (v : Word),
    Sound s = true ∧
    HostOpen s ∧
    NoWork s ∧
    s.fab.heldPkts = [] ∧
    regGet s (0x820000 + 4 * chip.val) ≠ v) ∧
  (∃ (s : State) (v : Word),
    Sound s = true ∧
    HostOpen s ∧
    bits v 1 0 ≠ 3 ∧
    (∀ l, l < 96 → (link s l).st = .down ∨ (link s l).st = .disabled)) ∧
  (∃ (s : State) (l : Nat),
    HostOpen s ∧
    l < 96 ∧
    (link s l).st ≠ .down ∧
    (link s l).st ≠ .disabled) :=
  ⟨⟨job, by decide +kernel⟩,
    ⟨(finOf up fun f => { f with strap := 1 }), by decide +kernel⟩,
    ⟨({ job with fab := { flows := [{ chip := 5, cls := 0 }, { chip := 6, cls := 0 }] } }), 6, 7, by decide +kernel⟩,
    ⟨(linkIn up 3 { st := .disabled }), 0, by decide +kernel⟩,
    ⟨(linkIn up 95 { st := .up }), 95, by decide +kernel⟩⟩

theorem hyps_LinkControls :
  (∃ (s : State) (l : Fin 96),
    Sound s = true ∧
    HostOpen s ∧
    NoWork s ∧
    (link s l.val).st ≠ .quarantined) ∧
  (∃ (s : State) (l : Fin 96),
    Sound s = true ∧
    HostOpen s ∧
    NoWork s ∧
    (link s l.val).st = .quarantined ∧
    regBits s (linkCtlOff l.val) 30 30 = 0 ∧
    regBits s (linkCtlOff l.val) 29 29 = 0) ∧
  (∃ (s : State) (l : Fin 96),
    Sound s = true ∧
    HostOpen s ∧
    NoWork s ∧
    (link s l.val).st = .disabled) ∧
  (∃ (s : State) (l : Fin 96),
    Sound s = true ∧
    HostOpen s ∧
    NoWork s ∧
    (link s l.val).st = .quarantined ∧
    regBits s (linkCtlOff l.val) 31 31 = 1 ∧
    regBits s (linkCtlOff l.val) 29 29 = 0 ∧
    galleryStopped s l.val = false) ∧
  (∃ (s : State) (l : Fin 96),
    Sound s = true ∧
    HostOpen s ∧
    NoWork s ∧
    (link s l.val).st = .up ∧
    regBits s (linkCtlOff l.val) 31 31 = 1 ∧
    regBits s (linkCtlOff l.val) 30 30 = 0) ∧
  (∃ (s : State) (l : Fin 96),
    Sound s = true ∧
    HostOpen s ∧
    NoWork s ∧
    regBits s (linkCtlOff l.val) 31 31 = 1 ∧
    regBits s (linkCtlOff l.val) 30 30 = 0 ∧
    regBits s (linkCtlOff l.val) 29 29 = 0 ∧
    (link s l.val).st ≠ .disabled) :=
  ⟨⟨(linkIn up 95 { st := .up }), 95, by decide +kernel⟩,
    ⟨(put (linkIn up 48 { st := .quarantined }) [(linkCtlOff 48, 0x80000000)]), 48, by decide +kernel⟩,
    ⟨(linkIn up 0 { st := .disabled }), 0, by decide +kernel⟩,
    ⟨(put (linkIn up 48 { st := .quarantined }) [(linkCtlOff 48, 0x80000000)]), 48, by decide +kernel⟩,
    ⟨(put (linkIn up 48 { st := .up }) [(linkCtlOff 48, 0x80000000)]), 48, by decide +kernel⟩,
    ⟨(put (linkIn up 5 { st := .down }) [(linkCtlOff 5, 0x80000000)]), 5, by decide +kernel⟩⟩

/-- Witness of clause 0 of FaultControls. -/
def w_FaultControls_0_s : State :=
  fltOf job fun f => { f with log := [({ die := 0, unit := 1, kind := 0x31, count := 1, time := 0, addr := 0 }, 3)], halted := true }
/-- Witness of clause 1 of FaultControls. -/
def w_FaultControls_1_s : State :=
  fltOf job fun f => { f with log := [({ die := 0, unit := 1, kind := 0x31, count := 1, time := 0, addr := 0 }, 3)], halted := true }
theorem hyps_FaultControls :
  (∃ (s : State),
    HostOpen s) ∧
  (∃ (s : State),
    HostOpen s ∧
    NoWork s ∧
    s.flt.fatal = []) ∧
  (∃ (s : State),
    HostOpen s ∧
    s.flt.fatal ≠ []) :=
  ⟨⟨w_FaultControls_0_s, by decide +kernel⟩,
    ⟨w_FaultControls_1_s, by decide +kernel⟩,
    ⟨(fltOf job fun f => { f with fatal := [(1, 0)], halted := true }), by decide +kernel⟩⟩

theorem hyps_AntiRollback :
  (∃ (s : State),
    s.flt.sealed = false ∧
    s.fin.ready = true ∧
    s.fin.lc ≠ 0) ∧
  (∃ (s : State),
    s.flt.sealed = false ∧
    (s.fin.ready = false ∨ s.fin.lc = 0)) ∧
  (∃ (s : State),
    s.fin.arbBurn = true) ∧
  (∃ (s : State),
    s.fin.arbBurn = false) ∧
  (∃ (s : State),
    s.fin.arbBurn = true) :=
  ⟨⟨up, by decide +kernel⟩,
    ⟨(finOf up fun f => { f with lc := 0 }), by decide +kernel⟩,
    ⟨(finOf up fun f => { f with arbBurn := true, finSvn := 5, finCtr := 2, blfSvn := 1, blfCtr := 9 }), by decide +kernel⟩,
    ⟨up, by decide +kernel⟩,
    ⟨(finOf up fun f => { f with arbBurn := true, finSvn := 5, finCtr := 2, blfSvn := 1, blfCtr := 9 }), by decide +kernel⟩⟩

theorem hyps_Attestation :
  (∃ (s : State),
    HostOpen s ∧
    s.fin.attBusy = false ∧
    s.fin.lc ≠ 3) ∧
  (∃ (s : State),
    HostOpen s ∧
    (s.fin.attBusy = true ∨ s.fin.lc = 3)) ∧
  (∃ (s : State),
    s.fin.attBusy = true) ∧
  (∃ (s : State),
    HostOpen s) :=
  ⟨⟨job, by decide +kernel⟩,
    ⟨(finOf up fun f => { f with lc := 3 }), by decide +kernel⟩,
    ⟨(finOf up fun f => { f with attBusy := true, attInputs := [1, 2] }), by decide +kernel⟩,
    ⟨up, by decide +kernel⟩⟩

theorem hyps_PinClaims :
  (∃ (s : State) (v : Word),
    Sound s = true ∧
    HostOpen s ∧
    regBits s 0x20 31 31 = 0 ∧
    regBits s 0x20 30 30 = 0 ∧
    bits v 31 31 + bits v 30 30 ≤ 1 ∧
    9600 ≤ bits v 21 0 ∧
    bits v 21 0 ≤ 3000000) ∧
  (∃ (s : State) (v : Word),
    HostOpen s ∧
    ((regBits s 0x20 31 31 = 1 ∧ bits v 30 30 = 1) ∨ (regBits s 0x20 30 30 = 1 ∧ bits v 31 31 = 1) ∨ (bits v 31 31 = 1 ∧
      bits v 30 30 = 1))) ∧
  (∃ (s : State) (v : Word),
    Sound s = true ∧
    HostOpen s ∧
    regBits s 0x20 31 31 = 1 ∧
    regBits s 0x20 30 30 = 0 ∧
    bits v 31 31 = 0 ∧
    bits v 30 30 = 0 ∧
    9600 ≤ bits v 21 0 ∧
    bits v 21 0 ≤ 3000000) ∧
  (∃ (s : State) (p : Fin 8) (v : Word),
    Sound s = true ∧
    HostOpen s ∧
    bits v 3 0 < 7 ∧
    regBits s (0x40 + 4 * p.val) 3 0 = 0 ∧
    (∀ q, q < 8 → 3 ≤ bits v 3 0 → regBits s (0x40 + 4 * q) 3 0 ≠ bits v 3 0)) ∧
  (∃ (s : State) (p : Fin 8) (v : Word),
    HostOpen s ∧
    bits v 3 0 < 7 ∧
    bits v 3 0 ≠ 0 ∧
    regBits s (0x40 + 4 * p.val) 3 0 ≠ 0 ∧
    regBits s (0x40 + 4 * p.val) 3 0 ≠ bits v 3 0) :=
  ⟨⟨(put up [(0x20, 0x1C200)]), 0x80002580, by decide +kernel⟩,
    ⟨(put up [(0x20, 0x80002580)]), 0x40002580, by decide +kernel⟩,
    ⟨({ (put up [(0x20, 0x80002580)]) with wamos := { line := [65] } }), 0x00002580, by decide +kernel⟩,
    ⟨up, 7, 0xF46, by decide +kernel⟩,
    ⟨(put up [(0x44, 5)]), 1, 6, by decide +kernel⟩⟩

/-- Witness of clause 4 of Comparators. -/
def w_Comparators_4_s : State :=
  put { up with time := { keep := 6400, runs := true } } [(0x90, 0x80000003), (0x94, 100), (0x98, 64), (0x9C, 0xFFFF0200)]
/-- Witness of clause 5 of Comparators. -/
def w_Comparators_5_s : State :=
  { (put { up with time := { keep := 6400, runs := true } } [(0x90, 0x80000003), (0x94, 100), (0x98, 64), (0x9C, 0xFFFF0200)]) with time := { keep := 6401, runs := true } }
theorem hyps_Comparators :
  (∃ (s : State) (c : Fin 16) (v : Word),
    Sound s = true ∧
    HostOpen s ∧
    NoWork s ∧
    c.val ≠ 0 ∧
    regBits s (0x80 + 16 * c.val) 31 31 = 0 ∧
    bits v 31 31 = 1 ∧
    1 ≤ bits v 2 0 ∧
    bits v 2 0 ≤ 5) ∧
  (∃ (s : State) (c : Fin 16) (v : Word),
    HostOpen s ∧
    c.val ≠ 0 ∧
    regBits s (0x80 + 16 * c.val) 31 31 = 1 ∧
    bits v 31 31 = 1) ∧
  (∃ (s : State),
    HostOpen s) ∧
  (∃ (s : State) (c : Fin 16) (v : Word),
    Sound s = true ∧
    HostOpen s ∧
    NoWork s ∧
    c.val ≠ 0 ∧
    bits v 31 31 = 0) ∧
  (∃ (s : State) (c : Fin 16),
    Sound s = true ∧
    regBits s (0x80 + 16 * c.val) 31 31 = 1 ∧
    regBits s (0x80 + 16 * c.val) 2 0 = 3 ∧
    mtime s % max 1280 (regGet s (0x84 + 16 * c.val)).toNat = 0 ∧
    spireMode s = false ∧
    s.dome.stopped = false ∧
    isLocal s (tickAddr s c.val) = true ∧
    addrOff (tickAddr s c.val) % 8 = 0 ∧
    regionOf (addrOff (tickAddr s c.val)) = .scratch ∧
    rangeOk s (addrOff (tickAddr s c.val)) 8 = true) ∧
  (∃ (s : State) (c : Fin 16),
    (regBits s (0x80 + 16 * c.val) 31 31 = 0 ∨ mtime s % max 1280 (regGet s (0x84 + 16 * c.val)).toNat ≠ 0)) :=
  ⟨⟨job, 15, 0x80000001, by decide +kernel⟩,
    ⟨(put up [(0x90, 0x80000002)]), 1, 0x80000003, by decide +kernel⟩,
    ⟨up, by decide +kernel⟩,
    ⟨(put up [(0x90, 0x80000002)]), 1, 0, by decide +kernel⟩,
    ⟨w_Comparators_4_s, 1, by decide +kernel⟩,
    ⟨w_Comparators_5_s, 1, by decide +kernel⟩⟩

/-- Witness of clause 0 of Rails. -/
def w_Rails_0_s : State :=
  { (finOf up fun f => { f with railEn := 0, railPg := 0, stage := 2 }) with time := { keep := 20000, runs := true } }
/-- Witness of clause 1 of Rails. -/
def w_Rails_1_s : State :=
  { (finOf up fun f => { f with railEn := 0, railPg := 0, stage := 1, strap := 0 }) with time := { keep := 20000, runs := true } }
/-- Witness of clause 6 of Rails. -/
def w_Rails_6_s : State :=
  { (finOf up fun f => { f with railEn := 1, railPg := 0, stage := 2 }) with time := { keep := 1562500, runs := true } }
theorem hyps_Rails :
  (∃ (s : State) (i : Nat),
    railNext s = some i ∧
    (i ≠ 0 → s.time.runs = true → s.fin.kref = true → railRoseAt s (i - 1) + 15625 ≤ s.time.keep)) ∧
  (∃ (s : State) (i : Nat),
    i < 6 ∧
    railOn s i = false ∧
    (∀ j, j < i → railOn s j = true ∧ railGood s j = true) ∧
    s.fin.railsStopped = false ∧
    1 ≤ s.fin.stage ∧
    s.fin.krefLostBoot = false ∧
    s.flt.sealed = false ∧
    (i = 5 → s.fin.strap = 0) ∧
    (i ≠ 0 → s.time.runs = true → s.fin.kref = true → railRoseAt s (i - 1) + 15625 ≤ s.time.keep)) ∧
  (∃ (s : State),
    railNext s = none) ∧
  (∃ (s : State) (i : Nat),
    railNext s = some i ∧
    i ≠ 0 ∧
    s.time.runs = true ∧
    s.fin.kref = true ∧
    s.time.keep < railRoseAt s (i - 1) + 15625) ∧
  (∃ (s : State) (r : Fin 6),
    railOn s r.val = true) ∧
  (∃ (s : State) (r : Fin 6),
    railGood s r.val = true) ∧
  (∃ (s : State) (i : Nat),
    i < 6 ∧
    railOn s i = true ∧
    railGood s i = false ∧
    (∀ j, j < i → railOn s j = false ∨ railGood s j = true) ∧
    (s.time.runs = true → s.fin.kref = true → s.fin.railEnAt + 1562500 ≤ s.time.keep)) ∧
  (∃ (s : State),
    s.fin.avsPending = true) ∧
  (∃ (s : State) (mv : Nat),
    s.fin.avsPending = true ∧
    ((mv : Int) - s.chime.vdd).natAbs > 20) ∧
  (∃ (s : State) (mv : Nat),
    s.fin.avsPending = true ∧
    ((mv : Int) - s.chime.vdd).natAbs ≤ 20) :=
  ⟨⟨w_Rails_0_s, 0, by decide +kernel⟩,
    ⟨w_Rails_1_s, 0, by decide +kernel⟩,
    ⟨up, by decide +kernel⟩,
    ⟨(finOf up fun f => { f with railEn := 1, railPg := 1, stage := 2 }), 1, by decide +kernel⟩,
    ⟨(finOf up fun f => { f with railPg := 8, stage := 1, memoryDone := false, ready := false }), 4, by decide +kernel⟩,
    ⟨up, 0, by decide +kernel⟩,
    ⟨w_Rails_6_s, 0, by decide +kernel⟩,
    ⟨({ finOf job (fun f => { f with avsPending := true }) with chime := { vdd := 820, vddPrev := 810 } }),
      by decide +kernel⟩,
    ⟨({ finOf job (fun f => { f with avsPending := true }) with chime := { vdd := 820, vddPrev := 810 } }), 841,
      by decide +kernel⟩,
    ⟨({ finOf job (fun f => { f with avsPending := true }) with chime := { vdd := 820, vddPrev := 810 } }), 840,
      by decide +kernel⟩⟩

theorem hyps_ReferenceAndPerst :
  (∃ (s : State),
    s.fin.kref = false ∧
    s.fin.krefLostBoot = false ∧
    s.fin.stage ≤ 1) ∧
  (∃ (s : State),
    s.fin.kref = true) ∧
  (∃ (s : State),
    s.fin.perstLow = true ∧
    railGood s 1 = true) ∧
  (∃ (s : State),
    s.fin.perstLow = true ∧
    railGood s 1 = false) ∧
  (∃ (s : State),
    s.fin.perstHeld = true ∧
    railGood s 1 = true ∧
    (s.time.runs = true → s.fin.kref = true → railRoseAt s 1 + 156250 ≤ s.time.keep)) ∧
  (∃ (s : State),
    s.fin.perstLow = false ∧
    s.fin.perstHeld = false ∧
    s.fin.pinsTaken = false ∧
    s.fin.perstAt + 15625000 ≤ s.time.keep) ∧
  (∃ (s : State),
    (s.fin.perstLow = true ∨ s.time.keep < s.fin.perstAt + 15625000)) :=
  ⟨⟨(State.reset), by decide +kernel⟩,
    ⟨job, by decide +kernel⟩,
    ⟨(finOf up fun f => { f with perstLow := true }), by decide +kernel⟩,
    ⟨(State.reset), by decide +kernel⟩,
    ⟨({ (finOf up fun f => { f with perstHeld := true }) with time := { keep := 160000, runs := true } }), by decide +kernel⟩,
    ⟨({ up with time := { keep := 15625000 } }), by decide +kernel⟩,
    ⟨({ up with time := { keep := 15624999 } }), by decide +kernel⟩⟩

theorem hyps_SecureBoot :
  (∃ (s : State) (im : List Byte),
    imageDue s false = true ∧
    s.fin.finCtr ≤ imageSvn im) ∧
  (∃ (s : State) (im : List Byte),
    imageDue s true = true ∧
    s.fin.blfCtr ≤ imageSvn im) ∧
  (∃ (s : State) (b : Bool) (im : List Byte),
    imageDue s b = true ∧
    s.fin.slotB = false ∧
    (imageGood s (if b then 2 else 1) im = false ∨ imageSvn im < arbCounter s (if b then 2 else 1))) ∧
  (∃ (s : State) (b : Bool) (im : List Byte),
    Sound s = true ∧
    imageDue s b = true ∧
    s.fin.slotB = true ∧
    s.flt.buckets = [] ∧
    regGet s 0x200200 = regReset 0x200200 ∧
    regGet s 0x200204 = regReset 0x200204 ∧
    (imageGood s (if b then 2 else 1) im = false ∨ imageSvn im < arbCounter s (if b then 2 else 1))) ∧
  (∃ (s : State) (b : Bool),
    imageDue s b = false) :=
  ⟨⟨(State.reset), (List.replicate 1280 0), by decide +kernel⟩,
    ⟨(finOf up fun f => { f with stage := 3, ready := false, belfryImage := false }), (List.replicate 1280 0),
      by decide +kernel⟩,
    ⟨(finOf State.reset fun f => { f with finCtr := 1 }), false, (List.replicate 1280 0), by decide +kernel⟩,
    ⟨(finOf State.reset fun f => { f with finCtr := 1, slotB := true }), false, (List.replicate 1280 0), by decide +kernel⟩,
    ⟨up, false, by decide +kernel⟩⟩

theorem hyps_Stages :
  (∃ (s : State),
    Sound s = true ∧
    s.fin.stage = 2 ∧
    s.fin.memoryDone = false ∧
    railGood s 3 = true ∧
    railGood s 4 = true ∧
    s.fin.kref = true ∧
    s.fin.krefLostBoot = false ∧
    s.flt.sealed = false ∧
    s.fin.pinsTaken = false) ∧
  (∃ (s : State),
    Sound s = true ∧
    s.fin.stage = 3 ∧
    s.fin.domeDone = false ∧
    railGood s 5 = true ∧
    s.fin.belfryImage = true ∧
    s.flt.sealed = false) ∧
  (∃ (s : State),
    Sound s = true ∧
    s.fin.memoryDone = true ∧
    ((s.fin.stage = 3 ∧ s.fin.domeDone = true) ∨ (s.fin.stage = 2 ∧ s.fin.strap ≠ 0)) ∧
    s.flt.sealed = false) ∧
  (∃ (s : State),
    s.fin.stage ≠ 2) ∧
  (∃ (s : State),
    (s.fin.stage ≠ 3 ∨ s.fin.domeDone = true)) ∧
  (∃ (s : State),
    (s.fin.memoryDone = false ∨ (s.fin.stage = 3 ∧ s.fin.domeDone = false))) :=
  ⟨⟨(finOf up fun f => { f with stage := 2, ready := false, memoryDone := false, belfryImage := false }), by decide +kernel⟩,
    ⟨(finOf up fun f => { f with stage := 3, ready := false }), by decide +kernel⟩,
    ⟨(finOf job fun f => { f with stage := 3, ready := false, domeDone := true }), by decide +kernel⟩,
    ⟨(State.reset), by decide +kernel⟩,
    ⟨(finOf up fun f => { f with stage := 2, strap := 1 }), by decide +kernel⟩,
    ⟨(State.reset), by decide +kernel⟩⟩

/-- Witness of clause 0 of RingService. -/
def w_RingService_0_s : State :=
  put job [(0x100000, 1), (0x100004, 0x4001 ), (0x10000C, 0x20000), (0x101000, 0x8000), (0x101008, 0x80304000), (0x101FE8,
    0x80304000), (0x103028, 0x80060002)]
/-- Witness of clause 2 of RingService. -/
def w_RingService_2_s : State :=
  { (put job [(0x100000, 1), (0x100004, 0x4001 ), (0x10000C, 0x20000), (0x101000, 0x8000), (0x101008, 0x80304000), (0x101FE8, 0x80304000), (0x103028, 0x80060002)]) with hif := { rings := [(0, { tail := 20 })] } }
/-- Witness of clause 3 of RingService. -/
def w_RingService_3_s : State :=
  { (put job [(0x100000, 1), (0x100004, 0x4001 ), (0x10000C, 0x20000), (0x101000, 0x8000), (0x1010C8, 0x80304000), (0x101028, 0x80304000), (0x103028, 0x80060002)]) with hif := { rings := [(6, { tail := 3 })], nextRing := 3 } }
/-- Witness of clause 4 of RingService. -/
def w_RingService_4_s : State :=
  { (put job [(0x100000, 1), (0x100004, 0x4001 ), (0x10000C, 0x20000), (0x101000, 0x8000), (0x1010C8, 0x80304000), (0x101028, 0x80304000), (0x103028, 0x80060002)]) with hif := { rings := [(6, { tail := 3 })], nextRing := 3 } }
/-- Witness of clause 5 of RingService. -/
def w_RingService_5_s : State :=
  { (put job [(0x100000, 1), (0x100004, 0x4001 ), (0x10000C, 0x20000), (0x101000, 0x8000), (0x101008, 0x80304000), (0x101FE8, 0x80304000), (0x103028, 0x80060002)]) with hif := { rings := [(0, { tail := 20 })] } }
theorem hyps_RingService :
  (∃ (s : State),
    Sound s = true ∧
    s.flt.sealed = false ∧
    s.fin.pinsTaken = false ∧
    regBits s 0x100000 0 0 = 1 ∧
    s.ops = []) ∧
  (∃ (s : State),
    (regBits s 0x100000 0 0 = 0 ∨ s.flt.sealed = true)) ∧
  (∃ (s : State) (r : Fin 256) (ds : List (List Byte)),
    Sound s = true ∧
    s.flt.sealed = false ∧
    s.fin.pinsTaken = false ∧
    regBits s 0x100000 0 0 = 1 ∧
    turnRing s = some r.val ∧
    ds ≠ [] ∧
    ds.length ≤ 16 ∧
    ds.length ≤ ringNew (ring s r.val) ∧
    (∀ d ∈ (ring s r.val).fetchedDescs ++ ds.map parseDesc, opKnown d.body = true)) ∧
  (∃ (s : State) (r : Nat),
    turnRing s = some r) ∧
  (∃ (s : State) (r : Nat) (i : Nat),
    turnRing s = some r ∧
    i < (r + 256 - s.hif.nextRing % 256) % 256) ∧
  (∃ (s : State) (r : Fin 256) (ds : List (List Byte)),
    (ringEnabled s r.val = false ∨ (ring s r.val).stopped = true ∨ turnRing s ≠ some r.val ∨ 16 < ds.length ∨ ringNew (ring s r.val) < ds.length)) :=
  ⟨⟨w_RingService_0_s, by decide +kernel⟩,
    ⟨up, by decide +kernel⟩,
    ⟨w_RingService_2_s, 0, (List.replicate 16 (0x7F :: List.replicate 63 0)), by decide +kernel⟩,
    ⟨w_RingService_3_s, 6, by decide +kernel⟩,
    ⟨w_RingService_4_s, 6, 2, by decide +kernel⟩,
    ⟨w_RingService_5_s, 0, (List.replicate 17 (0x7F :: List.replicate 63 0)), by decide +kernel⟩⟩

/-- Witness of clause 2 of TimersAndLimits. -/
def w_TimersAndLimits_2_s : State :=
  withOp job ({ opOf (.wait { addr := 0xFFFF020000000000, value := 1, mask := 1, limit := 10, cond := 0 }) with reqs := [{ tag := 0, await := .event, start := 4000 }] })
/-- Witness of clause 2 of TimersAndLimits. -/
def w_TimersAndLimits_2_o : Op :=
  { opOf (.wait { addr := 0xFFFF020000000000, value := 1, mask := 1, limit := 10, cond := 0 }) with reqs := [{ tag := 0, await := .event, start := 4000 }] }
/-- Witness of clause 3 of TimersAndLimits. -/
def w_TimersAndLimits_3_s : State :=
  withOp (put { job with time := { keep := 2000000000, runs := true } } [(0x100024,
    0xFFFFFFFF)]) ({ opOf (.fill { dst := 0, bytes := 8, pattern := 0, mask := 0 }) with reqs := [{ tag := 0, await := .ack 5 0 1, start := 0 }] })
/-- Witness of clause 3 of TimersAndLimits. -/
def w_TimersAndLimits_3_o : Op :=
  { opOf (.fill { dst := 0, bytes := 8, pattern := 0, mask := 0 }) with reqs := [{ tag := 0, await := .ack 5 0 1, start := 0 }] }
/-- Witness of clause 4 of TimersAndLimits. -/
def w_TimersAndLimits_4_s : State :=
  withOp job ({ opOf (.fill { dst := 0, bytes := 8, pattern := 0, mask := 0 }) with reqs := [{ tag := 0, await := .ack 5 0 1, start := 0 }] })
/-- Witness of clause 4 of TimersAndLimits. -/
def w_TimersAndLimits_4_o : Op :=
  { opOf (.fill { dst := 0, bytes := 8, pattern := 0, mask := 0 }) with reqs := [{ tag := 0, await := .ack 5 0 1, start := 0 }] }
theorem hyps_TimersAndLimits :
  (∃ (s : State) (o : Op) (b : TimerBody),
    OnlyOp s o ∧
    o.body = .timer b ∧
    o.phase = .active ∧
    timerTarget o b ≤ mtime s) ∧
  (∃ (s : State) (o : Op) (b : TimerBody),
    OnlyOp s o ∧
    o.body = .timer b ∧
    mtime s < timerTarget o b) ∧
  (∃ (s : State) (o : Op),
    opByStream s o.hdr.stream = some o ∧
    o.phase = .active ∧
    limitReached s o = true ∧
    (∀ b, o.body ≠ .reduceGrad b) ∧
    (∀ b, o.body ≠ .stepCommit b)) ∧
  (∃ (s : State) (o : Op),
    opByStream s o.hdr.stream = some o ∧
    o.phase = .active ∧
    limitReached s o = true ∧
    (∀ b, o.body ≠ .wait b)) ∧
  (∃ (s : State) (o : Op),
    opByStream s o.hdr.stream = some o ∧
    limitReached s o = false) :=
  ⟨⟨(withOp job (opOf (.timer { time := 4000, tmode := 1 }))), (opOf (.timer { time := 4000, tmode := 1 })),
    ({ time := 4000, tmode := 1 }), by decide +kernel⟩,
    ⟨(withOp job (opOf (.timer { time := 5001, tmode := 1 }))), (opOf (.timer { time := 5001, tmode := 1 })),
      ({ time := 5001, tmode := 1 }), by decide +kernel⟩,
    ⟨w_TimersAndLimits_2_s, w_TimersAndLimits_2_o, by decide +kernel, by decide +kernel, by decide +kernel, nofun, nofun⟩,
    ⟨w_TimersAndLimits_3_s, w_TimersAndLimits_3_o, by decide +kernel, by decide +kernel, by decide +kernel, nofun⟩,
    ⟨w_TimersAndLimits_4_s, w_TimersAndLimits_4_o, by decide +kernel⟩⟩

theorem hyps_CompletionRecords :
  (∃ (s : State) (o : Op) (st : Status),
    Sound s = true ∧
    OnlyOp s o ∧
    o.phase = .done st ∧
    o.completed = false ∧
    o.plan = none ∧
    hdrQuiet o.hdr = false ∧
    o.c0 = 0 ∧
    o.c1 = 0 ∧
    o.c2 = 0 ∧
    o.c3 = 0 ∧
    s.flt.sealed = false ∧
    eqEnabled s o.evq = true ∧
    1 ≤ eqFree s o.evq ∧
    (o.hdr.txn = 0 ∨ st = .ok) ∧
    (∀ b, o.body ≠ .stepCommit b) ∧
    finalReduce o.body = false) ∧
  (∃ (s : State) (o : Op) (st : Status),
    OnlyOp s o ∧
    o.phase = .done st ∧
    o.completed = false ∧
    o.plan = none ∧
    hdrQuiet o.hdr = false ∧
    (o.hdr.txn = 0 ∨ st = .ok) ∧
    (∀ b, o.body ≠ .stepCommit b) ∧
    finalReduce o.body = false ∧
    (eqEnabled s o.evq = false ∨ eqFree s o.evq = 0)) ∧
  (∃ (s : State) (o : Op) (st : Status),
    Sound s = true ∧
    OnlyOp s o ∧
    o.phase = .done st ∧
    o.completed = true ∧
    o.c0 = 0 ∧
    o.c1 = 0 ∧
    o.c2 = 0 ∧
    o.c3 = 0 ∧
    s.flt.sealed = false ∧
    o.evq < 64 ∧
    eqEnabled s o.evq = true ∧
    1 ≤ eqFree s o.evq) ∧
  (∃ (s : State) (q : Fin 64),
    (eqEnabled s q.val = false ∨ eqFree s q.val = 0)) :=
  ⟨⟨(withOp queued (opOf .nop (.done .ok))), (opOf .nop (.done .ok)), (.ok),
    first8 (by decide +kernel) (first4 (by decide +kernel) (first2 (by decide +kernel) ⟨nofun,
    by decide +kernel⟩))⟩,
    ⟨(withOp job (opOf .nop (.done .ok))), (opOf .nop (.done .ok)), (.ok),
      first4 (by decide +kernel) (first2 (by decide +kernel) ⟨nofun, by decide +kernel⟩)⟩,
    ⟨(withOp queued ({ opOf .nop (.done .ok) with completed := true, ended := 4000 })),
      ({ opOf .nop (.done .ok) with completed := true, ended := 4000 }), (.ok), by decide +kernel⟩,
    ⟨job, 1, by decide +kernel⟩⟩

/-- Witness of clause 0 of Interrupts. -/
def w_Interrupts_0_s : State :=
  put { queued with hif := { queues := [(1, { written := 5, pend := 2, since := 100 })] } } [(0x10302C, 0x03E80000)]
/-- Witness of clause 1 of Interrupts. -/
def w_Interrupts_1_s : State :=
  put (put { queued with hif := { queues := [(1, { written := 5, pend := 2, since := 100 })] } } [(0x10302C,
    0x03E80000)]) [(0x10302C, 0xFFFF0000)]
theorem hyps_Interrupts :
  (∃ (s : State) (q : Fin 64),
    Sound s = true ∧
    (eqGet s q.val).pend ≠ 0 ∧
    regBits s (0x10300C + 32 * q.val) 31 16 ≠ 0 ∧
    (eqGet s q.val).since + regBits s (0x10300C + 32 * q.val) 31 16 ≤ mtime s) ∧
  (∃ (s : State) (q : Fin 64),
    ((eqGet s q.val).pend = 0 ∨ mtime s < (eqGet s q.val).since + regBits s (0x10300C + 32 * q.val) 31 16)) ∧
  (∃ (s : State),
    Sound s = true) :=
  ⟨⟨w_Interrupts_0_s, 1, by decide +kernel⟩,
    ⟨w_Interrupts_1_s, 1, by decide +kernel⟩,
    ⟨({ put up [(0x1083FC, 1)] with hif := { pba := [2, 63] } }), by decide +kernel⟩⟩

theorem hyps_HostAccess :
  (∃ (s : State),
    s.fin.pinsTaken = false ∧
    s.flt.sealed = false) ∧
  (∃ (s : State),
    (s.fin.pinsTaken = true ∨ s.flt.sealed = true)) ∧
  (∃ (s : State) (a : Nat) (n : Nat),
    s.fin.pinsTaken = false ∧
    Bar2Free s (bar2Offset s a, none, n) ∧
    failedIn s .bar2Read (bar2Offset s a) n = [] ∧
    bar2Ok s (bar2Offset s a) n = true) ∧
  (∃ (s : State) (a : Nat) (n : Nat),
    Sound s = true ∧
    s.fin.pinsTaken = false ∧
    s.flt.sealed = false ∧
    Bar2Free s (bar2Offset s a, none, n) ∧
    failedIn s .bar2Read (bar2Offset s a) n = [] ∧
    bar2Ok s (bar2Offset s a) n = false) ∧
  (∃ (s : State) (a : Nat) (n : Nat) (x : Nat),
    s.fin.pinsTaken = false ∧
    s.flt.sealed = false ∧
    Bar2Free s (bar2Offset s a, none, n) ∧
    failedIn s .bar2Read (bar2Offset s a) n = [x]) ∧
  (∃ (s : State) (a : Nat) (bs : List Byte),
    Sound s = true ∧
    s.fin.pinsTaken = false ∧
    s.mif.bar2Waits = [] ∧
    failedIn s .bar2Write (bar2Offset s a) bs.length = [] ∧
    bar2Ok s (bar2Offset s a) bs.length = true ∧
    meetsView s (bar2Offset s a) bs.length = false ∧
    s.dome.journals = [] ∧
    s.mif.copying = [] ∧
    s.dome.heldWrites = [] ∧
    (∀ i, (tablesPinned s i).length < 4)) ∧
  (∃ (s : State) (a : Nat) (n : Nat),
    s.fin.pinsTaken = false ∧
    s.flt.sealed = false ∧
    s.mif.bar2Waits = [] ∧
    bar2Copies s (bar2Offset s a, none, n) = true) ∧
  (∃ (s : State) (a : Nat) (bs : List Byte),
    Sound s = true ∧
    s.fin.pinsTaken = false ∧
    s.flt.sealed = false ∧
    Bar2Free s (bar2Offset s a, some bs, bs.length) ∧
    failedIn s .bar2Write (bar2Offset s a) bs.length = [] ∧
    (bar2Ok s (bar2Offset s a) bs.length = false ∨ meetsView s (bar2Offset s a) bs.length = true)) :=
  ⟨⟨up, by decide +kernel⟩,
    ⟨(finOf up fun f => { f with pinsTaken := true }), by decide +kernel⟩,
    ⟨up, 10, 5, by decide +kernel⟩,
    ⟨up, (lpBytes - 3), 4, by decide +kernel⟩,
    ⟨({ up with mif := { replays := [(.bar2Read, 64, 3)] } }), 70, 5, 64, by decide +kernel⟩,
    ⟨up, 7, ([1, 0, 3]), first8 (by decide +kernel) ⟨by decide +kernel, pinnedFew (by decide +kernel)⟩⟩,
    ⟨({ put up [(0x100100, 16)] with mif := { copying := [((lanDecode 0).1, (lanDecode 0).2.1, 0)] } }), 0, 5,
      by decide +kernel⟩,
    ⟨up, lpBytes, ([1]), by decide +kernel⟩⟩

/-- Witness of clause 0 of HostWindowReads. -/
def w_HostWindowReads_0_s : State :=
  { withOp (put job [(0x100108, 1), (0x10010C, 1)]) (opOf (.wait { addr := 0xFFFF040000000010, value := 5, mask := 0xFF, limit := 10, cond := 0 })) with hif := { reads := [{ tag := 7, op := 0, a := 0x040000000000 }] } }
/-- Witness of clause 0 of HostWindowReads. -/
def w_HostWindowReads_0_b : WaitBody :=
  { addr := 0xFFFF040000000010, value := 5, mask := 0xFF, limit := 10, cond := 0 }
/-- Witness of clause 1 of HostWindowReads. -/
def w_HostWindowReads_1_s : State :=
  { withOp (put job [(0x100108, 1), (0x10010C, 1)]) (opOf (.wait { addr := 0xFFFF040000000010, value := 5, mask := 0xFF, limit := 10, cond := 0 })) with hif := { reads := [{ tag := 7, op := 0, a := 0x040000000000 }] } }
theorem hyps_HostWindowReads :
  (∃ (s : State) (o : Op) (b : WaitBody) (r : HostRead) (bs : List Byte) (w : Nat),
    OnlyOp s o ∧
    o.phase = .active ∧
    o.body = .wait b ∧
    r.op = o.id ∧
    r.ring = none ∧
    s.hif.reads = [r] ∧
    r.a = addrOff b.addr / 64 * 64 ∧
    bs.length = 64 ∧
    regionOf (addrOff b.addr) = .hostWindow ∧
    addrOff b.addr % 8 = 0 ∧
    o.hostBuf = [] ∧
    w = fieldAt bs (addrOff b.addr % 64) 8) ∧
  (∃ (s : State) (o : Op) (r : HostRead),
    OnlyOp s o ∧
    o.phase = .active ∧
    r.op = o.id ∧
    r.ring = none ∧
    s.hif.reads = [r]) ∧
  (∃ (s : State) (r : HostRead),
    Sound s = true ∧
    s.hif.reads = [r] ∧
    r.ring = none ∧
    s.ops = []) ∧
  (∃ (s : State) (r : HostRead) (k : Nat),
    Sound s = true ∧
    NoWork s ∧
    s.hif.reads = [r] ∧
    r.ring = some k) ∧
  (∃ (s : State) (tag : Nat),
    (∀ r ∈ s.hif.reads, r.tag ≠ tag)) :=
  ⟨⟨w_HostWindowReads_0_s, (opOf (.wait w_HostWindowReads_0_b)), w_HostWindowReads_0_b,
    ({ tag := 7, op := 0, a := 0x040000000000 }), (List.replicate 16 0 ++ [5] ++ List.replicate 47 0), 5,
      first8 (by decide +kernel) (first2 (by decide +kernel) ⟨by decide +kernel, rfl⟩)⟩,
    ⟨w_HostWindowReads_1_s, (opOf (.wait { addr := 0xFFFF040000000010, value := 5, mask := 0xFF, limit := 10, cond := 0 })),
      ({ tag := 7, op := 0, a := 0x040000000000 }), by decide +kernel⟩,
    ⟨({ job with hif := { reads := [{ tag := 7, op := 0, a := 0x040000000000 }] } }),
      ({ tag := 7, op := 0, a := 0x040000000000 }), by decide +kernel⟩,
    ⟨({ rest with hif := { reads := [{ tag := 7, op := 0, a := 0x040000000040, ring := some 3 }] } }),
      ({ tag := 7, op := 0, a := 0x040000000040, ring := some 3 }), 3, by decide +kernel⟩,
    ⟨({ job with hif := { reads := [{ tag := 7, op := 0, a := 0x040000000000 }] } }), 8, by decide +kernel⟩⟩

/-- Witness of clause 4 of OpCommands. -/
def w_OpCommands_4_c : Instr :=
  .fill 0 ({ hdr0 with depTag := 9 }) ({ dst := 0xFFFF000000000040, bytes := 12, pattern := 0x0807060504030201, mask := 1 })
/-- Witness of clause 4 of OpCommands. -/
def w_OpCommands_4_d : Desc :=
  { hdr := { hdr0 with depTag := 9 }, body := .fill ({ dst := 0xFFFF000000000040, bytes := 12, pattern := 0x0807060504030201, mask := 1 }) }
/-- Witness of clause 6 of OpCommands. -/
def w_OpCommands_6_s : State :=
  { rest with hif := { rings := [(0, { fetchedDescs := [{ hdr := hdr0, body := .fill ({ dst := 0xFFFF000000000040, bytes := 12, pattern := 0x0807060504030201, mask := 1 }) }] })] } }
/-- Witness of clause 6 of OpCommands. -/
def w_OpCommands_6_f : Desc :=
  { hdr := hdr0, body := .fill ({ dst := 0xFFFF000000000040, bytes := 12, pattern := 0x0807060504030201, mask := 1 }) }
/-- Witness of clause 7 of OpCommands. -/
def w_OpCommands_7_s : State :=
  { rest with hif := { rings := [(0, { fetchedDescs := [{ hdr := hdr0, body := .fill ({ dst := 0xFFFF000000000040, bytes := 12, pattern := 0x0807060504030201, mask := 1 }) }] })] } }
/-- Witness of clause 7 of OpCommands. -/
def w_OpCommands_7_d : Desc :=
  { hdr := hdr0, body := .fill ({ dst := 0xFFFF000000000040, bytes := 12, pattern := 0x0807060504030201, mask := 1 }) }
theorem hyps_OpCommands :
  (∃ (c : Instr) (s : State) (r : Nat) (d : Desc),
    handedOn c = some (r, d) ∧
    AtRest s r ∧
    Accepts s r d) ∧
  (∃ (c : Instr) (s : State) (r : Nat) (d : Desc) (st : Status),
    handedOn c = some (r, d) ∧
    AtRest s r ∧
    (headStatus (handed s r d) (asOp s r d) = some st ∨ (wantsFuse d.body = false ∧
      mustWait (handed s r d) (asOp s r d) = false ∧ RecordsHere s r d ∧
      opStatus (handed s r d) (asOp s r d) = some st) ∨ (wantsFuse d.body = false ∧
      headStatus (handed s r d) (asOp s r d) = none ∧ mustWait (handed s r d) (asOp s r d) = false ∧
      (ring s r).recFailed = true ∧ st = .aborted))) ∧
  (∃ (c : Instr) (s : State) (r : Nat) (d : Desc),
    handedOn c = some (r, d) ∧
    AtRest s r ∧
    headStatus (handed s r d) (asOp s r d) = none ∧
    (wantsFuse d.body = true ∨ mustWait (handed s r d) (asOp s r d) = true ∨ (opStatus (handed s r d) (asOp s r d) = none ∧
      RecordsHere s r d ∧ epochWaits (handed s r d) (asOp s r d) = true) ∨ ((ring s r).recFailed = false ∧
      recMissing (handed s r d) (asOp s r d) ≠ none))) ∧
  (∃ (c : Instr) (s : State) (r : Nat) (d : Desc),
    handedOn c = some (r, d) ∧
    AtRest s r ∧
    (hdrReserved d.hdr ≠ 0 ∨ hdrPhase d.hdr = 3 ∨ ((hdrProduce d.hdr || hdrConsume d.hdr) = true ∧
      d.hdr.depTag = 0) ∨ (jobId s = 0 ∧ noJobOk d.body = false) ∨ (s.fin.strap = 1 ∧ spireOk d.body = false))) ∧
  (∃ (c : Instr) (s : State) (r : Nat) (d : Desc),
    handedOn c = some (r, d) ∧
    AtRest s r ∧
    hdrReserved d.hdr = 0 ∧
    hdrPhase d.hdr ≠ 3 ∧
    d.hdr.depTag ≠ 0 ∧
    jobId s ≠ 0 ∧
    s.fin.strap ≠ 1 ∧
    s.flt.halted = true ∧
    haltOk d.body = false) ∧
  (∃ (c : Instr) (s : State) (r : Nat) (d : Desc),
    handedOn c = some (r, d) ∧
    s.flt.sealed = true) ∧
  (∃ (c : Instr) (s : State) (r : Nat) (d : Desc) (f : Desc) (rest : List Desc),
    handedOn c = some (r, d) ∧
    (ring s r).fetchedDescs = f :: rest ∧
    f ≠ d) ∧
  (∃ (c : Instr) (s : State) (r : Nat) (d : Desc),
    handedOn c = some (r, d) ∧
    Sound s = true ∧
    s.flt.sealed = false ∧
    (ring s r).fetchedDescs = [d]) :=
  ⟨⟨(.nop 0 hdr0), rest, 0, ({ hdr := hdr0, body := .nop }), by decide +kernel, by decide +kernel,
    acceptsIs (by decide +kernel)⟩,
    ⟨(.fill 0 (hdr0) ({ dst := 0xFFFF000000000041, bytes := 12, pattern := 5, mask := 1 })), rest, 0,
      ({ hdr := hdr0, body := .fill ({ dst := 0xFFFF000000000041, bytes := 12, pattern := 5, mask := 1 }) }), (.outOfRange),
      by decide +kernel⟩,
    ⟨(.txnBegin 0 ({ hdr0 with txn := 1 }) ({ journalLimit := 0 })),
      ({ rest with dome := { txns := (List.range 64).map fun i => { num := i + 2, order := i, limit := 64 } } }), 0,
      ({ hdr := { hdr0 with txn := 1 }, body := .txnBegin ({ journalLimit := 0 }) }), by decide +kernel⟩,
    ⟨(.nop 0 { hdr0 with flags := 0x300 }), rest, 0, ({ hdr := { hdr0 with flags := 0x300 }, body := .nop }),
      by decide +kernel⟩,
    ⟨w_OpCommands_4_c, (fltOf rest fun f => { f with halted := true }), 0, w_OpCommands_4_d, by decide +kernel⟩,
    ⟨(.nop 0 hdr0), (fltOf rest fun f => { f with sealed := true }), 0, ({ hdr := hdr0, body := .nop }), by decide +kernel⟩,
    ⟨(.nop 0 hdr0), w_OpCommands_6_s, 0, ({ hdr := hdr0, body := .nop }), w_OpCommands_6_f, ([]), by decide +kernel⟩,
    ⟨(.fill 0 (hdr0) ({ dst := 0xFFFF000000000040, bytes := 12, pattern := 0x0807060504030201, mask := 1 })),
      w_OpCommands_7_s, 0, w_OpCommands_7_d, by decide +kernel⟩⟩

/-- Witness of clause 4 of WordOps. -/
def w_WordOps_4_s : State :=
  { { rest with mem := rest.mem.putBytes 0x40 [5, 1, 0, 0, 0, 0, 0, 0] } with chime := { rest.chime with balance := [((4 + (lpDecode (regBits up 0xC00000 2 0) 0).1 / 16) * 512, 0)] } }
theorem hyps_WordOps :
  (∃ (s : State) (r : Fin 256) (h : Hdr),
    AtRest s r.val ∧
    Accepts s r.val { hdr := h, body := .nop }) ∧
  (∃ (s : State) (r : Fin 256) (h : Hdr) (b : TimerBody),
    AtRest s r.val ∧
    Accepts s r.val { hdr := h, body := .timer b } ∧
    s.dome.epochs = []) ∧
  (∃ (s : State) (r : Fin 256) (h : Hdr) (b : WaitBody),
    AtRest s r.val ∧
    Accepts s r.val { hdr := h, body := .wait b } ∧
    NoPins s r.val { hdr := h, body := .wait b } ∧
    DiesRun s ∧
    txnOf s h.txn = none ∧
    regionOf (addrOff b.addr) ≠ .hostWindow ∧
    WaitPaid s r.val { hdr := h, body := .wait b } b) ∧
  (∃ (s : State) (r : Fin 256) (h : Hdr) (b : WaitBody),
    AtRest s r.val ∧
    Accepts s r.val { hdr := h, body := .wait b } ∧
    NoPins s r.val { hdr := h, body := .wait b } ∧
    s.hif.reads = [] ∧
    regionOf (addrOff b.addr) = .hostWindow ∧
    (ring s r.val).recBuf = [] ∧
    WaitPaid s r.val { hdr := h, body := .wait b } b) ∧
  (∃ (s : State) (r : Fin 256) (h : Hdr) (b : WaitBody),
    AtRest s r.val ∧
    Accepts s r.val { hdr := h, body := .wait b } ∧
    NoPins s r.val { hdr := h, body := .wait b } ∧
    DiesRun s ∧
    ¬WaitPaid s r.val { hdr := h, body := .wait b } b) ∧
  (∃ (s : State) (r : Fin 256) (h : Hdr) (b : SignalBody),
    AtRest s r.val ∧
    Accepts s r.val { hdr := h, body := .signal b } ∧
    Starts s r.val { hdr := h, body := .signal b } ∧
    s.dome.epochs = [] ∧
    DiesRun s ∧
    h.txn = 0 ∧
    isLocal s b.addr = true ∧
    InPlace s [(b.addr, 8)]) ∧
  (∃ (s : State) (r : Fin 256) (h : Hdr) (b : SignalBody) (w : Nat),
    AtRest s r.val ∧
    Accepts s r.val { hdr := h, body := .signal b } ∧
    Starts s r.val { hdr := h, body := .signal b } ∧
    s.dome.epochs = [] ∧
    isLocal s b.addr = true ∧
    regionOf (addrOff b.addr) = .hostWindow ∧
    hostWindow s = some w) ∧
  (∃ (s : State) (r : Fin 256) (h : Hdr) (b : SignalBody),
    AtRest s r.val ∧
    Accepts s r.val { hdr := h, body := .signal b } ∧
    Starts s r.val { hdr := h, body := .signal b } ∧
    s.dome.epochs = [] ∧
    DiesRun s ∧
    isLocal s b.addr = false ∧
    destStatus s (addrChip b.addr) = none ∧
    RoomTo s (addrChip b.addr) 2 1) :=
  ⟨⟨rest, 0, hdr0, by decide +kernel, acceptsIs (by decide +kernel)⟩,
    ⟨rest, 0, hdr0, ({ time := 0, tmode := 0 }), by decide +kernel, acceptsIs (by decide +kernel), by decide +kernel⟩,
    ⟨({ rest with mem := rest.mem.putBytes 0x40 [5, 1, 0, 0, 0, 0, 0, 0] }), 0, hdr0,
      ({ addr := 0xFFFF000000000040, value := 5, mask := 0xFF, limit := 10, cond := 0 }), by decide +kernel,
      acceptsIs (by decide +kernel), by decide +kernel⟩,
    ⟨(put rest [(0x100108, 1), (0x10010C, 1)]), 0, hdr0,
      ({ addr := 0xFFFF040000000048, value := 5, mask := 0xFF, limit := 10, cond := 0 }), by decide +kernel,
      acceptsIs (by decide +kernel), by decide +kernel⟩,
    ⟨w_WordOps_4_s, 0, hdr0, ({ addr := 0xFFFF000000000040, value := 5, mask := 0xFF, limit := 10, cond := 0 }),
      by decide +kernel, acceptsIs (by decide +kernel), by decide +kernel⟩,
    ⟨({ rest with mem := rest.mem.putBytes 0x40 [5, 1, 0, 0, 0, 0, 0, 0] }), 0, hdr0,
      ({ addr := 0xFFFF000000000040, value := 0xFFFFFFFFFFFFFFFF, sop := 0 }), by decide +kernel,
      acceptsIs (by decide +kernel), by decide +kernel⟩,
    ⟨(put rest [(0x100108, 1), (0x10010C, 1)]), 0, hdr0,
      ({ addr := 0xFFFF040000000048, value := 0x1122334455667788, sop := 0 }), 0x100000000, by decide +kernel,
      acceptsIs (by decide +kernel), by decide +kernel⟩,
    ⟨far, 0, hdr0, ({ addr := 0x0006000000000040, value := 7, sop := 1 }), by decide +kernel, acceptsIs (by decide +kernel),
      by decide +kernel⟩⟩

/-- Witness of clause 3 of Moves. -/
def w_Moves_3_b : CopyBody :=
  { src := 0xFFFF000000000040, dst := 0xFFFF010040000000, cmp := 0xFFFFFFFFFFFFFFFF, bytes := 64, pitch := 0, mask := 1, flags := 0 }
/-- Witness of clause 4 of Moves. -/
def w_Moves_4_b : CopyBody :=
  { src := 0xFFFF000000000040, dst := 0x0006000000000080, cmp := 0xFFFFFFFFFFFFFFFF, bytes := 4100, pitch := 0, mask := 1, flags := 0 }
/-- Witness of clause 5 of Moves. -/
def w_Moves_5_b : CopyBody :=
  { src := 0x0006000000000040, dst := 0xFFFF000000000080, cmp := 0xFFFFFFFFFFFFFFFF, bytes := 4100, pitch := 0, mask := 1, flags := 0 }
/-- Witness of clause 6 of Moves. -/
def w_Moves_6_b : CopyBody :=
  { src := 0xFFFF040000000040, dst := 0xFFFF000000000080, cmp := 0xFFFFFFFFFFFFFFFF, bytes := 4, pitch := 0, mask := 1, flags := 0 }
/-- Witness of clause 7 of Moves. -/
def w_Moves_7_s : State :=
  poke rest [(0x800, [2]), (0x804, [4]), (0x808, [1]), (0x80C, [8, 8]), (0x810, leBytes 8 (here 0x900)), (0x100, [5]), (0x140,
    [3, 7]), (0x900, leBytes 8 0 ++ leBytes 8 128)]
/-- Witness of clause 7 of Moves. -/
def w_Moves_7_b : CopyBody :=
  { src := here 0x100, dst := here 0x200, cmp := here 0x800, bytes := 0, pitch := 0, mask := 1, flags := 1 }
/-- Witness of clause 7 of Moves. -/
def w_Moves_7_rows : List (Option (List Byte)) :=
  okVal (collect (fun i => restoreRow w_Moves_7_s (asOp w_Moves_7_s 0 { hdr := hdr0, body := .copy w_Moves_7_b }) w_Moves_7_b (parseCmp (committedBytes w_Moves_7_s 0x800 64)) (memNat w_Moves_7_s (addrOff ((parseCmp (committedBytes w_Moves_7_s 0x800 64)).metaA +
    8 * i)) 8) (memNat w_Moves_7_s (addrOff ((parseCmp (committedBytes w_Moves_7_s 0x800 64)).metaA + 8 * (i +
    1))) 8)) (List.range (parseCmp (committedBytes w_Moves_7_s 0x800 64)).rows)) ([])
/-- Witness of clause 8 of Moves. -/
def w_Moves_8_s : State :=
  poke rest [(0x800, [2]), (0x804, [4]), (0x808, [1]), (0x80C, [8, 8]), (0x810, leBytes 8 (here 0x900)), (0x100, [3, 0, 5,
    0])]
/-- Witness of clause 8 of Moves. -/
def w_Moves_8_b : CopyBody :=
  { src := here 0x100, dst := here 0x200, cmp := here 0x800, bytes := 0, pitch := 0, mask := 1, flags := 0 }
/-- Witness of clause 8 of Moves. -/
def w_Moves_8_rows : List StoredRow :=
  (List.range (parseCmp (committedBytes w_Moves_8_s 0x800 64)).rows).map (fun i => storeOne (parseCmp (committedBytes w_Moves_8_s 0x800 64)) (committedBytes w_Moves_8_s (addrOff (here 0x100 +
    i * densePitch (parseCmp (committedBytes w_Moves_8_s 0x800 64)) w_Moves_8_b)) (denseRow (parseCmp (committedBytes w_Moves_8_s 0x800 64)))))
theorem hyps_Moves :
  (∃ (s : State) (r : Fin 256) (h : Hdr) (b : FillBody),
    AtRest s r.val ∧
    Accepts s r.val { hdr := h, body := .fill b } ∧
    Starts s r.val { hdr := h, body := .fill b } ∧
    s.dome.epochs = [] ∧
    DiesRun s ∧
    h.txn = 0 ∧
    isLocal s b.dst = true ∧
    InPlace s [(b.dst, b.bytes)]) ∧
  (∃ (s : State) (r : Fin 256) (h : Hdr) (b : FillBody) (x : Txn),
    AtRest s r.val ∧
    Accepts s r.val { hdr := h, body := .fill b } ∧
    Starts s r.val { hdr := h, body := .fill b } ∧
    s.dome.epochs = [] ∧
    DiesRun s ∧
    isLocal s b.dst = true ∧
    s.dome.txns = [x] ∧
    x.num = h.txn ∧
    h.txn ≠ 0 ∧
    x.staged = [] ∧
    x.limit ≤ partSize s 2 * 2 ^ 20 ∧
    s.dome.journals = [] ∧
    (regionOf (addrOff b.dst) = .lpddr ∨ regionOf (addrOff b.dst) = .lantern) ∧
    64 * (b.bytes / 64 + 2) ≤ x.limit) ∧
  (∃ (s : State) (r : Fin 256) (h : Hdr) (b : FillBody),
    AtRest s r.val ∧
    Accepts s r.val { hdr := h, body := .fill b } ∧
    Starts s r.val { hdr := h, body := .fill b } ∧
    s.dome.epochs = [] ∧
    DiesRun s ∧
    isLocal s b.dst = false ∧
    destStatus s (addrChip b.dst) = none ∧
    RoomTo s (addrChip b.dst) 2 (pieces b.bytes).length) ∧
  (∃ (s : State) (r : Fin 256) (h : Hdr) (b : CopyBody),
    AtRest s r.val ∧
    Accepts s r.val { hdr := h, body := .copy b } ∧
    Starts s r.val { hdr := h, body := .copy b } ∧
    NoPins s r.val { hdr := h, body := .copy b } ∧
    DiesRun s ∧
    h.txn = 0 ∧
    absent b.cmp = true ∧
    isLocal s b.src = true ∧
    isLocal s b.dst = true ∧
    regionOf (addrOff b.src) ≠ .hostWindow ∧
    InPlace s [(b.dst, b.bytes)] ∧
    (addrOff b.src = addrOff b.dst ∨ addrOff b.src + b.bytes ≤ addrOff b.dst ∨ addrOff b.dst + b.bytes ≤ addrOff b.src)) ∧
  (∃ (s : State) (r : Fin 256) (h : Hdr) (b : CopyBody),
    AtRest s r.val ∧
    Accepts s r.val { hdr := h, body := .copy b } ∧
    Starts s r.val { hdr := h, body := .copy b } ∧
    NoPins s r.val { hdr := h, body := .copy b } ∧
    DiesRun s ∧
    absent b.cmp = true ∧
    isLocal s b.src = true ∧
    isLocal s b.dst = false ∧
    regionOf (addrOff b.src) ≠ .hostWindow ∧
    txnOf s h.txn = none ∧
    destStatus s (addrChip b.dst) = none ∧
    RoomTo s (addrChip b.dst) 2 (pieces b.bytes).length) ∧
  (∃ (s : State) (r : Fin 256) (h : Hdr) (b : CopyBody),
    AtRest s r.val ∧
    Accepts s r.val { hdr := h, body := .copy b } ∧
    Starts s r.val { hdr := h, body := .copy b } ∧
    NoPins s r.val { hdr := h, body := .copy b } ∧
    DiesRun s ∧
    absent b.cmp = true ∧
    isLocal s b.src = false ∧
    destStatus s (addrChip b.src) = none ∧
    RoomTo s (addrChip b.src) 2 (pieces b.bytes).length) ∧
  (∃ (s : State) (r : Fin 256) (h : Hdr) (b : CopyBody),
    AtRest s r.val ∧
    Accepts s r.val { hdr := h, body := .copy b } ∧
    Starts s r.val { hdr := h, body := .copy b } ∧
    NoPins s r.val { hdr := h, body := .copy b } ∧
    DiesRun s ∧
    absent b.cmp = true ∧
    isLocal s b.src = true ∧
    regionOf (addrOff b.src) = .hostWindow ∧
    s.hif.reads = []) ∧
  (∃ (s : State) (r : Fin 256) (h : Hdr) (b : CopyBody) (c : CmpBlock) (rows : List (Option (List Byte))),
    AtRest s r.val ∧
    Accepts s r.val { hdr := h, body := .copy b } ∧
    Starts s r.val { hdr := h, body := .copy b } ∧
    NoPins s r.val { hdr := h, body := .copy b } ∧
    DiesRun s ∧
    h.txn = 0 ∧
    absent b.cmp = false ∧
    natBits b.flags 0 0 = 1 ∧
    c = parseCmp (committedBytes s (addrOff b.cmp) 64) ∧
    regionOf (addrOff b.cmp) ≠ .hostWindow ∧
    regionOf (addrOff b.src) ≠ .hostWindow ∧
    regionOf (addrOff c.metaA) ≠ .hostWindow ∧
    collect (fun i => restoreRow s (asOp s r.val { hdr := h, body := .copy b }) b c (memNat s (addrOff (c.metaA +
      8 * i)) 8) (memNat s (addrOff (c.metaA + 8 * (i + 1))) 8)) (List.range c.rows) = .ok rows ∧
    (∀ i, i < c.rows → InPlace s [(b.dst + i * densePitch c b, denseRow c)])) ∧
  (∃ (s : State) (r : Fin 256) (h : Hdr) (b : CopyBody) (c : CmpBlock) (rows : List StoredRow),
    AtRest s r.val ∧
    Accepts s r.val { hdr := h, body := .copy b } ∧
    Starts s r.val { hdr := h, body := .copy b } ∧
    NoPins s r.val { hdr := h, body := .copy b } ∧
    DiesRun s ∧
    h.txn = 0 ∧
    absent b.cmp = false ∧
    natBits b.flags 0 0 = 0 ∧
    c = parseCmp (committedBytes s (addrOff b.cmp) 64) ∧
    regionOf (addrOff b.cmp) ≠ .hostWindow ∧
    regionOf (addrOff b.src) ≠ .hostWindow ∧
    c.strict = false ∧
    rows = (List.range c.rows).map (fun i => storeOne c (committedBytes s (addrOff (b.src +
      i * densePitch c b)) (denseRow c))) ∧
    InPlace s [] ∧
    (∀ w ∈ cmpRows c b.dst rows ++ cmpExtras c rows, InPlace s [(w.1, w.2.length)])) :=
  ⟨⟨rest, 0, hdr0, ({ dst := 0xFFFF000000000040, bytes := 12, pattern := 0x0807060504030201, mask := 1 }), by decide +kernel,
    acceptsIs (by decide +kernel), by decide +kernel⟩,
    ⟨({ rest with dome := { txns := [{ num := 1, order := 0, limit := 640 }], txnOrder := 1 } }), 0, ({ hdr0 with txn := 1 }),
      ({ dst := 0xFFFF000000000040, bytes := 12, pattern := 0x0807060504030201, mask := 1 }),
      ({ num := 1, order := 0, limit := 640 }), by decide +kernel, acceptsIs (by decide +kernel), by decide +kernel⟩,
    ⟨far, 0, hdr0, ({ dst := 0x0006000000000040, bytes := 8200, pattern := 0x0807060504030201, mask := 1 }),
      by decide +kernel, acceptsIs (by decide +kernel), by decide +kernel⟩,
    ⟨({ rest with mem := rest.mem.putBytes 0x40 [5, 1, 0, 0, 0, 0, 0, 0] }), 0, hdr0, w_Moves_3_b, by decide +kernel,
      acceptsIs (by decide +kernel), by decide +kernel⟩,
    ⟨({ far with mem := far.mem.putBytes 0x40 [5, 1, 0, 0, 0, 0, 0, 0] }), 0, hdr0, w_Moves_4_b, by decide +kernel,
      acceptsIs (by decide +kernel), by decide +kernel⟩,
    ⟨far, 0, hdr0, w_Moves_5_b, by decide +kernel, acceptsIs (by decide +kernel), by decide +kernel⟩,
    ⟨(put rest [(0x100108, 1), (0x10010C, 1)]), 0, hdr0, w_Moves_6_b, by decide +kernel, acceptsIs (by decide +kernel),
      by decide +kernel⟩,
    ⟨w_Moves_7_s, 0, hdr0, w_Moves_7_b, (parseCmp (committedBytes w_Moves_7_s 0x800 64)), w_Moves_7_rows, by decide +kernel,
      acceptsIs (by decide +kernel), first4 (by decide +kernel) (first2 (by decide +kernel) ⟨rfl, by decide +kernel,
        by decide +kernel, by decide +kernel,
      okIs (by decide +kernel), by decide +kernel⟩)⟩,
    ⟨w_Moves_8_s, 0, hdr0, w_Moves_8_b, (parseCmp (committedBytes w_Moves_8_s 0x800 64)), w_Moves_8_rows, by decide +kernel,
      acceptsIs (by decide +kernel), first4 (by decide +kernel) (first2 (by decide +kernel) ⟨rfl, by decide +kernel,
        by decide +kernel, by decide +kernel, rfl,
      by decide +kernel⟩)⟩⟩

/-- Witness of clause 1 of Transactions. -/
def w_Transactions_1_s : State :=
  { rest with dome := { txns := [{ num := 1, order := 0, limit := 640, staged := [(0x40, 1), (lanBase + 0x40000000, 2), (0x42, 3)] }], txnOrder := 1 } }
/-- Witness of clause 2 of Transactions. -/
def w_Transactions_2_s : State :=
  { rest with dome := { txns := [{ num := 1, order := 0, limit := 640, aborted := some .timeout, staged := [(0x40, 1)] }], txnOrder := 1 } }
/-- Witness of clause 3 of Transactions. -/
def w_Transactions_3_s : State :=
  { rest with dome := { txns := [{ num := 1, order := 0, limit := 640, staged := [(0x40, 1), (lanBase + 0x40000000, 2), (0x42, 3)] }], txnOrder := 1 } }
theorem hyps_Transactions :
  (∃ (s : State) (r : Fin 256) (h : Hdr) (b : TxnBeginBody),
    AtRest s r.val ∧
    Accepts s r.val { hdr := h, body := .txnBegin b } ∧
    s.dome.epochs = [] ∧
    DiesRun s) ∧
  (∃ (s : State) (r : Fin 256) (h : Hdr) (x : Txn),
    AtRest s r.val ∧
    Accepts s r.val { hdr := h, body := .txnCommit } ∧
    s.dome.epochs = [] ∧
    DiesRun s ∧
    s.dome.txns = [x] ∧
    x.num = h.txn ∧
    h.txn ≠ 0 ∧
    x.aborted = none ∧
    (dirOk s = true → ∀ c ∈ x.staged, c.1 < dirBase s ∨ dirBase s + 4096 ≤ c.1)) ∧
  (∃ (s : State) (r : Fin 256) (h : Hdr) (x : Txn) (st : Status),
    AtRest s r.val ∧
    Accepts s r.val { hdr := h, body := .txnCommit } ∧
    s.dome.epochs = [] ∧
    DiesRun s ∧
    s.dome.txns = [x] ∧
    x.num = h.txn ∧
    h.txn ≠ 0 ∧
    x.aborted = some st) ∧
  (∃ (s : State) (r : Fin 256) (h : Hdr) (x : Txn),
    AtRest s r.val ∧
    Accepts s r.val { hdr := h, body := .txnAbort } ∧
    s.dome.epochs = [] ∧
    DiesRun s ∧
    s.dome.txns = [x] ∧
    x.num = h.txn ∧
    h.txn ≠ 0) :=
  ⟨⟨rest, 0, ({ hdr0 with txn := 1 }), ({ journalLimit := 0 }), by decide +kernel, acceptsIs (by decide +kernel),
    by decide +kernel⟩,
    ⟨w_Transactions_1_s, 0, ({ hdr0 with txn := 1 }),
      ({ num := 1, order := 0, limit := 640, staged := [(0x40, 1), (lanBase + 0x40000000, 2), (0x42, 3)] }),
      by decide +kernel, acceptsIs (by decide +kernel), by decide +kernel⟩,
    ⟨w_Transactions_2_s, 0, ({ hdr0 with txn := 1 }),
      ({ num := 1, order := 0, limit := 640, aborted := some .timeout, staged := [(0x40, 1)] }), (.timeout),
      by decide +kernel, acceptsIs (by decide +kernel), by decide +kernel⟩,
    ⟨w_Transactions_3_s, 0, ({ hdr0 with txn := 1 }),
      ({ num := 1, order := 0, limit := 640, staged := [(0x40, 1), (lanBase + 0x40000000, 2), (0x42, 3)] }),
      by decide +kernel, acceptsIs (by decide +kernel), by decide +kernel⟩⟩

/-- Witness of clause 3 of MatrixOps. -/
def w_MatrixOps_3_s : State :=
  ringPut program 0 { held := [{ hdr := { hdr0 with stream := 4 }, body := .gemm { gemmBd with m := 1, n := 2, d := nowhere, flags := 0x80 } }] }
/-- Witness of clause 3 of MatrixOps. -/
def w_MatrixOps_3_u : State :=
  ringPut program 0 { held := [{ hdr := { hdr0 with stream := 4 }, body := .gemm { gemmBd with m := 1, n := 2, d := nowhere, flags := 0x80 } }, { hdr := hdr0, body := .elem elemBd }] }
/-- Witness of clause 3 of MatrixOps. -/
def w_MatrixOps_3_d : Desc :=
  { hdr := { hdr0 with stream := 4 }, body := .gemm { gemmBd with m := 1, n := 2, d := nowhere, flags := 0x80 } }
theorem hyps_MatrixOps :
  (∃ (s : State) (kind : GemmKind) (r : Fin 256) (h : Hdr) (b : GemmBody),
    AtRest s r.val ∧
    Accepts s r.val (gemmDesc kind h b) ∧
    Starts s r.val (gemmDesc kind h b) ∧
    NoPins s r.val (gemmDesc kind h b) ∧
    DiesRun s ∧
    (gemmOf s (asOp s r.val (gemmDesc kind h b)) kind b).grad = false) ∧
  (∃ (s : State) (kind : GemmKind) (r : Fin 256) (h : Hdr) (b : GemmBody),
    AtRest s r.val ∧
    Accepts s r.val (gemmDesc kind h b) ∧
    Starts s r.val (gemmDesc kind h b) ∧
    NoPins s r.val (gemmDesc kind h b) ∧
    DiesRun s ∧
    (gemmOf s (asOp s r.val (gemmDesc kind h b)) kind b).grad = true ∧
    frozenLayer s b.layer = false) ∧
  (∃ (s : State) (kind : GemmKind) (r : Fin 256) (h : Hdr) (b : GemmBody),
    AtRest s r.val ∧
    Accepts s r.val (gemmDesc kind h b) ∧
    Starts s r.val (gemmDesc kind h b) ∧
    NoPins s r.val (gemmDesc kind h b) ∧
    DiesRun s ∧
    (gemmOf s (asOp s r.val (gemmDesc kind h b)) kind b).grad = true ∧
    frozenLayer s b.layer = true) ∧
  (∃ (s : State) (u : State) (r : Fin 256) (h : Hdr) (d : Desc) (g : GemmBody) (e : ElemBody),
    d.body = .gemm g ∧
    natBits g.flags 7 7 = 1 ∧
    Sound s = true ∧
    s.flt.sealed = false ∧
    DiesRun s ∧
    s.ops = [] ∧
    s.dome.epochs = [] ∧
    (ring s r.val).recFailed = false ∧
    (ring s r.val).held = [d] ∧
    (ring s r.val).fetchedDescs = [] ∧
    2 ≤ ringQuota s r.val ∧
    (∀ x ∈ s.hif.rings, x.1 ≠ r.val → x.2.held = []) ∧
    d.hdr.stream ≠ h.stream ∧
    hdrConsume d.hdr = false ∧
    hdrConsume h = false ∧
    u = ringPut s r.val { ring s r.val with held := [d, { hdr := h, body := .elem e }] } ∧
    recMissing u (newOp u r.val d s.opNext) = none ∧
    recMissing u (newOp u r.val { hdr := h, body := .elem e } (s.opNext + 1)) = none ∧
    mustWait u (newOp u r.val d s.opNext) = false ∧
    opStatus u (newOp u r.val d s.opNext) = none ∧
    opStatus u (newOp u r.val { hdr := h, body := .elem e } (s.opNext +
      1)) (some (fusedShape u (newOp u r.val d s.opNext) .dense g)) = none ∧
    readsView u (newOp u r.val d s.opNext) = false ∧
    readsView u (newOp u r.val { hdr := h, body := .elem e } (s.opNext + 1)) = false) :=
  ⟨⟨rest, (.dense), 0, hdr0, gemmBd, by decide +kernel, acceptsIs (by decide +kernel), by decide +kernel⟩,
    ⟨grouped, (.dense), 0, hdr0, gradBd, by decide +kernel, acceptsIs (by decide +kernel), by decide +kernel⟩,
    ⟨(poke (put grouped [(0x1000108, 0xC0400000)]) [(lanBase + 0x40400000, [1])]), (.dense), 0, hdr0, gradBd,
      by decide +kernel, acceptsIs (by decide +kernel), by decide +kernel⟩,
    ⟨w_MatrixOps_3_s, w_MatrixOps_3_u, 0, hdr0, w_MatrixOps_3_d,
      ({ gemmBd with m := 1, n := 2, d := nowhere, flags := 0x80 }), elemBd,
        first8 (by decide +kernel) (first4 (by decide +kernel) (first2 (by decide +kernel) ⟨by decide +kernel, rfl,
        by decide +kernel⟩))⟩⟩

/-- Witness of clause 0 of Tiles. -/
def w_Tiles_0_ops : TileOps :=
  okVal (tileOps (withOp (tiled grouped { op := 0, tile := 0 }) (gemmOp gemmBd)) (gemmOp gemmBd) (gemmOf (withOp (tiled grouped { op := 0, tile := 0 }) (gemmOp gemmBd)) (gemmOp gemmBd) .dense gemmBd) 0) { a := [], b := [], c := [], tally := {}, aBad := [], bBad := [], bad := 0 }
/-- Witness of clause 1 of Tiles. -/
def w_Tiles_1_s : State :=
  { withOp (tiled grouped { op := 0, tile := 0 }) (gemmOp gemmBd) with dome := { turrets := [(0, { buf0 := some { job := { op := 0, tile := 0 }, missing := [2, 5, 6] } })] } }
/-- Witness of clause 2 of Tiles. -/
def w_Tiles_2_s : State :=
  { withOp (tiled grouped { op := 0, tile := 0 }) (gemmOp gemmBd) with dome := { turrets := [(0, { buf0 := some { job := { op := 0, tile := 0 }, missing := [0] } })] } }
/-- Witness of clause 2 of Tiles. -/
def w_Tiles_2_ops : TileOps :=
  okVal (tileOps w_Tiles_2_s (gemmOp gemmBd) (gemmOf w_Tiles_2_s (gemmOp gemmBd) .dense gemmBd) 0) { a := [], b := [], c := [], tally := {}, aBad := [], bBad := [], bad := 0 }
/-- Witness of clause 3 of Tiles. -/
def w_Tiles_3_s : State :=
  { withOp (tiled grouped { op := 0, tile := 0 }) (gemmOp gemmBd) with dome := { turrets := [(0, { buf0 := some { job := { op := 0, tile := 0 }, acc := [.int 15] } })] } }
/-- Witness of clause 4 of Tiles. -/
def w_Tiles_4_s : State :=
  { withOp grouped (gemmOp gradBd) with dome := { turrets := [(0, { buf0 := some { job := { op := 0, tile := 0 }, acc := [.fin (Val.zero false)] } })] } }
/-- Witness of clause 4 of Tiles. -/
def w_Tiles_4_v : State :=
  tileState (tileToGroup w_Tiles_4_s (gemmOp gradBd) (gemmOf w_Tiles_4_s (gemmOp gradBd) .dense gradBd) 0 [.fin (Val.zero false)])
theorem hyps_Tiles :
  (∃ (s : State) (o : Op) (kind : GemmKind) (b : GemmBody) (t : Fin 256) (j : TileJob) (ops : TileOps),
    Sound s = true ∧
    OnlyOp s o ∧
    o.phase = .active ∧
    gemmBody o = some (kind, b) ∧
    o.asked = 2 ∧
    o.plan = none ∧
    DiesRun s ∧
    s.dome.tripped = false ∧
    (belfry s (t.val / 16)).fenced = false ∧
    (belfry s (t.val / 16)).pllOn = true ∧
    t.val % 16 ∉ (belfry s (t.val / 16)).vacated ∧
    (turret s t.val).buf0 = none ∧
    nextJob s (belfry s (t.val / 16)) = some j ∧
    j.op = o.id ∧
    tileOps s o (gemmOf s o kind b) j.tile = .ok ops) ∧
  (∃ (s : State) (o : Op) (kind : GemmKind) (b : GemmBody) (t : Fin 256) (i : Fin 2) (x : TileBuf) (k : Nat) (m : Nat) (rest : List Nat),
    Sound s = true ∧
    OnlyOp s o ∧
    o.phase = .active ∧
    gemmBody o = some (kind, b) ∧
    o.asked = 2 ∧
    recMissing s o = none ∧
    (turret s t.val).buf i.val = some x ∧
    x.missing = k :: m :: rest) ∧
  (∃ (s : State) (o : Op) (kind : GemmKind) (b : GemmBody) (t : Fin 256) (i : Fin 2) (x : TileBuf) (k : Nat) (ops : TileOps),
    Sound s = true ∧
    OnlyOp s o ∧
    o.phase = .active ∧
    gemmBody o = some (kind, b) ∧
    o.asked = 2 ∧
    recMissing s o = none ∧
    (turret s t.val).buf i.val = some x ∧
    x.missing = [k] ∧
    x.job.op = o.id ∧
    tileOps s o (gemmOf s o kind b) x.job.tile = .ok ops) ∧
  (∃ (s : State) (o : Op) (kind : GemmKind) (b : GemmBody) (t : Fin 256) (i : Fin 2) (x : TileBuf) (n : Nat) (l : Nat) (m : Nat) (k : Nat) (w : Nat) (am : Option Int) (g : Gemm),
    Sound s = true ∧
    OnlyOp s o ∧
    o.phase = .active ∧
    gemmBody o = some (kind, b) ∧
    o.asked = 2 ∧
    g = gemmOf s o kind b ∧
    (turret s t.val).buf i.val = some x ∧
    x.owed = [] ∧
    x.issue = [] ∧
    x.missing = [] ∧
    x.job.op = o.id ∧
    o.hdr.txn = 0 ∧
    o.work = .gemm (n + 1) am none l m k w ∧
    g.grad = false ∧
    g.fuse = false ∧
    g.scaled = false ∧
    g.hist = false ∧
    (g.strictMd = false ∨ x.malformed = 0) ∧
    AllInPlace s (emitTile s o g x.job.tile x.acc).writes) ∧
  (∃ (s : State) (v : State) (o : Op) (kind : GemmKind) (b : GemmBody) (t : Fin 256) (i : Fin 2) (x : TileBuf) (n : Nat) (l : Nat) (m : Nat) (k : Nat) (w : Nat) (g : Gemm),
    Sound s = true ∧
    OnlyOp s o ∧
    o.phase = .active ∧
    gemmBody o = some (kind, b) ∧
    o.asked = 2 ∧
    g = gemmOf s o kind b ∧
    (turret s t.val).buf i.val = some x ∧
    x.owed = [] ∧
    x.issue = [] ∧
    x.missing = [] ∧
    x.job.op = o.id ∧
    o.hdr.txn = 0 ∧
    o.work = .gemm (n + 1) none none l m k w ∧
    g.grad = true ∧
    (g.strictMd = false ∨ x.malformed = 0) ∧
    tileToGroup s o g x.job.tile x.acc = .done v ∧
    v.ops = s.ops ∧
    v.hif.rings = s.hif.rings) ∧
  (∃ (s : State) (o : Op) (kind : GemmKind) (b : GemmBody) (t : Fin 256) (i : Fin 2),
    OnlyOp s o ∧
    o.phase = .active ∧
    gemmBody o = some (kind, b) ∧
    o.asked = 2 ∧
    recMissing s o = none ∧
    (∀ x ∈ s.dome.belfries, ∀ j ∈ x.2.immediate ++ x.2.deferred ++ x.2.unplaced, jobDead s j = false) ∧
    (turret s t.val).buf i.val = none) :=
  ⟨⟨(withOp (tiled grouped { op := 0, tile := 0 }) (gemmOp gemmBd)), (gemmOp gemmBd), (.dense), gemmBd, 0,
    ({ op := 0, tile := 0 }), w_Tiles_0_ops,
      first8 (by decide +kernel) (first4 (by decide +kernel) (first2 (by decide +kernel) (okIs (by decide +kernel))))⟩,
    ⟨w_Tiles_1_s, (gemmOp gemmBd), (.dense), gemmBd, 0, 0, ({ job := { op := 0, tile := 0 }, missing := [2, 5, 6] }), 2, 5,
      ([6]), by decide +kernel⟩,
    ⟨w_Tiles_2_s, (gemmOp gemmBd), (.dense), gemmBd, 0, 0, ({ job := { op := 0, tile := 0 }, missing := [0] }), 0,
      w_Tiles_2_ops, first8 (by decide +kernel) ⟨by decide +kernel, okIs (by decide +kernel)⟩⟩,
    ⟨w_Tiles_3_s, (gemmOp gemmBd), (.dense), gemmBd, 0, 0, ({ job := { op := 0, tile := 0 }, acc := [.int 15] }), 0, 0, 0, 0,
      0, none, (gemmOf grouped (gemmOp gemmBd) .dense gemmBd), first4 (by decide +kernel) ⟨by decide +kernel, rfl,
        by decide +kernel⟩⟩,
    ⟨w_Tiles_4_s, w_Tiles_4_v, (gemmOp gradBd), (.dense), gradBd, 0, 0,
      ({ job := { op := 0, tile := 0 }, acc := [.fin (Val.zero false)] }), 0, 0, 0, 0, 0,
      (gemmOf w_Tiles_4_s (gemmOp gradBd) .dense gradBd), first4 (by decide +kernel) ⟨by decide +kernel, rfl,
        first8 (by decide +kernel) ⟨by decide +kernel, tileIs (by decide +kernel), by decide +kernel⟩⟩⟩,
    ⟨(withOp grouped (gemmOp gemmBd)), (gemmOp gemmBd), (.dense), gemmBd, 0, 1, by decide +kernel⟩⟩

/-- Witness of clause 0 of VectorOps. -/
def w_VectorOps_0_ps : List PairOut :=
  okVal (collect (runPair (sparse (leBytes 4 1 ++ leBytes 4 3)) (asOp (sparse (leBytes 4 1 ++
    leBytes 4 3)) 0 { hdr := hdr0, body := .spspIntersect (spspBd 0) }) (spspBd 0) (spspRecs (sparse (leBytes 4 1 ++
    leBytes 4 3)) (asOp (sparse (leBytes 4 1 ++
    leBytes 4 3)) 0 { hdr := hdr0, body := .spspIntersect (spspBd 0) }) (spspBd 0)).1 (spspRecs (sparse (leBytes 4 1 ++
    leBytes 4 3)) (asOp (sparse (leBytes 4 1 ++
    leBytes 4 3)) 0 { hdr := hdr0, body := .spspIntersect (spspBd 0) }) (spspBd 0)).2) [0]) ([])
/-- Witness of clause 1 of VectorOps. -/
def w_VectorOps_1_ps : List PairOut :=
  okVal (collect (runPair (sparse (leBytes 4 3 ++ leBytes 4 1)) (asOp (sparse (leBytes 4 3 ++
    leBytes 4 1)) 0 { hdr := hdr0, body := .spspIntersect (spspBd 8) }) (spspBd 8) (spspRecs (sparse (leBytes 4 3 ++
    leBytes 4 1)) (asOp (sparse (leBytes 4 3 ++
    leBytes 4 1)) 0 { hdr := hdr0, body := .spspIntersect (spspBd 8) }) (spspBd 8)).1 (spspRecs (sparse (leBytes 4 3 ++
    leBytes 4 1)) (asOp (sparse (leBytes 4 3 ++
    leBytes 4 1)) 0 { hdr := hdr0, body := .spspIntersect (spspBd 8) }) (spspBd 8)).2) [0]) ([])
/-- Witness of clause 2 of VectorOps. -/
def w_VectorOps_2_w : State :=
  atWork (program) (0 : Fin 256).val ({ hdr := hdr0, body := .elem elemBd })
/-- Witness of clause 2 of VectorOps. -/
def w_VectorOps_2_o : Op :=
  atWorkOp (program) (0 : Fin 256).val ({ hdr := hdr0, body := .elem elemBd })
/-- Witness of clause 2 of VectorOps. -/
def w_VectorOps_2_rows : List RowOut :=
  okVal (collect (elemRow w_VectorOps_2_w w_VectorOps_2_o elemBd (elemPlan w_VectorOps_2_w w_VectorOps_2_o elemBd) (tapFree w_VectorOps_2_w)) [0]) ([])
/-- Witness of clause 3 of VectorOps. -/
def w_VectorOps_3_w : State :=
  holdReplicas (atWork (tabled) (0 : Fin 256).val ({ hdr := hdr0, body := .embBag bagBd })) (atWorkOp (tabled) (0 : Fin 256).val ({ hdr := hdr0, body := .embBag bagBd })) (opTable tabled (atWorkOp (tabled) (0 : Fin 256).val ({ hdr := hdr0, body := .embBag bagBd }))) (distinctRows (okVal (positions (atWork (tabled) (0 : Fin 256).val ({ hdr := hdr0, body := .embBag bagBd })) (atWorkOp (tabled) (0 : Fin 256).val ({ hdr := hdr0, body := .embBag bagBd })) (bagsOf (atWork (tabled) (0 : Fin 256).val ({ hdr := hdr0, body := .embBag bagBd })) (atWorkOp (tabled) (0 : Fin 256).val ({ hdr := hdr0, body := .embBag bagBd })) (here 0x7000)) (opTable tabled (atWorkOp (tabled) (0 : Fin 256).val ({ hdr := hdr0, body := .embBag bagBd })))) (([],
    {}))).1)
/-- Witness of clause 3 of VectorOps. -/
def w_VectorOps_3_v : State :=
  rowsRead w_VectorOps_3_w tabled.opNext (windowed 0 (rowItems (atWork (tabled) (0 : Fin 256).val ({ hdr := hdr0, body := .embBag bagBd })) (atWorkOp (tabled) (0 : Fin 256).val ({ hdr := hdr0, body := .embBag bagBd })) (opTable tabled (atWorkOp (tabled) (0 : Fin 256).val ({ hdr := hdr0, body := .embBag bagBd }))) bagBd.mask (okVal (positions (atWork (tabled) (0 : Fin 256).val ({ hdr := hdr0, body := .embBag bagBd })) (atWorkOp (tabled) (0 : Fin 256).val ({ hdr := hdr0, body := .embBag bagBd })) (bagsOf (atWork (tabled) (0 : Fin 256).val ({ hdr := hdr0, body := .embBag bagBd })) (atWorkOp (tabled) (0 : Fin 256).val ({ hdr := hdr0, body := .embBag bagBd })) (here 0x7000)) (opTable tabled (atWorkOp (tabled) (0 : Fin 256).val ({ hdr := hdr0, body := .embBag bagBd })))) (([],
    {}))).1 (distinctRows (okVal (positions (atWork (tabled) (0 : Fin 256).val ({ hdr := hdr0, body := .embBag bagBd })) (atWorkOp (tabled) (0 : Fin 256).val ({ hdr := hdr0, body := .embBag bagBd })) (bagsOf (atWork (tabled) (0 : Fin 256).val ({ hdr := hdr0, body := .embBag bagBd })) (atWorkOp (tabled) (0 : Fin 256).val ({ hdr := hdr0, body := .embBag bagBd })) (here 0x7000)) (opTable tabled (atWorkOp (tabled) (0 : Fin 256).val ({ hdr := hdr0, body := .embBag bagBd })))) (([],
    {}))).1)))
/-- Witness of clause 3 of VectorOps. -/
def w_VectorOps_3_o : Op :=
  atWorkOp (tabled) (0 : Fin 256).val ({ hdr := hdr0, body := .embBag bagBd })
/-- Witness of clause 3 of VectorOps. -/
def w_VectorOps_3_ps : List Position :=
  (okVal (positions (atWork (tabled) (0 : Fin 256).val ({ hdr := hdr0, body := .embBag bagBd })) w_VectorOps_3_o (bagsOf (atWork (tabled) (0 : Fin 256).val ({ hdr := hdr0, body := .embBag bagBd })) w_VectorOps_3_o (here 0x7000)) (opTable tabled w_VectorOps_3_o)) (([],
    {}))).1
/-- Witness of clause 3 of VectorOps. -/
def w_VectorOps_3_tl : Tally :=
  (okVal (positions (atWork (tabled) (0 : Fin 256).val ({ hdr := hdr0, body := .embBag bagBd })) w_VectorOps_3_o (bagsOf (atWork (tabled) (0 : Fin 256).val ({ hdr := hdr0, body := .embBag bagBd })) w_VectorOps_3_o (here 0x7000)) (opTable tabled w_VectorOps_3_o)) (([],
    {}))).2
/-- Witness of clause 3 of VectorOps. -/
def w_VectorOps_3_is : List RowItem :=
  rowItems (atWork (tabled) (0 : Fin 256).val ({ hdr := hdr0, body := .embBag bagBd })) w_VectorOps_3_o (opTable tabled w_VectorOps_3_o) bagBd.mask w_VectorOps_3_ps (distinctRows w_VectorOps_3_ps)
/-- Witness of clause 3 of VectorOps. -/
def w_VectorOps_3_rs : List RowRead :=
  okVal (readRows w_VectorOps_3_v ((opById w_VectorOps_3_v tabled.opNext).getD w_VectorOps_3_o) (opTable tabled w_VectorOps_3_o) w_VectorOps_3_ps (distinctRows w_VectorOps_3_ps) (fun _ _ => none)) ([])
theorem hyps_VectorOps :
  (∃ (s : State) (r : Fin 256) (h : Hdr) (b : SpspBody) (d : Desc) (ps : List PairOut),
    d = { hdr := h, body := .spspIntersect b } ∧
    AtRest s r.val ∧
    Accepts s r.val d ∧
    Starts s r.val d ∧
    NoPins s r.val d ∧
    DiesRun s ∧
    h.txn = 0 ∧
    collect (runPair s (asOp s r.val d) b (spspRecs s (asOp s r.val d) b).1 (spspRecs s (asOp s r.val d) b).2) (List.range b.pairs) = .ok ps ∧
    (spspStrict b = true → ∀ p ∈ ps, p.malformed = false ∧ p.range = false) ∧
    AllInPlace s (ps.flatMap (·.writes))) ∧
  (∃ (s : State) (r : Fin 256) (h : Hdr) (b : SpspBody) (d : Desc) (ps : List PairOut),
    d = { hdr := h, body := .spspIntersect b } ∧
    AtRest s r.val ∧
    Accepts s r.val d ∧
    Starts s r.val d ∧
    NoPins s r.val d ∧
    DiesRun s ∧
    h.txn = 0 ∧
    txnOf s 0 = none ∧
    collect (runPair s (asOp s r.val d) b (spspRecs s (asOp s r.val d) b).1 (spspRecs s (asOp s r.val d) b).2) (List.range b.pairs) = .ok ps ∧
    spspStrict b = true ∧
    (∃ p ∈ ps, p.malformed = true)) ∧
  (∃ (s : State) (w : State) (r : Fin 256) (h : Hdr) (b : ElemBody) (d : Desc) (o : Op) (rows : List RowOut) (two : Bool),
    d = { hdr := h, body := if two then .rowred b else .elem b } ∧
    w = atWork s r.val d ∧
    o = atWorkOp s r.val d ∧
    AtRest s r.val ∧
    Accepts s r.val d ∧
    Starts s r.val d ∧
    NoPins s r.val d ∧
    DiesRun s ∧
    h.txn = 0 ∧
    natBits b.flags 7 7 = 0 ∧
    (∀ x ∈ (elemPlan w o b).streams, ∀ y, x = some y → y.scaled = false) ∧
    collect (elemRow w o b (elemPlan w o b) (tapFree w)) (List.range b.rows) = .ok rows ∧
    AllInPlace s (elemStores w o b rows)) ∧
  (∃ (s : State) (w : State) (v : State) (r : Fin 256) (h : Hdr) (b : EmbBagBody) (d : Desc) (o : Op) (p : Op) (ps : List Position) (tl : Tally) (is : List RowItem) (rs : List RowRead),
    d = { hdr := h, body := .embBag b } ∧
    AtRest s r.val ∧
    Accepts s r.val d ∧
    Starts s r.val d ∧
    NoPins s r.val d ∧
    DiesRun s ∧
    h.txn = 0 ∧
    bagHist b = false ∧
    bagStrict b = false ∧
    o = atWorkOp s r.val d ∧
    positions (atWork s r.val d) o (bagsOf (atWork s r.val d) o b.bagRec) (opTable s o) = .ok (ps, tl) ∧
    w = holdReplicas (atWork s r.val d) o (opTable s o) (distinctRows ps) ∧
    is = rowItems (atWork s r.val d) o (opTable s o) b.mask ps (distinctRows ps) ∧
    (∀ x ∈ is, x.chip = none) ∧
    RowsServed w s.opNext (windowed 0 is) ∧
    v = rowsRead w s.opNext (windowed 0 is) ∧
    opById v s.opNext = some p ∧
    readRows v p (opTable s o) ps (distinctRows ps) (fun _ _ => none) = .ok rs ∧
    (∀ x ∈ rs, x.2.2 = 0 ∨ x.2.2 = 2) ∧
    AllInPlace s (bagWrites o b (opTable s o) (bagsOf (atWork s r.val d) o b.bagRec) ps rs)) :=
  ⟨⟨(sparse (leBytes 4 1 ++ leBytes 4 3)), 0, hdr0, (spspBd 0), ({ hdr := hdr0, body := .spspIntersect (spspBd 0) }),
    w_VectorOps_0_ps, rfl, by decide +kernel, acceptsIs (by decide +kernel),
      first4 (by decide +kernel) ⟨okIs (by decide +kernel), by decide +kernel⟩⟩,
    ⟨(sparse (leBytes 4 3 ++ leBytes 4 1)), 0, hdr0, (spspBd 8), ({ hdr := hdr0, body := .spspIntersect (spspBd 8) }),
      w_VectorOps_1_ps, rfl, by decide +kernel, acceptsIs (by decide +kernel), first4 (by decide +kernel) ⟨by decide +kernel,
        okIs (by decide +kernel), by decide +kernel⟩⟩,
    ⟨program, w_VectorOps_2_w, 0, hdr0, elemBd, ({ hdr := hdr0, body := .elem elemBd }), w_VectorOps_2_o, w_VectorOps_2_rows,
      false, rfl, rfl, rfl, by decide +kernel, acceptsIs (by decide +kernel),
        first4 (by decide +kernel) (first2 (by decide +kernel) ⟨okIs (by decide +kernel),
      by decide +kernel⟩)⟩,
    ⟨tabled, w_VectorOps_3_w, w_VectorOps_3_v, 0, hdr0, bagBd, ({ hdr := hdr0, body := .embBag bagBd }), w_VectorOps_3_o,
      ((opById w_VectorOps_3_v tabled.opNext).getD w_VectorOps_3_o), w_VectorOps_3_ps, w_VectorOps_3_tl, w_VectorOps_3_is,
      w_VectorOps_3_rs, rfl, by decide +kernel, acceptsIs (by decide +kernel),
        first4 (by decide +kernel) (first2 (by decide +kernel) ⟨rfl, okIs2 (by decide +kernel), rfl, rfl,
      by decide +kernel, by decide +kernel, rfl, by decide +kernel, okIs (by decide +kernel), by decide +kernel⟩)⟩⟩

/-- Witness of clause 1 of GraphOps. -/
def w_GraphOps_1_w : State :=
  atWork (graphed) (0 : Fin 256).val ({ hdr := hdr0, body := .sample sampleBd })
/-- Witness of clause 1 of GraphOps. -/
def w_GraphOps_1_o : Op :=
  atWorkOp (graphed) (0 : Fin 256).val ({ hdr := hdr0, body := .sample sampleBd })
/-- Witness of clause 2 of GraphOps. -/
def w_GraphOps_2_s : State :=
  poke graphed [(0x10001, [1]), (0x10006, [0xFF, 0xFF, 7]), (0x1000C, [1]), (0x10010, [1, 0x11]), (0x10018, [0x40, 1]),
    (0x10020, [0xC0]), (0x10040, [1]), (0x10084, [1]), (0x10100, [1])]
/-- Witness of clause 2 of GraphOps. -/
def w_GraphOps_2_w : State :=
  atWork w_GraphOps_2_s (0 : Fin 256).val ({ hdr := hdr0, body := .scatter ({ scatterBd with idx := here 0x10000, flags := 4, hop := 1 }) })
/-- Witness of clause 2 of GraphOps. -/
def w_GraphOps_2_d : Desc :=
  { hdr := hdr0, body := .scatter ({ scatterBd with idx := here 0x10000, flags := 4, hop := 1 }) }
/-- Witness of clause 2 of GraphOps. -/
def w_GraphOps_2_is : List RowItem :=
  messageItems w_GraphOps_2_w (atWorkOp w_GraphOps_2_s (0 : Fin 256).val w_GraphOps_2_d) ({ scatterBd with idx := here 0x10000, flags := 4, hop := 1 }) (recCount w_GraphOps_2_w (atWorkOp w_GraphOps_2_s (0 : Fin 256).val w_GraphOps_2_d) (here 0x10000) 1)
/-- Witness of clause 2 of GraphOps. -/
def w_GraphOps_2_ws : List (Nat × List Byte) :=
  (okVal (pathRows w_GraphOps_2_w (atWorkOp w_GraphOps_2_s (0 : Fin 256).val w_GraphOps_2_d) ({ scatterBd with idx := here 0x10000, flags := 4, hop := 1 })) (([],
    {}))).1
/-- Witness of clause 2 of GraphOps. -/
def w_GraphOps_2_tl : Tally :=
  (okVal (pathRows w_GraphOps_2_w (atWorkOp w_GraphOps_2_s (0 : Fin 256).val w_GraphOps_2_d) ({ scatterBd with idx := here 0x10000, flags := 4, hop := 1 })) (([],
    {}))).2
/-- Witness of clause 3 of GraphOps. -/
def w_GraphOps_3_w : State :=
  atWork (graphed) (0 : Fin 256).val ({ hdr := hdr0, body := .scatter scatterBd })
/-- Witness of clause 3 of GraphOps. -/
def w_GraphOps_3_o : Op :=
  atWorkOp (graphed) (0 : Fin 256).val ({ hdr := hdr0, body := .scatter scatterBd })
/-- Witness of clause 3 of GraphOps. -/
def w_GraphOps_3_res : List (Nat × List Byte) × Tally :=
  okVal (foldRows w_GraphOps_3_w w_GraphOps_3_o (scatterBd) ((mtOrder w_GraphOps_3_w ((okVal (listItems w_GraphOps_3_w w_GraphOps_3_o (scatterBd)) ({})).items.map fun x => x.2.1).eraseDups).map fun k => (0x40000 +
    k * scatterRow (scatterBd),
    ((okVal (listItems w_GraphOps_3_w w_GraphOps_3_o (scatterBd)) ({})).items.filter fun x => x.2.1 == k).map fun x => (x.2.2.1,
    x.2.2.2)))) (([], {}))
/-- Witness of clause 4 of GraphOps. -/
def w_GraphOps_4_s : State :=
  poke (put graphed [(0x1000080, 2), (0x1010010, 1), (0x1010014, 0x600), (0x1010018, 0xFFFFF000), (0x101001C, 0xB), (0x820018,
    0x80000001), (0x820014, 0x80000000)]) [(0x1008, [1])]
/-- Witness of clause 4 of GraphOps. -/
def w_GraphOps_4_w : State :=
  atWork w_GraphOps_4_s (0 : Fin 256).val ({ hdr := hdr0, body := .scatter scatterBd })
/-- Witness of clause 4 of GraphOps. -/
def w_GraphOps_4_o : Op :=
  atWorkOp w_GraphOps_4_s (0 : Fin 256).val ({ hdr := hdr0, body := .scatter scatterBd })
/-- Witness of clause 5 of GraphOps. -/
def w_GraphOps_5_s : State :=
  put graphed [(0x1000080, 2), (0x1010010, 1), (0x1010014, 0x600), (0x820018, 0x80000001), (0x820014, 0x80000000)]
/-- Witness of clause 5 of GraphOps. -/
def w_GraphOps_5_w : State :=
  atWork w_GraphOps_5_s (0 : Fin 256).val ({ hdr := hdr0, body := .scatter scatterBd })
/-- Witness of clause 5 of GraphOps. -/
def w_GraphOps_5_o : Op :=
  atWorkOp w_GraphOps_5_s (0 : Fin 256).val ({ hdr := hdr0, body := .scatter scatterBd })
theorem hyps_GraphOps :
  (∃ (s : State) (r : Fin 256) (h : Hdr) (b : GatherBody) (d : Desc),
    d = { hdr := h, body := .gather b } ∧
    AtRest s r.val ∧
    Accepts s r.val d ∧
    Starts s r.val d ∧
    NoPins s r.val d ∧
    DiesRun s ∧
    h.txn = 0 ∧
    gatherKind b = 0 ∧
    regionOf (addrOff b.src) ≠ .hostWindow ∧
    InPlace s [(b.dst, b.count * b.rowBytes)] ∧
    (∀ i, i < b.count → gatherNode s b i = nodeNone ∨ (gatherNode s b i < nodeNone ∧
      reachOf s (ownerOf s (bankNow s) (gatherNode s b i)).1 = .near ∧
      rangeOk s (gatherRow s b (gatherNode s b i)) b.rowBytes = true ∧
      meetsView s (gatherRow s b (gatherNode s b i)) b.rowBytes = false ∧
      regionOf (gatherRow s b (gatherNode s b i)) ≠ .hostWindow)) ∧
    RowsServed (atWork s r.val d) s.opNext (windowed b.windowReq (gatherItems (atWork s r.val d) (atWorkOp s r.val d) b))) ∧
  (∃ (s : State) (w : State) (r : Fin 256) (h : Hdr) (b : SampleBody) (d : Desc) (o : Op) (seeds : List FrontEntry) (hops : List (List Expanded)),
    d = { hdr := h, body := .sample b } ∧
    w = atWork s r.val d ∧
    o = atWorkOp s r.val d ∧
    AtRest s r.val ∧
    Accepts s r.val d ∧
    Starts s r.val d ∧
    NoPins s r.val d ∧
    DiesRun s ∧
    h.txn = 0 ∧
    sampleStrict b = false ∧
    sampleHops w o b = .ok (seeds, hops) ∧
    walkersWait w o b hops = false ∧
    (payAll w (sampleBursts w o b hops)).2 = [] ∧
    InPlace s [(b.pr, 64 * b.prCap)]) ∧
  (∃ (s : State) (w : State) (r : Fin 256) (h : Hdr) (b : ScatterBody) (d : Desc) (o : Op) (is : List RowItem) (ws : List (Nat × List Byte)) (tl : Tally),
    d = { hdr := h, body := .scatter b } ∧
    w = atWork s r.val d ∧
    o = atWorkOp s r.val d ∧
    AtRest s r.val ∧
    Accepts s r.val d ∧
    Starts s r.val d ∧
    NoPins s r.val d ∧
    DiesRun s ∧
    h.txn = 0 ∧
    scatterPath b = true ∧
    is = messageItems w o b (recCount w o b.idx b.hop) ∧
    RowsServed w s.opNext (windowed 0 is) ∧
    pathRows w o b = .ok (ws, tl) ∧
    AllInPlace s ws) ∧
  (∃ (s : State) (w : State) (r : Fin 256) (h : Hdr) (b : ScatterBody) (d : Desc) (o : Op) (it : ListItems) (res : List (Nat × List Byte) × Tally),
    d = { hdr := h, body := .scatter b } ∧
    w = atWork s r.val d ∧
    o = atWorkOp s r.val d ∧
    AtRest s r.val ∧
    Accepts s r.val d ∧
    Starts s r.val d ∧
    NoPins s r.val d ∧
    DiesRun s ∧
    h.txn = 0 ∧
    scatterPath b = false ∧
    ownersRemote s (bankNow s) = false ∧
    RowsServed w s.opNext (windowed 0 (messageItems w o b b.count)) ∧
    listItems w o b = .ok it ∧
    (∀ x ∈ it.items, x.1 = ownChip s) ∧
    foldRows w o b ((mtOrder w (it.items.map fun x => x.2.1).eraseDups).map fun k => (addrOff b.dst + k * scatterRow b,
      (it.items.filter fun x => x.2.1 == k).map fun x => (x.2.2.1, x.2.2.2))) = .ok res ∧
    (∀ y ∈ res.1, meetsView s y.1 y.2.length = false ∧ y.1 < 2 ^ 48) ∧
    AllInPlace s res.1) ∧
  (∃ (s : State) (w : State) (r : Fin 256) (h : Hdr) (b : ScatterBody) (d : Desc) (o : Op) (it : ListItems),
    d = { hdr := h, body := .scatter b } ∧
    w = atWork s r.val d ∧
    o = atWorkOp s r.val d ∧
    AtRest s r.val ∧
    Accepts s r.val d ∧
    Starts s r.val d ∧
    NoPins s r.val d ∧
    DiesRun s ∧
    scatterPath b = false ∧
    RowsServed w s.opNext (windowed 0 (messageItems w o b b.count)) ∧
    listItems w o b = .ok it ∧
    (∃ x ∈ it.items, x.1 ≠ ownChip s ∧ meetsMirror (addrOff b.dst + x.2.1 * scatterRow b) (scatterRow b) = true)) ∧
  (∃ (s : State) (w : State) (r : Fin 256) (h : Hdr) (b : ScatterBody) (d : Desc) (o : Op) (it : ListItems) (c : Nat),
    d = { hdr := h, body := .scatter b } ∧
    w = atWork s r.val d ∧
    o = atWorkOp s r.val d ∧
    AtRest s r.val ∧
    Accepts s r.val d ∧
    Starts s r.val d ∧
    NoPins s r.val d ∧
    DiesRun s ∧
    scatterPath b = false ∧
    ownersRemote s (bankNow s) = true ∧
    RowsServed w s.opNext (windowed 0 (messageItems w o b b.count)) ∧
    listItems w o b = .ok it ∧
    (∀ x ∈ it.items, x.1 = ownChip s ∨ (destStatus s x.1 = none ∧ meetsMirror (addrOff b.dst +
      x.2.1 * scatterRow b) (scatterRow b) = false)) ∧
    c ∈ jobChips s ∧
    c ≠ ownChip s ∧
    ownChip s < 0x4000 ∧
    s.fab.flows.length + (jobChips s).length ≤ 12288) :=
  ⟨⟨graphed, 0, hdr0, gatherBd, ({ hdr := hdr0, body := .gather gatherBd }), rfl, by decide +kernel,
    acceptsIs (by decide +kernel), by decide +kernel⟩,
    ⟨graphed, w_GraphOps_1_w, 0, hdr0, sampleBd, ({ hdr := hdr0, body := .sample sampleBd }), w_GraphOps_1_o,
      ((okVal (sampleHops w_GraphOps_1_w w_GraphOps_1_o sampleBd) (([], []))).1),
      ((okVal (sampleHops w_GraphOps_1_w w_GraphOps_1_o sampleBd) (([], []))).2), rfl, rfl, rfl, by decide +kernel,
      acceptsIs (by decide +kernel), first4 (by decide +kernel) ⟨by decide +kernel, okIs2 (by decide +kernel),
        by decide +kernel⟩⟩,
    ⟨w_GraphOps_2_s, w_GraphOps_2_w, 0, hdr0, ({ scatterBd with idx := here 0x10000, flags := 4, hop := 1 }), w_GraphOps_2_d,
      (atWorkOp w_GraphOps_2_s (0 : Fin 256).val w_GraphOps_2_d), w_GraphOps_2_is, w_GraphOps_2_ws, w_GraphOps_2_tl, rfl, rfl,
      rfl, by decide +kernel, acceptsIs (by decide +kernel), first4 (by decide +kernel) ⟨by decide +kernel, rfl,
        by decide +kernel, okIs2 (by decide +kernel), by decide +kernel⟩⟩,
    ⟨graphed, w_GraphOps_3_w, 0, hdr0, scatterBd, ({ hdr := hdr0, body := .scatter scatterBd }), w_GraphOps_3_o,
      (okVal (listItems w_GraphOps_3_w w_GraphOps_3_o (scatterBd)) ({})), w_GraphOps_3_res, rfl, rfl, rfl, by decide +kernel,
      acceptsIs (by decide +kernel), first4 (by decide +kernel) (first2 (by decide +kernel) ⟨by decide +kernel,
        okIs (by decide +kernel), by decide +kernel,
      okEq (by decide +kernel), by decide +kernel⟩)⟩,
    ⟨w_GraphOps_4_s, w_GraphOps_4_w, 0, hdr0, scatterBd, ({ hdr := hdr0, body := .scatter scatterBd }), w_GraphOps_4_o,
      (okVal (listItems w_GraphOps_4_w w_GraphOps_4_o (scatterBd)) ({})), rfl, rfl, rfl, by decide +kernel,
      acceptsIs (by decide +kernel), first4 (by decide +kernel) ⟨by decide +kernel, okIs (by decide +kernel),
        by decide +kernel⟩⟩,
    ⟨w_GraphOps_5_s, w_GraphOps_5_w, 0, hdr0, scatterBd, ({ hdr := hdr0, body := .scatter scatterBd }), w_GraphOps_5_o,
      (okVal (listItems w_GraphOps_5_w w_GraphOps_5_o (scatterBd)) ({})), 6, rfl, rfl, rfl, by decide +kernel,
      acceptsIs (by decide +kernel), first4 (by decide +kernel) (first2 (by decide +kernel) ⟨okIs (by decide +kernel),
        by decide +kernel, jobChips_has (by decide +kernel),
      by decide +kernel, by decide +kernel, le_trans (Nat.add_le_add_left (jobChips_few _) _) (by decide +kernel)⟩)⟩⟩

/-- Witness of clause 0 of TrainingOps. -/
def w_TrainingOps_0_b : ReduceGradBody :=
  { group := here gen, src := here 0x100, step := 1, srcElems := 3, srcOffset := 1021, limit := 0, flags := 0 }
/-- Witness of clause 1 of TrainingOps. -/
def w_TrainingOps_1_w : State :=
  atWork (tabled) (0 : Fin 256).val ({ hdr := hdr0, body := .embGrad embBd })
/-- Witness of clause 1 of TrainingOps. -/
def w_TrainingOps_1_o : Op :=
  atWorkOp (tabled) (0 : Fin 256).val ({ hdr := hdr0, body := .embGrad embBd })
/-- Witness of clause 1 of TrainingOps. -/
def w_TrainingOps_1_ps : List Position :=
  (okVal (positions w_TrainingOps_1_w w_TrainingOps_1_o (bagsOf w_TrainingOps_1_w w_TrainingOps_1_o (here 0x7000)) (opTable tabled w_TrainingOps_1_o)) (([],
    {}))).1
/-- Witness of clause 1 of TrainingOps. -/
def w_TrainingOps_1_tl : Tally :=
  (okVal (positions w_TrainingOps_1_w w_TrainingOps_1_o (bagsOf w_TrainingOps_1_w w_TrainingOps_1_o (here 0x7000)) (opTable tabled w_TrainingOps_1_o)) (([],
    {}))).2
/-- Witness of clause 1 of TrainingOps. -/
def w_TrainingOps_1_g : GradRows :=
  okVal (gradRows w_TrainingOps_1_w w_TrainingOps_1_o embBd (opTable tabled w_TrainingOps_1_o) w_TrainingOps_1_ps []) ({})
/-- Witness of clause 1 of TrainingOps. -/
def w_TrainingOps_1_res : List (Nat × List Byte) × Tally :=
  okVal (gradFolds w_TrainingOps_1_w w_TrainingOps_1_o embBd (opTable tabled w_TrainingOps_1_o) (w_TrainingOps_1_g.rows.map fun x => (5,
    gradOffset (opTable tabled w_TrainingOps_1_o) embBd x.1, mtBytes 0 x.2))) (([], {}))
/-- Witness of clause 2 of TrainingOps. -/
def w_TrainingOps_2_b : PublishBody :=
  { recv := here 0x30000, step := 1, sliceFirst := 0, sliceCount := 1, limit := 0 }
/-- Witness of clause 3 of TrainingOps. -/
def w_TrainingOps_3_s : State :=
  poke (put sliced [(0x1000180, 0x40200000), (0x1000184, 0x100)]) [(gen + 0x3000, leBytes 4 7 ++ [0xF, 0x10, 1, 0] ++
    leBytes 4 1024 ++ leBytes 2 1 ++ leBytes 2 0 ++ leBytes 8 (here (gen + 0x4000)) ++ leBytes 8 (here (gen + 0x4100)) ++
    leBytes 8 (here (gen + 0x5000)) ++ leBytes 8 0x2000), (gen + 0x4000, [5]), (gen + 0x4104, [1])]
/-- Witness of clause 3 of TrainingOps. -/
def w_TrainingOps_3_b : UpdateBody :=
  { master := here 0x40000, m := here 0x50000, v := here 0x60000, hp := here 0x70000, red := here (gen + 0x3000), elems := 1024, sliceFirst := 0, sliceCount := 1, step := 1, momFmt := 0x33, flags := 0, layer := 0 }
/-- Witness of clause 4 of TrainingOps. -/
def w_TrainingOps_4_b : StepCommitBody :=
  { step := 1, voter := here 0x30000, gateLimit := 0, commitLimit := 0 }
theorem hyps_TrainingOps :
  (∃ (s : State) (r : Fin 256) (h : Hdr) (b : ReduceGradBody) (d : Desc) (off : Nat),
    d = { hdr := h, body := .reduceGrad b } ∧
    off = addrOff b.group ∧
    AtRest s r.val ∧
    Accepts s r.val d ∧
    Starts s r.val d ∧
    NoPins s r.val d ∧
    DiesRun s ∧
    txnOf s h.txn = none ∧
    s.dome.journals = [] ∧
    groupStep s off b.step = none ∧
    groupActive s off b.step = true ∧
    groupRoom s off b.step = true ∧
    (histMax s (groupRec s off).hist = none ∨ cautiousNow s = true) ∧
    OffRetained s off 64 ∧
    OffRetained s (histAddr s (groupRec s off).hist) 32 ∧
    (b.srcElems ≠ 0 → regionOf (addrOff b.src) ≠ .hostWindow ∧ OffRetained s (addrOff b.src) (4 * b.srcElems)) ∧
    (b.srcElems ≠ 0 ∨ reduceFinal b = true) ∧
    retainUsed s + 12288 * gradTiles b ≤ 4096 * regBits s 0x1000184 19 0) ∧
  (∃ (s : State) (w : State) (r : Fin 256) (h : Hdr) (b : EmbGradBody) (d : Desc) (o : Op) (ps : List Position) (tl : Tally) (g : GradRows) (res : List (Nat × List Byte) × Tally),
    d = { hdr := h, body := .embGrad b } ∧
    w = atWork s r.val d ∧
    o = atWorkOp s r.val d ∧
    AtRest s r.val ∧
    Accepts s r.val d ∧
    Starts s r.val d ∧
    NoPins s r.val d ∧
    DiesRun s ∧
    h.txn = 0 ∧
    (opTable s o).hot = false ∧
    (opTable s o).prod = false ∧
    tableLocal s (opTable s o) = true ∧
    positions w o (bagsOf w o b.bagRec) (opTable s o) = .ok (ps, tl) ∧
    gradRows w o b (opTable s o) ps [] = .ok g ∧
    g.marks.failed = false ∧
    g.marks.refused = [] ∧
    gradStrict b = false ∧
    (exchangeOf s b.exch).batches = [] ∧
    gradFolds w o b (opTable s o) (g.rows.map fun x => (ownChip s, gradOffset (opTable s o) b x.1, mtBytes 0 x.2)) = .ok res ∧
    (∀ y ∈ res.1, meetsView s y.1 y.2.length = false ∧ y.1 < 2 ^ 48) ∧
    AllInPlace s res.1) ∧
  (∃ (s : State) (r : Fin 256) (h : Hdr) (b : PublishBody) (d : Desc) (n : Nat),
    d = { hdr := h, body := .paramPublish b } ∧
    AtRest s r.val ∧
    Accepts s r.val d ∧
    Starts s r.val d ∧
    NoPins s r.val d ∧
    DiesRun s ∧
    gateOf (atWork s r.val d) b.step ≠ some false ∧
    (∀ i, i < b.sliceCount → opOwes (shadowsPaid (atWork s r.val d) s.opNext b (i + 1)) s.opNext = false) ∧
    (∀ i, i < b.sliceCount → shadowBytes s h.txn (b.sliceFirst + i) b.step ≠ none) ∧
    n = ((List.range b.sliceCount).map fun i => (pieces (sliceBytes s (b.sliceFirst + i))).length).sum ∧
    (∀ c ∈ receivers s r.val d b, destStatus s c = none ∧ RoomTo s c 2 n) ∧
    (∀ g, g < 2 → storeUsed s g + 4128 * ((receivers s r.val d b).length * n) ≤ 2 ^ 24) ∧
    s.fab.flows.length + (receivers s r.val d b).length ≤ 12288) ∧
  (∃ (s : State) (r : Fin 256) (h : Hdr) (b : UpdateBody) (d : Desc),
    d = { hdr := h, body := .update b } ∧
    AtRest s r.val ∧
    Accepts s r.val d ∧
    NoPins s r.val d ∧
    DiesRun s) ∧
  (∃ (s : State) (r : Fin 256) (h : Hdr) (b : StepCommitBody) (d : Desc),
    d = { hdr := h, body := .stepCommit b } ∧
    AtRest s r.val ∧
    Accepts s r.val d ∧
    NoPins s r.val d) :=
  ⟨⟨grouped, 0, hdr0, w_TrainingOps_0_b, ({ hdr := hdr0, body := .reduceGrad w_TrainingOps_0_b }), gen, rfl, rfl,
    by decide +kernel, acceptsIs (by decide +kernel), by decide +kernel⟩,
    ⟨tabled, w_TrainingOps_1_w, 0, hdr0, embBd, ({ hdr := hdr0, body := .embGrad embBd }), w_TrainingOps_1_o,
      w_TrainingOps_1_ps, w_TrainingOps_1_tl, w_TrainingOps_1_g, w_TrainingOps_1_res, rfl, rfl, rfl, by decide +kernel,
      acceptsIs (by decide +kernel), first4 (by decide +kernel) (first2 (by decide +kernel) ⟨by decide +kernel,
        okIs2 (by decide +kernel), okIs (by decide +kernel),
      first4 (by decide +kernel) ⟨okEq (by decide +kernel),
      by decide +kernel⟩⟩)⟩,
    ⟨sliced, 0, hdr0, w_TrainingOps_2_b, ({ hdr := hdr0, body := .paramPublish w_TrainingOps_2_b }),
      (((List.range 1).map fun i => (pieces (sliceBytes sliced (0 + i))).length).sum), rfl, by decide +kernel,
      acceptsIs (by decide +kernel), by decide +kernel⟩,
    ⟨w_TrainingOps_3_s, 0, hdr0, w_TrainingOps_3_b, ({ hdr := hdr0, body := .update w_TrainingOps_3_b }), rfl,
      by decide +kernel, acceptsIs (by decide +kernel), by decide +kernel⟩,
    ⟨(poke rest [(0x30000, [0x20])]), 0, hdr0, w_TrainingOps_4_b, ({ hdr := hdr0, body := .stepCommit w_TrainingOps_4_b }),
      rfl, by decide +kernel, acceptsIs (by decide +kernel), by decide +kernel⟩⟩

/-- Witness of clause 0 of CheckpointOps. -/
def w_CheckpointOps_0_s : State :=
  poke rest [(0x100, leBytes 8 0x200 ++ leBytes 4 64), (0x200, [1, 2, 3])]
/-- Witness of clause 0 of CheckpointOps. -/
def w_CheckpointOps_0_b0 : State :=
  atWork w_CheckpointOps_0_s 0 { hdr := hdr0, body := .ckptPush ({ rangeAddr := here 0x100, region := here 0x10000, localRegion := nowhere, regionBytes := 512, ranges := 1, flags := 0, limit := 0, mask := 1 }) }
/-- Witness of clause 0 of CheckpointOps. -/
def w_CheckpointOps_0_b : CkptPushBody :=
  { rangeAddr := here 0x100, region := here 0x10000, localRegion := nowhere, regionBytes := 512, ranges := 1, flags := 0, limit := 0, mask := 1 }
/-- Witness of clause 0 of CheckpointOps. -/
def w_CheckpointOps_0_o : Op :=
  atWorkOp w_CheckpointOps_0_s 0 { hdr := hdr0, body := .ckptPush w_CheckpointOps_0_b }
/-- Witness of clause 0 of CheckpointOps. -/
def w_CheckpointOps_0_data : List (List Byte) :=
  okVal (collect (fun x => opRead w_CheckpointOps_0_b0 w_CheckpointOps_0_o x.1 x.2) (pushRanges w_CheckpointOps_0_b0 w_CheckpointOps_0_o w_CheckpointOps_0_b)) ([])
/-- Witness of clause 0 of CheckpointOps. -/
def w_CheckpointOps_0_ws : List (Nat × List Byte) :=
  imageWrites w_CheckpointOps_0_s (here 0x10000) 0 1 (rangeTable [(0x200, 64)] ++ w_CheckpointOps_0_data.flatten)
/-- Witness of clause 1 of CheckpointOps. -/
def w_CheckpointOps_1_s : State :=
  poke far [(0x100, leBytes 8 0x200 ++ leBytes 4 64), (0x200, [1, 2, 3])]
/-- Witness of clause 1 of CheckpointOps. -/
def w_CheckpointOps_1_b0 : State :=
  atWork w_CheckpointOps_1_s 0 { hdr := hdr0, body := .ckptPush ({ rangeAddr := here 0x100, region := 0x6000000010000, localRegion := nowhere, regionBytes := 512, ranges := 1, flags := 0, limit := 0, mask := 1 }) }
/-- Witness of clause 1 of CheckpointOps. -/
def w_CheckpointOps_1_b : CkptPushBody :=
  { rangeAddr := here 0x100, region := 0x6000000010000, localRegion := nowhere, regionBytes := 512, ranges := 1, flags := 0, limit := 0, mask := 1 }
/-- Witness of clause 1 of CheckpointOps. -/
def w_CheckpointOps_1_o : Op :=
  atWorkOp w_CheckpointOps_1_s 0 { hdr := hdr0, body := .ckptPush w_CheckpointOps_1_b }
/-- Witness of clause 1 of CheckpointOps. -/
def w_CheckpointOps_1_data : List (List Byte) :=
  okVal (collect (fun x => opRead w_CheckpointOps_1_b0 w_CheckpointOps_1_o x.1 x.2) (pushRanges w_CheckpointOps_1_b0 w_CheckpointOps_1_o w_CheckpointOps_1_b)) ([])
/-- Witness of clause 2 of CheckpointOps. -/
def w_CheckpointOps_2_s : State :=
  { rest with mem := writesOn rest.mem (imageWrites rest 0x10000 9 1 (leBytes 8 0x200 ++ leBytes 8 64 ++ leBytes 48 0 ++ [1, 2, 3] ++ leBytes 61 0)) }
/-- Witness of clause 2 of CheckpointOps. -/
def w_CheckpointOps_2_b0 : State :=
  atWork w_CheckpointOps_2_s 0 { hdr := hdr0, body := .ckptPull ({ region := here 0x10000, step := 9, count := 0, flags := 0, regionBytes := 512, limit := 0, mask := 1 }) }
/-- Witness of clause 2 of CheckpointOps. -/
def w_CheckpointOps_2_b : CkptPullBody :=
  { region := here 0x10000, step := 9, count := 0, flags := 0, regionBytes := 512, limit := 0, mask := 1 }
/-- Witness of clause 2 of CheckpointOps. -/
def w_CheckpointOps_2_ws : List (Nat × List Byte) :=
  (planWrites (pullPlan w_CheckpointOps_2_b0 (atWorkOp w_CheckpointOps_2_s 0 { hdr := hdr0, body := .ckptPull w_CheckpointOps_2_b }) w_CheckpointOps_2_b)).1
/-- Witness of clause 2 of CheckpointOps. -/
def w_CheckpointOps_2_img : Option (Nat × Bool) :=
  (planWrites (pullPlan w_CheckpointOps_2_b0 (atWorkOp w_CheckpointOps_2_s 0 { hdr := hdr0, body := .ckptPull w_CheckpointOps_2_b }) w_CheckpointOps_2_b)).2
/-- Witness of clause 3 of CheckpointOps. -/
def w_CheckpointOps_3_s : State :=
  poke ({ rest with mem := writesOn rest.mem (imageWrites rest 0x10000 9 1 (leBytes 8 0x200 ++ leBytes 8 64 ++ leBytes 48 0 ++ [1, 2, 3] ++ leBytes 61 0)) }) [(0x10080,
    [9])]
/-- Witness of clause 3 of CheckpointOps. -/
def w_CheckpointOps_3_b0 : State :=
  atWork w_CheckpointOps_3_s 0 { hdr := hdr0, body := .ckptPull ({ region := here 0x10000, step := 9, count := 0, flags := 0, regionBytes := 512, limit := 0, mask := 1 }) }
/-- Witness of clause 3 of CheckpointOps. -/
def w_CheckpointOps_3_b : CkptPullBody :=
  { region := here 0x10000, step := 9, count := 0, flags := 0, regionBytes := 512, limit := 0, mask := 1 }
/-- Witness of clause 3 of CheckpointOps. -/
def w_CheckpointOps_3_ws : List (Nat × List Byte) :=
  (planWrites (pullPlan w_CheckpointOps_3_b0 (atWorkOp w_CheckpointOps_3_s 0 { hdr := hdr0, body := .ckptPull w_CheckpointOps_3_b }) w_CheckpointOps_3_b)).1
theorem hyps_CheckpointOps :
  (∃ (s : State) (b0 : State) (r : Fin 256) (h : Hdr) (b : CkptPushBody) (d : Desc) (o : Op) (data : List (List Byte)) (k : Nat) (ws : List (Nat × List Byte)),
    d = { hdr := h, body := .ckptPush b } ∧
    b0 = atWork s r.val d ∧
    o = atWorkOp s r.val d ∧
    AtRest s r.val ∧
    Accepts s r.val d ∧
    Starts s r.val d ∧
    s.dome.epochs = [] ∧
    DiesRun s ∧
    h.txn = 0 ∧
    isLocal s b.region = true ∧
    pushLocal b = false ∧
    collect (fun x => opRead b0 o x.1 x.2) (pushRanges b0 o b) = .ok data ∧
    localSlot b0 o b.region (b.regionBytes / 2) = .ok k ∧
    ws = imageWrites s (b.region + k * (b.regionBytes / 2)) s.dome.lastCommitted b.ranges (rangeTable (pushRanges b0 o b) ++
      data.flatten) ∧
    AllInPlace b0 ws) ∧
  (∃ (s : State) (b0 : State) (r : Fin 256) (h : Hdr) (b : CkptPushBody) (d : Desc) (o : Op) (data : List (List Byte)) (k : Nat) (ws : List (Nat × List Byte)),
    d = { hdr := h, body := .ckptPush b } ∧
    b0 = atWork s r.val d ∧
    o = atWorkOp s r.val d ∧
    AtRest s r.val ∧
    Accepts s r.val d ∧
    Starts s r.val d ∧
    s.dome.epochs = [] ∧
    DiesRun s ∧
    h.txn = 0 ∧
    isLocal s b.region = false ∧
    destStatus s (addrChip b.region) = none ∧
    RoomTo s (addrChip b.region) 2 1 ∧
    collect (fun x => opRead b0 o x.1 x.2) (pushRanges b0 o b) = .ok data ∧
    (pushLocal b = true → localSlot b0 o b.localRegion (b.regionBytes / 2) = .ok k) ∧
    ws = (if pushLocal b then imageWrites s (b.localRegion +
      k * (b.regionBytes / 2)) s.dome.lastCommitted b.ranges (rangeTable (pushRanges b0 o b) ++ data.flatten) else []) ∧
    InPlace b0 [] ∧
    AllInPlace b0 ws) ∧
  (∃ (s : State) (b0 : State) (r : Fin 256) (h : Hdr) (b : CkptPullBody) (d : Desc) (ws : List (Nat × List Byte)) (img : Option (Nat × Bool)),
    d = { hdr := h, body := .ckptPull b } ∧
    b0 = atWork s r.val d ∧
    AtRest s r.val ∧
    Accepts s r.val d ∧
    Starts s r.val d ∧
    NoPins s r.val d ∧
    DiesRun s ∧
    h.txn = 0 ∧
    pullPlan b0 (atWorkOp s r.val d) b = .go ws img ∧
    (∀ x, img = some x → x.2 = true) ∧
    PullServed b0 (atWorkOp s r.val d) b ws ∧
    InPlace s [] ∧
    AllInPlace s ws) ∧
  (∃ (s : State) (b0 : State) (r : Fin 256) (h : Hdr) (b : CkptPullBody) (d : Desc) (ws : List (Nat × List Byte)) (n : Nat),
    d = { hdr := h, body := .ckptPull b } ∧
    b0 = atWork s r.val d ∧
    AtRest s r.val ∧
    Accepts s r.val d ∧
    Starts s r.val d ∧
    NoPins s r.val d ∧
    DiesRun s ∧
    h.txn = 0 ∧
    pullPlan b0 (atWorkOp s r.val d) b = .go ws (some (n, false)) ∧
    PullServed b0 (atWorkOp s r.val d) b ws ∧
    InPlace s [] ∧
    AllInPlace s ws) ∧
  (∃ (s : State) (r : Fin 256) (h : Hdr) (b : AssumeIdBody) (d : Desc),
    d = { hdr := h, body := .assumeId b } ∧
    AtRest s r.val ∧
    Accepts s r.val d ∧
    s.dome.epochs = [] ∧
    DiesRun s) :=
  ⟨⟨w_CheckpointOps_0_s, w_CheckpointOps_0_b0, 0, hdr0, w_CheckpointOps_0_b,
    ({ hdr := hdr0, body := .ckptPush w_CheckpointOps_0_b }), w_CheckpointOps_0_o, w_CheckpointOps_0_data, 0,
    w_CheckpointOps_0_ws, rfl, rfl, rfl, by decide +kernel, acceptsIs (by decide +kernel),
      first4 (by decide +kernel) (first2 (by decide +kernel) ⟨okIs (by decide +kernel),
    okEq (by decide +kernel), rfl, by decide +kernel⟩)⟩,
    ⟨w_CheckpointOps_1_s, w_CheckpointOps_1_b0, 0, hdr0, w_CheckpointOps_1_b,
      ({ hdr := hdr0, body := .ckptPush w_CheckpointOps_1_b }), w_CheckpointOps_1_o, w_CheckpointOps_1_data, 0, ([]), rfl,
      rfl, rfl, by decide +kernel, acceptsIs (by decide +kernel),
        first4 (by decide +kernel) (first2 (by decide +kernel) ⟨by decide +kernel, okIs (by decide +kernel),
      fun h => absurd h (by decide +kernel), rfl, by decide +kernel⟩)⟩,
    ⟨w_CheckpointOps_2_s, w_CheckpointOps_2_b0, 0, hdr0, w_CheckpointOps_2_b,
      ({ hdr := hdr0, body := .ckptPull w_CheckpointOps_2_b }), w_CheckpointOps_2_ws, w_CheckpointOps_2_img, rfl, rfl,
      by decide +kernel, acceptsIs (by decide +kernel), first4 (by decide +kernel) ⟨planIs (by decide +kernel),
        by decide +kernel⟩⟩,
    ⟨w_CheckpointOps_3_s, w_CheckpointOps_3_b0, 0, hdr0, w_CheckpointOps_3_b,
      ({ hdr := hdr0, body := .ckptPull w_CheckpointOps_3_b }), w_CheckpointOps_3_ws, 9, rfl, rfl, by decide +kernel,
      acceptsIs (by decide +kernel), first4 (by decide +kernel) ⟨planIs2 (by decide +kernel), by decide +kernel⟩⟩,
    ⟨(put up [(0x101008, 0x80304000)]), 0, hdr0, ({ chip := 7, job := 2 }),
      ({ hdr := hdr0, body := .assumeId ({ chip := 7, job := 2 }) }), rfl, by decide +kernel, acceptsIs (by decide +kernel),
      by decide +kernel⟩⟩

/-- Witness of clause 2 of Power. -/
def w_Power_2_s : State :=
  { { { put up [(0x300044, 0x80000000)] with chime := { (put up [(0x300044, 0x80000000)]).chime with cfg := [(0x300044, 0x80000000)] } } with chime := { ({ put up [(0x300044, 0x80000000)] with chime := { (put up [(0x300044, 0x80000000)]).chime with cfg := [(0x300044, 0x80000000)] } }).chime with vf := [(0, some { volt := 700, load := 3, temp := 300, taken := 1, accepted := false })] } } with time := { keep := 20000, runs := true } }
/-- Witness of clause 3 of Power. -/
def w_Power_3_s : State :=
  { put up [(0x300044, 0x80000000)] with chime := { (put up [(0x300044, 0x80000000)]).chime with cfg := [(0x300044, 0x80000000)] } }
theorem hyps_Power :
  (∃ (s : State),
    Sound s = true ∧
    NoWork s ∧
    PeriodDue s ∧
    s.chime.factors.length = 9 ∧
    s.fab.heldPkts = [] ∧
    s.fab.serving = [] ∧
    s.fab.loop = [] ∧
    s.fin.cmpDue = [] ∧
    (∀ l, l < 96 → retryPackets (link s l) = [])) ∧
  (∃ (s : State),
    (s.time.runs = false ∨ s.flt.sealed = true ∨ mtime s < 1280 * (s.chime.began + 1))) ∧
  (∃ (s : State),
    chmBits s 0x300044 31 31 = 1 ∧
    domeIdle s = true ∧
    elapsed s s.chime.domeBusyAt (gapUs s) = true ∧
    vfValid s ≠ [] ∧
    vfNearest s = none ∧
    s.chime.recal = false) ∧
  (∃ (s : State),
    (chmBits s 0x300044 31 31 = 0 ∨ domeIdle s = false ∨ elapsed s s.chime.domeBusyAt (gapUs s) = false ∨ vfValid s = [] ∨ vfNearest s ≠ none ∨ s.chime.recal = true)) ∧
  (∃ (s : State),
    Sound s = true ∧
    s.chime.recal = true) ∧
  (∃ (s : State),
    s.chime.recal = false) ∧
  (∃ (s : State),
    Sound s = true) ∧
  (∃ (s : State) (p : Fin 272),
    Sound s = true ∧
    chmBits s 0x300004 31 31 = 0 ∧
    slotIdle s p.val = true ∧
    elapsed s (slotBusyAt s p.val) (turretIdleUs s) = true) ∧
  (∃ (s : State) (p : Fin 272),
    (chmBits s 0x300004 31 31 = 1 ∨ slotIdle s p.val = false ∨ elapsed s (slotBusyAt s p.val) (turretIdleUs s) = false)) ∧
  (∃ (s : State) (b : Fin 16),
    Sound s = true ∧
    chmBits s 0x300004 31 31 = 0 ∧
    belfryQuiet s b.val = true ∧
    (belfry s b.val).powered = 0 ∧
    elapsed s (belfry s b.val).busyAt (pllIdleUs s) = true) ∧
  (∃ (s : State) (b : Fin 16),
    (chmBits s 0x300004 31 31 = 1 ∨ belfryQuiet s b.val = false ∨ (belfry s b.val).powered ≠ 0 ∨ elapsed s (belfry s b.val).busyAt (pllIdleUs s) = false)) ∧
  (∃ (s : State) (b : Fin 16),
    Sound s = true ∧
    (belfry s b.val).fenced = false ∧
    s.dome.stopped = false ∧
    spireMode s = false ∧
    belfryQuiet s b.val = false) ∧
  (∃ (s : State) (b : Fin 16),
    ((belfry s b.val).fenced = true ∨ s.dome.stopped = true ∨ spireMode s = true ∨ belfryQuiet s b.val = true)) :=
  ⟨⟨job, by decide +kernel⟩,
    ⟨({ up with time := { up.time with runs := false } }), by decide +kernel⟩,
    ⟨w_Power_2_s, by decide +kernel⟩,
    ⟨w_Power_3_s, by decide +kernel⟩,
    ⟨({ up with chime := { (up).chime with recal := true, lastBusyLoad := 5 } }), by decide +kernel⟩,
    ⟨up, by decide +kernel⟩,
    ⟨up, by decide +kernel⟩,
    ⟨(belfryPut (up) (Fin.val (0 : Fin 272) / 17) { powered := 0x1FFFF }), 0, by decide +kernel⟩,
    ⟨({ up with chime := { (up).chime with cfg := [(0x300004, 0x80000000)] } }), 3, by decide +kernel⟩,
    ⟨(belfryPut (up) 3 { pllOn := true }), 3, by decide +kernel⟩,
    ⟨({ up with chime := { (up).chime with cfg := [(0x300004, 0x80000000)] } }), 3, by decide +kernel⟩,
    ⟨(belfryPut (up) 3 { fencedSlots := [2, 16], vacated := [2], deferred := [{ op := 0, tile := 0 }] }), 3,
      by decide +kernel⟩,
    ⟨(belfryPut (up) 3 { fenced := true }), 3, by decide +kernel⟩⟩

/-- Witness of clause 10 of MemoryUpkeep. -/
def w_MemoryUpkeep_10_s : State :=
  channelPut ({ { job with time := { job.time with keep := 12800 } } with chime := { ({ job with time := { job.time with keep := 12800 } }).chime with load := 3, temp := 77 } }) 0 { training := true, due := true }
/-- Witness of clause 11 of MemoryUpkeep. -/
def w_MemoryUpkeep_11_s : State :=
  channelPut (channelPut ({ job with time := { job.time with keep := 12800 } }) 0 { training := true, due := true }) (Fin.val (0 : Fin 128) / 64 * 64 +
    9) { due := true, exiting := true }
theorem hyps_MemoryUpkeep :
  (∃ (s : State),
    Sound s = true) ∧
  (∃ (s : State) (c : Fin 128),
    Sound s = true ∧
    srIdle s c.val ≠ 0 ∧
    channelWaits s c.val = false ∧
    channelIdle s c.val (srIdle s c.val) = true) ∧
  (∃ (s : State) (c : Fin 128),
    (srIdle s c.val = 0 ∨ channelWaits s c.val = true ∨ channelIdle s c.val (srIdle s c.val) = false)) ∧
  (∃ (s : State) (c : Fin 128),
    Sound s = true ∧
    (channel s c.val).selfRefresh = true) ∧
  (∃ (s : State) (c : Fin 128),
    (channel s c.val).selfRefresh = false) ∧
  (∃ (s : State),
    Sound s = true) ∧
  (∃ (s : State) (c : Fin 128),
    Sound s = true ∧
    (channel s c.val).due = true ∧
    (channel s c.val).selfRefresh = false ∧
    (channel s c.val).ppr = false ∧
    (∀ i, i < 64 → (channel s (64 * (c.val / 64) + i)).training = false)) ∧
  (∃ (s : State) (c : Fin 128),
    ((channel s c.val).due = false ∨ (channel s c.val).selfRefresh = true ∨ (channel s c.val).ppr = true ∨ (∃ i, i < 64 ∧
      (channel s (64 * (c.val / 64) + i)).training = true))) ∧
  (∃ (s : State) (c : Fin 128),
    channelIdle s c.val 1 = false) ∧
  (∃ (s : State) (c : Fin 128),
    elapsed s (channel s c.val).dueAt 20000 = false) ∧
  (∃ (s : State) (c : Fin 128),
    Sound s = true ∧
    NoWork s ∧
    (channel s c.val).training = true ∧
    (∀ i, i < 64 → 64 * (c.val / 64) + i ≠ c.val → (channel s (64 * (c.val / 64) + i)).exiting = false)) ∧
  (∃ (s : State) (c : Fin 128) (i : Nat),
    Sound s = true ∧
    NoWork s ∧
    (channel s c.val).training = true ∧
    i < 64 ∧
    64 * (c.val / 64) + i ≠ c.val ∧
    (∀ j, j < 64 → 64 * (c.val / 64) + j ≠ c.val → (channel s (64 * (c.val / 64) + j)).training = false) ∧
    (∀ j, j < i → 64 * (c.val / 64) + j ≠ c.val → (channel s (64 * (c.val / 64) + j)).exiting = false) ∧
    (channel s (64 * (c.val / 64) + i)).exiting = true ∧
    (channel s (64 * (c.val / 64) + i)).due = true ∧
    (channel s (64 * (c.val / 64) + i)).selfRefresh = false ∧
    (channel s (64 * (c.val / 64) + i)).ppr = false) ∧
  (∃ (s : State) (c : Fin 128),
    (channel s c.val).training = false) ∧
  (∃ (s : State) (a : Nat) (g : Nat),
    Sound s = true ∧
    g = a / 64 * 64) ∧
  (∃ (s : State) (who : Accessor) (a : Nat) (g : Nat),
    g = a / 64 * 64 ∧
    replayCount s who g < 2) ∧
  (∃ (s : State) (who : Accessor) (a : Nat) (g : Nat),
    g = a / 64 * 64 ∧
    replayCount s who g = 2 ∧
    (who = .remote ∨ who = .remoteWrite ∨ who = .journalRead ∨ who = .journalWrite ∨ who = .bar2Read ∨ who = .bar2Write)) ∧
  (∃ (s : State) (o : Op) (wr : Bool) (a : Nat) (g : Nat),
    Sound s = true ∧
    OnlyOp s o ∧
    o.completed = false ∧
    (∀ b, o.body ≠ .stepCommit b) ∧
    g = a / 64 * 64 ∧
    replayCount s (if wr then .opWrite o.hdr.stream else .opRead o.hdr.stream) g = 2) ∧
  (∃ (s : State) (die : Fin 4) (c : Nat × Nat × Nat),
    Sound s = true ∧
    NoWork s ∧
    s.dome.heldWrites = [] ∧
    s.mif.bar2Waits = [] ∧
    s.fab.serving = [] ∧
    s.mif.copying.find? (fun x => x.1 == die.val) = some c) ∧
  (∃ (s : State) (die : Fin 4),
    s.mif.copying.find? (fun x => x.1 == die.val) = none) ∧
  (∃ (s : State) (c : Nat × Byte) (j : List (Nat × Byte)) (rest : List (List (Nat × Byte))),
    Sound s = true ∧
    NoWork s ∧
    s.dome.journals = (c :: j) :: rest ∧
    DiesRun s ∧
    s.mif.copying = [] ∧
    s.mif.replays = [] ∧
    s.dome.heldWrites = [] ∧
    (payNow (touchRange s (c.1 / 64 * 64) 64) (rangeBursts s (c.1 / 64 * 64) 64)).isSome = true) ∧
  (∃ (s : State),
    (s.dome.stopped = true ∨ s.mif.stoppedDies ≠ [])) :=
  ⟨⟨up, by decide +kernel⟩,
    ⟨(put up [(0xC00004, 5), (0xD00004, 5)]), 0, by decide +kernel⟩,
    ⟨(put up [(0xC00004, 0), (0xD00004, 0)]), 0, by decide +kernel⟩,
    ⟨(channelPut (up) 0 { selfRefresh := true, due := true }), 0, by decide +kernel⟩,
    ⟨up, 0, by decide +kernel⟩,
    ⟨up, by decide +kernel⟩,
    ⟨(channelPut ({ job with time := { job.time with keep := 12800 } }) 0 { due := true, dueAt := 12000 }), 0,
      by decide +kernel⟩,
    ⟨up, 0, by decide +kernel⟩,
    ⟨(channelPut ({ job with time := { job.time with keep := 12800 } }) 0 { lastUse := some 12800, due := true }), 0,
      by decide +kernel⟩,
    ⟨(channelPut ({ job with time := { job.time with keep := 12800 } }) 0 { due := true, dueAt := 12000 }), 0,
      by decide +kernel⟩,
    ⟨w_MemoryUpkeep_10_s, 0, by decide +kernel⟩,
    ⟨w_MemoryUpkeep_11_s, 0, 9, by decide +kernel⟩,
    ⟨up, 0, by decide +kernel⟩,
    ⟨up, 0x12345, ((0x12345) / 64 * 64), by decide +kernel, rfl⟩,
    ⟨({ up with mif := { replays := [(.remote, (0x12345) / 64 * 64, 0)] } }), (.remote), 0x12345, ((0x12345) / 64 * 64), rfl,
      by decide +kernel⟩,
    ⟨({ up with mif := { replays := [(.remote, (0x12345) / 64 * 64, 2)] } }), (.remote), 0x12345, ((0x12345) / 64 * 64), rfl,
      by decide +kernel⟩,
    ⟨({ withOp up (opOf (.gemm gemmBd)) with mif := { replays := [(.opWrite 3, (0x12345) / 64 * 64, 2)] } }),
      (opOf (.gemm gemmBd)), true, 0x12345, ((0x12345) / 64 * 64), by decide +kernel, by decide +kernel, by decide +kernel,
      nofun, rfl, by decide +kernel⟩,
    ⟨(poke { up with mif := { copying := [(2, 5, 1), (3, 6, 0)] } } [(0x100, [1,2,3,4,5,6,7,8])]), 2, ((2, 5, 1)),
      by decide +kernel⟩,
    ⟨({ up with mif := { copying := [(2, 5, 1), (3, 6, 0)] } }), 1, by decide +kernel⟩,
    ⟨({ up with dome := { journals := [[(0x200, 5), (0x201, 6), (0x240, 7)], [(0x200, 9)]] } }), ((0x200, 5)), ([(0x201, 6),
      (0x240, 7)]), ([[(0x200, 9)]]), by decide +kernel⟩,
    ⟨({ up with dome := { stopped := true, journals := [[(0x200, 5), (0x201, 6), (0x240, 7)]] } }), by decide +kernel⟩⟩

/-- Witness of clause 4 of Faults. -/
def w_Faults_4_s : State :=
  fltOf (fltOf job fun f => { f with undelivered := [{ die := 3, unit := 1, kind := 1, count := 1, time := 1, addr := 0 }] }) fun f => { f with undelivered := [{ die := 0, unit := 1, kind := 0x40, count := 1, time := 1, addr := 2 }] ++ f.undelivered }
/-- Witness of clause 4 of Faults. -/
def w_Faults_4_r : FaultRec :=
  { die := 0, unit := 1, kind := 0x40, count := 1, time := 1, addr := 2 }
/-- Witness of clause 5 of Faults. -/
def w_Faults_5_s : State :=
  fltOf (withOp job (opOf (.elem elemBd))) fun f => { f with undelivered := [{ die := 1, unit := 5, kind := 0x2, count := 1, time := 1, addr := 2 }] ++ f.undelivered }
/-- Witness of clause 6 of Faults. -/
def w_Faults_6_s : State :=
  fltOf (job) fun f => { f with undelivered := [{ die := 1, unit := 0, kind := 0x8, count := 1, time := 1, addr := 2 }] ++ f.undelivered }
/-- Witness of clause 7 of Faults. -/
def w_Faults_7_s : State :=
  fltOf (linkIn (linkIn job 3 { st := .up, passed := true }) 3 { st := .failed, passed := true }) fun f => { f with undelivered := [{ die := 4, unit := 3, kind := 0x11, count := 1, time := 1, addr := 2 }] ++ f.undelivered }
/-- Witness of clause 8 of Faults. -/
def w_Faults_8_s : State :=
  fltOf job fun f => { f with undelivered := [{ die := 3, unit := 1, kind := 1, count := 1, time := 1, addr := 0 }] }
theorem hyps_Faults :
  (∃ (s : State) (die : Fin 6) (r : FaultRec) (cls : Nat),
    Sound s = true ∧
    NoWork s ∧
    Offers s die.val r cls) ∧
  (∃ (s : State) (o : Op) (die : Fin 6) (r : FaultRec),
    Sound s = true ∧
    OnlyOp s o ∧
    o.phase = .active ∧
    Offers s die.val r 3 ∧
    (∀ b, o.body ≠ .stepCommit b) ∧
    DiesRun s) ∧
  (∃ (s : State) (die : Fin 6) (r : FaultRec),
    Sound s = true ∧
    NoWork s ∧
    Offers s die.val r 2 ∧
    r.die = 1 ∧
    r.unit < 0x110 ∧
    r.unit % 17 ∉ (belfry s (r.unit / 17)).fencedSlots) ∧
  (∃ (s : State) (die : Fin 6) (r : FaultRec),
    Sound s = true ∧
    NoWork s ∧
    Offers s die.val r 2 ∧
    r.die = 4 ∧
    r.unit < 96) ∧
  (∃ (s : State) (die : Fin 6),
    NoWork s ∧
    (∀ x ∈ s.flt.undelivered, x.die ≠ die.val)) :=
  ⟨⟨w_Faults_4_s, 0, w_Faults_4_r, (loggedClass w_Faults_4_s w_Faults_4_r (bucketCount w_Faults_4_s w_Faults_4_r).1),
    by decide +kernel⟩,
    ⟨w_Faults_5_s, (opOf (.elem elemBd)), 1, ({ die := 1, unit := 5, kind := 0x2, count := 1, time := 1, addr := 2 }),
      first4 (by decide +kernel) ⟨nofun, by decide +kernel⟩⟩,
    ⟨w_Faults_6_s, 1, ({ die := 1, unit := 0, kind := 0x8, count := 1, time := 1, addr := 2 }), by decide +kernel⟩,
    ⟨w_Faults_7_s, 4, ({ die := 4, unit := 3, kind := 0x11, count := 1, time := 1, addr := 2 }), by decide +kernel⟩,
    ⟨w_Faults_8_s, 1, by decide +kernel⟩⟩

/-- Witness of clause 7 of Links. -/
def w_Links_7_h : PktHdr :=
  { dst := 5, src := 6, job := 1, kind := 14, rflags := 0, len := 0, hops := 0, fseq := 0, offset := 0, stamp := 0, tag := 0, pack := 0 }
/-- Witness of clause 7 of Links. -/
def w_Links_7_m : HelloMsg :=
  { answer := false, nonce := [1, 2], echo := [], domain := 0, chip := 6, mode := 0, link := 9, lc := 1, cert := [], sig := [] }
/-- Witness of clause 8 of Links. -/
def w_Links_8_h : PktHdr :=
  { dst := 5, src := 6, job := 1, kind := 14, rflags := 0, len := 0, hops := 0, fseq := 0, offset := 0, stamp := 0, tag := 0, pack := 0 }
/-- Witness of clause 8 of Links. -/
def w_Links_8_m : HelloMsg :=
  { answer := true, nonce := [1, 2], echo := [], domain := 0, chip := 6, mode := 0, link := 9, lc := 1, cert := [], sig := [] }
/-- Witness of clause 12 of Links. -/
def w_Links_12_s : State :=
  { linkIn (job) 3 { st := .up, passed := true, failedRetrains := 0, retrains := 0, credits := List.replicate 8 0 } with fab := { (linkIn (job) 3 { st := .up, passed := true, failedRetrains := 0, retrains := 0, credits := List.replicate 8 0 }).fab with heldPkts := [{ pkt := { hdr := { dst := 6, src := 5, job := 1, kind := 3, rflags := 0, len := 0, hops := 0, fseq := 0, offset := 0, stamp := 0, tag := 0, pack := 0 }, pay := .raw [] }, port := some (portOf (linkIn (job) 3 { st := .up, passed := true, failedRetrains := 0, retrains := 0, credits := List.replicate 8 0 }) (Fin.val (3 : Fin 96))) }] } }
theorem hyps_Links :
  (∃ (s : State) (l : Fin 96),
    Sound s = true ∧
    (link s l.val).st = .down ∧
    canTrain s l.val = true) ∧
  (∃ (s : State) (l : Fin 96),
    ((link s l.val).st ≠ .down ∨ canTrain s l.val = false)) ∧
  (∃ (s : State) (l : Fin 96),
    Sound s = true ∧
    (link s l.val).st = .training) ∧
  (∃ (s : State) (l : Fin 96),
    (link s l.val).st ≠ .training) ∧
  (∃ (s : State) (l : Fin 96),
    Sound s = true ∧
    (link s l.val).st = .training) ∧
  (∃ (s : State) (l : Fin 96),
    Sound s = true ∧
    NoWork s ∧
    ((link s l.val).st = .up ∨ (link s l.val).st = .hello ∨ (link s l.val).st = .training)) ∧
  (∃ (s : State) (l : Fin 96),
    Sound s = true ∧
    NoWork s ∧
    (link s l.val).st = .hello) ∧
  (∃ (s : State) (l : Fin 96) (m : HelloMsg),
    Sound s = true ∧
    NoWork s ∧
    (link s l.val).st = .hello ∧
    s.fab.arrived = [] ∧
    s.fab.loop = [] ∧
    s.fab.heldPkts = [] ∧
    m.answer = false ∧
    (link s l.val).nonce ≠ []) ∧
  (∃ (s : State) (l : Fin 96) (m : HelloMsg),
    Sound s = true ∧
    NoWork s ∧
    (link s l.val).st = .hello ∧
    s.fab.arrived = [] ∧
    s.fab.loop = [] ∧
    s.fab.heldPkts = [] ∧
    m.answer = true ∧
    (link s l.val).nonce ≠ [] ∧
    (link s l.val).passed = false) ∧
  (∃ (s : State) (l : Fin 96),
    Sound s = true ∧
    (link s l.val).st = .failed ∧
    canTrain s l.val = true) ∧
  (∃ (s : State) (l : Fin 96),
    Sound s = true ∧
    NoWork s ∧
    (link s l.val).retraining = true) ∧
  (∃ (s : State) (l : Fin 96),
    (link s l.val).retraining = false) ∧
  (∃ (s : State) (l : Fin 96) (v : Fin 8),
    Sound s = true ∧
    (link s l.val).st = .up ∧
    ((link s l.val).credits[v.val]?).getD 0 = 0 ∧
    ((∃ f ∈ (link s l.val).txq, f.vl = v.val) ∨ (∃ w ∈ s.fab.heldPkts, w.port = some (portOf s l.val) ∧
      classOf w.pkt.hdr.kind = v.val / 2))) ∧
  (∃ (s : State) (l : Fin 96) (v : Fin 8),
    ((link s l.val).st ≠ .up ∨ 0 < ((link s l.val).credits[v.val]?).getD 0 ∨ ((∀ f ∈ (link s l.val).txq, f.vl ≠ v.val) ∧
      ∀ w ∈ s.fab.heldPkts, w.port ≠ some (portOf s l.val) ∨ classOf w.pkt.hdr.kind ≠ v.val / 2))) :=
  ⟨⟨job, 3, by decide +kernel⟩,
    ⟨(linkIn (job) 3 { st := .up }), 3, by decide +kernel⟩,
    ⟨(linkIn (job) 3 { st := .training, retraining := true, expSeq := 9, passed := true, answered := true }), 3,
      by decide +kernel⟩,
    ⟨job, 3, by decide +kernel⟩,
    ⟨(linkIn (job) 3 { st := .training }), 3, by decide +kernel⟩,
    ⟨(linkIn (job) 3 { st := .up, passed := true }), 3, by decide +kernel⟩,
    ⟨(linkIn (job) 3 { st := .hello, failedHellos := 0 }), 3, by decide +kernel⟩,
    ⟨(linkIn (job) 3 { st := .hello, passed := false, nonce := List.replicate 32 7 }), 3, w_Links_7_m, by decide +kernel⟩,
    ⟨(linkIn (job) 3 { st := .hello, failedHellos := 0, nonce := List.replicate 32 7 }), 3, w_Links_8_m, by decide +kernel⟩,
    ⟨(linkIn (job) 3 { st := .failed }), 3, by decide +kernel⟩,
    ⟨(linkIn (job) 3 { st := .training, retraining := true }), 3, by decide +kernel⟩,
    ⟨job, 3, by decide +kernel⟩,
    ⟨w_Links_12_s, 3, 4, by decide +kernel⟩,
    ⟨job, 3, 4, by decide +kernel⟩⟩

/-- Witness of clause 0 of Flits. -/
def w_Flits_0_s : State :=
  linkIn (job) 3 { st := .up, passed := true, unacked := 3, retry := [({ pkt := { hdr := { dst := 6, src := 5, job := 1, kind := 1, rflags := 0, len := 0, hops := 0, fseq := 0, offset := 0, stamp := 0, tag := 0, pack := 0 }, pay := .raw [] } }, [1]), ({ pkt := { hdr := { dst := 6, src := 5, job := 1, kind := 1, rflags := 0, len := 0, hops := 0, fseq := 0, offset := 0, stamp := 0, tag := 0, pack := 0 }, pay := .raw [] } }, [2])], sendSeq := 7 }
/-- Witness of clause 2 of Flits. -/
def w_Flits_2_s : State :=
  linkIn (job) 3 { st := .up, passed := true, credits := List.replicate 8 100, retry := [({ pkt := { hdr := { dst := 6, src := 5, job := 1, kind := 1, rflags := 0, len := 0, hops := 0, fseq := 0, offset := 0, stamp := 0, tag := 0, pack := 0 }, pay := .raw [] } }, [1]), ({ pkt := { hdr := { dst := 6, src := 5, job := 1, kind := 1, rflags := 0, len := 0, hops := 0, fseq := 0, offset := 0, stamp := 0, tag := 0, pack := 0 }, pay := .raw [] } }, [2])], sendSeq := 7 }
/-- Witness of clause 3 of Flits. -/
def w_Flits_3_s : State :=
  linkIn (job) 3 { st := .up, passed := true, credits := List.replicate 8 0, txq := [{ held := { pkt := { hdr := { dst := 6, src := 5, job := 1, kind := 3, rflags := 0, len := 0, hops := 0, fseq := 0, offset := 0, stamp := 0, tag := 0, pack := 0 }, pay := .raw [] } }, vl := 4, sop := true, eop := true, payload := [1] }], retry := [({ pkt := { hdr := { dst := 6, src := 5, job := 1, kind := 1, rflags := 0, len := 0, hops := 0, fseq := 0, offset := 0, stamp := 0, tag := 0, pack := 0 }, pay := .raw [] } }, [1]), ({ pkt := { hdr := { dst := 6, src := 5, job := 1, kind := 1, rflags := 0, len := 0, hops := 0, fseq := 0, offset := 0, stamp := 0, tag := 0, pack := 0 }, pay := .raw [] } }, [2])], sendSeq := 7 }
/-- Witness of clause 3 of Flits. -/
def w_Flits_3_q : TxFlit :=
  { held := { pkt := { hdr := { dst := 6, src := 5, job := 1, kind := 3, rflags := 0, len := 0, hops := 0, fseq := 0, offset := 0, stamp := 0, tag := 0, pack := 0 }, pay := .raw [] } }, vl := 4, sop := true, eop := true, payload := [1] }
/-- Witness of clause 4 of Flits. -/
def w_Flits_4_s : State :=
  linkIn (job) 3 { st := .up, passed := true, retry := [({ pkt := { hdr := { dst := 6, src := 5, job := 1, kind := 1, rflags := 0, len := 0, hops := 0, fseq := 0, offset := 0, stamp := 0, tag := 0, pack := 0 }, pay := .raw [] } }, [1]), ({ pkt := { hdr := { dst := 6, src := 5, job := 1, kind := 1, rflags := 0, len := 0, hops := 0, fseq := 0, offset := 0, stamp := 0, tag := 0, pack := 0 }, pay := .raw [] } }, [2])], sendSeq := 7 }
/-- Witness of clause 6 of Flits. -/
def w_Flits_6_s : State :=
  linkIn (job) 3 { st := .up, passed := true, stuckReplays := 0, retry := [({ pkt := { hdr := { dst := 6, src := 5, job := 1, kind := 1, rflags := 0, len := 0, hops := 0, fseq := 0, offset := 0, stamp := 0, tag := 0, pack := 0 }, pay := .raw [] } }, [1]), ({ pkt := { hdr := { dst := 6, src := 5, job := 1, kind := 1, rflags := 0, len := 0, hops := 0, fseq := 0, offset := 0, stamp := 0, tag := 0, pack := 0 }, pay := .raw [] } }, [2])], sendSeq := 7 }
/-- Witness of clause 9 of Flits. -/
def w_Flits_9_s : State :=
  linkIn (job) 3 { st := .up, passed := true, stuckReplays := 0, failedRetrains := 0, retry := [({ pkt := { hdr := { dst := 6, src := 5, job := 1, kind := 1, rflags := 0, len := 0, hops := 0, fseq := 0, offset := 0, stamp := 0, tag := 0, pack := 0 }, pay := .raw [] } }, [1]), ({ pkt := { hdr := { dst := 6, src := 5, job := 1, kind := 1, rflags := 0, len := 0, hops := 0, fseq := 0, offset := 0, stamp := 0, tag := 0, pack := 0 }, pay := .raw [] } }, [2])], sendSeq := 7 }
theorem hyps_Flits :
  (∃ (s : State) (l : Fin 96) (f : List Byte),
    Sound s = true ∧
    linkCarries (link s l.val) = true ∧
    dataFlitOk (link s l.val) f true = true ∧
    OutIdle s l.val) ∧
  (∃ (s : State) (l : Fin 96) (f : List Byte) (fec : Bool),
    Sound s = true ∧
    linkCarries (link s l.val) = true ∧
    dataFlitOk (link s l.val) f fec = false) ∧
  (∃ (s : State) (l : Fin 96) (f : List Byte),
    Sound s = true ∧
    linkCarries (link s l.val) = true ∧
    flitCrcOk f = true ∧
    natBits (flitWord f) 63 60 = 0 ∧
    OutIdle s l.val) ∧
  (∃ (s : State) (l : Fin 96) (f : List Byte) (q : TxFlit),
    Sound s = true ∧
    linkCarries (link s l.val) = true ∧
    flitCrcOk f = true ∧
    natBits (flitWord f) 63 60 = 0 ∧
    s.fab.heldPkts = [] ∧
    (link s l.val).txq = [q] ∧
    q.vl < 8 ∧
    (link s l.val).retry.length < 256 ∧
    (link s l.val).credits.length = 8) ∧
  (∃ (s : State) (l : Fin 96) (f : List Byte) (fec : Bool),
    Sound s = true ∧
    linkCarries (link s l.val) = true ∧
    (fec = false ∨ flitCrcOk f = false)) ∧
  (∃ (s : State) (l : Fin 96),
    linkCarries (link s l.val) = false) ∧
  (∃ (s : State) (l : Fin 96) (f : List Byte),
    Sound s = true ∧
    linkCarries (link s l.val) = true ∧
    flitCrcOk f = true ∧
    natBits (flitWord f) 63 60 = 2 ∧
    (link s l.val).stuckReplays < 7 ∧
    OutIdle s l.val) ∧
  (∃ (s : State) (l : Fin 96),
    Sound s = true ∧
    linkCarries (link s l.val) = true ∧
    (link s l.val).nak = true) ∧
  (∃ (s : State) (l : Fin 96),
    (link s l.val).nak = false) ∧
  (∃ (s : State) (l : Fin 96),
    Sound s = true ∧
    linkCarries (link s l.val) = true ∧
    (link s l.val).retry ≠ [] ∧
    (link s l.val).failedRetrains < 3) ∧
  (∃ (s : State) (l : Fin 96),
    (link s l.val).retry = []) ∧
  (∃ (s : State) (l : Fin 96),
    Sound s = true ∧
    linkCarries (link s l.val) = true ∧
    0 < (link s l.val).unacked) ∧
  (∃ (s : State) (l : Fin 96),
    (link s l.val).unacked = 0 ∧
    (owedCredits (link s l.val)).2 = 0) :=
  ⟨⟨w_Flits_0_s, 3, (flitBytes 1 0 true true 0 4095 0 0 3 [1, 2, 3]), by decide +kernel⟩,
    ⟨(linkIn (job) 3 { st := .up, passed := true }), 3, (flitBytes 1 0 true true 3 4095 0 0 3 [1, 2, 3]), true,
      by decide +kernel⟩,
    ⟨w_Flits_2_s, 3, (flitBytes 0 0 false false 0 5 3 30 0 []), by decide +kernel⟩,
    ⟨w_Flits_3_s, 3, (flitBytes 0 0 false false 0 5 3 30 0 []), w_Flits_3_q, by decide +kernel⟩,
    ⟨w_Flits_4_s, 3, (flitBytes 0 0 false false 0 5 3 30 0 []), false, by decide +kernel⟩,
    ⟨job, 3, by decide +kernel⟩,
    ⟨w_Flits_6_s, 3, (flitBytes 2 0 false false 0 5 3 30 0 []), by decide +kernel⟩,
    ⟨(linkIn (job) 3 { st := .up, passed := true, nak := true }), 3, by decide +kernel⟩,
    ⟨(linkIn (job) 3 { st := .up, passed := true }), 3, by decide +kernel⟩,
    ⟨w_Flits_9_s, 3, by decide +kernel⟩,
    ⟨(linkIn (job) 3 { st := .up, passed := true }), 3, by decide +kernel⟩,
    ⟨(linkIn (job) 3 { st := .up, passed := true, unacked := 3, owed := [0, 3, 0, 0, 0, 0, 0, 5] }), 3, by decide +kernel⟩,
    ⟨(linkIn (job) 3 { st := .up, passed := true }), 3, by decide +kernel⟩⟩

/-- Witness of clause 7 of RemoteAccess. -/
def w_RemoteAccess_7_s : State :=
  withOp (net) ({ opOf (.copy { src := 0x6000000000200, dst := here 0x300, cmp := nowhere, bytes := 4, pitch := 0, mask := 1, flags := 0 }) with reqs := [{ tag := 7, await := .rows 6 noTurret 6 [{ off := 0x200, bytes := 4 }], start := 3 }], asked := 1 })
/-- Witness of clause 7 of RemoteAccess. -/
def w_RemoteAccess_7_o : Op :=
  { opOf (.copy { src := 0x6000000000200, dst := here 0x300, cmp := nowhere, bytes := 4, pitch := 0, mask := 1, flags := 0 }) with reqs := [{ tag := 7, await := .rows 6 noTurret 6 [{ off := 0x200, bytes := 4 }], start := 3 }], asked := 1 }
/-- Witness of clause 12 of RemoteAccess. -/
def w_RemoteAccess_12_s : State :=
  poke (linkIn (put sliced [(0x820014, 0x80000000), (0x820018, 0x80000001), (0x840000, 0), (0x840004, 0), (0x840008,
    0xFFFFFFFF), (0x84000C, 0xFFFF), (0x840010, 0x8F0001)]) 3 { st := .up, passed := true, partnerChip := 6 }) [(gen,
    leBytes 8 0x10000 ++ leBytes 8 0x20000 ++ leBytes 16 0 ++ leBytes 4 2048 ++ [2, 0, 0, 0] ++ leBytes 4 0 ++
    leBytes 4 (2 ^ 32 - 1))]
/-- Witness of clause 13 of RemoteAccess. -/
def w_RemoteAccess_13_s : State :=
  poke (linkIn (put sliced [(0x820014, 0x80000000), (0x820018, 0x80000001), (0x840000, 0), (0x840004, 0), (0x840008,
    0xFFFFFFFF), (0x84000C, 0xFFFF), (0x840010, 0x8F0001)]) 3 { st := .up, passed := true, partnerChip := 6 }) [(gen,
    leBytes 8 0x10000 ++ leBytes 8 0x20000 ++ leBytes 16 0 ++ leBytes 4 2048 ++ [2, 0, 0, 0] ++ leBytes 4 0 ++
    leBytes 4 (2 ^ 32 - 1))]
/-- Witness of clause 14 of RemoteAccess. -/
def w_RemoteAccess_14_s : State :=
  poke (linkIn (put sliced [(0x820014, 0x80000000), (0x820018, 0x80000001), (0x840000, 0), (0x840004, 0), (0x840008,
    0xFFFFFFFF), (0x84000C, 0xFFFF), (0x840010, 0x8F0001)]) 3 { st := .up, passed := true, partnerChip := 6 }) [(gen,
    leBytes 8 0x10000 ++ leBytes 8 0x20000 ++ leBytes 16 0 ++ leBytes 4 2048 ++ [2, 0, 0, 0] ++ leBytes 4 0 ++ leBytes 4 9)]
/-- Witness of clause 15 of RemoteAccess. -/
def w_RemoteAccess_15_u : State :=
  if ({ write := false, off := 0x800000, value := 0 } : MgmtMsg).write then writeReg (put (roads net) [(0x800034,
    0x80000006)]) ({ write := false, off := 0x800000, value := 0 } : MgmtMsg).off ({ write := false, off := 0x800000, value := 0 } : MgmtMsg).value else (put (roads net) [(0x800034,
    0x80000006)])
theorem hyps_RemoteAccess :
  (∃ (s : State) (l : Fin 96) (h : PktHdr) (p : Payload) (kind : Nat) (q : Nat) (rf : Nat),
    Sound s = true ∧
    NoWork s ∧
    kind = (kindOf p).getD h.kind ∧
    kindOf p ≠ some 0x10 ∧
    Carried s l.val h kind ∧
    nextHop s (withKind h kind) (some (portOf s l.val)) = .out q rf) ∧
  (∃ (s : State) (h : PktHdr) (p : Payload) (q : Nat) (rf : Nat),
    h.dst < 0x8000 ∧
    isSelf s h.dst = false ∧
    s.fab.loop = [] ∧
    expired s h = false ∧
    nextHop s (withKind h ((kindOf p).getD h.kind)) none = .out q rf) ∧
  (∃ (s : State) (l : Fin 96) (h : PktHdr) (p : Payload),
    Sound s = true ∧
    NoWork s ∧
    kindOf p ≠ some 0x10 ∧
    (link s l.val).st = .up ∧
    s.fab.arrived = [] ∧
    s.fab.loop = [] ∧
    (64 ≤ h.hops ∨ expired s h = true)) ∧
  (∃ (s : State) (l : Fin 96) (h : PktHdr),
    Sound s = true ∧
    NoWork s ∧
    kindKnown h.kind = false ∧
    (link s l.val).st = .up ∧
    s.fab.arrived = [] ∧
    s.fab.loop = [] ∧
    h.hops < 64 ∧
    expired s h = false) ∧
  (∃ (h : PktHdr),
    kindKnown h.kind = true) ∧
  (∃ (s : State) (l : Fin 96) (h : PktHdr) (rows : List RowReq),
    NoWork s ∧
    NewHere s l.val h 1 ∧
    s.mif.replays = [] ∧
    s.fab.serving = [] ∧
    (∀ r ∈ rows, rangeStopped s r.off r.bytes = false) ∧
    (payAll s (serveBursts s h.job rows)).2 = [] ∧
    rowsCopy s rows = false ∧
    RoomBack s h.src) ∧
  (∃ (s : State) (l : Fin 96) (h : PktHdr) (rows : List RowReq),
    NoWork s ∧
    NewHere s l.val h 1 ∧
    s.fab.serving = [] ∧
    (∀ r ∈ rows, rangeStopped s r.off r.bytes = false) ∧
    ((payAll s (serveBursts s h.job rows)).2 ≠ [] ∨ rowsCopy s rows = true)) ∧
  (∃ (s : State) (l : Fin 96) (h : PktHdr) (bs : List Byte) (o : Op) (b : CopyBody) (tm : Nat),
    OnlyOp s o ∧
    NewHere s l.val h 2 ∧
    o.phase = .active ∧
    o.asked = 1 ∧
    o.owed = [] ∧
    o.body = .copy b ∧
    o.work ≠ .slices 1 ∧
    absent b.cmp = true ∧
    0 < b.bytes ∧
    b.bytes ≤ 4096 ∧
    isLocal s b.src = false ∧
    isLocal s b.dst = true ∧
    addrChip b.src = h.src ∧
    destStatus s h.src = none ∧
    o.rowBuf = [] ∧
    o.hdr.txn = 0 ∧
    InPlace s [(b.dst, b.bytes)] ∧
    bs.length = b.bytes ∧
    o.reqs = [{ tag := h.tag, await := .rows h.src noTurret h.src [{ off := addrOff b.src, bytes := b.bytes }], start := tm }]) ∧
  (∃ (s : State) (l : Fin 96) (h : PktHdr),
    NoWork s ∧
    NewHere s l.val h 2 ∧
    h.tag < s.fab.nextTag) ∧
  (∃ (s : State) (l : Fin 96) (h : PktHdr) (bs : List Byte),
    NoWork s ∧
    NewHere s l.val h 3 ∧
    h.offset < 2 ^ 48 ∧
    remoteWriteBad s h.job permWrite h.offset bs.length = false ∧
    rangeStopped s h.offset bs.length = false ∧
    h.offset ≠ lanBase + partBase s 0 * 2 ^ 20 ∧
    WriteStarts s s h.offset bs.length ∧
    InPlace s [(h.offset, bs.length)]) ∧
  (∃ (s : State) (l : Fin 96) (h : PktHdr) (sop : Nat),
    NoWork s ∧
    NewHere s l.val h 4 ∧
    h.offset < 2 ^ 48 ∧
    sop ≤ 1 ∧
    h.offset % 8 = 0 ∧
    remoteWriteBad s h.job permAtomic h.offset 8 = false ∧
    rangeStopped s h.offset 8 = false ∧
    WriteStarts s s h.offset 8 ∧
    InPlace s [(h.offset, 8)]) ∧
  (∃ (s : State) (l : Fin 96) (h : PktHdr) (bs : List Byte),
    NoWork s ∧
    NewHere s l.val h 3 ∧
    NewHere s l.val h 4 ∧
    admitted s h.job permWrite h.offset bs.length = false ∧
    admitted s h.job permAtomic h.offset 8 = false) ∧
  (∃ (s : State) (u : State) (l : Fin 96) (h : PktHdr) (slice : Nat) (step : Nat) (size : Nat) (off : Nat) (bs : List Byte),
    NoWork s ∧
    NewHere s l.val h 3 ∧
    publicationOk s slice step size off bs.length = true ∧
    claimSlot s slice step = some u ∧
    admitted s h.job permWrite (slotAddr u slice ((shadowSlot u slice step).getD 0) + off) bs.length = true ∧
    rangeStopped s (slotAddr u slice ((shadowSlot u slice step).getD 0) + off) bs.length = false ∧
    WriteStarts s u (slotAddr u slice ((shadowSlot u slice step).getD 0) + off) bs.length ∧
    InPlace u [(slotAddr u slice ((shadowSlot u slice step).getD 0) + off, bs.length)]) ∧
  (∃ (s : State) (l : Fin 96) (h : PktHdr) (slice : Nat) (step : Nat) (size : Nat) (off : Nat) (bs : List Byte),
    NoWork s ∧
    NewHere s l.val h 3 ∧
    publicationOk s slice step size off bs.length = false ∧
    RoomBack s h.src) ∧
  (∃ (s : State) (l : Fin 96) (h : PktHdr) (slice : Nat) (step : Nat) (size : Nat) (off : Nat) (bs : List Byte),
    NewHere s l.val h 3 ∧
    publicationOk s slice step size off bs.length = true ∧
    claimSlot s slice step = none) ∧
  (∃ (s : State) (u : State) (l : Fin 96) (h : PktHdr) (m : MgmtMsg),
    Sound s = true ∧
    AtHome s l.val h 0x12 ∧
    mgmtListed s h.src = true ∧
    u = (if m.write then writeReg s m.off m.value else s) ∧
    NoWork u ∧
    u.fab.loop = [] ∧
    Reaches u h.src 0x13) ∧
  (∃ (s : State) (l : Fin 96) (h : PktHdr),
    Sound s = true ∧
    NoWork s ∧
    AtHome s l.val h 0x12 ∧
    mgmtListed s h.src = false) ∧
  (∃ (s : State) (l : Fin 96) (h : PktHdr),
    NoWork s ∧
    AtHome s l.val h 0x13 ∧
    h.tag ∈ s.fab.mgmtTags) ∧
  (∃ (s : State) (l : Fin 96) (h : PktHdr),
    Sound s = true ∧
    NoWork s ∧
    AtHome s l.val h 0x13 ∧
    h.tag ∉ s.fab.mgmtTags) :=
  ⟨⟨(roads net), 3, ({ ph0 with dst := 6 }), (.write [1, 2]), 3,
    ((hopOut (nextHop (roads net) (withKind ({ ph0 with dst := 6 }) 3) (some (portOf (roads net) 3)))).1),
    ((hopOut (nextHop (roads net) (withKind ({ ph0 with dst := 6 }) 3) (some (portOf (roads net) 3)))).2), by decide +kernel⟩,
    ⟨(roads net), ({ ph0 with dst := 6 }), (.write [1, 2]),
      ((hopOut (nextHop (roads net) (withKind ({ ph0 with dst := 6 }) 3) none)).1),
      ((hopOut (nextHop (roads net) (withKind ({ ph0 with dst := 6 }) 3) none)).2), by decide +kernel⟩,
    ⟨net, 3, ({ ph0 with hops := 64 }), (.write [1]), by decide +kernel⟩,
    ⟨net, 3, ({ ph0 with kind := 0, dst := 5 }), by decide +kernel⟩,
    ⟨({ ph0 with kind := 1 }), by decide +kernel⟩,
    ⟨(poke (net) [(0x100, [1, 2, 3])]), 3, ({ ph0 with fseq := 0 }), ([{ off := 0x100, bytes := 64 },
      { off := 0xFFFFFFFFFFFF, bytes := 4 }]), by decide +kernel,
      newHereIs (by decide +kernel) (by decide +kernel) (by decide +kernel), by decide +kernel⟩,
    ⟨({ poke (net) [(0x100, [1, 2, 3])] with chime := { grants := (List.range 16).map fun k => (k, 0) } }), 3,
      ({ ph0 with fseq := 0 }), ([{ off := 0x100, bytes := 64 }, { off := 0xFFFFFFFFFFFF, bytes := 4 }]), by decide +kernel,
      newHereIs (by decide +kernel) (by decide +kernel) (by decide +kernel), by decide +kernel⟩,
    ⟨w_RemoteAccess_7_s, 3, ({ { ph0 with fseq := 0 } with tag := 7 }), (List.replicate 4 9), w_RemoteAccess_7_o,
      ({ src := 0x6000000000200, dst := here 0x300, cmp := nowhere, bytes := 4, pitch := 0, mask := 1, flags := 0 }), 3,
      by decide +kernel, newHereIs (by decide +kernel) (by decide +kernel) (by decide +kernel), by decide +kernel⟩,
    ⟨({ net with fab := { (net).fab with nextTag := 9 } }), 3, ({ ph0 with fseq := 0 }), by decide +kernel,
      newHereIs (by decide +kernel) (by decide +kernel) (by decide +kernel), by decide +kernel⟩,
    ⟨net, 3, ({ ph0 with fseq := 0 }), ([1, 2, 3]), by decide +kernel,
      newHereIs (by decide +kernel) (by decide +kernel) (by decide +kernel), by decide +kernel⟩,
    ⟨(poke (net) [(0x100, [1, 2, 3])]), 3, ({ ph0 with fseq := 0 }), 0, by decide +kernel,
      newHereIs (by decide +kernel) (by decide +kernel) (by decide +kernel), by decide +kernel⟩,
    ⟨(put (net) [(0x840010, 0x890001)]), 3, ({ ph0 with fseq := 0 }), ([1, 2, 3]), by decide +kernel,
      newHereIs (by decide +kernel) (by decide +kernel) (by decide +kernel),
      newHereIs (by decide +kernel) (by decide +kernel) (by decide +kernel), by decide +kernel⟩,
    ⟨w_RemoteAccess_12_s, ((claimSlot w_RemoteAccess_12_s 0 (nextStep w_RemoteAccess_12_s)).getD up), 3, ph0, 0,
      (nextStep w_RemoteAccess_12_s), 2048, 0, ([1, 2, 3]), by decide +kernel,
      newHereIs (by decide +kernel) (by decide +kernel) (by decide +kernel), by decide +kernel⟩,
    ⟨w_RemoteAccess_13_s, 3, ph0, 5, 1, 2048, 0, ([1]), by decide +kernel,
      newHereIs (by decide +kernel) (by decide +kernel) (by decide +kernel), by decide +kernel⟩,
    ⟨w_RemoteAccess_14_s, 3, ph0, 0, (nextStep w_RemoteAccess_14_s), 2048, 0, ([1]),
      newHereIs (by decide +kernel) (by decide +kernel) (by decide +kernel), by decide +kernel⟩,
    ⟨(put (roads net) [(0x800034, 0x80000006)]), w_RemoteAccess_15_u, 3, ({ ph0 with kind := 18, tag := 33 }),
      ({ write := false, off := 0x800000, value := 0 }), by decide +kernel, by decide +kernel, by decide +kernel, rfl,
      by decide +kernel⟩,
    ⟨net, 3, ({ ph0 with kind := 18, tag := 33 }), by decide +kernel⟩,
    ⟨({ net with fab := { net.fab with mgmtTags := [4, 33, 5] } }), 3, ({ ph0 with tag := 33 }), by decide +kernel⟩,
    ⟨net, 3, ({ ph0 with tag := 33 }), by decide +kernel⟩⟩

/-- Witness of clause 0 of FlowsAndTime. -/
def w_FlowsAndTime_0_s : State :=
  { net with fab := { (net).fab with flows := [({ chip := 6, cls := 1, next := 8, base := 3, got := [5], unacked := [{ pkt := { hdr := { ph0 with dst := 6, src := 5, fseq := 3 }, pay := .write [1] }, tries := 0 }, { pkt := { hdr := { ph0 with dst := 6, src := 5, fseq := 5 }, pay := .write [1] }, tries := 7 }, { pkt := { hdr := { ph0 with dst := 6, src := 5, fseq := 7 }, pay := .write [1] }, tries := 0 }] } : Flow)] } }
/-- Witness of clause 0 of FlowsAndTime. -/
def w_FlowsAndTime_0_f : Flow :=
  ({ chip := 6, cls := 1, next := 8, base := 3, got := [5], unacked := [{ pkt := { hdr := { ph0 with dst := 6, src := 5, fseq := 3 }, pay := .write [1] }, tries := 0 }, { pkt := { hdr := { ph0 with dst := 6, src := 5, fseq := 5 }, pay := .write [1] }, tries := 7 }, { pkt := { hdr := { ph0 with dst := 6, src := 5, fseq := 7 }, pay := .write [1] }, tries := 0 }] } : Flow)
/-- Witness of clause 1 of FlowsAndTime. -/
def w_FlowsAndTime_1_s : State :=
  { net with fab := { (net).fab with flows := [({ chip := 6, cls := 2, next := 8, base := 3, got := [5], unacked := [{ pkt := { hdr := { ph0 with dst := 6, src := 5, fseq := 3 }, pay := .write [1] }, tries := 0 }], answers := [(6, 3)] } : Flow)] } }
/-- Witness of clause 1 of FlowsAndTime. -/
def w_FlowsAndTime_1_f : Flow :=
  ({ chip := 6, cls := 2, next := 8, base := 3, got := [5], unacked := [{ pkt := { hdr := { ph0 with dst := 6, src := 5, fseq := 3 }, pay := .write [1] }, tries := 0 }], answers := [(6, 3)] } : Flow)
/-- Witness of clause 2 of FlowsAndTime. -/
def w_FlowsAndTime_2_s : State :=
  { net with fab := { (net).fab with flows := [({ chip := 6, cls := 0, next := 8, base := 3, got := [5], unacked := [{ pkt := { hdr := { ph0 with dst := 6, src := 5, fseq := 3 }, pay := .write [1] }, tries := 0 }, { pkt := { hdr := { ph0 with dst := 6, src := 5, fseq := 5 }, pay := .write [1] }, tries := 7 }, { pkt := { hdr := { ph0 with dst := 6, src := 5, fseq := 7 }, pay := .write [1] }, tries := 0 }] } : Flow)] } }
/-- Witness of clause 2 of FlowsAndTime. -/
def w_FlowsAndTime_2_f : Flow :=
  ({ chip := 6, cls := 0, next := 8, base := 3, got := [5], unacked := [{ pkt := { hdr := { ph0 with dst := 6, src := 5, fseq := 3 }, pay := .write [1] }, tries := 0 }, { pkt := { hdr := { ph0 with dst := 6, src := 5, fseq := 5 }, pay := .write [1] }, tries := 7 }, { pkt := { hdr := { ph0 with dst := 6, src := 5, fseq := 7 }, pay := .write [1] }, tries := 0 }] } : Flow)
/-- Witness of clause 3 of FlowsAndTime. -/
def w_FlowsAndTime_3_s : State :=
  { net with fab := { (net).fab with flows := [({ chip := 6, cls := 0, next := 8, base := 3, got := [5], unacked := [{ pkt := { hdr := { ph0 with dst := 6, src := 5, fseq := 3 }, pay := .write [1] }, tries := 0 }, { pkt := { hdr := { ph0 with dst := 6, src := 5, fseq := 5 }, pay := .write [1] }, tries := 7 }, { pkt := { hdr := { ph0 with dst := 6, src := 5, fseq := 7 }, pay := .write [1] }, tries := 0 }] } : Flow)] } }
/-- Witness of clause 3 of FlowsAndTime. -/
def w_FlowsAndTime_3_f : Flow :=
  ({ chip := 6, cls := 0, next := 8, base := 3, got := [5], unacked := [{ pkt := { hdr := { ph0 with dst := 6, src := 5, fseq := 3 }, pay := .write [1] }, tries := 0 }, { pkt := { hdr := { ph0 with dst := 6, src := 5, fseq := 5 }, pay := .write [1] }, tries := 7 }, { pkt := { hdr := { ph0 with dst := 6, src := 5, fseq := 7 }, pay := .write [1] }, tries := 0 }] } : Flow)
/-- Witness of clause 4 of FlowsAndTime. -/
def w_FlowsAndTime_4_s : State :=
  withOp ({ net with fab := { (net).fab with flows := [({ chip := 6, cls := 0, next := 8, base := 3, got := [5], unacked := [{ pkt := { hdr := { ph0 with dst := 6, src := 5, fseq := 3 }, pay := .write [1] }, tries := 0 }, { pkt := { hdr := { ph0 with dst := 6, src := 5, fseq := 5 }, pay := .write [1] }, tries := 8 }, { pkt := { hdr := { ph0 with dst := 6, src := 5, fseq := 7 }, pay := .write [1] }, tries := 0 }] } : Flow)] } }) ({ opOf (.fill { dst := 0x6000000000000, bytes := 4, pattern := 0, mask := 1 }) with work := .slices 1, reqs := [{ tag := 3, await := .ack 6 0 5, start := 1 }] })
/-- Witness of clause 4 of FlowsAndTime. -/
def w_FlowsAndTime_4_f : Flow :=
  ({ chip := 6, cls := 0, next := 8, base := 3, got := [5], unacked := [{ pkt := { hdr := { ph0 with dst := 6, src := 5, fseq := 3 }, pay := .write [1] }, tries := 0 }, { pkt := { hdr := { ph0 with dst := 6, src := 5, fseq := 5 }, pay := .write [1] }, tries := 8 }, { pkt := { hdr := { ph0 with dst := 6, src := 5, fseq := 7 }, pay := .write [1] }, tries := 0 }] } : Flow)
/-- Witness of clause 4 of FlowsAndTime. -/
def w_FlowsAndTime_4_o : Op :=
  { opOf (.fill { dst := 0x6000000000000, bytes := 4, pattern := 0, mask := 1 }) with work := .slices 1, reqs := [{ tag := 3, await := .ack 6 0 5, start := 1 }] }
/-- Witness of clause 6 of FlowsAndTime. -/
def w_FlowsAndTime_6_s : State :=
  { net with fab := { (net).fab with flows := [{ ({ chip := 6, cls := 0, next := 8, base := 3, got := [5], unacked := [{ pkt := { hdr := { ph0 with dst := 6, src := 5, fseq := 3 }, pay := .write [1] }, tries := 0 }, { pkt := { hdr := { ph0 with dst := 6, src := 5, fseq := 5 }, pay := .write [1] }, tries := 7 }, { pkt := { hdr := { ph0 with dst := 6, src := 5, fseq := 7 }, pay := .write [1] }, tries := 0 }] } : Flow) with ackOwed := true }] } }
/-- Witness of clause 6 of FlowsAndTime. -/
def w_FlowsAndTime_6_f : Flow :=
  { ({ chip := 6, cls := 0, next := 8, base := 3, got := [5], unacked := [{ pkt := { hdr := { ph0 with dst := 6, src := 5, fseq := 3 }, pay := .write [1] }, tries := 0 }, { pkt := { hdr := { ph0 with dst := 6, src := 5, fseq := 5 }, pay := .write [1] }, tries := 7 }, { pkt := { hdr := { ph0 with dst := 6, src := 5, fseq := 7 }, pay := .write [1] }, tries := 0 }] } : Flow) with ackOwed := true }
/-- Witness of clause 7 of FlowsAndTime. -/
def w_FlowsAndTime_7_s : State :=
  { net with fab := { (net).fab with flows := [({ chip := 6, cls := 0, next := 8, base := 3, got := [5], unacked := [{ pkt := { hdr := { ph0 with dst := 6, src := 5, fseq := 3 }, pay := .write [1] }, tries := 0 }, { pkt := { hdr := { ph0 with dst := 6, src := 5, fseq := 5 }, pay := .write [1] }, tries := 7 }, { pkt := { hdr := { ph0 with dst := 6, src := 5, fseq := 7 }, pay := .write [1] }, tries := 0 }] } : Flow)] } }
/-- Witness of clause 7 of FlowsAndTime. -/
def w_FlowsAndTime_7_f : Flow :=
  ({ chip := 6, cls := 0, next := 8, base := 3, got := [5], unacked := [{ pkt := { hdr := { ph0 with dst := 6, src := 5, fseq := 3 }, pay := .write [1] }, tries := 0 }, { pkt := { hdr := { ph0 with dst := 6, src := 5, fseq := 5 }, pay := .write [1] }, tries := 7 }, { pkt := { hdr := { ph0 with dst := 6, src := 5, fseq := 7 }, pay := .write [1] }, tries := 0 }] } : Flow)
/-- Witness of clause 8 of FlowsAndTime. -/
def w_FlowsAndTime_8_s : State :=
  { net with fab := { (net).fab with flows := [{ ({ chip := 6, cls := 0, next := 8, base := 3, got := [5], unacked := [{ pkt := { hdr := { ph0 with dst := 6, src := 5, fseq := 3 }, pay := .write [1] }, tries := 0 }, { pkt := { hdr := { ph0 with dst := 6, src := 5, fseq := 5 }, pay := .write [1] }, tries := 7 }, { pkt := { hdr := { ph0 with dst := 6, src := 5, fseq := 7 }, pay := .write [1] }, tries := 0 }] } : Flow) with spill := some 0 }] } }
/-- Witness of clause 8 of FlowsAndTime. -/
def w_FlowsAndTime_8_f : Flow :=
  { ({ chip := 6, cls := 0, next := 8, base := 3, got := [5], unacked := [{ pkt := { hdr := { ph0 with dst := 6, src := 5, fseq := 3 }, pay := .write [1] }, tries := 0 }, { pkt := { hdr := { ph0 with dst := 6, src := 5, fseq := 5 }, pay := .write [1] }, tries := 7 }, { pkt := { hdr := { ph0 with dst := 6, src := 5, fseq := 7 }, pay := .write [1] }, tries := 0 }] } : Flow) with spill := some 0 }
/-- Witness of clause 9 of FlowsAndTime. -/
def w_FlowsAndTime_9_s : State :=
  { net with fab := { (net).fab with flows := [({ chip := 6, cls := 0, next := 8, base := 3, got := [5], unacked := [{ pkt := { hdr := { ph0 with dst := 6, src := 5, fseq := 3 }, pay := .write [1] }, tries := 0 }, { pkt := { hdr := { ph0 with dst := 6, src := 5, fseq := 5 }, pay := .write [1] }, tries := 7 }, { pkt := { hdr := { ph0 with dst := 6, src := 5, fseq := 7 }, pay := .write [1] }, tries := 0 }] } : Flow)] } }
/-- Witness of clause 9 of FlowsAndTime. -/
def w_FlowsAndTime_9_f : Flow :=
  ({ chip := 6, cls := 0, next := 8, base := 3, got := [5], unacked := [{ pkt := { hdr := { ph0 with dst := 6, src := 5, fseq := 3 }, pay := .write [1] }, tries := 0 }, { pkt := { hdr := { ph0 with dst := 6, src := 5, fseq := 5 }, pay := .write [1] }, tries := 7 }, { pkt := { hdr := { ph0 with dst := 6, src := 5, fseq := 7 }, pay := .write [1] }, tries := 0 }] } : Flow)
/-- Witness of clause 11 of FlowsAndTime. -/
def w_FlowsAndTime_11_s : State :=
  { put net [(0x800000, 0x50000)] with time := { keep := 5, runs := true } }
theorem hyps_FlowsAndTime :
  (∃ (s : State) (l : Fin 96) (h : PktHdr) (f : Flow),
    NoWork s ∧
    NewHere s l.val h 8 ∧
    (h.tag = 1 ∨ h.tag = 2) ∧
    flow s h.src h.tag = some f ∧
    f.spill = none ∧
    s.fab.heldPkts = [] ∧
    (∀ g, flow s h.src 2 = some g → g.answers = [])) ∧
  (∃ (s : State) (l : Fin 96) (h : PktHdr) (f : Flow) (u : Unacked) (n : Nat),
    NoWork s ∧
    NewHere s l.val h 8 ∧
    h.tag = 2 ∧
    flow s h.src 2 = some f ∧
    f.spill = none ∧
    s.fab.heldPkts = [] ∧
    f.unacked = [u] ∧
    seqBelow u.pkt.hdr.fseq h.pack = true ∧
    f.answers = [(n, u.pkt.hdr.fseq)] ∧
    n < 2 ^ 32 ∧
    f.base < 2 ^ 32 ∧
    seqPlace f n = .fresh) ∧
  (∃ (s : State) (chip : Nat) (n : Nat) (c : Fin 3) (f : Flow) (u : Unacked),
    flow s chip c.val = some f ∧
    f.spill = none ∧
    u ∈ f.unacked ∧
    u.pkt.hdr.fseq = n ∧
    (∀ v ∈ f.unacked, v.pkt.hdr.fseq = n → v = u) ∧
    u.tries < 8 ∧
    copyWaits s chip c.val n = false) ∧
  (∃ (s : State) (chip : Nat) (n : Nat) (c : Fin 3) (f : Flow),
    flow s chip c.val = some f ∧
    f.spill = none ∧
    (copyWaits s chip c.val n = true ∨ (∀ u ∈ f.unacked, u.pkt.hdr.fseq ≠ n))) ∧
  (∃ (s : State) (chip : Nat) (n : Nat) (c : Fin 3) (f : Flow) (u : Unacked) (o : Op),
    OnlyOp s o ∧
    o.phase = .active ∧
    (∀ b, o.body ≠ .reduceGrad b) ∧
    (∀ b, o.body ≠ .stepCommit b) ∧
    waitsOnFlow o chip c.val = true ∧
    flow s chip c.val = some f ∧
    f.spill = none ∧
    u ∈ f.unacked ∧
    u.pkt.hdr.fseq = n ∧
    (∀ v ∈ f.unacked, v.pkt.hdr.fseq = n → v = u) ∧
    8 ≤ u.tries ∧
    copyWaits s chip c.val n = false) ∧
  (∃ (s : State) (chip : Nat) (c : Fin 3),
    flow s chip c.val = none) ∧
  (∃ (s : State) (chip : Nat) (c : Fin 3) (f : Flow),
    flow s chip c.val = some f ∧
    f.spill = none ∧
    f.ackOwed = true ∧
    RoomTo s chip 0 1 ∧
    Reaches s chip 8) ∧
  (∃ (s : State) (chip : Nat) (c : Fin 3) (f : Flow),
    flow s chip c.val = some f ∧
    f.spill = none ∧
    f.ackOwed = false) ∧
  (∃ (s : State) (chip : Nat) (c : Fin 3) (f : Flow),
    flow s chip c.val = some f ∧
    f.spill.isSome = true ∧
    residents s < 12288 ∧
    s.fab.heldPkts = []) ∧
  (∃ (s : State) (chip : Nat) (c : Fin 3) (f : Flow),
    flow s chip c.val = some f ∧
    f.spill = none) ∧
  (∃ (s : State) (l : Fin 96) (h : PktHdr),
    NoWork s ∧
    AtHome s l.val h 0x11 ∧
    Reaches s h.src 0x11) ∧
  (∃ (s : State) (l : Fin 96) (h : PktHdr),
    NoWork s ∧
    AtHome s l.val h 0x11 ∧
    isLeader s = false ∧
    jobId s = 0) ∧
  (∃ (s : State) (l : Fin 96) (h : PktHdr),
    NoWork s ∧
    AtHome s l.val h 0x11 ∧
    isLeader s = true ∧
    isRoot s = false) ∧
  (∃ (s : State) (l : Fin 96) (h : PktHdr),
    NoWork s ∧
    AtHome s l.val h 0x11 ∧
    isLeader s = false ∧
    (∀ c ∈ s.time.leaders, h.src ≤ c)) ∧
  (∃ (s : State),
    isRoot s = true) ∧
  (∃ (s : State) (q : Nat),
    isLeader s = true ∧
    isRoot s = false ∧
    planeUp s = some q) ∧
  (∃ (s : State),
    isLeader s = false ∧
    (jobId s ≠ 0 ∨ s.time.leaders ≠ [] ∨ s.fin.ready = false)) ∧
  (∃ (s : State) (chip : Nat),
    isLeader s = false ∧
    jobId s = 0 ∧
    s.time.leaders = [] ∧
    s.fin.ready = true ∧
    chip = Config.freeNat s.draws % 32768) ∧
  (∃ (s : State),
    s.time.stale = false ∧
    s.time.lastSync + 15625000 ≤ s.time.keep) ∧
  (∃ (s : State),
    (s.time.stale = true ∨ s.time.keep < s.time.lastSync + 15625000)) :=
  ⟨⟨w_FlowsAndTime_0_s, 3, ({ ph0 with tag := 1, pack := 0 }), w_FlowsAndTime_0_f, by decide +kernel,
    newHereIs (by decide +kernel) (by decide +kernel) (by decide +kernel), by decide +kernel⟩,
    ⟨w_FlowsAndTime_1_s, 3, ({ ph0 with tag := 2, pack := 4 }), w_FlowsAndTime_1_f,
      ({ pkt := { hdr := { ph0 with dst := 6, src := 5, fseq := 3 }, pay := .write [1] }, tries := 0 }), 6, by decide +kernel,
      newHereIs (by decide +kernel) (by decide +kernel) (by decide +kernel), by decide +kernel⟩,
    ⟨w_FlowsAndTime_2_s, 6, 5, 0, w_FlowsAndTime_2_f,
      ({ pkt := { hdr := { ph0 with dst := 6, src := 5, fseq := 5 }, pay := .write [1] }, tries := 7 }), by decide +kernel⟩,
    ⟨w_FlowsAndTime_3_s, 6, 4, 0, w_FlowsAndTime_3_f, by decide +kernel⟩,
    ⟨w_FlowsAndTime_4_s, 6, 5, 0, w_FlowsAndTime_4_f,
      ({ pkt := { hdr := { ph0 with dst := 6, src := 5, fseq := 5 }, pay := .write [1] }, tries := 8 }), w_FlowsAndTime_4_o,
      by decide +kernel, by decide +kernel, nofun, nofun, by decide +kernel⟩,
    ⟨net, 6, 0, by decide +kernel⟩,
    ⟨w_FlowsAndTime_6_s, 6, 0, w_FlowsAndTime_6_f, by decide +kernel⟩,
    ⟨w_FlowsAndTime_7_s, 6, 0, w_FlowsAndTime_7_f, by decide +kernel⟩,
    ⟨w_FlowsAndTime_8_s, 6, 0, w_FlowsAndTime_8_f, by decide +kernel⟩,
    ⟨w_FlowsAndTime_9_s, 6, 0, w_FlowsAndTime_9_f, by decide +kernel⟩,
    ⟨net, 3, ({ ph0 with kind := 17, tag := 4 }), by decide +kernel⟩,
    ⟨w_FlowsAndTime_11_s, 3, ({ ph0 with stamp := stampNow w_FlowsAndTime_11_s }), by decide +kernel⟩,
    ⟨(put (roads net) [(0x800040, 0x80000000)]), 3, ph0, by decide +kernel⟩,
    ⟨net, 3, ph0, by decide +kernel⟩,
    ⟨(put (roads net) [(0x800040, 0xC0000000)]), by decide +kernel⟩,
    ⟨(put (roads net) [(0x800040, 0x80000000)]), 0, by decide +kernel⟩,
    ⟨net, by decide +kernel⟩,
    ⟨(put net [(0x800000, 0x50000)]), (Config.freeNat (put net [(0x800000, 0x50000)]).draws % 32768),
      first4 (by decide +kernel) rfl⟩,
    ⟨({ net with time := { keep := 50000000, lastSync := 7 } }), by decide +kernel⟩,
    ⟨net, by decide +kernel⟩⟩

/-- Witness of clause 2 of Collectives. -/
def w_Collectives_2_s : State :=
  held1 (gang 2 [0, 1, 1]) (step1 { tile := 0, ready := true, e := some 3 } [])
/-- Witness of clause 3 of Collectives. -/
def w_Collectives_3_s : State :=
  held1 (gang 2 [0, 1, 1]) (step1 { tile := 0, ready := true, pass := 4, e := some 3 } [])
/-- Witness of clause 4 of Collectives. -/
def w_Collectives_4_s : State :=
  held1 (gang 2 [0, 1, 1]) (step1 { tile := 0, ready := true, e := some 3 } [])
/-- Witness of clause 5 of Collectives. -/
def w_Collectives_5_s : State :=
  held1 (gang 2 [0, 1, 1]) (step1 { tile := 0, ready := true, e := some 3 } [])
/-- Witness of clause 6 of Collectives. -/
def w_Collectives_6_s : State :=
  held1 (gang 2 [0, 1, 1]) (step1 { tile := 0, ready := true, e := some 3 } [])
/-- Witness of clause 7 of Collectives. -/
def w_Collectives_7_s : State :=
  held1 (gang 2 [0, 1, 1]) (step1 { tile := 0, ready := true, e := some 3 } [])
theorem hyps_Collectives :
  (∃ (s : State) (l : Fin 96) (h : PktHdr) (b : ReduceBatch),
    NoWork s ∧
    NewHere s l.val h 5 ∧
    (∀ r ∈ (h.offset, 0) :: b.rows.map (fun r => (r.1, r.2.length)), admitted s h.job permReduce r.1 r.2 = true ∧
      rangeStopped s r.1 r.2 = false)) ∧
  (∃ (s : State) (l : Fin 96) (h : PktHdr),
    NoWork s ∧
    NewHere s l.val h 5 ∧
    admitted s h.job permReduce h.offset 0 = false) ∧
  (∃ (s : State) (l : Fin 96) (h : PktHdr) (c : CollHdr) (r : GroupRec) (g : GroupStep) (x : TileRed),
    NoWork s ∧
    CollHere s l.val h c r g x ∧
    NoneYet r g c.tile ∧
    x.pass < c.pass) ∧
  (∃ (s : State) (l : Fin 96) (h : PktHdr) (c : CollHdr) (r : GroupRec) (g : GroupStep) (x : TileRed),
    NoWork s ∧
    CollHere s l.val h c r g x ∧
    NoneYet r g c.tile ∧
    c.pass < x.pass) ∧
  (∃ (s : State) (l : Fin 96) (h : PktHdr) (c : CollHdr) (r : GroupRec) (g : GroupStep) (x : TileRed),
    NoWork s ∧
    CollHere s l.val h c r g x ∧
    x.pass < c.pass) ∧
  (∃ (s : State) (l : Fin 96) (h : PktHdr) (c : CollHdr) (r : GroupRec) (g : GroupStep) (x : TileRed),
    NoWork s ∧
    CollHere s l.val h c r g x ∧
    NoneYet r g c.tile ∧
    OfPass c x) ∧
  (∃ (s : State) (l : Fin 96) (h : PktHdr) (c : CollHdr) (r : GroupRec) (g : GroupStep) (x : TileRed) (e : Int),
    NoWork s ∧
    CollHere s l.val h c r g x ∧
    NoneYet r g c.tile ∧
    c.pass = x.pass ∧
    x.e = some e ∧
    c.e ≠ e) ∧
  (∃ (s : State) (l : Fin 96) (h : PktHdr) (c : CollHdr) (r : GroupRec) (g : GroupStep) (x : TileRed),
    NoWork s ∧
    CollHere s l.val h c r g x ∧
    OfPass c x ∧
    g.final = none) :=
  ⟨⟨net, 3, ph0, ({ exch := 0, combine := 1, init := 0, marker := false, rows := [(0x200, [1, 2]), (lanBase, [3])] }),
    by decide +kernel, newHereIs (by decide +kernel) (by decide +kernel) (by decide +kernel), by decide +kernel⟩,
    ⟨(put net [(0x840010, 0x870001)]), 3, ph0, by decide +kernel,
      newHereIs (by decide +kernel) (by decide +kernel) (by decide +kernel), by decide +kernel⟩,
    ⟨w_Collectives_2_s, 3, ({ ph0 with offset := gen }), ({ ch0 with pass := 2 }), (groupRec w_Collectives_2_s gen),
      (step1 { tile := 0, ready := true, e := some 3 } []), ({ tile := 0, ready := true, e := some 3 }), by decide +kernel,
      ⟨newHereIs (by decide +kernel) (by decide +kernel) (by decide +kernel), by decide +kernel⟩, by decide +kernel⟩,
    ⟨w_Collectives_3_s, 3, ({ ph0 with offset := gen }), ch0, (groupRec w_Collectives_3_s gen),
      (step1 { tile := 0, ready := true, pass := 4, e := some 3 } []), ({ tile := 0, ready := true, pass := 4, e := some 3 }),
      by decide +kernel, ⟨newHereIs (by decide +kernel) (by decide +kernel) (by decide +kernel), by decide +kernel⟩,
      by decide +kernel⟩,
    ⟨w_Collectives_4_s, 3, ({ ph0 with offset := gen }), ({ ch0 with pass := 2 }), (groupRec w_Collectives_4_s gen),
      (step1 { tile := 0, ready := true, e := some 3 } []), ({ tile := 0, ready := true, e := some 3 }), by decide +kernel,
      ⟨newHereIs (by decide +kernel) (by decide +kernel) (by decide +kernel), by decide +kernel⟩, by decide +kernel⟩,
    ⟨w_Collectives_5_s, 3, ({ ph0 with offset := gen }), ({ ch0 with half := 0 }), (groupRec w_Collectives_5_s gen),
      (step1 { tile := 0, ready := true, e := some 3 } []), ({ tile := 0, ready := true, e := some 3 }), by decide +kernel,
      ⟨newHereIs (by decide +kernel) (by decide +kernel) (by decide +kernel), by decide +kernel⟩, by decide +kernel⟩,
    ⟨w_Collectives_6_s, 3, ({ ph0 with offset := gen }), ({ ch0 with e := 9 }), (groupRec w_Collectives_6_s gen),
      (step1 { tile := 0, ready := true, e := some 3 } []), ({ tile := 0, ready := true, e := some 3 }), 3, by decide +kernel,
      ⟨newHereIs (by decide +kernel) (by decide +kernel) (by decide +kernel), by decide +kernel⟩, by decide +kernel⟩,
    ⟨w_Collectives_7_s, 3, ({ ph0 with offset := gen }), ch0, (groupRec w_Collectives_7_s gen),
      (step1 { tile := 0, ready := true, e := some 3 } []), ({ tile := 0, ready := true, e := some 3 }), by decide +kernel,
      ⟨newHereIs (by decide +kernel) (by decide +kernel) (by decide +kernel), by decide +kernel⟩, by decide +kernel⟩⟩

/-- Witness of clause 8 of Collectives. -/
def w_Collectives_8_s : State :=
  withOp (held1 (gang 2 [0, 0,
    1]) ({ step1 { tile := 0, ready := true, e := some 3 } with final := some 0, fMax := -128 })) ({ opOf (.reduceGrad { group := here gen, src := here 0x100, step := 1, srcElems := 0, srcOffset := 0, limit := 0, flags := 1 }) with work := .reduce 0 })
/-- Witness of clause 8 of Collectives. -/
def w_Collectives_8_u : State :=
  wroteState (histEnter w_Collectives_8_s ({ opOf (.reduceGrad { group := here gen, src := here 0x100, step := 1, srcElems := 0, srcOffset := 0, limit := 0, flags := 1 }) with work := .reduce 0 }) (groupRec w_Collectives_8_s gen).hist (max (-128) 2))
/-- Witness of clause 8 of Collectives. -/
def w_Collectives_8_o : Op :=
  { opOf (.reduceGrad { group := here gen, src := here 0x100, step := 1, srcElems := 0, srcOffset := 0, limit := 0, flags := 1 }) with work := .reduce 0 }
/-- Witness of clause 9 of Collectives. -/
def w_Collectives_9_s : State :=
  held1 (gang 2 [0, 1, 1]) (step1 { tile := 0, ready := true, e := some 3 } [])
/-- Witness of clause 11 of Collectives. -/
def w_Collectives_11_s : State :=
  held1 (gang 2 [0, 1, 1]) (step1 { tile := 0, exps := [(5, 1)], ready := true } [])
/-- Witness of clause 12 of Collectives. -/
def w_Collectives_12_s : State :=
  held1 (poke (gang 2 [0, 0, 1]) [(retainAt (gang 2 [0]) 2, leBytes 4 0x3F800000 ++
    leBytes 4 0xC0400000)]) ({ step1 { tile := 0, ready := true, e := some 3 } [{ elem := 0, at_ := retainAt (gang 2 [0]) 2, op := 0, seed := 0 }, { elem := 1, at_ := retainAt (gang 2 [0]) 2 + 4, op := 0, seed := 0 }] with copies := [{ tile := 0, op := some 0, page := 2 }] })
/-- Witness of clause 12 of Collectives. -/
def w_Collectives_12_g : GroupStep :=
  { step1 { tile := 0, ready := true, e := some 3 } [{ elem := 0, at_ := retainAt (gang 2 [0]) 2, op := 0, seed := 0 }, { elem := 1, at_ := retainAt (gang 2 [0]) 2 + 4, op := 0, seed := 0 }] with copies := [{ tile := 0, op := some 0, page := 2 }] }
/-- Witness of clause 13 of Collectives. -/
def w_Collectives_13_s : State :=
  held1 (poke (gang 2 [0, 1] 0 1) [(retainAt (gang 2 [0]) 2, leBytes 4 0x3F800000 ++
    leBytes 4 0xC0400000)]) ({ step1 { tile := 0, ready := true, e := some 3 } [{ elem := 0, at_ := retainAt (gang 2 [0]) 2, op := 0, seed := 0 }, { elem := 1, at_ := retainAt (gang 2 [0]) 2 + 4, op := 0, seed := 0 }] with copies := [{ tile := 0, op := some 0, page := 2 }] })
/-- Witness of clause 13 of Collectives. -/
def w_Collectives_13_g : GroupStep :=
  { step1 { tile := 0, ready := true, e := some 3 } [{ elem := 0, at_ := retainAt (gang 2 [0]) 2, op := 0, seed := 0 }, { elem := 1, at_ := retainAt (gang 2 [0]) 2 + 4, op := 0, seed := 0 }] with copies := [{ tile := 0, op := some 0, page := 2 }] }
theorem hyps_Collectives_more :
  (∃ (s : State) (u : State) (l : Fin 96) (h : PktHdr) (c : CollHdr) (r : GroupRec) (g : GroupStep) (x : TileRed) (o : Op) (b : ReduceGradBody) (n : Nat) (a : Nat),
    OnlyOp s o ∧
    CollHere s l.val h c r g x ∧
    OfPass c x ∧
    o.phase = .active ∧
    o.body = .reduceGrad b ∧
    o.work = .reduce n ∧
    b.srcElems ≤ n ∧
    g.final = some o.id ∧
    r.tiles = 1 ∧
    ownedTiles s r = (a, a) ∧
    g.badPacket = false ∧
    g.excess = 0 ∧
    groupStep s h.offset (c.step + 1) = none ∧
    histEnter s o r.hist (max g.fMax c.f) = .done u) ∧
  (∃ (s : State) (l : Fin 96) (h : PktHdr) (c : CollHdr) (r : GroupRec) (g : GroupStep) (x : TileRed) (e : Int),
    NoWork s ∧
    CollHere s l.val h c r g x ∧
    NoneYet r g c.tile ∧
    ownerChip s r c.tile = ownChip s ∧
    c.pass = x.pass ∧
    x.e = some e ∧
    x.announced ≠ some x.pass ∧
    s.fab.flows.length + r.ndev < 12288 ∧
    regionOf (addrOff r.ring) ≠ .hostWindow ∧
    regionOf (addrOff r.own) ≠ .hostWindow) ∧
  (∃ (s : State) (l : Fin 96) (h : PktHdr) (c : CollHdr) (r : GroupRec) (g : GroupStep) (x : TileRed),
    NoWork s ∧
    CollHere s l.val h c r g x ∧
    NoneYet r g c.tile ∧
    ownerChip s r c.tile = ownChip s ∧
    c.pass = x.pass ∧
    x.e = none ∧
    x.announced ≠ some x.pass ∧
    (expsWith x h.src c.f).length < r.ndev) ∧
  (∃ (s : State) (l : Fin 96) (h : PktHdr) (c : CollHdr) (r : GroupRec) (g : GroupStep) (x : TileRed),
    NoWork s ∧
    CollHere s l.val h c r g x ∧
    NoneYet r g c.tile ∧
    ownerChip s r c.tile = ownChip s ∧
    c.pass = x.pass ∧
    x.e = none ∧
    x.announced ≠ some x.pass ∧
    s.fab.flows.length + r.ndev < 12288 ∧
    r.ndev ≤ (expsWith x h.src c.f).length) ∧
  (∃ (s : State) (off : Nat) (step : Nat) (i : Nat) (r : GroupRec) (g : GroupStep) (x : TileRed) (e : Int) (q : List Int),
    Sound s = true ∧
    NoWork s ∧
    FirstReady s off step i r g x e q ∧
    2 ≤ r.ndev ∧
    isSelf s (chainChip (keepPartial s g i q) r i 1) = false ∧
    RoomTo s (chainChip (keepPartial s g i q) r i 1) 1 2) ∧
  (∃ (s : State) (off : Nat) (step : Nat) (i : Nat) (r : GroupRec) (g : GroupStep) (x : TileRed) (e : Int) (q : List Int),
    Sound s = true ∧
    NoWork s ∧
    FirstReady s off step i r g x e q ∧
    r.ndev = 1 ∧
    r.outMode = false ∧
    s.fab.flows.length < 12288 ∧
    InPlace (keepPartial s g i q) [(addrOff r.sum + (i - (ownedTiles (keepPartial s g i q) r).1) * r.stride,
      (sumTile r step x e (max (-128) (fLocal s g i)) q).length)] ∧
    addrOff r.sum + (i - (ownedTiles (keepPartial s g i q) r).1) * r.stride < 2 ^ 48) ∧
  (∃ (s : State) (off : Nat) (step : Nat),
    groupStep s off step = none) :=
  ⟨⟨w_Collectives_8_s, w_Collectives_8_u, 3, ({ ph0 with offset := gen }), ch0, (groupRec w_Collectives_8_s gen),
    ({ step1 { tile := 0, ready := true, e := some 3 } with final := some 0, fMax := -128 }),
    ({ tile := 0, ready := true, e := some 3 }), w_Collectives_8_o,
    ({ group := here gen, src := here 0x100, step := 1, srcElems := 0, srcOffset := 0, limit := 0, flags := 1 }), 0, 0,
    by decide +kernel, ⟨newHereIs (by decide +kernel) (by decide +kernel) (by decide +kernel), by decide +kernel⟩,
    first8 (by decide +kernel) (first2 (by decide +kernel) ⟨by decide +kernel, wroteIs (by decide +kernel)⟩)⟩,
    ⟨w_Collectives_9_s, 3, ({ ph0 with offset := gen }), ch0, (groupRec w_Collectives_9_s gen),
      (step1 { tile := 0, ready := true, e := some 3 } []), ({ tile := 0, ready := true, e := some 3 }), 3, by decide +kernel,
      ⟨newHereIs (by decide +kernel) (by decide +kernel) (by decide +kernel), by decide +kernel⟩, by decide +kernel⟩,
    ⟨(held1 (gang 2 [0, 1, 1]) (step1 { tile := 0, ready := true } [])), 3, ({ ph0 with offset := gen }), ch0,
      (groupRec (held1 (gang 2 [0, 1, 1]) (step1 { tile := 0, ready := true } [])) gen),
      (step1 { tile := 0, ready := true } []), ({ tile := 0, ready := true }), by decide +kernel,
      ⟨newHereIs (by decide +kernel) (by decide +kernel) (by decide +kernel), by decide +kernel⟩, by decide +kernel⟩,
    ⟨w_Collectives_11_s, 3, ({ ph0 with offset := gen }), ch0, (groupRec w_Collectives_11_s gen),
      (step1 { tile := 0, exps := [(5, 1)], ready := true } []), ({ tile := 0, exps := [(5, 1)], ready := true }),
      by decide +kernel, ⟨newHereIs (by decide +kernel) (by decide +kernel) (by decide +kernel), by decide +kernel⟩,
      by decide +kernel⟩,
    ⟨w_Collectives_12_s, gen, 1, 0, (groupRec w_Collectives_12_s gen), w_Collectives_12_g,
      ({ tile := 0, ready := true, e := some 3 }), 3,
      ((localPart w_Collectives_12_s (groupRec w_Collectives_12_s gen) w_Collectives_12_g 0 3).getD []), by decide +kernel,
      by decide +kernel, firstReadyIs (by decide +kernel) (by decide +kernel), by decide +kernel⟩,
    ⟨w_Collectives_13_s, gen, 1, 0, (groupRec w_Collectives_13_s gen), w_Collectives_13_g,
      ({ tile := 0, ready := true, e := some 3 }), 3,
      ((localPart w_Collectives_13_s (groupRec w_Collectives_13_s gen) w_Collectives_13_g 0 3).getD []), by decide +kernel,
      by decide +kernel, firstReadyIs (by decide +kernel) (by decide +kernel), by decide +kernel⟩,
    ⟨net, gen, 1, by decide +kernel⟩⟩

/-- Of the witness of an UPDATE. -/
def updS124 : State :=
  { (poke (put net [(0x1000100, 0x40100000), (0x1000104, 1)]) [(gen, leBytes 8 0x10000 ++ leBytes 8 0x20000 ++ leBytes 16 0 ++ leBytes 4 2 ++ [2, 0x24, 0, 0] ++ leBytes 4 0 ++ leBytes 4 1 ++ leBytes 8 (2 ^ 64 - 1) ++ leBytes 8 0), (0x20000, [6]), (gen + 0x3000, leBytes 4 7 ++ [0xF, 0x10, 1, 0] ++ leBytes 4 1024 ++ leBytes 2 1 ++ leBytes 2 0 ++ leBytes 8 (here (gen + 0x4000)) ++ leBytes 8 (here (gen + 0x4100)) ++ leBytes 8 (here (gen + 0x5000)) ++ leBytes 8 0x2000), (gen + 0x4000, [5]), (gen + 0x4104, [1]), (gen + 0x5000, [0xFE, 0xFF, 3]), (gen + 0x5040, leBytes 4 5 ++ leBytes 4 (2 ^ 32 - 7)), (0x40000, leBytes 4 0x3F800000 ++ leBytes 4 0x40000000), (0x70000, leBytes 4 0x3F000000 ++ leBytes 4 0x3F000000 ++ leBytes 4 0x3F000000 ++ leBytes 4 0x3F000000 ++ leBytes 4 0x3DCCCCCD ++ leBytes 4 0x40000000 ++ leBytes 4 0x322BCC77 ++ leBytes 4 0 ++ leBytes 4 0x3F800000)]) with ops := [{ opOf (.update { master := here 0x40000, m := here 0x50000, v := here 0x60000, hp := here 0x70000, red := here (gen + 0x3000), elems := 1, sliceFirst := 0, sliceCount := 1, step := 1, momFmt := 0x33, flags := 0, layer := 0 }) with asked := 2 }, { opOf (.stepCommit { step := 1, voter := here 0x30000, gateLimit := 0, commitLimit := 0 }) with id := 1, hdr := { hdr0 with stream := 4 }, work := .step [5] 9 (some 1) none (some true) none 0, asked := 2 }], opNext := 2, dome := { (poke (put net [(0x1000100, 0x40100000), (0x1000104, 1)]) [(gen, leBytes 8 0x10000 ++ leBytes 8 0x20000 ++ leBytes 16 0 ++ leBytes 4 2 ++ [2, 0x24, 0, 0] ++ leBytes 4 0 ++ leBytes 4 1 ++ leBytes 8 (2 ^ 64 - 1) ++ leBytes 8 0), (0x20000, [6]), (gen + 0x3000, leBytes 4 7 ++ [0xF, 0x10, 1, 0] ++ leBytes 4 1024 ++ leBytes 2 1 ++ leBytes 2 0 ++ leBytes 8 (here (gen + 0x4000)) ++ leBytes 8 (here (gen + 0x4100)) ++ leBytes 8 (here (gen + 0x5000)) ++ leBytes 8 0x2000), (gen + 0x4000, [5]), (gen + 0x4104, [1]), (gen + 0x5000, [0xFE, 0xFF, 3]), (gen + 0x5040, leBytes 4 5 ++ leBytes 4 (2 ^ 32 - 7)), (0x40000, leBytes 4 0x3F800000 ++ leBytes 4 0x40000000), (0x70000, leBytes 4 0x3F000000 ++ leBytes 4 0x3F000000 ++ leBytes 4 0x3F000000 ++ leBytes 4 0x3F000000 ++ leBytes 4 0x3DCCCCCD ++ leBytes 4 0x40000000 ++ leBytes 4 0x322BCC77 ++ leBytes 4 0 ++ leBytes 4 0x3F800000)]).dome with groups := [{ handle := gen + 0x3000, group := 7, step := 1, tiles := [{ tile := 0, final := true }] }] } }
/-- Of the witness of an UPDATE. -/
def updB1 : UpdateBody :=
  { master := here 0x40000, m := here 0x50000, v := here 0x60000, hp := here 0x70000, red := here (gen + 0x3000), elems := 1, sliceFirst := 0, sliceCount := 1, step := 1, momFmt := 0x33, flags := 0, layer := 0 }
/-- Of the witness of an UPDATE. -/
def updO1 : Op :=
  { opOf (.update { master := here 0x40000, m := here 0x50000, v := here 0x60000, hp := here 0x70000, red := here (gen + 0x3000), elems := 1, sliceFirst := 0, sliceCount := 1, step := 1, momFmt := 0x33, flags := 0, layer := 0 }) with asked := 2 }
/-- Of the witness of an UPDATE. -/
def updU124 : State :=
  claimAll updS124 updB1 (fullStep updS124 1)
/-- Of the witness of an UPDATE. -/
def updX124 : VaneIn :=
  okVal (vaneRead updU124 updO1 updB1) { h := parseHyper [], master := [], m := [], v := [], tiles := [] }
/-- Of the witness of an UPDATE. -/
def updE124 : List VaneElem :=
  (vaneElems (groupRec updU124 (addrOff (updB1).red)) updB1 updX124).1
/-- Of the witness of an UPDATE. -/
def updW124 : List (Nat × List Byte) :=
  vaneWrites updB1 updX124 updE124 ++ [(slotAddr updU124 0 ((shadowSlot updU124 0 (fullStep updS124 1)).getD 9),
    sliceNew updO1 updB1 0 (committedBytes updU124 (slotAddr updU124 0 (sliceCur updU124 0)) 2) updE124)]
/-- Witness of clause 1 of Steps. -/
def w_Steps_1_s : State :=
  { (poke (put net [(0x1000100, 0x40100000), (0x1000104, 1)]) [(gen, leBytes 8 0x10000 ++ leBytes 8 0x20000 ++ leBytes 16 0 ++ leBytes 4 2 ++ [2, 0x24, 0, 0] ++ leBytes 4 0 ++ leBytes 4 1 ++ leBytes 8 (2 ^ 64 - 1) ++ leBytes 8 0), (0x20000, [6]), (gen + 0x3000, leBytes 4 7 ++ [0xF, 0x10, 1, 0] ++ leBytes 4 1024 ++ leBytes 2 1 ++ leBytes 2 0 ++ leBytes 8 (here (gen + 0x4000)) ++ leBytes 8 (here (gen + 0x4100)) ++ leBytes 8 (here (gen + 0x5000)) ++ leBytes 8 0x2000), (gen + 0x4000, [5]), (gen + 0x4104, [1]), (gen + 0x5000, [0xFE, 0xFF, 3]), (gen + 0x5040, leBytes 4 5 ++ leBytes 4 (2 ^ 32 - 7)), (0x40000, leBytes 4 0x3F800000 ++ leBytes 4 0x40000000), (0x70000, leBytes 4 0x3F000000 ++ leBytes 4 0x3F000000 ++ leBytes 4 0x3F000000 ++ leBytes 4 0x3F000000 ++ leBytes 4 0x3DCCCCCD ++ leBytes 4 0x40000000 ++ leBytes 4 0x322BCC77 ++ leBytes 4 0 ++ leBytes 4 0x3F800000)]) with ops := [{ opOf (.update { master := here 0x40000, m := here 0x50000, v := here 0x60000, hp := here 0x70000, red := here (gen + 0x3000), elems := 1, sliceFirst := 0, sliceCount := 1, step := 1, momFmt := 0x33, flags := 0, layer := 0 }) with asked := 2 }, { opOf (.stepCommit { step := 1, voter := here 0x30000, gateLimit := 0, commitLimit := 0 }) with id := 1, hdr := { hdr0 with stream := 4 }, work := .step [5] 9 (some 1) none (some false) none 0, asked := 2 }], opNext := 2, dome := { (poke (put net [(0x1000100, 0x40100000), (0x1000104, 1)]) [(gen, leBytes 8 0x10000 ++ leBytes 8 0x20000 ++ leBytes 16 0 ++ leBytes 4 2 ++ [2, 0x24, 0, 0] ++ leBytes 4 0 ++ leBytes 4 1 ++ leBytes 8 (2 ^ 64 - 1) ++ leBytes 8 0), (0x20000, [6]), (gen + 0x3000, leBytes 4 7 ++ [0xF, 0x10, 1, 0] ++ leBytes 4 1024 ++ leBytes 2 1 ++ leBytes 2 0 ++ leBytes 8 (here (gen + 0x4000)) ++ leBytes 8 (here (gen + 0x4100)) ++ leBytes 8 (here (gen + 0x5000)) ++ leBytes 8 0x2000), (gen + 0x4000, [5]), (gen + 0x4104, [1]), (gen + 0x5000, [0xFE, 0xFF, 3]), (gen + 0x5040, leBytes 4 5 ++ leBytes 4 (2 ^ 32 - 7)), (0x40000, leBytes 4 0x3F800000 ++ leBytes 4 0x40000000), (0x70000, leBytes 4 0x3F000000 ++ leBytes 4 0x3F000000 ++ leBytes 4 0x3F000000 ++ leBytes 4 0x3F000000 ++ leBytes 4 0x3DCCCCCD ++ leBytes 4 0x40000000 ++ leBytes 4 0x322BCC77 ++ leBytes 4 0 ++ leBytes 4 0x3F800000)]).dome with groups := [{ handle := gen + 0x3000, group := 7, step := 1, tiles := [{ tile := 0, final := true }] }] } }
/-- Witness of clause 1 of Steps. -/
def w_Steps_1_o : Op :=
  { opOf (.update { master := here 0x40000, m := here 0x50000, v := here 0x60000, hp := here 0x70000, red := here (gen + 0x3000), elems := 1, sliceFirst := 0, sliceCount := 1, step := 1, momFmt := 0x33, flags := 0, layer := 0 }) with asked := 2 }
/-- Witness of clause 1 of Steps. -/
def w_Steps_1_b : UpdateBody :=
  { master := here 0x40000, m := here 0x50000, v := here 0x60000, hp := here 0x70000, red := here (gen + 0x3000), elems := 1, sliceFirst := 0, sliceCount := 1, step := 1, momFmt := 0x33, flags := 0, layer := 0 }
/-- Witness of clause 2 of Steps. -/
def w_Steps_2_s : State :=
  { (poke (put net [(0x1000100, 0x40100000), (0x1000104, 1)]) [(gen, leBytes 8 0x10000 ++ leBytes 8 0x20000 ++ leBytes 16 0 ++ leBytes 4 2 ++ [2, 0x24, 0, 0] ++ leBytes 4 0 ++ leBytes 4 1 ++ leBytes 8 (2 ^ 64 - 1) ++ leBytes 8 0), (0x20000, [6]), (gen + 0x3000, leBytes 4 7 ++ [0xF, 0x10, 1, 0] ++ leBytes 4 1024 ++ leBytes 2 1 ++ leBytes 2 0 ++ leBytes 8 (here (gen + 0x4000)) ++ leBytes 8 (here (gen + 0x4100)) ++ leBytes 8 (here (gen + 0x5000)) ++ leBytes 8 0x2000), (gen + 0x4000, [5]), (gen + 0x4104, [1]), (gen + 0x5000, [0xFE, 0xFF, 3]), (gen + 0x5040, leBytes 4 5 ++ leBytes 4 (2 ^ 32 - 7)), (0x40000, leBytes 4 0x3F800000 ++ leBytes 4 0x40000000), (0x70000, leBytes 4 0x3F000000 ++ leBytes 4 0x3F000000 ++ leBytes 4 0x3F000000 ++ leBytes 4 0x3F000000 ++ leBytes 4 0x3DCCCCCD ++ leBytes 4 0x40000000 ++ leBytes 4 0x322BCC77 ++ leBytes 4 0 ++ leBytes 4 0x3F800000)]) with ops := [{ opOf (.update { master := here 0x40000, m := here 0x50000, v := here 0x60000, hp := here 0x70000, red := here (gen + 0x3000), elems := 1, sliceFirst := 0, sliceCount := 1, step := 1, momFmt := 0x33, flags := 0, layer := 0 }) with asked := 2 }, { opOf (.stepCommit { step := 1, voter := here 0x30000, gateLimit := 0, commitLimit := 0 }) with id := 1, hdr := { hdr0 with stream := 4 }, work := .step [5] 9 (some 1) none none none 0, asked := 2 }], opNext := 2, dome := { (poke (put net [(0x1000100, 0x40100000), (0x1000104, 1)]) [(gen, leBytes 8 0x10000 ++ leBytes 8 0x20000 ++ leBytes 16 0 ++ leBytes 4 2 ++ [2, 0x24, 0, 0] ++ leBytes 4 0 ++ leBytes 4 1 ++ leBytes 8 (2 ^ 64 - 1) ++ leBytes 8 0), (0x20000, [6]), (gen + 0x3000, leBytes 4 7 ++ [0xF, 0x10, 1, 0] ++ leBytes 4 1024 ++ leBytes 2 1 ++ leBytes 2 0 ++ leBytes 8 (here (gen + 0x4000)) ++ leBytes 8 (here (gen + 0x4100)) ++ leBytes 8 (here (gen + 0x5000)) ++ leBytes 8 0x2000), (gen + 0x4000, [5]), (gen + 0x4104, [1]), (gen + 0x5000, [0xFE, 0xFF, 3]), (gen + 0x5040, leBytes 4 5 ++ leBytes 4 (2 ^ 32 - 7)), (0x40000, leBytes 4 0x3F800000 ++ leBytes 4 0x40000000), (0x70000, leBytes 4 0x3F000000 ++ leBytes 4 0x3F000000 ++ leBytes 4 0x3F000000 ++ leBytes 4 0x3F000000 ++ leBytes 4 0x3DCCCCCD ++ leBytes 4 0x40000000 ++ leBytes 4 0x322BCC77 ++ leBytes 4 0 ++ leBytes 4 0x3F800000)]).dome with groups := [{ handle := gen + 0x3000, group := 7, step := 1, tiles := [{ tile := 0, final := true }] }] } }
/-- Witness of clause 2 of Steps. -/
def w_Steps_2_o : Op :=
  { opOf (.update { master := here 0x40000, m := here 0x50000, v := here 0x60000, hp := here 0x70000, red := here (gen + 0x3000), elems := 1, sliceFirst := 0, sliceCount := 1, step := 1, momFmt := 0x33, flags := 0, layer := 0 }) with asked := 2 }
/-- Witness of clause 2 of Steps. -/
def w_Steps_2_b : UpdateBody :=
  { master := here 0x40000, m := here 0x50000, v := here 0x60000, hp := here 0x70000, red := here (gen + 0x3000), elems := 1, sliceFirst := 0, sliceCount := 1, step := 1, momFmt := 0x33, flags := 0, layer := 0 }
/-- Witness of clause 3 of Steps. -/
def w_Steps_3_s : State :=
  withOp ({ (linkIn (put rest [(0x820014, 0x80000000), (0x820018, 0x80000001), (0x82000C, 0x80000002)]) 3 { st := .up, passed := true, partnerChip := 6 }) with dome := { (linkIn (put rest [(0x820014, 0x80000000), (0x820018, 0x80000001), (0x82000C, 0x80000002)]) 3 { st := .up, passed := true, partnerChip := 6 }).dome with health := 0 } }) ({ opOf (.stepCommit { step := 1, voter := here 0x30000, gateLimit := 0, commitLimit := 0 }) with id := 0, hdr := { hdr0 with stream := 4 }, work := .step [5, 3] 9 none none none none 0, asked := 2 })
/-- Witness of clause 3 of Steps. -/
def w_Steps_3_o : Op :=
  { opOf (.stepCommit { step := 1, voter := here 0x30000, gateLimit := 0, commitLimit := 0 }) with id := 0, hdr := { hdr0 with stream := 4 }, work := .step [5, 3] 9 none none none none 0, asked := 2 }
/-- Witness of clause 4 of Steps. -/
def w_Steps_4_s : State :=
  withOp ({ (net) with dome := { (net).dome with health := 0 } }) ({ opOf (.stepCommit { step := 1, voter := here 0x30000, gateLimit := 0, commitLimit := 0 }) with id := 0, hdr := { hdr0 with stream := 4 }, work := .step [5] 9 none none none none 0, asked := 2 })
/-- Witness of clause 4 of Steps. -/
def w_Steps_4_o : Op :=
  { opOf (.stepCommit { step := 1, voter := here 0x30000, gateLimit := 0, commitLimit := 0 }) with id := 0, hdr := { hdr0 with stream := 4 }, work := .step [5] 9 none none none none 0, asked := 2 }
/-- Witness of clause 5 of Steps. -/
def w_Steps_5_s : State :=
  withOp (linkIn (put rest [(0x820014, 0x80000000), (0x820018, 0x80000001), (0x82000C,
    0x80000002)]) 3 { st := .up, passed := true, partnerChip := 6 }) ({ opOf (.stepCommit { step := 1, voter := here 0x30000, gateLimit := 0, commitLimit := 0 }) with id := 0, hdr := { hdr0 with stream := 4 }, work := .step [5] 9 (some 3) none (some true) none 0, asked := 2 })
/-- Witness of clause 5 of Steps. -/
def w_Steps_5_o : Op :=
  { opOf (.stepCommit { step := 1, voter := here 0x30000, gateLimit := 0, commitLimit := 0 }) with id := 0, hdr := { hdr0 with stream := 4 }, work := .step [5] 9 (some 3) none (some true) none 0, asked := 2 }
/-- Witness of clause 6 of Steps. -/
def w_Steps_6_s : State :=
  withOp ({ net with mif := { stoppedDies := [2] } }) ({ opOf (.stepCommit { step := 1, voter := here 0x30000, gateLimit := 0, commitLimit := 0 }) with id := 0, hdr := { hdr0 with stream := 4 }, work := .step [5] 9 none none none none 0, asked := 2 })
/-- Witness of clause 6 of Steps. -/
def w_Steps_6_o : Op :=
  { opOf (.stepCommit { step := 1, voter := here 0x30000, gateLimit := 0, commitLimit := 0 }) with id := 0, hdr := { hdr0 with stream := 4 }, work := .step [5] 9 none none none none 0, asked := 2 }
/-- Witness of clause 7 of Steps. -/
def w_Steps_7_s : State :=
  withOp ({ net with time := { net.time with keep := 9000000 } }) ({ opOf (.stepCommit { step := 1, voter := here 0x30000, gateLimit := 0, commitLimit := 0 }) with id := 0, hdr := { hdr0 with stream := 4 }, work := .step [5, 3] 9 (some 3) none none none 4, asked := 2 })
/-- Witness of clause 7 of Steps. -/
def w_Steps_7_o : Op :=
  { opOf (.stepCommit { step := 1, voter := here 0x30000, gateLimit := 0, commitLimit := 0 }) with id := 0, hdr := { hdr0 with stream := 4 }, work := .step [5, 3] 9 (some 3) none none none 4, asked := 2 }
/-- Witness of clause 8 of Steps. -/
def w_Steps_8_s : State :=
  withOp ({ net with time := { net.time with keep := 9000000 } }) ({ opOf (.stepCommit { step := 1, voter := here 0x30000, gateLimit := 0, commitLimit := 0 }) with id := 0, hdr := { hdr0 with stream := 4 }, work := .step [5, 3] 9 (some 3) none (some true) none 4, asked := 2 })
/-- Witness of clause 8 of Steps. -/
def w_Steps_8_o : Op :=
  { opOf (.stepCommit { step := 1, voter := here 0x30000, gateLimit := 0, commitLimit := 0 }) with id := 0, hdr := { hdr0 with stream := 4 }, work := .step [5, 3] 9 (some 3) none (some true) none 4, asked := 2 }
/-- Witness of clause 9 of Steps. -/
def w_Steps_9_s : State :=
  withOp (net) ({ opOf (.stepCommit { step := 1, voter := here 0x30000, gateLimit := 0, commitLimit := 0 }) with id := 0, hdr := { hdr0 with stream := 4 }, work := .step [5, 3] 9 (some 3) (some 8) (some true) none 4, asked := 2 })
/-- Witness of clause 9 of Steps. -/
def w_Steps_9_o : Op :=
  { opOf (.stepCommit { step := 1, voter := here 0x30000, gateLimit := 0, commitLimit := 0 }) with id := 0, hdr := { hdr0 with stream := 4 }, work := .step [5, 3] 9 (some 3) (some 8) (some true) none 4, asked := 2 }
/-- Witness of clause 10 of Steps. -/
def w_Steps_10_s : State :=
  withOp (net) ({ opOf (.stepCommit { step := 1, voter := here 0x30000, gateLimit := 0, commitLimit := 0 }) with id := 0, hdr := { hdr0 with stream := 4 }, work := .step [5] 9 (some 3) (some 8) (some true) (some 4) 0, asked := 2 })
/-- Witness of clause 10 of Steps. -/
def w_Steps_10_o : Op :=
  { opOf (.stepCommit { step := 1, voter := here 0x30000, gateLimit := 0, commitLimit := 0 }) with id := 0, hdr := { hdr0 with stream := 4 }, work := .step [5] 9 (some 3) (some 8) (some true) (some 4) 0, asked := 2 }
/-- Witness of clause 11 of Steps. -/
def w_Steps_11_s : State :=
  withOp (net) ({ opOf (.stepCommit { step := 1, voter := here 0x30000, gateLimit := 0, commitLimit := 0 }) with id := 0, hdr := { hdr0 with stream := 4 }, work := .step [5] 9 (some 3) (some 8) (some true) (some 40000) 0, asked := 2 })
/-- Witness of clause 11 of Steps. -/
def w_Steps_11_o : Op :=
  { opOf (.stepCommit { step := 1, voter := here 0x30000, gateLimit := 0, commitLimit := 0 }) with id := 0, hdr := { hdr0 with stream := 4 }, work := .step [5] 9 (some 3) (some 8) (some true) (some 40000) 0, asked := 2 }
/-- Witness of clause 12 of Steps. -/
def w_Steps_12_s : State :=
  withOp (net) ({ opOf (.stepCommit { step := 1, voter := here 0x30000, gateLimit := 0, commitLimit := 0 }) with id := 0, hdr := { hdr0 with stream := 4 }, work := .step [5, 6] 9 (some 3) none none none 0, asked := 2 })
/-- Witness of clause 12 of Steps. -/
def w_Steps_12_o : Op :=
  { opOf (.stepCommit { step := 1, voter := here 0x30000, gateLimit := 0, commitLimit := 0 }) with id := 0, hdr := { hdr0 with stream := 4 }, work := .step [5, 6] 9 (some 3) none none none 0, asked := 2 }
/-- Witness of clause 13 of Steps. -/
def w_Steps_13_s : State :=
  withOp (net) ({ opOf (.stepCommit { step := 1, voter := here 0x30000, gateLimit := 0, commitLimit := 0 }) with id := 0, hdr := { hdr0 with stream := 4 }, work := .step [5, 6] 9 (some 3) (some 4) (some true) none 0, asked := 2 })
/-- Witness of clause 13 of Steps. -/
def w_Steps_13_o : Op :=
  { opOf (.stepCommit { step := 1, voter := here 0x30000, gateLimit := 0, commitLimit := 0 }) with id := 0, hdr := { hdr0 with stream := 4 }, work := .step [5, 6] 9 (some 3) (some 4) (some true) none 0, asked := 2 }
/-- Witness of clause 14 of Steps. -/
def w_Steps_14_s : State :=
  withOp (net) ({ opOf (.stepCommit { step := 1, voter := here 0x30000, gateLimit := 0, commitLimit := 0 }) with id := 0, hdr := { hdr0 with stream := 4 }, work := .step [5, 6] 9 (some 3) (some 4) (some true) none 0, asked := 2 })
/-- Witness of clause 14 of Steps. -/
def w_Steps_14_o : Op :=
  { opOf (.stepCommit { step := 1, voter := here 0x30000, gateLimit := 0, commitLimit := 0 }) with id := 0, hdr := { hdr0 with stream := 4 }, work := .step [5, 6] 9 (some 3) (some 4) (some true) none 0, asked := 2 }
/-- Witness of clause 16 of Steps. -/
def w_Steps_16_s : State :=
  withOp (net) ({ opOf (.stepCommit { step := 1, voter := here 0x30000, gateLimit := 0, commitLimit := 0 }) with id := 0, hdr := { hdr0 with stream := 4 }, work := .step [5, 6] 9 none none none none 0, asked := 2 })
/-- Witness of clause 16 of Steps. -/
def w_Steps_16_o : Op :=
  { opOf (.stepCommit { step := 1, voter := here 0x30000, gateLimit := 0, commitLimit := 0 }) with id := 0, hdr := { hdr0 with stream := 4 }, work := .step [5, 6] 9 none none none none 0, asked := 2 }
/-- Witness of clause 17 of Steps. -/
def w_Steps_17_s : State :=
  put ({ (queued) with dome := { (queued).dome with steps := [{ step := 3, outcome := some .ok, counters := [1, 2, 3, 4, 5, 6, 7, 8], gate := 9 }, { step := 4 }] } }) [(0x100018,
    1)]
/-- Witness of clause 19 of Steps. -/
def w_Steps_19_a : Nat :=
  regBits (put net [(0x40000C, 0xC0400001)]) 0x40000C 30 12 * 4096 + (fieldAt (leBytes 8 3 ++ leBytes 56 7) 0 8 % 2 * 16384 +
    6) * 64
theorem hyps_Steps :
  (∃ (s : State) (u : State) (o : Op) (b : UpdateBody) (x : VaneIn) (k : Nat) (es : List VaneElem) (ws : List (Nat × List Byte)),
    Sound s = true ∧
    UpdateAmong s o b ∧
    s.dome.stopped = false ∧
    o.hdr.txn = 0 ∧
    telKept s = false ∧
    b.sliceCount = 1 ∧
    ownedFinal s (addrOff b.red) (fullStep s b.step) = some true ∧
    gateOf s (fullStep s b.step) = some true ∧
    u = claimAll s b (fullStep s b.step) ∧
    vaneRead u o b = .ok x ∧
    sliceBytes u b.sliceFirst = 2 * b.elems ∧
    shadowSlot u b.sliceFirst (fullStep s b.step) = some k ∧
    es = (vaneElems (groupRec u (addrOff b.red)) b x).1 ∧
    ws = vaneWrites b x es ++ [(slotAddr u b.sliceFirst k,
      sliceNew o b b.sliceFirst (committedBytes u (slotAddr u b.sliceFirst (sliceCur u b.sliceFirst)) (2 * b.elems)) es)] ∧
    AllInPlace u ws) ∧
  (∃ (s : State) (o : Op) (b : UpdateBody),
    UpdateAmong s o b ∧
    s.dome.stopped = false ∧
    gateOf s (fullStep s b.step) = some false) ∧
  (∃ (s : State) (o : Op) (b : UpdateBody),
    UpdateAmong s o b ∧
    NoDead s ∧
    (∀ p ∈ s.ops, p = o ∨ 1 < p.asked) ∧
    gateOf s (fullStep s b.step) = none ∧
    ownedFinal s (addrOff b.red) (fullStep s b.step) ≠ some false) ∧
  (∃ (s : State) (o : Op) (b : StepCommitBody) (vs : List Nat) (d : Nat),
    Sound s = true ∧
    StepIs s o b (.step vs d none none none none 0) ∧
    noVote s = false ∧
    finalMissing s b.step = false ∧
    isSelf s (voteRoot vs) = false ∧
    RoomTo s (voteRoot vs) 0 1) ∧
  (∃ (s : State) (o : Op) (b : StepCommitBody) (d : Nat),
    StepIs s o b (.step [ownChip s] d none none none none 0) ∧
    noVote s = false ∧
    finalMissing s b.step = false ∧
    s.dome.votes = [] ∧
    s.dome.replicas = [] ∧
    s.dome.groups = [] ∧
    o.hdr.txn = 0 ∧
    txnOf s 0 = none ∧
    ownChip s < 0x4000 ∧
    (∀ i, i < verCount s → shadowSlot s i b.step = none)) ∧
  (∃ (s : State) (o : Op) (b : StepCommitBody) (vs : List Nat) (d : Nat) (gc : Nat) (c : Nat),
    Sound s = true ∧
    StepIs s o b (.step vs d (some gc) none (some true) none c) ∧
    noVote s = false ∧
    1 < o.asked ∧
    ackAwaited o = false ∧
    o.hdr.txn = 0 ∧
    txnOf s 0 = none ∧
    natBits s.dome.health 0 0 = 0 ∧
    s.flt.halted = false ∧
    b.step ∉ s.dome.workFailed ∧
    ((vs = [ownChip s] ∧ ownChip s < 0x4000 ∧ s.dome.votes = []) ∨ (isSelf s (voteRoot vs) = false ∧
      RoomTo s (voteRoot vs) 0 1))) ∧
  (∃ (s : State) (o : Op) (b : StepCommitBody) (w : Work),
    StepIs s o b w ∧
    NoDead s ∧
    1 < o.asked ∧
    noVote s = true) ∧
  (∃ (s : State) (o : Op) (b : StepCommitBody) (vs : List Nat) (d : Nat) (gc : Nat) (c : Nat) (cc : Option Nat) (f : Option Nat),
    StepIs s o b (.step vs d (some gc) cc none f c) ∧
    voteStart o + voteLimit b.gateLimit ≤ mtime s ∧
    o.hdr.txn = 0 ∧
    txnOf s 0 = none ∧
    s.dome.groups = [] ∧
    (∀ i, i < verCount s → shadowSlot s i b.step = none)) ∧
  (∃ (s : State) (o : Op) (b : StepCommitBody) (vs : List Nat) (d : Nat) (c : Nat) (gc : Option Nat) (cc : Option Nat),
    StepIs s o b (.step vs d gc cc (some true) none c) ∧
    voteStart o + voteLimit b.commitLimit ≤ mtime s ∧
    o.hdr.txn = 0 ∧
    txnOf s 0 = none ∧
    s.dome.groups = [] ∧
    (∀ i, i < verCount s → shadowSlot s i b.step = none)) ∧
  (∃ (s : State) (o : Op) (b : StepCommitBody) (w : Work),
    StepIs s o b w ∧
    NoDead s ∧
    1 < o.asked ∧
    mtime s < voteStart o + voteLimit b.gateLimit ∧
    mtime s < voteStart o + voteLimit b.commitLimit) ∧
  (∃ (s : State) (o : Op) (b : StepCommitBody) (vs : List Nat) (d : Nat) (c : Nat) (tk : Nat) (gc : Option Nat) (cc : Option Nat) (g : Option Bool),
    Sound s = true ∧
    StepIs s o b (.step vs d gc cc g (some tk) c) ∧
    tk ≤ mtime s ∧
    o.hdr.txn = 0 ∧
    txnOf s 0 = none ∧
    s.dome.heldWrites = []) ∧
  (∃ (s : State) (o : Op) (b : StepCommitBody) (vs : List Nat) (d : Nat) (c : Nat) (tk : Nat) (gc : Option Nat) (cc : Option Nat) (g : Option Bool),
    StepIs s o b (.step vs d gc cc g (some tk) c) ∧
    NoDead s ∧
    1 < o.asked ∧
    mtime s < tk) ∧
  (∃ (s : State) (l : Fin 96) (h : PktHdr) (o : Op) (b : StepCommitBody) (vs : List Nat) (d : Nat) (gc : Nat) (c : Nat) (v : VoteMsg),
    StepIs s o b (.step vs d (some gc) none none none c) ∧
    NewHere s l.val h 7 ∧
    v.result = true ∧
    v.commit = false ∧
    v.step = b.step ∧
    s.dome.replicas = [] ∧
    s.dome.groups = [] ∧
    o.hdr.txn = 0 ∧
    txnOf s 0 = none ∧
    (∀ i, i < verCount s → shadowSlot s i b.step = none)) ∧
  (∃ (s : State) (l : Fin 96) (h : PktHdr) (o : Op) (b : StepCommitBody) (vs : List Nat) (d : Nat) (gc : Nat) (cc : Nat) (c : Nat) (v : VoteMsg),
    StepIs s o b (.step vs d (some gc) (some cc) (some true) none c) ∧
    NewHere s l.val h 7 ∧
    v.result = true ∧
    v.commit = true ∧
    v.good = true ∧
    v.step = b.step ∧
    o.hdr.txn = 0 ∧
    txnOf s 0 = none ∧
    s.dome.heldWrites = []) ∧
  (∃ (s : State) (l : Fin 96) (h : PktHdr) (o : Op) (b : StepCommitBody) (vs : List Nat) (d : Nat) (gc : Nat) (cc : Nat) (c : Nat) (v : VoteMsg),
    StepIs s o b (.step vs d (some gc) (some cc) (some true) none c) ∧
    NewHere s l.val h 7 ∧
    v.result = true ∧
    v.commit = true ∧
    v.good = false ∧
    v.step = b.step ∧
    o.hdr.txn = 0 ∧
    txnOf s 0 = none ∧
    s.dome.groups = []) ∧
  (∃ (s : State) (l : Fin 96) (h : PktHdr) (v : VoteMsg),
    NoWork s ∧
    NewHere s l.val h 7 ∧
    v.result = true ∧
    v.good = false ∧
    natBits v.causes 0 0 = 1) ∧
  (∃ (s : State) (l : Fin 96) (h : PktHdr) (o : Op) (b : StepCommitBody) (vs : List Nat) (d : Nat) (c : Nat) (x : Nat) (gc : Option Nat) (cc : Option Nat) (f : Option Nat) (g : Option Bool) (v : VoteMsg),
    StepIs s o b (.step vs d gc cc g f c) ∧
    NewHere s l.val h 7 ∧
    v.result = false ∧
    1 < o.asked ∧
    recMissing s o = none ∧
    x ∈ vs ∧
    x ≠ h.src ∧
    (∀ y ∈ s.dome.votes, y.1 ≠ x ∧ y.1 ≠ h.src)) ∧
  (∃ (s : State) (st : StepTel) (q : Nat),
    Sound s = true ∧
    s.dome.steps.find? (fun x => x.step == st.step) = some st ∧
    st.outcome ≠ none ∧
    (∀ o ∈ s.ops, o.step = some st.step → o.completed = true) ∧
    s.flt.sealed = false ∧
    regBits s 0x400008 31 31 = 0 ∧
    regBits s 0x400020 31 31 = 0 ∧
    q = regBits s 0x100018 5 0 ∧
    eqEnabled s q = true ∧
    1 ≤ eqFree s q) ∧
  (∃ (s : State) (n : Nat),
    (∀ x ∈ s.dome.steps, x.step = n → x.outcome = none)) ∧
  (∃ (s : State) (l : Fin 96) (h : PktHdr) (rec : List Byte) (a : Nat),
    Sound s = true ∧
    NoWork s ∧
    AtHome s l.val h 0x14 ∧
    a = regBits s 0x40000C 30 12 * 4096 + (fieldAt rec 0 8 % 2 * 16384 + h.src) * 64 ∧
    rec.length = 64 ∧
    regBits s 0x40000C 30 12 ≠ 0 ∧
    h.src < 16384 ∧
    inPart s 5 a 64 = true ∧
    rangeStopped s (lanBase + a) 64 = false) ∧
  (∃ (s : State) (l : Fin 96) (h : PktHdr),
    Sound s = true ∧
    NoWork s ∧
    AtHome s l.val h 0x14 ∧
    (regBits s 0x40000C 30 12 = 0 ∨ 16384 ≤ h.src)) :=
  ⟨⟨updS124, updU124, updO1, updB1, updX124, ((shadowSlot updU124 0 (fullStep updS124 1)).getD 9), updE124, updW124,
    first8 (by decide +kernel) ⟨rfl, okIs (by decide +kernel), by decide +kernel, by decide +kernel, rfl, rfl,
    by decide +kernel⟩⟩,
    ⟨w_Steps_1_s, w_Steps_1_o, w_Steps_1_b, by decide +kernel⟩,
    ⟨w_Steps_2_s, w_Steps_2_o, w_Steps_2_b, by decide +kernel⟩,
    ⟨w_Steps_3_s, w_Steps_3_o, ({ step := 1, voter := here 0x30000, gateLimit := 0, commitLimit := 0 }), ([5, 3]), 9,
      by decide +kernel⟩,
    ⟨w_Steps_4_s, w_Steps_4_o, ({ step := 1, voter := here 0x30000, gateLimit := 0, commitLimit := 0 }), 9,
      by decide +kernel⟩,
    ⟨w_Steps_5_s, w_Steps_5_o, ({ step := 1, voter := here 0x30000, gateLimit := 0, commitLimit := 0 }), ([5]), 9, 3, 0,
      by decide +kernel⟩,
    ⟨w_Steps_6_s, w_Steps_6_o, ({ step := 1, voter := here 0x30000, gateLimit := 0, commitLimit := 0 }),
      (.step [5] 9 none none none none 0), by decide +kernel⟩,
    ⟨w_Steps_7_s, w_Steps_7_o, ({ step := 1, voter := here 0x30000, gateLimit := 0, commitLimit := 0 }), ([5, 3]), 9, 3, 4,
      none, none, by decide +kernel⟩,
    ⟨w_Steps_8_s, w_Steps_8_o, ({ step := 1, voter := here 0x30000, gateLimit := 0, commitLimit := 0 }), ([5, 3]), 9, 4,
      (some 3), none, by decide +kernel⟩,
    ⟨w_Steps_9_s, w_Steps_9_o, ({ step := 1, voter := here 0x30000, gateLimit := 0, commitLimit := 0 }), (.step [5,
      3] 9 (some 3) (some 8) (some true) none 4), by decide +kernel⟩,
    ⟨w_Steps_10_s, w_Steps_10_o, ({ step := 1, voter := here 0x30000, gateLimit := 0, commitLimit := 0 }), ([5]), 9, 0, 4,
      (some 3), (some 8), ((some true)), by decide +kernel⟩,
    ⟨w_Steps_11_s, w_Steps_11_o, ({ step := 1, voter := here 0x30000, gateLimit := 0, commitLimit := 0 }), ([5]), 9, 0, 40000,
      (some 3), (some 8), (some true), by decide +kernel⟩,
    ⟨w_Steps_12_s, 3, ({ ph0 with kind := 7 }), w_Steps_12_o,
      ({ step := 1, voter := here 0x30000, gateLimit := 0, commitLimit := 0 }), ([5, 6]), 9, 3, 0,
      ({ step := 1, commit := false, result := true, good := true, causes := 0, flipTick := 0 }), by decide +kernel,
      newHereIs (by decide +kernel) (by decide +kernel) (by decide +kernel), by decide +kernel⟩,
    ⟨w_Steps_13_s, 3, ({ ph0 with kind := 7 }), w_Steps_13_o,
      ({ step := 1, voter := here 0x30000, gateLimit := 0, commitLimit := 0 }), ([5, 6]), 9, 3, 4, 0,
      ({ step := 1, commit := true, result := true, good := true, causes := 0, flipTick := 5 }), by decide +kernel,
      newHereIs (by decide +kernel) (by decide +kernel) (by decide +kernel), by decide +kernel⟩,
    ⟨w_Steps_14_s, 3, ({ ph0 with kind := 7 }), w_Steps_14_o,
      ({ step := 1, voter := here 0x30000, gateLimit := 0, commitLimit := 0 }), ([5, 6]), 9, 3, 4, 0,
      ({ step := 1, commit := true, result := true, good := false, causes := 0, flipTick := 5 }), by decide +kernel,
      newHereIs (by decide +kernel) (by decide +kernel) (by decide +kernel), by decide +kernel⟩,
    ⟨({ (net) with dome := { (net).dome with health := 2 } }), 3, ({ ph0 with kind := 7 }),
      ({ step := 1, commit := true, result := true, good := false, causes := 3, flipTick := 0 }), by decide +kernel,
      newHereIs (by decide +kernel) (by decide +kernel) (by decide +kernel), by decide +kernel⟩,
    ⟨w_Steps_16_s, 3, ({ ph0 with kind := 7 }), w_Steps_16_o,
      ({ step := 1, voter := here 0x30000, gateLimit := 0, commitLimit := 0 }), ([5, 6]), 9, 0, 5, none, none, none, none,
      ({ step := 1, commit := true, result := false, good := true, causes := 0, flipTick := 0 }), by decide +kernel,
      newHereIs (by decide +kernel) (by decide +kernel) (by decide +kernel), by decide +kernel⟩,
    ⟨w_Steps_17_s, ({ step := 3, outcome := some .ok, counters := [1, 2, 3, 4, 5, 6, 7, 8], gate := 9 }), 1,
      first4 (by decide +kernel) (first2 (by decide +kernel) ⟨by decide +kernel, rfl, by decide +kernel⟩)⟩,
    ⟨({ (queued) with dome := { (queued).dome with steps := [{ step := 4 }] } }), 4, by decide +kernel⟩,
    ⟨(put net [(0x40000C, 0xC0400001)]), 3, ({ ph0 with kind := 20 }), (leBytes 8 3 ++ leBytes 56 7), w_Steps_19_a,
      by decide +kernel⟩,
    ⟨net, 3, ({ ph0 with kind := 20 }), by decide +kernel⟩⟩

/-- Witness of clause 4 of WamosReads. -/
def w_WamosReads_4_s : State :=
  fltOf (fltOf (put job [(0x20,
    0x8001C200)]) fun f => { f with log := [({ die := 1, unit := 2, kind := 3, count := 4, time := 5, addr := 6 }, 2), ({ die := 0, unit := 9, kind := 0x48, count := 1, time := 7, addr := 0x123456789 }, 4)], repairs := [(0x105, 0xFFFF), (0x2003, 0x2041)] }) fun f => { f with sealed := true }
/-- Witness of clause 9 of WamosReads. -/
def w_WamosReads_9_s : State :=
  fltOf (fltOf (put job [(0x20,
    0x8001C200)]) fun f => { f with log := [({ die := 1, unit := 2, kind := 3, count := 4, time := 5, addr := 6 }, 2), ({ die := 0, unit := 9, kind := 0x48, count := 1, time := 7, addr := 0x123456789 }, 4)], repairs := [(0x105, 0xFFFF), (0x2003, 0x2041)] }) fun f => { f with sealed := true }
/-- Witness of clause 12 of WamosReads. -/
def w_WamosReads_12_s : State :=
  { (put up [(0x20, 0x8001C200)]) with wamos := { (put up [(0x20, 0x8001C200)]).wamos with line := asciiOf "rd 0x20_0000 2" } }
/-- Witness of clause 13 of WamosReads. -/
def w_WamosReads_13_s : State :=
  { (put up [(0x20, 0x8001C200)]) with wamos := { (put up [(0x20, 0x8001C200)]).wamos with line := List.replicate 601 72 } }
theorem hyps_WamosReads :
  (∃ (s : State) (c : Instr),
    wamosCommand c = true ∧
    wamosRuns s = false) ∧
  (∃ (s : State),
    wamosRuns s = true) ∧
  (∃ (s : State) (off : Nat) (n : Nat),
    wamosRuns s = true ∧
    1 ≤ n ∧
    n ≤ 64 ∧
    off % 4 = 0 ∧
    off + 4 * n ≤ 0x4000000 ∧
    (s.flt.sealed = false ∨ off + 4 * n ≤ 0x100000 ∨ (0x200000 ≤ off ∧ off + 4 * n ≤ 0x300000))) ∧
  (∃ (s : State) (off : Nat) (n : Nat),
    wamosRuns s = true ∧
    (n = 0 ∨ 64 < n ∨ off % 4 ≠ 0 ∨ 0x4000000 < off + 4 * n)) ∧
  (∃ (s : State) (off : Nat) (n : Nat),
    wamosRuns s = true ∧
    s.flt.sealed = true ∧
    1 ≤ n ∧
    n ≤ 64 ∧
    off % 4 = 0 ∧
    off + 4 * n ≤ 0x4000000 ∧
    0x100000 < off + 4 * n ∧
    (off < 0x200000 ∨ 0x300000 < off + 4 * n)) ∧
  (∃ (s : State) (n : Nat),
    wamosRuns s = true ∧
    1 ≤ n ∧
    n ≤ 4096) ∧
  (∃ (s : State) (n : Nat),
    wamosRuns s = true ∧
    (n = 0 ∨ 4096 < n)) ∧
  (∃ (s : State),
    WamosOpen s) ∧
  (∃ (s : State),
    WamosOpen s) ∧
  (∃ (s : State),
    wamosRuns s = true ∧
    s.flt.sealed = true) ∧
  (∃ (s : State) (c : Byte),
    wamosRuns s = true ∧
    c ≠ 13 ∧
    c ≠ 10) ∧
  (∃ (s : State) (c : Byte),
    wamosRuns s = true ∧
    (c = 13 ∨ c = 10) ∧
    s.wamos.line.length ≤ 600 ∧
    lineWords s.wamos.line = []) ∧
  (∃ (s : State) (c : Byte) (x : Instr),
    wamosRuns s = true ∧
    (c = 13 ∨ c = 10) ∧
    s.wamos.line.length ≤ 600 ∧
    Spells (lineWords s.wamos.line) x) ∧
  (∃ (s : State) (c : Byte),
    wamosRuns s = true ∧
    (c = 13 ∨ c = 10) ∧
    600 < s.wamos.line.length) ∧
  (∃ (s : State) (c : Byte) (w : List Byte) (ws : List (List Byte)),
    wamosRuns s = true ∧
    (c = 13 ∨ c = 10) ∧
    s.wamos.line.length ≤ 600 ∧
    lineWords s.wamos.line = w :: ws ∧
    w ∉ ["help", "id", "rd", "log", "ctr", "chal", "unlock", "lock", "wr", "baud", "repair", "reset", "lc"].map asciiOf) ∧
  (∃ (gs : List (List Byte)) (token : List Byte),
    typedToken gs = some token) ∧
  (∃ (gs : List (List Byte)) (token : List Byte) (x : List Byte) (g : Nat) (v : Nat),
    typedToken gs = some token ∧
    gs[g]? = some x ∧
    digitsValue 16 x = some v) :=
  ⟨⟨(finOf (put up [(0x20, 0x8001C200)]) fun f => { f with aonPwrok := false }), (.wamosHelp), by decide +kernel⟩,
    ⟨(put up [(0x20, 0x8001C200)]), by decide +kernel⟩,
    ⟨(put up [(0x20, 0x8001C200)]), 0, 4, by decide +kernel⟩,
    ⟨(put up [(0x20, 0x8001C200)]), 0, 0, by decide +kernel⟩,
    ⟨w_WamosReads_4_s, 1048572, 2, by decide +kernel⟩,
    ⟨(put up [(0x20, 0x8001C200)]), 1, by decide +kernel⟩,
    ⟨(put up [(0x20, 0x8001C200)]), 0, by decide +kernel⟩,
    ⟨(put up [(0x20, 0x8001C200)]), by decide +kernel⟩,
    ⟨(put up [(0x20, 0x8001C200)]), by decide +kernel⟩,
    ⟨w_WamosReads_9_s, by decide +kernel⟩,
    ⟨({ (put up [(0x20, 0x8001C200)]) with wamos := { (put up [(0x20, 0x8001C200)]).wamos with line := [72] } }), 65,
      by decide +kernel⟩,
    ⟨({ (put up [(0x20, 0x8001C200)]) with wamos := { (put up [(0x20, 0x8001C200)]).wamos with line := [] } }), 13,
      by decide +kernel⟩,
    ⟨w_WamosReads_12_s, 13, (.wamosRd 0x200000 2), by decide +kernel, by decide +kernel, by decide +kernel,
      spellsIs (b := [asciiOf "rd", asciiOf "0x20_0000", asciiOf "2"]) (by decide +kernel)
      (.rd _ _ _ _ (by decide +kernel) (by decide +kernel))⟩,
    ⟨w_WamosReads_13_s, 13, by decide +kernel⟩,
    ⟨({ (put up [(0x20, 0x8001C200)]) with wamos := { (put up [(0x20, 0x8001C200)]).wamos with line := [72] } }), 13,
      (((lineWords ([72])).head?).getD []), ((lineWords ([72])).tail), by decide +kernel⟩,
    ⟨(List.replicate 32 (asciiOf "0123aBcD")), (((List.replicate 32 [1, 0x23, 0xAB, 0xCD]).flatten)), by decide +kernel⟩,
    ⟨(List.replicate 32 (asciiOf "0123aBcD")), (((List.replicate 32 [1, 0x23, 0xAB, 0xCD]).flatten)), (asciiOf "0123aBcD"), 0,
      0x0123ABCD, by decide +kernel⟩⟩

/-- Witness of clause 1 of Sessions. -/
def w_Sessions_1_s : State :=
  { (put up [(0x20, 0x8001C200)]) with wamos := { (put up [(0x20, 0x8001C200)]).wamos with lockout := true, lockEnds := 5001 } }
/-- Witness of clause 2 of Sessions. -/
def w_Sessions_2_s : State :=
  { (put up [(0x20, 0x8001C200)]) with wamos := { (put up [(0x20, 0x8001C200)]).wamos with lockout := true, lockEnds := 5000, challenge := some (leBytes 16 7) } }
/-- Witness of clause 4 of Sessions. -/
def w_Sessions_4_s : State :=
  { (put up [(0x20, 0x8001C200)]) with wamos := { (put up [(0x20, 0x8001C200)]).wamos with session := some { scope := 9, targetLc := 2, ends := 99999999 } } }
/-- Witness of clause 7 of Sessions. -/
def w_Sessions_7_s : State :=
  { (put up [(0x20, 0x8001C200)]) with wamos := { (put up [(0x20, 0x8001C200)]).wamos with challenge := some (leBytes 16 7), session := some { scope := 9, targetLc := 2, ends := 99999999 } } }
/-- Witness of clause 8 of Sessions. -/
def w_Sessions_8_s : State :=
  { (finOf (put up [(0x20, 0x8001C200)]) fun f => { f with lcBurn := none }) with wamos := { (finOf (put up [(0x20, 0x8001C200)]) fun f => { f with lcBurn := none }).wamos with lcWaits := true } }
theorem hyps_Sessions :
  (∃ (s : State),
    WamosOpen s) ∧
  (∃ (s : State),
    WamosOpen s ∧
    LockedOut s) ∧
  (∃ (s : State) (c : List Byte),
    WamosOpen s ∧
    ¬ LockedOut s ∧
    s.wamos.challenge = some c) ∧
  (∃ (s : State),
    WamosOpen s) ∧
  (∃ (s : State),
    s.flt.sealed = false) ∧
  (∃ (s : State),
    s.wamos.lcWaits = true ∧
    regBits s 0x20 31 31 = 1) :=
  ⟨⟨(put up [(0x20, 0x8001C200)]), by decide +kernel⟩,
    ⟨w_Sessions_1_s, by decide +kernel⟩,
    ⟨w_Sessions_2_s, (leBytes 16 7), by decide +kernel⟩,
    ⟨w_Sessions_4_s, by decide +kernel⟩,
    ⟨w_Sessions_7_s, by decide +kernel⟩,
    ⟨w_Sessions_8_s, by decide +kernel⟩⟩

/-- Witness of clause 2 of WamosActs. -/
def w_WamosActs_2_s : State :=
  { (finOf (fltOf (put job [(0x20, 0x8001C200)]) fun f => { f with log := [({ die := 1, unit := 2, kind := 3, count := 4, time := 5, addr := 6 }, 2), ({ die := 0, unit := 9, kind := 0x48, count := 1, time := 7, addr := 0x123456789 }, 4)], repairs := [(0x105, 0xFFFF), (0x2003, 0x2041)] }) fun f => { f with lc := 2 }) with wamos := { (finOf (fltOf (put job [(0x20, 0x8001C200)]) fun f => { f with log := [({ die := 1, unit := 2, kind := 3, count := 4, time := 5, addr := 6 }, 2), ({ die := 0, unit := 9, kind := 0x48, count := 1, time := 7, addr := 0x123456789 }, 4)], repairs := [(0x105, 0xFFFF), (0x2003, 0x2041)] }) fun f => { f with lc := 2 }).wamos with session := some { scope := 9, targetLc := 2, ends := 99999999 } } }
/-- Witness of clause 3 of WamosActs. -/
def w_WamosActs_3_s : State :=
  finOf (fltOf (put job [(0x20,
    0x8001C200)]) fun f => { f with log := [({ die := 1, unit := 2, kind := 3, count := 4, time := 5, addr := 6 }, 2), ({ die := 0, unit := 9, kind := 0x48, count := 1, time := 7, addr := 0x123456789 }, 4)], repairs := [(0x105, 0xFFFF), (0x2003, 0x2041)] }) fun f => { f with lc := 2 }
/-- Witness of clause 9 of WamosActs. -/
def w_WamosActs_9_s : State :=
  fltOf (put job [(0x20,
    0x8001C200)]) fun f => { f with log := [({ die := 1, unit := 2, kind := 3, count := 4, time := 5, addr := 6 }, 2), ({ die := 0, unit := 9, kind := 0x48, count := 1, time := 7, addr := 0x123456789 }, 4)], repairs := [(0x105, 0xFFFF), (0x2003, 0x2041)] }
/-- Witness of clause 10 of WamosActs. -/
def w_WamosActs_10_s : State :=
  fltOf (put job [(0x20,
    0x8001C200)]) fun f => { f with log := [({ die := 1, unit := 2, kind := 3, count := 4, time := 5, addr := 6 }, 2), ({ die := 0, unit := 9, kind := 0x48, count := 1, time := 7, addr := 0x123456789 }, 4)], repairs := [(0x105, 0xFFFF), (0x2003, 0x2041)] }
/-- Witness of clause 13 of WamosActs. -/
def w_WamosActs_13_s : State :=
  fltOf (put job [(0x20,
    0x8001C200)]) fun f => { f with log := [({ die := 1, unit := 2, kind := 3, count := 4, time := 5, addr := 6 }, 2), ({ die := 0, unit := 9, kind := 0x48, count := 1, time := 7, addr := 0x123456789 }, 4)], repairs := [(0x105, 0xFFFF), (0x2003, 0x2041)] }
/-- Witness of clause 14 of WamosActs. -/
def w_WamosActs_14_s : State :=
  fltOf (put job [(0x20,
    0x8001C200)]) fun f => { f with log := [({ die := 1, unit := 2, kind := 3, count := 4, time := 5, addr := 6 }, 2), ({ die := 0, unit := 9, kind := 0x48, count := 1, time := 7, addr := 0x123456789 }, 4)], repairs := [(0x105, 0xFFFF), (0x2003, 0x2041)] }
/-- Witness of clause 18 of WamosActs. -/
def w_WamosActs_18_s : State :=
  { (put up [(0x20, 0x8001C200)]) with wamos := { (put up [(0x20, 0x8001C200)]).wamos with challenge := some (leBytes 16 7) } }
/-- Witness of clause 20 of WamosActs. -/
def w_WamosActs_20_s : State :=
  { (finOf (put up [(0x20, 0x8001C200)]) fun f => { f with lcBurn := none }) with wamos := { (finOf (put up [(0x20, 0x8001C200)]) fun f => { f with lcBurn := none }).wamos with lcWaits := true } }
theorem hyps_WamosActs :
  (∃ (s : State),
    WamosOpen s ∧
    ¬ LockedOut s ∧
    s.wamos.challenge = none) ∧
  (∃ (s : State),
    s.fin.lc ≠ 2) ∧
  (∃ (s : State) (x : Session) (i : Nat),
    s.wamos.session = some x ∧
    s.time.keep < x.ends ∧
    natBits x.scope i i = 1) ∧
  (∃ (s : State) (x : Session) (i : Nat),
    s.fin.lc = 2 ∧
    (s.wamos.session = none ∨ (s.wamos.session = some x ∧ (x.ends ≤ s.time.keep ∨ natBits x.scope i i = 0)))) ∧
  (∃ (s : State),
    WamosOpen s) ∧
  (∃ (s : State) (off : Nat),
    WamosOpen s ∧
    hasScope s 0 = true ∧
    off % 4 = 0 ∧
    off < 0x2000000 ∧
    s.fin.ready = true ∧
    s.fin.pinsTaken = false) ∧
  (∃ (s : State) (off : Nat),
    WamosOpen s ∧
    hasScope s 0 = true ∧
    (off % 4 ≠ 0 ∨ 0x4000000 ≤ off)) ∧
  (∃ (s : State) (rate : Nat),
    Sound s = true ∧
    WamosOpen s ∧
    hasScope s 0 = true ∧
    9600 ≤ rate ∧
    rate ≤ 3000000) ∧
  (∃ (s : State) (rate : Nat),
    WamosOpen s ∧
    hasScope s 0 = true ∧
    (rate < 9600 ∨ 3000000 < rate)) ∧
  (∃ (s : State) (i : Nat),
    WamosOpen s ∧
    hasScope s 2 = true ∧
    i < s.flt.repairs.length) ∧
  (∃ (s : State) (i : Nat),
    WamosOpen s ∧
    hasScope s 2 = true ∧
    s.flt.repairs.length ≤ i) ∧
  (∃ (s : State),
    Sound s = true ∧
    NoWork s ∧
    WamosOpen s ∧
    hasScope s 3 = true) ∧
  (∃ (s : State),
    Sound s = true ∧
    NoWork s ∧
    s.fab.heldPkts = [] ∧
    WamosOpen s ∧
    hasScope s 3 = true) ∧
  (∃ (s : State) (target : Nat),
    WamosOpen s ∧
    (3 < target ∨ target ≤ s.fin.lc ∨ (∃ b, s.fin.lcBurn = some b ∧ target ≤ b))) ∧
  (∃ (s : State) (target : Nat),
    WamosOpen s ∧
    target ≤ 3 ∧
    s.fin.lc < target ∧
    s.fin.lcBurn = none ∧
    jobId s ≠ 0) ∧
  (∃ (s : State) (target : Nat),
    WamosOpen s ∧
    target ≤ 3 ∧
    s.fin.lc = 0 ∧
    0 < target ∧
    s.fin.lcBurn = none ∧
    jobId s = 0 ∧
    s.fin.cert = []) ∧
  (∃ (s : State) (target : Nat) (k : Option (List Byte)),
    WamosOpen s ∧
    target ≤ 3 ∧
    s.fin.lc < target ∧
    s.fin.lcBurn = none ∧
    jobId s = 0 ∧
    ((s.fin.lc = 0 ∧ s.fin.cert ≠ []) ∨ (s.fin.lc ≠ 0 ∧ k = none ∧ ∃ x, s.wamos.session = some x ∧ s.time.keep < x.ends ∧
      natBits x.scope 1 1 = 1 ∧ x.targetLc = target))) ∧
  (∃ (s : State) (target : Nat),
    WamosOpen s ∧
    target ≤ 3 ∧
    s.fin.lc < target ∧
    s.fin.lcBurn = none ∧
    jobId s = 0 ∧
    s.fin.lc ≠ 0 ∧
    (∀ x, s.wamos.session = some x → s.time.keep < x.ends → natBits x.scope 1 1 = 1 → x.targetLc ≠ target)) ∧
  (∃ (s : State) (target : Nat) (c : List Byte),
    WamosOpen s ∧
    target ≤ 3 ∧
    s.fin.lc < target ∧
    s.fin.lcBurn = none ∧
    jobId s = 0 ∧
    s.fin.lc ≠ 0 ∧
    s.wamos.challenge = some c) ∧
  (∃ (s : State) (target : Nat),
    WamosOpen s ∧
    target ≤ 3 ∧
    s.fin.lc < target ∧
    s.fin.lcBurn = none ∧
    jobId s = 0 ∧
    s.fin.lc ≠ 0 ∧
    s.wamos.challenge = none) ∧
  (∃ (s : State),
    s.wamos.lcWaits = true ∧
    regBits s 0x20 31 31 = 1) ∧
  (∃ (s : State),
    s.wamos.lcWaits = false) :=
  ⟨⟨({ (put up [(0x20, 0x8001C200)]) with wamos := { fails := 0 } }), by decide +kernel⟩,
    ⟨(put up [(0x20, 0x8001C200)]), by decide +kernel⟩,
    ⟨w_WamosActs_2_s, ({ scope := 9, targetLc := 2, ends := 99999999 }), 0, by decide +kernel⟩,
    ⟨w_WamosActs_3_s, ({ scope := 9, targetLc := 2, ends := 99999999 }), 0, by decide +kernel⟩,
    ⟨(put up [(0x20, 0x8001C200)]), by decide +kernel⟩,
    ⟨(put up [(0x20, 0x8001C200)]), 32, by decide +kernel⟩,
    ⟨(put up [(0x20, 0x8001C200)]), 2, by decide +kernel⟩,
    ⟨(put up [(0x20, 0x8001C200)]), 9600, by decide +kernel⟩,
    ⟨(put up [(0x20, 0x8001C200)]), 9599, by decide +kernel⟩,
    ⟨w_WamosActs_9_s, 0, by decide +kernel⟩,
    ⟨w_WamosActs_10_s, 2, by decide +kernel⟩,
    ⟨(put up [(0x20, 0x8001C200)]), by decide +kernel⟩,
    ⟨(put up [(0x20, 0x8001C200)]), by decide +kernel⟩,
    ⟨w_WamosActs_13_s, 4, by decide +kernel⟩,
    ⟨w_WamosActs_14_s, 3, by decide +kernel⟩,
    ⟨(finOf (put up [(0x20, 0x8001C200)]) fun f => { f with lc := 0 }), 3, by decide +kernel⟩,
    ⟨(finOf (finOf (put up [(0x20, 0x8001C200)]) fun f => { f with lc := 0 }) fun f => { f with cert := [1] }), 3, none,
      by decide +kernel⟩,
    ⟨(put up [(0x20, 0x8001C200)]), 3, by decide +kernel⟩,
    ⟨w_WamosActs_18_s, 2, (leBytes 16 7), by decide +kernel⟩,
    ⟨(put up [(0x20, 0x8001C200)]), 2, by decide +kernel⟩,
    ⟨w_WamosActs_20_s, by decide +kernel⟩,
    ⟨(put up [(0x20, 0x8001C200)]), by decide +kernel⟩⟩

theorem hyps_SidePins :
  (∃ (s : State),
    s.fin.aonPwrok = true) ∧
  (∃ (s : State),
    s.fin.aonPwrok = true) ∧
  (∃ (s : State),
    s.fin.aonPwrok = true) ∧
  (∃ (s : State),
    s.fin.aonPwrok = true ∧
    s.flt.alert = true) ∧
  (∃ (s : State),
    s.flt.alert = false) ∧
  (∃ (s : State),
    s.fin.aonPwrok = false) ∧
  (∃ (s : State),
    Sound s = true ∧
    NoWork s ∧
    s.fab.heldPkts = [] ∧
    s.fin.aonPwrok = true ∧
    s.fin.pinsTaken = false ∧
    s.flt.sealed = false) ∧
  (∃ (s : State),
    s.fin.aonPwrok = true ∧
    s.fin.pinsTaken = true) ∧
  (∃ (s : State),
    s.fin.aonPwrok = true ∧
    s.fin.pinsTaken = false) ∧
  (∃ (s : State),
    s.fin.aonPwrok = true ∧
    s.fin.pinsTaken = true ∧
    s.flt.sealed = false) :=
  ⟨⟨up, by decide +kernel⟩,
    ⟨up, by decide +kernel⟩,
    ⟨(finOf (up) fun f => { f with smbAnswer := some [1] }), by decide +kernel⟩,
    ⟨(fltOf job fun f => { f with alert := true }), by decide +kernel⟩,
    ⟨up, by decide +kernel⟩,
    ⟨(finOf (up) fun f => { f with aonPwrok := false }), by decide +kernel⟩,
    ⟨job, by decide +kernel⟩,
    ⟨(finOf (job) fun f => { f with pinsTaken := true, jtagIr := 3 }), by decide +kernel⟩,
    ⟨(finOf (job) fun f => { f with lc := 0, stepping := 0x1A, jtagIr := 9 }), by decide +kernel⟩,
    ⟨(finOf (job) fun f => { f with pinsTaken := true, stage := 2, ready := false, stepping := 3 }), by decide +kernel⟩⟩

end Sys2Proof.Tests
end

section
/-! PROOFS. The registers with checks (spec/02 R47, spec/05 R121, spec/07 R187, spec/08 R225, spec/09 R251, spec/11 R290): the
rules of a stored register read after a write, and what each checked write does on an open device. O14 is refuted, on the one
clause that holds of sound states alone and does not ask for one; its other clauses, and that one of sound states, stand here
as lemmas. -/

namespace Sys2Proof.Machine

/-! ### A stored register read after a write -/

/-- A sound state's registers are a canonical table. -/
theorem regs_wf_of_sound {s : State} (hs : Sound s = true) : tabWf regReset 0 s.regs = true := by
  simp only [Sound, Bool.and_eq_true] at hs
  obtain ⟨⟨⟨⟨⟨-, hregs⟩, -⟩, -⟩, -⟩, -⟩ := hs
  exact hregs

theorem regGet_regPut {s : State} (hs : Sound s = true) (off o : Nat) (v : Word) :
    regGet (regPut s off v) o = if o = off then v else regGet s o :=
  tabGet_tabPut off v o (regs_wf_of_sound hs)

/-- A value other than the default is read back from any table, canonical or not: `tabPut` then removes no pair. -/
theorem tabGet_tabPut_of_ne {α : Type} [DecidableEq α] {d : Nat → α} {k : Nat} {v : α} (hv : v ≠ d k) (j : Nat) :
    ∀ t : Tab α, tabGet d (tabPut d t k v) j = if j = k then v else tabGet d t j
  | [] => by simp [tabPut, hv, tabGet]
  | (i, w) :: t => by
    rcases Nat.lt_trichotomy k i with hlt | rfl | hgt
    · simp only [tabPut, if_neg hlt.ne, if_pos hlt, if_neg hv, tabGet]
      by_cases hj : j < k
      · simp [hj, hj.ne, (hj.trans hlt).ne, hj.trans hlt]
      · simp [hj]
    · simp only [tabPut, if_true, if_neg hv, tabGet]
      split <;> rfl
    · simp only [tabPut, if_neg hgt.ne', if_neg (Nat.lt_asymm hgt), tabGet, tabGet_tabPut_of_ne hv j t]
      by_cases hj : j = k
      · simp [hj, hgt.ne', Nat.lt_asymm hgt]
      · simp [hj]

theorem regGet_regPut_of_ne {s : State} {off : Nat} {v : Word} (hv : v ≠ regReset off) (o : Nat) :
    regGet (regPut s off v) o = if o = off then v else regGet s o :=
  tabGet_tabPut_of_ne hv o s.regs

theorem regPut_onlyReg {s : State} (hs : Sound s = true) (off : Nat) (v : Word) : OnlyReg s (regPut s off v) off :=
  ⟨rfl, fun o ho => by rw [regGet_regPut hs, if_neg ho]⟩

theorem OnlyReg.trans {s t u : State} {off : Nat} (hst : OnlyReg s t off) (htu : OnlyReg t u off) : OnlyReg s u off := by
  obtain ⟨ht, hgt⟩ := hst
  obtain ⟨hu, hgu⟩ := htu
  refine ⟨?_, fun o ho => (hgu o ho).trans (hgt o ho)⟩
  rw [hu, ht]

/-! ### An accepted write -/

theorem FieldsWritten.others {s t : State} {off mask : Nat} {v : Word} (h : FieldsWritten s t off mask v) :
    ∀ o, o ≠ off → regGet t o = regGet s o :=
  h.1.2

theorem FieldsWritten.taken {s t : State} {off mask : Nat} {v : Word} (h : FieldsWritten s t off mask v) :
    regGet t off &&& BitVec.ofNat 32 mask = v &&& BitVec.ofNat 32 mask :=
  h.2.1

theorem regAccept_of_regDef {off : Nat} {d : RegDef} (hd : regDef off = some d) (s : State) (v : Word) :
    regAccept s off v = regPut s off (regWriteWord d (regGet s off) v) := by
  simp [regAccept, hd]

/-- Without bits that ones clear, a write moves the RW bits and no other. -/
theorem regWriteWord_fields {d : RegDef} (hd : d.w1c = 0) (old v : Word) :
    regWriteWord d old v &&& BitVec.ofNat 32 d.rw = v &&& BitVec.ofNat 32 d.rw ∧
      regWriteWord d old v &&& ~~~BitVec.ofNat 32 d.rw = old &&& ~~~BitVec.ofNat 32 d.rw := by
  simp only [regWriteWord, hd, BitVec.zero_and, BitVec.not_zero, BitVec.and_allOnes]
  generalize BitVec.ofNat 32 d.rw = rw
  constructor <;> ext i hi <;> cases h : rw[i] <;> simp [h]

theorem regAccept_fieldsWritten {s : State} (hs : Sound s = true) {off mask : Nat}
    (h : (regDef off).map (fun d => (d.rw, d.w1c)) = some (mask, 0)) (v : Word) :
    FieldsWritten s (regAccept s off v) off mask v := by
  obtain ⟨d, hd, hmask⟩ := Option.map_eq_some_iff.mp h
  obtain ⟨rfl, hw⟩ := Prod.mk.inj hmask
  rw [regAccept_of_regDef hd]
  refine ⟨regPut_onlyReg hs off _, ?_⟩
  rw [regGet_regPut hs, if_pos rfl]
  exact regWriteWord_fields hw _ v

/-- Fields that take another value than at reset are read back from any table. -/
theorem regGet_regAccept_of_ne {s : State} {off mask : Nat} (h : (regDef off).map (fun d => (d.rw, d.w1c)) = some (mask, 0))
    {v : Word} (hv : v &&& BitVec.ofNat 32 mask ≠ regReset off &&& BitVec.ofNat 32 mask) :
    (∀ o, o ≠ off → regGet (regAccept s off v) o = regGet s o) ∧
      regGet (regAccept s off v) off &&& BitVec.ofNat 32 mask = v &&& BitVec.ofNat 32 mask := by
  obtain ⟨d, hd, hmask⟩ := Option.map_eq_some_iff.mp h
  obtain ⟨rfl, hw⟩ := Prod.mk.inj hmask
  obtain ⟨hset, -⟩ := regWriteWord_fields hw (regGet s off) v
  have hne : regWriteWord d (regGet s off) v ≠ regReset off := fun he => hv (hset ▸ congrArg (· &&& _) he)
  rw [regAccept_of_regDef hd]
  exact ⟨fun o ho => by rw [regGet_regPut_of_ne hne, if_neg ho], by rw [regGet_regPut_of_ne hne, if_pos rfl, hset]⟩

/-- A field depends on the bits of a mask that covers it alone. -/
theorem bits_and_of_covers {mask : Word} {hi lo : Nat} (hm : ∀ i < 32, lo ≤ i → i ≤ hi → mask.getLsbD i = true) (v : Word) :
    bits (v &&& mask) hi lo = bits v hi lo := by
  refine Nat.eq_of_testBit_eq fun i => ?_
  simp only [bits, natBits, Nat.testBit_mod_two_pow, Nat.testBit_shiftRight, BitVec.testBit_toNat, BitVec.getLsbD_and]
  by_cases hfield : i < hi + 1 - lo
  · by_cases hword : lo + i < 32
    · simp [hm (lo + i) hword (by omega) (by omega)]
    · simp [BitVec.getLsbD_of_ge v (lo + i) (by omega)]
  · simp [hfield]

theorem bits_setBits {hi lo : Nat} (h : hi < 32) (v : Word) (x : Nat) :
    bits (setBits v hi lo x) hi lo = x % 2 ^ (hi + 1 - lo) := by
  refine Nat.eq_of_testBit_eq fun i => ?_
  simp only [bits, natBits, setBits, Nat.testBit_mod_two_pow, Nat.testBit_shiftRight, BitVec.testBit_toNat,
    BitVec.getLsbD_or, BitVec.getLsbD_and, BitVec.getLsbD_not, BitVec.getLsbD_ofNat, Nat.testBit_shiftLeft,
    Nat.testBit_two_pow_sub_one]
  by_cases hfield : i < hi + 1 - lo
  · have hword : lo + i < 32 := by omega
    simp [hfield, hword]
  · simp [hfield]

/-- A field whose bits all took a write reads as the value's. -/
theorem regBits_of_masked {s : State} {off mask : Nat} {v : Word}
    (h : regGet s off &&& BitVec.ofNat 32 mask = v &&& BitVec.ofNat 32 mask) {hi lo : Nat}
    (hm : ∀ i < 32, lo ≤ i → i ≤ hi → (BitVec.ofNat 32 mask).getLsbD i = true) : regBits s off hi lo = bits v hi lo := by
  rw [regBits, ← bits_and_of_covers hm, h, bits_and_of_covers hm]

/-! ### The checked writes on an open device -/

theorem hostWrite_of_open {s : State} (ho : HostOpen s) (off : Nat) (v : Word) : hostWrite s off v = writeReg s off v := by
  obtain ⟨hsealed, hready, hpins⟩ := ho
  simp [hostWrite, hsealed, hready, hpins]

section
variable {s : State} (ho : HostOpen s)
include ho

theorem exec_domNumModeWrite (v : Word) : exec (.domNumModeWrite v) s = .next (numModeWrite s 0x1000000 v) := by
  simp [exec, execDomNumModeWrite, hostWrite_of_open ho, writeReg, domWrite]

theorem exec_bar2ApertureWrite (v : Word) :
    exec (.bar2ApertureWrite v) s = .next (writeIf (apertureOk v) s 0x100100 v) := by
  simp [exec, execBar2ApertureWrite, hostWrite_of_open ho, writeReg, hifWrite, hifReadOnly]

theorem exec_domPlanCfgWrite (v : Word) : exec (.domPlanCfgWrite v) s = .next (planCfg s 0x1000044 v) := by
  simp [exec, execDomPlanCfgWrite, hostWrite_of_open ho, writeReg, domWrite]

theorem exec_domEmbDirBaseWrite (v : Word) : exec (.domEmbDirBaseWrite v) s = .next
    (if inPart s 5 (bits v 30 12 * 4096) 4096 then dirMove s (regAccept s 0x10000C0 v) else configIgnored s 0x10000C0 v) := by
  simp [exec, execDomEmbDirBaseWrite, hostWrite_of_open ho, writeReg, domWrite, writeIf]

theorem exec_domVerCfgWrite (cfg : Bool) (v : Word) : exec (.domVerCfgWrite cfg v) s = .next
    (if cfg then verCfg s 0x1000104 v else writeIf (jobId s == 0) s 0x1000100 v) := by
  cases cfg <;> simp [exec, execDomVerCfgWrite, hostWrite_of_open ho, writeReg, domWrite]

theorem exec_domRedRetainWrite (size : Bool) (v : Word) : exec (.domRedRetainWrite size v) s = .next
    (retainWrite s (if size then 0x1000184 else 0x1000180) v) := by
  cases size <;> simp [exec, execDomRedRetainWrite, hostWrite_of_open ho, writeReg, domWrite]

end

/-! ### DOM_NUM_MODE, BAR2's aperture, the plan area, the version table -/

@[simp] theorem writeIf_true (s : State) (off : Nat) (v : Word) : writeIf true s off v = regAccept s off v := rfl

@[simp] theorem writeIf_false (s : State) (off : Nat) (v : Word) : writeIf false s off v = configIgnored s off v := rfl

theorem domNumModeWrite_valid {s : State} {v : Word} (hs : Sound s = true) (ho : HostOpen s) (hr : bits v 2 0 < 5)
    (hlo : 6 ≤ bits v 12 8) (hhi : bits v 12 8 ≤ 24) :
    ∃ t, exec (.domNumModeWrite v) s = .next t ∧ FieldsWritten s t 0x1000000 0x1F0F v := by
  refine ⟨_, exec_domNumModeWrite ho v, ?_⟩
  rw [numModeWrite, if_neg (by omega)]
  exact regAccept_fieldsWritten hs rfl v

theorem domNumModeWrite_invalid {s : State} {v : Word} (ho : HostOpen s)
    (hv : 5 ≤ bits v 2 0 ∨ bits v 12 8 < 6 ∨ 24 < bits v 12 8) : exec (.domNumModeWrite v) s = .next s := by
  rw [exec_domNumModeWrite ho, numModeWrite, if_pos hv]

theorem bar2ApertureWrite_valid {s : State} {v : Word} (hs : Sound s = true) (ho : HostOpen s) (hv : apertureOk v = true) :
    ∃ t, exec (.bar2ApertureWrite v) s = .next t ∧ FieldsWritten s t 0x100100 0xFFF v := by
  refine ⟨_, exec_bar2ApertureWrite ho v, ?_⟩
  rw [hv, writeIf_true]
  exact regAccept_fieldsWritten hs rfl v

theorem bar2ApertureWrite_invalid {s : State} {v : Word} (ho : HostOpen s) (hv : apertureOk v = false) :
    exec (.bar2ApertureWrite v) s = .next (configIgnored s 0x100100 v) := by
  rw [exec_bar2ApertureWrite ho, hv, writeIf_false]

theorem domPlanCfgWrite_valid {s : State} {v : Word} (hs : Sound s = true) (ho : HostOpen s)
    (hv : bits v 0 0 = 0 ∨ inPart s 5 (regBits s 0x1000040 30 6 * 64) (2 ^ 22) = true) :
    ∃ t, exec (.domPlanCfgWrite v) s = .next t ∧ FieldsWritten s t 0x1000044 0xFF01 v := by
  refine ⟨_, exec_domPlanCfgWrite ho v, ?_⟩
  have hno : ¬(bits v 0 0 = 1 ∧ (!inPart s 5 (regBits s 0x1000040 30 6 * 64) (2 ^ 22)) = true) := by
    rintro ⟨hen, hout⟩
    rcases hv with hv | hv
    · omega
    · rw [hv] at hout
      exact absurd hout (by decide)
  rw [planCfg, if_neg hno]
  exact regAccept_fieldsWritten hs rfl v

/-- The area that does not fit is not switched on; the write's other fields are taken (spec/05 R121). -/
theorem domPlanCfgWrite_invalid {s : State} {v : Word} (hs : Sound s = true) (ho : HostOpen s) (hen : bits v 0 0 = 1)
    (hv : inPart s 5 (regBits s 0x1000040 30 6 * 64) (2 ^ 22) = false) :
    ∃ u, exec (.domPlanCfgWrite v) s = .next (configIgnored u 0x1000044 v) ∧ OnlyReg s u 0x1000044 ∧
      regBits u 0x1000044 0 0 = 0 := by
  have hsu : Sound (regAccept s 0x1000044 v) = true := (regAccept_kept (Kept.refl s false)).sound hs
  refine ⟨regSet (regAccept s 0x1000044 v) 0x1000044 0 0 0, ?_, ?_, ?_⟩
  · rw [exec_domPlanCfgWrite ho, planCfg, if_pos ⟨hen, by rw [hv]; rfl⟩]
  · obtain ⟨honly, -⟩ : FieldsWritten s (regAccept s 0x1000044 v) 0x1000044 0xFF01 v := regAccept_fieldsWritten hs rfl v
    exact honly.trans (regPut_onlyReg hsu _ _)
  · rw [regBits, regSet, regGet_regPut hsu, if_pos rfl]
    exact bits_setBits (by decide) _ 0

theorem domVerBaseWrite_valid {s : State} {v : Word} (hs : Sound s = true) (ho : HostOpen s) (hj : jobId s = 0) :
    ∃ t, exec (.domVerCfgWrite false v) s = .next t ∧ FieldsWritten s t 0x1000100 0x7FFFFFC0 v := by
  refine ⟨_, exec_domVerCfgWrite ho false v, ?_⟩
  rw [if_neg (by decide), hj, beq_self_eq_true, writeIf_true]
  exact regAccept_fieldsWritten hs rfl v

theorem domVerBaseWrite_invalid {s : State} {v : Word} (ho : HostOpen s) (hj : jobId s ≠ 0) :
    exec (.domVerCfgWrite false v) s = .next (configIgnored s 0x1000100 v) := by
  simp [exec_domVerCfgWrite ho, hj, writeIf]

theorem domVerCfgWrite_valid {s : State} {v : Word} (hs : Sound s = true) (ho : HostOpen s) (hj : jobId s = 0)
    (hn : bits v 16 0 ≤ 65536)
    (hv : bits v 16 0 = 0 ∨ inPart s 5 (regBits s 0x1000100 30 6 * 64) (64 * bits v 16 0) = true) :
    ∃ t, exec (.domVerCfgWrite true v) s = .next t ∧ FieldsWritten s t 0x1000104 0xFFF1FFFF v ∧ verCount t = bits v 16 0 := by
  have hfits : (bits v 16 0 == 0 || inPart s 5 (regBits s 0x1000100 30 6 * 64) (64 * bits v 16 0)) = true := by
    simpa using hv
  have ht : verCfg s 0x1000104 v = regAccept s 0x1000104 v := by
    simp only [verCfg, hfits, hj]
    exact if_neg (by simp; omega)
  have hw : FieldsWritten s (regAccept s 0x1000104 v) 0x1000104 0xFFF1FFFF v := regAccept_fieldsWritten hs rfl v
  refine ⟨_, exec_domVerCfgWrite ho true v, ?_⟩
  rw [if_pos rfl, ht]
  exact ⟨hw, regBits_of_masked hw.taken (by decide)⟩

/-! ### The directory's base -/

/-- A move of the directory touches nothing but the superseded versions, to which it adds, and the sketches. -/
def DirMoveFrame (s t : State) : Prop :=
  ∃ tables sketches, t = { s with dome := { s.dome with tables := tables, sketches := sketches } } ∧
    ∀ x ∈ s.dome.tables, x ∈ tables

theorem DirMoveFrame.refl (s : State) : DirMoveFrame s s := ⟨_, _, rfl, fun _ h => h⟩

theorem DirMoveFrame.trans {s t u : State} (hst : DirMoveFrame s t) (htu : DirMoveFrame t u) : DirMoveFrame s u := by
  obtain ⟨_, _, rfl, hst⟩ := hst
  obtain ⟨_, _, rfl, htu⟩ := htu
  exact ⟨_, _, rfl, fun x hx => htu x (hst x hx)⟩

theorem DirMoveFrame.foldl {α : Type} {f : State → α → State} (hf : ∀ s a, DirMoveFrame s (f s a)) (xs : List α) (s : State) :
    DirMoveFrame s (xs.foldl f s) :=
  List.foldlRecOn xs f (.refl s) fun _ ht a _ => ht.trans (hf _ a)

theorem sketchClear_frame (s : State) (id : Nat) : DirMoveFrame s (sketchClear s id) := by
  refine DirMoveFrame.foldl (fun t n => ?_) _ s
  split
  · exact ⟨_, _, rfl, fun _ h => h⟩
  · exact .refl t

theorem dirSwap_frame (old new : State) (ids : List Nat) : DirMoveFrame new (dirSwap old new ids) :=
  DirMoveFrame.foldl (fun _ i => .trans ⟨_, _, rfl, fun _ h => List.mem_append_left _ h⟩ (sketchClear_frame _ i)) _ new

theorem dirMove_frame (old new : State) : DirMoveFrame new (dirMove old new) := by
  unfold dirMove
  split
  · exact .refl new
  · exact dirSwap_frame old new _

theorem domEmbDirBaseWrite_valid {s : State} {v : Word} (hs : Sound s = true) (ho : HostOpen s)
    (hv : inPart s 5 (bits v 30 12 * 4096) 4096 = true) :
    ∃ t, exec (.domEmbDirBaseWrite v) s = .next t ∧
      t = { s with regs := t.regs, dome := { s.dome with tables := t.dome.tables, sketches := t.dome.sketches } } ∧
      (∀ o, o ≠ 0x10000C0 → regGet t o = regGet s o) ∧
      regGet t 0x10000C0 &&& 0x7FFFF000 = v &&& 0x7FFFF000 ∧ (∀ x ∈ s.dome.tables, x ∈ t.dome.tables) := by
  refine ⟨_, exec_domEmbDirBaseWrite ho v, ?_⟩
  rw [if_pos hv]
  obtain ⟨⟨hframe, hothers⟩, hset, -⟩ :
    FieldsWritten s (regAccept s 0x10000C0 v) 0x10000C0 0x7FFFF000 v := regAccept_fieldsWritten hs rfl v
  obtain ⟨tables, sketches, ht, hkept⟩ := dirMove_frame s (regAccept s 0x10000C0 v)
  rw [ht]
  generalize regAccept s 0x10000C0 v = r at *
  rw [hframe] at hkept ⊢
  exact ⟨rfl, hothers, hset, hkept⟩

theorem domEmbDirBaseWrite_invalid {s : State} {v : Word} (ho : HostOpen s)
    (hv : inPart s 5 (bits v 30 12 * 4096) 4096 = false) :
    exec (.domEmbDirBaseWrite v) s = .next (configIgnored s 0x10000C0 v) := by
  rw [exec_domEmbDirBaseWrite ho, hv, if_neg (by decide)]

/-! ### The retention area -/

/-- The retention area of `size` pages of 4 KiB at page `base` is empty or lies in the general partition (spec/09 R251). -/
def retainFits (s : State) (base size : Nat) : Bool := size == 0 || inPart s 5 (base * 4096) (4096 * size)

/-- A write of either register is taken where the area that it would leave may be had. -/
theorem retainWrite_eq {s : State} {off base size : Nat} {v : Word}
    (hbase : regBits (regAccept s off v) 0x1000180 30 12 = base)
    (hsize : regBits (regAccept s off v) 0x1000184 19 0 = size) :
    retainWrite s off v =
      if retainUsed s = 0 ∧ retainFits s base size = true then regAccept s off v else configIgnored s off v := by
  simp only [retainWrite, retainFits, hbase, hsize]
  rfl

theorem retainWrite_size_eq {s : State} {v : Word}
    (hothers : ∀ o, o ≠ 0x1000184 → regGet (regAccept s 0x1000184 v) o = regGet s o)
    (hset : regGet (regAccept s 0x1000184 v) 0x1000184 &&& BitVec.ofNat 32 0xFFFFF = v &&& BitVec.ofNat 32 0xFFFFF) :
    retainWrite s 0x1000184 v =
      if retainUsed s = 0 ∧ retainFits s (regBits s 0x1000180 30 12) (bits v 19 0) = true then regAccept s 0x1000184 v
      else configIgnored s 0x1000184 v :=
  retainWrite_eq (by rw [regBits, hothers _ (by decide), regBits])
    (regBits_of_masked hset (by decide))

theorem retainWrite_base_eq {s : State} (hs : Sound s = true) (v : Word) :
    retainWrite s 0x1000180 v =
      if retainUsed s = 0 ∧ retainFits s (bits v 30 12) (regBits s 0x1000184 19 0) = true then regAccept s 0x1000180 v
      else configIgnored s 0x1000180 v := by
  have hw : FieldsWritten s (regAccept s 0x1000180 v) 0x1000180 0x7FFFF000 v := regAccept_fieldsWritten hs rfl v
  exact retainWrite_eq (regBits_of_masked hw.taken (by decide))
    (by rw [regBits, hw.others _ (by decide), regBits])

theorem domRedRetainSizeWrite_valid {s : State} {v : Word} (hs : Sound s = true) (ho : HostOpen s) (hu : retainUsed s = 0)
    (hv : bits v 19 0 = 0 ∨ inPart s 5 (regBits s 0x1000180 30 12 * 4096) (4096 * bits v 19 0) = true) :
    ∃ t, exec (.domRedRetainWrite true v) s = .next t ∧ FieldsWritten s t 0x1000184 0xFFFFF v := by
  have hw : FieldsWritten s (regAccept s 0x1000184 v) 0x1000184 0xFFFFF v := regAccept_fieldsWritten hs rfl v
  refine ⟨_, exec_domRedRetainWrite ho true v, ?_⟩
  rw [if_pos rfl, retainWrite_size_eq hw.others hw.taken, if_pos ⟨hu, by simpa [retainFits] using hv⟩]
  exact hw

theorem domRedRetainBaseWrite_valid {s : State} {v : Word} (hs : Sound s = true) (ho : HostOpen s) (hu : retainUsed s = 0)
    (hv : regBits s 0x1000184 19 0 = 0 ∨ inPart s 5 (bits v 30 12 * 4096) (4096 * regBits s 0x1000184 19 0) = true) :
    ∃ t, exec (.domRedRetainWrite false v) s = .next t ∧ FieldsWritten s t 0x1000180 0x7FFFF000 v := by
  refine ⟨_, exec_domRedRetainWrite ho false v, ?_⟩
  rw [if_neg (by decide), retainWrite_base_eq hs, if_pos ⟨hu, by simpa [retainFits] using hv⟩]
  exact regAccept_fieldsWritten hs rfl v

/-- No soundness is asked for: a size other than 0 is read back from any table. -/
theorem domRedRetainSizeWrite_unfit {s : State} {v : Word} (ho : HostOpen s) (hn : bits v 19 0 ≠ 0)
    (hv : inPart s 5 (regBits s 0x1000180 30 12 * 4096) (4096 * bits v 19 0) = false) :
    exec (.domRedRetainWrite true v) s = .next (configIgnored s 0x1000184 v) := by
  have hne : v &&& BitVec.ofNat 32 0xFFFFF ≠ regReset 0x1000184 &&& BitVec.ofNat 32 0xFFFFF := by
    intro h
    have hbits := congrArg (bits · 19 0) h
    simp only [bits_and_of_covers (mask := BitVec.ofNat 32 0xFFFFF) (hi := 19) (lo := 0) (by decide)] at hbits
    exact hn hbits
  obtain ⟨hothers, hset⟩ := regGet_regAccept_of_ne (s := s) rfl hne
  rw [exec_domRedRetainWrite ho, if_pos rfl, retainWrite_size_eq hothers hset, if_neg (by simp [retainFits, hn, hv])]

/-- The clause of O14 that `not_checkedRegisters` refutes, of sound states. -/
theorem domRedRetainBaseWrite_unfit {s : State} {v : Word} (hs : Sound s = true) (ho : HostOpen s)
    (hn : regBits s 0x1000184 19 0 ≠ 0)
    (hv : inPart s 5 (bits v 30 12 * 4096) (4096 * regBits s 0x1000184 19 0) = false) :
    exec (.domRedRetainWrite false v) s = .next (configIgnored s 0x1000180 v) := by
  rw [exec_domRedRetainWrite ho, if_neg (by decide), retainWrite_base_eq hs, if_neg (by simp [retainFits, hn, hv])]

theorem domRedRetainWrite_used {s : State} {v : Word} (size : Bool) (ho : HostOpen s) (hu : retainUsed s ≠ 0) :
    exec (.domRedRetainWrite size v) s = .next (configIgnored s (if size then 0x1000184 else 0x1000180) v) := by
  rw [exec_domRedRetainWrite ho, retainWrite, if_neg (fun h => hu h.1)]

/-! ### The refutation of O14 -/

/-- An open device that retains nothing, and whose register table, out of its canonical form, lists DOM_RED_RETAIN_BASE twice:
reads see the first entry, 0x60000000, and the second one, 0x60200000, lies in the general partition. -/
def retainBaseListedTwice : State :=
  { fin := { stage := 4, ready := true },
    regs := [(0x1000180, 0x60000000), (0x1000180, 0x60200000), (0x1000184, 1)] }

theorem retainBaseListedTwice_not_sound : Sound retainBaseListedTwice = false := by decide +kernel

/-- A write of 0, the reset value, drops the first entry and uncovers the second, which passes the check in its place. -/
theorem retainBaseListedTwice_takes :
    ∃ t, exec (.domRedRetainWrite false 0) retainBaseListedTwice = .next t ∧ regGet t 0x1000180 = 0x60200000 :=
  ⟨_, rfl, by decide +kernel⟩

theorem retainBaseListedTwice_ignored_keeps :
    regGet (configIgnored retainBaseListedTwice 0x1000180 0) 0x1000180 = 0x60000000 := by decide +kernel

/-- Refutes O14: the clause on DOM_RED_RETAIN_BASE with a base that does not fit asks for no sound state, and fails where the
register table lists that register twice. Of sound states it holds: `domRedRetainBaseWrite_unfit`. -/
theorem not_checkedRegisters : ¬ Obligations.CheckedRegisters := by
  unfold Obligations.CheckedRegisters
  rintro ⟨-, -, -, -, -, -, -, -, -, -, -, -, -, -, baseIgnored, -⟩
  have hrun : exec (.domRedRetainWrite false 0) retainBaseListedTwice =
      .next (configIgnored retainBaseListedTwice 0x1000180 0) :=
    baseIgnored retainBaseListedTwice 0 (by decide +kernel) (by decide +kernel) (by decide +kernel) (by decide +kernel)
  obtain ⟨t, hnext, htaken⟩ := retainBaseListedTwice_takes
  have hsame : t = configIgnored retainBaseListedTwice 0x1000180 0 := Host.Outcome.next.inj (hnext.symm.trans hrun)
  rw [hsame, retainBaseListedTwice_ignored_keeps] at htaken
  exact absurd htaken (by decide)

end Sys2Proof.Machine
end


section
/-! PROOFS. What the proofs about ops share: the one op in flight, belfries and turrets read after a write, states that ops read
alike, rounds of `settle` in which nothing starts and nothing is accepted, and writes that land in place (spec/08 R208 to R211,
spec/13 R333 to R336). -/

namespace Sys2Proof.Machine

/-! ### The only op in flight -/

theorem opById_only {s : State} {o : Op} (h : s.ops = [o]) : opById s o.id = some o := by simp [opById, h]

theorem opUpdate_only {s : State} {o : Op} (h : s.ops = [o]) (f : Op → Op) : (opUpdate s o.id f).ops = [f o] := by
  simp [opUpdate, h]

/-! ### Belfries and turrets read after a write -/

theorem domeOk_of_sound {s : State} (hs : Sound s = true) : DomeOk s.dome := by
  simp only [Sound, Bool.and_eq_true, decide_eq_true_eq] at hs
  obtain ⟨-, -, hdome, -⟩ := hs
  exact hdome

/-- A canonical table holds what it lists, and lists nothing below its least key. -/
theorem tabGet_of_mem {α : Type} [DecidableEq α] {d : Nat → α} {k : Nat} {v : α} : ∀ {t : Tab α} {lo : Nat},
    tabWf d lo t = true → (k, v) ∈ t → lo ≤ k ∧ tabGet d t k = v
  | (i, w) :: t, lo, hw, hm => by
    simp only [tabWf, Bool.and_eq_true, decide_eq_true_eq] at hw
    obtain ⟨⟨hlo, -⟩, htail⟩ := hw
    rcases List.mem_cons.mp hm with heq | hm
    · obtain ⟨rfl, rfl⟩ := Prod.mk.inj heq
      simp [tabGet, hlo]
    · obtain ⟨hlater, hget⟩ := tabGet_of_mem htail hm
      rw [tabGet, if_neg (by omega), if_neg (by omega)]
      exact ⟨by omega, hget⟩

theorem belfry_belfryPut {s : State} (hd : DomeOk s.dome) (b : Nat) (x : Belfry) (c : Nat) :
    belfry (belfryPut s b x) c = if c = b then x else belfry s c :=
  tabGet_tabPut b x c hd.1

theorem turret_turretPut {s : State} (hd : DomeOk s.dome) (t : Nat) (x : Turret) (c : Nat) :
    turret (turretPut s t x) c = if c = t then x else turret s c :=
  tabGet_tabPut t x c hd.2.1

theorem Turret.buf_setBuf (t : Turret) (i : Nat) (b : Option TileBuf) : (t.setBuf i b).buf i = b := by
  unfold Turret.setBuf Turret.buf
  split <;> rfl

/-! ### What an op reads -/

/-- Two states that ops read alike: memory, registers, journals, groups, epochs and partition cuts are the same, and so are the
positions vacated at each belfry. -/
structure SeenAlike (s t : State) : Prop where
  mem : t.mem = s.mem
  regs : t.regs = s.regs
  journals : t.dome.journals = s.dome.journals
  txns : t.dome.txns = s.dome.txns
  epochs : t.dome.epochs = s.dome.epochs
  cuts : t.mif.cuts = s.mif.cuts
  vacated : ∀ b, (belfry t b).vacated = (belfry s b).vacated

section
variable {s t : State} (h : SeenAlike s t)
include h

theorem SeenAlike.regBits (off hi lo : Nat) : regBits t off hi lo = regBits s off hi lo := by
  simp only [Machine.regBits, regGet, h.regs]

theorem SeenAlike.committedByte (a : Nat) : committedByte t a = committedByte s a := by
  simp only [Machine.committedByte, h.journals, h.mem]

theorem SeenAlike.memNat (a n : Nat) : memNat t a n = memNat s a n := by
  simp only [Machine.memNat, committedBytes, h.committedByte]

theorem SeenAlike.isLocal (a : Nat) : isLocal t a = isLocal s a := by
  simp only [Machine.isLocal, ownChip, h.regBits]

theorem SeenAlike.partBase (k : Nat) : partBase t k = partBase s k := by simp only [Machine.partBase, h.regBits]

theorem SeenAlike.partSizeFor (id k : Nat) : partSizeFor t id k = partSizeFor s id k := by
  simp only [Machine.partSizeFor, partSize, h.regBits, h.cuts]

theorem SeenAlike.rangeOkOp (o : Op) (a n : Nat) : rangeOkOp t o a n = rangeOkOp s o a n := by
  unfold Machine.rangeOkOp rangeOkBy
  cases regionOf a <;> simp only [lanCoveredBy, h.partBase, h.partSizeFor, h.vacated]

theorem SeenAlike.slotAddr (i k : Nat) : slotAddr t i k = slotAddr s i k := by
  simp only [Machine.slotAddr, verEntry, h.regBits, h.memNat]

theorem SeenAlike.sliceBytes (i : Nat) : sliceBytes t i = sliceBytes s i := by
  simp only [Machine.sliceBytes, verEntry, h.regBits, h.memNat]

theorem SeenAlike.sliceCur (i : Nat) : sliceCur t i = sliceCur s i := by
  simp only [Machine.sliceCur, sliceState, verEntry, h.regBits, h.memNat]

theorem SeenAlike.viewOf (a : Nat) : viewOf t a = viewOf s a := by
  simp only [Machine.viewOf, verCount, h.slotAddr, h.sliceBytes, h.regBits]

theorem SeenAlike.servedAt (slots : Option (List Nat)) (a : Nat) : servedAt t slots a = servedAt s slots a := by
  unfold Machine.servedAt
  rw [h.viewOf]
  cases Machine.viewOf s a <;> simp only [h.slotAddr, h.sliceCur]

theorem SeenAlike.opReadByte (o : Op) (a : Nat) : opReadByte t o a = opReadByte s o a := by
  simp only [Machine.opReadByte, h.rangeOkOp, seenByte, txnOf, opSlots, h.txns, h.epochs, h.committedByte, h.servedAt]

theorem SeenAlike.opRec (o : Op) (a n : Nat) : opRec t o a n = opRec s o a n := by
  simp only [Machine.opRec, h.opReadByte]

theorem SeenAlike.gemmOf (o : Op) (kind : GemmKind) (b : GemmBody) : gemmOf t o kind b = gemmOf s o kind b := by
  simp only [Machine.gemmOf, gemmAux, h.opRec]

theorem SeenAlike.groupRecords (o : Op) : groupRecords t o = groupRecords s o := by
  simp only [Machine.groupRecords, opGroup, h.gemmOf, groupRec, committedBytes, h.committedByte]

theorem SeenAlike.planRecords (b : GemmBody) : planRecords t b = planRecords s b := by
  simp only [Machine.planRecords, planOf, h.regBits, h.memNat]

/-- A GEMM finds the same records of its own still to be read. -/
theorem SeenAlike.recMissing {o : Op} (ho : (gemmBody o).isSome = true) : recMissing t o = recMissing s o := by
  have hrecs : opRecords t o = opRecords s o := by
    cases hb : o.body <;> simp_all [gemmBody, opRecords, h.groupRecords, h.planRecords]
  simp only [Machine.recMissing, hrecs, h.isLocal, h.rangeOkOp]
end

/-! ### A round on a device that only works at tiles -/

/-- The state with other belfries. -/
def withBelfries (s : State) (bs : Tab Belfry) : State := { s with dome := { s.dome with belfries := bs } }

theorem wgqResume_vacated (x : Belfry) : (wgqResume x).vacated = x.vacated := by
  have hplace : ∀ y : Belfry, (wgqPlace y).vacated = y.vacated := fun y => by
    unfold wgqPlace
    split <;> rfl
  unfold wgqResume
  split
  · exact hplace _
  · rfl

theorem purgeJobs_frame (s : State) : ∃ bs, purgeJobs s = withBelfries s bs := by
  unfold purgeJobs
  refine List.foldlRecOn s.dome.belfries _ (motive := fun t => ∃ bs, t = withBelfries s bs) ⟨s.dome.belfries, rfl⟩ ?_
  rintro _ ⟨bs, rfl⟩ x -
  dsimp only
  split
  · exact ⟨_, rfl⟩
  · exact ⟨bs, rfl⟩

theorem purgeJobs_domeOk {s : State} (hd : DomeOk s.dome) : DomeOk (purgeJobs s).dome :=
  (purgeJobs_kept (Kept.refl s false)).dome hd

theorem purgeJobs_vacated {s : State} (hd : DomeOk s.dome) (b : Nat) :
    (belfry (purgeJobs s) b).vacated = (belfry s b).vacated := by
  unfold purgeJobs
  refine (List.foldlRecOn s.dome.belfries _
    (motive := fun t => DomeOk t.dome ∧ (belfry t b).vacated = (belfry s b).vacated) ⟨hd, rfl⟩ ?_).2
  rintro t ⟨ht, hv⟩ x hx
  dsimp only
  split
  · refine ⟨(belfryPut_kept (Kept.refl t false)).dome ht, ?_⟩
    rw [belfry_belfryPut ht]
    split
    · rename_i hb
      rw [wgqResume_vacated, hb]
      have hlisted : belfry s x.1 = x.2 := (tabGet_of_mem hd.1 hx).2
      rw [hlisted]
    · exact hv
  · exact ⟨ht, hv⟩

/-- With no tile of an op that is over in a queue, nothing leaves one. -/
theorem purgeJobs_of_live {s : State}
    (h : ∀ x ∈ s.dome.belfries, ∀ j ∈ x.2.immediate ++ x.2.deferred ++ x.2.unplaced, jobDead s j = false) :
    purgeJobs s = s := by
  unfold purgeJobs
  refine List.foldlRecOn s.dome.belfries _ (motive := fun t => t = s) rfl ?_
  rintro _ rfl x hx
  dsimp only
  rw [if_neg]
  rw [List.any_eq_true]
  rintro ⟨j, hj, hdead⟩
  rw [h x hx j hj] at hdead
  exact absurd hdead (by decide)

theorem seenAlike_purgeJobs {s : State} (hd : DomeOk s.dome) : SeenAlike s (purgeJobs s) := by
  obtain ⟨bs, hbs⟩ := purgeJobs_frame s
  have hv := purgeJobs_vacated hd
  rw [hbs] at hv ⊢
  exact ⟨rfl, rfl, rfl, rfl, rfl, rfl, hv⟩

theorem freeComparators_frame (s : State) :
    ∃ rg c, freeComparators s = { s with regs := rg, fin := { s.fin with cmpReleasing := c } } := by
  have hregs : ∀ l : List Nat, ∃ rg, l.foldl (fun s c => regSet s (0x80 + 16 * c) 31 31 0) s = { s with regs := rg } := by
    intro l
    refine List.foldlRecOn l _ (motive := fun t : State => ∃ rg, t = { s with regs := rg }) ⟨s.regs, rfl⟩ ?_
    rintro _ ⟨rg, rfl⟩ c -
    exact ⟨_, rfl⟩
  unfold freeComparators
  dsimp only
  obtain ⟨rg, hrg⟩ := hregs (s.fin.cmpReleasing.filter fun c => comparatorTimers s c == 0)
  rw [hrg]
  exact ⟨rg, _, rfl⟩

theorem freeComparators_of_none {s : State} (h : s.fin.cmpReleasing = []) : freeComparators s = s := by
  simp only [freeComparators, h, List.filter_nil, List.foldl_nil]
  rw [← h]

theorem pump_of_none_held {s : State} (h : ∀ x ∈ s.hif.rings, x.2.held = []) : pump s = s := by
  unfold pump
  refine List.foldlRecOn s.hif.rings _ (motive := fun t => t = s) rfl ?_
  rintro _ rfl x hx
  simp [h x hx]

theorem startOne_of_begun {s : State} {o : Op} (ho : s.ops = [o]) (hp : o.phase ≠ .waiting) : startOne s o.id = s := by
  simp [startOne, opById_only ho, hp]

/-- A GEMM that has begun and has dealt its tiles. -/
structure Dealt (o : Op) : Prop where
  begun : o.phase ≠ .waiting
  gemm : (gemmBody o).isSome = true
  asked : o.asked = 2

theorem opWork_of_gemm {o : Op} (ho : (gemmBody o).isSome = true) (s : State) : opWork s o = s := by
  cases hb : o.body <;> simp_all [gemmBody, opWork]

/-- A GEMM whose tiles are dealt does nothing by itself but to ask for its records in the host window. -/
theorem opGo_of_dealt {o : Op} (ho : Dealt o) (s : State) :
    opGo s o = s ∨ ∃ g, recMissing s o = some g ∧ opGo s o = askHost s o.id g := by
  unfold opGo
  split
  · rename_i g hg
    refine .inr ⟨g, ?_, rfl⟩
    split at hg
    · exact nomatch hg
    · exact hg
  · refine .inl ?_
    simp [ho.asked, opWork_of_gemm ho.gemm]

/-- What rounds leave of a device on which nothing starts and nothing is accepted: the one op takes at most requests for records. -/
structure RoundFrame (o : Op) (s t : State) : Prop where
  mem : t.mem = s.mem
  turrets : t.dome.turrets = s.dome.turrets
  groups : t.dome.groups = s.dome.groups
  rings : t.hif.rings = s.hif.rings
  regs : s.fin.cmpReleasing = [] → t.regs = s.regs
  releasing : s.fin.cmpReleasing = [] → t.fin.cmpReleasing = []
  ops : s.ops = [o] → ∃ rs, t.ops = [{ o with reqs := rs }]

theorem RoundFrame.refl (o : Op) (s : State) : RoundFrame o s s :=
  ⟨rfl, rfl, rfl, rfl, fun _ => rfl, fun h => h, fun h => ⟨o.reqs, h⟩⟩

theorem RoundFrame.trans {o : Op} {rs : List Req} {s t u : State} (hst : RoundFrame o s t)
    (ht : s.ops = [o] → t.ops = [{ o with reqs := rs }]) (htu : RoundFrame { o with reqs := rs } t u) : RoundFrame o s u where
  mem := htu.mem.trans hst.mem
  turrets := htu.turrets.trans hst.turrets
  groups := htu.groups.trans hst.groups
  rings := htu.rings.trans hst.rings
  regs h := (htu.regs (hst.releasing h)).trans (hst.regs h)
  releasing h := htu.releasing (hst.releasing h)
  ops h := htu.ops (ht h)

theorem roundFrame_askHost (o : Op) (s : State) (g : Nat) : RoundFrame o s (askHost s o.id g) := by
  unfold askHost
  dsimp only
  split
  · exact RoundFrame.refl o s
  · exact ⟨rfl, rfl, rfl, rfl, fun _ => rfl, fun h => h, fun h => ⟨_, opUpdate_only (s := { s with hif := _ }) h _⟩⟩

theorem wakeOne_of_dealt {s : State} {o : Op} (ho : s.ops = [o]) (hd : Dealt o) :
    wakeOne s o.id = s ∨ ∃ g, recMissing s o = some g ∧ wakeOne s o.id = askHost s o.id g := by
  simp only [wakeOne, opById_only ho]
  split
  · exact opGo_of_dealt hd s
  · exact .inl rfl

theorem roundFrame_wakeOne {s : State} {o : Op} (ho : s.ops = [o]) (hd : Dealt o) : RoundFrame o s (wakeOne s o.id) := by
  rcases wakeOne_of_dealt ho hd with hid | ⟨g, -, hask⟩
  · rw [hid]
    exact RoundFrame.refl o s
  · rw [hask]
    exact roundFrame_askHost o s g

/-- A round comes down to the one op going on. -/
theorem wake_of_dealt {s : State} {o : Op} (ho : s.ops = [o]) (hd : Dealt o) (hh : ∀ x ∈ s.hif.rings, x.2.held = []) :
    wake s = wakeOne (freeComparators (purgeJobs s)) o.id := by
  obtain ⟨bs, hbs⟩ := purgeJobs_frame s
  obtain ⟨rg, c, hfree⟩ := freeComparators_frame (purgeJobs s)
  have hops : (freeComparators (purgeJobs s)).ops = [o] := by rw [hfree, hbs]; exact ho
  have hrings : (freeComparators (purgeJobs s)).hif.rings = s.hif.rings := by rw [hfree, hbs]; rfl
  unfold wake
  generalize freeComparators (purgeJobs s) = t at hops hrings ⊢
  simp only [hops, List.foldl_cons, List.foldl_nil, startOne_of_begun hops hd.begun]
  refine pump_of_none_held ?_
  rw [(roundFrame_wakeOne hops hd).rings, hrings]
  exact hh

theorem roundFrame_cleared (o : Op) (s : State) : RoundFrame o s (freeComparators (purgeJobs s)) := by
  obtain ⟨bs, hbs⟩ := purgeJobs_frame s
  obtain ⟨rg, c, hfree⟩ := freeComparators_frame (purgeJobs s)
  have hstay : s.fin.cmpReleasing = [] → freeComparators (purgeJobs s) = withBelfries s bs := fun h => by
    rw [freeComparators_of_none (by rw [hbs]; exact h), hbs]
  refine ⟨?mem, ?turrets, ?groups, ?rings, fun h => ?regs, fun h => ?releasing, fun h => ⟨o.reqs, ?ops⟩⟩
  case mem | turrets | groups | rings => rw [hfree, hbs]; rfl
  case regs => rw [hstay h]; rfl
  case releasing => rw [hstay h]; exact h
  case ops => rw [hfree, hbs]; exact h

theorem roundFrame_wake {s : State} {o : Op} (ho : s.ops = [o]) (hd : Dealt o) (hh : ∀ x ∈ s.hif.rings, x.2.held = []) :
    RoundFrame o s (wake s) := by
  obtain ⟨bs, hbs⟩ := purgeJobs_frame s
  obtain ⟨rg, c, hfree⟩ := freeComparators_frame (purgeJobs s)
  have hops : (freeComparators (purgeJobs s)).ops = [o] := by rw [hfree, hbs]; exact ho
  rw [wake_of_dealt ho hd hh]
  exact (roundFrame_cleared o s).trans (rs := o.reqs) (fun _ => hops) (roundFrame_wakeOne hops hd)

theorem Dealt.reqs {o : Op} (hd : Dealt o) (rs : List Req) : Dealt { o with reqs := rs } := ⟨hd.begun, hd.gemm, hd.asked⟩

theorem roundFrame_settle {s : State} {o : Op} (ho : s.ops = [o]) (hd : Dealt o) (hh : ∀ x ∈ s.hif.rings, x.2.held = []) :
    RoundFrame o s (settle s) := by
  have hfirst := roundFrame_wake ho hd hh
  obtain ⟨rs, hops⟩ := hfirst.ops ho
  exact hfirst.trans (fun _ => hops) (roundFrame_wake hops (hd.reqs rs) (by rw [hfirst.rings]; exact hh))

/-- With no record to be read a round only clears the queues of dead tiles. -/
theorem wake_of_read {s : State} {o : Op} (ho : OnlyOp s o) (hd : Dealt o) (hr : recMissing (purgeJobs s) o = none) :
    wake s = purgeJobs s := by
  obtain ⟨hops, hfree, hheld⟩ := ho
  obtain ⟨bs, hbs⟩ := purgeJobs_frame s
  have hops' : (purgeJobs s).ops = [o] := by rw [hbs]; exact hops
  rw [wake_of_dealt hops hd hheld, freeComparators_of_none (by rw [hbs]; exact hfree)]
  rcases wakeOne_of_dealt hops' hd with hid | ⟨g, hg, -⟩
  · exact hid
  · rw [hr] at hg
    exact nomatch hg

theorem settle_of_read {s : State} {o : Op} (ho : OnlyOp s o) (hd : Dealt o) (hdome : DomeOk s.dome)
    (hr : recMissing s o = none) : ∃ bs, settle s = withBelfries s bs := by
  have hread : ∀ t : State, DomeOk t.dome → recMissing t o = none → recMissing (purgeJobs t) o = none :=
    fun t ht hrt => ((seenAlike_purgeJobs ht).recMissing hd.gemm).trans hrt
  have hfirst : wake s = purgeJobs s := wake_of_read ho hd (hread s hdome hr)
  obtain ⟨bs, hbs⟩ := purgeJobs_frame s
  obtain ⟨cs, hcs⟩ := purgeJobs_frame (purgeJobs s)
  have honly : OnlyOp (purgeJobs s) o := by rw [hbs]; exact ho
  refine ⟨cs, ?_⟩
  rw [settle, hfirst, wake_of_read honly hd (hread _ (purgeJobs_domeOk hdome) (hread s hdome hr)), hcs, hbs]
  rfl

/-! ### Writes that land in place -/

theorem Memory.putBytes_append (ys : List Byte) : ∀ (xs : List Byte) (m : Memory) (a : Nat),
    (m.putBytes a xs).putBytes (a + xs.length) ys = m.putBytes a (xs ++ ys)
  | [], m, a => rfl
  | x :: xs, m, a => by
    rw [List.cons_append, Memory.putBytes, Memory.putBytes, ← Memory.putBytes_append ys xs (m.put a x) (a + 1), List.length_cons]
    congr 1
    omega

/-- Cut at grains or whole, a write puts the same bytes in the same order. -/
theorem putBytes_grainParts (a : Nat) (bs : List Byte) (m : Memory) :
    (grainParts a bs).foldl (fun m p => m.putBytes p.1 p.2) m = m.putBytes a bs := by
  have hpart : ∀ n, ((List.range n).map fun i =>
      let lo := max a ((a / 64 + i) * 64)
      (lo, (bs.drop (lo - a)).take ((a / 64 + i + 1) * 64 - lo))).foldl (fun m p => m.putBytes p.1 p.2) m =
        m.putBytes a (bs.take ((a / 64 + n) * 64 - a)) := by
    intro n
    induction n with
    | zero =>
      have hnone : a / 64 * 64 - a = 0 := by omega
      simp [hnone, Memory.putBytes]
    | succ n ih =>
      rw [List.range_succ, List.map_append, List.foldl_append, ih]
      simp only [List.map_cons, List.map_nil, List.foldl_cons, List.foldl_nil]
      by_cases hover : bs.length ≤ (a / 64 + n) * 64 - a
      · have hlast : max a ((a / 64 + n) * 64) - a = (a / 64 + n) * 64 - a := by omega
        rw [hlast, List.drop_eq_nil_of_le hover, List.take_nil, Memory.putBytes, List.take_of_length_le hover,
          List.take_of_length_le (by omega)]
      · have hlo : max a ((a / 64 + n) * 64) = a + (bs.take ((a / 64 + n) * 64 - a)).length := by
          rw [List.length_take]; omega
        have hlen : (bs.take ((a / 64 + n) * 64 - a)).length = (a / 64 + n) * 64 - a := by
          rw [List.length_take]; omega
        rw [hlo, Memory.putBytes_append, Nat.add_sub_cancel_left, hlen, ← List.take_add]
        congr 2
        omega
  unfold grainParts
  split
  · rename_i hnil
    rw [List.isEmpty_iff.mp hnil]
    rfl
  · rename_i hne
    have hpos : bs.length ≠ 0 := by simpa using hne
    rw [hpart, List.take_of_length_le (by omega)]

theorem grainParts_bounds {a : Nat} {bs : List Byte} {p : Nat × List Byte} (hp : p ∈ grainParts a bs) :
    a ≤ p.1 ∧ p.1 + p.2.length ≤ a + bs.length := by
  unfold grainParts at hp
  split at hp
  · exact nomatch hp
  · obtain ⟨i, hi, rfl⟩ := List.mem_map.mp hp
    rw [List.mem_range] at hi
    simp only [List.length_take, List.length_drop]
    omega

/-- The range keeps clear of the table directory. -/
abbrev ClearOfDir (s : State) (a n : Nat) : Prop := dirOk s = true → a + n ≤ dirBase s ∨ dirBase s + 4096 ≤ a

theorem dirIds_of_clear {s : State} {a n : Nat} (h : ClearOfDir s a n) : dirIds s (offsetsOf a n) = [] := by
  unfold dirIds
  split
  · rename_i hok
    have hnone : (offsetsOf a n).filter (fun a => decide (dirBase s ≤ a) && decide (a < dirBase s + 4096)) = [] := by
      rw [List.filter_eq_nil_iff]
      intro x hx
      obtain ⟨i, hi, rfl⟩ := List.mem_map.mp hx
      rw [List.mem_range] at hi
      have := h hok
      simp only [Bool.and_eq_true, decide_eq_true_eq]
      omega
    simp [hnone]
  · rfl

theorem txnOf_eq_none {s : State} {n : Nat} : txnOf s n = none ↔ n ∉ s.dome.txns.map (·.num) := by
  simp [txnOf, List.find?_eq_none]

/-- No journal and no bank is being copied, no write waits, and no open group has the number 0. -/
structure WritesPass (s : State) : Prop where
  journals : s.dome.journals = []
  copying : s.mif.copying = []
  held : s.dome.heldWrites = []
  groups : 0 ∉ s.dome.txns.map (·.num)

theorem partWaits_of_pass {s : State} (hw : WritesPass s) {a : Nat} {bs : List Byte} (hc : ClearOfDir s a bs.length) :
    partWaits s a bs = false := by
  simp [partWaits, journalHolds, bankCopies, hw.journals, hw.copying, hw.held, dirIds_of_clear hc, dirFull, dirMoved]

theorem plainPart_of_pass {s : State} (hw : WritesPass s) {p : Nat × List Byte} (hc : ClearOfDir s p.1 p.2.length) :
    plainPart false s p = applyBytes s p.1 p.2 := by
  simp [plainPart, partWaits_of_pass hw hc, dirIds_of_clear hc, dirSwap, dirMoved]

/-- The state with other groups and health bits. -/
def withTxns (s : State) (ts : List Txn) (h : Nat) : State := { s with dome := { s.dome with txns := ts, health := h } }

/-- A group aborts beside ops that name no group: only the groups and the health bits change, and no group its number. -/
theorem abortTxn_frame {s : State} (hops : ∀ o ∈ s.ops, o.hdr.txn = 0) {num : Nat} (hn : num ≠ 0) (st : Status) :
    ∃ ts h, abortTxn s num st = withTxns s ts h ∧ ts.map (·.num) = s.dome.txns.map (·.num) := by
  have hstay : ∀ c : Option Nat, (s.ops.map fun o => if o.hdr.txn == num && !o.isDone && some o.id != c then
      { o with phase := .done .aborted, reqs := [], owed := [] } else o) = s.ops := fun c => by
    refine (List.map_congr_left fun o ho => ?_).trans (List.map_id _)
    rw [if_neg]
    · rfl
    · simp [hops o ho, hn.symm]
  have hnums : ∀ f : Txn → Txn, (∀ t, (f t).num = t.num) →
      (s.dome.txns.map fun t => if t.num == num then f t else t).map (·.num) = s.dome.txns.map (·.num) := fun f hf => by
    rw [List.map_map]
    refine List.map_congr_left fun t _ => ?_
    simp only [Function.comp]
    split <;> simp [hf]
  unfold abortTxn
  split
  · split
    · exact ⟨s.dome.txns, s.dome.health, rfl, rfl⟩
    · simp only [txnUpdate, hstay]
      split
      · exact ⟨_, _, rfl, hnums _ fun _ => rfl⟩
      · exact ⟨_, _, rfl, hnums _ fun _ => rfl⟩
  · exact ⟨s.dome.txns, s.dome.health, rfl, rfl⟩

theorem plainConflicts_frame {s : State} (hops : ∀ o ∈ s.ops, o.hdr.txn = 0) (hn : 0 ∉ s.dome.txns.map (·.num)) (a n : Nat) :
    ∃ ts h, plainConflicts s a n = withTxns s ts h ∧ ts.map (·.num) = s.dome.txns.map (·.num) := by
  unfold plainConflicts
  refine List.foldlRecOn _ _ (motive := fun u => ∃ ts h, u = withTxns s ts h ∧ ts.map (·.num) = s.dome.txns.map (·.num))
    ⟨s.dome.txns, s.dome.health, rfl, rfl⟩ ?_
  rintro _ ⟨ts, h, rfl, hts⟩ t ht
  have ht0 : t.num ≠ 0 := fun h0 => hn (h0 ▸ List.mem_map_of_mem (List.mem_of_mem_filter ht))
  obtain ⟨us, k, habort, hus⟩ := abortTxn_frame (s := withTxns s ts h) hops ht0 .conflict
  exact ⟨us, k, habort, hus.trans hts⟩

theorem plainParts_of_pass : ∀ {l : List (Nat × List Byte)} {s : State}, WritesPass s →
    (∀ p ∈ l, ClearOfDir s p.1 p.2.length) →
    l.foldl (plainPart false) s = { s with mem := l.foldl (fun m p => m.putBytes p.1 p.2) s.mem }
  | [], s, _, _ => rfl
  | p :: l, s, hw, hc => by
    have happly := plainPart_of_pass hw (hc p List.mem_cons_self)
    rw [List.foldl_cons, List.foldl_cons, happly]
    exact plainParts_of_pass (s := applyBytes s p.1 p.2) ⟨hw.journals, hw.copying, hw.held, hw.groups⟩
      fun q hq => hc q (List.mem_cons_of_mem p hq)

theorem plainWrite_of_pass {s : State} (hops : ∀ o ∈ s.ops, o.hdr.txn = 0) (hw : WritesPass s) {a : Nat} {bs : List Byte}
    (hc : ClearOfDir s a bs.length) :
    ∃ ts h, plainWrite s a bs = { withTxns s ts h with mem := s.mem.putBytes a bs } ∧
      ts.map (·.num) = s.dome.txns.map (·.num) := by
  obtain ⟨ts, h, hcut, hts⟩ := plainConflicts_frame hops hw.groups a bs.length
  refine ⟨ts, h, ?_, hts⟩
  rw [plainWrite, hcut, plainParts_of_pass (s := withTxns s ts h) ⟨hw.journals, hw.copying, hw.held, hts ▸ hw.groups⟩,
    putBytes_grainParts]
  · rfl
  · intro p hp hok
    obtain ⟨hlo, hhi⟩ := grainParts_bounds hp
    have := hc hok
    change p.1 + p.2.length ≤ dirBase s ∨ dirBase s + 4096 ≤ p.1
    omega

/-- A device on which writes of its one op have landed: memory has taken them, the op keeps what was there, and groups that
they met have aborted. -/
def writesLanded (s : State) (o : Op) (m : Memory) (before : List (Nat × Byte)) (ts : List Txn) (h : Nat) : State :=
  { withTxns s ts h with mem := m, ops := [{ o with before := before }] }

theorem opWrite_of_pass {s : State} {o p : Op} (hops : s.ops = [p]) (hid : p.id = o.id) (htxn : p.hdr.txn = 0)
    (ho : o.hdr.txn = 0) (hw : WritesPass s) {a : Nat} {bs : List Byte} (hr : regionOf a ≠ .hostWindow)
    (hc : ClearOfDir s a bs.length) :
    ∃ bf ts h, opWrite s o a bs = .done (writesLanded s p (s.mem.putBytes a bs) bf ts h) ∧
      ts.map (·.num) = s.dome.txns.map (·.num) := by
  have hkeep : ∃ bf, keepBefore s o a bs.length = { s with ops := [{ p with before := bf }] } := by
    unfold keepBefore
    simp only [opUpdate, hops, List.map_cons, List.map_nil, hid, beq_self_eq_true, if_true]
    exact ⟨_, rfl⟩
  obtain ⟨bf, hkeep⟩ := hkeep
  have hnone : txnOf s o.hdr.txn = none := txnOf_eq_none.mpr (ho ▸ hw.groups)
  have hplain : plainWaits s a bs = false := by
    refine List.any_eq_false.mpr fun q hq => ?_
    obtain ⟨hlo, hhi⟩ := grainParts_bounds hq
    rw [partWaits_of_pass hw fun hok => by have := hc hok; omega]
    exact Bool.false_ne_true
  obtain ⟨ts, h, hwrite, hts⟩ := plainWrite_of_pass (s := keepBefore s o a bs.length) (a := a) (bs := bs)
    (by rw [hkeep]; simpa using htxn) (by rw [hkeep]; exact ⟨hw.journals, hw.copying, hw.held, hw.groups⟩)
    (by rw [hkeep]; exact hc)
  rw [hkeep] at hwrite hts
  unfold opWrite
  split
  · contradiction
  · exact ⟨bf, s.dome.txns, s.dome.health, by rw [hkeep]; rfl, rfl⟩
  · simp only [hnone, hplain]
    exact ⟨bf, ts, h, by rw [hkeep, hwrite]; rfl, hts⟩

/-- Writes that land in place all do. -/
theorem opWrites_of_inPlace {o : Op} (ho : o.hdr.txn = 0) : ∀ {ws : List (Nat × List Byte)} {s : State} {p : Op}, s.ops = [p] →
    p.id = o.id → p.hdr.txn = 0 → AllInPlace s ws →
    ∃ bf ts h, opWrites s o ws = .done (writesLanded s p (writesOn s.mem ws) bf ts h)
  | [], s, p, hops, _, _, _ => ⟨p.before, s.dome.txns, s.dome.health, by
      unfold opWrites writesLanded
      rw [← hops]
      rfl⟩
  | (a, bs) :: ws, s, p, hops, hid, htxn, hin => by
    obtain ⟨hjournals, hcopying, hheld, hnone, hws⟩ := hin
    have hgroups := txnOf_eq_none.mp hnone
    obtain ⟨hregion, hclear⟩ := hws (a, bs.length) List.mem_cons_self
    obtain ⟨bf, ts, h, hwrite, hts⟩ := opWrite_of_pass (a := addrOff a) (bs := bs) hops hid htxn ho
      ⟨hjournals, hcopying, hheld, hgroups⟩ hregion hclear
    have hrest : AllInPlace (writesLanded s p (s.mem.putBytes (addrOff a) bs) bf ts h) ws :=
      ⟨hjournals, hcopying, hheld, txnOf_eq_none.mpr (hts ▸ hgroups), fun w hw => hws w (List.mem_cons_of_mem _ hw)⟩
    obtain ⟨cf, us, k, hwrites⟩ := opWrites_of_inPlace ho (s := writesLanded s p (s.mem.putBytes (addrOff a) bs) bf ts h)
      (p := { p with before := bf }) rfl hid htxn hrest
    refine ⟨cf, us, k, ?_⟩
    simp only [opWrites, hwrite]
    exact hwrites

end Sys2Proof.Machine
end

section
/-! PROOFS. The tiles of a GEMM (spec/03 R61 to R67, R71, spec/05 R117, spec/08 R190): a tile started, a block that came late,
a tile completed. O43 holds. -/

namespace Sys2Proof.Machine

/-! ### A tile started -/

/-- A tile's op and its GEMM. -/
theorem gemm_of_job {s : State} {o : Op} {kind : GemmKind} {b : GemmBody} {j : TileJob} (ho : s.ops = [o])
    (hg : gemmBody o = some (kind, b)) (hop : j.op = o.id) :
    ((opById s j.op).bind fun o => (gemmBody o).map fun k => (o, gemmOf s o k.1 k.2)) = some (o, gemmOf s o kind b) := by
  rw [hop, opById_only ho]
  simp [hg]

theorem payBursts_frame (a u : Nat) : ∀ (l : List Nat) (s : State), ∃ c, (payBursts s a u l).1 = { s with chime := c }
  | [], s => ⟨s.chime, rfl⟩
  | c :: cs, s => by
    unfold payBursts
    unfold tryBurst
    dsimp only
    split
    · rename_i t ht
      split at ht
      · exact nomatch ht
      · obtain ⟨c', hc'⟩ := payBursts_frame a u cs t
        rw [hc', ← Option.some.inj ht]
        exact ⟨c', rfl⟩
    · exact ⟨s.chime, rfl⟩

theorem planCount_only {s : State} {o : Op} (ho : s.ops = [o]) (p : TilePlan) (skip : Bool) :
    ∃ w c, planCount s o.id p skip = { s with ops := [{ o with work := w, c3 := c }] } := by
  unfold planCount
  split
  · refine ⟨o.work, o.c3, ?_⟩
    rw [← ho]
  · simp only [opUpdate, ho, List.map_cons, List.map_nil, beq_self_eq_true, if_true]
    split
    · exact ⟨_, _, rfl⟩
    · exact ⟨o.work, o.c3, rfl⟩

/-- Without a plan every row is fetched ahead, so that no block waits. -/
theorem lateBlocks_of_unplanned {s : State} {o : Op} (hp : o.plan = none) (g : Gemm) (tile : Nat) (a : List (List Val))
    (b : List (List (Option Val))) : (tilePlan s o g tile a b).lateBlocks = [] := by
  simp [tilePlan, hp, TilePlan.lateBlocks]

/-- The state while a tile starts: its belfry, its op's counts and the tokens have changed. -/
def tileStarts (s : State) (o : Op) (bs : Tab Belfry) (c : Chime) (w : Work) (n : Nat) : State :=
  { s with ops := [{ o with work := w, c3 := n }], chime := c, dome := { s.dome with belfries := bs } }

theorem startTile_of_ready {s : State} {o : Op} {kind : GemmKind} {b : GemmBody} {t : Nat} {j : TileJob} {ops : TileOps}
    (ho : s.ops = [o]) (hg : gemmBody o = some (kind, b)) (hp : o.plan = none) (hstop : s.dome.stopped = false)
    (htrip : s.dome.tripped = false) (hfence : (belfry s (t / 16)).fenced = false) (hpll : (belfry s (t / 16)).pllOn = true)
    (hvac : t % 16 ∉ (belfry s (t / 16)).vacated) (hbuf : (turret s t).buf0 = none)
    (hjob : nextJob s (belfry s (t / 16)) = some j) (hop : j.op = o.id)
    (hops : tileOps s o (gemmOf s o kind b) j.tile = .ok ops) :
    ∃ bs c w n owed issue, startTile s t = turretPut (tileStarts s o bs c w n) t ((turret s t).setBuf 0
      (some (fillBuf o (gemmOf s o kind b) j ops (tilePlan s o (gemmOf s o kind b) j.tile ops.a ops.b) owed issue))) := by
  unfold startTile
  simp only [hfence, hpll, hstop, htrip, hbuf, hjob, gemm_of_job ho hg hop, hops, hp, Option.isNone_none, if_true,
    Bool.not_true, Bool.or_false, List.contains_eq_mem, hvac, decide_false, if_false, Bool.false_eq_true]
  generalize tilePlan s o (gemmOf s o kind b) j.tile ops.a ops.b = p
  generalize gemmOf s o kind b = g
  generalize hcounted : planCount _ o.id p _ = S
  obtain ⟨bs, w, n, rfl⟩ : ∃ bs w n, S = tileStarts s o bs s.chime w n := by
    obtain ⟨w, n, hcount⟩ := planCount_only (s := belfryPut s (t / 16) _) ho p _
    exact ⟨_, w, n, hcounted.symm.trans hcount⟩
  generalize hpaid : payBursts _ 0 t _ = P
  obtain ⟨c, hc⟩ : ∃ c, P.1 = tileStarts s o bs c w n := hpaid ▸ payBursts_frame 0 t _ _
  generalize hissued : payBursts _ 1 t _ = Q
  obtain ⟨d, hd⟩ : ∃ d, Q.1 = tileStarts s o bs d w n := by
    obtain ⟨d, hd⟩ := payBursts_frame 1 t (fusedIssue P.1 o g j.tile) P.1
    rw [hissued, hc] at hd
    exact ⟨d, hd⟩
  exact ⟨bs, d, w, n, P.2, Q.2, by rw [hd]; rfl⟩

/-! ### A block that came late, and a buffer with nothing finished -/

theorem seenAlike_turretPut (s : State) (t : Nat) (x : Turret) : SeenAlike s (turretPut s t x) :=
  ⟨rfl, rfl, rfl, rfl, rfl, rfl, fun _ => rfl⟩

theorem turretPut_domeOk {s : State} (hd : DomeOk s.dome) (t : Nat) (x : Turret) : DomeOk (turretPut s t x).dome :=
  (turretPut_kept (Kept.refl s false)).dome hd

theorem lateArrival_of_more {s : State} {t i : Nat} {x : TileBuf} {k m : Nat} {rest : List Nat}
    (hx : (turret s t).buf i = some x) (hm : x.missing = k :: m :: rest) :
    lateArrival s t i = turretPut s t ((turret s t).setBuf i (some { x with missing := m :: rest })) := by
  simp only [lateArrival, hx, hm]

theorem lateArrival_of_last {s : State} {o : Op} {kind : GemmKind} {b : GemmBody} {t i : Nat} {x : TileBuf} {k : Nat}
    {ops : TileOps} (ho : s.ops = [o]) (hg : gemmBody o = some (kind, b)) (hx : (turret s t).buf i = some x)
    (hm : x.missing = [k]) (hop : x.job.op = o.id) (hops : tileOps s o (gemmOf s o kind b) x.job.tile = .ok ops) :
    ∃ y, lateArrival s t i = turretPut s t ((turret s t).setBuf i (some y)) ∧ y.missing = [] ∧ y.job = x.job ∧
      y.acc = (tileEntries o (gemmOf s o kind b) ops
        (tilePlan s o (gemmOf s o kind b) x.job.tile ops.a ops.b)).map (·.1) := by
  simp only [lateArrival, hx, hm, gemm_of_job ho hg hop, hops]
  exact ⟨_, rfl, rfl, rfl, rfl⟩

/-- A buffer changed beside a GEMM whose records are read: the round after it only clears queues. -/
theorem settle_turretPut {s : State} {o : Op} (hs : Sound s = true) (ho : OnlyOp s o) (hd : Dealt o) (hr : recMissing s o = none)
    (t : Nat) (x : Turret) : turret (settle (turretPut s t x)) t = x ∧ (settle (turretPut s t x)).mem = s.mem ∧
      (settle (turretPut s t x)).regs = s.regs ∧ (settle (turretPut s t x)).ops = s.ops := by
  have hdome := domeOk_of_sound hs
  obtain ⟨bs, hbs⟩ := settle_of_read (s := turretPut s t x) ho hd (turretPut_domeOk hdome t x)
    (((seenAlike_turretPut s t x).recMissing hd.gemm).trans hr)
  rw [hbs]
  exact ⟨(turret_turretPut hdome t x t).trans (if_pos rfl), rfl, rfl, rfl⟩

theorem lateArrival_of_empty {s : State} {t i : Nat} (hx : (turret s t).buf i = none) : lateArrival s t i = s := by
  simp only [lateArrival, hx]
theorem completeTile_of_empty {s : State} {t i : Nat} (hx : (turret s t).buf i = none) : completeTile s t i = s := by
  simp only [completeTile, hx]

theorem settle_of_live {s : State} {o : Op} (ho : OnlyOp s o) (hd : Dealt o) (hr : recMissing s o = none)
    (hlive : ∀ x ∈ s.dome.belfries, ∀ j ∈ x.2.immediate ++ x.2.deferred ++ x.2.unplaced, jobDead s j = false) :
    settle s = s := by
  have hpurge : purgeJobs s = s := purgeJobs_of_live hlive
  have hwake : wake s = s := (wake_of_read ho hd (hpurge.symm ▸ hr)).trans hpurge
  rw [settle, hwake, hwake]

/-! ### A tile completed -/

@[simp] theorem writesLanded_ops (s : State) (o : Op) (m : Memory) (bf : List (Nat × Byte)) (ts : List Txn) (h : Nat) :
    (writesLanded s o m bf ts h).ops = [{ o with before := bf }] := rfl

theorem lastExp_of_unscaled {g : Gemm} (hg : g.scaled = false) (o : Op) (e : Option Int) : lastExp o g e = none := by
  unfold lastExp
  split
  · simp [hg]
  · rfl

/-- The op is the same GEMM, as far along, with this work. -/
structure SameGemm (o q : Op) (w : Work) : Prop where
  id : q.id = o.id
  phase : q.phase = o.phase
  body : q.body = o.body
  asked : q.asked = o.asked
  work : q.work = w

theorem tileToMemory_of_inPlace {s : State} {o : Op} {g : Gemm} {tile n l m k w : Nat} {am : Option Int} {acc : List Acc}
    (hops : s.ops = [o]) (htxn : o.hdr.txn = 0) (hwork : o.work = .gemm n am none l m k w) (hscaled : g.scaled = false)
    (hhist : g.hist = false) (hin : AllInPlace s (emitTile s o g tile acc).writes) :
    ∃ q ts h, tileToMemory s o g tile acc =
        .done { withTxns s ts h with mem := writesOn s.mem (emitTile s o g tile acc).writes, ops := [q] } ∧
      SameGemm o q (.gemm n (maxExp am (emitTile s o g tile acc).amax) none l m k w) := by
  obtain ⟨bf, ts, h, hwrites⟩ := opWrites_of_inPlace htxn hops rfl htxn hin
  simp only [tileToMemory, opWritesThen, hwrites, lastExp_of_unscaled hscaled, hhist, opTally, opUpdate, writesLanded_ops,
    List.map_cons, List.map_nil, beq_self_eq_true, if_true, hwork]
  exact ⟨_, ts, h, rfl, rfl, rfl, rfl, rfl, rfl⟩

theorem tileDone_of_work {s : State} {o q : Op} {g : Gemm} {x : TileBuf} {n l m k w : Nat} {am : Option Int}
    (hops : s.ops = [q]) (hid : q.id = o.id) (hact : q.phase = .active) (hwork : q.work = .gemm (n + 1) am none l m k w)
    (hstrict : g.strictMd = false ∨ x.malformed = 0) (hhist : g.hist = false ∨ g.grad = true) :
    ∃ p, tileDone s o g x = { s with ops := [p] } ∧ p.id = q.id ∧ p.body = q.body ∧ p.asked = q.asked ∧
      p.work = .gemm n am none l m k w ∧ p.phase = if n = 0 then .done .ok else .active := by
  have hsound : (g.strictMd && decide (x.malformed ≠ 0)) = false := by rcases hstrict with h | h <;> simp [h]
  have hbins : (g.hist && !g.fuse && !g.grad) = false := by rcases hhist with h | h <;> simp [h]
  simp only [tileDone, opTally, opUpdate, opById, opDone, hops, List.map_cons, List.map_nil, List.find?_cons, hid,
    beq_self_eq_true, if_true, hwork, Op.isDone, hact, hsound, hbins, Bool.false_eq_true, if_false, Nat.add_sub_cancel]
  cases n with
  | zero => exact ⟨_, rfl, rfl, rfl, rfl, rfl, rfl⟩
  | succ n => exact ⟨_, rfl, rfl, rfl, rfl, rfl, by simp⟩

/-- A tile whose output is out: what the op makes of it, and a free buffer. -/
theorem completeTile_of_out {s v : State} {o : Op} {kind : GemmKind} {b : GemmBody} {t i : Nat} {x : TileBuf} {g : Gemm}
    (hops : s.ops = [o]) (hact : o.phase = .active) (hg : gemmBody o = some (kind, b)) (hgo : g = gemmOf s o kind b)
    (hx : (turret s t).buf i = some x) (howed : x.owed = []) (hissue : x.issue = []) (hmissing : x.missing = [])
    (hjob : x.job.op = o.id) (hstrict : g.strictMd = false ∨ x.malformed = 0) (hfuse : g.fuse = false)
    (hout : (if g.grad then tileToGroup s o g x.job.tile x.acc else tileToMemory s o g x.job.tile x.acc) = .done v) :
    completeTile s t i = turretPut (tileDone v o g x) t ((turret (tileDone v o g x) t).setBuf i none) := by
  have hsound : (g.strictMd && decide (x.malformed ≠ 0)) = false := by rcases hstrict with h | h <;> simp [h]
  have hrun : o.isActive = true := by simp [Op.isActive, hact]
  subst hgo
  simp only [completeTile, hx, hjob, opById_only hops, hrun, howed, hissue, hmissing, hg, hsound, hfuse, hout, List.isEmpty_nil,
    Bool.not_true, Bool.or_self, Bool.false_eq_true, if_false]

theorem gemmBody_of_body {p q : Op} (h : p.body = q.body) : gemmBody p = gemmBody q := by simp only [gemmBody, h]

/-- A weight-gradient op is not fused. -/
theorem fuse_of_grad {g : Gemm} (h : g.grad = true) : g.fuse = false := by
  simp only [Gemm.grad, Bool.and_eq_true, Bool.not_eq_true'] at h
  exact h.1

theorem SameGemm.dealt {o q : Op} {w : Work} (h : SameGemm o q w) (hd : Dealt o) : Dealt q :=
  ⟨h.phase ▸ hd.begun, gemmBody_of_body h.body ▸ hd.gemm, h.asked.trans hd.asked⟩

theorem exec_tileStart (t : Fin 256) (s : State) : exec (.tileStart t) s = .next (settle (startTile s t.val)) := rfl
theorem exec_tileComplete (t : Fin 256) (i : Fin 2) (s : State) :
    exec (.tileComplete t i) s = .next (settle (completeTile s t.val i.val)) := rfl
theorem exec_lateFetchArrival (t : Fin 256) (i : Fin 2) (s : State) :
    exec (.lateFetchArrival t i) s = .next (settle (lateArrival s t.val i.val)) := rfl

/-- A tile counted done and its buffer freed: with the last tile the op is done, and rounds leave it so. -/
theorem settle_tileDone {v : State} {o q : Op} {g : Gemm} {x : TileBuf} {t i n l m k w : Nat} {am : Option Int}
    (hdome : DomeOk v.dome) (hheld : ∀ x ∈ v.hif.rings, x.2.held = []) (hops : v.ops = [q]) (hd : Dealt o)
    (hsame : SameGemm o q (.gemm (n + 1) am none l m k w)) (hact : o.phase = .active)
    (hstrict : g.strictMd = false ∨ x.malformed = 0) (hhist : g.hist = false ∨ g.grad = true) :
    ∃ u p, settle (turretPut (tileDone v o g x) t ((turret (tileDone v o g x) t).setBuf i none)) = u ∧
      (turret u t).buf i = none ∧ u.ops = [p] ∧ p.work = .gemm n am none l m k w ∧
      p.phase = (if n = 0 then .done .ok else .active) ∧ u.mem = v.mem ∧ u.dome.groups = v.dome.groups ∧
      (v.fin.cmpReleasing = [] → u.regs = v.regs) := by
  obtain ⟨p, hdone, -, hbody, hasked, hwork, hphase⟩ :=
    tileDone_of_work hops hsame.id (hsame.phase.trans hact) hsame.work hstrict hhist
  have hdealt : Dealt p := by
    refine ⟨?_, gemmBody_of_body hbody ▸ (hsame.dealt hd).gemm, hasked.trans (hsame.dealt hd).asked⟩
    rw [hphase]
    split <;> simp
  rw [hdone]
  generalize hfreed : (turret { v with ops := [p] } t).setBuf i none = y
  have hround := roundFrame_settle (s := turretPut { v with ops := [p] } t y) rfl hdealt hheld
  obtain ⟨rs, hrs⟩ := hround.ops rfl
  have hturret : turret (settle (turretPut { v with ops := [p] } t y)) t = y := by
    rw [turret, hround.turrets]
    exact (turret_turretPut (s := { v with ops := [p] }) hdome t y t).trans (if_pos rfl)
  have hbuf : y.buf i = none := hfreed ▸ Turret.buf_setBuf _ i none
  exact ⟨_, _, rfl, hturret.symm ▸ hbuf, hrs, hwork, hphase, hround.mem, hround.groups, hround.regs⟩

/-! ### The tiles' commands -/

theorem Dealt.of_active {o : Op} {k : GemmKind × GemmBody} (hact : o.phase = .active) (hg : gemmBody o = some k)
    (hasked : o.asked = 2) : Dealt o :=
  ⟨by simp [hact], by simp [hg], hasked⟩

/-- Settles O43, clause by clause: what the command makes of the turret's buffer, and then rounds in which nothing starts and
nothing is accepted. -/
theorem tiles : Obligations.Tiles := by
  unfold Obligations.Tiles
  refine ⟨?start, ?late, ?last, ?store, ?give, ?idle⟩
  case start =>
    intro s o kind b t j ops hs ho hact hg hasked hp hrun htrip hfence hpll hvac hbuf hjob hop hops
    obtain ⟨hone, hrel, hheld⟩ := ho
    obtain ⟨bs, c, w, n, owed, issue, hstart⟩ :=
      startTile_of_ready hone hg hp hrun.1 htrip hfence hpll hvac hbuf hjob hop hops
    have hlate := lateBlocks_of_unplanned (s := s) hp (gemmOf s o kind b) j.tile ops.a ops.b
    have hd : Dealt { o with work := w, c3 := n } := .of_active hact ((gemmBody_of_body rfl).trans hg) hasked
    have hround := roundFrame_settle (s := startTile s t.val) (by rw [hstart]; rfl) hd (by rw [hstart]; exact hheld)
    generalize tilePlan s o (gemmOf s o kind b) j.tile ops.a ops.b = p at hstart hlate ⊢
    generalize gemmOf s o kind b = g at hstart ⊢
    have hturrets : ∀ y, turret (settle (startTile s t.val)) y =
        if y = t.val then (turret s t.val).setBuf 0 (some (fillBuf o g j ops p owed issue)) else turret s y := by
      intro y
      rw [turret, hround.turrets, hstart]
      exact tabGet_tabPut t.val _ y (domeOk_of_sound hs).2.1
    refine ⟨_, fillBuf o g j ops p owed issue, exec_tileStart t s, ?_, rfl, hlate, ?_, ?_, ?_, ?_, fun y hy => ?_⟩
    · rw [hturrets, if_pos rfl]; rfl
    · simp [fillBuf, hlate]
    · rw [hturrets, if_pos rfl]; rfl
    · rw [hround.mem, hstart]; rfl
    · rw [hround.regs (by rw [hstart]; exact hrel), hstart]; rfl
    · rw [hturrets, if_neg hy]
  case late =>
    intro s o kind b t i x k m rest hs ho hact hg hasked hread hx hm
    obtain ⟨hturret, hmem, hregs, hops⟩ := settle_turretPut hs ho (.of_active hact hg hasked) hread t.val
      ((turret s t.val).setBuf i.val (some { x with missing := m :: rest }))
    refine ⟨_, exec_lateFetchArrival t i s, ?_⟩
    rw [lateArrival_of_more hx hm, hturret]
    exact ⟨Turret.buf_setBuf _ _ _, hmem, hregs, hops⟩
  case last =>
    intro s o kind b t i x k ops hs ho hact hg hasked hread hx hm hjob htile
    obtain ⟨y, hlate, hmissing, hy, hacc⟩ := lateArrival_of_last ho.1 hg hx hm hjob htile
    obtain ⟨hturret, hmem, -, hops⟩ := settle_turretPut hs ho (.of_active hact hg hasked) hread t.val
      ((turret s t.val).setBuf i.val (some y))
    refine ⟨_, y, exec_lateFetchArrival t i s, ?_⟩
    rw [hlate, hturret]
    exact ⟨Turret.buf_setBuf _ _ _, hmissing, hy, hacc, hmem, hops⟩
  case store =>
    intro s o kind b t i x n l m k w am g hs ho hact hg hasked hgo hx howed hissue hmissing hjob htxn hwork hgrad hfuse
      hscaled hhist hstrict hin
    obtain ⟨hone, hrel, hheld⟩ := ho
    obtain ⟨q, ts, h, hout, hsame⟩ := tileToMemory_of_inPlace hone htxn hwork hscaled hhist hin
    obtain ⟨u, p, hu, hbuf, hops, hpwork, hphase, hmem, -, hregs⟩ :=
      settle_tileDone (v := { withTxns s ts h with mem := writesOn s.mem (emitTile s o g x.job.tile x.acc).writes, ops := [q] })
        (t := t.val) (i := i.val) (domeOk_of_sound (s := s) hs) hheld rfl (.of_active hact hg hasked) hsame hact hstrict
        (.inl hhist)
    refine ⟨u, p, ?_, hbuf, hops, hpwork, hphase, hmem, hregs hrel⟩
    rw [exec_tileComplete, completeTile_of_out hone hact hg hgo hx howed hissue hmissing hjob hstrict hfuse
      (by rw [hgrad]; exact hout), hu]
  case give =>
    intro s v o kind b t i x n l m k w g hs ho hact hg hasked hgo hx howed hissue hmissing hjob htxn hwork hgrad hstrict hout
      hops hrings
    obtain ⟨hone, -, hheld⟩ := ho
    have hdome : DomeOk v.dome := ((tileToGroup_kept (Kept.refl s false)).of hout).dome (domeOk_of_sound hs)
    obtain ⟨u, p, hu, hbuf, hops, -, hphase, hmem, hgroups, -⟩ := settle_tileDone (t := t.val) (i := i.val) hdome
      (by rw [hrings]; exact hheld) (hops.trans hone) (.of_active hact hg hasked) ⟨rfl, rfl, rfl, rfl, hwork⟩ hact hstrict
      (.inr hgrad)
    refine ⟨u, p, ?_, hbuf, hops, hphase, hgroups, hmem⟩
    rw [exec_tileComplete, completeTile_of_out hone hact hg hgo hx howed hissue hmissing hjob hstrict (fuse_of_grad hgrad)
      (by rw [hgrad]; exact hout), hu]
  case idle =>
    intro s o kind b t i ho hact hg hasked hread hlive hx
    rw [exec_tileComplete, exec_lateFetchArrival, completeTile_of_empty hx, lateArrival_of_empty hx,
      settle_of_live ho (.of_active hact hg hasked) hread hlive]
    exact ⟨rfl, rfl⟩

end Sys2Proof.Machine
end

section
/-! PROOFS. A GEMM with the ELEM fused into it (spec/03 R78, spec/04 R93): O42 is refuted, on the one clause that does not ask
for a device with no comparator release pending. -/

namespace Sys2Proof.Machine

/-! ### The refutation of O42 -/

/-- Chip 0x8005 of job 1, with ring 0 enabled. Memory holds the program OUT O0 ← S0 at 0x1000 and its stream table at 0x2000,
all of it addressed through 0xFFFF (this device). -/
def chip8005 : State :=
  { fin := { stage := 4, ready := true, kref := true, memoryDone := true, belfryImage := true, railEn := 63, railPg := 63,
             perstLow := false, lc := 1, serial := 77 },
    time := { keep := 5000, runs := true },
    regs := [(0x101008, 0x80304000), (0x800000, 0x80050001), (0xE00100, 64), (0xE00104, 0x00400040), (0xE00108, 0x00800040),
      (0xE0010C, 0x00C00002), (0xE00110, 0x01000040), (0xE00114, 0x04000400)],
    mem := [(0x1000, leBytes 4 0x480C3FFC),
      (0x2000, [0xFFFF000000003000, 0xFFFFFFFFFFFFFFFF, 0xFFFFFFFFFFFFFFFF, 0xFFFFFFFFFFFFFFFF, 0xFFFF000000004000,
        0xFFFFFFFFFFFFFFFF].flatMap fun a => leBytes 8 a ++ leBytes 8 0xFFFFFFFFFFFFFFFF ++ leBytes 16 0)].foldl
      (fun m w => m.putBytes w.1 w.2) {} }

/-- A 1 × 2 × 1 integer product with FUSE_NEXT, whose A operand names chip 0x8005 by its number. -/
def pairGemm : GemmBody :=
  { a := 0x8005000000000100, b := 0xFFFF000000000200, d := 0xFFFFFFFFFFFFFFFF, aux := 0xFFFFFFFFFFFFFFFF, m := 1, aFmt := 8,
    n := 2, bFmt := 8, k := 1, dFmt := 0xB, mask := 1, numCtl := 0, flags := 0x80, outTensor := 0, layer := 0, slices := 0,
    margin := 0 }

/-- The ELEM after it: one row of two values. -/
def pairElem : ElemBody :=
  { prog := 0xFFFF000000001000, stream := 0xFFFF000000002000, rowRes := 0xFFFFFFFFFFFFFFFF, rows := 1, rowLen := 2, mask := 1,
    numCtl := 0, flags := 0, outTensor := 0, layer := 0, progLen := 1, prog2Len := 0, tapCfg := 0, tapCfg2 := 0 }

def pairGemmDesc : Desc := { hdr := { txn := 0, depTag := 0, flags := 0, stream := 4 }, body := .gemm pairGemm }
def pairElemHdr : Hdr := { txn := 0, depTag := 0, flags := 0, stream := 3 }
def pairElemDesc : Desc := { hdr := pairElemHdr, body := .elem pairElem }

/-- The GEMM waits at ring 0 for its ELEM, and the release of "comparator" 0x7FFF8 is pending: no comparator has this number,
which `Sound` does not rule out, and the register that a release clears, 0x80 + 16 c, is then GAL_SELF (0x800000). -/
def gemmWaits : State :=
  { ringPut chip8005 0 { held := [pairGemmDesc] } with fin := { chip8005.fin with cmpReleasing := [0x7FFF8] } }

/-- The same with the ELEM come. -/
def pairWaits : State := ringPut gemmWaits 0 { ring gemmWaits 0 with held := [pairGemmDesc, pairElemDesc] }

/-- Freeing the "comparator" takes the top bit off the device's own chip number, so that 0x8005 is another device. -/
theorem ownChip_after_freeComparators :
    ownChip pairWaits = 0x8005 ∧ ownChip (freeComparators pairWaits) = 5 := by decide +kernel

theorem gemmWaits_sound : Sound gemmWaits = true := by decide +kernel

/-- In the state in which the pair is taken, nothing refuses the GEMM. -/
theorem pairGemm_passes :
    recMissing pairWaits (newOp pairWaits 0 pairGemmDesc 0) = none ∧
      mustWait pairWaits (newOp pairWaits 0 pairGemmDesc 0) = false ∧
      opStatus pairWaits (newOp pairWaits 0 pairGemmDesc 0) = none ∧
      readsView pairWaits (newOp pairWaits 0 pairGemmDesc 0) = false := by decide +kernel

/-- Nor the ELEM. -/
theorem pairElem_passes :
    recMissing pairWaits (newOp pairWaits 0 pairElemDesc 1) = none ∧
      opStatus pairWaits (newOp pairWaits 0 pairElemDesc 1)
        (some (fusedShape pairWaits (newOp pairWaits 0 pairGemmDesc 0) .dense pairGemm)) = none ∧
      readsView pairWaits (newOp pairWaits 0 pairElemDesc 1) = false := by decide +kernel

/-- The round frees comparators before it looks at the pair, and then refuses both. -/
theorem gemmWaits_elem_refused :
    ∃ t, exec (.elem 0 pairElemHdr pairElem) gemmWaits = .next t ∧ t.ops.map (·.accepted) = [false, false] :=
  ⟨_, rfl, by decide +kernel⟩

/-- Refutes O42: the clause on a GEMM with FUSE_NEXT and its ELEM leaves free which comparators are being released. The round
that takes the pair frees them first, and a released number out of range clears a bit of the device's own chip number, after
which an operand on this chip is out of range. -/
theorem not_matrixOps : ¬ Obligations.MatrixOps := by
  unfold Obligations.MatrixOps
  rintro ⟨-, -, -, fused⟩
  obtain ⟨gemmRec, gemmGoes, gemmStatus, gemmView⟩ := pairGemm_passes
  obtain ⟨elemRec, elemStatus, elemView⟩ := pairElem_passes
  obtain ⟨t, p, q, hrun, hops, -, -, -, hp, -⟩ :=
    fused gemmWaits pairWaits 0 pairElemHdr pairGemmDesc pairGemm pairElem rfl (by decide) gemmWaits_sound rfl
      (by decide +kernel) rfl rfl rfl rfl rfl (by decide +kernel) (by decide +kernel) (by decide) (by decide) (by decide) rfl
      gemmRec elemRec gemmGoes gemmStatus elemStatus gemmView elemView
  obtain ⟨t', hrun', hrefused⟩ := gemmWaits_elem_refused
  obtain rfl : t = t' := Host.Outcome.next.inj (hrun.symm.trans hrun')
  simp [hops, hp] at hrefused

end Sys2Proof.Machine
end

section
/-! PROOFS. An op command on a device at rest (spec/13 R331 to R336): the ring hands its descriptor on, the op is accepted,
starts, and comes to its work with memory, registers and host as they were. A body that moves data meets `Moves`. -/

namespace Sys2Proof.Machine

/-! ### The ring that hands the descriptor on -/

theorem foldl_of_idle {α σ : Type} {f : σ → α → σ} {l : List α} (h : ∀ x ∈ l, ∀ s, f s x = s) (s : σ) : l.foldl f s = s :=
  List.foldlRecOn l f (motive := fun t => t = s) rfl fun _ ht x hx => (h x hx _).trans ht

/-- A fold over a table of which only the entry just put does anything. -/
theorem foldl_tabPut_of_idle {α σ : Type} [DecidableEq α] {d : Nat → α} {f : σ → Nat × α → σ} {k : Nat} {v : α} (hv : v ≠ d k) :
    ∀ {t : Tab α}, (∀ x ∈ t, ∀ s, f s x = s) → ∀ s, (tabPut d t k v).foldl f s = f s (k, v)
  | [], _, s => by simp [tabPut, hv]
  | (i, w) :: t, h, s => by
    have hhead : ∀ s, f s (i, w) = s := h _ List.mem_cons_self
    have htail : ∀ x ∈ t, ∀ s, f s x = s := fun x hx => h x (List.mem_cons_of_mem _ hx)
    rw [tabPut, if_neg hv, if_neg hv]
    split
    · exact foldl_of_idle htail _
    · split
      · exact foldl_of_idle h _
      · rw [List.foldl_cons, hhead]
        exact foldl_tabPut_of_idle hv htail s

theorem tabGet_default_or_mem {α : Type} {d : Nat → α} (k : Nat) : ∀ t : Tab α, tabGet d t k = d k ∨ (k, tabGet d t k) ∈ t
  | [] => .inl rfl
  | (i, v) :: t => by
    rw [tabGet]
    split
    · rename_i h
      exact .inr (h ▸ List.mem_cons_self)
    · split
      · exact .inl rfl
      · exact (tabGet_default_or_mem k t).imp id (List.mem_cons_of_mem _)

theorem ring_held_of_noWork {s : State} (h : NoWork s) (r : Nat) : (ring s r).held = [] := by
  obtain ⟨-, -, -, hheld⟩ := h
  rcases tabGet_default_or_mem (d := fun _ => ({} : Ring)) r s.hif.rings with hd | hm
  · rw [ring, hd]
  · exact hheld _ hm

theorem ring_handed (s : State) (r : Nat) (d : Desc) : ring (handed s r d) r = { ring s r with held := [d] } := by
  have hne : ({ ring s r with held := [d] } : Ring) ≠ {} := fun h => by simpa using congrArg Ring.held h
  exact (tabGet_tabPut_of_ne (d := fun _ => ({} : Ring)) hne r s.hif.rings).trans (if_pos rfl)

theorem submit_of_noWork {s : State} (h : NoWork s) (r : Nat) (d : Desc) : submit s r d = wake (handed s r d) := by
  simp only [submit, handed, ring_held_of_noWork h, List.nil_append]

/-- On a device at rest a round comes down to the ring to which the descriptor was handed. -/
theorem wake_handed {s : State} (h : NoWork s) (r : Nat) (d : Desc) :
    wake (handed s r d) = pumpRing 1 (handed s r d) r := by
  obtain ⟨hops, hrel, hjobs, hheld⟩ := h
  have hpurge : purgeJobs (handed s r d) = handed s r d := purgeJobs_of_live fun x hx j hj => by
    obtain ⟨himm, hdef, hunp⟩ := hjobs x hx
    simp [himm, hdef, hunp] at hj
  have hne : ({ ring s r with held := [d] } : Ring) ≠ {} := fun h => by simpa using congrArg Ring.held h
  have hopsh : (handed s r d).ops = [] := hops
  simp only [wake, hpurge, freeComparators_of_none (s := handed s r d) hrel, hopsh, List.foldl_nil]
  exact foldl_tabPut_of_idle (d := fun _ => ({} : Ring)) (f := fun s x => if x.2.held.isEmpty then s else pumpRing x.2.held.length s x.1)
    hne (fun x hx s => by simp [hheld x hx]) _

/-- What the first descriptor of a ring becomes when its checks pass and nothing holds it. -/
theorem tryAccept_handed {s : State} {r : Nat} {d : Desc} (hr : AtRest s r) (ha : Accepts s r d) :
    tryAccept (handed s r d) r = some (accepted s r d) := by
  obtain ⟨-, -, ⟨hops, -⟩, -, -, hquota⟩ := hr
  obtain ⟨hfuse, hwait, hstatus, hepoch, ⟨hfailed, hmissing⟩, -⟩ := ha
  have hopsh : (handed s r d).ops = [] := hops
  have hfull : ringFull (handed s r d) r [d] = false := by
    have hq : ringQuota (handed s r d) r = ringQuota s r := rfl
    simp [ringFull, opByStream, ringInFlight, hopsh, hq]
    omega
  have hrec : recordsOf (handed s r d) r [asOp s r d] = .here := by
    have hf : (ring (handed s r d) r).recFailed = false := (congrArg Ring.recFailed (ring_handed s r d)).trans hfailed
    simp [recordsOf, hf, hmissing]
  simp only [opStatus, Option.or_eq_none_iff] at hstatus
  obtain ⟨⟨hhead, hgroup⟩, hcheck⟩ := hstatus
  have hop : newOp (handed s r d) r d (handed s r d).opNext = asOp s r d := rfl
  simp only [tryAccept, ring_handed, hfuse, hfull, hop, hhead, hwait, hrec, hgroup, hcheck, hepoch, Bool.false_and,
    Bool.false_eq_true, if_false, Option.or_none]
  rfl

/-- An op command that a device at rest accepts: its op is in flight, and starts if it can. -/
theorem opCommand_of_accepts {s : State} {r : Nat} {d : Desc} (hr : AtRest s r) (ha : Accepts s r d)
    (hn : (accepted s r d).opNext = s.opNext + 1) : opCommand s r d = startOne (accepted s r d) s.opNext := by
  have haccept := tryAccept_handed hr ha
  obtain ⟨-, hsealed, hwork, hfetched, -⟩ := hr
  have hnext : (handed s r d).opNext = s.opNext := rfl
  simp only [opCommand, hsealed, hfetched, Bool.false_eq_true, if_false]
  rw [submit_of_noWork hwork, wake_handed hwork]
  simp [pumpRing, haccept, hn, hnext]

/-! ### What an op reads, as the device goes on -/

theorem SeenAlike.trans {s t u : State} (hst : SeenAlike s t) (htu : SeenAlike t u) : SeenAlike s u :=
  ⟨htu.mem.trans hst.mem, htu.regs.trans hst.regs, htu.journals.trans hst.journals, htu.txns.trans hst.txns,
    htu.epochs.trans hst.epochs, htu.cuts.trans hst.cuts, fun b => (htu.vacated b).trans (hst.vacated b)⟩

section
variable {s t : State} (h : SeenAlike s t)
include h

theorem SeenAlike.opRead (o : Op) (a n : Nat) : opRead t o a n = opRead s o a n := by
  simp only [Machine.opRead, h.opReadByte]

theorem SeenAlike.opNat (o : Op) (a n : Nat) : opNat t o a n = opNat s o a n := by
  simp only [Machine.opNat, h.opRead]

theorem SeenAlike.meetsView (a n : Nat) : meetsView t a n = meetsView s a n := by
  simp only [Machine.meetsView, verCount, h.slotAddr, h.sliceBytes, h.regBits]

theorem SeenAlike.dirEntry (id : Nat) : dirEntry t id = dirEntry s id := by
  simp only [Machine.dirEntry, Machine.dirBase, h.memNat, h.regBits]

theorem SeenAlike.partSize (k : Nat) : partSize t k = partSize s k := h.regBits _ _ _

theorem SeenAlike.inPart (k a n : Nat) : inPart t k a n = inPart s k a n := by
  rw [Machine.inPart, h.partBase, h.partSize, Machine.inPart]

theorem SeenAlike.dirBase : dirBase t = dirBase s := by rw [Machine.dirBase, h.regBits, Machine.dirBase]

theorem SeenAlike.dirOk : dirOk t = dirOk s := by rw [Machine.dirOk, h.inPart, h.dirBase, Machine.dirOk]

theorem SeenAlike.readsView {o : Op} (ho : opReads t o = opReads s o) : readsView t o = readsView s o := by
  simp only [Machine.readsView, ho, h.isLocal, h.meetsView]

end

/-- The device has gone on with an op in no way that other work sees: ops read alike, host memory is the same, no write waits,
no bank has gone into copy, and no die has stopped. -/
structure GoneOn (s t : State) : Prop extends SeenAlike s t where
  host : t.host = s.host
  heldWrites : t.dome.heldWrites = s.dome.heldWrites
  copying : t.mif.copying = s.mif.copying
  stopped : t.dome.stopped = s.dome.stopped
  stoppedDies : t.mif.stoppedDies = s.mif.stoppedDies

theorem GoneOn.trans {s t u : State} (hst : GoneOn s t) (htu : GoneOn t u) : GoneOn s u :=
  ⟨hst.toSeenAlike.trans htu.toSeenAlike, htu.host.trans hst.host, htu.heldWrites.trans hst.heldWrites,
    htu.copying.trans hst.copying, htu.stopped.trans hst.stopped, htu.stoppedDies.trans hst.stoppedDies⟩

theorem GoneOn.allInPlace {s t : State} (h : GoneOn s t) {ws : List (Nat × List Byte)} (hin : AllInPlace s ws) :
    AllInPlace t ws := by
  obtain ⟨hjournals, hcopying, hheld, hnone, hws⟩ := hin
  have hok : dirOk t = dirOk s := h.dirOk
  refine ⟨h.journals.trans hjournals, h.copying.trans hcopying, h.heldWrites.trans hheld, ?_, ?_⟩
  · rw [txnOf, h.txns]
    exact hnone
  · rw [hok, h.dirBase]
    exact hws

theorem goneOn_handed (s : State) (r : Nat) (d : Desc) : GoneOn s (handed s r d) :=
  ⟨⟨rfl, rfl, rfl, rfl, rfl, rfl, fun _ => rfl⟩, rfl, rfl, rfl, rfl, rfl⟩

theorem goneOn_popHeld (s : State) (r n : Nat) : GoneOn s (popHeld s r n) :=
  ⟨⟨rfl, rfl, rfl, rfl, rfl, rfl, fun _ => rfl⟩, rfl, rfl, rfl, rfl, rfl⟩

theorem goneOn_opUpdate (s : State) (id : Nat) (f : Op → Op) : GoneOn s (opUpdate s id f) :=
  ⟨⟨rfl, rfl, rfl, rfl, rfl, rfl, fun _ => rfl⟩, rfl, rfl, rfl, rfl, rfl⟩

/-! ### Acceptance -/

/-- The op in flight is the one handed on: what its acceptance fixed and what no later step of its life up to its work changes. -/
structure TakenAs (s : State) (o q : Op) : Prop where
  id : q.id = o.id
  ring : q.ring = o.ring
  hdr : q.hdr = o.hdr
  body : q.body = o.body
  mode : q.mode = o.mode
  seed : q.seed = o.seed
  hwin : q.hwin = o.hwin
  hostBuf : q.hostBuf = o.hostBuf
  epoch : q.epoch = none
  work : q.work = o.work
  accepted : q.accepted = o.accepted
  completed : q.completed = o.completed
  table : q.table = (opTableId o.body).map fun id => (id, dirEntry s id)

/-- An op that is taken reads each byte as the op handed on does: the fields that decide a read are among those fixed. -/
theorem TakenAs.opReadByte {s : State} {o q : Op} (hq : TakenAs s o q) (he : o.epoch = none) (t : State) (a : Nat) :
    opReadByte t q a = opReadByte t o a := by
  have hok : rangeOkOp t q a 1 = rangeOkOp t o a 1 := by rw [rangeOkOp, hq.id, hq.hwin, rangeOkOp]
  have hslots : opSlots t q = opSlots t o := by rw [opSlots, hq.epoch, opSlots, he]
  rw [Machine.opReadByte, hok, hslots, hq.hdr, hq.hostBuf, Machine.opReadByte]

/-- An op that is taken finds the same bytes, and a device that has gone on shows it the same. -/
theorem TakenAs.opNat {s t : State} {o q : Op} (h : SeenAlike s t) (hq : TakenAs s o q) (he : o.epoch = none) (a n : Nat) :
    opNat t q a n = opNat s o a n := by
  simp only [Machine.opNat, opRead, hq.opReadByte he, h.opReadByte]

theorem TakenAs.opRec {s t : State} {o q : Op} (h : SeenAlike s t) (hq : TakenAs s o q) (he : o.epoch = none) (a n : Nat) :
    opRec t q a n = opRec s o a n := by
  simp only [Machine.opRec, hq.opReadByte he, h.opReadByte, hq.hostBuf]

/-- A body of which the op is accepted with nothing more to it, and which starts by moving data. -/
structure Moves (b : OpBody) : Prop where
  moves : movesData b = true
  closes : ∀ o : Op, o.body = b → closesEpoch o = false
  accept : ∀ (s : State) (o : Op), o.body = b → opAccept s o = s
  begins : ∀ (s : State) (o : Op), o.body = b → opBegin s o = opWork s o
  reads : ∀ (s t : State) (o : Op), SeenAlike s t → o.body = b → opReads t o = opReads s o
  records : ∀ (s t : State) (o q : Op), SeenAlike s t → TakenAs s o q → o.epoch = none → o.table = none → o.body = b →
    opRecords t q = opRecords s o

theorem telOpen_frame (s : State) (n : Nat) : ∃ ss, telOpen s n = { s with dome := { s.dome with steps := ss } } := by
  unfold telOpen
  split
  · exact ⟨s.dome.steps, rfl⟩
  · exact ⟨_, rfl⟩

theorem epochsRelease_of_none {s : State} (h : s.dome.epochs = []) : epochsRelease s = s := by
  simp only [epochsRelease, h, List.filter_nil, List.foldl_nil]
  rw [← h]

/-- The op as acceptance leaves it, with no dependency and no view read. -/
def takenOp (s : State) (o : Op) : Op :=
  { o with
    cmp := match o.body with
      | .timer _ => nextComparator s
      | _ => none,
    epoch := none, step := some (opStep s o), deps := [], consumes := none,
    table := (opTableId o.body).map fun id => (id, dirEntry s id),
    crew := ((opMask o.body).map (maskBelfries s)).getD [] }

theorem takenOp_takenAs (s : State) (o : Op) : TakenAs s o (takenOp s o) :=
  ⟨rfl, rfl, rfl, rfl, rfl, rfl, rfl, rfl, rfl, rfl, rfl, rfl, rfl⟩

/-- The state with the op accepted into it. -/
def withTaken (s : State) (q : Op) (c : Chime) (ss : List StepTel) (ps : Tab (Option (Nat × Option Status))) : State :=
  { s with ops := [q], opNext := s.opNext + 1, chime := c, dome := { s.dome with steps := ss, producers := ps } }

/-- The op enters: the telemetry of its step is open, the Dome is busy with it, and it holds the tag that it produces. -/
def entered (s : State) (q : Op) : State :=
  let s := telOpen { s with ops := [q], opNext := s.opNext + 1 } (opStep s q)
  let s := if needsDome q then { s with chime := { s.chime with recal := false, domeBusyAt := mtime s } } else s
  if hdrProduce q.hdr then producerPut s q.hdr.depTag (some (q.id, none)) else s

theorem entered_frame (s : State) (q : Op) : ∃ c ss ps, entered s q = withTaken s q c ss ps := by
  obtain ⟨ss, hss⟩ := telOpen_frame { s with ops := [q], opNext := s.opNext + 1 } (opStep s q)
  simp only [entered, hss]
  split <;> split <;> exact ⟨_, _, _, rfl⟩

theorem acceptOp_frame {s : State} {o : Op} (hops : s.ops = []) (hepochs : s.dome.epochs = [])
    (hviews : readsView s o = false) (hb : Moves o.body)
    (hprod : hdrConsume o.hdr = true → producerOf s o.hdr.depTag = none ∨ ∃ p, producerOf s o.hdr.depTag = some (p, some .ok)) :
    ∃ c ss ps, acceptOp s o = withTaken s (takenOp s o) c ss ps := by
  have hopen : openEpoch s o.ring = none := by simp [openEpoch, hepochs]
  have hdep : (if hdrConsume o.hdr then producerOf s o.hdr.depTag else none) = none ∨
      ∃ n, (if hdrConsume o.hdr then producerOf s o.hdr.depTag else none) = some (n, some .ok) := by
    split
    · exact hprod ‹_›
    · exact .inl rfl
  have hentered : acceptOp s o = epochsRelease (opAccept (entered s (takenOp s o)) (takenOp s o)) := by
    unfold acceptOp
    rcases hdep with hdep | ⟨n, hdep⟩ <;>
    · simp only [hviews, hb.closes o rfl, hopen, hops, hdep, Bool.and_false, Bool.false_and, Bool.false_eq_true, if_false,
        List.filter_nil, List.map_nil, ite_self]
      rfl
  obtain ⟨c, ss, ps, hframe⟩ := entered_frame s (takenOp s o)
  refine ⟨c, ss, ps, ?_⟩
  rw [hentered, hb.accept _ (takenOp s o) rfl, hframe, epochsRelease_of_none (s := withTaken s (takenOp s o) c ss ps) hepochs]

/-! ### From acceptance to work -/

@[simp] theorem asOp_epoch {s : State} {r : Nat} {d : Desc} (h : s.dome.epochs = []) : (asOp s r d).epoch = none := by
  have hopen : openEpoch (handed s r d) r = none := by
    rw [openEpoch, show (handed s r d).dome.epochs = [] from h, List.find?_nil]
  simp [asOp, newOp, hopen]

/-- The state with other channels. -/
def withChannels (s : State) (cs : Tab Channel) : State := { s with mif := { s.mif with channels := cs } }

theorem requestRange_frame (s : State) (a n : Nat) : ∃ cs, (requestRange s a n).1 = withChannels s cs := by
  refine List.foldlRecOn (rangeChannels s a n) wakeChannel (motive := fun t => ∃ cs, t = withChannels s cs)
    ⟨s.mif.channels, rfl⟩ ?_
  rintro _ ⟨cs, rfl⟩ c -
  exact ⟨_, rfl⟩

/-- Requests one after another change channels alone. -/
theorem foldl_requestRange_frame {α : Type} {f : State × Bool → α → State × Bool} {a n : α → Nat}
    (hf : ∀ u x, (f u x).1 = (requestRange u.1 (a x) (n x)).1) (l : List α) (s : State) (w : Bool) :
    ∃ cs, (l.foldl f (s, w)).1 = withChannels s cs := by
  refine List.foldlRecOn l f (motive := fun u => ∃ cs, u.1 = withChannels s cs) ?start ?step
  case start => exact ⟨s.mif.channels, rfl⟩
  case step =>
    rintro u ⟨cs, hu⟩ x -
    obtain ⟨ds, hds⟩ := requestRange_frame u.1 (a x) (n x)
    exact ⟨ds, by rw [hf, hds, hu]; rfl⟩

theorem requestRanges_frame (s : State) (rs : List (Nat × Nat)) : ∃ cs, (requestRanges s rs).1 = withChannels s cs := by
  unfold requestRanges
  refine foldl_requestRange_frame (a := fun r => addrOff r.1) (n := fun r => r.2) (fun _ _ => ?_) _ s false
  rfl

theorem payAll_frame (s : State) (bs : List Burst) : ∃ c, (payAll s bs).1 = { s with chime := c } := by
  unfold payAll
  refine List.foldlRecOn _ _ (motive := fun u : State × List Burst => ∃ c, u.1 = { s with chime := c }) ⟨s.chime, rfl⟩ ?_
  rintro ⟨_, left⟩ ⟨c, rfl⟩ b -
  dsimp only
  split
  · exact ⟨c, rfl⟩
  · split
    · exact ⟨c, rfl⟩
    · unfold payBurst
      dsimp only
      split <;> exact ⟨_, rfl⟩

theorem belfryWake_frame {s : State} (hd : DomeOk s.dome) (b : Nat) :
    ∃ bs, belfryWake s b = withBelfries s bs ∧ ∀ c, (belfry (belfryWake s b) c).vacated = (belfry s c).vacated := by
  unfold belfryWake
  dsimp only
  split
  · exact ⟨s.dome.belfries, rfl, fun _ => rfl⟩
  · refine ⟨_, rfl, fun c => ?_⟩
    rw [belfry_belfryPut hd]
    split
    · rename_i h
      rw [h]
    · rfl

theorem rouse_frame {s : State} (hd : DomeOk s.dome) (o : Op) :
    ∃ bs, rouse s o = withBelfries s bs ∧ ∀ c, (belfry (rouse s o) c).vacated = (belfry s c).vacated := by
  unfold rouse
  split
  · refine (List.foldlRecOn _ belfryWake (motive := fun t => DomeOk t.dome ∧ ∃ bs, t = withBelfries s bs ∧
      ∀ c, (belfry t c).vacated = (belfry s c).vacated) ⟨hd, s.dome.belfries, rfl, fun _ => rfl⟩ ?_).2
    rintro _ ⟨ht, bs, rfl, hv⟩ b -
    obtain ⟨cs, hwake, hw⟩ := belfryWake_frame ht b
    exact ⟨(belfryWake_kept (Kept.refl _ false)).dome ht, cs, hwake, fun c => (hw c).trans (hv c)⟩
  · exact ⟨s.dome.belfries, rfl, fun _ => rfl⟩

/-- One op is in flight, the one that a descriptor became at ring r, at this point of its life; the device has gone on with it. -/
structure InFlight (s t : State) (r : Nat) (d : Desc) (q : Op) (ph : Phase) (asked : Nat) : Prop where
  ops : t.ops = [q]
  taken : TakenAs s (asOp s r d) q
  phase : q.phase = ph
  asked : q.asked = asked
  goneOn : GoneOn s t
  next : t.opNext = s.opNext + 1

theorem InFlight.id {s t : State} {r : Nat} {d : Desc} {q : Op} {ph : Phase} {n : Nat} (h : InFlight s t r d q ph n) :
    q.id = s.opNext := h.taken.id

theorem InFlight.opById {s t : State} {r : Nat} {d : Desc} {q : Op} {ph : Phase} {n : Nat} (h : InFlight s t r d q ph n) :
    opById t s.opNext = some q := h.id ▸ opById_only h.ops

theorem InFlight.body {s t : State} {r : Nat} {d : Desc} {q : Op} {ph : Phase} {n : Nat} (h : InFlight s t r d q ph n) :
    q.body = d.body := h.taken.body

/-- The op changed in what its taking did not fix. -/
theorem InFlight.update {s t : State} {r : Nat} {d : Desc} {q : Op} {ph ph' : Phase} {n n' : Nat} (h : InFlight s t r d q ph n)
    {f : Op → Op} (htaken : TakenAs s (asOp s r d) (f q)) (hph : (f q).phase = ph') (hn : (f q).asked = n') :
    InFlight s (opUpdate t s.opNext f) r d (f q) ph' n' where
  ops := h.id ▸ opUpdate_only h.ops f
  taken := htaken
  phase := hph
  asked := hn
  goneOn := h.goneOn.trans (goneOn_opUpdate t _ f)
  next := h.next

theorem InFlight.goOn {s t u : State} {r : Nat} {d : Desc} {q : Op} {ph : Phase} {n : Nat} (h : InFlight s t r d q ph n)
    (hu : GoneOn t u) (hops : u.ops = t.ops) (hnext : u.opNext = t.opNext) : InFlight s u r d q ph n :=
  ⟨hops.trans h.ops, h.taken, h.phase, h.asked, h.goneOn.trans hu, hnext.trans h.next⟩

theorem opUpdate_congr_only {s : State} {o : Op} (h : s.ops = [o]) {f g : Op → Op} (hfg : f o = g o) :
    opUpdate s o.id f = opUpdate s o.id g := by
  simp [opUpdate, h, hfg]

theorem goneOn_withTaken (s : State) (q : Op) (c : Chime) (ss : List StepTel) (ps : Tab (Option (Nat × Option Status))) :
    GoneOn s (withTaken s q c ss ps) :=
  ⟨⟨rfl, rfl, rfl, rfl, rfl, rfl, fun _ => rfl⟩, rfl, rfl, rfl, rfl, rfl⟩

theorem goneOn_withChannels (s : State) (cs : Tab Channel) : GoneOn s (withChannels s cs) :=
  ⟨⟨rfl, rfl, rfl, rfl, rfl, rfl, fun _ => rfl⟩, rfl, rfl, rfl, rfl, rfl⟩

theorem goneOn_payAll (s : State) (bs : List Burst) : GoneOn s (payAll s bs).1 := by
  obtain ⟨c, hc⟩ := payAll_frame s bs
  rw [hc]
  exact ⟨⟨rfl, rfl, rfl, rfl, rfl, rfl, fun _ => rfl⟩, rfl, rfl, rfl, rfl, rfl⟩

theorem goneOn_rouse {s : State} (hd : DomeOk s.dome) (o : Op) : GoneOn s (rouse s o) := by
  obtain ⟨bs, hbs, hv⟩ := rouse_frame hd o
  rw [hbs] at hv ⊢
  exact ⟨⟨rfl, rfl, rfl, rfl, rfl, rfl, hv⟩, rfl, rfl, rfl, rfl, rfl⟩

section
variable {s : State} {r : Nat} {d : Desc} (hr : AtRest s r) (ha : Accepts s r d) (hp : NoPins s r d) (hb : Moves d.body)
include hr ha hp hb

theorem accepted_eq : ∃ c ss ps, accepted s r d =
    withTaken (popHeld (handed s r d) r 1) (takenOp (popHeld (handed s r d) r 1) (asOp s r d)) c ss ps := by
  obtain ⟨-, -, ⟨hops, -⟩, -⟩ := hr
  obtain ⟨-, -, -, -, -, hprod⟩ := ha
  obtain ⟨hepochs, hviews⟩ := hp
  have hseen := (goneOn_popHeld (handed s r d) r 1).toSeenAlike
  exact acceptOp_frame hops hepochs ((hseen.readsView (hb.reads _ _ _ hseen rfl)).trans hviews) hb hprod

/-- The op in flight right after its acceptance. -/
theorem accepted_inFlight : ∃ q, InFlight s (accepted s r d) r d q .waiting 0 ∧ q.deps = [] := by
  obtain ⟨c, ss, ps, hframe⟩ := accepted_eq hr ha hp hb
  have hpulled := (goneOn_handed s r d).trans (goneOn_popHeld _ r 1)
  have htaken := takenOp_takenAs (popHeld (handed s r d) r 1) (asOp s r d)
  have hdir : ∀ id, dirEntry (popHeld (handed s r d) r 1) id = dirEntry s id := hpulled.toSeenAlike.dirEntry
  rw [hframe]
  refine ⟨_, ⟨rfl, { htaken with table := ?_ }, rfl, rfl, hpulled.trans (goneOn_withTaken _ _ _ _ _), rfl⟩, rfl⟩
  simp only [htaken.table, hdir]

theorem begun_inFlight : InFlight s (begun s r d) r d (begunOp s r d) .active 0 := by
  obtain ⟨q, hq, -⟩ := accepted_inFlight hr ha hp hb
  have hbegun := hq.update (f := fun o => { o with phase := .active, start := mtime (accepted s r d) })
    (ph' := .active) (n' := 0) { hq.taken with } rfl hq.asked
  have hop : begunOp s r d = { q with phase := .active, start := mtime (accepted s r d) } := by
    rw [begunOp, begun, hbegun.opById]
    rfl
  rw [hop]
  exact hbegun

end

theorem opStopped_of_run {s : State} (h : DiesRun s) (o : Op) : opStopped s o = false := by
  obtain ⟨hdome, hdies⟩ := h
  simp [opStopped, hdome, hdies]

theorem ridesGemm_of_fresh {o : Op} (h : o.work = .none) : o.ridesGemm = false := by
  rw [Op.ridesGemm, h]

theorem askTokens_of_paid {s : State} {o : Op} {part : Nat} {bs : List Burst} (ha : o.asked ≤ part)
    (hpaid : (payAll s bs).2 = []) (k : State → State) :
    askTokens s o part bs k = k (opUpdate (payAll s bs).1 o.id fun o => { o with asked := part + 1, owed := [] }) := by
  simp only [askTokens, hpaid, List.isEmpty_nil, if_true, if_neg (Nat.not_lt.mpr ha)]

/-- An op that is taken finds the same records still to be read. -/
theorem recMissing_of_taken {s t : State} {o q : Op} (h : SeenAlike s t) (hq : TakenAs s o q)
    (hrecs : opRecords t q = opRecords s o) : recMissing t q = recMissing s o := by
  have hok : ∀ a n, rangeOkOp t q a n = rangeOkOp s o a n := fun a n => by
    rw [rangeOkOp, hq.id, hq.hwin, ← rangeOkOp, h.rangeOkOp]
  simp only [recMissing, hrecs, hq.hwin, hq.hostBuf, h.isLocal, hok]

section
variable {s : State} {r : Nat} {d : Desc} (hr : AtRest s r) (ha : Accepts s r d) (hp : NoPins s r d) (hb : Moves d.body)
include hr ha hp hb

omit ha hp hb in
theorem begun_domeOk : DomeOk (begun s r d).dome := by
  have hkept : Kept ⟨s, false⟩ (begun s r d) := opUpdate_kept (acceptOp_kept (popHeld_kept (ringPut_kept (Kept.refl s false))))
  exact hkept.dome (domeOk_of_sound hr.1)

theorem begun_work : (begunOp s r d).work = .none := (begun_inFlight hr ha hp hb).taken.work

theorem recMissing_begun : recMissing (begun s r d) (begunOp s r d) = none := by
  have hbegun := begun_inFlight hr ha hp hb
  obtain ⟨-, -, -, -, ⟨-, hmissing⟩, -⟩ := ha
  have hrec : recMissing s (asOp s r d) = none := by
    rw [← hmissing]
    rfl
  rw [recMissing_of_taken hbegun.goneOn.toSeenAlike hbegun.taken, hrec]
  exact hb.records _ _ _ _ hbegun.goneOn.toSeenAlike hbegun.taken (asOp_epoch hp.1) rfl rfl

theorem reached_inFlight : InFlight s (reached s r d).1 r d (begunOp s r d) .active 0 := by
  obtain ⟨cs, hcs⟩ := requestRanges_frame (begun s r d) (opTouches (begun s r d) (begunOp s r d))
  rw [reached, hcs]
  exact (begun_inFlight hr ha hp hb).goOn (goneOn_withChannels _ _) rfl rfl

theorem charged_inFlight : InFlight s (charged s r d).1 r d (begunOp s r d) .active 0 := by
  have hdome : DomeOk (reached s r d).1.dome :=
    (requestRanges_kept (Kept.refl _ false)).dome (begun_domeOk hr)
  obtain ⟨bs, hbs, -⟩ := rouse_frame hdome (begunOp s r d)
  obtain ⟨c, hc⟩ := payAll_frame (rouse (reached s r d).1 (begunOp s r d)) (opTraffic (reached s r d).1 (begunOp s r d))
  exact (reached_inFlight hr ha hp hb).goOn ((goneOn_rouse hdome _).trans (goneOn_payAll _ _))
    (by rw [charged, hc, hbs]; rfl) (by rw [charged, hc, hbs]; rfl)

/-- The op in flight as its work begins. -/
theorem atWork_inFlight : InFlight s (atWork s r d) r d (atWorkOp s r d) .active 1 := by
  have hcharged := charged_inFlight hr ha hp hb
  have hwork := hcharged.update (f := fun o => { o with asked := 1, owed := [] }) (ph' := .active) (n' := 1)
    { hcharged.taken with } hcharged.phase rfl
  have hop : atWorkOp s r d = { begunOp s r d with asked := 1, owed := [] } := by
    rw [atWorkOp, atWork, hwork.opById]
    rfl
  rw [hop]
  exact hwork

/-- An op that has started goes to its work, where nothing holds its start back. -/
theorem opGo_begun (hs : Starts s r d) : opGo (begun s r d) (begunOp s r d) = opWork (atWork s r d) (atWorkOp s r d) := by
  have hbegun := begun_inFlight hr ha hp hb
  have hwork := atWork_inFlight hr ha hp hb
  obtain ⟨hwaits, hpaid⟩ := hs
  have hmoves : movesData (begunOp s r d).body = true := hbegun.body ▸ hb.moves
  have hreach : requestRanges (begun s r d) (opTouches (begun s r d) (begunOp s r d)) = ((reached s r d).1, false) :=
    Prod.ext rfl hwaits
  have hcharge : opUpdate (payAll (rouse (reached s r d).1 (begunOp s r d)) (opTraffic (reached s r d).1 (begunOp s r d))).1
      (begunOp s r d).id (fun o => { o with asked := 0 + 1, owed := [] }) = atWork s r d := by rw [hbegun.id, atWork, charged]
  simp only [opGo, ridesGemm_of_fresh (begun_work hr ha hp hb), recMissing_begun hr ha hp hb, hmoves, hbegun.asked, hreach,
    Bool.not_true, Bool.or_self, Bool.false_eq_true, if_false, if_true]
  rw [askTokens_of_paid (Nat.le_of_eq hbegun.asked) hpaid, hcharge, hbegun.id, hwork.opById]
  exact hb.begins _ _ hwork.body

/-- An op that moves data, accepted by a device at rest where nothing holds its start back: its work begins at once. -/
theorem opCommand_of_starts (hs : Starts s r d) (hd : DiesRun s) :
    InFlight s (atWork s r d) r d (atWorkOp s r d) .active 1 ∧ opCommand s r d = opWork (atWork s r d) (atWorkOp s r d) := by
  refine ⟨atWork_inFlight hr ha hp hb, ?_⟩
  obtain ⟨q, hq, hdeps⟩ := accepted_inFlight hr ha hp hb
  have hbegun := begun_inFlight hr ha hp hb
  have hrun : DiesRun (accepted s r d) := ⟨hq.goneOn.stopped.trans hd.1, hq.goneOn.stoppedDies.trans hd.2⟩
  have hmoves : movesData (begunOp s r d).body = true := hbegun.body ▸ hb.moves
  have hupdate : opUpdate (accepted s r d) s.opNext (fun o => { o with
      phase := .active, start := mtime (accepted s r d), hostBuf := if o.deps.isEmpty || o.ridesGemm then o.hostBuf else [] }) =
      begun s r d := by
    rw [begun, ← hq.id]
    exact opUpdate_congr_only hq.ops (by simp [hdeps])
  rw [opCommand_of_accepts hr ha hq.next, startOne, hq.opById]
  have hready : (q.phase != .waiting || !q.deps.all (depMet (accepted s r d) q)) = false := by simp [hq.phase, hdeps]
  simp only [hready, opStopped_of_run hrun, hupdate, Bool.false_eq_true, if_false, hbegun.opById]
  rw [opStart, hmoves, ridesGemm_of_fresh (begun_work hr ha hp hb)]
  exact opGo_begun hr ha hp hb hs

end

end Sys2Proof.Machine
end

section
/-! PROOFS. SPSP_INTERSECT, ELEM, ROWRED and EMB_BAG (spec/04 R93, R102, spec/05 R123 to R125, spec/07 R168 to R170): their work
from the state in which it begins. O44 holds. -/

namespace Sys2Proof.Machine

theorem SeenAlike.bagsOf {s t : State} (h : SeenAlike s t) (o : Op) (a : Nat) : bagsOf t o a = bagsOf s o a := by
  simp only [Machine.bagsOf, h.opRec]

theorem SeenAlike.elemPlan {s t : State} (h : SeenAlike s t) (o : Op) (b : ElemBody) : elemPlan t o b = elemPlan s o b := by
  simp only [Machine.elemPlan, h.opRec]

theorem SeenAlike.spspRecs {s t : State} (h : SeenAlike s t) (o : Op) (b : SpspBody) : spspRecs t o b = spspRecs s o b := by
  simp only [Machine.spspRecs, h.opRec]

theorem SeenAlike.readsSpsp {s t : State} (h : SeenAlike s t) (o : Op) (b : SpspBody) : readsSpsp t o b = readsSpsp s o b := by
  simp only [Machine.readsSpsp, sparseEntries, h.spspRecs, h.opNat]

theorem SeenAlike.readsElem {s t : State} (h : SeenAlike s t) (o : Op) (b : ElemBody) : readsElem t o b = readsElem s o b := by
  simp only [Machine.readsElem, h.elemPlan]

theorem SeenAlike.tableNow {s t : State} (h : SeenAlike s t) (o : Op) (id : Nat) : tableNow t o id = tableNow s o id := by
  simp only [Machine.tableNow, h.dirEntry, h.opRec]

theorem SeenAlike.readsEmbBag {s t : State} (h : SeenAlike s t) (o : Op) (b : EmbBagBody) :
    readsEmbBag t o b = readsEmbBag s o b := by
  simp only [Machine.readsEmbBag, readsBags, bagOff, h.bagsOf, h.tableNow, h.opRec]

theorem moves_spspIntersect (b : SpspBody) : Moves (.spspIntersect b) where
  moves := rfl
  closes o h := by simp [closesEpoch, h]
  accept s o h := by simp [opAccept, h]
  begins s o h := by simp [opBegin, h]
  reads s t o hst h := by simp [opReads, h, hst.readsSpsp]
  records s t o q _ hq _ _ h := by simp [opRecords, hq.body, h]

theorem moves_elemBody (two : Bool) (b : ElemBody) : Moves (if two then .rowred b else .elem b) where
  moves := by cases two <;> rfl
  closes o h := by cases two <;> simp_all [closesEpoch]
  accept s o h := by cases two <;> simp_all [opAccept]
  begins s o h := by cases two <;> simp_all [opBegin]
  reads s t o hst h := by cases two <;> simp_all [opReads, hst.readsElem]
  records s t o q _ hq _ _ h := by cases two <;> simp_all [opRecords, hq.body]

theorem moves_embBag (b : EmbBagBody) : Moves (.embBag b) where
  moves := rfl
  closes o h := by simp [closesEpoch, h]
  accept s o h := by simp [opAccept, h]
  begins s o h := by simp [opBegin, h]
  reads s t o hst h := by simp [opReads, h, hst.readsEmbBag]
  records s t o q hst hq he ht h := by
    have hrec : bagsOf t q b.bagRec = bagsOf s o b.bagRec := by simp only [bagsOf, hq.opRec hst he]
    simp [opRecords, bagRecords, hq.body, h, hrec, hq.table, opTableId, ht]

/-! ### An op that ends -/

theorem opUpdate_only_eq {s : State} {o : Op} (h : s.ops = [o]) (f : Op → Op) : opUpdate s o.id f = { s with ops := [f o] } := by
  simp [opUpdate, h]

/-- The op, done. -/
def doneOp (q : Op) (st : Status) : Op := { q with phase := .done st, reqs := [], owed := [] }

theorem opDone_only {s : State} {q : Op} {id : Nat} (h : s.ops = [q]) (hid : q.id = id) (hact : q.phase = .active)
    (st : Status) : opDone s id st = { s with ops := [doneOp q st] } := by
  subst hid
  rw [opDone, opUpdate_only_eq h]
  simp [Op.isDone, hact, doneOp]

/-- The only op in flight, taken and done, is what the command became. -/
theorem TakenAs.opIs {s t : State} {r : Nat} {d : Desc} {q : Op} (hq : TakenAs s (asOp s r d) q) {st : Status}
    (hops : t.ops = [doneOp q st]) (hnext : t.opNext = s.opNext + 1) : OpIs s t r d (.done st) :=
  ⟨doneOp q st, hops, hq.id, hq.ring, hq.hdr, hq.body, hq.accepted, hq.completed, rfl, hnext⟩

/-- The writes of the one op in flight have landed; what it is counts, and its end, is still to come. -/
structure Landed (s t : State) (r : Nat) (d : Desc) (q : Op) (ws : List (Nat × List Byte)) : Prop where
  ops : t.ops = [q]
  taken : TakenAs s (asOp s r d) q
  active : q.phase = .active
  next : t.opNext = s.opNext + 1
  mem : t.mem = writesOn s.mem ws
  regs : t.regs = s.regs
  host : t.host = s.host

/-- Writes of an op that names no group, in place: they land, and what follows them goes on. -/
theorem opWrites_landed {s u : State} {r : Nat} {d : Desc} {o q : Op} {n : Nat} (hu : InFlight s u r d q .active n)
    (hid : q.id = o.id) (ho : o.hdr.txn = 0) (hq : q.hdr.txn = 0) {ws : List (Nat × List Byte)} (hin : AllInPlace s ws) :
    ∃ t bf, opWrites u o ws = .done t ∧ Landed s t r d { q with before := bf } ws := by
  obtain ⟨bf, ts, h, hwrites⟩ := opWrites_of_inPlace ho hu.ops hid hq (hu.goneOn.allInPlace hin)
  exact ⟨_, bf, hwrites, rfl, { hu.taken with }, hu.phase, hu.next, congrArg (writesOn · ws) hu.goneOn.mem, hu.goneOn.regs,
    hu.goneOn.host⟩

section
variable {s t : State} {r : Nat} {d : Desc} {q : Op} {ws : List (Nat × List Byte)} (h : Landed s t r d q ws)
include h

theorem Landed.id : q.id = s.opNext := h.taken.id

theorem Landed.update {f : Op → Op} (htaken : TakenAs s (asOp s r d) (f q)) (hph : (f q).phase = .active) :
    Landed s (opUpdate t s.opNext f) r d (f q) ws :=
  ⟨h.id ▸ opUpdate_only h.ops f, htaken, hph, h.next, h.mem, h.regs, h.host⟩

theorem Landed.tally (x : Tally) : Landed s (opTally t s.opNext x) r d { q with tally := q.tally.join x } ws :=
  h.update (f := fun o => { o with tally := o.tally.join x }) { h.taken with } h.active

/-- The op ends OK. -/
theorem Landed.done {u : State} (hu : u = opDone t s.opNext .ok) : OpIs s u r d (.done .ok) ∧ u.mem = writesOn s.mem ws ∧
    u.regs = s.regs ∧ u.host = s.host ∧ u.ops = [doneOp q .ok] := by
  rw [hu, opDone_only h.ops h.id h.active]
  exact ⟨h.taken.opIs rfl h.next, h.mem, h.regs, h.host, rfl⟩

end

/-! ### SPSP_INTERSECT -/

theorem TakenAs.runPair {s t : State} {o q : Op} (h : SeenAlike s t) (hq : TakenAs s o q) (he : o.epoch = none)
    (b : SpspBody) (x y : SparseRec) (p : Nat) : runPair t q b x y p = runPair s o b x y p := by
  simp only [Machine.runPair, sparseRow, spspDot, hq.opNat h he, hq.mode]

theorem TakenAs.spspRecs {s t : State} {o q : Op} (h : SeenAlike s t) (hq : TakenAs s o q) (he : o.epoch = none)
    (b : SpspBody) : spspRecs t q b = spspRecs s o b := by
  simp only [Machine.spspRecs, hq.opRec h he]

/-- The counts of an SPSP_INTERSECT's pairs. -/
def spspCounts (ps : List PairOut) (o : Op) : Op :=
  { o with
    c0 := min 0xFFFFFFFF (ps.filter (·.malformed)).length, c1 := min 0xFFFFFFFF (ps.filter (·.range)).length,
    c2 := min 0xFFFFFFFF (ps.filter (·.cut)).length }

section
variable {s : State} {r : Nat} {d : Desc} {b : SpspBody} {w : State} {o : Op} {ps : List PairOut}
  (hw : InFlight s w r d o .active 1) (he : s.dome.epochs = [])
  (hpairs : collect (runPair s (asOp s r d) b (spspRecs s (asOp s r d) b).1 (spspRecs s (asOp s r d) b).2)
    (List.range b.pairs) = .ok ps)
include hw he hpairs

/-- The pairs come to what they do on the device at rest. -/
theorem runSpsp_of_pairs : runSpsp w o b =
    let u := opUpdate w s.opNext (spspCounts ps)
    if spspStrict b && decide ((ps.filter (·.malformed)).length ≠ 0) then opStrictFail u s.opNext .malformed
    else if spspStrict b && decide ((ps.filter (·.range)).length ≠ 0) then opStrictFail u s.opNext .outOfRange
    else applyWrites u o (ps.flatMap (·.writes)) fun t =>
      opDone (opTally t s.opNext ((Tally.sum (ps.map (·.tally))).inMode o.mode.strict)) s.opNext .ok := by
  have hseen := hw.goneOn.toSeenAlike
  have hep := asOp_epoch (r := r) (d := d) he
  have hrun : runPair w o b (spspRecs s (asOp s r d) b).1 (spspRecs s (asOp s r d) b).2 =
      runPair s (asOp s r d) b (spspRecs s (asOp s r d) b).1 (spspRecs s (asOp s r d) b).2 :=
    funext fun p => hw.taken.runPair hseen hep b _ _ p
  simp only [runSpsp, hw.taken.spspRecs hseen hep, hrun, hpairs, hw.id]
  rfl

/-- No pair that a strict op fails for: every pair is stored. -/
theorem runSpsp_stores (htxn : d.hdr.txn = 0) (hgood : spspStrict b = true → ∀ p ∈ ps, p.malformed = false ∧ p.range = false)
    (hin : AllInPlace s (ps.flatMap (·.writes))) :
    OpIs s (runSpsp w o b) r d (.done .ok) ∧ (runSpsp w o b).mem = writesOn s.mem (ps.flatMap (·.writes)) ∧
      (runSpsp w o b).regs = s.regs ∧ (runSpsp w o b).ops.map (fun o => (o.c0, o.c1, o.c2)) =
        [(min 0xFFFFFFFF (ps.filter (·.malformed)).length, min 0xFFFFFFFF (ps.filter (·.range)).length,
          min 0xFFFFFFFF (ps.filter (·.cut)).length)] := by
  have hnone : ∀ f : PairOut → Bool, (spspStrict b = true → ∀ p ∈ ps, f p = false) →
      (spspStrict b && decide ((ps.filter f).length ≠ 0)) = false := by
    intro f hf
    cases hstrict : spspStrict b
    · rfl
    · have hempty : ps.filter f = [] := List.filter_eq_nil_iff.mpr fun p hp => by simp [hf hstrict p hp]
      simp [hempty]
  have hcounted : InFlight s (opUpdate w s.opNext (spspCounts ps)) r d (spspCounts ps o) .active 1 :=
    hw.update { hw.taken with } hw.phase hw.asked
  have hno : o.hdr.txn = 0 := hw.taken.hdr ▸ htxn
  rw [runSpsp_of_pairs hw he hpairs]
  simp only [hnone _ fun h p hp => (hgood h p hp).1, hnone _ fun h p hp => (hgood h p hp).2, Bool.false_eq_true, if_false]
  obtain ⟨t, bf, hwrites, hland⟩ := opWrites_landed hcounted (o := o) rfl hno hno hin
  obtain ⟨hop, hmem, hregs, -, hops⟩ := (hland.tally ((Tally.sum (ps.map (·.tally))).inMode o.mode.strict)).done rfl
  simp only [applyWrites, hwrites]
  exact ⟨hop, hmem, hregs, congrArg (List.map fun o => (o.c0, o.c1, o.c2)) hops⟩

/-- A strict op that met a malformed pair fails and stores nothing. -/
theorem runSpsp_malformed (hstrict : spspStrict b = true) (hbad : ∃ p ∈ ps, p.malformed = true) :
    OpIs s (runSpsp w o b) r d (.done .malformed) ∧ (runSpsp w o b).mem = s.mem := by
  obtain ⟨p, hp, hmal⟩ := hbad
  have hsome : (ps.filter (·.malformed)).length ≠ 0 := by
    have hmem : p ∈ ps.filter (·.malformed) := List.mem_filter.mpr ⟨hp, hmal⟩
    exact fun h => by simp [List.length_eq_zero_iff.mp h] at hmem
  have hcounted : InFlight s (opUpdate w s.opNext (spspCounts ps)) r d (spspCounts ps o) .active 1 :=
    hw.update { hw.taken with } hw.phase hw.asked
  rw [runSpsp_of_pairs hw he hpairs]
  simp only [hstrict, hsome, ne_eq, not_false_eq_true, decide_true, Bool.and_self, if_true, opStrictFail,
    opDone_only hcounted.ops hcounted.id hw.phase]
  exact ⟨hcounted.taken.opIs rfl hw.next, hw.goneOn.mem⟩

end

/-! ### ELEM and ROWRED -/

section
variable {s t : State} (h : SeenAlike s t)
include h

theorem SeenAlike.histFor (o : Op) (slot : Nat) : histFor t o slot = histFor s o slot := by
  have hcautious : cautiousNow t = cautiousNow s := by rw [cautiousNow, h.regBits, cautiousNow]
  have haddr : histAddr t slot = histAddr s slot := by rw [histAddr, h.partBase, histAddr]
  simp only [Machine.histFor, hcautious, haddr, h.opRec]

theorem SeenAlike.storeBlock (o : Op) (b : ElemBody) (p : ElemPlan) (tile : Bool) (row0 col0 : Nat) (rows : List RowOut) :
    storeBlock t o b p tile row0 col0 rows = storeBlock s o b p tile row0 col0 rows := by
  simp only [Machine.storeBlock, storeStream, h.histFor]

end

/-- No stream of the plan is scaled. -/
def ElemPlan.unscaled (p : ElemPlan) : Prop := ∀ x ∈ p.streams, ∀ y, x = some y → y.scaled = false

theorem ElemPlan.unscaled.st {p : ElemPlan} (h : p.unscaled) {i : Nat} {x : VStream} (hx : p.st i = some x) :
    x.scaled = false := by
  cases hi : p.streams[i]? with
  | none => simp [ElemPlan.st, hi] at hx
  | some y => exact h y (List.mem_of_getElem? hi) x (by simpa [ElemPlan.st, hi] using hx)

/-- Only a scaled output enters a history. -/
theorem enterHistory_of_unscaled {p : ElemPlan} (h : p.unscaled) (s : State) (o : Op) (i : Nat) (e : Option Int) :
    enterHistory s o p i e = .done s := by
  unfold enterHistory
  split
  · rename_i x e hx
    rw [h.st hx]
    rfl
  · rfl

theorem elemWrites_of_unscaled {p : ElemPlan} (h : p.unscaled) {s t : State} {o : Op} {ws : List (Nat × List Byte)}
    (hwrites : opWrites s o ws = .done t) (e f : Option Int) : elemWrites s o p ws e f = .done t := by
  simp only [elemWrites, opWritesThen, hwrites, enterHistory_of_unscaled h]

/-- Without HIST a block counts at its op alone. -/
theorem Landed.blockCounts {s t : State} {r : Nat} {d : Desc} {q o : Op} {ws : List (Nat × List Byte)}
    (h : Landed s t r d q ws) (hid : o.id = s.opNext) {b : ElemBody} (hhist : natBits b.flags 7 7 = 0) (st : Stored) (x : Tally)
    (n : Nat) : ∃ p, Landed s (blockCounts t o b st x n) r d p ws := by
  have htally := h.tally ((st.tally.join x).inMode o.mode.strict)
  have hcount := htally.update (f := fun p => { p with c1 := min 0xFFFFFFFF (p.c1 + st.again) }) { htally.taken with } htally.active
  simp only [Machine.blockCounts, if_neg (show ¬natBits b.flags 7 7 = 1 by omega), hid]
  exact ⟨_, hcount⟩

/-- An ELEM or ROWRED, not fused, with no scaled output and no HIST: what its rows come to is stored. -/
theorem runElemOp_stores {s w : State} {r : Nat} {d : Desc} {o : Op} {b : ElemBody} {rows : List RowOut}
    (hw : InFlight s w r d o .active 1) (htxn : d.hdr.txn = 0) (hhist : natBits b.flags 7 7 = 0)
    (hscaled : (elemPlan w o b).unscaled)
    (hrows : collect (elemRow w o b (elemPlan w o b) (tapFree w)) (List.range b.rows) = .ok rows)
    (hin : AllInPlace s (elemStores w o b rows)) : RowsStored s (runElemOp w o b) w r d o b rows := by
  have hno : o.hdr.txn = 0 := hw.taken.hdr ▸ htxn
  have hwork : o.work = .none := hw.taken.work
  have hdrawn : GoneOn w { w with draws := w.draws + 8 * (b.rows + b.rowLen) + 8 } :=
    ⟨⟨rfl, rfl, rfl, rfl, rfl, rfl, fun _ => rfl⟩, rfl, rfl, rfl, rfl, rfl⟩
  obtain ⟨t, bf, hwrites, hland⟩ := opWrites_landed (hw.goOn hdrawn rfl rfl) rfl hno hno hin
  obtain ⟨p, hcounts⟩ := hland.blockCounts hw.id hhist (storeBlock w o b (elemPlan w o b) false 0 0 rows)
    (allResults o b (tapFree w) rows).2 1
  obtain ⟨hop, hmem, hregs, hhost, -⟩ := hcounts.done rfl
  rw [elemStores] at hwrites
  simp only [runElemOp, hwork, hrows, finishElem, hdrawn.toSeenAlike.storeBlock]
  rw [elemWrites_of_unscaled hscaled hwrites]
  simp only [hw.id]
  exact ⟨hop, hmem, hregs, hhost⟩

/-! ### EMB_BAG -/

theorem SeenAlike.opTable {s t : State} (h : SeenAlike s t) (o : Op) : opTable t o = opTable s o := by
  unfold Machine.opTable
  split
  · rw [h.opRec]
  · rfl

/-- A window takes requests; it makes none. -/
theorem mem_of_mem_windowed {n : Nat} {xs : List RowItem} {x : RowItem × Nat} (hx : x ∈ windowed n xs) : x.1 ∈ xs := by
  have hall : ∀ x ∈ windowed n xs, x.1 ∈ xs := by
    unfold windowed
    simp only [List.mem_reverse]
    refine List.foldlRecOn xs _ (motive := fun acc : List (RowItem × Nat) × List RowWindow => ∀ x ∈ acc.1, x.1 ∈ xs) ?start ?step
    case start => exact fun _ h => nomatch h
    case step =>
      intro acc hacc y hy x hx
      rcases List.mem_cons.mp hx with rfl | hx
      · exact hy
      · exact hacc x hx
  exact hall x hx

/-- Rows of this device alone need no batch. -/
theorem batchesOf_near {n m : Nat} {xs : List RowItem} (h : ∀ x ∈ xs, x.chip = none) : batchesOf n (windowed m xs) = [] := by
  have hkeys : (windowed m xs).filterMap (fun x => x.1.chip.map fun c => (x.1.turret, x.2, c)) = [] :=
    List.filterMap_eq_nil_iff.mpr fun x hx => by simp [h x.1 (mem_of_mem_windowed hx)]
  simp [batchesOf, hkeys]

theorem nearReady_frame (s : State) (xs : List (RowItem × Nat)) : ∃ cs, (nearReady s xs).1 = withChannels s cs := by
  unfold nearReady
  refine foldl_requestRange_frame (a := fun x => x.1.req.off) (n := fun x => x.1.req.bytes) (fun _ _ => ?_) _ s false
  rfl

section
variable {s w : State} {r : Nat} {d : Desc} {o : Op} (hw : InFlight s w r d o .active 1)
include hw

theorem holdReplicas_inFlight (td : TableDesc) (rows : List StoredRowId) :
    ∃ q, InFlight s (holdReplicas w o td rows) r d q .active 1 := by
  rw [holdReplicas, if_neg (by rw [hw.asked]; decide), hw.id]
  exact ⟨_, hw.update { hw.taken with } hw.phase hw.asked⟩

theorem rowsRead_inFlight (xs : List (RowItem × Nat)) :
    ∃ q, InFlight s (rowsRead w s.opNext xs) r d q .active 2 := by
  obtain ⟨c, hc⟩ := payAll_frame w (rowBursts w xs)
  have hpaid : InFlight s (payAll w (rowBursts w xs)).1 r d o .active 1 :=
    hw.goOn (goneOn_payAll _ _) (by rw [hc]) (by rw [hc])
  have hup := hpaid.update (f := fun o => { o with asked := 2, owed := [] }) { hpaid.taken with } hpaid.phase rfl
  obtain ⟨cs, hcs⟩ := nearReady_frame (rowsPaid w s.opNext xs) xs
  rw [rowsRead, hcs]
  exact ⟨_, hup.goOn (goneOn_withChannels _ _) rfl rfl⟩

/-- Rows of this device alone, which nothing holds back, are read at once. -/
theorem withRows_near {p : Op} (hid : p.id = s.opNext) (hasked : p.asked = 1) {items : List RowItem}
    (hnear : ∀ x ∈ items, x.chip = none) {n m : Nat} (hserved : RowsServed w s.opNext (windowed m items))
    (k : State → List (RowItem × Nat) → (RowItem × Nat → Option RowReply) → State) :
    withRows w p n m items k = k (rowsRead w s.opNext (windowed m items)) (windowed m items) fun _ => none := by
  obtain ⟨hpaid, hready⟩ := hserved
  obtain ⟨q, hq⟩ := rowsRead_inFlight hw (windowed m items)
  have hnext : nearReady (rowsPaid w s.opNext (windowed m items)) (windowed m items) =
      (rowsRead w s.opNext (windowed m items), true) := Prod.ext rfl hready
  have hstep : opUpdate (payAll w (rowBursts w (windowed m items))).1 s.opNext (fun o => { o with asked := 1 + 1, owed := [] }) =
      rowsPaid w s.opNext (windowed m items) := rfl
  have hreply : rowReply q [] = fun _ => none := funext fun x => by simp [rowReply]
  rw [withRows, askTokens_of_paid (Nat.le_of_eq hasked) hpaid, hid, hstep]
  simp only [hnext, batchesOf_near hnear, sendBatches, List.zipIdx_nil, List.foldl_nil, List.all_nil, hq.opById, hreply,
    Bool.not_true, Bool.false_eq_true, if_false, if_true]

end

/-- The rows of a table that all lie here, and that nothing holds back, are read at once. -/
theorem withTable_near {s w : State} {r : Nat} {d : Desc} {o p : Op} (hw : InFlight s w r d o .active 1) {td : TableDesc}
    {mask rounds : Nat} {ps : List Position} {rows : List StoredRowId} {rs : List RowRead}
    (hnear : ∀ x ∈ rowItems w o td mask ps rows, x.chip = none)
    (hserved : RowsServed (holdReplicas w o td rows) s.opNext (windowed 0 (rowItems w o td mask ps rows)))
    (hp : opById (rowsRead (holdReplicas w o td rows) s.opNext (windowed 0 (rowItems w o td mask ps rows))) s.opNext = some p)
    (hrows : readRows (rowsRead (holdReplicas w o td rows) s.opNext (windowed 0 (rowItems w o td mask ps rows))) p td ps rows
      (fun _ _ => none) = .ok rs) (k : State → Op → List RowRead → State) :
    withTable w o td mask rounds ps rows k =
      k (rowsRead (holdReplicas w o td rows) s.opNext (windowed 0 (rowItems w o td mask ps rows))) p rs := by
  obtain ⟨q, hq⟩ := holdReplicas_inFlight hw td rows
  have hfar : farStatus w ((rowItems w o td mask ps rows).filterMap (·.chip)) = none := by
    rw [List.filterMap_eq_nil_iff.mpr hnear]
    rfl
  have hreply : ∀ y : Option (RowItem × Nat), (y.bind fun _ => (none : Option RowReply)) = none := fun y => by cases y <;> rfl
  simp only [withTable, hfar, withRows_near hq hw.id hw.asked hnear hserved, hw.id, hp, hreply, hrows]

/-- Every row came, or could not be reached. -/
def RowsCame (rs : List RowRead) : Prop := ∀ x ∈ rs, x.2.2 = 0 ∨ x.2.2 = 2

theorem rowRead_code {rs : List RowRead} (h : RowsCame rs) (x : StoredRowId) :
    (rowRead rs x).2 = 0 ∨ (rowRead rs x).2 = 2 := by
  unfold rowRead
  split
  · rename_i y hy
    exact h y (List.mem_of_find?_eq_some hy)
  · exact .inr rfl

theorem posCode_of_rowsCame {rs : List RowRead} (h : RowsCame rs) (p : Position) : posCode rs p = 0 ∨ posCode rs p = 2 := by
  unfold posCode
  split
  · exact .inr rfl
  · rename_i l _
    have hcodes : ∀ n, n ≠ 0 → n ≠ 2 → (l.map fun x => (rowRead rs x).2).contains n = false := fun n h0 h2 => by
      simp only [List.contains_eq_mem, List.mem_map, decide_eq_false_iff_not]
      rintro ⟨x, -, rfl⟩
      exact (rowRead_code h x).elim h0 h2
    simp only [hcodes 3 (by decide) (by decide), hcodes 1 (by decide) (by decide), Bool.false_eq_true, if_false]
    split
    · exact .inr rfl
    · exact .inl rfl

/-- No position was refused or failed. -/
theorem posMarks_of_rowsCame {rs : List RowRead} (h : RowsCame rs) (ps : List Position) :
    (posMarks rs ps).refused = [] ∧ (posMarks rs ps).failed = false := by
  have hne : ∀ n, n ≠ 0 → n ≠ 2 → ∀ p ∈ ps, ¬(posCode rs p == n) = true := fun n h0 h2 p _ => by
    rcases posCode_of_rowsCame h p with hp | hp <;> simp [hp, h0.symm, h2.symm]
  refine ⟨?_, ?_⟩
  · rw [posMarks, List.filter_eq_nil_iff.mpr (hne 1 (by decide) (by decide))]
    rfl
  · exact List.any_eq_false.mpr (hne 3 (by decide) (by decide))

/-- The state with other sketches. -/
def withSketches (s : State) (sk : Tab Sketch) : State := { s with dome := { s.dome with sketches := sk } }

theorem sketchAdd_frame (s : State) (table tver row n : Nat) : ∃ sk, sketchAdd s table tver row n = withSketches s sk := by
  refine List.foldlRecOn (List.range 4) _ (motive := fun t => ∃ sk, t = withSketches s sk) ⟨s.dome.sketches, rfl⟩ ?_
  rintro _ ⟨sk, rfl⟩ i -
  dsimp only
  split
  · exact ⟨_, rfl⟩
  · exact ⟨sk, rfl⟩

theorem countLocal_frame (s : State) (o : Op) (td : TableDesc) (l : List (StoredRowId × Nat)) :
    ∃ sk, countLocal s o td l = withSketches s sk := by
  refine List.foldlRecOn l _ (motive := fun t => ∃ sk, t = withSketches s sk) ⟨s.dome.sketches, rfl⟩ ?_
  rintro _ ⟨sk, rfl⟩ x -
  split
  · obtain ⟨sk', h⟩ := sketchAdd_frame (withSketches s sk) (o.table.getD (0, 0, 0)).1 (o.table.getD (0, 0, 0)).2.1 (rowNumber td x.1) x.2
    exact ⟨sk', h⟩
  · exact ⟨sk, rfl⟩

theorem Landed.countLocal {s t : State} {r : Nat} {d : Desc} {q : Op} {ws : List (Nat × List Byte)} (h : Landed s t r d q ws)
    (o : Op) (td : TableDesc) (l : List (StoredRowId × Nat)) : Landed s (countLocal t o td l) r d q ws := by
  obtain ⟨sk, hsk⟩ := countLocal_frame t o td l
  rw [hsk]
  exact ⟨h.ops, h.taken, h.active, h.next, h.mem, h.regs, h.host⟩

/-- An op of rows of which none was refused or failed ends OK, where it is not strict. -/
theorem Landed.rowsEnd {s t : State} {r : Nat} {d : Desc} {q : Op} {ws : List (Nat × List Byte)} (h : Landed s t r d q ws)
    {m : RowMarks} (hrefused : m.refused = []) (hfailed : m.failed = false) :
    OpIs s (Machine.rowsEnd t s.opNext false m) r d (.done .ok) ∧ (Machine.rowsEnd t s.opNext false m).mem = writesOn s.mem ws ∧
      (Machine.rowsEnd t s.opNext false m).regs = s.regs := by
  have hcount := h.update (f := fun o => { o with
    c0 := min 0xFFFFFFFF m.range.length, c1 := min 0xFFFFFFFF m.refused.length, aux := m.first }) { h.taken with } h.active
  obtain ⟨hop, hmem, hregs, -⟩ := hcount.done (u := Machine.rowsEnd t s.opNext false m) (by simp [Machine.rowsEnd, hrefused, hfailed])
  exact ⟨hop, hmem, hregs⟩

theorem poolBag_congr {o q : Op} (hmode : q.mode = o.mode) (hseed : q.seed = o.seed) (b : EmbBagBody) (td : TableDesc) (k : Nat)
    (vals : List (Val × List Val)) : poolBag q b td k vals = poolBag o b td k vals := by
  simp only [poolBag, hmode, hseed]

theorem bagWrites_congr {o q : Op} (hmode : q.mode = o.mode) (hseed : q.seed = o.seed) (b : EmbBagBody) (td : TableDesc) (x : BagRec)
    (ps : List Position) (rs : List RowRead) : bagWrites q b td x ps rs = bagWrites o b td x ps rs := by
  simp only [bagWrites, poolBag_congr hmode hseed, hmode]

section
variable {s w v : State} {r : Nat} {d : Desc} {o p : Op} {b : EmbBagBody} {ps : List Position} {tl : Tally} {rs : List RowRead}

/-- An EMB_BAG whose rows all lie here, without HIST and not strict: what its bags come to is stored. -/
theorem runEmbBag_stores (hw : InFlight s w r d o .active 1) (htxn : d.hdr.txn = 0) (hhist : bagHist b = false)
    (hstrict : bagStrict b = false)
    (hpos : positions w o (bagsOf w o b.bagRec) (opTable s o) = .ok (ps, tl))
    (hnear : ∀ x ∈ rowItems w o (opTable s o) b.mask ps (distinctRows ps), x.chip = none)
    (hserved : RowsServed (holdReplicas w o (opTable s o) (distinctRows ps)) s.opNext
      (windowed 0 (rowItems w o (opTable s o) b.mask ps (distinctRows ps))))
    (hv : v = rowsRead (holdReplicas w o (opTable s o) (distinctRows ps)) s.opNext
      (windowed 0 (rowItems w o (opTable s o) b.mask ps (distinctRows ps))))
    (hp : opById v s.opNext = some p)
    (hrows : readRows v p (opTable s o) ps (distinctRows ps) (fun _ _ => none) = .ok rs) (hcame : RowsCame rs)
    (hin : AllInPlace s (bagWrites o b (opTable s o) (bagsOf w o b.bagRec) ps rs)) :
    OpIs s (runEmbBag w o b) r d (.done .ok) ∧
      (runEmbBag w o b).mem = writesOn s.mem (bagWrites o b (opTable s o) (bagsOf w o b.bagRec) ps rs) ∧
      (runEmbBag w o b).regs = s.regs := by
  have htable : opTable w o = opTable s o := hw.goneOn.toSeenAlike.opTable o
  obtain ⟨q₀, hheld⟩ := holdReplicas_inFlight hw (opTable s o) (distinctRows ps)
  obtain ⟨q, hq⟩ := rowsRead_inFlight hheld (windowed 0 (rowItems w o (opTable s o) b.mask ps (distinctRows ps)))
  rw [← hv] at hq
  obtain rfl : q = p := Option.some.inj (hq.opById.symm.trans hp)
  have hno : q.hdr.txn = 0 := hq.taken.hdr ▸ htxn
  rw [← bagWrites_congr (hq.taken.mode.trans hw.taken.mode.symm) (hq.taken.seed.trans hw.taken.seed.symm)] at hin ⊢
  obtain ⟨t, bf, hwrites, hland⟩ := opWrites_landed hq rfl hno hno hin
  subst hv
  simp only [runEmbBag, htable, hpos, withTable_near hw hnear hserved hp hrows]
  rw [bagWrites] at hwrites
  simp only [List.map_map, Function.comp_def, applyWrites, hwrites, hhist, hstrict, hq.id, Bool.false_eq_true, if_false]
  obtain ⟨hrefused, hfailed⟩ := posMarks_of_rowsCame hcame ps
  exact ((hland.tally _).countLocal q _ _).rowsEnd hrefused hfailed

end

/-! ### The commands -/

theorem exec_spspIntersect (r : Fin 256) (h : Hdr) (b : SpspBody) (s : State) :
    exec (.spspIntersect r h b) s = .next (opCommand s r.val { hdr := h, body := .spspIntersect b }) := rfl
theorem exec_elem (r : Fin 256) (h : Hdr) (b : ElemBody) (s : State) :
    exec (.elem r h b) s = .next (opCommand s r.val { hdr := h, body := .elem b }) := rfl
theorem exec_rowred (r : Fin 256) (h : Hdr) (b : ElemBody) (s : State) :
    exec (.rowred r h b) s = .next (opCommand s r.val { hdr := h, body := .rowred b }) := rfl
theorem exec_embBag (r : Fin 256) (h : Hdr) (b : EmbBagBody) (s : State) :
    exec (.embBag r h b) s = .next (opCommand s r.val { hdr := h, body := .embBag b }) := rfl

theorem opWork_spspIntersect {o : Op} {b : SpspBody} (h : o.body = .spspIntersect b) (s : State) :
    opWork s o = runSpsp s o b := by
  simp only [opWork, h]
theorem opWork_elemBody {o : Op} {two : Bool} {b : ElemBody} (h : o.body = if two then .rowred b else .elem b) (s : State) :
    opWork s o = runElemOp s o b := by
  cases two <;> simp_all [opWork]
theorem opWork_embBag {o : Op} {b : EmbBagBody} (h : o.body = .embBag b) (s : State) : opWork s o = runEmbBag s o b := by
  simp only [opWork, h]

/-- Settles O44, clause by clause: the op is accepted and started at once, and its work is what the state in which it begins
makes of it. -/
theorem vectorOps : Obligations.VectorOps := by
  unfold Obligations.VectorOps
  refine ⟨?pairs, ?malformed, ?rows, ?bags⟩
  case pairs =>
    rintro s r h b d ps rfl hrest hacc hstart hpins hdies htxn hpairs hgood hin
    obtain ⟨hw, hrun⟩ := opCommand_of_starts hrest hacc hpins (moves_spspIntersect b) hstart hdies
    rw [exec_spspIntersect, hrun, opWork_spspIntersect hw.body]
    exact ⟨_, rfl, runSpsp_stores hw hpins.1 hpairs htxn hgood hin⟩
  case malformed =>
    rintro s r h b d ps rfl hrest hacc hstart hpins hdies htxn - hpairs hstrict hbad
    obtain ⟨hw, hrun⟩ := opCommand_of_starts hrest hacc hpins (moves_spspIntersect b) hstart hdies
    rw [exec_spspIntersect, hrun, opWork_spspIntersect hw.body]
    exact ⟨_, rfl, runSpsp_malformed hw hpins.1 hpairs hstrict hbad⟩
  case rows =>
    rintro s _ r h b d _ rows two rfl rfl rfl hrest hacc hstart hpins hdies htxn hhist hscaled hrows hin
    obtain ⟨hw, hrun⟩ := opCommand_of_starts hrest hacc hpins (moves_elemBody two b) hstart hdies
    rw [opWork_elemBody hw.body] at hrun
    have hstored := runElemOp_stores hw htxn hhist hscaled hrows hin
    constructor
    · rintro rfl
      exact ⟨_, (exec_elem r h b s).trans (congrArg _ hrun), hstored⟩
    · rintro rfl
      exact ⟨_, (exec_rowred r h b s).trans (congrArg _ hrun), hstored⟩
  case bags =>
    rintro s _ v r h b d _ p ps tl _ rs rfl hrest hacc hstart hpins hdies htxn hhist hstrict rfl hpos rfl rfl hnear hserved hv hp
      hrows hcame hin
    obtain ⟨hw, hrun⟩ := opCommand_of_starts hrest hacc hpins (moves_embBag b) hstart hdies
    rw [exec_embBag, hrun, opWork_embBag hw.body]
    exact ⟨_, rfl, runEmbBag_stores hw htxn hhist hstrict hpos hnear hserved hv hp hrows hcame hin⟩

end Sys2Proof.Machine
end

section
/-! PROOFS. What follows a packet on a device at rest, flows read after a change, and a packet that finds no room in its
Gallery's store (spec/12 R301). -/

namespace Sys2Proof.Machine

theorem wake_of_noWork {s : State} (h : NoWork s) : wake s = s := by
  obtain ⟨hops, hrel, hjobs, hheld⟩ := h
  have hpurge : purgeJobs s = s := purgeJobs_of_live fun x hx j hj => by
    obtain ⟨himm, hdef, hunp⟩ := hjobs x hx
    simp [himm, hdef, hunp] at hj
  simp [wake, hpurge, freeComparators_of_none hrel, hops, pump_of_none_held hheld]

theorem settle_of_noWork {s : State} (h : NoWork s) : settle s = s := by rw [settle, wake_of_noWork h, wake_of_noWork h]

theorem takeLoop_of_empty {s : State} (h : s.fab.loop = []) : takeLoop s = s := by rw [takeLoop, h, List.isEmpty_nil, if_pos rfl]

theorem flow_flowUpdate {s : State} {chip cls : Nat} {f : Flow → Flow} (hf : ∀ x, (f x).chip = x.chip ∧ (f x).cls = x.cls) :
    flow (flowUpdate s chip cls f) chip cls = (flow s chip cls).map f := by
  have hkey : ((fun x : Flow => x.chip == chip && x.cls == cls) ∘ fun x => if x.chip == chip && x.cls == cls then f x else x) =
      fun x => x.chip == chip && x.cls == cls := funext fun x => by
    obtain ⟨hchip, hcls⟩ := hf x
    rw [Function.comp_apply]
    split
    · rw [hchip, hcls]
    · rfl
  simp only [flow, flowUpdate, List.find?_map, hkey]
  cases hx : s.fab.flows.find? fun x => x.chip == chip && x.cls == cls with
  | none => rfl
  | some x => exact congrArg some (if_pos (List.find?_some hx))

theorem replaysEnd_of_none {s : State} (h : s.mif.replays = []) (who : Accessor) (a n : Nat) : replaysEnd s who a n = s := by
  rw [replaysEnd, h, List.filter_nil, ← h]

theorem serving_self {s : State} (h : s.fab.serving = []) : { s with fab := { s.fab with serving := [] } } = s := by rw [← h]

theorem serveGo_one {s : State} (hs : s.fab.serving = []) {rows : List RowReq} (hc : rowsCopy s rows = false)
    (l : Nat) (h : PktHdr) :
    serveGo { s with fab := { s.fab with serving := s.fab.serving ++ [{ link := l, hdr := h, rows := rows, owed := [] }] } } =
      serveRows s l h rows := by
  simp only [serveGo, hs, List.nil_append, List.foldl_cons, List.foldl_nil, serving_self hs]
  simp [payAll, hc]

/-- A numbered packet to another chip for which its Gallery's packet store has no room waits here (spec/12 R301). -/
theorem sendPkt_of_noRoom {s : State} {chip kind : Nat} {f : Flow} (hk : classOf kind ≠ 3) (hself : isSelf s chip = false)
    (hc : chip < 0x8000) (hf : flow s chip (classOf kind) = some f) (off tag : Nat) (pay : Payload)
    (hr : ∀ len, noRoom s f (mkHdr s chip kind off tag len 0) = true) : ∃ w, sendPkt s chip kind off tag pay = holdPkt s w := by
  have hstray : ∀ len, strayDst (mkHdr s chip kind off tag len 0) = false := fun len => by
    have hcast : (chip == 0xFFFE) = false := beq_eq_false_iff_ne.mpr (by omega)
    simp only [strayDst, mkHdr, hcast, Bool.false_and, Bool.or_false, Bool.and_eq_false_imp]
    exact fun h => absurd (of_decide_eq_true h) (by omega)
  refine ⟨{ pkt := { hdr := { mkHdr s chip kind off tag (payBytes s.draws pay).length 0 with fseq := 2 ^ 32 }, pay := pay } }, ?_⟩
  have hdst : (mkHdr s chip kind off tag (payBytes s.draws pay).length 0).dst = chip := rfl
  have hkind : (mkHdr s chip kind off tag (payBytes s.draws pay).length 0).kind = kind := rfl
  simp only [sendPkt, hk, hself, hstray, decide_false, Bool.or_self, Bool.false_eq_true, if_false, sendNumbered, hdst, hkind,
    openFlow, hf, hr, Bool.or_true, if_true]

end Sys2Proof.Machine
end

section
/-! PROOFS. Packets for this device (spec/06 R151, spec/12 R312): O53 is refuted, on a READ with a refused row. -/

namespace Sys2Proof.Machine

/-! ### The refutation of O53 -/

/-- A WRITE of this device, chip 5 of job 1, to a chip. -/
def writeTo (chip fseq len : Nat) : Packet :=
  { hdr := { dst := chip, src := 5, job := 1, kind := 3, rflags := 0, len := len, hops := 0, fseq := fseq, offset := 0,
             stamp := 0, tag := 0, pack := 0 }
    pay := .write (List.replicate len 0) }

/-- A flow on job bulk whose `n` WRITEs of `len` bytes no acknowledgement covers yet; a Gallery keeps them. -/
def writesTo (chip gallery n len : Nat) : Flow :=
  { chip := chip, cls := 2, next := n, unacked := (List.range n).map fun i => { pkt := writeTo chip i len, gallery := gallery } }

/-- Chip 5 of job 1 with one torus link and one tree port, whose links go by different Galleries. Gallery 1's packet store
has room for one more packet; Gallery 0 keeps one WRITE to chip 7, whose flits its link has not had acknowledged. A source's first
violation quarantines its link. -/
def storeNearlyFull : State :=
  { fin := { stage := 4, ready := true, kref := true, memoryDone := true, belfryImage := true, railEn := 63, railPg := 63,
             perstLow := false, lc := 1, serial := 77 },
    time := { runs := true },
    regs := [(0x800000, 0x50001), (0x800014, 0x03E80001), (0x820014, 0x80000000), (0x82001C, 0x80000100), (0x820024, 0x80000100)],
    fab := {
      links := [(0, { st := .up, passed := true, partnerChip := 9, retry := [({ pkt := writeTo 7 0 4096 }, [])] }),
        (84, { st := .up, passed := true, partnerChip := 9 }), (85, { st := .up, passed := true, partnerChip := 9 })],
      flows := [writesTo 7 0 1 4096, writesTo 10 1 1016 4096, writesTo 11 1 1016 4096, writesTo 12 1 1016 4096,
        writesTo 13 1 1015 4096, writesTo 14 1 1 992] } }

/-- A READ from chip 9 by link 0. -/
def unwindowedRead : PktHdr :=
  { dst := 5, src := 9, job := 1, kind := 1, rflags := 0, len := 16, hops := 0, fseq := 0, offset := 0, stamp := 0, tag := 0,
    pack := 0 }

/-- Its one row, which no window admits. -/
def unwindowedRow : RowReq := { off := 0, bytes := 64 }

/-- The state in which the READ is served: chip 9 has its flow context. -/
def readOpened : State := takePack ((openFlow storeNearlyFull 9 2).getD storeNearlyFull) unwindowedRead

/-- The state in which the READ is answered: its violation is counted, and its link quarantined. -/
def readRefused : State := violation readOpened 0 unwindowedRead

theorem rowCode_readOpened : rowCode readOpened 1 unwindowedRow = 1 := by decide +kernel

theorem newHere_unwindowedRead : NewHere storeNearlyFull 0 unwindowedRead 1 := by
  have hnone : flow storeNearlyFull unwindowedRead.src (classOf 1) = none := by decide +kernel
  rw [NewHere, hnone]
  decide +kernel

/-- The quarantine of link 0 sends the WRITE to chip 7 again, by the tree and so from Gallery 1, whose store is then full. -/
theorem storeUsed_readRefused : storeUsed readRefused 1 = 2 ^ 24 := by decide +kernel

theorem sourceGallery_readRefused : sourceGallery readRefused (mkHdr readRefused 9 2 0 0 0 0) = 1 := by decide +kernel

theorem flow_readRefused : flow readRefused 9 2 = some { chip := 9, cls := 2 } := by decide +kernel


theorem sourceGallery_len (s : State) (h : PktHdr) (n : Nat) : sourceGallery s { h with len := n } = sourceGallery s h := rfl

theorem noRoom_readRefused (len : Nat) : noRoom readRefused { chip := 9, cls := 2 } (mkHdr readRefused 9 2 0 0 len 0) = true := by
  have hgallery : sourceGallery readRefused (mkHdr readRefused 9 2 0 0 len 0) = 1 :=
    (sourceGallery_len readRefused (mkHdr readRefused 9 2 0 0 0 0) len).trans sourceGallery_readRefused
  have hfull : storeUsed readRefused 1 + 32 + len > 16 * 2 ^ 20 := by
    rw [storeUsed_readRefused]
    omega
  rw [noRoom, hgallery]
  exact Bool.or_eq_true_iff.mpr (.inr (decide_eq_true hfull))

theorem serveRead_readOpened :
    serveRead readOpened 0 unwindowedRead [unwindowedRow] =
      .accept (sendPkt readRefused 9 2 0 0 (.readReply [{ code := 1, bytes := [] }])) := by
  have hstop : rangeStopped readOpened unwindowedRow.off unwindowedRow.bytes = false := by decide +kernel
  have hcopy : rowsCopy readOpened [unwindowedRow] = false := by decide +kernel
  have hserving : readOpened.fab.serving = [] := by decide +kernel
  have hreplays : readOpened.mif.replays = [] := by decide +kernel
  have hrow : serveRow readOpened 1 unwindowedRow = (readOpened, { code := 1, bytes := [] }) := by
    simp [serveRow, rowCode_readOpened, replaysEnd_of_none hreplays]
    rfl
  have hbursts : serveBursts readOpened 1 [unwindowedRow] = [] := by simp [serveBursts, rowCode_readOpened]
  have hjob : unwindowedRead.job = 1 := rfl
  simp only [serveRead, hbursts, hjob, servingBelfries, List.any_cons, hstop]
  simp [rowCode_readOpened, serveGo_one hserving hcopy, serveRows, hrow, hjob, readRefused]
  rfl

theorem settle_heldBack {s : State} (h : NoWork s) (w : HeldPkt) (chip cls n : Nat) :
    settle (markGot (holdPkt s w) chip cls n) = markGot (holdPkt s w) chip cls n := settle_of_noWork h

theorem takeLoop_heldBack {s : State} (h : s.fab.loop = []) (w : HeldPkt) (chip cls n : Nat) :
    takeLoop (markGot (holdPkt s w) chip cls n) = markGot (holdPkt s w) chip cls n := takeLoop_of_empty h

theorem flow_heldBack (s : State) (w : HeldPkt) (chip cls n : Nat) :
    flow (markGot (holdPkt s w) chip cls n) chip cls = (flow s chip cls).map fun f =>
      let (base, got) := advanceBase 1025 f.base (f.got ++ [n])
      { f with base := base, got := got, ackOwed := true } :=
  flow_flowUpdate (s := holdPkt s w) fun _ => ⟨rfl, rfl⟩

/-- The READ is taken: it is new, of this device's job, and in a context of its own. -/
theorem takeNumbered_unwindowedRead :
    takeNumbered storeNearlyFull 0 unwindowedRead (.read [unwindowedRow]) =
      .accept (markGot (sendPkt readRefused 9 2 0 0 (.readReply [{ code := 1, bytes := [] }])) 9 2 0) := by
  have hmine : ¬(unwindowedRead.job ≠ jobId storeNearlyFull ∨ jobId storeNearlyFull = 0 ∨ ownChip storeNearlyFull ≥ 0x4000) := by
    decide +kernel
  have hopen : openFlow storeNearlyFull 9 2 = some ((openFlow storeNearlyFull 9 2).getD storeNearlyFull) :=
    by
    have hsome : (openFlow storeNearlyFull 9 2).isSome = true := by decide +kernel
    obtain ⟨t, ht⟩ := Option.isSome_iff_exists.mp hsome
    rw [ht, Option.getD_some]
  have hcontext : contextsHere ((openFlow storeNearlyFull 9 2).getD storeNearlyFull) unwindowedRead = true := by decide +kernel
  have hplace : ((flow readOpened 9 2).map fun f => (f.answers.any fun a => a.1 == 0, seqPlace f 0)) = some (false, .fresh) := by
    decide +kernel
  have hkind : classOf unwindowedRead.kind = 2 := rfl
  have hsrc : unwindowedRead.src = 9 := rfl
  have hfseq : unwindowedRead.fseq = 0 := rfl
  rw [takeNumbered, if_neg hmine, hkind, hsrc, hopen]
  simp only [hcontext]
  simp only [Bool.not_true, Bool.false_eq_true, if_false, hfseq]
  have : takePack ((openFlow storeNearlyFull 9 2).getD storeNearlyFull) unwindowedRead = readOpened := rfl
  rw [this, hplace]
  simp only [takeBulk, serveRead_readOpened]

theorem exec_unwindowedRead :
    exec (.read 0 unwindowedRead [unwindowedRow]) storeNearlyFull = .next (takeLoop (settle (markGot
      (sendPkt readRefused 9 2 0 0 (.readReply [{ code := 1, bytes := [] }])) 9 2 0))) := by
  have hup : (link storeNearlyFull 0).st = .up := by decide +kernel
  have harrived : storeNearlyFull.fab.arrived = [] := rfl
  have hlife : ¬(unwindowedRead.hops ≥ 64 ∨ expired storeNearlyFull unwindowedRead) := by decide +kernel
  have hfirst : ¬(unwindowedRead.hops = 0 ∧ unwindowedRead.src ≠ (link storeNearlyFull 0).partnerChip) := by decide +kernel
  have hhere : nextHop storeNearlyFull unwindowedRead (some (portOf storeNearlyFull 0)) = .here := by decide +kernel
  have hown : unwindowedRead.dst = ownChip storeNearlyFull := by decide +kernel
  have hroute : routePacket storeNearlyFull 0 unwindowedRead (.read [unwindowedRow]) =
      takeNumbered storeNearlyFull 0 unwindowedRead (.read [unwindowedRow]) := by
    rw [routePacket, if_neg (by decide), if_neg hlife, if_neg hfirst, if_neg (by decide), if_neg (by decide), hhere]
    simp only [landed, hown, true_or, if_true, takePacket]
  change Host.Outcome.next (packetIn storeNearlyFull 0 unwindowedRead (.read [unwindowedRow])) = _
  simp [packetIn, hup, takeArrived, harrived, hroute, takeNumbered_unwindowedRead]

/-- The reply waits for room, so nothing of the flow to chip 9 is unacknowledged. -/
theorem flow_after_unwindowedRead :
    ∃ t f, exec (.read 0 unwindowedRead [unwindowedRow]) storeNearlyFull = .next t ∧ flow t 9 2 = some f ∧ f.unacked = [] := by
  obtain ⟨w, hw⟩ := sendPkt_of_noRoom (s := readRefused) (chip := 9) (kind := 2) (by decide) (by decide +kernel) (by decide)
    flow_readRefused 0 0 (.readReply [{ code := 1, bytes := [] }]) noRoom_readRefused
  have hwork : NoWork readRefused := by decide +kernel
  have hloop : readRefused.fab.loop = [] := by decide +kernel
  refine ⟨markGot (holdPkt readRefused w) 9 2 0, _, ?_, (flow_heldBack ..).trans (congrArg _ flow_readRefused), rfl⟩
  rw [exec_unwindowedRead, hw, settle_heldBack hwork, takeLoop_heldBack hloop]

/-- Refutes O53: the clause on a READ measures the room for its answer before the READ's refused row quarantines the link it came
by. The quarantine sends what that link had not delivered again over the other Gallery, whose packet store then has no room left,
and the answer waits. -/
theorem not_remoteAccess : ¬ Obligations.RemoteAccess := by
  unfold Obligations.RemoteAccess
  rintro ⟨-, ⟨read, -⟩, -⟩
  obtain ⟨t, hrun, -, -, -, -, f, hf, u, hu, -⟩ :=
    read storeNearlyFull 0 unwindowedRead [unwindowedRow] (by decide +kernel) newHere_unwindowedRead rfl rfl (by decide +kernel)
      (by decide +kernel) (by decide +kernel) (by decide +kernel)
  obtain ⟨t', f', hrun', hf', hnone⟩ := flow_after_unwindowedRead
  obtain rfl : t = t' := Host.Outcome.next.inj (hrun.symm.trans hrun')
  obtain rfl : f = f' := Option.some.inj (hf.symm.trans hf')
  simp [hnone] at hu

end Sys2Proof.Machine
end

section
/-! PROOFS. Collectives (spec/09 R240, spec/12 R312): O55 is refuted, on the EXP that is the last of its tile. -/

namespace Sys2Proof.Machine

/-! ### The refutation of O55 -/

/-- The offset of a group record: the first of Lantern's general partition. -/
def expGroup : Nat := lanBase + 0x40000000

/-- A tile in its pre-pass form at its owner, chip 5, which has its own EXP. -/
def expTile : TileRed := { tile := 0, ready := true, prepass := true, exps := [(5, 0)] }

/-- Its group step. -/
def expStep : GroupStep := { handle := expGroup, group := 7, step := 1, tiles := [expTile] }

/-- Chip 5 of job 1 with a group of two positions. Its lists lie in host memory, its ring is chip 5 and the reserved number 0x8000,
and the host has put the queue of device events over the ring. -/
def ringUnderQueue : State :=
  { fin := { stage := 4, ready := true, kref := true, memoryDone := true, belfryImage := true, railEn := 63, railPg := 63,
             perstLow := false, lc := 1, serial := 77 },
    time := { keep := 5000, runs := true },
    regs := [(0x100108, 0x10001), (0x103000, 0x10000), (0x103008, 0x80040000), (0x800000, 0x50001), (0x820014, 0x80000000),
      (0x840008, 0xFFFFFFFF), (0x84000C, 0xFFFF), (0x840010, 0x8F0001), (0xE00100, 64), (0xE00104, 0x00400040),
      (0xE00108, 0x00800040), (0xE0010C, 0x00C00002), (0xE00110, 0x01000040), (0xE00114, 0x04000400)],
    mem := Memory.putBytes {} expGroup (leBytes 4 7 ++ [0xF, 0x10] ++ leBytes 2 2 ++ leBytes 4 1024 ++ leBytes 2 1 ++ leBytes 2 0 ++
      leBytes 8 (0xFFFF * 2 ^ 48 + hwinBase) ++ leBytes 8 (0xFFFF * 2 ^ 48 + hwinBase + 0x1000) ++
      leBytes 8 (0xFFFF * 2 ^ 48 + expGroup + 0x2000) ++ leBytes 8 0x4000),
    host := (Memory.putBytes {} 0x10000 [5, 0, 0, 0x80]).putBytes 0x11000 (leBytes 4 0 ++ leBytes 4 1 ++ leBytes 4 1),
    dome := { groups := [expStep] },
    fab := { links := [(3, { st := .up, passed := true, partnerChip := 6 })] } }

/-- The last EXP, from chip 6 by link 3. -/
def expPkt : PktHdr :=
  { dst := 5, src := 6, job := 1, kind := 6, rflags := 0, len := 0, hops := 0, fseq := 0, offset := expGroup, stamp := 0,
    tag := 0, pack := 0 }

/-- Its collective header: step 1, tile 0, pass 1. -/
def expHdr : CollHdr := { group := 7, tile := 0, pass := 1, half := 0, pflags := 0, e := 0, f := 2, step := 1 }

theorem newHere_expPkt : NewHere ringUnderQueue 3 expPkt 6 := by
  have hnone : flow ringUnderQueue expPkt.src (classOf 6) = none := by decide +kernel
  rw [NewHere, hnone]
  decide +kernel

theorem collHere_exp : CollHere ringUnderQueue 3 expPkt expHdr (groupRec ringUnderQueue expGroup) expStep expTile := by
  refine ⟨newHere_expPkt, ?_⟩
  decide +kernel

/-- The RESTART to chip number 0x8000 is a violation. Its event is written over the ring, after which the group is malformed, and the
RESTART that this device sent itself is dropped. -/
theorem tile_after_expPkt :
    ∃ t, exec (.collExp 3 expPkt expHdr) ringUnderQueue = .next t ∧ (tileRed t expGroup 1 0).e = none :=
  ⟨_, rfl, by decide +kernel⟩

/-- Refutes O55: the clause on the last EXP leaves free where the group's lists lie and what chips its ring names. The RESTART to a
reserved chip number raises an event; where the host has its event queue over the ring, the tile has no group any more when this
device's own RESTART comes, and keeps no exponent. -/
theorem not_collectives : ¬ Obligations.Collectives := by
  unfold Obligations.Collectives
  rintro ⟨-, -, ⟨-, -, lastExp⟩, -⟩
  obtain ⟨t, y, e, hrun, hy, -, hexp, -⟩ :=
    lastExp ringUnderQueue 3 expPkt expHdr _ expStep expTile (by decide +kernel) collHere_exp (by decide +kernel)
      (by decide +kernel) rfl rfl (by decide) (by decide +kernel) (by decide +kernel)
  obtain ⟨t', hrun', hnone⟩ := tile_after_expPkt
  obtain rfl : t = t' := Host.Outcome.next.inj (hrun.symm.trans hrun')
  have hkept : y.e = none := hy ▸ hnone
  simp [hkept] at hexp

end Sys2Proof.Machine
end

section
/-! PROOFS. What SAMPLE, GATHER and SCATTER share: a range and its bytes, bytes that an op reads as they were committed, and the
bank and the checks of an op that a descriptor became (spec/01 R20, spec/08 R202, spec/11 R280 to R283, spec/13 R331). -/

namespace Sys2Proof.Machine

/-! ### A range and its bytes -/

/-- The offsets of a region; a gap has none of its own. -/
def InRegion (r : Region) (o : Nat) : Prop :=
  match r with
  | .lpddr => o < lpBytes
  | .lantern => lanBase ≤ o ∧ o < lanBase + lanBytes
  | .scratch => padBase ≤ o ∧ o < padBase + 0x10000000 ∧ o % 0x100000 < padBytes
  | .mirror => 0x030000000000 ≤ o ∧ o < 0x030004000000
  | .hostWindow => hwinBase ≤ o ∧ o < hwinBase + 0x010000000000
  | .gap => False

theorem regionOf_eq_iff {r : Region} (hr : r ≠ .gap) (o : Nat) : regionOf o = r ↔ InRegion r o := by
  unfold regionOf
  split_ifs <;> cases r <;> simp_all [InRegion, lpBytes, lanBase, lanBytes, padBase, padBytes, hwinBase] <;> omega

/-- Where some of a region is left, the offset and what is left lie in it. -/
theorem inRegion_of_left {a i : Nat} (h : i < regionLeft a) : regionOf a ≠ .gap ∧ InRegion (regionOf a) (a + i) := by
  have hin : regionOf a ≠ .gap → InRegion (regionOf a) a := fun hr => (regionOf_eq_iff hr a).mp rfl
  unfold regionLeft at h
  cases hr : regionOf a <;> simp_all [InRegion, lpBytes, lanBase, lanBytes, padBase, padBytes, hwinBase] <;> omega

theorem regionOf_add {a i : Nat} (h : i < regionLeft a) : regionOf (a + i) = regionOf a :=
  (regionOf_eq_iff (inRegion_of_left h).1 _).mpr (inRegion_of_left h).2

theorem one_le_regionLeft_add {a i : Nat} (h : i < regionLeft a) : 1 ≤ regionLeft (a + i) := by
  have hregion := regionOf_add h
  unfold regionLeft at h ⊢
  rw [hregion]
  cases hr : regionOf a <;> simp_all [padBytes] <;> omega

theorem addr_lt_of_left {a i : Nat} (h : i < regionLeft a) : a + i < 2 ^ 48 := by
  obtain ⟨hgap, hin⟩ := inRegion_of_left h
  cases hr : regionOf a <;> simp_all [InRegion, lpBytes, lanBase, lanBytes, padBase, hwinBase] <;> omega

/-- A range in a scratchpad lies in that of one turret. -/
theorem pad_of_left {a i : Nat} (h : i < regionLeft a) (hr : regionOf a = .scratch) :
    (a + i - padBase) / 0x100000 = (a - padBase) / 0x100000 := by
  have hin := (regionOf_eq_iff (r := .scratch) nofun a).mp hr
  simp only [regionLeft, hr, InRegion, padBase, padBytes] at h hin ⊢
  omega

theorem le_regionLeft_of_rangeOkBy {s : State} {size : Nat → Nat} {win : Option Nat} {a n : Nat}
    (h : rangeOkBy s size win a n = true) (hn : n ≠ 0) : n ≤ regionLeft a := by
  simp only [rangeOkBy, Bool.or_eq_true, beq_iff_eq, hn, false_or, Bool.and_eq_true, decide_eq_true_eq] at h
  exact h.1

theorem lanCoveredBy_byte {s : State} {size size' : Nat → Nat} (hsize : ∀ k, size k ≤ size' k) {o n i : Nat}
    (h : lanCoveredBy s size o n = true) (hi : i < n) : lanCoveredBy s size' (o + i) 1 = true := by
  simp only [lanCoveredBy, List.all_eq_true, List.any_eq_true, List.mem_range, Bool.and_eq_true, decide_eq_true_eq] at h ⊢
  intro j hj
  obtain ⟨k, hk, hlo, hhi⟩ := h ((o + i) / 2 ^ 20 - o / 2 ^ 20 + j) (by omega)
  have hgrow := hsize k
  exact ⟨k, hk, by omega, by omega⟩

/-- Every byte of a range that may be touched may be, where the partitions are no smaller. -/
theorem rangeOkBy_byte {s : State} {size size' : Nat → Nat} (hsize : ∀ k, size k ≤ size' k) {win : Option Nat} {a n i : Nat}
    (h : rangeOkBy s size win a n = true) (hi : i < n) : rangeOkBy s size' win (a + i) 1 = true := by
  have hn : ¬n = 0 := by omega
  have hleft : i < regionLeft a := by have := le_regionLeft_of_rangeOkBy h hn; omega
  have hregion : regionOf (a + i) = regionOf a := regionOf_add hleft
  simp only [rangeOkBy, Bool.or_eq_true, beq_iff_eq, hn, false_or, Bool.and_eq_true, decide_eq_true_eq] at h
  simp only [rangeOkBy, hregion, one_le_regionLeft_add hleft, decide_true, Bool.true_and, Bool.or_eq_true]
  obtain ⟨-, hok⟩ := h
  refine .inr ?_
  cases hr : regionOf a <;> rw [hr] at hok
  case lantern =>
    have hlow := ((regionOf_eq_iff (r := .lantern) nofun a).mp hr).1
    have hoff : a + i - lanBase = a - lanBase + i := Nat.sub_add_comm hlow
    simpa only [hoff] using lanCoveredBy_byte hsize hok hi
  case scratch => simpa only [pad_of_left hleft hr] using hok
  case hostWindow =>
    have hlow := ((regionOf_eq_iff (r := .hostWindow) nofun a).mp hr).1
    cases win with
    | none => exact hok
    | some b =>
      simp only [decide_eq_true_eq] at hok ⊢
      omega
  all_goals exact hok

theorem partSize_le_partSizeFor (s : State) (id k : Nat) : partSize s k ≤ partSizeFor s id k := by
  unfold partSizeFor
  generalize s.mif.cuts.filter _ = cs
  exact List.foldlRecOn cs _ (motive := fun n => partSize s k ≤ n) le_rfl fun n hn c _ => hn.trans (le_max_left _ _)

theorem viewOf_of_not_meets {s : State} {a n i : Nat} (h : meetsView s a n = false) (hi : i < n) : viewOf s (a + i) = none := by
  have hno : natsWhere (verCount s) (fun k =>
      decide (slotAddr s k 0 ≤ a + i) && decide (a + i < slotAddr s k 0 + sliceBytes s k)) = [] := by
    refine List.filter_eq_nil_iff.mpr fun k hk hin => ?_
    simp only [meetsView, show n ≠ 0 by omega, ne_eq, not_false_eq_true, decide_true, Bool.true_and, List.any_eq_false,
      Bool.and_eq_true, decide_eq_true_eq, not_and] at h hin
    have := h k hk
    omega
  simp only [viewOf, firstNat, hno, List.head?_nil, Option.map_none]

/-! ### Bytes that an op reads as they were committed -/

/-- An op of no group, and a range of this device outside the host window and every view. -/
structure Plain (s : State) (o : Op) (a n : Nat) : Prop where
  txn : o.hdr.txn = 0
  noTxn : txnOf s 0 = none
  region : regionOf a ≠ .hostWindow
  ok : rangeOkOp s o a n = true
  view : meetsView s a n = false

theorem collect_ok {α β : Type} {f : α → Except Need β} {g : α → β} : ∀ {l : List α}, (∀ x ∈ l, f x = .ok (g x)) →
    collect f l = .ok (l.map g)
  | [], _ => rfl
  | x :: l, h => by
    rw [collect, h x List.mem_cons_self, collect_ok fun y hy => h y (List.mem_cons_of_mem _ hy)]
    rfl

theorem Plain.opReadByte {s : State} {o : Op} {a n i : Nat} (h : Plain s o a n) (hi : i < n) :
    opReadByte s o (a + i) = .ok (committedByte s (a + i)) := by
  have hleft := le_regionLeft_of_rangeOkBy h.ok (by omega)
  have hregion : regionOf (a + i) = regionOf a := regionOf_add (by omega)
  have hok : rangeOkOp s o (a + i) 1 = true := rangeOkBy_byte (fun _ => le_rfl) h.ok hi
  rw [Machine.opReadByte, if_neg (hregion ▸ h.region), if_pos hok, servedAt, viewOf_of_not_meets h.view hi, seenByte, h.txn,
    h.noTxn]
  rfl

/-- A read of part of such a range. -/
theorem Plain.opRead {s : State} {o : Op} {x n : Nat} (h : Plain s o (addrOff x) n) {y m i : Nat}
    (hy : addrOff y = addrOff x + i) (hi : i + m ≤ n) :
    opRead s o y m = .ok (committedBytes s (addrOff x + i) m) := by
  refine collect_ok fun j hj => ?_
  have hlt := List.mem_range.mp hj
  rw [hy, Nat.add_assoc]
  exact h.opReadByte (by omega)

/-! ### An op that a descriptor became -/

theorem refuse_eq_none {l : List (Bool × Status)} : refuse l = none ↔ ∀ x ∈ l, x.1 = false := by
  simp [refuse, List.find?_eq_none]

theorem asOp_bank {s : State} {r : Nat} {d : Desc} (h : usesBank d.body = true) : (asOp s r d).bank = some (bankNow s) :=
  if_pos h

section
variable {s : State} {r : Nat} {d : Desc} (hr : AtRest s r) (ha : Accepts s r d) (hp : NoPins s r d) (hb : Moves d.body)
include hr ha hp hb

/-- No step up to an op's work changes the bank that its acceptance fixed. -/
theorem atWorkOp_bank : (atWorkOp s r d).bank = (asOp s r d).bank := by
  obtain ⟨c, ss, ps, hframe⟩ := accepted_eq hr ha hp hb
  have hbegun : (begunOp s r d).bank = (asOp s r d).bank := by
    have hid : (takenOp (popHeld (handed s r d) r 1) (asOp s r d)).id = s.opNext := rfl
    simp only [begunOp, begun, hframe, withTaken, opUpdate, opById, List.map_cons, List.map_nil, hid, beq_self_eq_true, if_true,
      List.find?_cons_of_pos, Option.getD_some]
    rfl
  have hcharged := charged_inFlight hr ha hp hb
  rw [atWorkOp, atWork, (hcharged.update (f := fun o => { o with asked := 1, owed := [] }) (ph' := .active) (n' := 1)
    { hcharged.taken with } hcharged.phase rfl).opById]
  exact hbegun

end

/-- The own checks of an op that was accepted have passed. -/
theorem opCheck_of_accepts {s : State} {r : Nat} {d : Desc} (ha : Accepts s r d) :
    opCheck (handed s r d) (asOp s r d) = none := by
  obtain ⟨-, -, hstatus, -⟩ := ha
  simp only [opStatus, Option.or_eq_none_iff] at hstatus
  exact hstatus.2

/-- What a range check of the op at its acceptance has shown. -/
theorem range_of_opRange {s : State} {r : Nat} {d : Desc} {a n align : Nat}
    (h : opRange (handed s r d) (asOp s r d) a n align = true) :
    isLocal s a = true ∧ rangeOkOp s (asOp s r d) (addrOff a) n = true := by
  have hseen := (goneOn_handed s r d).toSeenAlike
  simp only [opRange, Bool.and_eq_true, hseen.isLocal, hseen.rangeOkOp] at h
  exact ⟨h.1.1.2, h.2⟩

/-- An op that reads no view meets none in a range of this device that it reads. -/
theorem noView_of_noPins {s : State} {r : Nat} {d : Desc} (hp : NoPins s r d) {a n : Nat}
    (hread : (a, n) ∈ opReads (handed s r d) (asOp s r d)) (hlocal : isLocal s a = true) : meetsView s (addrOff a) n = false := by
  have hseen := (goneOn_handed s r d).toSeenAlike
  have hnone := List.any_eq_false.mp hp.2 _ hread
  simpa [hseen.isLocal, hseen.meetsView, hlocal] using hnone

end Sys2Proof.Machine
end

section
/-! PROOFS. What SAMPLE, GATHER and SCATTER read, in states that ops read alike (spec/06 R134, R136, R144, R153). -/

namespace Sys2Proof.Machine

/-! ### What the graph ops read, in states that ops read alike -/

section
variable {s t : State} (h : SeenAlike s t)
include h

theorem SeenAlike.ownChip : ownChip t = ownChip s := h.regBits _ _ _

theorem SeenAlike.reachOf (c : Nat) : reachOf t c = reachOf s c := by rw [Machine.reachOf, h.ownChip, Machine.reachOf]

theorem SeenAlike.ownCount (bank : Nat) : ownCount t bank = ownCount s bank := by simp only [Machine.ownCount, h.regBits]

theorem SeenAlike.ownEntry (bank i : Nat) : ownEntry t bank i = ownEntry s bank i := by
  simp only [Machine.ownEntry, regGet, h.regs]

theorem SeenAlike.ownerOf (bank v : Nat) : ownerOf t bank v = ownerOf s bank v := by
  simp only [Machine.ownerOf, h.ownCount, h.ownEntry]

theorem SeenAlike.placeNode (o : Op) (base rowBytes bound v : Nat) :
    placeNode t o base rowBytes bound v = placeNode s o base rowBytes bound v := by
  unfold Machine.placeNode
  refine if_congr Iff.rfl rfl (if_congr Iff.rfl rfl ?_)
  rw [h.ownerOf]
  generalize Machine.ownerOf s (o.bank.getD 0) v = place
  obtain ⟨chip, row⟩ := place
  dsimp only
  rw [h.reachOf]
  cases Machine.reachOf s chip
  · dsimp only
    rw [h.rangeOkOp]
  · rfl
  · rfl

theorem SeenAlike.recField (o : Op) (pr a n : Nat) : recField t o pr a n = recField s o pr a n := by
  simp only [Machine.recField, h.opRec]

theorem SeenAlike.recCount (o : Op) (pr k : Nat) : recCount t o pr k = recCount s o pr k := by
  simp only [Machine.recCount, h.recField]

theorem SeenAlike.recEntry (o : Op) (pr k i : Nat) : recEntry t o pr k i = recEntry s o pr k i := by
  simp only [Machine.recEntry, recHop, h.recField, h.recCount]

theorem SeenAlike.recParents (o : Op) (pr k : Nat) : recParents t o pr k = recParents s o pr k := by
  simp only [Machine.recParents, recHop, h.recField, h.recCount, h.opNat]

theorem SeenAlike.gatherPlaces (o : Op) (b : GatherBody) : gatherPlaces t o b = gatherPlaces s o b := by
  simp only [Machine.gatherPlaces, placeRow, recNodes, h.placeNode, h.recField, h.recCount, h.recEntry, h.recParents, h.opNat,
    h.opRec, h.rangeOkOp]

theorem SeenAlike.graphEdges (o : Op) (g : GraphRec) : graphEdges t o g = graphEdges s o g := by
  simp only [Machine.graphEdges, h.opRec]

theorem SeenAlike.readsSample (o : Op) (b : SampleBody) : readsSample t o b = readsSample s o b := by
  simp only [Machine.readsSample, h.opRec, h.graphEdges]

theorem SeenAlike.readsGather (o : Op) (b : GatherBody) : readsGather t o b = readsGather s o b := by
  simp only [Machine.readsGather, recSpan, h.gatherPlaces, h.recField, h.recCount]

theorem SeenAlike.readsScatter (o : Op) (b : ScatterBody) : readsScatter t o b = readsScatter s o b := by
  simp only [Machine.readsScatter, recSpan, h.opRec, h.recField, h.recCount, h.graphEdges]

end

theorem TakenAs.pathRecords {s t : State} {o q : Op} (h : SeenAlike s t) (hq : TakenAs s o q) (he : o.epoch = none) (pr : Nat) :
    pathRecords t q pr = pathRecords s o pr := by
  simp only [Machine.pathRecords, recField, hq.opRec h he]

theorem moves_sample (b : SampleBody) : Moves (.sample b) where
  moves := rfl
  closes o h := by simp [closesEpoch, h]
  accept s o h := by simp [opAccept, h]
  begins s o h := by simp [opBegin, h]
  reads s t o hst h := by simp [opReads, h, hst.readsSample]
  records s t o q hst hq he _ h := by simp [opRecords, hq.body, h, hq.opRec hst he]

theorem moves_gather (b : GatherBody) : Moves (.gather b) where
  moves := rfl
  closes o h := by simp [closesEpoch, h]
  accept s o h := by simp [opAccept, h]
  begins s o h := by simp [opBegin, h]
  reads s t o hst h := by simp [opReads, h, hst.readsGather]
  records s t o q hst hq he _ h := by simp [opRecords, hq.body, h, hq.pathRecords hst he]

theorem moves_scatter (b : ScatterBody) : Moves (.scatter b) where
  moves := rfl
  closes o h := by simp [closesEpoch, h]
  accept s o h := by simp [opAccept, h]
  begins s o h := by simp [opBegin, h]
  reads s t o hst h := by simp [opReads, h, hst.readsScatter]
  records s t o q hst hq he _ h := by simp [opRecords, hq.body, h, hq.pathRecords hst he]

end Sys2Proof.Machine
end

section
/-! PROOFS. GATHER of a list of nodes (spec/06 R134, R136, R147 to R152): the rows it reads, and what it stores. -/

namespace Sys2Proof.Machine

/-! ### The rows of a list -/

theorem addrOff_add {x i : Nat} (h : addrOff x + i < 2 ^ 48) : addrOff (x + i) = addrOff x + i := by
  simp only [addrOff] at h ⊢
  omega

theorem addrOff_of_lt {a : Nat} (h : a < 2 ^ 48) : addrOff a = a := Nat.mod_eq_of_lt h

theorem Plain.lt {s : State} {o : Op} {a n i : Nat} (h : Plain s o a n) (hi : i < n) : a + i < 2 ^ 48 :=
  addr_lt_of_left (Nat.lt_of_lt_of_le hi (le_regionLeft_of_rangeOkBy h.ok (by omega)))

theorem Plain.opNat {s : State} {o : Op} {x n i m : Nat} (h : Plain s o (addrOff x) n) (hi : i + m ≤ n) (hm : 0 < m) :
    opNat s o (x + i) m = .ok (memNat s (addrOff (x + i)) m) := by
  have hoff : addrOff (x + i) = addrOff x + i := addrOff_add (h.lt (by omega))
  rw [Machine.opNat, h.opRead hoff hi, hoff]
  rfl

/-- A read of such a range by its offset. -/
theorem Plain.opReadAt {s : State} {o : Op} {a n : Nat} (h : Plain s o a n) :
    Machine.opRead s o a n = .ok (committedBytes s a n) := by
  refine collect_ok fun i hi => ?_
  have hlt := List.mem_range.mp hi
  rw [addrOff_of_lt (Nat.lt_of_le_of_lt (Nat.le_add_right a i) (h.lt hlt))]
  exact h.opReadByte hlt

theorem TakenAs.opRead {s t : State} {o q : Op} (h : SeenAlike s t) (hq : TakenAs s o q) (he : o.epoch = none) (a n : Nat) :
    opRead t q a n = opRead s o a n := by
  simp only [Machine.opRead, hq.opReadByte he, h.opReadByte]

/-- A list-form GATHER all of whose rows lie here, outside every view. -/
structure ListGather (s : State) (o : Op) (b : GatherBody) : Prop where
  list : gatherKind b = 0
  noArg : gatherArg b = false
  src : Plain s o (addrOff b.src) (8 * b.count)
  rows : ∀ i, i < b.count → gatherNode s b i = nodeNone ∨ (gatherNode s b i < nodeNone ∧
    reachOf s (ownerOf s (bankNow s) (gatherNode s b i)).1 = .near ∧ Plain s o (gatherRow s b (gatherNode s b i)) b.rowBytes)

/-- Where row i of a list-form GATHER lies. -/
@[irreducible] def gatherPlace (s : State) (b : GatherBody) (i : Nat) : RowPlace :=
  if gatherNode s b i = nodeNone then .null else .near (gatherRow s b (gatherNode s b i))

/-- What row i of its destination takes. -/
@[irreducible] def gatheredRow (s : State) (b : GatherBody) (i : Nat) : List Byte :=
  if gatherNode s b i = nodeNone then List.replicate b.rowBytes 0
  else committedBytes s (gatherRow s b (gatherNode s b i)) b.rowBytes

theorem length_gatheredRow (s : State) (b : GatherBody) (i : Nat) : (gatheredRow s b i).length = b.rowBytes := by
  unfold gatheredRow committedBytes
  split
  · exact List.length_replicate
  · rw [List.length_map, List.length_range]

theorem placeNode_near {s : State} {o : Op} {base rowBytes bound v : Nat} (hv : v ≠ nodeNone) (hb : v < bound)
    (hreach : reachOf s (ownerOf s (o.bank.getD 0) v).1 = .near)
    (hok : rangeOkOp s o (addrOff base + (ownerOf s (o.bank.getD 0) v).2 * rowBytes) rowBytes = true) :
    placeNode s o base rowBytes bound v = .near (addrOff base + (ownerOf s (o.bank.getD 0) v).2 * rowBytes) := by
  rw [placeNode, if_neg hv, if_neg (Nat.not_le.mpr hb)]
  generalize ownerOf s (o.bank.getD 0) v = place at *
  obtain ⟨chip, row⟩ := place
  dsimp only at *
  rw [hreach]
  exact if_pos hok

section
variable {s w : State} {r : Nat} {d : Desc} {o : Op} {b : GatherBody} (hw : InFlight s w r d o .active 1)
  (he : s.dome.epochs = []) (hbank : o.bank = some (bankNow s)) (hg : ListGather s (asOp s r d) b)
include hw he hbank hg

omit he in
theorem placeNode_of_listGather {i : Nat} (hi : i < b.count) :
    placeNode w o b.feat b.rowBytes nodeNone (gatherNode s b i) = gatherPlace s b i := by
  have hseen := hw.goneOn.toSeenAlike
  have hok : ∀ a n, rangeOkOp w o a n = rangeOkOp s (asOp s r d) a n := fun a n => by
    rw [hseen.rangeOkOp, rangeOkOp, hw.taken.id, hw.taken.hwin, ← rangeOkOp]
  rcases hg.rows i hi with hnone | ⟨hlt, hreach, hrow⟩
  · rw [gatherPlace, if_pos hnone, placeNode, if_pos hnone]
  · have hne : gatherNode s b i ≠ nodeNone := Nat.ne_of_lt hlt
    rw [gatherPlace, if_neg hne, placeNode_near hne hlt]
    · rw [hbank, hseen.ownerOf]
      rfl
    · rw [hbank, hseen.ownerOf, hseen.reachOf]
      exact hreach
    · rw [hbank, hseen.ownerOf, hok]
      exact hrow.ok

theorem gatherPlaces_of_listGather :
    gatherPlaces w o b = .ok ((List.range b.count).map fun i => (gatherPlace s b i, 0)) := by
  have hnode : ∀ i ∈ List.range b.count, opNat w o (b.src + 8 * i) 8 = .ok (gatherNode s b i) := fun i hi => by
    have hlt := List.mem_range.mp hi
    rw [hw.taken.opNat hw.goneOn.toSeenAlike (asOp_epoch he)]
    exact hg.src.opNat (by omega) (by omega)
  have hplaces : ((List.range b.count).map (gatherNode s b)).map (fun v => (placeNode w o b.feat b.rowBytes nodeNone v, 0)) =
      (List.range b.count).map fun i => (gatherPlace s b i, 0) := by
    rw [List.map_map]
    exact List.map_congr_left fun i hi => by
      rw [Function.comp_apply, placeNode_of_listGather hw hbank hg (List.mem_range.mp hi)]
  unfold gatherPlaces
  simp only [hg.list, collect_ok hnode]
  exact congrArg Except.ok hplaces

end

theorem replyPlaces_none : ∀ (ps : List RowPlace) (xs : List (RowItem × Nat)),
    replyPlaces (fun _ => none) ps xs = ps.map fun p => (p, none)
  | [], _ => rfl
  | p :: ps, [] => by cases p <;> simp [replyPlaces, replyPlaces_none ps []]
  | p :: ps, x :: xs => by
    cases p <;> simp [replyPlaces, replyPlaces_none ps (x :: xs), replyPlaces_none ps xs]

/-- A row of a list-form GATHER asks no other chip. -/
theorem placeItem_gatherPlace (s t : State) (b : GatherBody) (bs : List Nat) (i k : Nat) :
    ∀ x ∈ placeItem t bs b.rowBytes (gatherPlace s b i) k, x.chip = none := by
  intro x hx
  unfold gatherPlace at hx
  split at hx
  · exact nomatch hx
  · exact Option.some.inj hx ▸ rfl

/-- Rows that all came leave nothing to be said. -/
theorem marks_of_came {α : Type} {rows : List (List Byte × Nat)} (h : ∀ x ∈ rows, x.2 = 0) {code : Nat} (hc : code ≠ 0)
    (ps : List α) :
    (rows.zip ps).zipIdx.filter (fun x => x.1.1.2 == code) = [] := by
  refine List.filter_eq_nil_iff.mpr fun x hx => ?_
  have hin : x.1 ∈ rows.zip ps := (List.mem_zipIdx' hx).2 ▸ List.getElem_mem _
  have hzero := h _ (List.of_mem_zip hin).1
  simp [hzero, hc.symm]

/-- Null rows, and rows of this device that can be read: all come, and nothing is to be said of any. -/
theorem placedRows_of_came {s : State} {o : Op} {n : Nat} {ps : List (RowPlace × Option RowReply)}
    {g : RowPlace × Option RowReply → List Byte} (h : ∀ p ∈ ps, (p.1 = .null ∧ g p = List.replicate n 0) ∨
      ∃ a, p.1 = .near a ∧ opRead s o a n = .ok (g p)) :
    placedRows s o n ps = .ok (ps.map g, {}) := by
  have hzero : ∀ x ∈ ps.map (fun p => (g p, 0)), x.2 = 0 := fun x hx => by
    obtain ⟨p, -, rfl⟩ := List.mem_map.mp hx
    rfl
  have hfailed : ((ps.map fun p => (g p, 0)).any fun x => x.2 == 3) = false := by simp
  have hfst : (ps.map fun p => (g p, 0)).map (·.1) = ps.map g := by simp
  unfold placedRows
  dsimp only
  rw [collect_ok (g := fun p => (g p, 0))]
  · change Except.ok (_, RowMarks.mk _ _ _) = _
    rw [marks_of_came hzero (by decide), marks_of_came hzero (by decide), hfailed, hfst]
    rfl
  · rintro ⟨p, x⟩ hp
    rcases h _ hp with ⟨rfl, hg⟩ | ⟨a, rfl, hread⟩
    · simp only [hg]
    · simp only [hread]
      rfl

/-- The bytes of a place of this device. -/
def placeBytes (s : State) (n : Nat) (p : RowPlace × Option RowReply) : List Byte :=
  match p.1 with
  | .near a => committedBytes s a n
  | _ => List.replicate n 0

theorem placeBytes_gatherPlace (s : State) (b : GatherBody) (i : Nat) :
    placeBytes s b.rowBytes (gatherPlace s b i, none) = gatheredRow s b i := by
  by_cases hnone : gatherNode s b i = nodeNone
  · rw [gatherPlace, gatheredRow, if_pos hnone, if_pos hnone, placeBytes]
  · rw [gatherPlace, gatheredRow, if_neg hnone, if_neg hnone, placeBytes]

/-- The places of a list-form GATHER with the replies that none of them needs. -/
def gatherReplies (s : State) (b : GatherBody) : List (RowPlace × Option RowReply) :=
  (List.range b.count).map fun i => (gatherPlace s b i, none)

/-- The bytes that it stores. -/
def gathered (s : State) (b : GatherBody) : List Byte := ((List.range b.count).map (gatheredRow s b)).flatten

theorem placedRows_of_listGather {s u : State} {r : Nat} {d : Desc} {o : Op} {b : GatherBody} (hseen : SeenAlike s u)
    (htaken : TakenAs s (asOp s r d) o) (he : s.dome.epochs = []) (hg : ListGather s (asOp s r d) b) :
    placedRows u o b.rowBytes (gatherReplies s b) = .ok ((List.range b.count).map (gatheredRow s b), {}) := by
  have hbytes : (gatherReplies s b).map (placeBytes s b.rowBytes) = (List.range b.count).map (gatheredRow s b) := by
    rw [gatherReplies, List.map_map]
    exact List.map_congr_left fun i _ => by rw [Function.comp_apply, placeBytes_gatherPlace]
  rw [← hbytes]
  refine placedRows_of_came fun p hp => ?_
  rw [gatherReplies] at hp
  obtain ⟨i, hi, rfl⟩ := List.mem_map.mp hp
  rcases hg.rows i (List.mem_range.mp hi) with hnone | ⟨hlt, -, hrow⟩
  · rw [gatherPlace, if_pos hnone]
    exact .inl ⟨rfl, rfl⟩
  · rw [gatherPlace, if_neg (Nat.ne_of_lt hlt)]
    refine .inr ⟨_, rfl, ?_⟩
    rw [htaken.opRead hseen (asOp_epoch he), placeBytes]
    exact hrow.opReadAt

theorem length_gathered (s : State) (b : GatherBody) : (gathered s b).length = b.count * b.rowBytes := by
  have hlen : (List.map List.length ((List.range b.count).map (gatheredRow s b))) = List.replicate b.count b.rowBytes := by
    rw [List.map_map, List.eq_replicate_iff]
    simp [length_gatheredRow]
  rw [gathered, List.length_flatten, hlen, List.sum_replicate, smul_eq_mul]

/-- No place of a list-form GATHER lies in the register mirror of another chip. -/
theorem placesMirror_gatherPlace (s : State) (b : GatherBody) :
    placesMirror b.rowBytes ((List.range b.count).map (gatherPlace s b)) = false := by
  refine List.any_eq_false.mpr fun p hp => ?_
  obtain ⟨i, -, rfl⟩ := List.mem_map.mp hp
  by_cases hnone : gatherNode s b i = nodeNone
  · rw [gatherPlace, if_pos hnone]
    exact Bool.false_ne_true
  · rw [gatherPlace, if_neg hnone]
    exact Bool.false_ne_true

section
variable {s w : State} {r : Nat} {d : Desc} {o : Op} {b : GatherBody} (hw : InFlight s w r d o .active 1)
  (he : s.dome.epochs = []) (hbank : o.bank = some (bankNow s)) (hg : ListGather s (asOp s r d) b)
include hw he hbank hg

theorem gatherItems_near : ∀ x ∈ gatherItems w o b, x.chip = none := by
  intro x hx
  rw [gatherItems, gatherPlaces_of_listGather hw he hbank hg] at hx
  obtain ⟨⟨⟨p, n⟩, k⟩, hp, hitem⟩ := List.mem_filterMap.mp hx
  obtain ⟨i, -, hi⟩ := List.mem_map.mp (List.fst_mem_of_mem_zipIdx hp)
  obtain ⟨rfl, rfl⟩ := Prod.mk.inj hi
  exact placeItem_gatherPlace s w b _ i k x hitem

/-- Its rows are served at once, and it stores them all. -/
theorem runGather_stores (htxn : d.hdr.txn = 0) (hin : InPlace s [(b.dst, b.count * b.rowBytes)])
    (hserved : RowsServed w s.opNext (windowed b.windowReq (gatherItems w o b))) :
    OpIs s (runGather w o b) r d (.done .ok) ∧ (runGather w o b).mem = writesOn s.mem [(b.dst, gathered s b)] ∧
      (runGather w o b).regs = s.regs := by
  have hplaces := gatherPlaces_of_listGather hw he hbank hg
  have hpairs : ((List.range b.count).map fun i => (gatherPlace s b i, 0)).map (·.1) =
      (List.range b.count).map (gatherPlace s b) := by
    rw [List.map_map]
    rfl
  have hmirror : placesMirror b.rowBytes ((List.range b.count).map (gatherPlace s b)) = false :=
    placesMirror_gatherPlace s b
  have hitems : (((List.range b.count).map fun i => (gatherPlace s b i, 0)).zipIdx.filterMap fun x =>
      placeItem w (opCrew w o b.mask) b.rowBytes x.1.1 x.2) = gatherItems w o b := by
    rw [gatherItems, hplaces]
  have hnear : ∀ x ∈ gatherItems w o b, x.chip = none := gatherItems_near hw he hbank hg
  have hfar : farStatus w ((gatherItems w o b).filterMap (·.chip)) = none := by
    rw [List.filterMap_eq_nil_iff.mpr hnear]
    rfl
  obtain ⟨q, hq⟩ := rowsRead_inFlight hw (windowed b.windowReq (gatherItems w o b))
  have hno : o.hdr.txn = 0 := hw.taken.hdr ▸ htxn
  obtain ⟨t, bf, hwrites, hland⟩ := opWrites_landed hq (o := o) (hq.id.trans hw.id.symm) hno (hq.taken.hdr ▸ htxn)
    (ws := [(b.dst, gathered s b)]) (by simpa only [AllInPlace, List.map_cons, List.map_nil, length_gathered] using hin)
  have hwork : gatherWork (rowsRead w s.opNext (windowed b.windowReq (gatherItems w o b))) o b
      ((List.range b.count).map fun i => (gatherPlace s b i, 0)) (gatherReplies s b) =
      .ok ((List.range b.count).map (gatheredRow s b), {}) := by
    rw [gatherWork, placedRows_of_listGather hq.goneOn.toSeenAlike hw.taken he hg, hg.noArg]
    rfl
  have hreplies : replyPlaces (fun _ => none) ((List.range b.count).map (gatherPlace s b))
      (windowed b.windowReq (gatherItems w o b)) = gatherReplies s b := by
    rw [replyPlaces_none, List.map_map]
    rfl
  rw [gathered] at hwrites hland
  have hrun : runGather w o b = rowsEnd t s.opNext (gatherStrict b) {} := by
    simp only [runGather, hg.list, hplaces, hpairs, hmirror, hitems, hfar, withRows_near hw hw.id hw.asked hnear hserved,
      hreplies, hwork, applyWrites, hwrites, hw.id, ne_eq, not_true_eq_false, decide_false, Bool.false_and,
      Bool.false_eq_true, if_false, if_true]
  have hstrict : rowsEnd t s.opNext (gatherStrict b) {} = rowsEnd t s.opNext false {} := by
    simp [rowsEnd]
  rw [hrun, hstrict]
  exact hland.rowsEnd rfl rfl

end

end Sys2Proof.Machine
end

section
/-! PROOFS. GATHER of a list (O45's first clause): bytes read back after a write, and the list that its acceptance checked. -/

namespace Sys2Proof.Machine

/-! ### Bytes read back after a write -/

/-- Part of the bytes written. -/
theorem Memory.getBytes_putBytes {m : Memory} (h : m.wf = true) (a : Nat) {bs : List Byte} {i n : Nat} (hn : i + n ≤ bs.length) :
    (m.putBytes a bs).getBytes (a + i) n = (bs.drop i).take n := by
  refine List.ext_getElem (by simp [Memory.getBytes]; omega) fun j hj _ => ?_
  have hlt : j < n := by simpa [Memory.getBytes] using hj
  have hin : i + j < bs.length := by omega
  have hoff : a + i + j - a = i + j := by omega
  simp only [Memory.getBytes, List.getElem_map, List.getElem_range, List.getElem_take, List.getElem_drop]
  rw [Memory.get_putBytes h, if_pos (by omega), hoff, List.getElem?_eq_getElem hin, Option.getD_some]

/-- Bytes outside a write. -/
theorem Memory.get_putBytes_outside {m : Memory} (h : m.wf = true) {a x : Nat} {bs : List Byte} (hx : x < a ∨ a + bs.length ≤ x) :
    (m.putBytes a bs).get x = m.get x := by
  rw [Memory.get_putBytes h]
  split
  · rw [List.getElem?_eq_none (by omega), Option.getD_none]
  · rfl

/-- Row i of rows of one length. -/
theorem slice_flatten {α : Type} {k : Nat} : ∀ {l : List (List α)} {i : Nat} {x : List α}, (∀ y ∈ l, y.length = k) →
    l[i]? = some x → (l.flatten.drop (i * k)).take k = x
  | y :: l, 0, x, hk, hx => by
    obtain rfl : y = x := by simpa using hx
    simp [← hk y List.mem_cons_self]
  | y :: l, i + 1, x, hk, hx => by
    have hdrop : (y ++ l.flatten).drop ((i + 1) * k) = l.flatten.drop (i * k) := by
      rw [Nat.succ_mul, Nat.add_comm, ← hk y List.mem_cons_self, List.drop_length_add_append]
    rw [List.flatten_cons, hdrop]
    exact slice_flatten (fun z hz => hk z (List.mem_cons_of_mem _ hz)) (by simpa using hx)

theorem mem_wf_of_sound {s : State} (h : Sound s = true) : s.mem.wf = true := by
  simp only [Sound, Bool.and_eq_true] at h
  obtain ⟨⟨⟨⟨⟨⟨hmem, -⟩, -⟩, -⟩, -⟩, -⟩, -⟩ := h
  exact hmem

/-! ### The list that its acceptance checked -/

theorem lanCoveredBy_mono {s : State} {size size' : Nat → Nat} (hsize : ∀ k, size k ≤ size' k) {o n : Nat}
    (h : lanCoveredBy s size o n = true) : lanCoveredBy s size' o n = true := by
  simp only [lanCoveredBy, List.all_eq_true, List.any_eq_true, List.mem_range, Bool.and_eq_true, decide_eq_true_eq] at h ⊢
  intro j hj
  obtain ⟨k, hk, hlo, hhi⟩ := h j hj
  have hgrow := hsize k
  exact ⟨k, hk, hlo, by omega⟩

/-- A range that may be touched may be by an op that was accepted before, where the partitions were no smaller. -/
theorem rangeOkBy_mono {s : State} {size size' : Nat → Nat} (hsize : ∀ k, size k ≤ size' k) {win : Option Nat} {a n : Nat}
    (h : rangeOkBy s size win a n = true) : rangeOkBy s size' win a n = true := by
  simp only [rangeOkBy, Bool.or_eq_true, Bool.and_eq_true] at h ⊢
  refine h.imp id fun ⟨hleft, hok⟩ => ⟨hleft, ?_⟩
  cases hr : regionOf a <;> rw [hr] at hok
  case lantern => exact lanCoveredBy_mono hsize hok
  all_goals exact hok

theorem rangeOkOp_asOp {s : State} {r : Nat} {d : Desc} {a n : Nat} (h : rangeOk s a n = true) :
    rangeOkOp s (asOp s r d) a n = true :=
  rangeOkBy_mono (partSize_le_partSizeFor s s.opNext) h

/-- What the checks of a list-form GATHER have shown. -/
theorem gather_checked {s : State} {o : Op} {b : GatherBody} (h : checkGather s o b = none) (hlist : gatherKind b = 0) :
    gatherArg b = false ∧ opRange s o b.src (8 * b.count) 1 = true ∧ opRange s o b.dst (b.count * b.rowBytes) 1 = true := by
  unfold checkGather at h
  simp only [hlist, if_true] at h
  split at h
  · exact nomatch h
  next hform =>
    have hranges := refuse_eq_none.mp h (_, .outOfRange) (List.mem_cons_of_mem _ (List.mem_cons_of_mem _ List.mem_cons_self))
    simp only [Bool.or_eq_false_iff, Bool.not_eq_false'] at hranges
    refine ⟨Bool.eq_false_iff.mpr fun harg => hform ?_, hranges⟩
    simp [harg]

theorem opCheck_gather {s : State} {o : Op} {b : GatherBody} (h : o.body = .gather b) : opCheck s o = checkGather s o b := by
  simp [opCheck, h, opCtl]

/-- The list that an accepted GATHER names, where its rows lie here. -/
theorem listGather_of_accepts {s : State} {r : Nat} {h : Hdr} {b : GatherBody}
    (ha : Accepts s r { hdr := h, body := .gather b }) (hp : NoPins s r { hdr := h, body := .gather b }) (htxn : h.txn = 0)
    (hnone : txnOf s 0 = none) (hlist : gatherKind b = 0) (hregion : regionOf (addrOff b.src) ≠ .hostWindow)
    (hrows : ∀ i, i < b.count → gatherNode s b i = nodeNone ∨ (gatherNode s b i < nodeNone ∧
      reachOf s (ownerOf s (bankNow s) (gatherNode s b i)).1 = .near ∧
      rangeOk s (gatherRow s b (gatherNode s b i)) b.rowBytes = true ∧
      meetsView s (gatherRow s b (gatherNode s b i)) b.rowBytes = false ∧
      regionOf (gatherRow s b (gatherNode s b i)) ≠ .hostWindow)) :
    ListGather s (asOp s r { hdr := h, body := .gather b }) b := by
  obtain ⟨harg, hsrc, -⟩ := gather_checked ((opCheck_gather rfl).symm.trans (opCheck_of_accepts ha)) hlist
  obtain ⟨hlocal, hok⟩ := range_of_opRange hsrc
  have hread : (b.src, 8 * b.count) ∈ opReads (handed s r { hdr := h, body := .gather b })
      (asOp s r { hdr := h, body := .gather b }) := by
    simp [opReads, asOp, newOp, readsGather, hlist]
  refine ⟨hlist, harg, ⟨htxn, hnone, hregion, hok, noView_of_noPins hp hread hlocal⟩, fun i hi => ?_⟩
  refine (hrows i hi).imp_right fun ⟨hlt, hreach, hrow, hview, hnear⟩ =>
    ⟨hlt, hreach, htxn, hnone, hnear, rangeOkOp_asOp hrow, hview⟩

theorem exec_gather (r : Fin 256) (h : Hdr) (b : GatherBody) (s : State) :
    exec (.gather r h b) s = .next (opCommand s r.val { hdr := h, body := .gather b }) := rfl

theorem opWork_gather {o : Op} {b : GatherBody} (h : o.body = .gather b) (s : State) : opWork s o = runGather s o b := by
  simp only [opWork, h]

theorem gathered_row {s : State} {b : GatherBody} {i : Nat} (hi : i < b.count) :
    ((gathered s b).drop (i * b.rowBytes)).take b.rowBytes = gatheredRow s b i :=
  slice_flatten (fun y hy => by obtain ⟨j, -, rfl⟩ := List.mem_map.mp hy; exact length_gatheredRow s b j) (by simp [hi])

/-- The first clause of O45. -/
theorem gather_stores {s : State} {r : Fin 256} {h : Hdr} {b : GatherBody} {d : Desc} (hd : d = { hdr := h, body := .gather b })
    (hrest : AtRest s r.val) (hacc : Accepts s r.val d) (hstart : Starts s r.val d) (hpins : NoPins s r.val d) (hdies : DiesRun s)
    (htxn : h.txn = 0) (hin : InPlace s [(b.dst, b.count * b.rowBytes)]) (hg : ListGather s (asOp s r.val d) b)
    (hserved : RowsServed (atWork s r.val d) s.opNext
      (windowed b.windowReq (gatherItems (atWork s r.val d) (atWorkOp s r.val d) b))) :
    ∃ t, exec (.gather r h b) s = .next t ∧ OpIs s t r.val d (.done .ok) ∧ t.regs = s.regs ∧
      (∀ i, i < b.count → t.mem.getBytes (addrOff b.dst + i * b.rowBytes) b.rowBytes = gatheredRow s b i) ∧
      MemFrame s t (addrOff b.dst) (b.count * b.rowBytes) := by
  subst hd
  obtain ⟨hw, hrun⟩ := opCommand_of_starts hrest hacc hpins (moves_gather b) hstart hdies
  have hbank := (atWorkOp_bank hrest hacc hpins (moves_gather b)).trans (asOp_bank rfl)
  have hwf : s.mem.wf = true := mem_wf_of_sound hrest.1
  obtain ⟨hop, hmem, hregs⟩ := runGather_stores hw hpins.1 hbank hg htxn hin hserved
  rw [exec_gather, hrun, opWork_gather hw.body]
  refine ⟨_, rfl, hop, hregs, fun i hi => ?_, fun a ha => ?_⟩
  · rw [hmem, writesOn, List.foldl_cons, List.foldl_nil, Memory.getBytes_putBytes hwf, gathered_row hi]
    rw [length_gathered]
    nlinarith
  · rw [hmem, writesOn, List.foldl_cons, List.foldl_nil]
    exact Memory.get_putBytes_outside hwf (by rwa [length_gathered])

theorem gatheredRow_eq (s : State) (b : GatherBody) (i : Nat) : gatheredRow s b i =
    if gatherNode s b i = nodeNone then List.replicate b.rowBytes 0
    else committedBytes s (gatherRow s b (gatherNode s b i)) b.rowBytes := by
  rw [gatheredRow]

end Sys2Proof.Machine
end

section
/-! PROOFS. SAMPLE (spec/06 R142 to R147): its record lies in its room and begins with what it was asked for. -/

namespace Sys2Proof.Machine

/-! ### Writes in one room -/

/-- Every write lies in `n` bytes from `lo`. -/
def InRoom (lo n : Nat) (ws : List (Nat × List Byte)) : Prop := ∀ w ∈ ws, lo ≤ addrOff w.1 ∧ addrOff w.1 + w.2.length ≤ lo + n

theorem writesOn_append (m : Memory) (xs ys : List (Nat × List Byte)) : writesOn m (xs ++ ys) = writesOn (writesOn m xs) ys :=
  List.foldl_append

theorem writesOn_wf {m : Memory} (h : m.wf = true) (ws : List (Nat × List Byte)) : (writesOn m ws).wf = true :=
  List.foldlRecOn ws _ (motive := fun t => Memory.wf t = true) h fun _ ht _ _ => Memory.putBytes_wf ht

theorem get_writesOn_outside {m : Memory} (h : m.wf = true) {lo n : Nat} {ws : List (Nat × List Byte)}
    (hroom : InRoom lo n ws) {x : Nat}
    (hx : x < lo ∨ lo + n ≤ x) : (writesOn m ws).get x = m.get x := by
  refine (List.foldlRecOn ws _ (motive := fun t => Memory.wf t = true ∧ t.get x = m.get x) ⟨h, rfl⟩ fun t ht w hw => ?_).2
  obtain ⟨hlo, hhi⟩ := hroom w hw
  exact ⟨Memory.putBytes_wf ht.1, (Memory.get_putBytes_outside ht.1 (by omega)).trans ht.2⟩

/-! ### The layout of a path record -/

theorem length_leBytes : ∀ n v : Nat, (leBytes n v).length = n
  | 0, _ => rfl
  | n + 1, v => by rw [leBytes, List.length_cons, length_leBytes n]

theorem le_roundUp (n : Nat) : n ≤ roundUp n 64 := by
  simp only [roundUp, ceilDiv, show ¬64 = 0 by omega, if_false]
  omega

theorem length_pad64 (bs : List Byte) : (pad64 bs).length = roundUp bs.length 64 := by
  have hle := le_roundUp bs.length
  rw [pad64, List.length_append, List.length_replicate]
  omega

theorem length_flatMap_leBytes {α : Type} (n : Nat) (f : α → Nat) (l : List α) :
    (l.flatMap fun x => leBytes n (f x)).length = n * l.length := by
  simp [List.length_flatMap, length_leBytes, Nat.mul_comm]

/-- What has been laid out lies in the room. -/
structure Record.Fits (b : SampleBody) (cap : Nat) (r : Record) : Prop where
  pos : r.pos ≤ cap
  writes : ∀ w ∈ r.writes, w.1 + w.2.length ≤ cap
  locals : sampleNtab b = true → ∀ x ∈ r.locals, x.1 + roundUp (4 * x.2.length) 64 ≤ cap

theorem layoutSeeds_fits {b : SampleBody} {cap : Nat} (hcap : 128 ≤ cap) (seeds : List FrontEntry) :
    (layoutSeeds b cap seeds).Fits b cap := by
  unfold layoutSeeds
  dsimp only
  generalize hids : pad64 (seeds.flatMap fun e => leBytes 8 (nodeCode e.node)) = ids
  generalize hpos : 128 + ids.length + (if sampleNtab b then roundUp (4 * seeds.length) 64 else 0) = pos
  split
  · exact ⟨hcap, fun w hw => (List.not_mem_nil hw).elim, fun _ x hx => (List.not_mem_nil hx).elim⟩
  next hfit =>
    have hle : pos ≤ cap := Nat.not_lt.mp hfit
    refine ⟨hle, fun w hw => ?_, fun hntab x hx => ?_⟩
    · obtain rfl := List.mem_singleton.mp hw
      dsimp only
      omega
    · obtain rfl := List.mem_singleton.mp hx
      rw [if_pos hntab] at hpos
      rw [List.length_map]
      omega

theorem layoutHop_fits {b : SampleBody} {cap : Nat} {r : Record} (h : r.Fits b cap) (es : List Expanded) :
    (layoutHop b cap r es).Fits b cap := by
  unfold layoutHop
  dsimp only
  generalize hoffs : pad64 ((es.foldl (fun (l : List Nat) e => l ++ [l.getLastD 0 + e.entries.length]) [0]).flatMap
    (leBytes 4)) = offs
  generalize hentries : es.flatMap (·.entries) = entries
  generalize hrows : pad64 (entries.flatMap fun e => leBytes 8 (nodeCode e.node + e.rank * 2 ^ 40) ++ leBytes 8 e.edge) = rows
  generalize hnext : r.pos + offs.length + rows.length + (if sampleNtab b then roundUp (4 * entries.length) 64 else 0) = next
  split
  · exact h
  split
  · exact ⟨h.pos, h.writes, h.locals⟩
  next hfit =>
    have hle : next ≤ cap := Nat.not_lt.mp (not_or.mp hfit).1
    refine ⟨hle, fun w hw => ?_, fun hntab x hx => ?_⟩
    · rcases List.mem_append.mp hw with hw | hw
      · exact h.writes w hw
      · simp only [List.mem_cons, List.not_mem_nil, or_false] at hw
        rcases hw with rfl | rfl <;> dsimp only <;> omega
    · rcases List.mem_append.mp hx with hx | hx
      · exact h.locals hntab x hx
      · obtain rfl := List.mem_singleton.mp hx
        rw [if_pos hntab] at hnext
        rw [List.length_map]
        omega

theorem length_recordHeader (b : SampleBody) (r : Record) (x y z n : Nat) (t : Bool) :
    (recordHeader b r x y z n t).length = 128 := by
  simp [recordHeader, length_leBytes, List.length_flatMap]

theorem take_recordHeader (b : SampleBody) (r : Record) (x y z n : Nat) (t : Bool) : (recordHeader b r x y z n t).take 17 =
    leBytes 8 b.graph ++ leBytes 4 b.sampleId ++ leBytes 4 b.seeds ++ leBytes 1 b.hops := by
  have hlen : (leBytes 8 b.graph ++ leBytes 4 b.sampleId ++ leBytes 4 b.seeds ++ leBytes 1 b.hops).length = 17 := by
    simp [length_leBytes]
  have hprefix : leBytes 8 b.graph ++ leBytes 4 b.sampleId ++ leBytes 4 b.seeds ++ leBytes 1 b.hops <+:
      recordHeader b r x y z n t := by
    simp only [recordHeader, List.append_assoc, List.prefix_append_right_inj, List.prefix_append]
  rw [List.prefix_iff_eq_take, hlen] at hprefix
  exact hprefix.symm

/-- A record: writes that lie in its room, the header last. -/
theorem sampleRecord_writes {b : SampleBody} (hcap : 2 ≤ b.prCap) (seeds : List FrontEntry) (hops : List (List Expanded)) :
    ∃ ws head, (sampleRecord b seeds hops).1 = ws ++ [(0, head)] ∧ head.length = 128 ∧
      head.take 17 = leBytes 8 b.graph ++ leBytes 4 b.sampleId ++ leBytes 4 b.seeds ++ leBytes 1 b.hops ∧
      ∀ w ∈ ws, w.1 + w.2.length ≤ 64 * b.prCap := by
  have hfits : (hops.foldl (layoutHop b (64 * b.prCap)) (layoutSeeds b (64 * b.prCap) seeds)).Fits b (64 * b.prCap) :=
    List.foldlRecOn hops _ (layoutSeeds_fits (by omega) seeds) fun _ hr es _ => layoutHop_fits hr es
  refine ⟨_, _, rfl, length_recordHeader _ _ _ _ _ _ _, take_recordHeader _ _ _ _ _ _ _, fun w hw => ?_⟩
  rcases List.mem_append.mp hw with hw | hw
  · rcases List.mem_append.mp hw with hw | hw
    · exact hfits.writes w hw
    · split at hw
      next hntab =>
        obtain ⟨x, hx, rfl⟩ := List.mem_map.mp hw
        dsimp only
        rw [length_pad64, length_flatMap_leBytes]
        exact hfits.locals hntab x hx
      · exact nomatch hw
  · split at hw
    next hntab =>
      obtain rfl := List.mem_singleton.mp hw
      simp only [Bool.and_eq_true, decide_eq_true_eq] at hntab
      exact hntab.2
    · exact nomatch hw

/-! ### The op -/

/-- A range of LPDDR5X or the Lantern ends below the host window. -/
theorem lt_hwinBase_of_deep {a n : Nat} (hr : regionOf a = .lpddr ∨ regionOf a = .lantern) (hn : n ≤ regionLeft a) :
    a + n < hwinBase := by
  rcases hr with hr | hr
  all_goals
    have hin := (regionOf_eq_iff (by rw [hr]; nofun) a).mp rfl
    simp only [regionLeft, hr, InRegion, lpBytes, lanBase, lanBytes, hwinBase] at hin hn ⊢
    omega

/-- Writes at places of a room where they may land do. -/
theorem allInPlace_of_room {s : State} {pr n : Nat} (hin : InPlace s [(pr, n)]) (hdeep : addrOff pr + n < hwinBase)
    {ws : List (Nat × List Byte)} (hws : ∀ w ∈ ws, w.1 + w.2.length ≤ n) :
    InRoom (addrOff pr) n (ws.map fun w => (pr + w.1, w.2)) ∧ AllInPlace s (ws.map fun w => (pr + w.1, w.2)) := by
  obtain ⟨hjournals, hcopying, hheld, hnone, hplace⟩ := hin
  obtain ⟨-, hclear⟩ := hplace _ List.mem_cons_self
  have hoff : ∀ w ∈ ws, addrOff (pr + w.1) = addrOff pr + w.1 := fun w hw => addrOff_add (by
    have := hws w hw
    simp only [hwinBase] at hdeep
    omega)
  refine ⟨fun x hx => ?_, hjournals, hcopying, hheld, hnone, fun x hx => ?_⟩
  · obtain ⟨w, hw, rfl⟩ := List.mem_map.mp hx
    have hfit := hws w hw
    rw [hoff w hw]
    dsimp only
    omega
  · obtain ⟨y, hy, rfl⟩ := List.mem_map.mp hx
    obtain ⟨w, hw, rfl⟩ := List.mem_map.mp hy
    have hfit := hws w hw
    rw [hoff w hw]
    refine ⟨fun hregion => ?_, fun hdir => (hclear hdir).imp (fun h => ?_) fun h => ?_⟩
    · have hlow := ((regionOf_eq_iff (r := .hostWindow) nofun _).mp hregion).1
      omega
    · dsimp only at h ⊢
      omega
    · dsimp only at h ⊢
      omega

/-- What the checks of a SAMPLE have shown of its room. -/
theorem sample_checked {s : State} {o : Op} {b : SampleBody} (h : checkSample s o b = none) :
    2 ≤ b.prCap ∧ deepRange s o b.pr (64 * b.prCap) 64 = true := by
  unfold checkSample at h
  dsimp only at h
  split at h
  · exact nomatch h
  next hform =>
    split at h
    · exact nomatch h
    · have hranges := refuse_eq_none.mp h (_, .outOfRange)
        (List.mem_cons_of_mem _ (List.mem_cons_of_mem _ (List.mem_cons_of_mem _ List.mem_cons_self)))
      simp only [Bool.or_eq_false_iff, Bool.not_eq_false'] at hranges
      refine ⟨Nat.not_lt.mp fun hcap => hform ?_, hranges.2⟩
      simp [hcap]

theorem opCheck_sample {s : State} {o : Op} {b : SampleBody} (h : o.body = .sample b) : opCheck s o = checkSample s o b := by
  simp [opCheck, h, opCtl]

/-- The room of an accepted SAMPLE. -/
theorem room_of_accepts {s : State} {r : Nat} {h : Hdr} {b : SampleBody} (ha : Accepts s r { hdr := h, body := .sample b }) :
    2 ≤ b.prCap ∧ addrOff b.pr + 64 * b.prCap < hwinBase := by
  obtain ⟨hcap, hdeep⟩ := sample_checked ((opCheck_sample rfl).symm.trans (opCheck_of_accepts ha))
  simp only [deepRange, Bool.and_eq_true, Bool.or_eq_true, beq_iff_eq] at hdeep
  exact ⟨hcap, lt_hwinBase_of_deep hdeep.2 (le_regionLeft_of_rangeOkBy (range_of_opRange hdeep.1).2 (by omega))⟩

theorem Landed.opDone {s t : State} {r : Nat} {d : Desc} {q : Op} {ws : List (Nat × List Byte)} (h : Landed s t r d q ws)
    (st : Status) :
    OpIs s (opDone t s.opNext st) r d (.done st) ∧ (opDone t s.opNext st).mem = writesOn s.mem ws ∧
      (opDone t s.opNext st).regs = s.regs := by
  rw [opDone_only h.ops h.id h.active]
  exact ⟨h.taken.opIs rfl h.next, h.mem, h.regs⟩

/-- A SAMPLE that is not strict, and that nothing holds back, stores its record. -/
theorem runSample_stores {s w : State} {r : Nat} {d : Desc} {o : Op} {b : SampleBody} {seeds : List FrontEntry}
    {hops : List (List Expanded)} (hw : InFlight s w r d o .active 1) (htxn : d.hdr.txn = 0) (hstrict : sampleStrict b = false)
    (hhops : sampleHops w o b = .ok (seeds, hops)) (hwalk : walkersWait w o b hops = false)
    (hpaid : (payAll w (sampleBursts w o b hops)).2 = [])
    (hin : AllInPlace s ((sampleRecord b seeds hops).1.map fun x => (b.pr + x.1, x.2))) :
    OpIs s (runSample w o b) r d (.done (if (sampleRecord b seeds hops).2 then .outOfRange else .ok)) ∧
      (runSample w o b).mem = writesOn s.mem ((sampleRecord b seeds hops).1.map fun x => (b.pr + x.1, x.2)) ∧
      (runSample w o b).regs = s.regs := by
  obtain ⟨c, hc⟩ := payAll_frame w (sampleBursts w o b hops)
  have hcharged : InFlight s (payAll w (sampleBursts w o b hops)).1 r d o .active 1 :=
    hw.goOn (goneOn_payAll _ _) (by rw [hc]) (by rw [hc])
  have hasked := hcharged.update (f := fun o => { o with asked := 1 + 1, owed := [] }) (n' := 2)
    { hcharged.taken with } hcharged.phase rfl
  have hno : o.hdr.txn = 0 := hw.taken.hdr ▸ htxn
  obtain ⟨t, bf, hwrites, hland⟩ := opWrites_landed hasked (o := o) rfl hno hno hin
  have hcount := hland.update (f := fun o => { o with
    c0 := min 0xFFFFFFFF (hops.flatten.map (·.bad)).sum, c1 := min 0xFFFFFFFF (hops.flatten.map (·.notHeld)).sum })
    { hland.taken with } hland.active
  have hrun : runSample w o b = sampleEnd t o b hops.flatten (sampleRecord b seeds hops).2 := by
    simp only [runSample, hhops, hwalk, Bool.false_eq_true, if_false, askTokens_of_paid (Nat.le_of_eq hw.asked) hpaid, hw.id,
      applyWrites, hwrites]
  rw [hrun, sampleEnd, hstrict, hw.id]
  exact hcount.opDone _

theorem exec_sample (r : Fin 256) (h : Hdr) (b : SampleBody) (s : State) :
    exec (.sample r h b) s = .next (opCommand s r.val { hdr := h, body := .sample b }) := rfl

theorem opWork_sample {o : Op} {b : SampleBody} (h : o.body = .sample b) (s : State) : opWork s o = runSample s o b := by
  simp only [opWork, h]

/-- What a record leaves in memory: it begins with what it was asked for, and nothing changes outside its room. -/
theorem sampleRecord_stored {m : Memory} (h : m.wf = true) {s : State} {b : SampleBody} (hcap : 2 ≤ b.prCap)
    (hdeep : addrOff b.pr + 64 * b.prCap < hwinBase) (hin : InPlace s [(b.pr, 64 * b.prCap)]) (seeds : List FrontEntry)
    (hops : List (List Expanded)) :
    AllInPlace s ((sampleRecord b seeds hops).1.map fun x => (b.pr + x.1, x.2)) ∧
      (writesOn m ((sampleRecord b seeds hops).1.map fun x => (b.pr + x.1, x.2))).getBytes (addrOff b.pr) 17 =
        leBytes 8 b.graph ++ leBytes 4 b.sampleId ++ leBytes 4 b.seeds ++ leBytes 1 b.hops ∧
      ∀ a, a < addrOff b.pr ∨ addrOff b.pr + 64 * b.prCap ≤ a →
        (writesOn m ((sampleRecord b seeds hops).1.map fun x => (b.pr + x.1, x.2))).get a = m.get a := by
  obtain ⟨ws, head, hrecord, hlen, htake, hws⟩ := sampleRecord_writes hcap seeds hops
  have hall : ∀ w ∈ (sampleRecord b seeds hops).1, w.1 + w.2.length ≤ 64 * b.prCap := fun w hw => by
    rw [hrecord] at hw
    rcases List.mem_append.mp hw with hw | hw
    · exact hws w hw
    · obtain rfl := List.mem_singleton.mp hw
      dsimp only
      omega
  obtain ⟨hroom, hplace⟩ := allInPlace_of_room hin hdeep hall
  refine ⟨hplace, ?_, fun a ha => get_writesOn_outside h hroom ha⟩
  have hbytes := Memory.getBytes_putBytes (writesOn_wf h (ws.map fun x => (b.pr + x.1, x.2))) (addrOff b.pr) (bs := head) (i := 0)
    (n := 17) (by omega)
  rw [hrecord, List.map_append, writesOn_append]
  exact hbytes.trans htake

end Sys2Proof.Machine
end

section
/-! PROOFS. SCATTER whose rows all lie here (spec/06 R155, R156): the path form and the local list form store their folded rows,
and a row in a register mirror of another chip ends it. -/

namespace Sys2Proof.Machine

/-! ### What a SCATTER reads, in states that ops read alike -/

/-- Where other work than an op's reads finds two states alike too: the merge trees stand in for each other alike, and the same
value is drawn next. -/
structure FoldsAlike (s t : State) : Prop extends SeenAlike s t where
  homes : ∀ n, standIn t n = standIn s n
  draws : t.draws = s.draws

section
variable {s t : State} (h : SeenAlike s t)
include h

theorem SeenAlike.messageRow (o : Op) (b : ScatterBody) (i : Nat) : messageRow t o b i = messageRow s o b i := by
  simp only [Machine.messageRow, h.opRead]

theorem SeenAlike.pathItems (o : Op) (b : ScatterBody) : pathItems t o b = pathItems s o b := by
  simp only [Machine.pathItems, h.opRec, h.recField, h.recParents, h.recEntry, h.messageRow, h.opNat]

theorem SeenAlike.listItems (o : Op) (b : ScatterBody) : listItems t o b = listItems s o b := by
  unfold Machine.listItems
  refine congrArg (· >>= _) (congrArg (collect · (List.range b.count)) (funext fun i => ?_))
  rw [h.opNat, h.messageRow]
  refine congrArg (_ >>= ·) (funext fun v => congrArg (_ >>= ·) (funext fun row => ?_))
  refine if_congr Iff.rfl rfl (if_congr Iff.rfl rfl ?_)
  rw [h.ownerOf]
  generalize Machine.ownerOf s (o.bank.getD 0) v = place
  obtain ⟨chip, k⟩ := place
  dsimp only
  rw [h.reachOf, h.ownChip]
  cases Machine.reachOf s chip
  · dsimp only
    rw [h.rangeOkOp]
  · rfl
  · rfl

theorem SeenAlike.ownersRemote (bank : Nat) : ownersRemote t bank = ownersRemote s bank := by
  simp only [Machine.ownersRemote, h.ownCount, h.ownEntry, h.reachOf]

theorem SeenAlike.foldRows (o : Op) (b : ScatterBody) (rows : List (Nat × List (Nat × List Val))) :
    foldRows t o b rows = foldRows s o b rows := by
  simp only [Machine.foldRows, h.opRead]

end

section
variable {s t : State} (h : FoldsAlike s t)
include h

theorem FoldsAlike.mtOrder (nodes : List Nat) : mtOrder t nodes = mtOrder s nodes := by
  simp only [Machine.mtOrder, mtHome, h.homes]

theorem FoldsAlike.pathRows (o : Op) (b : ScatterBody) : pathRows t o b = pathRows s o b := by
  simp only [Machine.pathRows, h.pathItems, h.opRead, h.recCount, h.mtOrder, h.draws]

end

/-- What reading rows changes: the chime's tokens, the op, and what its channels are asked. -/
theorem rowsRead_frame (w : State) (id : Nat) (xs : List (RowItem × Nat)) :
    ∃ c os cs, rowsRead w id xs = { w with chime := c, ops := os, mif := { w.mif with channels := cs } } := by
  obtain ⟨c, hc⟩ := payAll_frame w (rowBursts w xs)
  obtain ⟨cs, hcs⟩ := nearReady_frame (rowsPaid w id xs) xs
  rw [rowsRead, hcs, rowsPaid, hc]
  exact ⟨_, _, _, rfl⟩

theorem foldsAlike_rowsRead (w : State) (id : Nat) (xs : List (RowItem × Nat)) : FoldsAlike w (rowsRead w id xs) := by
  obtain ⟨c, os, cs, hframe⟩ := rowsRead_frame w id xs
  rw [hframe]
  exact ⟨⟨rfl, rfl, rfl, rfl, rfl, rfl, fun _ => rfl⟩, fun _ => rfl, rfl⟩

theorem messageItems_near {s : State} {o : Op} {b : ScatterBody} {n : Nat} : ∀ x ∈ messageItems s o b n, x.chip = none := by
  intro x hx
  obtain ⟨i, -, rfl⟩ := List.mem_map.mp hx
  rfl

/-! ### The path form -/

section
variable {s t : State} {o q : Op} (h : SeenAlike s t) (hq : TakenAs s o q) (he : o.epoch = none)
include h hq

theorem TakenAs.rangeOkOp (a n : Nat) : rangeOkOp t q a n = rangeOkOp s o a n := by
  rw [h.rangeOkOp, Machine.rangeOkOp, hq.id, hq.hwin, ← Machine.rangeOkOp]

theorem TakenAs.opRange (a n align : Nat) : opRange t q a n align = opRange s o a n align := by
  simp only [Machine.opRange, h.isLocal, hq.rangeOkOp h]

include he

theorem TakenAs.recField (pr a n : Nat) : recField t q pr a n = recField s o pr a n := by
  simp only [Machine.recField, hq.opRec h he]

theorem TakenAs.recCount (pr k : Nat) : recCount t q pr k = recCount s o pr k := by
  simp only [Machine.recCount, hq.recField h he]

theorem TakenAs.graphEdges (g : GraphRec) : graphEdges t q g = graphEdges s o g := by
  simp only [Machine.graphEdges, hq.opRec h he]

/-- A path record is found as it was at its acceptance. -/
theorem TakenAs.scatterRecord (b : ScatterBody) : scatterRecord t q b = scatterRecord s o b := by
  simp only [Machine.scatterRecord, recordBad, recState, recGraphOk, deepRange, hq.opRec h he, hq.recField h he, hq.recCount h he,
    hq.graphEdges h he, hq.opRange h, h.isLocal, h.meetsView]
  rfl

end

theorem checkScatter_of_opCheck {s : State} {o : Op} {b : ScatterBody} (h : o.body = .scatter b) (hcheck : opCheck s o = none) :
    checkScatter s o b = none := by
  simp only [opCheck, h, opCtl] at hcheck
  split at hcheck
  · exact nomatch hcheck
  · exact hcheck

theorem liveSample_of_none {s : State} (h : s.ops = []) (o : Op) (a : Nat) : liveSample s o a = false := by
  rw [liveSample, h, List.any_nil]

theorem liveSample_of_only {s : State} {o : Op} (h : s.ops = [o]) (a : Nat) : liveSample s o a = false := by
  simp [liveSample, h]

/-- The record of a path-form SCATTER passed its checks. -/
theorem scatterRecord_of_accepts {s : State} {r : Nat} {h : Hdr} {b : ScatterBody} (hrest : AtRest s r)
    (ha : Accepts s r { hdr := h, body := .scatter b }) (hp : NoPins s r { hdr := h, body := .scatter b })
    (hpath : scatterPath b = true) :
    scatterRecord s (asOp s r { hdr := h, body := .scatter b }) b = none := by
  obtain ⟨-, -, ⟨hops, -⟩, -⟩ := hrest
  have hlive := liveSample_of_none (s := handed s r { hdr := h, body := .scatter b }) hops
    (asOp s r { hdr := h, body := .scatter b })
    (addrOff b.idx)
  have hcheck := checkScatter_of_opCheck rfl (opCheck_of_accepts ha)
  have hseen := (goneOn_handed s r { hdr := h, body := .scatter b }).toSeenAlike
  unfold checkScatter at hcheck
  dsimp only at hcheck
  split at hcheck
  · exact nomatch hcheck
  · split at hcheck
    · exact nomatch hcheck
    · rw [hlive, if_neg Bool.false_ne_true] at hcheck
      have hself : TakenAs s (asOp s r { hdr := h, body := .scatter b }) (asOp s r { hdr := h, body := .scatter b }) :=
        ⟨rfl, rfl, rfl, rfl, rfl, rfl, rfl, rfl, asOp_epoch hp.1, rfl, rfl, rfl, rfl⟩
      exact (hself.scatterRecord hseen (asOp_epoch hp.1) b).symm.trans hcheck

section
variable {s w : State} {r : Nat} {d : Desc} {o : Op} {b : ScatterBody} (hw : InFlight s w r d o .active 1) (htxn : d.hdr.txn = 0)
include hw

include htxn in
/-- A path-form SCATTER that nothing holds back stores its folded rows. -/
theorem runPathScatter_stores (hrecord : scatterRecord w o b = none)
    (hserved : RowsServed w s.opNext (windowed 0 (messageItems w o b (recCount w o b.idx b.hop)))) {ws : List (Nat × List Byte)}
    {tl : Tally} (hrows : pathRows w o b = .ok (ws, tl)) (hin : AllInPlace s ws) :
    OpIs s (runPathScatter w o b) r d (.done .ok) ∧ (runPathScatter w o b).mem = writesOn s.mem ws ∧
      (runPathScatter w o b).regs = s.regs := by
  have hno : o.hdr.txn = 0 := hw.taken.hdr ▸ htxn
  generalize hxs : windowed 0 (messageItems w o b (recCount w o b.idx b.hop)) = xs at hserved
  have hfolds := foldsAlike_rowsRead w s.opNext xs
  obtain ⟨q, hq⟩ := rowsRead_inFlight hw xs
  have hdrawn : GoneOn (rowsRead w s.opNext xs) { rowsRead w s.opNext xs with
      draws := (rowsRead w s.opNext xs).draws + recCount (rowsRead w s.opNext xs) o b.idx (b.hop - 1) * scatterLanes b } :=
    ⟨⟨rfl, rfl, rfl, rfl, rfl, rfl, fun _ => rfl⟩, rfl, rfl, rfl, rfl, rfl⟩
  obtain ⟨t, bf, hwrites, hland⟩ := opWrites_landed (hq.goOn hdrawn rfl rfl) (o := o) (hq.id.trans hw.id.symm) hno
    (hq.taken.hdr ▸ htxn) hin
  obtain ⟨hop, hmem, hregs, -⟩ := (hland.tally (tl.inMode o.mode.strict)).done rfl
  have hrun : runPathScatter w o b = opDone (opTally t s.opNext (tl.inMode o.mode.strict)) s.opNext .ok := by
    subst hxs
    simp only [runPathScatter, liveSample_of_only hw.ops, hrecord, Bool.false_eq_true, if_false,
      withRows_near hw hw.id hw.asked messageItems_near hserved, hfolds.pathRows, hrows, applyWrites, hwrites, hw.id]
  rw [hrun]
  exact ⟨hop, hmem, hregs⟩

/-! ### The list form -/

/-- What an op of rows counts, of which some were out of range. -/
def rangeCounted (out : List (Nat × Nat)) (o : Op) : Op :=
  { o with c0 := min 0xFFFFFFFF out.length, c1 := 0, aux := ({ range := out } : RowMarks).first }

omit hw in
/-- Rows of which none was refused or failed: a strict op fails for one out of range, and no other does. -/
theorem Landed.rowsEnd_range {t : State} {q : Op} {ws : List (Nat × List Byte)} (h : Landed s t r d q ws) (strict : Bool)
    (out : List (Nat × Nat)) :
    OpIs s (Machine.rowsEnd t s.opNext strict { range := out }) r d
        (.done (if strict = true ∧ out ≠ [] then .outOfRange else .ok)) ∧
      (Machine.rowsEnd t s.opNext strict { range := out }).mem = writesOn s.mem ws ∧
      (Machine.rowsEnd t s.opNext strict { range := out }).regs = s.regs := by
  have hcount := h.update (f := rangeCounted out) { h.taken with } h.active
  by_cases hstrict : strict = true ∧ out ≠ []
  · have hend : Machine.rowsEnd t s.opNext strict { range := out } =
        setHealth (Machine.opDone (opUpdate t s.opNext (rangeCounted out)) s.opNext .outOfRange) 2 := by
      simp [Machine.rowsEnd, hstrict, opStrictFail]
      rfl
    rw [if_pos hstrict, hend]
    exact hcount.opDone .outOfRange
  · have hend : Machine.rowsEnd t s.opNext strict { range := out } =
        Machine.opDone (opUpdate t s.opNext (rangeCounted out)) s.opNext .ok := by
      have hpass : (strict && !out.isEmpty) = false := by simpa using hstrict
      simp [Machine.rowsEnd, hpass]
      rfl
    rw [if_neg hstrict, hend]
    exact hcount.opDone .ok

include htxn in
/-- A list-form SCATTER whose rows are all this device's stores its folded rows. -/
theorem runScatter_local (hlist : scatterPath b = false) (hbank : o.bank = some (bankNow s))
    (hremote : ownersRemote s (bankNow s) = false) (hserved : RowsServed w s.opNext (windowed 0 (messageItems w o b b.count)))
    {it : ListItems} (hit : listItems w o b = .ok it) (hown : ∀ x ∈ it.items, x.1 = ownChip s)
    {res : List (Nat × List Byte) × Tally}
    (hfold : foldRows w o b ((mtOrder w (it.items.map fun x => x.2.1).eraseDups).map fun k =>
      (addrOff b.dst + k * scatterRow b, (it.items.filter fun x => x.2.1 == k).map fun x => (x.2.2.1, x.2.2.2))) = .ok res)
    (hview : ∀ y ∈ res.1, meetsView s y.1 y.2.length = false) (hin : AllInPlace s res.1) :
    (runScatter w o b).mem = writesOn s.mem res.1 ∧ (runScatter w o b).regs = s.regs ∧
      OpIs s (runScatter w o b) r d (.done (if scatterStrict b = true ∧ it.dropped ≠ [] then .outOfRange else .ok)) := by
  have hno : o.hdr.txn = 0 := hw.taken.hdr ▸ htxn
  have hwork : o.work = .none := hw.taken.work
  generalize hxs : windowed 0 (messageItems w o b b.count) = xs at hserved
  have hfolds := foldsAlike_rowsRead w s.opNext xs
  obtain ⟨q, hq⟩ := rowsRead_inFlight hw xs
  have hseen := hq.goneOn.toSeenAlike
  obtain ⟨t, bf, hwrites, hland⟩ := opWrites_landed hq (o := o) (hq.id.trans hw.id.symm) hno (hq.taken.hdr ▸ htxn) hin
  have hmirror : (it.items.any fun x => x.1 != ownChip s && meetsMirror (addrOff b.dst + x.2.1 * scatterRow b) (scatterRow b)) =
      false :=
    List.any_eq_false.mpr fun x hx => by simp [hown x hx]
  have hviews : (res.1.any fun y => meetsView (rowsRead w s.opNext xs) y.1 y.2.length) = false :=
    List.any_eq_false.mpr fun y hy => by simp [hseen.meetsView, hview y hy]
  have hrun : runScatter w o b =
      rowsEnd (opTally t s.opNext (res.2.inMode o.mode.strict)) s.opNext (scatterStrict b) { range := it.dropped } := by
    subst hxs
    simp only [runScatter, hlist, hwork, withRows_near hw hw.id hw.asked messageItems_near hserved, hfolds.listItems, hit,
      hseen.ownChip, hmirror, hbank, Option.getD_some, hseen.ownersRemote, hremote, runLocalList, hfolds.mtOrder,
      hfolds.foldRows, hfold, storeRows, hviews, applyWrites, hwrites, hw.id, Bool.false_eq_true, if_false, id]
  rw [hrun]
  obtain ⟨hop, hmem, hregs⟩ := (hland.tally (res.2.inMode o.mode.strict)).rowsEnd_range (scatterStrict b) it.dropped
  exact ⟨hmem, hregs, hop⟩

/-- A list-form SCATTER that comes to a row in a register mirror of another chip ends. -/
theorem runScatter_mirror (hlist : scatterPath b = false)
    (hserved : RowsServed w s.opNext (windowed 0 (messageItems w o b b.count))) {it : ListItems} (hit : listItems w o b = .ok it)
    (hmirror : ∃ x ∈ it.items, x.1 ≠ ownChip s ∧ meetsMirror (addrOff b.dst + x.2.1 * scatterRow b) (scatterRow b) = true) :
    OpIs s (runScatter w o b) r d (.done .outOfRange) ∧ (runScatter w o b).mem = s.mem := by
  have hwork : o.work = .none := hw.taken.work
  have hany : (it.items.any fun x => x.1 != ownChip s && meetsMirror (addrOff b.dst + x.2.1 * scatterRow b) (scatterRow b)) =
      true := by
    obtain ⟨x, hx, hne, hmeets⟩ := hmirror
    exact List.any_eq_true.mpr ⟨x, hx, by simp [hne, hmeets]⟩
  generalize hxs : windowed 0 (messageItems w o b b.count) = xs at hserved
  have hfolds := foldsAlike_rowsRead w s.opNext xs
  obtain ⟨q, hq⟩ := rowsRead_inFlight hw xs
  have hrun : runScatter w o b = opDone (rowsRead w s.opNext xs) s.opNext .outOfRange := by
    subst hxs
    simp only [runScatter, hlist, hwork, withRows_near hw hw.id hw.asked messageItems_near hserved, hfolds.listItems, hit,
      hq.goneOn.toSeenAlike.ownChip, hany, hw.id, Bool.false_eq_true, if_false, if_true]
  rw [hrun, opDone_only hq.ops hq.id hq.phase]
  exact ⟨hq.taken.opIs rfl hq.next, hq.goneOn.mem⟩

end

theorem exec_scatter (r : Fin 256) (h : Hdr) (b : ScatterBody) (s : State) :
    exec (.scatter r h b) s = .next (opCommand s r.val { hdr := h, body := .scatter b }) := rfl

theorem opWork_scatter {o : Op} {b : ScatterBody} (h : o.body = .scatter b) (s : State) : opWork s o = runScatter s o b := by
  simp only [opWork, h]

end Sys2Proof.Machine
end

section
/-! PROOFS. What a packet of this device that is routed to another chip leaves as it was (spec/12 R301 to R309). -/

namespace Sys2Proof.Machine

/-- The chips and classes of the device's flows. -/
def flowKeys (s : State) : List (Nat × Nat) := s.fab.flows.map fun f => (f.chip, f.cls)

/-- The counters of packets dropped. -/
def isDropCount (off : Nat) : Prop := ∃ g, off = galBase g + 0x64

/-- From one state to the other packets were routed, which opened flows for these chips and classes: beyond the fabric and the
tokens, only counters of dropped packets differ. -/
structure Routed (s t : State) (ks : List (Nat × Nat)) : Prop where
  ops : t.ops = s.ops
  next : t.opNext = s.opNext
  mem : t.mem = s.mem
  dome : t.dome = s.dome
  regsWf : tabWf regReset 0 s.regs = true → tabWf regReset 0 t.regs = true
  regs : tabWf regReset 0 s.regs = true → ∀ off, ¬isDropCount off → regGet t off = regGet s off
  flows : flowKeys t = flowKeys s ++ ks

theorem Routed.refl (s : State) : Routed s s [] := ⟨rfl, rfl, rfl, rfl, id, fun _ _ _ => rfl, (List.append_nil _).symm⟩

theorem Routed.trans {s t u : State} {ks ls : List (Nat × Nat)} (hst : Routed s t ks) (htu : Routed t u ls) :
    Routed s u (ks ++ ls) :=
  ⟨htu.ops.trans hst.ops, htu.next.trans hst.next, htu.mem.trans hst.mem, htu.dome.trans hst.dome, htu.regsWf ∘ hst.regsWf,
    fun hwf off ho => (htu.regs (hst.regsWf hwf) off ho).trans (hst.regs hwf off ho), by
      rw [htu.flows, hst.flows, List.append_assoc]⟩

theorem Routed.after {s t u : State} {ks : List (Nat × Nat)} (hst : Routed s t ks) (htu : Routed t u []) : Routed s u ks :=
  List.append_nil ks ▸ hst.trans htu

/-- A change of the fabric or the tokens that opens no flow. -/
theorem routed_of_frame {s t : State} (hops : t.ops = s.ops) (hnext : t.opNext = s.opNext) (hmem : t.mem = s.mem)
    (hdome : t.dome = s.dome) (hregs : t.regs = s.regs) (hflows : flowKeys t = flowKeys s) : Routed s t [] :=
  ⟨hops, hnext, hmem, hdome, fun h => hregs ▸ h, fun _ off _ => by rw [regGet, hregs, regGet],
    hflows.trans (List.append_nil _).symm⟩

theorem holdPkt_routed (s : State) (w : HeldPkt) : Routed s (holdPkt s w) [] := routed_of_frame rfl rfl rfl rfl rfl rfl

theorem countDrop_routed (s : State) (l : Option Nat) : Routed s (countDrop s l) [] where
  ops := rfl
  next := rfl
  mem := rfl
  dome := rfl
  regsWf := tabPut_wf (Nat.zero_le _)
  regs hwf off ho := by
    have hne : off ≠ galBase (galleryOf (l.getD 0)) + 0x64 := fun h => ho ⟨_, h⟩
    rw [countDrop, regCount, regGet, regPut, tabGet_tabPut _ _ _ hwf, if_neg hne, regGet]
  flows := (List.append_nil _).symm

theorem dropHeld_routed {s : State} {w : HeldPkt} (hkind : w.pkt.hdr.kind ≠ 0x14) : Routed s (dropHeld s w) [] := by
  have hno : (w.ingress.isNone && w.pkt.hdr.kind == 0x14) = false := by simp [hkind]
  simp only [dropHeld, hno, Bool.false_eq_true, if_false]
  exact countDrop_routed s _

theorem waitAt_routed {s : State} {w : HeldPkt} (hkind : w.pkt.hdr.kind ≠ 0x14) (port : Option Nat) :
    Routed s (waitAt s w port) [] := by
  unfold waitAt
  split
  · exact dropHeld_routed hkind
  · exact holdPkt_routed s _

theorem flowUpdate_routed (s : State) (chip cls : Nat) {f : Flow → Flow} (hf : ∀ x, ((f x).chip, (f x).cls) = (x.chip, x.cls)) :
    Routed s (flowUpdate s chip cls f) [] := by
  refine routed_of_frame rfl rfl rfl rfl rfl ?_
  rw [flowKeys, flowUpdate, List.map_map, flowKeys]
  refine List.map_congr_left fun x _ => ?_
  rw [Function.comp_apply]
  split
  · exact hf x
  · rfl

theorem leaveSource_routed (s : State) (l : Nat) (p : Packet) : Routed s (leaveSource s l p) [] := by
  unfold leaveSource
  dsimp only
  split
  · exact Routed.refl s
  · exact (flowUpdate_routed s _ _ (by exact fun _ => rfl)).after (flowUpdate_routed _ _ _ (by exact fun _ => rfl))

theorem txPacket_routed (s : State) (l : Nat) (w : HeldPkt) (p : Packet) : Routed s (txPacket s l w p) [] :=
  routed_of_frame rfl rfl rfl rfl rfl rfl

theorem takeSlots_routed {s t : State} {port : Nat} {h : PktHdr} (ht : takeSlots s port h = some t) : Routed s t [] := by
  unfold takeSlots at ht
  dsimp only at ht
  split at ht
  · exact nomatch ht
  split at ht
  · unfold tryBurst at ht
    dsimp only at ht
    split at ht
    · exact nomatch ht
    · obtain rfl := Option.some.inj ht
      exact routed_of_frame rfl rfl rfl rfl rfl rfl
  · obtain rfl := Option.some.inj ht
    exact routed_of_frame rfl rfl rfl rfl rfl rfl

theorem viaPort_routed {s : State} {port : Nat} {w : HeldPkt} (hkind : w.pkt.hdr.kind ≠ 0x14) (p : Packet) :
    Routed s (viaPort s port w p) [] := by
  unfold viaPort
  dsimp only
  split
  · exact dropHeld_routed hkind
  split
  · exact holdPkt_routed s _
  split
  · exact holdPkt_routed s _
  next l _ _ t ht =>
    have htaken := takeSlots_routed ht
    split
    · exact (htaken.after (leaveSource_routed t l p)).after (txPacket_routed _ l w p)
    · exact htaken.after (txPacket_routed t l w p)

theorem routeHeld_routed {s : State} {w : HeldPkt} (hkind : w.pkt.hdr.kind ≠ 0x14) (hfree : w.fixed = false) :
    Routed s (routeHeld s w) [] := by
  unfold routeHeld
  split
  next hfixed _ => exact absurd (hfree.symm.trans hfixed) Bool.false_ne_true
  · split
    · exact viaPort_routed hkind _
    · exact waitAt_routed hkind none
    · exact dropHeld_routed hkind

theorem strayDst_of_lt {h : PktHdr} (hdst : h.dst < 0x8000) : strayDst h = false := by
  have hcast : h.dst ≠ 0xFFFE := by omega
  simp only [strayDst, Bool.or_eq_false_iff, Bool.and_eq_false_imp, decide_eq_true_eq, decide_eq_false_iff_not]
  exact ⟨fun h => absurd h (by omega), fun h => absurd (beq_iff_eq.mp h) hcast⟩

/-- A packet to a chip, not this device and not reserved, goes out by a router. -/
theorem launch_routed {s : State} {p : Packet} (hkind : p.hdr.kind ≠ 0x14) (hself : isSelf s p.hdr.dst = false)
    (hdst : p.hdr.dst < 0x8000) :
    Routed s (launch s p) [] := by
  have hcast : p.hdr.dst ≠ 0xFFFE := by omega
  simp only [launch, hself, strayDst_of_lt hdst, hcast, routeOut, Bool.false_eq_true, if_false]
  exact routeHeld_routed hkind rfl

theorem flow_eq_none_iff {s : State} {chip cls : Nat} : flow s chip cls = none ↔ (chip, cls) ∉ flowKeys s := by
  simp only [flow, flowKeys, List.find?_eq_none, List.mem_map, Prod.mk.injEq, not_exists, not_and, Bool.and_eq_true, beq_iff_eq]

/-- A context is there, or one is free for it. -/
theorem openFlow_routed {s : State} {chip cls : Nat} (hroom : (chip, cls) ∉ flowKeys s → s.fab.flows.length < 12288) :
    ∃ t, openFlow s chip cls = some t ∧ Routed s t (if (chip, cls) ∈ flowKeys s then [] else [(chip, cls)]) := by
  unfold openFlow
  cases hflow : flow s chip cls with
  | some f =>
    have hin : (chip, cls) ∈ flowKeys s := not_not.mp fun h => nomatch hflow.symm.trans (flow_eq_none_iff.mpr h)
    rw [if_pos hin]
    exact ⟨s, rfl, Routed.refl s⟩
  | none =>
    have hout := flow_eq_none_iff.mp hflow
    have hres : residents s < 12288 := Nat.lt_of_le_of_lt (List.length_filter_le _ _) (hroom hout)
    rw [if_neg hout]
    dsimp only
    rw [if_pos hres]
    exact ⟨_, rfl, rfl, rfl, rfl, rfl, id, fun _ _ _ => rfl, by simp [flowKeys, fullOver]⟩

theorem sendNumbered_routed {s : State} {h : PktHdr} {pay : Payload} (hkind : h.kind ≠ 0x14) (hself : isSelf s h.dst = false)
    (hdst : h.dst < 0x8000) (hroom : (h.dst, classOf h.kind) ∉ flowKeys s → s.fab.flows.length < 12288)
    (hown : ¬isDropCount 0x800000) (hwf : tabWf regReset 0 s.regs = true) :
    Routed s (sendNumbered s h pay) (if (h.dst, classOf h.kind) ∈ flowKeys s then [] else [(h.dst, classOf h.kind)]) := by
  obtain ⟨t, hopen, ht⟩ := openFlow_routed hroom
  have hself' : isSelf t h.dst = false := by
    have hchip : ownChip t = ownChip s := by rw [ownChip, regBits, ht.regs hwf _ hown, ← regBits, ← ownChip]
    rw [isSelf, hchip, ← isSelf, hself]
  unfold sendNumbered
  simp only [hopen]
  split
  next f hflow =>
    split
    · exact ht.after (holdPkt_routed t _)
    · refine ht.after (Routed.after ?_ (launch_routed hkind ?_ hdst))
      · exact flowUpdate_routed t _ _ fun _ => rfl
      · exact hself'
  · exact ht

/-- A packet of a numbered class to another chip. -/
theorem sendPkt_routed {s : State} {chip kind : Nat} (hclass : classOf kind ≠ 3) (hkind : kind ≠ 0x14)
    (hself : isSelf s chip = false) (hdst : chip < 0x8000)
    (hroom : (chip, classOf kind) ∉ flowKeys s → s.fab.flows.length < 12288) (hown : ¬isDropCount 0x800000)
    (hwf : tabWf regReset 0 s.regs = true) (off tag : Nat) (pay : Payload) :
    Routed s (sendPkt s chip kind off tag pay) (if (chip, classOf kind) ∈ flowKeys s then [] else [(chip, classOf kind)]) := by
  have hstray := fun len => strayDst_of_lt (h := mkHdr s chip kind off tag len 0) hdst
  simp only [sendPkt, hclass, hself, hstray, decide_false, Bool.or_self, Bool.false_eq_true, if_false]
  exact sendNumbered_routed hkind hself hdst hroom hown hwf

end Sys2Proof.Machine
end

section
/-! PROOFS. A list-form SCATTER whose bank names another chip (spec/06 R156, spec/12 R301): it goes on as a collective of the
job. -/

namespace Sys2Proof.Machine

/-! ### The fabric as an op's work begins -/

section
variable {s : State} {r : Nat} {d : Desc} (hr : AtRest s r) (ha : Accepts s r d) (hp : NoPins s r d) (hb : Moves d.body)
include hr ha hp hb

theorem atWork_fab : (atWork s r d).fab = s.fab := by
  obtain ⟨c, ss, ps, hframe⟩ := accepted_eq hr ha hp hb
  obtain ⟨cs, hreach⟩ := requestRanges_frame (begun s r d) (opTouches (begun s r d) (begunOp s r d))
  have hdome : DomeOk (reached s r d).1.dome := (requestRanges_kept (Kept.refl _ false)).dome (begun_domeOk hr)
  obtain ⟨bs, hrouse, -⟩ := rouse_frame hdome (begunOp s r d)
  obtain ⟨ch, hpay⟩ := payAll_frame (rouse (reached s r d).1 (begunOp s r d)) (opTraffic (reached s r d).1 (begunOp s r d))
  calc (atWork s r d).fab
    _ = (reached s r d).1.fab := by rw [atWork, charged, hpay, hrouse]; rfl
    _ = (accepted s r d).fab := by rw [reached, hreach]; rfl
    _ = s.fab := by rw [hframe]; rfl

end

/-! ### An op at its exchange -/

theorem dropCount_cases {off : Nat} (h : isDropCount off) : off = 0x800064 ∨ off = 0xA00064 := by
  obtain ⟨g, rfl⟩ := h
  unfold galBase
  split
  · exact .inl rfl
  · exact .inr rfl

/-- The class of batches. -/
def batchClass : Nat := classOf 5

/-- What the op in flight keeps of the command while it works. -/
structure AtWork (s : State) (r : Nat) (d : Desc) (q : Op) : Prop where
  id : q.id = s.opNext
  ring : q.ring = r
  hdr : q.hdr = d.hdr
  body : q.body = d.body
  accepted : q.accepted = true
  completed : q.completed = false
  active : q.phase = .active

/-- The op in flight has sent batches of its exchange to devices of the job, which opened at most one flow to each, and nothing
else is changed that it depends on. -/
structure AtExchange (s : State) (r : Nat) (d : Desc) (t : State) (q : Op) : Prop where
  ops : t.ops = [q]
  atWork : AtWork s r d q
  next : t.opNext = s.opNext + 1
  mem : t.mem = s.mem
  regsWf : tabWf regReset 0 t.regs = true
  regs : ∀ off, ¬isDropCount off → regGet t off = regGet s off
  opened : ∃ ks : List Nat, ks.Nodup ∧ ks ⊆ jobChips s ∧ flowKeys t = flowKeys s ++ ks.map fun k => (k, batchClass)

section
variable {s : State} {r : Nat} {d : Desc} {t : State} {q : Op} (h : AtExchange s r d t q)
include h

theorem AtExchange.ownChip : ownChip t = ownChip s := by
  rw [Machine.ownChip, regBits, h.regs _ fun hd => by have := dropCount_cases hd; omega, ← regBits, ← Machine.ownChip]

theorem AtExchange.remap (c : Nat) : remap t c = remap s c := by
  by_cases hc : c < 32768
  · have hreg := h.regs (0x820000 + 4 * c) fun hd => by have := dropCount_cases hd; omega
    unfold Machine.remap regBits
    rw [hreg]
  · simp only [Machine.remap, hc, false_and, if_false]

theorem AtExchange.jobChips : jobChips t = jobChips s := by simp only [Machine.jobChips, h.ownChip, h.remap]

theorem AtExchange.isSelf {c : Nat} (hc : c ∈ Machine.jobChips s) (hne : c ≠ Machine.ownChip s) : isSelf t c = false := by
  have hlt : c < 0x4000 := List.mem_range.mp (List.mem_filter.mp hc).1
  have hcast : c ≠ 0xFFFF := by omega
  simp [Machine.isSelf, h.ownChip, hne, hcast]

theorem AtExchange.opById : opById t s.opNext = some q := h.atWork.id ▸ opById_only h.ops

theorem AtExchange.opIs : OpIs s t r d .active :=
  ⟨q, h.ops, h.atWork.id, h.atWork.ring, h.atWork.hdr, h.atWork.body, h.atWork.accepted, h.atWork.completed, h.atWork.active,
    h.next⟩

theorem AtExchange.update {f : Op → Op} (hf : AtWork s r d (f q)) : AtExchange s r d (opUpdate t s.opNext f) (f q) :=
  { h with ops := h.atWork.id ▸ opUpdate_only h.ops f, atWork := hf }

theorem AtExchange.tally (x : Tally) : AtExchange s r d (opTally t s.opNext x) { q with tally := q.tally.join x } :=
  h.update (f := fun o => { o with tally := o.tally.join x }) { h.atWork with }

theorem AtExchange.addReq (tag : Nat) (a : Await) :
    AtExchange s r d (addReq t s.opNext tag a) { q with reqs := q.reqs ++ [{ tag := tag, await := a, start := mtime t }] } :=
  h.update (f := fun o => { o with reqs := o.reqs ++ [{ tag := tag, await := a, start := mtime t }] }) { h.atWork with }

theorem AtExchange.exchangeAdd (src : Nat) (p : ReduceBatch) : AtExchange s r d (exchangeAdd t src p) q := { h with }

/-- A chip of the job to which no flow is open finds a context free. -/
theorem AtExchange.room {c : Nat} (hc : c ∈ Machine.jobChips s) (hroom : s.fab.flows.length + (Machine.jobChips s).length ≤ 12288)
    (hno : (c, batchClass) ∉ flowKeys t) : t.fab.flows.length < 12288 := by
  obtain ⟨ks, hnodup, hsub, hkeys⟩ := h.opened
  have hnot : c ∉ ks := fun hin => hno (hkeys ▸ List.mem_append_right _ (List.mem_map.mpr ⟨c, hin, rfl⟩))
  have hlt : ks.length + 1 ≤ (Machine.jobChips s).length :=
    ((List.nodup_cons.mpr ⟨hnot, hnodup⟩).subperm (List.cons_subset.mpr ⟨hc, hsub⟩)).length_le
  have hlen : t.fab.flows.length = s.fab.flows.length + ks.length := by
    simpa [flowKeys] using congrArg List.length hkeys
  omega

theorem AtExchange.routed {u : State} {c : Nat} (hc : c ∈ Machine.jobChips s)
    (hu : Routed t u (if (c, batchClass) ∈ flowKeys t then [] else [(c, batchClass)])) : AtExchange s r d u q where
  ops := hu.ops.trans h.ops
  atWork := h.atWork
  next := hu.next.trans h.next
  mem := hu.mem.trans h.mem
  regsWf := hu.regsWf h.regsWf
  regs off ho := (hu.regs h.regsWf off ho).trans (h.regs off ho)
  opened := by
    obtain ⟨ks, hnodup, hsub, hkeys⟩ := h.opened
    by_cases hin : (c, batchClass) ∈ flowKeys t
    · exact ⟨ks, hnodup, hsub, by rw [hu.flows, if_pos hin, List.append_nil, hkeys]⟩
    · have hnot : c ∉ ks := fun hk => hin (hkeys ▸ List.mem_append_right _ (List.mem_map.mpr ⟨c, hk, rfl⟩))
      refine ⟨ks ++ [c], (List.perm_append_singleton c ks).nodup_iff.mpr (List.nodup_cons.mpr ⟨hnot, hnodup⟩), ?_, ?_⟩
      · exact List.append_subset.mpr ⟨hsub, List.cons_subset.mpr ⟨hc, List.nil_subset _⟩⟩
      · rw [hu.flows, if_neg hin, hkeys, List.append_assoc, List.map_append]
        rfl

end

/-! ### Batches sent -/

theorem ackAwaited_append {o q : Op} {x : Req} (hq : q.reqs = o.reqs ++ [x]) :
    ackAwaited q = (ackAwaited o || ackAwaited { q with reqs := [x] }) := by
  simp only [ackAwaited, hq, List.any_append]

section
variable {s : State} {r : Nat} {d : Desc} {c : Nat} (hc : c ∈ Machine.jobChips s) (hne : c ≠ Machine.ownChip s)
  (hroom : s.fab.flows.length + (Machine.jobChips s).length ≤ 12288)
include hc hne hroom

/-- A batch to another device of the job: the op awaits its acknowledgement. -/
theorem AtExchange.sendAwaited {t : State} {q : Op} (h : AtExchange s r d t q) (off : Nat) (pay : Payload) :
    ∃ p, AtExchange s r d (sendAwaited t s.opNext c 5 off pay) p ∧ ackAwaited p = true ∧
      (sendAwaited t s.opNext c 5 off pay).dome.exchanges = t.dome.exchanges := by
  have htag : AtExchange s r d (takeTag t).2 q := { h with }
  have hasked := htag.addReq (takeTag t).1 (.ack c batchClass (nextFseq (takeTag t).2 c batchClass))
  have hlt : c < 0x4000 := List.mem_range.mp (List.mem_filter.mp hc).1
  have hsent := sendPkt_routed (kind := 5) (by decide) (by decide) (hasked.isSelf hc hne) (by omega) (hasked.room hc hroom)
    (fun hd => by have := dropCount_cases hd; omega) hasked.regsWf off (takeTag t).1 pay
  have hrun : Machine.sendAwaited t s.opNext c 5 off pay =
      sendPkt (Machine.addReq (takeTag t).2 s.opNext (takeTag t).1
        (.ack c batchClass (nextFseq (takeTag t).2 c batchClass))) c 5 off (takeTag t).1 pay := by
    unfold Machine.sendAwaited
    dsimp only
    rw [htag.isSelf hc hne, if_neg Bool.false_ne_true]
    rfl
  rw [hrun]
  refine ⟨_, hasked.routed hc hsent, ?_, by rw [hsent.dome]; rfl⟩
  rw [ackAwaited_append rfl, Bool.or_eq_true]
  exact .inr rfl

end

/-! ### The two passes -/

/-- A property kept by every step of a walk, and brought about at one of its elements. -/
theorem foldl_reaches {α β : Type} {f : β → α → β} {I P : β → Prop} {a : α} : ∀ {l : List α}, (∀ t, ∀ x ∈ l, I t → I (f t x)) →
    (∀ t, ∀ x ∈ l, I t → P t → P (f t x)) → (∀ t, I t → P (f t a)) → a ∈ l → ∀ {t : β}, I t → P (l.foldl f t)
  | x :: l, hI, hP, ha, hin, t, ht => by
    have hstep : I (f t x) := hI t x List.mem_cons_self ht
    have hrest : ∀ t, ∀ y ∈ l, I t → I (f t y) := fun t y hy => hI t y (List.mem_cons_of_mem _ hy)
    by_cases hl : a ∈ l
    · exact foldl_reaches hrest (fun t y hy => hP t y (List.mem_cons_of_mem _ hy)) ha hl hstep
    · obtain rfl : a = x := (List.mem_cons.mp hin).resolve_right hl
      exact (List.foldlRecOn l f (motive := fun t => I t ∧ P t) ⟨hstep, ha t ht⟩ fun t ⟨hI', hP'⟩ y hy =>
        ⟨hrest t y hy hI', hP t y (List.mem_cons_of_mem _ hy) hI' hP'⟩).2

/-- This device's own contribution to the exchange is held. -/
def OwnHeld (s : State) (b : ScatterBody) (t : State) : Prop :=
  ∃ p ∈ (exchangeOf t b.exch).batches, p.1 = ownChip s ∧ p.2.combine = scatterComb b ∧ p.2.marker = false

theorem exchangeOf_exchangeAdd (t : State) (src : Nat) (p : ReduceBatch) :
    (exchangeOf (exchangeAdd t src p) p.exch).batches = (exchangeOf t p.exch).batches ++ [(src, p)] := by
  have hkey : (exchangeOf t p.exch).exch = p.exch := by
    unfold exchangeOf
    cases hfind : t.dome.exchanges.find? fun e => e.exch == p.exch with
    | none => rfl
    | some e => simpa using List.find?_some hfind
  have hother : (t.dome.exchanges.filter fun x => x.exch != p.exch).find? (fun e => e.exch == p.exch) = none :=
    List.find?_eq_none.mpr fun e he => by simpa using (List.mem_filter.mp he).2
  rw [exchangeOf, exchangeAdd]
  simp [List.find?_append, hother, hkey]

theorem ownHeld_of_exchanges {s t u : State} {b : ScatterBody} (hu : u.dome.exchanges = t.dome.exchanges) (h : OwnHeld s b t) :
    OwnHeld s b u := by
  rw [OwnHeld, exchangeOf, hu]
  exact h

theorem OwnHeld.exchangeAdd {s t : State} {b : ScatterBody} (h : OwnHeld s b t) (src : Nat) (m : Bool)
    (rows : List (Nat × List Byte)) :
    OwnHeld s b (exchangeAdd t src (reduceBatch b m rows)) := by
  obtain ⟨p, hp, hown⟩ := h
  exact ⟨p, (exchangeOf_exchangeAdd t src (reduceBatch b m rows)) ▸ List.mem_append_left _ hp, hown⟩

theorem ownHeld_exchangeAdd {s t : State} (b : ScatterBody) (rows : List (Nat × List Byte)) :
    OwnHeld s b (exchangeAdd t (ownChip s) (reduceBatch b false rows)) :=
  ⟨(ownChip s, reduceBatch b false rows),
    exchangeOf_exchangeAdd t (ownChip s) (reduceBatch b false rows) ▸ List.mem_append_right _ List.mem_cons_self, rfl, rfl, rfl⟩

/-- Batches of rows sent to a device. -/
def sendChunks (t : State) (id c : Nat) (b : ScatterBody) (ls : List (List (Nat × List Byte))) : State :=
  ls.foldl (fun t l => sendAwaited t id c 5 ((l.head?.map (·.1)).getD 0) (.reduce (reduceBatch b false l))) t

/-- The contribution of this device for one device of the job: kept here if it is this one, else sent. -/
def sendPart (o : Op) (b : ScatterBody) (it : ListItems) (t : State) (c : Nat) : State :=
  let u := opTally t o.id ((contributions t o b it c).2.inMode o.mode.strict)
  if c = ownChip u then exchangeAdd u c (reduceBatch b false (contributions t o b it c).1)
  else sendChunks u o.id c b (chunksOf (if b.roundRows = 0 then 1024 else b.roundRows) (contributions t o b it c).1)

/-- What a collective SCATTER notes once it has sent all. -/
def exchangeBegun (it : ListItems) (o : Op) : Op :=
  { o with work := .exchange false, c0 := min 0xFFFFFFFF it.dropped.length, aux := ({ range := it.dropped } : RowMarks).first }

theorem sendExchange_eq (s : State) (o : Op) (b : ScatterBody) (it : ListItems) : sendExchange s o b it =
    opUpdate (addReq ((jobChips s).foldl (sendPart o b it) s) o.id 0 .event) o.id (exchangeBegun it) := rfl

/-- The marker of one device of the job: held here if it is this one, else sent. -/
def markPart (o : Op) (b : ScatterBody) (t : State) (c : Nat) : State :=
  if c = ownChip t then exchangeAdd t c (reduceBatch b true [])
  else sendAwaited t o.id c 5 (addrOff b.dst) (.reduce (reduceBatch b true []))

theorem markExchange_eq (s : State) (o : Op) (b : ScatterBody) : markExchange s o b =
    opUpdate ((jobChips s).foldl (markPart o b) s) o.id fun o => { o with work := .exchange true } := rfl

section
variable {s : State} {r : Nat} {d : Desc} {o : Op} (hid : o.id = s.opNext)
  (hroom : s.fab.flows.length + (jobChips s).length ≤ 12288)
include hroom

theorem sendChunks_atExchange {c : Nat} (hc : c ∈ jobChips s) (hne : c ≠ ownChip s) (b : ScatterBody) {t : State}
    (ht : ∃ q, AtExchange s r d t q) (ls : List (List (Nat × List Byte))) :
    (∃ q, AtExchange s r d (sendChunks t s.opNext c b ls) q) ∧ (sendChunks t s.opNext c b ls).dome.exchanges = t.dome.exchanges :=
  List.foldlRecOn ls _ (motive := fun u => (∃ q, AtExchange s r d u q) ∧ u.dome.exchanges = t.dome.exchanges) ⟨ht, rfl⟩
    fun u ⟨⟨q, hq⟩, hu⟩ l _ => by
      obtain ⟨p, hp, -, hsame⟩ := hq.sendAwaited hc hne hroom ((l.head?.map (·.1)).getD 0) (.reduce (reduceBatch b false l))
      exact ⟨⟨p, hp⟩, hsame.trans hu⟩

include hid

theorem sendPart_atExchange (b : ScatterBody) (it : ListItems) {t : State} {c : Nat} (hc : c ∈ jobChips s)
    (ht : ∃ q, AtExchange s r d t q) :
    (∃ q, AtExchange s r d (sendPart o b it t c) q) ∧ (OwnHeld s b t → OwnHeld s b (sendPart o b it t c)) ∧
      (c = ownChip s → OwnHeld s b (sendPart o b it t c)) := by
  obtain ⟨q, hq⟩ := ht
  have htally := hq.tally ((contributions t o b it c).2.inMode o.mode.strict)
  unfold sendPart
  dsimp only
  rw [hid, htally.ownChip]
  split
  next hown =>
    exact ⟨⟨_, htally.exchangeAdd _ _⟩, fun hheld => OwnHeld.exchangeAdd (ownHeld_of_exchanges rfl hheld) _ _ _, fun _ =>
      hown ▸ ownHeld_exchangeAdd b _⟩
  next hother =>
    obtain ⟨hat, hsame⟩ := sendChunks_atExchange hroom hc hother b ⟨_, htally⟩
      (chunksOf (if b.roundRows = 0 then 1024 else b.roundRows) (contributions t o b it c).1)
    exact ⟨hat, fun hheld => ownHeld_of_exchanges (hsame.trans rfl) hheld, fun hown => absurd hown hother⟩

theorem markPart_atExchange (b : ScatterBody) {t : State} {c : Nat} (hc : c ∈ jobChips s) {q : Op} (hq : AtExchange s r d t q)
    (hheld : OwnHeld s b t) : ∃ p, AtExchange s r d (markPart o b t c) p ∧ OwnHeld s b (markPart o b t c) ∧
      (ackAwaited q = true ∨ c ≠ ownChip s → ackAwaited p = true) := by
  unfold markPart
  rw [hid, hq.ownChip]
  split
  next hown =>
    exact ⟨q, hq.exchangeAdd _ _, hheld.exchangeAdd _ _ _, fun h => h.resolve_right fun hne => hne hown⟩
  next hother =>
    obtain ⟨p, hp, hack, hsame⟩ := hq.sendAwaited hc hother hroom (addrOff b.dst) (.reduce (reduceBatch b true []))
    exact ⟨p, hp, ownHeld_of_exchanges hsame hheld, fun _ => hack⟩

/-- All contributions are sent: the op is at its exchange, and this device holds its own. -/
theorem sendExchange_atExchange (b : ScatterBody) (it : ListItems) {v : State} {q : Op} (hv : AtExchange s r d v q)
    (hown : ownChip s ∈ jobChips s) :
    ∃ p, AtExchange s r d (sendExchange v o b it) p ∧ p.work = .exchange false ∧ OwnHeld s b (sendExchange v o b it) := by
  have hkept : ∀ t, ∀ c ∈ jobChips s, (∃ q, AtExchange s r d t q) → ∃ q, AtExchange s r d (sendPart o b it t c) q :=
    fun t c hc ht => (sendPart_atExchange hid hroom b it hc ht).1
  obtain ⟨p, hp⟩ := List.foldlRecOn (jobChips s) (sendPart o b it) (motive := fun t => ∃ q, AtExchange s r d t q) ⟨q, hv⟩
    fun t ht c hc => hkept t c hc ht
  have hheld : OwnHeld s b ((jobChips s).foldl (sendPart o b it) v) :=
    foldl_reaches hkept (fun t c hc ht => (sendPart_atExchange hid hroom b it hc ht).2.1)
      (fun t ht => (sendPart_atExchange hid hroom b it hown ht).2.2 rfl) hown ⟨q, hv⟩
  rw [sendExchange_eq, hv.jobChips, hid]
  generalize (jobChips s).foldl (sendPart o b it) v = u at hp hheld ⊢
  have hreq := hp.addReq 0 .event
  exact ⟨_, hreq.update (f := exchangeBegun it) { hreq.atWork with }, rfl, ownHeld_of_exchanges rfl hheld⟩

/-- The markers are sent, one of them at least to another device: its acknowledgement is awaited. -/
theorem markExchange_atExchange (b : ScatterBody) {v : State} {q : Op} (hv : AtExchange s r d v q)
    (hheld : OwnHeld s b v) {c : Nat}
    (hc : c ∈ jobChips s) (hne : c ≠ ownChip s) :
    ∃ p, AtExchange s r d (markExchange v o b) p ∧ p.work = .exchange true ∧ ackAwaited p = true ∧
      OwnHeld s b (markExchange v o b) := by
  have hstep : ∀ t, ∀ c ∈ jobChips s, (∃ q, AtExchange s r d t q ∧ OwnHeld s b t) →
      ∃ q, AtExchange s r d (markPart o b t c) q ∧ OwnHeld s b (markPart o b t c) := fun t c hc ⟨q, hq, hheld⟩ => by
    obtain ⟨p, hp, hkeep, -⟩ := markPart_atExchange hid hroom b hc hq hheld
    exact ⟨p, hp, hkeep⟩
  obtain ⟨p, hp, hack, hkeep⟩ : ∃ p, AtExchange s r d ((jobChips s).foldl (markPart o b) v) p ∧ ackAwaited p = true ∧
      OwnHeld s b ((jobChips s).foldl (markPart o b) v) := by
    refine foldl_reaches (I := fun t => ∃ q, AtExchange s r d t q ∧ OwnHeld s b t)
      (P := fun t => ∃ q, AtExchange s r d t q ∧ ackAwaited q = true ∧ OwnHeld s b t) hstep ?_ ?_ hc ⟨q, hv, hheld⟩
    · rintro t x hx - ⟨q, hq, hack, hheld⟩
      obtain ⟨p, hp, hkeep, hmore⟩ := markPart_atExchange hid hroom b hx hq hheld
      exact ⟨p, hp, hmore (.inl hack), hkeep⟩
    · rintro t ⟨q, hq, hheld⟩
      obtain ⟨p, hp, hkeep, hmore⟩ := markPart_atExchange hid hroom b hc hq hheld
      exact ⟨p, hp, hmore (.inr hne), hkeep⟩
  rw [markExchange_eq, hv.jobChips, hid]
  generalize (jobChips s).foldl (markPart o b) v = u at hp hkeep ⊢
  exact ⟨_, hp.update (f := fun o => { o with work := .exchange true }) { hp.atWork with }, rfl, hack,
    ownHeld_of_exchanges rfl hkeep⟩

end

theorem foldExchange_of_awaited {o : Op} (h : ackAwaited o = true) (s : State) (b : ScatterBody) : foldExchange s o b = s := by
  simp only [foldExchange, h, Bool.true_or, if_true]

/-! ### The collective SCATTER -/

theorem InFlight.atExchange {s t : State} {r : Nat} {d : Desc} {q : Op} {n : Nat} (h : InFlight s t r d q .active n)
    (hwf : tabWf regReset 0 s.regs = true) (hfab : t.fab = s.fab) : AtExchange s r d t q where
  ops := h.ops
  atWork := ⟨h.taken.id, h.taken.ring, h.taken.hdr, h.taken.body, h.taken.accepted, h.taken.completed, h.phase⟩
  next := h.next
  mem := h.goneOn.mem
  regsWf := h.goneOn.regs ▸ hwf
  regs off _ := by rw [regGet, h.goneOn.regs, ← regGet]
  opened := ⟨[], List.nodup_nil, List.nil_subset _, by rw [flowKeys, hfab, ← flowKeys, List.map_nil, List.append_nil]⟩

/-- A list-form SCATTER whose bank names another chip, with another device in the job: it is at its exchange. -/
theorem runScatter_collective {s w : State} {r : Nat} {d : Desc} {o : Op} {b : ScatterBody} (hw : InFlight s w r d o .active 1)
    (hwf : tabWf regReset 0 s.regs = true) (hfab : w.fab = s.fab) (hlist : scatterPath b = false)
    (hbank : o.bank = some (bankNow s))
    (hremote : ownersRemote s (bankNow s) = true) (hserved : RowsServed w s.opNext (windowed 0 (messageItems w o b b.count)))
    {it : ListItems} (hit : listItems w o b = .ok it)
    (hitems : ∀ x ∈ it.items, x.1 = ownChip s ∨ (destStatus s x.1 = none ∧
      meetsMirror (addrOff b.dst + x.2.1 * scatterRow b) (scatterRow b) = false))
    {c : Nat} (hc : c ∈ jobChips s) (hne : c ≠ ownChip s) (hown : ownChip s < 0x4000)
    (hroom : s.fab.flows.length + (jobChips s).length ≤ 12288) :
    ∃ q, AtExchange s r d (runScatter w o b) q ∧ (q.work = .exchange false ∨ q.work = .exchange true) ∧
      OwnHeld s b (runScatter w o b) := by
  have hwork : o.work = .none := hw.taken.work
  generalize hxs : windowed 0 (messageItems w o b b.count) = xs at hserved
  have hfolds := foldsAlike_rowsRead w s.opNext xs
  obtain ⟨q, hq⟩ := rowsRead_inFlight hw xs
  have hseen := hq.goneOn.toSeenAlike
  have hv : AtExchange s r d (rowsRead w s.opNext xs) q := hq.atExchange hwf (by
    obtain ⟨_, _, _, hframe⟩ := rowsRead_frame w s.opNext xs
    rw [hframe]
    exact hfab)
  have hmember : ownChip s ∈ jobChips s := List.mem_filter.mpr ⟨List.mem_range.mpr hown, by simp⟩
  have hmirror : (it.items.any fun x => x.1 != ownChip s && meetsMirror (addrOff b.dst + x.2.1 * scatterRow b) (scatterRow b)) =
      false :=
    List.any_eq_false.mpr fun x hx => by
      rcases hitems x hx with h | ⟨-, h⟩ <;> simp [h]
  have hdest : ((it.items.filter fun x => x.1 != ownChip s).findSome? fun x => destStatus (rowsRead w s.opNext xs) x.1) =
      none := by
    refine List.findSome?_eq_none_iff.mpr fun x hx => ?_
    obtain ⟨hin, hother⟩ := List.mem_filter.mp hx
    rw [destStatus, hv.remap, ← destStatus]
    exact ((hitems x hin).resolve_left (by simpa using hother)).1
  obtain ⟨p, hp, hbegun, hheld⟩ := sendExchange_atExchange hw.id hroom b it hv hmember
  have hfound := hp.opById
  have hrun : runScatter w o b = goExchange (sendExchange (rowsRead w s.opNext xs) o b it) p b := by
    subst hxs
    simp only [runScatter, hlist, hwork, withRows_near hw hw.id hw.asked messageItems_near hserved, hfolds.listItems, hit,
      hseen.ownChip, hmirror, hbank, Option.getD_some, hseen.ownersRemote, hremote, hdest, hw.id, hfound, Bool.false_eq_true,
      if_false, if_true]
  rw [hrun]
  generalize sendExchange (rowsRead w s.opNext xs) o b it = u at hp hheld ⊢
  simp only [goExchange, hbegun, if_true]
  cases hack : ackAwaited p with
  | true =>
    rw [if_pos rfl]
    exact ⟨p, hp, .inl hbegun, hheld⟩
  | false =>
    obtain ⟨p', hp', hmarked, hawait, hheld'⟩ := markExchange_atExchange hp.atWork.id hroom b hp hheld hc hne
    have hmarkedOp : opById (markExchange u p b) p.id = some p' := by
      rw [hp.atWork.id]
      exact hp'.opById
    simp only [hmarkedOp, foldExchange_of_awaited hawait, Bool.false_eq_true, if_false]
    exact ⟨p', hp', .inr hmarked, hheld'⟩

end Sys2Proof.Machine
end

section
/-! PROOFS. GATHER, SAMPLE and SCATTER (spec/01 R20, spec/06 R137, R144, R152, R155, R156): O45 holds. -/

namespace Sys2Proof.Machine

/-- Settles O45, clause by clause: the op is accepted and started at once, and its work is what the state in which it begins
makes of it. -/
theorem graphOps : Obligations.GraphOps := by
  unfold Obligations.GraphOps
  refine ⟨?gather, ?sample, ?path, ?list, ?mirror, ?collective⟩
  case gather =>
    rintro s r h b d rfl hrest hacc hstart hpins hdies htxn hlist hregion hin hrows hserved
    have hnone : txnOf s 0 = none := by
      obtain ⟨-, -, -, hnone, -⟩ := hin
      exact hnone
    have hg := listGather_of_accepts hacc hpins htxn hnone hlist hregion hrows
    simp only [← gatheredRow_eq]
    exact gather_stores rfl hrest hacc hstart hpins hdies htxn hin hg hserved
  case sample =>
    rintro s _ r h b d _ seeds hops rfl rfl rfl hrest hacc hstart hpins hdies htxn hstrict hhops hwalk hpaid hin
    obtain ⟨hw, hrun⟩ := opCommand_of_starts hrest hacc hpins (moves_sample b) hstart hdies
    obtain ⟨hcap, hdeep⟩ := room_of_accepts hacc
    obtain ⟨hplace, hbytes, hframe⟩ := sampleRecord_stored (mem_wf_of_sound hrest.1) hcap hdeep hin seeds hops
    obtain ⟨hop, hmem, hregs⟩ := runSample_stores hw htxn hstrict hhops hwalk hpaid hplace
    rw [exec_sample, hrun, opWork_sample hw.body]
    exact ⟨_, rfl, hop, hmem, hmem ▸ hbytes, fun a ha => hmem ▸ hframe a ha, hregs⟩
  case path =>
    rintro s _ r h b d _ _ ws tl rfl rfl rfl hrest hacc hstart hpins hdies htxn hpath rfl hserved hrows hin
    obtain ⟨hw, hrun⟩ := opCommand_of_starts hrest hacc hpins (moves_scatter b) hstart hdies
    have hrecord := (hw.taken.scatterRecord hw.goneOn.toSeenAlike (asOp_epoch hpins.1) b).trans
      (scatterRecord_of_accepts hrest hacc hpins hpath)
    rw [exec_scatter, hrun, opWork_scatter hw.body, runScatter, if_pos hpath]
    exact ⟨_, rfl, runPathScatter_stores hw htxn hrecord hserved hrows hin⟩
  case list =>
    rintro s _ r h b d _ it res rfl rfl rfl hrest hacc hstart hpins hdies htxn hlist hremote hserved hit hown hfold hview hin
    obtain ⟨hw, hrun⟩ := opCommand_of_starts hrest hacc hpins (moves_scatter b) hstart hdies
    have hbank := (atWorkOp_bank hrest hacc hpins (moves_scatter b)).trans (asOp_bank rfl)
    rw [exec_scatter, hrun, opWork_scatter hw.body]
    exact ⟨_, rfl, runScatter_local hw htxn hlist hbank hremote hserved hit hown hfold (fun y hy => (hview y hy).1) hin⟩
  case mirror =>
    rintro s _ r h b d _ it rfl rfl rfl hrest hacc hstart hpins hdies hlist hserved hit hmirror
    obtain ⟨hw, hrun⟩ := opCommand_of_starts hrest hacc hpins (moves_scatter b) hstart hdies
    rw [exec_scatter, hrun, opWork_scatter hw.body]
    exact ⟨_, rfl, runScatter_mirror hw hlist hserved hit hmirror⟩
  case collective =>
    rintro s _ r h b d _ it c rfl rfl rfl hrest hacc hstart hpins hdies hlist hremote hserved hit hitems hc hne hown hroom
    obtain ⟨hw, hrun⟩ := opCommand_of_starts hrest hacc hpins (moves_scatter b) hstart hdies
    have hbank := (atWorkOp_bank hrest hacc hpins (moves_scatter b)).trans (asOp_bank rfl)
    have hfab := atWork_fab hrest hacc hpins (moves_scatter b)
    obtain ⟨q, hq, hwork, hheld⟩ := runScatter_collective hw (regs_wf_of_sound hrest.1) hfab hlist hbank hremote hserved hit
      hitems hc hne hown hroom
    rw [exec_scatter, hrun, opWork_scatter hw.body]
    exact ⟨_, rfl, hq.opIs, hq.mem, ⟨q.work, by rw [hq.ops]; exact List.mem_singleton_self _, hwork⟩, hheld⟩

end Sys2Proof.Machine
end

section
/-! PROOFS. The sketches' claims (spec/07 R172): O16 holds. -/

namespace Sys2Proof.Machine

theorem exec_domEmbSketchWrite {s : State} (ho : HostOpen s) (n : Fin 4) (v : Word) :
    exec (.domEmbSketchWrite n v) s = .next (sketchWrite s n.val (0x10000D0 + 4 * n.val) v) := by
  fin_cases n <;> simp [exec, execDomEmbSketchWrite, hostWrite_of_open ho, writeReg, domWrite]

/-- A claimed sketch takes no second claim. -/
theorem sketchWrite_of_claimed {s : State} {n off : Nat} {v : Word} (hheld : regBits s off 31 31 = 1) (hen : bits v 31 31 = 1) :
    sketchWrite s n off v = configIgnored s off v (held := true) := by
  simp only [sketchWrite, hheld, hen, beq_self_eq_true, Bool.and_self, if_true]

/-- A free sketch takes its register's fields and is empty. -/
theorem sketchWrite_of_free {s : State} {n off : Nat} {v : Word} (hfree : regBits s off 31 31 = 0) (hen : bits v 31 31 = 1) :
    sketchWrite s n off v =
      { regAccept s off v with dome := { (regAccept s off v).dome with
          sketches := tabPut (fun _ => {}) (regAccept s off v).dome.sketches n {} } } := by
  simp only [sketchWrite, hfree, hen, (by decide : (0 == 1) = false), Bool.false_and, Bool.false_eq_true, if_false, if_true]

theorem regDef_sketch (n : Fin 4) :
    (regDef (0x10000D0 + 4 * n.val)).map (fun d => (d.rw, d.w1c)) = some (0x800000FF, 0) := by
  revert n
  decide

theorem sketches_wf_of_sound {s : State} (hs : Sound s = true) : tabWf (fun _ => ({} : Sketch)) 0 s.dome.sketches = true := by
  obtain ⟨-, -, hsketches, -⟩ := domeOk_of_sound hs
  exact hsketches

/-- Settles O16: a claim of a free sketch accepts the register's fields and empties that sketch alone; one of a claimed sketch
is ignored. -/
theorem sketchClaim : Obligations.SketchClaim := by
  unfold Obligations.SketchClaim
  constructor
  · intro s n v hs ho hfree hen
    obtain ⟨⟨hframe, -⟩, hfields, -⟩ := regAccept_fieldsWritten hs (regDef_sketch n) v
    have hread : ∀ m, tabGet (fun _ => ({} : Sketch)) (tabPut (fun _ => {}) s.dome.sketches n.val {}) m =
        if m = n.val then {} else sketchAt s m := fun m => tabGet_tabPut n.val {} m (sketches_wf_of_sound hs)
    refine ⟨_, exec_domEmbSketchWrite ho n v, ?_⟩
    rw [sketchWrite_of_free hfree hen]
    generalize regAccept s (0x10000D0 + 4 * n.val) v = t at hframe hfields ⊢
    rw [hframe]
    exact ⟨(hread n.val).trans (if_pos rfl), hfields, rfl, fun m hm => (hread m).trans (if_neg hm)⟩
  · intro s n v ho hheld hen
    rw [exec_domEmbSketchWrite ho, sketchWrite_of_claimed hheld hen]

end Sys2Proof.Machine
end


section
/-! PROOFS. Packets that leave, and a packet that then finds no room (spec/09 R245, spec/12 R301, R303): O46 is refuted, on the
publication of a slice to two chips. -/

namespace Sys2Proof.Machine

/-! ### States that route alike -/

/-- The states route a packet alike: the same strap and registers, and each link as up or down as before. -/
structure RoutesAlike (s t : State) : Prop where
  fin : t.fin = s.fin
  regs : t.regs = s.regs
  links : ∀ l, (link t l).st = (link s l).st

theorem RoutesAlike.trans {s t u : State} (hst : RoutesAlike s t) (htu : RoutesAlike t u) : RoutesAlike s u :=
  ⟨htu.fin.trans hst.fin, htu.regs.trans hst.regs, fun l => (htu.links l).trans (hst.links l)⟩

section
variable {s t : State} (h : RoutesAlike s t)
include h

theorem RoutesAlike.regBits (off hi lo : Nat) : regBits t off hi lo = regBits s off hi lo := by
  rw [Machine.regBits, regGet, h.regs, ← regGet, ← Machine.regBits]

theorem RoutesAlike.spireMode : spireMode t = spireMode s := by rw [Machine.spireMode, h.fin, ← Machine.spireMode]

theorem RoutesAlike.ownChip : ownChip t = ownChip s := h.regBits _ _ _

theorem RoutesAlike.isSelf (c : Nat) : isSelf t c = isSelf s c := by rw [Machine.isSelf, h.ownChip, ← Machine.isSelf]

theorem RoutesAlike.portLinks (p : Nat) : portLinks t p = portLinks s p := by
  simp only [Machine.portLinks, portOf, h.spireMode]

theorem RoutesAlike.portUp (p : Nat) : portUp t p = portUp s p := by
  simp only [Machine.portUp, h.portLinks, h.links, h.spireMode]

theorem RoutesAlike.remap (c : Nat) : remap t c = remap s c := by simp only [Machine.remap, h.regBits]

theorem RoutesAlike.ownKeep : ownKeep t = ownKeep s := h.regBits _ _ _

theorem RoutesAlike.ownSlot : ownSlot t = ownSlot s := h.regBits _ _ _

theorem RoutesAlike.treeHop (x : PktHdr) : treeHop t x = treeHop s x := by simp only [Machine.treeHop, h.portUp]

theorem RoutesAlike.spireHop (x : PktHdr) : spireHop t x = spireHop s x := by
  simp only [Machine.spireHop, h.remap, h.ownKeep, h.regBits, h.portUp]

theorem RoutesAlike.torusHop (x : PktHdr) (ingress : Option Nat) (slot : Nat) :
    torusHop t x ingress slot = torusHop s x ingress slot := by
  simp only [Machine.torusHop, torusFlags, h.portUp, h.treeHop, h.ownSlot]

theorem RoutesAlike.nextHop (x : PktHdr) (ingress : Option Nat) : nextHop t x ingress = nextHop s x ingress := by
  simp only [Machine.nextHop, h.spireMode, h.ownChip, h.spireHop, h.remap, h.ownKeep, h.ownSlot, h.treeHop, h.torusHop]

end

/-- Of its header, a packet's way takes the two chips and RFLAGS. -/
theorem nextHop_congr {x y : PktHdr} (hdst : x.dst = y.dst) (hsrc : x.src = y.src) (hflags : x.rflags = y.rflags) (s : State)
    (ingress : Option Nat) : nextHop s x ingress = nextHop s y ingress := by
  simp only [nextHop, spireHop, torusHop, torusFlags, treeHop, hdst, hsrc, hflags]

theorem RoutesAlike.nextHop_mkHdr {s t : State} (h : RoutesAlike s t) (c kind off tag len : Nat) :
    Machine.nextHop t (mkHdr t c kind off tag len 0) none = Machine.nextHop s (mkHdr s c kind 0 0 0 0) none := by
  rw [h.nextHop]
  refine nextHop_congr ?dst ?src ?flags s none
  case dst => simp only [mkHdr]
  case src => simp only [mkHdr, h.ownChip]
  case flags => simp only [mkHdr]

/-! ### A packet that leaves -/

theorem pumpLink_st (x : Link) : (pumpLink x).st = x.st := by
  unfold pumpLink
  refine List.foldlRecOn _ _ (motive := fun y : Link => y.st = x.st) rfl ?_
  rintro y hy f -
  split <;> exact hy

theorem txPacket_routesAlike {s : State} (hf : FabOk s.fab) (l : Nat) (w : HeldPkt) (p : Packet) :
    RoutesAlike s (txPacket s l w p) := by
  refine ⟨rfl, rfl, fun k => ?_⟩
  unfold txPacket linkUpdate linkPut
  dsimp only [link]
  rw [tabGet_tabPut l _ k hf]
  split
  next hk => rw [pumpLink_st, hk]
  next => rfl

/-- Slots taken leave the routes and the flows as they were. -/
theorem takeSlots_keeps {s t : State} {port : Nat} {h : PktHdr} (ht : takeSlots s port h = some t) :
    RoutesAlike s t ∧ t.fab.links = s.fab.links ∧ t.fab.flows = s.fab.flows := by
  unfold takeSlots tryBurst at ht
  dsimp only at ht
  split at ht
  · exact nomatch ht
  split at ht
  · split at ht
    · exact nomatch ht
    · obtain rfl := Option.some.inj ht
      exact ⟨⟨rfl, rfl, fun _ => rfl⟩, rfl, rfl⟩
  · obtain rfl := Option.some.inj ht
    exact ⟨⟨rfl, rfl, fun _ => rfl⟩, rfl, rfl⟩

theorem leaveSource_keeps (s : State) (l : Nat) (p : Packet) :
    RoutesAlike s (leaveSource s l p) ∧ (leaveSource s l p).fab.links = s.fab.links := by
  unfold leaveSource
  dsimp only
  split <;> exact ⟨⟨rfl, rfl, fun _ => rfl⟩, rfl⟩

/-- What a flow holds once a WRITE of it has left by a link: whatever it keeps under the packet's number, that link's Gallery
keeps. -/
def leftBy (l : Nat) (p : Packet) (f : Flow) : Flow :=
  if f.chip == p.hdr.dst && f.cls == 2 then
    { f with ackOwed := f.ackOwed && !tellsAll f p, unacked := f.unacked.map fun u =>
      if u.pkt.hdr.fseq == p.hdr.fseq then { u with gallery := galleryOf l } else u }
  else f

theorem leaveSource_flows {p : Packet} (hkind : p.hdr.kind = 3) (s : State) (l : Nat) :
    (leaveSource s l p).fab.flows = s.fab.flows.map (leftBy l p) := by
  have hcls : classOf 3 = 2 := rfl
  simp only [leaveSource, hkind, hcls, flowUpdate, List.map_map, (by decide : ¬2 = 3), (by decide : ¬3 = 8), if_false]
  refine List.map_congr_left fun f _ => ?_
  simp only [Function.comp_apply, leftBy]
  by_cases hf : (f.chip == p.hdr.dst && f.cls == 2) = true
  · simp only [hf, if_true]
  · simp only [if_neg hf]

/-- A packet of this device's job has a way out, a link, and slots and tokens to leave by it. -/
structure CanLeave (s : State) (h : PktHdr) (port rf l : Nat) : Prop where
  hop : nextHop s h none = .out port rf
  life : expired s h = false
  pick : portPick s port (vlOf { h with rflags := rf }) = some l
  side : sideOf s h = .job
  share : sideMay s port .job = true
  tokens : chimeBalance s (32 + 3 * port + classOf h.kind) 0 ≠ 0

theorem CanLeave.takeSlots {s : State} {h : PktHdr} {port rf l : Nat} (hl : CanLeave s h port rf l) :
    ∃ t, takeSlots s port { h with rflags := rf } = some t := by
  have hside : sideOf s { h with rflags := rf } = .job := hl.side
  simp only [Machine.takeSlots, hside, hl.share, tryBurst, Bool.not_true, Bool.false_eq_true, if_false, if_true]
  exact ⟨_, if_neg hl.tokens⟩

/-- A WRITE that can leave does: routes stay, and of the flows only its own learns of it. -/
theorem launch_leaves {s : State} {p : Packet} {port rf l : Nat} (hf : FabOk s.fab) (hkind : p.hdr.kind = 3)
    (hself : isSelf s p.hdr.dst = false) (hdst : p.hdr.dst < 0x8000) (hl : CanLeave s p.hdr port rf l) :
    RoutesAlike s (launch s p) ∧ (launch s p).fab.flows = s.fab.flows.map (leftBy l (p.flagged rf)) := by
  have hcast : p.hdr.dst ≠ 0xFFFE := by omega
  have hlife : expired s (p.flagged rf).hdr = false := hl.life
  have hpick : portPick s port (vlOf (p.flagged rf).hdr) = some l := hl.pick
  obtain ⟨t, ht⟩ := hl.takeSlots
  have hslots : takeSlots s port (p.flagged rf).hdr = some t := ht
  have hrun : launch s p = txPacket (leaveSource t l (p.flagged rf)) l { pkt := p } (p.flagged rf) := by
    simp only [launch, hself, strayDst_of_lt hdst, hcast, routeOut, routeHeld, hl.hop, viaPort, hlife, hpick, hslots,
      Option.map_none, Option.isNone_none, Bool.false_eq_true, if_false, if_true]
  obtain ⟨htaken, hlinks, hflows⟩ := takeSlots_keeps ht
  obtain ⟨hleft, hlinks'⟩ := leaveSource_keeps t l (p.flagged rf)
  rw [hrun]
  refine ⟨(htaken.trans hleft).trans (txPacket_routesAlike ?_ l _ _), ?_⟩
  · rw [FabOk, hlinks', hlinks]
    exact hf
  · exact (leaveSource_flows (p := p.flagged rf) hkind t l).trans (by rw [hflows])

/-- The flows have no part in it, nor has the packet's number. -/
theorem CanLeave.numbered {s : State} {h : PktHdr} {port rf l : Nat} (hl : CanLeave s h port rf l) (c : Nat) (f : Flow → Flow)
    (n : Nat) : CanLeave (flowUpdate s c 2 f) { h with fseq := n } port rf l where
  hop := (RoutesAlike.nextHop (s := s) ⟨rfl, rfl, fun _ => rfl⟩ _ _).trans hl.hop
  life := hl.life
  pick := hl.pick
  side := hl.side
  share := hl.share
  tokens := hl.tokens

/-- Nor have its offset, its tag and its length. -/
theorem CanLeave.mkHdr_any {s : State} {c kind port rf l : Nat} (hl : CanLeave s (mkHdr s c kind 0 0 0 0) port rf l)
    (off tag len : Nat) : CanLeave s (mkHdr s c kind off tag len 0) port rf l where
  hop := (RoutesAlike.nextHop_mkHdr (s := s) ⟨rfl, rfl, fun _ => rfl⟩ c kind off tag len).trans hl.hop
  life := hl.life
  pick := hl.pick
  side := hl.side
  share := hl.share
  tokens := hl.tokens

/-- A flow's packet takes its next number, and a Gallery keeps it. -/
def numberNext (p : Packet) (gallery : Nat) (f : Flow) : Flow :=
  { f with next := (f.next + 1) % 2 ^ 32, unacked := f.unacked ++ [{ pkt := p, gallery := gallery }] }

/-- A WRITE for which there is room, and that can leave, does so under its flow's next number. -/
theorem sendPkt_leaves {s : State} {c off tag port rf l : Nat} {f : Flow} {pay : Payload} {h : PktHdr} (hf : FabOk s.fab)
    (hself : isSelf s c = false) (hc : c < 0x8000) (hflow : flow s c 2 = some f) (hres : f.spill = none)
    (hh : mkHdr s c 3 off tag (payBytes s.draws pay).length 0 = h) (hroom : noRoom s f h = false) (hl : CanLeave s h port rf l) :
    RoutesAlike s (sendPkt s c 3 off tag pay) ∧ ∃ p g, p.hdr.dst = c ∧ p.hdr.fseq = f.next ∧
      (sendPkt s c 3 off tag pay).fab.flows = (flowUpdate s c 2 (numberNext p g)).fab.flows.map (leftBy l (p.flagged rf)) := by
  have hcls : classOf 3 = 2 := rfl
  have hkind : h.kind = 3 := by rw [← hh]; rfl
  have hdst : h.dst = c := by rw [← hh]; rfl
  have hopen : openFlow s c 2 = some s := by simp only [openFlow, hflow]
  have hcond : (decide (2 = 3) || isSelf s c || strayDst h) = false := by simp [hself, strayDst_of_lt (hdst ▸ hc)]
  generalize hp : ({ hdr := { h with fseq := f.next }, pay := pay } : Packet) = p
  generalize hg : sourceGallery s h = g
  have hrun : sendPkt s c 3 off tag pay = launch (flowUpdate s c 2 (numberNext p g)) p := by
    simp only [sendPkt, hh, hcls, hcond, sendNumbered, hkind, hdst, hopen, hflow, hres, hroom, hg, Option.isSome_none,
      Bool.or_self, Bool.false_eq_true, if_false, ← hp]
    rfl
  have hnumbered : RoutesAlike s (flowUpdate s c 2 (numberNext p g)) := ⟨rfl, rfl, fun _ => rfl⟩
  have hpdst : p.hdr.dst = c := by rw [← hp]; exact hdst
  have hway : CanLeave (flowUpdate s c 2 (numberNext p g)) p.hdr port rf l := by
    rw [← hp]
    exact hl.numbered c _ f.next
  obtain ⟨hroutes, hflows⟩ := launch_leaves (s := flowUpdate s c 2 (numberNext p g)) hf (by rw [← hp]; exact hkind)
    (by rw [hpdst, hnumbered.isSelf]; exact hself) (hpdst ▸ hc) hway
  rw [hrun]
  exact ⟨hnumbered.trans hroutes, p, g, hpdst, by rw [← hp], hflows⟩

/-! ### The Gallery that sends -/

theorem portPick_mem {s : State} {port vl l : Nat} (h : portPick s port vl = some l) : l ∈ portLinks s port := by
  unfold portPick at h
  dsimp only at h
  split at h
  · exact nomatch h
  next k rest hlinks =>
    have hmem : ∀ x ∈ k :: rest, x ∈ portLinks s port := fun x hx => (List.mem_filter.mp (hlinks ▸ hx)).1
    obtain rfl := Option.some.inj h
    refine List.foldlRecOn rest _ (motive := fun m => m ∈ portLinks s port) (hmem k List.mem_cons_self) ?_
    intro m hm x hx
    split
    · exact hmem x (List.mem_cons_of_mem _ hx)
    · exact hm

/-- A packet that goes by a port whose links all belong to one Gallery is sent by that Gallery. -/
theorem sourceGallery_of_hop {s : State} {h : PktHdr} {port rf g : Nat} (hhop : nextHop s h none = .out port rf)
    (hsome : portLinks s port ≠ []) (hlinks : ∀ l ∈ portLinks s port, galleryOf l = g) : sourceGallery s h = g := by
  simp only [sourceGallery, hhop]
  cases hpick : portPick s port (vlOf { h with rflags := rf }) with
  | some l => exact hlinks l (portPick_mem hpick)
  | none =>
    obtain ⟨k, rest, hk⟩ := List.exists_cons_of_ne_nil hsome
    rw [hk]
    exact hlinks k (hk ▸ List.mem_cons_self)

/-! ### PARAM_PUBLISH of one slice -/

/-- The op awaits the acknowledgement of the WRITE that it sends to a chip next. -/
def awaiting (s : State) (id c : Nat) : State :=
  addReq (takeTag s).2 id (takeTag s).1 (.ack c 2 (nextFseq (takeTag s).2 c 2))

theorem awaiting_routesAlike (s : State) (id c : Nat) : RoutesAlike s (awaiting s id c) := ⟨rfl, rfl, fun _ => rfl⟩

theorem awaiting_flows (s : State) (id c : Nat) : (awaiting s id c).fab.flows = s.fab.flows := rfl

theorem sendAwaited_write {s : State} {c : Nat} (hself : isSelf s c = false) (id off : Nat) (pay : Payload) :
    sendAwaited s id c 3 off pay = sendPkt (awaiting s id c) c 3 off (takeTag s).1 pay := by
  have hself' : isSelf (takeTag s).2 c = false := hself
  unfold sendAwaited
  dsimp only
  rw [hself', if_neg Bool.false_ne_true]
  rfl

/-- A slice of one piece goes to a chip as one packet. -/
theorem sendSlice_onePiece {s : State} {c i step : Nat} {bs : List Byte} (hself : isSelf s c = false)
    (hone : pieces bs.length = [(0, bs.length)]) (id : Nat) :
    sendSlice s id c i step bs = sendPkt (awaiting s id c) c 3 (slotAddr s i 0) (takeTag s).1
      (.publish i step bs.length 0 ((bs.drop 0).take bs.length)) := by
  simp only [sendSlice, hone, List.foldl_cons, List.foldl_nil, sendAwaited_write hself, Nat.add_zero]

/-- A PARAM_PUBLISH of one slice whose shadow is there, and read: of the fabric, what its packets leave. -/
theorem runPublish_oneSlice {w v : State} {o : Op} {b : PublishBody} {bs : List Byte} {chips : List Nat}
    (hgate : gateOf w b.step ≠ some false) (hwork : o.work = .none) (hone : b.sliceCount = 1)
    (hchips : (mapChips w o b.recv).filter (fun c => c != ownChip w) = chips)
    (hbs : shadowBytes w o.hdr.txn b.sliceFirst b.step = some bs) (hdest : chips.findSome? (destStatus w) = none)
    (hv : v = payShadow w o.id b.sliceFirst b.step 0) (howes : opOwes v o.id = false) :
    (runPublish w o b).fab = (chips.foldl (fun s c => sendSlice s o.id c b.sliceFirst b.step bs) v).fab := by
  have hsteps : publishSteps b o.hdr.txn chips (b.sliceCount + 1) w o.id 0 =
      (chips.foldl (fun s c => sendSlice s o.id c b.sliceFirst b.step bs) v, 1) := by
    subst hv
    simp [publishSteps, hone, hbs, hdest, howes]
  simp only [runPublish, hgate, hwork, hchips, hsteps, if_false]
  split
  · split <;> rfl
  · rfl

theorem moves_paramPublish (b : PublishBody) : Moves (.paramPublish b) where
  moves := rfl
  closes o h := by simp [closesEpoch, h]
  accept s o h := by simp [opAccept, h]
  begins s o h := by simp [opBegin, h]
  reads s t o _ h := by simp [opReads, h, readsPublish]
  records s t o q _ hq _ _ h := by simp [opRecords, hq.body, h]

theorem exec_paramPublish (r : Fin 256) (h : Hdr) (b : PublishBody) (s : State) :
    exec (.paramPublish r h b) s = .next (opCommand s r.val { hdr := h, body := .paramPublish b }) := rfl

theorem opWork_paramPublish {o : Op} {b : PublishBody} (h : o.body = .paramPublish b) (s : State) :
    opWork s o = runPublish s o b := by
  simp only [opWork, h]

/-- A payload whose bytes the spec does not lay out has at most 4,096 (spec/12 R299). -/
theorem length_freePayload (k : Nat) : (freePayload k).length ≤ 4096 := by
  rw [freePayload, List.length_map, List.length_range]
  omega

/-! ### The refutation of O46 -/

/-- A flow that keeps, in Gallery 0, two WRITEs under the number that its next packet takes. -/
def reusedFlow : Flow := { chip := 6, cls := 2, unacked := List.replicate 2 { pkt := writeTo 6 0 4096 } }

/-- The flow to chip 7, with nothing to acknowledge, and flows whose packets leave Gallery 1's store room for two packets. -/
def fullFlows : List Flow :=
  [{ chip := 7, cls := 2 }, writesTo 10 1 1016 4096, writesTo 11 1 1016 4096, writesTo 12 1 1016 4096, writesTo 13 1 1014 4096,
    writesTo 14 1 1 992]

/-- Chip 5 of job 1 with one tree port, of Gallery 1, by which it reaches chips 6 and 7. Its one slice has 2,048 bytes and the
shadow of step 1; a map at 30000H names chips 6 and 7. -/
def numberReused : State :=
  { fin := { stage := 4, ready := true, kref := true, memoryDone := true, belfryImage := true, railEn := 63, railPg := 63,
             perstLow := false, lc := 1, serial := 77 },
    time := { keep := 5000, runs := true },
    regs := [(0x101008, 0x80304000), (0x800000, 0x50001), (0x820018, 0x80000100), (0x82001C, 0x80000100), (0xE00100, 64),
      (0xE00104, 0x00400040), (0xE00108, 0x00800040), (0xE0010C, 0x00C00002), (0xE00110, 0x01000040), (0xE00114, 0x04000400),
      (0x1000100, 0x40100000), (0x1000104, 1)],
    mem := (Memory.putBytes {} (lanBase + 0x40100000) (leBytes 8 0x10000 ++ leBytes 8 0x20000 ++ leBytes 16 0 ++ leBytes 4 2048 ++
      [2, 0x24, 0, 0] ++ leBytes 4 0 ++ leBytes 4 1 ++ leBytes 8 (2 ^ 64 - 1) ++ leBytes 8 0)).putBytes 0x30000 [0xC0],
    fab := {
      links := [(84, { st := .up, passed := true, partnerChip := 9 }), (85, { st := .up, passed := true, partnerChip := 9 })],
      flows := reusedFlow :: fullFlows } }

/-- The publication of that slice to that map. -/
def publishSlice : PublishBody := { recv := 0xFFFF000000030000, step := 1, sliceFirst := 0, sliceCount := 1, limit := 0 }
def publishHdr : Hdr := { txn := 0, depTag := 0, flags := 0, stream := 3 }
def publishDesc : Desc := { hdr := publishHdr, body := .paramPublish publishSlice }

theorem publish_atRest : AtRest numberReused 0 := by decide +kernel

theorem publish_accepted : Accepts numberReused 0 publishDesc :=
  ⟨by decide +kernel, by decide +kernel, by decide +kernel, by decide +kernel, by decide +kernel, fun h => absurd h (by decide)⟩

theorem publish_starts : Starts numberReused 0 publishDesc := by decide +kernel

theorem publish_noPins : NoPins numberReused 0 publishDesc := by decide +kernel

theorem publish_receivers : receivers numberReused 0 publishDesc publishSlice = [6, 7] := by decide +kernel

theorem publish_gate : gateOf (atWork numberReused 0 publishDesc) 1 ≠ some false := by decide +kernel

theorem publish_onePiece :
    1 = ((List.range publishSlice.sliceCount).map fun i => (pieces (sliceBytes numberReused (0 + i))).length).sum := by
  decide +kernel

theorem publish_shadow_here : (shadowBytes numberReused 0 0 1).map List.length = some 2048 := by decide +kernel

theorem publish_room : (∀ c ∈ [6, 7], destStatus numberReused c = none ∧ RoomTo numberReused c 2 1) ∧
    ∀ g, g < 2 → storeUsed numberReused g + 4128 * (2 * 1) ≤ 2 ^ 24 := by decide +kernel

theorem publish_runs : DiesRun numberReused := by decide +kernel

theorem publish_dest : [6, 7].findSome? (destStatus (atWork numberReused 0 publishDesc)) = none := by decide +kernel

/-- The state in which the slice's shadow has been read. -/
def shadowRead : State := payShadow (atWork numberReused 0 publishDesc) 0 0 1 0

theorem publish_shadow : (shadowBytes (atWork numberReused 0 publishDesc) 0 0 1).map List.length = some 2048 ∧
    opOwes shadowRead 0 = false := by decide +kernel

theorem shadowRead_routesAlike : RoutesAlike numberReused shadowRead := ⟨rfl, rfl, fun _ => rfl⟩

theorem shadowRead_flows : shadowRead.fab.flows = reusedFlow :: fullFlows := rfl

/-- Chips 6 and 7 are reached by the one tree port, whose links belong to Gallery 1. -/
theorem sourceGallery_of_routesAlike {t : State} (h : RoutesAlike numberReused t) {c : Nat} (hc : c ∈ [6, 7])
    (off tag len : Nat) : sourceGallery t (mkHdr t c 3 off tag len 0) = 1 := by
  have hway : ∀ c ∈ [6, 7], nextHop numberReused (mkHdr numberReused c 3 0 0 0 0) none = .out 6 2 := by decide +kernel
  have hports : portLinks numberReused 6 = [84, 85, 86, 87] := by decide +kernel
  have hlinks : portLinks t 6 = [84, 85, 86, 87] := (h.portLinks 6).trans hports
  refine sourceGallery_of_hop ((h.nextHop_mkHdr c 3 off tag len).trans (hway c hc)) ?_ ?_ <;> rw [hlinks]
  · exact List.cons_ne_nil _ _
  · decide

theorem isSelf_of_routesAlike {t : State} (h : RoutesAlike numberReused t) {c : Nat} (hc : c ∈ [6, 7]) : isSelf t c = false := by
  have hown : ∀ c ∈ [6, 7], isSelf numberReused c = false := by decide +kernel
  exact (h.isSelf c).trans (hown c hc)

/-- The state in which the packet to chip 6 is sent. -/
def firstAwaited : State := awaiting shadowRead 0 6

theorem firstAwaited_routesAlike : RoutesAlike numberReused firstAwaited :=
  shadowRead_routesAlike.trans (awaiting_routesAlike shadowRead 0 6)

theorem firstAwaited_flows : firstAwaited.fab.flows = reusedFlow :: fullFlows :=
  (awaiting_flows shadowRead 0 6).trans shadowRead_flows

theorem firstAwaited_fabOk : FabOk firstAwaited.fab := by decide +kernel

theorem firstAwaited_canLeave : CanLeave firstAwaited (mkHdr firstAwaited 6 3 0 0 0 0) 6 2 84 :=
  ⟨by decide +kernel, by decide +kernel, by decide +kernel, by decide +kernel, by decide +kernel, by decide +kernel⟩

/-- Bytes of a flow's packets that a Gallery keeps. -/
def flowKept (g : Nat) (f : Flow) : Nat := ((f.unacked.filter fun u => u.gallery == g).map fun u => 32 + u.pkt.hdr.len).sum

theorem storeUsed_of_flows {s : State} {f : Flow} {fs : List Flow} (h : s.fab.flows = f :: fs) (g : Nat) :
    storeUsed s g = flowKept g f + (fs.map (flowKept g)).sum := by
  rw [storeUsed, h]
  rfl

theorem reusedFlow_kept : flowKept 1 reusedFlow = 0 := by decide +kernel

theorem fullFlows_kept : (fullFlows.map (flowKept 1)).sum = 16768960 := by decide +kernel

theorem firstAwaited_room {len : Nat} (hlen : len ≤ 4096) (off tag : Nat) :
    noRoom firstAwaited reusedFlow (mkHdr firstAwaited 6 3 off tag len 0) = false := by
  have hgallery := sourceGallery_of_routesAlike firstAwaited_routesAlike (c := 6) (by decide) off tag len
  have hused := storeUsed_of_flows firstAwaited_flows 1
  have hshort : reusedFlow.unacked.length = 2 := rfl
  rw [reusedFlow_kept, fullFlows_kept] at hused
  rw [noRoom, hgallery, hused, hshort]
  simp only [mkHdr, Bool.or_eq_false_iff, decide_eq_false_iff_not]
  exact ⟨by decide, decide_eq_false (by omega)⟩

/-- As a packet leaves under the number that two others keep, its link's Gallery takes over all three. -/
theorem flowKept_leftBy {f : Flow} {p q : Packet} (hchip : f.chip = p.hdr.dst) (hcls : f.cls = 2)
    (hkept : f.unacked = List.replicate 2 { pkt := q }) (hfseq : q.hdr.fseq = p.hdr.fseq) (l rf g : Nat) :
    flowKept (galleryOf l) (leftBy l (p.flagged rf) (numberNext p g f)) = 2 * (32 + q.hdr.len) + (32 + p.hdr.len) := by
  have hown : ((numberNext p g f).chip == (p.flagged rf).hdr.dst && (numberNext p g f).cls == 2) = true := by
    simp [numberNext, Packet.flagged, hchip, hcls]
  have hleft : (leftBy l (p.flagged rf) (numberNext p g f)).unacked =
      [{ pkt := q, gallery := galleryOf l }, { pkt := q, gallery := galleryOf l }, { pkt := p, gallery := galleryOf l }] := by
    rw [leftBy, if_pos hown]
    simp [numberNext, Packet.flagged, hkept, hfseq]
  simp only [flowKept, hleft, beq_self_eq_true, List.filter_cons, List.filter_nil, List.map_cons, List.map_nil, List.sum_cons,
    List.sum_nil, if_true]
  omega

theorem leftBy_chip (l : Nat) (p : Packet) (f : Flow) : (leftBy l p f).chip = f.chip := by
  unfold leftBy
  split <;> rfl

/-- The packet's own flow is the only one to chip 6. -/
theorem fullFlows_left {p : Packet} (hdst : p.hdr.dst = 6) (g : Flow → Flow) (l : Nat) :
    (fullFlows.map fun f => if f.chip == 6 && f.cls == 2 then g f else f).map (leftBy l p) = fullFlows := by
  simp [fullFlows, leftBy, writesTo, hdst]

/-- The packet to chip 6 leaves, and its link's Gallery takes over what its flow keeps under the same number: that Gallery's
store is full. -/
theorem firstSent_full {off tag : Nat} {pay : Payload} {t : State}
    (hpay : payBytes firstAwaited.draws pay = freePayload firstAwaited.draws) (ht : sendPkt firstAwaited 6 3 off tag pay = t) :
    RoutesAlike numberReused t ∧ flow t 7 2 = some { chip := 7, cls := 2 } ∧ 2 ^ 24 ≤ storeUsed t 1 := by
  have hlen : (payBytes firstAwaited.draws pay).length ≤ 4096 := hpay ▸ length_freePayload _
  have hself : isSelf firstAwaited 6 = false := isSelf_of_routesAlike firstAwaited_routesAlike (by decide)
  have hflow : flow firstAwaited 6 2 = some reusedFlow := by
    rw [flow, firstAwaited_flows]
    rfl
  obtain ⟨hroutes, p, g, hdst, hfseq, hsent⟩ := sendPkt_leaves firstAwaited_fabOk hself (by decide) hflow rfl rfl
    (firstAwaited_room hlen off tag) (firstAwaited_canLeave.mkHdr_any off tag _)
  have hflows : t.fab.flows = leftBy 84 (p.flagged 2) (numberNext p g reusedFlow) :: fullFlows := by
    rw [← ht, hsent, flowUpdate]
    dsimp only
    rw [firstAwaited_flows, List.map_cons, List.map_cons, fullFlows_left (p := p.flagged 2) hdst]
    rfl
  have hkept : flowKept 1 (leftBy 84 (p.flagged 2) (numberNext p g reusedFlow)) = 2 * (32 + 4096) + (32 + p.hdr.len) :=
    flowKept_leftBy (f := reusedFlow) (q := writeTo 6 0 4096) hdst.symm rfl rfl hfseq.symm 84 2 g
  refine ⟨firstAwaited_routesAlike.trans (ht ▸ hroutes), ?_, ?_⟩
  · have hchip : (leftBy 84 (p.flagged 2) (numberNext p g reusedFlow)).chip = 6 := leftBy_chip _ _ _
    rw [flow, hflows, List.find?_cons, hchip]
    rfl
  · rw [storeUsed_of_flows hflows, hkept, fullFlows_kept]
    omega

/-- The packet to chip 7 finds no room, and its flow keeps none. -/
theorem secondSent_held {off off' tag tag' id : Nat} {pay pay' : Payload}
    (hpay : payBytes firstAwaited.draws pay = freePayload firstAwaited.draws) {t : State}
    (ht : sendPkt firstAwaited 6 3 off tag pay = t) :
    flow (sendPkt (awaiting t id 7) 7 3 off' tag' pay') 7 2 = some { chip := 7, cls := 2 } := by
  obtain ⟨hroutes, hflow, hfull⟩ := firstSent_full hpay ht
  have hroutes' : RoutesAlike numberReused (awaiting t id 7) := hroutes.trans (awaiting_routesAlike t id 7)
  have hroom : ∀ len, noRoom (awaiting t id 7) { chip := 7, cls := 2 } (mkHdr (awaiting t id 7) 7 3 off' tag' len 0) = true := by
    intro len
    have hused : storeUsed (awaiting t id 7) 1 = storeUsed t 1 := rfl
    rw [noRoom, sourceGallery_of_routesAlike hroutes' (by decide), hused]
    exact Bool.or_eq_true_iff.mpr (.inr (decide_eq_true (by omega)))
  obtain ⟨w, hw⟩ := sendPkt_of_noRoom (s := awaiting t id 7) (chip := 7) (kind := 3) (by decide)
    (isSelf_of_routesAlike hroutes' (by decide)) (by decide) hflow off' tag' pay' hroom
  rw [hw]
  exact hflow

theorem flow_after_publishSlice :
    ∃ t, exec (.paramPublish 0 publishHdr publishSlice) numberReused = .next t ∧ flow t 7 2 = some { chip := 7, cls := 2 } := by
  obtain ⟨hw, hrun⟩ := opCommand_of_starts publish_atRest publish_accepted publish_noPins (moves_paramPublish publishSlice)
    publish_starts publish_runs
  have hid : (atWorkOp numberReused 0 publishDesc).id = 0 := hw.id
  have htxn : (atWorkOp numberReused 0 publishDesc).hdr.txn = 0 := congrArg Hdr.txn hw.taken.hdr
  obtain ⟨hbytes, howes⟩ := publish_shadow
  obtain ⟨bs, hbs, hlen⟩ := Option.map_eq_some_iff.mp hbytes
  have hpieces : pieces bs.length = [(0, bs.length)] := by
    rw [hlen]
    rfl
  have hfab := runPublish_oneSlice (b := publishSlice) publish_gate hw.taken.work rfl publish_receivers (by rw [htxn]; exact hbs)
    publish_dest (by rw [hid]; rfl) (v := shadowRead) (by rw [hid]; exact howes)
  refine ⟨runPublish (atWork numberReused 0 publishDesc) (atWorkOp numberReused 0 publishDesc) publishSlice,
    (exec_paramPublish 0 publishHdr publishSlice numberReused).trans
      (congrArg _ (hrun.trans (opWork_paramPublish hw.body _))), ?_⟩
  rw [flow, hfab, hid, List.foldl_cons, List.foldl_cons, List.foldl_nil, ← flow]
  generalize ht : sendSlice shadowRead 0 6 publishSlice.sliceFirst publishSlice.step bs = t
  rw [sendSlice_onePiece (isSelf_of_routesAlike shadowRead_routesAlike (by decide)) hpieces] at ht
  obtain ⟨hroutes, -, -⟩ := firstSent_full rfl ht
  rw [sendSlice_onePiece (isSelf_of_routesAlike hroutes (by decide)) hpieces]
  exact secondSent_held rfl ht

/-- Refutes O46: the clause on PARAM_PUBLISH asks for room in both Galleries' stores before its first packet, and leaves free what
numbers the flows have. Where a flow keeps packets under the number that its next one takes, in the store of the other Gallery, the
Gallery by which that one leaves takes them over, its store is full, and the packet to the next receiver waits. -/
theorem not_trainingOps : ¬ Obligations.TrainingOps := by
  unfold Obligations.TrainingOps
  rintro ⟨-, -, publish, -⟩
  have hreceivers : receivers numberReused (0 : Fin 256).val publishDesc publishSlice = [6, 7] := publish_receivers
  obtain ⟨hroom, hstore⟩ := publish_room
  obtain ⟨-, howes⟩ := publish_shadow
  obtain ⟨bs, hbs, hlen⟩ := Option.map_eq_some_iff.mp publish_shadow_here
  have hhere : shadowBytes numberReused 0 0 1 ≠ none := by simp [hbs]
  have hpiece : (0, 2048) ∈ pieces bs.length := by rw [hlen]; decide
  obtain ⟨t, hrun, -, -, hsends⟩ := publish numberReused 0 publishHdr publishSlice publishDesc 1 rfl publish_atRest
    publish_accepted publish_starts publish_noPins publish_runs publish_gate
    (fun i hi => by obtain rfl := Nat.lt_one_iff.mp hi; exact howes)
    (fun i hi => by obtain rfl := Nat.lt_one_iff.mp hi; exact hhere)
    publish_onePiece (by rw [hreceivers]; exact hroom) (by rw [hreceivers]; exact hstore)
    (by rw [hreceivers]; decide)
  obtain ⟨t', hrun', hnone⟩ := flow_after_publishSlice
  obtain rfl : t = t' := Host.Outcome.next.inj (hrun.symm.trans hrun')
  obtain ⟨f, hf, u, hu, -⟩ := hsends 7 (by rw [hreceivers]; decide) 0 Nat.zero_lt_one bs hbs (0, 2048) hpiece
  obtain rfl : f = { chip := 7, cls := 2 } := Option.some.inj (hf.symm.trans hnone)
  exact nomatch hu

end Sys2Proof.Machine
end


section
/-! PROOFS. TXN_BEGIN, TXN_COMMIT and TXN_ABORT on a device at rest (spec/08 R207, R211, R212, R438): O41 holds. -/

namespace Sys2Proof.Machine

/-! ### Acceptance of what opens or closes a group -/

/-- The op opens a group or closes one. -/
def groupOp : OpBody → Bool
  | .txnBegin _ => true
  | .txnCommit => true
  | .txnAbort => true
  | _ => false

/-- An op that reads no view, with no epoch open and no producer that failed, enters as it is; the rest is its body's own. -/
theorem acceptOp_entered {s : State} {o : Op} (hops : s.ops = []) (hepochs : s.dome.epochs = [])
    (hviews : readsView s o = false) (hcloses : closesEpoch o = false)
    (hprod : hdrConsume o.hdr = true → producerOf s o.hdr.depTag = none ∨ ∃ p, producerOf s o.hdr.depTag = some (p, some .ok)) :
    acceptOp s o = epochsRelease (opAccept (entered s (takenOp s o)) (takenOp s o)) := by
  have hopen : openEpoch s o.ring = none := by simp [openEpoch, hepochs]
  have hdep : (if hdrConsume o.hdr then producerOf s o.hdr.depTag else none) = none ∨
      ∃ n, (if hdrConsume o.hdr then producerOf s o.hdr.depTag else none) = some (n, some .ok) := by
    split
    · exact hprod ‹_›
    · exact .inl rfl
  unfold acceptOp
  rcases hdep with hdep | ⟨n, hdep⟩ <;>
  · simp only [hviews, hcloses, hopen, hops, hdep, Bool.and_false, Bool.false_and, Bool.false_eq_true, if_false,
      List.filter_nil, List.map_nil, ite_self]
    rfl

/-- The op in flight that an accepted descriptor became. -/
def groupTaken (s : State) (r : Nat) (d : Desc) : Op := takenOp (popHeld (handed s r d) r 1) (asOp s r d)

/-- The device right after the op entered, before its group changes. -/
def groupEntered (s : State) (r : Nat) (d : Desc) (c : Chime) (ss : List StepTel) (ps : Tab (Option (Nat × Option Status))) :
    State :=
  withTaken (popHeld (handed s r d) r 1) (groupTaken s r d) c ss ps

/-- The state with other groups. -/
def withGroups (s : State) (ts : List Txn) (n : Nat) : State := { s with dome := { s.dome with txns := ts, txnOrder := n } }

/-- The op that the descriptor became runs alone, and memory and registers are as they were. -/
structure GroupRuns (s u : State) (r : Nat) (d : Desc) (q : Op) : Prop where
  ops : u.ops = [q]
  id : q.id = s.opNext
  ring : q.ring = r
  hdr : q.hdr = d.hdr
  body : q.body = d.body
  accepted : q.accepted = true
  completed : q.completed = false
  active : q.phase = .active
  next : u.opNext = s.opNext + 1
  mem : u.mem = s.mem
  regs : u.regs = s.regs

section
variable {s : State} {r : Nat} {d : Desc} (hr : AtRest s r) (ha : Accepts s r d) (he : s.dome.epochs = [])
  (hg : groupOp d.body = true)
include hr ha he hg

theorem accepted_groupOp : ∃ c ss ps,
    accepted s r d = epochsRelease (opAccept (groupEntered s r d c ss ps) (groupTaken s r d)) := by
  obtain ⟨-, -, ⟨hops, -⟩, -⟩ := hr
  obtain ⟨-, -, -, -, -, hprod⟩ := ha
  have hbody : (asOp s r d).body = d.body := rfl
  have hreads : readsView (popHeld (handed s r d) r 1) (asOp s r d) = false := by
    cases hb : d.body <;> simp_all [groupOp, readsView, opReads]
  have hcloses : closesEpoch (asOp s r d) = false := by
    cases hb : d.body <;> simp_all [groupOp, closesEpoch]
  have hentered := acceptOp_entered (s := popHeld (handed s r d) r 1) (o := asOp s r d) hops he hreads hcloses hprod
  obtain ⟨c, ss, ps, hframe⟩ := entered_frame (popHeld (handed s r d) r 1) (takenOp (popHeld (handed s r d) r 1) (asOp s r d))
  rw [hframe] at hentered
  exact ⟨c, ss, ps, hentered⟩

/-- An accepted op of a group begins at once, in the state that its acceptance made of the groups. -/
theorem opCommand_groupOp (hd : DiesRun s) {ts : List Txn} {n : Nat}
    (hgroups : ∀ c ss ps, opAccept (groupEntered s r d c ss ps) (groupTaken s r d) = withGroups (groupEntered s r d c ss ps) ts n) :
    ∃ u q, opCommand s r d = opBegin u q ∧ GroupRuns s u r d q ∧ u.dome.txns = ts ∧ u.dome.journals = s.dome.journals := by
  obtain ⟨c, ss, ps, haccept⟩ := accepted_groupOp hr ha he hg
  rw [hgroups, epochsRelease_of_none (s := withGroups (groupEntered s r d c ss ps) ts n) he] at haccept
  have hmoves : movesData d.body = false := by cases hb : d.body <;> simp_all [groupOp, movesData]
  have hops : (accepted s r d).ops = [groupTaken s r d] := by rw [haccept]; rfl
  have hid : (groupTaken s r d).id = s.opNext := rfl
  have hrun : DiesRun (accepted s r d) := by rw [haccept]; exact hd
  have hready : ((groupTaken s r d).phase != .waiting ||
      !(groupTaken s r d).deps.all (depMet (accepted s r d) (groupTaken s r d))) = false := by
    simp [groupTaken, takenOp, asOp, newOp]
  rw [opCommand_of_accepts hr ha (by rw [haccept]; rfl), startOne, ← hid, opById_only hops]
  generalize mtime (accepted s r d) = start
  have hupdate : opUpdate (accepted s r d) (groupTaken s r d).id (fun o => { o with
      phase := .active, start := start, hostBuf := if o.deps.isEmpty || o.ridesGemm then o.hostBuf else [] }) =
      { accepted s r d with ops := [{ groupTaken s r d with phase := .active, start := start }] } := by
    rw [opUpdate_only_eq hops]
    rfl
  have hfind : opById { accepted s r d with ops := [{ groupTaken s r d with phase := .active, start := start }] }
      (groupTaken s r d).id = some { groupTaken s r d with phase := .active, start := start } :=
    opById_only (o := { groupTaken s r d with phase := .active, start := start }) rfl
  have hstay : movesData ({ groupTaken s r d with phase := .active, start := start } : Op).body = false := hmoves
  simp only [hready, opStopped_of_run hrun, hupdate, hfind, opStart, hstay, Bool.false_and, Bool.false_eq_true, if_false]
  refine ⟨_, _, rfl, ⟨rfl, rfl, rfl, rfl, rfl, rfl, rfl, rfl, ?_, ?_, ?_⟩, ?_, ?_⟩ <;> rw [haccept] <;> rfl

end

/-! ### The work of TXN_COMMIT and TXN_ABORT -/

/-- An op that is alone waits for no other op of its group. -/
theorem groupQuiet_only {s : State} {o : Op} (ho : s.ops = [o]) (n : Nat) : groupQuiet s n o.id = true := by
  simp [groupQuiet, ho]

/-- No WAIT is in flight: no test is made. -/
theorem testGrains_of_no_wait {s : State} (h : ∀ o ∈ s.ops, ∀ b, o.body ≠ .wait b) (a n : Nat) : testGrains s a n = s := by
  refine foldl_of_idle (fun o ho t => ?_) s
  split
  · exact absurd ‹_› (h o ho _)
  · rfl

theorem dirIds_of_outside {s : State} {offs : List Nat}
    (h : dirOk s = true → ∀ a ∈ offs, a < dirBase s ∨ dirBase s + 4096 ≤ a) : dirIds s offs = [] := by
  unfold dirIds
  split
  · rename_i hok
    have hnone : offs.filter (fun a => decide (dirBase s ≤ a) && decide (a < dirBase s + 4096)) = [] := by
      rw [List.filter_eq_nil_iff]
      intro a ha
      have := h hok a ha
      simp only [Bool.and_eq_true, decide_eq_true_eq]
      omega
    simp [hnone]
  · rfl

/-- The journals with what a group has staged behind them. -/
def journalsWith (s : State) (staged : List (Nat × Byte)) : List (List (Nat × Byte)) :=
  if staged.isEmpty then s.dome.journals else s.dome.journals ++ [staged]

/-- A group that has not touched the table directory becomes a journal at once. -/
theorem txnApply_of_clear {s : State} {num : Nat} {x : Txn} (hx : txnOf s num = some x)
    (hwaits : ∀ o ∈ s.ops, ∀ b, o.body ≠ .wait b) (hdir : dirIds s (x.staged.map (·.1)) = []) :
    txnApply s num = some (txnDrop { s with dome := { s.dome with journals := journalsWith s x.staged } } num) := by
  have htests : ∀ t : State, t.ops = s.ops → x.signals.foldl (fun s a => testGrains s a 8) t = t := fun t ht =>
    List.foldlRecOn x.signals _ (motive := fun u => u = t) rfl fun _ hu a _ => by
      rw [hu, testGrains_of_no_wait (ht ▸ hwaits)]
  simp only [txnApply, hx, hdir, dirFull, dirMoved, dirSwap, List.filter_nil, List.any_nil, List.foldl_nil,
    Bool.false_eq_true, if_false]
  refine congrArg some (htests _ ?_)
  rfl

/-- A journal put behind the others shows its bytes, and leaves every other byte as it was. -/
theorem committedByte_of_journalsWith {s t : State} {staged : List (Nat × Byte)} (hmem : t.mem = s.mem)
    (hj : t.dome.journals = journalsWith s staged) (a : Nat) :
    committedByte t a = ((staged.find? fun y => y.1 == a).map (·.2)).getD (committedByte s a) := by
  cases staged with
  | nil =>
    rw [committedByte, hj, hmem]
    rfl
  | cons y ys =>
    rw [committedByte, hj, hmem]
    simp only [journalsWith, List.isEmpty_cons, Bool.false_eq_true, if_false, List.reverse_append, List.reverse_singleton,
      List.singleton_append, List.findSome?_cons]
    cases (y :: ys).find? fun y => y.1 == a <;> rfl

theorem runTxnCommit_committed {s t : State} {o : Op} {x : Txn} (ho : s.ops = [o]) (hx : txnOf s o.hdr.txn = some x)
    (ha : x.aborted = none) (ht : txnApply s x.num = some t) : runTxnCommit s o = opDone t o.id .ok := by
  simp only [runTxnCommit, groupQuiet_only ho, hx, ha, ht]
  rfl

theorem runTxnCommit_aborted {s : State} {o : Op} {x : Txn} {c : Status} (ho : s.ops = [o])
    (hx : txnOf s o.hdr.txn = some x) (ha : x.aborted = some c) :
    runTxnCommit s o = opDone (noteCause (txnDrop s x.num) o.id (some c)) o.id .aborted := by
  simp only [runTxnCommit, groupQuiet_only ho, hx, ha]
  rfl

/-! ### The commands -/

theorem exec_txnBegin (r : Fin 256) (h : Hdr) (b : TxnBeginBody) (s : State) :
    exec (.txnBegin r h b) s = .next (opCommand s r.val { hdr := h, body := .txnBegin b }) := rfl
theorem exec_txnCommit (r : Fin 256) (h : Hdr) (s : State) :
    exec (.txnCommit r h) s = .next (opCommand s r.val { hdr := h, body := .txnCommit }) := rfl
theorem exec_txnAbort (r : Fin 256) (h : Hdr) (s : State) :
    exec (.txnAbort r h) s = .next (opCommand s r.val { hdr := h, body := .txnAbort }) := rfl

theorem opBegin_txnBegin {o : Op} {b : TxnBeginBody} (ho : o.body = .txnBegin b) (s : State) :
    opBegin s o = opDone s o.id .ok := by simp only [opBegin, ho]
theorem opBegin_txnCommit {o : Op} (ho : o.body = .txnCommit) (s : State) : opBegin s o = runTxnCommit s o := by
  simp only [opBegin, opWork, ho]
theorem opBegin_txnAbort {o : Op} (ho : o.body = .txnAbort) (s : State) : opBegin s o = runTxnAbort s o := by
  simp only [opBegin, opWork, ho]

/-- The op of a group is over in state `t`: the op is done, and memory and registers are as they were. -/
structure GroupOver (s t : State) (r : Nat) (d : Desc) (st : Status) : Prop where
  opIs : OpIs s t r d (.done st)
  mem : t.mem = s.mem
  regs : t.regs = s.regs

/-- What changes groups and journals alone leaves the op running. -/
theorem GroupRuns.withDome {s u : State} {r : Nat} {d : Desc} {q : Op} (h : GroupRuns s u r d q) (x : Dome) :
    GroupRuns s { u with dome := x } r d q :=
  { h with }

/-- The cause of an abort noted in the event of the op that closes the group. -/
theorem GroupRuns.noteCause {s u : State} {r : Nat} {d : Desc} {q : Op} (h : GroupRuns s u r d q) (c : Option Status) :
    ∃ q', GroupRuns s (noteCause u q.id c) r d q' ∧ (noteCause u q.id c).dome = u.dome := by
  cases c with
  | none => exact ⟨q, h, rfl⟩
  | some c =>
    rw [Machine.noteCause, opUpdate_only_eq h.ops]
    exact ⟨{ q with detail := c.code }, { h with ops := rfl }, rfl⟩

/-- The op ends, whatever its work made of groups and journals. -/
theorem GroupRuns.done {s u : State} {r : Nat} {d : Desc} {q : Op} (h : GroupRuns s u r d q) (st : Status) :
    GroupOver s (opDone u s.opNext st) r d st ∧ (opDone u s.opNext st).dome = u.dome := by
  rw [opDone_only h.ops h.id h.active]
  exact ⟨⟨⟨_, rfl, h.id, h.ring, h.hdr, h.body, h.accepted, h.completed, rfl, h.next⟩, h.mem, h.regs⟩, rfl⟩

theorem txnOf_only {s : State} {x : Txn} (h : s.dome.txns = [x]) : txnOf s x.num = some x := by simp [txnOf, h]

/-- The only group aborts, at the op that closes it: that op goes on, and no journal changes. -/
theorem abortTxn_closed {s : State} {q : Op} {x : Txn} (hops : s.ops = [q]) (htxns : s.dome.txns = [x])
    (hcloser : x.closer = some q.id) (c : Status) :
    ∃ y : Dome, abortTxn s x.num c = { s with dome := y } ∧ (∃ z : Txn, y.txns = [z] ∧ z.num = x.num) ∧
      y.journals = s.dome.journals := by
  have hstay : (s.ops.map fun o => if o.hdr.txn == x.num && !o.isDone && some o.id != x.closer then
      { o with phase := .done .aborted, reqs := [], owed := [] } else o) = s.ops := by
    simp [hops, hcloser]
  unfold abortTxn
  rw [txnOf_only htxns]
  dsimp only
  split
  · exact ⟨s.dome, rfl, ⟨x, htxns, rfl⟩, rfl⟩
  · have hone : (txnUpdate s x.num fun t => { t with aborted := some c, staged := [] }).dome.txns =
        [{ x with aborted := some c, staged := [] }] := by simp [txnUpdate, htxns]
    simp only [txnUpdate, hstay]
    split
    · exact ⟨_, rfl, ⟨_, hone, rfl⟩, rfl⟩
    · exact ⟨_, rfl, ⟨_, hone, rfl⟩, rfl⟩

/-- The group that a TXN_BEGIN opens. -/
def opening (s : State) (num : Nat) (b : TxnBeginBody) : Txn :=
  { num := num, order := s.dome.txnOrder, limit := if b.journalLimit = 0 then 0x4000000 else b.journalLimit }

/-- The only group, with the op that closes it. -/
def closing (s : State) (x : Txn) : Txn := { x with closer := some s.opNext }

theorem txnDrop_only {s : State} {x : Txn} (h : s.dome.txns = [x]) : (txnDrop s x.num).dome.txns = [] := by
  simp [txnDrop, h]

theorem dirOk_of_regs {s t : State} (h : t.regs = s.regs) : dirOk t = dirOk s ∧ dirBase t = dirBase s := by
  have hbits : ∀ off hi lo, regBits t off hi lo = regBits s off hi lo := fun _ _ _ => by simp only [regBits, regGet, h]
  have hbase : dirBase t = dirBase s := by rw [dirBase, hbits, dirBase]
  have hpart : ∀ a n, inPart t 5 a n = inPart s 5 a n := fun a n => by
    rw [inPart, partBase, partSize, hbits, hbits, ← partBase, ← partSize, inPart]
  exact ⟨by rw [dirOk, hbase, hpart, dirOk], hbase⟩

section
variable {s : State} {r : Nat} {d : Desc} (hr : AtRest s r) (ha : Accepts s r d) (he : s.dome.epochs = []) (hd : DiesRun s)
include hr ha he hd

/-- TXN_BEGIN opens its group empty, the next in order. -/
theorem txnBegin_opens {b : TxnBeginBody} (hb : d.body = .txnBegin b) :
    GroupOver s (opCommand s r d) r d .ok ∧ (opCommand s r d).dome.txns = s.dome.txns ++ [opening s d.hdr.txn b] := by
  have haccept : ∀ c ss ps, opAccept (groupEntered s r d c ss ps) (groupTaken s r d) =
      withGroups (groupEntered s r d c ss ps) (s.dome.txns ++ [opening s d.hdr.txn b]) (s.dome.txnOrder + 1) := fun c ss ps => by
    have hbody : (groupTaken s r d).body = .txnBegin b := hb
    simp only [opAccept, hbody]
    rfl
  obtain ⟨u, q, hrun, hq, htxns, -⟩ := opCommand_groupOp hr ha he (by rw [hb]; rfl) hd haccept
  obtain ⟨hover, hdome⟩ := hq.done .ok
  rw [hrun, opBegin_txnBegin (hq.body.trans hb), hq.id]
  exact ⟨hover, (congrArg Dome.txns hdome).trans htxns⟩

variable {x : Txn} (htxns : s.dome.txns = [x]) (hnum : x.num = d.hdr.txn)
include htxns hnum

/-- An op that closes the only group begins its work at once, and the group knows it. -/
theorem opCommand_closes (hb : d.body = .txnCommit ∨ d.body = .txnAbort) : ∃ u q, opCommand s r d = opBegin u q ∧
    GroupRuns s u r d q ∧ u.dome.txns = [closing s x] ∧ u.dome.journals = s.dome.journals := by
  refine opCommand_groupOp hr ha he (by rcases hb with hb | hb <;> rw [hb] <;> rfl) hd (n := s.dome.txnOrder) fun c ss ps => ?_
  have haccept : opAccept (groupEntered s r d c ss ps) (groupTaken s r d) =
      acceptTxnClose (groupEntered s r d c ss ps) (groupTaken s r d) := by
    have hbody : (groupTaken s r d).body = d.body := rfl
    rcases hb with hb | hb <;> simp only [opAccept, hbody, hb]
  have hgroups : (groupEntered s r d c ss ps).dome.txns = [x] := htxns
  have hn : x.num = (groupTaken s r d).hdr.txn := hnum
  rw [haccept, acceptTxnClose, txnUpdate, hgroups, ← hn, List.map_cons, List.map_nil, beq_self_eq_true, if_pos rfl]
  rfl

/-- TXN_COMMIT of a group that stands: what it staged becomes the newest journal. -/
theorem txnCommit_commits (hb : d.body = .txnCommit) (hx : x.aborted = none)
    (hclear : dirOk s = true → ∀ c ∈ x.staged, c.1 < dirBase s ∨ dirBase s + 4096 ≤ c.1) :
    GroupOver s (opCommand s r d) r d .ok ∧ (opCommand s r d).dome.txns = [] ∧
      (opCommand s r d).dome.journals = journalsWith s x.staged := by
  obtain ⟨u, q, hrun, hq, hu, hjournals⟩ := opCommand_closes hr ha he hd htxns hnum (.inl hb)
  have hbody : q.body = .txnCommit := hq.body.trans hb
  have htxn : txnOf u (closing s x).num = some (closing s x) := txnOf_only hu
  have hx' : (closing s x).aborted = none := hx
  have hqnum : q.hdr.txn = (closing s x).num := (congrArg Hdr.txn hq.hdr).trans hnum.symm
  have hwaits : ∀ o ∈ u.ops, ∀ b, o.body ≠ .wait b := by simp [hq.ops, hbody]
  obtain ⟨hok, hbase⟩ := dirOk_of_regs hq.regs
  have hdir : dirIds u ((closing s x).staged.map (·.1)) = [] := dirIds_of_outside fun hdir a ha => by
    obtain ⟨y, hy, rfl⟩ := List.mem_map.mp ha
    rw [hbase]
    exact hclear (hok ▸ hdir) y hy
  have happly := txnApply_of_clear htxn hwaits hdir
  obtain ⟨hover, hdome⟩ := (hq.withDome (txnDrop { u with
    dome := { u.dome with journals := journalsWith u x.staged } } x.num).dome).done .ok
  rw [hrun, opBegin_txnCommit hbody, runTxnCommit_committed hq.ops (hqnum ▸ htxn) hx' happly, hq.id]
  refine ⟨hover, (congrArg Dome.txns hdome).trans (txnDrop_only (x := closing s x) hu), (congrArg Dome.journals hdome).trans ?_⟩
  change journalsWith u x.staged = journalsWith s x.staged
  rw [journalsWith, hjournals, journalsWith]

/-- TXN_COMMIT of a group that has aborted ends ABORTED, and applies nothing. -/
theorem txnCommit_of_aborted (hb : d.body = .txnCommit) {st : Status} (hx : x.aborted = some st) :
    GroupOver s (opCommand s r d) r d .aborted ∧ (opCommand s r d).dome.txns = [] ∧
      (opCommand s r d).dome.journals = s.dome.journals := by
  obtain ⟨u, q, hrun, hq, hu, hjournals⟩ := opCommand_closes hr ha he hd htxns hnum (.inl hb)
  have htxn : txnOf u (closing s x).num = some (closing s x) := txnOf_only hu
  have hx' : (closing s x).aborted = some st := hx
  have hqnum : q.hdr.txn = (closing s x).num := (congrArg Hdr.txn hq.hdr).trans hnum.symm
  obtain ⟨q', hq', hnoted⟩ := (hq.withDome (txnDrop u (closing s x).num).dome).noteCause (some st)
  obtain ⟨hover, hdome⟩ := hq'.done .aborted
  rw [hrun, opBegin_txnCommit (hq.body.trans hb), runTxnCommit_aborted hq.ops (hqnum ▸ htxn) hx', hq.id]
  rw [hq.id] at hover hdome hnoted
  exact ⟨hover, (congrArg Dome.txns (hdome.trans hnoted)).trans (txnDrop_only hu),
    (congrArg Dome.journals (hdome.trans hnoted)).trans hjournals⟩

/-- TXN_ABORT closes its group, and applies nothing. -/
theorem txnAbort_closes (hb : d.body = .txnAbort) :
    GroupOver s (opCommand s r d) r d .ok ∧ (opCommand s r d).dome.txns = [] ∧
      (opCommand s r d).dome.journals = s.dome.journals := by
  obtain ⟨u, q, hrun, hq, hu, hjournals⟩ := opCommand_closes hr ha he hd htxns hnum (.inr hb)
  have hqnum : q.hdr.txn = (closing s x).num := (congrArg Hdr.txn hq.hdr).trans hnum.symm
  obtain ⟨y, habort, ⟨z, hz, hznum⟩, hkept⟩ := abortTxn_closed hq.ops hu (congrArg some hq.id.symm) .aborted
  obtain ⟨q', hq', hnoted⟩ := (hq.withDome (txnDrop { u with dome := y } (closing s x).num).dome).noteCause
    ((txnOf u (closing s x).num).bind (·.aborted))
  obtain ⟨hover, hdome⟩ := hq'.done .ok
  rw [hrun, opBegin_txnAbort (hq.body.trans hb), runTxnAbort, hqnum, habort, hq.id]
  rw [hq.id] at hover hdome hnoted
  exact ⟨hover, (congrArg Dome.txns (hdome.trans hnoted)).trans (hznum ▸ txnDrop_only hz),
    (congrArg Dome.journals (hdome.trans hnoted)).trans (hkept.trans hjournals)⟩

end

/-- Settles O41, clause by clause: the op is accepted and its work ends at once; it changes its group, and by a commit the
journals. -/
theorem transactions : Obligations.Transactions := by
  unfold Obligations.Transactions
  refine ⟨?opens, ?commits, ?aborted, ?aborts⟩
  case opens =>
    intro s r h b hr ha he hd
    obtain ⟨hover, htxns⟩ := txnBegin_opens hr ha he hd rfl
    exact ⟨_, exec_txnBegin r h b s, hover.opIs, hover.mem, hover.regs, _, htxns, rfl, rfl, rfl, rfl, rfl, rfl⟩
  case commits =>
    intro s r h x hr ha he hd htxns hnum _ hx hclear
    obtain ⟨hover, hnone, hjournals⟩ := txnCommit_commits hr ha he hd htxns hnum rfl hx hclear
    have hbyte := committedByte_of_journalsWith hover.mem hjournals
    refine ⟨_, exec_txnCommit r h s, hover.opIs, hnone, fun c hc => ?_, fun c hc => ?_, hover.mem, hover.regs⟩
    · rw [hbyte, hc]
      rfl
    · rw [hbyte, hc]
      rfl
  case aborted =>
    intro s r h x st hr ha he hd htxns hnum _ hx
    obtain ⟨hover, hnone, hjournals⟩ := txnCommit_of_aborted hr ha he hd htxns hnum rfl hx
    exact ⟨_, exec_txnCommit r h s, hover.opIs, hnone, hover.mem, hjournals⟩
  case aborts =>
    intro s r h x hr ha he hd htxns hnum _
    obtain ⟨hover, hnone, hjournals⟩ := txnAbort_closes hr ha he hd htxns hnum rfl
    exact ⟨_, exec_txnAbort r h s, hover.opIs, hnone, hover.mem, hjournals, hover.regs⟩

end Sys2Proof.Machine
end


section
/-! PROOFS. A bank's copy that ends (spec/11 R289): O49 is refuted, on BANK_COPY_DONE of a die with no bank in copy. -/

namespace Sys2Proof.Machine

/-! ### The refutation of O49 -/

/-- A READ of this chip to itself that is taken and not yet served: its bursts have started, and no bank holds its one row. -/
def paidBatch : Serve := { link := noLink, hdr := { unwindowedRead with src := 5 }, rows := [unwindowedRow], owed := [] }

/-- Chip 5 of job 1 in service with that batch, and no bank of any die in copy. -/
def batchWaiting : State :=
  { fin := { stage := 4, ready := true, kref := true, memoryDone := true, belfryImage := true, railEn := 63, railPg := 63,
             perstLow := false, lc := 1, serial := 77 },
    time := { runs := true },
    regs := [(0x800000, 0x50001)],
    fab := { serving := [paidBatch] } }

theorem batchWaiting_sound : Sound batchWaiting = true := by decide +kernel

theorem bankCopied_of_none {s : State} {die : Nat} (h : s.mif.copying.find? (fun x => x.1 == die) = none) (lost : List Nat) :
    bankCopied s die lost = s := by rw [bankCopied, h]

/-- BANK_COPY_DONE serves the batches that wait, with or without a copy that ends. -/
theorem exec_bankCopyDone_of_none {s : State} {die : Fin 4} (h : s.mif.copying.find? (fun x => x.1 == die.val) = none)
    (lost : List Nat) : exec (.bankCopyDone die lost) s = .next (serveGo s) := by
  change Host.Outcome.next (serveGo (bankCopied s die.val lost)) = _
  rw [bankCopied_of_none h]

/-- The batch is answered, and waits no more. -/
theorem serving_serveGo_batchWaiting : (serveGo batchWaiting).fab.serving = [] := by decide +kernel

/-- In a sound state with no bank in copy, BANK_COPY_DONE does not leave the state as it is. -/
theorem exec_bankCopyDone_batchWaiting : Sound batchWaiting = true ∧ batchWaiting.mif.copying = [] ∧
    exec (.bankCopyDone 0 []) batchWaiting ≠ .next batchWaiting := by
  refine ⟨batchWaiting_sound, rfl, fun hsame => ?_⟩
  rw [exec_bankCopyDone_of_none rfl] at hsame
  injection hsame with hserved
  have hwaits : batchWaiting.fab.serving = [] := (congrArg (·.fab.serving) hserved).symm.trans serving_serveGo_batchWaiting
  exact absurd hwaits (List.cons_ne_nil _ _)

/-- Refutes O49: BANK_COPY_DONE of a die with no bank in copy is said to change nothing, and it serves every batch that waits and
can be served; the clause does not ask that none waits. -/
theorem not_memoryUpkeep : ¬ Obligations.MemoryUpkeep := by
  unfold Obligations.MemoryUpkeep
  rintro ⟨-, -, ⟨-, noCopy⟩, -⟩
  obtain ⟨-, hnone, hchanged⟩ := exec_bankCopyDone_batchWaiting
  exact hchanged (noCopy batchWaiting 0 [] (by rw [hnone]; rfl))

end Sys2Proof.Machine
end


section
/-! PROOFS. The close of a step (spec/10 R255, R266): O56 is refuted, on the phase record that STEP_CLOSE keeps. -/

namespace Sys2Proof.Machine

/-! ### The refutation of O56 -/

/-- A step that ended ABORTED, with seven phase counters and not the eight of spec/10 Table 10.6: a list of another length is
what `Sound` does not rule out. -/
def sevenCounters : StepTel := { step := 3, counters := [1, 2, 3, 4, 5, 6, 7], outcome := some .aborted }

/-- Chip 5 of job 1 keeps the telemetry of one layer at the start of its general partition, and reports device events in queue 1;
the step is open, and no op is in flight. -/
def sevenCountersOpen : State :=
  { fin := { stage := 4, ready := true, kref := true, memoryDone := true, belfryImage := true, railEn := 63, railPg := 63,
             perstLow := false, lc := 1, serial := 77 },
    time := { keep := 5000, runs := true },
    dome := { steps := [sevenCounters] },
    regs := [(0x100018, 1), (0x103020, 0x10000), (0x103028, 0x80060002), (0x400000, 0x40000000), (0x400004, 1),
      (0x800000, 0x50001), (0xE00114, 0x04000400)] }

theorem sevenCountersOpen_sound : Sound sevenCountersOpen = true := by decide +kernel

/-- Its records are kept, its collector and its baseline are off, and queue 1 has room for the event of the close. -/
theorem sevenCountersOpen_closes :
    telKept sevenCountersOpen = true ∧ regBits sevenCountersOpen 0x400008 31 31 = 0 ∧
      regBits sevenCountersOpen 0x400020 31 31 = 0 ∧ 1 = regBits sevenCountersOpen 0x100018 5 0 ∧
      eqEnabled sevenCountersOpen 1 = true ∧ 1 ≤ eqFree sevenCountersOpen 1 := by decide +kernel

/-- A counter short, the phase record is 60 bytes. -/
theorem phaseRecord_sevenCounters : (phaseRecord sevenCountersOpen sevenCounters).length = 60 := by decide +kernel

/-- Refutes O56: the clause on STEP_CLOSE reads the phase record back as 64 bytes, and leaves free how many counters the step's
telemetry has. With seven of them the record is 60 bytes, which no 64 bytes of memory equal. -/
theorem not_steps : ¬ Obligations.Steps := by
  unfold Obligations.Steps
  rintro ⟨-, -, -, close, -⟩
  obtain ⟨hkept, hcollector, hbaseline, hqueue, henabled, hfree⟩ := sevenCountersOpen_closes
  obtain ⟨t, -, -, -, -, hrecord, -⟩ := close sevenCountersOpen sevenCounters 1 sevenCountersOpen_sound rfl (by decide)
    (fun _ ho => nomatch ho) rfl hcollector hbaseline hqueue henabled hfree
  have hlength := congrArg List.length (hrecord hkept)
  rw [phaseRecord_sevenCounters, Memory.getBytes, List.length_map, List.length_range] at hlength
  exact absurd hlength (by decide)

end Sys2Proof.Machine
end


section
/-! PROOFS. The Lantern partitions (spec/11 R281, R282): a place taken or refused, and the end of a cut. O19 holds. -/

namespace Sys2Proof.Machine

/-! ### A partition's register -/

theorem exec_lanPartWrite {s : State} (ho : HostOpen s) (k : Fin 6) (v : Word) :
    exec (.lanPartWrite k v) s = .next (partWrite s k.val (0xE00100 + 4 * k.val) v) := by
  fin_cases k <;> simp [exec, execLanPartWrite, hostWrite_of_open ho, writeReg, lanWrite]

theorem exec_partitionCutComplete (k : Fin 6) (s : State) :
    exec (.partitionCutComplete k) s = .next (cutComplete s k.val) := rfl

theorem regDef_partition (k : Fin 6) :
    (regDef (0xE00100 + 4 * k.val)).map (fun d => (d.rw, d.w1c)) = some (0x7FF0FFF, 0) := by
  revert k
  decide

/-! ### A place taken -/

/-- The state with other waiting cuts. -/
def withCuts (s : State) (cs : List Cut) : State := { s with mif := { s.mif with cuts := cs } }

/-- A device at rest stays so where only its stored registers and its cuts change. -/
theorem noWork_withCuts {s t : State} (h : NoWork s) (ht : t = { s with regs := t.regs }) (cs : List Cut) :
    NoWork (withCuts t cs) := by
  rw [ht]
  exact h

/-- An accepted place is the register's write, and a cut that may wait. -/
theorem partWrite_of_accepted {s : State} {k off : Nat} {v : Word} (h : NoWork s)
    (hframe : regAccept s off v = { s with regs := (regAccept s off v).regs })
    (hok : partRefused s k (bits v 26 16) (bits v 11 0) = false) :
    ∃ cs, partWrite s k off v = withCuts (regAccept s off v) cs := by
  rw [partWrite, hok, if_neg Bool.false_ne_true]
  exact ⟨_, settle_of_noWork (noWork_withCuts h hframe _)⟩

/-- A refused place changes nothing but what RESOURCE_HELD reports. -/
theorem partWrite_of_refused {s : State} {k off : Nat} {v : Word}
    (hno : partRefused s k (bits v 26 16) (bits v 11 0) = true) :
    partWrite s k off v = configIgnored s off v (held := true) := by
  rw [partWrite, hno, if_pos rfl]

/-! ### The end of a cut -/

/-- Once the use fits the new size no cut of the partition waits. -/
theorem cutComplete_waits {s : State} {k : Nat} (h : partUse s k ≤ partSize s k) :
    ∀ c ∈ (cutComplete s k).mif.cuts, c.part = k → c.waits = false := by
  rw [cutComplete, if_pos h]
  intro c hc hk
  obtain ⟨c', -, rfl⟩ := List.mem_map.mp hc
  by_cases hpart : c'.part = k
  · simp [hpart]
  · simp [hpart] at hk

theorem cutComplete_regs (s : State) (k : Nat) : (cutComplete s k).regs = s.regs := by
  unfold cutComplete
  split <;> rfl

theorem cutComplete_mem (s : State) (k : Nat) : (cutComplete s k).mem = s.mem := by
  unfold cutComplete
  split <;> rfl

/-- Settles O19: an accepted place is written to the partition's own register, a refused one to none; a cut ends once the use is
no more than the new size. -/
theorem partitions : Obligations.Partitions := by
  unfold Obligations.Partitions
  refine ⟨?place, ?refused, ?ends, ?waits⟩
  case place =>
    intro s k v hs ho hrest hok
    obtain ⟨⟨hframe, hothers⟩, htaken, -⟩ := regAccept_fieldsWritten hs (regDef_partition k) v
    obtain ⟨cs, hrun⟩ := partWrite_of_accepted hrest hframe hok
    have hmem : (regAccept s (0xE00100 + 4 * k.val) v).mem = s.mem := by rw [hframe]
    refine ⟨_, (exec_lanPartWrite ho k v).trans (congrArg _ hrun), ?base, ?size, hmem, fun j hj hne => ?others⟩
    case base => exact regBits_of_masked htaken (by decide)
    case size => exact regBits_of_masked htaken (by decide)
    case others =>
      have hsame := hothers (0xE00100 + 4 * j) (by omega)
      exact ⟨congrArg (bits · 26 16) hsame, congrArg (bits · 11 0) hsame⟩
  case refused =>
    intro s k v ho hno
    rw [exec_lanPartWrite ho, partWrite_of_refused hno]
  case ends =>
    intro s k huse
    exact ⟨_, exec_partitionCutComplete k s, cutComplete_waits huse, cutComplete_regs s k.val, cutComplete_mem s k.val⟩
  case waits =>
    intro s k huse
    rw [exec_partitionCutComplete, cutComplete, if_neg (Nat.not_le.mpr huse)]

end Sys2Proof.Machine
end


section
/-! PROOFS. The Drums' registers (spec/11 R276, R288): FOLD, and post-package repair from its request to its end. O20 holds. -/

namespace Sys2Proof.Machine

/-! ### A field beside another that is set -/

/-- Setting a field leaves one that ends below it. -/
theorem bits_setBits_below {hi lo hi' lo' : Nat} (h : hi' < lo) (v : Word) (x : Nat) :
    bits (setBits v hi lo x) hi' lo' = bits v hi' lo' := by
  refine Nat.eq_of_testBit_eq fun i => ?_
  simp only [bits, natBits, setBits, Nat.testBit_mod_two_pow, Nat.testBit_shiftRight, BitVec.testBit_toNat,
    BitVec.getLsbD_or, BitVec.getLsbD_and, BitVec.getLsbD_not, BitVec.getLsbD_ofNat, Nat.testBit_shiftLeft]
  by_cases hfield : i < hi' + 1 - lo'
  · have hout : ¬ lo' + i ≥ lo := by omega
    by_cases hword : lo' + i < 32
    · simp [hfield, hout, hword]
    · simp [hfield, hout, hword, BitVec.getLsbD_of_ge v (lo' + i) (by omega)]
  · simp [hfield]

/-- A part of a field that is set reads as that part of the value. -/
theorem bits_setBits_within {hi lo hi' lo' : Nat} (h : hi < 32) (hlo : lo ≤ lo') (hne : lo' ≤ hi') (hhi : hi' ≤ hi)
    (v : Word) (x : Nat) : bits (setBits v hi lo x) hi' lo' = natBits x (hi' - lo) (lo' - lo) := by
  refine Nat.eq_of_testBit_eq fun i => ?_
  simp only [bits, natBits, setBits, Nat.testBit_mod_two_pow, Nat.testBit_shiftRight, BitVec.testBit_toNat,
    BitVec.getLsbD_or, BitVec.getLsbD_and, BitVec.getLsbD_not, BitVec.getLsbD_ofNat, Nat.testBit_shiftLeft,
    Nat.testBit_two_pow_sub_one]
  by_cases hfield : i < hi' + 1 - lo'
  · have hword : lo' + i < 32 := by omega
    have hin : lo' + i - lo < hi + 1 - lo := by omega
    have hpart : i < hi' - lo + 1 - (lo' - lo) := by omega
    have hbit : lo' - lo + i = lo' + i - lo := by omega
    have habove : lo ≤ lo' + i := by omega
    simp [hword, hin, hpart, hbit, hfield, habove]
  · have hpart : ¬ i < hi' - lo + 1 - (lo' - lo) := by omega
    simp [hfield, hpart]

theorem regBits_regSet {s : State} (hs : Sound s = true) {hi lo x : Nat} (h : hi < 32) (hx : x < 2 ^ (hi + 1 - lo)) (off : Nat) :
    regBits (regSet s off hi lo x) off hi lo = x := by
  rw [regBits, regSet, regGet_regPut hs, if_pos rfl, bits_setBits h, Nat.mod_eq_of_lt hx]

/-! ### FOLD -/

theorem exec_drmIlvCfgWrite {s : State} (ho : HostOpen s) (v : Word) :
    exec (.drmIlvCfgWrite v) s = .next (ilvWrite s 0xC00000 v) := by
  simp [exec, execDrmIlvCfgWrite, hostWrite_of_open ho, writeReg, drmWrite]

theorem regAccept_ilv {s : State} (hs : Sound s = true) (v : Word) : FieldsWritten s (regAccept s 0xC00000 v) 0xC00000 7 v :=
  regAccept_fieldsWritten hs rfl v

/-- With no job open and no request in flight the write is taken, and a FOLD that changes loses what LPDDR5X held. -/
theorem ilvWrite_of_idle {s : State} (hj : jobId s = 0) (hb : memBusy s = false) (v : Word) :
    ilvWrite s 0xC00000 v =
      if bits v 2 0 = regBits s 0xC00000 2 0 then regAccept s 0xC00000 v
      else loseAt (regAccept s 0xC00000 v) 0 lpBytes := by
  simp [ilvWrite, hj, hb]

theorem ilvWrite_of_busy {s : State} (h : jobId s ≠ 0 ∨ memBusy s = true) (v : Word) :
    ilvWrite s 0xC00000 v = configIgnored s 0xC00000 v := by
  rw [ilvWrite, if_pos (.inr h)]

/-- A read depends on what an unlisted key reads as at that key alone. -/
theorem tabGet_default_congr {α : Type} {d d' : Nat → α} {k : Nat} (h : d k = d' k) : ∀ t : Tab α, tabGet d t k = tabGet d' t k
  | [] => h
  | (i, v) :: t => by rw [tabGet, tabGet, h, tabGet_default_congr h t]

/-- Entries of other keys may leave a canonical list unseen. -/
theorem tabGet_filter_of_kept {fs : List Fill} {d : Nat → Byte} {p : Nat × Byte → Bool} {a : Nat} (hp : ∀ v, p (a, v) = true) :
    ∀ {t : Tab Byte} {lo : Nat}, cellsWf fs lo t = true → tabGet d (t.filter p) a = tabGet d t a
  | [], _, _ => rfl
  | (i, v) :: t, lo, hw => by
    simp only [cellsWf, Bool.and_eq_true, decide_eq_true_eq] at hw
    obtain ⟨-, htail⟩ := hw
    have ih := tabGet_filter_of_kept (d := d) hp htail
    rw [List.filter_cons]
    split
    · simp only [tabGet, ih]
    · rename_i hdrop
      have hne : a ≠ i := fun h => hdrop (h ▸ hp v)
      rw [ih, tabGet, if_neg hne]
      split
      · exact cells_below (by omega) htail
      · rfl

/-- A lost range leaves the bytes beyond it. -/
theorem Memory.get_lose_beyond {m : Memory} (hm : m.wf = true) {lo hi a : Nat} (ha : hi ≤ a) (src : FillSrc) :
    (m.lose lo hi src).get a = m.get a := by
  have hunder : underByte (({ lo := lo, hi := hi, src := src } : Fill) :: m.fills) a = underByte m.fills a :=
    if_neg fun h => Nat.not_lt.mpr ha h.2
  exact (tabGet_filter_of_kept (fun _ => by simp [ha]) hm).trans (tabGet_default_congr hunder m.cells)

/-! ### A repair requested -/

/-- Drum d starts the repair that a request of DRM_PPR_REQ names. -/
def requested (d : Nat) (v : Word) : Ppr := { ch := 64 * d + bits v 29 24, bank := bits v 23 20, row := bits v 17 0 }

/-- The state with Drum d at a repair, whose channel it holds. -/
def pprBegun (s : State) (d : Nat) (p : Ppr) : State :=
  channelPut { s with mif := { s.mif with ppr := tabPut (fun _ => none) s.mif.ppr d (some p) } } p.ch
    { channel s p.ch with ppr := true }

theorem exec_pprSoft {s : State} (ho : HostOpen s) (d : Fin 2) (v : Word) :
    exec (.pprSoft d v) s = .next (pprWrite s d.val (setBits v 31 30 2)) := by
  fin_cases d <;> simp [exec, execPprSoft, hostWrite_of_open ho, writeReg, drmWrite]

theorem exec_pprHard {s : State} (ho : HostOpen s) (d : Fin 2) (v : Word) :
    exec (.pprHard d v) s = .next (pprWrite s d.val (setBits v 31 30 3)) := by
  fin_cases d <;> simp [exec, execPprHard, hostWrite_of_open ho, writeReg, drmWrite]

/-- Both commands set GO. -/
theorem go_setBits (v : Word) : bits (setBits v 31 30 2) 31 31 = 1 ∧ bits (setBits v 31 30 3) 31 31 = 1 := by
  simp only [bits_setBits_within (by decide : 31 < 32) (by decide : 30 ≤ 31) (le_refl 31) (le_refl 31)]
  decide

/-- The hard one alone sets HARD. -/
theorem hard_setBits (v : Word) : bits (setBits v 31 30 2) 30 30 = 0 ∧ bits (setBits v 31 30 3) 30 30 = 1 := by
  simp only [bits_setBits_within (by decide : 31 < 32) (le_refl 30) (le_refl 30) (by decide : 30 ≤ 31)]
  decide

theorem requested_setBits (d : Nat) (v : Word) (x : Nat) : requested d (setBits v 31 30 x) = requested d v := by
  simp only [requested, bits_setBits_below (by decide : 29 < 30), bits_setBits_below (by decide : 23 < 30),
    bits_setBits_below (by decide : 17 < 30)]

/-- A request is refused while a repair runs, and a hard one with a job open. -/
theorem pprWrite_of_refused {s : State} {d : Nat} {v : Word} (hgo : bits v 31 31 = 1)
    (h : pprOf s d ≠ none ∨ bits v 30 30 = 1 ∧ jobId s ≠ 0) :
    pprWrite s d v = regSet s (0xC00304 + 0x100000 * d) 30 28 3 := by
  have hno : (pprOf s d).isSome = true ∨ bits v 30 30 = 1 ∧ jobId s ≠ 0 := h.imp_left Option.isSome_iff_ne_none.mpr
  rw [pprWrite, if_neg (by omega), if_pos hno]

theorem pprWrite_of_taken {s : State} {d : Nat} {v : Word} (hgo : bits v 31 31 = 1) (hfree : pprOf s d = none)
    (h : bits v 30 30 = 1 → jobId s = 0) : pprWrite s d v = pprBegun s d (requested d v) := by
  have hno : ¬ ((pprOf s d).isSome = true ∨ bits v 30 30 = 1 ∧ jobId s ≠ 0) := by
    rw [hfree]
    rintro (hsome | ⟨hhard, hjob⟩)
    · exact Bool.false_ne_true hsome
    · exact hjob (h hhard)
  rw [pprWrite, if_neg (by omega), if_neg hno]
  rfl

theorem pprOf_pprBegun (s : State) (d : Nat) (p : Ppr) : pprOf (pprBegun s d p) d = some p :=
  (tabGet_tabPut_of_ne (d := fun _ => none) (Option.some_ne_none p) d s.mif.ppr).trans (if_pos rfl)

theorem channel_ppr_pprBegun (s : State) (d : Nat) (p : Ppr) : (channel (pprBegun s d p) p.ch).ppr = true := by
  have hne : ({ channel s p.ch with ppr := true } : Channel) ≠ {} := fun h => by simpa using congrArg Channel.ppr h
  have hread : channel (pprBegun s d p) p.ch = { channel s p.ch with ppr := true } :=
    (tabGet_tabPut_of_ne (d := fun _ => ({} : Channel)) hne p.ch s.mif.channels).trans (if_pos rfl)
  rw [hread]

/-- RESULT says why nothing starts. -/
theorem result_refused {s : State} (hs : Sound s = true) (off : Nat) :
    OnlyReg s (regSet s off 30 28 3) off ∧ regBits (regSet s off 30 28 3) off 30 28 = 3 :=
  ⟨regPut_onlyReg hs off _, regBits_regSet hs (by decide) (by decide) off⟩

/-! ### A repair finished -/

theorem mifOk_of_sound {s : State} (hs : Sound s = true) : MifOk s.mif := by
  simp only [Sound, Bool.and_eq_true, decide_eq_true_eq] at hs
  obtain ⟨-, -, -, -, hmif, -⟩ := hs
  exact hmif

/-- The state with Drum d free again, its repair's channel let go. -/
def pprEnded (s : State) (d : Nat) (p : Ppr) : State :=
  channelPut { s with mif := { s.mif with ppr := tabPut (fun _ => none) s.mif.ppr d none } } p.ch
    { channel s p.ch with ppr := false }

theorem pprDone_of_running {s : State} {d : Nat} {p : Ppr} (hp : pprOf s d = some p) (result : Nat) :
    pprDone s d result = settle (regSet (pprEnded s d p) (0xC00304 + 0x100000 * d) 30 28 result) := by
  rw [pprDone, hp]
  rfl

theorem pprOf_pprEnded {s : State} (hs : Sound s = true) (d : Nat) (p : Ppr) : pprOf (pprEnded s d p) d = none :=
  (tabGet_tabPut d none d (mifOk_of_sound hs).2).trans (if_pos rfl)

theorem channel_pprEnded {s : State} (hs : Sound s = true) (d : Nat) (p : Ppr) :
    channel (pprEnded s d p) p.ch = { channel s p.ch with ppr := false } :=
  (tabGet_tabPut p.ch _ p.ch (mifOk_of_sound hs).1).trans (if_pos rfl)

/-- Settles O20: a FOLD that changes loses LPDDR5X and nothing beyond it; a repair that starts holds its channel, a refused one
says so in RESULT, and one that ends lets the channel go. -/
theorem drumRegisters : Obligations.DrumRegisters := by
  unfold Obligations.DrumRegisters
  refine ⟨⟨?kept, ?changed, ?busy⟩, ?soft, ?hard, ?running, ?jobOpen, ?done⟩
  case kept =>
    intro s v hs ho hj hb hsame
    refine ⟨_, exec_drmIlvCfgWrite ho v, ?_⟩
    rw [ilvWrite_of_idle hj hb, if_pos hsame]
    exact regAccept_ilv hs v
  case changed =>
    intro s v hs ho hj hb
    obtain ⟨⟨hframe, -⟩, htaken, -⟩ := regAccept_ilv hs v
    have hfold : regBits (regAccept s 0xC00000 v) 0xC00000 2 0 = bits v 2 0 := regBits_of_masked htaken (by decide)
    have hmem : (regAccept s 0xC00000 v).mem = s.mem := by rw [hframe]
    refine ⟨_, exec_drmIlvCfgWrite ho v, ?_⟩
    rw [ilvWrite_of_idle hj hb]
    split
    · exact ⟨hfold, fun a _ => by rw [hmem]⟩
    · exact ⟨hfold, fun a ha => by
        rw [loseAt, hmem]
        exact Memory.get_lose_beyond (mem_wf_of_sound hs) ha _⟩
  case busy =>
    intro s v ho h
    rw [exec_drmIlvCfgWrite ho, ilvWrite_of_busy h]
  case soft =>
    intro s d v hs ho hfree
    obtain ⟨hsoft, -⟩ := hard_setBits v
    refine ⟨pprBegun s d.val (requested d.val v), ?_, pprOf_pprBegun s _ _, channel_ppr_pprBegun s _ _, rfl, rfl⟩
    rw [exec_pprSoft ho, pprWrite_of_taken (go_setBits v).1 hfree (fun h => by omega), requested_setBits]
  case hard =>
    intro s d v hs ho hfree hj
    refine ⟨pprBegun s d.val (requested d.val v), ?_, pprOf_pprBegun s _ _, channel_ppr_pprBegun s _ _, rfl, rfl⟩
    rw [exec_pprHard ho, pprWrite_of_taken (go_setBits v).2 hfree (fun _ => hj), requested_setBits]
  case running =>
    intro s d v hs ho hruns
    obtain ⟨honly, hresult⟩ := result_refused hs (0xC00304 + 0x100000 * d.val)
    refine ⟨_, _, ?_, ?_, honly, honly, hresult, hresult⟩
    · rw [exec_pprSoft ho, pprWrite_of_refused (go_setBits v).1 (.inl hruns)]
    · rw [exec_pprHard ho, pprWrite_of_refused (go_setBits v).2 (.inl hruns)]
  case jobOpen =>
    intro s d v hs ho hj
    obtain ⟨honly, hresult⟩ := result_refused hs (0xC00304 + 0x100000 * d.val)
    refine ⟨_, ?_, honly, hresult⟩
    rw [exec_pprHard ho, pprWrite_of_refused (go_setBits v).2 (.inr ⟨(hard_setBits v).2, hj⟩)]
  case done =>
    intro s d result p hs hrest hp
    have hfree : (channel (pprEnded s d.val p) p.ch).ppr = false := by rw [channel_pprEnded hs]
    have hresult : regBits (regSet s (0xC00304 + 0x100000 * d.val) 30 28 result.val) (0xC00304 + 0x100000 * d.val) 30 28 =
        result.val := regBits_regSet hs (by decide) (by omega) _
    refine ⟨regSet (pprEnded s d.val p) (0xC00304 + 0x100000 * d.val) 30 28 result.val, ?_, pprOf_pprEnded hs _ _, hfree,
      hresult, rfl, rfl⟩
    have hdone : exec (.pprDone d result) s = .next (pprDone s d.val result.val) := rfl
    rw [hdone, pprDone_of_running hp, settle_of_noWork (s := regSet (pprEnded s d.val p) _ 30 28 result.val) hrest]

end Sys2Proof.Machine
end


section
/-! PROOFS. A write that names no group and that nothing holds back (spec/08 R208 to R211, spec/07 R178, R179): it lands, whatever
groups and table versions it meets. -/

namespace Sys2Proof.Machine

/-- Memory, ops and the Dome alone may differ; what could hold back a write is as it was. -/
structure WriteFrame (s t : State) : Prop where
  frame : t = { s with mem := t.mem, ops := t.ops, dome := t.dome }
  journals : t.dome.journals = s.dome.journals
  held : t.dome.heldWrites = s.dome.heldWrites
  pinned : ∀ i, tablesPinned t i = tablesPinned s i

theorem WriteFrame.refl (s : State) : WriteFrame s s := ⟨rfl, rfl, rfl, fun _ => rfl⟩

theorem WriteFrame.trans {s t u : State} (hst : WriteFrame s t) (htu : WriteFrame t u) : WriteFrame s u where
  frame := by rw [htu.frame, hst.frame]
  journals := htu.journals.trans hst.journals
  held := htu.held.trans hst.held
  pinned i := (htu.pinned i).trans (hst.pinned i)

theorem WriteFrame.mif {s t : State} (h : WriteFrame s t) : t.mif = s.mif := by rw [h.frame]

theorem WriteFrame.regs {s t : State} (h : WriteFrame s t) : t.regs = s.regs := by rw [h.frame]

/-- No journal and no bank is being copied, no write waits, and every table has room for one more version. -/
structure NothingHolds (s : State) : Prop where
  journals : s.dome.journals = []
  copying : s.mif.copying = []
  held : s.dome.heldWrites = []
  pinned : ∀ i, (tablesPinned s i).length < 4

theorem NothingHolds.of_frame {s t : State} (hn : NothingHolds s) (h : WriteFrame s t) : NothingHolds t where
  journals := h.journals.trans hn.journals
  copying := by rw [h.mif, hn.copying]
  held := h.held.trans hn.held
  pinned i := by rw [h.pinned]; exact hn.pinned i

/-! ### Groups that the write aborts -/

/-- Ops that keep their tables and are completed as before pin the same versions. -/
theorem tablesPinned_map {s t : State} {f : Op → Op} (hf : ∀ o, (f o).completed = o.completed ∧ (f o).table = o.table)
    (ht : t.ops = s.ops.map f) (i : Nat) : tablesPinned t i = tablesPinned s i := by
  rw [tablesPinned, tablesPinned, ht, List.filterMap_map]
  congr 2
  funext o
  obtain ⟨hcompleted, htable⟩ := hf o
  simp only [Function.comp, hcompleted, htable]

/-- An op as the abort of a group leaves it. -/
def cutByGroup (num : Nat) (closer : Option Nat) (o : Op) : Op :=
  if o.hdr.txn == num && !o.isDone && some o.id != closer then { o with phase := .done .aborted, reqs := [], owed := [] } else o

theorem cutByGroup_table (num : Nat) (closer : Option Nat) (o : Op) :
    (cutByGroup num closer o).completed = o.completed ∧ (cutByGroup num closer o).table = o.table := by
  unfold cutByGroup
  split <;> exact ⟨rfl, rfl⟩

/-- An abort ends ops and discards staged bytes; no op loses its table by it. -/
theorem abortTxn_writeFrame (s : State) (num : Nat) (st : Status) :
    WriteFrame s (abortTxn s num st) ∧ (abortTxn s num st).mem = s.mem := by
  unfold abortTxn
  split
  case h_1 t _ =>
    have hpinned : ∀ u : State, u.ops = s.ops.map (cutByGroup num t.closer) → ∀ i, tablesPinned u i = tablesPinned s i :=
      fun u hu => tablesPinned_map (cutByGroup_table num t.closer) hu
    split
    · exact ⟨.refl s, rfl⟩
    · dsimp only
      split <;> exact ⟨⟨rfl, rfl, rfl, hpinned _ rfl⟩, rfl⟩
  case h_2 => exact ⟨.refl s, rfl⟩

theorem plainConflicts_writeFrame (s : State) (a n : Nat) :
    WriteFrame s (plainConflicts s a n) ∧ (plainConflicts s a n).mem = s.mem := by
  unfold plainConflicts
  refine List.foldlRecOn _ _ (motive := fun t => WriteFrame s t ∧ t.mem = s.mem) ⟨.refl s, rfl⟩ ?_
  rintro t ⟨hframe, hmem⟩ x -
  obtain ⟨hstep, hkeep⟩ := abortTxn_writeFrame t x.num .conflict
  exact ⟨hframe.trans hstep, hkeep.trans hmem⟩

/-! ### The parts of the write -/

/-- A swap of the directory touches no more than the superseded versions and the sketches. -/
theorem DirMoveFrame.writeFrame {s t : State} (h : DirMoveFrame s t) : WriteFrame s t ∧ t.mem = s.mem := by
  obtain ⟨_, _, rfl, -⟩ := h
  exact ⟨⟨rfl, rfl, rfl, fun _ => rfl⟩, rfl⟩

theorem partWaits_of_nothingHolds {s : State} (h : NothingHolds s) (a : Nat) (bs : List Byte) : partWaits s a bs = false := by
  have hroom : ∀ new ids, dirFull s new ids = false := fun new ids => List.any_eq_false.mpr fun i _ => by
    have hfew := (List.length_filter_le (· != dirEntry new i) _).trans_lt (h.pinned i)
    simpa using hfew
  simp [partWaits, journalHolds, bankCopies, h.journals, h.copying, h.held, hroom]

theorem plainPart_lands {s : State} (h : NothingHolds s) (p : Nat × List Byte) :
    WriteFrame s (plainPart false s p) ∧ (plainPart false s p).mem = s.mem.putBytes p.1 p.2 := by
  have happly : WriteFrame s (applyBytes s p.1 p.2) := ⟨rfl, rfl, rfl, fun _ => rfl⟩
  obtain ⟨hswap, hmem⟩ := (dirSwap_frame s (applyBytes s p.1 p.2) (dirIds s (offsetsOf p.1 p.2.length))).writeFrame
  rw [plainPart, partWaits_of_nothingHolds h, if_neg Bool.false_ne_true]
  exact ⟨happly.trans hswap, hmem⟩

theorem plainParts_land : ∀ (l : List (Nat × List Byte)) {s : State}, NothingHolds s →
    WriteFrame s (l.foldl (plainPart false) s) ∧
      (l.foldl (plainPart false) s).mem = l.foldl (fun m p => m.putBytes p.1 p.2) s.mem
  | [], s, _ => ⟨.refl s, rfl⟩
  | p :: l, s, h => by
    obtain ⟨hhead, hmem⟩ := plainPart_lands h p
    obtain ⟨htail, hrest⟩ := plainParts_land l (h.of_frame hhead)
    rw [List.foldl_cons, List.foldl_cons, ← hmem]
    exact ⟨hhead.trans htail, hrest⟩

theorem plainWrite_lands {s : State} (h : NothingHolds s) (a : Nat) (bs : List Byte) :
    WriteFrame s (plainWrite s a bs) ∧ (plainWrite s a bs).mem = s.mem.putBytes a bs := by
  obtain ⟨hcut, hkeep⟩ := plainConflicts_writeFrame s a bs.length
  obtain ⟨hland, hmem⟩ := plainParts_land (grainParts a bs) (h.of_frame hcut)
  rw [putBytes_grainParts, hkeep] at hmem
  exact ⟨hcut.trans hland, hmem⟩

end Sys2Proof.Machine
end


section
/-! PROOFS. The host's accesses (spec/11 R287, R289, R290, spec/13 R324): BAR0 accesses of another shape, and BAR2 reads and writes
served, refused, failed and waiting. O36 holds. -/

namespace Sys2Proof.Machine

/-! ### Counters -/

/-- A counter counts from what it held, whatever else has changed since. -/
theorem regGet_regCount {s u : State} (hs : Sound s = true) (hu : u.regs = s.regs) (off n : Nat) :
    (regGet (regCount u off n) off).toNat = satAdd32 (regGet s off).toNat n := by
  have hget : regGet u off = regGet s off := congrArg (tabGet regReset · off) hu
  have hput : regGet (regCount u off n) off = BitVec.ofNat 32 (satAdd32 (regGet u off).toNat n) :=
    (tabGet_tabPut off _ off (hu ▸ regs_wf_of_sound hs)).trans (if_pos rfl)
  have hsat : satAdd32 (regGet s off).toNat n < 2 ^ 32 := by
    unfold satAdd32
    omega
  rw [hput, hget, BitVec.toNat_ofNat, Nat.mod_eq_of_lt hsat]

/-! ### BAR0 -/

theorem exec_bar0BadAccess (write : Bool) (s : State) : exec (.bar0BadAccess write) s = .next
    (if write || s.fin.pinsTaken || s.flt.sealed then s
      else { s with fin := { s.fin with unsupported := s.fin.unsupported + 1 } }) := rfl

/-! ### An access that BAR2 takes -/

theorem bar2Serves_iff (s : State) : bar2Serves s = true ↔ s.fin.pinsTaken = false ∧ s.flt.sealed = false := by
  simp [bar2Serves]

theorem exec_bar2Read {s : State} (hp : s.fin.pinsTaken = false) (hs : s.flt.sealed = false) (a n : Nat) :
    exec (.bar2Read a n) s = .next (bar2Take s (bar2Offset s a, none, n)) :=
  congrArg Host.Outcome.next (if_pos ((bar2Serves_iff s).mpr ⟨hp, hs⟩))

theorem exec_bar2Write {s : State} (hp : s.fin.pinsTaken = false) (hs : s.flt.sealed = false) (a : Nat) (bs : List Byte) :
    exec (.bar2Write a bs) s = .next (bar2Take s (bar2Offset s a, some bs, bs.length)) :=
  congrArg Host.Outcome.next (if_pos ((bar2Serves_iff s).mpr ⟨hp, hs⟩))

theorem exec_bar2_of_closed {s : State} (h : s.fin.pinsTaken = true ∨ s.flt.sealed = true) (a n : Nat) (bs : List Byte) :
    exec (.bar2Read a n) s = .next s ∧ exec (.bar2Write a bs) s = .next s := by
  have hno : ¬ bar2Serves s = true := by
    rw [bar2Serves_iff]
    rintro ⟨hp, hs⟩
    simp [hp, hs] at h
  exact ⟨congrArg Host.Outcome.next (if_neg hno), congrArg Host.Outcome.next (if_neg hno)⟩

/-- The state with other host accesses that wait. -/
def withBar2Waits (s : State) (ws : List (Nat × Option (List Byte) × Nat)) : State :=
  { s with mif := { s.mif with bar2Waits := ws } }

theorem withBar2Waits_self {s : State} (h : s.mif.bar2Waits = []) : withBar2Waits s [] = s := by rw [withBar2Waits, ← h]

theorem bar2Copies_withBar2Waits (s : State) (ws x : _) : bar2Copies (withBar2Waits s ws) x = bar2Copies s x := by
  obtain ⟨o, data, n⟩ := x
  cases data <;> rfl

/-- An access that finds none before it comes down to the first of those that wait. -/
theorem bar2Take_of_first {s : State} (h : s.mif.bar2Waits = []) (x : Nat × Option (List Byte) × Nat) :
    bar2Take s x = if bar2Copies s x then withBar2Waits s [x] else bar2Access s x := by
  have hfirst : bar2Take s x = bar2Serve 1 (withBar2Waits s [x]) := by
    simp only [bar2Take, h, List.length_nil, List.nil_append, Nat.zero_add]
    rfl
  have hserve : bar2Serve 1 (withBar2Waits s [x]) =
      if bar2Copies (withBar2Waits s [x]) x then withBar2Waits s [x] else bar2Access (withBar2Waits s []) x := rfl
  rw [hfirst, hserve, bar2Copies_withBar2Waits, withBar2Waits_self h]

theorem bar2Take_of_free {s : State} {x : Nat × Option (List Byte) × Nat} (h : Bar2Free s x) : bar2Take s x = bar2Access s x := by
  obtain ⟨hnone, hcopy⟩ := h
  rw [bar2Take_of_first hnone, hcopy, if_neg Bool.false_ne_true]

theorem bar2Access_read_of_good {s : State} {o n : Nat} (h : failedIn s .bar2Read o n = []) :
    bar2Access s (o, none, n) = bar2Read (replaysEnd s .bar2Read o n) o n := by
  simp only [bar2Access, bar2ReadGrains, h]

theorem bar2Access_write_of_good {s : State} {o : Nat} {bs : List Byte} (h : failedIn s .bar2Write o bs.length = []) :
    bar2Access s (o, some bs, bs.length) = bar2Write (replaysEnd s .bar2Write o bs.length) o bs := by
  simp only [bar2Access, bar2WriteGrains, h]

theorem bar2Access_read_of_failed {s : State} {o n x : Nat} (h : failedIn s .bar2Read o n = [x]) :
    bar2Access s (o, none, n) = bar2Answer (accessFail (replaySet s .bar2Read x 0) 0x02 x) none := by
  simp only [bar2Access, bar2ReadGrains, h]
  rfl

/-! ### Reads -/

/-- What the aperture reaches does not depend on replays. -/
theorem bar2Ok_replaysEnd (s : State) (who : Accessor) (a m o n : Nat) : bar2Ok (replaysEnd s who a m) o n = bar2Ok s o n := rfl

theorem meetsView_replaysEnd (s : State) (who : Accessor) (a m o n : Nat) :
    meetsView (replaysEnd s who a m) o n = meetsView s o n := rfl

theorem sealed_of_bar2Ok {s : State} {o n : Nat} (h : bar2Ok s o n = true) : s.flt.sealed = false := by
  simp only [bar2Ok, Bool.and_eq_true, Bool.not_eq_true'] at h
  obtain ⟨⟨⟨hsealed, -⟩, -⟩, -⟩ := h
  exact hsealed

/-- The replays of another accessor go on. -/
theorem mem_replaysEnd {s : State} {who : Accessor} {x : Accessor × Nat × Nat} (hx : x ∈ s.mif.replays) (hne : x.1 ≠ who)
    (a n : Nat) : x ∈ (replaysEnd s who a n).mif.replays :=
  List.mem_filter.mpr ⟨hx, by simp [hne]⟩

/-- Committed bytes of a range, a view's from its current slot. -/
def bytesServed (s : State) (o n : Nat) : List Byte := (List.range n).map fun i => committedByte s (servedAt s none (o + i))

theorem bar2Read_of_ok {s : State} {o n : Nat} (h : bar2Ok s o n = true) :
    ∃ cs, bar2Read s o n = bar2Answer (withChannels s cs) (some (bytesServed s o n)) := by
  obtain ⟨cs, hcs⟩ := requestRange_frame s o n
  refine ⟨cs, ?_⟩
  rw [bar2Read, if_pos h, touchRange, hcs]
  rfl

theorem bar2Read_of_gap {s : State} {o n : Nat} (h : bar2Ok s o n = false) :
    bar2Read s o n = bar2Answer (regCount s 0x100104 1) none := by
  rw [bar2Read, h, if_neg Bool.false_ne_true]

theorem perm_insertBy {α : Type} (le : α → α → Bool) (x : α) : ∀ l : List α, (List.insertBy le x l).Perm (x :: l)
  | [] => .refl _
  | y :: l => by
    rw [List.insertBy]
    split
    · exact .refl _
    · exact ((perm_insertBy le x l).cons y).trans (.swap x y l)

theorem perm_sortBy {α : Type} (le : α → α → Bool) : ∀ l : List α, (l.sortBy le).Perm l
  | [] => .refl _
  | x :: l => (perm_insertBy le x _).trans ((perm_sortBy le l).cons x)

/-- Failed grains are offsets of replays that have come to 3. -/
theorem mem_failedIn {s : State} {who : Accessor} {a n g : Nat} : g ∈ failedIn s who a n ↔
    ∃ c, (who, g, c) ∈ s.mif.replays ∧ 3 ≤ c ∧ g < a + n ∧ a < g + 64 := by
  rw [failedIn, (perm_sortBy _ _).mem_iff]
  simp only [List.mem_map, List.mem_filter, Bool.and_eq_true, beq_iff_eq, decide_eq_true_eq, ge_iff_le]
  constructor
  · rintro ⟨⟨w, g, c⟩, ⟨hmem, ⟨⟨rfl, hc⟩, hlo⟩, hhi⟩, rfl⟩
    exact ⟨c, hmem, hc, hlo, hhi⟩
  · rintro ⟨c, hmem, hc, hlo, hhi⟩
    exact ⟨_, ⟨hmem, ⟨⟨rfl, hc⟩, hlo⟩, hhi⟩, rfl⟩

/-- The one grain that had failed is forgotten with its access (spec/11 R442). -/
theorem failedIn_of_forgotten {s t : State} {who : Accessor} {a n x : Nat} (h : failedIn s who a n = [x])
    (ht : t.mif.replays = (replaySet s who x 0).mif.replays) : failedIn t who a n = [] := by
  refine List.eq_nil_iff_forall_not_mem.mpr fun g hg => ?_
  obtain ⟨c, hmem, hfailed⟩ := mem_failedIn.mp hg
  rw [ht] at hmem
  obtain ⟨hin, hkept⟩ := List.mem_filter.mp hmem
  have hx : g ∈ failedIn s who a n := mem_failedIn.mpr ⟨c, hin, hfailed⟩
  rw [h, List.mem_singleton] at hx
  simp [hx] at hkept

/-! ### Writes -/

/-- A write into a gap or a view is dropped, and counted. -/
theorem bar2Write_of_dropped {s : State} {o : Nat} {bs : List Byte} (h : bar2Ok s o bs.length = false ∨ meetsView s o bs.length = true) :
    bar2Write s o bs = regCount s 0x100104 1 := by
  rw [bar2Write, if_pos (by simpa using h)]

/-- The bytes written read back. -/
theorem Memory.getBytes_putBytes_all {m : Memory} (h : m.wf = true) (a : Nat) (bs : List Byte) :
    (m.putBytes a bs).getBytes a bs.length = bs := by
  have hread := Memory.getBytes_putBytes h a (Nat.zero_add bs.length).le
  rwa [Nat.add_zero, List.drop_zero, List.take_length] at hread

theorem NothingHolds.withChannels {s : State} (h : NothingHolds s) (cs : Tab Channel) : NothingHolds (withChannels s cs) :=
  ⟨h.journals, h.copying, h.held, h.pinned⟩

theorem bar2Write_lands {s : State} {o : Nat} {bs : List Byte} (hok : bar2Ok s o bs.length = true)
    (hview : meetsView s o bs.length = false) (h : NothingHolds s) :
    (bar2Write s o bs).mem = s.mem.putBytes o bs ∧ (bar2Write s o bs).regs = s.regs := by
  rw [bar2Write, if_neg (by simp [hok, hview])]
  split
  · exact ⟨rfl, rfl⟩
  · obtain ⟨cs, hcs⟩ := requestRange_frame s o bs.length
    obtain ⟨hframe, hmem⟩ := plainWrite_lands (h.withChannels cs) o bs
    rw [touchRange, hcs]
    exact ⟨hmem, hframe.regs⟩

/-- Settles O36: an access comes down to its read or write at the device offset, whose cases are those above. -/
theorem hostAccess : Obligations.HostAccess := by
  unfold Obligations.HostAccess
  refine ⟨?bad, ?dropped, ?closed, ?read, ?gap, ?failed, ?lands, ?waits, ?refused⟩
  case bad =>
    intro s hp hs
    rw [exec_bar0BadAccess, hp, hs]
    rfl
  case dropped => exact fun s => rfl
  case closed =>
    intro s h
    refine ⟨?_, fun a n bs => exec_bar2_of_closed h a n bs⟩
    rw [exec_bar0BadAccess, if_pos (by simpa using h)]
  case read =>
    intro s a n hp hfree hgood hok
    obtain ⟨cs, hread⟩ := bar2Read_of_ok ((bar2Ok_replaysEnd s .bar2Read (bar2Offset s a) n _ _).trans hok)
    refine ⟨_, bytesServed s (bar2Offset s a) n, exec_bar2Read hp (sealed_of_bar2Ok hok) a n, ?_⟩
    rw [bar2Take_of_free hfree, bar2Access_read_of_good hgood, hread]
    refine ⟨rfl, rfl, by simp [bytesServed], fun x hx hne => mem_replaysEnd hx hne _ _, fun i hi => ?_⟩
    simp [bytesServed, hi]
  case gap =>
    intro s a n hs hp hsealed hfree hgood hno
    refine ⟨_, exec_bar2Read hp hsealed a n, ?_⟩
    rw [bar2Take_of_free hfree, bar2Access_read_of_good hgood,
      bar2Read_of_gap ((bar2Ok_replaysEnd s .bar2Read _ _ _ _).trans hno)]
    exact ⟨rfl, regGet_regCount hs rfl 0x100104 1, rfl⟩
  case failed =>
    intro s a n x hp hsealed hfree hbad
    refine ⟨_, exec_bar2Read hp hsealed a n, ?_⟩
    rw [bar2Take_of_free hfree, bar2Access_read_of_failed hbad]
    exact ⟨rfl, rfl, failedIn_of_forgotten hbad rfl⟩
  case lands =>
    intro s a bs hs hp hwaits hgood hok hview hjournals hcopying hheld hpinned
    have hfree : Bar2Free s (bar2Offset s a, some bs, bs.length) := ⟨hwaits, by simp [bar2Copies, bankCopies, hcopying]⟩
    obtain ⟨hmem, hregs⟩ := bar2Write_lands ((bar2Ok_replaysEnd s .bar2Write (bar2Offset s a) bs.length _ _).trans hok)
      ((meetsView_replaysEnd s .bar2Write _ _ _ _).trans hview) ⟨hjournals, hcopying, hheld, hpinned⟩
    have hwf := mem_wf_of_sound hs
    refine ⟨_, exec_bar2Write hp (sealed_of_bar2Ok hok) a bs, ?_⟩
    rw [bar2Take_of_free hfree, bar2Access_write_of_good hgood, hmem, hregs]
    exact ⟨Memory.getBytes_putBytes_all hwf _ bs,
      fun x hx => Memory.get_putBytes_outside hwf hx, rfl⟩
  case waits =>
    intro s a n hp hsealed hnone hcopy
    rw [exec_bar2Read hp hsealed, bar2Take_of_first hnone, if_pos hcopy]
    rfl
  case refused =>
    intro s a bs hs hp hsealed hfree hgood hno
    refine ⟨_, exec_bar2Write hp hsealed a bs, ?_⟩
    rw [bar2Take_of_free hfree, bar2Access_write_of_good hgood,
      bar2Write_of_dropped (by rwa [bar2Ok_replaysEnd, meetsView_replaysEnd])]
    exact ⟨rfl, regGet_regCount hs rfl 0x100104 1⟩

end Sys2Proof.Machine
end


section
/-! PROOFS. Reads of the host window (spec/11 R287, R291, spec/13 R341, R344, R345): a word that arrives for a WAIT, a read that
fails, one for an op that is over, and one of a ring's record. O37 holds. -/

namespace Sys2Proof.Machine

/-! ### Rounds in which the one op does nothing -/

/-- An op that has begun and that does nothing by itself. -/
structure Still (o : Op) : Prop where
  begun : o.phase ≠ .waiting
  goes : o.isActive = true → ∀ u, opGo u o = u

theorem still_of_done {o : Op} {st : Status} (h : o.phase = .done st) : Still o where
  begun := by rw [h]; nofun
  goes hact := by simp [Op.isActive, h] at hact

/-- A WAIT is tested when something happens to its word, and does nothing between. -/
theorem opGo_of_wait {o : Op} {b : WaitBody} (hb : o.body = .wait b) (u : State) : opGo u o = u := by
  have hrecs : recMissing u o = none := by
    simp [recMissing, opRecords, groupRecords, opGroup, hb]
  have hmoves : movesData o.body = false := by rw [hb]; rfl
  have hwork : opWork u o = u := by simp only [opWork, hb]
  simp only [opGo, hrecs, ite_self, hmoves, Bool.not_false, Bool.true_or, if_true, hwork]

theorem still_of_wait {o : Op} {b : WaitBody} (hact : o.phase = .active) (hb : o.body = .wait b) : Still o where
  begun := by rw [hact]; nofun
  goes _ := opGo_of_wait hb

/-- A round then only clears the queues of dead tiles. -/
theorem wake_of_still {s : State} {o : Op} (ho : OnlyOp s o) (hst : Still o) : wake s = purgeJobs s := by
  obtain ⟨hops, hfree, hheld⟩ := ho
  obtain ⟨bs, hbs⟩ := purgeJobs_frame s
  have hpurged : OnlyOp (purgeJobs s) o := by rw [hbs]; exact ⟨hops, hfree, hheld⟩
  obtain ⟨hops', hfree', hheld'⟩ := hpurged
  have hgo : wakeOne (purgeJobs s) o.id = purgeJobs s := by
    simp only [wakeOne, opById_only hops']
    split
    · exact hst.goes ‹_› _
    · rfl
  simp only [wake, freeComparators_of_none hfree', hops', List.foldl_cons, List.foldl_nil, startOne_of_begun hops' hst.begun, hgo,
    pump_of_none_held hheld']

theorem settle_of_still {s : State} {o : Op} (ho : OnlyOp s o) (hst : Still o) : ∃ bs, settle s = withBelfries s bs := by
  obtain ⟨bs, hbs⟩ := purgeJobs_frame s
  obtain ⟨cs, hcs⟩ := purgeJobs_frame (purgeJobs s)
  have hpurged : OnlyOp (purgeJobs s) o := by rw [hbs]; exact ho
  refine ⟨cs, ?_⟩
  rw [settle, wake_of_still ho hst, wake_of_still hpurged hst, hcs, hbs]
  rfl

/-! ### A word that has arrived -/

/-- A host-window range has no channel to wake. -/
theorem touchRange_of_window {a : Nat} (h : regionOf a = .hostWindow) (s : State) (n : Nat) : touchRange s a n = s := by
  have hnone : rangeChannels s a n = [] := if_neg (by rw [h]; nofun)
  simp only [touchRange, requestRange, hnone, List.foldl_nil]

/-- Bytes listed in order from an offset are found at their place. -/
theorem find?_mapIdx_place {bs : List Byte} {a i : Nat} (hi : i < bs.length) :
    (bs.mapIdx fun j x => (a + j, x)).find? (fun c => c.1 == a + i) = some (a + i, bs[i]) := by
  induction bs generalizing a i with
  | nil => exact absurd hi (Nat.not_lt_zero i)
  | cons x bs ih =>
    rw [List.mapIdx_cons, List.find?_cons]
    cases i with
    | zero => simp
    | succ i =>
      have hshift : (fun j (y : Byte) => (a + (j + 1), y)) = fun j y => (a + 1 + j, y) := by
        funext j y
        rw [Nat.add_assoc, Nat.add_comm 1 j]
      have hplace : a + (i + 1) = a + 1 + i := by omega
      have hne : (a + 0 == a + 1 + i) = false := beq_eq_false_iff_ne.mpr (by omega)
      have hlt : i < bs.length := by simpa using hi
      simp only [hshift, hplace, hne, List.getElem_cons_succ]
      exact ih hlt

/-- A word aligned in the host window lies in it whole. -/
theorem regionOf_word {a i : Nat} (h : regionOf a = .hostWindow) (halign : a % 8 = 0) (hi : i < 8) :
    regionOf (a + i) = .hostWindow := by
  have hin := (regionOf_eq_iff (r := .hostWindow) nofun a).mp h
  refine (regionOf_eq_iff (r := .hostWindow) nofun _).mpr ?_
  simp only [InRegion, hwinBase] at hin ⊢
  omega

/-- The word is read from the grain that came, and no test of a partition or of the window's base is made again. -/
theorem opRead_of_grain {s : State} {q : Op} {x : Nat} {bs : List Byte} (hregion : regionOf (addrOff x) = .hostWindow)
    (halign : addrOff x % 8 = 0) (hlen : bs.length = 64)
    (hbuf : q.hostBuf = bs.mapIdx fun i y => (addrOff x / 64 * 64 + i, y)) :
    opRead s q x 8 = .ok ((bs.drop (addrOff x % 64)).take 8) := by
  have hbyte : ∀ i ∈ List.range 8, opReadByte s q (addrOff x + i) = .ok ((bs[addrOff x % 64 + i]?).getD 0) := by
    intro i hi
    have hlt := List.mem_range.mp hi
    have hin : addrOff x % 64 + i < bs.length := by omega
    have hplace : addrOff x + i = addrOff x / 64 * 64 + (addrOff x % 64 + i) := by omega
    have hfind := find?_mapIdx_place (a := addrOff x / 64 * 64) hin
    rw [opReadByte, if_pos (regionOf_word hregion halign hlt), hbuf, hplace, hfind, List.getElem?_eq_getElem hin]
    rfl
  rw [opRead, collect_ok hbyte]
  refine congrArg _ (List.ext_getElem (by simp; omega) fun i hi _ => ?_)
  have hlt : i < 8 := by simpa using hi
  have hin : addrOff x % 64 + i < bs.length := by omega
  simp [hin]

/-- A WAIT whose grain has come is tested on its word, at no cost of tokens. -/
theorem waitTest_of_grain {s : State} {q : Op} {b : WaitBody} {bs : List Byte} (hregion : regionOf (addrOff b.addr) = .hostWindow)
    (halign : addrOff b.addr % 8 = 0) (hlen : bs.length = 64)
    (hbuf : q.hostBuf = bs.mapIdx fun i y => (addrOff b.addr / 64 * 64 + i, y)) :
    waitTest s q b = if waitMet b (fieldAt bs (addrOff b.addr % 64) 8) then opDone s q.id .ok
      else opUpdate s q.id fun o => { o with hostBuf := [] } := by
  have hfull : q.hostBuf.isEmpty = false := by
    rw [hbuf, List.isEmpty_eq_false_iff, ← List.length_pos_iff, List.length_mapIdx, hlen]
    decide
  have hpaid : payNow s (waitBursts s q b) = some s := by
    rw [waitBursts, hfull, if_neg Bool.false_ne_true]
    rfl
  simp only [waitTest, touchRange_of_window hregion, hpaid, opRead_of_grain hregion halign hlen hbuf]
  rfl

/-! ### A read that is answered -/

theorem find?_reads {s : State} {r : HostRead} (h : s.hif.reads = [r]) : s.hif.reads.find? (fun x => x.tag == r.tag) = some r := by
  simp [h]

theorem reads_dropRead {s : State} {r : HostRead} (h : s.hif.reads = [r]) : (dropRead s r.tag).hif.reads = [] := by
  simp [dropRead, h]

theorem find?_reads_none {s : State} {tag : Nat} (h : ∀ r ∈ s.hif.reads, r.tag ≠ tag) :
    s.hif.reads.find? (fun x => x.tag == tag) = none :=
  List.find?_eq_none.mpr fun r hr => by simpa using h r hr

theorem exec_hostWindowCompletion (tag : Nat) (ok : Bool) (bs : List Byte) (s : State) :
    exec (.hostWindowCompletion tag ok bs) s = .next (if ok then hostReadDone s tag bs else hostReadFail s tag) := rfl

theorem exec_pcieCompletionTimeout (tag : Nat) (s : State) : exec (.pcieCompletionTimeout tag) s = .next (hostReadFail s tag) := rfl

/-- A device with bytes of the host written at their place in a window. -/
theorem hostHolds_frame (s : State) (w : Option Nat) (a : Nat) (bs : List Byte) : ∃ m, hostHolds s w a bs = { s with host := m } := by
  cases w
  · exact ⟨s.host, rfl⟩
  · exact ⟨_, rfl⟩

/-- The op as the bytes of a read leave it: they are at hand, and are awaited no longer. -/
def withGrain (o : Op) (a : Nat) (bs : List Byte) : Op :=
  { o with hostBuf := o.hostBuf ++ bs.mapIdx fun i x => (a + i, x), reqs := o.reqs.filter fun q => q.await != .hostRead a }

/-- The device with that op, and the read over. -/
def grainCame (s : State) (o : Op) (r : HostRead) (bs : List Byte) : State :=
  opUpdate (hostHolds (dropRead s r.tag) o.hwin r.a bs) o.id fun o => withGrain o r.a bs

theorem grainCame_frame {s : State} {o : Op} {r : HostRead} (hops : s.ops = [o]) (hr : s.hif.reads = [r]) (bs : List Byte) :
    ∃ m, grainCame s o r bs = { s with host := m, hif := { s.hif with reads := [] }, ops := [withGrain o r.a bs] } := by
  obtain ⟨m, hm⟩ := hostHolds_frame (dropRead s r.tag) o.hwin r.a bs
  refine ⟨m, ?_⟩
  rw [grainCame, hm, opUpdate_only_eq (by exact hops), dropRead]
  simp [hr]

theorem hostReadDone_of_wait {s : State} {o : Op} {b : WaitBody} {r : HostRead} {bs : List Byte} (hops : s.ops = [o])
    (hact : o.phase = .active) (hb : o.body = .wait b) (hop : r.op = o.id) (hring : r.ring = none) (hr : s.hif.reads = [r]) :
    hostReadDone s r.tag bs = settle (waitTest (grainCame s o r bs) (withGrain o r.a bs) b) := by
  obtain ⟨m, hm⟩ := grainCame_frame hops hr bs
  have hrun : o.isActive = true := by simp [Op.isActive, hact]
  have hfind : opById (grainCame s o r bs) o.id = some (withGrain o r.a bs) := by
    rw [hm]
    exact opById_only (o := withGrain o r.a bs) rfl
  have hbody : (withGrain o r.a bs).body = .wait b := hb
  have hbefore : opById (dropRead s r.tag) o.id = some o := opById_only (s := dropRead s r.tag) hops
  simp only [hostReadDone, find?_reads hr, hring, hop, hbefore, hrun, if_true]
  change (match opById (grainCame s o r bs) o.id with | some o => _ | none => _) = _
  rw [hfind]
  simp only [hbody]
  rfl

/-- The word that came is compared: the WAIT ends OK, or goes on as it was. -/
theorem hostWindowCompletion_of_wait {s : State} {o : Op} {b : WaitBody} {r : HostRead} {bs : List Byte} (ho : OnlyOp s o)
    (hact : o.phase = .active) (hb : o.body = .wait b) (hop : r.op = o.id) (hring : r.ring = none) (hr : s.hif.reads = [r])
    (hplace : r.a = addrOff b.addr / 64 * 64) (hlen : bs.length = 64) (hregion : regionOf (addrOff b.addr) = .hostWindow)
    (halign : addrOff b.addr % 8 = 0) (hbuf : o.hostBuf = []) :
    ∃ t p, exec (.hostWindowCompletion r.tag true bs) s = .next t ∧ t.ops = [p] ∧ p.id = o.id ∧ t.hif.reads = [] ∧
      p.phase = (if waitMet b (fieldAt bs (addrOff b.addr % 64) 8) then .done .ok else .active) ∧ t.mem = s.mem ∧
      t.regs = s.regs := by
  obtain ⟨hops, hfree, hheld⟩ := ho
  obtain ⟨m, hm⟩ := grainCame_frame hops hr bs
  have hgrain : (withGrain o r.a bs).hostBuf = bs.mapIdx fun i y => (addrOff b.addr / 64 * 64 + i, y) := by
    rw [withGrain, hbuf, hplace, List.nil_append]
  have hcame : (grainCame s o r bs).ops = [withGrain o r.a bs] := by rw [hm]
  have htest := waitTest_of_grain (s := grainCame s o r bs) hregion halign hlen hgrain
  rw [exec_hostWindowCompletion, if_pos rfl, hostReadDone_of_wait hops hact hb hop hring hr, htest]
  by_cases hmet : waitMet b (fieldAt bs (addrOff b.addr % 64) 8) = true
  · have hdone := opDone_only hcame rfl hact .ok
    have honly : OnlyOp (opDone (grainCame s o r bs) (withGrain o r.a bs).id .ok) (doneOp (withGrain o r.a bs) .ok) := by
      rw [hdone, hm]
      exact ⟨rfl, hfree, hheld⟩
    obtain ⟨cs, hcs⟩ := settle_of_still honly (still_of_done rfl)
    rw [if_pos hmet, if_pos hmet, hcs, hdone, hm]
    exact ⟨_, _, rfl, rfl, rfl, rfl, rfl, rfl, rfl⟩
  · have hstays := opUpdate_only_eq hcame fun q => { q with hostBuf := [] }
    have honly : OnlyOp (opUpdate (grainCame s o r bs) (withGrain o r.a bs).id fun q => { q with hostBuf := [] })
        { withGrain o r.a bs with hostBuf := [] } := by
      rw [hstays, hm]
      exact ⟨rfl, hfree, hheld⟩
    obtain ⟨cs, hcs⟩ := settle_of_still honly (still_of_wait hact hb)
    rw [if_neg hmet, if_neg hmet, hcs, hstays, hm]
    exact ⟨_, _, rfl, rfl, rfl, rfl, hact, rfl, rfl⟩

/-! ### A read that fails -/

/-- A fault raised waits for its record. -/
theorem waits_raiseFault (s : State) (die unit kind addr : Nat) : Waits (raiseFault s die unit kind addr) die unit kind := by
  simp only [Waits, raiseFault]
  split
  · rename_i hsome
    obtain ⟨x, hx, hsame⟩ := List.any_eq_true.mp hsome
    refine ⟨_, List.mem_map_of_mem hx, ?_⟩
    rw [if_pos hsame]
    simpa [and_assoc] using hsame
  · exact ⟨_, List.mem_append_right _ (List.mem_singleton_self _), rfl, rfl, rfl⟩

/-- The device with a failed read over, its fault recorded. -/
def readFailed (s : State) (r : HostRead) : State := raiseFault (dropRead s r.tag) 0 1 0x02 r.a

theorem hostReadFail_of_active {s : State} {o : Op} {r : HostRead} (hops : s.ops = [o]) (hact : o.phase = .active)
    (hop : r.op = o.id) (hring : r.ring = none) (hr : s.hif.reads = [r]) :
    hostReadFail s r.tag = settle (setHealth { readFailed s r with ops := [doneOp o .aborted] } 0) := by
  have hrun : o.isActive = true := by simp [Op.isActive, hact]
  have hbefore : opById (dropRead s r.tag) o.id = some o := opById_only (s := dropRead s r.tag) hops
  have hdone := opDone_only (s := readFailed s r) hops rfl hact .aborted
  simp only [hostReadFail, find?_reads hr, hring, hop, hbefore, hrun, if_true]
  rw [← hdone]
  rfl

/-- The op is abandoned, and the fault waits for its record. -/
theorem hostReadFail_ends {s : State} {o : Op} {r : HostRead} (ho : OnlyOp s o) (hact : o.phase = .active) (hop : r.op = o.id)
    (hring : r.ring = none) (hr : s.hif.reads = [r]) :
    Ended s (hostReadFail s r.tag) o .aborted ∧ (hostReadFail s r.tag).hif.reads = [] ∧
      Waits (hostReadFail s r.tag) 0 1 0x02 ∧ (hostReadFail s r.tag).mem = s.mem ∧ (hostReadFail s r.tag).regs = s.regs := by
  obtain ⟨hops, hfree, hheld⟩ := ho
  have honly : OnlyOp (setHealth { readFailed s r with ops := [doneOp o .aborted] } 0) (doneOp o .aborted) := ⟨rfl, hfree, hheld⟩
  obtain ⟨cs, hcs⟩ := settle_of_still honly (still_of_done rfl)
  rw [hostReadFail_of_active hops hact hop hring hr, hcs]
  refine ⟨?_, reads_dropRead hr, waits_raiseFault (dropRead s r.tag) 0 1 0x02 r.a, rfl, rfl⟩
  have hopen : o.isDone = false := by simp [Op.isDone, hact]
  rw [Ended, hops, List.map_singleton, if_pos ⟨rfl, hopen⟩]
  rfl

/-! ### A read of an op that is over -/

/-- Its bytes, or its failure, come late and are counted. -/
theorem hostRead_late {s : State} {r : HostRead} (hr : s.hif.reads = [r]) (hring : r.ring = none) (hops : s.ops = [])
    (bs : List Byte) :
    hostReadDone s r.tag bs = regCount (dropRead s r.tag) 0x100020 1 ∧
      hostReadFail s r.tag = regCount (dropRead s r.tag) 0x100020 1 := by
  have hgone : opById (dropRead s r.tag) r.op = none := by rw [opById, dropRead_ops, hops, List.find?_nil]
  simp only [hostReadDone, hostReadFail, find?_reads hr, hring, hgone, and_self]

/-! ### A read of a ring's record -/

theorem hifOk_of_sound {s : State} (hs : Sound s = true) : HifOk s.hif := by
  simp only [Sound, Bool.and_eq_true, decide_eq_true_eq] at hs
  obtain ⟨-, hhif, -⟩ := hs
  exact hhif

theorem ring_ringPut {s : State} (hs : Sound s = true) (k : Nat) (x : Ring) : ring (ringPut s k x) k = x := by
  obtain ⟨hrings, -⟩ := hifOk_of_sound hs
  exact (tabGet_tabPut k x k hrings).trans (if_pos rfl)

/-- A listed entry of a rewritten table is the one put or was listed before. -/
theorem mem_tabPut {α : Type} [DecidableEq α] {d : Nat → α} {k : Nat} {v : α} {x : Nat × α} :
    ∀ {t : Tab α}, x ∈ tabPut d t k v → x = (k, v) ∨ x ∈ t
  | [], h => by
    unfold tabPut at h
    split at h
    · exact nomatch h
    · exact .inl (List.mem_singleton.mp h)
  | (i, w) :: t, h => by
    unfold tabPut at h
    split at h
    · split at h
      · exact .inr (List.mem_cons_of_mem _ h)
      · exact (List.mem_cons.mp h).imp id (List.mem_cons_of_mem _)
    · split at h
      · split at h
        · exact .inr h
        · exact List.mem_cons.mp h
      · rcases List.mem_cons.mp h with rfl | h
        · exact .inr List.mem_cons_self
        · exact (mem_tabPut h).imp id (List.mem_cons_of_mem _)

/-- A device at rest stays so where one ring changes that holds nothing. -/
theorem noWork_ringPut {s : State} (h : NoWork s) (k : Nat) {x : Ring} (hx : x.held = []) : NoWork (ringPut s k x) := by
  obtain ⟨hops, hrel, hjobs, hheld⟩ := h
  refine ⟨hops, hrel, hjobs, fun y hy => ?_⟩
  rcases mem_tabPut hy with rfl | hy
  · exact hx
  · exact hheld y hy

theorem ring_dropRead (s : State) (tag k : Nat) : ring (dropRead s tag) k = ring s k := rfl

theorem sound_dropRead {s : State} (hs : Sound s = true) (tag : Nat) : Sound (dropRead s tag) = true :=
  (dropRead_kept (Kept.refl s false)).sound hs

/-- The device with a read over and the ring that it served changed. -/
def ringServed (s : State) (r : HostRead) (k : Nat) (f : Ring → Ring) : State :=
  ringPut (dropRead s r.tag) k (f (ring (dropRead s r.tag) k))

/-- That ring takes no part in acceptance: a device at rest stays so. -/
theorem ringServed_frame {s : State} {r : HostRead} {k : Nat} {f : Ring → Ring} (hs : Sound s = true) (h : NoWork s)
    (hr : s.hif.reads = [r]) (hf : ∀ x, (f x).held = x.held) :
    NoWork (ringServed s r k f) ∧ (ringServed s r k f).hif.reads = [] ∧ ring (ringServed s r k f) k = f (ring s k) ∧
      (ringServed s r k f).mem = s.mem ∧ (ringServed s r k f).regs = s.regs := by
  have hheld : (f (ring (dropRead s r.tag) k)).held = [] := by rw [hf, ring_dropRead, ring_held_of_noWork h]
  exact ⟨noWork_ringPut (s := dropRead s r.tag) h k hheld, reads_dropRead hr, ring_ringPut (sound_dropRead hs r.tag) k _, rfl, rfl⟩

/-- The bytes are kept for the ring's next descriptor. -/
theorem hostReadDone_of_ring {s : State} {r : HostRead} {k : Nat} (hs : Sound s = true) (h : NoWork s) (hr : s.hif.reads = [r])
    (hring : r.ring = some k) (bs : List Byte) :
    (hostReadDone s r.tag bs).hif.reads = [] ∧
      (ring (hostReadDone s r.tag bs) k).recBuf = (ring s k).recBuf ++ bs.mapIdx (fun i x => (r.a + i, x)) ∧
      (hostReadDone s r.tag bs).mem = s.mem ∧ (hostReadDone s r.tag bs).regs = s.regs := by
  obtain ⟨hrest, hreads, hserved, hmem, hregs⟩ := ringServed_frame (k := k)
    (f := fun x => { x with recBuf := x.recBuf ++ bs.mapIdx fun i y => (r.a + i, y) }) hs h hr fun _ => rfl
  have hdone : hostReadDone s r.tag bs = settle (hostHolds
      (ringServed s r k fun x => { x with recBuf := x.recBuf ++ bs.mapIdx fun i y => (r.a + i, y) })
      (hostWindow (dropRead s r.tag)) r.a bs) := by
    simp only [hostReadDone, find?_reads hr, hring]
    rfl
  rw [hdone]
  generalize ringServed s r k _ = u at hrest hreads hserved hmem hregs ⊢
  obtain ⟨m, hm⟩ := hostHolds_frame u (hostWindow (dropRead s r.tag)) r.a bs
  rw [hm, settle_of_noWork (s := { u with host := m }) hrest]
  exact ⟨hreads, congrArg Ring.recBuf hserved, hmem, hregs⟩

/-- The ring's next descriptor will find that its record could not be read. -/
theorem hostReadFail_of_ring {s : State} {r : HostRead} {k : Nat} (hs : Sound s = true) (h : NoWork s) (hr : s.hif.reads = [r])
    (hring : r.ring = some k) :
    (hostReadFail s r.tag).hif.reads = [] ∧ (ring (hostReadFail s r.tag) k).recFailed = true ∧
      Waits (hostReadFail s r.tag) 0 1 0x02 ∧ (hostReadFail s r.tag).mem = s.mem ∧ (hostReadFail s r.tag).regs = s.regs := by
  obtain ⟨hrest, hreads, hserved, hmem, hregs⟩ :=
    ringServed_frame (k := k) (f := fun x => { x with recFailed := true }) hs h hr fun _ => rfl
  have hfail : hostReadFail s r.tag =
      settle (setHealth (raiseFault (ringServed s r k fun x => { x with recFailed := true }) 0 1 0x02 r.a) 0) := by
    simp only [hostReadFail, find?_reads hr, hring]
    rfl
  rw [hfail]
  generalize ringServed s r k _ = u at hrest hreads hserved hmem hregs ⊢
  rw [settle_of_noWork (s := setHealth (raiseFault u 0 1 0x02 r.a) 0) hrest]
  exact ⟨hreads, congrArg Ring.recFailed hserved, waits_raiseFault u 0 1 0x02 r.a, hmem, hregs⟩

/-- Settles O37: what becomes of a read is its op's, its ring's or the late count's. -/
theorem hostWindowReads : Obligations.HostWindowReads := by
  unfold Obligations.HostWindowReads
  refine ⟨?word, ?fails, ?late, ?record, ?unknown⟩
  case word =>
    rintro s o b r bs _ ho hact hb hop hring hr hplace hlen hregion halign hbuf rfl
    exact hostWindowCompletion_of_wait ho hact hb hop hring hr hplace hlen hregion halign hbuf
  case fails =>
    intro s o r ho hact hop hring hr
    exact ⟨_, rfl, rfl, hostReadFail_ends ho hact hop hring hr⟩
  case late =>
    intro s r ok bs hs hr hring hops
    obtain ⟨hdone, hfail⟩ := hostRead_late hr hring hops bs
    refine ⟨_, exec_hostWindowCompletion r.tag ok bs s, ?_⟩
    rw [hdone, hfail, ite_self]
    exact ⟨reads_dropRead hr, rfl, regGet_regCount hs rfl 0x100020 1⟩
  case record =>
    intro s r k bs hs hrest hr hring
    obtain ⟨hreads, hbuf, hmem, hregs⟩ := hostReadDone_of_ring hs hrest hr hring bs
    exact ⟨_, _, rfl, hreads, hbuf, hmem, hregs, rfl, rfl, hostReadFail_of_ring hs hrest hr hring⟩
  case unknown =>
    intro s tag ok bs hnone
    have hfind := find?_reads_none hnone
    have hdone : hostReadDone s tag bs = s := by simp only [hostReadDone, hfind]
    have hfail : hostReadFail s tag = s := by simp only [hostReadFail, hfind]
    rw [exec_hostWindowCompletion, exec_pcieCompletionTimeout, hdone, hfail, ite_self]
    exact ⟨rfl, rfl⟩

end Sys2Proof.Machine
end

section
/-! PROOFS. What an event and a packet that is sent leave as they were (spec/12 R301 to R309, spec/13 R348): in flows and links they
change only what flits and acknowledgements are kept in, and of the registers only counters. -/

namespace Sys2Proof.Machine

/-! ### An event posted -/

/-- The counters that lost events, dropped packets, phase records not delivered and violations count up. -/
def tallies : List Nat := [0x100028, 0x400018, 0x800060, 0x800064, 0xA00060, 0xA00064]

theorem tally_reset {off : Nat} (h : off ∈ tallies) : regReset off = 0 :=
  (by decide +kernel : ∀ o ∈ tallies, regReset o = 0) off h

/-- A count of one or more is not what the counter holds at reset, so every other register reads as before in any table. -/
theorem regGet_regCount_of_tally {off : Nat} (h : off ∈ tallies) (s : State) {o : Nat} (ho : o ∉ tallies) :
    regGet (regCount s off 1) o = regGet s o := by
  have hne : BitVec.ofNat 32 (satAdd32 (regGet s off).toNat 1) ≠ regReset off := fun he => by
    have hzero := congrArg BitVec.toNat (he.trans (tally_reset h))
    rw [BitVec.toNat_ofNat, satAdd32, Nat.mod_eq_of_lt (by omega)] at hzero
    exact absurd (hzero.trans BitVec.toNat_zero) (by omega)
  rw [regCount, regGet_regPut_of_ne hne, if_neg fun he : o = off => ho (he ▸ h)]

theorem dropCounter_mem (l : Option Nat) : galBase (galleryOf (l.getD 0)) + 0x64 ∈ tallies := by
  unfold galBase
  split <;> decide

theorem violCounter_mem (g : Nat) : galBase g + 0x60 ∈ tallies := by
  unfold galBase
  split <;> decide

/-- From one state to the other events were posted: beyond draws, host memory, queues and counters nothing differs. -/
structure Told (s t : State) : Prop where
  rest : t = { s with draws := t.draws, regs := t.regs, host := t.host, hif := t.hif }
  rings : t.hif.rings = s.hif.rings
  regs : ∀ off, off ∉ tallies → regGet t off = regGet s off

theorem Told.refl (s : State) : Told s s := ⟨rfl, rfl, fun _ _ => rfl⟩

theorem Told.trans {s t u : State} (hst : Told s t) (htu : Told t u) : Told s u where
  rest := htu.rest.trans (by rw [hst.rest])
  rings := htu.rings.trans hst.rings
  regs off ho := (htu.regs off ho).trans (hst.regs off ho)

theorem Told.ite {s t u : State} {c : Prop} [Decidable c] (ht : Told s t) (hu : Told s u) : Told s (if c then t else u) := by
  split
  · exact ht
  · exact hu

theorem regCount_told {off : Nat} (h : off ∈ tallies) (s : State) : Told s (regCount s off 1) :=
  ⟨rfl, rfl, fun _ ho => regGet_regCount_of_tally h s ho⟩

theorem sendIrq_told (s : State) (q : Nat) : Told s (sendIrq s q) := by
  unfold sendIrq
  dsimp only
  split <;> exact ⟨rfl, rfl, fun _ _ => rfl⟩

theorem postRecords_told (s : State) (q : Nat) (bs : List Byte) (now : Bool) : Told s (postRecords s q bs none now) := by
  unfold postRecords
  dsimp only
  refine Told.ite (Told.trans ?_ (sendIrq_told _ q)) ?_ <;> exact ⟨rfl, rfl, fun _ _ => rfl⟩

theorem deviceEvent_told (s : State) (code : Nat) (st : Status) (payload : List Byte) : Told s (deviceEvent s code st payload) := by
  unfold deviceEvent
  dsimp only
  split
  · exact Told.refl s
  · split
    · exact postRecords_told ..
    · exact (regCount_told (by decide) s).trans ⟨rfl, rfl, fun _ _ => rfl⟩

theorem drawBytes_told (n : Nat) (s : State) : Told s (drawBytes n s).2 := ⟨rfl, rfl, fun _ _ => rfl⟩

theorem linkEvent_told (s : State) (l : Nat) (old new : LinkState) (st : Status) : Told s (linkEvent s l old new st) :=
  (drawBytes_told 1 s).trans (deviceEvent_told ..)

theorem timeEvent_told (s : State) (chip : Nat) : Told s (timeEvent s chip) := (drawBytes_told 1 s).trans (deviceEvent_told ..)

section
variable {s t : State} (h : Told s t)
include h

theorem Told.mem : t.mem = s.mem := by rw [h.rest]
theorem Told.ops : t.ops = s.ops := by rw [h.rest]
theorem Told.time : t.time = s.time := by rw [h.rest]
theorem Told.fin : t.fin = s.fin := by rw [h.rest]
theorem Told.dome : t.dome = s.dome := by rw [h.rest]
theorem Told.flt : t.flt = s.flt := by rw [h.rest]
theorem Told.fab : t.fab = s.fab := by rw [h.rest]
theorem Told.chime : t.chime = s.chime := by rw [h.rest]
theorem Told.sameLink (l : Nat) : link t l = link s l := by rw [link, h.fab, ← link]

theorem Told.regBits {off : Nat} (ho : off ∉ tallies) (hi lo : Nat) : regBits t off hi lo = regBits s off hi lo :=
  congrArg (bits · hi lo) (h.regs off ho)

theorem Told.noWork (hs : NoWork s) : NoWork t := by
  rw [NoWork, h.ops, h.fin, h.dome, h.rings]
  exact hs

end

/-! ### A packet sent -/

/-- What a link keeps while it sends. -/
def Link.still (x : Link) : Link :=
  { x with sendSeq := 0, retry := [], txq := [], credits := [], owed := [], unacked := 0, sent := [] }

/-- What a flow keeps while its packets leave: all but which Gallery keeps them, and whether an acknowledgement is owed. -/
def Flow.still (f : Flow) : Flow := { f with ackOwed := false, unacked := f.unacked.map fun u => { u with gallery := 0 } }

/-- From one state to the other packets went out, or wait, and events were posted. -/
structure Ships (s t : State) : Prop where
  mem : t.mem = s.mem
  ops : t.ops = s.ops
  time : t.time = s.time
  fin : t.fin = s.fin
  dome : t.dome = s.dome
  flt : t.flt = s.flt
  rings : t.hif.rings = s.hif.rings
  regs : ∀ off, off ∉ tallies → regGet t off = regGet s off
  arrived : t.fab.arrived = s.fab.arrived
  loop : t.fab.loop = s.fab.loop
  nextTag : t.fab.nextTag = s.fab.nextTag
  flows : t.fab.flows.map Flow.still = s.fab.flows.map Flow.still
  fabOk : FabOk s.fab → FabOk t.fab
  links : FabOk s.fab → ∀ l, (link t l).still = (link s l).still

theorem Ships.refl (s : State) : Ships s s :=
  ⟨rfl, rfl, rfl, rfl, rfl, rfl, rfl, fun _ _ => rfl, rfl, rfl, rfl, rfl, id, fun _ _ => rfl⟩

theorem Ships.trans {s t u : State} (hst : Ships s t) (htu : Ships t u) : Ships s u where
  mem := htu.mem.trans hst.mem
  ops := htu.ops.trans hst.ops
  time := htu.time.trans hst.time
  fin := htu.fin.trans hst.fin
  dome := htu.dome.trans hst.dome
  flt := htu.flt.trans hst.flt
  rings := htu.rings.trans hst.rings
  regs off ho := (htu.regs off ho).trans (hst.regs off ho)
  arrived := htu.arrived.trans hst.arrived
  loop := htu.loop.trans hst.loop
  nextTag := htu.nextTag.trans hst.nextTag
  flows := htu.flows.trans hst.flows
  fabOk := htu.fabOk ∘ hst.fabOk
  links hf l := (htu.links (hst.fabOk hf) l).trans (hst.links hf l)

theorem Ships.ite {s t u : State} {c : Prop} [Decidable c] (ht : Ships s t) (hu : Ships s u) :
    Ships s (if c then t else u) := by
  split
  · exact ht
  · exact hu

theorem Told.ships {s t : State} (h : Told s t) : Ships s t where
  mem := h.mem
  ops := h.ops
  time := h.time
  fin := h.fin
  dome := h.dome
  flt := h.flt
  rings := h.rings
  regs := h.regs
  arrived := congrArg _ h.fab
  loop := congrArg _ h.fab
  nextTag := congrArg _ h.fab
  flows := congrArg (fun f : Fabric => f.flows.map Flow.still) h.fab
  fabOk hf := h.fab ▸ hf
  links _ l := congrArg _ (h.sameLink l)

section
variable {s t : State} (h : Ships s t)
include h

theorem Ships.noWork (hs : NoWork s) : NoWork t := by
  rw [NoWork, h.ops, h.fin, h.dome, h.rings]
  exact hs

theorem Ships.regBits {off : Nat} (ho : off ∉ tallies) (hi lo : Nat) : regBits t off hi lo = regBits s off hi lo :=
  congrArg (bits · hi lo) (h.regs off ho)

/-- A flow that is there stays, with what its chip and this device know of each other. -/
theorem Ships.sameFlow (chip cls : Nat) : (flow t chip cls).map Flow.still = (flow s chip cls).map Flow.still := by
  have hfind : ∀ u : State, (flow u chip cls).map Flow.still =
      (u.fab.flows.map Flow.still).find? fun f => f.chip == chip && f.cls == cls := fun u => by
    rw [List.find?_map]
    rfl
  rw [hfind, hfind, h.flows]

end

/-- A step of the fabric that leaves flows and links as they were. -/
theorem ships_of_fab {s t : State} (hrest : t = { s with draws := t.draws, fab := t.fab, chime := t.chime })
    (hlinks : t.fab.links = s.fab.links) (hflows : t.fab.flows.map Flow.still = s.fab.flows.map Flow.still)
    (hfab : t.fab.arrived = s.fab.arrived ∧ t.fab.loop = s.fab.loop ∧ t.fab.nextTag = s.fab.nextTag) : Ships s t where
  mem := by rw [hrest]
  ops := by rw [hrest]
  time := by rw [hrest]
  fin := by rw [hrest]
  dome := by rw [hrest]
  flt := by rw [hrest]
  rings := by rw [hrest]
  regs off _ := by rw [hrest]; rfl
  arrived := hfab.1
  loop := hfab.2.1
  nextTag := hfab.2.2
  flows := hflows
  fabOk hf := by rw [FabOk, hlinks]; exact hf
  links _ l := by rw [link, hlinks, ← link]

theorem holdPkt_ships (s : State) (w : HeldPkt) : Ships s (holdPkt s w) := ships_of_fab rfl rfl rfl ⟨rfl, rfl, rfl⟩

theorem countDrop_told (s : State) (l : Option Nat) : Told s (countDrop s l) := regCount_told (dropCounter_mem l) s

theorem dropHeld_told (s : State) (w : HeldPkt) : Told s (dropHeld s w) := by
  unfold dropHeld
  dsimp only
  split
  · exact (regCount_told (by decide) s).trans (countDrop_told ..)
  · exact countDrop_told s _

theorem takeSlots_ships {s t : State} {port : Nat} {h : PktHdr} (ht : takeSlots s port h = some t) : Ships s t := by
  unfold takeSlots tryBurst at ht
  dsimp only at ht
  split at ht
  · exact nomatch ht
  split at ht
  · split at ht
    · exact nomatch ht
    · obtain rfl := Option.some.inj ht
      exact ships_of_fab rfl rfl rfl ⟨rfl, rfl, rfl⟩
  · obtain rfl := Option.some.inj ht
    exact ships_of_fab rfl rfl rfl ⟨rfl, rfl, rfl⟩

theorem flowUpdate_ships (s : State) (chip cls : Nat) {f : Flow → Flow} (hf : ∀ x, (f x).still = x.still) :
    Ships s (flowUpdate s chip cls f) := by
  refine ships_of_fab rfl rfl ?_ ⟨rfl, rfl, rfl⟩
  rw [flowUpdate, List.map_map]
  refine List.map_congr_left fun x _ => ?_
  rw [Function.comp_apply]
  split
  · exact hf x
  · rfl

theorem leaveSource_ships (s : State) (l : Nat) (p : Packet) : Ships s (leaveSource s l p) := by
  unfold leaveSource
  dsimp only
  split
  · exact Ships.refl s
  · refine (flowUpdate_ships s _ _ (by exact fun _ => rfl)).trans (flowUpdate_ships _ _ _ fun f => ?_)
    have hgallery : ((fun u : Unacked => { u with gallery := 0 }) ∘ fun u : Unacked =>
        if u.pkt.hdr.fseq == p.hdr.fseq then { u with gallery := galleryOf l } else u) = fun u => { u with gallery := 0 } :=
      funext fun u => by
        rw [Function.comp_apply]
        split <;> rfl
    simp only [Flow.still, List.map_map, hgallery]

theorem sendFlit_still (x : Link) (f : TxFlit) : (sendFlit x f).still = x.still := rfl

theorem pumpLink_still (x : Link) : (pumpLink x).still = x.still := by
  unfold pumpLink
  refine List.foldlRecOn _ _ (motive := fun y : Link => y.still = x.still) rfl ?_
  rintro y hy f -
  split
  · exact (sendFlit_still y f).trans hy
  · exact hy

theorem link_linkPut {s : State} (hf : FabOk s.fab) (l : Nat) (x : Link) (k : Nat) :
    link (linkPut s l x) k = if k = l then x else link s k :=
  tabGet_tabPut l x k hf

theorem linkPut_fabOk {s : State} (hf : FabOk s.fab) (l : Nat) (x : Link) : FabOk (linkPut s l x).fab := tabPut_wf (Nat.zero_le _) hf

/-- A link that sends, or whose queue changes. -/
theorem linkPut_ships (s : State) (l : Nat) {x : Link} (hx : x.still = (link s l).still) : Ships s (linkPut s l x) :=
  ⟨rfl, rfl, rfl, rfl, rfl, rfl, rfl, fun _ _ => rfl, rfl, rfl, rfl, rfl, fun hf => linkPut_fabOk hf l x, fun hf k => by
    rw [link_linkPut hf]
    split
    next hk => rw [hx, hk]
    next => rfl⟩

theorem txPacket_ships (s : State) (l : Nat) (w : HeldPkt) (p : Packet) : Ships s (txPacket s l w p) := by
  refine (linkPut_ships s l ?_).trans (ships_of_fab rfl rfl rfl ⟨rfl, rfl, rfl⟩)
  exact pumpLink_still _

theorem viaPort_ships (s : State) (port : Nat) (w : HeldPkt) (p : Packet) : Ships s (viaPort s port w p) := by
  unfold viaPort
  dsimp only
  split
  · exact (dropHeld_told s w).ships
  split
  · exact holdPkt_ships s _
  split
  · exact holdPkt_ships s _
  next l _ _ t ht =>
    have htaken := takeSlots_ships ht
    split
    · exact (htaken.trans (leaveSource_ships t l p)).trans (txPacket_ships _ l w p)
    · exact htaken.trans (txPacket_ships t l w p)

theorem waitAt_ships (s : State) (w : HeldPkt) (port : Option Nat) : Ships s (waitAt s w port) := by
  unfold waitAt
  split
  · exact (dropHeld_told s w).ships
  · exact holdPkt_ships s _

theorem viaOwn_ships (s : State) (q : Nat) (w : HeldPkt) : Ships s (viaOwn s q w) := by
  unfold viaOwn
  dsimp only
  refine (viaPort_ships ..).ite (Ships.ite ((Ships.refl s).ite ((viaPort_ships ..).ite (waitAt_ships ..))) ?_)
  split
  · exact viaPort_ships ..
  · exact waitAt_ships ..

theorem routeHeld_ships (s : State) (w : HeldPkt) : Ships s (routeHeld s w) := by
  unfold routeHeld
  split
  · exact viaOwn_ships ..
  split
  · exact viaPort_ships ..
  · exact waitAt_ships ..
  · exact (dropHeld_told s w).ships

/-- Steps that each ship, one after another. -/
theorem ships_foldl {α : Type} {f : State → α → State} (hf : ∀ s a, Ships s (f s a)) (xs : List α) (s : State) :
    Ships s (xs.foldl f s) :=
  List.foldlRecOn xs f (motive := Ships s) (Ships.refl s) fun t ht x _ => ht.trans (hf t x)

theorem routeOut_ships (s : State) (ingress : Option Nat) (p : Packet) : Ships s (routeOut s ingress p) := by
  unfold routeOut
  split
  · exact ships_foldl (fun s q => routeHeld_ships s _) _ s
  · exact routeHeld_ships ..

theorem violationNote_ships (s : State) (l : Nat) (h : PktHdr) (st : Status) : Ships s (violationNote s l h st) := by
  have hcount : Told s (regCount s (galBase (if l = noLink then 0 else galleryOf l) + 0x60) 1) :=
    regCount_told (violCounter_mem _) s
  unfold violationNote
  dsimp only
  refine hcount.ships.ite ((hcount.ships.trans ?_).trans (deviceEvent_told ..).ships)
  exact ships_of_fab rfl rfl rfl ⟨rfl, rfl, rfl⟩

/-- A packet of this device goes out, or back to it. -/
theorem launch_ships (s : State) (p : Packet) :
    Ships s (launch s p) ∨ Ships (loopBack s p) (launch s p) := by
  unfold launch
  split
  · exact .inr (Ships.refl _)
  split
  · exact .inl ((countDrop_told s none).ships.trans (violationNote_ships ..))
  split
  · exact .inr (routeOut_ships ..)
  · exact .inl (routeOut_ships ..)

end Sys2Proof.Machine
end

section
/-! PROOFS. A link that takes another state (spec/12 R298, R306, R312, R313, R315, R317): what it keeps, what every other link keeps,
and that a link that was not UP changes nothing else of the fabric. -/

namespace Sys2Proof.Machine

theorem fabOk_of_sound {s : State} (hs : Sound s = true) : FabOk s.fab := by
  simp only [Sound, Bool.and_eq_true, decide_eq_true_eq] at hs
  obtain ⟨-, -, -, hfab, -⟩ := hs
  exact hfab

/-- Link x as it leaves its state for another: its buffers and its hello are gone. -/
def leftLink (x : Link) (new : LinkState) : Link :=
  { st := new, media := x.media, sendSeq := x.sendSeq, expSeq := x.expSeq, replays := x.replays, retrains := x.retrains,
    failedRetrains := x.failedRetrains, failedHellos := x.failedHellos, partnerChip := x.partnerChip,
    partnerLink := x.partnerLink, viols := x.viols, tag := x.tag, sent := x.sent }

theorem portDetour_ships (s : State) (port : Nat) : Ships s (portDetour s port) := by
  unfold portDetour
  refine ships_foldl (fun s l => ?_) _ s
  dsimp only
  exact Ships.trans (linkPut_ships s l (by exact rfl)) (ships_foldl routeHeld_ships _ _)

theorem linkLeave_ships (s : State) (l : Nat) (new : LinkState) :
    Ships (linkPut s l (leftLink (link s l) new)) (linkLeave s l new) := by
  have hdetour : ∀ (c : Bool) (u : State) (port : Nat), Ships u (if c then portDetour u port else u) := fun c u port =>
    (portDetour_ships u port).ite (Ships.refl u)
  unfold linkLeave
  dsimp only
  exact Ships.ite ((hdetour ..).trans (ships_foldl routeHeld_ships _ _)) (hdetour ..)

/-- A port counts its UP links: one that is in neither state leaves it as it was. -/
theorem portUp_linkPut {s : State} (hf : FabOk s.fab) {l : Nat} (hl : (link s l).st ≠ .up) {x : Link} (hx : x.st ≠ .up)
    (p : Nat) : portUp (linkPut s l x) p = portUp s p := by
  have hup : ∀ k, (link (linkPut s l x) k).st == .up ↔ (link s k).st == .up := fun k => by
    rw [link_linkPut hf]
    split
    next hk => simp [hk, hl, hx]
    next => rfl
  have hcount : (fun k => (link (linkPut s l x) k).st == .up) = fun k => (link s k).st == .up :=
    funext fun k => Bool.eq_iff_iff.mpr (hup k)
  unfold portUp
  rw [hcount]
  rfl

theorem linkLeave_of_not_up {s : State} (hf : FabOk s.fab) {l : Nat} (hl : (link s l).st ≠ .up) {new : LinkState}
    (hnew : new ≠ .up) : linkLeave s l new = linkPut s l (leftLink (link s l) new) := by
  have hport : portUp (linkPut s l (leftLink (link s l) new)) (portOf s l) = portUp s (portOf s l) :=
    portUp_linkPut hf hl hnew _
  have hsame : (portUp s (portOf s l) && !portUp (linkPut s l (leftLink (link s l) new)) (portOf s l)) = false := by
    rw [hport, Bool.and_not_self]
  have hup : ((link s l).st == .up) = false := beq_false_of_ne hl
  unfold linkLeave
  dsimp only
  rw [hup, if_neg Bool.false_ne_true]
  exact if_neg (ne_true_of_eq_false hsame)

theorem linkTo_of_ne {s : State} {l : Nat} {new : LinkState} (h : (link s l).st ≠ new) (st : Status) :
    linkTo s l new st = linkEvent (linkLeave s l new) l (link s l).st new st := if_neg h

theorem linkTo_ships {s : State} {l : Nat} {new : LinkState} (h : (link s l).st ≠ new) (st : Status) :
    Ships (linkPut s l (leftLink (link s l) new)) (linkTo s l new st) := by
  rw [linkTo_of_ne h]
  exact (linkLeave_ships s l new).trans (linkEvent_told ..).ships

theorem linkTo_told {s : State} (hf : FabOk s.fab) {l : Nat} (hl : (link s l).st ≠ .up) {new : LinkState} (hnew : new ≠ .up)
    (h : (link s l).st ≠ new) (st : Status) : Told (linkPut s l (leftLink (link s l) new)) (linkTo s l new st) := by
  rw [linkTo_of_ne h, linkLeave_of_not_up hf hl hnew]
  exact linkEvent_told ..

/-- A link was put, and what follows ships: the link keeps what it was put as. -/
theorem Ships.link_put {s t : State} {l : Nat} {x : Link} (h : Ships (linkPut s l x) t) (hf : FabOk s.fab) :
    (link t l).still = x.still := by
  rw [h.links (linkPut_fabOk hf l x), link_linkPut hf, if_pos rfl]

theorem Told.link_put {s t : State} {l : Nat} {x : Link} (h : Told (linkPut s l x) t) (hf : FabOk s.fab) : link t l = x := by
  rw [h.sameLink, link_linkPut hf, if_pos rfl]

theorem Told.otherLinks {s t : State} {l : Nat} {x : Link} (h : Told (linkPut s l x) t) (hf : FabOk s.fab) : OtherLinks s t l :=
  fun k hk => by rw [h.sameLink, link_linkPut hf, if_neg hk]

/-- A field that sending leaves is the same in links that differ by sending alone. -/
theorem still_field {α : Type} {x y : Link} (h : x.still = y.still) (f : Link → α) (hf : ∀ x, f x = f x.still) : f x = f y := by
  rw [hf, h, ← hf]

/-- The link takes the state, whichever it had. -/
theorem linkTo_st {s : State} (hf : FabOk s.fab) (l : Nat) (new : LinkState) (st : Status) :
    (link (linkTo s l new st) l).st = new := by
  by_cases h : (link s l).st = new
  · rw [linkTo, if_pos h, h]
  · exact still_field ((linkTo_ships h st).link_put hf) Link.st fun _ => rfl

/-- What a change of a link's state leaves as it was, whatever it sends again. -/
structure Relinked (s t : State) : Prop where
  mem : t.mem = s.mem
  work : NoWork s → NoWork t
  regs : ∀ off, off ∉ tallies → regGet t off = regGet s off
  fabOk : FabOk s.fab → FabOk t.fab
  waits : ∀ die unit kind, Waits s die unit kind → Waits t die unit kind

theorem Relinked.trans {s t u : State} (hst : Relinked s t) (htu : Relinked t u) : Relinked s u where
  mem := htu.mem.trans hst.mem
  work := htu.work ∘ hst.work
  regs off ho := (htu.regs off ho).trans (hst.regs off ho)
  fabOk := htu.fabOk ∘ hst.fabOk
  waits die unit kind := htu.waits die unit kind ∘ hst.waits die unit kind

theorem Ships.relinked {s t : State} (h : Ships s t) : Relinked s t :=
  ⟨h.mem, h.noWork, h.regs, h.fabOk, fun die unit kind hw => by rw [Waits, h.flt]; exact hw⟩

theorem linkPut_relinked (s : State) (l : Nat) (x : Link) : Relinked s (linkPut s l x) :=
  ⟨rfl, id, fun _ _ => rfl, fun hf => linkPut_fabOk hf l x, fun _ _ _ => id⟩

theorem raiseFault_relinked (s : State) (die unit kind addr : Nat) : Relinked s (raiseFault s die unit kind addr) := by
  refine ⟨rfl, id, fun _ _ => rfl, id, fun d u k hw => ?_⟩
  obtain ⟨x, hx, hdie, hunit, hkind⟩ := hw
  simp only [Waits, raiseFault]
  split
  · refine ⟨_, List.mem_map_of_mem hx, ?_⟩
    split
    · exact ⟨hdie, hunit, hkind⟩
    · exact ⟨hdie, hunit, hkind⟩
  · exact ⟨x, List.mem_append_left _ hx, hdie, hunit, hkind⟩

theorem linkTo_relinked (s : State) (l : Nat) (new : LinkState) (st : Status) : Relinked s (linkTo s l new st) := by
  by_cases h : (link s l).st = new
  · rw [linkTo, if_pos h]
    exact (Ships.refl s).relinked
  · exact (linkPut_relinked s l _).trans (linkTo_ships h st).relinked

/-! ### A link that fails, trains anew or is quarantined -/

theorem linkUpdate_relinked (s : State) (l : Nat) (f : Link → Link) : Relinked s (linkUpdate s l f) := linkPut_relinked s l _

theorem linkUpdate_fabOk {s : State} (hf : FabOk s.fab) (l : Nat) (f : Link → Link) : FabOk (linkUpdate s l f).fab :=
  linkPut_fabOk hf l _

theorem link_linkUpdate {s : State} (hf : FabOk s.fab) (l : Nat) (f : Link → Link) (k : Nat) :
    link (linkUpdate s l f) k = if k = l then f (link s l) else link s k :=
  link_linkPut hf l _ k

theorem linkFail_relinked (s : State) (l : Nat) : Relinked s (linkFail s l) := by
  unfold linkFail
  exact ((raiseFault_relinked s 4 l 0x11 l).trans (linkTo_relinked ..)).trans (linkUpdate_relinked ..)

theorem linkFail_st {s : State} (hf : FabOk s.fab) (l : Nat) : (link (linkFail s l) l).st = .failed := by
  have hto : FabOk (linkTo (raiseFault s 4 l 0x11 l) l .failed).fab := (linkTo_relinked _ l _ _).fabOk hf
  rw [linkFail, link_linkUpdate hto, if_pos rfl]
  exact linkTo_st (s := raiseFault s 4 l 0x11 l) hf l .failed .ok

theorem linkFail_waits (s : State) (l : Nat) : Waits (linkFail s l) 4 l 0x11 :=
  ((linkTo_relinked _ l .failed .ok).trans (linkUpdate_relinked ..)).waits _ _ _ (waits_raiseFault s 4 l 0x11 l)

theorem linkTrain_relinked (s : State) (l : Nat) : Relinked s (linkTrain s l) := by
  unfold linkTrain
  exact (linkTo_relinked s l .training .ok).trans (linkUpdate_relinked ..)

/-- A link that trains anew, from whatever other state, counts it. -/
theorem linkTrain_link {s : State} (hf : FabOk s.fab) {l : Nat} (h : (link s l).st ≠ .training) :
    (link (linkTrain s l) l).st = .training ∧ (link (linkTrain s l) l).retrains = min 255 ((link s l).retrains + 1) ∧
      (link (linkTrain s l) l).failedRetrains = (link s l).failedRetrains := by
  have hto : FabOk (linkTo s l .training).fab := (linkTo_relinked s l .training .ok).fabOk hf
  have hput := (linkTo_ships h .ok).link_put hf
  have hretrains := still_field hput Link.retrains fun _ => rfl
  have hfailed := still_field hput Link.failedRetrains fun _ => rfl
  rw [linkTrain, link_linkUpdate hto, if_pos rfl]
  exact ⟨linkTo_st hf l .training .ok, congrArg (fun n => min 255 (n + 1)) hretrains, hfailed⟩

theorem linkStuck_relinked (s : State) (l : Nat) : Relinked s (linkStuck s l) := by
  unfold linkStuck
  split
  · exact linkFail_relinked s l
  · exact (linkTrain_relinked s l).trans (linkUpdate_relinked ..)

/-- Three retrains in a row that have not helped, and the link fails; before, it trains anew, and they are counted. -/
theorem linkStuck_link {s : State} (hf : FabOk s.fab) {l : Nat} (h : (link s l).st ≠ .training) :
    (link (linkStuck s l) l).st = (if (link s l).failedRetrains < 3 then .training else .failed) ∧
      ((link s l).failedRetrains < 3 → (link (linkStuck s l) l).retrains = min 255 ((link s l).retrains + 1) ∧
        (link (linkStuck s l) l).failedRetrains = (link s l).failedRetrains + 1) := by
  by_cases hfew : (link s l).failedRetrains < 3
  · have hto : FabOk (linkTrain s l).fab := (linkTrain_relinked s l).fabOk hf
    obtain ⟨hst, hretrains, hfailed⟩ := linkTrain_link hf h
    rw [if_pos hfew, linkStuck, if_neg (Nat.not_le.mpr hfew), link_linkUpdate hto, if_pos rfl]
    exact ⟨hst, fun _ => ⟨hretrains, congrArg (· + 1) hfailed⟩⟩
  · rw [if_neg hfew, linkStuck, if_pos (Nat.not_lt.mp hfew)]
    exact ⟨linkFail_st hf l, fun h => absurd h hfew⟩

/-- A quarantine of a link that was not UP, nor quarantined before. -/
theorem linkQuarantine_link {s : State} (hf : FabOk s.fab) {l : Nat} (hup : (link s l).st ≠ .up)
    (h : (link s l).st ≠ .quarantined) :
    (link (linkQuarantine s l) l).st = .quarantined ∧ (link (linkQuarantine s l) l).failedHellos = 0 ∧
      OtherLinks s (linkQuarantine s l) l := by
  have hto := linkTo_told (s := raiseFault s 4 l 0x13 l) hf hup (by decide : LinkState.quarantined ≠ .up) h .quarantined
  have hfab : FabOk (linkTo (raiseFault s 4 l 0x13 l) l .quarantined .quarantined).fab := (linkTo_relinked _ l _ _).fabOk hf
  have hother : OtherLinks s (linkTo (raiseFault s 4 l 0x13 l) l .quarantined .quarantined) l := hto.otherLinks hf
  refine ⟨?_, ?_, fun k hk => ?_⟩
  · rw [linkQuarantine, link_linkUpdate hfab, if_pos rfl]
    exact linkTo_st (s := raiseFault s 4 l 0x13 l) hf l _ _
  · rw [linkQuarantine, link_linkUpdate hfab, if_pos rfl]
  · rw [linkQuarantine, link_linkUpdate hfab, if_neg hk]
    exact hother k hk

end Sys2Proof.Machine
end

section
/-! PROOFS. Links (spec/12 R297, R298, R313 to R315, R436): training, the hello exchange, failure and credit silence. O51 holds. -/

namespace Sys2Proof.Machine

/-! ### What happens on one link alone -/

/-- What happens on link l leaves every other link, what is held and what this device sends to itself as they were. -/
structure OnLink (s t : State) (l : Nat) : Prop where
  relinked : Relinked s t
  loop : t.fab.loop = s.fab.loop
  held : t.fab.heldPkts = s.fab.heldPkts
  others : FabOk s.fab → OtherLinks s t l

theorem OnLink.trans {s t u : State} {l : Nat} (hst : OnLink s t l) (htu : OnLink t u l) : OnLink s u l where
  relinked := hst.relinked.trans htu.relinked
  loop := htu.loop.trans hst.loop
  held := htu.held.trans hst.held
  others hf k hk := (htu.others (hst.relinked.fabOk hf) k hk).trans (hst.others hf k hk)

theorem OnLink.refl (s : State) (l : Nat) : OnLink s s l := ⟨(Ships.refl s).relinked, rfl, rfl, fun _ _ _ => rfl⟩

theorem Told.onLink {s t : State} (h : Told s t) (l : Nat) : OnLink s t l where
  relinked := h.ships.relinked
  loop := congrArg _ h.fab
  held := congrArg _ h.fab
  others _ k _ := h.sameLink k

theorem linkPut_onLink (s : State) (l : Nat) (x : Link) : OnLink s (linkPut s l x) l where
  relinked := linkPut_relinked s l x
  loop := rfl
  held := rfl
  others hf k hk := by rw [link_linkPut hf, if_neg hk]

theorem linkUpdate_onLink (s : State) (l : Nat) (f : Link → Link) : OnLink s (linkUpdate s l f) l := linkPut_onLink s l _

theorem raiseFault_onLink (s : State) (die unit kind addr l : Nat) : OnLink s (raiseFault s die unit kind addr) l :=
  ⟨raiseFault_relinked .., rfl, rfl, fun _ _ _ => rfl⟩

theorem linkTo_onLink {s : State} (hf : FabOk s.fab) {l : Nat} (hl : (link s l).st ≠ .up) {new : LinkState} (hnew : new ≠ .up)
    (st : Status) : OnLink s (linkTo s l new st) l := by
  by_cases h : (link s l).st = new
  · rw [linkTo, if_pos h]
    exact OnLink.refl s l
  · exact (linkPut_onLink s l _).trans ((linkTo_told hf hl hnew h st).onLink l)

theorem txPacket_onLink (s : State) (l : Nat) (w : HeldPkt) (p : Packet) : OnLink s (txPacket s l w p) l where
  relinked := (txPacket_ships s l w p).relinked
  loop := rfl
  held := rfl
  others hf k hk := by
    unfold txPacket linkUpdate linkPut
    dsimp only [link]
    rw [tabGet_tabPut l _ k hf, if_neg hk]

/-- On a device with nothing in flight and nothing of its own to take, such a change is all that follows. -/
theorem OnLink.ends {s t : State} {l : Nat} (h : OnLink s t l) (hs : NoWork s) (hloop : s.fab.loop = []) :
    takeLoop (settle t) = t := by
  rw [settle_of_noWork (h.relinked.work hs), takeLoop_of_empty (h.loop.trans hloop)]

/-! ### Training -/

theorem exec_signalDetect (l : Fin 96) (s : State) : exec (.signalDetect l) s =
    .next (if (link s l.val).st == .down && canTrain s l.val then linkTo s l.val .training else s) := rfl
theorem exec_trainingLock (l : Fin 96) (s : State) : exec (.trainingLock l) s = .next (linkLocked s l.val) := rfl
theorem exec_trainingTimeout (l : Fin 96) (s : State) : exec (.trainingTimeout l) s =
    .next (if (link s l.val).st == .training then linkTo s l.val .down else s) := rfl
theorem exec_lossOfSignal (l : Fin 96) (s : State) : exec (.lossOfSignal l) s =
    .next (if (link s l.val).st == .up || (link s l.val).st == .hello || (link s l.val).st == .training then
      settle (linkTo s l.val .down) else s) := rfl
theorem exec_failedLinkRetry (l : Fin 96) (s : State) : exec (.failedLinkRetry l) s =
    .next (if (link s l.val).st == .failed && canTrain s l.val then linkTo s l.val .training else s) := rfl
theorem exec_linkRetrainTimeout (l : Fin 96) (s : State) : exec (.linkRetrainTimeout l) s =
    .next (if (link s l.val).retraining then settle (linkFail s l.val) else s) := rfl
theorem exec_helloTimeout (l : Fin 96) (s : State) : exec (.helloTimeout l) s = .next (settle (helloExpire s l.val)) := rfl
theorem exec_creditSilence (l : Fin 96) (v : Fin 8) (s : State) : exec (.creditSilence l v) s =
    .next (if laneStarves s l.val v.val then linkStuck s l.val else s) := rfl

theorem leBytes_length : ∀ n v, (leBytes n v).length = n
  | 0, _ => rfl
  | n + 1, v => congrArg (· + 1) (leBytes_length n (v / 256))

theorem sendHello_link {s : State} (hf : FabOk s.fab) (l : Nat) (m : HelloMsg) :
    (link (sendHello s l m) l).still = (link s l).still :=
  (txPacket_ships s l _ _).links hf l

theorem sendHello_onLink (s : State) (l : Nat) (m : HelloMsg) : OnLink s (sendHello s l m) l := txPacket_onLink s l _ _

/-- Link x with its exchange begun. -/
def helloBegun (x : Link) (nonce : List Byte) : Link :=
  { x with nonce := nonce, peerNonce := [], answered := false, passed := false }

theorem helloStart_onLink (s : State) (l : Nat) : OnLink s (helloStart s l) l :=
  (((drawBytes_told 32 s).onLink l).trans (linkUpdate_onLink _ l _)).trans (sendHello_onLink _ l _)

theorem helloStart_link {s : State} (hf : FabOk s.fab) (l : Nat) :
    (link (helloStart s l) l).still = (helloBegun (link s l) (drawBytes 32 s).1).still := by
  have hput : FabOk (linkUpdate (drawBytes 32 s).2 l fun x => helloBegun x (drawBytes 32 s).1).fab :=
    linkUpdate_fabOk (s := (drawBytes 32 s).2) hf l _
  refine (sendHello_link hput l _).trans (congrArg Link.still ?_)
  rw [link_linkUpdate (s := (drawBytes 32 s).2) hf, if_pos rfl]
  rfl

/-- Link x with its tag of calibration, its sequence numbers at 0. -/
def taggedLink (x : Link) (tag : Nat × Int × Nat × Bool) (again : Bool) : Link :=
  { x with tag := some tag, sendSeq := 0, expSeq := 0, retraining := again }

/-- Training has locked: the link is tagged, and the exchange begins under a fresh nonce. -/
theorem linkLocked_of_training {s : State} (hf : FabOk s.fab) {l : Nat} (hst : (link s l).st = .training) :
    OnLink s (linkLocked s l) l ∧ ∃ nonce : List Byte, nonce.length = 32 ∧ (link (linkLocked s l) l).still =
      (helloBegun (taggedLink (leftLink (link s l) .hello) (tagNow s) (link s l).retraining) nonce).still := by
  have hup : (link s l).st ≠ .up := by rw [hst]; decide
  have htold := linkTo_told hf hup (by decide : LinkState.hello ≠ .up) (by rw [hst]; decide) .ok
  have hon := linkTo_onLink hf hup (by decide : LinkState.hello ≠ .up) .ok
  have hfu := hon.relinked.fabOk hf
  have htag : tagNow (linkTo s l .hello) = tagNow s := by
    rw [tagNow, htold.chime, mtime, htold.time, ← mtime]
    rfl
  have hleft : link (linkTo s l .hello) l = leftLink (link s l) .hello := htold.link_put hf
  have hrun : linkLocked s l = helloStart
      (linkUpdate (linkTo s l .hello) l fun x => taggedLink x (tagNow s) (link s l).retraining) l := by
    rw [← htag, linkLocked, hst]
    rfl
  generalize hv : (linkUpdate (linkTo s l .hello) l fun x => taggedLink x (tagNow s) (link s l).retraining) = v at hrun
  have htagged : link v l = taggedLink (leftLink (link s l) .hello) (tagNow s) (link s l).retraining := by
    rw [← hv, link_linkUpdate hfu, if_pos rfl, hleft]
  have hfv : FabOk v.fab := hv ▸ linkUpdate_fabOk hfu l _
  rw [hrun]
  refine ⟨(hon.trans (hv ▸ linkUpdate_onLink _ l _)).trans (helloStart_onLink v l), (drawBytes 32 v).1, leBytes_length 32 _, ?_⟩
  rw [helloStart_link hfv, htagged]

/-! ### The hello exchange -/

/-- Link x as it comes up. -/
def upLink (x : Link) : Link :=
  { x with st := .up, credits := List.replicate 8 128, owed := List.replicate 8 0, retraining := false, failedHellos := 0 }

theorem retryHeld_of_none {s : State} (h : s.fab.heldPkts = []) : retryHeld s = s := by
  have horder : heldInOrder s = [] := by rw [heldInOrder, h]; rfl
  simp only [retryHeld, horder, List.foldl_nil]

/-- With nothing held, a link that comes up is all that changes. -/
theorem linkUp_told {s : State} (h : s.fab.heldPkts = []) (l : Nat) : Told (linkPut s l (upLink (link s l))) (linkUp s l) := by
  have htold := linkEvent_told (linkPut s l (upLink (link s l))) l (link s l).st .up .ok
  have hnone : (linkEvent (linkPut s l (upLink (link s l))) l (link s l).st .up .ok).fab.heldPkts = [] := by
    rw [htold.fab]
    exact h
  rw [← retryHeld_of_none hnone] at htold
  exact htold

theorem linkUp_onLink {s : State} (h : s.fab.heldPkts = []) (l : Nat) : OnLink s (linkUp s l) l :=
  (linkPut_onLink s l _).trans ((linkUp_told h l).onLink l)

theorem linkUp_link {s : State} (hf : FabOk s.fab) (h : s.fab.heldPkts = []) (l : Nat) :
    link (linkUp s l) l = upLink (link s l) := (linkUp_told h l).link_put hf

theorem signIdentity_told (s : State) (msg : List Byte) : Told s (signIdentity s msg).2 := by
  unfold signIdentity
  split
  · exact drawBytes_told 96 s
  · exact Told.refl s

/-- Link x once the partner's nonce is answered. -/
def answeredLink (x : Link) (echo : List Byte) : Link := { x with peerNonce := echo, answered := true }

theorem helloAnswer_spec {s : State} (hf : FabOk s.fab) (l : Nat) (echo : List Byte) :
    OnLink s (helloAnswer s l echo) l ∧
      (link (helloAnswer s l echo) l).still = (answeredLink (link s l) echo).still := by
  unfold helloAnswer
  dsimp only
  generalize hu : signIdentity s _ = u
  have hsigned : Told s u.2 := hu ▸ signIdentity_told s _
  have hfu : FabOk u.2.fab := hsigned.fab ▸ hf
  refine ⟨((hsigned.onLink l).trans (linkUpdate_onLink _ l _)).trans (sendHello_onLink _ l _),
    (sendHello_link (linkUpdate_fabOk hfu l _) l _).trans (congrArg Link.still ?_)⟩
  rw [link_linkUpdate hfu, if_pos rfl, hsigned.sameLink]
  rfl

theorem helloFail_onLink {s : State} (hf : FabOk s.fab) {l : Nat} (hst : (link s l).st = .hello) :
    OnLink s (helloFail s l) l ∧ Waits (helloFail s l) 4 l 0x12 ∧
      (link (helloFail s l) l).st = (if (link s l).failedHellos < 2 then .down else .quarantined) ∧
      (link (helloFail s l) l).failedHellos = (if (link s l).failedHellos < 2 then (link s l).failedHellos + 1 else 0) := by
  generalize hu : raiseFault (drawFree s).2 4 l 0x12 (l + 256 * ((drawFree s).1 % 256)) = u
  have hdrawn : OnLink s u l := hu ▸ ((drawBytes_told 0 s).onLink l).trans (raiseFault_onLink ..)
  have hfu : FabOk u.fab := hdrawn.relinked.fabOk hf
  have hlink : link u l = link s l := by rw [← hu]; rfl
  have hwaits : Waits u 4 l 0x12 := hu ▸ waits_raiseFault ..
  have hrun : helloFail s l = if (link s l).failedHellos + 1 ≥ 3 then linkQuarantine u l
      else linkUpdate (linkTo u l .down) l fun x => { x with failedHellos := (link s l).failedHellos + 1 } := by
    rw [← hlink, ← hu]
    rfl
  have hstu : (link u l).st = .hello := hlink ▸ hst
  by_cases hfew : (link s l).failedHellos < 2
  · have hto := linkTo_onLink hfu (by rw [hstu]; decide) (by decide : LinkState.down ≠ .up) .ok
    rw [hrun, if_neg (by omega), if_pos hfew, if_pos hfew]
    have hon := hto.trans (linkUpdate_onLink _ l fun x => { x with failedHellos := (link s l).failedHellos + 1 })
    refine ⟨hdrawn.trans hon, hon.relinked.waits _ _ _ hwaits, ?_, ?_⟩
    · rw [link_linkUpdate (hto.relinked.fabOk hfu), if_pos rfl]
      exact linkTo_st hfu l .down .ok
    · rw [link_linkUpdate (hto.relinked.fabOk hfu), if_pos rfl]
  · obtain ⟨hq, hzero, -⟩ := linkQuarantine_link hfu (l := l) (by rw [hstu]; decide) (by rw [hstu]; decide)
    rw [hrun, if_pos (by omega), if_neg hfew, if_neg hfew]
    have hon : OnLink u (linkQuarantine u l) l := by
      have hto := linkTo_onLink (s := raiseFault u 4 l 0x13 l) hfu (l := l) (new := .quarantined)
        (by rw [show (link (raiseFault u 4 l 0x13 l) l).st = .hello from hstu]; decide) (by decide) .quarantined
      unfold linkQuarantine
      exact ((raiseFault_onLink u 4 l 0x13 l l).trans hto).trans (linkUpdate_onLink _ l _)
    exact ⟨hdrawn.trans hon, hon.relinked.waits _ _ _ hwaits, hq, hzero⟩

end Sys2Proof.Machine
end

section
/-! PROOFS. A HELLO that arrives (spec/12 R314, R315), and what the links' commands make of the state before them. O51 holds. -/

namespace Sys2Proof.Machine

/-! ### A HELLO arrives -/

/-- A question is answered; where the partner has passed already, the link then comes up. -/
theorem helloArrive_question {s : State} (hf : FabOk s.fab) {l : Nat} (hst : (link s l).st = .hello)
    (hheld : s.fab.heldPkts = []) {m : HelloMsg} (hm : m.answer = false) (hnonce : (link s l).nonce ≠ []) :
    OnLink s (helloArrive s l m) l ∧ (link (helloArrive s l m) l).answered = true ∧
      (link (helloArrive s l m) l).peerNonce = m.nonce ∧
      (link (helloArrive s l m) l).st = (if (link s l).passed then .up else .hello) := by
  obtain ⟨hon, hlink⟩ := helloAnswer_spec hf l m.nonce
  have hst' : (link (helloAnswer s l m.nonce) l).st = .hello := (still_field hlink Link.st fun _ => rfl).trans hst
  have hpassed : (link (helloAnswer s l m.nonce) l).passed = (link s l).passed := still_field hlink Link.passed fun _ => rfl
  have hanswered : (link (helloAnswer s l m.nonce) l).answered = true := still_field hlink Link.answered fun _ => rfl
  have hpeer : (link (helloAnswer s l m.nonce) l).peerNonce = m.nonce := still_field hlink Link.peerNonce fun _ => rfl
  have hrun : helloArrive s l m =
      if (link s l).passed then linkUp (helloAnswer s l m.nonce) l else helloAnswer s l m.nonce := by
    have hbegun : ((link s l).nonce.isEmpty || ((link s l).st == .up && (link s l).passed)) = false := by
      rw [List.isEmpty_eq_false_iff.mpr hnonce, hst]
      rfl
    simp only [helloArrive, hm, hbegun, hst', hpassed, Bool.false_eq_true, if_false, beq_self_eq_true, Bool.true_and]
  rw [hrun]
  split
  · have hfa := hon.relinked.fabOk hf
    have hnone := hon.held.trans hheld
    rw [linkUp_link hfa hnone]
    exact ⟨hon.trans (linkUp_onLink hnone l), hanswered, hpeer, rfl⟩
  · exact ⟨hon, hanswered, hpeer, hst'⟩

/-- Link x once the partner's answer has passed. -/
def passedLink (x : Link) (m : HelloMsg) : Link := { x with passed := true, partnerChip := m.chip, partnerLink := m.link }

/-- An answer that passes proves the partner; where this device has answered already, the link then comes up. -/
theorem helloPassed_link {s : State} (hf : FabOk s.fab) {l : Nat} (hst : (link s l).st = .hello) (hheld : s.fab.heldPkts = [])
    (m : HelloMsg) :
    OnLink s (helloPassed s l m) l ∧ link (helloPassed s l m) l =
      if (link s l).answered then upLink (passedLink (link s l) m) else passedLink (link s l) m := by
  generalize hu : linkUpdate s l (fun x => passedLink x m) = u
  have hon : OnLink s u l := hu ▸ linkUpdate_onLink s l _
  have hlink : link u l = passedLink (link s l) m := by rw [← hu, link_linkUpdate hf, if_pos rfl]
  have hrun : helloPassed s l m = if (link s l).answered then linkUp u l else u := by
    have hst' : (link u l).st = .hello := by rw [hlink]; exact hst
    have hanswered : (link u l).answered = (link s l).answered := by rw [hlink]; rfl
    have hunfold : helloPassed s l m = if (link u l).st == .hello && (link u l).answered then linkUp u l else u := by
      rw [← hu]
      rfl
    rw [hunfold, hst', hanswered, beq_self_eq_true, Bool.true_and]
  rw [hrun]
  split
  · have hnone := hon.held.trans hheld
    rw [linkUp_link (hon.relinked.fabOk hf) hnone, hlink]
    exact ⟨hon.trans (linkUp_onLink hnone l), rfl⟩
  · exact ⟨hon, hlink⟩

theorem helloArrive_answer {s : State} {l : Nat} {m : HelloMsg} (hm : m.answer = true) (hnonce : (link s l).nonce ≠ [])
    (hpassed : (link s l).passed = false) :
    helloArrive s l m = if helloPasses s l m then helloPassed s l m else helloFail s l := by
  simp only [helloArrive, hm, List.isEmpty_eq_false_iff.mpr hnonce, hpassed, if_true, Bool.or_self, Bool.false_eq_true, if_false]

theorem takeArrived_of_none {s : State} (h : s.fab.arrived = []) (l : Nat) (p : PktHdr) : takeArrived s l p = s := by
  simp only [takeArrived, h, List.any_nil, Bool.false_eq_true, if_false]

/-- A HELLO on a link in HELLO goes to the exchange alone. -/
theorem exec_hello_of_onLink {s : State} {l : Fin 96} {m : HelloMsg} (hs : NoWork s) (hst : (link s l.val).st = .hello)
    (harrived : s.fab.arrived = []) (hloop : s.fab.loop = []) (h : PktHdr) (hon : OnLink s (helloArrive s l.val m) l.val) :
    exec (.hello l h m) s = .next (helloArrive s l.val m) := by
  have hrun : exec (.hello l h m) s = .next (packetIn s l.val (withKind h 0x10) (.hello m)) := rfl
  have hroute : routePacket s l.val (withKind h 0x10) (.hello m) = .accept (helloArrive s l.val m) := rfl
  have htaken : ((link s l.val).st == .up || ((link s l.val).st == .hello && kindOf (.hello m) == some 0x10)) = true := by
    rw [hst]
    rfl
  rw [hrun, packetIn]
  simp only [htaken, if_true, takeArrived_of_none harrived, hroute]
  rw [hon.ends hs hloop]

/-! ### The commands -/

/-- A link that was not UP takes another state, and nothing else changes of the fabric. -/
theorem linkTo_alone {s : State} (hs : Sound s = true) {l : Nat} (hl : (link s l).st ≠ .up) {new : LinkState} (hnew : new ≠ .up) :
    (link (linkTo s l new) l).st = new ∧ OtherLinks s (linkTo s l new) l ∧ (linkTo s l new).mem = s.mem :=
  have hon := linkTo_onLink (fabOk_of_sound hs) hl hnew .ok
  ⟨linkTo_st (fabOk_of_sound hs) l new .ok, hon.others (fabOk_of_sound hs), hon.relinked.mem⟩

theorem trainingLock_link {s : State} (hs : Sound s = true) {l : Fin 96} (hst : (link s l.val).st = .training) :
    ∃ t, exec (.trainingLock l) s = .next t ∧ (link t l.val).st = .hello ∧
      (link t l.val).tag = some (s.chime.load, s.chime.temp, mtime s, true) ∧ (link t l.val).expSeq = 0 ∧
      (link t l.val).nonce.length = 32 ∧ (link t l.val).answered = false ∧ (link t l.val).passed = false ∧
      OtherLinks s t l.val ∧ t.mem = s.mem := by
  obtain ⟨hon, nonce, hlen, hlink⟩ := linkLocked_of_training (fabOk_of_sound hs) hst
  exact ⟨_, exec_trainingLock l s, still_field hlink Link.st fun _ => rfl, still_field hlink Link.tag fun _ => rfl,
    still_field hlink Link.expSeq fun _ => rfl, (still_field hlink (·.nonce.length) fun _ => rfl).trans hlen,
    still_field hlink Link.answered fun _ => rfl, still_field hlink Link.passed fun _ => rfl,
    hon.others (fabOk_of_sound hs), hon.relinked.mem⟩

theorem helloTimeout_link {s : State} (hs : Sound s = true) (hrest : NoWork s) {l : Fin 96} (hst : (link s l.val).st = .hello) :
    ∃ t, exec (.helloTimeout l) s = .next t ∧
      (link t l.val).st = (if (link s l.val).failedHellos < 2 then .down else .quarantined) ∧
      (link t l.val).failedHellos = (if (link s l.val).failedHellos < 2 then (link s l.val).failedHellos + 1 else 0) ∧
      Waits t 4 l.val 0x12 ∧ OtherLinks s t l.val ∧ t.mem = s.mem := by
  obtain ⟨hon, hwaits, hst', hfailed⟩ := helloFail_onLink (fabOk_of_sound hs) hst
  have hrun : helloExpire s l.val = helloFail s l.val := by simp only [helloExpire, hst, beq_self_eq_true, Bool.true_or, if_true]
  refine ⟨_, exec_helloTimeout l s, ?_⟩
  rw [hrun, settle_of_noWork (hon.relinked.work hrest)]
  exact ⟨hst', hfailed, hwaits, hon.others (fabOk_of_sound hs), hon.relinked.mem⟩

theorem laneStarves_iff (s : State) (l vl : Nat) : laneStarves s l vl = true ↔ (link s l).st = .up ∧
    ((link s l).credits[vl]?).getD 0 = 0 ∧ ((∃ f ∈ (link s l).txq, f.vl = vl) ∨
      ∃ w ∈ s.fab.heldPkts, w.port = some (portOf s l) ∧ classOf w.pkt.hdr.kind = vl / 2) := by
  simp only [laneStarves, Bool.and_eq_true, Bool.or_eq_true, beq_iff_eq, List.any_eq_true, and_assoc]

/-- Settles O51: on a link that was not UP nothing else of the fabric changes; one that leaves UP has its packets sent again, which
changes no link's state. -/
theorem links : Obligations.Links := by
  unfold Obligations.Links
  refine ⟨?detect, ?undetected, ?lock, ?notTraining, ?timeout, ?loss, ?expired, ?question, ?answer, ?retry, ?retrain, ?notRetraining,
    ?silence, ?notStarved⟩
  case detect =>
    intro s l hs hst hcan
    refine ⟨_, exec_signalDetect l s, ?_⟩
    rw [if_pos (by rw [hst, hcan]; rfl)]
    exact linkTo_alone hs (by rw [hst]; decide) (by decide)
  case undetected =>
    intro s l h
    rw [exec_signalDetect, if_neg]
    simpa [or_iff_not_imp_left] using h
  case lock =>
    intro s l hs hst
    exact trainingLock_link hs hst
  case notTraining =>
    intro s l h
    rw [exec_trainingLock, exec_trainingTimeout, linkLocked, beq_false_of_ne h]
    exact ⟨rfl, rfl⟩
  case timeout =>
    intro s l hs hst
    refine ⟨_, exec_trainingTimeout l s, ?_⟩
    rw [if_pos (by rw [hst]; rfl)]
    exact linkTo_alone hs (by rw [hst]; decide) (by decide)
  case loss =>
    intro s l hs hrest hst
    have hto := linkTo_relinked s l.val .down .ok
    refine ⟨_, exec_lossOfSignal l s, ?_⟩
    rw [if_pos (by simpa [or_assoc] using hst), settle_of_noWork (hto.work hrest)]
    exact ⟨linkTo_st (fabOk_of_sound hs) l.val .down .ok, hto.mem⟩
  case expired =>
    intro s l hs hrest hst
    exact helloTimeout_link hs hrest hst
  case question =>
    intro s l h m hs hrest hst harrived hloop hheld hm hnonce
    obtain ⟨hon, hanswered, hpeer, hst'⟩ := helloArrive_question (fabOk_of_sound hs) hst hheld hm hnonce
    exact ⟨_, exec_hello_of_onLink hrest hst harrived hloop h hon, hanswered, hpeer, hst', hon.others (fabOk_of_sound hs),
      hon.relinked.mem⟩
  case answer =>
    intro s l h m hs hrest hst harrived hloop hheld hm hnonce hpassed
    have hf := fabOk_of_sound hs
    have hrun := helloArrive_answer hm hnonce hpassed
    by_cases hpass : helloPasses s l.val m = true
    · rw [if_pos hpass] at hrun
      obtain ⟨hon, hlink⟩ := helloPassed_link hf hst hheld m
      rw [← hrun] at hon hlink
      refine ⟨_, exec_hello_of_onLink hrest hst harrived hloop h hon, hon.others hf, hon.relinked.mem, fun _ => ?_,
        fun hno => absurd hpass (by rw [hno]; decide)⟩
      rw [hlink]
      cases (link s l.val).answered
      · exact ⟨rfl, rfl, rfl, hst, nofun⟩
      · exact ⟨rfl, rfl, rfl, rfl, fun _ => rfl⟩
    · rw [if_neg hpass] at hrun
      obtain ⟨hon, -, hst', -⟩ := helloFail_onLink hf hst
      rw [← hrun] at hon hst'
      exact ⟨_, exec_hello_of_onLink hrest hst harrived hloop h hon, hon.others hf, hon.relinked.mem,
        fun hyes => absurd hyes hpass, fun _ => hst'⟩
  case retry =>
    intro s l hs hst hcan
    refine ⟨_, exec_failedLinkRetry l s, ?_⟩
    rw [if_pos (by rw [hst, hcan]; rfl)]
    exact linkTo_alone hs (by rw [hst]; decide) (by decide)
  case retrain =>
    intro s l hs hrest hretraining
    have hfail := linkFail_relinked s l.val
    refine ⟨_, exec_linkRetrainTimeout l s, ?_⟩
    rw [if_pos hretraining, settle_of_noWork (hfail.work hrest)]
    exact ⟨linkFail_st (fabOk_of_sound hs) l.val, linkFail_waits s l.val, hfail.mem⟩
  case notRetraining =>
    intro s l h
    rw [exec_linkRetrainTimeout, h, if_neg Bool.false_ne_true]
  case silence =>
    intro s l v hs hst hcredits hwaits
    obtain ⟨hst', hcounts⟩ := linkStuck_link (fabOk_of_sound hs) (l := l.val) (by rw [hst]; decide)
    refine ⟨_, exec_creditSilence l v s, ?_⟩
    rw [if_pos ((laneStarves_iff s l.val v.val).mpr ⟨hst, hcredits, hwaits⟩)]
    exact ⟨(linkStuck_relinked s l.val).mem, hst', hcounts⟩
  case notStarved =>
    intro s l v h
    rw [exec_creditSilence, if_neg]
    rw [laneStarves_iff]
    rintro ⟨hst, hcredits, hwaits⟩
    rcases h with hdown | hcredit | ⟨hqueue, hport⟩
    · exact hdown hst
    · omega
    · rcases hwaits with ⟨f, hf, hvl⟩ | ⟨w, hw, hp, hc⟩
      · exact hqueue f hf hvl
      · rcases hport w hw with hne | hne
        · exact hne hp
        · exact hne hc

end Sys2Proof.Machine
end

section
/-! PROOFS. Flits (spec/12 R295, R297, R298, Table 12.1): accepted in order, dropped with one NAK, replayed and acknowledged. O52
holds. -/

namespace Sys2Proof.Machine

/-! ### What a flit makes of a link -/

theorem getElem?_replaceAt {α : Type} : ∀ (xs : List α) (i j : Nat) (v : α), i < xs.length →
    (replaceAt xs i v)[j]? = if j = i then some v else xs[j]?
  | [], i, _, _, hi => absurd hi (Nat.not_lt_zero i)
  | _ :: _, 0, 0, _, _ => rfl
  | _ :: _, 0, j + 1, _, _ => rfl
  | _ :: _, i + 1, 0, _, _ => rfl
  | _ :: xs, i + 1, j + 1, v, hi => by
    simp only [replaceAt, List.getElem?_cons_succ, Nat.add_right_cancel_iff]
    exact getElem?_replaceAt xs i j v (Nat.lt_of_succ_lt_succ hi)

theorem replaceAt_length {α : Type} : ∀ (xs : List α) (i : Nat) (v : α), (replaceAt xs i v).length = xs.length
  | [], _, _ => rfl
  | _ :: _, 0, _ => rfl
  | _ :: xs, i + 1, v => congrArg (· + 1) (replaceAt_length xs i v)

/-- A good flit's ACK releases copies, and its credits are added. -/
theorem takeReturns_eq (x : Link) (w : Nat) : takeReturns x w =
    { x with
      retry := x.retry.drop (ackCovers x (natBits w 42 31))
      stuckReplays := if ackCovers x (natBits w 42 31) = 0 then x.stuckReplays else 0
      failedRetrains := if ackCovers x (natBits w 42 31) = 0 then x.failedRetrains else 0
      credits := replaceAt x.credits (natBits w 30 28) (min 128 ((x.credits[natBits w 30 28]?).getD 0 + natBits w 27 20)) } := by
  by_cases h : ackCovers x (natBits w 42 31) = 0
  · simp only [takeReturns, takeAck, takeCredits, h, if_true, List.drop_zero]
  · simp only [takeReturns, takeAck, takeCredits, h, if_false]

theorem takeReturns_stuckReplays_le (x : Link) (w : Nat) : (takeReturns x w).stuckReplays ≤ x.stuckReplays := by
  rw [takeReturns_eq]
  dsimp only
  split
  · exact Nat.le_refl _
  · exact Nat.zero_le _

theorem pumpLink_of_idle {x : Link} (h : x.txq = []) : pumpLink x = x := by
  cases x
  obtain rfl := h
  rfl

/-- The one flit that waits goes out, or stays behind. -/
theorem pumpLink_of_one {x : Link} {q : TxFlit} (h : x.txq = [q]) :
    pumpLink x = if flitGoes { x with txq := [] } q.vl then sendFlit { x with txq := [] } q else x := by
  have horder : x.txq.filter (fun f => decide (f.vl ≥ 6)) ++ x.txq.filter (fun f => decide (f.vl < 6)) = [q] := by
    rw [h]
    by_cases hq : q.vl ≥ 6
    · simp [hq, Nat.not_lt.mpr hq]
    · simp [hq, Nat.not_le.mp hq]
  have hback : { x with txq := [] ++ [q] } = x := by rw [List.nil_append, ← h]
  rw [pumpLink, horder, List.foldl_cons, List.foldl_nil]
  exact congrArg (ite _ _) hback

/-- A flit that goes out takes the next SEQ and a credit, and a copy of it is kept. -/
theorem sendFlit_spec (x : Link) (f : TxFlit) : ∃ b, (sendFlit x f).sent = x.sent ++ [b] ∧
    (sendFlit x f).retry = x.retry ++ [(f.held, b)] ∧ (sendFlit x f).sendSeq = (x.sendSeq + 1) % 4096 ∧
    (sendFlit x f).credits = replaceAt x.credits f.vl ((x.credits[f.vl]?).getD 0 - 1) ∧ (sendFlit x f).txq = x.txq :=
  ⟨_, rfl, rfl, rfl, rfl, rfl⟩

theorem flitGoes_of_idle {x : Link} {vl : Nat} (h : x.txq = []) (hr : x.retry.length < 256) :
    flitGoes x vl = decide ((x.credits[vl]?).getD 0 > 0) := by
  simp only [flitGoes, h, hr, List.all_nil, decide_true, Bool.and_true]

/-- Link x with a good DATA flit taken, before its acknowledgement. -/
def flitTaken (x : Link) (f : List Byte) : Link × Option (List Byte) :=
  takePayload { takeReturns x (flitWord f) with
    expSeq := (x.expSeq + 1) % 4096, unacked := x.unacked + 1, nak := false } f

/-- The acknowledgement that every sixteenth good flit brings. -/
def ackedEvery (x : Link) : Link := if x.unacked ≥ 16 then sendControl x 0 else x

theorem takePayload_link (x : Link) (f : List Byte) : ∃ r, (takePayload x f).1 = { x with rx := r } := by
  unfold takePayload
  dsimp only
  split <;> exact ⟨_, rfl⟩

theorem takePayload_whole {f : List Byte} (hsop : natBits (flitWord f) 56 56 = 1) (heop : natBits (flitWord f) 55 55 = 1)
    (x : Link) : (takePayload x f).2 = some ((f.drop 8).take (natBits (flitWord f) 7 0)) := by
  simp only [takePayload, hsop, heop, if_true]

theorem takePayload_part {f : List Byte} (heop : natBits (flitWord f) 55 55 = 0) (x : Link) : (takePayload x f).2 = none := by
  simp only [takePayload, heop, Nat.zero_ne_one, if_false]

theorem flitTaken_link (x : Link) (f : List Byte) :
    (ackedEvery (flitTaken x f).1).expSeq = (x.expSeq + 1) % 4096 ∧ (ackedEvery (flitTaken x f).1).nak = false ∧
      (ackedEvery (flitTaken x f).1).unacked = (if x.unacked < 15 then x.unacked + 1 else 0) ∧
      (ackedEvery (flitTaken x f).1).txq = x.txq := by
  obtain ⟨r, hr⟩ := takePayload_link { takeReturns x (flitWord f) with
    expSeq := (x.expSeq + 1) % 4096, unacked := x.unacked + 1, nak := false } f
  have htxq : (takeReturns x (flitWord f)).txq = x.txq := by rw [takeReturns_eq]
  rw [flitTaken, hr, ackedEvery]
  by_cases hfew : x.unacked < 15
  · rw [if_pos hfew, if_neg (by dsimp only; omega)]
    exact ⟨rfl, rfl, rfl, htxq⟩
  · rw [if_neg hfew, if_pos (by dsimp only; omega)]
    exact ⟨rfl, rfl, rfl, htxq⟩

/-- Link x with every flit after the acknowledged ones sent again. -/
def replayedLink (x : Link) : Link :=
  { x with sent := x.sent ++ x.retry.map (·.2), replays := min 65535 (x.replays + 1), stuckReplays := x.stuckReplays + 1 }

/-- Link x with a flit dropped. -/
def nakkedLink (x : Link) : Link := if x.nak then x else { sendControl x 2 with nak := true }

theorem nakkedLink_spec (x : Link) : (nakkedLink x).nak = true ∧ (nakkedLink x).expSeq = x.expSeq ∧
    (nakkedLink x).retry = x.retry ∧ (nakkedLink x).credits = x.credits ∧
    (nakkedLink x).sent = x.sent ++ (if x.nak then [] else [controlFlit x 2]) := by
  unfold nakkedLink
  by_cases h : x.nak = true
  · rw [if_pos h, if_pos h, List.append_nil]
    exact ⟨h, rfl, rfl, rfl, rfl⟩
  · rw [if_neg h, if_neg h]
    exact ⟨rfl, rfl, rfl, rfl, rfl⟩

/-! ### What a flit makes of the device -/

theorem nakOnce_eq (s : State) (l : Nat) : nakOnce s l = linkPut s l (nakkedLink (link s l)) := rfl

/-- With nothing held, the link's own queue is all that goes on. -/
theorem linkGoesOn_of_none {s : State} (h : s.fab.heldPkts = []) (l : Nat) : linkGoesOn s l = linkUpdate s l pumpLink :=
  retryHeld_of_none (s := linkUpdate s l pumpLink) h

theorem link_linkGoesOn {s : State} (hf : FabOk s.fab) (h : s.fab.heldPkts = []) (l : Nat) :
    link (linkGoesOn s l) l = pumpLink (link s l) := by
  rw [linkGoesOn_of_none h, link_linkUpdate hf, if_pos rfl]

theorem linkGoesOn_onLink {s : State} (h : s.fab.heldPkts = []) (l : Nat) : OnLink s (linkGoesOn s l) l := by
  rw [linkGoesOn_of_none h]
  exact linkUpdate_onLink s l pumpLink

/-- The packet that a flit completed goes to the router. -/
def withArrived (s : State) (l : Nat) (done : Option (List Byte)) : State :=
  { s with fab := { s.fab with arrived := s.fab.arrived ++ done.toList.map fun bytes => (l, bytes) } }

theorem withArrived_onLink (s : State) (l : Nat) (done : Option (List Byte)) : OnLink s (withArrived s l done) l :=
  ⟨⟨rfl, id, fun _ _ => rfl, id, fun _ _ _ => id⟩, rfl, rfl, fun _ _ _ => rfl⟩

theorem dataArrive_of_ok {s : State} {l : Nat} {f : List Byte} (hc : linkCarries (link s l) = true)
    (hok : dataFlitOk (link s l) f true = true) : dataArrive s l f true =
      linkGoesOn (withArrived (linkPut s l (ackedEvery (flitTaken (link s l) f).1)) l (flitTaken (link s l) f).2) l := by
  have hseq : (takeReturns (link s l) (flitWord f)).expSeq = (link s l).expSeq := by rw [takeReturns_eq]
  have hunacked : (takeReturns (link s l) (flitWord f)).unacked = (link s l).unacked := by rw [takeReturns_eq]
  simp only [dataArrive, hc, hok, hseq, hunacked, Bool.not_true, Bool.false_eq_true, if_false]
  change linkGoesOn (match (flitTaken (link s l) f).2 with | some bytes => _ | none => _) l = _
  cases (flitTaken (link s l) f).2 with
  | some bytes => rfl
  | none =>
    simp only [withArrived, Option.toList_none, List.map_nil, List.append_nil]
    rfl

theorem dataArrive_of_bad {s : State} {l : Nat} {f : List Byte} {fec : Bool} (hc : linkCarries (link s l) = true)
    (hbad : dataFlitOk (link s l) f fec = false) : dataArrive s l f fec = nakOnce s l := by
  simp only [dataArrive, hc, hbad, Bool.not_true, Bool.not_false, Bool.false_eq_true, if_false, if_true]

theorem idleArrive_of_ok {s : State} {l : Nat} {f : List Byte} (hc : linkCarries (link s l) = true) (hcrc : flitCrcOk f = true)
    (htype : natBits (flitWord f) 63 60 = 0) :
    idleArrive s l f true = linkGoesOn (linkPut s l (takeReturns (link s l) (flitWord f))) l := by
  simp only [idleArrive, hc, hcrc, htype, Bool.and_self, Bool.not_true, Bool.false_eq_true, if_false, if_true]

theorem nakArrive_of_ok {s : State} {l : Nat} {f : List Byte} (hc : linkCarries (link s l) = true) (hcrc : flitCrcOk f = true)
    (htype : natBits (flitWord f) 63 60 = 2) :
    nakArrive s l f true = linkGoesOn (replayFlits (linkPut s l (takeReturns (link s l) (flitWord f))) l) l := by
  simp only [nakArrive, hc, hcrc, htype, Bool.and_self, Bool.not_true, Bool.false_eq_true, if_false, if_true]

/-- A control flit that fails its CRC or its FEC is dropped as any flit is. -/
theorem controlArrive_of_bad {s : State} {l : Nat} {f : List Byte} {fec : Bool} (hc : linkCarries (link s l) = true)
    (hbad : fec = false ∨ flitCrcOk f = false) : idleArrive s l f fec = nakOnce s l ∧ nakArrive s l f fec = nakOnce s l := by
  have hfails : (fec && flitCrcOk f) = false := Bool.and_eq_false_iff.mpr hbad
  simp only [idleArrive, nakArrive, hc, hfails, Bool.not_true, Bool.not_false, Bool.false_eq_true, if_false, if_true, and_self]

theorem replayFlits_eq (s : State) (l : Nat) : replayFlits s l =
    if (link s l).stuckReplays + 1 ≥ 8 then linkStuck (raiseFault (linkPut s l (replayedLink (link s l))) 4 l 0x10 l) l
    else raiseFault (linkPut s l (replayedLink (link s l))) 4 l 0x10 l := rfl

/-- A replay that has not been the eighth in a row: flits sent again, and a record. -/
theorem replayFlits_few {s : State} (hf : FabOk s.fab) {l : Nat} (hfew : (link s l).stuckReplays < 7) :
    OnLink s (replayFlits s l) l ∧ link (replayFlits s l) l = replayedLink (link s l) ∧ Waits (replayFlits s l) 4 l 0x10 := by
  rw [replayFlits_eq, if_neg (by omega)]
  exact ⟨(linkPut_onLink s l _).trans (raiseFault_onLink ..), (link_linkPut hf l _ l).trans (if_pos rfl), waits_raiseFault ..⟩

/-- The eighth replay in a row without progress retrains the link. -/
theorem replayFlits_stuck {s : State} (hf : FabOk s.fab) {l : Nat} (hc : linkCarries (link s l) = true)
    (hmany : 7 ≤ (link s l).stuckReplays) (hfew : (link s l).failedRetrains < 3) :
    Relinked s (replayFlits s l) ∧ (link (replayFlits s l) l).st = .training ∧ Waits (replayFlits s l) 4 l 0x10 := by
  generalize hu : raiseFault (linkPut s l (replayedLink (link s l))) 4 l 0x10 l = u
  have hlink : link u l = replayedLink (link s l) := by
    rw [← hu]
    exact (link_linkPut hf l _ l).trans (if_pos rfl)
  have hon : Relinked s u := hu ▸ (linkPut_relinked s l _).trans (raiseFault_relinked ..)
  have hst : (link u l).st ≠ .training := by
    have hcarries : (link u l).st = .up ∨ (link u l).st = .hello := by
      rw [hlink]
      simpa [linkCarries, replayedLink] using hc
    rcases hcarries with h | h <;> simp [h]
  have hfailed : (link u l).failedRetrains = (link s l).failedRetrains := by rw [hlink]; rfl
  obtain ⟨hst', -⟩ := linkStuck_link (hon.fabOk hf) hst
  rw [hfailed, if_pos hfew] at hst'
  rw [replayFlits_eq, if_pos (by omega), hu]
  exact ⟨hon.trans (linkStuck_relinked u l), hst', (linkStuck_relinked u l).waits _ _ _ (hu ▸ waits_raiseFault ..)⟩

/-! ### The commands -/

theorem exec_dataFlit (l : Fin 96) (f : List Byte) (fec : Bool) (s : State) :
    exec (.dataFlit l f fec) s = .next (dataArrive s l.val f fec) := rfl
theorem exec_idleFlit (l : Fin 96) (f : ControlFlit) (s : State) :
    exec (.idleFlit l f) s = .next (idleArrive s l.val f.bytes f.fecOk) := rfl
theorem exec_nakFlit (l : Fin 96) (f : ControlFlit) (s : State) :
    exec (.nakFlit l f) s = .next (nakArrive s l.val f.bytes f.fecOk) := rfl
theorem exec_nakRepeat (l : Fin 96) (s : State) : exec (.nakRepeat l) s =
    .next (if linkCarries (link s l.val) && (link s l.val).nak then linkPut s l.val (sendControl (link s l.val) 2) else s) := rfl
theorem exec_retryTimeout (l : Fin 96) (s : State) : exec (.retryTimeout l) s =
    .next (if linkCarries (link s l.val) && !(link s l.val).retry.isEmpty then replayFlits s l.val else s) := rfl
theorem exec_linkAckTimer (l : Fin 96) (s : State) : exec (.linkAckTimer l) s =
    .next (if linkCarries (link s l.val) && (decide ((link s l.val).unacked > 0) || decide ((owedCredits (link s l.val)).2 > 0))
      then linkPut s l.val (sendControl (link s l.val) 0) else s) := rfl

theorem dataFlit_taken {s : State} {l : Fin 96} {f : List Byte} (hs : Sound s = true) (hc : linkCarries (link s l.val) = true)
    (hok : dataFlitOk (link s l.val) f true = true) (hidle : OutIdle s l.val) :
    ∃ t, exec (.dataFlit l f true) s = .next t ∧ (link t l.val).expSeq = ((link s l.val).expSeq + 1) % 4096 ∧
      (link t l.val).nak = false ∧
      (link t l.val).unacked = (if (link s l.val).unacked < 15 then (link s l.val).unacked + 1 else 0) ∧
      (natBits (flitWord f) 56 56 = 1 → natBits (flitWord f) 55 55 = 1 →
        t.fab.arrived = s.fab.arrived ++ [(l.val, (f.drop 8).take (natBits (flitWord f) 7 0))]) ∧
      (natBits (flitWord f) 55 55 = 0 → t.fab.arrived = s.fab.arrived) ∧ OtherLinks s t l.val ∧ t.mem = s.mem := by
  obtain ⟨htxq, hheld⟩ := hidle
  have hf := fabOk_of_sound hs
  obtain ⟨hseq, hnak, hunacked, hqueue⟩ := flitTaken_link (link s l.val) f
  generalize hu : withArrived (linkPut s l.val (ackedEvery (flitTaken (link s l.val) f).1)) l.val (flitTaken (link s l.val) f).2 = u
  have hlink : link u l.val = ackedEvery (flitTaken (link s l.val) f).1 := by
    rw [← hu]
    exact (link_linkPut hf l.val _ l.val).trans (if_pos rfl)
  have hon : OnLink s u l.val := hu ▸ (linkPut_onLink s l.val _).trans (withArrived_onLink _ l.val _)
  have hnone : u.fab.heldPkts = [] := hon.held.trans hheld
  have harrived : (linkGoesOn u l.val).fab.arrived =
      s.fab.arrived ++ (flitTaken (link s l.val) f).2.toList.map fun bytes => (l.val, bytes) := by
    rw [linkGoesOn_of_none hnone, ← hu]
    rfl
  have hends : link (linkGoesOn u l.val) l.val = ackedEvery (flitTaken (link s l.val) f).1 := by
    rw [link_linkGoesOn (hon.relinked.fabOk hf) hnone, hlink, pumpLink_of_idle (hqueue.trans htxq)]
  have hall := hon.trans (linkGoesOn_onLink hnone l.val)
  refine ⟨_, exec_dataFlit l f true s, ?_⟩
  rw [dataArrive_of_ok hc hok, hu, hends, harrived]
  refine ⟨hseq, hnak, hunacked, fun hsop heop => ?_, fun heop => ?_, hall.others hf, hall.relinked.mem⟩
  · rw [flitTaken, takePayload_whole hsop heop]
    rfl
  · rw [flitTaken, takePayload_part heop]
    exact List.append_nil _

/-- An IDLE flit that comes while one flit waits: it goes out by the credit that the IDLE flit brings, or stays. -/
theorem idleFlit_moves {s : State} {l : Fin 96} {f : List Byte} {q : TxFlit} (hs : Sound s = true)
    (hc : linkCarries (link s l.val) = true) (hcrc : flitCrcOk f = true) (htype : natBits (flitWord f) 63 60 = 0)
    (hheld : s.fab.heldPkts = []) (htxq : (link s l.val).txq = [q]) (hvl : q.vl < 8) (hretry : (link s l.val).retry.length < 256)
    (hcredits : (link s l.val).credits.length = 8) :
    ∃ t, exec (.idleFlit l ⟨f, true⟩) s = .next t ∧ OtherLinks s t l.val ∧ t.mem = s.mem ∧
      (natBits (flitWord f) 30 28 = q.vl → 0 < natBits (flitWord f) 27 20 →
        ∃ b, (link t l.val).txq = [] ∧ (link t l.val).sent = (link s l.val).sent ++ [b] ∧
          (link t l.val).retry = (link s l.val).retry.drop (ackCovers (link s l.val) (natBits (flitWord f) 42 31)) ++
            [(q.held, b)] ∧ (link t l.val).sendSeq = ((link s l.val).sendSeq + 1) % 4096 ∧
          ((link t l.val).credits[q.vl]?).getD 0 =
            min 128 (((link s l.val).credits[q.vl]?).getD 0 + natBits (flitWord f) 27 20) - 1) ∧
      (natBits (flitWord f) 30 28 ≠ q.vl → ((link s l.val).credits[q.vl]?).getD 0 = 0 →
        (link t l.val).txq = [q] ∧ (link t l.val).sent = (link s l.val).sent) := by
  have hf := fabOk_of_sound hs
  have hlane : natBits (flitWord f) 30 28 < (link s l.val).credits.length := by
    rw [hcredits]
    exact Nat.mod_lt _ (by decide)
  generalize hy : takeReturns (link s l.val) (flitWord f) = y
  have heq := hy ▸ takeReturns_eq (link s l.val) (flitWord f)
  have hyq : y.txq = [q] := by rw [heq]; exact htxq
  have hysent : y.sent = (link s l.val).sent := by rw [heq]
  have hyseq : y.sendSeq = (link s l.val).sendSeq := by rw [heq]
  have hyretry : y.retry = (link s l.val).retry.drop (ackCovers (link s l.val) (natBits (flitWord f) 42 31)) := by rw [heq]
  have hycredits : y.credits[q.vl]? = if q.vl = natBits (flitWord f) 30 28 then
      some (min 128 (((link s l.val).credits[natBits (flitWord f) 30 28]?).getD 0 + natBits (flitWord f) 27 20))
      else (link s l.val).credits[q.vl]? := by
    rw [heq]
    exact getElem?_replaceAt _ _ _ _ hlane
  have hylen : y.credits.length = 8 := by rw [heq, replaceAt_length, hcredits]
  have hgoes : flitGoes { y with txq := [] } q.vl = decide ((y.credits[q.vl]?).getD 0 > 0) := by
    refine flitGoes_of_idle rfl (Nat.lt_of_le_of_lt ?_ hretry)
    rw [hyretry, List.length_drop]
    exact Nat.sub_le _ _
  have hon := (linkPut_onLink s l.val y).trans (linkGoesOn_onLink (s := linkPut s l.val y) hheld l.val)
  have hends : link (linkGoesOn (linkPut s l.val y) l.val) l.val = pumpLink y := by
    rw [link_linkGoesOn (linkPut_fabOk hf l.val y) hheld, link_linkPut hf, if_pos rfl]
  refine ⟨_, exec_idleFlit l ⟨f, true⟩ s, ?_⟩
  rw [idleArrive_of_ok hc hcrc htype, hy, hends, pumpLink_of_one hyq, hgoes]
  refine ⟨hon.others hf, hon.relinked.mem, fun hsame hcredit => ?_, fun hother hnone => ?_⟩
  · have hhas : (y.credits[q.vl]?).getD 0 =
        min 128 (((link s l.val).credits[q.vl]?).getD 0 + natBits (flitWord f) 27 20) := by
      rw [hycredits, if_pos hsame.symm, hsame, Option.getD_some]
    obtain ⟨b, hsent, hkept, hseq, hcr, hq⟩ := sendFlit_spec { y with txq := [] } q
    rw [if_pos (by rw [hhas]; exact decide_eq_true (by omega)), hsent, hkept, hseq, hcr, hq]
    refine ⟨b, rfl, congrArg (· ++ [b]) hysent, congrArg (· ++ _) hyretry, congrArg (fun n => (n + 1) % 4096) hyseq, ?_⟩
    rw [getElem?_replaceAt _ _ _ _ (hylen ▸ hvl), if_pos rfl, Option.getD_some]
    exact congrArg (· - 1) hhas
  · have hempty : (y.credits[q.vl]?).getD 0 = 0 := by rw [hycredits, if_neg (Ne.symm hother), hnone]
    rw [if_neg (by rw [hempty]; decide)]
    exact ⟨hyq, hysent⟩

/-- Settles O52: each flit and each timer changes the one link, by the lemmas above. -/
theorem flits : Obligations.Flits := by
  unfold Obligations.Flits
  refine ⟨?data, ?dropped, ?idle, ?moves, ?bad, ?deaf, ?nak, ?again, ?noNak, ?stuck, ?nothingKept, ?ack, ?nothingOwed⟩
  case data =>
    intro s l f hs hc hok hidle
    exact dataFlit_taken hs hc hok hidle
  case dropped =>
    intro s l f fec hs hc hbad
    have hf := fabOk_of_sound hs
    obtain ⟨hnak, hseq, -, -, hsent⟩ := nakkedLink_spec (link s l.val)
    refine ⟨_, exec_dataFlit l f fec s, ?_⟩
    rw [dataArrive_of_bad hc hbad, nakOnce_eq, link_linkPut hf, if_pos rfl]
    exact ⟨hnak, hseq, rfl, hsent, (linkPut_onLink s l.val _).others hf, rfl⟩
  case idle =>
    rintro s l f hs hc hcrc htype ⟨htxq, hheld⟩
    have hf := fabOk_of_sound hs
    have hon := (linkPut_onLink s l.val (takeReturns (link s l.val) (flitWord f))).trans
      (linkGoesOn_onLink (s := linkPut s l.val (takeReturns (link s l.val) (flitWord f))) hheld l.val)
    have hqueue : (takeReturns (link s l.val) (flitWord f)).txq = [] := by rw [takeReturns_eq]; exact htxq
    refine ⟨_, exec_idleFlit l ⟨f, true⟩ s, ?_⟩
    rw [idleArrive_of_ok hc hcrc htype, link_linkGoesOn (linkPut_fabOk hf l.val _) hheld, link_linkPut hf, if_pos rfl,
      pumpLink_of_idle hqueue, takeReturns_eq]
    rw [takeReturns_eq] at hon
    exact ⟨rfl, rfl, rfl, hon.others hf, hon.relinked.mem⟩
  case moves =>
    intro s l f q hs hc hcrc htype hheld htxq hvl hretry hcredits
    exact idleFlit_moves hs hc hcrc htype hheld htxq hvl hretry hcredits
  case bad =>
    intro s l f fec hs hc hbad
    have hf := fabOk_of_sound hs
    obtain ⟨hidle, hnakked⟩ := controlArrive_of_bad (s := s) (l := l.val) hc hbad
    obtain ⟨hnak, -, hretry, hcredits, hsent⟩ := nakkedLink_spec (link s l.val)
    refine ⟨nakOnce s l.val, (exec_idleFlit ..).trans (congrArg _ hidle), (exec_nakFlit ..).trans (congrArg _ hnakked), ?_⟩
    rw [nakOnce_eq, link_linkPut hf, if_pos rfl]
    exact ⟨hnak, hretry, hcredits, hsent, (linkPut_onLink s l.val _).others hf, rfl⟩
  case deaf =>
    intro s l f fec hc
    simp only [exec_idleFlit, exec_nakFlit, idleArrive, nakArrive, hc, Bool.not_false, if_true, and_self]
  case nak =>
    rintro s l f hs hc hcrc htype hfew ⟨htxq, hheld⟩
    have hf := fabOk_of_sound hs
    generalize hy : takeReturns (link s l.val) (flitWord f) = y
    have hput : link (linkPut s l.val y) l.val = y := (link_linkPut hf l.val y l.val).trans (if_pos rfl)
    have hfewer : (link (linkPut s l.val y) l.val).stuckReplays < 7 := by
      rw [hput, ← hy]
      exact Nat.lt_of_le_of_lt (takeReturns_stuckReplays_le ..) hfew
    obtain ⟨hagain, hlink, hwaits⟩ := replayFlits_few (linkPut_fabOk hf l.val y) hfewer
    have hon := (linkPut_onLink s l.val y).trans hagain
    have hnone := hon.held.trans hheld
    have hgoes := linkGoesOn_onLink hnone l.val
    have hqueue : (replayedLink y).txq = [] := by rw [← hy, takeReturns_eq]; exact htxq
    refine ⟨_, exec_nakFlit l ⟨f, true⟩ s, ?_⟩
    rw [nakArrive_of_ok hc hcrc htype, hy, link_linkGoesOn (hon.relinked.fabOk hf) hnone, hlink, hput, pumpLink_of_idle hqueue]
    rw [takeReturns_eq] at hy
    subst hy
    exact ⟨rfl, rfl, rfl, hgoes.relinked.waits _ _ _ hwaits, (hon.trans hgoes).others hf, (hon.trans hgoes).relinked.mem⟩
  case again =>
    intro s l hs hc hnak
    have hf := fabOk_of_sound hs
    refine ⟨_, exec_nakRepeat l s, ?_⟩
    rw [hc, hnak, Bool.and_self, if_pos rfl, link_linkPut hf, if_pos rfl]
    exact ⟨rfl, hnak, (linkPut_onLink s l.val _).others hf, rfl⟩
  case noNak =>
    intro s l hnak
    rw [exec_nakRepeat, hnak, Bool.and_false, if_neg Bool.false_ne_true]
  case stuck =>
    intro s l hs hc hretry hfailed
    have hf := fabOk_of_sound hs
    refine ⟨replayFlits s l.val, ?_, ?_⟩
    · rw [exec_retryTimeout, hc, List.isEmpty_eq_false_iff.mpr hretry]
      rfl
    by_cases hfew : (link s l.val).stuckReplays < 7
    · obtain ⟨hon, hlink, hwaits⟩ := replayFlits_few hf hfew
      refine ⟨hwaits, hon.relinked.mem, fun _ => ?_, fun hmany => absurd hfew (Nat.not_lt.mpr hmany)⟩
      rw [hlink]
      exact ⟨rfl, rfl, rfl⟩
    · obtain ⟨hre, hst, hwaits⟩ := replayFlits_stuck hf hc (Nat.not_lt.mp hfew) hfailed
      exact ⟨hwaits, hre.mem, fun h => absurd h hfew, fun _ => hst⟩
  case nothingKept =>
    intro s l hretry
    rw [exec_retryTimeout, hretry, List.isEmpty_nil, Bool.not_true, Bool.and_false, if_neg Bool.false_ne_true]
  case ack =>
    intro s l hs hc hunacked
    have hf := fabOk_of_sound hs
    refine ⟨_, exec_linkAckTimer l s, ?_⟩
    rw [hc, decide_eq_true hunacked, Bool.true_or, Bool.true_and, if_pos rfl, link_linkPut hf, if_pos rfl]
    exact ⟨rfl, rfl, (linkPut_onLink s l.val _).others hf, rfl⟩
  case nothingOwed =>
    intro s l hunacked howed
    rw [exec_linkAckTimer, hunacked, howed, if_neg]
    simp

end Sys2Proof.Machine
end

section
/-! PROOFS. GAL_LINK_CTL (spec/12 R312, R313, Table 12.11): EN, CLEAR_Q and RETRAIN. O22 holds. -/

namespace Sys2Proof.Machine

/-! ### The register -/

/-- Setting a field leaves one that begins above it. -/
theorem bits_setBits_above {hi lo hi' lo' : Nat} (h : hi < lo') (v : Word) (x : Nat) :
    bits (setBits v hi lo x) hi' lo' = bits v hi' lo' := by
  refine Nat.eq_of_testBit_eq fun i => ?_
  simp only [bits, natBits, setBits, Nat.testBit_mod_two_pow, Nat.testBit_shiftRight, BitVec.testBit_toNat,
    BitVec.getLsbD_or, BitVec.getLsbD_and, BitVec.getLsbD_not, BitVec.getLsbD_ofNat, Nat.testBit_shiftLeft,
    Nat.testBit_two_pow_sub_one]
  have hout : ¬ lo' + i - lo < hi + 1 - lo := by omega
  by_cases hword : lo' + i < 32
  · simp [hout, hword]
  · simp [hout, hword, BitVec.getLsbD_of_ge v (lo' + i) (by omega)]

theorem linkCtlOff_bounds (l : Fin 96) : linkCtlOff l.val % 16 = 0 ∧
    (0x801000 ≤ linkCtlOff l.val ∧ linkCtlOff l.val < 0x801300 ∨ 0xA01000 ≤ linkCtlOff l.val ∧ linkCtlOff l.val < 0xA01300) := by
  have hl := l.isLt
  unfold linkCtlOff galBase galleryOf
  split <;> omega

theorem galLink_linkCtlOff (l : Fin 96) : galLink (linkCtlOff l.val) = l.val := by
  have hl := l.isLt
  unfold galLink linkCtlOff galBase galleryOf
  split <;> split <;> omega

theorem linkCtlOff_not_tally (l : Fin 96) : linkCtlOff l.val ∉ tallies := by
  obtain ⟨-, hrange⟩ := linkCtlOff_bounds l
  simp only [tallies, List.mem_cons, List.not_mem_nil, or_false, not_or]
  omega

theorem regDef_linkCtl (l : Fin 96) : (regDef (linkCtlOff l.val)).map (fun d => (d.rw, d.w1c)) = some (0x90000000, 0) :=
  (by decide +kernel : ∀ l : Fin 96, (regDef (linkCtlOff l.val)).map (fun d => (d.rw, d.w1c)) = some (0x90000000, 0)) l

/-- A write of the register through BAR0. -/
theorem writeReg_linkCtl (s : State) (l : Fin 96) (v : Word) : writeReg s (linkCtlOff l.val) v = linkCtl s (linkCtlOff l.val) v := by
  obtain ⟨halign, hrange⟩ := linkCtlOff_bounds l
  have hshared : galShared (linkCtlOff l.val) = linkCtlOff l.val := if_neg (by omega)
  rw [writeReg, if_neg (by omega), if_neg (by omega), if_neg (by omega), if_neg (by omega), if_neg (by omega), if_neg (by omega),
    if_neg (by omega), if_pos (by omega), galWrite, if_neg (not_not.mpr hshared), if_neg (by omega), if_neg (by omega),
    if_neg (by omega), if_neg (by omega), if_pos ⟨hrange, halign⟩]

section
variable {s : State} (ho : HostOpen s)
include ho

theorem exec_linkEnWrite (l : Fin 96) (en : Bool) : exec (.linkEnWrite l en) s =
    .next (linkCtl s (linkCtlOff l.val) (setBits (regGet s (linkCtlOff l.val)) 31 31 (b2n en))) := by
  rw [← writeReg_linkCtl, ← hostWrite_of_open ho]
  rfl

theorem exec_clearQ (l : Fin 96) : exec (.clearQ l) s =
    .next (linkCtl s (linkCtlOff l.val) (setBits (regGet s (linkCtlOff l.val)) 30 30 1)) := by
  rw [← writeReg_linkCtl, ← hostWrite_of_open ho]
  rfl

theorem exec_retrain (l : Fin 96) : exec (.retrain l) s =
    .next (linkCtl s (linkCtlOff l.val) (setBits (regGet s (linkCtlOff l.val)) 29 29 1)) := by
  rw [← writeReg_linkCtl, ← hostWrite_of_open ho]
  rfl

end

/-! ### EN, CLEAR_Q and RETRAIN -/

/-- What EN makes of a link after the register has taken the write. -/
def linkEnabled (s : State) (l : Fin 96) (v : Word) : State :=
  linkEnable (regAccept s (linkCtlOff l.val) v) l.val (bits v 31 31 == 1)

theorem linkCtl_eq (s : State) (l : Fin 96) (v : Word) : linkCtl s (linkCtlOff l.val) v =
    settle (if bits v 29 29 = 1 then
        linkRetrain (if bits v 30 30 = 1 then linkClearQ (linkEnabled s l v) l.val (bits v 31 31 == 1) else linkEnabled s l v) l.val
      else if bits v 30 30 = 1 then linkClearQ (linkEnabled s l v) l.val (bits v 31 31 == 1) else linkEnabled s l v) := by
  unfold linkCtl
  rw [galLink_linkCtlOff]
  rfl

theorem linkClearQ_of_ne {s : State} {l : Nat} (h : (link s l).st ≠ .quarantined) (en : Bool) : linkClearQ s l en = s := by
  rw [linkClearQ, beq_false_of_ne h, Bool.false_and, if_neg Bool.false_ne_true]

theorem linkRetrain_of_ne {s : State} {l : Nat} (h : (link s l).st ≠ .up) : linkRetrain s l = s := by
  rw [linkRetrain, beq_false_of_ne h, if_neg Bool.false_ne_true]

/-- CLEAR_Q and RETRAIN, where they are asked of a link in another state, do nothing. -/
theorem linkCtl_of_enabled {s : State} {l : Fin 96} {v : Word}
    (hq : bits v 30 30 = 1 → (link (linkEnabled s l v) l.val).st ≠ .quarantined)
    (hup : bits v 29 29 = 1 → (link (linkEnabled s l v) l.val).st ≠ .up) :
    linkCtl s (linkCtlOff l.val) v = settle (linkEnabled s l v) := by
  have hclear : (if bits v 30 30 = 1 then linkClearQ (linkEnabled s l v) l.val (bits v 31 31 == 1) else linkEnabled s l v) =
      linkEnabled s l v := by
    split
    next h => exact linkClearQ_of_ne (hq h) _
    next => rfl
  rw [linkCtl_eq, hclear]
  congr 1
  split
  next h => exact linkRetrain_of_ne (hup h)
  next => rfl

/-- The register took the write, and nothing else has changed yet. -/
structure CtlTaken (s u : State) (l : Fin 96) (v : Word) : Prop where
  rest : u = { s with regs := u.regs }
  en : regBits u (linkCtlOff l.val) 31 31 = bits v 31 31

theorem ctlTaken_regAccept {s : State} (hs : Sound s = true) (l : Fin 96) (v : Word) :
    CtlTaken s (regAccept s (linkCtlOff l.val) v) l v := by
  have hw := regAccept_fieldsWritten hs (regDef_linkCtl l) v
  have hen := regBits_of_masked hw.taken (hi := 31) (lo := 31) (by decide)
  obtain ⟨⟨hrest, -⟩, -⟩ := hw
  exact ⟨hrest, hen⟩

section
variable {s u t : State} {l : Fin 96} {v : Word} (h : CtlTaken s u l v)
include h

theorem CtlTaken.sameFab : u.fab = s.fab := by rw [h.rest]
theorem CtlTaken.sameLink (k : Nat) : link u k = link s k := by rw [link, h.sameFab, ← link]
theorem CtlTaken.noWork (hw : NoWork s) : NoWork u := by rw [h.rest]; exact hw
theorem CtlTaken.mem (ht : Relinked u t) : t.mem = s.mem := ht.mem.trans (by rw [h.rest])

/-- EN reads as it was written, whatever the link has sent since. -/
theorem CtlTaken.enRead (ht : Relinked u t) : regBits t (linkCtlOff l.val) 31 31 = bits v 31 31 :=
  (congrArg (bits · 31 31) (ht.regs _ (linkCtlOff_not_tally l))).trans h.en

theorem CtlTaken.settles (hw : NoWork s) (ht : Relinked u t) : settle t = t := settle_of_noWork (ht.work (h.noWork hw))

end

theorem linkEnable_of_quarantined {s : State} {l : Nat} (h : (link s l).st = .quarantined) (en : Bool) : linkEnable s l en = s := by
  rw [linkEnable, h]
  rfl

theorem linkEnable_stays {s : State} {l : Nat} (h : (link s l).st ≠ .disabled) : linkEnable s l true = s := by
  simp only [linkEnable, beq_false_of_ne h, Bool.not_true, Bool.false_eq_true, if_false, ite_self]

theorem linkEnable_off {s : State} {l : Nat} (h : (link s l).st ≠ .quarantined) : linkEnable s l false = linkTo s l .disabled := by
  by_cases hd : (link s l).st = .disabled
  · simp only [linkEnable, linkTo, hd, beq_self_eq_true, Bool.not_false, if_true, ite_self]
  · simp only [linkEnable, beq_false_of_ne h, beq_false_of_ne hd, Bool.not_false, Bool.false_eq_true, if_false, if_true]

theorem linkEnable_on {s : State} {l : Nat} (h : (link s l).st = .disabled) : linkEnable s l true = linkTo s l .down := by
  rw [linkEnable, h]
  rfl

/-! ### The commands -/

theorem linkEnWrite_off {s : State} {l : Fin 96} (hs : Sound s = true) (ho : HostOpen s) (hw : NoWork s)
    (hst : (link s l.val).st ≠ .quarantined) :
    ∃ t, exec (.linkEnWrite l false) s = .next t ∧ (link t l.val).st = .disabled ∧
      regBits t (linkCtlOff l.val) 31 31 = 0 ∧ t.mem = s.mem := by
  generalize hv : setBits (regGet s (linkCtlOff l.val)) 31 31 (b2n false) = v
  have hen : bits v 31 31 = 0 := by rw [← hv, bits_setBits (by decide)]; rfl
  have htaken := ctlTaken_regAccept hs l v
  generalize hu : regAccept s (linkCtlOff l.val) v = u at htaken
  have henabled : linkEnabled s l v = linkTo u l.val .disabled := by
    rw [linkEnabled, hu, hen]
    exact linkEnable_off (htaken.sameLink l.val ▸ hst)
  have hf : FabOk u.fab := htaken.sameFab ▸ fabOk_of_sound hs
  have hst' := linkTo_st hf l.val .disabled .ok
  have hre := linkTo_relinked u l.val .disabled .ok
  refine ⟨_, exec_linkEnWrite ho l false, ?_⟩
  rw [hv, linkCtl_of_enabled (by rw [henabled, hst']; nofun) (by rw [henabled, hst']; nofun), henabled, htaken.settles hw hre]
  exact ⟨hst', (htaken.enRead hre).trans hen, htaken.mem hre⟩

theorem linkEnWrite_quarantined {s : State} {l : Fin 96} (hs : Sound s = true) (ho : HostOpen s) (hw : NoWork s)
    (hst : (link s l.val).st = .quarantined) (hclear : regBits s (linkCtlOff l.val) 30 30 = 0)
    (hretrain : regBits s (linkCtlOff l.val) 29 29 = 0) (en : Bool) :
    ∃ t, exec (.linkEnWrite l en) s = .next t ∧ (link t l.val).st = .quarantined ∧
      regBits t (linkCtlOff l.val) 31 31 = b2n en ∧ t.fab = s.fab ∧ t.mem = s.mem := by
  generalize hv : setBits (regGet s (linkCtlOff l.val)) 31 31 (b2n en) = v
  have hen : bits v 31 31 = b2n en := by
    rw [← hv, bits_setBits (by decide)]
    cases en <;> rfl
  have hno30 : bits v 30 30 = 0 := by rw [← hv, bits_setBits_below (by decide)]; exact hclear
  have hno29 : bits v 29 29 = 0 := by rw [← hv, bits_setBits_below (by decide)]; exact hretrain
  have htaken := ctlTaken_regAccept hs l v
  generalize hu : regAccept s (linkCtlOff l.val) v = u at htaken
  have hst' : (link u l.val).st = .quarantined := htaken.sameLink l.val ▸ hst
  have henabled : linkEnabled s l v = u := by rw [linkEnabled, hu, linkEnable_of_quarantined hst']
  have hre := (Ships.refl u).relinked
  refine ⟨_, exec_linkEnWrite ho l en, ?_⟩
  rw [hv, linkCtl_of_enabled (by rw [hno30]; nofun) (by rw [hno29]; nofun), henabled, htaken.settles hw hre]
  exact ⟨hst', htaken.en.trans hen, htaken.sameFab, htaken.mem hre⟩

theorem linkEnWrite_on {s : State} {l : Fin 96} (hs : Sound s = true) (ho : HostOpen s) (hw : NoWork s)
    (hst : (link s l.val).st = .disabled) :
    ∃ t, exec (.linkEnWrite l true) s = .next t ∧ (link t l.val).st = .down ∧ regBits t (linkCtlOff l.val) 31 31 = 1 ∧
      t.mem = s.mem ∧ ∀ j, j ≠ l.val → link t j = link s j := by
  generalize hv : setBits (regGet s (linkCtlOff l.val)) 31 31 (b2n true) = v
  have hen : bits v 31 31 = 1 := by rw [← hv, bits_setBits (by decide)]; rfl
  have htaken := ctlTaken_regAccept hs l v
  generalize hu : regAccept s (linkCtlOff l.val) v = u at htaken
  have hdis : (link u l.val).st = .disabled := htaken.sameLink l.val ▸ hst
  have henabled : linkEnabled s l v = linkTo u l.val .down := by
    rw [linkEnabled, hu, hen]
    exact linkEnable_on hdis
  have hf : FabOk u.fab := htaken.sameFab ▸ fabOk_of_sound hs
  have hst' := linkTo_st hf l.val .down .ok
  have hon := linkTo_onLink hf (by rw [hdis]; decide) (by decide : LinkState.down ≠ .up) .ok
  refine ⟨_, exec_linkEnWrite ho l true, ?_⟩
  rw [hv, linkCtl_of_enabled (by rw [henabled, hst']; nofun) (by rw [henabled, hst']; nofun), henabled,
    htaken.settles hw hon.relinked]
  exact ⟨hst', (htaken.enRead hon.relinked).trans hen, htaken.mem hon.relinked, fun j hj =>
    (hon.others hf j hj).trans (htaken.sameLink j)⟩

theorem clearQ_releases {s : State} {l : Fin 96} (hs : Sound s = true) (ho : HostOpen s) (hw : NoWork s)
    (hst : (link s l.val).st = .quarantined) (henabled : regBits s (linkCtlOff l.val) 31 31 = 1)
    (hretrain : regBits s (linkCtlOff l.val) 29 29 = 0) (hruns : galleryStopped s l.val = false) :
    ∃ t, exec (.clearQ l) s = .next t ∧ (link t l.val).st = .training ∧ t.mem = s.mem ∧
      ∀ j, j ≠ l.val → link t j = link s j := by
  generalize hv : setBits (regGet s (linkCtlOff l.val)) 30 30 1 = v
  have hen : bits v 31 31 = 1 := by rw [← hv, bits_setBits_above (by decide)]; exact henabled
  have hclear : bits v 30 30 = 1 := by rw [← hv, bits_setBits (by decide)]; rfl
  have hno29 : bits v 29 29 = 0 := by rw [← hv, bits_setBits_below (by decide)]; exact hretrain
  have htaken := ctlTaken_regAccept hs l v
  generalize hu : regAccept s (linkCtlOff l.val) v = u at htaken
  have hst' : (link u l.val).st = .quarantined := htaken.sameLink l.val ▸ hst
  have hruns' : galleryStopped u l.val = false := by
    rw [galleryStopped, htaken.sameFab]
    exact hruns
  have hkept : linkEnabled s l v = u := by rw [linkEnabled, hu, linkEnable_of_quarantined hst']
  have hrelease : linkClearQ u l.val true = linkTo u l.val .training := by
    simp only [linkClearQ, hst', hruns', beq_self_eq_true, Bool.not_false, Bool.and_self, if_true]
  have hf : FabOk u.fab := htaken.sameFab ▸ fabOk_of_sound hs
  have hon := linkTo_onLink hf (by rw [hst']; decide) (by decide : LinkState.training ≠ .up) .ok
  refine ⟨_, exec_clearQ ho l, ?_⟩
  rw [hv, linkCtl_eq, hno29, hclear, hen, hkept, if_neg (by decide), if_pos rfl, beq_self_eq_true, hrelease,
    htaken.settles hw hon.relinked]
  exact ⟨linkTo_st hf l.val .training .ok, htaken.mem hon.relinked, fun j hj => (hon.others hf j hj).trans (htaken.sameLink j)⟩

theorem retrain_up {s : State} {l : Fin 96} (hs : Sound s = true) (ho : HostOpen s) (hw : NoWork s)
    (hst : (link s l.val).st = .up) (henabled : regBits s (linkCtlOff l.val) 31 31 = 1)
    (hclear : regBits s (linkCtlOff l.val) 30 30 = 0) :
    ∃ t, exec (.retrain l) s = .next t ∧ (link t l.val).st = .training ∧
      (link t l.val).retrains = min 255 ((link s l.val).retrains + 1) ∧ t.mem = s.mem := by
  generalize hv : setBits (regGet s (linkCtlOff l.val)) 29 29 1 = v
  have hen : bits v 31 31 = 1 := by rw [← hv, bits_setBits_above (by decide)]; exact henabled
  have hno30 : bits v 30 30 = 0 := by rw [← hv, bits_setBits_above (by decide)]; exact hclear
  have hasked : bits v 29 29 = 1 := by rw [← hv, bits_setBits (by decide)]; rfl
  have htaken := ctlTaken_regAccept hs l v
  generalize hu : regAccept s (linkCtlOff l.val) v = u at htaken
  have hup : (link u l.val).st = .up := htaken.sameLink l.val ▸ hst
  have hkept : linkEnabled s l v = u := by
    rw [linkEnabled, hu, hen]
    exact linkEnable_stays (by rw [hup]; decide)
  have htrains : linkRetrain u l.val = linkTrain u l.val := by rw [linkRetrain, hup]; rfl
  have hf : FabOk u.fab := htaken.sameFab ▸ fabOk_of_sound hs
  have hre := linkTrain_relinked u l.val
  obtain ⟨hst', hcount, -⟩ := linkTrain_link hf (l := l.val) (by rw [hup]; decide)
  refine ⟨_, exec_retrain ho l, ?_⟩
  rw [hv, linkCtl_eq, hno30, hasked, hkept, if_pos rfl, if_neg (by decide), htrains, htaken.settles hw hre]
  exact ⟨hst', htaken.sameLink l.val ▸ hcount, htaken.mem hre⟩

/-- A write whose EN, CLEAR_Q and RETRAIN all find the link in another state changes no link. -/
theorem linkCtl_sameFab {s : State} {l : Fin 96} {v : Word} (hs : Sound s = true) (hw : NoWork s) (hen : bits v 31 31 = 1)
    (hst : (link s l.val).st ≠ .disabled) (hq : bits v 30 30 = 1 → (link s l.val).st ≠ .quarantined)
    (hup : bits v 29 29 = 1 → (link s l.val).st ≠ .up) : (linkCtl s (linkCtlOff l.val) v).fab = s.fab := by
  have htaken := ctlTaken_regAccept hs l v
  generalize hu : regAccept s (linkCtlOff l.val) v = u at htaken
  have hsame := htaken.sameLink l.val
  have hkept : linkEnabled s l v = u := by
    rw [linkEnabled, hu, hen]
    exact linkEnable_stays (hsame ▸ hst)
  rw [linkCtl_of_enabled (by rw [hkept, hsame]; exact hq) (by rw [hkept, hsame]; exact hup), hkept,
    htaken.settles hw (Ships.refl u).relinked, htaken.sameFab]

/-- Settles O22: the register takes the write, and then EN, CLEAR_Q and RETRAIN each find the link in the state they act on, or
leave it. -/
theorem linkControls : Obligations.LinkControls := by
  unfold Obligations.LinkControls
  refine ⟨fun s l hs ho hw => linkEnWrite_off hs ho hw, fun s l en hs ho hw hst hclear hretrain =>
    linkEnWrite_quarantined hs ho hw hst hclear hretrain en, fun s l hs ho hw => linkEnWrite_on hs ho hw, fun s l hs ho hw =>
    clearQ_releases hs ho hw, fun s l hs ho hw => retrain_up hs ho hw, ?other⟩
  case other =>
    intro s l hs ho hw hen hclear hretrain hst
    refine ⟨fun hq => ⟨_, exec_clearQ ho l, linkCtl_sameFab hs hw ?_ hst (fun _ => hq) ?_⟩, fun hup => ⟨_, exec_retrain ho l,
      linkCtl_sameFab hs hw ?_ hst ?_ fun _ => hup⟩⟩
    · exact (bits_setBits_above (by decide) _ _).trans hen
    · rw [bits_setBits_below (by decide)]
      exact fun h => absurd (hretrain.symm.trans h) (by decide)
    · exact (bits_setBits_above (by decide) _ _).trans hen
    · rw [bits_setBits_above (by decide)]
      exact fun h => absurd (hclear.symm.trans h) (by decide)

end Sys2Proof.Machine
end

section
/-! PROOFS. GAL_SELF, the remap table and the plane split (spec/12 R302, R308, R309, R321, Table 12.12). O21 holds. -/

namespace Sys2Proof.Machine

section
variable {s : State} (ho : HostOpen s)
include ho

theorem exec_galSelfWrite (v : Word) : exec (.galSelfWrite v) s = .next (selfRegister s v) := by
  simp [exec, execGalSelfWrite, hostWrite_of_open ho, writeReg, galWrite, galShared]

theorem exec_galRemapWrite (chip : Fin 32768) (v : Word) :
    exec (.galRemapWrite chip v) s = .next (remapWrite s (0x820000 + 4 * chip.val) v) := by
  have hchip := chip.isLt
  have hshared : galShared (0x820000 + 4 * chip.val) = 0x820000 + 4 * chip.val := if_neg (by omega)
  have hwrite : writeReg s (0x820000 + 4 * chip.val) v = remapWrite s (0x820000 + 4 * chip.val) v := by
    rw [writeReg, if_neg (by omega), if_neg (by omega), if_neg (by omega), if_neg (by omega), if_neg (by omega),
      if_neg (by omega), if_neg (by omega), if_pos (by omega), galWrite, if_neg (not_not.mpr hshared), if_neg (by omega),
      if_neg (by omega), if_neg (by omega), if_neg (by omega), if_neg (by omega), if_pos (by omega)]
  rw [← hwrite, ← hostWrite_of_open ho]
  rfl

theorem exec_spireSplitWrite (v : Word) : exec (.spireSplitWrite v) s = .next (splitWrite s 0x800018 v) := by
  simp [exec, execSpireSplitWrite, hostWrite_of_open ho, writeReg, galWrite, galShared]

end

/-! ### GAL_SELF -/

/-- What a write of GAL_SELF changes: its register, the flows and HALTED, and what an earlier job's steps have left. -/
theorem selfWrite_frame (s : State) (v : Word) :
    (selfWrite s v).regs = (regPut s 0x800000 v).regs ∧ (selfWrite s v).mem = s.mem ∧ (selfWrite s v).host = s.host ∧
      (selfWrite s v).fab.flows = [] ∧ (selfWrite s v).fab.links = s.fab.links ∧
      (selfWrite s v).flt.halted = (s.flt.halted && !s.flt.fatal.isEmpty) ∧ (NoWork s → NoWork (selfWrite s v)) := by
  unfold selfWrite
  dsimp only
  split <;> exact ⟨rfl, rfl, rfl, rfl, rfl, rfl, id⟩

theorem selfRegister_of_noWork {s : State} (h : NoWork s) (v : Word) :
    selfRegister s v = selfWrite s (if spireMode s then setBits v 15 0 0 else v) := by
  obtain ⟨-, -, -, -, -, -, hwork⟩ := selfWrite_frame s (if spireMode s then setBits v 15 0 0 else v)
  exact settle_of_noWork (hwork h)

theorem regGet_selfWrite {s : State} (hs : Sound s = true) (v : Word) (o : Nat) :
    regGet (selfWrite s v) o = if o = 0x800000 then v else regGet s o := by
  obtain ⟨hregs, -⟩ := selfWrite_frame s v
  rw [← regGet_regPut hs, regGet, hregs, ← regGet]

/-- The written register gives the device's number and its job. -/
theorem self_selfWrite {s : State} (hs : Sound s = true) (v : Word) :
    ownChip (selfWrite s v) = bits v 31 16 ∧ jobId (selfWrite s v) = bits v 15 0 := by
  rw [ownChip, jobId, regBits, regBits, regGet_selfWrite hs, if_pos rfl]
  exact ⟨rfl, rfl⟩

/-! ### The remap table -/

/-- What becomes of a flow when a chip's remap entry changes. -/
def restartAt (chip : Nat) (f : Flow) : Option Flow :=
  if f.chip != chip then some f else if f.unacked.isEmpty then none else some (flowRestarted f)

theorem flowsRestart_flows (s : State) (chip : Nat) : (flowsRestart s chip).fab.flows = s.fab.flows.filterMap (restartAt chip) := rfl

theorem restartAt_other {chip : Nat} {f : Flow} (h : f.chip ≠ chip) : restartAt chip f = some f :=
  if_pos (bne_iff_ne.mpr h)

/-- A flow with the chip goes, or starts again: it numbers from 0, and what is unacknowledged keeps its order. -/
theorem restartAt_same {chip : Nat} {f g : Flow} (h : f.chip = chip) (hg : restartAt chip f = some g) :
    f.unacked ≠ [] ∧ g = flowRestarted f := by
  rw [restartAt, if_neg (by simp [h])] at hg
  split at hg
  · exact nomatch hg
  next hsome => exact ⟨by simpa using hsome, (Option.some.inj hg).symm⟩

theorem flowRestarted_numbers (f : Flow) (i : Nat) (u : Unacked) (hu : (flowRestarted f).unacked[i]? = some u) :
    u.pkt.hdr.fseq = i := by
  rw [flowRestarted, List.getElem?_mapIdx] at hu
  obtain ⟨v, -, rfl⟩ := Option.map_eq_some_iff.mp hu
  rfl

/-- Flows with other chips stay as they were. -/
theorem filter_restart (chip : Nat) : ∀ fs : List Flow,
    (fs.filterMap (restartAt chip)).filter (fun f => f.chip != chip) = fs.filter fun f => f.chip != chip
  | [] => rfl
  | f :: fs => by
    by_cases h : f.chip = chip
    · have hgone : (f :: fs).filter (fun f => f.chip != chip) = fs.filter fun f => f.chip != chip :=
        List.filter_cons_of_neg (by simp [h])
      rw [hgone, ← filter_restart chip fs]
      cases hf : restartAt chip f with
      | none => rw [List.filterMap_cons_none hf]
      | some g =>
        obtain ⟨-, rfl⟩ := restartAt_same h hf
        rw [List.filterMap_cons_some hf]
        exact List.filter_cons_of_neg (by simp [flowRestarted, h])
    · rw [List.filterMap_cons_some (restartAt_other h), List.filter_cons_of_pos (by simpa using h),
        List.filter_cons_of_pos (by simpa using h), filter_restart chip fs]

/-- A write that changes a remap entry: its chip's flows start again, and with nothing held nothing goes on yet. -/
theorem remapWrite_moved {s : State} (hw : NoWork s) (hheld : s.fab.heldPkts = []) {chip : Fin 32768} {v : Word}
    (hv : regGet s (0x820000 + 4 * chip.val) ≠ v) : remapWrite s (0x820000 + 4 * chip.val) v =
      flowsRestart (regPut s (0x820000 + 4 * chip.val) v) chip.val := by
  have hchip : (0x820000 + 4 * chip.val - 0x820000) / 4 = chip.val := by omega
  have hnone : (flowsRestart (regPut s (0x820000 + 4 * chip.val) v) chip.val).fab.heldPkts = [] := by
    simp [flowsRestart, hheld]
  have hwork : NoWork (flowsRestart (regPut s (0x820000 + 4 * chip.val) v) chip.val) := by
    obtain ⟨hops, hrest⟩ := hw
    exact ⟨List.map_eq_nil_iff.mpr hops, hrest⟩
  rw [remapWrite, hchip]
  refine (if_pos hv).trans ?_
  rw [retryHeld_of_none hnone, settle_of_noWork hwork]

/-! ### The plane split -/

theorem splitWrite_eq (s : State) (v : Word) : splitWrite s 0x800018 v =
    writeIf (((List.range 96).all fun l => (link s l).st == .down || (link s l).st == .disabled) && bits v 1 0 != 3) s 0x800018 v :=
  rfl

/-- Settles O21: each register's write, as the lemmas above give it. -/
theorem fabricRegisters : Obligations.FabricRegisters := by
  unfold Obligations.FabricRegisters
  refine ⟨?self, ?spire, ?remap, ?split, ?splitIgnored⟩
  case self =>
    intro s v hs ho hw hspire
    obtain ⟨-, hmem, hhost, hflows, hlinks, hhalted, -⟩ := selfWrite_frame s v
    obtain ⟨hchip, hjob⟩ := self_selfWrite hs v
    refine ⟨_, exec_galSelfWrite ho v, ?_⟩
    rw [selfRegister_of_noWork hw, hspire, if_neg Bool.false_ne_true]
    refine ⟨hchip, hjob, hflows, fun hnone => ?_, fun hfatal => ?_, hmem, hhost, hlinks, fun o hne => ?_⟩
    · rw [hhalted, hnone, List.isEmpty_nil, Bool.not_true, Bool.and_false]
    · rw [hhalted, List.isEmpty_eq_false_iff.mpr hfatal, Bool.not_false, Bool.and_true]
    · rw [regGet_selfWrite hs, if_neg hne]
  case spire =>
    intro s v hs ho hw hspire
    obtain ⟨hchip, hjob⟩ := self_selfWrite hs (setBits v 15 0 0)
    refine ⟨_, exec_galSelfWrite ho v, ?_⟩
    rw [selfRegister_of_noWork hw, hspire, if_pos rfl]
    exact ⟨hchip.trans (bits_setBits_above (by decide) v 0), hjob.trans (bits_setBits (by decide) v 0)⟩
  case remap =>
    intro s chip v hs ho hw hheld hv
    have hput := regGet_regPut hs (0x820000 + 4 * chip.val) (v := v)
    refine ⟨_, exec_galRemapWrite ho chip v, ?_⟩
    rw [remapWrite_moved hw hheld hv, flowsRestart_flows]
    refine ⟨(hput _).trans (if_pos rfl), fun o hne => (hput o).trans (if_neg hne), filter_restart chip.val _, fun f hf hchip => ?_,
      rfl, rfl⟩
    obtain ⟨g, -, hg⟩ := List.mem_filterMap.mp hf
    by_cases hsame : g.chip = chip.val
    · obtain ⟨hsome, rfl⟩ := restartAt_same hsame hg
      exact ⟨rfl, rfl, by simp [flowRestarted], by simpa [flowRestarted] using hsome, flowRestarted_numbers g⟩
    · rw [restartAt_other hsame] at hg
      exact absurd (Option.some.inj hg ▸ hchip) hsame
  case split =>
    intro s v hs ho hv hlinks
    have hstill : ((List.range 96).all fun l => (link s l).st == .down || (link s l).st == .disabled) = true := by
      simpa using hlinks
    refine ⟨_, exec_spireSplitWrite ho v, ?_⟩
    rw [splitWrite_eq, hstill, bne_iff_ne.mpr hv, Bool.and_self, writeIf_true]
    exact regAccept_fieldsWritten hs rfl v
  case splitIgnored =>
    intro s v l ho hl hdown hdis
    have hmoving : ((List.range 96).all fun l => (link s l).st == .down || (link s l).st == .disabled) = false :=
      List.all_eq_false.mpr ⟨l, List.mem_range.mpr hl, by simp [hdown, hdis]⟩
    rw [exec_spireSplitWrite ho, splitWrite_eq, hmoving, Bool.false_and, writeIf_false]

end Sys2Proof.Machine
end

section
/-! PROOFS. A packet of this device that finds a way out (spec/12 R300 to R305), and one that arrives for this device
(spec/12 R299, R301, R302). -/

namespace Sys2Proof.Machine

/-! ### A packet on its way -/

/-- The packet waits here, or has taken slots of a port and gone by one of its links. -/
def Posted (s t : State) (p : Packet) : Prop :=
  (∃ w, w.pkt = p ∧ t = holdPkt s w) ∨
    ∃ port rf l u w, takeSlots s port (p.flagged rf).hdr = some u ∧
      t = txPacket (leaveSource u l (p.flagged rf)) l w (p.flagged rf)

theorem Posted.leaves {s t : State} {p : Packet} (h : Posted s t p) : Leaves t p.hdr.dst p.hdr.kind p.hdr.tag p.pay := by
  rcases h with ⟨w, hw, rfl⟩ | ⟨port, rf, l, u, w, -, rfl⟩
  · exact ⟨p, .inl ⟨w, List.mem_append_right _ (List.mem_singleton_self w), hw⟩, rfl, rfl, rfl, rfl⟩
  · exact ⟨p.flagged rf, .inr ⟨l, List.mem_append_right _ (List.mem_singleton_self _)⟩, rfl, rfl, rfl, rfl⟩

theorem Posted.ships {s t : State} {p : Packet} (h : Posted s t p) : Ships s t := by
  rcases h with ⟨w, -, rfl⟩ | ⟨port, rf, l, u, w, hu, rfl⟩
  · exact holdPkt_ships s w
  · exact ((takeSlots_ships hu).trans (leaveSource_ships u l _)).trans (txPacket_ships ..)

theorem Posted.regs {s t : State} {p : Packet} (h : Posted s t p) : t.regs = s.regs := by
  rcases h with ⟨w, -, rfl⟩ | ⟨port, rf, l, u, w, hu, rfl⟩
  · rfl
  · obtain ⟨htaken, -⟩ := takeSlots_keeps hu
    obtain ⟨hleft, -⟩ := leaveSource_keeps u l (p.flagged rf)
    exact hleft.regs.trans htaken.regs

/-- What is stamped now has not outlived GAL_LIFE. -/
theorem expired_of_now {s : State} {h : PktHdr} (hstamp : h.stamp = stampNow s) : expired s h = false := by
  have hsmall : stampNow s < 65536 := Nat.mod_lt _ (by decide)
  have hage : (stampNow s + 65536 - h.stamp % 65536) % 65536 = 0 := by
    rw [hstamp, Nat.mod_eq_of_lt hsmall, Nat.add_sub_cancel_left]
  rw [expired, hage]
  exact decide_eq_false (Nat.not_lt_zero _)

/-- A young packet of this device that comes to a port goes by it, or waits there. -/
theorem viaPort_posted {s : State} {port rf : Nat} {w : HeldPkt} {p : Packet} (hw : w.pkt = p) (hown : w.ingress = none)
    (hlife : expired s p.hdr = false) : Posted s (viaPort s port w (p.flagged rf)) p := by
  have hyoung : expired s (p.flagged rf).hdr = false := hlife
  unfold viaPort
  dsimp only
  rw [hyoung, if_neg Bool.false_ne_true]
  split
  · exact .inl ⟨{ w with port := some port }, hw, rfl⟩
  split
  · exact .inl ⟨{ w with port := some port }, hw, rfl⟩
  next l _ _ u hu =>
    rw [hown]
    exact .inr ⟨port, rf, l, u, w, hu, rfl⟩

/-- So does one to another chip, by its route; while no port can take it, it waits at its source. -/
theorem launch_posted {s : State} {p : Packet} (hself : isSelf s p.hdr.dst = false) (hdst : p.hdr.dst < 0x8000)
    (hlife : expired s p.hdr = false) (hhere : nextHop s p.hdr none ≠ .here) (hdrop : nextHop s p.hdr none ≠ .drop) :
    Posted s (launch s p) p := by
  have hcast : p.hdr.dst ≠ 0xFFFE := by omega
  have hroute : launch s p = routeHeld s { pkt := p } := by
    simp only [launch, hself, strayDst_of_lt hdst, hcast, routeOut, Bool.false_eq_true, if_false]
  rw [hroute, routeHeld]
  dsimp only [Option.map_none]
  cases hhop : nextHop s p.hdr none with
  | here => exact absurd hhop hhere
  | drop => exact absurd hhop hdrop
  | hold =>
    refine .inl ⟨{ pkt := p }, rfl, ?_⟩
    dsimp only [waitAt]
    rw [hlife, if_neg Bool.false_ne_true]
  | out port rf => exact viaPort_posted rfl rfl hlife

/-- A way out that one state has, states that route alike have. -/
theorem Reaches.alike {s t : State} {chip kind : Nat} (h : Reaches s chip kind) (hst : RoutesAlike s t) : Reaches t chip kind := by
  obtain ⟨hchip, hself, hhere, hdrop⟩ := h
  rw [Reaches, hst.isSelf, hst.nextHop_mkHdr]
  exact ⟨hchip, hself, hhere, hdrop⟩

theorem Reaches.hop {s : State} {chip kind : Nat} (h : Reaches s chip kind) {x : PktHdr} (hdst : x.dst = chip)
    (hsrc : x.src = ownChip s) (hflags : x.rflags = 0) : nextHop s x none ≠ .here ∧ nextHop s x none ≠ .drop := by
  obtain ⟨-, -, hhere, hdrop⟩ := h
  rw [nextHop_congr (y := mkHdr s chip kind 0 0 0 0) hdst hsrc hflags]
  exact ⟨hhere, hdrop⟩

/-- A management packet with a way out is on its way. -/
theorem sendPkt_mgmt_posted {s : State} {chip kind : Nat} (hk : classOf kind = 3) (h : Reaches s chip kind) (tag : Nat)
    (pay : Payload) : ∃ p, Posted s (sendPkt s chip kind 0 tag pay) p ∧ p.hdr.dst = chip ∧ p.hdr.kind = kind ∧
      p.hdr.tag = tag ∧ p.pay = pay := by
  obtain ⟨hhere, hdrop⟩ := h.hop (x := mkHdr s chip kind 0 tag (payBytes s.draws pay).length 0) rfl rfl rfl
  obtain ⟨hchip, hself, -⟩ := h
  have hlaunch : sendPkt s chip kind 0 tag pay =
      launch s { hdr := mkHdr s chip kind 0 tag (payBytes s.draws pay).length 0, pay := pay } := by
    simp only [sendPkt, hk, decide_true, Bool.true_or, if_true]
  rw [hlaunch]
  exact ⟨_, launch_posted hself hchip (expired_of_now rfl) hhere hdrop, rfl, rfl, rfl, rfl⟩

/-! ### A packet for this device -/

/-- What has come for this device is what its kind does here. -/
theorem packetIn_atHome {s t : State} {l kind : Nat} {h : PktHdr} {p : Payload} (hh : AtHome s l h kind)
    (hkind : kindOf p ≠ some 0x10) (ht : takePacket s l (withKind h kind) p = .accept t) :
    packetIn s l (withKind h kind) p = takeLoop (settle t) := by
  obtain ⟨⟨hup, harrived, -, hhops, hlife, hfirst, hdst, hknown⟩, hown, hhop⟩ := hh
  have hyoung : ¬((withKind h kind).hops ≥ 64 ∨ expired s (withKind h kind) = true) := by
    rintro (hold | hold)
    · exact absurd hhops (Nat.not_lt.mpr hold)
    · exact absurd (hlife.symm.trans hold) Bool.false_ne_true
  have hnext : ¬((withKind h kind).hops = 0 ∧ (withKind h kind).src ≠ (link s l).partnerChip) := fun ⟨hzero, hne⟩ =>
    hne (hfirst hzero)
  have hfits : (strayDst (withKind h kind) || !kindKnown (withKind h kind).kind) = false := by
    rw [strayDst_of_lt (h := withKind h kind) hdst, show kindKnown (withKind h kind).kind = true from hknown]
    rfl
  have hcast : (withKind h kind).dst ≠ 0xFFFE := by
    have : h.dst < 0x8000 := hdst
    exact fun he => absurd (he ▸ this : (0xFFFE : Nat) < 0x8000) (by decide)
  have hlanded : landed s l (withKind h kind) p = takePacket s l (withKind h kind) p := if_pos (.inl hown)
  have hroute : routePacket s l (withKind h kind) p = .accept t := by
    rw [routePacket, if_neg hkind, if_neg hyoung, if_neg hnext, if_neg (ne_true_of_eq_false hfits), if_neg hcast, hhop]
    exact hlanded.trans ht
  simp only [packetIn, hup, beq_self_eq_true, Bool.true_or, if_true, takeArrived_of_none harrived, hroute]

end Sys2Proof.Machine
end

section
/-! PROOFS. Machine time (spec/12 R319, R320): requests answered, a count aligned, offsets and rates spread and taken, and STALE. -/

namespace Sys2Proof.Machine

/-! ### Stamps -/

theorem stamp16_now (s : State) : StampNow s (stamp16 s).1 := by
  have hpart : ((Config.freeNat s.draws % 16 : Nat) : Int) < 16 := by omega
  have hstamp : (stamp16 s).1 =
      keep16 s + (if isRoot s then s.time.offset else 0) + ((Config.freeNat s.draws % 16 : Nat) : Int) := rfl
  rw [StampNow, hstamp]
  omega

/-- Draws have no part in a stamp's bounds. -/
theorem stampNow_draws {s : State} {n : Nat} {t : Int} (h : StampNow { s with draws := n } t) : StampNow s t := h

/-! ### Offset and rate taken -/

/-- The time of a device once it takes an offset and a rate. -/
def timeTaken (s : State) (offset : Int) (num den : Nat) : TimeState :=
  { s.time with target := offset
                offset := if jobId s = 0 ∧ (offset - s.time.offset).natAbs > 16000 then offset else s.time.offset
                rateNum := num, rateDen := max 1 den, stale := false, lastSync := s.time.keep }

theorem timeApply_frame (s : State) (offset : Int) (num den : Nat) :
    ∃ c, timeApply s offset num den = { s with time := timeTaken s offset num den, chime := c } := by
  unfold timeApply
  dsimp only
  split
  next hjump => exact ⟨_, by rw [timeTaken, if_pos hjump]; rfl⟩
  next hslew => exact ⟨_, by rw [timeTaken, if_neg hslew]⟩

theorem isLeader_of_regs {s t : State} (h : regGet t 0x800040 = regGet s 0x800040) : isLeader t = isLeader s :=
  congrArg (fun w => bits w 31 31 == 1) h

/-! ### A broadcast, and this device's own copy of it -/

/-- This device's one packet to itself is taken, and brings about no other. -/
theorem drainLoop_one {s t : State} {p : Packet} (hloop : s.fab.loop = [p])
    (htake : takeOwn { s with fab := { s.fab with loop := [] } } p = .accept t) (ht : t.fab.loop = []) (n : Nat) :
    drainLoop (n + 2) s = t := by
  rw [drainLoop, hloop]
  dsimp only
  rw [htake]
  dsimp only
  rw [drainLoop, ht]

/-- A leader passes over its own copy of what it spreads. -/
theorem takeOwn_spread {s : State} (hl : isLeader s = true) {p : Packet} (hkind : p.hdr.kind = 0x11) {off : Int} {num den : Nat}
    (hpay : p.pay = .timeSync (.apply off num den)) : takeOwn s p = .accept s := by
  have hfollow : ∀ src, timeFollow s src off num den = s := fun src => by rw [timeFollow, hl, if_pos rfl]
  have hclass : classOf 0x11 = 3 := rfl
  have hknown : kindKnown 0x11 = true := rfl
  simp only [takeOwn, hkind, hknown, hclass, hpay, takePacket, timeArrive, hfollow, Bool.not_true, Bool.false_eq_true, if_false,
    if_true]

/-- What a leader at rest spreads leaves it, and changes no more than sending does. -/
theorem takeLoop_spread {s : State} (hw : NoWork s) (hloop : s.fab.loop = []) (hl : isLeader s = true) {p : Packet}
    (hkind : p.hdr.kind = 0x11) {off : Int} {num den : Nat} (hpay : p.pay = .timeSync (.apply off num den)) :
    (takeLoop (settle (launch s p))).time = s.time ∧ (takeLoop (settle (launch s p))).mem = s.mem := by
  rcases launch_ships s p with hships | hships
  · rw [settle_of_noWork (hships.noWork hw), takeLoop_of_empty (hships.loop.trans hloop)]
    exact ⟨hships.time, hships.mem⟩
  · generalize launch s p = u at hships
    have hworks : NoWork u := hships.noWork hw
    have hown : u.fab.loop = [p] := hships.loop.trans (by rw [loopBack, hloop]; rfl)
    have hleads : isLeader { u with fab := { u.fab with loop := [] } } = true :=
      (isLeader_of_regs (hships.regs 0x800040 (by decide))).trans hl
    have hdrained := drainLoop_one hown (takeOwn_spread hleads hkind hpay) rfl 62
    have hworks' : NoWork { u with fab := { u.fab with loop := [] } } := hworks
    rw [settle_of_noWork hworks, takeLoop, hown, List.isEmpty_cons, if_neg Bool.false_ne_true, hdrained, settle_of_noWork hworks']
    exact ⟨hships.time, hships.mem⟩

theorem timeSpread_eq (s : State) (off : Int) (num den : Nat) : ∃ p : Packet, p.hdr.kind = 0x11 ∧
    p.pay = .timeSync (.apply off num den) ∧ timeSpread s off num den = launch (timeApply s off num den) p :=
  ⟨_, rfl, rfl, rfl⟩

/-! ### The commands -/

theorem exec_timeSync (l : Fin 96) (h : PktHdr) (m : SyncMsg) (s : State) :
    exec (.timeSync l h m) s = .next (packetIn s l.val (withKind h 0x11) (.timeSync m)) := rfl
theorem exec_timeSyncInterval (s : State) : exec .timeSyncInterval s = .next (syncInterval s) := rfl
theorem exec_timeStale (s : State) : exec .timeStale s =
    .next (if !s.time.stale && decide (s.time.keep ≥ s.time.lastSync + staleAfter) then
      timeEvent (raiseFault { s with time := { s.time with stale := true } } 0 4 0x19 0) (ownChip s) else s) := rfl

theorem exec_timeSync_atHome {s : State} {l : Fin 96} {h : PktHdr} (hh : AtHome s l.val h 0x11) (m : SyncMsg) :
    exec (.timeSync l h m) s = .next (takeLoop (settle (timeArrive s (withKind h 0x11) m))) := by
  have hkind : kindOf (.timeSync m) ≠ some 0x10 := fun he => absurd (Option.some.inj he) (by decide)
  rw [exec_timeSync, packetIn_atHome hh hkind rfl]

/-- A device at rest that has nothing of its own to take, and changes no op: nothing follows. -/
theorem takeLoop_settle {t : State} (hw : NoWork t) (hloop : t.fab.loop = []) : takeLoop (settle t) = t := by
  rw [settle_of_noWork hw, takeLoop_of_empty hloop]

theorem isRoot_of_follower {s : State} (h : isLeader s = false) : isRoot s = false := by rw [isRoot, h, Bool.false_and]

theorem timeSync_request {s : State} {l : Fin 96} {h : PktHdr} (hw : NoWork s) (hh : AtHome s l.val h 0x11)
    (hr : Reaches s h.src 0x11) (t1 : Int) :
    ∃ t t2 t3, exec (.timeSync l h (.request t1)) s = .next t ∧ t.time = s.time ∧ StampNow s t2 ∧ StampNow s t3 ∧ t2 ≤ t3 ∧
      Leaves t h.src 0x11 h.tag (.timeSync (.answer t1 t2 t3)) := by
  have hloop : s.fab.loop = [] := hh.1.2.2.1
  have hfirst := stamp16_now s
  have hsecond := stampNow_draws (stamp16_now { s with draws := s.draws + 1 })
  generalize ht2 : (stamp16 s).1 = t2 at hfirst
  generalize ht4 : (stamp16 { s with draws := s.draws + 1 }).1 = t4 at hsecond
  have hmax : StampNow s (max t2 t4) := ⟨le_max_of_le_left hfirst.1, max_lt hfirst.2 hsecond.2⟩
  obtain ⟨p, hposted, hdst, hkind, htag, hpay⟩ := sendPkt_mgmt_posted (by decide)
    (hr.alike (t := { s with draws := s.draws + 1 + 1 }) ⟨rfl, rfl, fun _ => rfl⟩) h.tag
    (.timeSync (.answer t1 t2 (max t2 t4)))
  have harrive : timeArrive s (withKind h 0x11) (.request t1) = sendPkt { s with draws := s.draws + 1 + 1 } h.src 0x11 0 h.tag
      (.timeSync (.answer t1 t2 (max t2 t4))) := by
    rw [← ht2, ← ht4]
    rfl
  have hleaves := hposted.leaves
  rw [hdst, hkind, htag, hpay] at hleaves
  refine ⟨_, t2, max t2 t4, exec_timeSync_atHome hh _, ?_⟩
  rw [harrive, takeLoop_settle (hposted.ships.noWork hw) (hposted.ships.loop.trans hloop)]
  exact ⟨hposted.ships.time, hfirst, hmax, le_max_left .., hleaves⟩

theorem timeSync_aligns {s : State} {l : Fin 96} {h : PktHdr} (hw : NoWork s) (hh : AtHome s l.val h 0x11)
    (hl : isLeader s = false) (hj : jobId s = 0) (t1 t2 t3 : Int) :
    ∃ t t4, exec (.timeSync l h (.answer t1 t2 t3)) s = .next t ∧ StampNow s t4 ∧
      t = { s with time := { s.time with keep := ((keep16 s + syncOffset t1 t2 t3 t4) / 16).toNat }, chime := t.chime,
                   draws := t.draws } ∧ t.chime = { s.chime with began := mtime t / 1280 } := by
  have hloop : s.fab.loop = [] := hh.1.2.2.1
  generalize hv : ({ s with draws := s.draws + 1 } : State) = v
  have harrive : timeArrive s (withKind h 0x11) (.answer t1 t2 t3) = timeAnswer v t1 t2 t3 (stamp16 s).1 := by rw [← hv]; rfl
  have hanswer : timeAnswer v t1 t2 t3 (stamp16 s).1 =
      periodRestart { v with time := { v.time with keep := ((keep16 v + syncOffset t1 t2 t3 (stamp16 s).1) / 16).toNat } } := by
    have hlv : isLeader v = false := hv ▸ hl
    have hjv : jobId v = 0 := hv ▸ hj
    simp only [timeAnswer, isRoot_of_follower hlv, hlv, hjv, Bool.false_eq_true, if_false, if_true]
  refine ⟨_, (stamp16 s).1, exec_timeSync_atHome hh _, stamp16_now s, ?_⟩
  rw [harrive, hanswer, takeLoop_settle (by rw [← hv]; exact hw) (by rw [← hv]; exact hloop), ← hv]
  exact ⟨rfl, rfl⟩

theorem timeSync_spreads {s : State} {l : Fin 96} {h : PktHdr} (hw : NoWork s) (hh : AtHome s l.val h 0x11)
    (hl : isLeader s = true) (hroot : isRoot s = false) (t1 t2 t3 : Int) :
    ∃ t t4, exec (.timeSync l h (.answer t1 t2 t3)) s = .next t ∧ StampNow s t4 ∧ t.time.target = syncOffset t1 t2 t3 t4 ∧
      t.time.pathDelay = min 0xFFFF (syncDelay t1 t2 t3 t4).toNat ∧ t.time.stale = false ∧
      t.time.lastSync = s.time.keep ∧ t.mem = s.mem := by
  have hloop : s.fab.loop = [] := hh.1.2.2.1
  generalize ht4 : (stamp16 s).1 = t4
  generalize hv : ({ s with draws := s.draws + 1 + 1 + 1, time :=
    { s.time with pathDelay := min 0xFFFF (syncDelay t1 t2 t3 t4).toNat } } : State) = v
  have harrive : ∃ num den, timeArrive s (withKind h 0x11) (.answer t1 t2 t3) =
      timeSpread v (syncOffset t1 t2 t3 t4) num den := by
    refine ⟨Config.freeNat (s.draws + 1), Config.freeNat (s.draws + 1 + 1) + 1, ?_⟩
    have hlead : isLeader { s with draws := s.draws + 1 } = true := hl
    have hnot : isRoot { s with draws := s.draws + 1 } = false := hroot
    have hanswer : timeArrive s (withKind h 0x11) (.answer t1 t2 t3) =
        timeAnswer { s with draws := s.draws + 1 } t1 t2 t3 t4 := by rw [← ht4]; rfl
    rw [hanswer, timeAnswer, hnot, hlead, if_neg Bool.false_ne_true, if_pos rfl, ← hv]
    rfl
  obtain ⟨num, den, harrive⟩ := harrive
  obtain ⟨c, happly⟩ := timeApply_frame v (syncOffset t1 t2 t3 t4) num den
  have hwork : NoWork (timeApply v (syncOffset t1 t2 t3 t4) num den) := by rw [happly, ← hv]; exact hw
  have hempty : (timeApply v (syncOffset t1 t2 t3 t4) num den).fab.loop = [] := by rw [happly, ← hv]; exact hloop
  have hleads : isLeader (timeApply v (syncOffset t1 t2 t3 t4) num den) = true := by rw [happly, ← hv]; exact hl
  refine ⟨_, t4, exec_timeSync_atHome hh _, ht4 ▸ stamp16_now s, ?_⟩
  obtain ⟨p, hkind, hpay, hspread⟩ := timeSpread_eq v (syncOffset t1 t2 t3 t4) num den
  obtain ⟨htime, hmem⟩ := takeLoop_spread hwork hempty hleads hkind hpay
  rw [harrive, hspread, htime, hmem, happly, ← hv]
  exact ⟨rfl, rfl, rfl, rfl, rfl⟩

/-- The leaders that a device has heard, once it has heard one more. -/
def heardBy (s : State) (src : Nat) : State :=
  if s.time.leaders.contains src then s else { s with time := { s.time with leaders := s.time.leaders ++ [src] } }

theorem heardBy_frame (s : State) (src : Nat) :
    ∃ ls, src ∈ ls ∧ heardBy s src = { s with time := { s.time with leaders := ls } } := by
  unfold heardBy
  split
  next h => exact ⟨s.time.leaders, List.contains_iff_mem.mp h, rfl⟩
  next => exact ⟨_, List.mem_append_right _ (List.mem_singleton_self src), rfl⟩

/-- A follower takes what the leader with the lowest number spreads; a leader it had not heard may be reported. -/
theorem timeFollow_takes {s : State} (hl : isLeader s = false) {src : Nat} (hlow : ∀ c ∈ s.time.leaders, src ≤ c) (off : Int)
    (num den : Nat) : ∃ u, Told (heardBy s src) u ∧ timeFollow s src off num den = timeApply u off num den := by
  have hnone : (s.time.leaders.any fun c => decide (c < src)) = false :=
    List.any_eq_false.mpr fun c hc => by simpa using hlow c hc
  refine ⟨if !s.time.leaders.contains src && !s.time.leaders.isEmpty then timeEvent (heardBy s src) src else heardBy s src,
    (timeEvent_told _ src).ite (Told.refl _), ?_⟩
  rw [timeFollow, hl, if_neg Bool.false_ne_true]
  exact if_neg (ne_true_of_eq_false hnone)

theorem timeSync_follows {s : State} {l : Fin 96} {h : PktHdr} (hw : NoWork s) (hh : AtHome s l.val h 0x11)
    (hl : isLeader s = false) (hlow : ∀ c ∈ s.time.leaders, h.src ≤ c) (off : Int) (n d : Nat) :
    ∃ t, exec (.timeSync l h (.apply off n d)) s = .next t ∧ t.time.target = off ∧ t.time.rateNum = n ∧
      t.time.rateDen = max 1 d ∧ t.time.stale = false ∧ t.time.lastSync = s.time.keep ∧
      t.time.offset = (if jobId s = 0 ∧ 16000 < (off - s.time.offset).natAbs then off else s.time.offset) ∧
      h.src ∈ t.time.leaders ∧ t.mem = s.mem := by
  have hloop : s.fab.loop = [] := hh.1.2.2.1
  obtain ⟨u, htold, hfollow⟩ := timeFollow_takes hl hlow off n d
  obtain ⟨ls, hheard, hframe⟩ := heardBy_frame s h.src
  rw [hframe] at htold
  obtain ⟨c, happly⟩ := timeApply_frame u off n d
  have hjob : jobId u = jobId s := htold.regBits (by decide) 15 0
  have harrive : timeArrive s (withKind h 0x11) (.apply off n d) = { u with time := timeTaken u off n d, chime := c } :=
    hfollow.trans happly
  have hwork : NoWork u := htold.noWork hw
  have hempty : u.fab.loop = [] := by rw [htold.fab]; exact hloop
  have hquiet := takeLoop_settle (t := { u with time := timeTaken u off n d, chime := c }) hwork hempty
  refine ⟨_, exec_timeSync_atHome hh _, ?_⟩
  rw [harrive, hquiet]
  dsimp only [timeTaken]
  rw [hjob, htold.time, htold.mem]
  exact ⟨rfl, rfl, rfl, rfl, rfl, rfl, hheard, rfl⟩

theorem timeSyncInterval_root {s : State} (h : isRoot s = true) :
    ∃ t, exec .timeSyncInterval s = .next t ∧ t.time.target = 0 ∧ t.time.rateNum = 1 ∧ t.time.rateDen = 1 ∧
      t.time.stale = false ∧ t.mem = s.mem := by
  obtain ⟨c, happly⟩ := timeApply_frame s 0 1 1
  refine ⟨_, exec_timeSyncInterval s, ?_⟩
  obtain ⟨p, _, _, hspread⟩ := timeSpread_eq s 0 1 1
  rw [syncInterval, if_pos h, hspread]
  have hsame : (launch (timeApply s 0 1 1) p).time = timeTaken s 0 1 1 ∧ (launch (timeApply s 0 1 1) p).mem = s.mem := by
    rcases launch_ships (timeApply s 0 1 1) p with hships | hships
    · rw [hships.time, hships.mem, happly]
      exact ⟨rfl, rfl⟩
    · rw [hships.time, hships.mem, happly]
      exact ⟨rfl, rfl⟩
  rw [hsame.1, hsame.2]
  exact ⟨rfl, rfl, rfl, rfl, rfl⟩

theorem timeSyncInterval_leader {s : State} {q : Nat} (hl : isLeader s = true) (hroot : isRoot s = false)
    (hq : planeUp s = some q) :
    ∃ t chip tag t1, exec .timeSyncInterval s = .next t ∧ StampNow s t1 ∧ Leaves t chip 0x11 tag (.timeSync (.request t1)) ∧
      t.time = s.time ∧ t.mem = s.mem ∧ t.regs = s.regs := by
  generalize hv : ({ s with draws := s.draws + 1, fab := { s.fab with nextTag := s.fab.nextTag + 1 } } : State) = v
  have hstamp := stamp16_now v
  generalize ht1 : (stamp16 v).1 = t1 at hstamp
  generalize hu : ({ v with draws := v.draws + 1 } : State) = u
  generalize hh : mkHdr u (Config.freeNat s.draws % 32768) 0x11 0 (s.fab.nextTag % 2 ^ 32)
    (payBytes u.draws (.timeSync (.request t1))).length 0 = h
  generalize hp : ({ hdr := { h with rflags := 2 + 4 * q }, pay := .timeSync (.request t1) } : Packet) = p
  have hup : portUp s (6 + q) = true := List.find?_some (p := fun q => portUp s (6 + q)) hq
  have hupu : portUp u (6 + q) = true := by rw [← hu, ← hv]; exact hup
  have hlife : expired u p.hdr = false := expired_of_now (by rw [← hp, ← hh]; rfl)
  have hrun : syncInterval s = viaPort u (6 + q) { pkt := p, port := some (6 + q), fixed := true } (p.flagged p.hdr.rflags) := by
    have hroute : syncInterval s = viaOwn u (6 + q) { pkt := p, port := some (6 + q), fixed := true } := by
      rw [syncInterval, hroot, hl, hq, if_neg Bool.false_ne_true, if_pos rfl, ← hp, ← hh, ← hu, ← ht1, ← hv]
      rfl
    rw [hroute, viaOwn, hupu]
    rfl
  have hposted : Posted u (viaPort u (6 + q) { pkt := p, port := some (6 + q), fixed := true } (p.flagged p.hdr.rflags)) p :=
    viaPort_posted rfl rfl hlife
  have hleaves := hposted.leaves
  refine ⟨_, p.hdr.dst, p.hdr.tag, t1, exec_timeSyncInterval s, by rw [← hv] at hstamp; exact hstamp, ?_⟩
  rw [hrun, hposted.ships.time, hposted.ships.mem, hposted.regs, ← hu, ← hv]
  have hkind : p.hdr.kind = 0x11 := by rw [← hp, ← hh]; rfl
  have hpay : p.pay = .timeSync (.request t1) := by rw [← hp]
  rw [hkind, hpay] at hleaves
  rw [hu.symm, hv.symm] at hleaves
  exact ⟨hleaves, rfl, rfl, rfl⟩

theorem timeSyncInterval_asks {s : State} {chip : Nat} (hl : isLeader s = false) (hj : jobId s = 0) (hnone : s.time.leaders = [])
    (hready : s.fin.ready = true) (hchip : chip = Config.freeNat s.draws % 32768) :
    ∃ t, exec .timeSyncInterval s = .next t ∧ t.time = s.time ∧ t.mem = s.mem ∧ t.fab.nextTag = s.fab.nextTag + 1 ∧
      (Reaches s chip 0x11 → ∃ t1, StampNow s t1 ∧
        Leaves t chip 0x11 (s.fab.nextTag % 2 ^ 32) (.timeSync (.request t1))) := by
  generalize hv : ({ s with draws := s.draws + 1, fab := { s.fab with nextTag := s.fab.nextTag + 1 } } : State) = v
  have hstamp := stamp16_now v
  generalize ht1 : (stamp16 v).1 = t1 at hstamp
  generalize hu : ({ v with draws := v.draws + 1 } : State) = u
  have hrun : syncInterval s = sendPkt u chip 0x11 0 (s.fab.nextTag % 2 ^ 32) (.timeSync (.request t1)) := by
    have hasks : jobId s = 0 ∧ s.time.leaders.isEmpty = true ∧ s.fin.ready = true := ⟨hj, by rw [hnone]; rfl, hready⟩
    rw [syncInterval, isRoot_of_follower hl, hl, if_neg Bool.false_ne_true, if_neg Bool.false_ne_true, alignAsk, if_pos hasks,
      hchip, ← hu, ← ht1, ← hv]
    rfl
  refine ⟨_, exec_timeSyncInterval s, ?_⟩
  rw [hrun]
  have hlaunch : ∃ p, sendPkt u chip 0x11 0 (s.fab.nextTag % 2 ^ 32) (.timeSync (.request t1)) = launch u p := ⟨_, rfl⟩
  obtain ⟨p, hp⟩ := hlaunch
  have hkept : (launch u p).time = s.time ∧ (launch u p).mem = s.mem ∧ (launch u p).fab.nextTag = s.fab.nextTag + 1 := by
    rcases launch_ships u p with hships | hships
    · rw [hships.time, hships.mem, hships.nextTag, ← hu, ← hv]
      exact ⟨rfl, rfl, rfl⟩
    · rw [hships.time, hships.mem, hships.nextTag, ← hu, ← hv]
      exact ⟨rfl, rfl, rfl⟩
  obtain ⟨htime, hmem, htag⟩ := hkept
  refine ⟨hp ▸ htime, hp ▸ hmem, hp ▸ htag, fun hr => ⟨t1, by rw [← hv] at hstamp; exact hstamp, ?_⟩⟩
  have halike : RoutesAlike s u := by rw [← hu, ← hv]; exact ⟨rfl, rfl, fun _ => rfl⟩
  obtain ⟨x, hposted, hdst, hkind, htag, hpay⟩ := sendPkt_mgmt_posted (by decide) (hr.alike halike) (s.fab.nextTag % 2 ^ 32)
    (.timeSync (.request t1))
  have hleaves := hposted.leaves
  rwa [hdst, hkind, htag, hpay] at hleaves

theorem timeStale_sets {s : State} (hfresh : s.time.stale = false) (hold : s.time.lastSync + 15625000 ≤ s.time.keep) :
    ∃ t, exec .timeStale s = .next t ∧ t.time = { s.time with stale := true } ∧ Waits t 0 4 0x19 ∧ t.mem = s.mem := by
  generalize hu : raiseFault { s with time := { s.time with stale := true } } 0 4 0x19 0 = u
  have hwaits : Waits u 0 4 0x19 := hu ▸ waits_raiseFault ..
  have htold := timeEvent_told u (ownChip s)
  refine ⟨_, exec_timeStale s, ?_⟩
  rw [hfresh, if_pos (by simpa [staleAfter] using hold), hu, Waits, htold.time, htold.flt, htold.mem]
  exact ⟨hu ▸ rfl, hwaits, hu ▸ rfl⟩

end Sys2Proof.Machine
end

section
/-! PROOFS. Flow contexts (spec/12 R301, R302): what opens one, what an acknowledgement releases, and what a sequence number is once it
has counted as received. -/

namespace Sys2Proof.Machine

/-! ### Steps that change flows alone -/

/-- One state is the other with its flows changed. -/
def FlowsOnly (s t : State) : Prop := ∃ fs told, t = { s with fab := { s.fab with flows := fs, fullTold := told } }

theorem FlowsOnly.refl (s : State) : FlowsOnly s s := ⟨_, _, rfl⟩

theorem FlowsOnly.trans {s t u : State} (hst : FlowsOnly s t) (htu : FlowsOnly t u) : FlowsOnly s u := by
  obtain ⟨fs, told, rfl⟩ := hst
  obtain ⟨gs, told', rfl⟩ := htu
  exact ⟨gs, told', rfl⟩

theorem flowUpdate_flowsOnly (s : State) (chip cls : Nat) (f : Flow → Flow) : FlowsOnly s (flowUpdate s chip cls f) :=
  ⟨_, _, rfl⟩

section
variable {s t : State} (h : FlowsOnly s t)
include h

theorem FlowsOnly.mem : t.mem = s.mem := by obtain ⟨fs, told, rfl⟩ := h; rfl
theorem FlowsOnly.regs : t.regs = s.regs := by obtain ⟨fs, told, rfl⟩ := h; rfl
theorem FlowsOnly.ops : t.ops = s.ops := by obtain ⟨fs, told, rfl⟩ := h; rfl
theorem FlowsOnly.loop : t.fab.loop = s.fab.loop := by obtain ⟨fs, told, rfl⟩ := h; rfl
theorem FlowsOnly.sent : t.fab.sent = s.fab.sent := by obtain ⟨fs, told, rfl⟩ := h; rfl
theorem FlowsOnly.held : t.fab.heldPkts = s.fab.heldPkts := by obtain ⟨fs, told, rfl⟩ := h; rfl
theorem FlowsOnly.noWork (hs : NoWork s) : NoWork t := by obtain ⟨fs, told, rfl⟩ := h; exact hs
theorem FlowsOnly.routes : RoutesAlike s t := by obtain ⟨fs, told, rfl⟩ := h; exact ⟨rfl, rfl, fun _ => rfl⟩
theorem FlowsOnly.stamp : stampNow t = stampNow s := by obtain ⟨fs, told, rfl⟩ := h; rfl

end

/-! ### One flow and the others -/

theorem flow_flowUpdate_other {s : State} {chip cls c k : Nat} {f : Flow → Flow}
    (hf : ∀ x, (f x).chip = x.chip ∧ (f x).cls = x.cls) (hne : ¬(c = chip ∧ k = cls)) :
    flow (flowUpdate s chip cls f) c k = flow s c k := by
  have hkey : ((fun x : Flow => x.chip == c && x.cls == k) ∘ fun x => if x.chip == chip && x.cls == cls then f x else x) =
      fun x => x.chip == c && x.cls == k := funext fun x => by
    obtain ⟨hchip, hcls⟩ := hf x
    rw [Function.comp_apply]
    split
    · rw [hchip, hcls]
    · rfl
  simp only [flow, flowUpdate, List.find?_map, hkey]
  cases hx : s.fab.flows.find? fun x => x.chip == c && x.cls == k with
  | none => rfl
  | some x =>
    obtain ⟨rfl, rfl⟩ : x.chip = c ∧ x.cls = k := by simpa using List.find?_some hx
    exact congrArg some (if_neg (by simpa using hne))

/-- An open flow's context is found again; with room for one, a context not there yet is new. -/
theorem openFlow_room {s : State} {chip cls : Nat} (h : (flow s chip cls).isSome = true ∨ residents s < 12288) :
    ∃ t, openFlow s chip cls = some t ∧ FlowsOnly s t ∧
      flow t chip cls = some ((flow s chip cls).getD { chip := chip, cls := cls }) ∧
      (∀ c k, ¬(c = chip ∧ k = cls) → flow t c k = flow s c k) ∧ ∀ g, storeUsed t g = storeUsed s g := by
  cases hf : flow s chip cls with
  | some f => exact ⟨s, by rw [openFlow, hf], FlowsOnly.refl s, hf, fun _ _ _ => rfl, fun _ => rfl⟩
  | none =>
    have hroom : residents s < 12288 := h.resolve_left (by rw [hf]; exact Bool.false_ne_true)
    refine ⟨fullOver { s with fab := { s.fab with flows := s.fab.flows ++ [{ chip := chip, cls := cls }] } } chip cls, ?_,
      ⟨_, _, rfl⟩, ?_, fun c k hne => ?_, fun g => ?_⟩
    · rw [openFlow, hf]
      exact if_pos hroom
    · have hnone : s.fab.flows.find? (fun f => f.chip == chip && f.cls == cls) = none := hf
      simp [flow, fullOver, List.find?_append, hnone]
    · have hother : ¬(chip = c ∧ cls = k) := fun ⟨hc, hk⟩ => hne ⟨hc.symm, hk.symm⟩
      simp [flow, fullOver, List.find?_append, hother]
    · simp [storeUsed, fullOver]

/-! ### Received -/

/-- A sequence number received: it waits in the window for an earlier one, or the window has passed it. `n` more may still pass. -/
def Counted (n seq base : Nat) (got : List Nat) : Prop :=
  (seq ∈ got ∧ (seq + 2 ^ 32 - base) % 2 ^ 32 < 1024) ∨ 2 ^ 31 + n ≤ (seq + 2 ^ 32 - base) % 2 ^ 32

theorem seqPlace_of_counted {f : Flow} {n : Nat} (hbase : f.base < 2 ^ 32) (h : Counted 0 n f.base f.got) :
    seqPlace f n = .duplicate := by
  rw [Counted] at h
  rw [seqPlace, Nat.mod_eq_of_lt hbase]
  rcases h with ⟨hgot, hnear⟩ | hpassed
  · rw [if_neg (by omega), if_neg (by omega), if_pos (List.contains_iff_mem.mpr hgot)]
  · rw [if_pos (by omega)]

/-- What has counted as received stays so while the window moves on. -/
theorem advanceBase_counted {seq : Nat} (hseq : seq < 2 ^ 32) : ∀ (fuel base : Nat) (got : List Nat), fuel ≤ 1025 → base < 2 ^ 32 →
    Counted fuel seq base got →
    (advanceBase fuel base got).1 < 2 ^ 32 ∧ Counted 0 seq (advanceBase fuel base got).1 (advanceBase fuel base got).2
  | 0, _, _, _, hbase, h => ⟨hbase, h⟩
  | fuel + 1, base, got, hfuel, hbase, h => by
    rw [advanceBase]
    split
    next =>
      refine advanceBase_counted hseq fuel _ _ (by omega) (Nat.mod_lt _ (by decide)) ?_
      rcases h with ⟨hgot, hnear⟩ | hpassed
      · by_cases hat : seq = base
        · exact .inr (by omega)
        · exact .inl ⟨List.mem_filter.mpr ⟨hgot, by simpa using hat⟩, by omega⟩
      · exact .inr (by omega)
    next => exact ⟨hbase, h.imp_right fun hpassed => by omega⟩

/-- A flow's receive window once a sequence number in it has counted as received. -/
def Flow.gotSeq (f : Flow) (n : Nat) : Flow :=
  { f with base := (advanceBase 1025 f.base (f.got ++ [n])).1, got := (advanceBase 1025 f.base (f.got ++ [n])).2, ackOwed := true }

theorem markGot_eq (s : State) (chip cls n : Nat) : markGot s chip cls n = flowUpdate s chip cls (·.gotSeq n) := rfl

theorem seqPlace_gotSeq {f : Flow} {n : Nat} (hbase : f.base < 2 ^ 32) (hn : n < 2 ^ 32) (hfresh : seqPlace f n = .fresh) :
    seqPlace (f.gotSeq n) n = .duplicate := by
  have hnear : (n + 2 ^ 32 - f.base) % 2 ^ 32 < 1024 := by
    rw [seqPlace, Nat.mod_eq_of_lt hbase] at hfresh
    by_contra hfar
    split at hfresh
    · exact nomatch hfresh
    · rw [if_pos (by omega)] at hfresh
      exact nomatch hfresh
  have hcounted : Counted 1025 n f.base (f.got ++ [n]) := .inl ⟨List.mem_append_right _ (List.mem_singleton_self n), hnear⟩
  obtain ⟨hlow, hleft⟩ := advanceBase_counted hn 1025 f.base _ (Nat.le_refl _) hbase hcounted
  exact seqPlace_of_counted hlow hleft

/-! ### Acknowledged -/

theorem answersGot_flowsOnly (s : State) (chip : Nat) (done : List Nat) : FlowsOnly s (answersGot s chip done) := by
  unfold answersGot
  split
  · exact FlowsOnly.refl s
  · exact List.foldlRecOn _ _ (motive := FlowsOnly s) (FlowsOnly.refl s) fun t ht a _ =>
      ht.trans ((flowUpdate_flowsOnly t chip 2 _).trans (flowUpdate_flowsOnly _ chip 2 _))

theorem answersGot_of_none {s : State} {chip : Nat} {done : List Nat} (h : ∀ g, flow s chip 2 = some g → g.answers = []) :
    answersGot s chip done = s := by
  unfold answersGot
  split
  next => rfl
  next g hg => rw [h g hg, List.filter_nil, List.foldl_nil]

/-- With no op in flight and nothing held, an acknowledgement of a flow lets go the copies it covers and the answers in them. -/
theorem releaseAcked_quiet {s : State} {chip cls : Nat} {p : Nat → Bool} {f : Flow} (hops : s.ops = [])
    (hheld : s.fab.heldPkts = []) (hf : flow s chip cls = some f) {done : List Nat}
    (hdone : (f.unacked.map fun u => u.pkt.hdr.fseq).filter p = done) :
    releaseAcked s chip cls p = if done.isEmpty then s else answersGot (flowUpdate s chip cls fun f =>
      { f with unacked := f.unacked.filter fun u => !done.contains u.pkt.hdr.fseq }) chip done := by
  rw [releaseAcked, hf]
  dsimp only
  rw [hdone]
  refine if_congr Iff.rfl rfl ?_
  generalize hu : flowUpdate s chip cls (fun f => { f with unacked := f.unacked.filter fun u => !done.contains u.pkt.hdr.fseq }) = u
  have hkept : FlowsOnly s u := hu ▸ flowUpdate_flowsOnly s chip cls _
  have hnone : u.ops = [] := hkept.ops.trans hops
  have hsame : { u with ops := u.ops.map fun o => { o with reqs := o.reqs.filter fun r => !ackReq chip cls done r } } = u := by
    rw [hnone, List.map_nil, ← hnone]
  rw [hsame]
  exact retryHeld_of_none (((answersGot_flowsOnly u chip done).held.trans hkept.held).trans hheld)

theorem releaseAcked_flowsOnly {s : State} {chip cls : Nat} {p : Nat → Bool} {f : Flow} (hops : s.ops = [])
    (hheld : s.fab.heldPkts = []) (hf : flow s chip cls = some f) : FlowsOnly s (releaseAcked s chip cls p) := by
  rw [releaseAcked_quiet hops hheld hf rfl]
  split
  · exact FlowsOnly.refl s
  · exact (flowUpdate_flowsOnly ..).trans (answersGot_flowsOnly ..)

/-- Where no answer waits, exactly the copies that the acknowledgement covers are let go. -/
theorem releaseAcked_flow {s : State} {chip cls : Nat} {p : Nat → Bool} {f : Flow} (hops : s.ops = [])
    (hheld : s.fab.heldPkts = []) (hf : flow s chip cls = some f) (hans : ∀ g, flow s chip 2 = some g → g.answers = []) :
    flow (releaseAcked s chip cls p) chip cls = some { f with unacked := f.unacked.filter fun u => !p u.pkt.hdr.fseq } := by
  generalize hdone : (f.unacked.map fun u => u.pkt.hdr.fseq).filter p = done
  have hcovers : ∀ u ∈ f.unacked, (!done.contains u.pkt.hdr.fseq) = !p u.pkt.hdr.fseq := fun u hu => by
    have hmem : u.pkt.hdr.fseq ∈ done ↔ p u.pkt.hdr.fseq = true := by
      rw [← hdone, List.mem_filter]
      exact and_iff_right (List.mem_map_of_mem hu)
    rw [List.contains_eq_mem, Bool.decide_congr hmem, Bool.decide_eq_true]
  rw [releaseAcked_quiet hops hheld hf hdone]
  split
  next hempty =>
    have hnil : done = [] := List.isEmpty_iff.mp hempty
    have hall : (f.unacked.filter fun u => !p u.pkt.hdr.fseq) = f.unacked := List.filter_eq_self.mpr fun u hu => by
      rw [← hcovers u hu, hnil]
      rfl
    rw [hall]
    exact hf
  next =>
    rw [answersGot_of_none, flow_flowUpdate (by exact fun _ => ⟨rfl, rfl⟩), hf, Option.map_some, List.filter_congr hcovers]
    intro g hg
    by_cases hkey : chip = chip ∧ 2 = cls
    · obtain ⟨-, rfl⟩ := hkey
      rw [flow_flowUpdate (by exact fun _ => ⟨rfl, rfl⟩), hf, Option.map_some, Option.some.injEq] at hg
      rw [← hg]
      exact hans f hf
    · rw [flow_flowUpdate_other (by exact fun _ => ⟨rfl, rfl⟩) hkey] at hg
      exact hans g hg

/-- A refused publication counts as received once its answer is acknowledged. -/
theorem releaseAcked_answer {s : State} {chip n : Nat} {p : Nat → Bool} {f : Flow} {u : Unacked} (hops : s.ops = [])
    (hheld : s.fab.heldPkts = []) (hf : flow s chip 2 = some f) (hone : f.unacked = [u]) (hp : p u.pkt.hdr.fseq = true)
    (hans : f.answers = [(n, u.pkt.hdr.fseq)]) :
    flow (releaseAcked s chip 2 p) chip 2 = some ({ f with unacked := [], answers := [] }.gotSeq n) := by
  have hdone : (f.unacked.map fun u => u.pkt.hdr.fseq).filter p = [u.pkt.hdr.fseq] := by
    rw [hone, List.map_singleton, List.filter_singleton, hp]
    rfl
  rw [releaseAcked_quiet hops hheld hf hdone, List.isEmpty_cons, if_neg Bool.false_ne_true]
  generalize hs' : flowUpdate s chip 2 (fun f =>
    { f with unacked := f.unacked.filter fun v => !([u.pkt.hdr.fseq] : List Nat).contains v.pkt.hdr.fseq }) = s'
  have hf' : flow s' chip 2 = some { f with unacked := [] } := by
    rw [← hs', flow_flowUpdate (by exact fun _ => ⟨rfl, rfl⟩), hf, Option.map_some, hone]
    simp
  rw [answersGot, hf']
  dsimp only
  rw [hans]
  simp only [List.filter_singleton, List.contains_eq_mem, List.mem_singleton, decide_true, List.foldl_cons, List.foldl_nil,
    cond_true]
  rw [markGot_eq, flow_flowUpdate (by exact fun _ => ⟨rfl, rfl⟩), flow_flowUpdate (by exact fun _ => ⟨rfl, rfl⟩), hf',
    Option.map_some, Option.map_some, hans]
  simp

end Sys2Proof.Machine
end

section
/-! PROOFS. An acknowledgement that comes for this device (spec/12 R301, R302). -/

namespace Sys2Proof.Machine

/-- What a packet has that arrives in order of its flow's receive window: a flow here that can take it. -/
structure Opens (s t : State) (h : PktHdr) (cls : Nat) (f : Flow) : Prop where
  opened : openFlow s h.src cls = some t
  only : FlowsOnly s t
  others : ∀ c k, ¬(c = h.src ∧ k = cls) → flow t c k = flow s c k
  found : flow t h.src cls = some f
  noCopies : f.unacked = []
  noAnswers : f.answers = []
  resident : f.spill = none
  fresh : seqPlace f h.fseq = .fresh

theorem Opens.withKind {s t : State} {h : PktHdr} {cls kind : Nat} {f : Flow} (ho : Opens s t h cls f) :
    Opens s t (withKind h kind) cls f :=
  ⟨ho.opened, ho.only, ho.others, ho.found, ho.noCopies, ho.noAnswers, ho.resident, ho.fresh⟩

theorem NewHere.opens {s : State} {l kind : Nat} {h : PktHdr} (hn : NewHere s l h kind) : ∃ t f, Opens s t h (classOf kind) f := by
  obtain ⟨-, -, -, -, -, -, hplace⟩ := hn
  cases hf : flow s h.src (classOf kind) with
  | some f =>
    rw [hf] at hplace
    obtain ⟨-, hcopies, hanswers, hspill, hfresh⟩ := hplace
    obtain ⟨t, hopen, honly, hfound, hothers, -⟩ := openFlow_room (s := s) (.inl (Option.isSome_of_eq_some hf))
    rw [hf] at hfound
    exact ⟨t, f, hopen, honly, hothers, hfound, hcopies, hanswers, hspill, hfresh⟩
  | none =>
    rw [hf] at hplace
    obtain ⟨hnear, hroom⟩ := hplace
    obtain ⟨t, hopen, honly, hfound, hothers, -⟩ := openFlow_room (s := s) (chip := h.src) (cls := classOf kind) (.inr hroom)
    rw [hf] at hfound
    refine ⟨t, { chip := h.src, cls := classOf kind }, hopen, honly, hothers, hfound, rfl, rfl, rfl, ?_⟩
    have hat : (h.fseq + 2 ^ 32 - 0 % 2 ^ 32) % 2 ^ 32 = h.fseq := by omega
    simp only [seqPlace, hat, List.contains_nil, Bool.false_eq_true, if_false]
    rw [if_neg (by omega), if_neg (by omega)]

/-- A flow with nothing to acknowledge loses nothing to an acknowledgement. -/
theorem releaseAcked_of_noCopies {s : State} {chip cls : Nat} {p : Nat → Bool} {f : Flow} (hf : flow s chip cls = some f)
    (hnone : f.unacked = []) : releaseAcked s chip cls p = s := by
  rw [releaseAcked, hf]
  dsimp only
  rw [hnone]
  exact if_pos rfl

/-- What a packet's arm does is what its arrival does, and then its number counts as received. -/
theorem takeNumbered_accept {s t u : State} {l : Nat} {h : PktHdr} {p : Payload} {f : Flow} (hjob : h.job = jobId s)
    (hj : jobId s ≠ 0) (hchip : ownChip s < 0x4000) (ho : Opens s t h (classOf h.kind) f) (hhere : contextsHere t h = true)
    (htake : takeBulk t l h p = .accept u) : takeNumbered s l h p = .accept (markGot u h.src (classOf h.kind) h.fseq) := by
  have hours : ¬(h.job ≠ jobId s ∨ jobId s = 0 ∨ ownChip s ≥ 0x4000) := by
    rintro (hne | hzero | hhigh)
    · exact hne hjob
    · exact hj hzero
    · exact absurd hhigh (Nat.not_le.mpr hchip)
  have hpack : takePack t h = t := releaseAcked_of_noCopies ho.found ho.noCopies
  rw [takeNumbered, if_neg hours, ho.opened]
  dsimp only
  rw [hhere, hpack, ho.found, Option.map_some, ho.noAnswers, ho.fresh]
  dsimp only [List.any_nil]
  rw [Bool.not_true, if_neg Bool.false_ne_true, htake]

theorem exec_e2eAck (l : Fin 96) (h : PktHdr) (bm : List Byte) (s : State) :
    exec (.e2eAck l h bm) s = .next (packetIn s l.val (withKind h 8) (.e2eAck bm)) := rfl

/-- What an acknowledgement of flow `h.tag` covers: what is below its PACK, and its bitmap's. -/
def covers (h : PktHdr) (bm : List Byte) (n : Nat) : Bool :=
  seqBelow n h.pack || (decide ((n + 2 ^ 32 - h.pack % 2 ^ 32) % 2 ^ 32 < 1024) && mapBit bm ((n + 2 ^ 32 - h.pack % 2 ^ 32) % 2 ^ 32))

/-- An acknowledgement that is new here lets go what it covers; that, and its own number, is all that it changes. -/
theorem e2eAck_releases {s : State} {l : Fin 96} {h : PktHdr} {bm : List Byte} {f : Flow} (hw : NoWork s)
    (hn : NewHere s l.val h 8) (htag : h.tag ≠ 0) (hf : flow s h.src h.tag = some f) (hspill : f.spill = none)
    (hheld : s.fab.heldPkts = []) :
    ∃ t u, FlowsOnly s t ∧ (∀ k, k ≠ 0 → flow t h.src k = flow s h.src k) ∧
      exec (.e2eAck l h bm) s = .next u ∧ FlowsOnly s u ∧
      ∀ k, k ≠ 0 → flow u h.src k = flow (releaseAcked t h.src h.tag (covers h bm)) h.src k := by
  obtain ⟨t, g, ho⟩ := hn.opens
  obtain ⟨-, hhome, hjob, hj, hchip, -, -⟩ := hn
  have hothers : ∀ k, k ≠ 0 → flow t h.src k = flow s h.src k := fun k hk => ho.others _ k fun ⟨_, he⟩ => hk he
  have htf : flow t h.src h.tag = some f := (hothers h.tag htag).trans hf
  have hhere : contextsHere t (withKind h 8) = true := by
    have hack : flow t (withKind h 8).src (classOf (withKind h 8).kind) = some g := ho.found
    have htagged : flow t (withKind h 8).src (withKind h 8).tag = some f := htf
    simp only [contextsHere, hack, htagged, Option.all_some, ho.resident, hspill, Option.isNone_none, Bool.or_true, Bool.and_true]
  have hops : t.ops = [] := ho.only.ops.trans hw.1
  have hnone : t.fab.heldPkts = [] := ho.only.held.trans hheld
  have htaken : takePacket s l.val (withKind h 8) (.e2eAck bm) =
      .accept (markGot (releaseAcked t h.src h.tag (covers h bm)) h.src 0 h.fseq) :=
    takeNumbered_accept (h := withKind h 8) (p := .e2eAck bm) hjob hj hchip ho.withKind hhere rfl
  have hkept : FlowsOnly s (markGot (releaseAcked t h.src h.tag (covers h bm)) h.src 0 h.fseq) :=
    (ho.only.trans (releaseAcked_flowsOnly hops hnone htf)).trans (flowUpdate_flowsOnly ..)
  have hloop : s.fab.loop = [] := hhome.1.2.2.1
  have hkind : kindOf (.e2eAck bm) ≠ some 0x10 := fun he => absurd (Option.some.inj he) (by decide)
  refine ⟨t, _, ho.only, hothers, exec_e2eAck l h bm s, ?_⟩
  rw [packetIn_atHome hhome hkind htaken, takeLoop_settle (hkept.noWork hw) (hkept.loop.trans hloop)]
  exact ⟨hkept, fun k hk => flow_flowUpdate_other (fun _ => ⟨rfl, rfl⟩) fun ⟨_, he⟩ => hk he⟩

theorem e2eAck_covered {s : State} {l : Fin 96} {h : PktHdr} {bm : List Byte} {f : Flow} (hw : NoWork s)
    (hn : NewHere s l.val h 8) (htag : h.tag = 1 ∨ h.tag = 2) (hf : flow s h.src h.tag = some f) (hspill : f.spill = none)
    (hheld : s.fab.heldPkts = []) (hans : ∀ g, flow s h.src 2 = some g → g.answers = []) :
    ∃ t, exec (.e2eAck l h bm) s = .next t ∧ t.mem = s.mem ∧ t.regs = s.regs ∧
      flow t h.src h.tag = some { f with unacked := f.unacked.filter fun u => !covers h bm u.pkt.hdr.fseq } := by
  have hnum : h.tag ≠ 0 := by omega
  obtain ⟨t, u, honly, hothers, hexec, hkept, hsame⟩ := e2eAck_releases (bm := bm) hw hn hnum hf hspill hheld
  refine ⟨u, hexec, hkept.mem, hkept.regs, ?_⟩
  rw [hsame h.tag hnum, releaseAcked_flow (honly.ops.trans hw.1) (honly.held.trans hheld) ((hothers h.tag hnum).trans hf)]
  intro g hg
  exact hans g ((hothers 2 (by decide)).symm.trans hg)

theorem e2eAck_answer {s : State} {l : Fin 96} {h : PktHdr} {bm : List Byte} {f : Flow} {u : Unacked} {n : Nat} (hw : NoWork s)
    (hn : NewHere s l.val h 8) (htag : h.tag = 2) (hf : flow s h.src 2 = some f) (hspill : f.spill = none)
    (hheld : s.fab.heldPkts = []) (hone : f.unacked = [u]) (hbelow : seqBelow u.pkt.hdr.fseq h.pack = true)
    (hans : f.answers = [(n, u.pkt.hdr.fseq)]) (hseq : n < 2 ^ 32) (hbase : f.base < 2 ^ 32) (hfresh : seqPlace f n = .fresh) :
    ∃ t g, exec (.e2eAck l h bm) s = .next t ∧ flow t h.src 2 = some g ∧ g.unacked = [] ∧ g.answers = [] ∧
      seqPlace g n = .duplicate ∧ g.ackOwed = true ∧ t.mem = s.mem := by
  obtain ⟨t, v, honly, hothers, hexec, hkept, hsame⟩ :=
    e2eAck_releases (bm := bm) hw hn (by omega) (by rw [htag]; exact hf) hspill hheld
  have hcovered : covers h bm u.pkt.hdr.fseq = true := by rw [covers, hbelow, Bool.true_or]
  have htf : flow t h.src 2 = some f := (hothers 2 (by decide)).trans hf
  have hfound := releaseAcked_answer (honly.ops.trans hw.1) (honly.held.trans hheld) htf hone hcovered hans
  have hplace := seqPlace_gotSeq (f := { f with unacked := [], answers := [] }) hbase hseq hfresh
  refine ⟨v, _, hexec, ?_, rfl, rfl, hplace, rfl, hkept.mem⟩
  rw [hsame 2 (by decide), htag, hfound]

end Sys2Proof.Machine
end

section
/-! PROOFS. Flows that time moves: packets sent again, a flow that fails, acknowledgements owed, and contexts that come back
(spec/12 R301, R302). -/

namespace Sys2Proof.Machine

/-! ### Contexts -/

theorem exec_flowRetransmit (chip n : Nat) (c : Fin 3) (s : State) :
    exec (.flowRetransmit chip c n) s = .next (flowRetransmit s chip c.val n) := rfl
theorem exec_flowAckTimer (chip : Nat) (c : Fin 3) (s : State) : exec (.flowAckTimer chip c) s = .next (flowAck s chip c.val) := rfl
theorem exec_flowContextFill (chip : Nat) (c : Fin 3) (s : State) :
    exec (.flowContextFill chip c) s = .next (flowFill s chip c.val) := rfl

theorem flowFill_of_none {s : State} {chip cls : Nat} (h : flow s chip cls = none) : flowFill s chip cls = s := by
  rw [flowFill, h]
  rfl

theorem flowFill_of_resident {s : State} {chip cls : Nat} {f : Flow} (h : flow s chip cls = some f) (hspill : f.spill = none) :
    flowFill s chip cls = s := by rw [flowFill, h, Option.bind_some, hspill]

theorem flowContextFill_back {s : State} {chip : Nat} {c : Fin 3} {f : Flow} (hf : flow s chip c.val = some f)
    (hspill : f.spill.isSome = true) (hroom : residents s < 12288) (hheld : s.fab.heldPkts = []) :
    ∃ t, exec (.flowContextFill chip c) s = .next t ∧ flow t chip c.val = some { f with spill := none } ∧
      t.mem = s.mem ∧ t.fab.flows.length = s.fab.flows.length := by
  obtain ⟨k, hk⟩ := Option.isSome_iff_exists.mp hspill
  have hfill : flowFill s chip c.val = flowUpdate s chip c.val fun f => { f with spill := none } := by
    rw [flowFill, hf, Option.bind_some, hk]
    exact (if_pos hroom).trans (retryHeld_of_none hheld)
  refine ⟨_, exec_flowContextFill chip c s, ?_⟩
  rw [hfill, flow_flowUpdate (by exact fun _ => ⟨rfl, rfl⟩), hf]
  exact ⟨rfl, rfl, List.length_map _⟩

/-! ### Sent again -/

theorem Ships.flowStill {s t : State} (h : Ships s t) {chip cls : Nat} {f : Flow} (hf : flow s chip cls = some f) :
    ∃ g, flow t chip cls = some g ∧ g.still = f.still := by
  have hsame := h.sameFlow chip cls
  rw [hf, Option.map_some] at hsame
  exact Option.map_eq_some_iff.mp hsame

theorem still_unacked {f g : Flow} (h : g.still = f.still) :
    g.unacked.map (fun u => { u with gallery := 0 }) = f.unacked.map fun u => { u with gallery := 0 } :=
  congrArg Flow.unacked h

/-- A copy keeps its packet and its tries, whichever Gallery it is at. -/
theorem still_copy {f g : Flow} (h : g.still = f.still) {u : Unacked} (hu : u ∈ f.unacked) :
    ∃ v ∈ g.unacked, v.pkt = u.pkt ∧ v.tries = u.tries := by
  have hmem := List.mem_map_of_mem (f := fun u : Unacked => { u with gallery := 0 }) hu
  rw [← still_unacked h, List.mem_map] at hmem
  obtain ⟨v, hv, hvu⟩ := hmem
  have hpkt := congrArg Unacked.pkt hvu
  have htries := congrArg Unacked.tries hvu
  exact ⟨v, hv, hpkt, htries⟩

theorem find?_eq_of_only {α : Type} {p : α → Bool} {xs : List α} {a : α} (ha : a ∈ xs) (hp : p a = true)
    (honly : ∀ b ∈ xs, p b = true → b = a) : xs.find? p = some a := by
  obtain ⟨b, hb⟩ := Option.isSome_iff_exists.mp (List.find?_isSome.mpr ⟨a, ha, hp⟩)
  rw [hb, honly b (List.mem_of_find?_eq_some hb) (List.find?_some hb)]

section
variable {s : State} {chip n : Nat} {c : Fin 3} {f : Flow} {u : Unacked}

/-- The one copy of a resident flow that has a sequence number is the one that its timer looks at. -/
theorem copy_found (hf : flow s chip c.val = some f) (hu : u ∈ f.unacked) (hn : u.pkt.hdr.fseq = n)
    (honly : ∀ v ∈ f.unacked, v.pkt.hdr.fseq = n → v = u) :
    ((flow s chip c.val).bind fun f => f.unacked.find? fun u => u.pkt.hdr.fseq == n) = some u := by
  rw [hf, Option.bind_some]
  exact find?_eq_of_only hu (beq_iff_eq.mpr hn) fun v hv hvn => honly v hv (beq_iff_eq.mp hvn)

theorem flowRetransmit_waits (hf : flow s chip c.val = some f) (hspill : f.spill = none)
    (h : copyWaits s chip c.val n = true ∨ ∀ u ∈ f.unacked, u.pkt.hdr.fseq ≠ n) :
    exec (.flowRetransmit chip c n) s = .next s := by
  rw [exec_flowRetransmit, flowRetransmit, flowFill_of_resident hf hspill, hf, Option.bind_some]
  cases hfind : f.unacked.find? fun u => u.pkt.hdr.fseq == n with
  | none => rfl
  | some u =>
    rcases h with hwaits | hgone
    · exact congrArg _ (if_pos hwaits)
    · exact absurd (by simpa using List.find?_some hfind) (hgone u (List.mem_of_find?_eq_some hfind))

/-- The packet of a copy, as it goes out again: stamped now, and with what this device has received by now. -/
def resent (s : State) (chip cls : Nat) (u : Unacked) : Packet :=
  { hdr := if u.pkt.hdr.kind = 8 then ackHdr s u.pkt.hdr
      else { u.pkt.hdr with stamp := stampNow s, pack := packFor s chip cls }
    pay := ackPay s u.pkt.hdr u.pkt.pay }

/-- The copies of a flow once the packet of one is sent again. -/
def resend (n : Nat) (p : Packet) (f : Flow) : Flow :=
  { f with unacked := f.unacked.map fun x => if x.pkt.hdr.fseq == n then { x with pkt := p, tries := x.tries + 1 } else x }

theorem resent_fseq (s : State) (chip cls : Nat) (u : Unacked) : (resent s chip cls u).hdr.fseq = u.pkt.hdr.fseq := by
  rw [resent]
  split <;> rfl

theorem resent_stamp (s : State) (chip cls : Nat) (u : Unacked) : (resent s chip cls u).hdr.stamp = stampNow s := by
  rw [resent]
  split <;> rfl

theorem ackPay_of_kind {s : State} {h : PktHdr} (hk : h.kind ≠ 8) (pay : Payload) : ackPay s h pay = pay := by
  rw [ackPay, beq_eq_false_iff_ne.mpr hk]

theorem flowRetransmit_again (hf : flow s chip c.val = some f) (hspill : f.spill = none) (hu : u ∈ f.unacked)
    (hn : u.pkt.hdr.fseq = n) (honly : ∀ v ∈ f.unacked, v.pkt.hdr.fseq = n → v = u) (htries : u.tries < 8)
    (hfree : copyWaits s chip c.val n = false) : exec (.flowRetransmit chip c n) s = .next (launch
      (flowUpdate s chip c.val (resend n (resent s chip c.val u))) (resent s chip c.val u)) := by
  rw [exec_flowRetransmit, flowRetransmit, flowFill_of_resident hf hspill, copy_found hf hu hn honly]
  dsimp only
  rw [hfree, if_neg Bool.false_ne_true, if_neg (Nat.not_le.mpr htries)]
  rfl

theorem flowRetransmit_sends (hf : flow s chip c.val = some f) (hspill : f.spill = none) (hu : u ∈ f.unacked)
    (hn : u.pkt.hdr.fseq = n) (honly : ∀ v ∈ f.unacked, v.pkt.hdr.fseq = n → v = u) (htries : u.tries < 8)
    (hfree : copyWaits s chip c.val n = false) :
    ∃ t g v, exec (.flowRetransmit chip c n) s = .next t ∧ flow t chip c.val = some g ∧ v ∈ g.unacked ∧
      v.tries = u.tries + 1 ∧ v.pkt.pay = ackPay s u.pkt.hdr u.pkt.pay ∧ (u.pkt.hdr.kind ≠ 8 → v.pkt.pay = u.pkt.pay) ∧
      v.pkt.hdr.fseq = n ∧ v.pkt.hdr.stamp = stampNow s ∧
      g.unacked.length = f.unacked.length ∧ t.mem = s.mem := by
  generalize hp : resent s chip c.val u = p
  have hexec := flowRetransmit_again hf hspill hu hn honly htries hfree
  rw [hp] at hexec
  generalize hs' : flowUpdate s chip c.val (resend n p) = s' at hexec
  have hresent : flow s' chip c.val = some (resend n p f) := by
    rw [← hs', flow_flowUpdate (by exact fun _ => ⟨rfl, rfl⟩), hf, Option.map_some]
  have hlaunched : (∃ g, flow (launch s' p) chip c.val = some g ∧ g.still = (resend n p f).still) ∧
      (launch s' p).mem = s.mem := by
    rcases launch_ships s' p with hships | hships
    · exact ⟨hships.flowStill hresent, hships.mem.trans (hs' ▸ rfl)⟩
    · exact ⟨hships.flowStill (s := loopBack s' p) hresent, hships.mem.trans (hs' ▸ rfl)⟩
  obtain ⟨⟨g, hg, hstill⟩, hmem⟩ := hlaunched
  have hcopy : { u with pkt := p, tries := u.tries + 1 } ∈ (resend n p f).unacked :=
    List.mem_map.mpr ⟨u, hu, if_pos (beq_iff_eq.mpr hn)⟩
  obtain ⟨v, hv, hpkt, hagain⟩ := still_copy hstill hcopy
  have hpay : v.pkt.pay = ackPay s u.pkt.hdr u.pkt.pay := by rw [hpkt, ← hp]; rfl
  have hlength := congrArg List.length (still_unacked hstill)
  simp only [resend, List.length_map] at hlength
  exact ⟨_, g, v, hexec, hg, hv, hagain, hpay, fun hk => hpay.trans (ackPay_of_kind hk _),
    by rw [hpkt, ← hp, resent_fseq, hn], by rw [hpkt, ← hp, resent_stamp], hlength, hmem⟩

/-! ### A flow that fails -/

theorem limitEnd_of_other {o : Op} (hgrad : ∀ b, o.body ≠ .reduceGrad b) (hcommit : ∀ b, o.body ≠ .stepCommit b) (s : State) :
    limitEnd s o = opDone s o.id .timeout := by
  unfold limitEnd
  split
  next b hb => exact absurd hb (hgrad b)
  next b hb => exact absurd hb (hcommit b)
  next => rfl

/-- A device whose flow has failed, before the ops that wait on it end: the fault is on record, the copies and what waited to be
sent are gone. -/
def flowLost (s : State) (chip cls : Nat) : State :=
  let t := flowUpdate (raiseFault (drawFree s).2 4 (0x300 + (drawFree s).1 % 2) 0x14 chip) chip cls fun f => { f with unacked := [] }
  { t with fab := { t.fab with heldPkts := t.fab.heldPkts.filter fun w =>
    !(w.ingress.isNone && w.pkt.hdr.dst == chip && classOf w.pkt.hdr.kind == cls) } }

/-- An op that still waits when its flow fails ends as at its limit. -/
def endWaiting (s : State) (i : Nat) : State :=
  match opById s i with
  | some o => limitEnd s o
  | none => s

theorem flowFail_eq (s : State) (chip cls : Nat) : flowFail s chip cls = settle ((((flowLost s chip cls).ops.filter fun o =>
    !o.isDone && waitsOnFlow o chip cls).map (·.id)).foldl endWaiting (flowLost s chip cls)) := rfl

theorem flowFail_ends {o : Op} {cls : Nat} (ho : OnlyOp s o) (hact : o.phase = .active) (hgrad : ∀ b, o.body ≠ .reduceGrad b)
    (hcommit : ∀ b, o.body ≠ .stepCommit b) (hwaits : waitsOnFlow o chip cls = true) :
    ∃ bs, flowFail s chip cls = withBelfries { flowLost s chip cls with ops := [doneOp o .timeout] } bs := by
  obtain ⟨hops, hfree, hheld⟩ := ho
  have hopen : o.isDone = false := by simp [Op.isDone, hact]
  have hlost : (flowLost s chip cls).ops = [o] := hops
  have hkept : (flowLost s chip cls).fin = s.fin ∧ (flowLost s chip cls).hif = s.hif := ⟨rfl, rfl⟩
  rw [flowFail_eq]
  generalize flowLost s chip cls = t at hlost hkept
  obtain ⟨hfin, hhif⟩ := hkept
  have honly : OnlyOp { t with ops := [doneOp o .timeout] } (doneOp o .timeout) :=
    ⟨rfl, by rw [hfin]; exact hfree, by rw [hhif]; exact hheld⟩
  have hids : ((t.ops.filter fun o => !o.isDone && waitsOnFlow o chip cls).map (·.id)) = [o.id] := by
    rw [hlost, List.filter_singleton, hopen, hwaits]
    rfl
  have hdone : endWaiting t o.id = { t with ops := [doneOp o .timeout] } := by
    rw [endWaiting, opById_only hlost]
    exact (limitEnd_of_other hgrad hcommit t).trans (opDone_only hlost rfl hact .timeout)
  rw [hids, List.foldl_cons, List.foldl_nil, hdone]
  exact settle_of_still honly (still_of_done rfl)

theorem flowRetransmit_fails {o : Op} (ho : OnlyOp s o) (hact : o.phase = .active) (hgrad : ∀ b, o.body ≠ .reduceGrad b)
    (hcommit : ∀ b, o.body ≠ .stepCommit b) (hwaits : waitsOnFlow o chip c.val = true) (hf : flow s chip c.val = some f)
    (hspill : f.spill = none) (hu : u ∈ f.unacked) (hn : u.pkt.hdr.fseq = n)
    (honly : ∀ v ∈ f.unacked, v.pkt.hdr.fseq = n → v = u) (htries : 8 ≤ u.tries) (hfree : copyWaits s chip c.val n = false) :
    ∃ t, exec (.flowRetransmit chip c n) s = .next t ∧ flow t chip c.val = some { f with unacked := [] } ∧
      Ended s t o .timeout ∧ (Waits t 4 0x300 0x14 ∨ Waits t 4 0x301 0x14) ∧ t.mem = s.mem ∧ t.regs = s.regs := by
  have hrun : exec (.flowRetransmit chip c n) s = .next (flowFail s chip c.val) := by
    rw [exec_flowRetransmit, flowRetransmit, flowFill_of_resident hf hspill, copy_found hf hu hn honly]
    dsimp only
    rw [hfree, if_neg Bool.false_ne_true, if_pos htries]
  obtain ⟨bs, hfail⟩ := flowFail_ends ho hact hgrad hcommit hwaits
  have hflow : flow (flowLost s chip c.val) chip c.val = some { f with unacked := [] } :=
    (flow_flowUpdate (by exact fun _ => ⟨rfl, rfl⟩)).trans (congrArg _ hf)
  have hopen : o.isDone = false := by simp [Op.isDone, hact]
  have hended : Ended s (withBelfries { flowLost s chip c.val with ops := [doneOp o .timeout] } bs) o .timeout := by
    rw [Ended, ho.1, List.map_singleton, if_pos ⟨rfl, hopen⟩]
    rfl
  have hwaiting : Waits (flowLost s chip c.val) 4 (0x300 + (drawFree s).1 % 2) 0x14 := waits_raiseFault ..
  have hunit : Waits (flowLost s chip c.val) 4 0x300 0x14 ∨ Waits (flowLost s chip c.val) 4 0x301 0x14 := by
    rcases Nat.mod_two_eq_zero_or_one (drawFree s).1 with hgallery | hgallery
    · exact .inl (by rwa [hgallery] at hwaiting)
    · exact .inr (by rwa [hgallery] at hwaiting)
  exact ⟨_, hrun.trans (congrArg _ hfail), hflow, hended, hunit, rfl, rfl⟩

/-! ### Acknowledgements owed -/

theorem galleryOf_of_portLinks {port l : Nat} (h : l ∈ portLinks s port) : galleryOf l < 2 := by
  have hl : l < 96 := List.mem_range.mp (List.mem_filter.mp h).1
  rw [galleryOf]
  omega

theorem sourceGallery_lt_two (s : State) (h : PktHdr) : sourceGallery s h < 2 := by
  unfold sourceGallery
  split
  next port rf _ =>
    cases hpick : portPick s port (vlOf { h with rflags := rf }) with
    | some l => exact galleryOf_of_portLinks (portPick_mem hpick)
    | none =>
      cases hhead : (portLinks s port).head? with
      | none => exact (by decide : (0 : Nat) < 2)
      | some l => exact galleryOf_of_portLinks (List.mem_of_head? hhead)
  next => exact (by decide : (0 : Nat) < 2)

/-- A packet that its flow has room for is numbered, and a copy of it kept. -/
theorem sendNumbered_of_room {t : State} {h : PktHdr} {pay : Payload} {p : Packet} (hopen : openFlow s h.dst (classOf h.kind) = some t)
    (hf : flow t h.dst (classOf h.kind) = some f) (hspill : f.spill = none) (hroom : noRoom t f h = false)
    (hp : { hdr := { h with fseq := f.next }, pay := pay } = p) :
    sendNumbered s h pay = launch (flowUpdate t h.dst (classOf h.kind) (numberNext p (sourceGallery t h))) p := by
  subst hp
  simp only [sendNumbered, hopen, hf, hspill, hroom, Option.isSome_none, Bool.or_self, Bool.false_eq_true, if_false]
  rfl

/-- An acknowledgement of all that a flow has received, once it leaves this device, leaves none owed. -/
theorem leaveSource_ack {l : Nat} {p : Packet} (hk : p.hdr.kind = 8) (hf : flow s p.hdr.dst p.hdr.tag = some f)
    (htells : tellsAll f p = true) :
    ∃ g, flow (leaveSource s l p) p.hdr.dst p.hdr.tag = some g ∧ g.base = f.base ∧ g.got = f.got ∧ g.ackOwed = false := by
  have hcls : classOf p.hdr.kind = 0 := by rw [hk]; rfl
  unfold leaveSource
  dsimp only
  rw [hcls, if_neg (by decide), if_pos hk]
  generalize hs' : flowUpdate s p.hdr.dst p.hdr.tag (fun f => { f with ackOwed := f.ackOwed && !tellsAll f p }) = s'
  have hcleared : flow s' p.hdr.dst p.hdr.tag = some { f with ackOwed := false } := by
    rw [← hs', flow_flowUpdate (by exact fun _ => ⟨rfl, rfl⟩), hf, Option.map_some, htells, Bool.not_true, Bool.and_false]
  by_cases hown : p.hdr.dst = p.hdr.dst ∧ p.hdr.tag = 0
  · obtain ⟨-, hzero⟩ := hown
    rw [hzero] at hcleared ⊢
    rw [flow_flowUpdate (by exact fun _ => ⟨rfl, rfl⟩), hcleared]
    exact ⟨_, rfl, rfl, rfl, rfl⟩
  · rw [flow_flowUpdate_other (by exact fun _ => ⟨rfl, rfl⟩) hown, hcleared]
    exact ⟨_, rfl, rfl, rfl, rfl⟩

theorem takeSlots_sent {t : State} {port : Nat} {h : PktHdr} (ht : takeSlots s port h = some t) : t.fab.sent = s.fab.sent := by
  unfold takeSlots tryBurst at ht
  dsimp only at ht
  split at ht
  · exact nomatch ht
  split at ht
  · split at ht
    · exact nomatch ht
    · obtain rfl := Option.some.inj ht
      rfl
  · obtain rfl := Option.some.inj ht
    rfl

/-- The acknowledgement is owed until it has gone. -/
theorem Posted.owed {t : State} {p : Packet} (h : Posted s t p) (hk : p.hdr.kind = 8) (hf : flow s p.hdr.dst p.hdr.tag = some f)
    (howed : f.ackOwed = true) (htells : tellsAll f p = true) :
    ∃ g, flow t p.hdr.dst p.hdr.tag = some g ∧ g.base = f.base ∧ g.got = f.got ∧
      (t.fab.sent = s.fab.sent → g.ackOwed = true) ∧ (t.fab.sent ≠ s.fab.sent → g.ackOwed = false) := by
  rcases h with ⟨w, -, rfl⟩ | ⟨port, rf, l, v, w, hv, rfl⟩
  · exact ⟨f, hf, rfl, rfl, fun _ => howed, fun hne => absurd rfl hne⟩
  · obtain ⟨-, -, hflows⟩ := takeSlots_keeps hv
    have hfound : flow v (p.flagged rf).hdr.dst (p.flagged rf).hdr.tag = some f := by rw [flow, hflows]; exact hf
    obtain ⟨g, hg, hbase, hgot, hgone⟩ := leaveSource_ack (l := l) (p := p.flagged rf) hk hfound htells
    refine ⟨g, hg, hbase, hgot, fun hsame => ?_, fun _ => hgone⟩
    have hlonger : (leaveSource v l (p.flagged rf)).fab.sent ++ [(some l, p.flagged rf)] = s.fab.sent := hsame
    have hleft : (leaveSource v l (p.flagged rf)).fab.sent = v.fab.sent := by
      unfold leaveSource
      dsimp only
      split <;> rfl
    rw [hleft, takeSlots_sent hv] at hlonger
    exact absurd hlonger (by simp)

end

end Sys2Proof.Machine
end

section
/-! PROOFS. The acknowledgement timer (spec/12 R301), and end-to-end flows and machine time together. -/

namespace Sys2Proof.Machine

section
variable {s : State} {chip : Nat} {c : Fin 3} {f : Flow}

theorem flowAckTimer_idle (hf : flow s chip c.val = some f) (hspill : f.spill = none) (howed : f.ackOwed = false) :
    exec (.flowAckTimer chip c) s = .next s := by
  rw [exec_flowAckTimer, flowAck, flowFill_of_resident hf hspill, hf]
  dsimp only
  rw [howed, Bool.not_false, if_pos rfl]

theorem flow_absent (h : flow s chip c.val = none) (n : Nat) : exec (.flowRetransmit chip c n) s = .next s ∧
    exec (.flowAckTimer chip c) s = .next s ∧ exec (.flowContextFill chip c) s = .next s := by
  rw [exec_flowRetransmit, exec_flowAckTimer, exec_flowContextFill, flowRetransmit, flowAck, flowFill_of_none h, h]
  exact ⟨rfl, rfl, rfl⟩

/-- The header of a flow's acknowledgement. -/
def ackHead (s : State) (chip cls : Nat) : PktHdr := ackHdr s (mkHdr s chip 8 0 cls 128 0)

/-- Room for one packet of a class: a resident flow, old or new, that has a number and a copy's place for an acknowledgement. -/
theorem RoomTo.opens {cls : Nat} (h : RoomTo s chip cls 1) :
    ∃ t g, openFlow s chip cls = some t ∧ FlowsOnly s t ∧ flow t chip cls = some g ∧
      (∀ c k, ¬(c = chip ∧ k = cls) → flow t c k = flow s c k) ∧ (∀ f, flow s chip cls = some f → g = f) ∧ g.spill = none ∧
      ∀ x : PktHdr, x.len = 128 → noRoom t g x = false := by
  obtain ⟨-, hlen, hres, hopens, hstore⟩ := h
  obtain ⟨t, hopen, honly, hfound, hothers, hused⟩ := openFlow_room hopens
  have hkept : ((flow s chip cls).getD { chip := chip, cls := cls }).spill = none ∧
      ((flow s chip cls).getD { chip := chip, cls := cls }).unacked.length < 1024 := by
    cases hf : flow s chip cls with
    | none => exact ⟨rfl, (by decide : (0 : Nat) < 1024)⟩
    | some f =>
      rw [hf] at hlen hres
      exact ⟨Option.isNone_iff_eq_none.mp hres, hlen⟩
  obtain ⟨hspill, hcopies⟩ := hkept
  refine ⟨t, _, hopen, honly, hfound, hothers, fun f hf => by rw [hf]; rfl, hspill, fun x hx => ?_⟩
  have hplace := hstore _ (sourceGallery_lt_two t x)
  rw [noRoom, hused, hx, decide_eq_false (Nat.not_le.mpr hcopies), Bool.false_or]
  exact decide_eq_false (by omega)

/-- With room for it, an acknowledgement is numbered in the flow of class 0 and on its way; what its own flow has received is as
before. -/
theorem ackSent_posted (hf : flow s chip c.val = some f) (hroom : RoomTo s chip 0 1) (hreach : Reaches s chip 8)
    (pay : Payload) : ∃ u g f' n, FlowsOnly s u ∧
      Posted u (sendNumbered s (ackHead s chip c.val) pay) { hdr := { ackHead s chip c.val with fseq := n }, pay := pay } ∧
      flow u chip 0 = some g ∧
      (∃ v ∈ g.unacked, v.pkt = { hdr := { ackHead s chip c.val with fseq := n }, pay := pay }) ∧
      flow u chip c.val = some f' ∧ f'.base = f.base ∧ f'.got = f.got ∧ f'.ackOwed = f.ackOwed := by
  obtain ⟨t, g, hopen, honly, hfound, hothers, hold, hresident, hfits⟩ := hroom.opens
  generalize hp : ({ hdr := { ackHead s chip c.val with fseq := g.next }, pay := pay } : Packet) = p
  have hsend := sendNumbered_of_room (h := ackHead s chip c.val) (s := s) hopen hfound hresident (hfits _ rfl) hp
  generalize hu : flowUpdate t (ackHead s chip c.val).dst (classOf (ackHead s chip c.val).kind)
    (numberNext p (sourceGallery t (ackHead s chip c.val))) = u at hsend
  have hkept : FlowsOnly s u := hu ▸ honly.trans (flowUpdate_flowsOnly ..)
  have hnumbered : flow u chip 0 = some (numberNext p (sourceGallery t (ackHead s chip c.val)) g) := by
    rw [← hu]
    exact (flow_flowUpdate (by exact fun _ => ⟨rfl, rfl⟩)).trans (congrArg _ hfound)
  have hwindow : ∃ f', flow u chip c.val = some f' ∧ f'.base = f.base ∧ f'.got = f.got ∧ f'.ackOwed = f.ackOwed := by
    by_cases hown : chip = chip ∧ c.val = 0
    · rw [hown.2] at hf
      rw [hown.2, ← hold f hf]
      exact ⟨_, hnumbered, rfl, rfl, rfl⟩
    · refine ⟨f, ?_, rfl, rfl, rfl⟩
      rw [← hu]
      exact (flow_flowUpdate_other (by exact fun _ => ⟨rfl, rfl⟩) hown).trans ((hothers _ _ hown).trans hf)
  obtain ⟨f', hf', hsame⟩ := hwindow
  obtain ⟨hdst, hsrc, hflags, hstamp⟩ :
      p.hdr.dst = chip ∧ p.hdr.src = ownChip s ∧ p.hdr.rflags = 0 ∧ p.hdr.stamp = stampNow s := by
    rw [← hp]
    exact ⟨rfl, rfl, rfl, rfl⟩
  have halike := hreach.alike hkept.routes
  obtain ⟨hhere, hdrop⟩ := halike.hop hdst (hsrc.trans hkept.routes.ownChip.symm) hflags
  have hlife : expired u p.hdr = false := expired_of_now (hstamp.trans hkept.stamp.symm)
  obtain ⟨hchip, hself, -⟩ := halike
  have hposted := launch_posted (by rw [hdst]; exact hself) (by rw [hdst]; exact hchip) hlife hhere hdrop
  rw [← hsend, ← hp] at hposted
  exact ⟨u, _, f', g.next, hkept, hposted, hnumbered,
    ⟨_, List.mem_append_right _ (List.mem_singleton_self _), hp.symm⟩, hf', hsame⟩

theorem flowAckTimer_sends (hf : flow s chip c.val = some f) (hspill : f.spill = none) (howed : f.ackOwed = true)
    (hroom : RoomTo s chip 0 1) (hreach : Reaches s chip 8) :
    ∃ t g, exec (.flowAckTimer chip c) s = .next t ∧ Sends t chip 0 8 0 (.e2eAck (windowBitmap f)) ∧
      Leaves t chip 8 c.val (.e2eAck (windowBitmap f)) ∧ flow t chip c.val = some g ∧ g.base = f.base ∧ g.got = f.got ∧
      (t.fab.sent = s.fab.sent → g.ackOwed = true) ∧ (t.fab.sent ≠ s.fab.sent → g.ackOwed = false) ∧ t.mem = s.mem ∧
      t.regs = s.regs := by
  have hrun : exec (.flowAckTimer chip c) s =
      .next (sendNumbered s (ackHead s chip c.val) (.e2eAck (windowBitmap f))) := by
    rw [exec_flowAckTimer, flowAck, flowFill_of_resident hf hspill, hf]
    dsimp only
    rw [howed, Bool.not_true, if_neg Bool.false_ne_true]
    rfl
  obtain ⟨u, g, f', n, hkept, hposted, hg, ⟨v, hv, hpkt⟩, hf', hbase, hgot, hstill⟩ :=
    ackSent_posted hf hroom hreach (.e2eAck (windowBitmap f))
  have htells : tellsAll f' { hdr := { ackHead s chip c.val with fseq := n }, pay := .e2eAck (windowBitmap f) } = true := by
    have hpack : (ackHead s chip c.val).pack = f.base % 2 ^ 32 := by
      show packFor s chip c.val = _
      rw [packFor, hf]
    simp only [tellsAll, hpack, hbase, windowBitmap, hgot, beq_self_eq_true, Bool.and_true]
  obtain ⟨x, hx, hxbase, hxgot, hwaiting, hgone⟩ := hposted.owed rfl hf' (hstill.trans howed) htells
  obtain ⟨y, hy, hcopies⟩ := hposted.ships.flowStill hg
  obtain ⟨w, hw, hwpkt, -⟩ := still_copy hcopies hv
  rw [hpkt] at hwpkt
  rw [hkept.sent] at hwaiting hgone
  refine ⟨_, x, hrun, ⟨y, hy, w, hw, ?_⟩, hposted.leaves, hx, hxbase.trans hbase, hxgot.trans hgot, hwaiting, hgone,
    hposted.ships.mem.trans hkept.mem, hposted.regs.trans hkept.regs⟩
  rw [hwpkt]
  exact ⟨rfl, rfl, rfl, rfl⟩

end

theorem timeSyncInterval_idle {s : State} (hl : isLeader s = false)
    (h : jobId s ≠ 0 ∨ s.time.leaders ≠ [] ∨ s.fin.ready = false) : exec .timeSyncInterval s = .next s := by
  have hasks : ¬(jobId s = 0 ∧ s.time.leaders.isEmpty = true ∧ s.fin.ready = true) := by
    rintro ⟨hjob, hnone, hready⟩
    rcases h with hj | hheard | hnot
    · exact hj hjob
    · exact hheard (List.isEmpty_iff.mp hnone)
    · exact absurd (hnot.symm.trans hready) Bool.false_ne_true
  rw [exec_timeSyncInterval, syncInterval, isRoot_of_follower hl, hl, if_neg Bool.false_ne_true, if_neg Bool.false_ne_true,
    alignAsk, if_neg hasks]

theorem timeStale_stays {s : State} (h : s.time.stale = true ∨ s.time.keep < s.time.lastSync + 15625000) :
    exec .timeStale s = .next s := by
  have hstays : (!s.time.stale && decide (s.time.keep ≥ s.time.lastSync + staleAfter)) = false := by
    rcases h with hstale | hrecent
    · rw [hstale, Bool.not_true, Bool.false_and]
    · have hearly : ¬s.time.keep ≥ s.time.lastSync + staleAfter := Nat.not_le.mpr hrecent
      rw [decide_eq_false hearly, Bool.and_false]
  rw [exec_timeStale, hstays, if_neg Bool.false_ne_true]

/-- Settles O54: flows by what each packet, timer and context changes of the one flow (releases, copies, windows), machine time by what a
stamp may be and what a broadcast leaves. -/
theorem flowsAndTime : Obligations.FlowsAndTime := by
  unfold Obligations.FlowsAndTime
  refine ⟨⟨?_, ?_, ?_, ?_, ?_, ?_, ?_, ?_, ?_, ?_⟩, ?_, ?_, ?_, ?_, ?_, ?_, ?_, ?_, ?_, ?_⟩
  · intro s l h bm f hw hn htag hf hspill hheld hans
    exact e2eAck_covered hw hn htag hf hspill hheld hans
  · intro s l h bm f u n hw hn htag hf hspill hheld hone hbelow hans hseq hbase hfresh
    exact e2eAck_answer hw hn htag hf hspill hheld hone hbelow hans hseq hbase hfresh
  · intro s chip n c f u hf hspill hu hn honly htries hfree
    exact flowRetransmit_sends hf hspill hu hn honly htries hfree
  · intro s chip n c f hf hspill h
    exact flowRetransmit_waits hf hspill h
  · intro s chip n c f u o ho hact hgrad hcommit hwaits hf hspill hu hn honly htries hfree
    exact flowRetransmit_fails ho hact hgrad hcommit hwaits hf hspill hu hn honly htries hfree
  · intro s chip n c h
    exact flow_absent h n
  · intro s chip c f hf hspill howed hroom hreach
    exact flowAckTimer_sends hf hspill howed hroom hreach
  · intro s chip c f hf hspill howed
    exact flowAckTimer_idle hf hspill howed
  · intro s chip c f hf hspill hroom hheld
    exact flowContextFill_back hf hspill hroom hheld
  · intro s chip c f hf hspill
    rw [exec_flowContextFill, flowFill_of_resident hf hspill]
  · intro s l h t1 hw hh hr
    exact timeSync_request hw hh hr t1
  · intro s l h t1 t2 t3 hw hh hl hj
    exact timeSync_aligns hw hh hl hj t1 t2 t3
  · intro s l h t1 t2 t3 hw hh hl hroot
    exact timeSync_spreads hw hh hl hroot t1 t2 t3
  · intro s l h off n d hw hh hl hlow
    exact timeSync_follows hw hh hl hlow off n d
  · intro s h
    exact timeSyncInterval_root h
  · intro s q hl hroot hq
    exact timeSyncInterval_leader hl hroot hq
  · intro s hl h
    exact timeSyncInterval_idle hl h
  · intro s chip hl hj hnone hready hchip
    exact timeSyncInterval_asks hl hj hnone hready hchip
  · intro s hfresh hold
    exact timeStale_sets hfresh hold
  · intro s h
    exact timeStale_stays h

end Sys2Proof.Machine
end
